-- ==== Sys2Proof/Word.lean ====
section
/-! DEFINITION. The word types of the VL880 and their plainest arithmetic (R2, R14).

Everything the manual treats as bits is a bit vector of the exact width; addresses used as keys of a memory are
natural numbers. -/

namespace Sys2Proof

/-- One byte of memory. -/
abbrev Byte := BitVec 8

/-- A 32-bit parcel or extension word (R27). -/
abbrev Parcel := BitVec 32

/-- A 64-bit register value (an `x` register). -/
abbrev Word := BitVec 64

/-- An 80-bit virtual address (an `a` register or the program counter). -/
abbrev Addr := BitVec 80

/-- A byte address of physical storage, as a key. -/
abbrev PAddr := Nat

/-- Sign extension to 64 bits. -/
def sext64 {n : Nat} (b : BitVec n) : Word := b.signExtend 64

/-- Zero extension to 64 bits. -/
def zext64 {n : Nat} (b : BitVec n) : Word := b.setWidth 64

/-- Sign extension to an 80-bit address offset. -/
def sext80 {n : Nat} (b : BitVec n) : Addr := b.signExtend 80

/-- A Boolean as a 0/1 word. -/
def boolWord (b : Bool) : Word := if b then 1 else 0

end Sys2Proof
end

