-- ==== Sys2Proof/Syntax.lean ====
section
/-! DEFINITION. The instructions and machine steps of the VL880: the names of agents, the qualifier word, and the one
inductive `Instr` with one constructor per row of the opcode table (core instructions, element operations, and the
steps of the machine that are not instructions). -/

namespace Sys2Proof

/-- A tile by quadrant and logical index `8 y + x` over the 72 physical positions (R12). -/
structure TileId where
  quad : BitVec 2
  idx  : BitVec 7
  deriving DecidableEq, Repr

/-- A core that issues core instructions: a tile's scalar core, or a quadrant's control core (R16). -/
inductive CoreId where
  | tile (t : TileId)
  | control (q : BitVec 2)
  deriving DecidableEq, Repr

/-- A strand: a core and one of its eight slots (R83). -/
structure StrandId where
  core : CoreId
  slot : BitVec 3
  deriving DecidableEq, Repr

/-- A fabric element: its tile and its number `16 j + i` (R324). -/
structure ElemId where
  tile : TileId
  idx  : BitVec 8
  deriving DecidableEq, Repr

/-- The qualifier word Q32 of a scalar access (R36): bits 31 to 7 are zero and are no field. -/
structure Qual where
  scope : BitVec 3
  kind  : BitVec 2
  fe    : BitVec 2
  deriving DecidableEq, Repr

/-- The purpose of an access, as translation sees it (R396 to R398). -/
inductive Access where
  | read | write | fetch
  deriving DecidableEq, Repr

/-- A request of a coherent CXL agent (R266): read, write, or an atomic reservation-free read for ownership. -/
inductive BusOp where
  | read (addr : Nat) (len : Nat)
  | write (addr : Nat) (bytes : List Byte)
  deriving DecidableEq, Repr

/-- The base address registers of the device's configuration space (R420). -/
inductive Bar where
  | bar0 | bar2 | bar4
  deriving DecidableEq, Repr

/-- Where an uncorrectable error is detected (R393). -/
inductive ErrorSite where
  | memoryLine (line : Nat)
  | tmemLine (t : TileId) (line : Nat)
  | omLine (t : TileId) (line : Nat)
  | strandLocal (i : StrandId)
  | tileEngine (t : TileId)
  | unattributed (quad : BitVec 2) (unit : BitVec 8)
  deriving DecidableEq, Repr

/-- The instructions and machine steps, one constructor per row of the opcode table. -/
inductive Instr where
  /-- ADD (R96). Writes xS + xT modulo 2^64 to xD. -/
  | add (d s t : BitVec 5)
  /-- SUB (R96). Writes xS - xT modulo 2^64 to xD. -/
  | sub (d s t : BitVec 5)
  /-- AND (R96). Writes the bitwise AND of xS and xT to xD. -/
  | and (d s t : BitVec 5)
  /-- OR (R96). Writes the bitwise OR of xS and xT to xD. -/
  | or (d s t : BitVec 5)
  /-- XOR (R96). Writes the bitwise exclusive OR of xS and xT to xD. -/
  | xor (d s t : BitVec 5)
  /-- SLL (R96). Shifts xS left by bits 5-0 of xT. -/
  | sll (d s t : BitVec 5)
  /-- SRL (R96). Shifts xS right logically by bits 5-0 of xT. -/
  | srl (d s t : BitVec 5)
  /-- SRA (R96). Shifts xS right arithmetically by bits 5-0 of xT. -/
  | sra (d s t : BitVec 5)
  /-- SLT (R96). Writes 1 to xD if xS < xT as signed values, otherwise 0. -/
  | slt (d s t : BitVec 5)
  /-- SLTU (R96). Writes 1 to xD if xS < xT as unsigned values, otherwise 0. -/
  | sltu (d s t : BitVec 5)
  /-- MIN (R96). Writes the signed minimum of xS and xT to xD. -/
  | min (d s t : BitVec 5)
  /-- MAX (R96). Writes the signed maximum of xS and xT to xD. -/
  | max (d s t : BitVec 5)
  /-- MINU (R96). Writes the unsigned minimum of xS and xT to xD. -/
  | minu (d s t : BitVec 5)
  /-- MAXU (R96). Writes the unsigned maximum of xS and xT to xD. -/
  | maxu (d s t : BitVec 5)
  /-- MUL (R96). Writes the low 64 bits of xS times xT to xD. -/
  | mul (d s t : BitVec 5)
  /-- MULH (R96). Writes the high 64 bits of the signed 128-bit product to xD. -/
  | mulh (d s t : BitVec 5)
  /-- MULHU (R96). Writes the high 64 bits of the unsigned 128-bit product to xD. -/
  | mulhu (d s t : BitVec 5)
  /-- DIV (R97). Performs signed division truncated toward zero, saturating and never trapping. -/
  | div (d s t : BitVec 5)
  /-- DIVU (R97). Performs unsigned division, saturating on a zero divisor. -/
  | divu (d s t : BitVec 5)
  /-- REM (R97). Writes the signed remainder, which takes the sign of the dividend, to xD. -/
  | rem (d s t : BitVec 5)
  /-- REMU (R97). Writes the unsigned remainder to xD. -/
  | remu (d s t : BitVec 5)
  /-- ADD32 (R96). Writes the low 32 bits of xS + xT to xD, sign-extended. -/
  | add32 (d s t : BitVec 5)
  /-- SUB32 (R96). Writes the low 32 bits of xS - xT to xD, sign-extended. -/
  | sub32 (d s t : BitVec 5)
  /-- CLZ (R96). Counts the leading zero bits of xS. -/
  | clz (d s : BitVec 5)
  /-- CTZ (R96). Counts the trailing zero bits of xS. -/
  | ctz (d s : BitVec 5)
  /-- POPC (R96). Counts the one bits of xS. -/
  | popc (d s : BitVec 5)
  /-- SXB (R96). Sign-extends bits 7-0 of xS into xD. -/
  | sxb (d s : BitVec 5)
  /-- SXH (R96). Sign-extends bits 15-0 of xS into xD. -/
  | sxh (d s : BitVec 5)
  /-- SXW (R96). Sign-extends bits 31-0 of xS into xD. -/
  | sxw (d s : BitVec 5)
  /-- ZXW (R96). Zero-extends bits 31-0 of xS into xD. -/
  | zxw (d s : BitVec 5)
  /-- ADDI (R98). Adds the sign-extended IMM14 to xS. -/
  | addi (d s : BitVec 5) (i : BitVec 14)
  /-- ADDI_IMM32 (R98). Two-parcel ADDI that adds the sign-extended IMM32 from parcel 1. -/
  | addiImm32 (d s : BitVec 5) (i : BitVec 32)
  /-- ANDI (R98). ANDs xS with the sign-extended IMM12. -/
  | andi (d s : BitVec 5) (i : BitVec 12)
  /-- ORI (R98). ORs xS with the sign-extended IMM12. -/
  | ori (d s : BitVec 5) (i : BitVec 12)
  /-- XORI (R98). Exclusive-ORs xS with the sign-extended IMM12. -/
  | xori (d s : BitVec 5) (i : BitVec 12)
  /-- ANDI_IMM32 (R98). Two-parcel ANDI that uses IMM32. -/
  | andiImm32 (d s : BitVec 5) (i : BitVec 32)
  /-- ORI_IMM32 (R98). Two-parcel ORI that uses IMM32. -/
  | oriImm32 (d s : BitVec 5) (i : BitVec 32)
  /-- XORI_IMM32 (R98). Two-parcel XORI that uses IMM32. -/
  | xoriImm32 (d s : BitVec 5) (i : BitVec 32)
  /-- SLLI (R98). Shifts xS left by SHAMT. -/
  | slli (d s : BitVec 5) (h : BitVec 6)
  /-- SRLI (R98). Shifts xS right logically by SHAMT. -/
  | srli (d s : BitVec 5) (h : BitVec 6)
  /-- SRAI (R98). Shifts xS right arithmetically by SHAMT. -/
  | srai (d s : BitVec 5) (h : BitVec 6)
  /-- LUI (R98). Writes the sign extension of IMM19 times 2^13 to xD. -/
  | lui (d : BitVec 5) (i : BitVec 19)
  /-- LIW (R98). Two-parcel load of the sign-extended IMM32 into xD. -/
  | liw (d : BitVec 5) (i : BitVec 32)
  /-- LIQ (R98). Three-parcel load of IMM64 into xD. -/
  | liq (d : BitVec 5) (i : BitVec 64)
  /-- FADD_S (R99). FP32 add, rounded by fcsr.FRM. -/
  | faddS (d s t : BitVec 5)
  /-- FSUB_S (R99). FP32 subtract. -/
  | fsubS (d s t : BitVec 5)
  /-- FMUL_S (R99). FP32 multiply. -/
  | fmulS (d s t : BitVec 5)
  /-- FDIV_S (R99). FP32 divide on the shared divider. -/
  | fdivS (d s t : BitVec 5)
  /-- FSQRT_S (R99). FP32 square root. -/
  | fsqrtS (d s : BitVec 5)
  /-- FMIN_S (R100). FP32 minimum, with -0 ordered below +0. -/
  | fminS (d s t : BitVec 5)
  /-- FMAX_S (R100). FP32 maximum. -/
  | fmaxS (d s t : BitVec 5)
  /-- FMA_S (R99). FP32 s*t+d, rounded once. -/
  | fmaS (d s t : BitVec 5)
  /-- FNMA_S (R99). FP32 -(s*t)+d, rounded once. -/
  | fnmaS (d s t : BitVec 5)
  /-- FADD_D (R99). FP64 add. -/
  | faddD (d s t : BitVec 5)
  /-- FSUB_D (R99). FP64 subtract. -/
  | fsubD (d s t : BitVec 5)
  /-- FMUL_D (R99). FP64 multiply. -/
  | fmulD (d s t : BitVec 5)
  /-- FDIV_D (R99). FP64 divide. -/
  | fdivD (d s t : BitVec 5)
  /-- FSQRT_D (R99). FP64 square root. -/
  | fsqrtD (d s : BitVec 5)
  /-- FMIN_D (R100). FP64 minimum. -/
  | fminD (d s t : BitVec 5)
  /-- FMAX_D (R100). FP64 maximum. -/
  | fmaxD (d s t : BitVec 5)
  /-- FMA_D (R99). FP64 fused multiply-add. -/
  | fmaD (d s t : BitVec 5)
  /-- FNMA_D (R99). FP64 negated fused multiply-add. -/
  | fnmaD (d s t : BitVec 5)
  /-- FEQ_S (R101). FP32 equality compare into xD. -/
  | feqS (d s t : BitVec 5)
  /-- FLT_S (R101). FP32 less-than compare. -/
  | fltS (d s t : BitVec 5)
  /-- FLE_S (R101). FP32 less-or-equal compare. -/
  | fleS (d s t : BitVec 5)
  /-- FCLASS_S (R101). Writes the 4-bit class code of an FP32 value. -/
  | fclassS (d s : BitVec 5)
  /-- FEQ_D (R101). FP64 equality compare. -/
  | feqD (d s t : BitVec 5)
  /-- FLT_D (R101). FP64 less-than compare. -/
  | fltD (d s t : BitVec 5)
  /-- FLE_D (R101). FP64 less-or-equal compare. -/
  | fleD (d s t : BitVec 5)
  /-- FCLASS_D (R101). Writes the class code of an FP64 value. -/
  | fclassD (d s : BitVec 5)
  /-- FCVT (R77). Scalar conversion between format tags, by R72 to R75. -/
  | fcvt (d s : BitVec 5) (a b : BitVec 4) (t : BitVec 5)
  /-- AADD (R102). aD := aS + sext(xT) modulo 2^80. -/
  | aadd (d s : BitVec 4) (t : BitVec 5)
  /-- ASUB (R102). aD := aS - sext(xT). -/
  | asub (d s : BitVec 4) (t : BitVec 5)
  /-- ADIFF (R102). xD := low 64 bits of aS - aT. -/
  | adiff (d : BitVec 5) (s t : BitVec 4)
  /-- AMOV (R102). Copies aS to aD. -/
  | amov (d s : BitVec 4)
  /-- AFROMX (R102). aD := xS zero-extended to 80 bits. -/
  | afromx (d : BitVec 4) (s : BitVec 5)
  /-- ATOX (R102). xD := bits 63-0 of aS. -/
  | atox (d : BitVec 5) (s : BitVec 4)
  /-- AADDI (R103). Adds the sign-extended IMM14 bytes to aS. -/
  | aaddi (d s : BitVec 4) (i : BitVec 14)
  /-- AADDI_IMM32 (R103). Two-parcel AADDI with IMM32. -/
  | aaddiImm32 (d s : BitVec 4) (i : BitVec 32)
  /-- AHI (R103). Writes IMM16 to bits 79-64 of aD. -/
  | ahi (d : BitVec 4) (i : BitVec 16)
  /-- BEQ (R104). Branches if xS = xT. -/
  | beq (s t : BitVec 5) (o : BitVec 10)
  /-- BNE (R104). Branches if xS != xT. -/
  | bne (s t : BitVec 5) (o : BitVec 10)
  /-- BLT (R104). Branches if xS < xT as signed values. -/
  | blt (s t : BitVec 5) (o : BitVec 10)
  /-- BGE (R104). Branches if xS >= xT as signed values. -/
  | bge (s t : BitVec 5) (o : BitVec 10)
  /-- BLTU (R104). Branches if xS < xT as unsigned values. -/
  | bltu (s t : BitVec 5) (o : BitVec 10)
  /-- BGEU (R104). Branches if xS >= xT as unsigned values. -/
  | bgeu (s t : BitVec 5) (o : BitVec 10)
  /-- BAEQ (R104). Branches if aS = aT. -/
  | baeq (s t : BitVec 4) (o : BitVec 10)
  /-- BANE (R104). Branches if aS != aT. -/
  | bane (s t : BitVec 4) (o : BitVec 10)
  /-- BALTU (R104). Branches if aS < aT as unsigned values. -/
  | baltu (s t : BitVec 4) (o : BitVec 10)
  /-- BAGEU (R104). Branches if aS >= aT as unsigned values. -/
  | bageu (s t : BitVec 4) (o : BitVec 10)
  /-- BEQ_OFF32 (R104). Two-parcel BEQ with OFF32. -/
  | beqOff32 (s t : BitVec 5) (o : BitVec 32)
  /-- BNE_OFF32 (R104). Two-parcel BNE with OFF32. -/
  | bneOff32 (s t : BitVec 5) (o : BitVec 32)
  /-- BLT_OFF32 (R104). Two-parcel BLT with OFF32. -/
  | bltOff32 (s t : BitVec 5) (o : BitVec 32)
  /-- BGE_OFF32 (R104). Two-parcel BGE with OFF32. -/
  | bgeOff32 (s t : BitVec 5) (o : BitVec 32)
  /-- BLTU_OFF32 (R104). Two-parcel BLTU with OFF32. -/
  | bltuOff32 (s t : BitVec 5) (o : BitVec 32)
  /-- BGEU_OFF32 (R104). Two-parcel BGEU with OFF32. -/
  | bgeuOff32 (s t : BitVec 5) (o : BitVec 32)
  /-- BAEQ_OFF32 (R104). Two-parcel BAEQ with OFF32. -/
  | baeqOff32 (s t : BitVec 4) (o : BitVec 32)
  /-- BANE_OFF32 (R104). Two-parcel BANE with OFF32. -/
  | baneOff32 (s t : BitVec 4) (o : BitVec 32)
  /-- BALTU_OFF32 (R104). Two-parcel BALTU with OFF32. -/
  | baltuOff32 (s t : BitVec 4) (o : BitVec 32)
  /-- BAGEU_OFF32 (R104). Two-parcel BAGEU with OFF32. -/
  | bageuOff32 (s t : BitVec 4) (o : BitVec 32)
  /-- JAL (R106). Links in aD and jumps by IMM19 times 4. -/
  | jal (d : BitVec 4) (i : BitVec 19)
  /-- JAL_OFF32 (R106). Two-parcel JAL with OFF32. -/
  | jalOff32 (d : BitVec 4) (i : BitVec 32)
  /-- JALR (R106). Jumps to aS + 4*sext(IMM14) and links in aD. -/
  | jalr (d s : BitVec 4) (i : BitVec 14)
  /-- LB (R107). Loads a sign-extended byte. -/
  | lb (d : BitVec 5) (a : BitVec 4) (o : BitVec 12)
  /-- LBU (R107). Loads a zero-extended byte. -/
  | lbu (d : BitVec 5) (a : BitVec 4) (o : BitVec 12)
  /-- LH (R107). Loads a sign-extended halfword. -/
  | lh (d : BitVec 5) (a : BitVec 4) (o : BitVec 12)
  /-- LHU (R107). Loads a zero-extended halfword. -/
  | lhu (d : BitVec 5) (a : BitVec 4) (o : BitVec 12)
  /-- LW (R107). Loads a sign-extended word. -/
  | lw (d : BitVec 5) (a : BitVec 4) (o : BitVec 12)
  /-- LWU (R107). Loads a zero-extended word. -/
  | lwu (d : BitVec 5) (a : BitVec 4) (o : BitVec 12)
  /-- LD (R107). Loads a doubleword. -/
  | ld (d : BitVec 5) (a : BitVec 4) (o : BitVec 12)
  /-- SB (R108). Stores a byte through the store queue. -/
  | sb (d : BitVec 5) (a : BitVec 4) (o : BitVec 12)
  /-- SH (R108). Stores a halfword. -/
  | sh (d : BitVec 5) (a : BitVec 4) (o : BitVec 12)
  /-- SW (R108). Stores a word. -/
  | sw (d : BitVec 5) (a : BitVec 4) (o : BitVec 12)
  /-- SD (R108). Stores a doubleword. -/
  | sd (d : BitVec 5) (a : BitVec 4) (o : BitVec 12)
  /-- LB_Q32 (R107). Two-parcel LB with a Q32 qualifier word (full/empty, kind, scope). -/
  | lbQ32 (d : BitVec 5) (a : BitVec 4) (o : BitVec 12) (q : Qual)
  /-- LBU_Q32 (R107). Two-parcel LBU with Q32. -/
  | lbuQ32 (d : BitVec 5) (a : BitVec 4) (o : BitVec 12) (q : Qual)
  /-- LH_Q32 (R107). Two-parcel LH with Q32. -/
  | lhQ32 (d : BitVec 5) (a : BitVec 4) (o : BitVec 12) (q : Qual)
  /-- LHU_Q32 (R107). Two-parcel LHU with Q32. -/
  | lhuQ32 (d : BitVec 5) (a : BitVec 4) (o : BitVec 12) (q : Qual)
  /-- LW_Q32 (R107). Two-parcel LW with Q32. -/
  | lwQ32 (d : BitVec 5) (a : BitVec 4) (o : BitVec 12) (q : Qual)
  /-- LWU_Q32 (R107). Two-parcel LWU with Q32. -/
  | lwuQ32 (d : BitVec 5) (a : BitVec 4) (o : BitVec 12) (q : Qual)
  /-- LD_Q32 (R107). Two-parcel LD with Q32. -/
  | ldQ32 (d : BitVec 5) (a : BitVec 4) (o : BitVec 12) (q : Qual)
  /-- SB_Q32 (R108). Two-parcel SB with Q32. -/
  | sbQ32 (d : BitVec 5) (a : BitVec 4) (o : BitVec 12) (q : Qual)
  /-- SH_Q32 (R108). Two-parcel SH with Q32. -/
  | shQ32 (d : BitVec 5) (a : BitVec 4) (o : BitVec 12) (q : Qual)
  /-- SW_Q32 (R108). Two-parcel SW with Q32. -/
  | swQ32 (d : BitVec 5) (a : BitVec 4) (o : BitVec 12) (q : Qual)
  /-- SD_Q32 (R108). Two-parcel SD with Q32. -/
  | sdQ32 (d : BitVec 5) (a : BitVec 4) (o : BitVec 12) (q : Qual)
  /-- YIELD (R112). Gives up the greedy claim and renews the strand's age stamp. -/
  | yield
  /-- WAITLINE (R113). Blocks until the 8-byte word at aS differs from xT. -/
  | waitline (d : BitVec 5) (s : BitVec 4) (t : BitVec 5)
  /-- FORKL (R134). Reserves a Free slot and queues the split of the upper half of the lane group to a new strand. -/
  | forkl (d : BitVec 5) (s : BitVec 4)
  /-- JOINL (R135). Blocks until the child's slot is Free, then queues the reunion of the group. -/
  | joinl
  /-- EXIT (R115). Puts the strand into Exiting status. -/
  | exit
  /-- SYSRD (R384). Reads a system register into xD. -/
  | sysrd (d : BitVec 5) (r : BitVec 15)
  /-- SYSWR (R384). Writes xD to a system register, field by field under R4. -/
  | syswr (d : BitVec 5) (r : BitVec 15)
  /-- SYSSET (R384). ORs xD into the RW fields of a system register. -/
  | sysset (d : BitVec 5) (r : BitVec 15)
  /-- SYSCLR (R384). Clears the bits of xD in the RW fields of a system register. -/
  | sysclr (d : BitVec 5) (r : BitVec 15)
  /-- SYSXCH (R384). Exchanges xD with a system register. -/
  | sysxch (d : BitVec 5) (r : BitVec 15)
  /-- SCALL (R390). Takes a SYSCALL trap to the next level. -/
  | scall
  /-- TRET (R389). Waits for stores at .dv, then returns from a trap to the saved level and address. -/
  | tret
  /-- TLBIVA (R401). Invalidates every translation of one page for one ASID, and its global translations. -/
  | tlbiva (s : BitVec 4) (t : BitVec 5)
  /-- TLBIAS (R401). Invalidates the non-global translations of one ASID. -/
  | tlbias (t : BitVec 5)
  /-- TLBIALL (R401). Invalidates every translation of the device. -/
  | tlbiall
  /-- LEAVE (R403). Requests matrix leave in advance and reports whether the tile holds it. -/
  | leave (d : BitVec 5)
  /-- VSETL (R125). Grants a vector length of min(request, vlmax), rounded to whole blocks under SCL. -/
  | vsetl (d s : BitVec 5)
  /-- VSETCFG (R126). Installs a vector configuration and returns the old one. -/
  | vsetcfg (d s : BitVec 5)
  /-- VPART (R124). Checks lane-group descriptors and queues a repartition of the tile's lanes. -/
  | vpart (s : BitVec 5)
  /-- SBR (R133). Fused strip branch: decrements the count by vl, advances address registers and branches. -/
  | sbr (c : BitVec 5) (a0 a1 a2 a3 : BitVec 4) (n : BitVec 3) (sz : BitVec 8) (off : BitVec 24)
  /-- MAND (R132). Mask AND over elements vstart to vl-1. -/
  | mand (d s t : BitVec 3)
  /-- MOR (R132). Mask OR. -/
  | mor (d s t : BitVec 3)
  /-- MXOR (R132). Mask exclusive OR. -/
  | mxor (d s t : BitVec 3)
  /-- MANDN (R132). Mask AND-NOT. -/
  | mandn (d s t : BitVec 3)
  /-- MNOT (R132). Mask NOT. -/
  | mnot (d s : BitVec 3)
  /-- MSET (R132). Sets mask bits. -/
  | mset (d : BitVec 3)
  /-- MCLR (R132). Clears mask bits. -/
  | mclr (d : BitVec 3)
  /-- MPOPC (R132). Counts set mask bits into xD. -/
  | mpopc (d : BitVec 5) (s : BitVec 3)
  /-- MFIRST (R132). Writes the least set mask bit index, or -1, into xD. -/
  | mfirst (d : BitVec 5) (s : BitVec 3)
  /-- VADD_VV (R145). Vector integer add, vector operand. -/
  | vaddVV (d s t : BitVec 5) (mk : Option (BitVec 3))
  /-- VSUB_VV (R145). Vector integer subtract, vector operand. -/
  | vsubVV (d s t : BitVec 5) (mk : Option (BitVec 3))
  /-- VAND_VV (R145). Vector bitwise AND. -/
  | vandVV (d s t : BitVec 5) (mk : Option (BitVec 3))
  /-- VOR_VV (R145). Vector bitwise OR. -/
  | vorVV (d s t : BitVec 5) (mk : Option (BitVec 3))
  /-- VXOR_VV (R145). Vector bitwise exclusive OR. -/
  | vxorVV (d s t : BitVec 5) (mk : Option (BitVec 3))
  /-- VSLL_VV (R145). Vector shift left. -/
  | vsllVV (d s t : BitVec 5) (mk : Option (BitVec 3))
  /-- VSRL_VV (R145). Vector logical shift right. -/
  | vsrlVV (d s t : BitVec 5) (mk : Option (BitVec 3))
  /-- VSRA_VV (R145). Vector arithmetic shift right. -/
  | vsraVV (d s t : BitVec 5) (mk : Option (BitVec 3))
  /-- VMIN_VV (R145). Vector signed minimum. -/
  | vminVV (d s t : BitVec 5) (mk : Option (BitVec 3))
  /-- VMAX_VV (R145). Vector signed maximum. -/
  | vmaxVV (d s t : BitVec 5) (mk : Option (BitVec 3))
  /-- VMINU_VV (R145). Vector unsigned minimum. -/
  | vminuVV (d s t : BitVec 5) (mk : Option (BitVec 3))
  /-- VMAXU_VV (R145). Vector unsigned maximum. -/
  | vmaxuVV (d s t : BitVec 5) (mk : Option (BitVec 3))
  /-- VMUL_VV (R145). Vector multiply, low bits. -/
  | vmulVV (d s t : BitVec 5) (mk : Option (BitVec 3))
  /-- VMULH_VV (R145). Vector signed multiply, high bits. -/
  | vmulhVV (d s t : BitVec 5) (mk : Option (BitVec 3))
  /-- VMULHU_VV (R145). Vector unsigned multiply, high bits. -/
  | vmulhuVV (d s t : BitVec 5) (mk : Option (BitVec 3))
  /-- VDIV_VV (R146). Vector signed division, saturating. -/
  | vdivVV (d s t : BitVec 5) (mk : Option (BitVec 3))
  /-- VDIVU_VV (R146). Vector unsigned division. -/
  | vdivuVV (d s t : BitVec 5) (mk : Option (BitVec 3))
  /-- VREM_VV (R146). Vector signed remainder. -/
  | vremVV (d s t : BitVec 5) (mk : Option (BitVec 3))
  /-- VREMU_VV (R146). Vector unsigned remainder. -/
  | vremuVV (d s t : BitVec 5) (mk : Option (BitVec 3))
  /-- VSADD_VV (R145). Vector signed saturating add. -/
  | vsaddVV (d s t : BitVec 5) (mk : Option (BitVec 3))
  /-- VSADDU_VV (R145). Vector unsigned saturating add. -/
  | vsadduVV (d s t : BitVec 5) (mk : Option (BitVec 3))
  /-- VSSUB_VV (R145). Vector signed saturating subtract. -/
  | vssubVV (d s t : BitVec 5) (mk : Option (BitVec 3))
  /-- VSSUBU_VV (R145). Vector unsigned saturating subtract. -/
  | vssubuVV (d s t : BitVec 5) (mk : Option (BitVec 3))
  /-- VABS (R145). Vector absolute value modulo 2^W. -/
  | vabs (d s : BitVec 5) (mk : Option (BitVec 3))
  /-- VNEG (R145). Vector negation modulo 2^W. -/
  | vneg (d s : BitVec 5) (mk : Option (BitVec 3))
  /-- VADD_VX (R145). Vector add with a scalar x operand. -/
  | vaddVX (d s x : BitVec 5) (mk : Option (BitVec 3))
  /-- VSUB_VX (R145). Vector subtract with a scalar operand. -/
  | vsubVX (d s x : BitVec 5) (mk : Option (BitVec 3))
  /-- VAND_VX (R145). Vector AND with a scalar. -/
  | vandVX (d s x : BitVec 5) (mk : Option (BitVec 3))
  /-- VOR_VX (R145). Vector OR with a scalar. -/
  | vorVX (d s x : BitVec 5) (mk : Option (BitVec 3))
  /-- VXOR_VX (R145). Vector XOR with a scalar. -/
  | vxorVX (d s x : BitVec 5) (mk : Option (BitVec 3))
  /-- VSLL_VX (R145). Vector shift left by a scalar. -/
  | vsllVX (d s x : BitVec 5) (mk : Option (BitVec 3))
  /-- VSRL_VX (R145). Vector logical shift right by a scalar. -/
  | vsrlVX (d s x : BitVec 5) (mk : Option (BitVec 3))
  /-- VSRA_VX (R145). Vector arithmetic shift right by a scalar. -/
  | vsraVX (d s x : BitVec 5) (mk : Option (BitVec 3))
  /-- VMIN_VX (R145). Vector signed minimum with a scalar. -/
  | vminVX (d s x : BitVec 5) (mk : Option (BitVec 3))
  /-- VMAX_VX (R145). Vector signed maximum with a scalar. -/
  | vmaxVX (d s x : BitVec 5) (mk : Option (BitVec 3))
  /-- VMINU_VX (R145). Vector unsigned minimum with a scalar. -/
  | vminuVX (d s x : BitVec 5) (mk : Option (BitVec 3))
  /-- VMAXU_VX (R145). Vector unsigned maximum with a scalar. -/
  | vmaxuVX (d s x : BitVec 5) (mk : Option (BitVec 3))
  /-- VMUL_VX (R145). Vector multiply by a scalar. -/
  | vmulVX (d s x : BitVec 5) (mk : Option (BitVec 3))
  /-- VMULH_VX (R145). Vector signed high multiply by a scalar. -/
  | vmulhVX (d s x : BitVec 5) (mk : Option (BitVec 3))
  /-- VMULHU_VX (R145). Vector unsigned high multiply by a scalar. -/
  | vmulhuVX (d s x : BitVec 5) (mk : Option (BitVec 3))
  /-- VDIV_VX (R146). Vector signed division by a scalar. -/
  | vdivVX (d s x : BitVec 5) (mk : Option (BitVec 3))
  /-- VDIVU_VX (R146). Vector unsigned division by a scalar. -/
  | vdivuVX (d s x : BitVec 5) (mk : Option (BitVec 3))
  /-- VREM_VX (R146). Vector signed remainder by a scalar. -/
  | vremVX (d s x : BitVec 5) (mk : Option (BitVec 3))
  /-- VREMU_VX (R146). Vector unsigned remainder by a scalar. -/
  | vremuVX (d s x : BitVec 5) (mk : Option (BitVec 3))
  /-- VSADD_VX (R145). Vector signed saturating add of a scalar. -/
  | vsaddVX (d s x : BitVec 5) (mk : Option (BitVec 3))
  /-- VSADDU_VX (R145). Vector unsigned saturating add of a scalar. -/
  | vsadduVX (d s x : BitVec 5) (mk : Option (BitVec 3))
  /-- VSSUB_VX (R145). Vector signed saturating subtract of a scalar. -/
  | vssubVX (d s x : BitVec 5) (mk : Option (BitVec 3))
  /-- VSSUBU_VX (R145). Vector unsigned saturating subtract of a scalar. -/
  | vssubuVX (d s x : BitVec 5) (mk : Option (BitVec 3))
  /-- VADD_VI (R145). Vector add of a signed imm5. -/
  | vaddVI (d s i : BitVec 5) (mk : Option (BitVec 3))
  /-- VSUB_VI (R145). Vector subtract of a signed imm5. -/
  | vsubVI (d s i : BitVec 5) (mk : Option (BitVec 3))
  /-- VAND_VI (R145). Vector AND with imm5. -/
  | vandVI (d s i : BitVec 5) (mk : Option (BitVec 3))
  /-- VOR_VI (R145). Vector OR with imm5. -/
  | vorVI (d s i : BitVec 5) (mk : Option (BitVec 3))
  /-- VXOR_VI (R145). Vector XOR with imm5. -/
  | vxorVI (d s i : BitVec 5) (mk : Option (BitVec 3))
  /-- VSLL_VI (R145). Vector shift left by an unsigned imm5. -/
  | vsllVI (d s i : BitVec 5) (mk : Option (BitVec 3))
  /-- VSRL_VI (R145). Vector logical shift right by imm5. -/
  | vsrlVI (d s i : BitVec 5) (mk : Option (BitVec 3))
  /-- VSRA_VI (R145). Vector arithmetic shift right by imm5. -/
  | vsraVI (d s i : BitVec 5) (mk : Option (BitVec 3))
  /-- VMIN_VI (R145). Vector signed minimum with imm5. -/
  | vminVI (d s i : BitVec 5) (mk : Option (BitVec 3))
  /-- VMAX_VI (R145). Vector signed maximum with imm5. -/
  | vmaxVI (d s i : BitVec 5) (mk : Option (BitVec 3))
  /-- VMINU_VI (R145). Vector unsigned minimum with imm5. -/
  | vminuVI (d s i : BitVec 5) (mk : Option (BitVec 3))
  /-- VMAXU_VI (R145). Vector unsigned maximum with imm5. -/
  | vmaxuVI (d s i : BitVec 5) (mk : Option (BitVec 3))
  /-- VSADD_VI (R145). Vector signed saturating add of imm5. -/
  | vsaddVI (d s i : BitVec 5) (mk : Option (BitVec 3))
  /-- VSADDU_VI (R145). Vector unsigned saturating add of imm5. -/
  | vsadduVI (d s i : BitVec 5) (mk : Option (BitVec 3))
  /-- VSSUB_VI (R145). Vector signed saturating subtract of imm5. -/
  | vssubVI (d s i : BitVec 5) (mk : Option (BitVec 3))
  /-- VSSUBU_VI (R145). Vector unsigned saturating subtract of imm5. -/
  | vssubuVI (d s i : BitVec 5) (mk : Option (BitVec 3))
  /-- VFADD_VV (R147). Vector float add. -/
  | vfaddVV (d s t : BitVec 5) (mk : Option (BitVec 3))
  /-- VFSUB_VV (R147). Vector float subtract. -/
  | vfsubVV (d s t : BitVec 5) (mk : Option (BitVec 3))
  /-- VFMUL_VV (R147). Vector float multiply. -/
  | vfmulVV (d s t : BitVec 5) (mk : Option (BitVec 3))
  /-- VFDIV_VV (R147). Vector float divide. -/
  | vfdivVV (d s t : BitVec 5) (mk : Option (BitVec 3))
  /-- VFMIN_VV (R147). Vector float minimum. -/
  | vfminVV (d s t : BitVec 5) (mk : Option (BitVec 3))
  /-- VFMAX_VV (R147). Vector float maximum. -/
  | vfmaxVV (d s t : BitVec 5) (mk : Option (BitVec 3))
  /-- VFMA_VV (R147). Vector float s*t+d, rounded once. -/
  | vfmaVV (d s t : BitVec 5) (mk : Option (BitVec 3))
  /-- VFMS_VV (R147). Vector float s*t-d, rounded once. -/
  | vfmsVV (d s t : BitVec 5) (mk : Option (BitVec 3))
  /-- VFNMA_VV (R147). Vector float -(s*t)+d, rounded once. -/
  | vfnmaVV (d s t : BitVec 5) (mk : Option (BitVec 3))
  /-- VFSQRT (R147). Vector float square root. -/
  | vfsqrt (d s : BitVec 5) (mk : Option (BitVec 3))
  /-- VFRECE (R149). Vector reciprocal estimate from a fixed table. -/
  | vfrece (d s : BitVec 5) (mk : Option (BitVec 3))
  /-- VFRSQE (R150). Vector reciprocal square-root estimate. -/
  | vfrsqe (d s : BitVec 5) (mk : Option (BitVec 3))
  /-- VFABS (R147). Clears the sign bit of each element. -/
  | vfabs (d s : BitVec 5) (mk : Option (BitVec 3))
  /-- VFNEG (R147). Inverts the sign bit of each element. -/
  | vfneg (d s : BitVec 5) (mk : Option (BitVec 3))
  /-- VFSGNJ (R147). Gives each element the sign of t's code. -/
  | vfsgnj (d s t : BitVec 5) (mk : Option (BitVec 3))
  /-- VFADD_VX (R148). Vector float add with a scalar. -/
  | vfaddVX (d s x : BitVec 5) (mk : Option (BitVec 3))
  /-- VFSUB_VX (R148). Vector float subtract with a scalar. -/
  | vfsubVX (d s x : BitVec 5) (mk : Option (BitVec 3))
  /-- VFMUL_VX (R148). Vector float multiply by a scalar. -/
  | vfmulVX (d s x : BitVec 5) (mk : Option (BitVec 3))
  /-- VFDIV_VX (R148). Vector float divide by a scalar. -/
  | vfdivVX (d s x : BitVec 5) (mk : Option (BitVec 3))
  /-- VFMIN_VX (R148). Vector float minimum with a scalar. -/
  | vfminVX (d s x : BitVec 5) (mk : Option (BitVec 3))
  /-- VFMAX_VX (R148). Vector float maximum with a scalar. -/
  | vfmaxVX (d s x : BitVec 5) (mk : Option (BitVec 3))
  /-- VFMA_VX (R148). Vector float FMA with a scalar. -/
  | vfmaVX (d s x : BitVec 5) (mk : Option (BitVec 3))
  /-- VFMS_VX (R148). Vector float FMS with a scalar. -/
  | vfmsVX (d s x : BitVec 5) (mk : Option (BitVec 3))
  /-- VFNMA_VX (R148). Vector float negated FMA with a scalar. -/
  | vfnmaVX (d s x : BitVec 5) (mk : Option (BitVec 3))
  /-- VCMPEQ (R151). Writes mask bits for bitwise equality. -/
  | vcmpeq (d : BitVec 3) (s t : BitVec 5) (mk : Option (BitVec 3))
  /-- VCMPNE (R151). Writes mask bits for inequality. -/
  | vcmpne (d : BitVec 3) (s t : BitVec 5) (mk : Option (BitVec 3))
  /-- VCMPLT (R151). Writes mask bits for signed less-than. -/
  | vcmplt (d : BitVec 3) (s t : BitVec 5) (mk : Option (BitVec 3))
  /-- VCMPLE (R151). Writes mask bits for signed less-or-equal. -/
  | vcmple (d : BitVec 3) (s t : BitVec 5) (mk : Option (BitVec 3))
  /-- VCMPLTU (R151). Writes mask bits for unsigned less-than. -/
  | vcmpltu (d : BitVec 3) (s t : BitVec 5) (mk : Option (BitVec 3))
  /-- VCMPLEU (R151). Writes mask bits for unsigned less-or-equal. -/
  | vcmpleu (d : BitVec 3) (s t : BitVec 5) (mk : Option (BitVec 3))
  /-- VFCMPEQ (R151). Writes mask bits for float equality. -/
  | vfcmpeq (d : BitVec 3) (s t : BitVec 5) (mk : Option (BitVec 3))
  /-- VFCMPLT (R151). Writes mask bits for float less-than. -/
  | vfcmplt (d : BitVec 3) (s t : BitVec 5) (mk : Option (BitVec 3))
  /-- VFCMPLE (R151). Writes mask bits for float less-or-equal. -/
  | vfcmple (d : BitVec 3) (s t : BitVec 5) (mk : Option (BitVec 3))
  /-- VFCMPUN (R151). Writes mask bits where either operand is a NaN. -/
  | vfcmpun (d : BitVec 3) (s t : BitVec 5) (mk : Option (BitVec 3))
  /-- VMERGE (R152). Selects between vS and vT by mask for every element. -/
  | vmerge (d s t : BitVec 5) (m : BitVec 3)
  /-- VMV (R152). Copies active elements of vS. -/
  | vmv (d s : BitVec 5) (mk : Option (BitVec 3))
  /-- VID (R152). Writes each element's index. -/
  | vid (d : BitVec 5) (mk : Option (BitVec 3))
  /-- VSPLAT (R152). Writes xT to every active element. -/
  | vsplat (d t : BitVec 5) (mk : Option (BitVec 3))
  /-- VEXT (R152). Extracts element xT of vS into xD. -/
  | vext (d s t : BitVec 5)
  /-- VDOT4 (R153). Accumulates four narrow products into 32-bit elements. -/
  | vdot4 (d s t : BitVec 5) (mk : Option (BitVec 3))
  /-- VDOT8 (R153). Accumulates eight 4-bit products into 32-bit elements. -/
  | vdot8 (d s t : BitVec 5) (mk : Option (BitVec 3))
  /-- VBSAPPLY (R154). Multiplies float elements by S12 block scales. -/
  | vbsapply (d s t : BitVec 5) (mk : Option (BitVec 3))
  /-- VCVT (R79). Vector conversion at equal container widths. -/
  | vcvt (d s : BitVec 5) (mk : Option (BitVec 3)) (srcf dstf : BitVec 4) (rnd : BitVec 3) (sat : BitVec 1)
  /-- VCVT_W (R79). Widening vector conversion into a register group. -/
  | vcvtW (d s : BitVec 5) (mk : Option (BitVec 3)) (srcf dstf : BitVec 4) (rnd : BitVec 3) (sat : BitVec 1)
  /-- VCVT_N (R79). Narrowing vector conversion from a register group. -/
  | vcvtN (d s : BitVec 5) (mk : Option (BitVec 3)) (srcf dstf : BitVec 4) (rnd : BitVec 3) (sat : BitVec 1)
  /-- VCVT_SC (R80). Encodes or decodes block-scaled data with scales in VT. -/
  | vcvtSC (d s t : BitVec 5) (mk : Option (BitVec 3)) (srcf dstf : BitVec 4) (rnd : BitVec 3) (sat : BitVec 1)
  /-- VSRSEED (R82). Seeds every lane's stochastic generator of the group. -/
  | vsrseed (t : BitVec 5)
  /-- VLD (R165). Unit-stride vector load. -/
  | vld (d : BitVec 5) (a : BitVec 4) (mk : Option (BitVec 3))
  /-- VLD_FE (R170). Unit-stride TMEM load that waits for full granules. -/
  | vldFE (d : BitVec 5) (a : BitVec 4) (mk : Option (BitVec 3))
  /-- VLD_FC (R170). Unit-stride TMEM load that waits for full granules and clears them. -/
  | vldFC (d : BitVec 5) (a : BitVec 4) (mk : Option (BitVec 3))
  /-- VLDS (R165). Strided vector load. -/
  | vlds (d : BitVec 5) (a : BitVec 4) (i : BitVec 5) (mk : Option (BitVec 3))
  /-- VLDX (R165). Indexed vector gather. -/
  | vldx (d : BitVec 5) (a : BitVec 4) (i : BitVec 5) (mk : Option (BitVec 3))
  /-- VLDFF (R166). First-fault load that shortens vl instead of trapping past its first element. -/
  | vldff (d : BitVec 5) (a : BitVec 4) (mk : Option (BitVec 3))
  /-- VLDZ (R173). Loads a whole register from a zero-suppressed object. -/
  | vldz (d : BitVec 5) (a : BitVec 4) (i : BitVec 5)
  /-- VLDSEG (R165). Segment load of NF fields into consecutive registers. -/
  | vldseg (d : BitVec 5) (a : BitVec 4) (n : BitVec 5) (mk : Option (BitVec 3))
  /-- VST (R165). Unit-stride vector store. -/
  | vst (d : BitVec 5) (a : BitVec 4) (mk : Option (BitVec 3))
  /-- VSTS (R165). Strided vector store. -/
  | vsts (d : BitVec 5) (a : BitVec 4) (i : BitVec 5) (mk : Option (BitVec 3))
  /-- VSTX (R162). Unordered indexed scatter. -/
  | vstx (d : BitVec 5) (a : BitVec 4) (i : BitVec 5) (mk : Option (BitVec 3))
  /-- VSTXO (R162). Ordered indexed scatter. -/
  | vstxo (d : BitVec 5) (a : BitVec 4) (i : BitVec 5) (mk : Option (BitVec 3))
  /-- VSTZ (R173). Stores a whole register as a zero-suppressed object. -/
  | vstz (d : BitVec 5) (a : BitVec 4) (i : BitVec 5)
  /-- VSTSEG (R165). Segment store. -/
  | vstseg (d : BitVec 5) (a : BitVec 4) (n : BitVec 5) (mk : Option (BitVec 3))
  /-- VPF (R175). Vector prefetch without architectural effect. -/
  | vpf (a : BitVec 4) (i : BitVec 5) (mk : Option (BitVec 3))
  /-- VRED (R182). Reduces the active elements through the fixed tree into element 0. -/
  | vred (d s o : BitVec 5) (mk : Option (BitVec 3))
  /-- VSCAN (R183). Inclusive prefix scan. -/
  | vscan (d s o : BitVec 5) (mk : Option (BitVec 3))
  /-- VSCANX (R183). Exclusive prefix scan. -/
  | vscanx (d s o : BitVec 5) (mk : Option (BitVec 3))
  /-- VPERM (R184). Gathers within a register by indices. -/
  | vperm (d s t : BitVec 5) (mk : Option (BitVec 3))
  /-- VCOMP (R187). Compresses active elements and sets vl. -/
  | vcomp (d s : BitVec 5) (m : BitVec 3)
  /-- VEXPD (R186). Expands low elements to the active positions. -/
  | vexpd (d s : BitVec 5) (m : BitVec 3)
  /-- VFILT (R187). Packs active non-dead elements and sets vl. -/
  | vfilt (d s : BitVec 5) (mk : Option (BitVec 3))
  /-- VTOPK (R189). Selects the K highest-ranked elements as PAIR results. -/
  | vtopk (d s x : BitVec 5) (mk : Option (BitVec 3))
  /-- VSLIDEUP (R185). Slides elements up by a distance. -/
  | vslideup (d s x : BitVec 5) (mk : Option (BitVec 3))
  /-- VSLIDEDN (R185). Slides elements down by a distance. -/
  | vslidedn (d s x : BitVec 5) (mk : Option (BitVec 3))
  /-- BINR (R193). Checks a job record and starts a Riddle row-binning job if a slot is free. -/
  | binr (d : BitVec 5) (s : BitVec 4)
  /-- CHALLOC (R201). Hands out one chunk from a pool indivisibly and optionally links it. -/
  | challoc (d s t : BitVec 4)
  /-- CHPOOL (R200). Initialises a chunk pool descriptor indivisibly. -/
  | chpool (d : BitVec 5) (s : BitVec 4)
  /-- STRM_LD (R213). Streams tensor elements from memory into TMEM. -/
  | strmLd (d s : BitVec 4) (t : BitVec 5) (ch : BitVec 6) (rm : BitVec 2)
  /-- STRM_LD_FAB (R213). Streams tensor elements as tokens into a bound fabric input. -/
  | strmLdFab (s : BitVec 4) (t : BitVec 5) (ch : BitVec 6) (rm : BitVec 2)
  /-- STRM_ST (R213). Streams elements from TMEM to a tensor in memory. -/
  | strmSt (d s : BitVec 4) (t : BitVec 5) (ch : BitVec 6) (rm : BitVec 2)
  /-- STRM_CP (R213). Copies and converts between two tensors. -/
  | strmCp (d s : BitVec 4) (t : BitVec 5) (ch : BitVec 6) (rm : BitVec 2) (tr : BitVec 1) (rnd : BitVec 3) (sat : BitVec 1)
  /-- STRM_GX (R214). Gathers rows by an index list into TMEM. -/
  | strmGx (d s t : BitVec 4) (ch : BitVec 6)
  /-- STRM_POST (R224). Posts an expected byte count on a channel tag. -/
  | strmPost (s : BitVec 5) (ch : BitVec 6) (clr : BitVec 1)
  /-- STRM_WAIT (R226). Waits for stream completion or phase completion on a tag and returns its status. -/
  | strmWait (d : BitVec 5) (ch : BitVec 6) (wm : BitVec 1)
  /-- STRM_MARK (R228). Injects an end marker on a tag's fabric-bound stream. -/
  | strmMark (ch : BitVec 6) (rank : BitVec 3) (last : BitVec 1)
  /-- TQDECL (R229). Declares the strand's Tundish buffers. -/
  | tqdecl (d s : BitVec 5)
  /-- TQLD (R230). Starts a strip load into the next Tundish buffer. -/
  | tqld (d : BitVec 5) (s : BitVec 4) (t : BitVec 5)
  /-- TQPOP (R231). Drains the bound buffer and binds the oldest loaded buffer. -/
  | tqpop (d : BitVec 5)
  /-- VAADD (R241). Returning vector atomic add. -/
  | vaadd (d : BitVec 5) (a : BitVec 4) (i : BitVec 5) (mk : Option (BitVec 3))
  /-- VAAND (R241). Returning vector atomic AND. -/
  | vaand (d : BitVec 5) (a : BitVec 4) (i : BitVec 5) (mk : Option (BitVec 3))
  /-- VAOR (R241). Returning vector atomic OR. -/
  | vaor (d : BitVec 5) (a : BitVec 4) (i : BitVec 5) (mk : Option (BitVec 3))
  /-- VAXOR (R241). Returning vector atomic XOR. -/
  | vaxor (d : BitVec 5) (a : BitVec 4) (i : BitVec 5) (mk : Option (BitVec 3))
  /-- VAMIN (R241). Returning vector atomic signed minimum. -/
  | vamin (d : BitVec 5) (a : BitVec 4) (i : BitVec 5) (mk : Option (BitVec 3))
  /-- VAMAX (R241). Returning vector atomic signed maximum. -/
  | vamax (d : BitVec 5) (a : BitVec 4) (i : BitVec 5) (mk : Option (BitVec 3))
  /-- VAMINU (R241). Returning vector atomic unsigned minimum. -/
  | vaminu (d : BitVec 5) (a : BitVec 4) (i : BitVec 5) (mk : Option (BitVec 3))
  /-- VAMAXU (R241). Returning vector atomic unsigned maximum. -/
  | vamaxu (d : BitVec 5) (a : BitVec 4) (i : BitVec 5) (mk : Option (BitVec 3))
  /-- VAFADD (R241). Returning vector atomic float add. -/
  | vafadd (d : BitVec 5) (a : BitVec 4) (i : BitVec 5) (mk : Option (BitVec 3))
  /-- VASWAP (R241). Returning vector atomic swap. -/
  | vaswap (d : BitVec 5) (a : BitVec 4) (i : BitVec 5) (mk : Option (BitVec 3))
  /-- VACAS (R241). Returning vector atomic compare-and-swap. -/
  | vacas (d : BitVec 5) (a : BitVec 4) (i : BitVec 5) (mk : Option (BitVec 3))
  /-- VCADD (R242). Combining non-returning vector atomic add. -/
  | vcadd (d : BitVec 5) (a : BitVec 4) (i : BitVec 5) (mk : Option (BitVec 3))
  /-- VCAND (R242). Combining vector atomic AND. -/
  | vcand (d : BitVec 5) (a : BitVec 4) (i : BitVec 5) (mk : Option (BitVec 3))
  /-- VCOR (R242). Combining vector atomic OR. -/
  | vcor (d : BitVec 5) (a : BitVec 4) (i : BitVec 5) (mk : Option (BitVec 3))
  /-- VCXOR (R242). Combining vector atomic XOR. -/
  | vcxor (d : BitVec 5) (a : BitVec 4) (i : BitVec 5) (mk : Option (BitVec 3))
  /-- VCMIN (R242). Combining vector atomic signed minimum. -/
  | vcmin (d : BitVec 5) (a : BitVec 4) (i : BitVec 5) (mk : Option (BitVec 3))
  /-- VCMAX (R242). Combining vector atomic signed maximum. -/
  | vcmax (d : BitVec 5) (a : BitVec 4) (i : BitVec 5) (mk : Option (BitVec 3))
  /-- VCMINU (R242). Combining vector atomic unsigned minimum. -/
  | vcminu (d : BitVec 5) (a : BitVec 4) (i : BitVec 5) (mk : Option (BitVec 3))
  /-- VCMAXU (R242). Combining vector atomic unsigned maximum. -/
  | vcmaxu (d : BitVec 5) (a : BitVec 4) (i : BitVec 5) (mk : Option (BitVec 3))
  /-- VCFADD (R242). Combining vector atomic float add. -/
  | vcfadd (d : BitVec 5) (a : BitVec 4) (i : BitVec 5) (mk : Option (BitVec 3))
  /-- VGL (R244). Gather-linked: gathers and sets links on the lines read. -/
  | vgl (d : BitVec 5) (a : BitVec 4) (i : BitVec 5) (mk : Option (BitVec 3))
  /-- VSC (R246). Scatter-conditional: writes linked elements and leaves failures pending in the mask. -/
  | vsc (d : BitVec 5) (a : BitVec 4) (i : BitVec 5) (m : BitVec 3)
  /-- AMADD (R237). Scalar 64-bit atomic add returning the old value. -/
  | amadd (d : BitVec 5) (s : BitVec 4) (t : BitVec 5)
  /-- AMAND (R237). Scalar 64-bit atomic AND. -/
  | amand (d : BitVec 5) (s : BitVec 4) (t : BitVec 5)
  /-- AMOR (R237). Scalar 64-bit atomic OR. -/
  | amor (d : BitVec 5) (s : BitVec 4) (t : BitVec 5)
  /-- AMXOR (R237). Scalar 64-bit atomic XOR. -/
  | amxor (d : BitVec 5) (s : BitVec 4) (t : BitVec 5)
  /-- AMMIN (R237). Scalar 64-bit atomic signed minimum. -/
  | ammin (d : BitVec 5) (s : BitVec 4) (t : BitVec 5)
  /-- AMMAX (R237). Scalar 64-bit atomic signed maximum. -/
  | ammax (d : BitVec 5) (s : BitVec 4) (t : BitVec 5)
  /-- AMMINU (R237). Scalar 64-bit atomic unsigned minimum. -/
  | amminu (d : BitVec 5) (s : BitVec 4) (t : BitVec 5)
  /-- AMMAXU (R237). Scalar 64-bit atomic unsigned maximum. -/
  | ammaxu (d : BitVec 5) (s : BitVec 4) (t : BitVec 5)
  /-- AMSWAP (R237). Scalar 64-bit atomic swap. -/
  | amswap (d : BitVec 5) (s : BitVec 4) (t : BitVec 5)
  /-- AMCAS (R237). Scalar 64-bit atomic compare-and-swap against xD. -/
  | amcas (d : BitVec 5) (s : BitVec 4) (t : BitVec 5)
  /-- AMADD_W (R237). Scalar 32-bit atomic add. -/
  | amaddW (d : BitVec 5) (s : BitVec 4) (t : BitVec 5)
  /-- AMAND_W (R237). Scalar 32-bit atomic AND. -/
  | amandW (d : BitVec 5) (s : BitVec 4) (t : BitVec 5)
  /-- AMOR_W (R237). Scalar 32-bit atomic OR. -/
  | amorW (d : BitVec 5) (s : BitVec 4) (t : BitVec 5)
  /-- AMXOR_W (R237). Scalar 32-bit atomic XOR. -/
  | amxorW (d : BitVec 5) (s : BitVec 4) (t : BitVec 5)
  /-- AMMIN_W (R237). Scalar 32-bit atomic signed minimum. -/
  | amminW (d : BitVec 5) (s : BitVec 4) (t : BitVec 5)
  /-- AMMAX_W (R237). Scalar 32-bit atomic signed maximum. -/
  | ammaxW (d : BitVec 5) (s : BitVec 4) (t : BitVec 5)
  /-- AMMINU_W (R237). Scalar 32-bit atomic unsigned minimum. -/
  | amminuW (d : BitVec 5) (s : BitVec 4) (t : BitVec 5)
  /-- AMMAXU_W (R237). Scalar 32-bit atomic unsigned maximum. -/
  | ammaxuW (d : BitVec 5) (s : BitVec 4) (t : BitVec 5)
  /-- AMSWAP_W (R237). Scalar 32-bit atomic swap. -/
  | amswapW (d : BitVec 5) (s : BitVec 4) (t : BitVec 5)
  /-- AMCAS_W (R237). Scalar 32-bit atomic compare-and-swap. -/
  | amcasW (d : BitVec 5) (s : BitVec 4) (t : BitVec 5)
  /-- AMADD_Q32 (R237). Two-parcel AMADD with Q32 ordering. -/
  | amaddQ32 (d : BitVec 5) (s : BitVec 4) (t : BitVec 5) (q : Qual)
  /-- AMAND_Q32 (R237). Two-parcel AMAND with Q32. -/
  | amandQ32 (d : BitVec 5) (s : BitVec 4) (t : BitVec 5) (q : Qual)
  /-- AMOR_Q32 (R237). Two-parcel AMOR with Q32. -/
  | amorQ32 (d : BitVec 5) (s : BitVec 4) (t : BitVec 5) (q : Qual)
  /-- AMXOR_Q32 (R237). Two-parcel AMXOR with Q32. -/
  | amxorQ32 (d : BitVec 5) (s : BitVec 4) (t : BitVec 5) (q : Qual)
  /-- AMMIN_Q32 (R237). Two-parcel AMMIN with Q32. -/
  | amminQ32 (d : BitVec 5) (s : BitVec 4) (t : BitVec 5) (q : Qual)
  /-- AMMAX_Q32 (R237). Two-parcel AMMAX with Q32. -/
  | ammaxQ32 (d : BitVec 5) (s : BitVec 4) (t : BitVec 5) (q : Qual)
  /-- AMMINU_Q32 (R237). Two-parcel AMMINU with Q32. -/
  | amminuQ32 (d : BitVec 5) (s : BitVec 4) (t : BitVec 5) (q : Qual)
  /-- AMMAXU_Q32 (R237). Two-parcel AMMAXU with Q32. -/
  | ammaxuQ32 (d : BitVec 5) (s : BitVec 4) (t : BitVec 5) (q : Qual)
  /-- AMSWAP_Q32 (R237). Two-parcel AMSWAP with Q32. -/
  | amswapQ32 (d : BitVec 5) (s : BitVec 4) (t : BitVec 5) (q : Qual)
  /-- AMCAS_Q32 (R237). Two-parcel AMCAS with Q32. -/
  | amcasQ32 (d : BitVec 5) (s : BitVec 4) (t : BitVec 5) (q : Qual)
  /-- AMADD_W_Q32 (R237). Two-parcel AMADD.W with Q32. -/
  | amaddWQ32 (d : BitVec 5) (s : BitVec 4) (t : BitVec 5) (q : Qual)
  /-- AMAND_W_Q32 (R237). Two-parcel AMAND.W with Q32. -/
  | amandWQ32 (d : BitVec 5) (s : BitVec 4) (t : BitVec 5) (q : Qual)
  /-- AMOR_W_Q32 (R237). Two-parcel AMOR.W with Q32. -/
  | amorWQ32 (d : BitVec 5) (s : BitVec 4) (t : BitVec 5) (q : Qual)
  /-- AMXOR_W_Q32 (R237). Two-parcel AMXOR.W with Q32. -/
  | amxorWQ32 (d : BitVec 5) (s : BitVec 4) (t : BitVec 5) (q : Qual)
  /-- AMMIN_W_Q32 (R237). Two-parcel AMMIN.W with Q32. -/
  | amminWQ32 (d : BitVec 5) (s : BitVec 4) (t : BitVec 5) (q : Qual)
  /-- AMMAX_W_Q32 (R237). Two-parcel AMMAX.W with Q32. -/
  | ammaxWQ32 (d : BitVec 5) (s : BitVec 4) (t : BitVec 5) (q : Qual)
  /-- AMMINU_W_Q32 (R237). Two-parcel AMMINU.W with Q32. -/
  | amminuWQ32 (d : BitVec 5) (s : BitVec 4) (t : BitVec 5) (q : Qual)
  /-- AMMAXU_W_Q32 (R237). Two-parcel AMMAXU.W with Q32. -/
  | ammaxuWQ32 (d : BitVec 5) (s : BitVec 4) (t : BitVec 5) (q : Qual)
  /-- AMSWAP_W_Q32 (R237). Two-parcel AMSWAP.W with Q32. -/
  | amswapWQ32 (d : BitVec 5) (s : BitVec 4) (t : BitVec 5) (q : Qual)
  /-- AMCAS_W_Q32 (R237). Two-parcel AMCAS.W with Q32. -/
  | amcasWQ32 (d : BitVec 5) (s : BitVec 4) (t : BitVec 5) (q : Qual)
  /-- FENCE_SV (R249). Orders later vector accesses after earlier scalar accesses. -/
  | fenceSV
  /-- FENCE_VS (R249). Holds scalar issue until earlier vector memory instructions retire. -/
  | fenceVS
  /-- FENCE_VV (R249). Orders later vector accesses after earlier vector memory instructions. -/
  | fenceVV
  /-- FENCE (R249). Scoped acquire, release or full fence. -/
  | fence (k : BitVec 2) (c : BitVec 3)
  /-- BARA (R252). Arrives at a phase-bit barrier indivisibly and returns the phase. -/
  | bara (d : BitVec 5) (s : BitVec 4) (c : BitVec 3)
  /-- BARW (R252). Waits for a phase-bit barrier's phase to change. -/
  | barw (d : BitVec 5) (s : BitVec 4) (c : BitVec 3)
  /-- CFLUSH (R278). Writes back and removes every device copy of a line. -/
  | cflush (s : BitVec 4)
  /-- CINV (R278). Removes every device copy of a line, discarding modified data. -/
  | cinv (s : BitVec 4)
  /-- CCLEAN (R278). Writes back any modified copy of a line and keeps it clean. -/
  | cclean (s : BitVec 4)
  /-- CZERO (R278). Writes 128 zero bytes to a line as one store. -/
  | czero (s : BitVec 4)
  /-- CPF (R278). Prefetches a line for read or ownership. -/
  | cpf (s : BitVec 4) (wi : BitVec 1)
  /-- ISYNC (R278). Discards instruction-cache lines overlapping a range. -/
  | isync (s : BitVec 4) (t : BitVec 5)
  /-- MMODE (R281). Leaves the current matrix region and requests leave to enter a new one. -/
  | mmode (s : BitVec 5)
  /-- QCLAIM (R284). Claims a run of OM slots and starts filling it. -/
  | qclaim (d : BitVec 5) (s : BitVec 4) (t : BitVec 5)
  /-- QREL (R285). Queues the release of a run of OM slots. -/
  | qrel (s : BitVec 5)
  /-- QACC (R296). Configures the accumulator nodes' release. -/
  | qacc (d : BitVec 4) (s : BitVec 5)
  /-- BSSET (R286). Writes a butterfly stage descriptor to bs k chosen at run time. -/
  | bsset (d s t : BitVec 5)
  /-- QSTAGE (R293). Queues one butterfly stage over rows in TMEM. -/
  | qstage (d s : BitVec 4) (t : BitVec 5) (afmt wfmt ofmt : BitVec 4) (rnd : BitVec 3) (sat : BitVec 1) (wslot : BitVec 6)
  /-- QCHAIN (R294). Queues up to 16 butterfly stages back to back. -/
  | qchain (d s : BitVec 4) (t : BitVec 5) (afmt ofmt : BitVec 4) (ifmt : BitVec 1) (rnd : BitVec 3) (sat : BitVec 1)
  /-- MGEMM (R297). Queues dense product passes into the accumulator nodes. -/
  | mgemm (t : BitVec 5) (afmt wfmt : BitVec 4) (smode : BitVec 2) (wslot sslot : BitVec 6)
  /-- QDRAIN (R300). Blocks until the array has drained, optionally forcing releases. -/
  | qdrain (d : BitVec 5) (force : BitVec 1)
  /-- CFG_LOAD (R363). Checks a tile section whole and loads the named contexts and guards. -/
  | cfgLoad (d : BitVec 5) (s : BitVec 4) (t : BitVec 5)
  /-- CFG_CHECK (R362). Verifies a configuration image's signature and enters it in the verified-image table. -/
  | cfgCheck (d : BitVec 5) (s : BitVec 4)
  /-- CFG_SEL (R366). Queries, deselects, resumes or selects a fabric context. -/
  | cfgSel (d s : BitVec 5)
  /-- CFG_MARK (R376). Injects pre-emption markers at every source of the tile. -/
  | cfgMark
  /-- CFG_SAVE (R377). Snapshots the tile's fabric and writes a sealed save area. -/
  | cfgSave (d : BitVec 5) (s : BitVec 4)
  /-- CFG_REST (R378). Restores a fabric save area onto the tile. -/
  | cfgRest (d : BitVec 5) (s : BitVec 4)
  /-- CFG_GUARD (R372). Sets and reads the tile's boundary guards. -/
  | cfgGuard (d s : BitVec 5)
  /-- CFG_BIND (R370). Binds or unbinds a fabric queue or port to a channel tag. -/
  | cfgBind (s t : BitVec 5)
  /-- CFG_WR (R364). Writes one entry, literal, route field or control byte of a context. -/
  | cfgWr (d s t : BitVec 5)
  /-- LAUNCH (R308). Checks a launch record and enters it in the quadrant's launch table. -/
  | launch (d : BitVec 5) (s : BitVec 4)
  /-- LSTAT (R317). Queries or cancels a launch by handle. -/
  | lstat (d s t : BitVec 5)
  /-- TMARK (R413). Writes a TMARK trace record. -/
  | tmark (s : BitVec 5)
  /-- PROF_LOCK (R414). Locks the quadrant's clocks at an operating point. -/
  | profLock (d s : BitVec 5)
  /-- PROF_UNLOCK (R414). Returns the clock to the governor. -/
  | profUnlock (d : BitVec 5)
  /-- BRKPT (R415). Arms or disarms the strand's strip breakpoint. -/
  | brkpt (d : BitVec 5) (s : BitVec 4) (t : BitVec 5)
  /-- CNTRD (R417). Reads a performance counter. -/
  | cntrd (d s : BitVec 5)
  /-- ELEM_NOP (R337). Element firing with no effect. -/
  | elemNop
  /-- ELEM_ADD (R337). Element integer add of two sources. -/
  | elemAdd (sa sb da db tag : BitVec 4)
  /-- ELEM_SUB (R337). Element integer subtract. -/
  | elemSub (sa sb da db tag : BitVec 4)
  /-- ELEM_MUL (R337). Element integer multiply. -/
  | elemMul (sa sb da db tag : BitVec 4)
  /-- ELEM_AND (R337). Element bitwise AND. -/
  | elemAnd (sa sb da db tag : BitVec 4)
  /-- ELEM_OR (R337). Element bitwise OR. -/
  | elemOr (sa sb da db tag : BitVec 4)
  /-- ELEM_XOR (R337). Element bitwise XOR. -/
  | elemXor (sa sb da db tag : BitVec 4)
  /-- ELEM_MIN (R337). Element signed minimum. -/
  | elemMin (sa sb da db tag : BitVec 4)
  /-- ELEM_MAX (R337). Element signed maximum. -/
  | elemMax (sa sb da db tag : BitVec 4)
  /-- ELEM_MINU (R337). Element unsigned minimum. -/
  | elemMinu (sa sb da db tag : BitVec 4)
  /-- ELEM_MAXU (R337). Element unsigned maximum. -/
  | elemMaxu (sa sb da db tag : BitVec 4)
  /-- ELEM_FADD (R337). Element float add. -/
  | elemFadd (sa sb da db tag : BitVec 4)
  /-- ELEM_FSUB (R337). Element float subtract. -/
  | elemFsub (sa sb da db tag : BitVec 4)
  /-- ELEM_FMUL (R337). Element float multiply. -/
  | elemFmul (sa sb da db tag : BitVec 4)
  /-- ELEM_FMIN (R337). Element float minimum. -/
  | elemFmin (sa sb da db tag : BitVec 4)
  /-- ELEM_FMAX (R337). Element float maximum. -/
  | elemFmax (sa sb da db tag : BitVec 4)
  /-- ELEM_DOT4 (R339). Element dot product of four packed narrow values. -/
  | elemDot4 (sa sb da db tag : BitVec 4)
  /-- ELEM_ADDL (R337). Element add of a literal. -/
  | elemAddl (sa da db tag : BitVec 4) (lit : BitVec 5)
  /-- ELEM_MULL (R337). Element multiply by a literal. -/
  | elemMull (sa da db tag : BitVec 4) (lit : BitVec 5)
  /-- ELEM_ANDL (R337). Element AND with a literal. -/
  | elemAndl (sa da db tag : BitVec 4) (lit : BitVec 5)
  /-- ELEM_SHL (R337). Element shift left by LIT. -/
  | elemShl (sa da db tag : BitVec 4) (lit : BitVec 5)
  /-- ELEM_SHR (R337). Element logical shift right by LIT. -/
  | elemShr (sa da db tag : BitVec 4) (lit : BitVec 5)
  /-- ELEM_SAR (R337). Element arithmetic shift right by LIT. -/
  | elemSar (sa da db tag : BitVec 4) (lit : BitVec 5)
  /-- ELEM_FMA (R337). Element float s*u+k(m), rounded once. -/
  | elemFma (sa sb da db tag : BitVec 4) (lit : BitVec 3)
  /-- ELEM_MAC (R337). Element multiply-accumulate into k(m). -/
  | elemMac (sa sb da db tag : BitVec 4) (lit : BitVec 3)
  /-- ELEM_CMPEQ (R337). Element code-equality compare into a predicate bit. -/
  | elemCmpeq (sa sb da db tag : BitVec 4) (lit : BitVec 3)
  /-- ELEM_CMPLT (R337). Element signed less-than into a predicate bit. -/
  | elemCmplt (sa sb da db tag : BitVec 4) (lit : BitVec 3)
  /-- ELEM_CMPLTU (R337). Element unsigned less-than into a predicate bit. -/
  | elemCmpltu (sa sb da db tag : BitVec 4) (lit : BitVec 3)
  /-- ELEM_FCMPLT (R337). Element float less-than into a predicate bit. -/
  | elemFcmplt (sa sb da db tag : BitVec 4) (lit : BitVec 3)
  /-- ELEM_FCMPEQ (R337). Element float equality into a predicate bit. -/
  | elemFcmpeq (sa sb da db tag : BitVec 4) (lit : BitVec 3)
  /-- ELEM_SETP (R337). Sets a predicate bit. -/
  | elemSetp (lit : BitVec 3)
  /-- ELEM_CLRP (R337). Clears a predicate bit. -/
  | elemClrp (lit : BitVec 3)
  /-- ELEM_MOVP (R337). Copies bit 0 of a source into a predicate bit. -/
  | elemMovp (sa : BitVec 4) (lit : BitVec 3)
  /-- ELEM_MOV (R337). Moves a source to the destinations. -/
  | elemMov (sa da db tag : BitVec 4)
  /-- ELEM_LIT (R337). Pushes a literal to the destinations. -/
  | elemLit (da db tag : BitVec 4) (lit : BitVec 5)
  /-- ELEM_SEL (R337). Selects one of two sources by a predicate bit. -/
  | elemSel (sa sb da db tag : BitVec 4) (lit : BitVec 3)
  /-- ELEM_DROP (R337). Dequeues its sources with no other effect. -/
  | elemDrop (sa sb : BitVec 4)
  /-- ELEM_LDT (R349). Sends a wave-ordered TMEM load to the tile memory interface. -/
  | elemLdt (sa da db tag : BitVec 4) (lit : BitVec 5)
  /-- ELEM_STT (R349). Sends a wave-ordered TMEM store to the tile memory interface. -/
  | elemStt (sa sb tag : BitVec 4) (lit : BitVec 5)
  /-- ELEM_CNT (R337). Pushes k(n) and increments it. -/
  | elemCnt (da db tag : BitVec 4) (lit : BitVec 3)
  /-- ELEM_CTX (R340). Ends the element's phase and offers a context to the predicate network. -/
  | elemCtx (lit : BitVec 2)
  /-- ELEM_HALT (R340). Puts the element in Halted status. -/
  | elemHalt
  /-- ELEM_ABS (R337). Element absolute value. -/
  | elemAbs (sa da db tag : BitVec 4)
  /-- ELEM_POPC (R337). Element population count. -/
  | elemPopc (sa da db tag : BitVec 4)
  /-- ELEM_STEER (R337). Pushes a source to DA or DB by a predicate bit. -/
  | elemSteer (sa da db tag : BitVec 4) (lit : BitVec 3)
  /-- NOHANDLER_FREEZE (R329). A control token names an empty entry and the element freezes with FABRIC_NOHANDLER. -/
  | nohandlerFreeze (e : ElemId)
  /-- PREDICATE_WRITE_RESOLVE (R332). A pending predicate write takes effect and mispredicted firings are squashed. -/
  | predicateWriteResolve (e : ElemId)
  /-- ELEMENT_RESULT_WRITE (R344). A firing's register result is written at the end of cycle t+L. -/
  | elementResultWrite (e : ElemId) (k : Nat)
  /-- TOKEN_DELIVERY (R345). A pushed token reaches the consumer's queue after its route latency. -/
  | tokenDelivery (t : TileId) (k : Nat)
  /-- EDGE_QUEUE_FORWARD (R347). An edge queue forwards its head token when the next queue has a free slot. -/
  | edgeQueueForward (t : TileId) (k : Nat)
  /-- WAVE_OPERATION_PERFORM (R350). The tile memory interface performs a fabric memory operation once its wave-order condition holds. -/
  | waveOperationPerform (t : TileId) (k : Nat)
  /-- ELEMENT_CONTEXT_SWITCH (R368). An element whose marker condition holds forwards markers and selects the decided context. -/
  | elementContextSwitch (e : ElemId)
  /-- ELEMENT_SNAPSHOT (R374). A pre-emption marker reaches an element, which stops, forwards markers and records state and caught tokens. -/
  | elementSnapshot (e : ElemId)
  /-- MARKER_TIMEOUT (R374). Inputs without a marker 4,096 ac after injection count as reached. -/
  | markerTimeout (t : TileId)
  /-- STREAM_OUT_TAKE (R370). The stream engine takes a token from a stream-out port and writes it to TMEM, counting filled granules at the tag. -/
  | streamOutTake (t : TileId) (k : Nat)
  /-- CFG_CHECK_DONE (R362). The signature check ends and its result is written to the blocked strand. -/
  | cfgCheckDone (i : StrandId)
  /-- CFG_LOAD_DONE (R363). A tile-section load ends and its result word is written. -/
  | cfgLoadDone (i : StrandId)
  /-- CFG_SAVE_DONE (R377). The snapshot is complete and the save area written; the strand receives the length. -/
  | cfgSaveDone (i : StrandId)
  /-- CFG_REST_DONE (R378). A fabric restore completes and firing resumes 64 ac later. -/
  | cfgRestDone (i : StrandId)
  /-- ASYNC_TRAP (R388). A due asynchronous trap is taken at the strand's next issue opportunity. -/
  | asyncTrap (i : StrandId)
  /-- SCALAR_ACCESS_COMPLETE (R434). A scalar load, store, atomic or barrier access returns its data or delivers a late failure. -/
  | scalarAccessComplete (i : StrandId) (k : Nat)
  /-- STORE_QUEUE_DRAIN (R108). A queued store is performed and its store-queue entry freed. -/
  | storeQueueDrain (i : StrandId) (k : Nat)
  /-- FULLEMPTY_WAKE (R109). A strand Blocked in a .fe or .fc load reads the granule once its full bit is set. -/
  | fullemptyWake (i : StrandId)
  /-- WAITLINE_WAKE (R113). A change of the watched word makes the waiting strand ready with xD written. -/
  | waitlineWake (i : StrandId)
  /-- BARW_WAKE (R252). A changed barrier phase wakes the strand waiting in BARW. -/
  | barwWake (i : StrandId)
  /-- JOINL_WAKE (R135). The child's slot becomes Free and the parent's JOINL enters the queue. -/
  | joinlWake (i : StrandId)
  /-- SLOT_FREE (R115). An Exiting strand's last earlier instruction retires and its slot becomes Free. -/
  | slotFree (i : StrandId)
  /-- PAGE_WALK (R398). A translation miss walks the five-level page tables, setting A and D. -/
  | pageWalk (i : StrandId) (va : Addr) (acc : Access)
  /-- TLB_INVALIDATE_COMPLETE (R401). An invalidation removes translations device-wide and unblocks the strand. -/
  | tlbInvalidateComplete (i : StrandId)
  /-- RESERVATION_WAIT_PROCEED (R220). An access waiting at a WAIT reservation proceeds once the line is passed or released. -/
  | reservationWaitProceed (i : StrandId) (k : Nat)
  /-- VECTOR_INSTRUCTION_START (R130). A queued vector-class instruction starts in its pipe, checking format and length. -/
  | vectorInstructionStart (i : StrandId) (k : Nat)
  /-- ELEMENT_GROUP (R129). One element group of a vector instruction is processed in its pipe. -/
  | elementGroup (i : StrandId) (k : Nat)
  /-- VLD_FE_GROUP_PROCEED (R170). A waiting VLD.FE or VLD.FC group proceeds once its granules are full. -/
  | vldFeGroupProceed (i : StrandId) (k : Nat)
  /-- VPART_EFFECT (R124). VPART takes effect after every earlier vector instruction of the tile retires. -/
  | vpartEffect (t : TileId)
  /-- FORKL_ACT (R134). FORKL at the head of the queue splits the group and starts the child strand. -/
  | forklAct (i : StrandId)
  /-- JOINL_ACT (R135). JOINL at the head of the queue reunites the group. -/
  | joinlAct (i : StrandId)
  /-- SECTOR_COMPLETE (R215). A stream sector completes, setting full bits and counting bytes at the tag. -/
  | sectorComplete (t : TileId) (k sec : Nat)
  /-- STREAM_FAULT (R217). A failed element or index access stops the stream at its resume point and is delivered to the strand. -/
  | streamFault (t : TileId) (k : Nat)
  /-- STRM_WAIT_WAKE (R226). The awaited completion makes a strand Blocked in STRM.WAIT ready. -/
  | strmWaitWake (i : StrandId)
  /-- TQPOP_WAKE (R231). A LOADING buffer becomes FULL and the strand Blocked in TQPOP binds it. -/
  | tqpopWake (i : StrandId)
  /-- BUFFER_DRAINED (R231). A DRAINING Tundish buffer becomes FREE once earlier vector instructions retire. -/
  | bufferDrained (i : StrandId) (k : Nat)
  /-- RIDDLE_BATCH (R196). The Riddle bins a batch of up to 256 rows. -/
  | riddleBatch (t : TileId) (k : Nat)
  /-- MATRIX_START (R302). The next array-queue instruction starts after the previous one completes. -/
  | matrixStart (t : TileId)
  /-- ROW_FIRE (R298). The array fires one row of one pass once its operands and link entry are ready. -/
  | rowFire (t : TileId)
  /-- ROW_RELEASE (R298). A node's link writes a released row, converted, into TMEM. -/
  | rowRelease (t : TileId) (node : Nat)
  /-- MATRIX_COMPLETE (R299). A matrix instruction completes as a .dm release. -/
  | matrixComplete (t : TileId)
  /-- QCLAIM_FILL_DONE (R284). The fill of a claimed OM run completes. -/
  | qclaimFillDone (t : TileId) (k : Nat)
  /-- QREL_EFFECT (R285). QREL at the head of the array queue unclaims its slots. -/
  | qrelEffect (t : TileId)
  /-- QDRAIN_WAKE (R300). The awaited array work completes and QDRAIN acquires. -/
  | qdrainWake (i : StrandId)
  /-- LEAVE_GRANT (R282). The governor grants a waiting matrix-leave request. -/
  | leaveGrant (t : TileId)
  /-- LEAVE_REVOKE (R282). The governor revokes a tile's leave for a thermal or current limit. -/
  | leaveRevoke (t : TileId)
  /-- MATRIX_ENTRY (R281). The tile enters matrix mode 64 ac after the grant. -/
  | matrixEntry (t : TileId)
  /-- MATRIX_EXIT (R281). The old region leaves matrix mode after the queue drains, clearing its slots. -/
  | matrixExit (t : TileId)
  /-- READINESS_READ (R310). The launch unit rereads a completion word whose line changed. -/
  | readinessRead (q : BitVec 2) (n k : Nat)
  /-- CLAIM_BEGIN (R311). A team unplaced for 62,500 ac comes to hold a claim. -/
  | claimBegin (q : BitVec 2) (n team : Nat)
  /-- TEAM_PLACE (R314). A fitting team is placed on its footprint with initial tile state. -/
  | teamPlace (q : BitVec 2) (n team ox oy : Nat)
  /-- TEAM_FIRST_ISSUE (R314). All strands of a placed team become ready 48 ac after placement. -/
  | teamFirstIssue (q : BitVec 2) (n team : Nat)
  /-- TEAM_END (R315). The last work of a team ends and its tiles begin clearing. -/
  | teamEnd (q : BitVec 2) (n team : Nat)
  /-- TILE_CLEAR_DONE (R315). Tile clearing ends and the tiles become free. -/
  | tileClearDone (t : TileId)
  /-- LAUNCH_SIGNAL (R315). The launch unit adds SIGV to the completion word as a .dm release. -/
  | launchSignal (q : BitVec 2) (n : Nat)
  /-- PREEMPT_DECISION (R318). A claiming team selects lower-priority victims to swap out. -/
  | preemptDecision (q : BitVec 2) (n team : Nat)
  /-- SWAP_OUT_SAVE (R319). A drained victim team's state is written to the save pool and its tiles freed. -/
  | swapOutSave (q : BitVec 2) (n team : Nat)
  /-- TEAM_RESTORE (R322). A swapped-out team is placed again and its saved state written back. -/
  | teamRestore (q : BitVec 2) (n team ox oy : Nat)
  /-- LINE_INSTALL (R272). A line's content enters the Crucible with dedup or the zero entry. -/
  | lineInstall (q : BitVec 2) (line : Nat)
  /-- TAGGED_WRITE (R422). A write into the tagged-write window delivers bytes to TMEM and counts them at a channel tag. -/
  | taggedWrite (src : BitVec 21) (offset : Nat) (bytes : List Byte)
  /-- HOST_BAR_ACCESS (R266). A non-coherent BAR read or write reaches HBM directly. -/
  | hostBarAccess (bar : Bar) (op : BusOp)
  /-- CXL_REQUEST (R266). A coherent CXL.mem or CXL.cache request from the host or a peer is served. -/
  | cxlRequest (op : BusOp)
  /-- NDEIT_LOAD (R425). A load transaction arrives over Ndeit Link. -/
  | ndeitLoad (addr len : Nat)
  /-- NDEIT_STORE (R425). A store transaction arrives over Ndeit Link. -/
  | ndeitStore (addr : Nat) (bytes : List Byte)
  /-- NDEIT_ATOMIC (R425). An atomic transaction is performed at its point of coherence. -/
  | ndeitAtomic (op : BitVec 5) (addr size : Nat) (operand expected : BitVec 64)
  /-- NDEIT_REDUCTION (R425). A reduction partial is applied or merged. -/
  | ndeitReduction (op : BitVec 5) (addr size : Nat) (operand : BitVec 64)
  /-- NDEIT_COHERENCE (R425). A coherence request or snoop arrives over Ndeit Link. -/
  | ndeitCoherence (line : Nat)
  /-- FLIT_REPLAY (R424). A flit that fails its CRC is replayed go-back-N. -/
  | flitReplay (port : BitVec 4)
  /-- LINK_RETRAIN (R426). A port exceeding the replay limit begins retraining. -/
  | linkRetrain (port : BitVec 4)
  /-- LINK_RETRAIN_DONE (R426). A retrain succeeds or fails, and the waiting requests complete or fail. -/
  | linkRetrainDone (port : BitVec 4) (ok : Bool)
  /-- UNCORRECTABLE_ERROR (R393). An uncorrectable error is detected and attributed or recorded. -/
  | uncorrectableError (site : ErrorSite)
  /-- ROOT_OF_TRUST_BOOT (R429). At reset the root of trust verifies firmware, draws keys and releases the quadrants. -/
  | rootOfTrustBoot
  /-- SECONDARY_BUS_RESET (R420). A secondary bus reset returns the device to its power-on state. -/
  | secondaryBusReset
  /-- MGMT_RESET (R432). Writing 0xA5 to management register 0x05 resets the device. -/
  | mgmtReset (value : Byte)
  /-- THERMAL_SHUTDOWN (R433). Overtemperature or undervoltage puts every quadrant in reset. -/
  | thermalShutdown
  /-- CLOCK_THROTTLE (R433). A die reaching 105 C makes the governor lower the clock. -/
  | clockThrottle (q : BitVec 2)
  /-- CLOCK_LOCK_DONE (R414). The new operating point is in force and the locking strand becomes ready. -/
  | clockLockDone (q : BitVec 2)
  /-- TILE_LOW_POWER_ENTRY (R402). An idle cleared tile enters the deepest permitted low-power state after 1,250 ac. -/
  | tileLowPowerEntry (t : TileId)
  /-- LATTOL_WRITE (R402). A write to LATTOL changes the latency tolerance and raises tiles in deeper states. -/
  | lattolWrite (q : BitVec 2) (v : Word)
  /-- CTXCUR_WRITE (R396). A write of a valid context number rereads the translation context entry. -/
  | ctxcurWrite (i : StrandId) (v : Word)
  /-- REGISTER_WRITE (R4). A write to a register without behaviour of its own, field by field. -/
  | registerWrite (offset : Nat) (v : Word)
  /-- FKEY_INSTALL (R405). An FKEYCMD command installs a public key into a fabric key slot. -/
  | fkeyInstall (q : BitVec 2)
  /-- FKEY_CLEAR (R405). An FKEYCMD command with CLR empties a fabric key slot. -/
  | fkeyClear (q : BitVec 2)
  /-- FKEY_COMMAND_DONE (R405). A key-slot command ends and BUSY clears. -/
  | fkeyCommandDone (q : BitVec 2)
  /-- CP_LOAD (R365). A configuration-port LOAD command loads a tile section. -/
  | cpLoad (t : TileId)
  /-- CP_CHECK (R365). A configuration-port CHECK command verifies an image. -/
  | cpCheck (t : TileId)
  /-- CP_CLEAR (R365). A configuration-port CLEAR command deselects the fabric and empties contexts. -/
  | cpClear (t : TileId)
  /-- CP_COMMAND_DONE (R365). A port command ends and RESULT becomes visible with BUSY clear. -/
  | cpCommandDone (t : TileId)
  /-- DEBUG_GO (R416). A GO write to the trace control block resumes a strand stopped at a breakpoint. -/
  | debugGo (q : BitVec 2) (v : Word)
  /-- BREAKPOINT_STOP (R416). A matching strip breakpoint stops the strand before its VSETL and writes a BRK record. -/
  | breakpointStop (i : StrandId)
  /-- TRACE_SAMPLE (R409). Every SAMPINT ac a SAMPLE record names the next strand's pc. -/
  | traceSample (q : BitVec 2)
  /-- ATTEST_REPORT (R431). The mailbox writes a signed attestation report for a nonce. -/
  | attestReport (nonce : BitVec 512)
  /-- ATTEST_EXTEND (R431). The mailbox extends measurement register n with a digest. -/
  | attestExtend (n : Nat) (digest : BitVec 512)
  /-- FETCH_TRAP (R30). A strand whose next instruction faults on fetch, is a zero parcel, or matches no assigned encoding takes IFETCH_ABSENT, IFETCH_NOEXEC, ZERO_PARCEL or ILLEGAL_INSTRUCTION. -/
  | fetchTrap (i : StrandId)
  /-- INSTRUCTION_CACHE_FILL (R87). An instruction-cache miss completes, so the parcels become present or a fetch trap becomes due, and the strand can become ready. -/
  | instructionCacheFill (c : CoreId) (line : Nat)
  /-- FABRIC_ILLEGAL (R48). An element chooses an entry whose trigger holds but whose instruction word has an unassigned OP, an unused nonzero field, a bad LIT or an unaccepted TAG, and it freezes with FABRIC_ILLEGAL. -/
  | fabricIllegal (e : ElemId)
  /-- BACK_INVALIDATE (R265). A CXL peer's Back-Invalidate snoop removes the device's clean RDC or L1 copy of an HDM-DB peer line. -/
  | backInvalidate (line : Nat)
  /-- CURRENT_LIMIT (R414). A current limit forces the governor to lower the clock, breaking any clock lock and writing CLOCK and TYPE 6 records. -/
  | currentLimit (q : BitVec 2)
  /-- LINK_TRAINING_DONE (R425). An enabled Ndeit Link port finishes training, and its STATE moves from training to up with LANES set. -/
  | linkTrainingDone (port : BitVec 4)
  deriving DecidableEq, Repr

end Sys2Proof
end

