-- ==== Sys2Proof/WellFormed.lean ====
section
/-! DEFINITION. Which instructions are well formed: every limit that the manual puts on a field of an instruction word
beyond its width (register rules, illegal codes, combinations). An instruction that is not well formed raises
ILLEGAL_INSTRUCTION (R30, R33, R34). Must-be-zero bits are no fields of `Instr` and are checked by the decoder. -/

namespace Sys2Proof

/-- The container width in bits of a format tag; tag 0 and tag 15 are 64 bits wide in every reading (R58). -/
def fmtWidth (f : BitVec 4) : Nat :=
  match f.toNat with
  | 0 | 15 => 64
  | 1 | 9 => 32
  | 2 | 3 | 10 => 16
  | 8 | 13 | 14 => 4
  | _ => 8

/-- FCVT takes rounding codes 0 to 4 (R38); every pair of formats has a rule among R72 to R75. -/
def fcvtOk (t : BitVec 5) : Bool := t.toNat ≤ 4

/-- SCOPE codes 1 to 5 name a scope (R36, R37, R252). -/
def scopeOk (c : BitVec 3) : Bool := 1 ≤ c.toNat && c.toNat ≤ 5

/-- The part of R36 common to every qualified access: SCOPE is 0 exactly when KIND is 0, and codes 6 and 7 are illegal. -/
def qualCommonOk (q : Qual) : Bool := if q.kind = 0 then q.scope = 0 else scopeOk q.scope

/-- R36 for a load: KIND is not `.rel` and FE is not 3. -/
def qualLoadOk (q : Qual) : Bool := qualCommonOk q && q.kind != 2 && q.fe != 3

/-- R36 for a store: KIND is not `.acq` and FE is 0. -/
def qualStoreOk (q : Qual) : Bool := qualCommonOk q && q.kind != 1 && q.fe = 0

/-- R36 and R236 for an atomic: every KIND, FE is 0. -/
def qualAtomicOk (q : Qual) : Bool := qualCommonOk q && q.fe = 0

/-- R40: C is not x0, N is at most 4, and the fields of unused address registers are 0. -/
def sbrOk (c : BitVec 5) (as : List (BitVec 4)) (n : BitVec 3) (sz : BitVec 8) : Bool :=
  c != 0 && n.toNat ≤ 4 && (as.drop n.toNat).all (· == 0) && sz.toNat < 4 ^ n.toNat

/-- The system register numbers that R43 and R385 assign. -/
def sysRegAssigned (r : BitVec 15) : Bool :=
  let n := r.toNat
  n ≤ 0x0004 || (0x0100 ≤ n && n ≤ 0x0105) || (0x0200 ≤ n && n ≤ 0x020F) ||
  (0x1000 ≤ n && n ≤ 0x1008) || (0x1010 ≤ n && n ≤ 0x1012) || n == 0x1020 || n == 0x1021 ||
  (0x1028 ≤ n && n ≤ 0x102B) || n == 0x1030 || n == 0x1031 || n == 0x1038 || n == 0x1040 ||
  (0x1100 ≤ n && n ≤ 0x1147) || (0x4000 ≤ n && n ≤ 0x4008) || n == 0x4010 || n == 0x4011

/-- Rounding codes of the conversion word: 6 and 7 are illegal (R39). -/
def rndOk (rnd : BitVec 3) : Bool := rnd.toNat ≤ 5

/-- A register group of `g` registers headed by `v` is aligned and holds none of `others` (R78). -/
def groupOk (v : BitVec 5) (g : Nat) (others : List (BitVec 5)) : Bool :=
  v.toNat % g == 0 && others.all fun o => !(v.toNat ≤ o.toNat && o.toNat < v.toNat + g)

/-- The wide side of VCVT.W or VCVT.N heads a group of `wide / narrow` registers clear of the narrow side (R78). -/
def widenOk (v : BitVec 5) (others : List (BitVec 5)) (narrow wide : BitVec 4) : Bool :=
  fmtWidth narrow < fmtWidth wide && groupOk v (fmtWidth wide / fmtWidth narrow) others

/-- The formats with a block-scaled form (R63): E4M3, E5M2, E3M2, E2M3, E2M1 and INT8. -/
def scaledFmt (f : BitVec 4) : Bool := (4 ≤ f.toNat && f.toNat ≤ 8) || f == 11

/-- The plain formats of VCVT.SC (R80): FP64, FP32, BF16, FP16. -/
def plainFmt (f : BitVec 4) : Bool := f.toNat ≤ 3

/-- VCVT.SC's pairs and register groups (R78, R80). -/
def scaledOk (d s t : BitVec 5) (srcf dstf : BitVec 4) : Bool :=
  (scaledFmt srcf && plainFmt dstf && groupOk d (fmtWidth dstf / fmtWidth srcf) [s, t]) ||
  (plainFmt srcf && scaledFmt dstf && groupOk s (fmtWidth srcf / fmtWidth dstf) [d] && d != t)

/-- VLDSEG and VSTSEG: 2 to 8 fields, the last register at most v31 (R157). -/
def segOk (v n : BitVec 5) : Bool := 1 ≤ n.toNat && n.toNat ≤ 7 && v.toNat + n.toNat ≤ 31

/-- Input formats of QSTAGE and QCHAIN, and of MGEMM's float class (R289). -/
def stageIn (f : BitVec 4) : Bool := 1 ≤ f.toNat && f.toNat ≤ 8

/-- Output formats of QSTAGE and QCHAIN (R289). -/
def stageOut (f : BitVec 4) : Bool := 1 ≤ f.toNat && f.toNat ≤ 5

/-- The integer input formats of MGEMM (R289). -/
def gemmInt (f : BitVec 4) : Bool := 11 ≤ f.toNat && f.toNat ≤ 14

/-- MGEMM's format pairs by SMODE (R289); SMODE 3 is illegal (R288). -/
def mgemmFmtOk (smode : BitVec 2) (a w : BitVec 4) : Bool :=
  match smode.toNat with
  | 0 => (stageIn a && stageIn w) || (gemmInt a && gemmInt w)
  | 1 | 2 => scaledFmt a && scaledFmt w
  | _ => false

/-- Every field limit of the instruction beyond its width. The element operations' own rules (R48) are checked when an
element fires, and the machine's steps have no encoding. -/
def Instr.wellFormed : Instr → Bool
  | .fcvt _ _ _ _ t => fcvtOk t
  | .lbQ32 _ _ _ q => qualLoadOk q
  | .lbuQ32 _ _ _ q => qualLoadOk q
  | .lhQ32 _ _ _ q => qualLoadOk q
  | .lhuQ32 _ _ _ q => qualLoadOk q
  | .lwQ32 _ _ _ q => qualLoadOk q
  | .lwuQ32 _ _ _ q => qualLoadOk q
  | .ldQ32 _ _ _ q => qualLoadOk q
  | .sbQ32 _ _ _ q => qualStoreOk q
  | .shQ32 _ _ _ q => qualStoreOk q
  | .swQ32 _ _ _ q => qualStoreOk q
  | .sdQ32 _ _ _ q => qualStoreOk q
  | .sysrd _ r => sysRegAssigned r
  | .syswr _ r => sysRegAssigned r
  | .sysset _ r => sysRegAssigned r
  | .sysclr _ r => sysRegAssigned r
  | .sysxch _ r => sysRegAssigned r
  | .sbr c a0 a1 a2 a3 n sz _ => sbrOk c [a0, a1, a2, a3] n sz
  | .vdot4 d s t _ => d != s && d != t
  | .vdot8 d s t _ => d != s && d != t
  | .vbsapply d _ t _ => d != t
  | .vcvt _ _ _ srcf dstf rnd _ => rndOk rnd && fmtWidth srcf == fmtWidth dstf
  | .vcvtW d s _ srcf dstf rnd _ => rndOk rnd && widenOk d [s] srcf dstf
  | .vcvtN d s _ srcf dstf rnd _ => rndOk rnd && widenOk s [d] dstf srcf
  | .vcvtSC d s t _ srcf dstf rnd _ => rndOk rnd && scaledOk d s t srcf dstf
  | .vldx d _ i _ => i != d
  | .vldseg d _ n _ => segOk d n
  | .vstseg d _ n _ => segOk d n
  | .vred _ _ o _ => o.toNat ≤ 10
  | .vscan _ _ o _ => o.toNat ≤ 10
  | .vscanx _ _ o _ => o.toNat ≤ 10
  | .strmCp _ _ _ _ _ _ rnd _ => rnd.toNat ≤ 4
  | .strmMark _ rank _ => 1 ≤ rank.toNat && rank.toNat ≤ 4
  | .vaadd d _ i _ => i != d
  | .vaand d _ i _ => i != d
  | .vaor d _ i _ => i != d
  | .vaxor d _ i _ => i != d
  | .vamin d _ i _ => i != d
  | .vamax d _ i _ => i != d
  | .vaminu d _ i _ => i != d
  | .vamaxu d _ i _ => i != d
  | .vafadd d _ i _ => i != d
  | .vaswap d _ i _ => i != d
  | .vacas d _ i _ => d.toNat ≤ 30 && i != d && i != d + 1
  | .vgl d _ i _ => i != d
  | .amaddQ32 _ _ _ q => qualAtomicOk q
  | .amandQ32 _ _ _ q => qualAtomicOk q
  | .amorQ32 _ _ _ q => qualAtomicOk q
  | .amxorQ32 _ _ _ q => qualAtomicOk q
  | .amminQ32 _ _ _ q => qualAtomicOk q
  | .ammaxQ32 _ _ _ q => qualAtomicOk q
  | .amminuQ32 _ _ _ q => qualAtomicOk q
  | .ammaxuQ32 _ _ _ q => qualAtomicOk q
  | .amswapQ32 _ _ _ q => qualAtomicOk q
  | .amcasQ32 _ _ _ q => qualAtomicOk q
  | .amaddWQ32 _ _ _ q => qualAtomicOk q
  | .amandWQ32 _ _ _ q => qualAtomicOk q
  | .amorWQ32 _ _ _ q => qualAtomicOk q
  | .amxorWQ32 _ _ _ q => qualAtomicOk q
  | .amminWQ32 _ _ _ q => qualAtomicOk q
  | .ammaxWQ32 _ _ _ q => qualAtomicOk q
  | .amminuWQ32 _ _ _ q => qualAtomicOk q
  | .ammaxuWQ32 _ _ _ q => qualAtomicOk q
  | .amswapWQ32 _ _ _ q => qualAtomicOk q
  | .amcasWQ32 _ _ _ q => qualAtomicOk q
  | .fence k c => k != 0 && scopeOk c
  | .bara _ _ c => scopeOk c
  | .barw _ _ c => scopeOk c
  | .qstage _ _ _ afmt wfmt ofmt rnd _ _ => rnd.toNat ≤ 4 && stageIn afmt && stageIn wfmt && stageOut ofmt
  | .qchain _ _ _ afmt ofmt _ rnd _ => rnd.toNat ≤ 4 && stageIn afmt && stageOut ofmt
  | .mgemm _ afmt wfmt smode _ _ => mgemmFmtOk smode afmt wfmt
  | .add .. | .sub .. | .and .. | .or .. | .xor .. | .sll .. | .srl .. | .sra .. | .slt .. | .sltu .. => true
  | .min .. | .max .. | .minu .. | .maxu .. | .mul .. | .mulh .. | .mulhu .. | .div .. | .divu .. | .rem .. => true
  | .remu .. | .add32 .. | .sub32 .. | .clz .. | .ctz .. | .popc .. | .sxb .. | .sxh .. | .sxw .. | .zxw .. => true
  | .addi .. | .addiImm32 .. | .andi .. | .ori .. | .xori .. | .andiImm32 .. | .oriImm32 .. | .xoriImm32 .. | .slli .. | .srli .. => true
  | .srai .. | .lui .. | .liw .. | .liq .. | .faddS .. | .fsubS .. | .fmulS .. | .fdivS .. | .fsqrtS .. | .fminS .. => true
  | .fmaxS .. | .fmaS .. | .fnmaS .. | .faddD .. | .fsubD .. | .fmulD .. | .fdivD .. | .fsqrtD .. | .fminD .. | .fmaxD .. => true
  | .fmaD .. | .fnmaD .. | .feqS .. | .fltS .. | .fleS .. | .fclassS .. | .feqD .. | .fltD .. | .fleD .. | .fclassD .. => true
  | .aadd .. | .asub .. | .adiff .. | .amov .. | .afromx .. | .atox .. | .aaddi .. | .aaddiImm32 .. | .ahi .. | .beq .. => true
  | .bne .. | .blt .. | .bge .. | .bltu .. | .bgeu .. | .baeq .. | .bane .. | .baltu .. | .bageu .. | .beqOff32 .. => true
  | .bneOff32 .. | .bltOff32 .. | .bgeOff32 .. | .bltuOff32 .. | .bgeuOff32 .. | .baeqOff32 .. | .baneOff32 .. | .baltuOff32 .. | .bageuOff32 .. | .jal .. => true
  | .jalOff32 .. | .jalr .. | .lb .. | .lbu .. | .lh .. | .lhu .. | .lw .. | .lwu .. | .ld .. | .sb .. => true
  | .sh .. | .sw .. | .sd .. | .yield | .waitline .. | .forkl .. | .joinl | .exit | .scall | .tret => true
  | .tlbiva .. | .tlbias .. | .tlbiall | .leave .. | .vsetl .. | .vsetcfg .. | .vpart .. | .mand .. | .mor .. | .mxor .. => true
  | .mandn .. | .mnot .. | .mset .. | .mclr .. | .mpopc .. | .mfirst .. | .vaddVV .. | .vsubVV .. | .vandVV .. | .vorVV .. => true
  | .vxorVV .. | .vsllVV .. | .vsrlVV .. | .vsraVV .. | .vminVV .. | .vmaxVV .. | .vminuVV .. | .vmaxuVV .. | .vmulVV .. | .vmulhVV .. => true
  | .vmulhuVV .. | .vdivVV .. | .vdivuVV .. | .vremVV .. | .vremuVV .. | .vsaddVV .. | .vsadduVV .. | .vssubVV .. | .vssubuVV .. | .vabs .. => true
  | .vneg .. | .vaddVX .. | .vsubVX .. | .vandVX .. | .vorVX .. | .vxorVX .. | .vsllVX .. | .vsrlVX .. | .vsraVX .. | .vminVX .. => true
  | .vmaxVX .. | .vminuVX .. | .vmaxuVX .. | .vmulVX .. | .vmulhVX .. | .vmulhuVX .. | .vdivVX .. | .vdivuVX .. | .vremVX .. | .vremuVX .. => true
  | .vsaddVX .. | .vsadduVX .. | .vssubVX .. | .vssubuVX .. | .vaddVI .. | .vsubVI .. | .vandVI .. | .vorVI .. | .vxorVI .. | .vsllVI .. => true
  | .vsrlVI .. | .vsraVI .. | .vminVI .. | .vmaxVI .. | .vminuVI .. | .vmaxuVI .. | .vsaddVI .. | .vsadduVI .. | .vssubVI .. | .vssubuVI .. => true
  | .vfaddVV .. | .vfsubVV .. | .vfmulVV .. | .vfdivVV .. | .vfminVV .. | .vfmaxVV .. | .vfmaVV .. | .vfmsVV .. | .vfnmaVV .. | .vfsqrt .. => true
  | .vfrece .. | .vfrsqe .. | .vfabs .. | .vfneg .. | .vfsgnj .. | .vfaddVX .. | .vfsubVX .. | .vfmulVX .. | .vfdivVX .. | .vfminVX .. => true
  | .vfmaxVX .. | .vfmaVX .. | .vfmsVX .. | .vfnmaVX .. | .vcmpeq .. | .vcmpne .. | .vcmplt .. | .vcmple .. | .vcmpltu .. | .vcmpleu .. => true
  | .vfcmpeq .. | .vfcmplt .. | .vfcmple .. | .vfcmpun .. | .vmerge .. | .vmv .. | .vid .. | .vsplat .. | .vext .. | .vsrseed .. => true
  | .vld .. | .vldFE .. | .vldFC .. | .vlds .. | .vldff .. | .vldz .. | .vst .. | .vsts .. | .vstx .. | .vstxo .. => true
  | .vstz .. | .vpf .. | .vperm .. | .vcomp .. | .vexpd .. | .vfilt .. | .vtopk .. | .vslideup .. | .vslidedn .. | .binr .. => true
  | .challoc .. | .chpool .. | .strmLd .. | .strmLdFab .. | .strmSt .. | .strmGx .. | .strmPost .. | .strmWait .. | .tqdecl .. | .tqld .. => true
  | .tqpop .. | .vcadd .. | .vcand .. | .vcor .. | .vcxor .. | .vcmin .. | .vcmax .. | .vcminu .. | .vcmaxu .. | .vcfadd .. => true
  | .vsc .. | .amadd .. | .amand .. | .amor .. | .amxor .. | .ammin .. | .ammax .. | .amminu .. | .ammaxu .. | .amswap .. => true
  | .amcas .. | .amaddW .. | .amandW .. | .amorW .. | .amxorW .. | .amminW .. | .ammaxW .. | .amminuW .. | .ammaxuW .. | .amswapW .. => true
  | .amcasW .. | .fenceSV | .fenceVS | .fenceVV | .cflush .. | .cinv .. | .cclean .. | .czero .. | .cpf .. | .isync .. => true
  | .mmode .. | .qclaim .. | .qrel .. | .qacc .. | .bsset .. | .qdrain .. | .cfgLoad .. | .cfgCheck .. | .cfgSel .. | .cfgMark => true
  | .cfgSave .. | .cfgRest .. | .cfgGuard .. | .cfgBind .. | .cfgWr .. | .launch .. | .lstat .. | .tmark .. | .profLock .. | .profUnlock .. => true
  | .brkpt .. | .cntrd .. | .elemNop | .elemAdd .. | .elemSub .. | .elemMul .. | .elemAnd .. | .elemOr .. | .elemXor .. | .elemMin .. => true
  | .elemMax .. | .elemMinu .. | .elemMaxu .. | .elemFadd .. | .elemFsub .. | .elemFmul .. | .elemFmin .. | .elemFmax .. | .elemDot4 .. | .elemAddl .. => true
  | .elemMull .. | .elemAndl .. | .elemShl .. | .elemShr .. | .elemSar .. | .elemFma .. | .elemMac .. | .elemCmpeq .. | .elemCmplt .. | .elemCmpltu .. => true
  | .elemFcmplt .. | .elemFcmpeq .. | .elemSetp .. | .elemClrp .. | .elemMovp .. | .elemMov .. | .elemLit .. | .elemSel .. | .elemDrop .. | .elemLdt .. => true
  | .elemStt .. | .elemCnt .. | .elemCtx .. | .elemHalt | .elemAbs .. | .elemPopc .. | .elemSteer .. | .nohandlerFreeze .. | .predicateWriteResolve .. | .elementResultWrite .. => true
  | .tokenDelivery .. | .edgeQueueForward .. | .waveOperationPerform .. | .elementContextSwitch .. | .elementSnapshot .. | .markerTimeout .. | .streamOutTake .. | .cfgCheckDone .. | .cfgLoadDone .. | .cfgSaveDone .. => true
  | .cfgRestDone .. | .asyncTrap .. | .scalarAccessComplete .. | .storeQueueDrain .. | .fullemptyWake .. | .waitlineWake .. | .barwWake .. | .joinlWake .. | .slotFree .. | .pageWalk .. => true
  | .tlbInvalidateComplete .. | .reservationWaitProceed .. | .vectorInstructionStart .. | .elementGroup .. | .vldFeGroupProceed .. | .vpartEffect .. | .forklAct .. | .joinlAct .. | .sectorComplete .. | .streamFault .. => true
  | .strmWaitWake .. | .tqpopWake .. | .bufferDrained .. | .riddleBatch .. | .matrixStart .. | .rowFire .. | .rowRelease .. | .matrixComplete .. | .qclaimFillDone .. | .qrelEffect .. => true
  | .qdrainWake .. | .leaveGrant .. | .leaveRevoke .. | .matrixEntry .. | .matrixExit .. | .readinessRead .. | .claimBegin .. | .teamPlace .. | .teamFirstIssue .. | .teamEnd .. => true
  | .tileClearDone .. | .launchSignal .. | .preemptDecision .. | .swapOutSave .. | .teamRestore .. | .lineInstall .. | .taggedWrite .. | .hostBarAccess .. | .cxlRequest .. | .ndeitLoad .. => true
  | .ndeitStore .. | .ndeitAtomic .. | .ndeitReduction .. | .ndeitCoherence .. | .flitReplay .. | .linkRetrain .. | .linkRetrainDone .. | .uncorrectableError .. | .rootOfTrustBoot | .secondaryBusReset => true
  | .mgmtReset .. | .thermalShutdown | .clockThrottle .. | .clockLockDone .. | .tileLowPowerEntry .. | .lattolWrite .. | .ctxcurWrite .. | .registerWrite .. | .fkeyInstall .. | .fkeyClear .. => true
  | .fkeyCommandDone .. | .cpLoad .. | .cpCheck .. | .cpClear .. | .cpCommandDone .. | .debugGo .. | .breakpointStop .. | .traceSample .. | .attestReport .. | .attestExtend .. => true
  | .fetchTrap .. | .instructionCacheFill .. | .fabricIllegal .. | .backInvalidate .. | .currentLimit .. | .linkTrainingDone .. => true

end Sys2Proof
end

