-- ==== Sys2Proof/Decode.lean ====
section
/-! DEFINITION. The decoder of core instructions and of element instruction words, and the encoder (R27 to R49, and the
encoding tables of the class chapters). Decoding is total and rejects by name; what a field may hold beyond its width is
WellFormed's. The machine's own steps have no encoding. -/

namespace Sys2Proof

/-- Why bits are no instruction. Every reason but `truncated` and `zeroParcel` is an ILLEGAL_INSTRUCTION (R30). -/
inductive DecodeError where
  /-- parcel 0 is 0 (R30, R42) -/
  | zeroParcel
  /-- length code 0b11 (R27) -/
  | badLength
  /-- a major marked illegal (R42) -/
  | badMajor
  /-- a length its major does not permit (R29) -/
  | badForm
  /-- a function code not listed (R42) or an unassigned element operation (R48) -/
  | badFunction
  /-- a register field out of its file, or MREG without MK (R33) -/
  | registerField
  /-- a bit that must be zero (R33, R34) -/
  | notZero
  /-- fewer bytes than the instruction has -/
  | truncated
  deriving DecidableEq, Repr

/-- A field that the instruction does not use must be 0 (R33). -/
def unused {n : Nat} (f : BitVec n) : Except DecodeError Unit := if f = 0 then .ok () else .error .notZero

/-- Bits of an extension word that hold one fixed value. -/
def expect {n : Nat} (v f : BitVec n) : Except DecodeError Unit := if f = v then .ok () else .error .notZero

/-- A register number narrower than its field: the bits above must be 0 (R33). -/
def narrow {n : Nat} (k : Nat) (f : BitVec n) : Except DecodeError (BitVec k) :=
  if f.toNat < 2 ^ k then .ok (f.setWidth k) else .error .registerField

/-- The length code of a parcel 0 (R27). -/
def lenOf (w : Parcel) : BitVec 2 := w.extractLsb' 0 2

/-- The major opcode of a parcel 0 (R27). -/
def majorOf (w : Parcel) : BitVec 6 := w.extractLsb' 2 6

/-- ZR (R32): bits 31 to 23. -/
def fZRfn (w : Parcel) : BitVec 9 := w.extractLsb' 23 9
/-- ZR (R32): bits 22 to 18. -/
def fZRT (w : Parcel) : BitVec 5 := w.extractLsb' 18 5
/-- ZR (R32): bits 17 to 13. -/
def fZRS (w : Parcel) : BitVec 5 := w.extractLsb' 13 5
/-- ZR (R32): bits 12 to 8. -/
def fZRD (w : Parcel) : BitVec 5 := w.extractLsb' 8 5
/-- FCVT (R38): bits 31 to 31. -/
def fFCVTone (w : Parcel) : BitVec 1 := w.extractLsb' 31 1
/-- FCVT (R38): bits 30 to 27. -/
def fFCVTA (w : Parcel) : BitVec 4 := w.extractLsb' 27 4
/-- FCVT (R38): bits 26 to 23. -/
def fFCVTB (w : Parcel) : BitVec 4 := w.extractLsb' 23 4
/-- FCVT (R38): bits 22 to 18. -/
def fFCVTT (w : Parcel) : BitVec 5 := w.extractLsb' 18 5
/-- FCVT (R38): bits 17 to 13. -/
def fFCVTS (w : Parcel) : BitVec 5 := w.extractLsb' 13 5
/-- FCVT (R38): bits 12 to 8. -/
def fFCVTD (w : Parcel) : BitVec 5 := w.extractLsb' 8 5
/-- ZI (R32): bits 31 to 18. -/
def fZII (w : Parcel) : BitVec 14 := w.extractLsb' 18 14
/-- ZI (R32): bits 17 to 13. -/
def fZIS (w : Parcel) : BitVec 5 := w.extractLsb' 13 5
/-- ZI (R32): bits 12 to 8. -/
def fZID (w : Parcel) : BitVec 5 := w.extractLsb' 8 5
/-- major 0x03 (R35): bits 31 to 30. -/
def fZLsel (w : Parcel) : BitVec 2 := w.extractLsb' 30 2
/-- major 0x03 (R35): bits 29 to 18. -/
def fZLI (w : Parcel) : BitVec 12 := w.extractLsb' 18 12
/-- major 0x03 (R35): bits 17 to 13. -/
def fZLS (w : Parcel) : BitVec 5 := w.extractLsb' 13 5
/-- major 0x03 (R35): bits 12 to 8. -/
def fZLD (w : Parcel) : BitVec 5 := w.extractLsb' 8 5
/-- major 0x04 (R35): bits 31 to 30. -/
def fZSsel (w : Parcel) : BitVec 2 := w.extractLsb' 30 2
/-- major 0x04 (R35): bits 29 to 24. -/
def fZSZ (w : Parcel) : BitVec 6 := w.extractLsb' 24 6
/-- major 0x04 (R35): bits 23 to 18. -/
def fZSH (w : Parcel) : BitVec 6 := w.extractLsb' 18 6
/-- major 0x04 (R35): bits 17 to 13. -/
def fZSS (w : Parcel) : BitVec 5 := w.extractLsb' 13 5
/-- major 0x04 (R35): bits 12 to 8. -/
def fZSD (w : Parcel) : BitVec 5 := w.extractLsb' 8 5
/-- ZU (R32): bits 31 to 13. -/
def fZUI (w : Parcel) : BitVec 19 := w.extractLsb' 13 19
/-- ZU (R32): bits 12 to 8. -/
def fZUD (w : Parcel) : BitVec 5 := w.extractLsb' 8 5
/-- major 0x0A (R35): bits 31 to 29. -/
def fAHZ (w : Parcel) : BitVec 3 := w.extractLsb' 29 3
/-- major 0x0A (R35): bits 28 to 13. -/
def fAHI (w : Parcel) : BitVec 16 := w.extractLsb' 13 16
/-- major 0x0A (R35): bits 12 to 8. -/
def fAHD (w : Parcel) : BitVec 5 := w.extractLsb' 8 5
/-- ZB (R32): bits 31 to 22. -/
def fZBO (w : Parcel) : BitVec 10 := w.extractLsb' 22 10
/-- ZB (R32): bits 21 to 18. -/
def fZBcnd (w : Parcel) : BitVec 4 := w.extractLsb' 18 4
/-- ZB (R32): bits 17 to 13. -/
def fZBT (w : Parcel) : BitVec 5 := w.extractLsb' 13 5
/-- ZB (R32): bits 12 to 8. -/
def fZBS (w : Parcel) : BitVec 5 := w.extractLsb' 8 5
/-- scalar memory (R35): bits 31 to 20. -/
def fSMO (w : Parcel) : BitVec 12 := w.extractLsb' 20 12
/-- scalar memory (R35): bits 19 to 18. -/
def fSMW (w : Parcel) : BitVec 2 := w.extractLsb' 18 2
/-- scalar memory (R35): bits 17 to 17. -/
def fSMSX (w : Parcel) : BitVec 1 := w.extractLsb' 17 1
/-- scalar memory (R35): bits 16 to 13. -/
def fSMA (w : Parcel) : BitVec 4 := w.extractLsb' 13 4
/-- scalar memory (R35): bits 12 to 8. -/
def fSMD (w : Parcel) : BitVec 5 := w.extractLsb' 8 5
/-- SY (R32): bits 31 to 28. -/
def fSYfn4 (w : Parcel) : BitVec 4 := w.extractLsb' 28 4
/-- SY (R32): bits 27 to 13. -/
def fSYR (w : Parcel) : BitVec 15 := w.extractLsb' 13 15
/-- SY (R32): bits 12 to 8. -/
def fSYD (w : Parcel) : BitVec 5 := w.extractLsb' 8 5
/-- SBR parcel 0 (R40): bits 31 to 29. -/
def fSBn (w : Parcel) : BitVec 3 := w.extractLsb' 29 3
/-- SBR parcel 0 (R40): bits 28 to 25. -/
def fSBa3 (w : Parcel) : BitVec 4 := w.extractLsb' 25 4
/-- SBR parcel 0 (R40): bits 24 to 21. -/
def fSBa2 (w : Parcel) : BitVec 4 := w.extractLsb' 21 4
/-- SBR parcel 0 (R40): bits 20 to 17. -/
def fSBa1 (w : Parcel) : BitVec 4 := w.extractLsb' 17 4
/-- SBR parcel 0 (R40): bits 16 to 13. -/
def fSBa0 (w : Parcel) : BitVec 4 := w.extractLsb' 13 4
/-- SBR parcel 0 (R40): bits 12 to 8. -/
def fSBc (w : Parcel) : BitVec 5 := w.extractLsb' 8 5
/-- VM (R32): bits 31 to 27. -/
def fVMfn5 (w : Parcel) : BitVec 5 := w.extractLsb' 27 5
/-- VM (R32): bits 26 to 26. -/
def fVMMK (w : Parcel) : BitVec 1 := w.extractLsb' 26 1
/-- VM (R32): bits 25 to 23. -/
def fVMMREG (w : Parcel) : BitVec 3 := w.extractLsb' 23 3
/-- VM (R32): bits 22 to 22. -/
def fVMZ (w : Parcel) : BitVec 1 := w.extractLsb' 22 1
/-- VM (R32): bits 21 to 17. -/
def fVMI (w : Parcel) : BitVec 5 := w.extractLsb' 17 5
/-- VM (R32): bits 16 to 13. -/
def fVMA (w : Parcel) : BitVec 4 := w.extractLsb' 13 4
/-- VM (R32): bits 12 to 8. -/
def fVMD (w : Parcel) : BitVec 5 := w.extractLsb' 8 5
/-- VV and VX (R32): bits 31 to 27. -/
def fVVfn5 (w : Parcel) : BitVec 5 := w.extractLsb' 27 5
/-- VV and VX (R32): bits 26 to 26. -/
def fVVMK (w : Parcel) : BitVec 1 := w.extractLsb' 26 1
/-- VV and VX (R32): bits 25 to 23. -/
def fVVMREG (w : Parcel) : BitVec 3 := w.extractLsb' 23 3
/-- VV and VX (R32): bits 22 to 18. -/
def fVVT (w : Parcel) : BitVec 5 := w.extractLsb' 18 5
/-- VV and VX (R32): bits 17 to 13. -/
def fVVS (w : Parcel) : BitVec 5 := w.extractLsb' 13 5
/-- VV and VX (R32): bits 12 to 8. -/
def fVVD (w : Parcel) : BitVec 5 := w.extractLsb' 8 5

/-- The mask operand of VV, VX and VM: MK names MREG; without MK, MREG is 0 (R33). -/
def maskOpt (w : Parcel) : Except DecodeError (Option (BitVec 3)) :=
  if fVVMK w = 1 then .ok (some (fVVMREG w))
  else if fVVMREG w = 0 then .ok none else .error .registerField

/-- An instruction whose MK must be 1. -/
def maskReq (w : Parcel) : Except DecodeError (BitVec 3) :=
  if fVVMK w = 1 then .ok (fVVMREG w) else .error .registerField

/-- An instruction that takes no mask: MK and MREG are 0. -/
def noMask (w : Parcel) : Except DecodeError Unit :=
  if fVVMK w = 0 ∧ fVVMREG w = 0 then .ok () else .error .notZero

/-- The qualifier word (R36): bits 31 to 7 must be zero. -/
def decodeQual (p1 : Parcel) : Except DecodeError Qual :=
  if p1.extractLsb' 7 25 = 0 then
    .ok (Qual.mk (p1.extractLsb' 0 3) (p1.extractLsb' 3 2) (p1.extractLsb' 5 2))
  else .error .notZero

/-! Lean gives no runtime code for terms of an inductive type of more than 244 constructors, so the functions that build
an `Instr` are noncomputable; the kernel evaluates them. -/

noncomputable section

/-- Major 0x01 in its form of 1 parcel (R42). -/
def decode01_0 (w : Parcel) : Except DecodeError Instr :=
  match (fZRfn w).toNat with
  | 0 => .ok (.add (fZRD w) (fZRS w) (fZRT w))
  | 1 => .ok (.sub (fZRD w) (fZRS w) (fZRT w))
  | 2 => .ok (.and (fZRD w) (fZRS w) (fZRT w))
  | 3 => .ok (.or (fZRD w) (fZRS w) (fZRT w))
  | 4 => .ok (.xor (fZRD w) (fZRS w) (fZRT w))
  | 5 => .ok (.sll (fZRD w) (fZRS w) (fZRT w))
  | 6 => .ok (.srl (fZRD w) (fZRS w) (fZRT w))
  | 7 => .ok (.sra (fZRD w) (fZRS w) (fZRT w))
  | 8 => .ok (.slt (fZRD w) (fZRS w) (fZRT w))
  | 9 => .ok (.sltu (fZRD w) (fZRS w) (fZRT w))
  | 10 => .ok (.min (fZRD w) (fZRS w) (fZRT w))
  | 11 => .ok (.max (fZRD w) (fZRS w) (fZRT w))
  | 12 => .ok (.minu (fZRD w) (fZRS w) (fZRT w))
  | 13 => .ok (.maxu (fZRD w) (fZRS w) (fZRT w))
  | 14 => .ok (.mul (fZRD w) (fZRS w) (fZRT w))
  | 15 => .ok (.mulh (fZRD w) (fZRS w) (fZRT w))
  | 16 => .ok (.mulhu (fZRD w) (fZRS w) (fZRT w))
  | 17 => .ok (.div (fZRD w) (fZRS w) (fZRT w))
  | 18 => .ok (.divu (fZRD w) (fZRS w) (fZRT w))
  | 19 => .ok (.rem (fZRD w) (fZRS w) (fZRT w))
  | 20 => .ok (.remu (fZRD w) (fZRS w) (fZRT w))
  | 21 => .ok (.add32 (fZRD w) (fZRS w) (fZRT w))
  | 22 => .ok (.sub32 (fZRD w) (fZRS w) (fZRT w))
  | 23 => do
      unused (fZRT w)
      .ok (.clz (fZRD w) (fZRS w))
  | 24 => do
      unused (fZRT w)
      .ok (.ctz (fZRD w) (fZRS w))
  | 25 => do
      unused (fZRT w)
      .ok (.popc (fZRD w) (fZRS w))
  | 26 => do
      unused (fZRT w)
      .ok (.sxb (fZRD w) (fZRS w))
  | 27 => do
      unused (fZRT w)
      .ok (.sxh (fZRD w) (fZRS w))
  | 28 => do
      unused (fZRT w)
      .ok (.sxw (fZRD w) (fZRS w))
  | 29 => do
      unused (fZRT w)
      .ok (.zxw (fZRD w) (fZRS w))
  | _ => .error .badFunction

/-- Major 0x02 in its form of 1 parcel (R42). -/
def decode02_0 (w : Parcel) : Except DecodeError Instr :=
  .ok (.addi (fZID w) (fZIS w) (fZII w))

/-- Major 0x02 in its form of 2 parcels (R42). -/
def decode02_1 (w p1 : Parcel) : Except DecodeError Instr :=
  do
    unused (fZII w)
    .ok (.addiImm32 (fZID w) (fZIS w) p1)

/-- Major 0x03 in its form of 1 parcel (R42). -/
def decode03_0 (w : Parcel) : Except DecodeError Instr :=
  match (fZLsel w).toNat with
  | 0 => .ok (.andi (fZLD w) (fZLS w) (fZLI w))
  | 1 => .ok (.ori (fZLD w) (fZLS w) (fZLI w))
  | 2 => .ok (.xori (fZLD w) (fZLS w) (fZLI w))
  | _ => .error .badFunction

/-- Major 0x03 in its form of 2 parcels (R42). -/
def decode03_1 (w p1 : Parcel) : Except DecodeError Instr :=
  match (fZLsel w).toNat with
  | 0 => do
      unused (fZLI w)
      .ok (.andiImm32 (fZLD w) (fZLS w) p1)
  | 1 => do
      unused (fZLI w)
      .ok (.oriImm32 (fZLD w) (fZLS w) p1)
  | 2 => do
      unused (fZLI w)
      .ok (.xoriImm32 (fZLD w) (fZLS w) p1)
  | _ => .error .badFunction

/-- Major 0x04 in its form of 1 parcel (R42). -/
def decode04_0 (w : Parcel) : Except DecodeError Instr :=
  match (fZSsel w).toNat with
  | 0 => do
      unused (fZSZ w)
      .ok (.slli (fZSD w) (fZSS w) (fZSH w))
  | 1 => do
      unused (fZSZ w)
      .ok (.srli (fZSD w) (fZSS w) (fZSH w))
  | 2 => do
      unused (fZSZ w)
      .ok (.srai (fZSD w) (fZSS w) (fZSH w))
  | _ => .error .badFunction

/-- Major 0x05 in its form of 1 parcel (R42). -/
def decode05_0 (w : Parcel) : Except DecodeError Instr :=
  .ok (.lui (fZUD w) (fZUI w))

/-- Major 0x05 in its form of 2 parcels (R42). -/
def decode05_1 (w p1 : Parcel) : Except DecodeError Instr :=
  do
    unused (fZUI w)
    .ok (.liw (fZUD w) p1)

/-- Major 0x05 in its form of 3 parcels (R42). -/
def decode05_2 (w p1 p2 : Parcel) : Except DecodeError Instr :=
  do
    unused (fZUI w)
    .ok (.liq (fZUD w) (p2 ++ p1))

/-- Major 0x06 in its form of 1 parcel (R42). -/
def decode06_0 (w : Parcel) : Except DecodeError Instr :=
  match (fZRfn w).toNat with
  | 0 => .ok (.faddS (fZRD w) (fZRS w) (fZRT w))
  | 1 => .ok (.fsubS (fZRD w) (fZRS w) (fZRT w))
  | 2 => .ok (.fmulS (fZRD w) (fZRS w) (fZRT w))
  | 3 => .ok (.fdivS (fZRD w) (fZRS w) (fZRT w))
  | 4 => do
      unused (fZRT w)
      .ok (.fsqrtS (fZRD w) (fZRS w))
  | 5 => .ok (.fminS (fZRD w) (fZRS w) (fZRT w))
  | 6 => .ok (.fmaxS (fZRD w) (fZRS w) (fZRT w))
  | 7 => .ok (.fmaS (fZRD w) (fZRS w) (fZRT w))
  | 8 => .ok (.fnmaS (fZRD w) (fZRS w) (fZRT w))
  | 16 => .ok (.faddD (fZRD w) (fZRS w) (fZRT w))
  | 17 => .ok (.fsubD (fZRD w) (fZRS w) (fZRT w))
  | 18 => .ok (.fmulD (fZRD w) (fZRS w) (fZRT w))
  | 19 => .ok (.fdivD (fZRD w) (fZRS w) (fZRT w))
  | 20 => do
      unused (fZRT w)
      .ok (.fsqrtD (fZRD w) (fZRS w))
  | 21 => .ok (.fminD (fZRD w) (fZRS w) (fZRT w))
  | 22 => .ok (.fmaxD (fZRD w) (fZRS w) (fZRT w))
  | 23 => .ok (.fmaD (fZRD w) (fZRS w) (fZRT w))
  | 24 => .ok (.fnmaD (fZRD w) (fZRS w) (fZRT w))
  | _ => .error .badFunction

/-- Major 0x07 in its form of 1 parcel (R42). -/
def decode07_0 (w : Parcel) : Except DecodeError Instr :=
  if fFCVTone w = 1 then .ok (.fcvt (fFCVTD w) (fFCVTS w) (fFCVTA w) (fFCVTB w) (fFCVTT w))
  else
  match (fZRfn w).toNat with
  | 0 => .ok (.feqS (fZRD w) (fZRS w) (fZRT w))
  | 1 => .ok (.fltS (fZRD w) (fZRS w) (fZRT w))
  | 2 => .ok (.fleS (fZRD w) (fZRS w) (fZRT w))
  | 3 => do
      unused (fZRT w)
      .ok (.fclassS (fZRD w) (fZRS w))
  | 4 => .ok (.feqD (fZRD w) (fZRS w) (fZRT w))
  | 5 => .ok (.fltD (fZRD w) (fZRS w) (fZRT w))
  | 6 => .ok (.fleD (fZRD w) (fZRS w) (fZRT w))
  | 7 => do
      unused (fZRT w)
      .ok (.fclassD (fZRD w) (fZRS w))
  | _ => .error .badFunction

/-- Major 0x08 in its form of 1 parcel (R42). -/
def decode08_0 (w : Parcel) : Except DecodeError Instr :=
  match (fZRfn w).toNat with
  | 0 => do
      let s ← narrow 4 (fZRS w)
      let d ← narrow 4 (fZRD w)
      .ok (.aadd d s (fZRT w))
  | 1 => do
      let s ← narrow 4 (fZRS w)
      let d ← narrow 4 (fZRD w)
      .ok (.asub d s (fZRT w))
  | 2 => do
      let t ← narrow 4 (fZRT w)
      let s ← narrow 4 (fZRS w)
      .ok (.adiff (fZRD w) s t)
  | 3 => do
      unused (fZRT w)
      let s ← narrow 4 (fZRS w)
      let d ← narrow 4 (fZRD w)
      .ok (.amov d s)
  | 4 => do
      unused (fZRT w)
      let d ← narrow 4 (fZRD w)
      .ok (.afromx d (fZRS w))
  | 5 => do
      unused (fZRT w)
      let s ← narrow 4 (fZRS w)
      .ok (.atox (fZRD w) s)
  | _ => .error .badFunction

/-- Major 0x09 in its form of 1 parcel (R42). -/
def decode09_0 (w : Parcel) : Except DecodeError Instr :=
  do
    let s ← narrow 4 (fZIS w)
    let d ← narrow 4 (fZID w)
    .ok (.aaddi d s (fZII w))

/-- Major 0x09 in its form of 2 parcels (R42). -/
def decode09_1 (w p1 : Parcel) : Except DecodeError Instr :=
  do
    unused (fZII w)
    let s ← narrow 4 (fZIS w)
    let d ← narrow 4 (fZID w)
    .ok (.aaddiImm32 d s p1)

/-- Major 0x0A in its form of 1 parcel (R42). -/
def decode0A_0 (w : Parcel) : Except DecodeError Instr :=
  do
    unused (fAHZ w)
    let d ← narrow 4 (fAHD w)
    .ok (.ahi d (fAHI w))

/-- Major 0x0C in its form of 1 parcel (R42). -/
def decode0C_0 (w : Parcel) : Except DecodeError Instr :=
  match (fZBcnd w).toNat with
  | 0 => .ok (.beq (fZBS w) (fZBT w) (fZBO w))
  | 1 => .ok (.bne (fZBS w) (fZBT w) (fZBO w))
  | 2 => .ok (.blt (fZBS w) (fZBT w) (fZBO w))
  | 3 => .ok (.bge (fZBS w) (fZBT w) (fZBO w))
  | 4 => .ok (.bltu (fZBS w) (fZBT w) (fZBO w))
  | 5 => .ok (.bgeu (fZBS w) (fZBT w) (fZBO w))
  | 6 => do
      let t ← narrow 4 (fZBT w)
      let s ← narrow 4 (fZBS w)
      .ok (.baeq s t (fZBO w))
  | 7 => do
      let t ← narrow 4 (fZBT w)
      let s ← narrow 4 (fZBS w)
      .ok (.bane s t (fZBO w))
  | 8 => do
      let t ← narrow 4 (fZBT w)
      let s ← narrow 4 (fZBS w)
      .ok (.baltu s t (fZBO w))
  | 9 => do
      let t ← narrow 4 (fZBT w)
      let s ← narrow 4 (fZBS w)
      .ok (.bageu s t (fZBO w))
  | _ => .error .badFunction

/-- Major 0x0C in its form of 2 parcels (R42). -/
def decode0C_1 (w p1 : Parcel) : Except DecodeError Instr :=
  match (fZBcnd w).toNat with
  | 0 => do
      unused (fZBO w)
      .ok (.beqOff32 (fZBS w) (fZBT w) p1)
  | 1 => do
      unused (fZBO w)
      .ok (.bneOff32 (fZBS w) (fZBT w) p1)
  | 2 => do
      unused (fZBO w)
      .ok (.bltOff32 (fZBS w) (fZBT w) p1)
  | 3 => do
      unused (fZBO w)
      .ok (.bgeOff32 (fZBS w) (fZBT w) p1)
  | 4 => do
      unused (fZBO w)
      .ok (.bltuOff32 (fZBS w) (fZBT w) p1)
  | 5 => do
      unused (fZBO w)
      .ok (.bgeuOff32 (fZBS w) (fZBT w) p1)
  | 6 => do
      unused (fZBO w)
      let t ← narrow 4 (fZBT w)
      let s ← narrow 4 (fZBS w)
      .ok (.baeqOff32 s t p1)
  | 7 => do
      unused (fZBO w)
      let t ← narrow 4 (fZBT w)
      let s ← narrow 4 (fZBS w)
      .ok (.baneOff32 s t p1)
  | 8 => do
      unused (fZBO w)
      let t ← narrow 4 (fZBT w)
      let s ← narrow 4 (fZBS w)
      .ok (.baltuOff32 s t p1)
  | 9 => do
      unused (fZBO w)
      let t ← narrow 4 (fZBT w)
      let s ← narrow 4 (fZBS w)
      .ok (.bageuOff32 s t p1)
  | _ => .error .badFunction

/-- Major 0x0D in its form of 1 parcel (R42). -/
def decode0D_0 (w : Parcel) : Except DecodeError Instr :=
  do
    let d ← narrow 4 (fZUD w)
    .ok (.jal d (fZUI w))

/-- Major 0x0D in its form of 2 parcels (R42). -/
def decode0D_1 (w p1 : Parcel) : Except DecodeError Instr :=
  do
    unused (fZUI w)
    let d ← narrow 4 (fZUD w)
    .ok (.jalOff32 d p1)

/-- Major 0x0E in its form of 1 parcel (R42). -/
def decode0E_0 (w : Parcel) : Except DecodeError Instr :=
  do
    let s ← narrow 4 (fZIS w)
    let d ← narrow 4 (fZID w)
    .ok (.jalr d s (fZII w))

/-- Major 0x10 in its form of 1 parcel (R42). -/
def decode10_0 (w : Parcel) : Except DecodeError Instr :=
  match (w.extractLsb' 17 3).toNat with
  | 0 => .ok (.lbu (fSMD w) (fSMA w) (fSMO w))
  | 1 => .ok (.lb (fSMD w) (fSMA w) (fSMO w))
  | 2 => .ok (.lhu (fSMD w) (fSMA w) (fSMO w))
  | 3 => .ok (.lh (fSMD w) (fSMA w) (fSMO w))
  | 4 => .ok (.lwu (fSMD w) (fSMA w) (fSMO w))
  | 5 => .ok (.lw (fSMD w) (fSMA w) (fSMO w))
  | 6 => .ok (.ld (fSMD w) (fSMA w) (fSMO w))
  | _ => .error .badFunction

/-- Major 0x11 in its form of 1 parcel (R42). -/
def decode11_0 (w : Parcel) : Except DecodeError Instr :=
  match (w.extractLsb' 17 3).toNat with
  | 0 => .ok (.sb (fSMD w) (fSMA w) (fSMO w))
  | 2 => .ok (.sh (fSMD w) (fSMA w) (fSMO w))
  | 4 => .ok (.sw (fSMD w) (fSMA w) (fSMO w))
  | 6 => .ok (.sd (fSMD w) (fSMA w) (fSMO w))
  | _ => .error .badFunction

/-- Major 0x12 in its form of 2 parcels (R42). -/
def decode12_1 (w p1 : Parcel) : Except DecodeError Instr :=
  match (w.extractLsb' 17 3).toNat with
  | 0 => do
      let q ← decodeQual p1
      .ok (.lbuQ32 (fSMD w) (fSMA w) (fSMO w) q)
  | 1 => do
      let q ← decodeQual p1
      .ok (.lbQ32 (fSMD w) (fSMA w) (fSMO w) q)
  | 2 => do
      let q ← decodeQual p1
      .ok (.lhuQ32 (fSMD w) (fSMA w) (fSMO w) q)
  | 3 => do
      let q ← decodeQual p1
      .ok (.lhQ32 (fSMD w) (fSMA w) (fSMO w) q)
  | 4 => do
      let q ← decodeQual p1
      .ok (.lwuQ32 (fSMD w) (fSMA w) (fSMO w) q)
  | 5 => do
      let q ← decodeQual p1
      .ok (.lwQ32 (fSMD w) (fSMA w) (fSMO w) q)
  | 6 => do
      let q ← decodeQual p1
      .ok (.ldQ32 (fSMD w) (fSMA w) (fSMO w) q)
  | _ => .error .badFunction

/-- Major 0x13 in its form of 2 parcels (R42). -/
def decode13_1 (w p1 : Parcel) : Except DecodeError Instr :=
  match (w.extractLsb' 17 3).toNat with
  | 0 => do
      let q ← decodeQual p1
      .ok (.sbQ32 (fSMD w) (fSMA w) (fSMO w) q)
  | 2 => do
      let q ← decodeQual p1
      .ok (.shQ32 (fSMD w) (fSMA w) (fSMO w) q)
  | 4 => do
      let q ← decodeQual p1
      .ok (.swQ32 (fSMD w) (fSMA w) (fSMO w) q)
  | 6 => do
      let q ← decodeQual p1
      .ok (.sdQ32 (fSMD w) (fSMA w) (fSMO w) q)
  | _ => .error .badFunction

/-- Major 0x14 in its form of 1 parcel (R42). -/
def decode14_0 (w : Parcel) : Except DecodeError Instr :=
  match (fZRfn w).toNat with
  | 0 => do
      unused (fZRT w)
      unused (fZRS w)
      unused (fZRD w)
      .ok (.yield)
  | 1 => do
      let s ← narrow 4 (fZRS w)
      .ok (.waitline (fZRD w) s (fZRT w))
  | 2 => do
      unused (fZRT w)
      let s ← narrow 4 (fZRS w)
      .ok (.forkl (fZRD w) s)
  | 3 => do
      unused (fZRT w)
      unused (fZRS w)
      unused (fZRD w)
      .ok (.joinl)
  | 4 => do
      unused (fZRT w)
      unused (fZRS w)
      unused (fZRD w)
      .ok (.exit)
  | _ => .error .badFunction

/-- Major 0x16 in its form of 1 parcel (R42). -/
def decode16_0 (w : Parcel) : Except DecodeError Instr :=
  match (fSYfn4 w).toNat with
  | 0 => .ok (.sysrd (fSYD w) (fSYR w))
  | 1 => .ok (.syswr (fSYD w) (fSYR w))
  | 2 => .ok (.sysset (fSYD w) (fSYR w))
  | 3 => .ok (.sysclr (fSYD w) (fSYR w))
  | 4 => .ok (.sysxch (fSYD w) (fSYR w))
  | _ => .error .badFunction

/-- Major 0x17 in its form of 1 parcel (R42). -/
def decode17_0 (w : Parcel) : Except DecodeError Instr :=
  match (fZRfn w).toNat with
  | 0 => do
      unused (fZRT w)
      unused (fZRS w)
      unused (fZRD w)
      .ok (.scall)
  | 1 => do
      unused (fZRT w)
      unused (fZRS w)
      unused (fZRD w)
      .ok (.tret)
  | 2 => do
      let s ← narrow 4 (fZRS w)
      unused (fZRD w)
      .ok (.tlbiva s (fZRT w))
  | 3 => do
      unused (fZRS w)
      unused (fZRD w)
      .ok (.tlbias (fZRT w))
  | 4 => do
      unused (fZRT w)
      unused (fZRS w)
      unused (fZRD w)
      .ok (.tlbiall)
  | 5 => do
      unused (fZRT w)
      unused (fZRS w)
      .ok (.leave (fZRD w))
  | _ => .error .badFunction

/-- Major 0x18 in its form of 1 parcel (R42). -/
def decode18_0 (w : Parcel) : Except DecodeError Instr :=
  match (fZRfn w).toNat with
  | 0 => do
      unused (fZRT w)
      .ok (.vsetl (fZRD w) (fZRS w))
  | 1 => do
      unused (fZRT w)
      .ok (.vsetcfg (fZRD w) (fZRS w))
  | 2 => do
      unused (fZRT w)
      unused (fZRD w)
      .ok (.vpart (fZRS w))
  | _ => .error .badFunction

/-- Major 0x19 in its form of 2 parcels (R42). -/
def decode19_1 (w p1 : Parcel) : Except DecodeError Instr :=
  .ok (.sbr (fSBc w) (fSBa0 w) (fSBa1 w) (fSBa2 w) (fSBa3 w) (fSBn w) (p1.extractLsb' 0 8) (p1.extractLsb' 8 24))

/-- Major 0x1A in its form of 1 parcel (R42). -/
def decode1A_0 (w : Parcel) : Except DecodeError Instr :=
  match (fVVfn5 w).toNat with
  | 0 => do
      noMask w
      let t ← narrow 3 (fVVT w)
      let s ← narrow 3 (fVVS w)
      let d ← narrow 3 (fVVD w)
      .ok (.mand d s t)
  | 1 => do
      noMask w
      let t ← narrow 3 (fVVT w)
      let s ← narrow 3 (fVVS w)
      let d ← narrow 3 (fVVD w)
      .ok (.mor d s t)
  | 2 => do
      noMask w
      let t ← narrow 3 (fVVT w)
      let s ← narrow 3 (fVVS w)
      let d ← narrow 3 (fVVD w)
      .ok (.mxor d s t)
  | 3 => do
      noMask w
      let t ← narrow 3 (fVVT w)
      let s ← narrow 3 (fVVS w)
      let d ← narrow 3 (fVVD w)
      .ok (.mandn d s t)
  | 4 => do
      noMask w
      unused (fVVT w)
      let s ← narrow 3 (fVVS w)
      let d ← narrow 3 (fVVD w)
      .ok (.mnot d s)
  | 5 => do
      noMask w
      unused (fVVT w)
      unused (fVVS w)
      let d ← narrow 3 (fVVD w)
      .ok (.mset d)
  | 6 => do
      noMask w
      unused (fVVT w)
      unused (fVVS w)
      let d ← narrow 3 (fVVD w)
      .ok (.mclr d)
  | 7 => do
      noMask w
      unused (fVVT w)
      let s ← narrow 3 (fVVS w)
      .ok (.mpopc (fVVD w) s)
  | 8 => do
      noMask w
      unused (fVVT w)
      let s ← narrow 3 (fVVS w)
      .ok (.mfirst (fVVD w) s)
  | _ => .error .badFunction

/-- Major 0x1C in its form of 1 parcel (R42). -/
def decode1C_0 (w : Parcel) : Except DecodeError Instr :=
  match (fVVfn5 w).toNat with
  | 0 => do
      let mk ← maskOpt w
      .ok (.vaddVV (fVVD w) (fVVS w) (fVVT w) mk)
  | 1 => do
      let mk ← maskOpt w
      .ok (.vsubVV (fVVD w) (fVVS w) (fVVT w) mk)
  | 2 => do
      let mk ← maskOpt w
      .ok (.vandVV (fVVD w) (fVVS w) (fVVT w) mk)
  | 3 => do
      let mk ← maskOpt w
      .ok (.vorVV (fVVD w) (fVVS w) (fVVT w) mk)
  | 4 => do
      let mk ← maskOpt w
      .ok (.vxorVV (fVVD w) (fVVS w) (fVVT w) mk)
  | 5 => do
      let mk ← maskOpt w
      .ok (.vsllVV (fVVD w) (fVVS w) (fVVT w) mk)
  | 6 => do
      let mk ← maskOpt w
      .ok (.vsrlVV (fVVD w) (fVVS w) (fVVT w) mk)
  | 7 => do
      let mk ← maskOpt w
      .ok (.vsraVV (fVVD w) (fVVS w) (fVVT w) mk)
  | 8 => do
      let mk ← maskOpt w
      .ok (.vminVV (fVVD w) (fVVS w) (fVVT w) mk)
  | 9 => do
      let mk ← maskOpt w
      .ok (.vmaxVV (fVVD w) (fVVS w) (fVVT w) mk)
  | 10 => do
      let mk ← maskOpt w
      .ok (.vminuVV (fVVD w) (fVVS w) (fVVT w) mk)
  | 11 => do
      let mk ← maskOpt w
      .ok (.vmaxuVV (fVVD w) (fVVS w) (fVVT w) mk)
  | 12 => do
      let mk ← maskOpt w
      .ok (.vmulVV (fVVD w) (fVVS w) (fVVT w) mk)
  | 13 => do
      let mk ← maskOpt w
      .ok (.vmulhVV (fVVD w) (fVVS w) (fVVT w) mk)
  | 14 => do
      let mk ← maskOpt w
      .ok (.vmulhuVV (fVVD w) (fVVS w) (fVVT w) mk)
  | 15 => do
      let mk ← maskOpt w
      .ok (.vdivVV (fVVD w) (fVVS w) (fVVT w) mk)
  | 16 => do
      let mk ← maskOpt w
      .ok (.vdivuVV (fVVD w) (fVVS w) (fVVT w) mk)
  | 17 => do
      let mk ← maskOpt w
      .ok (.vremVV (fVVD w) (fVVS w) (fVVT w) mk)
  | 18 => do
      let mk ← maskOpt w
      .ok (.vremuVV (fVVD w) (fVVS w) (fVVT w) mk)
  | 19 => do
      let mk ← maskOpt w
      .ok (.vsaddVV (fVVD w) (fVVS w) (fVVT w) mk)
  | 20 => do
      let mk ← maskOpt w
      .ok (.vsadduVV (fVVD w) (fVVS w) (fVVT w) mk)
  | 21 => do
      let mk ← maskOpt w
      .ok (.vssubVV (fVVD w) (fVVS w) (fVVT w) mk)
  | 22 => do
      let mk ← maskOpt w
      .ok (.vssubuVV (fVVD w) (fVVS w) (fVVT w) mk)
  | 23 => do
      let mk ← maskOpt w
      unused (fVVT w)
      .ok (.vabs (fVVD w) (fVVS w) mk)
  | 24 => do
      let mk ← maskOpt w
      unused (fVVT w)
      .ok (.vneg (fVVD w) (fVVS w) mk)
  | _ => .error .badFunction

/-- Major 0x1D in its form of 1 parcel (R42). -/
def decode1D_0 (w : Parcel) : Except DecodeError Instr :=
  match (fVVfn5 w).toNat with
  | 0 => do
      let mk ← maskOpt w
      .ok (.vaddVX (fVVD w) (fVVS w) (fVVT w) mk)
  | 1 => do
      let mk ← maskOpt w
      .ok (.vsubVX (fVVD w) (fVVS w) (fVVT w) mk)
  | 2 => do
      let mk ← maskOpt w
      .ok (.vandVX (fVVD w) (fVVS w) (fVVT w) mk)
  | 3 => do
      let mk ← maskOpt w
      .ok (.vorVX (fVVD w) (fVVS w) (fVVT w) mk)
  | 4 => do
      let mk ← maskOpt w
      .ok (.vxorVX (fVVD w) (fVVS w) (fVVT w) mk)
  | 5 => do
      let mk ← maskOpt w
      .ok (.vsllVX (fVVD w) (fVVS w) (fVVT w) mk)
  | 6 => do
      let mk ← maskOpt w
      .ok (.vsrlVX (fVVD w) (fVVS w) (fVVT w) mk)
  | 7 => do
      let mk ← maskOpt w
      .ok (.vsraVX (fVVD w) (fVVS w) (fVVT w) mk)
  | 8 => do
      let mk ← maskOpt w
      .ok (.vminVX (fVVD w) (fVVS w) (fVVT w) mk)
  | 9 => do
      let mk ← maskOpt w
      .ok (.vmaxVX (fVVD w) (fVVS w) (fVVT w) mk)
  | 10 => do
      let mk ← maskOpt w
      .ok (.vminuVX (fVVD w) (fVVS w) (fVVT w) mk)
  | 11 => do
      let mk ← maskOpt w
      .ok (.vmaxuVX (fVVD w) (fVVS w) (fVVT w) mk)
  | 12 => do
      let mk ← maskOpt w
      .ok (.vmulVX (fVVD w) (fVVS w) (fVVT w) mk)
  | 13 => do
      let mk ← maskOpt w
      .ok (.vmulhVX (fVVD w) (fVVS w) (fVVT w) mk)
  | 14 => do
      let mk ← maskOpt w
      .ok (.vmulhuVX (fVVD w) (fVVS w) (fVVT w) mk)
  | 15 => do
      let mk ← maskOpt w
      .ok (.vdivVX (fVVD w) (fVVS w) (fVVT w) mk)
  | 16 => do
      let mk ← maskOpt w
      .ok (.vdivuVX (fVVD w) (fVVS w) (fVVT w) mk)
  | 17 => do
      let mk ← maskOpt w
      .ok (.vremVX (fVVD w) (fVVS w) (fVVT w) mk)
  | 18 => do
      let mk ← maskOpt w
      .ok (.vremuVX (fVVD w) (fVVS w) (fVVT w) mk)
  | 19 => do
      let mk ← maskOpt w
      .ok (.vsaddVX (fVVD w) (fVVS w) (fVVT w) mk)
  | 20 => do
      let mk ← maskOpt w
      .ok (.vsadduVX (fVVD w) (fVVS w) (fVVT w) mk)
  | 21 => do
      let mk ← maskOpt w
      .ok (.vssubVX (fVVD w) (fVVS w) (fVVT w) mk)
  | 22 => do
      let mk ← maskOpt w
      .ok (.vssubuVX (fVVD w) (fVVS w) (fVVT w) mk)
  | _ => .error .badFunction

/-- Major 0x1E in its form of 1 parcel (R42). -/
def decode1E_0 (w : Parcel) : Except DecodeError Instr :=
  match (fVVfn5 w).toNat with
  | 0 => do
      let mk ← maskOpt w
      .ok (.vaddVI (fVVD w) (fVVS w) (fVVT w) mk)
  | 1 => do
      let mk ← maskOpt w
      .ok (.vsubVI (fVVD w) (fVVS w) (fVVT w) mk)
  | 2 => do
      let mk ← maskOpt w
      .ok (.vandVI (fVVD w) (fVVS w) (fVVT w) mk)
  | 3 => do
      let mk ← maskOpt w
      .ok (.vorVI (fVVD w) (fVVS w) (fVVT w) mk)
  | 4 => do
      let mk ← maskOpt w
      .ok (.vxorVI (fVVD w) (fVVS w) (fVVT w) mk)
  | 5 => do
      let mk ← maskOpt w
      .ok (.vsllVI (fVVD w) (fVVS w) (fVVT w) mk)
  | 6 => do
      let mk ← maskOpt w
      .ok (.vsrlVI (fVVD w) (fVVS w) (fVVT w) mk)
  | 7 => do
      let mk ← maskOpt w
      .ok (.vsraVI (fVVD w) (fVVS w) (fVVT w) mk)
  | 8 => do
      let mk ← maskOpt w
      .ok (.vminVI (fVVD w) (fVVS w) (fVVT w) mk)
  | 9 => do
      let mk ← maskOpt w
      .ok (.vmaxVI (fVVD w) (fVVS w) (fVVT w) mk)
  | 10 => do
      let mk ← maskOpt w
      .ok (.vminuVI (fVVD w) (fVVS w) (fVVT w) mk)
  | 11 => do
      let mk ← maskOpt w
      .ok (.vmaxuVI (fVVD w) (fVVS w) (fVVT w) mk)
  | 19 => do
      let mk ← maskOpt w
      .ok (.vsaddVI (fVVD w) (fVVS w) (fVVT w) mk)
  | 20 => do
      let mk ← maskOpt w
      .ok (.vsadduVI (fVVD w) (fVVS w) (fVVT w) mk)
  | 21 => do
      let mk ← maskOpt w
      .ok (.vssubVI (fVVD w) (fVVS w) (fVVT w) mk)
  | 22 => do
      let mk ← maskOpt w
      .ok (.vssubuVI (fVVD w) (fVVS w) (fVVT w) mk)
  | _ => .error .badFunction

/-- Major 0x1F in its form of 1 parcel (R42). -/
def decode1F_0 (w : Parcel) : Except DecodeError Instr :=
  match (fVVfn5 w).toNat with
  | 0 => do
      let mk ← maskOpt w
      .ok (.vfaddVV (fVVD w) (fVVS w) (fVVT w) mk)
  | 1 => do
      let mk ← maskOpt w
      .ok (.vfsubVV (fVVD w) (fVVS w) (fVVT w) mk)
  | 2 => do
      let mk ← maskOpt w
      .ok (.vfmulVV (fVVD w) (fVVS w) (fVVT w) mk)
  | 3 => do
      let mk ← maskOpt w
      .ok (.vfdivVV (fVVD w) (fVVS w) (fVVT w) mk)
  | 4 => do
      let mk ← maskOpt w
      .ok (.vfminVV (fVVD w) (fVVS w) (fVVT w) mk)
  | 5 => do
      let mk ← maskOpt w
      .ok (.vfmaxVV (fVVD w) (fVVS w) (fVVT w) mk)
  | 6 => do
      let mk ← maskOpt w
      .ok (.vfmaVV (fVVD w) (fVVS w) (fVVT w) mk)
  | 7 => do
      let mk ← maskOpt w
      .ok (.vfmsVV (fVVD w) (fVVS w) (fVVT w) mk)
  | 8 => do
      let mk ← maskOpt w
      .ok (.vfnmaVV (fVVD w) (fVVS w) (fVVT w) mk)
  | 9 => do
      let mk ← maskOpt w
      unused (fVVT w)
      .ok (.vfsqrt (fVVD w) (fVVS w) mk)
  | 10 => do
      let mk ← maskOpt w
      unused (fVVT w)
      .ok (.vfrece (fVVD w) (fVVS w) mk)
  | 11 => do
      let mk ← maskOpt w
      unused (fVVT w)
      .ok (.vfrsqe (fVVD w) (fVVS w) mk)
  | 12 => do
      let mk ← maskOpt w
      unused (fVVT w)
      .ok (.vfabs (fVVD w) (fVVS w) mk)
  | 13 => do
      let mk ← maskOpt w
      unused (fVVT w)
      .ok (.vfneg (fVVD w) (fVVS w) mk)
  | 14 => do
      let mk ← maskOpt w
      .ok (.vfsgnj (fVVD w) (fVVS w) (fVVT w) mk)
  | _ => .error .badFunction

/-- Major 0x20 in its form of 1 parcel (R42). -/
def decode20_0 (w : Parcel) : Except DecodeError Instr :=
  match (fVVfn5 w).toNat with
  | 0 => do
      let mk ← maskOpt w
      .ok (.vfaddVX (fVVD w) (fVVS w) (fVVT w) mk)
  | 1 => do
      let mk ← maskOpt w
      .ok (.vfsubVX (fVVD w) (fVVS w) (fVVT w) mk)
  | 2 => do
      let mk ← maskOpt w
      .ok (.vfmulVX (fVVD w) (fVVS w) (fVVT w) mk)
  | 3 => do
      let mk ← maskOpt w
      .ok (.vfdivVX (fVVD w) (fVVS w) (fVVT w) mk)
  | 4 => do
      let mk ← maskOpt w
      .ok (.vfminVX (fVVD w) (fVVS w) (fVVT w) mk)
  | 5 => do
      let mk ← maskOpt w
      .ok (.vfmaxVX (fVVD w) (fVVS w) (fVVT w) mk)
  | 6 => do
      let mk ← maskOpt w
      .ok (.vfmaVX (fVVD w) (fVVS w) (fVVT w) mk)
  | 7 => do
      let mk ← maskOpt w
      .ok (.vfmsVX (fVVD w) (fVVS w) (fVVT w) mk)
  | 8 => do
      let mk ← maskOpt w
      .ok (.vfnmaVX (fVVD w) (fVVS w) (fVVT w) mk)
  | _ => .error .badFunction

/-- Major 0x21 in its form of 1 parcel (R42). -/
def decode21_0 (w : Parcel) : Except DecodeError Instr :=
  match (fVVfn5 w).toNat with
  | 0 => do
      let mk ← maskOpt w
      let d ← narrow 3 (fVVD w)
      .ok (.vcmpeq d (fVVS w) (fVVT w) mk)
  | 1 => do
      let mk ← maskOpt w
      let d ← narrow 3 (fVVD w)
      .ok (.vcmpne d (fVVS w) (fVVT w) mk)
  | 2 => do
      let mk ← maskOpt w
      let d ← narrow 3 (fVVD w)
      .ok (.vcmplt d (fVVS w) (fVVT w) mk)
  | 3 => do
      let mk ← maskOpt w
      let d ← narrow 3 (fVVD w)
      .ok (.vcmple d (fVVS w) (fVVT w) mk)
  | 4 => do
      let mk ← maskOpt w
      let d ← narrow 3 (fVVD w)
      .ok (.vcmpltu d (fVVS w) (fVVT w) mk)
  | 5 => do
      let mk ← maskOpt w
      let d ← narrow 3 (fVVD w)
      .ok (.vcmpleu d (fVVS w) (fVVT w) mk)
  | 6 => do
      let mk ← maskOpt w
      let d ← narrow 3 (fVVD w)
      .ok (.vfcmpeq d (fVVS w) (fVVT w) mk)
  | 7 => do
      let mk ← maskOpt w
      let d ← narrow 3 (fVVD w)
      .ok (.vfcmplt d (fVVS w) (fVVT w) mk)
  | 8 => do
      let mk ← maskOpt w
      let d ← narrow 3 (fVVD w)
      .ok (.vfcmple d (fVVS w) (fVVT w) mk)
  | 9 => do
      let mk ← maskOpt w
      let d ← narrow 3 (fVVD w)
      .ok (.vfcmpun d (fVVS w) (fVVT w) mk)
  | _ => .error .badFunction

/-- Major 0x22 in its form of 1 parcel (R42). -/
def decode22_0 (w : Parcel) : Except DecodeError Instr :=
  match (fVVfn5 w).toNat with
  | 0 => do
      let m ← maskReq w
      .ok (.vmerge (fVVD w) (fVVS w) (fVVT w) m)
  | 1 => do
      let mk ← maskOpt w
      unused (fVVT w)
      .ok (.vmv (fVVD w) (fVVS w) mk)
  | 2 => do
      let mk ← maskOpt w
      unused (fVVT w)
      unused (fVVS w)
      .ok (.vid (fVVD w) mk)
  | 3 => do
      let mk ← maskOpt w
      unused (fVVS w)
      .ok (.vsplat (fVVD w) (fVVT w) mk)
  | 4 => do
      noMask w
      .ok (.vext (fVVD w) (fVVS w) (fVVT w))
  | _ => .error .badFunction

/-- Major 0x23 in its form of 1 parcel (R42). -/
def decode23_0 (w : Parcel) : Except DecodeError Instr :=
  match (fVVfn5 w).toNat with
  | 0 => do
      let mk ← maskOpt w
      .ok (.vdot4 (fVVD w) (fVVS w) (fVVT w) mk)
  | 1 => do
      let mk ← maskOpt w
      .ok (.vdot8 (fVVD w) (fVVS w) (fVVT w) mk)
  | 2 => do
      let mk ← maskOpt w
      .ok (.vbsapply (fVVD w) (fVVS w) (fVVT w) mk)
  | _ => .error .badFunction

/-- Major 0x24 in its form of 2 parcels (R42). -/
def decode24_1 (w p1 : Parcel) : Except DecodeError Instr :=
  match (fVVfn5 w).toNat with
  | 0 => do
      let mk ← maskOpt w
      unused (fVVT w)
      expect 0 (p1.extractLsb' 12 20)
      .ok (.vcvt (fVVD w) (fVVS w) mk (p1.extractLsb' 0 4) (p1.extractLsb' 4 4) (p1.extractLsb' 8 3) (p1.extractLsb' 11 1))
  | 1 => do
      let mk ← maskOpt w
      unused (fVVT w)
      expect 0 (p1.extractLsb' 12 20)
      .ok (.vcvtW (fVVD w) (fVVS w) mk (p1.extractLsb' 0 4) (p1.extractLsb' 4 4) (p1.extractLsb' 8 3) (p1.extractLsb' 11 1))
  | 2 => do
      let mk ← maskOpt w
      unused (fVVT w)
      expect 0 (p1.extractLsb' 12 20)
      .ok (.vcvtN (fVVD w) (fVVS w) mk (p1.extractLsb' 0 4) (p1.extractLsb' 4 4) (p1.extractLsb' 8 3) (p1.extractLsb' 11 1))
  | 3 => do
      let mk ← maskOpt w
      expect 0 (p1.extractLsb' 12 20)
      .ok (.vcvtSC (fVVD w) (fVVS w) (fVVT w) mk (p1.extractLsb' 0 4) (p1.extractLsb' 4 4) (p1.extractLsb' 8 3) (p1.extractLsb' 11 1))
  | _ => .error .badFunction

/-- Major 0x25 in its form of 1 parcel (R42). -/
def decode25_0 (w : Parcel) : Except DecodeError Instr :=
  match (fVVfn5 w).toNat with
  | 0 => do
      noMask w
      unused (fVVS w)
      unused (fVVD w)
      .ok (.vsrseed (fVVT w))
  | _ => .error .badFunction

/-- Major 0x26 in its form of 1 parcel (R42). -/
def decode26_0 (w : Parcel) : Except DecodeError Instr :=
  match (fVMfn5 w).toNat with
  | 0 => do
      let mk ← maskOpt w
      unused (fVMZ w)
      unused (fVMI w)
      .ok (.vld (fVMD w) (fVMA w) mk)
  | 1 => do
      let mk ← maskOpt w
      unused (fVMZ w)
      unused (fVMI w)
      .ok (.vldFE (fVMD w) (fVMA w) mk)
  | 2 => do
      let mk ← maskOpt w
      unused (fVMZ w)
      unused (fVMI w)
      .ok (.vldFC (fVMD w) (fVMA w) mk)
  | 3 => do
      let mk ← maskOpt w
      unused (fVMZ w)
      .ok (.vlds (fVMD w) (fVMA w) (fVMI w) mk)
  | 4 => do
      let mk ← maskOpt w
      unused (fVMZ w)
      .ok (.vldx (fVMD w) (fVMA w) (fVMI w) mk)
  | 5 => do
      let mk ← maskOpt w
      unused (fVMZ w)
      unused (fVMI w)
      .ok (.vldff (fVMD w) (fVMA w) mk)
  | 6 => do
      noMask w
      unused (fVMZ w)
      .ok (.vldz (fVMD w) (fVMA w) (fVMI w))
  | 7 => do
      let mk ← maskOpt w
      unused (fVMZ w)
      .ok (.vldseg (fVMD w) (fVMA w) (fVMI w) mk)
  | _ => .error .badFunction

/-- Major 0x27 in its form of 1 parcel (R42). -/
def decode27_0 (w : Parcel) : Except DecodeError Instr :=
  match (fVMfn5 w).toNat with
  | 0 => do
      let mk ← maskOpt w
      unused (fVMZ w)
      unused (fVMI w)
      .ok (.vst (fVMD w) (fVMA w) mk)
  | 1 => do
      let mk ← maskOpt w
      unused (fVMZ w)
      .ok (.vsts (fVMD w) (fVMA w) (fVMI w) mk)
  | 2 => do
      let mk ← maskOpt w
      unused (fVMZ w)
      .ok (.vstx (fVMD w) (fVMA w) (fVMI w) mk)
  | 3 => do
      let mk ← maskOpt w
      unused (fVMZ w)
      .ok (.vstxo (fVMD w) (fVMA w) (fVMI w) mk)
  | 4 => do
      noMask w
      unused (fVMZ w)
      .ok (.vstz (fVMD w) (fVMA w) (fVMI w))
  | 5 => do
      let mk ← maskOpt w
      unused (fVMZ w)
      .ok (.vstseg (fVMD w) (fVMA w) (fVMI w) mk)
  | _ => .error .badFunction

/-- Major 0x28 in its form of 1 parcel (R42). -/
def decode28_0 (w : Parcel) : Except DecodeError Instr :=
  match (fVMfn5 w).toNat with
  | 0 => do
      let mk ← maskOpt w
      unused (fVMZ w)
      unused (fVMD w)
      .ok (.vpf (fVMA w) (fVMI w) mk)
  | _ => .error .badFunction

/-- Major 0x2A in its form of 1 parcel (R42). -/
def decode2A_0 (w : Parcel) : Except DecodeError Instr :=
  match (fVVfn5 w).toNat with
  | 0 => do
      let mk ← maskOpt w
      .ok (.vred (fVVD w) (fVVS w) (fVVT w) mk)
  | 1 => do
      let mk ← maskOpt w
      .ok (.vscan (fVVD w) (fVVS w) (fVVT w) mk)
  | 2 => do
      let mk ← maskOpt w
      .ok (.vscanx (fVVD w) (fVVS w) (fVVT w) mk)
  | 3 => do
      let mk ← maskOpt w
      .ok (.vperm (fVVD w) (fVVS w) (fVVT w) mk)
  | 4 => do
      let m ← maskReq w
      unused (fVVT w)
      .ok (.vcomp (fVVD w) (fVVS w) m)
  | 5 => do
      let m ← maskReq w
      unused (fVVT w)
      .ok (.vexpd (fVVD w) (fVVS w) m)
  | 6 => do
      let mk ← maskOpt w
      unused (fVVT w)
      .ok (.vfilt (fVVD w) (fVVS w) mk)
  | 7 => do
      let mk ← maskOpt w
      .ok (.vtopk (fVVD w) (fVVS w) (fVVT w) mk)
  | 8 => do
      let mk ← maskOpt w
      .ok (.vslideup (fVVD w) (fVVS w) (fVVT w) mk)
  | 9 => do
      let mk ← maskOpt w
      .ok (.vslidedn (fVVD w) (fVVS w) (fVVT w) mk)
  | _ => .error .badFunction

/-- Major 0x2C in its form of 1 parcel (R42). -/
def decode2C_0 (w : Parcel) : Except DecodeError Instr :=
  match (fZRfn w).toNat with
  | 0 => do
      unused (fZRT w)
      let s ← narrow 4 (fZRS w)
      .ok (.binr (fZRD w) s)
  | 1 => do
      let t ← narrow 4 (fZRT w)
      let s ← narrow 4 (fZRS w)
      let d ← narrow 4 (fZRD w)
      .ok (.challoc d s t)
  | 2 => do
      unused (fZRT w)
      let s ← narrow 4 (fZRS w)
      .ok (.chpool (fZRD w) s)
  | _ => .error .badFunction

/-- Major 0x2D in its form of 2 parcels (R42). -/
def decode2D_1 (w p1 : Parcel) : Except DecodeError Instr :=
  match (fZRfn w).toNat with
  | 0 => if p1.extractLsb' 8 1 = 0 then do
      let s ← narrow 4 (fZRS w)
      let d ← narrow 4 (fZRD w)
      expect 0 (p1.extractLsb' 8 24)
      .ok (.strmLd d s (fZRT w) (p1.extractLsb' 0 6) (p1.extractLsb' 6 2))
    else do
      let s ← narrow 4 (fZRS w)
      unused (fZRD w)
      expect 1 (p1.extractLsb' 8 24)
      .ok (.strmLdFab s (fZRT w) (p1.extractLsb' 0 6) (p1.extractLsb' 6 2))
  | 1 => do
    let s ← narrow 4 (fZRS w)
    let d ← narrow 4 (fZRD w)
    expect 0 (p1.extractLsb' 8 24)
    .ok (.strmSt d s (fZRT w) (p1.extractLsb' 0 6) (p1.extractLsb' 6 2))
  | 2 => do
    let s ← narrow 4 (fZRS w)
    let d ← narrow 4 (fZRD w)
    expect 0 (p1.extractLsb' 13 19)
    .ok (.strmCp d s (fZRT w) (p1.extractLsb' 0 6) (p1.extractLsb' 6 2) (p1.extractLsb' 8 1) (p1.extractLsb' 9 3) (p1.extractLsb' 12 1))
  | 3 => do
    let t ← narrow 4 (fZRT w)
    let s ← narrow 4 (fZRS w)
    let d ← narrow 4 (fZRD w)
    expect 0 (p1.extractLsb' 6 26)
    .ok (.strmGx d s t (p1.extractLsb' 0 6))
  | 4 => do
    unused (fZRT w)
    unused (fZRD w)
    expect 0 (p1.extractLsb' 9 23)
    expect 0 (p1.extractLsb' 6 2)
    .ok (.strmPost (fZRS w) (p1.extractLsb' 0 6) (p1.extractLsb' 8 1))
  | 5 => do
    unused (fZRT w)
    unused (fZRS w)
    expect 0 (p1.extractLsb' 9 23)
    expect 0 (p1.extractLsb' 6 2)
    .ok (.strmWait (fZRD w) (p1.extractLsb' 0 6) (p1.extractLsb' 8 1))
  | 6 => do
    unused (fZRT w)
    unused (fZRS w)
    unused (fZRD w)
    expect 0 (p1.extractLsb' 12 20)
    expect 0 (p1.extractLsb' 6 2)
    .ok (.strmMark (p1.extractLsb' 0 6) (p1.extractLsb' 8 3) (p1.extractLsb' 11 1))
  | _ => .error .badFunction

/-- Major 0x2E in its form of 1 parcel (R42). -/
def decode2E_0 (w : Parcel) : Except DecodeError Instr :=
  match (fZRfn w).toNat with
  | 0 => do
      unused (fZRT w)
      .ok (.tqdecl (fZRD w) (fZRS w))
  | 1 => do
      let s ← narrow 4 (fZRS w)
      .ok (.tqld (fZRD w) s (fZRT w))
  | 2 => do
      unused (fZRT w)
      unused (fZRS w)
      .ok (.tqpop (fZRD w))
  | _ => .error .badFunction

/-- Major 0x2F in its form of 1 parcel (R42). -/
def decode2F_0 (w : Parcel) : Except DecodeError Instr :=
  match (fVMfn5 w).toNat with
  | 0 => do
      let mk ← maskOpt w
      unused (fVMZ w)
      .ok (.vaadd (fVMD w) (fVMA w) (fVMI w) mk)
  | 1 => do
      let mk ← maskOpt w
      unused (fVMZ w)
      .ok (.vaand (fVMD w) (fVMA w) (fVMI w) mk)
  | 2 => do
      let mk ← maskOpt w
      unused (fVMZ w)
      .ok (.vaor (fVMD w) (fVMA w) (fVMI w) mk)
  | 3 => do
      let mk ← maskOpt w
      unused (fVMZ w)
      .ok (.vaxor (fVMD w) (fVMA w) (fVMI w) mk)
  | 4 => do
      let mk ← maskOpt w
      unused (fVMZ w)
      .ok (.vamin (fVMD w) (fVMA w) (fVMI w) mk)
  | 5 => do
      let mk ← maskOpt w
      unused (fVMZ w)
      .ok (.vamax (fVMD w) (fVMA w) (fVMI w) mk)
  | 6 => do
      let mk ← maskOpt w
      unused (fVMZ w)
      .ok (.vaminu (fVMD w) (fVMA w) (fVMI w) mk)
  | 7 => do
      let mk ← maskOpt w
      unused (fVMZ w)
      .ok (.vamaxu (fVMD w) (fVMA w) (fVMI w) mk)
  | 8 => do
      let mk ← maskOpt w
      unused (fVMZ w)
      .ok (.vafadd (fVMD w) (fVMA w) (fVMI w) mk)
  | 9 => do
      let mk ← maskOpt w
      unused (fVMZ w)
      .ok (.vaswap (fVMD w) (fVMA w) (fVMI w) mk)
  | 10 => do
      let mk ← maskOpt w
      unused (fVMZ w)
      .ok (.vacas (fVMD w) (fVMA w) (fVMI w) mk)
  | 16 => do
      let mk ← maskOpt w
      unused (fVMZ w)
      .ok (.vcadd (fVMD w) (fVMA w) (fVMI w) mk)
  | 17 => do
      let mk ← maskOpt w
      unused (fVMZ w)
      .ok (.vcand (fVMD w) (fVMA w) (fVMI w) mk)
  | 18 => do
      let mk ← maskOpt w
      unused (fVMZ w)
      .ok (.vcor (fVMD w) (fVMA w) (fVMI w) mk)
  | 19 => do
      let mk ← maskOpt w
      unused (fVMZ w)
      .ok (.vcxor (fVMD w) (fVMA w) (fVMI w) mk)
  | 20 => do
      let mk ← maskOpt w
      unused (fVMZ w)
      .ok (.vcmin (fVMD w) (fVMA w) (fVMI w) mk)
  | 21 => do
      let mk ← maskOpt w
      unused (fVMZ w)
      .ok (.vcmax (fVMD w) (fVMA w) (fVMI w) mk)
  | 22 => do
      let mk ← maskOpt w
      unused (fVMZ w)
      .ok (.vcminu (fVMD w) (fVMA w) (fVMI w) mk)
  | 23 => do
      let mk ← maskOpt w
      unused (fVMZ w)
      .ok (.vcmaxu (fVMD w) (fVMA w) (fVMI w) mk)
  | 24 => do
      let mk ← maskOpt w
      unused (fVMZ w)
      .ok (.vcfadd (fVMD w) (fVMA w) (fVMI w) mk)
  | 28 => do
      let mk ← maskOpt w
      unused (fVMZ w)
      .ok (.vgl (fVMD w) (fVMA w) (fVMI w) mk)
  | 29 => do
      let m ← maskReq w
      unused (fVMZ w)
      .ok (.vsc (fVMD w) (fVMA w) (fVMI w) m)
  | _ => .error .badFunction

/-- Major 0x30 in its form of 1 parcel (R42). -/
def decode30_0 (w : Parcel) : Except DecodeError Instr :=
  match (fZRfn w).toNat with
  | 0 => do
      let s ← narrow 4 (fZRS w)
      .ok (.amadd (fZRD w) s (fZRT w))
  | 1 => do
      let s ← narrow 4 (fZRS w)
      .ok (.amand (fZRD w) s (fZRT w))
  | 2 => do
      let s ← narrow 4 (fZRS w)
      .ok (.amor (fZRD w) s (fZRT w))
  | 3 => do
      let s ← narrow 4 (fZRS w)
      .ok (.amxor (fZRD w) s (fZRT w))
  | 4 => do
      let s ← narrow 4 (fZRS w)
      .ok (.ammin (fZRD w) s (fZRT w))
  | 5 => do
      let s ← narrow 4 (fZRS w)
      .ok (.ammax (fZRD w) s (fZRT w))
  | 6 => do
      let s ← narrow 4 (fZRS w)
      .ok (.amminu (fZRD w) s (fZRT w))
  | 7 => do
      let s ← narrow 4 (fZRS w)
      .ok (.ammaxu (fZRD w) s (fZRT w))
  | 8 => do
      let s ← narrow 4 (fZRS w)
      .ok (.amswap (fZRD w) s (fZRT w))
  | 9 => do
      let s ← narrow 4 (fZRS w)
      .ok (.amcas (fZRD w) s (fZRT w))
  | 16 => do
      let s ← narrow 4 (fZRS w)
      .ok (.amaddW (fZRD w) s (fZRT w))
  | 17 => do
      let s ← narrow 4 (fZRS w)
      .ok (.amandW (fZRD w) s (fZRT w))
  | 18 => do
      let s ← narrow 4 (fZRS w)
      .ok (.amorW (fZRD w) s (fZRT w))
  | 19 => do
      let s ← narrow 4 (fZRS w)
      .ok (.amxorW (fZRD w) s (fZRT w))
  | 20 => do
      let s ← narrow 4 (fZRS w)
      .ok (.amminW (fZRD w) s (fZRT w))
  | 21 => do
      let s ← narrow 4 (fZRS w)
      .ok (.ammaxW (fZRD w) s (fZRT w))
  | 22 => do
      let s ← narrow 4 (fZRS w)
      .ok (.amminuW (fZRD w) s (fZRT w))
  | 23 => do
      let s ← narrow 4 (fZRS w)
      .ok (.ammaxuW (fZRD w) s (fZRT w))
  | 24 => do
      let s ← narrow 4 (fZRS w)
      .ok (.amswapW (fZRD w) s (fZRT w))
  | 25 => do
      let s ← narrow 4 (fZRS w)
      .ok (.amcasW (fZRD w) s (fZRT w))
  | _ => .error .badFunction

/-- Major 0x30 in its form of 2 parcels (R42). -/
def decode30_1 (w p1 : Parcel) : Except DecodeError Instr :=
  match (fZRfn w).toNat with
  | 0 => do
      let s ← narrow 4 (fZRS w)
      let q ← decodeQual p1
      .ok (.amaddQ32 (fZRD w) s (fZRT w) q)
  | 1 => do
      let s ← narrow 4 (fZRS w)
      let q ← decodeQual p1
      .ok (.amandQ32 (fZRD w) s (fZRT w) q)
  | 2 => do
      let s ← narrow 4 (fZRS w)
      let q ← decodeQual p1
      .ok (.amorQ32 (fZRD w) s (fZRT w) q)
  | 3 => do
      let s ← narrow 4 (fZRS w)
      let q ← decodeQual p1
      .ok (.amxorQ32 (fZRD w) s (fZRT w) q)
  | 4 => do
      let s ← narrow 4 (fZRS w)
      let q ← decodeQual p1
      .ok (.amminQ32 (fZRD w) s (fZRT w) q)
  | 5 => do
      let s ← narrow 4 (fZRS w)
      let q ← decodeQual p1
      .ok (.ammaxQ32 (fZRD w) s (fZRT w) q)
  | 6 => do
      let s ← narrow 4 (fZRS w)
      let q ← decodeQual p1
      .ok (.amminuQ32 (fZRD w) s (fZRT w) q)
  | 7 => do
      let s ← narrow 4 (fZRS w)
      let q ← decodeQual p1
      .ok (.ammaxuQ32 (fZRD w) s (fZRT w) q)
  | 8 => do
      let s ← narrow 4 (fZRS w)
      let q ← decodeQual p1
      .ok (.amswapQ32 (fZRD w) s (fZRT w) q)
  | 9 => do
      let s ← narrow 4 (fZRS w)
      let q ← decodeQual p1
      .ok (.amcasQ32 (fZRD w) s (fZRT w) q)
  | 16 => do
      let s ← narrow 4 (fZRS w)
      let q ← decodeQual p1
      .ok (.amaddWQ32 (fZRD w) s (fZRT w) q)
  | 17 => do
      let s ← narrow 4 (fZRS w)
      let q ← decodeQual p1
      .ok (.amandWQ32 (fZRD w) s (fZRT w) q)
  | 18 => do
      let s ← narrow 4 (fZRS w)
      let q ← decodeQual p1
      .ok (.amorWQ32 (fZRD w) s (fZRT w) q)
  | 19 => do
      let s ← narrow 4 (fZRS w)
      let q ← decodeQual p1
      .ok (.amxorWQ32 (fZRD w) s (fZRT w) q)
  | 20 => do
      let s ← narrow 4 (fZRS w)
      let q ← decodeQual p1
      .ok (.amminWQ32 (fZRD w) s (fZRT w) q)
  | 21 => do
      let s ← narrow 4 (fZRS w)
      let q ← decodeQual p1
      .ok (.ammaxWQ32 (fZRD w) s (fZRT w) q)
  | 22 => do
      let s ← narrow 4 (fZRS w)
      let q ← decodeQual p1
      .ok (.amminuWQ32 (fZRD w) s (fZRT w) q)
  | 23 => do
      let s ← narrow 4 (fZRS w)
      let q ← decodeQual p1
      .ok (.ammaxuWQ32 (fZRD w) s (fZRT w) q)
  | 24 => do
      let s ← narrow 4 (fZRS w)
      let q ← decodeQual p1
      .ok (.amswapWQ32 (fZRD w) s (fZRT w) q)
  | 25 => do
      let s ← narrow 4 (fZRS w)
      let q ← decodeQual p1
      .ok (.amcasWQ32 (fZRD w) s (fZRT w) q)
  | _ => .error .badFunction

/-- Major 0x31 in its form of 1 parcel (R42). -/
def decode31_0 (w : Parcel) : Except DecodeError Instr :=
  match (fZRfn w).toNat with
  | 0 => do
      unused (fZRT w)
      unused (fZRS w)
      unused (fZRD w)
      .ok (.fenceSV)
  | 1 => do
      unused (fZRT w)
      unused (fZRS w)
      unused (fZRD w)
      .ok (.fenceVS)
  | 2 => do
      unused (fZRT w)
      unused (fZRS w)
      unused (fZRD w)
      .ok (.fenceVV)
  | 3 => do
      unused (fZRS w)
      unused (fZRD w)
      .ok (.fence ((fZRT w).extractLsb' 3 2) ((fZRT w).extractLsb' 0 3))
  | 4 => do
      let c ← narrow 3 (fZRT w)
      let s ← narrow 4 (fZRS w)
      .ok (.bara (fZRD w) s c)
  | 5 => do
      let c ← narrow 3 (fZRT w)
      let s ← narrow 4 (fZRS w)
      .ok (.barw (fZRD w) s c)
  | _ => .error .badFunction

/-- Major 0x32 in its form of 1 parcel (R42). -/
def decode32_0 (w : Parcel) : Except DecodeError Instr :=
  match (fZRfn w).toNat with
  | 0 => do
      unused (fZRT w)
      let s ← narrow 4 (fZRS w)
      unused (fZRD w)
      .ok (.cflush s)
  | 1 => do
      unused (fZRT w)
      let s ← narrow 4 (fZRS w)
      unused (fZRD w)
      .ok (.cinv s)
  | 2 => do
      unused (fZRT w)
      let s ← narrow 4 (fZRS w)
      unused (fZRD w)
      .ok (.cclean s)
  | 3 => do
      unused (fZRT w)
      let s ← narrow 4 (fZRS w)
      unused (fZRD w)
      .ok (.czero s)
  | 4 => do
      let wi ← narrow 1 (fZRT w)
      let s ← narrow 4 (fZRS w)
      unused (fZRD w)
      .ok (.cpf s wi)
  | 5 => do
      let s ← narrow 4 (fZRS w)
      unused (fZRD w)
      .ok (.isync s (fZRT w))
  | _ => .error .badFunction

/-- Major 0x33 in its form of 1 parcel (R42). -/
def decode33_0 (w : Parcel) : Except DecodeError Instr :=
  match (fZRfn w).toNat with
  | 0 => do
      unused (fZRT w)
      unused (fZRD w)
      .ok (.mmode (fZRS w))
  | 1 => do
      let s ← narrow 4 (fZRS w)
      .ok (.qclaim (fZRD w) s (fZRT w))
  | 2 => do
      unused (fZRT w)
      unused (fZRD w)
      .ok (.qrel (fZRS w))
  | 3 => do
      unused (fZRT w)
      let d ← narrow 4 (fZRD w)
      .ok (.qacc d (fZRS w))
  | 4 => .ok (.bsset (fZRD w) (fZRS w) (fZRT w))
  | _ => .error .badFunction

/-- Major 0x34 in its form of 2 parcels (R42). -/
def decode34_1 (w p1 : Parcel) : Except DecodeError Instr :=
  match (fZRfn w).toNat with
  | 0 => do
      let s ← narrow 4 (fZRS w)
      let d ← narrow 4 (fZRD w)
      expect 0 (p1.extractLsb' 25 7)
      expect 0 (p1.extractLsb' 12 3)
      .ok (.qstage d s (fZRT w) (p1.extractLsb' 0 4) (p1.extractLsb' 4 4) (p1.extractLsb' 8 4) (p1.extractLsb' 15 3) (p1.extractLsb' 18 1) (p1.extractLsb' 19 6))
  | 1 => do
      let s ← narrow 4 (fZRS w)
      let d ← narrow 4 (fZRD w)
      expect 0 (p1.extractLsb' 19 13)
      expect 0 (p1.extractLsb' 12 2)
      expect 0 (p1.extractLsb' 4 4)
      .ok (.qchain d s (fZRT w) (p1.extractLsb' 0 4) (p1.extractLsb' 8 4) (p1.extractLsb' 14 1) (p1.extractLsb' 15 3) (p1.extractLsb' 18 1))
  | 2 => do
      unused (fZRS w)
      unused (fZRD w)
      expect 0 (p1.extractLsb' 31 1)
      expect 0 (p1.extractLsb' 14 5)
      expect 0 (p1.extractLsb' 8 4)
      .ok (.mgemm (fZRT w) (p1.extractLsb' 0 4) (p1.extractLsb' 4 4) (p1.extractLsb' 12 2) (p1.extractLsb' 19 6) (p1.extractLsb' 25 6))
  | 3 => do
      unused (fZRT w)
      unused (fZRS w)
      expect 0 (p1.extractLsb' 1 31)
      .ok (.qdrain (fZRD w) (p1.extractLsb' 0 1))
  | _ => .error .badFunction

/-- Major 0x36 in its form of 1 parcel (R42). -/
def decode36_0 (w : Parcel) : Except DecodeError Instr :=
  match (fZRfn w).toNat with
  | 0 => do
      let s ← narrow 4 (fZRS w)
      .ok (.cfgLoad (fZRD w) s (fZRT w))
  | 1 => do
      unused (fZRT w)
      let s ← narrow 4 (fZRS w)
      .ok (.cfgCheck (fZRD w) s)
  | 2 => do
      unused (fZRT w)
      .ok (.cfgSel (fZRD w) (fZRS w))
  | 3 => do
      unused (fZRT w)
      unused (fZRS w)
      unused (fZRD w)
      .ok (.cfgMark)
  | 4 => do
      unused (fZRT w)
      let s ← narrow 4 (fZRS w)
      .ok (.cfgSave (fZRD w) s)
  | 5 => do
      unused (fZRT w)
      let s ← narrow 4 (fZRS w)
      .ok (.cfgRest (fZRD w) s)
  | 6 => do
      unused (fZRT w)
      .ok (.cfgGuard (fZRD w) (fZRS w))
  | 7 => do
      unused (fZRD w)
      .ok (.cfgBind (fZRS w) (fZRT w))
  | 8 => .ok (.cfgWr (fZRD w) (fZRS w) (fZRT w))
  | _ => .error .badFunction

/-- Major 0x38 in its form of 1 parcel (R42). -/
def decode38_0 (w : Parcel) : Except DecodeError Instr :=
  match (fZRfn w).toNat with
  | 0 => do
      unused (fZRT w)
      let s ← narrow 4 (fZRS w)
      .ok (.launch (fZRD w) s)
  | 1 => .ok (.lstat (fZRD w) (fZRS w) (fZRT w))
  | _ => .error .badFunction

/-- Major 0x39 in its form of 1 parcel (R42). -/
def decode39_0 (w : Parcel) : Except DecodeError Instr :=
  match (fZRfn w).toNat with
  | 0 => do
      unused (fZRT w)
      unused (fZRD w)
      .ok (.tmark (fZRS w))
  | 1 => do
      unused (fZRT w)
      .ok (.profLock (fZRD w) (fZRS w))
  | 2 => do
      unused (fZRT w)
      unused (fZRS w)
      .ok (.profUnlock (fZRD w))
  | 3 => do
      let s ← narrow 4 (fZRS w)
      .ok (.brkpt (fZRD w) s (fZRT w))
  | 4 => do
      unused (fZRT w)
      .ok (.cntrd (fZRD w) (fZRS w))
  | _ => .error .badFunction

/-- A parcel 0 that is not 0 and whose length code is `len` names an instruction of its major (R29, R42). -/
def decodeMajor (mj len : Nat) (p0 p1 p2 : Parcel) : Except DecodeError Instr :=
  match mj with
  | 0x01 =>
    match len with
    | 0 => decode01_0 p0
    | _ => .error .badForm
  | 0x02 =>
    match len with
    | 0 => decode02_0 p0
    | 1 => decode02_1 p0 p1
    | _ => .error .badForm
  | 0x03 =>
    match len with
    | 0 => decode03_0 p0
    | 1 => decode03_1 p0 p1
    | _ => .error .badForm
  | 0x04 =>
    match len with
    | 0 => decode04_0 p0
    | _ => .error .badForm
  | 0x05 =>
    match len with
    | 0 => decode05_0 p0
    | 1 => decode05_1 p0 p1
    | 2 => decode05_2 p0 p1 p2
    | _ => .error .badForm
  | 0x06 =>
    match len with
    | 0 => decode06_0 p0
    | _ => .error .badForm
  | 0x07 =>
    match len with
    | 0 => decode07_0 p0
    | _ => .error .badForm
  | 0x08 =>
    match len with
    | 0 => decode08_0 p0
    | _ => .error .badForm
  | 0x09 =>
    match len with
    | 0 => decode09_0 p0
    | 1 => decode09_1 p0 p1
    | _ => .error .badForm
  | 0x0A =>
    match len with
    | 0 => decode0A_0 p0
    | _ => .error .badForm
  | 0x0C =>
    match len with
    | 0 => decode0C_0 p0
    | 1 => decode0C_1 p0 p1
    | _ => .error .badForm
  | 0x0D =>
    match len with
    | 0 => decode0D_0 p0
    | 1 => decode0D_1 p0 p1
    | _ => .error .badForm
  | 0x0E =>
    match len with
    | 0 => decode0E_0 p0
    | _ => .error .badForm
  | 0x10 =>
    match len with
    | 0 => decode10_0 p0
    | _ => .error .badForm
  | 0x11 =>
    match len with
    | 0 => decode11_0 p0
    | _ => .error .badForm
  | 0x12 =>
    match len with
    | 1 => decode12_1 p0 p1
    | _ => .error .badForm
  | 0x13 =>
    match len with
    | 1 => decode13_1 p0 p1
    | _ => .error .badForm
  | 0x14 =>
    match len with
    | 0 => decode14_0 p0
    | _ => .error .badForm
  | 0x16 =>
    match len with
    | 0 => decode16_0 p0
    | _ => .error .badForm
  | 0x17 =>
    match len with
    | 0 => decode17_0 p0
    | _ => .error .badForm
  | 0x18 =>
    match len with
    | 0 => decode18_0 p0
    | _ => .error .badForm
  | 0x19 =>
    match len with
    | 1 => decode19_1 p0 p1
    | _ => .error .badForm
  | 0x1A =>
    match len with
    | 0 => decode1A_0 p0
    | _ => .error .badForm
  | 0x1C =>
    match len with
    | 0 => decode1C_0 p0
    | _ => .error .badForm
  | 0x1D =>
    match len with
    | 0 => decode1D_0 p0
    | _ => .error .badForm
  | 0x1E =>
    match len with
    | 0 => decode1E_0 p0
    | _ => .error .badForm
  | 0x1F =>
    match len with
    | 0 => decode1F_0 p0
    | _ => .error .badForm
  | 0x20 =>
    match len with
    | 0 => decode20_0 p0
    | _ => .error .badForm
  | 0x21 =>
    match len with
    | 0 => decode21_0 p0
    | _ => .error .badForm
  | 0x22 =>
    match len with
    | 0 => decode22_0 p0
    | _ => .error .badForm
  | 0x23 =>
    match len with
    | 0 => decode23_0 p0
    | _ => .error .badForm
  | 0x24 =>
    match len with
    | 1 => decode24_1 p0 p1
    | _ => .error .badForm
  | 0x25 =>
    match len with
    | 0 => decode25_0 p0
    | _ => .error .badForm
  | 0x26 =>
    match len with
    | 0 => decode26_0 p0
    | _ => .error .badForm
  | 0x27 =>
    match len with
    | 0 => decode27_0 p0
    | _ => .error .badForm
  | 0x28 =>
    match len with
    | 0 => decode28_0 p0
    | _ => .error .badForm
  | 0x2A =>
    match len with
    | 0 => decode2A_0 p0
    | _ => .error .badForm
  | 0x2C =>
    match len with
    | 0 => decode2C_0 p0
    | _ => .error .badForm
  | 0x2D =>
    match len with
    | 1 => decode2D_1 p0 p1
    | _ => .error .badForm
  | 0x2E =>
    match len with
    | 0 => decode2E_0 p0
    | _ => .error .badForm
  | 0x2F =>
    match len with
    | 0 => decode2F_0 p0
    | _ => .error .badForm
  | 0x30 =>
    match len with
    | 0 => decode30_0 p0
    | 1 => decode30_1 p0 p1
    | _ => .error .badForm
  | 0x31 =>
    match len with
    | 0 => decode31_0 p0
    | _ => .error .badForm
  | 0x32 =>
    match len with
    | 0 => decode32_0 p0
    | _ => .error .badForm
  | 0x33 =>
    match len with
    | 0 => decode33_0 p0
    | _ => .error .badForm
  | 0x34 =>
    match len with
    | 1 => decode34_1 p0 p1
    | _ => .error .badForm
  | 0x36 =>
    match len with
    | 0 => decode36_0 p0
    | _ => .error .badForm
  | 0x38 =>
    match len with
    | 0 => decode38_0 p0
    | _ => .error .badForm
  | 0x39 =>
    match len with
    | 0 => decode39_0 p0
    | _ => .error .badForm
  | _ => .error .badMajor

/-- One core instruction from its parcels (R27 to R42). Parcels beyond the length the first one names are not read. -/
def decode (p0 p1 p2 : Parcel) : Except DecodeError Instr :=
  if p0 = 0 then .error .zeroParcel
  else if lenOf p0 = 3 then .error .badLength
  else decodeMajor (majorOf p0).toNat (lenOf p0).toNat p0 p1 p2

/-- A parcel from four bytes, least significant first (R2, R27). -/
def parcelOfBytes (b0 b1 b2 b3 : Byte) : Parcel := b3 ++ b2 ++ b1 ++ b0

/-- The first parcel of a byte list and the rest. -/
def takeParcel : List Byte → Option (Parcel × List Byte)
  | b0 :: b1 :: b2 :: b3 :: r => some (parcelOfBytes b0 b1 b2 b3, r)
  | _ => none

/-- One core instruction from bytes, and the bytes after it; total on any bytes. -/
def decodeBytes (bs : List Byte) : Except DecodeError (Instr × List Byte) :=
  match takeParcel bs with
  | none => .error .truncated
  | some (p0, r0) =>
    match (lenOf p0).toNat with
    | 0 => (decode p0 0 0).map (·, r0)
    | 1 =>
      match takeParcel r0 with
      | none => .error .truncated
      | some (p1, r1) => (decode p0 p1 0).map (·, r1)
    | 2 =>
      match takeParcel r0 with
      | none => .error .truncated
      | some (p1, r1) =>
        match takeParcel r1 with
        | none => .error .truncated
        | some (p2, r2) => (decode p0 p1 p2).map (·, r2)
    | _ => if p0 = 0 then .error .zeroParcel else .error .badLength

/-! ### Element instruction words (R44, R49) -/

/-- Element instruction word, field OP: bits 31 to 25 (R44). -/
def elOp (w : Parcel) : BitVec 7 := w.extractLsb' 25 7
/-- Element instruction word, field SA: bits 24 to 21 (R44). -/
def elSa (w : Parcel) : BitVec 4 := w.extractLsb' 21 4
/-- Element instruction word, field SB: bits 20 to 17 (R44). -/
def elSb (w : Parcel) : BitVec 4 := w.extractLsb' 17 4
/-- Element instruction word, field DA: bits 16 to 13 (R44). -/
def elDa (w : Parcel) : BitVec 4 := w.extractLsb' 13 4
/-- Element instruction word, field DB: bits 12 to 9 (R44). -/
def elDb (w : Parcel) : BitVec 4 := w.extractLsb' 9 4
/-- Element instruction word, field TAG: bits 8 to 5 (R44). -/
def elTag (w : Parcel) : BitVec 4 := w.extractLsb' 5 4
/-- Element instruction word, field LIT: bits 4 to 0 (R44). -/
def elLit (w : Parcel) : BitVec 5 := w.extractLsb' 0 5

/-- An element instruction word; an unassigned OP, a nonzero unused field or a LIT out of range is no instruction (R48).
OP 0 is an empty entry and no instruction (R46, R49). -/
def decodeElem (w : Parcel) : Except DecodeError Instr :=
  match (elOp w).toNat with
  | 1 => do
    unused (elSa w)
    unused (elSb w)
    unused (elDa w)
    unused (elDb w)
    unused (elTag w)
    unused (elLit w)
    .ok (.elemNop)
  | 2 => do
    unused (elLit w)
    .ok (.elemAdd (elSa w) (elSb w) (elDa w) (elDb w) (elTag w))
  | 3 => do
    unused (elLit w)
    .ok (.elemSub (elSa w) (elSb w) (elDa w) (elDb w) (elTag w))
  | 4 => do
    unused (elLit w)
    .ok (.elemMul (elSa w) (elSb w) (elDa w) (elDb w) (elTag w))
  | 5 => do
    unused (elLit w)
    .ok (.elemAnd (elSa w) (elSb w) (elDa w) (elDb w) (elTag w))
  | 6 => do
    unused (elLit w)
    .ok (.elemOr (elSa w) (elSb w) (elDa w) (elDb w) (elTag w))
  | 7 => do
    unused (elLit w)
    .ok (.elemXor (elSa w) (elSb w) (elDa w) (elDb w) (elTag w))
  | 8 => do
    unused (elLit w)
    .ok (.elemMin (elSa w) (elSb w) (elDa w) (elDb w) (elTag w))
  | 9 => do
    unused (elLit w)
    .ok (.elemMax (elSa w) (elSb w) (elDa w) (elDb w) (elTag w))
  | 10 => do
    unused (elLit w)
    .ok (.elemMinu (elSa w) (elSb w) (elDa w) (elDb w) (elTag w))
  | 11 => do
    unused (elLit w)
    .ok (.elemMaxu (elSa w) (elSb w) (elDa w) (elDb w) (elTag w))
  | 12 => do
    unused (elLit w)
    .ok (.elemFadd (elSa w) (elSb w) (elDa w) (elDb w) (elTag w))
  | 13 => do
    unused (elLit w)
    .ok (.elemFsub (elSa w) (elSb w) (elDa w) (elDb w) (elTag w))
  | 14 => do
    unused (elLit w)
    .ok (.elemFmul (elSa w) (elSb w) (elDa w) (elDb w) (elTag w))
  | 15 => do
    unused (elLit w)
    .ok (.elemFmin (elSa w) (elSb w) (elDa w) (elDb w) (elTag w))
  | 16 => do
    unused (elLit w)
    .ok (.elemFmax (elSa w) (elSb w) (elDa w) (elDb w) (elTag w))
  | 17 => do
    unused (elLit w)
    .ok (.elemDot4 (elSa w) (elSb w) (elDa w) (elDb w) (elTag w))
  | 18 => do
    unused (elSb w)
    .ok (.elemAddl (elSa w) (elDa w) (elDb w) (elTag w) (elLit w))
  | 19 => do
    unused (elSb w)
    .ok (.elemMull (elSa w) (elDa w) (elDb w) (elTag w) (elLit w))
  | 20 => do
    unused (elSb w)
    .ok (.elemAndl (elSa w) (elDa w) (elDb w) (elTag w) (elLit w))
  | 21 => do
    unused (elSb w)
    .ok (.elemShl (elSa w) (elDa w) (elDb w) (elTag w) (elLit w))
  | 22 => do
    unused (elSb w)
    .ok (.elemShr (elSa w) (elDa w) (elDb w) (elTag w) (elLit w))
  | 23 => do
    unused (elSb w)
    .ok (.elemSar (elSa w) (elDa w) (elDb w) (elTag w) (elLit w))
  | 24 => do
    let lit ← narrow 3 (elLit w)
    .ok (.elemFma (elSa w) (elSb w) (elDa w) (elDb w) (elTag w) lit)
  | 25 => do
    let lit ← narrow 3 (elLit w)
    .ok (.elemMac (elSa w) (elSb w) (elDa w) (elDb w) (elTag w) lit)
  | 26 => do
    let lit ← narrow 3 (elLit w)
    .ok (.elemCmpeq (elSa w) (elSb w) (elDa w) (elDb w) (elTag w) lit)
  | 27 => do
    let lit ← narrow 3 (elLit w)
    .ok (.elemCmplt (elSa w) (elSb w) (elDa w) (elDb w) (elTag w) lit)
  | 28 => do
    let lit ← narrow 3 (elLit w)
    .ok (.elemCmpltu (elSa w) (elSb w) (elDa w) (elDb w) (elTag w) lit)
  | 29 => do
    let lit ← narrow 3 (elLit w)
    .ok (.elemFcmplt (elSa w) (elSb w) (elDa w) (elDb w) (elTag w) lit)
  | 30 => do
    let lit ← narrow 3 (elLit w)
    .ok (.elemFcmpeq (elSa w) (elSb w) (elDa w) (elDb w) (elTag w) lit)
  | 31 => do
    unused (elSa w)
    unused (elSb w)
    unused (elDa w)
    unused (elDb w)
    unused (elTag w)
    let lit ← narrow 3 (elLit w)
    .ok (.elemSetp lit)
  | 32 => do
    unused (elSa w)
    unused (elSb w)
    unused (elDa w)
    unused (elDb w)
    unused (elTag w)
    let lit ← narrow 3 (elLit w)
    .ok (.elemClrp lit)
  | 33 => do
    unused (elSb w)
    unused (elDa w)
    unused (elDb w)
    unused (elTag w)
    let lit ← narrow 3 (elLit w)
    .ok (.elemMovp (elSa w) lit)
  | 34 => do
    unused (elSb w)
    unused (elLit w)
    .ok (.elemMov (elSa w) (elDa w) (elDb w) (elTag w))
  | 35 => do
    unused (elSa w)
    unused (elSb w)
    .ok (.elemLit (elDa w) (elDb w) (elTag w) (elLit w))
  | 36 => do
    let lit ← narrow 3 (elLit w)
    .ok (.elemSel (elSa w) (elSb w) (elDa w) (elDb w) (elTag w) lit)
  | 37 => do
    unused (elDa w)
    unused (elDb w)
    unused (elTag w)
    unused (elLit w)
    .ok (.elemDrop (elSa w) (elSb w))
  | 38 => do
    unused (elSb w)
    .ok (.elemLdt (elSa w) (elDa w) (elDb w) (elTag w) (elLit w))
  | 39 => do
    unused (elDa w)
    unused (elDb w)
    .ok (.elemStt (elSa w) (elSb w) (elTag w) (elLit w))
  | 40 => do
    unused (elSa w)
    unused (elSb w)
    let lit ← narrow 3 (elLit w)
    .ok (.elemCnt (elDa w) (elDb w) (elTag w) lit)
  | 41 => do
    unused (elSa w)
    unused (elSb w)
    unused (elDa w)
    unused (elDb w)
    unused (elTag w)
    let lit ← narrow 2 (elLit w)
    .ok (.elemCtx lit)
  | 42 => do
    unused (elSa w)
    unused (elSb w)
    unused (elDa w)
    unused (elDb w)
    unused (elTag w)
    unused (elLit w)
    .ok (.elemHalt)
  | 43 => do
    unused (elSb w)
    unused (elLit w)
    .ok (.elemAbs (elSa w) (elDa w) (elDb w) (elTag w))
  | 44 => do
    unused (elSb w)
    unused (elLit w)
    .ok (.elemPopc (elSa w) (elDa w) (elDb w) (elTag w))
  | 45 => do
    unused (elSb w)
    let lit ← narrow 3 (elLit w)
    .ok (.elemSteer (elSa w) (elDa w) (elDb w) (elTag w) lit)
  | _ => .error .badFunction

end

/-! ### The encoder -/

/-- ZR (R32): the fields in their places, then major and length. -/
def packZR (mj : BitVec 6) (ln : BitVec 2) (fn : BitVec 9) (t : BitVec 5) (s : BitVec 5) (d : BitVec 5) : Parcel :=
  fn ++ t ++ s ++ d ++ mj ++ ln
/-- FCVT (R38): the fields in their places, then major and length. -/
def packFcvt (mj : BitVec 6) (ln : BitVec 2) (one : BitVec 1) (a : BitVec 4) (b : BitVec 4) (t : BitVec 5) (s : BitVec 5) (d : BitVec 5) : Parcel :=
  one ++ a ++ b ++ t ++ s ++ d ++ mj ++ ln
/-- ZI (R32): the fields in their places, then major and length. -/
def packZI (mj : BitVec 6) (ln : BitVec 2) (i : BitVec 14) (s : BitVec 5) (d : BitVec 5) : Parcel :=
  i ++ s ++ d ++ mj ++ ln
/-- major 0x03 (R35): the fields in their places, then major and length. -/
def packZL (mj : BitVec 6) (ln : BitVec 2) (sel : BitVec 2) (i : BitVec 12) (s : BitVec 5) (d : BitVec 5) : Parcel :=
  sel ++ i ++ s ++ d ++ mj ++ ln
/-- major 0x04 (R35): the fields in their places, then major and length. -/
def packZS (mj : BitVec 6) (ln : BitVec 2) (sel : BitVec 2) (z : BitVec 6) (h : BitVec 6) (s : BitVec 5) (d : BitVec 5) : Parcel :=
  sel ++ z ++ h ++ s ++ d ++ mj ++ ln
/-- ZU (R32): the fields in their places, then major and length. -/
def packZU (mj : BitVec 6) (ln : BitVec 2) (i : BitVec 19) (d : BitVec 5) : Parcel :=
  i ++ d ++ mj ++ ln
/-- major 0x0A (R35): the fields in their places, then major and length. -/
def packAH (mj : BitVec 6) (ln : BitVec 2) (z : BitVec 3) (i : BitVec 16) (d : BitVec 5) : Parcel :=
  z ++ i ++ d ++ mj ++ ln
/-- ZB (R32): the fields in their places, then major and length. -/
def packZB (mj : BitVec 6) (ln : BitVec 2) (o : BitVec 10) (cnd : BitVec 4) (t : BitVec 5) (s : BitVec 5) : Parcel :=
  o ++ cnd ++ t ++ s ++ mj ++ ln
/-- scalar memory (R35): the fields in their places, then major and length. -/
def packSM (mj : BitVec 6) (ln : BitVec 2) (o : BitVec 12) (w : BitVec 2) (sx : BitVec 1) (a : BitVec 4) (d : BitVec 5) : Parcel :=
  o ++ w ++ sx ++ a ++ d ++ mj ++ ln
/-- SY (R32): the fields in their places, then major and length. -/
def packSY (mj : BitVec 6) (ln : BitVec 2) (fn4 : BitVec 4) (r : BitVec 15) (d : BitVec 5) : Parcel :=
  fn4 ++ r ++ d ++ mj ++ ln
/-- SBR parcel 0 (R40): the fields in their places, then major and length. -/
def packSB (mj : BitVec 6) (ln : BitVec 2) (n : BitVec 3) (a3 : BitVec 4) (a2 : BitVec 4) (a1 : BitVec 4) (a0 : BitVec 4) (c : BitVec 5) : Parcel :=
  n ++ a3 ++ a2 ++ a1 ++ a0 ++ c ++ mj ++ ln
/-- VM (R32): the fields in their places, then major and length. -/
def packVM (mj : BitVec 6) (ln : BitVec 2) (fn5 : BitVec 5) (mk : BitVec 1) (mreg : BitVec 3) (z : BitVec 1) (i : BitVec 5) (a : BitVec 4) (d : BitVec 5) : Parcel :=
  fn5 ++ mk ++ mreg ++ z ++ i ++ a ++ d ++ mj ++ ln
/-- VV and VX (R32): the fields in their places, then major and length. -/
def packVV (mj : BitVec 6) (ln : BitVec 2) (fn5 : BitVec 5) (mk : BitVec 1) (mreg : BitVec 3) (t : BitVec 5) (s : BitVec 5) (d : BitVec 5) : Parcel :=
  fn5 ++ mk ++ mreg ++ t ++ s ++ d ++ mj ++ ln
/-- The element instruction word of R44. -/
def packElem (op : BitVec 7) (sa sb da db tag : BitVec 4) (lit : BitVec 5) : Parcel := op ++ sa ++ sb ++ da ++ db ++ tag ++ lit

/-- MK of a mask operand. -/
def maskMk (mk : Option (BitVec 3)) : BitVec 1 := if mk.isSome then 1 else 0

/-- MREG of a mask operand. -/
def maskReg (mk : Option (BitVec 3)) : BitVec 3 := mk.getD 0

/-- Q32 (R36). -/
def qualWord (q : Qual) : Parcel := 0#25 ++ q.fe ++ q.kind ++ q.scope

/-- The words of an instruction: the parcels of a core instruction, the instruction word of an element operation, and
nothing for a step of the machine that is no instruction. -/
def encode : Instr → List Parcel
  | .add d s t => [packZR 0x01 0 0 t s d]
  | .sub d s t => [packZR 0x01 0 1 t s d]
  | .and d s t => [packZR 0x01 0 2 t s d]
  | .or d s t => [packZR 0x01 0 3 t s d]
  | .xor d s t => [packZR 0x01 0 4 t s d]
  | .sll d s t => [packZR 0x01 0 5 t s d]
  | .srl d s t => [packZR 0x01 0 6 t s d]
  | .sra d s t => [packZR 0x01 0 7 t s d]
  | .slt d s t => [packZR 0x01 0 8 t s d]
  | .sltu d s t => [packZR 0x01 0 9 t s d]
  | .min d s t => [packZR 0x01 0 10 t s d]
  | .max d s t => [packZR 0x01 0 11 t s d]
  | .minu d s t => [packZR 0x01 0 12 t s d]
  | .maxu d s t => [packZR 0x01 0 13 t s d]
  | .mul d s t => [packZR 0x01 0 14 t s d]
  | .mulh d s t => [packZR 0x01 0 15 t s d]
  | .mulhu d s t => [packZR 0x01 0 16 t s d]
  | .div d s t => [packZR 0x01 0 17 t s d]
  | .divu d s t => [packZR 0x01 0 18 t s d]
  | .rem d s t => [packZR 0x01 0 19 t s d]
  | .remu d s t => [packZR 0x01 0 20 t s d]
  | .add32 d s t => [packZR 0x01 0 21 t s d]
  | .sub32 d s t => [packZR 0x01 0 22 t s d]
  | .clz d s => [packZR 0x01 0 23 0 s d]
  | .ctz d s => [packZR 0x01 0 24 0 s d]
  | .popc d s => [packZR 0x01 0 25 0 s d]
  | .sxb d s => [packZR 0x01 0 26 0 s d]
  | .sxh d s => [packZR 0x01 0 27 0 s d]
  | .sxw d s => [packZR 0x01 0 28 0 s d]
  | .zxw d s => [packZR 0x01 0 29 0 s d]
  | .addi d s i => [packZI 0x02 0 i s d]
  | .addiImm32 d s i => [packZI 0x02 1 0 s d, i]
  | .andi d s i => [packZL 0x03 0 0 i s d]
  | .ori d s i => [packZL 0x03 0 1 i s d]
  | .xori d s i => [packZL 0x03 0 2 i s d]
  | .andiImm32 d s i => [packZL 0x03 1 0 0 s d, i]
  | .oriImm32 d s i => [packZL 0x03 1 1 0 s d, i]
  | .xoriImm32 d s i => [packZL 0x03 1 2 0 s d, i]
  | .slli d s h => [packZS 0x04 0 0 0 h s d]
  | .srli d s h => [packZS 0x04 0 1 0 h s d]
  | .srai d s h => [packZS 0x04 0 2 0 h s d]
  | .lui d i => [packZU 0x05 0 i d]
  | .liw d i => [packZU 0x05 1 0 d, i]
  | .liq d i => [packZU 0x05 2 0 d, i.extractLsb' 0 32, i.extractLsb' 32 32]
  | .faddS d s t => [packZR 0x06 0 0 t s d]
  | .fsubS d s t => [packZR 0x06 0 1 t s d]
  | .fmulS d s t => [packZR 0x06 0 2 t s d]
  | .fdivS d s t => [packZR 0x06 0 3 t s d]
  | .fsqrtS d s => [packZR 0x06 0 4 0 s d]
  | .fminS d s t => [packZR 0x06 0 5 t s d]
  | .fmaxS d s t => [packZR 0x06 0 6 t s d]
  | .fmaS d s t => [packZR 0x06 0 7 t s d]
  | .fnmaS d s t => [packZR 0x06 0 8 t s d]
  | .faddD d s t => [packZR 0x06 0 16 t s d]
  | .fsubD d s t => [packZR 0x06 0 17 t s d]
  | .fmulD d s t => [packZR 0x06 0 18 t s d]
  | .fdivD d s t => [packZR 0x06 0 19 t s d]
  | .fsqrtD d s => [packZR 0x06 0 20 0 s d]
  | .fminD d s t => [packZR 0x06 0 21 t s d]
  | .fmaxD d s t => [packZR 0x06 0 22 t s d]
  | .fmaD d s t => [packZR 0x06 0 23 t s d]
  | .fnmaD d s t => [packZR 0x06 0 24 t s d]
  | .feqS d s t => [packZR 0x07 0 0 t s d]
  | .fltS d s t => [packZR 0x07 0 1 t s d]
  | .fleS d s t => [packZR 0x07 0 2 t s d]
  | .fclassS d s => [packZR 0x07 0 3 0 s d]
  | .feqD d s t => [packZR 0x07 0 4 t s d]
  | .fltD d s t => [packZR 0x07 0 5 t s d]
  | .fleD d s t => [packZR 0x07 0 6 t s d]
  | .fclassD d s => [packZR 0x07 0 7 0 s d]
  | .fcvt d s a b t => [packFcvt 0x07 0 1 a b t s d]
  | .aadd d s t => [packZR 0x08 0 0 t (s.setWidth 5) (d.setWidth 5)]
  | .asub d s t => [packZR 0x08 0 1 t (s.setWidth 5) (d.setWidth 5)]
  | .adiff d s t => [packZR 0x08 0 2 (t.setWidth 5) (s.setWidth 5) d]
  | .amov d s => [packZR 0x08 0 3 0 (s.setWidth 5) (d.setWidth 5)]
  | .afromx d s => [packZR 0x08 0 4 0 s (d.setWidth 5)]
  | .atox d s => [packZR 0x08 0 5 0 (s.setWidth 5) d]
  | .aaddi d s i => [packZI 0x09 0 i (s.setWidth 5) (d.setWidth 5)]
  | .aaddiImm32 d s i => [packZI 0x09 1 0 (s.setWidth 5) (d.setWidth 5), i]
  | .ahi d i => [packAH 0x0A 0 0 i (d.setWidth 5)]
  | .beq s t o => [packZB 0x0C 0 o 0 t s]
  | .bne s t o => [packZB 0x0C 0 o 1 t s]
  | .blt s t o => [packZB 0x0C 0 o 2 t s]
  | .bge s t o => [packZB 0x0C 0 o 3 t s]
  | .bltu s t o => [packZB 0x0C 0 o 4 t s]
  | .bgeu s t o => [packZB 0x0C 0 o 5 t s]
  | .baeq s t o => [packZB 0x0C 0 o 6 (t.setWidth 5) (s.setWidth 5)]
  | .bane s t o => [packZB 0x0C 0 o 7 (t.setWidth 5) (s.setWidth 5)]
  | .baltu s t o => [packZB 0x0C 0 o 8 (t.setWidth 5) (s.setWidth 5)]
  | .bageu s t o => [packZB 0x0C 0 o 9 (t.setWidth 5) (s.setWidth 5)]
  | .beqOff32 s t o => [packZB 0x0C 1 0 0 t s, o]
  | .bneOff32 s t o => [packZB 0x0C 1 0 1 t s, o]
  | .bltOff32 s t o => [packZB 0x0C 1 0 2 t s, o]
  | .bgeOff32 s t o => [packZB 0x0C 1 0 3 t s, o]
  | .bltuOff32 s t o => [packZB 0x0C 1 0 4 t s, o]
  | .bgeuOff32 s t o => [packZB 0x0C 1 0 5 t s, o]
  | .baeqOff32 s t o => [packZB 0x0C 1 0 6 (t.setWidth 5) (s.setWidth 5), o]
  | .baneOff32 s t o => [packZB 0x0C 1 0 7 (t.setWidth 5) (s.setWidth 5), o]
  | .baltuOff32 s t o => [packZB 0x0C 1 0 8 (t.setWidth 5) (s.setWidth 5), o]
  | .bageuOff32 s t o => [packZB 0x0C 1 0 9 (t.setWidth 5) (s.setWidth 5), o]
  | .jal d i => [packZU 0x0D 0 i (d.setWidth 5)]
  | .jalOff32 d i => [packZU 0x0D 1 0 (d.setWidth 5), i]
  | .jalr d s i => [packZI 0x0E 0 i (s.setWidth 5) (d.setWidth 5)]
  | .lb d a o => [packSM 0x10 0 o 0 1 a d]
  | .lbu d a o => [packSM 0x10 0 o 0 0 a d]
  | .lh d a o => [packSM 0x10 0 o 1 1 a d]
  | .lhu d a o => [packSM 0x10 0 o 1 0 a d]
  | .lw d a o => [packSM 0x10 0 o 2 1 a d]
  | .lwu d a o => [packSM 0x10 0 o 2 0 a d]
  | .ld d a o => [packSM 0x10 0 o 3 0 a d]
  | .sb d a o => [packSM 0x11 0 o 0 0 a d]
  | .sh d a o => [packSM 0x11 0 o 1 0 a d]
  | .sw d a o => [packSM 0x11 0 o 2 0 a d]
  | .sd d a o => [packSM 0x11 0 o 3 0 a d]
  | .lbQ32 d a o q => [packSM 0x12 1 o 0 1 a d, qualWord q]
  | .lbuQ32 d a o q => [packSM 0x12 1 o 0 0 a d, qualWord q]
  | .lhQ32 d a o q => [packSM 0x12 1 o 1 1 a d, qualWord q]
  | .lhuQ32 d a o q => [packSM 0x12 1 o 1 0 a d, qualWord q]
  | .lwQ32 d a o q => [packSM 0x12 1 o 2 1 a d, qualWord q]
  | .lwuQ32 d a o q => [packSM 0x12 1 o 2 0 a d, qualWord q]
  | .ldQ32 d a o q => [packSM 0x12 1 o 3 0 a d, qualWord q]
  | .sbQ32 d a o q => [packSM 0x13 1 o 0 0 a d, qualWord q]
  | .shQ32 d a o q => [packSM 0x13 1 o 1 0 a d, qualWord q]
  | .swQ32 d a o q => [packSM 0x13 1 o 2 0 a d, qualWord q]
  | .sdQ32 d a o q => [packSM 0x13 1 o 3 0 a d, qualWord q]
  | .yield => [packZR 0x14 0 0 0 0 0]
  | .waitline d s t => [packZR 0x14 0 1 t (s.setWidth 5) d]
  | .forkl d s => [packZR 0x14 0 2 0 (s.setWidth 5) d]
  | .joinl => [packZR 0x14 0 3 0 0 0]
  | .exit => [packZR 0x14 0 4 0 0 0]
  | .sysrd d r => [packSY 0x16 0 0 r d]
  | .syswr d r => [packSY 0x16 0 1 r d]
  | .sysset d r => [packSY 0x16 0 2 r d]
  | .sysclr d r => [packSY 0x16 0 3 r d]
  | .sysxch d r => [packSY 0x16 0 4 r d]
  | .scall => [packZR 0x17 0 0 0 0 0]
  | .tret => [packZR 0x17 0 1 0 0 0]
  | .tlbiva s t => [packZR 0x17 0 2 t (s.setWidth 5) 0]
  | .tlbias t => [packZR 0x17 0 3 t 0 0]
  | .tlbiall => [packZR 0x17 0 4 0 0 0]
  | .leave d => [packZR 0x17 0 5 0 0 d]
  | .vsetl d s => [packZR 0x18 0 0 0 s d]
  | .vsetcfg d s => [packZR 0x18 0 1 0 s d]
  | .vpart s => [packZR 0x18 0 2 0 s 0]
  | .sbr c a0 a1 a2 a3 n sz off => [packSB 0x19 1 n a3 a2 a1 a0 c, off ++ sz]
  | .mand d s t => [packVV 0x1A 0 0 0 0 (t.setWidth 5) (s.setWidth 5) (d.setWidth 5)]
  | .mor d s t => [packVV 0x1A 0 1 0 0 (t.setWidth 5) (s.setWidth 5) (d.setWidth 5)]
  | .mxor d s t => [packVV 0x1A 0 2 0 0 (t.setWidth 5) (s.setWidth 5) (d.setWidth 5)]
  | .mandn d s t => [packVV 0x1A 0 3 0 0 (t.setWidth 5) (s.setWidth 5) (d.setWidth 5)]
  | .mnot d s => [packVV 0x1A 0 4 0 0 0 (s.setWidth 5) (d.setWidth 5)]
  | .mset d => [packVV 0x1A 0 5 0 0 0 0 (d.setWidth 5)]
  | .mclr d => [packVV 0x1A 0 6 0 0 0 0 (d.setWidth 5)]
  | .mpopc d s => [packVV 0x1A 0 7 0 0 0 (s.setWidth 5) d]
  | .mfirst d s => [packVV 0x1A 0 8 0 0 0 (s.setWidth 5) d]
  | .vaddVV d s t mk => [packVV 0x1C 0 0 (maskMk mk) (maskReg mk) t s d]
  | .vsubVV d s t mk => [packVV 0x1C 0 1 (maskMk mk) (maskReg mk) t s d]
  | .vandVV d s t mk => [packVV 0x1C 0 2 (maskMk mk) (maskReg mk) t s d]
  | .vorVV d s t mk => [packVV 0x1C 0 3 (maskMk mk) (maskReg mk) t s d]
  | .vxorVV d s t mk => [packVV 0x1C 0 4 (maskMk mk) (maskReg mk) t s d]
  | .vsllVV d s t mk => [packVV 0x1C 0 5 (maskMk mk) (maskReg mk) t s d]
  | .vsrlVV d s t mk => [packVV 0x1C 0 6 (maskMk mk) (maskReg mk) t s d]
  | .vsraVV d s t mk => [packVV 0x1C 0 7 (maskMk mk) (maskReg mk) t s d]
  | .vminVV d s t mk => [packVV 0x1C 0 8 (maskMk mk) (maskReg mk) t s d]
  | .vmaxVV d s t mk => [packVV 0x1C 0 9 (maskMk mk) (maskReg mk) t s d]
  | .vminuVV d s t mk => [packVV 0x1C 0 10 (maskMk mk) (maskReg mk) t s d]
  | .vmaxuVV d s t mk => [packVV 0x1C 0 11 (maskMk mk) (maskReg mk) t s d]
  | .vmulVV d s t mk => [packVV 0x1C 0 12 (maskMk mk) (maskReg mk) t s d]
  | .vmulhVV d s t mk => [packVV 0x1C 0 13 (maskMk mk) (maskReg mk) t s d]
  | .vmulhuVV d s t mk => [packVV 0x1C 0 14 (maskMk mk) (maskReg mk) t s d]
  | .vdivVV d s t mk => [packVV 0x1C 0 15 (maskMk mk) (maskReg mk) t s d]
  | .vdivuVV d s t mk => [packVV 0x1C 0 16 (maskMk mk) (maskReg mk) t s d]
  | .vremVV d s t mk => [packVV 0x1C 0 17 (maskMk mk) (maskReg mk) t s d]
  | .vremuVV d s t mk => [packVV 0x1C 0 18 (maskMk mk) (maskReg mk) t s d]
  | .vsaddVV d s t mk => [packVV 0x1C 0 19 (maskMk mk) (maskReg mk) t s d]
  | .vsadduVV d s t mk => [packVV 0x1C 0 20 (maskMk mk) (maskReg mk) t s d]
  | .vssubVV d s t mk => [packVV 0x1C 0 21 (maskMk mk) (maskReg mk) t s d]
  | .vssubuVV d s t mk => [packVV 0x1C 0 22 (maskMk mk) (maskReg mk) t s d]
  | .vabs d s mk => [packVV 0x1C 0 23 (maskMk mk) (maskReg mk) 0 s d]
  | .vneg d s mk => [packVV 0x1C 0 24 (maskMk mk) (maskReg mk) 0 s d]
  | .vaddVX d s x mk => [packVV 0x1D 0 0 (maskMk mk) (maskReg mk) x s d]
  | .vsubVX d s x mk => [packVV 0x1D 0 1 (maskMk mk) (maskReg mk) x s d]
  | .vandVX d s x mk => [packVV 0x1D 0 2 (maskMk mk) (maskReg mk) x s d]
  | .vorVX d s x mk => [packVV 0x1D 0 3 (maskMk mk) (maskReg mk) x s d]
  | .vxorVX d s x mk => [packVV 0x1D 0 4 (maskMk mk) (maskReg mk) x s d]
  | .vsllVX d s x mk => [packVV 0x1D 0 5 (maskMk mk) (maskReg mk) x s d]
  | .vsrlVX d s x mk => [packVV 0x1D 0 6 (maskMk mk) (maskReg mk) x s d]
  | .vsraVX d s x mk => [packVV 0x1D 0 7 (maskMk mk) (maskReg mk) x s d]
  | .vminVX d s x mk => [packVV 0x1D 0 8 (maskMk mk) (maskReg mk) x s d]
  | .vmaxVX d s x mk => [packVV 0x1D 0 9 (maskMk mk) (maskReg mk) x s d]
  | .vminuVX d s x mk => [packVV 0x1D 0 10 (maskMk mk) (maskReg mk) x s d]
  | .vmaxuVX d s x mk => [packVV 0x1D 0 11 (maskMk mk) (maskReg mk) x s d]
  | .vmulVX d s x mk => [packVV 0x1D 0 12 (maskMk mk) (maskReg mk) x s d]
  | .vmulhVX d s x mk => [packVV 0x1D 0 13 (maskMk mk) (maskReg mk) x s d]
  | .vmulhuVX d s x mk => [packVV 0x1D 0 14 (maskMk mk) (maskReg mk) x s d]
  | .vdivVX d s x mk => [packVV 0x1D 0 15 (maskMk mk) (maskReg mk) x s d]
  | .vdivuVX d s x mk => [packVV 0x1D 0 16 (maskMk mk) (maskReg mk) x s d]
  | .vremVX d s x mk => [packVV 0x1D 0 17 (maskMk mk) (maskReg mk) x s d]
  | .vremuVX d s x mk => [packVV 0x1D 0 18 (maskMk mk) (maskReg mk) x s d]
  | .vsaddVX d s x mk => [packVV 0x1D 0 19 (maskMk mk) (maskReg mk) x s d]
  | .vsadduVX d s x mk => [packVV 0x1D 0 20 (maskMk mk) (maskReg mk) x s d]
  | .vssubVX d s x mk => [packVV 0x1D 0 21 (maskMk mk) (maskReg mk) x s d]
  | .vssubuVX d s x mk => [packVV 0x1D 0 22 (maskMk mk) (maskReg mk) x s d]
  | .vaddVI d s i mk => [packVV 0x1E 0 0 (maskMk mk) (maskReg mk) i s d]
  | .vsubVI d s i mk => [packVV 0x1E 0 1 (maskMk mk) (maskReg mk) i s d]
  | .vandVI d s i mk => [packVV 0x1E 0 2 (maskMk mk) (maskReg mk) i s d]
  | .vorVI d s i mk => [packVV 0x1E 0 3 (maskMk mk) (maskReg mk) i s d]
  | .vxorVI d s i mk => [packVV 0x1E 0 4 (maskMk mk) (maskReg mk) i s d]
  | .vsllVI d s i mk => [packVV 0x1E 0 5 (maskMk mk) (maskReg mk) i s d]
  | .vsrlVI d s i mk => [packVV 0x1E 0 6 (maskMk mk) (maskReg mk) i s d]
  | .vsraVI d s i mk => [packVV 0x1E 0 7 (maskMk mk) (maskReg mk) i s d]
  | .vminVI d s i mk => [packVV 0x1E 0 8 (maskMk mk) (maskReg mk) i s d]
  | .vmaxVI d s i mk => [packVV 0x1E 0 9 (maskMk mk) (maskReg mk) i s d]
  | .vminuVI d s i mk => [packVV 0x1E 0 10 (maskMk mk) (maskReg mk) i s d]
  | .vmaxuVI d s i mk => [packVV 0x1E 0 11 (maskMk mk) (maskReg mk) i s d]
  | .vsaddVI d s i mk => [packVV 0x1E 0 19 (maskMk mk) (maskReg mk) i s d]
  | .vsadduVI d s i mk => [packVV 0x1E 0 20 (maskMk mk) (maskReg mk) i s d]
  | .vssubVI d s i mk => [packVV 0x1E 0 21 (maskMk mk) (maskReg mk) i s d]
  | .vssubuVI d s i mk => [packVV 0x1E 0 22 (maskMk mk) (maskReg mk) i s d]
  | .vfaddVV d s t mk => [packVV 0x1F 0 0 (maskMk mk) (maskReg mk) t s d]
  | .vfsubVV d s t mk => [packVV 0x1F 0 1 (maskMk mk) (maskReg mk) t s d]
  | .vfmulVV d s t mk => [packVV 0x1F 0 2 (maskMk mk) (maskReg mk) t s d]
  | .vfdivVV d s t mk => [packVV 0x1F 0 3 (maskMk mk) (maskReg mk) t s d]
  | .vfminVV d s t mk => [packVV 0x1F 0 4 (maskMk mk) (maskReg mk) t s d]
  | .vfmaxVV d s t mk => [packVV 0x1F 0 5 (maskMk mk) (maskReg mk) t s d]
  | .vfmaVV d s t mk => [packVV 0x1F 0 6 (maskMk mk) (maskReg mk) t s d]
  | .vfmsVV d s t mk => [packVV 0x1F 0 7 (maskMk mk) (maskReg mk) t s d]
  | .vfnmaVV d s t mk => [packVV 0x1F 0 8 (maskMk mk) (maskReg mk) t s d]
  | .vfsqrt d s mk => [packVV 0x1F 0 9 (maskMk mk) (maskReg mk) 0 s d]
  | .vfrece d s mk => [packVV 0x1F 0 10 (maskMk mk) (maskReg mk) 0 s d]
  | .vfrsqe d s mk => [packVV 0x1F 0 11 (maskMk mk) (maskReg mk) 0 s d]
  | .vfabs d s mk => [packVV 0x1F 0 12 (maskMk mk) (maskReg mk) 0 s d]
  | .vfneg d s mk => [packVV 0x1F 0 13 (maskMk mk) (maskReg mk) 0 s d]
  | .vfsgnj d s t mk => [packVV 0x1F 0 14 (maskMk mk) (maskReg mk) t s d]
  | .vfaddVX d s x mk => [packVV 0x20 0 0 (maskMk mk) (maskReg mk) x s d]
  | .vfsubVX d s x mk => [packVV 0x20 0 1 (maskMk mk) (maskReg mk) x s d]
  | .vfmulVX d s x mk => [packVV 0x20 0 2 (maskMk mk) (maskReg mk) x s d]
  | .vfdivVX d s x mk => [packVV 0x20 0 3 (maskMk mk) (maskReg mk) x s d]
  | .vfminVX d s x mk => [packVV 0x20 0 4 (maskMk mk) (maskReg mk) x s d]
  | .vfmaxVX d s x mk => [packVV 0x20 0 5 (maskMk mk) (maskReg mk) x s d]
  | .vfmaVX d s x mk => [packVV 0x20 0 6 (maskMk mk) (maskReg mk) x s d]
  | .vfmsVX d s x mk => [packVV 0x20 0 7 (maskMk mk) (maskReg mk) x s d]
  | .vfnmaVX d s x mk => [packVV 0x20 0 8 (maskMk mk) (maskReg mk) x s d]
  | .vcmpeq d s t mk => [packVV 0x21 0 0 (maskMk mk) (maskReg mk) t s (d.setWidth 5)]
  | .vcmpne d s t mk => [packVV 0x21 0 1 (maskMk mk) (maskReg mk) t s (d.setWidth 5)]
  | .vcmplt d s t mk => [packVV 0x21 0 2 (maskMk mk) (maskReg mk) t s (d.setWidth 5)]
  | .vcmple d s t mk => [packVV 0x21 0 3 (maskMk mk) (maskReg mk) t s (d.setWidth 5)]
  | .vcmpltu d s t mk => [packVV 0x21 0 4 (maskMk mk) (maskReg mk) t s (d.setWidth 5)]
  | .vcmpleu d s t mk => [packVV 0x21 0 5 (maskMk mk) (maskReg mk) t s (d.setWidth 5)]
  | .vfcmpeq d s t mk => [packVV 0x21 0 6 (maskMk mk) (maskReg mk) t s (d.setWidth 5)]
  | .vfcmplt d s t mk => [packVV 0x21 0 7 (maskMk mk) (maskReg mk) t s (d.setWidth 5)]
  | .vfcmple d s t mk => [packVV 0x21 0 8 (maskMk mk) (maskReg mk) t s (d.setWidth 5)]
  | .vfcmpun d s t mk => [packVV 0x21 0 9 (maskMk mk) (maskReg mk) t s (d.setWidth 5)]
  | .vmerge d s t m => [packVV 0x22 0 0 1 m t s d]
  | .vmv d s mk => [packVV 0x22 0 1 (maskMk mk) (maskReg mk) 0 s d]
  | .vid d mk => [packVV 0x22 0 2 (maskMk mk) (maskReg mk) 0 0 d]
  | .vsplat d t mk => [packVV 0x22 0 3 (maskMk mk) (maskReg mk) t 0 d]
  | .vext d s t => [packVV 0x22 0 4 0 0 t s d]
  | .vdot4 d s t mk => [packVV 0x23 0 0 (maskMk mk) (maskReg mk) t s d]
  | .vdot8 d s t mk => [packVV 0x23 0 1 (maskMk mk) (maskReg mk) t s d]
  | .vbsapply d s t mk => [packVV 0x23 0 2 (maskMk mk) (maskReg mk) t s d]
  | .vcvt d s mk srcf dstf rnd sat => [packVV 0x24 1 0 (maskMk mk) (maskReg mk) 0 s d, 0#20 ++ sat ++ rnd ++ dstf ++ srcf]
  | .vcvtW d s mk srcf dstf rnd sat => [packVV 0x24 1 1 (maskMk mk) (maskReg mk) 0 s d, 0#20 ++ sat ++ rnd ++ dstf ++ srcf]
  | .vcvtN d s mk srcf dstf rnd sat => [packVV 0x24 1 2 (maskMk mk) (maskReg mk) 0 s d, 0#20 ++ sat ++ rnd ++ dstf ++ srcf]
  | .vcvtSC d s t mk srcf dstf rnd sat => [packVV 0x24 1 3 (maskMk mk) (maskReg mk) t s d, 0#20 ++ sat ++ rnd ++ dstf ++ srcf]
  | .vsrseed t => [packVV 0x25 0 0 0 0 t 0 0]
  | .vld d a mk => [packVM 0x26 0 0 (maskMk mk) (maskReg mk) 0 0 a d]
  | .vldFE d a mk => [packVM 0x26 0 1 (maskMk mk) (maskReg mk) 0 0 a d]
  | .vldFC d a mk => [packVM 0x26 0 2 (maskMk mk) (maskReg mk) 0 0 a d]
  | .vlds d a i mk => [packVM 0x26 0 3 (maskMk mk) (maskReg mk) 0 i a d]
  | .vldx d a i mk => [packVM 0x26 0 4 (maskMk mk) (maskReg mk) 0 i a d]
  | .vldff d a mk => [packVM 0x26 0 5 (maskMk mk) (maskReg mk) 0 0 a d]
  | .vldz d a i => [packVM 0x26 0 6 0 0 0 i a d]
  | .vldseg d a n mk => [packVM 0x26 0 7 (maskMk mk) (maskReg mk) 0 n a d]
  | .vst d a mk => [packVM 0x27 0 0 (maskMk mk) (maskReg mk) 0 0 a d]
  | .vsts d a i mk => [packVM 0x27 0 1 (maskMk mk) (maskReg mk) 0 i a d]
  | .vstx d a i mk => [packVM 0x27 0 2 (maskMk mk) (maskReg mk) 0 i a d]
  | .vstxo d a i mk => [packVM 0x27 0 3 (maskMk mk) (maskReg mk) 0 i a d]
  | .vstz d a i => [packVM 0x27 0 4 0 0 0 i a d]
  | .vstseg d a n mk => [packVM 0x27 0 5 (maskMk mk) (maskReg mk) 0 n a d]
  | .vpf a i mk => [packVM 0x28 0 0 (maskMk mk) (maskReg mk) 0 i a 0]
  | .vred d s o mk => [packVV 0x2A 0 0 (maskMk mk) (maskReg mk) o s d]
  | .vscan d s o mk => [packVV 0x2A 0 1 (maskMk mk) (maskReg mk) o s d]
  | .vscanx d s o mk => [packVV 0x2A 0 2 (maskMk mk) (maskReg mk) o s d]
  | .vperm d s t mk => [packVV 0x2A 0 3 (maskMk mk) (maskReg mk) t s d]
  | .vcomp d s m => [packVV 0x2A 0 4 1 m 0 s d]
  | .vexpd d s m => [packVV 0x2A 0 5 1 m 0 s d]
  | .vfilt d s mk => [packVV 0x2A 0 6 (maskMk mk) (maskReg mk) 0 s d]
  | .vtopk d s x mk => [packVV 0x2A 0 7 (maskMk mk) (maskReg mk) x s d]
  | .vslideup d s x mk => [packVV 0x2A 0 8 (maskMk mk) (maskReg mk) x s d]
  | .vslidedn d s x mk => [packVV 0x2A 0 9 (maskMk mk) (maskReg mk) x s d]
  | .binr d s => [packZR 0x2C 0 0 0 (s.setWidth 5) d]
  | .challoc d s t => [packZR 0x2C 0 1 (t.setWidth 5) (s.setWidth 5) (d.setWidth 5)]
  | .chpool d s => [packZR 0x2C 0 2 0 (s.setWidth 5) d]
  | .strmLd d s t ch rm => [packZR 0x2D 1 0 t (s.setWidth 5) (d.setWidth 5), 0#24 ++ rm ++ ch]
  | .strmLdFab s t ch rm => [packZR 0x2D 1 0 t (s.setWidth 5) 0, 1#24 ++ rm ++ ch]
  | .strmSt d s t ch rm => [packZR 0x2D 1 1 t (s.setWidth 5) (d.setWidth 5), 0#24 ++ rm ++ ch]
  | .strmCp d s t ch rm tr rnd sat => [packZR 0x2D 1 2 t (s.setWidth 5) (d.setWidth 5), 0#19 ++ sat ++ rnd ++ tr ++ rm ++ ch]
  | .strmGx d s t ch => [packZR 0x2D 1 3 (t.setWidth 5) (s.setWidth 5) (d.setWidth 5), 0#26 ++ ch]
  | .strmPost s ch clr => [packZR 0x2D 1 4 0 s 0, 0#23 ++ clr ++ 0#2 ++ ch]
  | .strmWait d ch wm => [packZR 0x2D 1 5 0 0 d, 0#23 ++ wm ++ 0#2 ++ ch]
  | .strmMark ch rank last => [packZR 0x2D 1 6 0 0 0, 0#20 ++ last ++ rank ++ 0#2 ++ ch]
  | .tqdecl d s => [packZR 0x2E 0 0 0 s d]
  | .tqld d s t => [packZR 0x2E 0 1 t (s.setWidth 5) d]
  | .tqpop d => [packZR 0x2E 0 2 0 0 d]
  | .vaadd d a i mk => [packVM 0x2F 0 0 (maskMk mk) (maskReg mk) 0 i a d]
  | .vaand d a i mk => [packVM 0x2F 0 1 (maskMk mk) (maskReg mk) 0 i a d]
  | .vaor d a i mk => [packVM 0x2F 0 2 (maskMk mk) (maskReg mk) 0 i a d]
  | .vaxor d a i mk => [packVM 0x2F 0 3 (maskMk mk) (maskReg mk) 0 i a d]
  | .vamin d a i mk => [packVM 0x2F 0 4 (maskMk mk) (maskReg mk) 0 i a d]
  | .vamax d a i mk => [packVM 0x2F 0 5 (maskMk mk) (maskReg mk) 0 i a d]
  | .vaminu d a i mk => [packVM 0x2F 0 6 (maskMk mk) (maskReg mk) 0 i a d]
  | .vamaxu d a i mk => [packVM 0x2F 0 7 (maskMk mk) (maskReg mk) 0 i a d]
  | .vafadd d a i mk => [packVM 0x2F 0 8 (maskMk mk) (maskReg mk) 0 i a d]
  | .vaswap d a i mk => [packVM 0x2F 0 9 (maskMk mk) (maskReg mk) 0 i a d]
  | .vacas d a i mk => [packVM 0x2F 0 10 (maskMk mk) (maskReg mk) 0 i a d]
  | .vcadd d a i mk => [packVM 0x2F 0 16 (maskMk mk) (maskReg mk) 0 i a d]
  | .vcand d a i mk => [packVM 0x2F 0 17 (maskMk mk) (maskReg mk) 0 i a d]
  | .vcor d a i mk => [packVM 0x2F 0 18 (maskMk mk) (maskReg mk) 0 i a d]
  | .vcxor d a i mk => [packVM 0x2F 0 19 (maskMk mk) (maskReg mk) 0 i a d]
  | .vcmin d a i mk => [packVM 0x2F 0 20 (maskMk mk) (maskReg mk) 0 i a d]
  | .vcmax d a i mk => [packVM 0x2F 0 21 (maskMk mk) (maskReg mk) 0 i a d]
  | .vcminu d a i mk => [packVM 0x2F 0 22 (maskMk mk) (maskReg mk) 0 i a d]
  | .vcmaxu d a i mk => [packVM 0x2F 0 23 (maskMk mk) (maskReg mk) 0 i a d]
  | .vcfadd d a i mk => [packVM 0x2F 0 24 (maskMk mk) (maskReg mk) 0 i a d]
  | .vgl d a i mk => [packVM 0x2F 0 28 (maskMk mk) (maskReg mk) 0 i a d]
  | .vsc d a i m => [packVM 0x2F 0 29 1 m 0 i a d]
  | .amadd d s t => [packZR 0x30 0 0 t (s.setWidth 5) d]
  | .amand d s t => [packZR 0x30 0 1 t (s.setWidth 5) d]
  | .amor d s t => [packZR 0x30 0 2 t (s.setWidth 5) d]
  | .amxor d s t => [packZR 0x30 0 3 t (s.setWidth 5) d]
  | .ammin d s t => [packZR 0x30 0 4 t (s.setWidth 5) d]
  | .ammax d s t => [packZR 0x30 0 5 t (s.setWidth 5) d]
  | .amminu d s t => [packZR 0x30 0 6 t (s.setWidth 5) d]
  | .ammaxu d s t => [packZR 0x30 0 7 t (s.setWidth 5) d]
  | .amswap d s t => [packZR 0x30 0 8 t (s.setWidth 5) d]
  | .amcas d s t => [packZR 0x30 0 9 t (s.setWidth 5) d]
  | .amaddW d s t => [packZR 0x30 0 16 t (s.setWidth 5) d]
  | .amandW d s t => [packZR 0x30 0 17 t (s.setWidth 5) d]
  | .amorW d s t => [packZR 0x30 0 18 t (s.setWidth 5) d]
  | .amxorW d s t => [packZR 0x30 0 19 t (s.setWidth 5) d]
  | .amminW d s t => [packZR 0x30 0 20 t (s.setWidth 5) d]
  | .ammaxW d s t => [packZR 0x30 0 21 t (s.setWidth 5) d]
  | .amminuW d s t => [packZR 0x30 0 22 t (s.setWidth 5) d]
  | .ammaxuW d s t => [packZR 0x30 0 23 t (s.setWidth 5) d]
  | .amswapW d s t => [packZR 0x30 0 24 t (s.setWidth 5) d]
  | .amcasW d s t => [packZR 0x30 0 25 t (s.setWidth 5) d]
  | .amaddQ32 d s t q => [packZR 0x30 1 0 t (s.setWidth 5) d, qualWord q]
  | .amandQ32 d s t q => [packZR 0x30 1 1 t (s.setWidth 5) d, qualWord q]
  | .amorQ32 d s t q => [packZR 0x30 1 2 t (s.setWidth 5) d, qualWord q]
  | .amxorQ32 d s t q => [packZR 0x30 1 3 t (s.setWidth 5) d, qualWord q]
  | .amminQ32 d s t q => [packZR 0x30 1 4 t (s.setWidth 5) d, qualWord q]
  | .ammaxQ32 d s t q => [packZR 0x30 1 5 t (s.setWidth 5) d, qualWord q]
  | .amminuQ32 d s t q => [packZR 0x30 1 6 t (s.setWidth 5) d, qualWord q]
  | .ammaxuQ32 d s t q => [packZR 0x30 1 7 t (s.setWidth 5) d, qualWord q]
  | .amswapQ32 d s t q => [packZR 0x30 1 8 t (s.setWidth 5) d, qualWord q]
  | .amcasQ32 d s t q => [packZR 0x30 1 9 t (s.setWidth 5) d, qualWord q]
  | .amaddWQ32 d s t q => [packZR 0x30 1 16 t (s.setWidth 5) d, qualWord q]
  | .amandWQ32 d s t q => [packZR 0x30 1 17 t (s.setWidth 5) d, qualWord q]
  | .amorWQ32 d s t q => [packZR 0x30 1 18 t (s.setWidth 5) d, qualWord q]
  | .amxorWQ32 d s t q => [packZR 0x30 1 19 t (s.setWidth 5) d, qualWord q]
  | .amminWQ32 d s t q => [packZR 0x30 1 20 t (s.setWidth 5) d, qualWord q]
  | .ammaxWQ32 d s t q => [packZR 0x30 1 21 t (s.setWidth 5) d, qualWord q]
  | .amminuWQ32 d s t q => [packZR 0x30 1 22 t (s.setWidth 5) d, qualWord q]
  | .ammaxuWQ32 d s t q => [packZR 0x30 1 23 t (s.setWidth 5) d, qualWord q]
  | .amswapWQ32 d s t q => [packZR 0x30 1 24 t (s.setWidth 5) d, qualWord q]
  | .amcasWQ32 d s t q => [packZR 0x30 1 25 t (s.setWidth 5) d, qualWord q]
  | .fenceSV => [packZR 0x31 0 0 0 0 0]
  | .fenceVS => [packZR 0x31 0 1 0 0 0]
  | .fenceVV => [packZR 0x31 0 2 0 0 0]
  | .fence k c => [packZR 0x31 0 3 (k ++ c) 0 0]
  | .bara d s c => [packZR 0x31 0 4 (c.setWidth 5) (s.setWidth 5) d]
  | .barw d s c => [packZR 0x31 0 5 (c.setWidth 5) (s.setWidth 5) d]
  | .cflush s => [packZR 0x32 0 0 0 (s.setWidth 5) 0]
  | .cinv s => [packZR 0x32 0 1 0 (s.setWidth 5) 0]
  | .cclean s => [packZR 0x32 0 2 0 (s.setWidth 5) 0]
  | .czero s => [packZR 0x32 0 3 0 (s.setWidth 5) 0]
  | .cpf s wi => [packZR 0x32 0 4 (wi.setWidth 5) (s.setWidth 5) 0]
  | .isync s t => [packZR 0x32 0 5 t (s.setWidth 5) 0]
  | .mmode s => [packZR 0x33 0 0 0 s 0]
  | .qclaim d s t => [packZR 0x33 0 1 t (s.setWidth 5) d]
  | .qrel s => [packZR 0x33 0 2 0 s 0]
  | .qacc d s => [packZR 0x33 0 3 0 s (d.setWidth 5)]
  | .bsset d s t => [packZR 0x33 0 4 t s d]
  | .qstage d s t afmt wfmt ofmt rnd sat wslot => [packZR 0x34 1 0 t (s.setWidth 5) (d.setWidth 5), 0#7 ++ wslot ++ sat ++ rnd ++ 0#3 ++ ofmt ++ wfmt ++ afmt]
  | .qchain d s t afmt ofmt ifmt rnd sat => [packZR 0x34 1 1 t (s.setWidth 5) (d.setWidth 5), 0#13 ++ sat ++ rnd ++ ifmt ++ 0#2 ++ ofmt ++ 0#4 ++ afmt]
  | .mgemm t afmt wfmt smode wslot sslot => [packZR 0x34 1 2 t 0 0, 0#1 ++ sslot ++ wslot ++ 0#5 ++ smode ++ 0#4 ++ wfmt ++ afmt]
  | .qdrain d force => [packZR 0x34 1 3 0 0 d, 0#31 ++ force]
  | .cfgLoad d s t => [packZR 0x36 0 0 t (s.setWidth 5) d]
  | .cfgCheck d s => [packZR 0x36 0 1 0 (s.setWidth 5) d]
  | .cfgSel d s => [packZR 0x36 0 2 0 s d]
  | .cfgMark => [packZR 0x36 0 3 0 0 0]
  | .cfgSave d s => [packZR 0x36 0 4 0 (s.setWidth 5) d]
  | .cfgRest d s => [packZR 0x36 0 5 0 (s.setWidth 5) d]
  | .cfgGuard d s => [packZR 0x36 0 6 0 s d]
  | .cfgBind s t => [packZR 0x36 0 7 t s 0]
  | .cfgWr d s t => [packZR 0x36 0 8 t s d]
  | .launch d s => [packZR 0x38 0 0 0 (s.setWidth 5) d]
  | .lstat d s t => [packZR 0x38 0 1 t s d]
  | .tmark s => [packZR 0x39 0 0 0 s 0]
  | .profLock d s => [packZR 0x39 0 1 0 s d]
  | .profUnlock d => [packZR 0x39 0 2 0 0 d]
  | .brkpt d s t => [packZR 0x39 0 3 t (s.setWidth 5) d]
  | .cntrd d s => [packZR 0x39 0 4 0 s d]
  | .elemNop => [packElem 1 0 0 0 0 0 0]
  | .elemAdd sa sb da db tag => [packElem 2 sa sb da db tag 0]
  | .elemSub sa sb da db tag => [packElem 3 sa sb da db tag 0]
  | .elemMul sa sb da db tag => [packElem 4 sa sb da db tag 0]
  | .elemAnd sa sb da db tag => [packElem 5 sa sb da db tag 0]
  | .elemOr sa sb da db tag => [packElem 6 sa sb da db tag 0]
  | .elemXor sa sb da db tag => [packElem 7 sa sb da db tag 0]
  | .elemMin sa sb da db tag => [packElem 8 sa sb da db tag 0]
  | .elemMax sa sb da db tag => [packElem 9 sa sb da db tag 0]
  | .elemMinu sa sb da db tag => [packElem 10 sa sb da db tag 0]
  | .elemMaxu sa sb da db tag => [packElem 11 sa sb da db tag 0]
  | .elemFadd sa sb da db tag => [packElem 12 sa sb da db tag 0]
  | .elemFsub sa sb da db tag => [packElem 13 sa sb da db tag 0]
  | .elemFmul sa sb da db tag => [packElem 14 sa sb da db tag 0]
  | .elemFmin sa sb da db tag => [packElem 15 sa sb da db tag 0]
  | .elemFmax sa sb da db tag => [packElem 16 sa sb da db tag 0]
  | .elemDot4 sa sb da db tag => [packElem 17 sa sb da db tag 0]
  | .elemAddl sa da db tag lit => [packElem 18 sa 0 da db tag lit]
  | .elemMull sa da db tag lit => [packElem 19 sa 0 da db tag lit]
  | .elemAndl sa da db tag lit => [packElem 20 sa 0 da db tag lit]
  | .elemShl sa da db tag lit => [packElem 21 sa 0 da db tag lit]
  | .elemShr sa da db tag lit => [packElem 22 sa 0 da db tag lit]
  | .elemSar sa da db tag lit => [packElem 23 sa 0 da db tag lit]
  | .elemFma sa sb da db tag lit => [packElem 24 sa sb da db tag (lit.setWidth 5)]
  | .elemMac sa sb da db tag lit => [packElem 25 sa sb da db tag (lit.setWidth 5)]
  | .elemCmpeq sa sb da db tag lit => [packElem 26 sa sb da db tag (lit.setWidth 5)]
  | .elemCmplt sa sb da db tag lit => [packElem 27 sa sb da db tag (lit.setWidth 5)]
  | .elemCmpltu sa sb da db tag lit => [packElem 28 sa sb da db tag (lit.setWidth 5)]
  | .elemFcmplt sa sb da db tag lit => [packElem 29 sa sb da db tag (lit.setWidth 5)]
  | .elemFcmpeq sa sb da db tag lit => [packElem 30 sa sb da db tag (lit.setWidth 5)]
  | .elemSetp lit => [packElem 31 0 0 0 0 0 (lit.setWidth 5)]
  | .elemClrp lit => [packElem 32 0 0 0 0 0 (lit.setWidth 5)]
  | .elemMovp sa lit => [packElem 33 sa 0 0 0 0 (lit.setWidth 5)]
  | .elemMov sa da db tag => [packElem 34 sa 0 da db tag 0]
  | .elemLit da db tag lit => [packElem 35 0 0 da db tag lit]
  | .elemSel sa sb da db tag lit => [packElem 36 sa sb da db tag (lit.setWidth 5)]
  | .elemDrop sa sb => [packElem 37 sa sb 0 0 0 0]
  | .elemLdt sa da db tag lit => [packElem 38 sa 0 da db tag lit]
  | .elemStt sa sb tag lit => [packElem 39 sa sb 0 0 tag lit]
  | .elemCnt da db tag lit => [packElem 40 0 0 da db tag (lit.setWidth 5)]
  | .elemCtx lit => [packElem 41 0 0 0 0 0 (lit.setWidth 5)]
  | .elemHalt => [packElem 42 0 0 0 0 0 0]
  | .elemAbs sa da db tag => [packElem 43 sa 0 da db tag 0]
  | .elemPopc sa da db tag => [packElem 44 sa 0 da db tag 0]
  | .elemSteer sa da db tag lit => [packElem 45 sa 0 da db tag (lit.setWidth 5)]
  | .nohandlerFreeze .. | .predicateWriteResolve .. | .elementResultWrite .. | .tokenDelivery .. | .edgeQueueForward .. | .waveOperationPerform .. | .elementContextSwitch .. | .elementSnapshot .. => []
  | .markerTimeout .. | .streamOutTake .. | .cfgCheckDone .. | .cfgLoadDone .. | .cfgSaveDone .. | .cfgRestDone .. | .asyncTrap .. | .scalarAccessComplete .. => []
  | .storeQueueDrain .. | .fullemptyWake .. | .waitlineWake .. | .barwWake .. | .joinlWake .. | .slotFree .. | .pageWalk .. | .tlbInvalidateComplete .. => []
  | .reservationWaitProceed .. | .vectorInstructionStart .. | .elementGroup .. | .vldFeGroupProceed .. | .vpartEffect .. | .forklAct .. | .joinlAct .. | .sectorComplete .. => []
  | .streamFault .. | .strmWaitWake .. | .tqpopWake .. | .bufferDrained .. | .riddleBatch .. | .matrixStart .. | .rowFire .. | .rowRelease .. => []
  | .matrixComplete .. | .qclaimFillDone .. | .qrelEffect .. | .qdrainWake .. | .leaveGrant .. | .leaveRevoke .. | .matrixEntry .. | .matrixExit .. => []
  | .readinessRead .. | .claimBegin .. | .teamPlace .. | .teamFirstIssue .. | .teamEnd .. | .tileClearDone .. | .launchSignal .. | .preemptDecision .. => []
  | .swapOutSave .. | .teamRestore .. | .lineInstall .. | .taggedWrite .. | .hostBarAccess .. | .cxlRequest .. | .ndeitLoad .. | .ndeitStore .. => []
  | .ndeitAtomic .. | .ndeitReduction .. | .ndeitCoherence .. | .flitReplay .. | .linkRetrain .. | .linkRetrainDone .. | .uncorrectableError .. | .rootOfTrustBoot => []
  | .secondaryBusReset | .mgmtReset .. | .thermalShutdown | .clockThrottle .. | .clockLockDone .. | .tileLowPowerEntry .. | .lattolWrite .. | .ctxcurWrite .. => []
  | .registerWrite .. | .fkeyInstall .. | .fkeyClear .. | .fkeyCommandDone .. | .cpLoad .. | .cpCheck .. | .cpClear .. | .cpCommandDone .. => []
  | .debugGo .. | .breakpointStop .. | .traceSample .. | .attestReport .. | .attestExtend .. | .fetchTrap .. | .instructionCacheFill .. | .fabricIllegal .. => []
  | .backInvalidate .. | .currentLimit .. | .linkTrainingDone .. => []

noncomputable section

/-- Decoding of encoded words: core parcels, or one element word. -/
def decodeWords (elem : Bool) : List Parcel → Except DecodeError Instr
  | [p0] => if elem then decodeElem p0 else decode p0 0 0
  | [p0, p1] => decode p0 p1 0
  | [p0, p1, p2] => decode p0 p1 p2
  | _ => .error .truncated

/-- The instruction that the decoder reads from bits numbered as the opcode table numbers them (bit 0 is bit 0 of parcel
0, each later parcel counts on; bits above `nbits` are 0). A word that is no core instruction and has 32 bits is read as
an element instruction word. -/
def decodeTableWord (nbits w : Nat) : Option Instr :=
  let v : BitVec 96 := BitVec.ofNat 96 (w % 2 ^ nbits)
  match decode (v.extractLsb' 0 32) (v.extractLsb' 32 32) (v.extractLsb' 64 32) with
  | .ok i => some i
  | .error _ => if nbits = 32 then (decodeElem (v.extractLsb' 0 32)).toOption else none

end

end Sys2Proof
end

