-- ==== Sys2Proof/Machine/Float.lean ====
section
/-! DEFINITION. Number formats, exact values, rounding and conversion (R58 to R75, R99 to R101). Arithmetic is exact on
rationals; rounding, flushing and overflow happen only in the named helpers (R5). -/

namespace Sys2Proof.Machine

open Sys2Proof

/-- Exception flags in the order of `fcsr` bits 4 to 0: NX UF OF DZ NV (R70 table). -/
abbrev Flags := BitVec 5

/-- Invalid operation. -/
def flagNV : Flags := 1
/-- Division by zero. -/
def flagDZ : Flags := 2
/-- Overflow. -/
def flagOF : Flags := 4
/-- Underflow. -/
def flagUF : Flags := 8
/-- Inexact. -/
def flagNX : Flags := 16

/-- A flag raised on a condition. -/
def flagIf (b : Bool) (f : Flags) : Flags := if b then f else 0

/-- Rounding modes (R67). -/
inductive RMode where
  | nearest | zero | down | up | stochastic
  deriving DecidableEq, Repr

/-- The mode of a rounding code 0 to 4 (R67); the codes above are refused where they could be written. -/
def RMode.ofCode (c : Nat) : RMode :=
  match c with
  | 0 => .nearest
  | 1 => .zero
  | 2 => .down
  | 3 => .up
  | _ => .stochastic

/-- Code 4 read by an instruction that is no conversion (R67). -/
def RMode.plain (m : RMode) : RMode := if m = .stochastic then .nearest else m

/-- Which special codes a floating-point format has (R59). -/
inductive Specials where
  | ieee    -- infinities and NaNs at the largest exponent
  | e4m3    -- NaN at exponent 15, fraction 7; no infinity
  | none
  deriving DecidableEq, Repr

/-- A floating-point format (R59). -/
structure FFmt where
  expW  : Nat
  fracW : Nat
  bias  : Nat
  spec  : Specials
  /-- quiet and signalling NaNs are told apart (R60) -/
  snan  : Bool
  /-- FZ flushes this format (R70) -/
  flush : Bool
  deriving DecidableEq, Repr

def FFmt.fp64 : FFmt := ⟨11, 52, 1023, .ieee, true, false⟩
def FFmt.fp32 : FFmt := ⟨8, 23, 127, .ieee, true, true⟩
def FFmt.bf16 : FFmt := ⟨8, 7, 127, .ieee, true, true⟩
def FFmt.fp16 : FFmt := ⟨5, 10, 15, .ieee, true, true⟩
def FFmt.e4m3 : FFmt := ⟨4, 3, 7, .e4m3, false, false⟩
def FFmt.e5m2 : FFmt := ⟨5, 2, 15, .ieee, false, false⟩
def FFmt.e3m2 : FFmt := ⟨3, 2, 3, .none, false, false⟩
def FFmt.e2m3 : FFmt := ⟨2, 3, 1, .none, false, false⟩
def FFmt.e2m1 : FFmt := ⟨2, 1, 1, .none, false, false⟩

/-- The floating-point format of a tag, with tag 0 as FP64 (R58). -/
def floatFmt (tag : BitVec 4) : Option FFmt :=
  match tag.toNat with
  | 0 => some .fp64
  | 1 => some .fp32
  | 2 => some .bf16
  | 3 => some .fp16
  | 4 => some .e4m3
  | 5 => some .e5m2
  | 6 => some .e3m2
  | 7 => some .e2m3
  | 8 => some .e2m1
  | _ => none

/-- The integer format of a tag, with tag 15 as INT64: width and signedness (R58, R61). -/
def intFmt (tag : BitVec 4) : Option (Nat × Bool) :=
  match tag.toNat with
  | 9 => some (32, true)
  | 10 => some (16, true)
  | 11 => some (8, true)
  | 12 => some (8, false)
  | 13 => some (4, true)
  | 14 => some (4, false)
  | 15 => some (64, true)
  | _ => none

/-- An exact value: a NaN, an infinity, a zero of a sign, or a finite nonzero rational `n / d` of a sign. -/
inductive Val where
  | nan (signalling : Bool)
  | inf (neg : Bool)
  | zero (neg : Bool)
  | fin (neg : Bool) (n d : Nat)
  deriving DecidableEq, Repr

/-- `k` times two to the power `e`, as a numerator and a denominator. -/
def scalePow (k : Nat) (e : Int) : Nat × Nat := if 0 ≤ e then (k * 2 ^ e.toNat, 1) else (k, 2 ^ (-e).toNat)

/-- The total width of the codes of a format. -/
def FFmt.width (F : FFmt) : Nat := 1 + F.expW + F.fracW

/-- The exponent of the smallest normal (R68). -/
def FFmt.emin (F : FFmt) : Int := 1 - (F.bias : Int)

/-- The largest finite magnitude as a pair of mantissa and exponent (R59). -/
def FFmt.maxParts (F : FFmt) : Nat × Int :=
  let top : Nat := 2 ^ F.expW - 1
  match F.spec with
  | .ieee => (2 ^ (F.fracW + 1) - 1, (top : Int) - 1 - F.bias - F.fracW)
  | .e4m3 => (2 ^ (F.fracW + 1) - 2, (top : Int) - F.bias - F.fracW)
  | .none => (2 ^ (F.fracW + 1) - 1, (top : Int) - F.bias - F.fracW)

/-- The code of the largest finite magnitude of a sign. -/
def FFmt.maxCode (F : FFmt) (neg : Bool) : Nat :=
  (if neg then 2 ^ (F.expW + F.fracW) else 0) +
  match F.spec with
  | .ieee => (2 ^ F.expW - 2) * 2 ^ F.fracW + (2 ^ F.fracW - 1)
  | .e4m3 => (2 ^ F.expW - 1) * 2 ^ F.fracW + (2 ^ F.fracW - 2)
  | .none => 2 ^ (F.expW + F.fracW) - 1

/-- The code of a zero of a sign. -/
def FFmt.zeroCode (F : FFmt) (neg : Bool) : Nat := if neg then 2 ^ (F.expW + F.fracW) else 0

/-- The code of an infinity of a sign, in a format that has infinities. -/
def FFmt.infCode (F : FFmt) (neg : Bool) : Nat := F.zeroCode neg + (2 ^ F.expW - 1) * 2 ^ F.fracW

/-- The format has infinities (R59). -/
def FFmt.hasInf (F : FFmt) : Bool := F.spec = .ieee

/-- The format has a NaN (R59). -/
def FFmt.hasNan (F : FFmt) : Bool := F.spec ≠ .none

/-- The canonical NaN of a format (R60); a format without a NaN gives +0 (R72). -/
def FFmt.nanCode (F : FFmt) : Nat :=
  match F.spec with
  | .ieee => (2 ^ F.expW - 1) * 2 ^ F.fracW + 2 ^ (F.fracW - 1)
  | .e4m3 => 2 ^ (F.expW + F.fracW) - 1
  | .none => 0

/-- The value of a code (R59, R60); bits above the format's width are ignored. -/
def FFmt.decode (F : FFmt) (bits : Nat) : Val :=
  let f := bits % 2 ^ F.fracW
  let e := bits / 2 ^ F.fracW % 2 ^ F.expW
  let neg := bits / 2 ^ (F.fracW + F.expW) % 2 == 1
  let top := 2 ^ F.expW - 1
  if F.spec = .ieee ∧ e = top then
    if f = 0 then .inf neg else .nan (F.snan && f < 2 ^ (F.fracW - 1))
  else if F.spec = .e4m3 ∧ e = top ∧ f = 2 ^ F.fracW - 1 then .nan false
  else if e = 0 then
    if f = 0 then .zero neg
    else
      let p := scalePow f (F.emin - F.fracW)
      .fin neg p.1 p.2
  else
    let p := scalePow (2 ^ F.fracW + f) ((e : Int) - F.bias - F.fracW)
    .fin neg p.1 p.2

/-- A value is subnormal in the format: nonzero and below the smallest normal (R70). -/
def FFmt.tiny (F : FFmt) (n d : Nat) : Bool :=
  let m := scalePow 1 F.emin
  n * m.2 < m.1 * d

/-- FZ on an input: a subnormal of a flushed format reads as zero of its sign, without a flag (R70). -/
def FFmt.flushIn (F : FFmt) (fz : Bool) (v : Val) : Val :=
  match v with
  | .fin neg n d => if fz && F.flush && F.tiny n d then .zero neg else v
  | _ => v

/-- floor of the base-two logarithm of `n / d`, for nonzero `n` and `d`. -/
def floorLog2 (n d : Nat) : Int :=
  let l : Int := (Nat.log2 n : Int) - (Nat.log2 d : Int)
  let p := scalePow d l
  if p.1 ≤ n * p.2 then l else l - 1

/-- The decision to round away from zero, of a discarded fraction `r / den` after the integer part `k` (R68). `s` is the
generator's new state, used by the stochastic mode alone. -/
def roundUp (m : RMode) (neg : Bool) (k r den s : Nat) : Bool :=
  if r = 0 then false
  else
    match m with
    | .nearest => den < 2 * r || (2 * r == den && k % 2 == 1)
    | .zero => false
    | .down => neg
    | .up => !neg
    | .stochastic => 2 ^ 32 ≤ r * 2 ^ 32 / den + s

/-- `n / d` rounded to a multiple of `2 ^ qe`: the multiple and whether it is inexact (R68). -/
def roundAt (m : RMode) (neg : Bool) (n d : Nat) (qe : Int) (s : Nat) : Nat × Bool :=
  let p := scalePow d qe
  let num := n * p.2
  let k := num / p.1
  let r := num % p.1
  (if roundUp m neg k r p.1 s then k + 1 else k, r != 0)

/-- The code of a finite magnitude `k * 2 ^ qe` that the format holds exactly. -/
def FFmt.encode (F : FFmt) (neg : Bool) (k : Nat) (qe : Int) : Nat :=
  F.zeroCode neg +
  if k < 2 ^ F.fracW then k
  else
    let up : Bool := k = 2 ^ (F.fracW + 1)
    let f := if up then 0 else k - 2 ^ F.fracW
    let e : Int := qe + F.fracW + F.bias + (if up then 1 else 0)
    e.toNat * 2 ^ F.fracW + f

/-- The overflow result of R72, with OF and NX. -/
def FFmt.overflow (F : FFmt) (m : RMode) (sat neg : Bool) : Nat × Flags :=
  let toInf : Bool :=
    match m with
    | .nearest | .stochastic => true
    | .zero => false
    | .down => neg
    | .up => !neg
  (if sat || !(F.hasInf || F.hasNan) then F.maxCode neg
   else if toInf then (if F.hasInf then F.infCode neg else F.nanCode)
   else F.maxCode neg,
   flagOF ||| flagNX)

/-- A finite nonzero exact value rounded into a format: rnd, the overflow result, and FZ on the result (R68, R70, R72). -/
def FFmt.round (F : FFmt) (m : RMode) (sat fz : Bool) (s : Nat) (neg : Bool) (n d : Nat) : Nat × Flags :=
  let qe : Int := max (floorLog2 n d) F.emin - F.fracW
  let r := roundAt m neg n d qe s
  let k := r.1
  let v := scalePow k qe
  let M := F.maxParts
  let mm := scalePow M.1 M.2
  if mm.1 * v.2 < v.1 * mm.2 then F.overflow m sat neg
  else
    let small := F.tiny v.1 v.2
    if fz && F.flush && small && k != 0 then (F.zeroCode neg, flagUF ||| flagNX)
    else (F.encode neg k qe, flagIf r.2 flagNX ||| flagIf (r.2 && small) flagUF)

/-- The code of an exact value in a format, in an instruction that rounds once (R99, R100). A NaN gives the canonical NaN,
an infinity is kept. -/
def FFmt.result (F : FFmt) (m : RMode) (fz : Bool) (v : Val) : Nat × Flags :=
  match v with
  | .nan _ => (F.nanCode, 0)
  | .inf neg => (F.infCode neg, 0)
  | .zero neg => (F.zeroCode neg, 0)
  | .fin neg n d => F.round m false fz 0 neg n d

/-! ### Exact arithmetic -/

/-- The sign of a value other than a NaN. -/
def Val.isNeg : Val → Bool
  | .nan _ => false
  | .inf b | .zero b | .fin b _ _ => b

/-- A NaN. -/
def Val.isNan : Val → Bool
  | .nan _ => true
  | _ => false

/-- A signalling NaN. -/
def Val.isSnan : Val → Bool
  | .nan s => s
  | _ => false

/-- The sign reversed. -/
def Val.negate : Val → Val
  | .nan s => .nan s
  | .inf b => .inf !b
  | .zero b => .zero !b
  | .fin b n d => .fin (!b) n d

/-- An integer as an exact value; zero is +0 (R74). -/
def Val.ofInt (i : Int) : Val := if i = 0 then .zero false else .fin (i < 0) i.natAbs 1

/-- An exact product, and whether it is 0 × ∞ (R100). A NaN operand gives a quiet NaN. -/
def Val.mul (a b : Val) : Val × Bool :=
  let neg := a.isNeg != b.isNeg
  match a, b with
  | .nan _, _ | _, .nan _ => (.nan false, false)
  | .inf _, .zero _ | .zero _, .inf _ => (.nan false, true)
  | .inf _, _ | _, .inf _ => (.inf neg, false)
  | .zero _, _ | _, .zero _ => (.zero neg, false)
  | .fin _ n d, .fin _ n' d' => (.fin neg (n * n') (d * d'), false)

/-- The signed numerator of a finite value over the denominator `D`, which its denominator divides or multiplies. -/
def Val.ratio : Val → Int × Nat
  | .fin neg n d => (if neg then -(n : Int) else n, d)
  | _ => (0, 1)

/-- The exact sum of the finite values of a list, as a signed fraction. -/
def sumExact : List Val → Int × Nat
  | [] => (0, 1)
  | v :: r =>
    let a := v.ratio
    let b := sumExact r
    if a.2 = b.2 then (a.1 + b.1, a.2) else (a.1 * b.2 + b.1 * a.2, a.2 * b.2)

/-- The exact sum of a list of terms (R100, R153): whether it is invalid (infinities of unlike sign), and its value. An exact
zero sum of terms of unlike signs is +0, or −0 when the mode is down; of like signs it keeps the sign. A NaN among the terms comes before infinities of
unlike sign, which then raise nothing: R153 gives its cases no order (log entry 66). -/
def sumVals (m : RMode) (ts : List Val) : Val × Bool :=
  if ts.any Val.isNan then (.nan false, false)
  else
    let pos := ts.any fun t => t = .inf false
    let neg := ts.any fun t => t = .inf true
    if pos && neg then (.nan false, true)
    else if pos then (.inf false, false)
    else if neg then (.inf true, false)
    else
      let s := sumExact ts
      if s.1 = 0 then
        (.zero (if ts.all Val.isNeg then true else if ts.any Val.isNeg then m = .down else false), false)
      else (.fin (s.1 < 0) s.1.natAbs s.2, false)

/-- Less-than on values that are no NaN; zeros are equal. -/
def Val.lt (a b : Val) : Bool :=
  match a, b with
  | .inf true, .inf true => false
  | .inf true, _ => true
  | _, .inf true => false
  | .inf false, _ => false
  | _, .inf false => true
  | _, _ =>
    let x := a.ratio
    let y := b.ratio
    x.1 * y.2 < y.1 * x.2

/-- Numeric equality of values that are no NaN. -/
def Val.eq (a b : Val) : Bool := !(a.lt b) && !(b.lt a)

/-- The order of FMIN and FMAX, in which −0 is below +0 (R100). -/
def Val.ltSigned (a b : Val) : Bool :=
  match a, b with
  | .zero true, .zero false => true
  | _, _ => a.lt b

/-- NV for a signalling NaN among the operands (R100). -/
def snanFlag (vs : List Val) : Flags := flagIf (vs.any Val.isSnan) flagNV

/-- Bitwise integer square root of `x`, with `k` bits left to decide. -/
def isqrtBits (x : Nat) : Nat → Nat → Nat
  | 0, r => r
  | k + 1, r => isqrtBits x k (if (r + 2 ^ k) * (r + 2 ^ k) ≤ x then r + 2 ^ k else r)

/-- A value that rounds as the square root of `n / d` does, in every format of at most 53 bits of precision: the root when it
is a multiple of `2 ^ -K`, else the midpoint of the two multiples around it. -/
def sqrtFrac (n d : Nat) : Nat × Nat :=
  let l := floorLog2 n d
  let K := ((160 - l) / 2).toNat
  let x := n * 4 ^ K / d
  let r := isqrtBits x (Nat.log2 x / 2 + 1) 0
  if r * r * d = n * 4 ^ K then (r, 2 ^ K) else (2 * r + 1, 2 ^ (K + 1))

/-! ### The scalar and vector operations -/

/-- The sum of two codes' values: FADD and FSUB, and FMA's final sum (R99, R100). -/
def FFmt.sum (F : FFmt) (m : RMode) (fz : Bool) (vs : List Val) (extra : Flags) : Nat × Flags :=
  let r := sumVals m vs
  let c := F.result m fz r.1
  (c.1, c.2 ||| flagIf r.2 flagNV ||| extra)

/-- FADD (R99, R100). -/
def FFmt.add (F : FFmt) (m : RMode) (fz : Bool) (a b : Nat) : Nat × Flags :=
  let x := F.flushIn fz (F.decode a)
  let y := F.flushIn fz (F.decode b)
  F.sum m fz [x, y] (snanFlag [x, y])

/-- FSUB (R99, R100). -/
def FFmt.sub (F : FFmt) (m : RMode) (fz : Bool) (a b : Nat) : Nat × Flags :=
  let x := F.flushIn fz (F.decode a)
  let y := F.flushIn fz (F.decode b)
  F.sum m fz [x, y.negate] (snanFlag [x, y])

/-- FMUL (R99, R100). -/
def FFmt.mul (F : FFmt) (m : RMode) (fz : Bool) (a b : Nat) : Nat × Flags :=
  let x := F.flushIn fz (F.decode a)
  let y := F.flushIn fz (F.decode b)
  let p := x.mul y
  let c := F.result m fz p.1
  (c.1, c.2 ||| flagIf p.2 flagNV ||| snanFlag [x, y])

/-- The fused forms: `(± (a × b)) ± c`, rounded once (R99, R100, R147). -/
def FFmt.fma (F : FFmt) (m : RMode) (fz : Bool) (negProd negAdd : Bool) (a b c : Nat) : Nat × Flags :=
  let x := F.flushIn fz (F.decode a)
  let y := F.flushIn fz (F.decode b)
  let z := F.flushIn fz (F.decode c)
  let p := x.mul y
  let pv := if negProd then p.1.negate else p.1
  let zv := if negAdd then z.negate else z
  F.sum m fz [pv, zv] (flagIf p.2 flagNV ||| snanFlag [x, y, z])

/-- FDIV (R99, R100). -/
def FFmt.div (F : FFmt) (m : RMode) (fz : Bool) (a b : Nat) : Nat × Flags :=
  let x := F.flushIn fz (F.decode a)
  let y := F.flushIn fz (F.decode b)
  let neg := x.isNeg != y.isNeg
  let sn := snanFlag [x, y]
  match x, y with
  | .nan _, _ | _, .nan _ => (F.nanCode, sn)
  | .zero _, .zero _ | .inf _, .inf _ => (F.nanCode, flagNV)
  | .inf _, _ => (F.infCode neg, 0)
  | _, .inf _ => (F.zeroCode neg, 0)
  | .zero _, _ => (F.zeroCode neg, 0)
  | .fin _ _ _, .zero _ => (F.infCode neg, flagDZ)
  | .fin _ n d, .fin _ n' d' => F.round m false fz 0 neg (n * d') (d * n')

/-- FSQRT (R99, R100). -/
def FFmt.sqrt (F : FFmt) (m : RMode) (fz : Bool) (a : Nat) : Nat × Flags :=
  let x := F.flushIn fz (F.decode a)
  match x with
  | .nan s => (F.nanCode, flagIf s flagNV)
  | .zero neg => (F.zeroCode neg, 0)
  | .inf false => (F.infCode false, 0)
  | .inf true => (F.nanCode, flagNV)
  | .fin true _ _ => (F.nanCode, flagNV)
  | .fin false n d =>
    let q := sqrtFrac n d
    F.round m false fz 0 false q.1 q.2

/-- FMIN and FMAX: with one NaN the other operand, with two the canonical NaN; −0 is below +0 (R100). FZ applies to inputs. -/
def FFmt.minMax (F : FFmt) (wantMax : Bool) (fz : Bool) (a b : Nat) : Nat × Flags :=
  let x := F.flushIn fz (F.decode a)
  let y := F.flushIn fz (F.decode b)
  let code (v : Val) (c : Nat) : Nat :=
    match v with
    | .zero neg => F.zeroCode neg
    | _ => c % 2 ^ F.width
  let fl := snanFlag [x, y]
  if x.isNan && y.isNan then (F.nanCode, fl)
  else if x.isNan then (code y b, fl)
  else if y.isNan then (code x a, fl)
  else if (if wantMax then x.ltSigned y else y.ltSigned x) then (code y b, fl)
  else (code x a, fl)

/-- FEQ, FLT and FLE by number 0, 1 and 2 (R101). -/
def FFmt.compare (F : FFmt) (which : Nat) (fz : Bool) (a b : Nat) : Bool × Flags :=
  let x := F.flushIn fz (F.decode a)
  let y := F.flushIn fz (F.decode b)
  if x.isNan || y.isNan then
    (false, if which = 0 then snanFlag [x, y] else flagNV)
  else
    (match which with
     | 0 => x.eq y
     | 1 => x.lt y
     | _ => !(y.lt x), 0)

/-- FCLASS: the sign bit as stored, and the kind; FZ is ignored (R101). -/
def FFmt.classify (F : FFmt) (a : Nat) : Nat :=
  let sign := a / 2 ^ (F.expW + F.fracW) % 2
  8 * sign +
  match F.decode a with
  | .zero _ => 0
  | .fin _ n d => if F.tiny n d then 1 else 2
  | .inf _ => 3
  | .nan false => 4
  | .nan true => 5

/-! ### Conversions (R72 to R75) -/

/-- The signed value of a `w`-bit integer code. -/
def intOfCode (w : Nat) (signed : Bool) (c : Nat) : Int :=
  let u := c % 2 ^ w
  if signed && 2 ^ (w - 1) ≤ u then (u : Int) - 2 ^ w else u

/-- The `w`-bit code of an integer, modulo `2 ^ w`. -/
def codeOfInt (w : Nat) (i : Int) : Nat := (i % (2 ^ w : Int)).toNat

/-- The least and greatest value of an integer format (R61). -/
def intRange (w : Nat) (signed : Bool) : Int × Int :=
  if signed then (-(2 ^ (w - 1) : Int), 2 ^ (w - 1) - 1) else (0, 2 ^ w - 1)

/-- Floating point to floating point (R72). -/
def cvtFF (S D : FFmt) (m : RMode) (sat fz : Bool) (s c : Nat) : Nat × Flags :=
  match S.flushIn fz (S.decode c) with
  | .nan sig => (D.nanCode, flagIf (sig || !D.hasNan) flagNV)
  | .zero neg => (D.zeroCode neg, 0)
  | .inf neg =>
    if D.hasInf then (D.infCode neg, 0)
    else (if !sat && D.hasNan then D.nanCode else D.maxCode neg, flagOF ||| flagNX)
  | .fin neg n d => D.round m sat fz s neg n d

/-- An exact value to an integer format (R73). -/
def cvtValInt (w : Nat) (signed : Bool) (m : RMode) (s : Nat) (v : Val) : Nat × Flags :=
  let rg := intRange w signed
  match v with
  | .nan _ => (0, flagNV)
  | .zero _ => (0, 0)
  | .inf neg => (codeOfInt w (if neg then rg.1 else rg.2), flagNV)
  | .fin neg n d =>
    let r := roundAt m neg n d 0 s
    let i : Int := if neg then -(r.1 : Int) else r.1
    if i < rg.1 then (codeOfInt w rg.1, flagNV)
    else if rg.2 < i then (codeOfInt w rg.2, flagNV)
    else (codeOfInt w i, flagIf r.2 flagNX)

/-- An integer to a floating-point format (R74). -/
def cvtIntF (D : FFmt) (m : RMode) (sat fz : Bool) (s : Nat) (i : Int) : Nat × Flags :=
  if i = 0 then (D.zeroCode false, 0) else D.round m sat fz s (i < 0) i.natAbs 1

/-- Integer to integer (R75). -/
def cvtII (w' : Nat) (signed' sat : Bool) (i : Int) : Nat :=
  let rg := intRange w' signed'
  if sat then codeOfInt w' (max rg.1 (min rg.2 i)) else codeOfInt w' i

/-- Conversion between any two conversion tags (R72 to R75): the destination code and the flags raised. `s` is the
generator's new state in a stochastic conversion. -/
def convert (srcf dstf : BitVec 4) (m : RMode) (sat fz : Bool) (s c : Nat) : Nat × Flags :=
  match floatFmt srcf, floatFmt dstf, intFmt srcf, intFmt dstf with
  | some S, some D, _, _ => cvtFF S D m sat fz s c
  | some S, none, _, some (w, sg) => cvtValInt w sg m s (S.flushIn fz (S.decode c))
  | none, some D, some (w, sg), _ => cvtIntF D m sat fz s (intOfCode w sg c)
  | none, none, some (w, sg), some (w', sg') => (cvtII w' sg' sat (intOfCode w sg c), 0)
  | _, _, _, _ => (0, 0)

/-- RN32 and RN64, the rounding helpers of the array and of memory-side sums: nearest-even, no FZ, flags dropped (R70). -/
def FFmt.rn (F : FFmt) (v : Val) : Nat := (F.result .nearest false v).1

/-- One step of a lane's generator (R69). -/
def xsStep (s : BitVec 32) : BitVec 32 :=
  let s1 := s ^^^ (s <<< 13)
  let s2 := s1 ^^^ (s1 >>> 17)
  s2 ^^^ (s2 <<< 5)

/-- The state that VSRSEED gives lane `l` for a seed (R69). -/
def xsSeed (x : BitVec 32) (l : Nat) : BitVec 32 :=
  let s := x ^^^ (BitVec.ofNat 32 (0x9E3779B9 * (l + 1)))
  if s = 0 then 0x6D2B79F5 else s

end Sys2Proof.Machine
end

