-- ==== Sys2Proof/Config.lean ====
section
/-! DEFINITION. The free values of the model: what the manual leaves to the device.
No constant of this file has a body, so no proof can depend on its value (log entries 7, 8, 55, 56 and 98). -/

namespace Sys2Proof.Config

/-- The free value number `n`: the value the manual does not state at the n-th place a run needs one. -/
opaque freeWord : Nat → Word

/-- The device timestamp as a function of the model's time (R409): periods of 0.8 ns of a reference clock. -/
opaque timestamp : Nat → Word

/-- The keyed 64-bit content hash of the Crucible (R272): key, domain, the 128 bytes. -/
opaque crucibleHash : BitVec 256 → BitVec 16 → List Byte → Word

/-- The fuses of the root of trust (R429): the digest of the vendor's firmware key, the security version counter, and the device's seed. -/
opaque fusedDigest : BitVec 512
opaque fusedVersion : Word
opaque fusedSeed : BitVec 512

/-- What the root of trust reads at the n-th time from the boot flash (R429): a key, an image, a signature. -/
opaque flash : Nat → List Byte

/-- The private part of the identity key pair that follows from the seed and MEAS0 (R429). -/
opaque identityKey : BitVec 512 → BitVec 512 → List Byte

/-- The ML-DSA-87 signature by a private key (R431): of a digest, with the number of the signature, since signatures of one digest may differ. -/
opaque sign : List Byte → BitVec 512 → Nat → List Byte

/-- What the management interface answers of the module (R432): its identity, and temperature and power as functions of the model's time. -/
opaque deviceIdentity : Word
opaque dieTemperature : Nat → Word
opaque modulePower : Nat → Word

/-- The Ndeit Link port that the routing table gives a device number (R425, R426): its format is the device's own. -/
opaque routePort : BitVec 21 → BitVec 4

/-- What the attestation mailbox's window reads at a time, by offset (R431): the manual gives the window no layout. -/
opaque mailbox : Nat → Nat → Word

end Sys2Proof.Config
end

