-- ==== Sys2Proof/Machine/State.lean ====
section
/-! DEFINITION. The state of the machine as plain data (R14 to R16 and the state tables of every chapter), the reasons a
step can stop, and the state after reset. Sparse tables (strands, tiles, memories, queues) are lists of entries; an absent
entry reads as the default that the accessor of `Machine/Ops.lean` names. -/

namespace Sys2Proof.Machine

open Sys2Proof

/-- Byte storage by address: strictly rising addresses, and no entry equal to what an unlisted address reads as. -/
abbrev Mem := List Host.Cell

/-- What an unlisted byte of any memory reads as (DESIGN CHOICE, log entry 1). -/
def unlistedByte : Byte := 0

/-- The canonical form of a memory from a lower bound on. -/
def Mem.wfFrom (lo : Nat) : Mem → Bool
  | [] => true
  | (a, b) :: r => lo ≤ a && b != unlistedByte && Mem.wfFrom (a + 1) r

/-- The canonical form of a memory. -/
def Mem.wf (m : Mem) : Bool := Mem.wfFrom 0 m

/-- Privilege levels U, S and M, coded 0, 1 and 2 (R383). -/
inductive Level where
  | U | S | M
  deriving DecidableEq, Repr

/-- The default level is U, the level of a placed strand (R314). -/
abbrev Level.reset : Level := .U

/-- A trap as it is recorded (R387, R391, R392). -/
structure TrapRec where
  cause  : BitVec 8
  src    : BitVec 3
  async  : Bool
  tpc    : Addr
  tvpc   : Addr
  taddr  : Addr
  detail : Word
  deriving DecidableEq, Repr

/-- The trap registers of one level, S or M (R385). `stat` holds PPL, INH and QDISC in bits 3 to 0; CPL is computed.
`xhi` is TXHI. -/
structure TrapRegs where
  stat    : Word := 0
  cause   : Word := 0
  pc      : Word := 0
  vpc     : Word := 0
  addr    : Word := 0
  xhi     : Word := 0
  detail  : Word := 0
  scratch : Word := 0
  deriving DecidableEq, Repr

/-- The four fabric key slots of a quadrant (R405): each holds a public key or nothing. -/
abbrev Keys := Vector (Option (List Byte)) 4

/-- Empty key slots. -/
def Keys.none : Keys := Vector.replicate 4 Option.none

/-- The key of a slot. -/
def Keys.slot (k : Keys) (n : Nat) : Option (List Byte) := (k.toList[n]?).getD Option.none

/-- A translation context entry as it was read (R396). -/
structure CtxEntry where
  valid : Bool
  root  : BitVec 60
  asid  : BitVec 16
  ddid  : BitVec 16
  deriving DecidableEq, Repr

/-- A place in byte storage: the 77-bit global physical space, or a tile's TMEM (R21, R167). -/
inductive Loc where
  | mem (a : Nat)
  | tmem (t : TileId) (off : Nat)
  deriving DecidableEq, Repr

/-- A 128-byte line of storage (R22): of memory, of a tile's TMEM, or of its operand memory. -/
inductive Line where
  | mem (n : Nat)
  | tmem (t : TileId) (n : Nat)
  | om (t : TileId) (n : Nat)
  deriving DecidableEq, Repr

/-- A translation held by a TLB (R400): the virtual page, its size in bits (17, 24 or 30), its rights and frame. -/
structure TlbEntry where
  vpage : Nat
  bits  : Nat
  asid  : BitVec 16
  glob  : Bool
  entry : BitVec 128
  base  : Nat
  ddid  : BitVec 16
  deriving DecidableEq, Repr

/-- A translated place with what its page says of it (R156, R398), and the translation it was found under, none where nothing was translated
(R383, R401). -/
structure Phys where
  loc   : Loc
  /-- device class (R397, R418) -/
  device : Bool
  ddid  : BitVec 16
  rsvok : Bool
  under : Option TlbEntry
  deriving DecidableEq, Repr

/-- The operations of scalar, vector and fabric atomics (R237, R241). -/
inductive AmoOp where
  | add | and | or | xor | min | max | minu | maxu | fadd | swap | cas
  deriving DecidableEq, Repr

/-- What a store-queue entry performs when it drains (R108, R279). -/
inductive StoreKind where
  | data (size : Nat) (v : Word)
  | flush | inv | clean | zero
  deriving DecidableEq, Repr

/-- A store-queue entry (R108): its place, its issue number, the scope of its release (0 for none), and its address. -/
structure StoreEntry where
  kind  : StoreKind
  phys  : Phys
  seq   : Nat
  scope : BitVec 3
  pc    : Addr
  ea    : Addr
  deriving DecidableEq, Repr

/-- What a scalar access does when its data returns after issue (R434): a load, an atomic with its operand and expected value,
or a barrier arrival. -/
inductive LateKind where
  | load (size : Nat) (sx : Bool)
  | atomic (op : AmoOp) (size : Nat) (t d : Word)
  | arrive
  deriving DecidableEq, Repr

/-- An outstanding scalar access: the register it will write, its place, its issue number, the scopes of its acquire and of
its release (0 for none), and its address (R92, R257, R434). -/
structure LateAccess where
  kind : LateKind
  d    : BitVec 5
  phys : Phys
  seq  : Nat
  acq  : BitVec 3
  rel  : BitVec 3
  pc   : Addr
  ea   : Addr
  deriving DecidableEq, Repr

/-- A scalar access whose failure is an asynchronous trap that has still to be taken (R319, R434). -/
inductive FailedAccess where
  | late (a : LateAccess)
  | store (e : StoreEntry)
  deriving DecidableEq, Repr

/-- What a TLB invalidation removes (R401). -/
inductive TlbRemoval where
  | page (va : Addr) (asid : BitVec 16)
  | space (asid : BitVec 16)
  | all
  deriving DecidableEq, Repr

/-- The wait of a Blocked strand (R85): what ends it and what it then writes. Every wait but the launch-clock and debug waits
re-issues its instruction after a swap (R114). -/
inductive Wait where
  /-- WAITLINE on a word that equals `seen` (R113) -/
  | line (d : BitVec 5) (place : Phys) (seen : Word) (ea : Addr)
  /-- a `.fe` or `.fc` load of an empty granule (R107, R109) -/
  | granule (d : BitVec 5) (t : TileId) (off size : Nat) (sx clear : Bool) (ea : Addr)
  /-- BARW for a phase other than `phase` (R252) -/
  | barrier (d : BitVec 5) (place : Phys) (phase : Bool) (ea : Addr)
  /-- JOINL for the child's slot to be Free (R135) -/
  | join
  /-- an invalidation (R401) -/
  | tlb (what : TlbRemoval)
  /-- STRM.WAIT on a tag (R226), for a completion beyond those counted at issue -/
  | stream (d : BitVec 5) (ch : BitVec 6) (phaseForm : Bool) (seen : Nat)
  /-- TQPOP for its buffer to be FULL (R231) -/
  | tundish (d : BitVec 5)
  /-- QDRAIN for array work issued before it (R300) -/
  | drain (d : BitVec 5)
  /-- CFG.CHECK, with the keys as they stood when it began, CFG.LOAD, CFG.SAVE and CFG.REST in progress (R362, R363, R377, R378, R405) -/
  | cfgCheck (d : BitVec 5) (ea : Addr) (keys : Keys)
  | cfgLoad (d : BitVec 5) (ea : Addr) (mask : BitVec 4)
  | cfgSave (d : BitVec 5) (ea : Addr) (marked : Bool)
  | cfgRest (d : BitVec 5) (ea : Addr)
  /-- PROF.LOCK and PROF.UNLOCK until the operating point is in force, with the lock status before it (R414) -/
  | clock (d : BitVec 5) (status : Word)
  /-- MMODE until the region is in force (R281) -/
  | mmode
  /-- a debug stop at a strip breakpoint (R416) -/
  | debug
  deriving DecidableEq, Repr

/-- The status of a strand slot (R85). -/
inductive Status where
  | free
  | running
  | blocked (w : Wait)
  | exiting
  deriving DecidableEq, Repr

/-- The strip name of R407. -/
structure StripName where
  saddr : Addr
  ord   : BitVec 32
  vl    : BitVec 13
  deriving DecidableEq, Repr

/-- The strip breakpoint of R415; `pass` is the stopped VSETL that GO has let go, and `held` the cycle of the swap-out that found the strand stopped
(R416). -/
structure Breakpoint where
  addr  : Addr := 0
  ord   : BitVec 32 := 0
  any   : Bool := false
  armed : Bool := false
  pass  : Option Addr := none
  held  : Option Nat := none
  deriving DecidableEq, Repr

/-! ### Vector-class instructions as they stand in a vector queue (R130) -/

/-- The third operand of an element-wise instruction: a register, or a scalar or immediate captured at issue (R141). -/
inductive VSrc where
  | reg (t : BitVec 5)
  | const (w : Word)
  deriving DecidableEq, Repr

/-- Integer operations of majors 0x1C to 0x1E (R145, R146). -/
inductive VInt where
  | add | sub | and | or | xor | sll | srl | sra | min | max | minu | maxu | mul | mulh | mulhu
  | div | divu | rem | remu | sadd | saddu | ssub | ssubu | abs | neg
  deriving DecidableEq, Repr

/-- Float operations of majors 0x1F and 0x20 (R147 to R150). -/
inductive VFp where
  | add | sub | mul | div | min | max | fma | fms | fnma | sqrt | rece | rsqe | abs | neg | sgnj
  deriving DecidableEq, Repr

/-- Compares of major 0x21 (R151). -/
inductive VCmp where
  | eq | ne | lt | le | ltu | leu | feq | flt | fle | funord
  deriving DecidableEq, Repr

/-- Mask operations of major 0x1A (R132). -/
inductive MaskOp where
  | and | or | xor | andn | not | set | clr
  deriving DecidableEq, Repr

/-- The four conversions of major 0x24 (R78). -/
inductive CvtForm where
  | same | widen | narrow | scaled
  deriving DecidableEq, Repr

/-- The loads of major 0x26 (R157). -/
inductive LdForm where
  | unit | fe | fc | ff
  | strided (st : Word)
  | indexed (i : BitVec 5)
  | zsb (x : BitVec 5)
  | seg (nf : Nat)
  deriving DecidableEq, Repr

/-- The stores of major 0x27 (R157). -/
inductive StForm where
  | unit
  | strided (st : Word)
  | indexed (i : BitVec 5)
  | ordered (i : BitVec 5)
  | zsb (x : BitVec 5)
  | seg (nf : Nat)
  deriving DecidableEq, Repr

/-- VRED, VSCAN and VSCANX (R182, R183). -/
inductive RedKind where
  | red | scan | scanx
  deriving DecidableEq, Repr

/-- A vector-class instruction with its captured operands (R120, R130, R141). The mask register stands in the entry. -/
inductive VOp where
  | part (x : Word)
  | setl (vl : BitVec 13)
  | setcfg (c : Word)
  | fork (d : BitVec 5) (target : Addr) (child : Option (BitVec 3)) (xs : Vector Word 32) (as : Vector Addr 16)
  | join
  | fenceSV
  | fenceVV
  | mask (op : MaskOp) (d s t : BitVec 3)
  | mpopc (d : BitVec 5) (s : BitVec 3)
  | mfirst (d : BitVec 5) (s : BitVec 3)
  | int (op : VInt) (d s : BitVec 5) (t : VSrc)
  | fp (op : VFp) (d s : BitVec 5) (t : VSrc)
  | cmp (op : VCmp) (d : BitVec 3) (s : BitVec 5) (t : VSrc)
  | merge (d s t : BitVec 5)
  | mv (d s : BitVec 5)
  | vid (d : BitVec 5)
  | splat (d : BitVec 5) (w : Word)
  | ext (d s : BitVec 5) (k : Word)
  | dot (r : Nat) (d s t : BitVec 5)
  | bsapply (d s t : BitVec 5)
  | cvt (f : CvtForm) (d s t : BitVec 5) (srcf dstf : BitVec 4) (rnd : BitVec 3) (sat : Bool)
  | srseed (x : Word)
  | ld (f : LdForm) (d : BitVec 5) (base : Addr)
  | st (f : StForm) (s : BitVec 5) (base : Addr)
  | pf (base : Addr) (stride : Option Word)
  | red (k : RedKind) (op : BitVec 5) (d s : BitVec 5)
  | perm (d s t : BitVec 5)
  | comp (d s : BitVec 5)
  | expd (d s : BitVec 5)
  | filt (d s : BitVec 5)
  | topk (d s : BitVec 5) (w : Word)
  | slide (up : Bool) (d s : BitVec 5) (k : Word)
  | amo (op : AmoOp) (d : BitVec 5) (base : Addr) (i : BitVec 5)
  | camo (op : AmoOp) (s : BitVec 5) (base : Addr) (i : BitVec 5)
  | gl (d : BitVec 5) (base : Addr) (i : BitVec 5)
  | sc (s : BitVec 5) (base : Addr) (i : BitVec 5)
  deriving DecidableEq, Repr

/-- One location that a vector atomic updates (R242, R246): its place, the address that named it, its size, and the partial so far. -/
structure Combine where
  phys : Phys
  ea   : Addr
  size : Nat
  part : Nat
  deriving DecidableEq, Repr

/-- An entry of a vector queue (R116, R130, R136, R137). `conf` is the vector-side `vl` and `vcfg` of its first start; `first` and
`next` hold while it is in the lanes (`started`); `resume` is the recorded next element of a stopped instruction, none where it takes
`vstart`; `flags` are deposited at retirement (R71); `note` is what VLDFF recorded (R166); `aux` is what a whole-register instruction has
accumulated (VLDZ's end offset); `parts` are the locations of a non-returning atomic with their partials (R242), and the places that a VSC
has written (R246); `time` is the time of its issue, in which the XLN serves the groups of a tile (R130); `whole` marks a JOINL that an image records as
satisfied: its strand goes on with the group whole (R139). -/
structure VEntry where
  op      : VOp
  mreg    : Option (BitVec 3)
  pc      : Addr
  seq     : Nat
  strip   : StripName
  fcsr    : Word
  started : Bool := false
  resume  : Option Nat := none
  first   : Nat := 0
  next    : Nat := 0
  conf    : Option (Nat × Word) := none
  flags   : BitVec 5 := 0
  note    : Option (Nat × Nat) := none
  aux     : Nat := 0
  parts   : List Combine := []
  time    : Nat := 0
  whole   : Bool := false
  deriving DecidableEq, Repr

/-- A lane group: base lane, size, and owning strand slot (R20, R123). -/
structure LaneGroup where
  base  : Nat
  size  : Nat
  owner : Option (BitVec 3)
  deriving DecidableEq, Repr

/-! ### Streams, channel tags, the Tundish and the Riddle -/

/-- The captured fields of a tensor shape record (R207): extents, strides of dimensions 1 to 3, and windows. -/
structure Shape where
  base : Addr
  fmt  : BitVec 4
  rank : Nat
  ext  : List Nat
  str  : List Int
  win  : List Nat
  deriving DecidableEq, Repr

/-- What a stream moves (R213, R214, R230). -/
inductive StreamKind where
  | load (dst : Addr)
  | fabric
  | store (src : Addr)
  | copy (dst : Shape) (tr : Bool) (rnd : Nat) (sat fz : Bool)
  | gather (dst idx : Addr)
  | tundish (buffer : Nat)
  deriving DecidableEq, Repr

/-- A stream in one of the 16 slots (R203, R215, R218). `done` lists the complete sectors; `stopped` holds after a stream
fault until TRET, and `halted` is the time of the latest one (R218); `seq` and `fence` order it after the issuing strand's earlier accesses (R212,
R258); `flags` gather a copy's exceptions; `marks` are STRM.MARK's markers that follow its last element (R228); `level` is the strand's at issue;
`regdue` holds while the registration of its reservation has still to be made (R219, R221), `moving` while its record on pipe 4 is open (R410); `rows` are
the indices of a gather that the engine has read, by row (R214); `counted` lists the sectors whose bytes have arrived at the tag (R222). -/
structure Stream where
  kind    : StreamKind
  shape   : Shape
  p       : Nat
  n       : Nat
  ch      : BitVec 6
  rmode   : BitVec 2
  issuer  : BitVec 3
  level   : Level
  seq     : Nat
  fence   : Option Nat
  pc      : Addr
  strip   : StripName
  done    : List Nat := []
  stopped : Bool := false
  flags   : BitVec 5 := 0
  marks   : List (Nat × Bool) := []
  regdue  : Bool := false
  moving  : Bool := false
  halted  : Nat := 0
  rows    : List (Nat × Nat) := []
  counted : List Nat := []
  deriving DecidableEq, Repr

/-- A channel tag (R222). `left` holds once the strand that posted it, in slot `owner`, has left that slot (R225); `phases` and `ends` count the
completions of phases and of streams and jobs, for the waits on them (R226). -/
structure Tag where
  busy   : Bool := false
  arr    : BitVec 32 := 0
  exp    : BitVec 32 := 0
  posted : Bool := false
  phase  : Bool := false
  frozen : Bool := false
  owner  : BitVec 3 := 0
  left   : Bool := false
  phases : Nat := 0
  ends   : Nat := 0
  deriving DecidableEq, Repr

/-- The state of a Tundish buffer (R229 to R231). -/
inductive BufState where
  | free | loading | full | bound | draining
  deriving DecidableEq, Repr

/-- A Tundish buffer: state, elements, rank of the marker due at its last element, its place in TQLD order, and the issue number
of the TQPOP that made it DRAINING. -/
structure Buffer where
  state : BufState := .free
  n     : Nat := 0
  rank  : Nat := 0
  order : Nat := 0
  since : Nat := 0
  deriving DecidableEq, Repr

/-- A strand's Tundish declaration (R229). -/
structure Tundish where
  vD   : Nat
  g    : Nat
  next : Nat
  turn : Nat
  bufs : List Buffer
  deriving DecidableEq, Repr

/-- A Riddle job (R193 to R196): the captured record, the next batch and the counts so far; `halted` is the time of its latest fault. -/
structure RiddleJob where
  record  : Addr
  rp      : Addr
  out     : Addr
  row0    : Nat
  nrows   : Nat
  cap     : Nat
  wide    : Bool
  thr     : List Nat
  ch      : BitVec 6
  issuer  : BitVec 3
  level   : Level
  seq     : Nat
  pc      : Addr
  strip   : StripName
  batch   : Nat := 0
  counts  : List Nat
  stopped : Bool := false
  halted  : Nat := 0
  deriving DecidableEq, Repr

/-- A range reservation registered with the home directories (R219 to R221): its stream, intent, mode, the lines of its set
and those the stream has passed; `pages` tells of each virtual line of the set the line that its registration found. -/
structure Reservation where
  tile   : TileId
  slot   : Nat
  write  : Bool
  mode   : BitVec 2
  lines  : List Nat
  passed : List Nat
  pages  : List (Nat × Nat) := []
  deriving DecidableEq, Repr

/-! ### The array in matrix mode -/

/-- The parameters of one butterfly stage (R285, R290): log2 of block size and of stride, first weight slot, weight format. -/
structure StageParam where
  lb    : Nat
  ls    : Nat
  wslot : Nat
  wfmt  : BitVec 4
  deriving DecidableEq, Repr

/-- An entry's operation in the array queue, with its captured words (R293, R294, R297, R285, R300). A QSTAGE is a chain of
one stage. -/
inductive MatOp where
  | chain (isChain : Bool) (src dst chain : Nat) (rows logn : Nat) (stages : List StageParam) (afmt ofmt : BitVec 4)
      (ifp32 : Bool) (rnd : Nat) (sat : Bool)
  | gemm (afmt wfmt : BitVec 4) (smode : Nat) (m kp aslot wslot sslot row0 : Nat)
  | rel (first count : Nat)
  | drain (d : BitVec 5) (force : Bool)
  deriving DecidableEq, Repr

/-- An entry of the array queue (R299): its progress is a pass or stage and a row; `stopped` holds after R301 until TRET. -/
structure MatEntry where
  op      : MatOp
  issuer  : BitVec 3
  pc      : Addr
  strip   : StripName
  seq     : Nat
  started : Bool := false
  pass    : Nat := 0
  row     : Nat := 0
  stopped : Bool := false
  deriving DecidableEq, Repr

/-- A fill of a claimed run of OM slots in progress (R284); `src` is none for a fill with zeros. -/
structure OmFill where
  first  : Nat
  count  : Nat
  src    : Option Addr
  issuer : BitVec 3
  level  : Level
  seq    : Nat
  pc     : Addr
  strip  : StripName
  stopped : Bool := false
  deriving DecidableEq, Repr

/-- The release configuration of QACC (R296). -/
structure QaccCfg where
  base  : Nat
  count : Nat
  ofmt  : BitVec 4
  rnd   : Nat
  sat   : Bool
  int   : Bool
  deriving DecidableEq, Repr

/-- An accumulator slot that is not at rest: its value and pass count (R296). -/
structure AccSlot where
  value : BitVec 32
  count : Nat
  deriving DecidableEq, Repr

/-- A released row of one node that waits in the node's link (R298). -/
structure LinkEntry where
  row   : Nat
  value : BitVec 32
  deriving DecidableEq, Repr

/-- A change of the matrix region in progress (R281): the strand that executes MMODE, and the new region. While the old region is in force
it has still to leave. -/
structure ModeChange where
  slot    : BitVec 3
  region  : BitVec 2
  deriving DecidableEq, Repr

/-! ### The fabric -/

/-- The kind of a token (R325); a pre-emption marker travels out of band (R374). -/
inductive TokKind where
  | data | control | marker | preempt
  deriving DecidableEq, Repr

/-- A token: data, format tag and kind (R325). A reconfiguration marker carries the decided context as its data. -/
structure Token where
  data : Word
  tag  : BitVec 4
  kind : TokKind
  deriving DecidableEq, Repr

/-- One of the four contexts of a tile's fabric (R324, R354), sparse: an entry is the trigger word above the instruction word,
at 16q + e; a literal stands at 32q + n, a route field at 4q + p, a control byte at q. An absent item is zero. -/
structure Ctx where
  loaded  : Bool := false
  entries : List (Nat × BitVec 56) := []
  lits    : List (Nat × Word) := []
  routes  : List (Nat × BitVec 32) := []
  ctl     : List (Nat × Byte) := []
  deriving DecidableEq, Repr

/-- An operation of the tile memory interface (R348 to R352): an LDT, an STT, or a `tmem` store (`plain`). `dests` are an LDT's
destinations; `held` marks an operation held by a fault; a `tmem` store of an LDT's result `awaits` that operation. -/
structure MemOp where
  id    : Nat
  awaits : Option Nat := none
  elem  : BitVec 8
  entry : Nat
  ctx   : Nat
  load  : Bool
  plain : Bool
  noacc : Bool
  wave  : BitVec 16
  seq   : Nat
  pred  : Nat
  succ  : Nat
  off   : Nat
  size  : Nat
  data  : Word
  tag   : BitVec 4
  dests : List (BitVec 4)
  due   : Nat
  held  : Bool := false
  deriving DecidableEq, Repr

/-- A firing whose effects are not all done (R331, R332, R344): what it took from the inputs, the predicate values it relied on
while a write was pending, its predicate write, its register writes, accumulation, pushes and memory operations, the context that CTX
offers (none for HALT), and the time of its results. `sure` tells that no prediction can squash it any more, and `tail` marks a part of a firing
that has a time of its own (R338, R351). -/
structure Firing where
  entry  : Nat
  ctx    : Nat
  taken  : List (Nat × Token)
  relied : List (Nat × Bool)
  bit    : Option (Nat × Bool)
  writes : List (Nat × Word)
  acc    : Option (Bool × BitVec 4 × Word)
  pushes : List (BitVec 4 × Token)
  mems   : List MemOp
  turn   : Option (Option Nat)
  due    : Nat
  sure   : Bool := false
  tail   : Bool := false
  deriving DecidableEq, Repr

/-- Running, Halted or Frozen (R324); `idle` is the status of an element without a selected context. -/
inductive EStatus where
  | idle | running | halted | frozen
  deriving DecidableEq, Repr

/-- A fabric element (R324). `ctx` is the context it runs, `start` the first time it may fire (R366, R368), `last` the time of its
last firing plus one, `reached` the inputs that a pre-emption marker has reached once a snapshot has begun (R374), `sent` whether
it has passed the marker on, `inject` whether an element that awaits no marker is to switch, and `turned` whether it has switched in the
current phase (R368). `hop` is the latency of the last leg of each input's route (R346), `turns` counts the contexts it has been given, and
`waits` names the output ports whose target had not switched when the element did, with the target's count then, 0 for one that a save area
restored (R368); `met` is the cycle in which its marker condition came to hold (R368). -/
structure Elem where
  k       : Vector Word 8 := Vector.replicate 8 0
  b       : BitVec 8 := 0
  ins     : Vector (List Token) 4 := Vector.replicate 4 []
  strm    : List Token := []
  status  : EStatus := .idle
  ctx     : Option Nat := none
  start   : Nat := 0
  last    : Nat := 0
  firings : List Firing := []
  reached : Option (BitVec 4) := none
  sent    : Bool := false
  inject  : Bool := false
  turned  : Bool := false
  hop     : Vector Nat 4 := Vector.replicate 4 0
  turns   : Nat := 0
  waits   : List (Nat × Nat) := []
  met     : Option Nat := none
  deriving DecidableEq, Repr

/-- A token on its way (R345): its source element, port and context, the column and row of its target in the quadrant's grid of
elements with the input there (R355), the time it is due at the next queue, and the latency of its leg to that queue (R346). -/
structure Flight where
  tok  : Token
  src  : ElemId
  port : Nat
  ctx  : Nat
  tx   : Int
  ty   : Int
  inq  : BitVec 2
  due  : Nat
  hop  : Nat := 0
  deriving DecidableEq, Repr

/-- An edge queue of 16 tokens on the receiving side of a tile edge (R347). -/
structure EdgeQueue where
  src  : ElemId
  port : Nat
  ctx  : Nat
  toks : List Flight
  deriving DecidableEq, Repr

/-- A queue that counts slots toward a producer (R346): an input queue, or the edge queue of a route. -/
inductive QueueName where
  | input (elem : BitVec 8) (inq : BitVec 2)
  | edge (src : ElemId) (port ctx : Nat)
  deriving DecidableEq, Repr

/-- A slot on its way back to the producer of a queue, which counts it as free from a time on (R346). -/
structure Credit where
  queue : QueueName
  due   : Nat
  deriving DecidableEq, Repr

/-- A caught token (R374, R375); `outside` tells that it came from another tile (R367). -/
structure Caught where
  elem : BitVec 8
  inq  : BitVec 2
  tok  : Token
  outside : Bool
  deriving DecidableEq, Repr

/-- The waves of a context (R350): the current wave, and the operations performed, each by wave, SEQ and SUCC. -/
structure Waves where
  cur  : BitVec 16 := 0
  done : List (BitVec 16 × Nat × Nat) := []
  deriving DecidableEq, Repr

/-- A channel binding (R370). `pos` counts the nibbles a stream-out binding has written. -/
structure Binding where
  elem : BitVec 8
  inq  : BitVec 2
  out  : Bool
  ch   : BitVec 6
  boff : Nat
  pos  : Nat := 0
  deriving DecidableEq, Repr

/-- A token that the stream engine holds for a stream-in binding, with the queue it enters (R370). -/
structure Feed where
  elem : BitVec 8
  inq  : BitVec 2
  ch   : BitVec 6
  tok  : Token
  deriving DecidableEq, Repr

/-- The fabric of a tile (R324 to R378). `snap` is the time of the injection of a snapshot in progress or held,
`decidedAt` the time and the rank of the offer that decided the phase (R367), `credits` the slots on their way back to producers (R346), `discards`
counts the tokens of unbound stream-out ports (R338), `was` the cycles of late changes of the guards with the state before each, oldest first (R372), `swapped` tells that a swap-out injected the markers (R319), `turning` is the CFG.SEL (its number, strip and address) whose context switch is in progress (R410),
and `before` the last cycle in which CFG.WR wrote entries or literals, with the contexts as they stood before it (R341). -/
structure Fabric where
  ctxs     : Vector Ctx 4 := Vector.replicate 4 {}
  selected : Option Nat := none
  decided  : Option Nat := none
  selector : BitVec 3 := 0
  elems    : List (Nat × Elem) := []
  flights  : List Flight := []
  edges    : List EdgeQueue := []
  ops      : List MemOp := []
  waves    : Vector Waves 4 := Vector.replicate 4 {}
  bindings : List Binding := []
  feeds    : List Feed := []
  gcol     : BitVec 15 := 0
  gedge    : BitVec 4 := 0
  was      : List (Nat × BitVec 15 × BitVec 4) := []
  caught   : List Caught := []
  snap     : Option Nat := none
  swapped  : Bool := false
  turning  : Option (Nat × StripName × Addr) := none
  decidedAt : Nat × Nat := (0, 0)
  credits  : List Credit := []
  discards : Nat := 0
  before   : Nat × List (Nat × Ctx) := (0, [])
  deriving DecidableEq, Repr

/-! ### Strands and tiles -/

/-- An unjoined child of a strand (R134, R135): its slot, and the time at which it left that slot, none while it stands there. -/
structure Child where
  slot : BitVec 3
  gone : Option Nat := none
  deriving DecidableEq, Repr

/-- A strand slot of a tile or a control core. The state tables of R83, R116 and R385 name the registers; `vvl` and `vvcfg` are the
vector side's copies of `vl` and `vcfg` (R118), `links` the link set (R244) and `loose` those of its lines whose link is not guaranteed, `grant`
the unjoined child (R134), `orphans` the stores still queued of strands that have left the slot (R115), `news` the number of the asynchronous traps at the end of `pend` that were detected
in the cycle `heard` (R388), `failed` the accesses of the traps with SRC 0 in `pend`, in their order (R319, R434), `relFence` the issue number of the latest releasing fence (R249, R258), `due` the
fetch trap that is due for the next instruction (R87). -/
structure Strand where
  status  : Status := .free
  pc      : Addr := 0
  x       : Vector Word 32 := Vector.replicate 32 0
  a       : Vector Addr 16 := Vector.replicate 16 0
  m       : Vector (BitVec 4096) 8 := Vector.replicate 8 0
  fcsr    : Word := 0
  vl      : BitVec 13 := 0
  vvl     : BitVec 13 := 0
  vcfg    : Word := 1
  vvcfg   : Word := 1
  vstart  : BitVec 12 := 0
  ffstat  : Word := 0
  bs      : Vector Word 16 := Vector.replicate 16 0
  age     : Nat := 0
  gto     : Nat := 0
  level   : Level := .U
  st      : TrapRegs := {}
  mt      : TrapRegs := {}
  ctxcur  : BitVec 16 := 0
  ctx     : Option CtxEntry := none
  strip   : StripName := ⟨0, 0, 0⟩
  brk     : Breakpoint := {}
  issued  : Nat := 0
  queue   : List VEntry := []
  held    : Bool := false
  dirty   : BitVec 32 := 0
  grant   : Option Child := none
  stores  : List StoreEntry := []
  orphans : List StoreEntry := []
  lates   : List LateAccess := []
  pend    : List TrapRec := []
  heard   : Nat := 0
  news    : Nat := 0
  failed  : List FailedAccess := []
  links   : List Line := []
  loose   : List Line := []
  tundish : Option Tundish := none
  relFence : Option Nat := none
  due     : Option TrapRec := none
  deriving DecidableEq, Repr

/-- What a tile does in the life of a team (R314, R315, R319, R402). -/
inductive TileLife where
  | idle | resident | saving | clearing
  deriving DecidableEq, Repr

/-- The low-power states of R402. -/
inductive Power where
  | active | gated | retention | off
  deriving DecidableEq, Repr

/-- The team that a tile belongs to, and the tile's place in it (R314). -/
structure Residency where
  slot   : Nat
  team   : Nat
  dx     : Nat
  dy     : Nat
  ord    : Nat
  ntiles : Nat
  stage  : Nat
  nstm1  : Nat
  ox     : Nat
  oy     : Nat
  w      : Nat
  h      : Nat
  deriving DecidableEq, Repr

/-- An instruction-cache line as it was filled (R14, R31): its virtual line number, its address space (none at level M), its bytes. -/
structure ICacheLine where
  line  : Nat
  asid  : Option (BitVec 16)
  bytes : List Byte
  deriving DecidableEq, Repr

/-- The scheduling state of a core (R84, R88 to R90), the time of its last issue (R86), and its instruction cache. -/
structure CoreState where
  rr     : Nat := 0
  greedy : Option (BitVec 3) := none
  stamp  : Nat := 0
  last   : Option Nat := none
  icache : List ICacheLine := []
  deriving DecidableEq, Repr

/-- A configuration port (R365). `cmd`, `target` and `which` are the command in progress with its captured address and mask, and `start`
the time it began. -/
structure CfgPort where
  addr   : Addr := 0
  op     : BitVec 2 := 0
  mask   : BitVec 4 := 0
  result : BitVec 32 := 0
  ign    : Bool := false
  busy   : Bool := false
  start  : Nat := 0
  cmd    : BitVec 2 := 0
  target : Addr := 0
  which  : BitVec 4 := 0
  keys   : Keys := .none
  deriving DecidableEq, Repr

/-- A tile (R14, R324 and the state tables named field by field in INVENTORY.md). `since` is the time of the last change of `life`, `polWas` the cycle of
the latest change of the issue policy with the policy before it (R88), `took` the cycle in which full bits were last cleared with their granules
(R109), `tagged` the cycle of the latest tagged write (R423). -/
structure Tile where
  life    : TileLife := .idle
  since   : Nat := 0
  res     : Option Residency := none
  started : Bool := false
  power   : Power := .active
  core    : CoreState := {}
  isspol  : Bool := false
  polWas  : Option (Nat × Bool) := none
  groups  : List (Nat × LaneGroup) := []
  v       : List (Nat × Word) := []
  lfsr    : List (Nat × BitVec 32) := []
  tmem    : Mem := []
  full    : List Nat := []
  took    : Nat × List Nat := (0, [])
  tagged  : Option Nat := none
  tlb     : List TlbEntry := []
  om      : Mem := []
  claimed : List (Nat × BitVec 3) := []
  fills   : List OmFill := []
  region  : BitVec 2 := 0
  mode    : Option ModeChange := none
  leave   : Bool := false
  qacc    : Option QaccCfg := none
  acc     : List (Nat × AccSlot) := []
  rels    : List (Nat × List LinkEntry) := []
  mats    : List MatEntry := []
  streams : List (Nat × Stream) := []
  tags    : List (Nat × Tag) := []
  jobs    : List (Nat × RiddleJob) := []
  fabric  : Fabric := {}
  port    : CfgPort := {}
  counts  : Vector Word 10 := Vector.replicate 10 0
  sync    : Bool := true
  traced  : Nat := 0
  cursor  : Nat := 0
  deriving DecidableEq, Repr

/-! ### Launches, quadrants and the device -/

/-- A launch record as LAUNCH captured it (R307, R309). -/
structure LaunchRec where
  entry : Addr
  twm1  : Nat
  thm1  : Nat
  stgm1 : Nat
  saxis : Bool
  strm1 : Nat
  fix   : Bool
  orx   : Nat
  ory   : Nat
  mint  : Nat
  prio  : Nat
  ntm1  : Nat
  args  : Addr
  lanes : List Nat
  tmemp : Nat
  ctx   : BitVec 16
  sig   : Addr
  sigv  : Nat
  deps  : List (Addr × Nat)
  deriving DecidableEq, Repr

/-- The saved image of a team (R319 to R322): its tiles by offset with their strands, its save-pool blocks, and which free
words the device wrote to them (R321). -/
structure Image where
  tiles   : List ((Nat × Nat) × Tile × List (Nat × Strand))
  blocks  : List Nat
  base    : Nat
  deriving DecidableEq, Repr

/-- A team of a launch (R311 to R322). -/
inductive TeamState where
  | waiting
  | resident (ox oy : Nat) (placed : Nat)
  | draining (ox oy : Nat)
  | saved (im : Image)
  | ended
  deriving DecidableEq, Repr

/-- A team: its state, the time since which it has been ready and unplaced, its claim, the placement opportunity at which its claim was last
weighed, the origin whose tiles were claimed (R311, R318), and whether it is restored from an image (R322). -/
structure Team where
  state  : TeamState
  since  : Nat
  claim  : Bool
  weighed : Option Nat := none
  target : Option (Nat × Nat) := none
  restored : Bool := false
  deriving DecidableEq, Repr

/-- The state of a launch beyond what its teams tell (R310, R315, R317). -/
inductive LaunchState where
  | pending | ready | done | cancelled | failed
  deriving DecidableEq, Repr

/-- A launch in its table slot (R309 to R317): `met` marks the completion words found at their targets, `stamp` the readiness
stamp, `signal` that the update of SIG is still due, `doneAt` the time at which the last team ended. -/
structure Launch where
  record : LaunchRec
  entry  : CtxEntry
  state  : LaunchState
  met    : List Bool
  stamp  : Nat
  teams  : List Team
  signal : Bool
  doneAt : Nat
  deriving DecidableEq, Repr

/-- A slot of the launch table. -/
structure LaunchSlot where
  gen    : BitVec 16 := 0
  launch : Option Launch := none
  deriving DecidableEq, Repr

/-- An entry of the verified-image table (R362). -/
structure Verified where
  imgid : Word
  base  : Nat
  len   : Nat
  ctx   : BitVec 16
  deriving DecidableEq, Repr

/-- The coherence state of a Crucible tag (R270): the device holds the line clean, or a modified copy of it. -/
inductive Coherence where
  | shared | modified
  deriving DecidableEq, Repr

/-- A tag of the Crucible: line, coherence state, DDID, dirty bit, and its data entry, none for the zero entry (R270). -/
structure CrTag where
  line  : Nat
  coh   : Coherence
  ddid  : BitVec 16
  dirty : Bool
  ptr   : Option Nat
  deriving DecidableEq, Repr

/-- A data entry of the Crucible: count, domain, and its hash while it is indexed (R270, R273). -/
structure CrEntry where
  count : Nat
  ddid  : BitVec 16
  hash  : Option Word
  deriving DecidableEq, Repr

/-- The Crucible of a quadrant (R270 to R276). The contents of a line are those of memory; an entry's content is that of any
tag that points to it. -/
structure Crucible where
  tags    : List CrTag := []
  entries : List (Nat × CrEntry) := []
  refused : Word := 0
  collide : Word := 0
  unshare : Word := 0
  deriving DecidableEq, Repr

/-- The clock of a quadrant (R414): lock status, and the changes that strands wait for, oldest first. -/
structure Clock where
  locked : Bool := false
  broken : Bool := false
  opp    : BitVec 3 := 0
  target : List (StrandId × Option (BitVec 3)) := []
  deriving DecidableEq, Repr

/-- A trace record before its time is known (R409): its source, a tile or none for the control core and the quadrant. -/
structure Noted where
  tile   : Option TileId
  strand : BitVec 3
  typ    : Nat
  pipe   : Nat
  fin    : Bool
  qseq   : Nat
  strip  : StripName
  aux    : Nat
  deriving DecidableEq, Repr

/-- The trace control block and the trace unit's state (R408 to R412): `buf` holds the records of the current cycle, each source's in the order of R411;
`resync` tells that the operating point changed in this cycle, and `lost` names the sources that lost a record in it. -/
structure Trace where
  base   : BitVec 56 := 0
  log2n  : BitVec 5 := 0
  pipeen : BitVec 8 := 0
  typeen : BitVec 5 := 0
  sampint : BitVec 32 := 0
  tileen : BitVec 72 := 0
  ccen   : Bool := false
  tile   : BitVec 7 := 0
  strand : BitVec 3 := 0
  ccsync : Bool := true
  traced : Nat := 0
  cursor : Nat := 0
  sampled : Nat := 0
  buf    : List Noted := []
  resync : Bool := false
  lost   : List (Option TileId) := []
  deriving DecidableEq, Repr

/-- The fabric key command (R405): its fields, and the command in progress with its captured slot, CLR and key address. -/
structure KeyCmd where
  slot : BitVec 2 := 0
  clr  : Bool := false
  err  : Bool := false
  run  : Option (BitVec 2 × Bool × BitVec 56) := none
  deriving DecidableEq, Repr

/-- A request for matrix leave that waits (R282). -/
structure LeaveReq where
  tile  : TileId
  since : Nat
  deriving DecidableEq, Repr

/-- A quadrant: its control core, its registers (R385), and its units. `chances` counts the placement opportunities (R311). -/
structure Quad where
  inReset  : Bool := false
  tilemap  : BitVec 72 := (BitVec.allOnes 64).zeroExtend 72
  core     : CoreState := {}
  tvec     : Word := 0
  mtvec    : Word := 0
  ctxbase  : Word := 0
  ctxcnt   : Word := 0
  savebase : Word := 0
  nblk     : BitVec 24 := 0
  errbase  : Word := 0
  errsize  : Word := 0
  grbase   : Word := 0
  grsize   : Word := 0
  reported : List (TileId × Bool × Nat × Nat) := []
  lattol   : BitVec 20 := 0
  reqsig   : Bool := true
  fkeyaddr : Word := 0
  fkeycmd  : KeyCmd := {}
  keys     : Keys := .none
  verified : List Verified := []
  sealKey  : BitVec 256 := 0
  crkey    : BitVec 256 := 0
  launches : List (Nat × LaunchSlot) := []
  chances  : Nat := 0
  grants   : List Nat := []
  waiting  : List LeaveReq := []
  clock    : Clock := {}
  trace    : Trace := {}
  counts   : Vector Word 7 := Vector.replicate 7 0
  crucible : Crucible := {}
  tlb      : List TlbEntry := []
  errors   : Nat := 0
  deriving DecidableEq, Repr

/-- An Ndeit Link port (R425, R426). STATE: 0 down, 1 training, 2 up, 3 failed. -/
structure LinkPort where
  state   : BitVec 2 := 0
  lanes   : BitVec 3 := 0
  retrain : BitVec 16 := 0
  replay  : BitVec 24 := 0
  deriving DecidableEq, Repr

/-- A line with failing check bits, and the bytes written since (R393). -/
structure Poison where
  line    : Line
  written : BitVec 128
  deriving DecidableEq, Repr

/-- A line whose home storage differs from its coherent value (R264 to R266): a cache holds it modified, or (`stale`) caches hold it clean
and a non-coherent write has changed the home storage. -/
structure HomeLine where
  line  : Nat
  bytes : List Byte
  stale : Bool := false
  deriving DecidableEq, Repr

/-- The fuses of the root of trust (R429): digest of the vendor's firmware key, security version counter, seed. -/
structure Fuses where
  digest  : BitVec 512 := Config.fusedDigest
  version : Word := Config.fusedVersion
  seed    : BitVec 512 := Config.fusedSeed
  deriving DecidableEq, Repr

/-- Who asks the attestation mailbox (R431). -/
inductive Asker where
  | host | levelS | levelM
  deriving DecidableEq, Repr

/-- What the device holds outside its quadrants (R425 to R432). `numbered` tells that DEVNUM has been read since power was applied, and `unnumbered` that
the platform block held no valid number (R430); `asks` are the mailbox commands that wait, by who issued them (R431). -/
structure Device where
  fuses   : Fuses := {}
  devnum  : BitVec 21 := 0
  numbered : Bool := true
  unnumbered : Bool := false
  ports   : Vector LinkPort 16 := Vector.replicate 16 {}
  meas    : Vector (BitVec 512) 4 := Vector.replicate 4 0
  secver  : Word := 0
  imgid   : Word := 0
  rot     : BitVec 8 := 0
  report  : List Byte := []
  mbox    : Word := 0
  asks    : List Asker := []
  deriving DecidableEq, Repr

/-- A location that non-returning float atomics have added to (R242): its value before them, the partials applied since, and the value that
they left. -/
structure Partials where
  loc   : Loc
  size  : Nat
  prior : Nat
  parts : List Nat
  last  : Nat
  deriving DecidableEq, Repr

/-! ### The machine -/

/-- Who acts: a strand, or a fabric element that fires. -/
inductive Agent where
  | strand (i : StrandId)
  | elem (e : ElemId)
  deriving DecidableEq, Repr

/-- What an environment orders to happen next: a core's slot issues, an element fires, or an event happens. Which strands are ready depends on
latencies that the model leaves out, so the environment names the slots (bits 0 to 7 of `held`) whose strand it holds back as not ready (R9,
R87); the issue policy chooses among the rest (R89, R90). -/
inductive Act where
  | issue (c : CoreId) (held : BitVec 8)
  | fire (e : ElemId)
  | event (i : Instr)
  deriving DecidableEq, Repr

/-- A move of the environment: the cycles that pass before it, whether data returns only after the next issue, and the act. -/
structure Move where
  dt   : Nat
  late : Bool
  act  : Act
  deriving DecidableEq, Repr

/-- The reasons a step stops with a fault. -/
inductive Fault where
  /-- Raised by `exec` on an instruction whose kind of agent is not the one that acts (a core instruction while an element acts, or
  the reverse). Safe: the step function never does that. -/
  | agentMismatch
  deriving DecidableEq, Repr

/-- The reasons a step refuses an instruction. -/
inductive Refusal where
  /-- Raised by `exec` on an instruction that has no meaning yet. Safe: nothing is claimed of it. -/
  | notModelled (mnemonic : String)
  deriving DecidableEq, Repr

/-- The state of the machine. The first six fields are the model's own: who acts, the moves that the environment has ordered, whether
the data of the access at issue returns late (R434), whether the last act found nothing to do (an instruction not ready, an event not
due), the time in ac, and the count of free values used. The rest is the device; `domains` tells of a line the DDID of the latest access to it,
where that is not 0 (R271). -/
structure State where
  cur     : Agent
  sched   : List Move
  late    : Bool
  idle    : Bool
  now     : Nat
  free    : Nat
  strands : List (StrandId × Strand)
  tiles   : List (TileId × Tile)
  quads   : Vector Quad 4
  dev     : Device
  mem     : Mem
  home    : List HomeLine
  poison  : List Poison
  ranges  : List Reservation
  merges  : List Partials
  domains : List (Nat × BitVec 16)
  deriving DecidableEq, Repr

/-- Slot 0 of the control core of a quadrant (R17). -/
def bootStrand (q : BitVec 2) : StrandId := ⟨.control q, 0⟩

/-- A control-core strand as it stands when its quadrant leaves reset (R17, R383; log entry 2). -/
def Strand.boot : Strand := { status := .running, level := .M }

/-- The machine right after reset (R17). -/
def State.reset : State where
  cur := .strand (bootStrand 0)
  sched := []
  late := false
  idle := false
  now := 0
  free := 0
  strands := [(bootStrand 0, .boot), (bootStrand 1, .boot), (bootStrand 2, .boot), (bootStrand 3, .boot)]
  tiles := []
  quads := Vector.replicate 4 {}
  dev := {}
  mem := []
  home := []
  poison := []
  ranges := []
  merges := []
  domains := []

end Sys2Proof.Machine
end

