-- ==== Sys2Proof/Machine/Map.lean ====
section
/-! DEFINITION. Sparse tables as association lists, byte storage in its canonical form, and byte lists. -/

namespace Sys2Proof.Machine

open Sys2Proof

/-! ### Association lists -/

/-- The value stored under a key. -/
def amGet {κ ν : Type} [DecidableEq κ] (k : κ) : List (κ × ν) → Option ν
  | [] => none
  | (k', v) :: r => if k = k' then some v else amGet k r

/-- Stores a value under a key, in place where the key is present. -/
def amSet {κ ν : Type} [DecidableEq κ] (k : κ) (v : ν) : List (κ × ν) → List (κ × ν)
  | [] => [(k, v)]
  | (k', v') :: r => if k = k' then (k, v) :: r else (k', v') :: amSet k v r

/-- Removes a key. -/
def amDel {κ ν : Type} [DecidableEq κ] (k : κ) : List (κ × ν) → List (κ × ν)
  | [] => []
  | (k', v') :: r => if k = k' then amDel k r else (k', v') :: amDel k r

/-! ### Byte storage -/

/-- Reads one byte. -/
def Mem.get (a : Nat) : Mem → Byte
  | [] => unlistedByte
  | (a', b) :: r => if a = a' then b else if a < a' then unlistedByte else Mem.get a r

/-- A cell in front of a memory, left out where it holds what an unlisted byte reads as. -/
def Mem.cons (a : Nat) (b : Byte) (r : Mem) : Mem := if b = unlistedByte then r else (a, b) :: r

/-- Writes one byte, keeping the canonical form. -/
def Mem.put (a : Nat) (b : Byte) : Mem → Mem
  | [] => Mem.cons a b []
  | (a', b') :: r =>
    if a = a' then Mem.cons a b r
    else if a < a' then Mem.cons a b ((a', b') :: r)
    else (a', b') :: Mem.put a b r

/-- The `n` bytes from an address on, in ascending order. -/
def Mem.bytes (m : Mem) (a : Nat) : Nat → List Byte
  | 0 => []
  | n + 1 => m.get a :: m.bytes (a + 1) n

/-- Writes bytes from an address on. -/
def Mem.write (m : Mem) (a : Nat) : List Byte → Mem
  | [] => m
  | b :: bs => (m.put a b).write (a + 1) bs

/-- The cells below an address. -/
def Mem.below (m : Mem) (a : Nat) : Mem := m.filter fun c => c.1 < a

/-! ### Byte lists and numbers (R27: little-endian) -/

/-- The little-endian value of a byte list. -/
def leNat : List Byte → Nat
  | [] => 0
  | b :: bs => b.toNat + 256 * leNat bs

/-- The low `n` bytes of a number, little-endian. -/
def leBytes : Nat → Nat → List Byte
  | 0, _ => []
  | n + 1, v => BitVec.ofNat 8 v :: leBytes n (v / 256)

/-- A zero-filled byte list. -/
def zeroBytes (n : Nat) : List Byte := List.replicate n 0

/-- A byte list cut or filled with zeros to a length. -/
def fitBytes (n : Nat) (bs : List Byte) : List Byte := (bs ++ zeroBytes (n - bs.length)).take n

/-- Bits `lo` to `lo + n - 1` of a number. -/
def field (v lo n : Nat) : Nat := v / 2 ^ lo % 2 ^ n

/-- One step of the reflected CRC-32C register over a bit count (R357). -/
def crcBits : Nat → BitVec 32 → BitVec 32
  | 0, c => c
  | n + 1, c => crcBits n (if c.getLsbD 0 then (c >>> 1) ^^^ 0x82F63B78#32 else c >>> 1)

/-- The CRC-32C register after some bytes. -/
def crcStep (c : BitVec 32) : List Byte → BitVec 32
  | [] => c
  | b :: bs => crcStep (crcBits 8 (c ^^^ b.setWidth 32)) bs

/-- CRC-32C: reflected, initial value and final XOR all ones (R357). -/
def crc32c (bs : List Byte) : BitVec 32 := ~~~ crcStep (BitVec.allOnes 32) bs

/-- A list with its `n`-th element replaced. -/
def setNth {α : Type} (l : List α) (n : Nat) (v : α) : List α := l.set n v

/-- A list with its `n`-th element removed. -/
def dropNth {α : Type} (l : List α) (n : Nat) : List α := l.eraseIdx n

/-- The naturals from `a` up to but not including `b`. -/
def range (a b : Nat) : List Nat := (List.range (b - a)).map (a + ·)

/-- The lines that `n` bytes from an address on touch (R22); no line for no byte. -/
def linesOf (a n : Nat) : List Nat := if n = 0 then [] else range (a / 128) ((a + n - 1) / 128 + 1)

/-- Whether two byte ranges share a byte. -/
def overlap (a n b m : Nat) : Bool := a < b + m && b < a + n

end Sys2Proof.Machine
end

