-- ==== Sys2Proof/Machine/Ops.lean ====
section
/-! DEFINITION. The named operations over the state: accessors, registers, byte storage with everything a write does, range
reservations, taking a trap and returning from one, and translation. -/

namespace Sys2Proof.Machine

open Sys2Proof

/-! ### Accessors -/

/-- The strand in a slot; a slot that no strand has used holds the default strand. -/
def State.strand (s : State) (i : StrandId) : Strand := (amGet i s.strands).getD {}

/-- Replaces a strand. -/
def State.setStrand (s : State) (i : StrandId) (t : Strand) : State := { s with strands := amSet i t s.strands }

/-- Changes a strand. -/
def State.modStrand (s : State) (i : StrandId) (f : Strand → Strand) : State := s.setStrand i (f (s.strand i))

/-- A tile; a tile that nothing has touched is the default tile. -/
def State.tile (s : State) (t : TileId) : Tile := (amGet t s.tiles).getD {}

/-- Replaces a tile. -/
def State.setTile (s : State) (t : TileId) (v : Tile) : State := { s with tiles := amSet t v s.tiles }

/-- Changes a tile. -/
def State.modTile (s : State) (t : TileId) (f : Tile → Tile) : State := s.setTile t (f (s.tile t))

/-- A quadrant. -/
def State.quad (s : State) (q : BitVec 2) : Quad := s.quads.get q.toFin

/-- Replaces a quadrant. -/
def State.setQuad (s : State) (q : BitVec 2) (v : Quad) : State := { s with quads := s.quads.set q.toNat v q.isLt }

/-- Changes a quadrant. -/
def State.modQuad (s : State) (q : BitVec 2) (f : Quad → Quad) : State := s.setQuad q (f (s.quad q))

/-- The quadrant of a core. -/
def coreQuad : CoreId → BitVec 2
  | .tile t => t.quad
  | .control q => q

/-- The tile of a core, none for a control core. -/
def coreTile : CoreId → Option TileId
  | .tile t => some t
  | .control _ => none

/-- The scheduling state of a core. -/
def State.core (s : State) : CoreId → CoreState
  | .tile t => (s.tile t).core
  | .control q => (s.quad q).core

/-- Changes the scheduling state of a core. -/
def State.modCore (s : State) (c : CoreId) (f : CoreState → CoreState) : State :=
  match c with
  | .tile t => s.modTile t fun v => { v with core := f v.core }
  | .control q => s.modQuad q fun v => { v with core := f v.core }

/-- The eight slots of a core. -/
def slots (c : CoreId) : List StrandId := (List.range 8).map fun n => ⟨c, BitVec.ofNat 3 n⟩

/-- Whether a tile is enabled (R12). -/
def State.enabled (s : State) (t : TileId) : Bool := t.idx.toNat < 72 && (s.quad t.quad).tilemap.getLsbD t.idx.toNat

/-- The 72 physical tiles of a quadrant. -/
def tilesOf (q : BitVec 2) : List TileId := (List.range 72).map fun n => ⟨q, BitVec.ofNat 7 n⟩

/-- The tile at a column and a row (R10). -/
def tileAt (q : BitVec 2) (x y : Nat) : TileId := ⟨q, BitVec.ofNat 7 (8 * y + x)⟩

/-- A fresh free value (log entry 7). -/
def State.fresh (s : State) : Word × State := (Config.freeWord s.free, { s with free := s.free + 1 })

/-! ### Registers (R14, R83) -/

/-- Reads an x register; x0 reads zero. -/
def Strand.xr (t : Strand) (r : BitVec 5) : Word := if r = 0 then 0 else t.x.get r.toFin

/-- Writes an x register; a write of x0 is discarded. -/
def Strand.setX (t : Strand) (r : BitVec 5) (v : Word) : Strand :=
  if r = 0 then t else { t with x := t.x.set r.toNat v r.isLt }

/-- Reads an a register. -/
def Strand.ar (t : Strand) (r : BitVec 4) : Addr := t.a.get r.toFin

/-- Writes an a register. -/
def Strand.setA (t : Strand) (r : BitVec 4) (v : Addr) : Strand := { t with a := t.a.set r.toNat v r.isLt }

/-- Reads an m register. -/
def Strand.mr (t : Strand) (r : BitVec 3) : BitVec 4096 := t.m.get r.toFin

/-- Writes an m register. -/
def Strand.setM (t : Strand) (r : BitVec 3) (v : BitVec 4096) : Strand := { t with m := t.m.set r.toNat v r.isLt }

/-- Reads an x register of a strand of the state. -/
def State.xr (s : State) (i : StrandId) (r : BitVec 5) : Word := (s.strand i).xr r

/-- Writes an x register of a strand of the state. -/
def State.setX (s : State) (i : StrandId) (r : BitVec 5) (v : Word) : State := s.modStrand i (·.setX r v)

/-- Moves the program counter of a strand. -/
def State.setPc (s : State) (i : StrandId) (a : Addr) : State := s.modStrand i fun t => { t with pc := a }

/-- Sets the status of a strand. -/
def State.setStatus (s : State) (i : StrandId) (v : Status) : State := s.modStrand i fun t => { t with status := v }

/-! ### The address map (R21, R418) -/

/-- What a global physical address names. -/
inductive Region where
  | hbm
  | quadBlock (q : BitVec 2) (off : Nat)
  | devBlock (off : Nat)
  | tagged (off : Nat)
  | cxl
  | unassigned
  deriving DecidableEq, Repr

/-- The device number of a global physical address. -/
def devOf (a : Nat) : Nat := a / 2 ^ 56

/-- The local address of a global physical address. -/
def localOf (a : Nat) : Nat := a % 2 ^ 56

/-- The region of a local address (R418). -/
def regionOf (a : Nat) : Region :=
  if a < 0x8000000000 then .hbm
  else if a < 0x8001000000 then .quadBlock (BitVec.ofNat 2 ((a - 0x8000000000) / 0x400000)) ((a - 0x8000000000) % 0x400000)
  else if a < 0x8002000000 then .devBlock (a - 0x8001000000)
  else if a < 0xA000000000 then .unassigned
  else if a < 0xC000000000 then .tagged (a - 0xA000000000)
  else if a < 0x10000000000 then .unassigned
  else .cxl

/-- Whether a global physical address lies on this device. -/
def State.own (s : State) (a : Nat) : Bool := devOf a = s.dev.devnum.toNat

/-- The global physical address of a local one of this device. -/
def State.globalPa (s : State) (a : Nat) : Nat := s.dev.devnum.toNat * 2 ^ 56 + a % 2 ^ 56

/-- Whether a line is homed in this device's HBM. -/
def State.homed (s : State) (line : Nat) : Bool := s.own (128 * line) && regionOf (localOf (128 * line)) = .hbm

/-- The home quadrant of an HBM line (R21). -/
def homeQuad (line : Nat) : BitVec 2 := BitVec.ofNat 2 (localOf (128 * line) / 2 ^ 37)

/-! ### The Crucible (R270 to R276) -/

/-- An index that no data entry uses. -/
def Crucible.freshIndex (c : Crucible) : Nat := c.entries.foldl (fun n e => max n (e.1 + 1)) 0

/-- Drops one reference to a data entry; an entry whose count reaches 0 is freed (R274). -/
def Crucible.release (c : Crucible) (p : Option Nat) : Crucible :=
  match p with
  | none => c
  | some k =>
    match amGet k c.entries with
    | none => c
    | some e => { c with entries := if e.count ≤ 1 then amDel k c.entries else amSet k { e with count := e.count - 1 } c.entries }

/-- Removes the tag of a line (R278). -/
def Crucible.dropTag (c : Crucible) (line : Nat) : Crucible :=
  match c.tags.find? (·.line = line) with
  | none => c
  | some t => { c.release t.ptr with tags := c.tags.filter (·.line ≠ line) }

/-- The tags and data entries of a Crucible (R270). -/
def crTags : Nat := 2097152
def crEntries : Nat := 1048576

/-- Whether a tag is free. -/
def Crucible.tagRoom (c : Crucible) : Bool := c.tags.length < crTags

/-- Whether a data entry is free. -/
def Crucible.entryRoom (c : Crucible) : Bool := c.entries.length < crEntries

/-- Whether a write of a line un-shares it (R273): its tag points to the zero entry, or to an entry with count at least 2. -/
def Crucible.shares (c : Crucible) (line : Nat) : Bool :=
  match c.tags.find? (·.line = line) with
  | none => false
  | some t =>
    match t.ptr with
    | none => true
    | some k => match amGet k c.entries with | none => true | some e => 2 ≤ e.count

/-- The tag of a line gets an entry of its own (R273): a fresh entry, its content copied, and the old one's count decremented. -/
def Crucible.ownEntry (c : Crucible) (line : Nat) : Crucible :=
  match c.tags.find? (·.line = line) with
  | none => c
  | some t =>
    let c := c.release t.ptr
    let k := c.freshIndex
    { c with tags := c.tags.map fun u => if u.line = line then { u with ptr := some k } else u
             entries := amSet k ⟨1, t.ddid, none⟩ c.entries
             unshare := c.unshare + 1 }

/-- What a write does to the tag of its line once the line is un-shared (R273): it is modified and dirty, and its entry leaves the hash index. -/
def Crucible.written (c : Crucible) (line : Nat) : Crucible :=
  match c.tags.find? (·.line = line) with
  | none => c
  | some t =>
    let es := match t.ptr with
      | none => c.entries
      | some k => match amGet k c.entries with | none => c.entries | some e => amSet k { e with hash := none } c.entries
    { c with tags := c.tags.map fun u => if u.line = line then { u with dirty := true, coh := .modified } else u, entries := es }

/-- The tag of a line whose modified copy has been written home: clean (R278). -/
def Crucible.cleaned (c : Crucible) (line : Nat) : Crucible :=
  { c with tags := c.tags.map fun u => if u.line = line then { u with dirty := false, coh := .shared } else u }

/-- Changes the Crucible in which a line of this device's HBM is held. -/
def modCrucible (line : Nat) (f : Crucible → Crucible) (s : State) : State :=
  if s.homed line then s.modQuad (homeQuad line) fun q => { q with crucible := f q.crucible } else s

/-! ### Byte storage: reads, and everything a write does -/

/-- The line of a place. -/
def Loc.line : Loc → Line
  | .mem a => .mem (a / 128)
  | .tmem t o => .tmem t (o / 128)

/-- The lines that `n` bytes at a place touch. -/
def Loc.lines (l : Loc) (n : Nat) : List Line :=
  match l with
  | .mem a => (linesOf a n).map .mem
  | .tmem t o => (linesOf o n).map (.tmem t)

/-- A place `n` bytes further. -/
def Loc.add (l : Loc) (n : Nat) : Loc :=
  match l with
  | .mem a => .mem (a + n)
  | .tmem t o => .tmem t (o + n)

/-- Whether two ranges of bytes share one. -/
def Loc.meets (l : Loc) (n : Nat) (k : Loc) (m : Nat) : Bool :=
  match l, k with
  | .mem a, .mem b => overlap a n b m
  | .tmem t o, .tmem u p => t = u && overlap o n p m
  | _, _ => false

/-- Withdraws every strand's link on a line (R245), but for the strand named. -/
def loseLinks (keep : Option StrandId) (l : Line) (s : State) : State :=
  { s with strands := s.strands.map fun (i, t) =>
      if some i = keep || !t.links.contains l then (i, t)
      else (i, { t with links := t.links.filter (· ≠ l), loose := t.loose.filter (· ≠ l) }) }

/-- Whether a cache of the device can hold a modified copy of a line (R264, R265): memory of this device or of another. Lines of a CXL peer are held
clean and written through. -/
def cacheable (line : Nat) : Bool := regionOf (localOf (128 * line)) = .hbm

/-- Notes that a line holds a modified copy: its home keeps its old bytes (R264 to R266). -/
def noteDirty (line : Nat) (s : State) : State :=
  if !cacheable line then s
  else if s.home.any (·.line = line) then { s with home := s.home.map fun h => if h.line = line then { h with stale := false } else h }
  else { s with home := { line := line, bytes := s.mem.bytes (128 * line) 128 } :: s.home }

/-- Every cached copy of a line is dropped without a write-back, its Crucible tag with it: the line reads as its home storage holds it. -/
def dropCopies (line : Nat) (s : State) : State :=
  let s := modCrucible line (·.dropTag line) s
  match s.home.find? (·.line = line) with
  | none => s
  | some h => { s with mem := s.mem.write (128 * line) h.bytes, home := s.home.filter (·.line ≠ line)
                       merges := s.merges.filter fun m => !m.loc.meets m.size (.mem (128 * line)) 128 }

/-- A modified copy of a line is written to its home storage; every copy stays, now clean. -/
def writeBack (line : Nat) (s : State) : State :=
  modCrucible line (·.cleaned line) { s with home := s.home.filter fun h => h.line ≠ line || h.stale }

/-- Evicts tags of a quadrant's Crucible but for that of one line, whichever the device chooses, until it has room (R274): a dirty tag's content goes
home. -/
def evict (q : BitVec 2) (line : Nat) (room : Crucible → Bool) : Nat → State → State
  | 0, s => s
  | n + 1, s =>
    let c := (s.quad q).crucible
    if room c then s
    else
      let (x, s) := s.fresh
      let others := c.tags.filter (·.line ≠ line)
      match others[x.toNat % others.length]? with
      | none => s
      | some t =>
        let s := if t.dirty then writeBack t.line s else s
        evict q line room n (s.modQuad q fun v => { v with crucible := v.crucible.dropTag t.line })

/-- Makes room in a quadrant's Crucible. -/
def makeRoom (q : BitVec 2) (line : Nat) (room : Crucible → Bool) (s : State) : State :=
  evict q line room (s.quad q).crucible.tags.length s

/-- A line that a write or an atomic is about to touch is un-shared (R273), once a data entry is free for it. -/
def unshareLine (line : Nat) (s : State) : State :=
  if !s.homed line then s
  else
    let q := homeQuad line
    let s := makeRoom q line (fun c => !c.shares line || c.entryRoom) s
    s.modQuad q fun v => { v with crucible := if v.crucible.shares line then v.crucible.ownEntry line else v.crucible }

/-- What a write to a memory line does besides the bytes: un-sharing, dirtiness, links. -/
def touchLine (keep : Option StrandId) (line : Nat) (s : State) : State :=
  modCrucible line (·.written line) (unshareLine line (loseLinks keep (.mem line) (noteDirty line s)))

/-- Marks the bytes of failing lines of one storage that a write covers, and clears a failure once all are written (R393). -/
def healPoison (at' : Nat → Line) (a n : Nat) (ps : List Poison) : List Poison :=
  ps.filterMap fun p =>
    match (linesOf a n).find? fun k => at' k = p.line with
    | none => some p
    | some line =>
      let w := (List.range 128).foldl (fun (w : BitVec 128) k =>
        if a ≤ 128 * line + k && 128 * line + k < a + n then w ||| BitVec.twoPow 128 k else w) p.written
      if w = BitVec.allOnes 128 then none else some { p with written := w }

/-- A write ends the merging of float partials at the bytes it covers (R242). -/
def endMerges (l : Loc) (n : Nat) (s : State) : State := { s with merges := s.merges.filter fun m => !m.loc.meets m.size l n }

/-- A coherent write of bytes to the global physical space. The memory of an error, guard or trace record is memory: a store to it takes effect, though
R4 has writes of RO and RSV fields ignored (log entry 90). -/
def writeMem (keep : Option StrandId) (a : Nat) (bs : List Byte) (s : State) : State :=
  if bs.isEmpty then s else
  let s := (linesOf a bs.length).foldl (fun s n => touchLine keep n s) s
  endMerges (.mem a) bs.length { s with mem := s.mem.write a bs, poison := healPoison .mem a bs.length s.poison }

/-- A write of bytes to a tile's TMEM. -/
def writeTmem (keep : Option StrandId) (t : TileId) (off : Nat) (bs : List Byte) (s : State) : State :=
  if bs.isEmpty then s else
  let s := (linesOf off bs.length).foldl (fun s n => loseLinks keep (.tmem t n) s) s
  let s := { s with poison := healPoison (.tmem t) off bs.length s.poison }
  endMerges (.tmem t off) bs.length (s.modTile t fun v => { v with tmem := v.tmem.write off bs })

/-- A write of bytes to a place. -/
def writeLoc (keep : Option StrandId) (l : Loc) (bs : List Byte) (s : State) : State :=
  match l with
  | .mem a => writeMem keep a bs s
  | .tmem t o => writeTmem keep t o bs s

/-- The device itself accesses `n` bytes without translation: the domain of their lines is 0 (R271). -/
def untranslated (a n : Nat) (s : State) : State :=
  { s with domains := s.domains.filter fun d => !(linesOf a n).contains d.1 }

/-- A write by hardware. -/
def hwWrite (a : Nat) (bs : List Byte) (s : State) : State := untranslated a bs.length (writeMem none a bs s)

/-- The bytes at a place. -/
def State.bytesAt (s : State) (l : Loc) (n : Nat) : List Byte :=
  match l with
  | .mem a => s.mem.bytes a n
  | .tmem t o => (s.tile t).tmem.bytes o n

/-- Whether a read of a tile's operand memory meets an uncorrectable error (R393). -/
def State.omPoisoned (s : State) (t : TileId) (off n : Nat) : Bool := (linesOf off n).any fun k => s.poison.any (·.line = .om t k)

/-- Whether a read of a place meets an uncorrectable error (R393). -/
def State.poisoned (s : State) (l : Loc) (n : Nat) : Bool :=
  (l.lines n).any fun k => s.poison.any (·.line = k)

/-- The coherent 64-bit word at a global physical address. -/
def State.word64 (s : State) (a : Nat) : Nat := leNat (s.mem.bytes a 8)

/-- Inserts a granule into a rising list. -/
def insertNat (n : Nat) : List Nat → List Nat
  | [] => [n]
  | m :: r => if n < m then n :: m :: r else if n = m then m :: r else m :: insertNat n r

/-- Sets the full bits of the 16-byte granules that a range touches (R169, R262). -/
def setFull (t : TileId) (off n : Nat) (s : State) : State :=
  if n = 0 then s else
  s.modTile t fun v => { v with full := (range (off / 16) ((off + n - 1) / 16 + 1)).foldl (fun l g => insertNat g l) v.full }

/-- Sets the full bits of the granules that a range covers wholly (R422). -/
def setFullWhole (t : TileId) (off n : Nat) (s : State) : State :=
  s.modTile t fun v => { v with full := (range ((off + 15) / 16) ((off + n) / 16)).foldl (fun l g => insertNat g l) v.full }

/-- The granules of a tile whose full bits were cleared in a cycle (R109). -/
def Tile.tookAt (v : Tile) (now : Nat) : List Nat := if v.took.1 = now then v.took.2 else []

/-- Clears the full bit of a granule. -/
def clearFull (t : TileId) (g : Nat) (s : State) : State :=
  s.modTile t fun v => { v with full := v.full.filter (· ≠ g), took := (s.now, g :: v.tookAt s.now) }

/-- Whether a load finds a granule full: one that clears no bit shares the cycle with those that do (R109, R170). -/
def State.granuleFull (s : State) (t : TileId) (clear : Bool) (g : Nat) : Bool :=
  (s.tile t).full.contains g || (!clear && ((s.tile t).tookAt s.now).contains g)

/-- Whether a load finds every granule of a range full. -/
def State.findsFull (s : State) (t : TileId) (clear : Bool) (off n : Nat) : Bool :=
  (range (off / 16) ((off + n - 1) / 16 + 1)).all (s.granuleFull t clear)

/-! ### Range reservations (R219 to R221, R267 to R269) -/

/-- How an access meets the registered reservations. -/
inductive Meet where
  | free
  | cut
  | wait
  | trap
  deriving DecidableEq, Repr

/-- Whether a reservation conflicts with an access to some lines (R220); passed lines no longer meet it. -/
def Reservation.conflicts (r : Reservation) (self : Option (TileId × Nat)) (write : Bool) (ls : List Nat) : Bool :=
  self != some (r.tile, r.slot) && (write || r.write) && ls.any fun l => r.lines.contains l && !r.passed.contains l

/-- How an access to `n` bytes at a place meets the reservations (R220): mode 3 traps, 1 waits, 2 is cut. -/
def State.meets (s : State) (self : Option (TileId × Nat)) (write : Bool) (l : Loc) (n : Nat) : Meet :=
  match l with
  | .tmem _ _ => .free
  | .mem a =>
    let rs := s.ranges.filter (·.conflicts self write (linesOf a n))
    if rs.isEmpty then .free
    else if rs.any (·.mode = 3) then .trap
    else if rs.any (·.mode = 1) then .wait
    else .cut

/-- The SPLIT cut (R220): every reservation of a stream that the access meets is released; the stream holds none afterwards. -/
def cutRanges (self : Option (TileId × Nat)) (write : Bool) (l : Loc) (n : Nat) (s : State) : State :=
  match l with
  | .tmem _ _ => s
  | .mem a =>
    let cut := s.ranges.filter (·.conflicts self write (linesOf a n))
    { s with ranges := s.ranges.filter fun r => !cut.any fun c => c.tile = r.tile && c.slot = r.slot }

/-! ### Rings and records (R394, R395) -/

/-- Writes a record of a ring in HBM, or counts it as lost: answers whether it was written. -/
def ringWrite (base : Word) (log2n recSize : Nat) (bs : List Byte) (s : State) : Bool × State :=
  let a := s.globalPa (base.toNat % 2 ^ 56)
  let n := 2 ^ log2n
  let head := s.word64 a
  let tail := s.word64 (a + 16)
  if (head + 2 ^ 64 - tail) % 2 ^ 64 = n then (false, hwWrite (a + 8) (leBytes 8 (s.word64 (a + 8) + 1)) s)
  else (true, hwWrite a (leBytes 8 (head + 1)) (hwWrite (a + 128 + head % n * recSize) bs s))

/-- Counts an error record that was written (R432). -/
def countRecord (q : BitVec 2) (w : Bool × State) : State := if w.1 then w.2.modQuad q fun v => { v with errors := v.errors + 1 } else w.2

/-- Writes an error record (R394, R395) to a quadrant's ring. -/
def errorRecord (q : BitVec 2) (typ tile cause handle pa : Nat) (s : State) : State :=
  let qd := s.quad q
  if qd.errsize.toNat % 32 = 0 then s
  else
    countRecord q (ringWrite qd.errbase (qd.errsize.toNat % 32) 64
      (leBytes 8 (typ + q.toNat * 2 ^ 8 + tile * 2 ^ 10 + cause * 2 ^ 24 + handle % 2 ^ 32 * 2 ^ 32) ++
       leBytes 16 (pa % 2 ^ 77) ++ leBytes 8 (Config.timestamp s.now).toNat ++ zeroBytes 32) s)

/-- Reports the uncorrectable errors that an agent without a strand meets in `n` bytes of memory (R393): an HBM error for each line, at its home
quadrant. -/
def notePoison (a n : Nat) (s : State) : State :=
  (linesOf a n).foldl (fun s k => if s.poisoned (.mem (128 * k)) 1 then errorRecord (homeQuad k) 1 127 0 0 (128 * k) s else s) s

/-- The handle of a launch (R309), its bits 31 to 0. A launch that has left its slot keeps its number beyond
the table, 512 times something further (log entry 71). -/
def handleOf (q : BitVec 2) (slot : Nat) (gen : BitVec 16) : Nat := slot % 2 ^ 9 + q.toNat * 2 ^ 9 + gen.toNat * 2 ^ 16

/-- The handle of the team on a tile, or 0. -/
def State.tileHandle (s : State) (t : TileId) : Nat :=
  match (s.tile t).res with
  | none => 0
  | some r => handleOf t.quad r.slot (((amGet r.slot (s.quad t.quad).launches).getD {}).gen)

/-! ### Counters (R417) and trace records (R408 to R412) -/

/-- Adds to a tile counter (R417). -/
def bump (t : TileId) (k : Fin 10) (n : Nat) (s : State) : State :=
  s.modTile t fun v => { v with counts := v.counts.set k (v.counts.get k + BitVec.ofNat 64 n) }

/-- Adds to a quadrant counter (R417). -/
def bumpQuad (q : BitVec 2) (k : Fin 7) (n : Nat) (s : State) : State :=
  s.modQuad q fun v => { v with counts := v.counts.set k (v.counts.get k + BitVec.ofNat 64 n) }

/-- Adds to a counter of a core's tile; a control core has none. -/
def bumpCore (c : CoreId) (k : Fin 10) (n : Nat) (s : State) : State :=
  match c with
  | .tile t => bump t k n s
  | .control _ => s

/-- Whether records of a type from a core are written (R408). -/
def Trace.enabled (tr : Trace) (tile : Option TileId) (typ pipe : Nat) : Bool :=
  let source := match tile with | some t => tr.tileen.getLsbD t.idx.toNat | none => tr.ccen
  tr.log2n != 0 &&
  match typ with
  | 1 => tr.typeen.getLsbD 0 && tr.pipeen.getLsbD pipe && source
  | 3 => tr.typeen.getLsbD 1 && source
  | 4 => tr.typeen.getLsbD 2 && source
  | 5 => tr.typeen.getLsbD 3 && source
  | 8 => tr.typeen.getLsbD 4 && source
  | _ => true

/-- The 32 bytes of a record (R409). -/
def traceBytes (typ tile strand pipe : Nat) (fin : Bool) (dt qseq : Nat) (n : StripName) (aux : Nat) : List Byte :=
  leBytes 32 (typ + tile * 2 ^ 4 + strand * 2 ^ 11 + pipe * 2 ^ 14 + (if fin then 2 ^ 18 else 0) + dt * 2 ^ 32 +
    qseq % 2 ^ 16 * 2 ^ 48 + n.saddr.toNat * 2 ^ 64 + n.ord.toNat * 2 ^ 144 + n.vl.toNat * 2 ^ 176 + aux % 2 ^ 64 * 2 ^ 192)

/-- A source owes a SYNC (R412). -/
def traceOwe (q : BitVec 2) (tile : Option TileId) (s : State) : State :=
  match tile with
  | some t => s.modTile t fun v => { v with sync := true }
  | none => s.modQuad q fun v => { v with trace := { v.trace with ccsync := true } }

/-- What follows the write of a record, which was written or lost: a lost one is counted and owes a SYNC (R412). -/
def traceDone (q : BitVec 2) (tile : Option TileId) (w : Bool × State) : State :=
  let s := if w.1 then w.2 else bumpQuad q 6 1 w.2
  match tile with
  | some t => s.modTile t fun v => { v with traced := s.now, sync := !w.1 }
  | none => s.modQuad q fun v => { v with trace := { v.trace with traced := s.now, ccsync := !w.1 } }

/-- Writes one record to the ring (R412). -/
def tracePut (q : BitVec 2) (tile : Option TileId) (bs : List Byte) (s : State) : State :=
  traceDone q tile (ringWrite ((s.quad q).trace.base.setWidth 64) (s.quad q).trace.log2n.toNat 32 bs s)

/-- Whether a SYNC is owed, and the time of the latest record (R411). -/
def State.traceOwed (s : State) (q : BitVec 2) (tile : Option TileId) : Bool × Nat :=
  match tile with
  | some t => ((s.tile t).sync, (s.tile t).traced)
  | none => ((s.quad q).trace.ccsync, (s.quad q).trace.traced)

/-- Whether a SYNC goes before the next record: one is owed, or the latest record is too long ago (R411). -/
def State.syncDue (s : State) (q : BitVec 2) (tile : Option TileId) : Bool :=
  (s.traceOwed q tile).1 || decide (65535 < s.now - (s.traceOwed q tile).2)

/-- The number of a record's source: a tile, or 127 (R409). -/
def traceIndex (tile : Option TileId) : Nat := match tile with | some t => t.idx.toNat | none => 127

/-- Whether a record goes before another of its source and cycle (R411): by PIPE, QSEQ and END, a SYNC before all. -/
def Noted.before (a b : Noted) : Bool :=
  let k (r : Noted) : Nat := if r.typ = 2 then 0 else 1 + (r.pipe * 2 ^ 16 + r.qseq % 2 ^ 16) * 2 + (if r.fin then 1 else 0)
  k a < k b

/-- A record that finds its source's buffer full is lost (R412): it is counted in the ring, and its source owes a SYNC once what the buffer holds is
written. -/
def traceLost (q : BitVec 2) (tile : Option TileId) (s : State) : State :=
  let a := s.globalPa ((s.quad q).trace.base.toNat + 8)
  (bumpQuad q 6 1 (hwWrite a (leBytes 8 (s.word64 a + 1)) s)).modQuad q fun v => { v with trace := { v.trace with lost := tile :: v.trace.lost } }

/-- Records an event of a tile, or of the control core or quadrant (R408 to R412): it enters its source's buffer of 64 records, behind those of this
cycle that do not come after it. -/
def trace (q : BitVec 2) (tile : Option TileId) (strand : BitVec 3) (typ pipe : Nat) (fin : Bool) (qseq : Nat) (n : StripName) (aux : Nat)
    (s : State) : State :=
  let tr := (s.quad q).trace
  let r : Noted := ⟨tile, strand, typ, pipe, fin, qseq, n, aux⟩
  if !tr.enabled tile typ pipe then s
  else if 64 ≤ (tr.buf.filter (·.tile = tile)).length then traceLost q tile s
  else s.modQuad q fun v => { v with trace := { v.trace with buf := (tr.buf.filter fun g => !r.before g) ++ r :: tr.buf.filter fun g => r.before g } }

/-- Writes the SYNC of a source, with DT 0 (R411). -/
def traceSync (q : BitVec 2) (tile : Option TileId) (s : State) : State :=
  tracePut q tile (traceBytes 2 (traceIndex tile) 0 0 false 0 0 ⟨0, 0, 0⟩ (Config.timestamp s.now).toNat) s

/-- Writes a buffered record to the ring: a SYNC goes first where one is due. -/
def traceEmit (q : BitVec 2) (s : State) (r : Noted) : State :=
  if (s.quad q).trace.log2n = 0 then s
  else if r.typ = 2 then traceSync q r.tile s
  else
    tracePut q r.tile (traceBytes r.typ (traceIndex r.tile) r.strand.toNat r.pipe r.fin
        (if s.syncDue q r.tile then 0 else s.now - (s.traceOwed q r.tile).2) r.qseq r.strip r.aux)
      (if s.syncDue q r.tile then traceSync q r.tile s else s)

/-- Every tile of a quadrant, and its control core, owes a SYNC (R411). -/
def oweSync (q : BitVec 2) (s : State) : State :=
  let s := s.modQuad q fun v => { v with trace := { v.trace with ccsync := true } }
  { s with tiles := s.tiles.map fun (t, v) => if t.quad = q then (t, { v with sync := true }) else (t, v) }

/-- At the end of a cycle, the buffered records of a quadrant are written (R411); lost ones, and a change of operating point, owe SYNCs. -/
def flushTrace (q : BitVec 2) (s : State) : State :=
  let tr := (s.quad q).trace
  if tr.buf.isEmpty && !tr.resync then s
  else
    let s := tr.buf.foldl (traceEmit q) (s.modQuad q fun v => { v with trace := { v.trace with buf := [], resync := false, lost := [] } })
    let s := tr.lost.foldl (fun s t => traceOwe q t s) s
    if tr.resync then oweSync q s else s

/-- The operating point of a quadrant changes in this cycle (R411). -/
def noteResync (q : BitVec 2) (s : State) : State := s.modQuad q fun v => { v with trace := { v.trace with resync := true } }

/-- An EVENT record of an engine instruction (R410). -/
def traceEvent (i : StrandId) (pipe : Nat) (fin : Bool) (qseq : Nat) (n : StripName) (pc : Addr) (s : State) : State :=
  trace (coreQuad i.core) (coreTile i.core) i.slot 1 pipe fin qseq n pc.toNat s

/-- A record of a strand's own (STRIP, TMARK, BRK, SAMPLE). -/
def traceStrand (i : StrandId) (typ : Nat) (qseq : Nat) (n : StripName) (aux : Nat) (s : State) : State :=
  trace (coreQuad i.core) (coreTile i.core) i.slot typ 0 false qseq n aux s

/-- A CLOCK record (R414): 0 lock, 1 unlock, 2 forced break. -/
def traceClock (q : BitVec 2) (opp : BitVec 3) (ev : Nat) (s : State) : State :=
  trace q none 0 6 0 false 0 ⟨0, 0, 0⟩ (opp.toNat + ev * 2 ^ 8) s

/-- The pipe of a vector-class instruction (R130, R410): 1 arithmetic, 2 memory, 3 XLN; none for one that processes no elements. -/
def VOp.pipe : VOp → Option Nat
  | .part _ | .setl _ | .setcfg _ | .fork _ _ _ _ _ | .join | .fenceSV | .fenceVV => none
  | .ld _ _ _ | .st _ _ _ | .pf _ _ | .amo _ _ _ _ | .camo _ _ _ _ | .gl _ _ _ | .sc _ _ _ => some 2
  | .red _ _ _ _ | .perm _ _ _ | .comp _ _ | .expd _ _ | .filt _ _ | .topk _ _ _ | .slide _ _ _ _ => some 3
  | _ => some 1

/-- The END records of the instructions in the lanes, each on the pipe it holds (R410). -/
def traceStops (i : StrandId) (s : State) : State :=
  (s.strand i).queue.foldl (fun s e =>
    match e.started, e.op.pipe with
    | true, some p => traceEvent i p true e.seq e.strip e.pc s
    | _, _ => s) s

/-! ### Places beyond the device (R425, R426) -/

/-- How a request to a place can be served: at once, not before its link port recovers, or not at all (R426). -/
inductive Reach where
  | ok
  | wait
  | lost
  deriving DecidableEq, Repr

/-- The link port of a number. -/
def portIndex (n : Nat) : Fin 16 := ⟨n % 16, Nat.mod_lt _ (by decide)⟩

/-- Whether a place can be reached: memory of another device through its link port (R425, R426). -/
def State.reach (s : State) (l : Loc) : Reach :=
  match l with
  | .tmem _ _ => .ok
  | .mem a =>
    if s.own a then .ok
    else
      let p := s.dev.ports.get (portIndex (Config.routePort (BitVec.ofNat 21 (devOf a))).toNat)
      if p.state = 3 then .lost else if p.state = 2 then .ok else .wait

/-- A write of bytes to storage: one that a failed link port loses is recorded (R426). -/
def writeStorage (keep : Option StrandId) (l : Loc) (bs : List Byte) (s : State) : State :=
  if s.reach l = .lost then (match l with | .mem a => errorRecord 0 3 127 0 0 a s | .tmem _ _ => s) else writeLoc keep l bs s

/-! ### Atomic updates (R237, R241, R242) -/

/-- The sum of two codes by RN32 or RN64, FZ ignored and flags dropped (R240). -/
def atomicFadd (size : Nat) (a b : Nat) : Nat :=
  if size = 4 then (FFmt.add .fp32 .nearest false (a % 2 ^ 32) (b % 2 ^ 32)).1 else (FFmt.add .fp64 .nearest false a b).1

/-- The new value of an atomic of `size` bytes on an old value and an operand. -/
def amoNew (op : AmoOp) (size old t : Nat) : Nat :=
  let w := 8 * size
  let lt := decide (intOfCode w true (old % 2 ^ w) < intOfCode w true (t % 2 ^ w))
  match op with
  | .add => (old + t) % 2 ^ w
  | .and => old &&& t
  | .or => old ||| t
  | .xor => old ^^^ t
  | .min => if lt then old else t
  | .max => if lt then t else old
  | .minu => min old t
  | .maxu => max old t
  | .fadd => atomicFadd size old t
  | .swap => t
  | .cas => t

/-- A full binary bracketing of some values, the pairs chosen by free values (R242; log entry 16). -/
def bracket (n : Nat) : Nat → List Nat → State → Nat × State
  | 0, l, s => (l.headD 0, s)
  | _ + 1, [], s => (0, s)
  | _ + 1, [a], s => (a, s)
  | k + 1, l, s =>
    let (x, s) := s.fresh
    let i := x.toNat % l.length
    let a := l.getD i 0
    let l := l.eraseIdx i
    let (y, s) := s.fresh
    let j := y.toNat % l.length
    let b := l.getD j 0
    bracket n k (atomicFadd n a b :: l.eraseIdx j) s

/-- An atomic update of another device's memory is performed at its home there (R234, R425): this device holds no modified copy of its line. -/
def atHome (l : Loc) (s : State) : State :=
  match l with
  | .tmem _ _ => s
  | .mem a => if s.own a || !cacheable (a / 128) then s else writeBack (a / 128) s

/-- Applies one partial of a non-returning atomic at its location (R242). A float sum may be merged with the partials that were applied there before it,
with no other write between. A location that fails meanwhile keeps its bytes, and the error is recorded (R393); an update that a failed link port loses
is recorded too (R426); a SPLIT reservation is cut (R220). -/
def applyPartial (op : AmoOp) (k : Combine) (s : State) : State :=
  let n := k.size
  let l := k.phys.loc
  let s := if s.meets none true l n = .cut then cutRanges none true l n s else s
  if s.reach l = .lost then writeStorage none l (leBytes n 0) s
  else if s.poisoned l n then
    match l with
    | .mem a => notePoison a n s
    | .tmem t _ => errorRecord t.quad 2 t.idx.toNat 0 (s.tileHandle t) 0 s
  else
    let old := leNat (s.bytesAt l n)
    if op ≠ .fadd then atHome l (writeStorage none l (leBytes n (amoNew op n old k.part)) s)
    else
      let before := s.merges.find? fun m => m.loc = l && m.size = n && m.last = old
      let prior := match before with | some m => m.prior | none => old
      let parts := (match before with | some m => m.parts | none => []) ++ [k.part]
      let (v, s) := bracket n parts.length (prior :: parts) s
      let s := atHome l (writeStorage none l (leBytes n v) s)
      { s with merges := ⟨l, n, prior, parts, v⟩ :: s.merges }

/-- The partials that an entry has gathered (R242). -/
def VEntry.partials (e : VEntry) : Option (AmoOp × List Combine) :=
  match e.op with
  | .camo op _ _ _ => some (op, e.parts)
  | _ => none

/-- Applies the partials that the non-returning atomics of a stopping vector queue have gathered: a group that has started applies its performed
elements before the stop (R243). -/
def flushParts (i : StrandId) (s : State) : State :=
  let ps := (s.strand i).queue.filterMap VEntry.partials
  if ps.all (·.2.isEmpty) then s
  else
    let s := s.modStrand i fun t => { t with queue := t.queue.map fun e => if e.partials.isSome then { e with parts := [] } else e }
    ps.foldl (fun s p => p.2.foldl (fun s k => applyPartial p.1 k s) s) s

/-! ### Traps (R386 to R392) -/

/-- Cause codes (R391). -/
def cZeroParcel : BitVec 8 := 0x01
def cIllegal : BitVec 8 := 0x02
def cPrivilege : BitVec 8 := 0x03
def cFetchAbsent : BitVec 8 := 0x04
def cFetchNoExec : BitVec 8 := 0x05
def cJumpMisaligned : BitVec 8 := 0x06
def cSyscall : BitVec 8 := 0x07
def cMisaligned : BitVec 8 := 0x08
def cAbsent : BitVec 8 := 0x09
def cProtect : BitVec 8 := 0x0A
def cTileDisabled : BitVec 8 := 0x0B
def cFullEmpty : BitVec 8 := 0x0C
def cWaitDevice : BitVec 8 := 0x0D
def cReservation : BitVec 8 := 0x0E
def cMachineCheck : BitVec 8 := 0x0F
def cVcfgInvalid : BitVec 8 := 0x10
def cVpartInvalid : BitVec 8 := 0x11
def cVlenRange : BitVec 8 := 0x12
def cLaneSplit : BitVec 8 := 0x13
def cVfmt : BitVec 8 := 0x14
def cFormatReserved : BitVec 8 := 0x15
def cXlnOperand : BitVec 8 := 0x16
def cZsbInvalid : BitVec 8 := 0x17
def cRiddleInvalid : BitVec 8 := 0x18
def cLadleInvalid : BitVec 8 := 0x19
def cChannelBusy : BitVec 8 := 0x1A
def cShapeInvalid : BitVec 8 := 0x1B
def cStreamOverlap : BitVec 8 := 0x1C
def cStreamIndex : BitVec 8 := 0x1D
def cTundishState : BitVec 8 := 0x1E
def cBarrierOverrun : BitVec 8 := 0x1F
def cBarrierInvalid : BitVec 8 := 0x20
def cMatrixState : BitVec 8 := 0x21
def cMatrixOperand : BitVec 8 := 0x22
def cMatrixSlot : BitVec 8 := 0x23
def cLaunchInvalid : BitVec 8 := 0x24
def cFabricState : BitVec 8 := 0x25
def cFabricIllegal : BitVec 8 := 0x26
def cFabricNoHandler : BitVec 8 := 0x27

/-- A failed access or check: cause, detail word and fault address. -/
structure Flt where
  cause  : BitVec 8
  addr   : Addr := 0
  detail : Word := 0
  deriving DecidableEq, Repr

/-- Why an instruction at issue does not complete: it traps, or it is not ready and waits. -/
inductive Stop where
  | trap (r : TrapRec)
  | stall
  deriving DecidableEq, Repr

/-- The record of a precise trap of the instruction at issue (R387). -/
def preciseRec (t : Strand) (f : Flt) : TrapRec := ⟨f.cause, 0, false, t.pc, 0, f.addr, f.detail⟩

/-- A precise trap of the instruction at issue. -/
def preciseStop (t : Strand) (f : Flt) : Stop := .trap (preciseRec t f)

/-- The level that a trap of a strand enters (R386). -/
def trapTarget (t : Strand) : Level :=
  if t.level = .M || (t.level = .S && t.st.stat.getLsbD 2) then .M else .S

/-- The level that SCALL enters (R390): S from level U, and M from S or M, where R386 by itself would have a strand at level S with INH = 0 enter S
(log entry 92). -/
def scallTarget (t : Strand) : Level := if t.level = .U then .S else .M

/-- The code of a level. -/
def Level.code : Level → Nat
  | .U => 0
  | .S => 1
  | .M => 2

/-- The level of a code (PPL never holds 3, R385). -/
def Level.ofCode (n : Nat) : Level := if n = 0 then .U else if n = 1 then .S else .M

/-- The trap registers after a trap from level `p` (R385 to R387). -/
def TrapRegs.enter (r : TrapRegs) (p : Level) (k : TrapRec) : TrapRegs where
  stat := (r.stat &&& ~~~ 7#64) ||| BitVec.ofNat 64 (p.code + 4)
  cause := BitVec.ofNat 64 (k.cause.toNat + k.src.toNat * 2 ^ 8 + (if k.async then 2 ^ 11 else 0))
  pc := k.tpc.setWidth 64
  vpc := k.tvpc.setWidth 64
  addr := k.taddr.setWidth 64
  xhi := BitVec.ofNat 64 (k.tpc.toNat / 2 ^ 64 + k.tvpc.toNat / 2 ^ 64 * 2 ^ 16 + k.taddr.toNat / 2 ^ 64 * 2 ^ 32)
  detail := k.detail
  scratch := r.scratch

/-- A started instruction stops at the end of its element group, and records its next element (R136). -/
def VEntry.stop (e : VEntry) : VEntry := if e.started then { e with started := false, resume := some e.next } else e

/-- The vector queue stops (R136, R137). -/
def Strand.stopQueue (t : Strand) : Strand := { t with queue := t.queue.map (·.stop) }

/-- The vector queue is discarded (R136): its instructions end, and a split that had not acted gives its reserved slot back. -/
def Strand.discardQueue (t : Strand) : Strand :=
  { t with queue := [], grant := if t.queue.any (fun e => match e.op with | .fork _ _ (some _) _ _ => true | _ => false) then none else t.grant }

/-- The pipes that a blocking engine instruction holds (R410). -/
def Wait.pipes : Wait → List Nat
  | .join => [0]
  | .drain _ => [0]
  | .mmode => [0]
  | .cfgCheck _ _ _ => [0]
  | .cfgLoad _ _ _ => [0, 7]
  | .cfgSave _ _ _ => [0, 7]
  | .cfgRest _ _ => [0, 7]
  | _ => []

/-- The END records on pipe 0 of the instructions of a queue that is discarded (R136, R410). -/
def traceDiscard (i : StrandId) (s : State) : State :=
  (s.strand i).queue.foldl (fun s e => traceEvent i 0 true e.seq e.strip e.pc s) s

/-- The END records of the pipes that a blocking instruction holds (R410). -/
def traceWait (i : StrandId) (s : State) : State :=
  let t := s.strand i
  match t.status with
  | .blocked w => w.pipes.foldl (fun s p => traceEvent i p true (t.issued - 1) t.strip t.pc s) s
  | _ => s

/-- A strand waits no longer for a change of its quadrant's clock (R414). -/
def dropClock (i : StrandId) (s : State) : State :=
  s.modQuad (coreQuad i.core) fun v => { v with clock := { v.clock with target := v.clock.target.filter (·.1 ≠ i) } }

/-- A blocking instruction that is left as not performed leaves what it waits for (R259): a PROF.LOCK or PROF.UNLOCK the clock, a QDRAIN its place in the
array queue, an MMODE its change of region. -/
def leaveWait (i : StrandId) (s : State) : State :=
  match (s.strand i).status, i.core with
  | .blocked (.drain _), .tile u =>
    s.modTile u fun v => { v with mats := v.mats.filter fun e =>
      match e.op with
      | .drain _ _ => e.issuer != i.slot
      | _ => true }
  | .blocked .mmode, .tile u => s.modTile u fun v => { v with mode := none }
  | .blocked (.clock _ _), _ => dropClock i s
  | _, _ => s

/-- A blocking instruction that is left as not performed leaves its pipes (R410) and its tile (R259). -/
def dropWait (i : StrandId) (s : State) : State := leaveWait i (traceWait i s)

/-- The number of a core's tile in an error record, 127 for a control core (R395). -/
def coreIndex (c : CoreId) : Nat := match c with | .tile u => u.idx.toNat | .control _ => 127

/-- The handle of the team on a core, 0 where there is none (R395). -/
def State.coreHandle (s : State) (c : CoreId) : Nat := match c with | .tile u => s.tileHandle u | .control _ => 0

/-- A strand that has stopped enters a trap (R386) at a level: the trap registers of that level, and the handler's address. A trap into level M that
finds MTSTAT.INH set makes the strand Exiting, with an error record (R386). -/
def enterTrap (target : Level) (i : StrandId) (k : TrapRec) (t : Strand) (s : State) : State :=
  let q := coreQuad i.core
  match target with
  | .M =>
    if t.mt.stat.getLsbD 2 then
      errorRecord q 5 (coreIndex i.core) k.cause.toNat (s.coreHandle i.core) 0
        ((traceDiscard i s).setStrand i { t.discardQueue with status := .exiting, held := false })
    else s.setStrand i { t with status := .running, mt := t.mt.enter t.level k, level := .M,
                                pc := ((s.quad q).mtvec &&& ~~~ 3#64).setWidth 80 }
  | _ => s.setStrand i { t with status := .running, st := t.st.enter t.level k, level := .S,
                                pc := ((s.quad q).tvec &&& ~~~ 3#64).setWidth 80 }

/-- The flags that the instructions of a vector queue have collected (R71). -/
def Strand.queueFlags (t : Strand) : BitVec 5 := t.queue.foldl (fun f e => f ||| e.flags) 0

/-- The flags of the elements that a stopping vector queue has written reach `fcsr` (R71). -/
def Strand.deposit (t : Strand) : Strand :=
  { t with fcsr := t.fcsr ||| (t.queueFlags).setWidth 64, queue := t.queue.map fun e => { e with flags := 0 } }

/-- A strand as it stops for a trap: its vector queue stops and is held, with the flags of what it has written in `fcsr`, and its links are lost
(R71, R136, R245). -/
def Strand.trapped (t : Strand) : Strand := { t.stopQueue.deposit with links := [], loose := [], held := true }

/-- Whether a tile issues round-robin in a cycle (R88): a change of policy in that cycle is in force from the next. -/
def Tile.policy (v : Tile) (now : Nat) : Bool :=
  match v.polWas with
  | some (n, b) => if n = now then b else v.isspol
  | none => v.isspol

/-- A tile whose issue policy is written in a cycle (R88). -/
def Tile.setPolicy (v : Tile) (rr : Bool) (now : Nat) : Tile := { v with isspol := rr, polWas := some (now, v.policy now) }

/-- Whether a core issues round-robin (R88); a control core never does. -/
def State.roundRobin (s : State) (c : CoreId) : Bool :=
  match c with
  | .tile t => (s.tile t).policy s.now
  | .control _ => false

/-- Whether the issue slot of a core is free in this cycle (R86). -/
def State.slotOpen (s : State) (c : CoreId) : Bool := (s.core c).last != some s.now

/-- A core after a slot took its issue slot at a time: its greedy strand, and under RR its pointer (R89, R90). -/
def CoreState.issued (k : CoreState) (rr : Bool) (slot : BitVec 3) (now : Nat) : CoreState :=
  { k with greedy := some slot, rr := if rr then (slot.toNat + 1) % 8 else k.rr, last := some now }

/-- A strand takes its core's issue slot for this cycle, for an instruction or for a trap entry (R86, R87). -/
def takeSlot (i : StrandId) (s : State) : State := s.modCore i.core (·.issued (s.roundRobin i.core) i.slot s.now)

/-- A cycle in which only the strand that takes the slot was ready: no other strand of its core has waited (R90). -/
def lone (c : CoreId) (s : State) : State :=
  (slots c).foldl (fun s j => if (s.strand j).gto = 0 then s else s.modStrand j fun t => { t with gto := 0 }) s

/-- A strand takes a trap into a level (R386), and its entry takes the issue slot (R87). A blocking instruction is left as not performed. -/
def takeTrapTo (target : Level) (i : StrandId) (k : TrapRec) (s : State) : State :=
  let s := takeSlot i (flushParts i (dropWait i (traceStops i s)))
  enterTrap target i k (s.strand i).trapped s

/-- A strand takes a trap (R386). -/
def takeTrap (i : StrandId) (k : TrapRec) (s : State) : State := takeTrapTo (trapTarget (s.strand i)) i k s

/-- The asynchronous traps of a strand that were detected in a cycle: the last ones of its list (R388). -/
def Strand.newsAt (t : Strand) (now : Nat) : Nat := if t.heard = now then t.news else 0

/-- A strand with one asynchronous trap more (R388): behind those of earlier cycles, and among those of this cycle in the order of their sources. -/
def Strand.hear (t : Strand) (k : TrapRec) (now : Nat) : Strand :=
  let n := t.newsAt now
  let old := t.pend.take (t.pend.length - n)
  let new := t.pend.drop (t.pend.length - n)
  { t with
    pend := old ++ (new.filter fun g => g.src.toNat ≤ k.src.toNat) ++ k :: new.filter fun g => k.src.toNat < g.src.toNat
    heard := now
    news := n + 1 }

/-- Whether the first asynchronous trap of a strand is due: from the cycle after its detection (R388). -/
def Strand.asyncRipe (t : Strand) (now : Nat) : Bool := t.newsAt now < t.pend.length

/-- Records an asynchronous trap, to be taken at the strand's next issue opportunity (R388). -/
def addAsync (i : StrandId) (k : TrapRec) (s : State) : State := s.modStrand i fun t => t.hear k s.now

/-- The resume address of a trap: XPC with its high bits of XXHI (R389). -/
def TrapRegs.resume (r : TrapRegs) : Addr := BitVec.ofNat 80 (r.pc.toNat + r.xhi.toNat % 2 ^ 16 * 2 ^ 64)

/-- Whether a return from the strand's level discards the vector queue (R389). -/
def Strand.quits (t : Strand) : Bool := (match t.level with | .M => t.mt | _ => t.st).stat.getLsbD 3

/-- The strand after a return from the trap registers of its level (R389): PPL restored, INH cleared, the held queue restarted
or, with QDISC, discarded. The resume address is taken as it stands: whether one that is no multiple of 4 traps, the spec does not say (log entry 63). -/
def Strand.trapReturn (t : Strand) : Strand :=
  let back (_ : TrapRegs) : Strand := if t.quits then { t.discardQueue with held := false } else { t with held := false }
  match t.level with
  | .M => { back t.mt with mt := { t.mt with stat := t.mt.stat &&& ~~~ 12#64 }, level := Level.ofCode (t.mt.stat.toNat % 4), pc := t.mt.resume }
  | _ => { back t.st with st := { t.st with stat := t.st.stat &&& ~~~ 12#64 }, level := Level.ofCode (t.st.stat.toNat % 4), pc := t.st.resume }

/-- A new age stamp of a core, larger than every other (R85). -/
def newStamp (c : CoreId) (s : State) : Nat × State :=
  let n := (s.core c).stamp + 1
  (n, s.modCore c fun k => { k with stamp := n })

end Sys2Proof.Machine
end

