-- ==== Sys2Proof/Machine/Regs.lean ====
section
/-! DEFINITION. The register blocks of the device address space (R418, R419): configuration ports (R365), the trace control block
(R408), LATTOL and PWRSTAT (R402), link port status (R425). -/

namespace Sys2Proof.Machine

open Sys2Proof

/-- The exit latency of a low-power state in units of 0.05 us (R402). -/
def Power.exit : Power → Nat
  | .active => 0
  | .gated => 1
  | .retention => 160
  | .off => 2400

/-- The deepest state whose exit latency a latency tolerance in us permits (R402); tolerance 0 keeps a tile active. -/
def deepest (lattol : BitVec 20) : Power :=
  let n := lattol.toNat * 20
  if lattol = 0 then .active else if 2400 ≤ n then .off else if 160 ≤ n then .retention else .gated

/-- A write to LATTOL raises each tile in a deeper state to the deepest state now permitted (R402). -/
def writeLattol (q : BitVec 2) (v : BitVec 20) (s : State) : State :=
  let s := s.modQuad q fun d => { d with lattol := v }
  { s with tiles := s.tiles.map fun (t, u) =>
      if t.quad = q && (deepest v).exit < u.power.exit then (t, { u with power := deepest v }) else (t, u) }

/-- The number of enabled tiles of a quadrant in a power state. -/
def State.inPower (s : State) (q : BitVec 2) (p : Power) : Nat :=
  ((tilesOf q).filter fun t => s.enabled t && (s.tile t).power = p).length

/-- PWRSTAT (R402). -/
def State.pwrstat (s : State) (q : BitVec 2) : Word :=
  BitVec.ofNat 64 (s.inPower q .active + s.inPower q .gated * 2 ^ 8 + s.inPower q .retention * 2 ^ 16 + s.inPower q .off * 2 ^ 24)

/-- The GO write of the trace control block (R416): it resumes the named strand if it is stopped, and one that a swap-out of this very cycle has found
stopped is saved as resumed. -/
def debugGo (q : BitVec 2) (tile : BitVec 7) (slot : BitVec 3) (s : State) : State :=
  let i : StrandId := ⟨.tile ⟨q, tile⟩, slot⟩
  let t := s.strand i
  if t.status = .blocked .debug || (t.status ≠ .free && t.brk.held = some s.now)
  then s.setStrand i { t with status := .running, brk := { t.brk with pass := some t.pc, held := none } }
  else s

/-- Merges the bytes of a write into the old value of a read-write field. -/
def mergeBits (old mask v : Word) : Word := (old &&& ~~~ mask) ||| (v &&& mask)

/-- Reads a 64-bit register of a configuration port (R365). -/
def CfgPort.read (p : CfgPort) (off : Nat) : Word :=
  match off with
  | 0x00 => p.addr.setWidth 64
  | 0x08 => (p.addr >>> 64).setWidth 64
  | 0x10 => BitVec.ofNat 64 (p.op.toNat + p.mask.toNat * 2 ^ 4)
  | 0x18 => BitVec.ofNat 64 (p.result.toNat + (if p.ign then 2 ^ 62 else 0) + (if p.busy then 2 ^ 63 else 0))
  | _ => 0

/-- Writes a 64-bit register of a configuration port (R365): a write of OP starts a command, or sets IGN while one is in progress. -/
def CfgPort.write (p : CfgPort) (off : Nat) (mask v : Word) (now : Nat) (keys : Keys) : CfgPort :=
  match off with
  | 0x00 => { p with addr := (p.addr >>> 64 <<< 64) ||| (mergeBits (p.addr.setWidth 64) mask v).setWidth 80 }
  | 0x08 => { p with addr := ((mergeBits ((p.addr >>> 64).setWidth 64) mask v).setWidth 80 <<< 64) ||| (p.addr.setWidth 64).setWidth 80 }
  | 0x10 =>
    let w := mergeBits (p.read 0x10) mask v
    let p' := { p with op := w.setWidth 2, mask := (w >>> 4).setWidth 4 }
    if mask.getLsbD 0 = false then p'
    else if p.busy then { p' with ign := true }
    else if p'.op = 3 then p'
    else { p' with busy := true, start := now, cmd := p'.op, target := p.addr, which := p'.mask, keys := keys }
  | 0x18 => if mask.getLsbD 62 && v.getLsbD 62 then { p with ign := false } else p
  | _ => p

/-- Reads a 64-bit register of the trace control block (R408). -/
def Trace.read (tr : Trace) (off : Nat) : Word :=
  match off with
  | 0x00 => tr.base.setWidth 64
  | 0x08 => BitVec.ofNat 64 (tr.log2n.toNat + tr.pipeen.toNat * 2 ^ 8 + tr.typeen.toNat * 2 ^ 16 + tr.sampint.toNat * 2 ^ 32)
  | 0x10 => tr.tileen.setWidth 64
  | 0x18 => BitVec.ofNat 64 (tr.tileen.toNat / 2 ^ 64 + (if tr.ccen then 2 ^ 8 else 0))
  | 0x20 => BitVec.ofNat 64 (tr.tile.toNat + tr.strand.toNat * 2 ^ 7)
  | _ => 0

/-- Writes a 64-bit register of the trace control block (R408, R416). -/
def writeTrace (q : BitVec 2) (off : Nat) (mask v : Word) (s : State) : State :=
  let tr := (s.quad q).trace
  let put (tr : Trace) (s : State) : State := s.modQuad q fun d => { d with trace := tr }
  let w := mergeBits (tr.read off) mask v
  let ring := s.globalPa tr.base.toNat
  let held := tr.log2n != 0 && s.word64 ring != s.word64 (ring + 16)
  match off with
  | 0x00 => if held then s else put { tr with base := w.setWidth 56 } s
  | 0x08 =>
    let log2n := if held then tr.log2n else w.setWidth 5
    let s := put { tr with log2n := log2n, pipeen := (w >>> 8).setWidth 8, typeen := (w >>> 16).setWidth 5,
                           sampint := (w >>> 32).setWidth 32 } s
    if tr.log2n = 0 && log2n != 0 then oweSync q s else s
  | 0x10 => put { tr with tileen := (tr.tileen >>> 64 <<< 64) ||| w.setWidth 72 } s
  | 0x18 => put { tr with tileen := (w.setWidth 72 <<< 64) ||| (tr.tileen.setWidth 64).setWidth 72, ccen := w.getLsbD 8 } s
  | 0x20 =>
    let s := put { tr with tile := w.setWidth 7, strand := (w >>> 7).setWidth 3 } s
    if mask.getLsbD 10 && v.getLsbD 10 then debugGo q (w.setWidth 7) ((w >>> 7).setWidth 3) s else s
  | _ => s

/-- Reads the 64-bit register of a quadrant block at a multiple of 8 (R419). A configuration port of a disabled tile reads 0, as R419 has it, where R13
raises TILE_DISABLED for a disabled tile's registers: the model's choice (log entry 62). -/
def readQuadReg (q : BitVec 2) (off : Nat) (s : State) : Word :=
  if off < 0x1200 then
    let t : TileId := ⟨q, BitVec.ofNat 7 (off / 0x40)⟩
    if s.enabled t then (s.tile t).port.read (off % 0x40) else 0
  else if 0x2000 ≤ off && off < 0x2028 then (s.quad q).trace.read (off - 0x2000)
  else if off = 0x3000 then (s.quad q).lattol.setWidth 64
  else if off = 0x3008 then s.pwrstat q
  else 0

/-- Writes the 64-bit register of a quadrant block at a multiple of 8 (R419). -/
def writeQuadReg (q : BitVec 2) (off : Nat) (mask v : Word) (s : State) : State :=
  if off < 0x1200 then
    let t : TileId := ⟨q, BitVec.ofNat 7 (off / 0x40)⟩
    if s.enabled t then s.modTile t fun u => { u with port := u.port.write (off % 0x40) mask v s.now (s.quad q).keys } else s
  else if 0x2000 ≤ off && off < 0x2028 then writeTrace q (off - 0x2000) mask v s
  else if off = 0x3000 then writeLattol q ((mergeBits ((s.quad q).lattol.setWidth 64) mask v).setWidth 20) s
  else s

/-- The status word of a link port (R425). -/
def LinkPort.word (p : LinkPort) : Word :=
  BitVec.ofNat 64 (p.state.toNat + p.lanes.toNat * 2 ^ 2 + p.retrain.toNat * 2 ^ 8 + p.replay.toNat * 2 ^ 24)

/-- Reads the 64-bit register of the device block at a multiple of 8 (R419): link port status, the attestation mailbox's window (to
which the manual gives no layout, log entry 56), and zero elsewhere. -/
def readDevReg (off : Nat) (s : State) : Word :=
  if off < 0x1000 then (if off % 0x100 = 0 then (s.dev.ports.get (portIndex (off / 0x100))).word else 0)
  else if 0x10000 ≤ off && off < 0x20000 then Config.mailbox s.now off
  else 0

/-- Writes the 64-bit register of the device block at a multiple of 8: REPLAY clears where ones are written (R425). -/
def writeDevReg (off : Nat) (mask v : Word) (s : State) : State :=
  if off < 0x1000 && off % 0x100 = 0 then
    let k := portIndex (off / 0x100)
    let p := s.dev.ports.get k
    let w := ((v &&& mask) >>> 24).setWidth 24
    { s with dev := { s.dev with ports := s.dev.ports.set k { p with replay := p.replay &&& ~~~ w } } }
  else s

/-- The mask of the bytes that an access of a size at an offset covers within its 64-bit register. -/
def byteMask (off size : Nat) : Word := BitVec.ofNat 64 ((2 ^ (8 * size) - 1) * 2 ^ (8 * (off % 8)))

/-- Reads `size` bytes (a naturally aligned access of at most 8) of a register block. -/
def readReg (r : Region) (size : Nat) (s : State) : Nat :=
  match r with
  | .quadBlock q off => field (readQuadReg q (off / 8 * 8) s).toNat (8 * (off % 8)) (8 * size)
  | .devBlock off => field (readDevReg (off / 8 * 8) s).toNat (8 * (off % 8)) (8 * size)
  | _ => 0

/-- Writes `size` bytes (a naturally aligned access of at most 8) of a register block. -/
def writeReg (r : Region) (size v : Nat) (s : State) : State :=
  match r with
  | .quadBlock q off => writeQuadReg q (off / 8 * 8) (byteMask off size) (BitVec.ofNat 64 (v * 2 ^ (8 * (off % 8)))) s
  | .devBlock off => writeDevReg (off / 8 * 8) (byteMask off size) (BitVec.ofNat 64 (v * 2 ^ (8 * (off % 8)))) s
  | _ => s

end Sys2Proof.Machine
end

