-- ==== Sys2Proof/Machine/Access.lean ====
section
/-! DEFINITION. The Crucible's installs (R271, R272), channel tags (R222 to R225), tagged writes (R422), and the reads and writes of translated places whatever they
name: byte storage, register blocks, the tagged-write window, memory of other devices. -/

namespace Sys2Proof.Machine

open Sys2Proof

/-! ### The Crucible's installs (R271, R272) -/

/-- The content of a data entry: that of any line whose tag points to it. -/
def State.entryContent (s : State) (c : Crucible) (k : Nat) : Option (List Byte) :=
  (c.tags.find? (·.ptr = some k)).map fun t => s.mem.bytes (128 * t.line) 128

/-- The pointer of a line's tag at its installation (R272), with the Crucible after it: the zero entry, a sharer's entry, or a fresh one. The collisions and
refused entries are counted, one for each entry met, where no sharer is found and a fresh entry is taken; what is counted on the way to a sharer, R276
does not say (log entry 101). -/
def installPtr (s : State) (key : BitVec 256) (ddid : BitVec 16) (bs : List Byte) (c : Crucible) : Option Nat × Crucible :=
  let fresh (h : Option Word) (c : Crucible) : Option Nat × Crucible :=
    (some c.freshIndex, { c with entries := amSet c.freshIndex ⟨1, ddid, h⟩ c.entries })
  if bs.all (· = 0) then (none, c)
  else if ddid = 0 then fresh none c
  else
    let h := Config.crucibleHash key ddid bs
    let found := c.entries.filter fun (_, e) => e.hash = some h && e.ddid = ddid
    match found.find? fun (k, e) => s.entryContent c k = some bs && e.count < 16383 with
    | some (k, e) => (some k, { c with entries := amSet k { e with count := e.count + 1 } c.entries })
    | none =>
      let full := (found.filter fun (k, _) => s.entryContent c k = some bs).length
      fresh (some h) { c with refused := c.refused + BitVec.ofNat 64 full, collide := c.collide + BitVec.ofNat 64 (found.length - full) }

/-- A line of this device's memory enters the data array (R272) under the DDID of the latest access to it (R271, log entry 70); its tag is modified
where a modified copy of it stands. -/
def installLine (line : Nat) (s : State) : State :=
  if !s.homed line then s
  else
    let q := homeQuad line
    let s := modCrucible line (·.dropTag line) s
    let s := makeRoom q line (fun c => c.tagRoom && c.entryRoom) s
    let ddid := (amGet line s.domains).getD 0
    let dirty := s.home.any fun h => h.line = line && !h.stale
    let (p, c) := installPtr s (s.quad q).crkey ddid (s.mem.bytes (128 * line) 128) (s.quad q).crucible
    s.modQuad q fun v => { v with crucible := { c with tags := ⟨line, if dirty then .modified else .shared, ddid, dirty, p⟩ :: c.tags } }

/-- The lines of memory among those that a completed sector wrote are installed (R272). -/
def installLines (ls : List Line) (s : State) : State :=
  ls.foldl (fun s l => match l with | .mem n => installLine n s | _ => s) s

/-! ### Channel tags -/

/-- A channel tag of a tile. -/
def Tile.tag (t : Tile) (ch : BitVec 6) : Tag := (amGet ch.toNat t.tags).getD {}

/-- Replaces a channel tag. -/
def setTag (t : TileId) (ch : BitVec 6) (g : Tag) (s : State) : State :=
  s.modTile t fun v => { v with tags := amSet ch.toNat g v.tags }

/-- Whether a slot's strand can take a trap: it is neither Free nor Exiting. -/
def Status.alive : Status → Bool
  | .running => true
  | .blocked _ => true
  | _ => false

/-- The trap of an engine (R387, R392). -/
def engineRec (src : BitVec 3) (t : Strand) (cause : BitVec 8) (tvpc taddr : Addr) (detail : Word) : TrapRec :=
  ⟨cause, src, true, t.pc, tvpc, taddr, detail⟩

/-- BARRIER_OVERRUN delivered to a tag's owner (R225); where the owner has left its slot, the tag alone records it. -/
def overrun (t : TileId) (ch : BitVec 6) (g : Tag) (s : State) : State :=
  let i : StrandId := ⟨.tile t, g.owner⟩
  if !g.left && (s.strand i).status.alive then
    addAsync i (engineRec 2 (s.strand i) cBarrierOverrun 0 0 (BitVec.ofNat 64 (ch.toNat * 2 ^ 8))) s
  else s

/-- A phase completes (R223). -/
def Tag.completePhase (g : Tag) : Tag := { g with arr := 0, posted := false, phase := !g.phase, phases := g.phases + 1 }

/-- The stream or Riddle job of a tag completes: BUSY is cleared (R195, R223). -/
def Tag.complete (g : Tag) : Tag := { g with busy := false, ends := g.ends + 1 }

/-- `n` bytes arrive at a tag (R222, R223, R225). -/
def Tag.arrive (g : Tag) (n : Nat) : Tag × Bool :=
  if g.frozen then (g, false)
  else
    let a := min (g.arr.toNat + n) (2 ^ 32 - 1)
    if g.posted && a = g.exp.toNat then (g.completePhase, false)
    else if g.posted && g.exp.toNat < a then ({ g with arr := BitVec.ofNat 32 a, frozen := true }, true)
    else ({ g with arr := BitVec.ofNat 32 a }, false)

/-- Bytes arrive at a tag of a tile; an overrun is delivered to the owner. -/
def arrive (t : TileId) (ch : BitVec 6) (n : Nat) (s : State) : State :=
  let g := (s.tile t).tag ch
  let (g', late) := g.arrive n
  let s := setTag t ch g' s
  if late then overrun t ch g s else s

/-! ### Tagged writes -/

/-- A tagged write (R422): discarded whole where the tile is disabled or holds no team or a byte lies beyond TMEM; otherwise the
bytes, then the full bits of the granules it covers wholly, then the count. -/
def taggedWrite (off : Nat) (bs : List Byte) (s : State) : State :=
  let o := off % 2 ^ 22
  let ch := BitVec.ofNat 6 (off / 2 ^ 22)
  let t : TileId := ⟨BitVec.ofNat 2 (off / 2 ^ 35), BitVec.ofNat 7 (off / 2 ^ 28)⟩
  if !s.enabled t || (s.tile t).res.isNone || (s.tile t).life != .resident || 0x300000 < o + bs.length then s
  else (arrive t ch bs.length (setFullWhole t o bs.length (writeTmem none t o bs s))).modTile t fun v => { v with tagged := some s.now }

/-! ### Reading and writing a translated place -/

/-- Whether a region is byte storage. -/
def Region.storage : Region → Bool
  | .hbm => true
  | .cxl => true
  | _ => false

/-- Whether an offset of the device block lies in the attestation mailbox (R419). -/
def inMailbox (off : Nat) : Bool := 0x10000 ≤ off && off < 0x20000

/-- A write into the attestation mailbox (R431), whose window has no stated layout: whether it issues a command is free (log entry 56). -/
def ask (who : Asker) (s : State) : State :=
  let (w, s) := s.fresh
  if w.getLsbD 0 then { s with dev := { s.dev with asks := s.dev.asks ++ [who] } } else s

/-- A write of the host to a register (R420, R431). -/
def barReg (r : Region) (bs : List Byte) (s : State) : State :=
  match r with
  | .devBlock off => if inMailbox off then ask .host s else writeReg r bs.length (leNat bs) s
  | _ => writeReg r bs.length (leNat bs) s

/-- The little-endian value of `n` bytes at a place (mem.read, R156): a failing line, or an error response of another device's
register block, gives MACHINE_CHECK; the tagged-write window reads zero (R422). -/
def readPhys (p : Phys) (n : Nat) (s : State) : Except Flt Nat :=
  match p.loc with
  | .tmem t o => if s.poisoned p.loc n then .error ⟨cMachineCheck, 0, 0⟩ else .ok (leNat ((s.tile t).tmem.bytes o n))
  | .mem a =>
    if s.reach p.loc = .lost then .error ⟨cMachineCheck, 0, 0⟩
    else match regionOf (localOf a) with
      | .tagged _ => .ok 0
      | .quadBlock q off => if s.own a then .ok (readReg (.quadBlock q off) n s) else .error ⟨cMachineCheck, 0, 0⟩
      | .devBlock off => if s.own a then .ok (readReg (.devBlock off) n s) else .error ⟨cMachineCheck, 0, 0⟩
      | _ => if s.poisoned p.loc n then .error ⟨cMachineCheck, 0, 0⟩ else .ok (leNat (s.mem.bytes a n))

/-- A write of bytes to a place (mem.write, R156). The mailbox takes an untranslated write for one of level M, a translated one for one of level S. -/
def writePhys (keep : Option StrandId) (p : Phys) (bs : List Byte) (s : State) : State :=
  match p.loc with
  | .tmem t o => writeTmem keep t o bs s
  | .mem a =>
    if s.reach p.loc = .lost then errorRecord 0 3 127 0 0 a s
    else match regionOf (localOf a) with
      | .tagged off => if s.own a then taggedWrite off bs s else s
      | .quadBlock q off => if s.own a then writeReg (.quadBlock q off) bs.length (leNat bs) s else s
      | .devBlock off =>
        if !s.own a then s
        else if inMailbox off then ask (if p.under.isNone then .levelM else .levelS) s
        else writeReg (.devBlock off) bs.length (leNat bs) s
      | _ => writeMem keep a bs s

/-- Sets the full bits that an engine's write of `n` bytes at a place sets (R169, R262): none outside TMEM. -/
def markFull (l : Loc) (n : Nat) (s : State) : State :=
  match l with
  | .tmem t o => setFull t o n s
  | .mem _ => s

/-- Writes a nibble of the byte at a place (mem.writenib, R156). -/
def writeNib (p : Phys) (high : Bool) (v : Nat) (s : State) : State :=
  let old := leNat (s.bytesAt p.loc 1)
  let b := if high then v % 16 * 16 + old % 16 else old / 16 * 16 + v % 16
  writePhys none p (leBytes 1 b) s

end Sys2Proof.Machine
end

