-- ==== Sys2Proof/Machine/Operands.lean ====
section
/-! DEFINITION. Operand forms beyond plain registers: the qualifier of a two-parcel memory form (R36), the effective address of a scalar access
(R107), and the third operand that a vector-class instruction captures at issue (R141, R145). -/

namespace Sys2Proof.Machine

open Sys2Proof

/-- The acquire scope of a qualifier, 0 for none (R36). -/
def Qual.acq (q : Qual) : BitVec 3 := if q.kind = 1 || q.kind = 3 then q.scope else 0

/-- The release scope of a qualifier, 0 for none (R36). -/
def Qual.rel (q : Qual) : BitVec 3 := if q.kind = 2 || q.kind = 3 then q.scope else 0

/-- The plain qualifier of the one-parcel forms. -/
def plainQual : Qual := ⟨0, 0, 0⟩

/-- The effective address of the scalar memory form (R107): the offset counts the access size. -/
def scalarEa (t : Strand) (a : BitVec 4) (o : BitVec 12) (size : Nat) : Addr := t.ar a + sext80 o * BitVec.ofNat 80 size

/-- A captured x register of an element-wise instruction (R141). -/
def capture (x : BitVec 5) (t : Strand) : VSrc := .const (t.xr x)

/-- A signed imm5 (R145). -/
def immS (i : BitVec 5) : VSrc := .const (sext64 i)

/-- An unsigned imm5 (R145). -/
def immU (i : BitVec 5) : VSrc := .const (zext64 i)

end Sys2Proof.Machine
end

