-- ==== Sys2Proof/Machine/Translate.lean ====
section
/-! DEFINITION. Translation (R383, R396 to R400), the TMEM window (R167) and the address map's checks (R418). -/

namespace Sys2Proof.Machine

open Sys2Proof

/-- On whose behalf an access is translated: the core, the level, and the translation context read for it. -/
structure Xl where
  core  : CoreId
  level : Level
  ctx   : Option CtxEntry
  deriving DecidableEq, Repr

/-- What stands for a fault where a walk must wait for a link port (R426): it is never delivered. -/
def Flt.waiting : Flt := ⟨0, 0, 0⟩

/-- The fault to deliver, none for a wait. -/
def Flt.deliver (f : Flt) : Option Flt := if f = .waiting then none else some f

/-- The fault of an absent or protected address: fetches have their own causes (R398). -/
def absentFlt (acc : Access) (va : Addr) (code lvl : Nat) : Flt :=
  ⟨if acc = .fetch then cFetchAbsent else cAbsent, va, BitVec.ofNat 64 (code + lvl * 2 ^ 56)⟩

/-- The fault of a denied access. -/
def protectFlt (acc : Access) (va : Addr) (code lvl : Nat) : Flt :=
  ⟨if acc = .fetch then cFetchNoExec else cProtect, va, BitVec.ofNat 64 (code + lvl * 2 ^ 56)⟩

/-- The walk level of a held leaf (R398, R400). -/
def TlbEntry.lvl (h : TlbEntry) : Nat := if h.bits = 30 then 3 else 4

/-- The fault of a place whose page bars an access (R398): code 4 where it allows no reservation, 5 where it is of device class. -/
def Phys.barred (p : Phys) (va : Addr) (code : Nat) : Flt := protectFlt .read va code (p.under.elim 0 TlbEntry.lvl)

/-- Where a translation context entry lies (R396). -/
def State.ctxPlace (s : State) (q : BitVec 2) (n : BitVec 16) : Nat := s.globalPa ((s.quad q).ctxbase.toNat % 2 ^ 56 + 32 * n.toNat)

/-- Whether the read of a translation context entry meets an uncorrectable error (R393, R396). -/
def State.ctxPoisoned (s : State) (q : BitVec 2) (n : BitVec 16) : Bool :=
  decide (n.toNat < (s.quad q).ctxcnt.toNat % 2 ^ 17) && s.poisoned (.mem (s.ctxPlace q n)) 32

/-- Reads a translation context entry (R396). -/
def State.ctxEntry (s : State) (q : BitVec 2) (n : BitVec 16) : Option CtxEntry :=
  let qd := s.quad q
  if qd.ctxcnt.toNat % 2 ^ 17 ≤ n.toNat then none
  else
    let e := leNat (s.mem.bytes (s.ctxPlace q n) 32)
    if field e 0 1 = 1 && field e 1 16 = 0 && field e 77 3 = 0 && field e 112 144 = 0
    then some ⟨true, BitVec.ofNat 60 (field e 17 60), BitVec.ofNat 16 (field e 80 16), BitVec.ofNat 16 (field e 96 16)⟩
    else none

/-- An entry that stands for a read that found its context invalid (R396). -/
def CtxEntry.invalid : CtxEntry := ⟨false, 0, 0, 0⟩

/-- The view a strand translates by. A control-core strand's entry is read at its first translated access (R396); one whose read fails stands for no
context, and the access takes MACHINE_CHECK (R393). -/
def strandXl (i : StrandId) (s : State) : Xl × State :=
  let t := s.strand i
  match t.level, t.ctx with
  | .M, _ => (⟨i.core, .M, none⟩, s)
  | l, some c => (⟨i.core, l, some c⟩, s)
  | l, none =>
    if s.ctxPoisoned (coreQuad i.core) t.ctxcur then (⟨i.core, l, none⟩, s)
    else
      let c := (s.ctxEntry (coreQuad i.core) t.ctxcur).getD .invalid
      (⟨i.core, l, some c⟩, untranslated (s.ctxPlace (coreQuad i.core) t.ctxcur) 32 (s.setStrand i { t with ctx := some c }))

/-- The first address of the TMEM window, TWB (R167). -/
def twb : Nat := 0xFFFFF000000000000000

/-- Whether an address lies in the TMEM window. -/
def inWindow (va : Addr) : Bool := twb ≤ va.toNat && va.toNat < twb + 0x20000000

/-- Resolves a TMEM-window address (R167). -/
def windowAddr (c : CoreId) (va : Addr) (acc : Access) (s : State) : Except Flt Phys :=
  let absent : Except Flt Phys := .error (absentFlt acc va 0 0)
  match coreTile c with
  | none => absent
  | some t =>
    match (s.tile t).res with
    | none => absent
    | some r =>
      let off := va.toNat - twb
      let target : Option (TileId × Nat) :=
        if 0x1C000000 ≤ off then (if off < 0x1C300000 then some (t, off - 0x1C000000) else none)
        else
          let dx := off / 0x400000 % 8
          let dy := off / 0x400000 / 8
          if off % 0x400000 < 0x300000 && dx < r.w && dy < r.h
          then some (tileAt t.quad (r.ox + dx) (r.oy + dy), off % 0x400000) else none
      match target with
      | none => absent
      | some (u, o) =>
        if acc = .fetch then .error (protectFlt acc va 0 0)
        else if !s.enabled u then .error ⟨cTileDisabled, va, 0⟩
        else .ok ⟨.tmem u o, false, 0, false, none⟩

/-- The checks of the address map on a translated address (R418): unassigned addresses, register blocks at level U, and the class
of register blocks and of the tagged-write window. The map is that of the local address, so it is the same on every device. -/
def mapChecks (lvl : Level) (acc : Access) (va : Addr) (pa : Nat) (cls : Bool) (ddid : BitVec 16) (rsvok : Bool) (walkLvl : Nat) :
    Except Flt Phys :=
  match regionOf (localOf pa) with
    | .unassigned => .error (absentFlt acc va 6 walkLvl)
    | .quadBlock _ _ => if lvl = .U then .error (protectFlt acc va 3 walkLvl) else .ok ⟨.mem pa, true, ddid, false, none⟩
    | .devBlock _ => if lvl = .U then .error (protectFlt acc va 3 walkLvl) else .ok ⟨.mem pa, true, ddid, false, none⟩
    | .tagged _ => .ok ⟨.mem pa, true, ddid, false, none⟩
    | _ => .ok ⟨.mem pa, cls, ddid, rsvok, none⟩

/-- Level M: no translation (R383). -/
def levelMAddr (acc : Access) (va : Addr) : Except Flt Phys :=
  if 2 ^ 77 ≤ va.toNat then .error (absentFlt acc va 0 0)
  else
    let dev := 0x8000000000 ≤ localOf va.toNat
    mapChecks .M acc va va.toNat dev 0 (!dev) 0

/-- Whether the rights of a leaf entry allow an access (R383). -/
def rightsOk (lvl : Level) (acc : Access) (e : BitVec 128) : Bool :=
  let u := e.getLsbD 5
  match acc with
  | .read => e.getLsbD 2 && (u || lvl != .U)
  | .write => e.getLsbD 3 && (u || lvl != .U)
  | .fetch => e.getLsbD 4 && (if lvl = .U then u else !u)

/-- The index of a virtual address at a walk level (R398). -/
def walkIndex (va : Addr) (lvl : Nat) : Nat :=
  match lvl with
  | 0 => field va.toNat 69 11
  | 1 => field va.toNat 56 13
  | 2 => field va.toNat 43 13
  | 3 => field va.toNat 30 13
  | _ => field va.toNat 17 13

/-- Whether an entry is malformed at a level (R397, R398). -/
def badEntry (e : BitVec 128) (lvl : Nat) : Bool :=
  let leaf := e.getLsbD 1
  field e.toNat 13 4 != 0 || field e.toNat 77 51 != 0 || (leaf && lvl < 3) || (!leaf && lvl = 4) ||
  (leaf && e.getLsbD 3 && !e.getLsbD 2) || (lvl = 3 && leaf && field e.toNat 17 13 != 0)

/-- The table entry at an address as a walk reads it (R398), by the checks of the map, the link ports and failing lines (R393, R418, R426). -/
def readEntry (acc : Access) (va : Addr) (ea lvl : Nat) (s : State) : Except Flt (BitVec 128) :=
  if s.reach (.mem ea) = .wait then .error .waiting
  else if regionOf (localOf ea) = .unassigned then .error (absentFlt acc va 6 lvl)
  else match readPhys ⟨.mem ea, false, 0, false, none⟩ 16 s with
    | .error _ => .error ⟨cMachineCheck, va, 0⟩
    | .ok v => .ok (BitVec.ofNat 128 v)

/-- The walk (R398) from a table at a level on: the leaf, its level and its own address. -/
def walk (acc : Access) (va : Addr) (s : State) : Nat → Nat → Nat → Except Flt (BitVec 128 × Nat × Nat)
  | 0, _, lvl => .error (absentFlt acc va 2 lvl)
  | n + 1, table, lvl =>
    let ea := table + 16 * walkIndex va lvl
    match readEntry acc va ea lvl s with
    | .error f => .error f
    | .ok e =>
      if !e.getLsbD 0 then .error (absentFlt acc va 1 lvl)
      else if badEntry e lvl then .error (absentFlt acc va 2 lvl)
      else if e.getLsbD 1 then .ok (e, lvl, ea)
      else walk acc va s n (field e.toNat 17 60 * 2 ^ 17) (lvl + 1)

/-- The addresses of the entries that a walk reads, as far as they lead on. -/
def walkEntries (acc : Access) (va : Addr) (s : State) : Nat → Nat → Nat → List Nat
  | 0, _, _ => []
  | n + 1, table, lvl =>
    let ea := table + 16 * walkIndex va lvl
    ea :: match readEntry acc va ea lvl s with
      | .error _ => []
      | .ok e => if !e.getLsbD 0 || badEntry e lvl || e.getLsbD 1 then [] else walkEntries acc va s n (field e.toNat 17 60 * 2 ^ 17) (lvl + 1)

/-- The bits of the offset within a page of a level. -/
def pageBits (lvl : Nat) : Nat := if lvl = 3 then 30 else 17

/-- A leaf entry with A, and D for a write, set (R398). -/
def markLeaf (e : BitVec 128) (acc : Access) : BitVec 128 := e ||| (if acc = .write then 0x180#128 else 0x80#128)

/-- Whether a held translation serves an access (R400): its page, its address space, and D for a write. -/
def TlbEntry.serves (h : TlbEntry) (va : Addr) (asid : BitVec 16) (acc : Access) : Bool :=
  h.vpage = va.toNat / 2 ^ h.bits && (h.glob || h.asid = asid) && (acc != .write || h.entry.getLsbD 8)

/-- Enters a translation into a TLB of a size (R400). The organisation of a TLB and its replacement are free: a fill of a full one loses a held
translation, and any fill may lose one. -/
def tlbPut (cap : Nat) (h : TlbEntry) (w : Word) (l : List TlbEntry) : List TlbEntry :=
  let l := l.filter fun g => !(g.vpage = h.vpage && g.bits = h.bits && g.asid = h.asid)
  if l.length < cap && !w.getLsbD 0 then h :: l else (h :: l.eraseIdx (w.toNat / 2 % l.length)).take cap

/-- The aligned group of 128 level-4 entries that holds the entry at an address (R399); one that cannot be read counts as zero (R393). -/
def contGroup (ea : Nat) (s : State) : List Nat :=
  (List.range 128).map fun k =>
    match readEntry .read 0 (ea / 2048 * 2048 + 16 * k) 4 s with
    | .ok e => e.toNat
    | .error _ => 0

/-- Whether a group of entries is consistent (R399). -/
def contConsistent (g : List Nat) : Bool :=
  let e := g.getD 0 0
  field e 17 60 % 128 = 0 &&
  (g.mapIdx fun k v => v.testBit 9 && v % 2 ^ 17 = e % 2 ^ 17 && field v 17 60 = field e 17 60 + k).all id

/-- The entries of a group whose frame an access may take in place of its own (R399): the leaves with CONT = 1. -/
def contLeaves (g : List Nat) : List Nat := (List.range 128).filter fun k => (g.getD k 0).testBit 9 && (g.getD k 0) % 4 = 3

/-- The frame of a held leaf for one access (R399): its own; in an inconsistent group in which an entry has CONT = 1, its own or that of such an entry,
moved by the distance of their pages, by free choice. -/
def leafFrame (h : TlbEntry) (s : State) : Nat × State :=
  let own := field h.entry.toNat 17 60
  let g := contGroup h.base s
  if h.bits ≠ 17 || (contLeaves g).isEmpty || contConsistent g then (own, s)
  else
    let n := h.base % 2048 / 16
    let cs := n :: (contLeaves g).filter (· ≠ n)
    let (w, s) := s.fresh
    let k := cs.getD (w.toNat % cs.length) n
    (if k = n then own else (field (g.getD k 0) 17 60 + n + 2 ^ 60 - k) % 2 ^ 60, s)

/-- Finishes a translation by a held leaf: rights, frame, class, domain, and the map's checks. -/
def leafPhys (lvl : Level) (acc : Access) (va : Addr) (h : TlbEntry) (s : State) : Except Flt (Phys × State) :=
  let e := h.entry
  if !rightsOk lvl acc e then .error (protectFlt acc va 3 h.lvl)
  else
    let (frame, s) := leafFrame h s
    let pa := (frame * 2 ^ 17 + va.toNat % 2 ^ h.bits) % 2 ^ 77
    (mapChecks lvl acc va pa (e.getLsbD 12) (if e.getLsbD 11 then h.ddid else 0) (e.getLsbD 10) h.lvl).map fun p =>
      ({ p with under := some h }, s)

/-- Counts a TLB miss and a walk (R417). -/
def countMiss (c : CoreId) (tileMiss quadMiss : Bool) (s : State) : State :=
  let s := match c with
    | .tile t => if tileMiss then s.modTile t fun v => { v with counts := v.counts.set 8 (v.counts[8] + 1) } else s
    | .control _ => s
  if quadMiss then s.modQuad (coreQuad c) fun q => { q with counts := (q.counts.set 1 (q.counts[1] + 1)).set 2 (q.counts[2] + 1) } else s

/-- Walks for an access through a valid context, marks the leaf, and fills the TLBs (R398, R400). A leaf outside byte storage, where no atomic update is
possible, is not marked (log entry 95). -/
def walkFill (x : Xl) (c : CtxEntry) (acc : Access) (va : Addr) (s : State) : Except Flt (TlbEntry × State) :=
  match walk acc va s 5 (c.root.toNat * 2 ^ 17) 0 with
  | .error f => .error f
  | .ok (e, lvl, ea) =>
    if !rightsOk x.level acc e then .error (protectFlt acc va 3 lvl)
    else
      let e' := markLeaf e acc
      let s := (walkEntries acc va s 5 (c.root.toNat * 2 ^ 17) 0).foldl (fun s a => untranslated a 16 s) s
      let s := if e' = e || !(regionOf (localOf ea)).storage then s else hwWrite ea (leBytes 16 e'.toNat) s
      let h : TlbEntry := ⟨va.toNat / 2 ^ pageBits lvl, pageBits lvl, c.asid, e'.getLsbD 6, e', ea, c.ddid⟩
      let (w, s) := s.fresh
      let s := s.modQuad (coreQuad x.core) fun q => { q with tlb := tlbPut 16384 h w q.tlb }
      let (w, s) := s.fresh
      let s := match x.core with
        | .tile t => s.modTile t fun v => { v with tlb := tlbPut 64 h w v.tlb }
        | .control _ => s
      .ok (h, s)

/-- The held translation that serves an access, with which TLBs missed. -/
def State.tlbFind (s : State) (x : Xl) (c : CtxEntry) (acc : Access) (va : Addr) : Option TlbEntry × Bool :=
  let look := fun (l : List TlbEntry) => l.find? fun h => h.serves va c.asid acc
  let tl := match x.core with | .tile t => look (s.tile t).tlb | .control _ => none
  match tl with
  | some h => (some h, false)
  | none => (look (s.quad (coreQuad x.core)).tlb, true)

/-- The translation causes of an access (R391). -/
def walkCause (cause : BitVec 8) : Bool := [cAbsent, cProtect, cFetchAbsent, cFetchNoExec, cMachineCheck].contains cause

/-- The misses and the walk of an access whose translation ends in a fault (R417). -/
def countFault (x : Xl) (cause : BitVec 8) (va : Addr) (s : State) : State :=
  if !walkCause cause || x.level = .M || inWindow va then s
  else match x.ctx with
    | none => s
    | some c =>
      let readable := match (s.tlbFind x c .read va).1 with | some h => rightsOk x.level .read h.entry | none => false
      let acc : Access := if cause = cFetchAbsent || cause = cFetchNoExec then .fetch else if cause = cProtect && readable then .write else .read
      let (hit, missed) := s.tlbFind x c acc va
      let failed := match walk acc va s 5 (c.root.toNat * 2 ^ 17) 0 with | .error _ => true | .ok _ => false
      if !c.valid || (cause = cMachineCheck && !(hit.isNone && failed)) then s else countMiss x.core missed hit.isNone s

/-- Notes the DDID of an access to a line of this device's HBM (R271). -/
def noteDomain (p : Phys) (s : State) : State :=
  match p.loc with
  | .tmem _ _ => s
  | .mem a =>
    if !s.homed (a / 128) then s
    else { s with domains := (if p.ddid = 0 then [] else [(a / 128, p.ddid)]) ++ s.domains.filter (·.1 ≠ a / 128) }

/-- The place an address names for an access, or the fault. A completed walk leaves its translation in the TLBs and its A and D bits in memory. -/
def resolve (x : Xl) (va : Addr) (acc : Access) (s : State) : Except Flt (Phys × State) :=
  if inWindow va then (windowAddr x.core va acc s).map (·, s)
  else if x.level = .M then (levelMAddr acc va).map (·, s)
  else match x.ctx with
    | none => .error ⟨cMachineCheck, va, 0⟩
    | some c =>
      if !c.valid then .error (absentFlt acc va 7 0)
      else
        let (hit, missed) := s.tlbFind x c acc va
        match hit with
        | some h => leafPhys x.level acc va h (countMiss x.core missed false s)
        | none =>
          match walkFill x c acc va (countMiss x.core true true s) with
          | .error f => .error f
          | .ok (h, s) => leafPhys x.level acc va h s

/-- translate (R156): the place an address names for an access, or the fault; the line's domain is noted (R271). -/
def translate (x : Xl) (va : Addr) (acc : Access) (s : State) : Except Flt (Phys × State) :=
  match resolve x va acc s with
  | .error f => .error f
  | .ok (p, s) => .ok (p, noteDomain p s)

end Sys2Proof.Machine
end

