-- ==== Sys2Proof/Machine/Issue.lean ====
section
/-! DEFINITION. How an instruction issues (R86, R87, R92): the shared frame of every meaning, the scoreboard, and what holds an
instruction back. -/

namespace Sys2Proof.Machine

open Sys2Proof

/-- The outcome of a step of this machine. -/
abbrev Out := Host.Outcome State Fault Refusal

/-- The length of an instruction of one, two or three parcels, in bytes. -/
abbrev one : Nat := 4
abbrev two : Nat := 8
abbrev three : Nat := 12

/-- A strand that issues an instruction: the program counter moves past it, and it is counted (R86, R409). -/
def Strand.advance (t : Strand) (len : Nat) : Strand :=
  { t with pc := t.pc + BitVec.ofNat 80 len, issued := t.issued + 1 }

/-- The state in which an instruction of a strand acts: the strand advanced, the tile's count raised, the core's slot taken. -/
def advance (i : StrandId) (len : Nat) (s : State) : State := bumpCore i.core 1 1 (takeSlot i (s.modStrand i (·.advance len)))

/-- An instruction that is not ready, or an event that is not due: nothing happens. -/
def wait (s : State) : Out := .next { s with idle := true }

/-- The vector-class instructions that an instruction at issue waits for; those of a queue held after a trap count as retired (R119, R136;
log entry 20). -/
def Strand.live (t : Strand) : List VEntry := if t.held then [] else t.queue

/-- The instructions that change `vl` in issue order (R188). -/
def VOp.shortens : VOp → Bool
  | .comp _ _ => true
  | .filt _ _ => true
  | _ => false

/-- Whether a VCOMP or VFILT of the strand has not retired, or a JOINL that its image records as satisfied has still to make its group whole: the
strand is not ready (R139, R188). -/
def Strand.shortening (t : Strand) : Bool := t.live.any fun e => e.op.shortens || e.whole

/-- The issue of an instruction by the strand that acts. `body` gets the strand, its state before issue, and the state with the
strand advanced; it answers the state after the instruction, a precise trap (nothing of the instruction happens), or a wait. `trap` takes such a trap
in the state before issue. -/
def issueWith (s : State) (len : Nat) (body : StrandId → Strand → State → Except Stop State) (trap : StrandId → TrapRec → State) : Out :=
  match s.cur with
  | .elem _ => .fault .agentMismatch
  | .strand i =>
    if (s.strand i).shortening then wait s
    else match body i (s.strand i) (advance i len s) with
    | .ok s' => .next s'
    | .error .stall => wait s
    | .error (.trap k) => .next (trap i k)

/-- The issue of an instruction, the misses and the walk of a translation that ends in its trap counted (R417). -/
def issue (s : State) (len : Nat) (body : StrandId → Strand → State → Except Stop State) : Out :=
  issueWith s len body fun i k => takeTrap i k (countFault (strandXl i s).1 k.cause k.taddr s)

/-- The issue of an engine instruction (R120), whose precise trap names it in TVPC (R385, R387). -/
def issueEngine (s : State) (len : Nat) (body : StrandId → Strand → State → Except Stop State) : Out :=
  issue s len fun i t s =>
    match body i t s with
    | .error (.trap k) => .error (.trap { k with tvpc := t.pc })
    | r => r

/-- Whether a tile works: its team is placed and has begun to issue (R314, R319, R322). -/
def Tile.works (v : Tile) : Bool := v.life = .resident && v.started

/-- Whether a tile still finishes what is in progress: while its team runs, and while it drains (R315, R319). -/
def Tile.drains (v : Tile) : Bool := v.life = .resident || v.life = .saving

/-- Whether the strands of a core issue, and its queued instructions start (R314, R319); a control core does so out of reset (R17). -/
def State.coreRuns (s : State) (c : CoreId) : Bool :=
  match c with
  | .tile t => (s.tile t).works
  | .control q => !(s.quad q).inReset

/-- An event: the state after it, or nothing where it is not due. -/
def event (s : State) (r : Option State) : Out :=
  match r with
  | some s' => .next s'
  | none => wait s

/-- The x register that a vector-class instruction writes (R131, R152, R173). -/
def VOp.xDest : VOp → Option (BitVec 5)
  | .mpopc d _ => some d
  | .mfirst d _ => some d
  | .fork d _ _ _ _ => some d
  | .ext d _ _ => some d
  | .ld (.zsb x) _ _ => some x
  | .st (.zsb x) _ _ => some x
  | _ => none

/-- Whether a vector-class instruction accesses memory: majors 0x26, 0x27 and 0x2F (R249). -/
def VOp.memory : VOp → Bool
  | .ld _ _ _ => true
  | .st _ _ _ => true
  | .amo _ _ _ _ => true
  | .camo _ _ _ _ => true
  | .gl _ _ _ => true
  | .sc _ _ _ => true
  | _ => false

/-- Whether a vector-class memory instruction loads or is an atomic (R249). -/
def VOp.loads : VOp → Bool
  | .ld _ _ _ => true
  | .amo _ _ _ _ => true
  | .camo _ _ _ _ => true
  | .gl _ _ _ => true
  | .sc _ _ _ => true
  | _ => false

/-- The first-fault load (R118, R166). -/
def VOp.firstFault : VOp → Bool
  | .ld .ff _ _ => true
  | _ => false

/-- Whether an x register carries a pending mark (R92): a scalar access or a vector-class instruction will write it, one of a held queue too (R136). -/
def Strand.pendX (t : Strand) (r : BitVec 5) : Bool :=
  r != 0 && (t.lates.any (·.d = r) || t.queue.any fun e => e.op.xDest = some r)

/-- Whether any of some x registers carries a pending mark. -/
def Strand.anyX (t : Strand) (rs : List (BitVec 5)) : Bool := rs.any t.pendX

/-- Whether vl carries a pending mark (R118). -/
def Strand.pendVl (t : Strand) : Bool := t.queue.any fun e => e.op.firstFault

/-- Whether an acquire has not returned its value (R257): no later memory access issues. -/
def Strand.acquiring (t : Strand) : Bool := t.lates.any (·.acq != 0)

/-- Whether a scalar access that was issued before a number is not performed. -/
def Strand.earlierScalar (t : Strand) (n : Nat) : Bool := t.stores.any (·.seq < n) || t.lates.any (·.seq < n)

/-- Whether an access that was issued before a number is not performed (R249, R257): what stands behind it is not visible before. -/
def Strand.earlier (t : Strand) (n : Nat) : Bool := t.earlierScalar n || t.queue.any fun e => e.op.memory && e.seq < n

/-- Whether an instruction at issue waits for an access that was issued before a number: it does not wait for a held queue (log entry 20). -/
def Strand.owing (t : Strand) (n : Nat) : Bool := t.earlierScalar n || t.live.any fun e => e.op.memory && e.seq < n

/-- Whether a releasing fence holds back stores, atomics, BARA and vector-class memory instructions (R249). -/
def Strand.releasing (t : Strand) : Bool :=
  match t.relFence with
  | none => false
  | some n => t.owing n

/-- Whether every earlier store of the strand has been performed. -/
def Strand.drained (t : Strand) : Bool := t.stores.isEmpty

/-- Waits for the x registers an instruction names. -/
def needX (t : Strand) (rs : List (BitVec 5)) : Except Stop Unit := if t.anyX rs then .error .stall else .ok ()

/-- Waits while a condition holds. -/
def holdWhile (b : Bool) : Except Stop Unit := if b then .error .stall else .ok ()

/-- Traps precisely where a condition holds. -/
def trapIf (t : Strand) (b : Bool) (f : Flt) : Except Stop Unit := if b then .error (preciseStop t f) else .ok ()

/-- An access's fault as a precise trap, or its wait. -/
def orTrap {α : Type} (t : Strand) (r : Except Flt α) : Except Stop α :=
  match r with
  | .ok v => .ok v
  | .error f => .error (if f = .waiting then .stall else preciseStop t f)

/-- An instruction that writes one x register with a value of the registers as they stand at issue. -/
def issueX (s : State) (len : Nat) (d : BitVec 5) (reads : List (BitVec 5)) (f : Strand → Word) : Out :=
  issue s len fun i t s => if t.anyX (d :: reads) then .error .stall else .ok (s.setX i d (f t))

/-- An instruction that writes one a register with a value of the registers as they stand at issue. -/
def issueA (s : State) (len : Nat) (d : BitVec 4) (reads : List (BitVec 5)) (f : Strand → Addr) : Out :=
  issue s len fun i t s => if t.anyX reads then .error .stall else .ok (s.modStrand i (·.setA d (f t)))

end Sys2Proof.Machine
end

