-- ==== Sys2Proof/Machine/ScalarMem.lean ====
section
/-! DEFINITION. Scalar loads and stores, scalar atomics, and barriers: majors 0x10 to 0x13, 0x30, and BARA and BARW (R107 to R111, R234 to
R238, R251 to R253, R434), with the store queue and the accesses whose data returns after later instructions have issued. -/

namespace Sys2Proof.Machine

open Sys2Proof

/-! ### Own stores that are still queued (R108, R256 row 1) -/

/-- The first byte of the line of a place. -/
def Loc.lineBase : Loc → Loc
  | .mem a => .mem (a / 128 * 128)
  | .tmem t o => .tmem t (o / 128 * 128)

/-- The bytes that a store-queue entry concerns: a store's own, a cache-control instruction's line. -/
def StoreEntry.span (e : StoreEntry) : Loc × Nat :=
  match e.kind with
  | .data n _ => (e.phys.loc, n)
  | _ => (e.phys.loc.lineBase, 128)

/-- Whether an entry counts as a write for reservations (R269): CFLUSH and CCLEAN count as reads. -/
def StoreKind.writes : StoreKind → Bool
  | .flush => false
  | .clean => false
  | _ => true

/-- Whether an entry concerns a byte of a range. -/
def StoreEntry.touches (e : StoreEntry) (l : Loc) (n : Nat) : Bool := e.span.1.meets e.span.2 l n

/-- The bytes that a queued store or CZERO will write, none for the other entries. -/
def StoreEntry.bytes (e : StoreEntry) : Option (List Byte) :=
  match e.kind with
  | .data n v => some (leBytes n v.toNat)
  | .zero => some (zeroBytes 128)
  | _ => none

/-- The bytes of a scalar access. -/
def LateKind.size : LateKind → Nat
  | .load n _ => n
  | .atomic _ n _ _ => n
  | .arrive => 8

/-- Whether an access counts as a write for reservations (R220). -/
def LateKind.writes : LateKind → Bool
  | .load _ _ => false
  | _ => true

/-- A scalar access that is not performed, as the order of a strand's accesses sees it. -/
structure Owed where
  seq    : Nat
  rel    : Bool
  device : Bool
  span   : Loc × Nat
  writes : Bool

/-- The scalar accesses of a strand that are not performed. -/
def Strand.owed (t : Strand) : List Owed :=
  t.stores.map (fun e => ⟨e.seq, e.scope != 0, e.phys.device, e.span, true⟩) ++
  t.lates.map fun a => ⟨a.seq, a.rel != 0, a.phys.device, (a.phys.loc, a.kind.size), a.kind.writes⟩

/-- The numbers of the scalar accesses that a held vector queue keeps from being performed: the releases behind a vector access of it, and what must
follow such an access (R256, R257). -/
def Strand.stuck (t : Strand) : List Nat :=
  let ps := t.owed
  let behind (p : Owed) : Bool := t.held && p.rel && t.queue.any fun e => e.op.memory && e.seq < p.seq
  let follows (p q : Owed) : Bool := q.seq < p.seq && (p.rel || p.span.1.meets p.span.2 q.span.1 q.span.2 || (p.device && q.device))
  (List.range ps.length).foldl (fun l _ => (ps.filter fun p => behind p || ps.any fun q => l.contains q.seq && follows p q).map (·.seq)) []

/-- Whether a store, an atomic or a cache-control instruction of the strand has still to be performed before TRET (R389): one that the held queue itself
keeps back is not waited for, since only TRET restarts that queue (log entry 20). -/
def Strand.unsettled (t : Strand) : Bool := t.owed.any fun p => p.writes && !t.stuck.contains p.seq

/-- The distance from one place to another of the same storage. -/
def Loc.offset : Loc → Nat
  | .mem a => a
  | .tmem _ o => o

/-- Bytes read at a place with one queued store laid over them. -/
def layOver (l : Loc) (bs : List Byte) (e : StoreEntry) : List Byte :=
  match e.bytes with
  | none => bs
  | some ws =>
    if e.touches l bs.length then
      bs.mapIdx fun k b =>
        let p := l.offset + k
        let q := e.span.1.offset
        if q ≤ p && p < q + ws.length then ws.getD (p - q) b else b
    else bs

/-- The value of `n` bytes at a place as a scalar read of a strand issued as number `seq` finds it: memory, with the strand's own older
queued stores laid over it. -/
def scalarRead (t : Strand) (seq : Nat) (p : Phys) (n : Nat) (s : State) : Except Flt Nat :=
  match readPhys p n s with
  | .error f => .error f
  | .ok v => .ok (leNat ((t.stores.filter (·.seq < seq)).foldl (layOver p.loc) (leBytes n v)))

/-! ### Atomic updates (R237, R241) -/

/-- An atomic operates on un-shared lines only (R273). -/
def unshareAt (l : Loc) (s : State) : State :=
  match l with
  | .tmem _ _ => s
  | .mem a => unshareLine (a / 128) s

/-- One indivisible update at a place (R234, R237): the old value, and the state after it. A compare-and-swap writes only where the old
value equals `d`. -/
def atomicUpdate (keep : Option StrandId) (p : Phys) (op : AmoOp) (size t d : Nat) (s : State) : Except Flt (Nat × State) :=
  match readPhys p size s with
  | .error f => .error f
  | .ok old =>
    .ok (old, atHome p.loc (if op = .cas && old != d then unshareAt p.loc s else writePhys keep p (leBytes size (amoNew op size old t)) s))

/-! ### Barriers (R251, R252) -/

/-- Whether a barrier word is invalid (R251). -/
def barrierInvalid (w : Nat) : Bool := field w 48 15 != 0 || field w 24 24 = 0 || field w 24 24 ≤ field w 0 24

/-- A barrier word after one arrival (R252). -/
def barrierArrive (w : Nat) : Nat :=
  let cnt := field w 0 24 + 1
  if cnt = field w 24 24 then (w / 2 ^ 24 * 2 ^ 24 + 2 ^ 63) % 2 ^ 64 else w / 2 ^ 24 * 2 ^ 24 + cnt

/-! ### Performing an access (R107, R237, R252, R434) -/

/-- Performs a scalar load, atomic or arrival at its place: the value for xD and the state after it. -/
def performAccess (i : StrandId) (a : LateAccess) (s : State) : Except Flt (Word × State) :=
  match a.kind with
  | .load n sx =>
    match scalarRead (s.strand i) a.seq a.phys n s with
    | .error f => .error { f with addr := a.ea }
    | .ok v => .ok (if sx then BitVec.ofInt 64 (intOfCode (8 * n) true v) else BitVec.ofNat 64 v, s)
  | .atomic op n t d =>
    match atomicUpdate none a.phys op n (t.toNat % 2 ^ (8 * n)) (d.toNat % 2 ^ (8 * n)) s with
    | .error f => .error { f with addr := a.ea }
    | .ok (old, s) => .ok (BitVec.ofInt 64 (intOfCode (8 * n) true old), s)
  | .arrive =>
    match readPhys a.phys 8 s with
    | .error f => .error { f with addr := a.ea }
    | .ok w =>
      if barrierInvalid w then .error ⟨cBarrierInvalid, a.ea, 0⟩
      else .ok (BitVec.ofNat 64 (w / 2 ^ 63), atHome a.phys.loc (writePhys none a.phys (leBytes 8 (barrierArrive w)) s))

/-- Whether an older access of the strand must be performed first (R110, R256 rows 1 and 6): an older outstanding access or cache-control entry to
overlapping bytes, for an atomic an older queued store too; an older device access for a device access; everything earlier for a release. -/
def Strand.blocks (t : Strand) (a : LateAccess) : Bool :=
  let n := a.kind.size
  t.lates.any (fun b => b.seq < a.seq && (b.phys.loc.meets b.kind.size a.phys.loc n || (a.phys.device && b.phys.device))) ||
  t.stores.any (fun e => e.seq < a.seq && ((e.touches a.phys.loc n && (a.kind.writes || e.bytes.isNone)) || (a.phys.device && e.phys.device))) ||
  (a.rel != 0 && t.earlier a.seq)

/-- A checked scalar access at issue: performed at once, or left outstanding where the data returns late (the environment's choice), a WAIT
reservation or a link port stands in its way, or an older access of the strand comes first. -/
def startAccess (i : StrandId) (t : Strand) (a : LateAccess) (s : State) : Except Stop State :=
  let n := a.kind.size
  match s.meets none a.kind.writes a.phys.loc n with
  | .trap => .error (preciseStop t ⟨cReservation, a.ea, 0⟩)
  | m =>
    if s.late || m = .wait || s.reach a.phys.loc = .wait || t.blocks a then
      .ok (s.modStrand i fun t => { t with lates := t.lates ++ [a] })
    else
      match performAccess i a (if m = .cut then cutRanges none a.kind.writes a.phys.loc n s else s) with
      | .error f => .error (preciseStop t f)
      | .ok (v, s) => .ok (s.setX i a.d v)

/-- A failed read as a fault at an address. -/
def locatedAt {α : Type} (ea : Addr) (r : Except Flt α) : Except Flt α :=
  match r with
  | .error f => .error { f with addr := ea }
  | .ok v => .ok v

/-- A place for an access of the strand at issue, or its trap. -/
def locate (i : StrandId) (t : Strand) (ea : Addr) (acc : Access) (s : State) : Except Stop (Phys × State) :=
  let (x, s) := strandXl i s
  orTrap t (translate x ea acc s)

/-- A place of idempotent storage, as a blocked strand watches it. -/
def Loc.plain (l : Loc) : Phys := ⟨l, false, 0, false, none⟩

/-- The indivisible read of a full granule by a `.fe` or `.fc` load issued as number `seq` (R107, R109): it finds the strand's own older stores
(R108). -/
def granuleRead (i : StrandId) (seq : Nat) (d : BitVec 5) (t : TileId) (off size : Nat) (sx clear : Bool) (s : State) : Except Flt State :=
  match scalarRead (s.strand i) seq (Loc.tmem t off).plain size s with
  | .error f => .error f
  | .ok v =>
    let s := if clear then clearFull t (off / 16) s else s
    .ok (s.setX i d (if sx then BitVec.ofInt 64 (intOfCode (8 * size) true v) else BitVec.ofNat 64 v))

/-- Blocks the strand in a wait: its program counter stays at the blocking instruction (R85, R217). -/
def block (i : StrandId) (t : Strand) (w : Wait) (s : State) : State :=
  s.modStrand i fun r => { r with status := .blocked w, pc := t.pc }

/-- Ends a wait: the strand runs on after its blocking instruction. -/
def unblock (i : StrandId) (len : Nat) (s : State) : State :=
  s.modStrand i fun r => { r with status := .running, pc := r.pc + BitVec.ofNat 80 len }

/-- A scalar load (R107, R110, R111). -/
def load (len : Nat) (d : BitVec 5) (a : BitVec 4) (o : BitVec 12) (size : Nat) (sx : Bool) (q : Qual) (st : State) : Out :=
  issue st len fun i t s =>
    if t.anyX [d] || t.acquiring then .error .stall
    else
      let ea := scalarEa t a o size
      if ea.toNat % size != 0 then .error (preciseStop t ⟨cMisaligned, ea, 0⟩)
      else match locate i t ea .read s with
        | .error e => .error e
        | .ok (p, s) =>
          let r : LateAccess := ⟨.load size sx, d, p, t.issued, Qual.acq q, 0, t.pc, ea⟩
          if q.fe = 0 then startAccess i t r s
          else match p.loc with
            | .mem _ => .error (preciseStop t ⟨cFullEmpty, ea, 0⟩)
            | .tmem u off =>
              if t.blocks r then .error .stall
              else if s.findsFull u (q.fe = 2) off size then orTrap t (locatedAt ea (granuleRead i t.issued d u off size sx (q.fe = 2) s))
              else .ok (block i t (.granule d u off size sx (q.fe = 2) ea) s)

/-- The check of a store against TRAP reservations, and its entry into the store queue of 8 entries (R108, R220). -/
def enqueueStore (i : StrandId) (t : Strand) (e : StoreEntry) (s : State) : Except Stop State :=
  if s.meets none e.kind.writes e.span.1 e.span.2 = .trap then .error (preciseStop t ⟨cReservation, e.ea, 0⟩)
  else .ok (s.modStrand i fun t => { t with stores := t.stores ++ [e] })

/-- A scalar store (R108, R110, R111): it takes a store-queue entry at issue. -/
def store (len : Nat) (d : BitVec 5) (a : BitVec 4) (o : BitVec 12) (size : Nat) (q : Qual) (st : State) : Out :=
  issue st len fun i t s =>
    if t.anyX [d] || t.acquiring || t.releasing || 8 ≤ t.stores.length then .error .stall
    else
      let ea := scalarEa t a o size
      if ea.toNat % size != 0 then .error (preciseStop t ⟨cMisaligned, ea, 0⟩)
      else match locate i t ea .write s with
        | .error e => .error e
        | .ok (p, s) => enqueueStore i t ⟨.data size (BitVec.ofNat 64 ((t.xr d).toNat % 2 ^ (8 * size))), p, t.issued, Qual.rel q, t.pc, ea⟩ s

/-- A scalar atomic (R237). -/
def atomic (len : Nat) (op : AmoOp) (size : Nat) (d : BitVec 5) (a : BitVec 4) (t : BitVec 5) (q : Qual) (st : State) : Out :=
  issue st len fun i r s =>
    if r.anyX [d, t] || r.acquiring || r.releasing then .error .stall
    else
      let ea := r.ar a
      if ea.toNat % size != 0 then .error (preciseStop r ⟨cMisaligned, ea, 0⟩)
      else match locate i r ea .write s with
        | .error e => .error e
        | .ok (p, s) =>
          if p.device then .error (preciseStop r (p.barred ea 5))
          else startAccess i r ⟨.atomic op size (r.xr t) (r.xr d), d, p, r.issued, Qual.acq q, Qual.rel q, r.pc, ea⟩ s

/-! ### Loads and stores -/

/-- LB (R107). -/
def execLb (d : BitVec 5) (a : BitVec 4) (o : BitVec 12) (st : State) : Out := load one d a o 1 true plainQual st

/-- LB with Q32 (R107, R110). -/
def execLbQ32 (d : BitVec 5) (a : BitVec 4) (o : BitVec 12) (q : Qual) (st : State) : Out := load two d a o 1 true q st

/-- LBU (R107). -/
def execLbu (d : BitVec 5) (a : BitVec 4) (o : BitVec 12) (st : State) : Out := load one d a o 1 false plainQual st

/-- LBU with Q32 (R107, R110). -/
def execLbuQ32 (d : BitVec 5) (a : BitVec 4) (o : BitVec 12) (q : Qual) (st : State) : Out := load two d a o 1 false q st

/-- LH (R107). -/
def execLh (d : BitVec 5) (a : BitVec 4) (o : BitVec 12) (st : State) : Out := load one d a o 2 true plainQual st

/-- LH with Q32 (R107, R110). -/
def execLhQ32 (d : BitVec 5) (a : BitVec 4) (o : BitVec 12) (q : Qual) (st : State) : Out := load two d a o 2 true q st

/-- LHU (R107). -/
def execLhu (d : BitVec 5) (a : BitVec 4) (o : BitVec 12) (st : State) : Out := load one d a o 2 false plainQual st

/-- LHU with Q32 (R107, R110). -/
def execLhuQ32 (d : BitVec 5) (a : BitVec 4) (o : BitVec 12) (q : Qual) (st : State) : Out := load two d a o 2 false q st

/-- LW (R107). -/
def execLw (d : BitVec 5) (a : BitVec 4) (o : BitVec 12) (st : State) : Out := load one d a o 4 true plainQual st

/-- LW with Q32 (R107, R110). -/
def execLwQ32 (d : BitVec 5) (a : BitVec 4) (o : BitVec 12) (q : Qual) (st : State) : Out := load two d a o 4 true q st

/-- LWU (R107). -/
def execLwu (d : BitVec 5) (a : BitVec 4) (o : BitVec 12) (st : State) : Out := load one d a o 4 false plainQual st

/-- LWU with Q32 (R107, R110). -/
def execLwuQ32 (d : BitVec 5) (a : BitVec 4) (o : BitVec 12) (q : Qual) (st : State) : Out := load two d a o 4 false q st

/-- LD (R107). -/
def execLd (d : BitVec 5) (a : BitVec 4) (o : BitVec 12) (st : State) : Out := load one d a o 8 false plainQual st

/-- LD with Q32 (R107, R110). -/
def execLdQ32 (d : BitVec 5) (a : BitVec 4) (o : BitVec 12) (q : Qual) (st : State) : Out := load two d a o 8 false q st

/-- SB (R108). -/
def execSb (d : BitVec 5) (a : BitVec 4) (o : BitVec 12) (st : State) : Out := store one d a o 1 plainQual st

/-- SB with Q32 (R108, R110). -/
def execSbQ32 (d : BitVec 5) (a : BitVec 4) (o : BitVec 12) (q : Qual) (st : State) : Out := store two d a o 1 q st

/-- SH (R108). -/
def execSh (d : BitVec 5) (a : BitVec 4) (o : BitVec 12) (st : State) : Out := store one d a o 2 plainQual st

/-- SH with Q32 (R108, R110). -/
def execShQ32 (d : BitVec 5) (a : BitVec 4) (o : BitVec 12) (q : Qual) (st : State) : Out := store two d a o 2 q st

/-- SW (R108). -/
def execSw (d : BitVec 5) (a : BitVec 4) (o : BitVec 12) (st : State) : Out := store one d a o 4 plainQual st

/-- SW with Q32 (R108, R110). -/
def execSwQ32 (d : BitVec 5) (a : BitVec 4) (o : BitVec 12) (q : Qual) (st : State) : Out := store two d a o 4 q st

/-- SD (R108). -/
def execSd (d : BitVec 5) (a : BitVec 4) (o : BitVec 12) (st : State) : Out := store one d a o 8 plainQual st

/-- SD with Q32 (R108, R110). -/
def execSdQ32 (d : BitVec 5) (a : BitVec 4) (o : BitVec 12) (q : Qual) (st : State) : Out := store two d a o 8 q st

/-! ### Scalar atomics (R236, R237) -/

/-- AMADD (R237). -/
def execAmadd (d : BitVec 5) (s : BitVec 4) (t : BitVec 5) (st : State) : Out := atomic one .add 8 d s t plainQual st

/-- AMADD with Q32 (R237). -/
def execAmaddQ32 (d : BitVec 5) (s : BitVec 4) (t : BitVec 5) (q : Qual) (st : State) : Out := atomic two .add 8 d s t q st

/-- AMADD.W (R237). -/
def execAmaddW (d : BitVec 5) (s : BitVec 4) (t : BitVec 5) (st : State) : Out := atomic one .add 4 d s t plainQual st

/-- AMADD.W with Q32 (R237). -/
def execAmaddWQ32 (d : BitVec 5) (s : BitVec 4) (t : BitVec 5) (q : Qual) (st : State) : Out := atomic two .add 4 d s t q st

/-- AMAND (R237). -/
def execAmand (d : BitVec 5) (s : BitVec 4) (t : BitVec 5) (st : State) : Out := atomic one .and 8 d s t plainQual st

/-- AMAND with Q32 (R237). -/
def execAmandQ32 (d : BitVec 5) (s : BitVec 4) (t : BitVec 5) (q : Qual) (st : State) : Out := atomic two .and 8 d s t q st

/-- AMAND.W (R237). -/
def execAmandW (d : BitVec 5) (s : BitVec 4) (t : BitVec 5) (st : State) : Out := atomic one .and 4 d s t plainQual st

/-- AMAND.W with Q32 (R237). -/
def execAmandWQ32 (d : BitVec 5) (s : BitVec 4) (t : BitVec 5) (q : Qual) (st : State) : Out := atomic two .and 4 d s t q st

/-- AMOR (R237). -/
def execAmor (d : BitVec 5) (s : BitVec 4) (t : BitVec 5) (st : State) : Out := atomic one .or 8 d s t plainQual st

/-- AMOR with Q32 (R237). -/
def execAmorQ32 (d : BitVec 5) (s : BitVec 4) (t : BitVec 5) (q : Qual) (st : State) : Out := atomic two .or 8 d s t q st

/-- AMOR.W (R237). -/
def execAmorW (d : BitVec 5) (s : BitVec 4) (t : BitVec 5) (st : State) : Out := atomic one .or 4 d s t plainQual st

/-- AMOR.W with Q32 (R237). -/
def execAmorWQ32 (d : BitVec 5) (s : BitVec 4) (t : BitVec 5) (q : Qual) (st : State) : Out := atomic two .or 4 d s t q st

/-- AMXOR (R237). -/
def execAmxor (d : BitVec 5) (s : BitVec 4) (t : BitVec 5) (st : State) : Out := atomic one .xor 8 d s t plainQual st

/-- AMXOR with Q32 (R237). -/
def execAmxorQ32 (d : BitVec 5) (s : BitVec 4) (t : BitVec 5) (q : Qual) (st : State) : Out := atomic two .xor 8 d s t q st

/-- AMXOR.W (R237). -/
def execAmxorW (d : BitVec 5) (s : BitVec 4) (t : BitVec 5) (st : State) : Out := atomic one .xor 4 d s t plainQual st

/-- AMXOR.W with Q32 (R237). -/
def execAmxorWQ32 (d : BitVec 5) (s : BitVec 4) (t : BitVec 5) (q : Qual) (st : State) : Out := atomic two .xor 4 d s t q st

/-- AMMIN (R237). -/
def execAmmin (d : BitVec 5) (s : BitVec 4) (t : BitVec 5) (st : State) : Out := atomic one .min 8 d s t plainQual st

/-- AMMIN with Q32 (R237). -/
def execAmminQ32 (d : BitVec 5) (s : BitVec 4) (t : BitVec 5) (q : Qual) (st : State) : Out := atomic two .min 8 d s t q st

/-- AMMIN.W (R237). -/
def execAmminW (d : BitVec 5) (s : BitVec 4) (t : BitVec 5) (st : State) : Out := atomic one .min 4 d s t plainQual st

/-- AMMIN.W with Q32 (R237). -/
def execAmminWQ32 (d : BitVec 5) (s : BitVec 4) (t : BitVec 5) (q : Qual) (st : State) : Out := atomic two .min 4 d s t q st

/-- AMMAX (R237). -/
def execAmmax (d : BitVec 5) (s : BitVec 4) (t : BitVec 5) (st : State) : Out := atomic one .max 8 d s t plainQual st

/-- AMMAX with Q32 (R237). -/
def execAmmaxQ32 (d : BitVec 5) (s : BitVec 4) (t : BitVec 5) (q : Qual) (st : State) : Out := atomic two .max 8 d s t q st

/-- AMMAX.W (R237). -/
def execAmmaxW (d : BitVec 5) (s : BitVec 4) (t : BitVec 5) (st : State) : Out := atomic one .max 4 d s t plainQual st

/-- AMMAX.W with Q32 (R237). -/
def execAmmaxWQ32 (d : BitVec 5) (s : BitVec 4) (t : BitVec 5) (q : Qual) (st : State) : Out := atomic two .max 4 d s t q st

/-- AMMINU (R237). -/
def execAmminu (d : BitVec 5) (s : BitVec 4) (t : BitVec 5) (st : State) : Out := atomic one .minu 8 d s t plainQual st

/-- AMMINU with Q32 (R237). -/
def execAmminuQ32 (d : BitVec 5) (s : BitVec 4) (t : BitVec 5) (q : Qual) (st : State) : Out := atomic two .minu 8 d s t q st

/-- AMMINU.W (R237). -/
def execAmminuW (d : BitVec 5) (s : BitVec 4) (t : BitVec 5) (st : State) : Out := atomic one .minu 4 d s t plainQual st

/-- AMMINU.W with Q32 (R237). -/
def execAmminuWQ32 (d : BitVec 5) (s : BitVec 4) (t : BitVec 5) (q : Qual) (st : State) : Out := atomic two .minu 4 d s t q st

/-- AMMAXU (R237). -/
def execAmmaxu (d : BitVec 5) (s : BitVec 4) (t : BitVec 5) (st : State) : Out := atomic one .maxu 8 d s t plainQual st

/-- AMMAXU with Q32 (R237). -/
def execAmmaxuQ32 (d : BitVec 5) (s : BitVec 4) (t : BitVec 5) (q : Qual) (st : State) : Out := atomic two .maxu 8 d s t q st

/-- AMMAXU.W (R237). -/
def execAmmaxuW (d : BitVec 5) (s : BitVec 4) (t : BitVec 5) (st : State) : Out := atomic one .maxu 4 d s t plainQual st

/-- AMMAXU.W with Q32 (R237). -/
def execAmmaxuWQ32 (d : BitVec 5) (s : BitVec 4) (t : BitVec 5) (q : Qual) (st : State) : Out := atomic two .maxu 4 d s t q st

/-- AMSWAP (R237). -/
def execAmswap (d : BitVec 5) (s : BitVec 4) (t : BitVec 5) (st : State) : Out := atomic one .swap 8 d s t plainQual st

/-- AMSWAP with Q32 (R237). -/
def execAmswapQ32 (d : BitVec 5) (s : BitVec 4) (t : BitVec 5) (q : Qual) (st : State) : Out := atomic two .swap 8 d s t q st

/-- AMSWAP.W (R237). -/
def execAmswapW (d : BitVec 5) (s : BitVec 4) (t : BitVec 5) (st : State) : Out := atomic one .swap 4 d s t plainQual st

/-- AMSWAP.W with Q32 (R237). -/
def execAmswapWQ32 (d : BitVec 5) (s : BitVec 4) (t : BitVec 5) (q : Qual) (st : State) : Out := atomic two .swap 4 d s t q st

/-- AMCAS (R237). -/
def execAmcas (d : BitVec 5) (s : BitVec 4) (t : BitVec 5) (st : State) : Out := atomic one .cas 8 d s t plainQual st

/-- AMCAS with Q32 (R237). -/
def execAmcasQ32 (d : BitVec 5) (s : BitVec 4) (t : BitVec 5) (q : Qual) (st : State) : Out := atomic two .cas 8 d s t q st

/-- AMCAS.W (R237). -/
def execAmcasW (d : BitVec 5) (s : BitVec 4) (t : BitVec 5) (st : State) : Out := atomic one .cas 4 d s t plainQual st

/-- AMCAS.W with Q32 (R237). -/
def execAmcasWQ32 (d : BitVec 5) (s : BitVec 4) (t : BitVec 5) (q : Qual) (st : State) : Out := atomic two .cas 4 d s t q st

/-! ### Barriers -/

/-- BARA (R252): a release and an arrival at the word's point of coherence. -/
def execBara (d : BitVec 5) (s : BitVec 4) (c : BitVec 3) (st : State) : Out :=
  issue st one fun i t st =>
    if t.anyX [d] || t.acquiring || t.releasing then .error .stall
    else
      let ea := t.ar s
      if ea.toNat % 8 != 0 then .error (preciseStop t ⟨cMisaligned, ea, 0⟩)
      else match locate i t ea .write st with
        | .error e => .error e
        | .ok (p, st) =>
          if p.device then .error (preciseStop t (p.barred ea 5))
          else startAccess i t ⟨.arrive, d, p, t.issued, 0, c, t.pc, ea⟩ st

/-- Whether a read at a place must wait: at a WAIT reservation, at a link port, or behind an older access of the strand (R220, R256). -/
def readHeld (t : Strand) (p : Phys) (n : Nat) (s : State) : Bool :=
  s.meets none false p.loc n = .wait || s.reach p.loc = .wait || t.blocks ⟨.load n false, 0, p, t.issued, 0, 0, 0, 0⟩

/-- The word that WAITLINE or BARW reads at a place (R113, R220, R252): none while something holds the read, which leaves the strand Running where
it has not yet blocked (R268); a TRAP reservation and a failed read are faults, a SPLIT reservation is cut. -/
def waitWord (t : Strand) (p : Phys) (ea : Addr) (s : State) : Option (Except Flt (Nat × State)) :=
  if readHeld t p 8 s then none
  else match s.meets none false p.loc 8 with
    | .trap => some (.error ⟨cReservation, ea, 0⟩)
    | m =>
      let s := if m = .cut then cutRanges none false p.loc 8 s else s
      some (match scalarRead t t.issued p 8 s with
        | .error f => .error { f with addr := ea }
        | .ok w => .ok (w, s))

/-- BARW (R252): retires on a word whose PHASE differs from bit 0 of xD, and blocks otherwise. -/
def execBarw (d : BitVec 5) (s : BitVec 4) (c : BitVec 3) (st : State) : Out :=
  let _ := c
  issue st one fun i t st =>
    if t.anyX [d] || t.acquiring then .error .stall
    else
      let ea := t.ar s
      if ea.toNat % 8 != 0 then .error (preciseStop t ⟨cMisaligned, ea, 0⟩)
      else match locate i t ea .read st with
        | .error e => .error e
        | .ok (p, st) =>
          if p.device then .error (preciseStop t (p.barred ea 5))
          else
            let seen := (t.xr d).getLsbD 0
            match waitWord t p ea st with
            | none => .error .stall
            | some (.error f) => .error (preciseStop t f)
            | some (.ok (w, st)) =>
                if (w / 2 ^ 63 = 1) != seen then .ok (st.setX i d (BitVec.ofNat 64 w))
                else .ok (block i t (.barrier d p seen ea) st)

/-- WAITLINE (R113): retires on a word that differs from xT, and blocks otherwise. -/
def execWaitline (d : BitVec 5) (s : BitVec 4) (t : BitVec 5) (st : State) : Out :=
  issue st one fun i r st =>
    if r.anyX [d, t] || r.acquiring then .error .stall
    else
      let ea := r.ar s
      if ea.toNat % 8 != 0 then .error (preciseStop r ⟨cMisaligned, ea, 0⟩)
      else match locate i r ea .read st with
        | .error e => .error e
        | .ok (p, st) =>
          if p.device then .error (preciseStop r ⟨cWaitDevice, ea, 0⟩)
          else match waitWord r p ea st with
            | none => .error .stall
            | some (.error f) => .error (preciseStop r f)
            | some (.ok (w, st)) =>
              if BitVec.ofNat 64 w != r.xr t then .ok (st.setX i d (BitVec.ofNat 64 w))
              else .ok (block i r (.line d p (r.xr t) ea) st)

/-! ### The events of scalar memory -/

/-- A precise trap of a Blocked strand whose read fails (R259): its entry takes the issue slot. -/
def wakeTrap (i : StrandId) (f : Flt) (s : State) : Option State :=
  if s.slotOpen i.core then some (lone i.core (takeTrap i (preciseRec (s.strand i) f) s)) else none

/-- WAITLINE_WAKE (R113): the word differs from the value seen; it is written to xD and the strand runs on. -/
def execWaitlineWake (i : StrandId) (st : State) : Out :=
  event st <|
    match (st.strand i).status with
    | .blocked (.line d p seen ea) =>
      match waitWord (st.strand i) p ea st with
      | none => none
      | some (.error f) => wakeTrap i f st
      | some (.ok (w, s)) => if BitVec.ofNat 64 w = seen then none else some (unblock i one (s.setX i d (BitVec.ofNat 64 w)))
    | _ => none

/-- BARW_WAKE (R252): the word's PHASE has changed; the word is written to xD and the strand runs on. -/
def execBarwWake (i : StrandId) (st : State) : Out :=
  event st <|
    match (st.strand i).status with
    | .blocked (.barrier d p seen ea) =>
      match waitWord (st.strand i) p ea st with
      | none => none
      | some (.error f) => wakeTrap i f st
      | some (.ok (w, s)) => if (w / 2 ^ 63 = 1) != seen then some (unblock i one (s.setX i d (BitVec.ofNat 64 w))) else none
    | _ => none

/-- FULLEMPTY_WAKE (R109): the granule of a blocked `.fe` or `.fc` load is full; the load reads it. -/
def execFullemptyWake (i : StrandId) (st : State) : Out :=
  event st <|
    match (st.strand i).status with
    | .blocked (.granule d t off size sx clear ea) =>
      if !st.findsFull t clear off size then none
      else match granuleRead i (st.strand i).issued d t off size sx clear st with
        | .error f => wakeTrap i { f with addr := ea } st
        | .ok s => some (unblock i two s)
    | _ => none

/-- Takes an outstanding access off the strand. -/
def dropLate (i : StrandId) (k : Nat) (s : State) : State := s.modStrand i fun t => { t with lates := t.lates.eraseIdx k }

/-- Whether a core's tile is being saved: a trap is not taken any more (R319). -/
def State.saving (s : State) (c : CoreId) : Bool :=
  match c with
  | .tile t => (s.tile t).life = .saving
  | .control _ => false

/-- The address of an access, and that of its instruction. -/
def FailedAccess.site : FailedAccess → Nat × Addr
  | .late a => (a.seq, a.pc)
  | .store e => (e.seq, e.pc)

/-- Delivers the failure of an access that was performed after its issue (R434), `s` being the state without it: precisely where the strand has issued
nothing since, else asynchronously with the failing instruction in TVPC. xD keeps its value and its mark is cleared. A precise trap waits for the issue
slot (R87); while the tile is being saved nothing is delivered, and the access stands to be replayed (R319). -/
def lateFault (i : StrandId) (a : FailedAccess) (f : Flt) (s : State) : Option State :=
  let t := s.strand i
  let (seq, pc) := a.site
  if s.saving i.core then none
  else if t.issued = seq + 1 && t.status = .running then
    (if s.slotOpen i.core then some (lone i.core (takeTrap i ⟨f.cause, 0, false, pc, 0, f.addr, f.detail⟩ s)) else none)
  else some ((addAsync i ⟨f.cause, 0, true, t.pc, pc, f.addr, f.detail⟩ s).modStrand i fun t => { t with failed := t.failed ++ [a] })

/-- Completes the k-th outstanding scalar access of a strand where nothing holds it (R220, R434). -/
def completeLate (i : StrandId) (k : Nat) (s : State) : Option State :=
  let t := s.strand i
  match t.lates[k]? with
  | none => none
  | some a =>
    let n := a.kind.size
    let m := s.meets none a.kind.writes a.phys.loc n
    if m = .wait || s.reach a.phys.loc = .wait || t.blocks a then none
    else if m = .trap then lateFault i (.late a) ⟨cReservation, a.ea, 0⟩ (dropLate i k s)
    else
      match performAccess i a (if m = .cut then cutRanges none a.kind.writes a.phys.loc n s else s) with
      | .error f => lateFault i (.late a) f (dropLate i k s)
      | .ok (v, s) => some ((dropLate i k s).setX i a.d v)

/-- SCALAR_ACCESS_COMPLETE (R434). -/
def execScalarAccessComplete (i : StrandId) (k : Nat) (st : State) : Out := event st (completeLate i k st)

/-- RESERVATION_WAIT_PROCEED (R220): an access that waited at a reservation proceeds once the line is passed or released. -/
def execReservationWaitProceed (i : StrandId) (k : Nat) (st : State) : Out := event st (completeLate i k st)

/-- The effect of a cache-control instruction on the line of a place (R278): CFLUSH writes a modified copy home and removes every copy,
CINV discards it, CCLEAN writes it home and keeps the copies clean. TMEM and device-class places are not affected. -/
def cacheControl (kind : StoreKind) (p : Phys) (s : State) : State :=
  match p.loc with
  | .tmem _ _ => s
  | .mem a =>
    let n := a / 128
    if p.device || !cacheable n then s
    else match kind with
      | .flush => dropCopies n (writeBack n s)
      | .clean => writeBack n s
      | .inv => dropCopies n s
      | _ => s

/-- CZERO at a place (R278): one store of 128 zero bytes, after which the line's tag points to the zero entry, with no data entry of its own. -/
def zeroLine (p : Phys) (s : State) : State :=
  match p.loc with
  | .tmem _ _ => writePhys none { p with loc := p.loc.lineBase } (zeroBytes 128) s
  | .mem a =>
    let n := a / 128
    let s := writePhys none { p with loc := p.loc.lineBase } (zeroBytes 128) (modCrucible n (·.dropTag n) s)
    if !s.homed n then s
    else
      (makeRoom (homeQuad n) n Crucible.tagRoom s).modQuad (homeQuad n) fun q =>
        { q with crucible := { q.crucible with tags := ⟨n, .modified, p.ddid, true, none⟩ :: q.crucible.tags } }

/-- Performs a store-queue entry (R108, R279). -/
def performStore (e : StoreEntry) (s : State) : State :=
  match e.kind with
  | .data n v => writePhys none e.phys (leBytes n v.toNat) s
  | .zero => zeroLine e.phys s
  | k => cacheControl k e.phys s

/-- Whether the k-th queued store must stay: an older overlapping store or access, an older device access for a device store, everything
earlier for a release (R110, R256, R257). -/
def Strand.storeHeld (t : Strand) (k : Nat) (e : StoreEntry) : Bool :=
  (t.stores.take k).any (fun f => f.touches e.span.1 e.span.2 || (e.phys.device && f.phys.device)) ||
  t.lates.any (fun a => a.seq < e.seq && (a.phys.loc.meets a.kind.size e.span.1 e.span.2 || (e.phys.device && a.phys.device))) ||
  (e.scope != 0 && t.earlier e.seq)

/-- Whether the k-th store left by a strand that has gone must stay (R115): an older overlapping or device store, or everything earlier for a
release. -/
def Strand.orphanHeld (t : Strand) (k : Nat) (e : StoreEntry) : Bool :=
  (t.orphans.take k).any fun f => f.touches e.span.1 e.span.2 || (e.phys.device && f.phys.device) || e.scope != 0

/-- Drains the k-th store of a slot: those left by earlier strands come first, then the store queue. A refused store of a strand that has gone
has nobody to tell. -/
def drainStore (i : StrandId) (k : Nat) (s : State) : Option State :=
  let t := s.strand i
  let n := t.orphans.length
  let gone := decide (k < n)
  match (if gone then t.orphans[k]? else t.stores[k - n]?) with
  | none => none
  | some e =>
    let m := s.meets none e.kind.writes e.span.1 e.span.2
    if m = .wait || s.reach e.phys.loc = .wait || (if gone then t.orphanHeld k e else t.storeHeld (k - n) e) then none
    else
      let s' := s.modStrand i fun t =>
        if gone then { t with orphans := t.orphans.eraseIdx k } else { t with stores := t.stores.eraseIdx (k - n) }
      if m = .trap then
        (if gone then some s'
         else lateFault i (.store e) ⟨cReservation, e.ea, 0⟩ s')
      else some (performStore e (if m = .cut then cutRanges none e.kind.writes e.span.1 e.span.2 s' else s'))

/-- STORE_QUEUE_DRAIN (R108). -/
def execStoreQueueDrain (i : StrandId) (k : Nat) (st : State) : Out := event st (drainStore i k st)


end Sys2Proof.Machine
end

