-- ==== Sys2Proof/Machine/Fences.lean ====
section
/-! DEFINITION. Fences (R248 to R250) and cache-control instructions (R277 to R280). -/

namespace Sys2Proof.Machine

open Sys2Proof

/-- Whether the strand runs on a control core. -/
def onControl (i : StrandId) : Bool := (coreTile i.core).isNone

/-- A VPART (R124). -/
def VOp.parts : VOp → Bool
  | .part _ => true
  | _ => false

/-- Whether a VPART of a strand of the core has been issued and has not taken effect (R124). -/
def State.parting (s : State) (c : CoreId) : Bool := (slots c).any fun j => (s.strand j).queue.any (·.op.parts)

/-- Whether the vector queue takes no entry (R116, R124). -/
def queueFull (i : StrandId) (t : Strand) (s : State) : Bool :=
  16 ≤ t.queue.length || onControl i || s.parting i.core

/-- A vector-queue entry of the instruction at issue (R130, R407). -/
def vEntry (t : Strand) (op : VOp) (mreg : Option (BitVec 3)) : VEntry :=
  { op := op, mreg := mreg, pc := t.pc, seq := t.issued, strip := t.strip, fcsr := t.fcsr }

/-- Enters an instruction into the vector queue. -/
def enqueue (i : StrandId) (e : VEntry) (s : State) : State := s.modStrand i fun t => { t with queue := t.queue ++ [{ e with time := s.now }] }

/-- Enters an instruction into the vector queue at its issue; its record on pipe 0 begins (R410). -/
def pushEntry (i : StrandId) (e : VEntry) (s : State) : State := traceEvent i 0 false e.seq e.strip e.pc (enqueue i e s)

/-- An unscoped fence that orders the vector queue: on a control core it retires with no effect (R249). -/
def queueFence (op : VOp) (st : State) : Out :=
  issue st one fun i t s =>
    if onControl i then .ok s
    else if queueFull i t s then .error .stall
    else .ok (pushEntry i (vEntry t op none) s)

/-- FENCE.SV (R249). -/
def execFenceSV (st : State) : Out := queueFence .fenceSV st

/-- FENCE.VV (R249). -/
def execFenceVV (st : State) : Out := queueFence .fenceVV st

/-- FENCE.VS (R249): nothing issues after it until every earlier vector-class instruction that accesses memory has retired. -/
def execFenceVS (st : State) : Out :=
  issue st one fun i t s =>
    if onControl i then .ok s
    else if t.live.any fun e => e.op.memory then .error .stall
    else .ok s

/-- Whether every load and atomic issued before has returned its value (R249, FENCE `.acq`). -/
def Strand.returned (t : Strand) : Bool := t.lates.isEmpty && !(t.live.any fun e => e.op.loads)

/-- FENCE (R249): kind 1 acquire, 2 release, 3 full (R37). A release is remembered and holds back what it names. -/
def execFence (k : BitVec 2) (c : BitVec 3) (st : State) : Out :=
  let _ := c
  issue st one fun i t s =>
    if k = 1 then (if t.returned then .ok s else .error .stall)
    else if k = 2 then .ok (s.modStrand i fun r => { r with relFence := some t.issued })
    else if t.owing t.issued then .error .stall
    else .ok (s.modStrand i fun r => { r with relFence := some t.issued })

/-- A cache-control instruction that takes a store-queue entry (R278, R279). `misaligned` and `barDevice` are its own checks. -/
def cacheLine (kind : StoreKind) (acc : Access) (aligned barDevice : Bool) (a : BitVec 4) (st : State) : Out :=
  issue st one fun i t s =>
    if t.acquiring || t.releasing || 8 ≤ t.stores.length then .error .stall
    else
      let ea := t.ar a
      if aligned && ea.toNat % 128 != 0 then .error (preciseStop t ⟨cMisaligned, ea, 0⟩)
      else match locate i t ea acc s with
        | .error e => .error e
        | .ok (p, s) =>
          if barDevice && p.device then .error (preciseStop t (p.barred ea 5))
          else enqueueStore i t ⟨kind, p, t.issued, 0, t.pc, ea⟩ s

/-- CFLUSH (R278). -/
def execCflush (s : BitVec 4) (st : State) : Out := cacheLine .flush .read false false s st

/-- CINV (R278). -/
def execCinv (s : BitVec 4) (st : State) : Out := cacheLine .inv .write false true s st

/-- CCLEAN (R278). -/
def execCclean (s : BitVec 4) (st : State) : Out := cacheLine .clean .read false false s st

/-- CZERO (R278). -/
def execCzero (s : BitVec 4) (st : State) : Out := cacheLine .zero .write true true s st

/-- CPF (R278): no architectural effect, and no trap. It counts as a read of its line, with or without write intent (R269): a SPLIT reservation that
it meets is cut. -/
def execCpf (a : BitVec 4) (wi : BitVec 1) (st : State) : Out :=
  let _ := wi
  issue st one fun i t s =>
    match locate i t (t.ar a) .read s with
    | .error _ => .ok s
    | .ok (p, _) =>
      if p.device || s.meets none false p.loc.lineBase 128 ≠ .cut then .ok s else .ok (cutRanges none false p.loc.lineBase 128 s)

/-- ISYNC (R278): discards every line of the strand's instruction cache that overlaps aS to aS + xT - 1. -/
def execIsync (s : BitVec 4) (t : BitVec 5) (st : State) : Out :=
  issue st one fun i r st =>
    if r.anyX [t] then .error .stall
    else
      let a := (r.ar s).toNat
      let n := (r.xr t).toNat
      .ok (st.modCore i.core fun k =>
        { k with icache := k.icache.filter fun l => n = 0 || !(overlap a n (128 * l.line) 128 || 2 ^ 80 < a + n) })

end Sys2Proof.Machine
end

