-- ==== Sys2Proof/Machine/Flags.lean ====
section
/-! DEFINITION. The floating-point control and status register and the vector configuration: their fields (the tables of R70 and R116),
and how flags reach `fcsr` (R71). -/

namespace Sys2Proof.Machine

open Sys2Proof

/-- The rounding mode of FRM (R67). -/
def frmOf (fcsr : Word) : RMode := RMode.ofCode (fcsr.toNat / 2 ^ 8 % 4)

/-- FZ. -/
def fzOf (fcsr : Word) : Bool := fcsr.getLsbD 12

/-- The format tag of `vcfg`. -/
def fmtOf (vcfg : Word) : BitVec 4 := vcfg.setWidth 4

/-- The block length L of `vcfg`: 16, 32, 64 or 128. -/
def blockOf (vcfg : Word) : Nat := 16 * 2 ^ (vcfg.toNat / 2 ^ 4 % 4)

/-- The rounding mode of `vcfg`, as conversions use it. -/
def vrmOf (vcfg : Word) : RMode := RMode.ofCode (vcfg.toNat / 2 ^ 6 % 8)

/-- DT of `vcfg`. -/
def dtOf (vcfg : Word) : Bool := vcfg.getLsbD 9

/-- SCL of `vcfg`. -/
def sclOf (vcfg : Word) : Bool := vcfg.getLsbD 10

/-- The container width of a format tag (R58). -/
def widthOf (f : BitVec 4) : Nat :=
  match f.toNat with
  | 0 => 64
  | 1 => 32
  | 2 => 16
  | 3 => 16
  | 8 => 4
  | 9 => 32
  | 10 => 16
  | 13 => 4
  | 14 => 4
  | 15 => 64
  | _ => 8

/-- ORs collected flags into `fcsr` (R71). -/
def Strand.raise (t : Strand) (f : Flags) : Strand := { t with fcsr := t.fcsr ||| f.setWidth 64 }

/-- The bits of a code that its format reads (R77): a floating-point format its own width, an integer its width. -/
def codeWidth (tag : BitVec 4) : Nat :=
  match floatFmt tag, intFmt tag with
  | some F, _ => F.width
  | none, some (w, _) => w
  | none, none => 64

/-- A code as an x register or a token receives it (R77, R213): floats and unsigned formats zero-extended in their container, signed integers
sign-extended. -/
def extendCode (tag : BitVec 4) (c : Nat) : Word :=
  match intFmt tag with
  | some (w, true) => BitVec.ofInt 64 (intOfCode w true (c % 2 ^ w))
  | _ => BitVec.ofNat 64 (c % 2 ^ widthOf tag)

end Sys2Proof.Machine
end

