-- ==== Sys2Proof/Machine/System.lean ====
section
/-! DEFINITION. System registers (R43, R384, R385), traps and TRET (R386 to R390), TLB invalidation (R401), leave (R282, R403), the fabric key
slots (R405), YIELD, EXIT and the freeing of a slot (R112, R115), and the events of the system chapter. -/

namespace Sys2Proof.Machine

open Sys2Proof

/-! ### System registers -/

/-- The level that an assigned register number needs; none for a number assigned nowhere (R43, R385). -/
def sysLevel (n : Nat) : Option Level :=
  if n ≤ 4 || (0x100 ≤ n && n ≤ 0x105) || (0x200 ≤ n && n ≤ 0x20F) then some .U
  else if (0x1000 ≤ n && n ≤ 0x1008) || (0x1010 ≤ n && n ≤ 0x1012) || n = 0x1020 || n = 0x1021 || (0x1028 ≤ n && n ≤ 0x102B) ||
    n = 0x1030 || n = 0x1031 || n = 0x1038 || n = 0x1040 || (0x1100 ≤ n && n ≤ 0x1147) then some .S
  else if (0x4000 ≤ n && n ≤ 0x4008) || n = 0x4010 || n = 0x4011 then some .M
  else none

/-- A mask of bits `hi` to `lo`. -/
def maskBits (hi lo : Nat) : Word := BitVec.ofNat 64 (2 ^ (hi + 1) - 2 ^ lo)

/-- The RW bits of a register (R4). -/
def sysRw (n : Nat) : Word :=
  if n = 1 then maskBits 10 0
  else if n = 2 then maskBits 11 0
  else if n = 3 then maskBits 12 0 ||| maskBits 19 16
  else if n = 4 then maskBits 9 8 ||| maskBits 12 12
  else if 0x200 ≤ n && n ≤ 0x20F then 0xF3FF7
  else if n = 0x1000 || n = 0x4000 then maskBits 3 0
  else if n = 0x1001 || n = 0x4001 then maskBits 11 0
  else if n = 0x1005 || n = 0x4005 then maskBits 47 0
  else if (0x1002 ≤ n && n ≤ 0x1007) || (0x4002 ≤ n && n ≤ 0x4007) then maskBits 63 0
  else if n = 0x1008 || n = 0x4008 then maskBits 63 2
  else if n = 0x1010 then maskBits 15 0
  else if n = 0x1011 then maskBits 55 0
  else if n = 0x1012 then maskBits 16 0
  else if n = 0x1020 then maskBits 55 17
  else if n = 0x1021 then maskBits 23 0
  else if n = 0x1028 || n = 0x102A then maskBits 55 0
  else if n = 0x1029 || n = 0x102B then maskBits 4 0
  else if n = 0x1030 then maskBits 19 0
  else if n = 0x1038 then maskBits 0 0
  else if 0x1100 ≤ n && n ≤ 0x1147 then maskBits 0 0
  else if n = 0x4010 then maskBits 55 0
  else if n = 0x4011 then maskBits 3 0
  else 0

/-- The W1C bits of a register (R4): the flags of `fcsr`, and ERR of FKEYCMD. -/
def sysW1c (n : Nat) : Word := if n = 4 then maskBits 4 0 else if n = 0x4011 then maskBits 62 62 else 0

/-- The save-pool blocks that hold images (USED, R404). -/
def Quad.used (q : Quad) : Nat :=
  (q.launches.map fun l =>
    match l.2.launch with
    | none => 0
    | some x => (x.teams.map fun t => match t.state with | .saved im => im.blocks.length | _ => 0).sum).sum

/-- Key slots as bits 3 to 0 (FULL, R405). -/
def Quad.keyBits (q : Quad) : Nat :=
  ((List.range 4).map fun k => if (q.keys.slot k).isSome then 2 ^ k else 0).sum

/-- The identity of the team that a tile holds, as `tileid`, `teamid` and `stage` read (R12, R19, R314): none where the tile holds none. -/
def State.identity (s : State) (c : CoreId) (n : Nat) : Option Word :=
  match coreTile c with
  | none => none
  | some t =>
    match (s.tile t).res with
    | none => none
    | some r =>
      let x := t.idx.toNat % 8
      let y := t.idx.toNat / 8
      some (BitVec.ofNat 64 (
        if n = 0x101 then x + y * 2 ^ 3 + r.dx * 2 ^ 8 + r.dy * 2 ^ 11 + r.ord * 2 ^ 16 + r.ntiles * 2 ^ 24
        else if n = 0x102 then s.tileHandle t + r.team * 2 ^ 32
        else r.stage + r.nstm1 * 2 ^ 4))

/-- One of the eight trap registers of a level, in the order of R385. -/
def TrapRegs.read (r : TrapRegs) (lvl : Level) (k : Nat) : Word :=
  match k with
  | 0 => r.stat ||| BitVec.ofNat 64 (lvl.code * 16)
  | 1 => r.cause
  | 2 => r.pc
  | 3 => r.vpc
  | 4 => r.addr
  | 5 => r.xhi
  | 6 => r.detail
  | _ => r.scratch

/-- Writes one of the eight trap registers. PPL keeps its value where the value written is not allowed: above `maxPpl` (R385). -/
def TrapRegs.write (r : TrapRegs) (maxPpl : Nat) (k : Nat) (v : Word) : TrapRegs :=
  match k with
  | 0 => { r with stat := (v &&& 12#64) ||| (if v.toNat % 4 ≤ maxPpl then v &&& 3#64 else r.stat &&& 3#64) }
  | 1 => { r with cause := v }
  | 2 => { r with pc := v }
  | 3 => { r with vpc := v }
  | 4 => { r with addr := v }
  | 5 => { r with xhi := v }
  | 6 => { r with detail := v }
  | _ => { r with scratch := v }

/-- A number below 16 as an index. -/
def bsIndex (n : Nat) : Fin 16 := ⟨n % 16, Nat.mod_lt _ (by decide)⟩

/-- Reads a system register (R384, R385). The identity registers of a core that holds no team have no stated value: they read a free
value (log entry 7). -/
def sysRead (i : StrandId) (n : Nat) (s : State) : Word × State :=
  let t := s.strand i
  let qd := s.quad (coreQuad i.core)
  if n = 0x101 || n = 0x102 || n = 0x103 then
    match s.identity i.core n with
    | some w => (w, s)
    | none => s.fresh
  else
    (if n = 0 then t.vl.setWidth 64
     else if n = 1 then t.vcfg
     else if n = 2 then t.vstart.setWidth 64
     else if n = 3 then t.ffstat
     else if n = 4 then t.fcsr
     else if n = 0x100 then i.slot.setWidth 64
     else if n = 0x104 then qd.tilemap.setWidth 64
     else if n = 0x105 then (qd.tilemap >>> 64).setWidth 64
     else if n < 0x1000 then t.bs.get (bsIndex n)
     else if n < 0x1008 then t.st.read t.level (n - 0x1000)
     else if n = 0x1008 then qd.tvec
     else if n = 0x1010 then t.ctxcur.setWidth 64
     else if n = 0x1011 then qd.ctxbase
     else if n = 0x1012 then qd.ctxcnt
     else if n = 0x1020 then qd.savebase
     else if n = 0x1021 then BitVec.ofNat 64 (qd.nblk.toNat + qd.used % 2 ^ 24 * 2 ^ 24)
     else if n = 0x1028 then qd.errbase
     else if n = 0x1029 then qd.errsize
     else if n = 0x102A then qd.grbase
     else if n = 0x102B then qd.grsize
     else if n = 0x1030 then qd.lattol.setWidth 64
     else if n = 0x1031 then s.pwrstat (coreQuad i.core)
     else if n = 0x1038 then boolWord qd.reqsig
     else if n = 0x1040 then s.dev.devnum.setWidth 64
     else if n < 0x1148 then
       let u : TileId := ⟨coreQuad i.core, BitVec.ofNat 7 (n - 0x1100)⟩
       boolWord (s.enabled u && (s.tile u).isspol)
     else if n < 0x4008 then t.mt.read t.level (n - 0x4000)
     else if n = 0x4008 then qd.mtvec
     else if n = 0x4010 then qd.fkeyaddr
     else BitVec.ofNat 64 (qd.fkeycmd.slot.toNat + (if qd.fkeycmd.clr then 4 else 0) + qd.keyBits * 2 ^ 8 +
       (if qd.fkeycmd.err then 2 ^ 62 else 0) + (if qd.fkeycmd.run.isSome then 2 ^ 63 else 0)), s)

/-- A write of CTXCUR (R396): a valid context is read anew; an invalid one leaves everything as it was. -/
def writeCtxcur (i : StrandId) (n : BitVec 16) (s : State) : State :=
  match s.ctxEntry (coreQuad i.core) n with
  | none => s
  | some c => s.modStrand i fun t => { t with ctxcur := n, ctx := some c }

/-- Whether a value of `vcfg` is invalid (R117). -/
def vcfgInvalid (v : Word) : Bool :=
  let fmt := v.toNat % 16
  5 ≤ v.toNat / 64 % 8 || (sclOf v && !(fmt = 4 || fmt = 5 || fmt = 6 || fmt = 7 || fmt = 8 || fmt = 11))

/-- A write of `vcfg`: both copies, and for a held queue the configuration that its head resumes under (R118, R119). -/
def Strand.setVcfg (t : Strand) (v : Word) : Strand :=
  let queue := match t.held, t.queue with
    | true, e :: r => { e with conf := e.conf.map fun c => (c.1, v) } :: r
    | _, q => q
  { t with vcfg := v, vvcfg := v, queue := queue }

/-- Starts the fabric key command that FKEYCMD holds; ignored while one is in progress (R405). -/
def startKey (q : BitVec 2) (clr : Bool) (s : State) : State :=
  s.modQuad q fun d =>
    if d.fkeycmd.run.isSome then d
    else { d with fkeycmd := { d.fkeycmd with run := some (d.fkeycmd.slot, clr, d.fkeyaddr.setWidth 56) } }

/-- Stores the new value of a register's RW fields, `v` being the whole register with them replaced, and acts on it. `w1c` are the
bits written as one to W1C fields. -/
def sysStore (i : StrandId) (n : Nat) (v w1c : Word) (s : State) : State :=
  let q := coreQuad i.core
  if n = 1 then s.modStrand i (·.setVcfg v)
  else if n = 2 then s.modStrand i fun t => { t with vstart := v.setWidth 12 }
  else if n = 3 then s.modStrand i fun t => { t with ffstat := v }
  else if n = 4 then s.modStrand i fun t => { t with fcsr := v &&& ~~~ w1c }
  else if 0x200 ≤ n && n ≤ 0x20F then s.modStrand i fun t => { t with bs := t.bs.set (bsIndex n) v }
  else if n < 0x1000 then s
  else if n < 0x1008 then s.modStrand i fun t => { t with st := t.st.write 1 (n - 0x1000) v }
  else if n = 0x1008 then s.modQuad q fun d => { d with tvec := v }
  else if n = 0x1010 then writeCtxcur i (v.setWidth 16) s
  else if n = 0x1011 then s.modQuad q fun d => { d with ctxbase := v }
  else if n = 0x1012 then s.modQuad q fun d => { d with ctxcnt := v }
  else if n = 0x1020 then s.modQuad q fun d => if d.used = 0 then { d with savebase := v } else d
  else if n = 0x1021 then s.modQuad q fun d => if d.used = 0 then { d with nblk := v.setWidth 24 } else d
  else if n = 0x1028 then s.modQuad q fun d => { d with errbase := v }
  else if n = 0x1029 then s.modQuad q fun d => { d with errsize := v }
  else if n = 0x102A then s.modQuad q fun d => { d with grbase := v }
  else if n = 0x102B then s.modQuad q fun d => { d with grsize := v }
  else if n = 0x1030 then writeLattol q (v.setWidth 20) s
  else if n = 0x1038 then s.modQuad q fun d => { d with reqsig := v.getLsbD 0 }
  else if n < 0x1100 then s
  else if n < 0x1148 then
    let u : TileId := ⟨q, BitVec.ofNat 7 (n - 0x1100)⟩
    if s.enabled u then s.modTile u (·.setPolicy (v.getLsbD 0) s.now) else s
  else if n < 0x4008 then s.modStrand i fun t => { t with mt := t.mt.write 2 (n - 0x4000) v }
  else if n = 0x4008 then s.modQuad q fun d => { d with mtvec := v }
  else if n = 0x4010 then s.modQuad q fun d => { d with fkeyaddr := v }
  else
    let s := s.modQuad q fun d =>
      { d with fkeycmd := { d.fkeycmd with slot := v.setWidth 2, clr := v.getLsbD 2, err := d.fkeycmd.err && !w1c.getLsbD 62 } }
    if v.getLsbD 3 then startKey q (v.getLsbD 2) s else s

/-- The numerical order of levels. -/
def Level.below (a b : Level) : Bool := a.code < b.code

/-- Registers of the vector and float state, whose access waits for the strand's vector queue (R71, R119, R166). -/
def sysVector (n : Nat) : Bool := n ≤ 4

/-- The fault of a write of a register: an invalid vcfg (R117), or a context entry that meets an uncorrectable error (R393, R396). -/
def sysFault (i : StrandId) (n : Nat) (v : Word) (s : State) : Option Flt :=
  let q := coreQuad i.core
  if n = 1 && vcfgInvalid v then some ⟨cVcfgInvalid, 0, 0⟩
  else if n = 0x1010 && s.ctxPoisoned q (v.setWidth 16) then some ⟨cMachineCheck, BitVec.ofNat 80 (s.ctxPlace q (v.setWidth 16)), 0⟩
  else none

/-- A system-register instruction (R384): `f` gives, from the register's value, its RW mask and xD, the new value and the W1C bits
written, none for a read; `out` tells whether xD receives the old value. Its traps follow no translation. -/
def sysAccess (d : BitVec 5) (r : BitVec 15) (out : Bool) (f : Word → Word → Word → Option (Word × Word)) (st : State) : Out :=
  issueWith st one (fun i t s =>
    let n := r.toNat
    match sysLevel n with
    | none => .error (preciseStop t ⟨cIllegal, 0, 0⟩)
    | some l =>
      if t.level.below l then .error (preciseStop t ⟨cPrivilege, 0, 0⟩)
      else if t.anyX [d] || (sysVector n && !t.live.isEmpty) then .error .stall
      else
        let (old, s) := sysRead i n s
        match f old (sysRw n) (t.xr d) with
        | none => .ok (s.setX i d old)
        | some (v, w) =>
          match sysFault i n v s with
          | some f => .error (preciseStop t f)
          | none =>
            let s := sysStore i n v (w &&& sysW1c n) s
            .ok (if out then s.setX i d old else s)) fun i k => takeTrap i k st

/-- SYSRD (R384). -/
def execSysrd (d : BitVec 5) (r : BitVec 15) (st : State) : Out := sysAccess d r true (fun _ _ _ => none) st

/-- SYSWR (R384). -/
def execSyswr (d : BitVec 5) (r : BitVec 15) (st : State) : Out :=
  sysAccess d r false (fun old rw x => some ((old &&& ~~~ rw) ||| (x &&& rw), x)) st

/-- SYSSET (R384). -/
def execSysset (d : BitVec 5) (r : BitVec 15) (st : State) : Out :=
  sysAccess d r false (fun old rw x => some (old ||| (x &&& rw), 0)) st

/-- SYSCLR (R384). -/
def execSysclr (d : BitVec 5) (r : BitVec 15) (st : State) : Out :=
  sysAccess d r false (fun old rw x => some (old &&& ~~~ (x &&& rw), 0)) st

/-- SYSXCH (R384). -/
def execSysxch (d : BitVec 5) (r : BitVec 15) (st : State) : Out :=
  sysAccess d r true (fun old rw x => some ((old &&& ~~~ rw) ||| (x &&& rw), x)) st

/-! ### SCALL, TRET and asynchronous traps -/

/-- SCALL (R390): a trap with TPC at the next instruction. -/
def execScall (st : State) : Out :=
  issue st one fun i t s => .ok (takeTrapTo (scallTarget t) i ⟨cSyscall, 0, false, t.pc + 4, 0, 0, 0⟩ s)

/-- Whether a strand still has a pending asynchronous trap of an engine with a field of its detail word (R388, R392). -/
def Strand.owes (t : Strand) (src : Nat) (lo n v : Nat) : Bool :=
  t.pend.any fun k => k.src.toNat = src && field k.detail.toNat lo n = v

/-- TRET resumes what faults of engines had stopped (R217, R196, R230, R301), but for those whose trap is still to be taken. -/
def resumeEngines (i : StrandId) (s : State) : State :=
  let t := s.strand i
  match i.core with
  | .control _ => s
  | .tile u => s.modTile u fun v =>
    { v with
      streams := v.streams.map fun (k, x) =>
        let owed := match x.kind with
          | .tundish b => t.owes 3 8 3 b
          | _ => t.owes 2 8 6 x.ch.toNat
        if x.issuer = i.slot && !owed then (k, { x with stopped := false }) else (k, x)
      jobs := v.jobs.map fun (k, x) => if x.issuer = i.slot && !t.owes 4 8 6 x.ch.toNat then (k, { x with stopped := false }) else (k, x)
      mats := v.mats.map fun e => if e.issuer = i.slot && !t.pend.any (·.src = 5) then { e with stopped := false } else e
      fills := v.fills.map fun e => if e.issuer = i.slot && !t.pend.any (·.src = 5) then { e with stopped := false } else e }

/-- TRET (R389): after every earlier store, atomic and cache-control instruction has been performed. -/
def execTret (st : State) : Out :=
  issue st one fun i t s =>
    if t.level = .U then .error (preciseStop t ⟨cPrivilege, 0, 0⟩)
    else if t.unsettled then .error .stall
    else .ok (resumeEngines i ((if t.quits then traceDiscard i s else s).modStrand i (·.trapReturn)))

/-- Whether an asynchronous trap finds a Blocked strand (R217): its wait is left as not performed and is issued afresh. -/
def Wait.yields : Wait → Bool
  | .line _ _ _ _ => true
  | .granule _ _ _ _ _ _ _ => true
  | .barrier _ _ _ _ => true
  | .stream _ _ _ _ => true
  | .tundish _ => true
  | .drain _ => true
  | _ => false

/-- Whether a strand's status lets it take an asynchronous trap (R217, R388). -/
def Status.interruptible : Status → Bool
  | .free => false
  | .running => true
  | .exiting => true
  | .blocked w => w.yields

/-- INH of the level that a strand's asynchronous traps go to (R388, R389). -/
def Strand.inhibited (t : Strand) : Bool :=
  match t.level with
  | .M => t.mt.stat.getLsbD 2
  | _ => t.st.stat.getLsbD 2

/-- ASYNC_TRAP (R388): the first pending asynchronous trap is taken in place of the next instruction. -/
def execAsyncTrap (i : StrandId) (st : State) : Out :=
  event st <|
    let t := st.strand i
    match t.pend with
    | [] => none
    | k :: r =>
      if !t.asyncRipe st.now || !st.coreRuns i.core || !st.slotOpen i.core || !t.status.interruptible || t.inhibited then none
      else
        let failed := if k.src = 0 then t.failed.tail else t.failed
        some (lone i.core (takeTrap i { k with tpc := t.pc } (st.setStrand i { t with pend := r, failed := failed })))

/-! ### TLB invalidation -/

/-- Whether an invalidation removes a held translation (R401). -/
def TlbRemoval.hits (w : TlbRemoval) (h : TlbEntry) : Bool :=
  match w with
  | .page va asid => h.vpage = va.toNat / 2 ^ h.bits && (h.glob || h.asid = asid)
  | .space asid => !h.glob && h.asid = asid
  | .all => true

/-- The places that the accesses of a strand have found and not given up: its own scalar accesses, the stores of strands before it, and the word of a
WAITLINE or BARW. -/
def Strand.places (t : Strand) : List Phys :=
  t.stores.map (·.phys) ++ t.orphans.map (·.phys) ++ t.lates.map (·.phys) ++
  match t.status with
  | .blocked (.line _ p _ _) => [p]
  | .blocked (.barrier _ p _ _) => [p]
  | _ => []

/-- Whether some strand has an access outstanding that began under a translation of those that an invalidation removes (R401). -/
def State.usesRemoved (s : State) (w : TlbRemoval) : Bool := s.strands.any fun (_, t) => t.places.any fun p => p.under.any w.hits

/-- Removes translations from every TLB of the device (R401). -/
def removeTlb (w : TlbRemoval) (s : State) : State :=
  { s with tiles := s.tiles.map fun (k, t) => (k, { t with tlb := t.tlb.filter fun h => !w.hits h }),
           quads := s.quads.map fun q => { q with tlb := q.tlb.filter fun h => !w.hits h } }

/-- An invalidation (R401): PRIVILEGE at level U; otherwise the strand is Blocked until it completes. -/
def invalidate (w : Strand → TlbRemoval) (reads : List (BitVec 5)) (st : State) : Out :=
  issue st one fun i t s =>
    if t.level = .U then .error (preciseStop t ⟨cPrivilege, 0, 0⟩)
    else if t.anyX reads then .error .stall
    else .ok (block i t (.tlb (w t)) s)

/-- TLBIVA (R401). -/
def execTlbiva (s : BitVec 4) (t : BitVec 5) (st : State) : Out := invalidate (fun r => .page (r.ar s) ((r.xr t).setWidth 16)) [t] st

/-- TLBIAS (R401). -/
def execTlbias (t : BitVec 5) (st : State) : Out := invalidate (fun r => .space ((r.xr t).setWidth 16)) [t] st

/-- TLBIALL (R401). -/
def execTlbiall (st : State) : Out := invalidate (fun _ => .all) [] st

/-- TLB_INVALIDATE_COMPLETE (R401). -/
def execTlbInvalidateComplete (i : StrandId) (st : State) : Out :=
  event st <|
    let t := st.strand i
    match t.status with
    | .blocked (.tlb w) =>
      if !t.stores.isEmpty || t.live.any (fun e => e.op.memory && !e.op.loads) || st.usesRemoved w then none else some (unblock i one (removeTlb w st))
    | _ => none

/-- PAGE_WALK (R398): a translation miss of a strand walks the tables, and enters what it found. -/
def execPageWalk (i : StrandId) (va : Addr) (acc : Access) (st : State) : Out :=
  event st <|
    if (st.strand i).status = .free || (st.strand i).level = .M || inWindow va then none
    else
      let (x, s) := strandXl i st
      match x.ctx with
      | none => none
      | some c =>
        if !c.valid || (s.tlbFind x c acc va).1.isSome then none
        else match walkFill x c acc va (countMiss x.core true true s) with
          | .error _ => none
          | .ok (_, s) => some s

/-- CTXCUR_WRITE (R396): the strand's context number is written, and a valid context is read. -/
def execCtxcurWrite (i : StrandId) (v : Word) (st : State) : Out :=
  event st (if (st.strand i).status = .free || (st.strand i).level = .U then none else some (writeCtxcur i (v.setWidth 16) st))

/-! ### Leave (R282, R403) -/

/-- Enters a request for leave of a tile, unless one waits already (R282). -/
def requestLeave (t : TileId) (s : State) : State :=
  s.modQuad t.quad fun q => if q.waiting.any (·.tile = t) then q else { q with waiting := q.waiting ++ [⟨t, s.now⟩] }

/-- LEAVE (R403). -/
def execLeave (d : BitVec 5) (st : State) : Out :=
  issue st one fun i t s =>
    if t.anyX [d] then .error .stall
    else match i.core with
      | .control _ => .ok (s.setX i d 0)
      | .tile u => if (s.tile u).leave then .ok (s.setX i d 1) else .ok (requestLeave u (s.setX i d 0))

/-- The grants of a quadrant within the last 1,250 ac (R282). -/
def Quad.recent (q : Quad) (now : Nat) : List Nat := q.grants.filter fun g => now < g + 1250

/-- LEAVE_GRANT (R282): the oldest waiting request, while fewer than 8 grants fall within 1,250 ac. The wait is counted and recorded. -/
def execLeaveGrant (t : TileId) (st : State) : Out :=
  event st <|
    let q := st.quad t.quad
    match q.waiting with
    | [] => none
    | r :: rest =>
      if r.tile ≠ t || 8 ≤ (q.recent st.now).length then none
      else
        let waited := st.now - r.since
        let s := st.modQuad t.quad fun q => { q with waiting := rest, grants := st.now :: q.recent st.now }
        let s := s.modTile t fun v => { v with leave := true }
        let heavy := (s.tile t).mode.isSome || !(s.tile t).mats.isEmpty
        let s := bumpQuad t.quad 4 waited (bumpQuad t.quad 3 1 s)
        let s := if heavy && waited != 0 then bump t 6 1 s else s
        let s := bump t 7 waited s
        some (if waited = 0 then s else trace t.quad (some t) 0 5 0 false 0 ⟨0, 0, 0⟩ waited s)

/-- LEAVE_REVOKE (R282): only between matrix instructions, so not while one is at work or an MMODE waits. A tile that is restored into a region
asks again before a strand of its team issues (R303). -/
def execLeaveRevoke (t : TileId) (st : State) : Out :=
  event st <|
    let v := st.tile t
    if !v.leave || v.mode.isSome || v.mats.any (·.started) then none
    else
      let s := st.setTile t { v with leave := false }
      some (if v.life = .resident && !v.started && v.region ≠ 0 then requestLeave t s else s)

/-! ### Fabric key slots (R405) and registers of the device address space -/

/-- FKEY_INSTALL (R405). -/
def execFkeyInstall (q : BitVec 2) (st : State) : Out :=
  event st (if (st.quad q).fkeycmd.run.isSome then none else some (startKey q false st))

/-- FKEY_CLEAR (R405). -/
def execFkeyClear (q : BitVec 2) (st : State) : Out :=
  event st (if (st.quad q).fkeycmd.run.isSome then none else some (startKey q true st))

/-- FKEY_COMMAND_DONE (R405): the slot is emptied, or receives the 2,592 bytes of the key; an uncorrectable error sets ERR, leaves it
empty and is recorded (R393). -/
def execFkeyCommandDone (q : BitVec 2) (st : State) : Out :=
  event st <|
    match (st.quad q).fkeycmd.run with
    | none => none
    | some (slot, clr, addr) =>
      let a := st.globalPa addr.toNat
      let bad := !clr && st.poisoned (.mem a) 2592
      let key := if clr || bad then none else some (st.mem.bytes a 2592)
      some ((if bad then notePoison a 2592 st else st).modQuad q fun d =>
        { d with keys := d.keys.set slot.toNat key slot.isLt, fkeycmd := { d.fkeycmd with run := none, err := d.fkeycmd.err || bad } })

/-- LATTOL_WRITE (R402). -/
def execLattolWrite (q : BitVec 2) (v : Word) (st : State) : Out := event st (some (writeLattol q (v.setWidth 20) st))

/-- REGISTER_WRITE (R4, R419): a 64-bit write to the register block of the device address space at an offset. -/
def execRegisterWrite (offset : Nat) (v : Word) (st : State) : Out :=
  event st <|
    if offset % 8 != 0 || 0x2000000 ≤ offset then none
    else some (barReg (regionOf (0x8000000000 + offset)) (leBytes 8 v.toNat) st)

/-- DEBUG_GO (R416): a write of the trace control block's strand register with GO. -/
def execDebugGo (q : BitVec 2) (v : Word) (st : State) : Out :=
  event st (some (writeTrace q 0x20 (BitVec.allOnes 64) (v ||| 0x400#64) st))

/-! ### YIELD, EXIT and the freeing of a slot -/

/-- YIELD (R112): under GTO the strand is the youngest, and no strand is greedy (R85, R90); under RR it has no effect (R89). -/
def execYield (st : State) : Out :=
  issue st one fun i _ s =>
    if s.roundRobin i.core then .ok s else
    let (n, s) := newStamp i.core s
    .ok ((s.modStrand i fun t => { t with age := n }).modCore i.core fun k => { k with greedy := none })

/-- EXIT (R115). -/
def execExit (st : State) : Out :=
  issue st one fun i t s => .ok (s.modStrand i fun r => { r with status := .exiting, pc := t.pc, links := [], loose := [] })

/-- Whether engines of the tile still work for a strand: streams, Riddle jobs, the array (R115). -/
def Tile.worksFor (v : Tile) (slot : BitVec 3) : Bool :=
  v.streams.any (·.2.issuer = slot) || v.jobs.any (·.2.issuer = slot) || v.mats.any (·.issuer = slot) || v.fills.any (·.issuer = slot)

/-- Whether every earlier instruction of an Exiting strand has retired (R115, R135). -/
def State.retired (s : State) (i : StrandId) : Bool :=
  let t := s.strand i
  t.lates.isEmpty && t.queue.isEmpty && (t.pend.isEmpty || t.inhibited) &&
  (match t.grant with | none => true | some c => c.gone.isSome) &&
  match i.core with
  | .control _ => true
  | .tile u => !(s.tile u).worksFor i.slot

/-- The lanes of a strand that leaves its slot: an unjoined child's half returns to the group, which has no owner (R135). -/
def dropGroup (slot : BitVec 3) (grant : Option Child) (gs : List (Nat × LaneGroup)) : List (Nat × LaneGroup) :=
  match grant with
  | none => gs.map fun (k, g) => if g.owner = some slot then (k, { g with owner := none }) else (k, g)
  | some _ =>
    match gs.find? (·.2.owner = some slot) with
    | none => gs
    | some (_, g) =>
      (gs.filter fun (_, h) => !(h.base = g.base + g.size && h.size = g.size)).map fun (k, h) =>
        if h.owner = some slot then (k, { h with size := 2 * h.size, owner := none }) else (k, h)

/-- The slot of a strand that has left it: nothing but its stores that are still queued (R115). -/
def Strand.vacated (t : Strand) : Strand := { orphans := t.orphans ++ t.stores }

/-- The strands of a core whose unjoined child leaves a slot: each notes the time (R135). -/
def childLeaves (i : StrandId) (s : State) : State :=
  (slots i.core).foldl (fun s j =>
    match (s.strand j).grant with
    | some ⟨c, none⟩ => if c = i.slot then s.modStrand j fun t => { t with grant := some ⟨c, some s.now⟩ } else s
    | _ => s) s

/-- SLOT_FREE (R115): an Exiting strand's last earlier instruction has retired. Its OM claims are released (R283), its tags have lost their owner
(R225), and its parent may join (R135). -/
def execSlotFree (i : StrandId) (st : State) : Out :=
  event st <|
    let t := st.strand i
    if t.status ≠ .exiting || !st.retired i then none
    else
      let s := (st.setStrand i t.vacated).modCore i.core fun k => if k.greedy = some i.slot then { k with greedy := none } else k
      some (childLeaves i (match i.core with
        | .control _ => s
        | .tile u => s.modTile u fun v =>
          { v with claimed := v.claimed.filter (·.2 ≠ i.slot), groups := dropGroup i.slot t.grant v.groups
                   tags := v.tags.map fun (k, g) => (k, if g.owner = i.slot then { g with left := true } else g) }))

end Sys2Proof.Machine
end

