-- ==== Sys2Proof/Machine/Vector.lean ====
section
/-! DEFINITION. The vector unit's shared machinery: element placement (R121), the queue (R130), starts, retirement and lane traps (R127 to
R130, R136), and the configuration and lane-group instructions (R124 to R126, R132 to R135). -/

namespace Sys2Proof.Machine

open Sys2Proof

/-! ### Lane groups and elements -/

/-- The lane group of a strand slot. -/
def Tile.group (v : Tile) (slot : BitVec 3) : Option LaneGroup := (v.groups.find? (·.2.owner = some slot)).map (·.2)

/-- The lane group of a strand. -/
def State.group (s : State) (i : StrandId) : Option LaneGroup :=
  match i.core with
  | .tile t => (s.tile t).group i.slot
  | .control _ => none

/-- The lanes that a strand's group has. -/
def State.lanes (s : State) (i : StrandId) : Nat :=
  match s.group i with
  | none => 0
  | some g => g.size

/-- The key of a word of a lane's slice of a register. -/
def vKey (r lane word : Nat) : Nat := (r * 32 + lane) * 8 + word

/-- A word of a lane's slice of a register; a word that nothing has written is zero (R314). -/
def Tile.vword (v : Tile) (r lane word : Nat) : Word := (amGet (vKey r lane word) v.v).getD 0

/-- The elements per element group at a width (R121). -/
def perGroup (lanes w : Nat) : Nat := lanes * (64 / w)

/-- Where element `e` of a register (or register group) stands (R121): register, lane, word, and its place in the word. R121 spreads the elements of a
scaled block over the lanes of the group, where R63 says that a block never spans two lanes: the model follows R121 (log entry 65). -/
def elemPos (g : LaneGroup) (r w e : Nat) : Nat × Nat × Nat × Nat :=
  let epw := 64 / w
  let k := e / perGroup g.size w
  let p := e % perGroup g.size w
  (r + k / 8, g.base + p / epw, k % 8, p % epw)

/-- Element `e` of a register at a width. -/
def Tile.elem (v : Tile) (g : LaneGroup) (r : BitVec 5) (w e : Nat) : Nat :=
  let (r, lane, word, slot) := elemPos g r.toNat w e
  field (v.vword r lane word).toNat (slot * w) w

/-- A word with the field of `w` bits at a slot replaced. -/
def setField (x : Word) (slot w v : Nat) : Word :=
  let m := BitVec.ofNat 64 ((2 ^ w - 1) * 2 ^ (slot * w))
  (x &&& ~~~ m) ||| (BitVec.ofNat 64 (v % 2 ^ w * 2 ^ (slot * w)))

/-- The tile of a strand; a control-core strand owns no lanes, and any tile serves it nothing. -/
def vTile (i : StrandId) : TileId :=
  match i.core with
  | .tile t => t
  | .control q => ⟨q, 0⟩

/-- Element `e` of a strand's register. -/
def State.elem (s : State) (i : StrandId) (g : LaneGroup) (r : BitVec 5) (w e : Nat) : Nat := (s.tile (vTile i)).elem g r w e

/-- Writes element `e` of a strand's register, and sets the register's dirty bit (R137). -/
def setElem (i : StrandId) (g : LaneGroup) (r : BitVec 5) (w e v : Nat) (s : State) : State :=
  let (rr, lane, word, slot) := elemPos g r.toNat w e
  let s := s.modTile (vTile i) fun t => { t with v := amSet (vKey rr lane word) (setField (t.vword rr lane word) slot w v) t.v }
  s.modStrand i fun t => { t with dirty := t.dirty ||| BitVec.twoPow 32 rr }

/-- A bit of an m register. -/
def Strand.mbit (t : Strand) (r : BitVec 3) (e : Nat) : Bool := (t.mr r).getLsbD e

/-- Writes a bit of an m register. -/
def setMbit (i : StrandId) (r : BitVec 3) (e : Nat) (b : Bool) (s : State) : State :=
  s.modStrand i fun t => t.setM r (if b then t.mr r ||| BitVec.twoPow 4096 e else t.mr r &&& ~~~ BitVec.twoPow 4096 e)

/-- Whether element `e` is active under an optional mask (R127). -/
def State.active (s : State) (i : StrandId) (m : Option (BitVec 3)) (e : Nat) : Bool :=
  match m with
  | none => true
  | some r => (s.strand i).mbit r e

/-- The generator state of a lane; a lane that nothing has seeded holds its placement seed (R69). -/
def Tile.gen (v : Tile) (lane : Nat) : BitVec 32 := (amGet lane v.lfsr).getD (xsSeed 0 lane)

/-- Steps a lane's generator: its new state (R69). -/
def stepGen (i : StrandId) (lane : Nat) (s : State) : Nat × State :=
  let n := xsStep ((s.tile (vTile i)).gen lane)
  (n.toNat, s.modTile (vTile i) fun v => { v with lfsr := amSet lane n v.lfsr })

/-- The capacity of a register at a width (R122). -/
def capacity (lanes w : Nat) : Nat := lanes * 512 / w

/-! ### What a vector-class instruction runs with -/

/-- The view of an instruction in the lanes: its strand and entry, its group, and the `vl` and `vcfg` it started with. -/
structure VCtx where
  i   : StrandId
  x   : VEntry
  g   : LaneGroup
  vl  : Nat
  cfg : Word

/-- The element width of `vcfg`. -/
def VCtx.w (c : VCtx) : Nat := widthOf (fmtOf c.cfg)

/-- FZ as the instruction was issued with (R71). -/
def VCtx.fz (c : VCtx) : Bool := fzOf c.x.fcsr

/-- Element `e` of a register at a width. -/
def VCtx.get (c : VCtx) (r : BitVec 5) (w e : Nat) (s : State) : Nat := s.elem c.i c.g r w e

/-- Writes element `e` of a register at a width. -/
def VCtx.put (c : VCtx) (r : BitVec 5) (w e v : Nat) (s : State) : State := setElem c.i c.g r w e v s

/-- Whether element `e` is active. -/
def VCtx.act (c : VCtx) (e : Nat) (s : State) : Bool := s.active c.i c.x.mreg e

/-- What processing one element gives: the flags it collects and the state after it, a fault, or a wait (R170, R220). -/
inductive VRes where
  | ok (f : Flags) (s : State)
  | fault (f : Flt)
  | wait

/-- What processing some elements in ascending order gives: flags, state, and the element that faulted or waits. -/
structure VRun where
  flags : Flags
  st    : State
  stop  : Option (Nat × Option Flt)

/-- The elements of a run that have been processed: those below the one that faulted or waits. -/
def VRun.performed (r : VRun) (es : List Nat) : List Nat :=
  match r.stop with
  | none => es
  | some (n, _) => es.filter (· < n)

/-- Processes elements in ascending order until one faults or waits. -/
def runElems (f : Nat → State → VRes) : List Nat → Flags → State → VRun
  | [], fl, s => ⟨fl, s, none⟩
  | e :: es, fl, s =>
    match f e s with
    | .ok fl' s' => runElems f es (fl ||| fl') s'
    | .fault k => ⟨fl, s, some (e, some k)⟩
    | .wait => ⟨fl, s, some (e, none)⟩

/-- The end of the element group that starts at element `e` (R129): the placement group's end, or with density-time the element after
the G-th active one. -/
def groupEnd (G vl : Nat) (dense : Bool) (act : Nat → Bool) (e : Nat) : Nat :=
  if dense then
    let es := (range e vl).filter act
    if es.length ≤ G then vl else es.getD (G - 1) 0 + 1
  else min vl ((e / G + 1) * G)

/-! ### Retirement and lane traps -/

/-- Replaces the k-th entry of a strand's vector queue. -/
def setEntry (i : StrandId) (k : Nat) (e : VEntry) (s : State) : State := s.modStrand i fun t => { t with queue := t.queue.set k e }

/-- Records the end of an entry's occupancy of its pipe, and its retirement (R410). -/
def traceEnd (i : StrandId) (e : VEntry) (s : State) : State :=
  let s := match e.started, e.op.pipe with
    | true, some p => traceEvent i p true e.seq e.strip e.pc s
    | _, _ => s
  traceEvent i 0 true e.seq e.strip e.pc s

/-- The k-th entry retires (R71, R120): its flags reach `fcsr`, and it leaves the queue. -/
def retire (i : StrandId) (k : Nat) (s : State) : State :=
  match (s.strand i).queue[k]? with
  | none => s
  | some e => traceEnd i e (s.modStrand i fun t => { (t.raise e.flags) with queue := t.queue.eraseIdx k })

/-- A trap in the lanes by the entry at the head (R136): the faulting element's index is written to `vstart`, and the strand takes the trap, once the
issue slot is free for its entry (R87). -/
def laneTrap (i : StrandId) (e : VEntry) (at' : Option Nat) (f : Flt) (s : State) : Option State :=
  if !s.slotOpen i.core then none
  else
    let s := match e.started, e.op.pipe with
      | true, some p => traceEvent i p true e.seq e.strip e.pc s
      | _, _ => s
    let s := flushParts i (countFault (strandXl i s).1 f.cause f.addr s)
    let t := s.strand i
    let t' := { t with
      vstart := match at' with | some n => BitVec.ofNat 12 n | none => t.vstart
      queue := match t.queue with
        | [] => []
        | x :: r => { x with started := false, resume := at'.elim x.resume (fun _ => none) } :: r }
    some (lone i.core (takeTrap i ⟨f.cause, 1, false, t.pc, e.pc, f.addr, f.detail⟩ (s.setStrand i t')))

/-! ### Register dependences (R130) -/

/-- A register of the vector unit, as dependences see it: v, m, or the lanes' generators. -/
inductive VReg where
  | v (n : Nat)
  | m (n : Nat)
  | gen
  deriving DecidableEq, Repr

/-- The registers of a group that starts at a register. -/
def vGroup (r : BitVec 5) (n : Nat) : List VReg := (List.range n).map fun k => .v (r.toNat + k)

/-- A v register that an instruction reads through its third operand. -/
def VSrc.regs : VSrc → List VReg
  | .reg t => [.v t.toNat]
  | .const _ => []

/-- The registers that an instruction reads, and those it writes (R130), taken widely where a group's size depends on `vcfg`. -/
def VOp.uses : VOp → List VReg × List VReg
  | .part _ | .setl _ | .setcfg _ | .fork _ _ _ _ _ | .join | .fenceSV | .fenceVV => ([], [])
  | .mask _ d s t => ([.m s.toNat, .m t.toNat], [.m d.toNat])
  | .mpopc _ s => ([.m s.toNat], [])
  | .mfirst _ s => ([.m s.toNat], [])
  | .int _ d s t => (.v s.toNat :: t.regs, [.v d.toNat])
  | .fp _ d s t => (.v d.toNat :: .v s.toNat :: t.regs, [.v d.toNat])
  | .cmp _ d s t => (.v s.toNat :: t.regs, [.m d.toNat])
  | .merge d s t => ([.v s.toNat, .v t.toNat], [.v d.toNat])
  | .mv d s => ([.v s.toNat], [.v d.toNat])
  | .vid d => ([], [.v d.toNat])
  | .splat d _ => ([], [.v d.toNat])
  | .ext _ s _ => ([.v s.toNat], [])
  | .dot _ d s t => ([.v d.toNat, .v s.toNat, .v t.toNat], [.v d.toNat])
  | .bsapply d s t => ([.v s.toNat, .v t.toNat], [.v d.toNat])
  | .cvt _ d s t sf df _ _ =>
    let ws := widthOf sf
    let wd := widthOf df
    (.gen :: .v t.toNat :: vGroup s (max 1 (ws / wd)), .gen :: .v t.toNat :: vGroup d (max 1 (wd / ws)))
  | .srseed _ => ([], [.gen])
  | .ld (.seg nf) d _ => (vGroup d nf, vGroup d nf)
  | .ld (.indexed x) d _ => ([.v d.toNat, .v x.toNat], [.v d.toNat])
  | .ld _ d _ => ([.v d.toNat], [.v d.toNat])
  | .st (.seg nf) s _ => (vGroup s nf, [])
  | .st (.indexed x) s _ => ([.v s.toNat, .v x.toNat], [])
  | .st (.ordered x) s _ => ([.v s.toNat, .v x.toNat], [])
  | .st _ s _ => ([.v s.toNat], [])
  | .pf _ _ => ([], [])
  | .red _ _ d s => ([.v d.toNat, .v s.toNat], [.v d.toNat])
  | .perm d s t => ([.v s.toNat, .v t.toNat], [.v d.toNat])
  | .comp d s => ([.v s.toNat], [.v d.toNat])
  | .expd d s => ([.v s.toNat], [.v d.toNat])
  | .filt d s => ([.v s.toNat], [.v d.toNat])
  | .topk d s _ => (vGroup s 2, vGroup d 2)
  | .slide _ d s _ => ([.v s.toNat], [.v d.toNat])
  | .amo op d _ x => (.v x.toNat :: vGroup d (if op = .cas then 2 else 1), [.v d.toNat])
  | .camo _ s _ x => ([.v s.toNat, .v x.toNat], [])
  | .gl d _ x => ([.v x.toNat], [.v d.toNat])
  | .sc s _ x => ([.v s.toNat, .v x.toNat], [])

/-- The registers that an entry reads, its mask among them. -/
def VEntry.reads (e : VEntry) : List VReg :=
  match e.mreg with
  | none => e.op.uses.1
  | some m => .m m.toNat :: e.op.uses.1

/-- The registers that an entry writes; VSC writes its mask register (R246), and so may VCOMP and VFILT none but their destination. -/
def VEntry.writes (e : VEntry) : List VReg :=
  match e.op, e.mreg with
  | .sc _ _ _, some m => .m m.toNat :: e.op.uses.2
  | _, _ => e.op.uses.2

/-- Whether an older and a younger entry name a common register that one of them writes. -/
def VEntry.clashes (o y : VEntry) : Bool :=
  o.writes.any (fun r => y.reads.contains r || y.writes.contains r) || o.reads.any fun r => y.writes.contains r

/-- The instructions that process element e of every operand at one width, that of `vcfg`: these chain group by group. -/
def VOp.elementwise : VOp → Bool
  | .int _ _ _ _ | .fp _ _ _ _ | .cmp _ _ _ _ | .merge _ _ _ | .mv _ _ | .vid _ | .splat _ _ => true
  | .ld .unit _ _ | .ld .fe _ _ | .ld .fc _ _ | .ld (.strided _) _ _ | .st .unit _ _ | .st (.strided _) _ _ => true
  | _ => false

/-- Whether an older entry is past the elements below `n` of a younger one that names a register of it (R130). Instructions of one width
chain element group by element group; any other pair waits for the older one's retirement. -/
def VEntry.past (o y : VEntry) (cfg : Word) (n : Nat) : Bool :=
  !o.clashes y ||
  (o.started && o.op.elementwise && y.op.elementwise &&
    match o.conf with
    | some (_, c) => widthOf (fmtOf c) = widthOf (fmtOf cfg) && n ≤ o.next
    | none => false)

/-! ### Starts -/

/-- The element-wise classes that density-time issue fills (R129): majors 0x1C to 0x23 and VCVT, VCVT.W, VCVT.N. -/
def VOp.densityTime : VOp → Bool
  | .int _ _ _ _ | .fp _ _ _ _ | .cmp _ _ _ _ | .merge _ _ _ | .mv _ _ | .vid _ | .splat _ _ | .dot _ _ _ _ | .bsapply _ _ _ => true
  | .cvt .same _ _ _ _ _ _ _ | .cvt .widen _ _ _ _ _ _ _ | .cvt .narrow _ _ _ _ _ _ _ => true
  | _ => false

/-- The instructions whose `vstart` counts granules (R128, R173). -/
def VOp.granular : VOp → Bool
  | .ld (.zsb _) _ _ => true
  | .st (.zsb _) _ _ => true
  | _ => false

/-- The instructions that order the queue and process no elements (R120). -/
def VOp.control : VOp → Bool
  | .part _ | .setl _ | .setcfg _ | .fork _ _ _ _ _ | .join | .fenceSV | .fenceVV => true
  | _ => false

/-- The time of issue of the k-th entry of a strand's queue. -/
def Strand.entryTime (t : Strand) (k : Nat) : Nat := (t.queue[k]?.map (·.time)).getD 0

/-- Whether the pipe of the k-th entry is free (R130): no other entry of the strand is in it. The tile's XLN serves the groups in issue order: no entry
of any strand is in it, and none for it that was issued before waits in a queue that runs. -/
def pipeFree (i : StrandId) (k p : Nat) (s : State) : Bool :=
  if p = 3 then
    (slots i.core).all fun j =>
      (s.strand j).live.all fun e => e.op.pipe != some 3 || (!e.started && (j = i || (s.strand i).entryTime k ≤ e.time))
  else !((s.strand i).queue.any fun e => e.started && e.op.pipe = some p)

/-- Whether every entry before the k-th has started, and no first-fault load among them has still to fix `vl` (R118, R130). -/
def olderStarted (t : Strand) (k : Nat) : Bool := (t.queue.take k).all fun e => e.started && !e.op.firstFault

/-! ### Issue -/

/-- A vector-class instruction at issue (R84, R87, R130): on a control core it is illegal; otherwise it waits for its x registers and a
queue entry, a memory instruction also for acquires and releasing fences, and enters the queue. -/
def issueV (len : Nat) (xs : List (BitVec 5)) (op : Strand → VOp) (mreg : Option (BitVec 3)) (st : State) : Out :=
  issueEngine st len fun i t s =>
    if onControl i then .error (preciseStop t ⟨cIllegal, 0, 0⟩)
    else if t.anyX xs || queueFull i t s || ((op t).memory && (t.acquiring || t.releasing)) then .error .stall
    else .ok (pushEntry i (vEntry t (op t) mreg) s)

/-- The length that VSETL grants (R125). -/
def grantLength (cfg : Word) (lanes req : Nat) : Nat :=
  let g := min req (capacity lanes (widthOf (fmtOf cfg)))
  let L := blockOf cfg
  if sclOf cfg && L ≤ g then g - g % L else g

/-- The strip name after a VSETL at an address grants a length (R407). -/
def StripName.next (n : StripName) (pc : Addr) (vl : BitVec 13) : StripName :=
  if pc = n.saddr then ⟨n.saddr, n.ord + 1, vl⟩ else ⟨pc, 0, vl⟩

/-- Whether an armed strip breakpoint matches a VSETL of a strand (R416). -/
def Strand.breaks (t : Strand) : Bool :=
  t.brk.armed && t.brk.pass ≠ some t.pc && t.pc = t.brk.addr && (t.brk.any || (t.strip.next t.pc 0).ord = t.brk.ord)

/-- The debug stop before a VSETL whose breakpoint matches (R416), once the strand's vector queue is empty. -/
def debugStop (i : StrandId) (s : State) : Option State :=
  let t := s.strand i
  if !t.breaks || !t.live.isEmpty || t.status ≠ .running then none
  else
    let n := t.strip.next t.pc t.strip.vl
    some (traceStrand i 7 t.issued n t.pc.toNat (s.setStatus i (.blocked .debug)))

/-- VSETL (R125, R407, R416). A matching strip breakpoint stops the strand before it. -/
def execVsetl (d s : BitVec 5) (st : State) : Out :=
  issueEngine st one fun i t st' =>
    if onControl i then .error (preciseStop t ⟨cIllegal, 0, 0⟩)
    else if t.breaks then (match debugStop i st with | some s => .ok (takeSlot i s) | none => .error .stall)
    else if t.anyX [d, s] || t.pendVl || queueFull i t st' then .error .stall
    else
      let n := grantLength t.vcfg (st'.lanes i) (t.xr s).toNat
      let name := t.strip.next t.pc (BitVec.ofNat 13 n)
      let st' := st'.modStrand i fun r =>
        { (r.setX d (BitVec.ofNat 64 n)) with vl := BitVec.ofNat 13 n, strip := name, brk := { r.brk with pass := if r.brk.pass = some t.pc then none else r.brk.pass } }
      let st' := pushEntry i { vEntry t (.setl (BitVec.ofNat 13 n)) none with strip := name } st'
      .ok (traceStrand i 3 t.issued name t.pc.toNat st')

/-- VSETCFG (R126). -/
def execVsetcfg (d s : BitVec 5) (st : State) : Out :=
  issueEngine st one fun i t st =>
    if onControl i then .error (preciseStop t ⟨cIllegal, 0, 0⟩)
    else if t.anyX [d, s] || queueFull i t st then .error .stall
    else
      let v := t.xr s &&& maskBits 10 0
      if vcfgInvalid v then .error (preciseStop t ⟨cVcfgInvalid, 0, 0⟩)
      else .ok (pushEntry i (vEntry t (.setcfg v) none) (st.modStrand i fun r => { (r.setX d t.vcfg) with vcfg := v }))

/-! ### VPART (R124) -/

/-- The lanes of a descriptor's size code; none for an invalid code. -/
def sizeOf (sz : Nat) : Option Nat :=
  match sz with
  | 1 => some 4
  | 2 => some 8
  | 3 => some 16
  | 4 => some 32
  | _ => none

/-- Lays groups of some sizes and owners out from a lane on (R123, R124): each at the next multiple of its size; none where one would end beyond
lane 31. -/
def layGroups : Nat → Nat → List (Nat × BitVec 3) → Option (List (Nat × LaneGroup))
  | _, _, [] => some []
  | k, lane, (n, own) :: r =>
    let b := (lane + n - 1) / n * n
    if 32 < b + n then none
    else (layGroups (k + 1) (b + n) r).map fun gs => (k, ⟨b, n, some own⟩) :: gs

/-- The descriptors of a VPART operand before the first with SZ = 0; none for an invalid operand (R124). OWN of the descriptor with SZ = 0 may be
anything. -/
def partList : List Nat → Option (List (Nat × BitVec 3))
  | [] => some []
  | d :: r =>
    if d / 8 % 2 = 1 || d / 128 = 1 then none
    else if d % 8 = 0 then (if r.all (· = 0) then some [] else none)
    else
      match sizeOf (d % 8) with
      | none => none
      | some n => (partList r).map fun l => (n, BitVec.ofNat 3 (d / 16)) :: l

/-- The groups of a VPART operand; none where it is invalid by itself. -/
def partGroups (x : Word) : Option (List (Nat × LaneGroup)) :=
  match partList ((List.range 8).map fun k => field x.toNat (8 * k) 8) with
  | none => none
  | some l => if (l.map (·.2)).Nodup then layGroups 0 0 l else none

/-- A slot that a queued FORKL has reserved (R134). -/
def State.reserved (s : State) (c : CoreId) (slot : BitVec 3) : Bool :=
  (slots c).any fun j => (s.strand j).queue.any fun e => match e.op with | .fork _ _ (some k) _ _ => k = slot | _ => false

/-- VPART (R124): from its issue until it takes effect, no vector queue of the tile takes an entry. -/
def execVpart (s : BitVec 5) (st : State) : Out :=
  issueEngine st one fun i t st =>
    match i.core with
    | .control _ => .error (preciseStop t ⟨cIllegal, 0, 0⟩)
    | .tile _ =>
      if t.anyX [s] || queueFull i t st then .error .stall
      else
        let bad : Except Stop State := .error (preciseStop t ⟨cVpartInvalid, 0, 0⟩)
        match partGroups (t.xr s) with
        | none => bad
        | some gs =>
          if gs.any (fun g => match g.2.owner with | some o => (st.strand ⟨i.core, o⟩).status = .free | none => false) then bad
          else if (slots i.core).any (fun j => (st.strand j).grant.isSome) then bad
          else
            .ok (pushEntry i (vEntry t (.part (t.xr s)) none) st)

/-- The operand of a VPART at the head of a strand's queue, unless a trap holds the queue. -/
def Strand.partsNow (t : Strand) : Option Word :=
  match t.held, t.queue with
  | false, e :: _ => (match e.op with | .part x => some x | _ => none)
  | _, _ => none

/-- The group that a slot owns in a list of groups. -/
def ownedIn (gs : List (Nat × LaneGroup)) (slot : BitVec 3) : Option LaneGroup := (gs.find? (·.2.owner = some slot)).map (·.2)

/-- VPART_EFFECT (R124): every earlier vector-class instruction of every strand of the tile has retired, and the VPART retires with its effect. -/
def execVpartEffect (t : TileId) (st : State) : Out :=
  event st <|
    let v := st.tile t
    match (slots (.tile t)).find? fun j => (st.strand j).partsNow.isSome with
    | none => none
    | some i =>
      if !v.works || ((slots (.tile t)).any fun j => j != i && !(st.strand j).queue.isEmpty) then none
      else
        let gs := (partGroups ((st.strand i).partsNow.getD 0)).getD []
        let s := retire i 0 (st.setTile t { v with groups := gs })
        some ((slots (.tile t)).foldl (fun s j =>
          let same := ownedIn gs j.slot = ownedIn v.groups j.slot
          s.modStrand j fun r => { r with vl := 0, vvl := 0, vstart := 0, dirty := BitVec.allOnes 32
                                          links := if same then r.links else [], loose := if same then r.loose else [] }) s)

/-! ### SBR (R133) -/

/-- Advances the address registers of an SBR in order. -/
def sbrAdvance (vl : Nat) : List (BitVec 4 × Nat) → Strand → Strand
  | [], t => t
  | (r, sz) :: rest, t => sbrAdvance vl rest (t.setA r (t.ar r + BitVec.ofNat 80 (vl * 2 ^ sz)))

/-- SBR (R133). -/
def execSbr (c : BitVec 5) (a0 a1 a2 a3 : BitVec 4) (n : BitVec 3) (sz : BitVec 8) (off : BitVec 24) (st : State) : Out :=
  issue st two fun i t st =>
    if onControl i then .error (preciseStop t ⟨cIllegal, 0, 0⟩)
    else if t.anyX [c] || t.pendVl then .error .stall
    else
      let r := t.xr c - t.vl.setWidth 64
      let regs := ([a0, a1, a2, a3].zip ((List.range 4).map fun k => field sz.toNat (2 * k) 2)).take n.toNat
      .ok (st.modStrand i fun u =>
        let u := sbrAdvance t.vl.toNat regs (u.setX c r)
        if 0 < r.toInt then { u with pc := t.pc + 4 * sext80 off } else u)

/-! ### FORKL and JOINL (R134, R135) -/

/-- The lowest-numbered Free slot of a core that no queued FORKL has reserved. -/
def State.freeSlot (s : State) (c : CoreId) : Option (BitVec 3) :=
  ((slots c).find? fun j => (s.strand j).status = .free && !s.reserved c j.slot).map (·.slot)

/-- FORKL (R134). It captures the x and a registers as they stand at its issue and waits for the mark of xD alone: a register whose value an outstanding
access has still to write is captured with its old value, which the spec leaves open (log entry 61). -/
def execForkl (d : BitVec 5) (s : BitVec 4) (st : State) : Out :=
  issueEngine st one fun i t st =>
    if onControl i then .error (preciseStop t ⟨cIllegal, 0, 0⟩)
    else if t.anyX [d] || t.pendVl || queueFull i t st then .error .stall
    else if (t.ar s).toNat % 4 != 0 then .error (preciseStop t ⟨cJumpMisaligned, t.ar s, 0⟩)
    else if st.lanes i ≤ 4 || t.grant.isSome then .error (preciseStop t ⟨cLaneSplit, 0, 0⟩)
    else
      let c := st.freeSlot i.core
      let st := st.modStrand i fun r => { r with vl := 0, grant := c.map fun k => ⟨k, none⟩ }
      let st := if c.isNone then st.setX i d 0 else st
      .ok (pushEntry i (vEntry t (.fork d (t.ar s) c t.x t.a) none) st)

/-- The lowest-numbered free lane group of a tile. -/
def freeGroup (gs : List (Nat × LaneGroup)) : Nat := ((List.range 8).find? fun k => (amGet k gs).isNone).getD 8

/-- FORKL_ACT (R134): the FORKL at the head of the queue splits the group and starts the child. The child's `fcsr` and `vcfg` are the parent's as they
stand when FORKL acts, `vcfg` on the vector side: the spec names no time (log entry 61). -/
def execForklAct (i : StrandId) (st : State) : Out :=
  event st <|
    let t := st.strand i
    match t.held || !st.coreRuns i.core, t.queue with
    | false, e :: _ =>
      match e.op, i.core with
      | .fork _ _ none _ _, _ => some (retire i 0 (st.modStrand i fun r => { r with vvl := 0 }))
      | .fork d pc (some c) xs as, .tile u =>
        let v := st.tile u
        match v.groups.find? (·.2.owner = some i.slot) with
        | none => none
        | some (k, g) =>
          let h := g.size / 2
          let gs := amSet (freeGroup v.groups) ⟨g.base + h, h, some c⟩ (amSet k { g with size := h } v.groups)
          let s := retire i 0 (st.setTile u { v with groups := gs })
          let s := s.modStrand i fun r => { r with vvl := 0, links := [], loose := [] }
          let (n, s) := newStamp i.core s
          let j : StrandId := ⟨i.core, c⟩
          let p := s.strand i
          let child : Strand :=
            { status := .running, pc := pc, x := xs, a := as, fcsr := p.fcsr, vcfg := p.vvcfg, vvcfg := p.vvcfg, age := n, level := p.level,
              ctxcur := p.ctxcur, ctx := p.ctx, dirty := BitVec.allOnes 32, orphans := (s.strand j).orphans }
          some ((s.setStrand j child).setX i d (BitVec.ofNat 64 (c.toNat + 1)))
      | _, _ => none
    | _, _ => none

/-- The child that a JOINL has still to join: one that a queued JOINL takes back is no unjoined child any more (log entry 91). -/
def Strand.unjoined (t : Strand) : Option Child := if t.queue.any (fun e => e.op = .join) then none else t.grant

/-- The scalar-side `vl` becomes 0 as JOINL enters the queue (R135). -/
def joinLength (i : StrandId) (s : State) : State := s.modStrand i fun r => { r with vl := 0 }

/-- JOINL (R135). Its record on pipe 0 begins at its issue in every case (R410). -/
def execJoinl (st : State) : Out :=
  issueEngine st one fun i t s =>
    if onControl i then .error (preciseStop t ⟨cIllegal, 0, 0⟩)
    else
      let begun (s : State) : State := traceEvent i 0 false t.issued t.strip t.pc s
      match t.unjoined with
      | none => .ok (traceEvent i 0 true t.issued t.strip t.pc (begun s))
      | some c =>
        if t.pendVl || queueFull i t s then .error .stall
        else if c.gone.isSome then .ok (pushEntry i (vEntry t .join none) (joinLength i s))
        else .ok (block i t .join (begun s))

/-- JOINL_WAKE (R135): the child's slot is Free, and the JOINL enters the queue. The strand was advanced at the issue of the JOINL (R409). -/
def execJoinlWake (i : StrandId) (st : State) : Out :=
  event st <|
    let t := st.strand i
    match t.status, t.grant with
    | .blocked .join, some c =>
      if c.gone.isSome && !queueFull i t st then some (unblock i one (enqueue i { vEntry t .join none with seq := t.issued - 1 } (joinLength i st))) else none
    | _, _ => none

/-- JOINL_ACT (R135): the halves form the parent's group again. -/
def execJoinlAct (i : StrandId) (st : State) : Out :=
  event st <|
    let t := st.strand i
    match t.held || !st.coreRuns i.core, t.queue, i.core with
    | false, e :: _, .tile u =>
      if e.op ≠ .join then none
      else
        let v := st.tile u
        match v.groups.find? (·.2.owner = some i.slot) with
        | none => none
        | some (k, g) =>
          let gs := (v.groups.filter fun (_, h) => !(h.base = g.base + g.size && h.size = g.size)).map fun (n, h) =>
            if n = k then (n, { h with size := 2 * h.size }) else (n, h)
          let s := retire i 0 (st.setTile u { v with groups := gs })
          some (s.modStrand i fun r => { r with vvl := 0, grant := none, dirty := BitVec.allOnes 32 })
    | _, _, _ => none

end Sys2Proof.Machine
end

