-- ==== Sys2Proof/Machine/VecArith.lean ====
section
/-! DEFINITION. What vector arithmetic, mask and conversion instructions do to one element (R78 to R82, R132, R140 to R154). -/

namespace Sys2Proof.Machine

open Sys2Proof

/-! ### Integer functions (R145, R146) -/

/-- A value clamped to the range of a width. -/
def clampInt (w : Nat) (signed : Bool) (i : Int) : Nat :=
  let rg := intRange w signed
  codeOfInt w (max rg.1 (min rg.2 i))

/-- An integer function on W-bit elements (R145, R146). -/
def VInt.eval (op : VInt) (w s t : Nat) : Nat :=
  let a := intOfCode w true s
  let b := intOfCode w true t
  let m := 2 ^ w
  match op with
  | .add => (s + t) % m
  | .sub => (s + m - t) % m
  | .and => s &&& t
  | .or => s ||| t
  | .xor => s ^^^ t
  | .sll => s * 2 ^ (t % w) % m
  | .srl => s / 2 ^ (t % w)
  | .sra => codeOfInt w (a / 2 ^ (t % w))
  | .min => if a < b then s else t
  | .max => if a < b then t else s
  | .minu => Nat.min s t
  | .maxu => Nat.max s t
  | .mul => s * t % m
  | .mulh => codeOfInt w (a * b / 2 ^ w)
  | .mulhu => s * t / m
  | .div =>
    if t = 0 then (if a < 0 then 2 ^ (w - 1) else 2 ^ (w - 1) - 1)
    else if a = -(2 ^ (w - 1) : Int) && b = -1 then 2 ^ (w - 1) - 1
    else codeOfInt w (Int.tdiv a b)
  | .divu => if t = 0 then m - 1 else s / t
  | .rem => if t = 0 then s else codeOfInt w (Int.tmod a b)
  | .remu => if t = 0 then s else s % t
  | .sadd => clampInt w true (a + b)
  | .saddu => clampInt w false ((s : Int) + t)
  | .ssub => clampInt w true (a - b)
  | .ssubu => clampInt w false ((s : Int) - t)
  | .abs => codeOfInt w a.natAbs
  | .neg => (m - s) % m

/-! ### Floating-point functions (R147 to R150) -/

/-- The reciprocal estimate (R149). -/
def FFmt.rece (F : FFmt) (fz : Bool) (a : Nat) : Nat × Flags :=
  match F.flushIn fz (F.decode a) with
  | .nan s => (F.nanCode, flagIf s flagNV)
  | .zero neg => (F.infCode neg, flagDZ)
  | .inf neg => (F.zeroCode neg, 0)
  | .fin neg n d =>
    let E := floorLog2 n d
    let p := scalePow d E
    let i := n * p.2 * 128 / p.1 - 128
    let t := (131072 + (257 + 2 * i)) / (2 * (257 + 2 * i)) - 128
    let e : Int := -E - 1
    let top : Int := 2 ^ F.expW - 2 - F.bias
    if top < e then (F.infCode neg, flagOF ||| flagNX)
    else if e < F.emin then
      let v := scalePow (128 + t) (e - 7)
      let q := scalePow 1 (F.emin - F.fracW)
      let k := v.1 * q.2 / (v.2 * q.1)
      let lost := v.1 * q.2 % (v.2 * q.1) != 0
      if fz && F.flush && k != 0 then (F.zeroCode neg, flagUF ||| flagNX)
      else (F.zeroCode neg + k, flagUF ||| flagIf lost flagNX)
    else (F.encode neg ((128 + t) * 2 ^ (F.fracW - 7)) (e - F.fracW), 0)

/-- The reciprocal square-root estimate (R150). -/
def FFmt.rsqe (F : FFmt) (fz : Bool) (a : Nat) : Nat × Flags :=
  match F.flushIn fz (F.decode a) with
  | .nan s => (F.nanCode, flagIf s flagNV)
  | .zero neg => (F.infCode neg, flagDZ)
  | .inf false => (F.zeroCode false, 0)
  | .inf true => (F.nanCode, flagNV)
  | .fin true _ _ => (F.nanCode, flagNV)
  | .fin false n d =>
    let E := floorLog2 n d
    let q := scalePow d E
    let p := (E % 2).toNat
    let j := n * q.2 * 64 / q.1 - 64
    let x := 4 * 2 ^ (23 - p) / (129 + 2 * j)
    let u := (isqrtBits x 13 0 + 1) / 2 - 128
    let e : Int := -((E - p) / 2) - 1
    (F.encode false ((128 + u) * 2 ^ (F.fracW - 7)) (e - F.fracW), 0)

/-- A code with its sign bit replaced; a NaN gives the canonical NaN (R147). -/
def FFmt.withSign (F : FFmt) (s : Nat) (neg : Bool) : Nat :=
  if (F.decode s).isNan then F.nanCode else F.zeroCode neg + s % 2 ^ (F.expW + F.fracW)

/-- The sign bit of a code. -/
def FFmt.signBit (F : FFmt) (c : Nat) : Bool := c / 2 ^ (F.expW + F.fracW) % 2 = 1

/-- A floating-point function on codes (R147). -/
def VFp.eval (op : VFp) (F : FFmt) (m : RMode) (fz : Bool) (s t d : Nat) : Nat × Flags :=
  match op with
  | .add => F.add m fz s t
  | .sub => F.sub m fz s t
  | .mul => F.mul m fz s t
  | .div => F.div m fz s t
  | .min => F.minMax false fz s t
  | .max => F.minMax true fz s t
  | .fma => F.fma m fz false false s t d
  | .fms => F.fma m fz false true s t d
  | .fnma => F.fma m fz true false s t d
  | .sqrt => F.sqrt m fz s
  | .rece => F.rece fz s
  | .rsqe => F.rsqe fz s
  | .abs => (F.withSign s false, 0)
  | .neg => (F.withSign s (!F.signBit s), 0)
  | .sgnj => (F.withSign s (F.signBit t), 0)

/-- The float format of `vcfg` (R143): FP32, BF16, FP16, and RAW as FP64. -/
def vecFloat (tag : BitVec 4) : FFmt :=
  match tag.toNat with
  | 0 => .fp64
  | 1 => .fp32
  | 2 => .bf16
  | _ => .fp16

/-- A compare (R151). -/
def VCmp.eval (op : VCmp) (F : FFmt) (fz : Bool) (w s t : Nat) : Bool × Flags :=
  let a := intOfCode w true s
  let b := intOfCode w true t
  match op with
  | .eq => (s = t, 0)
  | .ne => (s ≠ t, 0)
  | .lt => (a < b, 0)
  | .le => (a ≤ b, 0)
  | .ltu => (s < t, 0)
  | .leu => (s ≤ t, 0)
  | .feq => F.compare 0 fz s t
  | .flt => F.compare 1 fz s t
  | .fle => F.compare 2 fz s t
  | .funord => ((F.decode s).isNan || (F.decode t).isNan, snanFlag [F.decode s, F.decode t])

/-- Float compares (R151). -/
def VCmp.isFloat : VCmp → Bool
  | .feq | .flt | .fle | .funord => true
  | _ => false

/-! ### Block scales (R62 to R64) -/

/-- A block scale. -/
inductive Scale where
  | res
  | zero
  | nan
  | fin (n d : Nat)
  deriving DecidableEq, Repr

/-- The scale of a 16-bit container (R62). -/
def scaleOf (c : Nat) : Scale :=
  let E := c / 16
  let F := c % 16
  if 4096 ≤ c then .res
  else if E = 0 then (if F = 0 then .zero else .res)
  else if E = 255 then (if F = 0 then .nan else .res)
  else
    let p := scalePow (16 + F) ((E : Int) - 131)
    .fin p.1 p.2

/-- The number that a block-scaled element denotes, and whether NV is raised (R64). A NaN element raises nothing, a signalling one neither, as VBSAPPLY
may read one: the spec does not say (log entry 66). -/
def scaled (v : Val) (sc : Scale) : Val × Bool :=
  match sc, v with
  | .nan, _ => (.nan false, false)
  | _, .nan _ => (.nan false, false)
  | .zero, .inf _ => (.nan false, true)
  | .zero, v => (.zero v.isNeg, false)
  | .fin _ _, .inf b => (.inf b, false)
  | .fin _ _, .zero b => (.zero b, false)
  | .fin n d, .fin b n' d' => (.fin b (n * n') (d * d'), false)
  | .res, v => (v, false)

/-- The code of the smallest S12 value at or above `n / d`, or of the largest finite one (R80). -/
def scaleAbove (n d : Nat) : Nat :=
  let l := floorLog2 n d
  let p := scalePow d (l - 4)
  let m := (n * p.2 + p.1 - 1) / p.1
  let E : Int := l + 127
  if E < 1 then 16
  else
    let c := E.toNat * 16 + (m - 16)
    if 0xFEF < c then 0xFEF else c

/-- Whether a code is reserved in its format (R65): an E3M2 or E2M3 byte above 63. -/
def reservedCode (tag : BitVec 4) (c : Nat) : Bool := (tag = 6 || tag = 7) && 64 ≤ c

/-- The exact value of a code of a numeric format tag (R59, R61). -/
def valueOf (tag : BitVec 4) (c : Nat) : Val :=
  match floatFmt tag, intFmt tag with
  | some F, _ => F.decode c
  | none, some (w, sg) => .ofInt (intOfCode w sg c)
  | none, none => .zero false

/-- The largest finite magnitude of a scaled destination, M (R80). -/
def maxOf (tag : BitVec 4) : Nat × Nat :=
  match floatFmt tag with
  | some F => scalePow F.maxParts.1 F.maxParts.2
  | none => (127, 1)

/-! ### Elements -/

/-- The trap of a reserved code (R66). -/
def reservedFlt : Flt := ⟨cFormatReserved, 0, 0⟩

/-- The third operand of an element (R141). -/
def VCtx.operand (c : VCtx) (t : VSrc) (w e : Nat) (s : State) : Nat :=
  match t with
  | .reg r => c.get r w e s
  | .const x => x.toNat % 2 ^ w

/-- VDOT4 and VDOT8 at one element (R153). A signalling NaN in the accumulator raises NV, as in R100, where R153 says only that a NaN input gives a NaN
(log entry 66). -/
def dotElem (c : VCtx) (r : Nat) (d sv tv : BitVec 5) (e : Nat) (s : State) : VRes :=
  let tag := fmtOf c.cfg
  let w := 32 / r
  let xs := (List.range r).map fun q => c.get sv w (r * e + q) s
  let ys := (List.range r).map fun q => c.get tv w (r * e + q) s
  let acc := c.get d 32 e s
  if xs.any (reservedCode tag) || ys.any (reservedCode tag) then .fault reservedFlt
  else
    match intFmt tag with
    | some (w, sg) =>
      let sum := (xs.zip ys).foldl (fun (a : Int) p => a + intOfCode w sg p.1 * intOfCode w sg p.2) (acc : Int)
      .ok 0 (c.put d 32 e (codeOfInt 32 sum) s)
    | none =>
      let m := (vrmOf c.cfg).plain
      let a := FFmt.fp32.flushIn c.fz (FFmt.fp32.decode acc)
      let ps := (xs.zip ys).map fun p => (valueOf tag p.1).mul (valueOf tag p.2)
      let r := FFmt.fp32.sum m c.fz (a :: ps.map (·.1)) (snanFlag [a] ||| flagIf (ps.any (·.2)) flagNV)
      .ok r.2 (c.put d 32 e r.1 s)

/-- The scale of the block of an element (R63). -/
def VCtx.scale (c : VCtx) (t : BitVec 5) (e : Nat) (s : State) : Scale := scaleOf (c.get t 16 (e / blockOf c.cfg) s)

/-- VBSAPPLY at one element (R154). -/
def bsapplyElem (c : VCtx) (d sv tv : BitVec 5) (e : Nat) (s : State) : VRes :=
  let F := vecFloat (fmtOf c.cfg)
  match c.scale tv e s with
  | .res => .fault reservedFlt
  | sc =>
    let v := scaled (F.flushIn c.fz (F.decode (c.get sv c.w e s))) sc
    let r := F.result (vrmOf c.cfg).plain c.fz v.1
    .ok (r.2 ||| flagIf v.2 flagNV) (c.put d c.w e r.1 s)

/-- The rounding mode of a conversion (R39, R67). -/
def cvtMode (rnd : BitVec 3) (cfg : Word) : RMode := if rnd = 0 then vrmOf cfg else RMode.ofCode (rnd.toNat - 1)

/-- Steps the generator of the lane that holds element `e` of a register group, where the mode is stochastic (R69). -/
def VCtx.step (c : VCtx) (m : RMode) (d : BitVec 5) (w e : Nat) (s : State) : Nat × State :=
  if m = .stochastic then stepGen c.i (elemPos c.g d.toNat w e).2.1 s else (0, s)

/-- VCVT, VCVT.W and VCVT.N at one element (R79). -/
def cvtElem (c : VCtx) (d sv : BitVec 5) (srcf dstf : BitVec 4) (rnd : BitVec 3) (sat : Bool) (e : Nat) (s : State) : VRes :=
  let x := c.get sv (widthOf srcf) e s
  let m := cvtMode rnd c.cfg
  if reservedCode srcf x then .fault reservedFlt
  else
    let (g, s) := c.step m d (widthOf dstf) e s
    let r := convert srcf dstf m sat c.fz g x
    .ok r.2 (c.put d (widthOf dstf) e r.1 s)

/-- An exact value as a code of a floating-point format (R72). -/
def FFmt.cvtVal (D : FFmt) (m : RMode) (sat fz : Bool) (g : Nat) (v : Val) : Nat × Flags :=
  match v with
  | .nan _ => (D.nanCode, 0)
  | .zero b => (D.zeroCode b, 0)
  | .inf b => (D.infCode b, 0)
  | .fin b n d => D.round m sat fz g b n d

/-- VCVT.SC at one element, decoding (R80). -/
def decodeElem (c : VCtx) (d sv tv : BitVec 5) (srcf dstf : BitVec 4) (rnd : BitVec 3) (sat : Bool) (e : Nat) (s : State) : VRes :=
  let x := c.get sv (widthOf srcf) e s
  let m := cvtMode rnd c.cfg
  match c.scale tv e s, floatFmt dstf with
  | .res, _ => .fault reservedFlt
  | _, none => .ok 0 s
  | sc, some D =>
    if reservedCode srcf x then .fault reservedFlt
    else
      let v := scaled (valueOf srcf x) sc
      let (g, s) := c.step m d (widthOf dstf) e s
      let r := D.cvtVal m sat c.fz g v.1
      .ok (r.2 ||| flagIf v.2 flagNV) (c.put d (widthOf dstf) e r.1 s)

/-- The magnitude of a finite value. -/
def Val.mag : Val → Nat × Nat
  | .fin _ n d => (n, d)
  | _ => (0, 1)

/-- The larger of two magnitudes. -/
def maxMag (a b : Nat × Nat) : Nat × Nat := if a.1 * b.2 < b.1 * a.2 then b else a

/-- The active source values of a block (R80), after FZ. -/
def VCtx.blockVals (c : VCtx) (sv : BitVec 5) (srcf : BitVec 4) (F : FFmt) (blk : Nat) (s : State) : List Val :=
  let L := blockOf c.cfg
  ((range (blk * L) (min c.vl ((blk + 1) * L))).filter fun e => c.act e s).map fun e =>
    F.flushIn c.fz (F.decode (c.get sv (widthOf srcf) e s))

/-- VCVT.SC at one element, encoding (R80). The block's scale is written, and the flag of a NaN or infinite block raised, with the block's last element
at the latest, be that element active or not. -/
def encodeElem (c : VCtx) (d sv tv : BitVec 5) (srcf dstf : BitVec 4) (rnd : BitVec 3) (e : Nat) (s : State) : VRes :=
  match floatFmt srcf with
  | none => .ok 0 s
  | some F =>
    let L := blockOf c.cfg
    let blk := e / L
    let vals := c.blockVals sv srcf F blk s
    let m := cvtMode rnd c.cfg
    let wd := widthOf dstf
    let active := c.act e s
    let last := e + 1 = min c.vl ((blk + 1) * L)
    let bad := vals.any fun v => match v with | .nan _ => true | .inf _ => true | _ => false
    let A := (vals.map Val.mag).foldl maxMag (0, 1)
    let Mq := maxOf dstf
    let code := if bad then 0xFF0 else if A.1 = 0 then 0 else scaleAbove (A.1 * Mq.2) (A.2 * Mq.1)
    let (g, s') := if active then c.step m d wd e s else (0, s)
    let x := F.flushIn c.fz (F.decode (c.get sv (widthOf srcf) e s))
    let r : Nat × Flags :=
      if bad then (0, flagIf true (if vals.any Val.isNan then flagNV else flagOF))
      else
        match floatFmt dstf, x, scaleOf code with
        | some D, .fin b n dd, .fin sn sd => D.round m true false g b (n * sd) (dd * sn)
        | none, .fin b n dd, .fin sn sd => cvtValInt 8 true m g (.fin b (n * sd) (dd * sn))
        | some D, v, _ => (D.zeroCode v.isNeg, 0)
        | none, _, _ => (0, 0)
    let s' := if active then c.put d wd e r.1 s' else s'
    let s' := if last && !vals.isEmpty then c.put tv 16 blk code s' else s'
    .ok (if active || (last && bad) then r.2 else 0) s'

/-- Whether a VCVT.SC decodes (R80): its source is a scaled format. -/
def scDecodes (srcf : BitVec 4) : Bool := 4 ≤ srcf.toNat

/-- What an element-wise instruction of majors 0x1C to 0x24 does at an element: `none` for an instruction of another kind. The element is
active, but for VMERGE and an encoding VCVT.SC, which see every element. -/
def arithElem (c : VCtx) (e : Nat) (s : State) : Option VRes :=
  let w := c.w
  match c.x.op with
  | .int op d a t => some (.ok 0 (c.put d w e (op.eval w (c.get a w e s) (c.operand t w e s)) s))
  | .fp op d a t =>
    let r := op.eval (vecFloat (fmtOf c.cfg)) (vrmOf c.cfg).plain c.fz (c.get a w e s) (c.operand t w e s) (c.get d w e s)
    some (.ok r.2 (c.put d w e r.1 s))
  | .cmp op d a t =>
    let r := op.eval (vecFloat (fmtOf c.cfg)) c.fz w (c.get a w e s) (c.operand t w e s)
    some (.ok r.2 (setMbit c.i d e r.1 s))
  | .merge d a t => some (.ok 0 (c.put d w e (if c.act e s then c.get t w e s else c.get a w e s) s))
  | .mv d a => some (.ok 0 (c.put d w e (c.get a w e s) s))
  | .vid d => some (.ok 0 (c.put d w e (e % 2 ^ w) s))
  | .splat d x => some (.ok 0 (c.put d w e (x.toNat % 2 ^ w) s))
  | .dot r d a t => some (dotElem c r d a t e s)
  | .bsapply d a t => some (bsapplyElem c d a t e s)
  | .cvt .scaled d a t sf df rnd sat =>
    some (if scDecodes sf then decodeElem c d a t sf df rnd sat e s else encodeElem c d a t sf df rnd e s)
  | .cvt _ d a _ sf df rnd sat => some (cvtElem c d a sf df rnd sat e s)
  | _ => none

/-- Whether an instruction visits inactive elements too: VMERGE, and an encoding VCVT.SC. -/
def VOp.visitsAll : VOp → Bool
  | .merge _ _ _ => true
  | .cvt .scaled _ _ _ sf _ _ _ => !scDecodes sf
  | _ => false

/-! ### Instructions that act in one group -/

/-- A mask operation on two bits (R132). -/
def MaskOp.eval (op : MaskOp) (a b : Bool) : Bool :=
  match op with
  | .and => a && b
  | .or => a || b
  | .xor => a != b
  | .andn => a && !b
  | .not => !a
  | .set => true
  | .clr => false

/-- The bits `lo` to `hi - 1` of a mask register. -/
def maskRange (lo hi : Nat) : BitVec 4096 := (BitVec.allOnes 4096 <<< lo) &&& ~~~ (BitVec.allOnes 4096 <<< hi)

/-- A mask operation on whole registers. -/
def MaskOp.word (op : MaskOp) (a b : BitVec 4096) : BitVec 4096 :=
  match op with
  | .and => a &&& b
  | .or => a ||| b
  | .xor => a ^^^ b
  | .andn => a &&& ~~~ b
  | .not => ~~~ a
  | .set => BitVec.allOnes 4096
  | .clr => 0

/-- VEXT's extension (R152). -/
def extWord (tag : BitVec 4) (w v : Nat) : Word :=
  if tag = 9 || tag = 10 || tag = 11 || tag = 13 then BitVec.ofInt 64 (intOfCode w true v) else BitVec.ofNat 64 v

/-- Seeds the lanes of a group (R69, R82). -/
def seedLanes (c : VCtx) (x : Word) (s : State) : State :=
  s.modTile (vTile c.i) fun v =>
    { v with lfsr := (List.range c.g.size).foldl (fun l k => amSet (c.g.base + k) (xsSeed (x.setWidth 32) k) l) v.lfsr }

/-- What an instruction does that acts in one group: mask instructions (R132), VEXT (R152) and VSRSEED (R82); `none` for another kind. -/
def oneGroup (c : VCtx) (s : State) : Option State :=
  let t := s.strand c.i
  let rg := maskRange c.x.first c.vl
  match c.x.op with
  | .mask op d a b =>
    some (s.setStrand c.i (t.setM d ((t.mr d &&& ~~~ rg) ||| (op.word (t.mr a) (t.mr b) &&& rg))))
  | .mpopc d a => some (s.setX c.i d (BitVec.ofNat 64 ((range c.x.first c.vl).filter (t.mbit a)).length))
  | .mfirst d a =>
    some (s.setX c.i d (match (range c.x.first c.vl).find? (t.mbit a) with | some e => BitVec.ofNat 64 e | none => BitVec.allOnes 64))
  | .ext d a k =>
    some (s.setX c.i d (if c.vl ≤ k.toNat then 0 else extWord (fmtOf c.cfg) c.w (c.get a c.w k.toNat s)))
  | .srseed x => some (seedLanes c x s)
  | _ => none

/-! ### Checks at the start (R79, R143, R144) -/

/-- Whether the format of `vcfg` is accepted (R143). -/
def VOp.accepts (op : VOp) (cfg : Word) : Bool :=
  let f := (fmtOf cfg).toNat
  match op with
  | .fp _ _ _ _ => f ≤ 3 && !sclOf cfg
  | .cmp k _ _ _ => !k.isFloat || (f ≤ 3 && !sclOf cfg)
  | .bsapply _ _ _ => f ≤ 3 && !sclOf cfg
  | .dot 4 _ _ _ => (f = 4 || f = 5 || f = 6 || f = 7 || f = 11 || f = 12) && !sclOf cfg
  | .dot _ _ _ _ => (f = 8 || f = 13 || f = 14) && !sclOf cfg
  | _ => true

/-- The width at which the length is limited (R79, R122, R153), none for the instructions that raise no trap (R82, R132). -/
def VOp.limit (op : VOp) (cfg : Word) : Option Nat :=
  match op with
  | .mask _ _ _ _ | .mpopc _ _ | .mfirst _ _ | .srseed _ => none
  | .dot _ _ _ _ => some 32
  | .cvt _ _ _ _ sf df _ _ => some (min (widthOf sf) (widthOf df))
  | _ => some (widthOf (fmtOf cfg))

/-- The width that fixes the element groups (R81, R129). -/
def VOp.groupWidth (op : VOp) (cfg : Word) : Nat :=
  match op with
  | .dot _ _ _ _ => 32
  | .cvt _ _ _ _ sf df _ _ => max (widthOf sf) (widthOf df)
  | _ => widthOf (fmtOf cfg)

end Sys2Proof.Machine
end

