-- ==== Sys2Proof/Machine/CrossLane.lean ====
section
/-! DEFINITION. What the instructions of the cross-lane network do (R177 to R189): each is one element group. -/

namespace Sys2Proof.Machine

open Sys2Proof

/-! ### Operators and the tree (R181, R182) -/

/-- An operator on two elements (R181). -/
def redOp (c : VCtx) (op : Nat) (a b : Nat) : Nat × Flags :=
  let w := c.w
  let F := vecFloat (fmtOf c.cfg)
  match op with
  | 0 => (VInt.add.eval w a b, 0)
  | 1 => (a &&& b, 0)
  | 2 => (a ||| b, 0)
  | 3 => (a ^^^ b, 0)
  | 4 => (VInt.min.eval w a b, 0)
  | 5 => (VInt.max.eval w a b, 0)
  | 6 => (Nat.min a b, 0)
  | 7 => (Nat.max a b, 0)
  | 8 => F.add (vrmOf c.cfg).plain c.fz a b
  | 9 => F.minMax false c.fz a b
  | _ => F.minMax true c.fz a b

/-- The identity of an operator (R181). -/
def redIdentity (c : VCtx) (op : Nat) : Nat :=
  let w := c.w
  let F := vecFloat (fmtOf c.cfg)
  match op with
  | 1 => 2 ^ w - 1
  | 4 => 2 ^ (w - 1) - 1
  | 5 => 2 ^ (w - 1)
  | 6 => 2 ^ w - 1
  | 9 => F.infCode false
  | 10 => F.infCode true
  | _ => 0

/-- One level of the tree: neighbours combined, an odd last value carried. -/
def treeLevel (f : Nat → Nat → Nat × Flags) : List Nat → Flags → List Nat × Flags
  | a :: b :: r, fl =>
    let v := f a b
    let rest := treeLevel f r (fl ||| v.2)
    (v.1 :: rest.1, rest.2)
  | l, fl => (l, fl)

/-- The tree (R182), on fuel of at least the list's length. -/
def treeRun (f : Nat → Nat → Nat × Flags) : Nat → List Nat → Flags → Nat × Flags
  | 0, l, fl => (l.headD 0, fl)
  | _ + 1, [], fl => (0, fl)
  | _ + 1, [a], fl => (a, fl)
  | n + 1, l, fl =>
    let r := treeLevel f l fl
    treeRun f n r.1 r.2

/-- The tree of some values, or the identity of none. -/
def tree (c : VCtx) (op : Nat) (l : List Nat) : Nat × Flags :=
  if l.isEmpty then (redIdentity c op, 0) else treeRun (redOp c op) l.length l 0

/-! ### Top-k (R189) -/

/-- The key of an element for ranking: a NaN, or a value. -/
def topKey (tag : BitVec 4) (code : Nat) : Option Val :=
  match valueOf tag code with
  | .nan _ => none
  | v => some v

/-- Whether one key ranks strictly above another (R189). -/
def keyAbove (nanhi : Bool) (a b : Option Val) : Bool :=
  match a, b with
  | none, none => false
  | none, some _ => nanhi
  | some _, none => !nanhi
  | some x, some y => y.lt x

/-- Inserts an element behind those of its key or above, so that a lower index inserted earlier stays ahead. -/
def rankInsert (nanhi : Bool) (x : Nat × Nat × Option Val) : List (Nat × Nat × Option Val) → List (Nat × Nat × Option Val)
  | [] => [x]
  | y :: r => if keyAbove nanhi x.2.2 y.2.2 then x :: y :: r else y :: rankInsert nanhi x r

/-- The elements of VTOPK in rank order: index, code, key. -/
def ranked (c : VCtx) (sv : BitVec 5) (nanhi : Bool) (es : List Nat) (s : State) : List (Nat × Nat × Option Val) :=
  es.foldl (fun l e =>
    let code := c.get sv c.w e s
    rankInsert nanhi (e, code, topKey (fmtOf c.cfg) code) l) []

/-- Whether a selection word is invalid for a group of lanes (R189). -/
def topkInvalid (w : Word) (lanes : Nat) : Bool :=
  lanes * 8 < field w.toNat 0 13 || field w.toNat 13 3 != 0 || field w.toNat 17 47 != 0

/-! ### The instructions -/

/-- The active elements of a cross-lane instruction (R180). -/
def VCtx.actives (c : VCtx) (s : State) : List Nat := (range c.x.first c.vl).filter fun e => c.act e s

/-- The elements that an instruction writes, at a width, and the flags it collects. -/
structure XResult where
  writes : List (Nat × Nat)
  w      : Nat
  flags  : Flags
  vl     : Option Nat

/-- A dead element of VFILT: all ones (R187). -/
def dead (w v : Nat) : Bool := v = 2 ^ w - 1

/-- The results of a cross-lane instruction, every source read before any write (R180): its destination and what it writes there; `none` for
an instruction of another kind. -/
def xlnResult (c : VCtx) (s : State) : Option (BitVec 5 × XResult) :=
  let w := c.w
  let act := c.actives s
  let get (r : BitVec 5) (e : Nat) : Nat := c.get r w e s
  match c.x.op with
  | .red .red op d sv =>
    let r := tree c op.toNat (act.map (get sv))
    some (d, ⟨[(0, r.1)], w, r.2, none⟩)
  | .red k op d sv =>
    let rs := act.map fun e =>
      let upto := act.filter fun j => if k = .scan then j ≤ e else j < e
      (e, tree c op.toNat (upto.map (get sv)))
    some (d, ⟨rs.map fun r => (r.1, r.2.1), w, rs.foldl (fun f r => f ||| r.2.2) 0, none⟩)
  | .perm d sv tv =>
    some (d, ⟨act.map fun e => (e, if get tv e < c.vl then get sv (get tv e) else 0), w, 0, none⟩)
  | .slide true d sv k =>
    some (d, ⟨(act.filter fun e => k.toNat ≤ e).map fun e => (e, get sv (e - k.toNat)), w, 0, none⟩)
  | .slide false d sv k =>
    some (d, ⟨act.map fun e => (e, if e + k.toNat < c.vl then get sv (e + k.toNat) else 0), w, 0, none⟩)
  | .expd d sv => some (d, ⟨act.zipIdx.map fun p => (p.1, get sv p.2), w, 0, none⟩)
  | .comp d sv => some (d, ⟨act.zipIdx.map fun p => (p.2, get sv p.1), w, 0, some act.length⟩)
  | .filt d sv =>
    let live := act.filter fun e => !dead w (get sv e)
    some (d, ⟨live.zipIdx.map fun p => (p.2, get sv p.1), w, 0, some live.length⟩)
  | .topk d sv x =>
    let k := field x.toNat 0 13
    let rs := (ranked c sv (x.getLsbD 16) act s).take k
    let out := rs.zipIdx.map fun p => (p.2, p.1.1 + p.1.2.1 * 2 ^ 32)
    some (d, ⟨out ++ (range rs.length k).map fun r => (r, 2 ^ 64 - 1), 64, 0, none⟩)
  | _ => none

/-- A cross-lane instruction (R180 to R189): the flags it collects, and the state after it. -/
def xlnRun (c : VCtx) (s : State) : Option (Flags × State) :=
  match xlnResult c s with
  | none => none
  | some (d, r) =>
    let s := r.writes.foldl (fun s p => c.put d r.w p.1 p.2 s) s
    some (r.flags, match r.vl with
      | none => s
      | some n => s.modStrand c.i fun t => { t with vl := BitVec.ofNat 13 n, vvl := BitVec.ofNat 13 n })

/-- Whether the format is accepted (R178). -/
def VOp.xlnAccepts (op : VOp) (cfg : Word) : Bool :=
  let f := (fmtOf cfg).toNat
  match op with
  | .red _ k _ _ => k.toNat < 8 || (f ≤ 3 && !sclOf cfg)
  | .topk _ _ _ => (f = 1 || f = 2 || f = 3 || f = 4 || f = 5 || f = 9 || f = 10 || f = 11 || f = 12) && !sclOf cfg
  | _ => true

end Sys2Proof.Machine
end

