-- ==== Sys2Proof/Machine/VecMem.lean ====
section
/-! DEFINITION. What vector memory instructions do to one element, one element group or one granule (R156 to R175). -/

namespace Sys2Proof.Machine

open Sys2Proof

/-! ### Addresses (R158) -/

/-- The width at which indices are read. -/
def idxWidth (w : Nat) : Nat := if w = 64 then 64 else 32

/-- The byte address of field `f` of element `e` (R158). -/
def ldAddr (c : VCtx) (form : LdForm) (base : Addr) (f e : Nat) (s : State) : Addr :=
  match form with
  | .strided st => base + BitVec.ofNat 80 e * sext80 st
  | .indexed x => base + BitVec.ofNat 80 (c.get x (idxWidth c.w) e s)
  | .seg nf => base + BitVec.ofNat 80 ((e * nf + f) * (c.w / 8))
  | _ => base + BitVec.ofNat 80 (e * c.w / 8)

/-- The addresses of a store, in the load form of the same shape. -/
def StForm.shape : StForm → LdForm
  | .unit => .unit
  | .strided st => .strided st
  | .indexed x => .indexed x
  | .ordered x => .indexed x
  | .zsb x => .zsb x
  | .seg nf => .seg nf

/-- The fields of an element. -/
def LdForm.fields : LdForm → Nat
  | .seg nf => nf
  | _ => 1

/-- A full/empty load. -/
def LdForm.granular : LdForm → Bool
  | .fe => true
  | .fc => true
  | _ => false

/-! ### Checks of one access (R161, R220) -/

/-- The place of a vector access of `n` bytes: the checks of R161 but for MACHINE_CHECK, then the reservations it meets (R220). An error without
a fault is a wait. -/
def vPlace (i : StrandId) (ea : Addr) (acc : Access) (n : Nat) (barred : Phys → Option Flt) (s : State) : Except (Option Flt) (Phys × State) :=
  if ea.toNat % n != 0 then .error (some ⟨cMisaligned, ea, 0⟩)
  else
    let (x, s) := strandXl i s
    match translate x ea acc s with
    | .error f => .error f.deliver
    | .ok (p, s) =>
      match barred p with
      | some f => .error (some f)
      | none =>
        let write := acc = .write
        match s.meets none write p.loc n with
        | .trap => .error (some ⟨cReservation, ea, 0⟩)
        | .wait => .error none
        | m => if s.reach p.loc = .wait then .error none else .ok (p, if m = .cut then cutRanges none write p.loc n s else s)

/-- No further check. -/
def noBar : Phys → Option Flt := fun _ => none

/-- A nibble element on a device-class page (R163). -/
def nibbleBar (w : Nat) (ea : Addr) : Phys → Option Flt := fun p => if w = 4 && p.device then some (p.barred ea 5) else none

/-- A full/empty load outside the TMEM window, and any form barred from device-class pages there (R161, R163). -/
def windowBar (ea : Addr) : Phys → Option Flt := fun p =>
  match p.loc with
  | .tmem _ _ => none
  | .mem _ => some ⟨cFullEmpty, ea, 0⟩

/-- The checks of a load of some form on the page it meets (R161, R163): a nibble on a device-class page comes before the TMEM window. -/
def loadBar (form : LdForm) (w : Nat) (ea : Addr) : Phys → Option Flt := fun p =>
  match nibbleBar w ea p with
  | some f => some f
  | none => if form.granular then windowBar ea p else none

/-- A ZSB access on a device-class page (R163). -/
def zsbBar (ea : Addr) : Phys → Option Flt := fun p => if p.device then some ⟨cFullEmpty, ea, 0⟩ else none

/-- The result of an error of `vPlace`. -/
def VRes.ofError (e : Option Flt) : VRes :=
  match e with
  | some f => .fault f
  | none => .wait

/-! ### Elements (R165) -/

/-- One field of one element of a load: reads it into its register. -/
def loadField (c : VCtx) (form : LdForm) (d : BitVec 5) (base : Addr) (f e : Nat) (s : State) : VRes :=
  let w := c.w
  let ea := ldAddr c form base f e s
  let n := max 1 (w / 8)
  match vPlace c.i ea .read n (loadBar form w ea) s with
  | .error k => .ofError k
  | .ok (p, s) =>
    match readPhys p n s with
    | .error k => .fault { k with addr := ea }
    | .ok v => .ok 0 (c.put (d + BitVec.ofNat 5 f) w e (if w = 4 && e % 2 = 1 then v / 16 else v) s)

/-- Whether an element of an unordered scatter that this start has written names the address of element `e` (R162). -/
def collides (c : VCtx) (form : LdForm) (base : Addr) (e : Nat) (s : State) : Bool :=
  (range c.x.first e).any fun k => c.act k s && ldAddr c form base 0 k s = ldAddr c form base 0 e s

/-- Writes the bytes or the nibble of an element. -/
def putMemElem (p : Phys) (w e v : Nat) (s : State) : State :=
  let n := max 1 (w / 8)
  if w = 4 then writeNib p (e % 2 = 1) v s else writePhys none p (leBytes n v) s

/-- The granule of a tile's TMEM that an address of a strand names, none outside the window (R167). -/
def granuleAt (i : StrandId) (ea : Addr) (s : State) : Option (TileId × Nat) :=
  if !inWindow ea then none
  else match windowAddr i.core ea .write s with
    | .ok ⟨.tmem t o, _, _, _, _⟩ => some (t, o / 16)
    | _ => none

/-- The addresses of the fields that a store writes after field `f` of element `e`. -/
def laterAddrs (c : VCtx) (form : LdForm) (base : Addr) (f e : Nat) (s : State) : List Addr :=
  (range (f + 1) form.fields).map (fun g => ldAddr c form base g e s) ++
  ((range (e + 1) c.vl).filter fun k => c.act k s).flatMap fun k => (List.range form.fields).map fun g => ldAddr c form base g k s

/-- The granule whose full bit a store is about to set with the bytes at a place: it sets the bit after the last of its bytes there (R169, R262). -/
def completes (i : StrandId) (p : Phys) (later : List Addr) (s : State) : Option (TileId × Nat) :=
  match p.loc with
  | .mem _ => none
  | .tmem t o => if later.any fun a => granuleAt i a s = some (t, o / 16) then none else some (t, o / 16)

/-- Whether an earlier access of the strand to a granule is not performed: the setting of its full bit is a release of the strand's writes there (R257,
R262). -/
def granuleOwed (t : Strand) (seq : Nat) (g : TileId × Nat) : Bool :=
  let l : Loc := .tmem g.1 (16 * g.2)
  t.stores.any (fun e => e.seq < seq && e.touches l 16) || t.lates.any fun a => a.seq < seq && a.phys.loc.meets a.kind.size l 16

/-- Sets the full bit of a granule that is complete. -/
def fillGranule (g : Option (TileId × Nat)) (s : State) : State :=
  match g with
  | some (t, n) => setFull t (16 * n) 16 s
  | none => s

/-- One field of one element of a store. Where an element written before it in a VSTX has the same address, which of the two values remains is a free
choice, but on a device-class page, whose writes are all performed in order (R162, R163; log entry 15). -/
def storeField (c : VCtx) (form : StForm) (sv : BitVec 5) (base : Addr) (f e : Nat) (s : State) : VRes :=
  let w := c.w
  let ea := ldAddr c form.shape base f e s
  let n := max 1 (w / 8)
  match vPlace c.i ea .write n (nibbleBar w ea) s with
  | .error k => .ofError k
  | .ok (p, s) =>
    let g := completes c.i p (laterAddrs c form.shape base f e s) s
    if g.any fun g => granuleOwed (s.strand c.i) c.x.seq g then .wait
    else
      let v := c.get (sv + BitVec.ofNat 5 f) w e s
      let free := !p.device && match form with | .indexed _ => collides c form.shape base e s | _ => false
      if free then
        let (x, s) := s.fresh
        .ok 0 (fillGranule g (if x.getLsbD 0 then putMemElem p w e v s else s))
      else .ok 0 (fillGranule g (putMemElem p w e v s))

/-- The fields of an element in ascending order. -/
def runFields (one : Nat → State → VRes) : List Nat → State → VRes
  | [], s => .ok 0 s
  | f :: fs, s =>
    match one f s with
    | .ok _ s => runFields one fs s
    | r => r

/-- The code of ffstat.CAUSE for a failed check (R166). -/
def ffCause (f : Flt) : Nat :=
  if f.cause = cMisaligned then 1
  else if f.cause = cAbsent then 2
  else if f.cause = cProtect then 3
  else if f.cause = cTileDisabled then 4
  else if f.cause = cMachineCheck then 5
  else 7

/-- The access of VLDFF at a later element (R166): the cause it records where it is not performed. A nibble on a device-class page is recorded as the
page's class, 6, and not as the DATA_PROTECT of R163, which the spec does not decide (log entry 28). -/
def ffLater (c : VCtx) (d : BitVec 5) (base : Addr) (e : Nat) (s : State) : VRes ⊕ Nat :=
  let ea := ldAddr c .unit base 0 e s
  let (x, s') := strandXl c.i s
  match translate x ea .read s' with
  | .ok (p, _) => if p.device && ea.toNat % max 1 (c.w / 8) = 0 then .inr 6 else
      match loadField c .unit d base 0 e s with
      | .fault f => .inr (ffCause f)
      | r => .inl r
  | .error _ =>
    match loadField c .unit d base 0 e s with
    | .fault f => .inr (ffCause f)
    | r => .inl r

/-- What a vector memory instruction does at an active element; `none` for an instruction of another kind, and for the whole-register and
first-fault forms. -/
def memElem (c : VCtx) (e : Nat) (s : State) : Option VRes :=
  match c.x.op with
  | .ld (.zsb _) _ _ => none
  | .ld .ff _ _ => none
  | .ld form d base => some (runFields (fun f s => loadField c form d base f e s) (List.range form.fields) s)
  | .st (.zsb _) _ _ => none
  | .st form sv base => some (runFields (fun f s => storeField c form sv base f e s) (List.range form.shape.fields) s)
  | _ => none

/-! ### Full/empty loads (R170) -/

/-- The granules of TMEM that some active elements of a full/empty load touch, up to the first that fails a check. -/
def feGranules (c : VCtx) (form : LdForm) (base : Addr) : List Nat → State → List (TileId × Nat)
  | [], _ => []
  | e :: es, s =>
    let ea := ldAddr c form base 0 e s
    match vPlace c.i ea .read (max 1 (c.w / 8)) (loadBar form c.w ea) s with
    | .ok (⟨.tmem t o, _, _, _, _⟩, _) => (t, o / 16) :: feGranules c form base es s
    | _ => []

/-- Whether a group of a full/empty load finds every granule full that it reads. -/
def feReady (c : VCtx) (form : LdForm) (base : Addr) (es : List Nat) (s : State) : Bool :=
  (feGranules c form base es s).all fun (t, g) => s.granuleFull t (form = .fc) g

/-- Clears the full bits of the granules that a group of VLD.FC has read. -/
def fcClear (gs : List (TileId × Nat)) (s : State) : State := gs.foldl (fun s (t, g) => clearFull t g s) s

/-! ### Zero-suppressed loads and stores (R172 to R174) -/

/-- The register and lane words of plain granule `j`: its eight 64-bit words in image order. -/
def granuleWords (g : LaneGroup) (j : Nat) : List (Nat × Nat) :=
  (List.range 8).map fun q => (g.base + (8 * j + q) % g.size, (8 * j + q) / g.size)

/-- The 64 plain bytes of granule `j` of a register. -/
def granuleBytes (c : VCtx) (r : BitVec 5) (j : Nat) (s : State) : List Byte :=
  (granuleWords c.g j).flatMap fun (lane, word) => leBytes 8 ((s.tile (vTile c.i)).vword r.toNat lane word).toNat

/-- Writes the 64 plain bytes of granule `j` of a register. -/
def putGranule (c : VCtx) (r : BitVec 5) (j : Nat) (bs : List Byte) (s : State) : State :=
  let s := s.modTile (vTile c.i) fun v =>
    { v with v := (granuleWords c.g j).zipIdx.foldl (fun l (p, q) =>
        amSet (vKey r.toNat p.1 p.2) (BitVec.ofNat 64 (leNat ((bs.drop (8 * q)).take 8))) l) v.v }
  s.modStrand c.i fun t => { t with dirty := t.dirty ||| BitVec.twoPow 32 r.toNat }

/-- Reads `n` bytes at an address one by one, each checked (R161). -/
def readBytes (i : StrandId) : Nat → Addr → State → Except (Option Flt) (List Byte × State)
  | 0, _, s => .ok ([], s)
  | n + 1, ea, s =>
    match vPlace i ea .read 1 (zsbBar ea) s with
    | .error k => .error k
    | .ok (p, s) =>
      match readPhys p 1 s with
      | .error k => .error (some { k with addr := ea })
      | .ok v =>
        match readBytes i n (ea + 1) s with
        | .error k => .error k
        | .ok (bs, s) => .ok (BitVec.ofNat 8 v :: bs, s)

/-- The places of some bytes, each checked for a write. -/
def writePlaces (i : StrandId) : List (Addr × Byte) → State → Except (Option Flt) (List (Phys × Byte) × State)
  | [], s => .ok ([], s)
  | (ea, b) :: ws, s =>
    match vPlace i ea .write 1 (zsbBar ea) s with
    | .error k => .error k
    | .ok (p, s) =>
      match writePlaces i ws s with
      | .error k => .error k
      | .ok (ps, s) => .ok ((p, b) :: ps, s)

/-- The number of set bits of a bitmap. -/
def popBits (n v : Nat) : Nat := ((List.range n).filter fun k => v / 2 ^ k % 2 = 1).length

/-- Expands packed bytes by a bitmap (R173). -/
def expandBytes (bm : Nat) : Nat → Nat → List Byte → List Byte
  | 0, _, _ => []
  | n + 1, k, ps =>
    if bm / 2 ^ k % 2 = 1 then ps.headD 0 :: expandBytes bm n (k + 1) ps.tail else 0 :: expandBytes bm n (k + 1) ps

/-- A number rounded up to a multiple of 8. -/
def up8 (n : Nat) : Nat := (n + 7) / 8 * 8

/-- Why a granule of VLDZ or VSTZ is not processed: a fault, at the granule itself or at one named, or a wait. -/
inductive ZsbStop where
  | fault (at' : Option Nat) (f : Flt)
  | wait

/-- A stop by an access of a granule. -/
def ZsbStop.ofAccess (j : Nat) (k : Option Flt) : ZsbStop :=
  match k with
  | some f => .fault (some j) f
  | none => .wait

/-- A failed access of granule `j`. -/
def zsbCheck {α : Type} (j : Nat) (r : Except (Option Flt) α) : Except ZsbStop α :=
  match r with
  | .error k => .error (.ofAccess j k)
  | .ok v => .ok v

/-- The index entry and the bitmap of granule `j` of a ZSB object (R172): the offset, the bitmap, and the address of the packed bytes. -/
def zsbHead (c : VCtx) (base : Addr) (j : Nat) (s : State) : Except ZsbStop ((Nat × Nat × Addr) × State) :=
  if base.toNat % 8 != 0 then .error (.fault (some 0) ⟨cMisaligned, base, 0⟩)
  else
    let ia := base + BitVec.ofNat 80 (4 * j)
    match zsbCheck j (readBytes c.i 4 ia s) with
    | .error k => .error k
    | .ok (ib, s) =>
      let off := leNat ib
      if off % 8 != 0 || off < 4 * c.g.size || 2 ^ 31 ≤ off then .error (.fault (some j) ⟨cZsbInvalid, ia, 0⟩)
      else
        let ga := base + BitVec.ofNat 80 off
        match zsbCheck j (readBytes c.i 8 ga s) with
        | .error k => .error k
        | .ok (bb, s) => .ok ((off, leNat bb, ga + 8), s)

/-- The offset just past a granule. -/
def zsbEnd (off bm : Nat) : Nat := off + 8 + popBits 64 bm

/-- The largest end offset of the granules of a ZSB object from one number up to another, which a start at `vstart` has not processed (R173): the lowest
that fails a check stops it. -/
def vldzBelow (c : VCtx) (base : Addr) : List Nat → Nat → State → Except ZsbStop (Nat × State)
  | [], aux, s => .ok (aux, s)
  | j :: js, aux, s =>
    match zsbHead c base j s with
    | .error k => .error k
    | .ok ((off, bm, _), s) => vldzBelow c base js (max aux (zsbEnd off bm)) s

/-- VLDZ at granule `j` (R172, R173): the largest end offset so far, and the state with the granule written. A start at `vstart` takes the granules below
it in before it writes any. -/
def vldzGranule (c : VCtx) (d : BitVec 5) (base : Addr) (j aux : Nat) (s : State) : Except ZsbStop (Nat × State) :=
  match vldzBelow c base (if j = c.x.first then List.range (min j c.g.size) else []) aux s with
  | .error k => .error k
  | .ok (aux, s) =>
    match zsbHead c base j s with
    | .error k => .error k
    | .ok ((off, bm, pa), s) =>
      match zsbCheck j (readBytes c.i (popBits 64 bm) pa s) with
      | .error k => .error k
      | .ok (ps, s) => .ok (max aux (zsbEnd off bm), putGranule c d j (expandBytes bm 64 0 ps) s)

/-- The bitmap of a plain granule and its nonzero bytes (R172). -/
def packGranule (bs : List Byte) : List Byte :=
  leBytes 8 ((bs.zipIdx.map fun (b, k) => if b = 0 then 0 else 2 ^ k).sum) ++ bs.filter (· ≠ 0)

/-- Zero bytes up to the next multiple of 8, which stand between granules (R172). -/
def padGranule (bs : List Byte) : List Byte := bs ++ zeroBytes (up8 bs.length - bs.length)

/-- The offset of granule `j` of a VSTZ (R172): 4n rounded up to 8, then the granules below it. -/
def vstzOffset (c : VCtx) (sv : BitVec 5) (j : Nat) (s : State) : Nat :=
  up8 (4 * c.g.size) + ((List.range j).map fun k => up8 (packGranule (granuleBytes c sv k s)).length).sum

/-- Bytes with the addresses at which they are written. -/
def addressed (a : Addr) (bs : List Byte) : List (Addr × Byte) := bs.mapIdx fun k b => (a + BitVec.ofNat 80 k, b)

/-- What VSTZ writes for granule `j` (R172): its index entry, its bitmap and bytes, and the zeros before the next granule. -/
def vstzWrites (c : VCtx) (sv : BitVec 5) (base : Addr) (j : Nat) (s : State) : List (Addr × Byte) :=
  let off := vstzOffset c sv j s
  let bs := packGranule (granuleBytes c sv j s)
  addressed (base + BitVec.ofNat 80 (4 * j)) (leBytes 4 off) ++
  addressed (base + BitVec.ofNat 80 off) (if j + 1 = c.g.size then bs else padGranule bs)

/-- VSTZ at granule `j` (R172, R173). -/
def vstzGranule (c : VCtx) (sv : BitVec 5) (base : Addr) (j : Nat) (s : State) : Except ZsbStop State :=
  if base.toNat % 8 != 0 then .error (.fault (some 0) ⟨cMisaligned, base, 0⟩)
  else match zsbCheck j (writePlaces c.i (vstzWrites c sv base j s) s) with
    | .error k => .error k
    | .ok (ps, s) =>
      let later := (range (j + 1) c.g.size).flatMap fun k => (vstzWrites c sv base k s).map (·.1)
      let gs := ps.map fun q => completes c.i q.1 later s
      if gs.any fun g => g.any fun g => granuleOwed (s.strand c.i) c.x.seq g then .error .wait
      else .ok (gs.foldl (fun s g => fillGranule g s) (ps.foldl (fun s (p, b) => writePhys none p [b] s) s))

/-! ### Checks at the start (R159, R160, R175) -/

/-- Whether the form is accepted at W = 4 (R159); VLDZ and VSTZ ignore the format (R173). -/
def VOp.nibbles : VOp → Bool
  | .ld .unit _ _ | .ld .fe _ _ | .ld .fc _ _ | .ld .ff _ _ | .ld (.zsb _) _ _ => true
  | .st .unit _ _ | .st (.zsb _) _ _ => true
  | .ld _ _ _ | .st _ _ _ => false
  | _ => true

/-- The width at which a vector memory instruction's length is limited (R160). -/
def VOp.memLimit (op : VOp) (cfg : Word) : Option Nat :=
  let w := widthOf (fmtOf cfg)
  match op with
  | .ld (.zsb _) _ _ | .st (.zsb _) _ _ | .pf _ _ => none
  | .ld (.indexed _) _ _ | .st (.indexed _) _ _ | .st (.ordered _) _ _ => some (max w (idxWidth w))
  | _ => some w

end Sys2Proof.Machine
end

