-- ==== Sys2Proof/Machine/VecAtomic.lean ====
section
/-! DEFINITION. What vector atomics, gather-linked and scatter-conditional do (R234, R239 to R246). -/

namespace Sys2Proof.Machine

open Sys2Proof

/-- A device-class page under a vector atomic (R240). -/
def deviceBar (ea : Addr) : Phys → Option Flt := fun p => if p.device then some (p.barred ea 5) else none

/-- The address of element `e` of a vector atomic (R239). -/
def atAddr (c : VCtx) (base : Addr) (x : BitVec 5) (e : Nat) (s : State) : Addr := ldAddr c (.indexed x) base 0 e s

/-- The checked place of element `e` of a vector atomic (R240). -/
def atPlace (c : VCtx) (base : Addr) (x : BitVec 5) (acc : Access) (e : Nat) (s : State) : Except (Option Flt) (Phys × State) :=
  let ea := atAddr c base x e s
  vPlace c.i ea acc (c.w / 8) (deviceBar ea) s

/-- A returning vector atomic at one element (R241). -/
def amoElem (c : VCtx) (op : AmoOp) (d : BitVec 5) (base : Addr) (x : BitVec 5) (e : Nat) (s : State) : VRes :=
  match atPlace c base x .write e s with
  | .error k => .ofError k
  | .ok (p, s) =>
    let v := c.get d c.w e s
    let new := if op = .cas then c.get (d + 1) c.w e s else v
    match atomicUpdate none p op (c.w / 8) new v s with
    | .error k => .fault { k with addr := atAddr c base x e s }
    | .ok (old, s) => .ok 0 (c.put d c.w e old s)

/-- The links that a strand is guaranteed (R244). -/
def sureLinks : Nat := 8

/-- VGL at one element (R244): beyond the lowest eight active elements a link is set or not, which is a free choice, and one that is set is not
guaranteed. -/
def glElem (c : VCtx) (d : BitVec 5) (base : Addr) (x : BitVec 5) (e : Nat) (s : State) : VRes :=
  match atPlace c base x .read e s with
  | .error k => .ofError k
  | .ok (p, s) =>
    match readPhys p (c.w / 8) s with
    | .error k => .fault { k with addr := atAddr c base x e s }
    | .ok v =>
      let n := ((List.range e).filter fun k => c.act k s).length
      let (b, s) := if n < sureLinks then (true, s) else (fun (r : Word × State) => (r.1.getLsbD 0, r.2)) s.fresh
      let l := p.loc.line
      let s := if b then s.modStrand c.i fun t =>
          if t.links.contains l then t
          else { t with links := l :: t.links, loose := if n < sureLinks then t.loose else l :: t.loose } else s
      .ok 0 (c.put d c.w e v s)

/-- The locations that an entry has gathered, by its issue number. -/
def partsOf (c : VCtx) (s : State) : List Combine := ((s.strand c.i).queue.find? (·.seq = c.x.seq)).elim [] (·.parts)

/-- Changes the locations that an entry has gathered. -/
def modParts (c : VCtx) (f : List Combine → List Combine) (s : State) : State :=
  s.modStrand c.i fun t => { t with queue := t.queue.map fun e => if e.seq = c.x.seq then { e with parts := f e.parts } else e }

/-- Whether a strand holds its link on a line when a VSC comes to it: a link that is not guaranteed may have been evicted, which is a free choice (R244,
R245). -/
def holdsLink (i : StrandId) (l : Line) (s : State) : Bool × State :=
  let t := s.strand i
  if !t.links.contains l then (false, s)
  else if !t.loose.contains l then (true, s)
  else
    let (x, s) := s.fresh
    if x.getLsbD 0 then (true, s)
    else (false, s.modStrand i fun t => { t with links := t.links.filter (· ≠ l), loose := t.loose.filter (· ≠ l) })

/-- VSC at one pending element (R246). The entry notes the places that it has written. -/
def scElem (c : VCtx) (m : BitVec 3) (sv : BitVec 5) (base : Addr) (x : BitVec 5) (e : Nat) (s : State) : VRes :=
  match atPlace c base x .write e s with
  | .error k => .ofError k
  | .ok (p, s) =>
    let (linked, s) := holdsLink c.i p.loc.line s
    if linked && !(partsOf c s).any (·.phys.loc = p.loc) then
      let s := writePhys (some c.i) p (leBytes (c.w / 8) (c.get sv c.w e s)) s
      .ok 0 (modParts c (⟨p, atAddr c base x e s, c.w / 8, 0⟩ :: ·) (setMbit c.i m e false s))
    else .ok 0 s

/-! ### Combined updates (R242) -/

/-- Adds an element to the location it names. -/
def combine (op : AmoOp) (n : Nat) (p : Phys) (ea : Addr) (v : Nat) : List Combine → List Combine
  | [] => [⟨p, ea, n, v⟩]
  | k :: r => if k.phys.loc = p.loc then { k with part := amoNew op n k.part v } :: r else k :: combine op n p ea v r

/-- A non-returning vector atomic at one element (R242): it joins the partial of its location. The partials are applied when the instruction retires or
stops (R243); for one that a failed link port will lose nothing is read (R426). -/
def camoElem (c : VCtx) (op : AmoOp) (sv : BitVec 5) (base : Addr) (x : BitVec 5) (e : Nat) (s : State) : VRes :=
  let ea := atAddr c base x e s
  match atPlace c base x .write e s with
  | .error k => .ofError k
  | .ok (p, s) =>
    match (if s.reach p.loc = .lost then .ok 0 else readPhys p (c.w / 8) s) with
    | .error k => .fault { k with addr := ea }
    | .ok _ => .ok 0 (modParts c (combine op (c.w / 8) p ea (c.get sv c.w e s)) s)

/-- What a vector atomic does at an active element; `none` for an instruction of another kind. -/
def atomicElem (c : VCtx) (e : Nat) (s : State) : Option VRes :=
  match c.x.op, c.x.mreg with
  | .amo op d base x, _ => some (amoElem c op d base x e s)
  | .camo op sv base x, _ => some (camoElem c op sv base x e s)
  | .gl d base x, _ => some (glElem c d base x e s)
  | .sc sv base x, some m => some (scElem c m sv base x e s)
  | _, _ => none

/-- Whether the format is accepted (R240). -/
def VOp.atAccepts (op : VOp) (cfg : Word) : Bool :=
  let f := (fmtOf cfg).toNat
  !sclOf cfg &&
  match op with
  | .amo .fadd _ _ _ => f = 1 || f = 0
  | .camo .fadd _ _ _ => f = 1 || f = 0
  | _ => f = 9 || f = 0

end Sys2Proof.Machine
end

