-- ==== Sys2Proof/Machine/VecStep.lean ====
section
/-! DEFINITION. The vector queue at work: starts (R127, R128, R130, R144, R160), element groups (R129, R142, R165, R170), and what each
instruction does at its retirement. -/

namespace Sys2Proof.Machine

open Sys2Proof

/-! ### Checks before the lanes -/

/-- The instructions of major 0x2F. -/
def VOp.atomicOp : VOp → Bool
  | .amo _ _ _ _ => true
  | .camo _ _ _ _ => true
  | .gl _ _ _ => true
  | .sc _ _ _ => true
  | _ => false

/-- The loads, stores and prefetches of majors 0x26 to 0x28. -/
def VOp.moves : VOp → Bool
  | .ld _ _ _ => true
  | .st _ _ _ => true
  | .pf _ _ => true
  | _ => false

/-- The width at which an instruction's length is limited; none for one that is not limited. -/
def VOp.widthLimit (op : VOp) (cfg : Word) : Option Nat := if op.moves then op.memLimit cfg else op.limit cfg

/-- Whether the format that an instruction starts with is accepted (R143, R159, R178, R240). -/
def VOp.formatOk (op : VOp) (cfg : Word) : Bool :=
  op.accepts cfg && op.xlnAccepts cfg && (!op.atomicOp || op.atAccepts cfg) && (op.nibbles || widthOf (fmtOf cfg) != 4)

/-- The check that an instruction fails before it reaches the lanes: format, length, operand (R144, R160, R179). -/
def VOp.preCheck (op : VOp) (cfg : Word) (lanes vl : Nat) : Option Flt :=
  if !op.formatOk cfg then some ⟨cVfmt, 0, 0⟩
  else if (match op.widthLimit cfg with | some w => decide (capacity lanes w < vl) | none => false) then some ⟨cVlenRange, 0, 0⟩
  else match op with
    | .topk _ _ w => if topkInvalid w lanes then some ⟨cXlnOperand, 0, 0⟩ else none
    | _ => none

/-! ### Starts -/

/-- Changes the k-th entry of a strand's vector queue. -/
def modEntry (i : StrandId) (k : Nat) (f : VEntry → VEntry) (s : State) : State :=
  s.modStrand i fun t => { t with queue := t.queue.modify k f }

/-- A queue-ordering instruction when everything before it has started (R118, R249): its effect, or none while it waits. FORKL and JOINL act by
events of their own. -/
def startControl (i : StrandId) (k : Nat) (e : VEntry) (s : State) : Option State :=
  let t := s.strand i
  match e.op with
  | .setl n => some (retire i k (s.modStrand i fun r => { r with vvl := n }))
  | .setcfg c => some (retire i k (s.modStrand i fun r => { r with vvcfg := c }))
  | .fenceSV => if t.stores.any (·.seq < e.seq) || t.lates.any (·.seq < e.seq) then none else some (retire i k s)
  | .fenceVV => if (t.queue.take k).any fun o => o.op.memory then none else some (retire i k s)
  | _ => none

/-- The length and configuration that an entry runs with: those of its first start (R118). -/
def VEntry.config (e : VEntry) (t : Strand) : Nat × Word := e.conf.getD (t.vvl.toNat, t.vvcfg)

/-- The element at which an entry begins: its recorded one, or `vstart` (R127, R136). -/
def VEntry.begins (e : VEntry) (t : Strand) : Nat := e.resume.getD t.vstart.toNat

/-- An entry that processes elements starts in its pipe (R127, R128, R130), retires at the sequencer, or fails a check. -/
def startElements (i : StrandId) (k : Nat) (e : VEntry) (p : Nat) (s : State) : Option State :=
  let t := s.strand i
  let (vl, cfg) := e.config t
  let first := e.begins t
  match s.group i with
  | none => some (retire i k s)
  | some g =>
    if vl = 0 then some (retire i k s)
    else if vl ≤ first && !e.op.granular then some (retire i k (s.modStrand i fun r => { r with vstart := 0 }))
    else if !pipeFree i k p s then none
    else match e.op.preCheck cfg g.size vl with
      | some f => if k = 0 then laneTrap i e none f s else none
      | none =>
        let e' := { e with started := true, first := first, next := first, conf := some (vl, cfg), resume := none, aux := 0, parts := [] }
        let gl := match e.op with | .gl _ _ _ => true | _ => false
        let s := s.modStrand i fun r =>
          { r with vstart := if e.resume.isNone then 0 else r.vstart
                   links := if gl then [] else r.links, loose := if gl then [] else r.loose }
        some (traceEvent i p false e.seq e.strip e.pc (setEntry i k e' s))

/-! ### Element groups -/

/-- The view of the k-th entry while it is in the lanes. -/
def entryCtx (i : StrandId) (k : Nat) (s : State) : Option VCtx :=
  match (s.strand i).queue[k]?, s.group i with
  | some e, some g =>
    match e.started, e.conf with
    | true, some (vl, cfg) => some ⟨i, e, g, vl, cfg⟩
    | _, _ => none
  | _, _ => none

/-- Whether every older instruction is past the elements below `n` of the k-th entry where they name a common register (R130). -/
def olderPast (i : StrandId) (k : Nat) (c : VCtx) (n : Nat) (s : State) : Bool :=
  ((s.strand i).queue.take k).all fun o => o.past c.x c.cfg n

/-- The k-th entry retires with the effects that its retirement has (R71, R166). -/
def retireEntry (i : StrandId) (k : Nat) (s : State) : State :=
  match (s.strand i).queue[k]? with
  | none => s
  | some e =>
    let s := retire i k s
    if !e.op.firstFault then s
    else s.modStrand i fun t =>
      match e.note with
      | none => { t with ffstat := 0 }
      | some (n, cause) =>
        { t with vl := BitVec.ofNat 13 n, vvl := BitVec.ofNat 13 n, ffstat := BitVec.ofNat 64 (n + cause * 2 ^ 16) }

/-- Whether the partials that the k-th entry has gathered cannot be applied yet (R220, R426): a WAIT or a TRAP reservation made since, or a link port,
stands in the way of one (log entry 27). -/
def partsHeld (i : StrandId) (k : Nat) (s : State) : Bool :=
  (((s.strand i).queue[k]?.map (·.parts)).getD []).any fun m =>
    let r := s.meets none true m.phys.loc m.size
    r = .wait || r = .trap || s.reach m.phys.loc = .wait

/-- What a group leaves: a trap by the entry at the head of the queue, nothing where an element waits or an older entry stands before a
faulting one, or the entry's progress to `next` and its retirement at `last`. -/
def afterGroup (i : StrandId) (k next last : Nat) (r : VRun) : Option State :=
  let s := modEntry i k (fun e => { e with flags := e.flags ||| r.flags }) r.st
  match r.stop with
  | some (n, some f) =>
    if k = 0 then
      match (s.strand i).queue.head? with
      | some e => laneTrap i e (some n) f s
      | none => none
    else none
  | some (_, none) => none
  | none =>
    let s := modEntry i k (fun e => { e with next := next }) s
    let camo := ((s.strand i).queue[k]?.map fun e => e.partials.isSome).getD false
    if last ≤ next && camo && partsHeld i k s then none
    else some (bump (vTile i) 3 1 (if last ≤ next then retireEntry i k (if camo then flushParts i s else s) else s))

/-- What an instruction does at an element. -/
def elemAction (c : VCtx) (e : Nat) (s : State) : VRes :=
  match arithElem c e s with
  | some r => r
  | none =>
    match memElem c e s with
    | some r => r
    | none => (atomicElem c e s).getD (.ok 0 s)

/-- VLDFF at an element (R166): `e0` is its lowest active element. -/
def ffElem (c : VCtx) (k : Nat) (d : BitVec 5) (base : Addr) (e0 e : Nat) (s : State) : VRes :=
  match (s.strand c.i).queue[k]? with
  | none => .wait
  | some x =>
    if x.note.isSome then .ok 0 s
    else if e = e0 then loadField c .unit d base 0 e s
    else match ffLater c d base e s with
      | .inl r => r
      | .inr cause => .ok 0 (modEntry c.i k (fun x => { x with note := some (e, cause) }) s)

/-- One element group of VLDFF; a recorded element ends the instruction. -/
def ffGroup (i : StrandId) (k : Nat) (c : VCtx) (d : BitVec 5) (base : Addr) (stop : Nat) (es : List Nat) (s : State) : Option State :=
  let e0 := ((range c.x.first c.vl).find? fun e => c.act e s).getD c.vl
  let r := runElems (ffElem c k d base e0) es 0 s
  let cut := match (r.st.strand i).queue[k]? with | some x => x.note.isSome | none => false
  afterGroup i k (if cut then c.vl else stop) c.vl r

/-- One granule of VLDZ or VSTZ, or the end of the instruction after the last (R173). VLDZ's end offset is the largest over every granule, those below
`vstart` included. -/
def zsbGroup (i : StrandId) (k : Nat) (c : VCtx) (s : State) : Option State :=
  let j := c.x.next
  let n := c.g.size
  let stop (r : ZsbStop) (s : State) : Option State :=
    match r with
    | .fault at' f => afterGroup i k j (j + 1) ⟨0, s, some (at'.getD j, some f)⟩
    | .wait => none
  let fin (x : BitVec 5) (m : Nat) (s : State) : Option State := some (retireEntry i k (s.setX i x (BitVec.ofNat 64 (up8 m))))
  match c.x.op with
  | .ld (.zsb x) d base =>
    if n ≤ j then
      match vldzBelow c base (List.range n) 0 s with
      | .error r => stop r s
      | .ok (m, s) => fin x m s
    else match vldzGranule c d base j c.x.aux s with
      | .error r => stop r s
      | .ok (aux, s) =>
        let s := modEntry i k (fun e => { e with aux := aux }) s
        if j + 1 = n then fin x aux (bump (vTile i) 3 1 s) else afterGroup i k (j + 1) n ⟨0, s, none⟩
  | .st (.zsb x) sv base =>
    if n ≤ j then fin x (vstzOffset c sv n s) s
    else match vstzGranule c sv base j s with
      | .error r => stop r s
      | .ok s =>
        if j + 1 = n then fin x (vstzOffset c sv n s) (bump (vTile i) 3 1 s)
        else afterGroup i k (j + 1) n ⟨0, s, none⟩
  | _ => none

/-- One element group of an instruction that goes element by element (R129, R142, R165, R241). -/
def plainGroup (i : StrandId) (k : Nat) (c : VCtx) (s : State) : Option State :=
  let G := perGroup c.g.size (c.x.op.groupWidth c.cfg)
  let dense := c.x.op.densityTime && dtOf c.cfg
  let all := c.x.op.visitsAll
  let stop := groupEnd G c.vl dense (fun e => all || c.act e s) c.x.next
  if !olderPast i k c stop s then none
  else
    let es := (range c.x.next stop).filter fun e => all || c.act e s
    match c.x.op with
    | .ld .ff d base => ffGroup i k c d base stop es s
    | .ld form _ base =>
      if !form.granular then afterGroup i k stop c.vl (runElems (elemAction c) es 0 s)
      else if !feReady c form base es s then none
      else
        let r := runElems (elemAction c) es 0 s
        let gs := feGranules c form base (r.performed es) s
        afterGroup i k stop c.vl (if form = .fc then { r with st := fcClear gs r.st } else r)
    | _ => afterGroup i k stop c.vl (runElems (elemAction c) es 0 s)

/-- The next element group of the k-th entry: its whole work where the instruction is one group (R131, R175, R180). -/
def groupRun (i : StrandId) (k : Nat) (c : VCtx) (s : State) : Option State :=
  if c.x.op.granular then (if olderPast i k c c.vl s then zsbGroup i k c s else none)
  else match oneGroup c s, xlnRun c s with
    | some s', _ => if olderPast i k c c.vl s then afterGroup i k c.vl c.vl ⟨0, s', none⟩ else none
    | _, some (f, s') => if olderPast i k c c.vl s then afterGroup i k c.vl c.vl ⟨f, s', none⟩ else none
    | _, _ =>
      match c.x.op with
      | .pf _ _ => afterGroup i k c.vl c.vl ⟨0, s, none⟩
      | _ => plainGroup i k c s

/-- Starts the k-th entry. A cross-lane instruction starts only where every dependence is met, and completes at once: nothing finds it started and not
retired (R180). -/
def startEntry (i : StrandId) (k : Nat) (e : VEntry) (p : Nat) (s : State) : Option State :=
  match startElements i k e p s with
  | none => none
  | some s' =>
    if p ≠ 3 then some s'
    else match entryCtx i k s' with
      | some c => if c.x.seq = e.seq then groupRun i k c s' else some s'
      | none => some s'

/-- VECTOR_INSTRUCTION_START: the k-th entry of a strand's queue starts. -/
def execVectorInstructionStart (i : StrandId) (k : Nat) (st : State) : Out :=
  event st <|
    let t := st.strand i
    match t.held, t.queue[k]? with
    | false, some e =>
      if !st.coreRuns i.core || e.started || !olderStarted t k then none
      else match e.op.pipe with
        | none => startControl i k e st
        | some p => startEntry i k e p st
    | _, _ => none

/-- Whether an entry is a full/empty load. -/
def VOp.fullEmpty : VOp → Bool
  | .ld form _ _ => form.granular
  | _ => false

/-- ELEMENT_GROUP (R129, R130): the next element group of the k-th entry of a strand's queue. -/
def execElementGroup (i : StrandId) (k : Nat) (st : State) : Out :=
  event st <| match (st.strand i).held, entryCtx i k st with
    | false, some c => groupRun i k c st
    | _, _ => none

/-- VLD_FE_GROUP_PROCEED (R170): a group of a full/empty load that waited finds its granules full. -/
def execVldFeGroupProceed (i : StrandId) (k : Nat) (st : State) : Out :=
  event st <| match (st.strand i).held, entryCtx i k st with
    | false, some c => if c.x.op.fullEmpty then groupRun i k c st else none
    | _, _ => none

end Sys2Proof.Machine
end

