-- ==== Sys2Proof/Machine/Engine.lean ====
section
/-! DEFINITION. What the stream engine, the Riddle and the array share: accesses on behalf of the issuing strand (R216, R217), the order after
the strand's own earlier accesses (R212, R258, R263), and the delivery of faults (R217, R392). -/

namespace Sys2Proof.Machine

open Sys2Proof

/-- An engine at work for a strand: its tile, the view it translates by, and the stream slot whose reservations are its own. -/
structure Eng where
  tile : TileId
  xl   : Xl
  self : Option (TileId × Nat)
  deriving DecidableEq, Repr

/-- The engine of a tile at work for a strand that issued at a level. -/
def engineOf (u : TileId) (slot : BitVec 3) (lvl : Level) (self : Option (TileId × Nat)) (s : State) : Eng :=
  ⟨u, ⟨.tile u, lvl, if lvl = .M then none else (s.strand ⟨.tile u, slot⟩).ctx⟩, self⟩

/-- The place of an engine's access of `n` bytes (R216, R217, R220). An error without a fault is a wait. -/
def engPlace (g : Eng) (ea : Addr) (acc : Access) (n : Nat) (s : State) : Except (Option Flt) (Phys × State) :=
  match translate g.xl ea acc s with
  | .error f => .error f.deliver
  | .ok (p, s) =>
    if p.device then .error (some (p.barred ea 5))
    else
      let write := acc = .write
      match s.meets g.self write p.loc n with
      | .trap => .error (some ⟨cReservation, ea, 0⟩)
      | .wait => .error none
      | m => if s.reach p.loc = .wait then .error none else .ok (p, if m = .cut then cutRanges g.self write p.loc n s else s)

/-- An engine's read of `n` bytes. -/
def engRead (g : Eng) (ea : Addr) (n : Nat) (s : State) : Except (Option Flt) (Nat × State) :=
  match engPlace g ea .read n s with
  | .error k => .error k
  | .ok (p, s) =>
    match readPhys p n s with
    | .error f => .error (some { f with addr := ea })
    | .ok v => .ok (v, s)

/-- An engine's read of `n` 32-bit or 64-bit words of `w` bytes from an address on. -/
def engWords (g : Eng) (w : Nat) : Nat → Addr → State → Except (Option Flt) (List Nat × State)
  | 0, _, s => .ok ([], s)
  | n + 1, ea, s =>
    match engRead g ea w s with
    | .error k => .error k
    | .ok (v, s) =>
      match engWords g w n (ea + BitVec.ofNat 80 w) s with
      | .error k => .error k
      | .ok (vs, s) => .ok (v :: vs, s)

/-- An engine's write of bytes. -/
def engWrite (g : Eng) (ea : Addr) (bs : List Byte) (s : State) : Except (Option Flt) (Phys × State) :=
  match engPlace g ea .write bs.length s with
  | .error k => .error k
  | .ok (p, s) => .ok (p, writePhys none p bs s)

/-- The place that an address names for an access, as far as translation reaches. -/
def placeOf (x : Xl) (ea : Addr) (acc : Access) (s : State) : Option Loc :=
  match translate x ea acc s with
  | .ok (p, _) => some p.loc
  | .error _ => none

/-! ### Order after the strand's earlier accesses -/

/-- The bytes of a ZSB object that VLDZ has still to read, as memory locates them (R172). -/
def vldzBytes (c : VCtx) (base : Addr) (s : State) : List (Addr × Nat) :=
  (range c.x.next c.g.size).flatMap fun j =>
    (base + BitVec.ofNat 80 (4 * j), 4) ::
    match zsbHead c base j s with
    | .ok ((_, bm, pa), _) => [(pa - 8, 8), (pa, popBits 64 bm)]
    | .error _ => []

/-- Whether an instruction may change the lanes, the length or the configuration that later instructions of its queue start with in a way that only
its own execution tells. -/
def VOp.reshapes (op : VOp) : Bool :=
  op.shortens || op.firstFault || match op with
    | .part _ => true
    | .fork _ _ _ _ _ => true
    | .join => true
    | _ => false

/-- The first element, the length and the configuration with which an entry of a held queue will go on (R118, R127, R136), and none where an older entry
may yet change them, or writes a register that the entry reads. -/
def Strand.foretold (t : Strand) (e : VEntry) : Option (Nat × Nat × Word) :=
  let older := t.queue.filter (·.seq < e.seq)
  if older.any fun o => o.op.reshapes || o.writes.any fun r => e.reads.contains r then none
  else
    let set (c : Nat × Word) (o : VEntry) : Nat × Word :=
      match o.op with
      | .setl n => (n.toNat, c.2)
      | .setcfg w => (c.1, w)
      | _ => c
    let (vl, cfg) := e.conf.getD (older.foldl set (t.vvl.toNat, t.vvcfg))
    some (if older.all (·.op.control) then e.begins t else e.resume.getD 0, vl, cfg)

/-- The first element, the length and the configuration with which an entry goes on, as far as an engine can know them. -/
def VEntry.ahead (e : VEntry) (t : Strand) : Option (Nat × Nat × Word) :=
  if e.started then some (e.next, e.config t) else if t.held then t.foretold e else none

/-- The bytes that an entry of a vector queue has still to access: none while the engine does not know them (R212), as for an entry that has not
started, or whose addresses depend on data. The entries of a held queue count with what the queue tells of them. -/
def vectorBytes (i : StrandId) (t : Strand) (e : VEntry) (s : State) : Option (List (Loc × Nat)) :=
  match s.group i, e.ahead t with
  | none, _ => some []
  | _, none => none
  | some g, some (first, vl, cfg) =>
    let c : VCtx := ⟨i, e, g, vl, cfg⟩
    let es := (range first vl).filter fun k => c.act k s
    let x := (strandXl i s).1
    let n := max 1 (c.w / 8)
    let at' (form : LdForm) (base : Addr) (acc : Access) : List (Loc × Nat) :=
      es.flatMap fun k => (List.range form.fields).filterMap fun f => (placeOf x (ldAddr c form base f k s) acc s).map (·, n)
    match e.op with
      | .ld (.zsb _) _ base =>
        if !t.held then none
        else some ((vldzBytes { c with x := { e with next := first } } base s).filterMap fun (a, m) => (placeOf x a .read s).map (·, m))
      | .st (.zsb _) sv base =>
        if !t.held then none
        else some ((range first g.size).flatMap fun j => (vstzWrites c sv base j s).filterMap fun w => (placeOf x w.1 .write s).map (·, 1))
      | .ld form _ base => some (at' form base .read)
      | .st form _ base => some (at' form.shape base .write)
      | .amo _ _ base k => some (at' (.indexed k) base .write)
      | .camo _ _ base k => some (e.parts.map (fun m => (m.phys.loc, m.size)) ++ at' (.indexed k) base .write)
      | .gl _ base k => some (at' (.indexed k) base .read)
      | .sc _ base k => some (at' (.indexed k) base .write)
      | _ => some []

/-- Whether two lists of byte ranges share a byte. -/
def anyMeet (a b : List (Loc × Nat)) : Bool := a.any fun x => b.any fun y => x.1.meets x.2 y.1 y.2

/-- Whether a vector memory instruction stores: majors 0x27 and 0x2F but for VGL. -/
def VOp.stores : VOp → Bool
  | .st _ _ _ => true
  | .amo _ _ _ _ => true
  | .camo _ _ _ _ => true
  | .sc _ _ _ => true
  | _ => false

/-- Whether an engine's reads and writes must wait for earlier accesses of the issuing strand (R212, R258): its stores to bytes read, its loads
from bytes written, and everything before a releasing fence. `unknown` tells that an access whose bytes are not known holds them too (R212). -/
def engineHeld (unknown : Bool) (i : StrandId) (seq : Nat) (fence : Option Nat) (reads writes : List (Loc × Nat)) (s : State) : Bool :=
  let t := s.strand i
  (match fence with | some n => t.earlier n | none => false) ||
  t.stores.any (fun e => e.seq < seq && e.bytes.isSome && anyMeet [e.span] reads) ||
  t.lates.any (fun a => a.seq < seq &&
    let at' := [(a.phys.loc, a.kind.size)]
    ((a.kind.writes && anyMeet at' reads) || anyMeet at' writes)) ||
  t.queue.any fun e => e.seq < seq && e.op.memory &&
    match vectorBytes i t e s with
    | none => unknown
    | some l => (e.op.stores && anyMeet l reads) || (e.op.loads && anyMeet l writes)

/-! ### Records read at issue -/

/-- The place of a record that an instruction reads at issue, by the engine that it passes to: a device-class page gives DATA_PROTECT. -/
def recordPlace (i : StrandId) (t : Strand) (ea : Addr) (write : Bool) (s : State) : Except Stop (Phys × State) :=
  match locate i t ea .read s with
  | .error e => .error e
  | .ok (p, s) =>
    if p.device then .error (preciseStop t (p.barred ea 5)) else if write then locate i t ea .write s else .ok (p, s)

/-- An engine's access at issue to `n` bytes at a place: what holds it back, and the reservations that it traps on or cuts (R212, R220). While the
strand's queue is held, an entry of it whose bytes are not known does not hold the issue back (log entry 20). -/
def recordTake (i : StrandId) (t : Strand) (ea : Addr) (p : Phys) (n : Nat) (write : Bool) (s : State) : Except Stop State :=
  match s.meets none write p.loc n with
  | .trap => .error (preciseStop t ⟨cReservation, ea, 0⟩)
  | .wait => .error .stall
  | m =>
    if s.reach p.loc = .wait || engineHeld (!t.held) i t.issued none [(p.loc, n)] (if write then [(p.loc, n)] else []) s then .error .stall
    else .ok (if m = .cut then cutRanges none write p.loc n s else s)

/-- The record of `n` bytes that an instruction reads at issue: its place, and its access. -/
def recordAt (i : StrandId) (t : Strand) (ea : Addr) (n : Nat) (write : Bool) (s : State) : Except Stop (Phys × State) :=
  match recordPlace i t ea write s with
  | .error e => .error e
  | .ok (p, s) => (recordTake i t ea p n write s).map (p, ·)

/-- The contents of a record. -/
def recordBits (t : Strand) (p : Phys) (ea : Addr) (n : Nat) (s : State) : Except Stop Nat :=
  orTrap t (match readPhys p n s with | .ok v => .ok v | .error f => .error { f with addr := ea })

/-! ### Faults -/

/-- Delivers an engine's fault to the strand that issued the work (R217, R392): `extra` holds the engine's fields of the detail word. -/
def engineFault (src : BitVec 3) (i : StrandId) (pc : Addr) (f : Flt) (extra : Nat) (s : State) : State :=
  addAsync i (engineRec src (s.strand i) f.cause pc f.addr (f.detail ||| BitVec.ofNat 64 extra)) (countFault (strandXl i s).1 f.cause f.addr s)

/-- A free choice between two states. -/
def freeState (a b : State → State) (s : State) : State :=
  let (x, s) := s.fresh
  if x.getLsbD 0 then a s else b s

end Sys2Proof.Machine
end

