-- ==== Sys2Proof/Machine/Streams.lean ====
section
/-! DEFINITION. The stream engine: tensor shape records (R207 to R209), the stream instructions (R205, R210 to R214, R224 to R228), sectors and
faults (R215 to R217), range reservations (R219, R221), and the Tundish (R229 to R231). -/

namespace Sys2Proof.Machine

open Sys2Proof

/-! ### Shapes -/

/-- A two's-complement value of 64 bits. -/
def signed64 (n : Nat) : Int := (BitVec.ofNat 64 n).toInt

/-- A tensor shape record as its fields (R207). -/
def shapeOf (r : Nat) : Shape where
  base := BitVec.ofNat 80 r
  fmt := BitVec.ofNat 4 (field r 80 4)
  rank := field r 84 3
  ext := (List.range 4).map fun k => field r (128 + 32 * k) 32
  str := (List.range 3).map fun k => signed64 (field r (256 + 64 * k) 64)
  win := (List.range 4).map fun k => field r (448 + 16 * k) 16

/-- The container width. -/
def Shape.w (h : Shape) : Nat := widthOf h.fmt

/-- An extent. -/
def Shape.extent (h : Shape) (k : Nat) : Nat := h.ext.getD k 0

/-- The stride of dimension `k`, from 1. -/
def Shape.stride (h : Shape) (k : Nat) : Int := h.str.getD (k - 1) 0

/-- The window extent of a dimension. -/
def Shape.window (h : Shape) (k : Nat) : Nat := if h.win.getD k 0 = 0 then h.extent k else h.win.getD k 0

/-- The number of elements. -/
def Shape.size (h : Shape) : Nat := ((List.range h.rank).map h.extent).foldl (· * ·) 1

/-- The span of dimension `k` in bytes (R209). -/
def Shape.span (h : Shape) : Nat → Nat
  | 0 => h.extent 0 * h.w / 8
  | k + 1 => (h.extent (k + 1) - 1) * (h.stride (k + 1)).natAbs + h.span k

/-- The lowest code of R209 that applies to a record by itself and to positions `p` to `p + n - 1`: `rsv` says that a reserved bit is set. -/
def Shape.fault (h : Shape) (rsv : Bool) (write : Bool) (p n : Nat) : Option Nat :=
  let used := List.range h.rank
  let above := (List.range 4).filter fun k => h.rank ≤ k
  let E := h.w / 8
  if h.rank = 0 || 4 < h.rank then some 1
  else if rsv then some 2
  else if used.any fun k => h.extent k = 0 then some 3
  else if above.any fun k => h.extent k != 0 || h.win.getD k 0 != 0 || (k != 0 && h.stride k != 0) then some 4
  else if 8 ≤ h.w && h.base.toNat % E != 0 then some 5
  else if used.any fun k => k != 0 && (h.stride k).natAbs % max E 1 != 0 then some 6
  else if used.any fun k => h.extent k < h.win.getD k 0 then some 7
  else if h.w = 4 && 2 ≤ h.rank && h.extent 0 % 2 = 1 then some 8
  else if write && used.any fun k => k != 0 && (h.stride k).natAbs < h.span (k - 1) then some 9
  else if h.size < p + n then some 10
  else none

/-- The start and size of the window that holds position `p`, dimension by dimension from the outermost, with the position left within the
window (R208); `m` is the number of elements of the window's outer part. -/
def splitWindow : List (Nat × Nat) → Nat → Nat → List (Nat × Nat) × Nat
  | [], _, p => ([], p)
  | (e, w) :: r, m, p =>
    let block := w * m * (r.map (·.1)).foldl (· * ·) 1
    let c := p / block
    let size := min w (e - c * w)
    let (l, q) := splitWindow r (m * size) (p - c * block)
    ((c * w, size) :: l, q)

/-- The indices of an element within its window, innermost first. -/
def windowIndices : List (Nat × Nat) → Nat → List Nat
  | [], _ => []
  | (a, n) :: r, p => (a + p % n) :: windowIndices r (p / n)

/-- The dimensions of a traversal, innermost first (R208). -/
def Shape.order (h : Shape) (tr : Bool) : List Nat :=
  match tr, List.range h.rank with
  | true, a :: b :: r => b :: a :: r
  | _, l => l

/-- The dimensions of a position, each with its index and its window's start and size, innermost first. -/
def Shape.place (h : Shape) (tr : Bool) (p : Nat) : List (Nat × Nat × Nat × Nat) :=
  let dims := h.order tr
  let (ws, q) := splitWindow (dims.reverse.map fun k => (h.extent k, h.window k)) 1 p
  let ws := ws.reverse
  (dims.zip (windowIndices ws q)).zip ws |>.map fun ((k, i), (a, n)) => (k, i, a, n)

/-- A byte or, at four bits, a nibble of the byte at an address. -/
structure Cell where
  ea   : Addr
  high : Bool
  deriving DecidableEq, Repr

/-- The cell of position `p` (R208). -/
def Shape.cell (h : Shape) (tr : Bool) (p : Nat) : Cell :=
  let idx := h.place tr p
  let i0 := match idx.find? (·.1 = 0) with | some (_, i, _, _) => i | none => 0
  let rest : Int := (idx.map fun (k, i, _, _) => if k = 0 then 0 else (i : Int) * h.stride k).sum
  ⟨h.base + BitVec.ofNat 80 (i0 * h.w / 8) + BitVec.ofInt 80 rest, i0 % 2 = 1⟩

/-- The cell of element `j` of a packed image (R58). -/
def packedCell (base : Addr) (w j : Nat) : Cell := ⟨base + BitVec.ofNat 80 (j * w / 8), j % 2 = 1⟩

/-- The highest rank due after position `p` (R227), 0 for none. -/
def Shape.rankAfter (h : Shape) (p : Nat) : Nat := ((h.place false p).takeWhile fun (_, i, a, n) => i + 1 = a + n).length

/-- A control token of an end marker (R326): LAST alone takes rank 1. -/
def markToken (rank : Nat) (last : Bool) : Token :=
  let k := max 1 rank
  ⟨BitVec.ofNat 64 (16 - k + k * 2 ^ 4 + (if last then 2 ^ 7 else 0)), 0, .control⟩

/-! ### Streams -/

/-- The width of a stream's destination. -/
def Stream.dstW (x : Stream) : Nat := match x.kind with | .copy d _ _ _ _ => d.w | _ => x.shape.w

/-- The wider container of a stream's two sides. -/
def Stream.wide (x : Stream) : Nat := max x.shape.w x.dstW

/-- The positions of a sector (R215). -/
def Stream.sectorLen (x : Stream) : Nat := 8192 / x.wide

/-- The number of sectors. -/
def Stream.sectors (x : Stream) : Nat := (x.n + x.sectorLen - 1) / x.sectorLen

/-- The positions of a sector, counted from P. -/
def Stream.positions (x : Stream) (j : Nat) : List Nat := range (j * x.sectorLen) (min x.n ((j + 1) * x.sectorLen))

/-- The resume point: the lowest incomplete sector (R215). -/
def Stream.resume (x : Stream) : Nat := ((List.range x.sectors).find? fun j => !x.done.contains j).getD x.sectors

/-- The cell of a gather's element: its row's index as given, its column (R214). -/
def Stream.rowCell (x : Stream) (v q : Nat) : Cell :=
  let col := q % x.shape.extent 0
  ⟨x.shape.base + BitVec.ofInt 80 ((v : Int) * x.shape.stride 1) + BitVec.ofNat 80 (col * x.shape.w / 8), col % 2 = 1⟩

/-- The row of a gather's element. -/
def Stream.row (x : Stream) (q : Nat) : Nat := q / x.shape.extent 0

/-- The source cell of the `q`-th position: a gather's by the index that the engine has read for its row (R214). -/
def Stream.src (x : Stream) (q : Nat) : Cell :=
  match x.kind with
  | .gather _ _ => x.rowCell ((amGet (x.row q) x.rows).getD 0) q
  | .store a => packedCell a x.shape.w q
  | .copy _ tr _ _ _ => x.shape.cell tr (x.p + q)
  | _ => x.shape.cell false (x.p + q)

/-- The destination cell of the `q`-th position, where it is in memory. -/
def Stream.dst (x : Stream) (q : Nat) : Option Cell :=
  match x.kind with
  | .load a => some (packedCell a x.shape.w q)
  | .store _ => some (x.shape.cell false (x.p + q))
  | .copy d _ _ _ _ => some (d.cell false (x.p + q))
  | .gather a _ => some (packedCell a x.shape.w q)
  | .fabric | .tundish _ => none

/-- An address with the own-tile alias of a tile's window replaced by the tile's slot (R167). -/
def unalias (u : TileId) (ea : Addr) (s : State) : Nat :=
  let off := ea.toNat - twb
  match inWindow ea && 0x1C000000 ≤ off, (s.tile u).res with
  | true, some r => twb + (8 * r.dy + r.dx) * 0x400000 + (off - 0x1C000000)
  | _, _ => ea.toNat

/-- The lowest and the highest byte of some cells of a width. -/
def cellSpan (u : TileId) (w : Nat) (cs : List Cell) (s : State) : Nat × Nat :=
  let n := max 1 (w / 8)
  cs.foldl (fun r c => (Nat.min r.1 (unalias u c.ea s), Nat.max r.2 (unalias u c.ea s + n - 1))) (2 ^ 80, 0)

/-- Whether the intervals of a stream's two sides share a byte (R211). -/
def Stream.overlaps (x : Stream) (u : TileId) (s : State) : Bool :=
  let qs := List.range x.n
  let a := cellSpan u x.shape.w (qs.map x.src) s
  let b := cellSpan u x.dstW (qs.filterMap x.dst) s
  a.1 ≤ b.2 && b.1 ≤ a.2

/-- Whether a copy expands, converts or transposes and is not an in-place conversion (R211). -/
def Stream.alters (x : Stream) : Bool :=
  match x.kind with
  | .copy d tr _ _ _ =>
    (x.shape.w < d.w || x.shape.fmt != d.fmt || tr) && !({ d with fmt := x.shape.fmt } = x.shape && x.shape.w = d.w && !tr)
  | _ => false

/-- What a sector's work has done so far: the state, the flags, the bytes written with their bits, and the tokens produced. -/
structure SectorRun where
  st    : State
  flags : Flags
  wrote : List (Loc × Nat × Nat)
  toks  : List Token

/-- Reads a cell. -/
def readCell (g : Eng) (w : Nat) (c : Cell) (s : State) : Except (Option Flt) (Nat × State) :=
  match engRead g c.ea (max 1 (w / 8)) s with
  | .error k => .error k
  | .ok (v, s) => .ok (if w = 4 then (if c.high then v / 16 else v % 16) else v, s)

/-- Writes a cell. -/
def writeCell (g : Eng) (w : Nat) (c : Cell) (v : Nat) (s : State) : Except (Option Flt) (Loc × State) :=
  let n := max 1 (w / 8)
  match engPlace g c.ea .write n s with
  | .error k => .error k
  | .ok (p, s) => .ok (p.loc, if w = 4 then writeNib p c.high v s else writePhys none p (leBytes n v) s)

/-- The address of the index of a row of a gather. -/
def Stream.indexAt (x : Stream) (row : Nat) : Option Addr :=
  match x.kind with
  | .gather _ idx => some (idx + BitVec.ofNat 80 (4 * row))
  | _ => none

/-- Reads the indices of some rows of a gather ahead of the data, each once (R214): none where a read must wait. An index whose read fails is left for
the sector that holds its row. -/
def readRows (g : Eng) : List Nat → Stream → State → Option (Stream × State)
  | [], x, s => some (x, s)
  | row :: rs, x, s =>
    match x.indexAt row, amGet row x.rows with
    | some ia, none =>
      match engRead g ia 4 s with
      | .error none => none
      | .error (some _) => readRows g rs x s
      | .ok (v, s) => readRows g rs { x with rows := amSet row v x.rows } s
    | _, _ => readRows g rs x s

/-- The fault of the first of some rows whose index could not be read, or names no row of the source (R214). -/
def rowFault (g : Eng) (x : Stream) (s : State) : List Nat → Option Flt
  | [] => none
  | row :: rs =>
    match x.indexAt row, amGet row x.rows with
    | some ia, some v => if x.shape.extent 1 ≤ v then some ⟨cStreamIndex, ia, 0⟩ else rowFault g x s rs
    | some ia, none => (match engRead g ia 4 s with | .error (some f) => some f | _ => rowFault g x s rs)
    | none, _ => none

/-- The rows of a gather that some positions lie in. -/
def Stream.rowsOf (x : Stream) (qs : List Nat) : List Nat :=
  match x.kind with
  | .gather _ _ => (qs.map x.row).foldl (fun l r => insertNat r l) []
  | _ => []

/-- The stream with the indices of all its rows as memory holds them now where the engine has not read them: where its source lies (R211). -/
def Stream.foreseen (x : Stream) (g : Eng) (s : State) : Stream :=
  { x with rows := (x.rowsOf (List.range x.n)).foldl (fun l row =>
      match x.indexAt row, amGet row l with
      | some ia, none => (match engRead g ia 4 s with | .ok (v, _) => amSet row v l | .error _ => l)
      | _, _ => l) x.rows }

/-- The value that a stream delivers (R213): a copy whose tags differ converts. -/
def Stream.convert (x : Stream) (v : Nat) : Nat × Flags :=
  match x.kind with
  | .copy d _ rnd sat fz =>
    if d.fmt = x.shape.fmt then (v, 0) else Sys2Proof.Machine.convert x.shape.fmt d.fmt (RMode.ofCode rnd).plain sat fz 0 v
  | _ => (v, 0)

/-- The markers due after the `q`-th position of a fabric-bound stream, coalesced (R227, R228). -/
def Stream.marker (x : Stream) (q : Nat) : List Token :=
  let rank := x.shape.rankAfter (x.p + q)
  let last := q + 1 = x.n
  if last then [markToken ((x.marks.map (·.1)).foldl max rank) true]
  else if rank = 0 then [] else [markToken rank false]

/-- Moves the element at the `q`-th position (R213). -/
def moveElem (g : Eng) (x : Stream) (q : Nat) (a : SectorRun) : Except (Option Flt) SectorRun :=
    match readCell g x.shape.w (x.src q) a.st with
    | .error k => .error k
    | .ok (v, s) =>
      match x.kind, x.dst q with
      | .fabric, _ => .ok { a with st := s, toks := a.toks ++ ⟨extendCode x.shape.fmt v, x.shape.fmt, .data⟩ :: x.marker q }
      | .tundish b, _ =>
        let i : StrandId := ⟨.tile g.tile, x.issuer⟩
        match (s.strand i).tundish, s.group i with
        | some d, some lg => .ok { a with st := setElem i lg (BitVec.ofNat 5 (d.vD + b * d.g)) x.shape.w q v s }
        | _, _ => .ok { a with st := s }
      | _, none => .ok { a with st := s }
      | _, some d =>
        let r := x.convert v
        match writeCell g x.dstW d r.1 s with
        | .error k => .error k
        | .ok (l, s) => .ok { a with st := s, flags := a.flags ||| r.2, wrote := (l, max 1 (x.dstW / 8), x.dstW) :: a.wrote }

/-- Moves elements in ascending position; on a failure, what had been done and the failure. -/
def moveElems (g : Eng) (x : Stream) : List Nat → SectorRun → SectorRun × Option (Option Flt)
  | [], a => (a, none)
  | q :: qs, a =>
    match moveElem g x q a with
    | .ok a => moveElems g x qs a
    | .error k => (a, some k)

/-! ### Reservations (R219, R221) -/

/-- The lines that the incomplete sectors of a side touch, each with the virtual line that names it; none where a page of the side cannot be reserved.
Window addresses take no part. -/
def sideLines (g : Eng) (acc : Access) (n : Nat) : List Cell → State → Except (Option Flt) (List (Nat × Nat) × State)
  | [], s => .ok ([], s)
  | c :: cs, s =>
    if inWindow c.ea then sideLines g acc n cs s
    else match translate g.xl c.ea acc s with
    | .error f => .error f.deliver
    | .ok (p, s) =>
      match p.loc with
      | .tmem _ _ => sideLines g acc n cs s
      | .mem a =>
        if p.device then .error (some (p.barred c.ea 5))
        else if !p.rsvok then .error (some (p.barred c.ea 4))
        else match sideLines g acc n cs s with
          | .error k => .error k
          | .ok (ls, s) => .ok (((linesOf c.ea.toNat n).zip (linesOf a n)).foldl (fun l k => amSet k.1 k.2 l) ls, s)

/-- The positions of a stream's incomplete sectors. -/
def Stream.remaining (x : Stream) : List Nat := (range 0 x.sectors).flatMap fun j => if x.done.contains j then [] else x.positions j

/-- The sides of a stream that RMODE reserves (R219): the shape-record side, both sides of a copy. -/
def Stream.sides (x : Stream) : List (Access × Nat × List Cell) :=
  let qs := x.remaining
  match x.kind with
  | .store _ => [(.write, x.dstW, qs.filterMap x.dst)]
  | .copy _ _ _ _ _ => [(.read, x.shape.w, qs.map x.src), (.write, x.dstW, qs.filterMap x.dst)]
  | .load _ | .fabric => [(.read, x.shape.w, qs.map x.src)]
  | _ => []

/-- What a registration does to the copies of its lines (R267): modified copies are written home; write intent drops every copy and withdraws
links. -/
def reserveLines (write : Bool) (ls : List Nat) (s : State) : State :=
  ls.foldl (fun s n => if write then loseLinks none (.mem n) (dropCopies n (writeBack n s)) else writeBack n s) s

/-- Registers one side's lines, unless an earlier registration conflicts (R219). -/
def reserveSide (u : TileId) (k : Nat) (mode : BitVec 2) (write : Bool) (ps : List (Nat × Nat)) (s : State) : State :=
  let ls := ps.foldl (fun l p => insertNat p.2 l) []
  if ls.isEmpty || s.ranges.any fun r => r.conflicts (some (u, k)) write ls then s
  else reserveLines write ls { s with ranges := s.ranges ++ [⟨u, k, write, mode, ls, [], ps⟩] }

/-- Registers the sides of a stream in order (R219). -/
def registerSides (g : Eng) (u : TileId) (k : Nat) (mode : BitVec 2) : List (Access × Nat × List Cell) → State → Except (Option Flt) State
  | [], s => .ok s
  | (acc, w, cs) :: r, s =>
    match sideLines g acc (max 1 (w / 8)) cs s with
    | .error f => .error f
    | .ok (ls, s) => registerSides g u k mode r (reserveSide u k mode (acc = .write) ls s)

/-- Releases what a stream has reserved (R221). -/
def releaseRanges (u : TileId) (k : Nat) (s : State) : State := { s with ranges := s.ranges.filter fun r => !(r.tile = u && r.slot = k) }

/-- Registers the reservation of the stream in a slot, where it is due; a failure leaves nothing registered. -/
def registerStream (u : TileId) (k : Nat) (x : Stream) (s : State) : Except (Option Flt) State :=
  if !x.regdue then .ok s
  else registerSides (engineOf u x.issuer x.level (some (u, k)) s) u k x.rmode x.sides s

/-- The lines of a reservation in which elements of its stream lie that are not performed, by the pages that its registration found (R219). -/
def Reservation.left (r : Reservation) (x : Stream) : List Nat :=
  x.sides.flatMap fun (acc, w, cs) =>
    if (acc = .write) = r.write then cs.flatMap fun c => (linesOf c.ea.toNat (max 1 (w / 8))).filterMap fun l => amGet l r.pages else []

/-- Records the lines that a stream has passed (R219, R267). -/
def passLines (u : TileId) (k : Nat) (x : Stream) (s : State) : State :=
  { s with ranges := s.ranges.map fun r =>
      if r.tile = u && r.slot = k then { r with passed := r.lines.filter fun l => !(r.left x).contains l } else r }

/-! ### Sectors -/

/-- Replaces the stream in a slot. -/
def setStream (u : TileId) (k : Nat) (x : Stream) (s : State) : State :=
  s.modTile u fun v => { v with streams := amSet k x v.streams }

/-- The bytes of each tile's TMEM among some writes, counted in bits. -/
def tmemBits (l : List (Loc × Nat × Nat)) : List (TileId × Nat) :=
  l.foldl (fun m (p, _, b) => match p with
    | .tmem t _ => amSet t ((amGet t m).getD 0 + b) m
    | .mem _ => m) []

/-- The END record of a stream that holds its engine (R410). -/
def endMoving (i : StrandId) (x : Stream) (s : State) : State := if x.moving then traceEvent i 4 true x.seq x.strip x.pc s else s

/-- Completion of a stream (R223): its flags reach `fcsr`, its reservation is released, its tag or buffer is completed. -/
def finishStream (u : TileId) (k : Nat) (x : Stream) (s : State) : State :=
  let i : StrandId := ⟨.tile u, x.issuer⟩
  let s := releaseRanges u k (s.modStrand i (·.raise x.flags))
  let s := s.modTile u fun v => { v with streams := amDel k v.streams }
  let s := match x.kind with
    | .tundish b => s.modStrand i fun t =>
      { t with tundish := t.tundish.map fun d => { d with bufs := d.bufs.modify b fun f => { f with state := .full } } }
    | _ => setTag u x.ch ((s.tile u).tag x.ch).complete s
  traceEvent i 0 true x.seq x.strip x.pc (endMoving i x s)

/-- The tokens that a sector hands to the fabric: to the queue bound to the tag, or to nothing (R213, R370). -/
def feedTokens (u : TileId) (ch : BitVec 6) (ts : List Token) (s : State) : State :=
  s.modTile u fun v =>
    match v.fabric.bindings.find? fun b => b.ch = ch && !b.out with
    | none => v
    | some b => { v with fabric := { v.fabric with feeds := v.fabric.feeds ++ ts.map fun t => ⟨b.elem, b.inq, ch, t⟩ } }

/-- Whether the engine still holds tokens for a tag. -/
def Tile.feeding (v : Tile) (ch : BitVec 6) : Bool := v.fabric.feeds.any (·.ch = ch)

/-- Whether a stream has handed over everything: all its sectors, and every token of a fabric-bound one. -/
def Stream.spent (x : Stream) (v : Tile) : Bool :=
  x.sectors ≤ x.resume && (match x.kind with | .fabric => !v.feeding x.ch | _ => true)

/-- What a completed sector does besides its writes (R215, R222, R417): full bits, arrivals, the count of bytes, tokens, and the install of the lines it
wrote. A sector that is performed again after a stop arrives once (log entry 69). -/
def settleSector (u : TileId) (k : Nat) (x : Stream) (j : Nat) (a : SectorRun) : State :=
  let s := a.wrote.foldl (fun s (l, n, _) => markFull l n s) a.st
  let s := if x.counted.contains j then s else (tmemBits a.wrote).foldl (fun s (t, b) => arrive t x.ch ((b + 7) / 8) s) s
  let s := bump u 9 (((x.positions j).length * x.wide + 7) / 8) s
  let s := match x.kind with | .fabric => feedTokens u x.ch a.toks s | _ => s
  let s := installLines (a.wrote.flatMap fun (l, n, _) => l.lines n).eraseDups s
  let x := { x with done := insertNat j x.done, counted := insertNat j x.counted, flags := x.flags ||| a.flags, regdue := false }
  let s := passLines u k x (setStream u k x s)
  if x.spent (s.tile u) then finishStream u k x s else s

/-- Whether a Tundish load must wait for its buffer's registers (R230, R231). -/
def Stream.drainHeld (x : Stream) (t : Strand) : Bool :=
  match x.kind, t.tundish with
  | .tundish b, some d => t.queue.any fun e => e.seq < (d.bufs.getD b {}).since
  | _, _ => false

/-- The places that a sector's elements name, as far as translation reaches. -/
def sectorPlaces (g : Eng) (x : Stream) (j : Nat) (s : State) : List (Loc × Nat) × List (Loc × Nat) :=
  let qs := x.positions j
  let n := max 1 (x.shape.w / 8)
  let src := qs.filterMap fun q => (placeOf g.xl (x.src q).ea .read s).map (·, n)
  let dst := qs.filterMap fun q => (x.dst q).bind fun c => (placeOf g.xl c.ea .write s).map (·, max 1 (x.dstW / 8))
  (src, dst)

/-- Whether a sector may be worked on: the stream runs, and ascending order is kept where its sides overlap, and for tokens. -/
def Stream.allows (x : Stream) (u : TileId) (j : Nat) (s : State) : Bool :=
  !x.stopped && j < x.sectors && !x.done.contains j &&
  (match x.kind with
   | .fabric => j = x.resume && !(s.tile u).feeding x.ch
   | .tundish _ => true
   | _ => j = x.resume || !(x.foreseen (engineOf u x.issuer x.level none s) s).overlaps u s)

/-- The places of the indices that a gather has still to read (R214). -/
def indexPlaces (g : Eng) (x : Stream) (s : State) : List (Loc × Nat) :=
  (x.rowsOf x.remaining).filterMap fun r =>
    if (amGet r x.rows).isSome then none else (x.indexAt r).bind fun a => (placeOf g.xl a .read s).map (·, 4)

/-- Works a sector of the stream in a slot: the stream with the indices it has read, and the state with its elements moved, with the failure that stopped
it. -/
def workSector (u : TileId) (k : Nat) (x : Stream) (j : Nat) (s : State) : Option (Stream × SectorRun × Option (Option Flt)) :=
  let i : StrandId := ⟨.tile u, x.issuer⟩
  match registerStream u k x s with
  | .error f => some (x, ⟨s, 0, [], []⟩, some f)
  | .ok s =>
    let g := engineOf u x.issuer x.level (some (u, k)) s
    if x.drainHeld (s.strand i) || engineHeld true i x.seq x.fence (indexPlaces g x s) [] s then none
    else match readRows g (x.rowsOf x.remaining) x s with
      | none => none
      | some (x, s) =>
        match rowFault g x s (x.rowsOf (x.positions j)) with
        | some f => some (x, ⟨s, 0, [], []⟩, some (some f))
        | none =>
          let (reads, writes) := sectorPlaces g x j s
          if engineHeld true i x.seq x.fence reads writes s then none
          else
            let s := if x.moving then s else traceEvent i 4 false x.seq x.strip x.pc s
            let r := moveElems g x (x.positions j) ⟨s, 0, [], []⟩
            some ({ x with moving := true }, r.1, r.2)

/-- SECTOR_COMPLETE (R215, R223): a sector of the stream in slot `k` is performed whole, or a fabric-bound stream's last token has gone. -/
def execSectorComplete (u : TileId) (k j : Nat) (st : State) : Out :=
  event st <|
    let v := st.tile u
    match v.works, amGet k v.streams with
    | true, some x =>
      if x.spent v then some (finishStream u k x st)
      else if !x.allows u j st then none
      else match workSector u k x j st with
        | some (x, a, none) => some (settleSector u k x j a)
        | _ => none
    | _, _ => none

/-- The fields of a stream fault's detail word (R392). -/
def Stream.detail (x : Stream) (j : Nat) : Nat :=
  (match x.kind with | .tundish b => b * 2 ^ 8 | _ => x.ch.toNat * 2 ^ 8) + j % 2 ^ 16 * 2 ^ 16

/-- A stream as it stops (R215, R218): what it has done beyond its resume point is performed again whole, with the indices read again. -/
def Stream.halt (x : Stream) : Stream := { x with done := x.done.filter (· < x.resume), rows := [] }

/-- Stops a stream at its lowest sector and delivers the fault (R217). -/
def stopStream (u : TileId) (k : Nat) (x : Stream) (f : Flt) (s : State) : State :=
  let i : StrandId := ⟨.tile u, x.issuer⟩
  let s := endMoving i x s
  let src : BitVec 3 := match x.kind with | .tundish _ => 3 | _ => 2
  let s := engineFault src i x.pc f (x.detail x.resume) (s.modStrand i (·.raise x.flags))
  setStream u k { x.halt with stopped := true, moving := false, flags := 0, halted := s.now } s

/-- STREAM_FAULT (R217): the lowest incomplete sector of the stream in slot `k` holds a failed access. What the sector had written stands or
does not (R215). -/
def execStreamFault (u : TileId) (k : Nat) (st : State) : Out :=
  event st <|
    let v := st.tile u
    match v.works, amGet k v.streams with
    | true, some x =>
      if x.spent v || !x.allows u x.resume st then none
      else match workSector u k x x.resume st with
        | some (y, a, some (some f)) =>
          some (freeState (fun s => stopStream u k { y with flags := x.flags ||| a.flags } f { a.st with free := s.free })
            (stopStream u k x f) st)
        | _ => none
    | _, _ => none

/-! ### Issue -/

/-- The lowest free slot of a table of slots. -/
def freeSlotOf {α : Type} (n : Nat) (l : List (Nat × α)) : Option Nat := (List.range n).find? fun k => (amGet k l).isNone

/-- The body of an instruction that a control core has not (R84), once its x registers are settled. -/
def onTile (xs : List (BitVec 5)) (body : TileId → StrandId → Strand → State → Except Stop State) (i : StrandId) (t : Strand) (s : State) :
    Except Stop State :=
  match i.core with
  | .control _ => .error (preciseStop t ⟨cIllegal, 0, 0⟩)
  | .tile u => if t.anyX xs then .error .stall else body u i t s

/-- The frame of the stream instructions (R84, R257): a control core has none. -/
def issueStream (len : Nat) (xs : List (BitVec 5)) (body : TileId → StrandId → Strand → State → Except Stop State) (st : State) : Out :=
  issueEngine st len (onTile xs body)

/-- The records on pipe 0 of an instruction that retires as it issues (R410). -/
def traceBoth (i : StrandId) (t : Strand) (s : State) : State :=
  traceEvent i 0 true t.issued t.strip t.pc (traceEvent i 0 false t.issued t.strip t.pc s)

/-- The frame of the stream data instructions (R203, R204): a free slot, `vl` settled, no acquire outstanding; nothing for N = 0. -/
def issueData (len : Nat) (xs : List (BitVec 5)) (body : TileId → Nat → StrandId → Strand → State → Except Stop State) (st : State) : Out :=
  issueStream len xs (fun u i t s =>
    match freeSlotOf 16 (s.tile u).streams with
    | none => .error .stall
    | some k =>
      if t.pendVl || t.acquiring then .error .stall
      else if t.vl = 0 then .ok (traceBoth i t s)
      else body u k i t s) st

/-- The parts of a stream that every instruction captures alike. -/
def newStream (t : Strand) (slot : BitVec 3) (kind : StreamKind) (h : Shape) (p n : Nat) (ch : BitVec 6) (rm : BitVec 2) : Stream :=
  { kind := kind, shape := h, p := p, n := n, ch := ch, rmode := rm, issuer := slot, level := t.level, seq := t.issued, fence := t.relFence,
    pc := t.pc, strip := t.strip, regdue := rm != 0 }

/-- A stream enters its slot (R203, R219, R222): BUSY is set, and its reservation is registered or faults. -/
def startStream (u : TileId) (k : Nat) (i : StrandId) (x : Stream) (s : State) : State :=
  let s := traceEvent i 0 false x.seq x.strip x.pc s
  let s := match x.kind with | .tundish _ => s | _ => setTag u x.ch { (s.tile u).tag x.ch with busy := true } s
  if !x.regdue then setStream u k x s
  else match registerStream u k x s with
    | .ok s => setStream u k { x with regdue := false } s
    | .error (some f) => stopStream u k x f s
    | .error none => setStream u k x s

/-- Reads a shape record at issue (R210 order 5). -/
def readShape (i : StrandId) (t : Strand) (ea : Addr) (s : State) : Except Stop (Shape × Bool × State) :=
  match recordAt i t ea 64 false s with
  | .error e => .error e
  | .ok (p, s) =>
    match recordBits t p ea 64 s with
    | .error e => .error e
    | .ok r => .ok (shapeOf r, field r 87 41 != 0, s)

/-- Whether `n` bytes from an address lie wholly inside one tile slot, or the own-tile alias, of the TMEM window (R209 code 13). -/
def inOneSlot (ea : Addr) (n : Nat) : Bool :=
  inWindow ea &&
  let off := ea.toNat - twb
  if 0x1C000000 ≤ off then off + n ≤ 0x1C300000 else off < 72 * 0x400000 && off % 0x400000 + n ≤ 0x300000

/-- SHAPE_INVALID with a code, for a record (R209, R391). -/
def shapeStop (t : Strand) (ea : Addr) (code : Nat) : Except Stop State := .error (preciseStop t ⟨cShapeInvalid, ea, BitVec.ofNat 64 code⟩)

/-- An instruction with one record and one TMEM side, in the order of R210. -/
def oneRecord (write : Bool) (s : BitVec 4) (tmem : Option Addr) (x : BitVec 5) (kind : StreamKind) (ch : BitVec 6) (rm : BitVec 2) (st : State) : Out :=
  issueData two [x] (fun u k i t st =>
    let ra := t.ar s
    let n := t.vl.toNat
    let p := (t.xr x).toNat
    if ((st.tile u).tag ch).busy then .error (preciseStop t ⟨cChannelBusy, 0, 0⟩)
    else if ra.toNat % 64 != 0 then .error (preciseStop t ⟨cMisaligned, ra, 0⟩)
    else if (match tmem with | some a => a.toNat % 16 != 0 | none => false) then .error (preciseStop t ⟨cMisaligned, tmem.getD 0, 0⟩)
    else match readShape i t ra st with
      | .error e => .error e
      | .ok (h, rsv, st) =>
        match h.fault rsv write p n with
        | some c => shapeStop t ra c
        | none =>
          if (match tmem with | some a => !inOneSlot a ((n * h.w + 7) / 8) | none => false) then shapeStop t ra 13
          else .ok (startStream u k i (newStream t i.slot kind h p n ch rm) st)) st

/-- The TMEM operand of an instruction at issue. -/
def actingA (st : State) (r : BitVec 4) : Addr :=
  match st.cur with
  | .strand i => (st.strand i).ar r
  | .elem _ => 0

/-- STRM.LD into TMEM (R205, R210, R213). -/
def execStrmLd (d s : BitVec 4) (t : BitVec 5) (ch : BitVec 6) (rm : BitVec 2) (st : State) : Out :=
  oneRecord false s (some (actingA st d)) t (.load (actingA st d)) ch rm st

/-- STRM.LD into the fabric (R205, R213, R227). -/
def execStrmLdFab (s : BitVec 4) (t : BitVec 5) (ch : BitVec 6) (rm : BitVec 2) (st : State) : Out := oneRecord false s none t .fabric ch rm st

/-- STRM.ST (R205, R210, R213). -/
def execStrmSt (d s : BitVec 4) (t : BitVec 5) (ch : BitVec 6) (rm : BitVec 2) (st : State) : Out :=
  oneRecord true s (some (actingA st d)) t (.store (actingA st d)) ch rm st

/-- The rounding mode of a copy (R205): RND, or the strand's `vcfg`.RM with stochastic read as nearest. -/
def copyMode (rnd : BitVec 3) (vcfg : Word) : Nat :=
  if rnd != 0 then rnd.toNat - 1 else if vcfg.toNat / 2 ^ 6 % 8 = 4 then 0 else vcfg.toNat / 2 ^ 6 % 8

/-- STRM.CP (R205, R209 to R211, R213). Code 12's "TR = 1 with RANK = 1" names no record: it is applied to the source record (log entry 93). -/
def execStrmCp (d s : BitVec 4) (t : BitVec 5) (ch : BitVec 6) (rm : BitVec 2) (tr : BitVec 1) (rnd : BitVec 3) (sat : BitVec 1) (st : State) : Out :=
  issueData two [t] (fun u k i r st =>
    let sa := r.ar s
    let da := r.ar d
    let n := r.vl.toNat
    let p := (r.xr t).toNat
    if ((st.tile u).tag ch).busy then .error (preciseStop r ⟨cChannelBusy, 0, 0⟩)
    else if sa.toNat % 64 != 0 then .error (preciseStop r ⟨cMisaligned, sa, 0⟩)
    else if da.toNat % 64 != 0 then .error (preciseStop r ⟨cMisaligned, da, 0⟩)
    else match readShape i r sa st with
      | .error e => .error e
      | .ok (h, rsv, st) =>
        match readShape i r da st with
        | .error e => .error e
        | .ok (g, grsv, st) =>
          let raw (f : BitVec 4) : Bool := f = 0 || f = 15
          match h.fault rsv false p n with
          | some c => shapeStop r sa c
          | none =>
            if h.fmt != g.fmt && (raw h.fmt || raw g.fmt) then shapeStop r sa 11
            else if tr = 1 && h.rank = 1 then shapeStop r sa 12
            else match g.fault grsv true p n with
              | some c => shapeStop r da (c + 128)
              | none =>
                let x := newStream r i.slot (.copy g (tr = 1) (copyMode rnd r.vcfg) (sat = 1) (fzOf r.fcsr)) h p n ch rm
                if x.alters && x.overlaps u st then .error (preciseStop r ⟨cStreamOverlap, 0, 0⟩)
                else .ok (startStream u k i x st)) st

/-- STRM.GX (R205, R209, R214). -/
def execStrmGx (d s t : BitVec 4) (ch : BitVec 6) (st : State) : Out :=
  issueData two [] (fun u k i r st =>
    let ra := r.ar s
    let n := r.vl.toNat
    if ((st.tile u).tag ch).busy then .error (preciseStop r ⟨cChannelBusy, 0, 0⟩)
    else if ra.toNat % 64 != 0 then .error (preciseStop r ⟨cMisaligned, ra, 0⟩)
    else if (r.ar d).toNat % 16 != 0 then .error (preciseStop r ⟨cMisaligned, r.ar d, 0⟩)
    else if (r.ar t).toNat % 4 != 0 then .error (preciseStop r ⟨cMisaligned, r.ar t, 0⟩)
    else match readShape i r ra st with
      | .error e => .error e
      | .ok (h, rsv, st) =>
        match h.fault rsv false 0 0 with
        | some c => shapeStop r ra c
        | none =>
          if h.rank != 2 || h.win.any (· != 0) then shapeStop r ra 12
          else if !inOneSlot (r.ar d) ((n * h.extent 0 * h.w + 7) / 8) then shapeStop r ra 13
          else .ok (startStream u k i (newStream r i.slot (.gather (r.ar d) (r.ar t)) h 0 (n * h.extent 0) ch 0) st)) st

/-! ### Channel tags -/

/-- STRM.POST (R224). A frozen tag can be posted with CLR although it is still posted (R225). -/
def execStrmPost (s : BitVec 5) (ch : BitVec 6) (clr : BitVec 1) (st : State) : Out :=
  issueStream two [s] (fun u i t st =>
    let g := (st.tile u).tag ch
    if g.posted && !(clr = 1 && g.frozen) then .error (preciseStop t ⟨cChannelBusy, 0, 0⟩)
    else
      let g := if clr = 1 then { g with arr := 0, frozen := false } else g
      let g := { g with exp := (t.xr s).setWidth 32, posted := true, owner := i.slot, left := false }
      if g.frozen || g.exp < g.arr then
        .ok (takeTrap i ⟨cBarrierOverrun, 0, false, t.pc + 8, t.pc, 0, 0⟩ (setTag u ch { g with frozen := true } st))
      else if g.arr = g.exp then .ok (setTag u ch g.completePhase st)
      else .ok (setTag u ch g st)) st

/-- The status word of a tag (R226). -/
def Tag.word (g : Tag) : Word :=
  BitVec.ofNat 64 ((if g.phase then 1 else 0) + (if g.posted then 2 else 0) + (if g.frozen then 4 else 0) + (if g.busy then 8 else 0) +
    g.arr.toNat * 2 ^ 32)

/-- STRM.WAIT (R226). -/
def execStrmWait (d : BitVec 5) (ch : BitVec 6) (wm : BitVec 1) (st : State) : Out :=
  issueStream two [d] (fun u i t st =>
    let g := (st.tile u).tag ch
    if wm = 1 && g.frozen then .error (preciseStop t ⟨cBarrierOverrun, 0, 0⟩)
    else if wm = 0 && !g.busy then .ok (st.setX i d g.word)
    else .ok (block i t (.stream d ch (wm = 1) (if wm = 1 then g.phases else g.ends)) st)) st

/-- Whether the completion that a STRM.WAIT waits for has come (R226): the phase, or the stream or job, that stood at its issue. -/
def Tag.awaited (g : Tag) (form : Bool) (seen : Nat) : Bool := if form then g.phases != seen else !g.busy || g.ends != seen

/-- STRM_WAIT_WAKE (R226): the event has come. A wait with WM = 1 that is Blocked when its tag freezes stays so until its phase completes (log entry
94). -/
def execStrmWaitWake (i : StrandId) (st : State) : Out :=
  event st <|
    match (st.strand i).status, i.core with
    | .blocked (.stream d ch form seen), .tile u =>
      let g := (st.tile u).tag ch
      if g.awaited form seen then some ((unblock i two st).setX i d g.word) else none
    | _, _ => none

/-- Adds a marker to the last token that the engine holds for a tag where that is a marker, or puts it behind it (R227, R228). -/
def coalesce (ch : BitVec 6) (rank : Nat) (last : Bool) (fs : List Feed) : Option (List Feed) :=
  match fs.reverse.findIdx? (·.ch = ch) with
  | none => none
  | some n =>
    let at' := fs.length - 1 - n
    match fs[at']? with
    | some f =>
      if f.tok.kind = .control then
        let r := field f.tok.data.toNat 4 3
        some (fs.set at' { f with tok := markToken (max r rank) (f.tok.data.getLsbD 7 || last) })
      else none
    | none => none

/-- STRM.MARK (R228): the marker follows the last element of the pending fabric-bound stream, or the last token that the tag has delivered; it coalesces
with a marker that stands there. -/
def execStrmMark (ch : BitVec 6) (rank : BitVec 3) (last : BitVec 1) (st : State) : Out :=
  issueStream two [] (fun u _ _ st =>
    let v := st.tile u
    match v.streams.find? fun (_, x) => x.ch = ch && x.kind = .fabric && x.resume < x.sectors with
    | some (k, x) => .ok (setStream u k { x with marks := x.marks ++ [(rank.toNat, decide (last = 1))] } st)
    | none =>
      match coalesce ch rank.toNat (last = 1) v.fabric.feeds with
      | some fs => .ok (st.setTile u { v with fabric := { v.fabric with feeds := fs } })
      | none => .ok (feedTokens u ch [markToken rank.toNat (last = 1)] st)) st

/-! ### The Tundish -/

/-- The states of a buffer that a new declaration or load must not touch. -/
def BufState.taken : BufState → Bool
  | .loading | .full | .bound => true
  | _ => false

/-- TQDECL (R229). -/
def execTqdecl (d s : BitVec 5) (st : State) : Out :=
  issueStream one [s] (fun _ i t st =>
    let x := (t.xr s).toNat
    let nb := field x 0 4
    let lg := field x 4 3
    let g := 2 ^ lg
    let busy := match t.tundish with | some q => q.bufs.any (·.state.taken) | none => false
    if 8 < nb || 3 < lg || x / 2 ^ 7 != 0 || d.toNat % g != 0 || 32 < d.toNat + nb * g || busy then
      .error (preciseStop t ⟨cTundishState, 0, 0⟩)
    else .ok (st.modStrand i fun r =>
      { r with tundish := if nb = 0 then none else some ⟨d.toNat, g, 0, 0, List.replicate nb {}⟩ })) st

/-- TQLD (R230). Without a declaration it traps before the checks of R210's orders 4 to 6, whose place beside it the spec does not give (log entry 34). -/
def execTqld (d : BitVec 5) (s : BitVec 4) (t : BitVec 5) (st : State) : Out :=
  issueData one [d, t] (fun u k i r st =>
    match r.tundish with
    | none => .error (preciseStop r ⟨cTundishState, 0, 0⟩)
    | some q =>
      let ra := r.ar s
      let n := r.vl.toNat
      let p := (r.xr t).toNat
      if ra.toNat % 64 != 0 then .error (preciseStop r ⟨cMisaligned, ra, 0⟩)
      else match readShape i r ra st with
        | .error e => .error e
        | .ok (h, rsv, st) =>
          match h.fault rsv false p n with
          | some c => shapeStop r ra c
          | none =>
            if q.g * capacity (st.lanes i) h.w < n then .error (preciseStop r ⟨cVlenRange, 0, 0⟩)
            else
              let b := q.next
              let f := q.bufs.getD b {}
              if f.state.taken then .ok (traceBoth i r (st.setX i d 0))
              else
                let f := { f with state := .loading, n := n, rank := h.rankAfter (p + n - 1), order := q.turn }
                let q := { q with bufs := q.bufs.set b f, next := (b + 1) % q.bufs.length, turn := q.turn + 1 }
                let st := (st.modStrand i fun r => { r with tundish := some q }).setX i d (BitVec.ofNat 64 (b + 1))
                .ok (startStream u k i (newStream r i.slot (.tundish b) h p n 0 0) st)) st

/-- The BOUND buffer goes to DRAINING (R231): the vector-class instructions issued before a TQPOP with issue number `seq` use it. -/
def Tundish.unbind (q : Tundish) (seq : Nat) : Tundish :=
  { q with bufs := q.bufs.map fun f => if f.state = .bound then { f with state := .draining, since := seq } else f }

/-- The oldest buffer in TQLD order that is LOADING or FULL. -/
def Tundish.oldest (q : Tundish) : Option (Nat × Buffer) :=
  (q.bufs.zipIdx.filter fun (f, _) => f.state = .loading || f.state = .full).foldl (fun o (f, b) =>
    match o with
    | none => some (b, f)
    | some (c, g) => if f.order < g.order then some (b, f) else some (c, g)) none

/-- TQPOP takes a FULL buffer (R231): it becomes BOUND, and xD receives its register, length and rank. -/
def popBuffer (i : StrandId) (d : BitVec 5) (q : Tundish) (b : Nat) (f : Buffer) (s : State) : State :=
  (s.modStrand i fun r => { r with tundish := some { q with bufs := q.bufs.set b { f with state := .bound } } }).setX i d
    (BitVec.ofNat 64 (q.vD + b * q.g + f.n * 2 ^ 8 + f.rank * 2 ^ 21))

/-- TQPOP (R231). -/
def execTqpop (d : BitVec 5) (st : State) : Out :=
  issueStream one [d] (fun _ i t st =>
    match t.tundish with
    | none => .error (preciseStop t ⟨cTundishState, 0, 0⟩)
    | some q =>
      let q := q.unbind t.issued
      let st := st.modStrand i fun r => { r with tundish := some q }
      match q.oldest with
      | none => .ok (st.setX i d 0)
      | some (b, f) => if f.state = .full then .ok (popBuffer i d q b f st) else .ok (block i t (.tundish d) st)) st

/-- TQPOP_WAKE (R231): the oldest buffer is FULL. -/
def execTqpopWake (i : StrandId) (st : State) : Out :=
  event st <|
    let t := st.strand i
    match t.status, t.tundish with
    | .blocked (.tundish d), some q =>
      match q.oldest with
      | some (b, f) => if f.state = .full then some (popBuffer i d q b f (unblock i one st)) else none
      | none => none
    | _, _ => none

/-- BUFFER_DRAINED (R231): every vector-class instruction issued before the TQPOP has retired. -/
def execBufferDrained (i : StrandId) (k : Nat) (st : State) : Out :=
  event st <|
    let t := st.strand i
    match t.tundish with
    | none => none
    | some q =>
      match q.bufs[k]? with
      | none => none
      | some f =>
        if f.state ≠ .draining || t.queue.any fun e => e.seq < f.since then none
        else some (st.modStrand i fun r => { r with tundish := some { q with bufs := q.bufs.set k { f with state := .free } } })

end Sys2Proof.Machine
end

