-- ==== Sys2Proof/Machine/Matrix.lean ====
section
/-! DEFINITION. The Quadrille: regions (R281), operand memory (R283 to R285), stride registers (R286), the array queue (R291, R299, R300), the
butterfly stage (R292 to R294), MGEMM and the accumulator nodes (R296 to R298), and stops (R301). -/

namespace Sys2Proof.Machine

open Sys2Proof

/-! ### Issue -/

/-- MATRIX_OPERAND with a detail code (R291). -/
def operandStop (t : Strand) (code : Nat) : Except Stop State := .error (preciseStop t ⟨cMatrixOperand, 0, BitVec.ofNat 64 code⟩)

/-- MATRIX_STATE. -/
def matrixState (t : Strand) : Except Stop State := .error (preciseStop t ⟨cMatrixState, 0, 0⟩)

/-- The records of an engine instruction that begins and retires at issue (R410). -/
def noteBoth (i : StrandId) (t : Strand) (s : State) : State :=
  traceEvent i 0 true t.issued t.strip t.pc (traceEvent i 0 false t.issued t.strip t.pc s)

/-- The record of the retirement of a Blocked engine instruction, whose issue was the strand's last. -/
def noteWoken (i : StrandId) (s : State) : State :=
  let t := s.strand i
  traceEvent i 0 true (t.issued - 1) t.strip t.pc s

/-- The number of the strand's slots of TMEM that an address names: its offset in the issuing tile's TMEM, by the own-tile alias or the tile's own
slot of the window (R291). -/
def ownOffset (v : Tile) (ea : Addr) : Option Nat :=
  if !inWindow ea then none
  else
    let off := ea.toNat - twb
    if 0x1C000000 ≤ off then some (off - 0x1C000000)
    else match v.res with
      | none => none
      | some r =>
        let base := (8 * r.dy + r.dx) * 0x400000
        if base ≤ off && off < base + 0x400000 then some (off - base) else none

/-- A TMEM side of some bytes: its offset, none where R291 code 5 applies. -/
def tmemSide (v : Tile) (ea : Addr) (n : Nat) : Option Nat :=
  match ownOffset v ea with
  | none => none
  | some o => if ea.toNat % 64 = 0 && o + n ≤ 0x300000 then some o else none

/-! ### Regions (R281, R282) -/

/-- The number of columns of a region. -/
def regionCols (r : BitVec 2) : Nat := if r = 1 then 128 else if r = 0 then 0 else 64

/-- The first node of a region. -/
def regionBase (r : BitVec 2) : Nat := if r = 3 then 64 else 0

/-- Whether a region holds a fabric element, by its column. -/
def inRegion (r : BitVec 2) (idx : Nat) : Bool :=
  match r.toNat with
  | 0 => false
  | 1 => true
  | 2 => idx % 16 < 8
  | _ => 8 ≤ idx % 16

/-- Whether an element of a region holds a selected context. -/
def Tile.contextIn (v : Tile) (r : BitVec 2) : Bool := v.fabric.elems.any fun (k, e) => inRegion r k && e.ctx.isSome

/-- The tile asks for leave unless it holds it (R282). -/
def askLeave (u : TileId) (s : State) : State := if (s.tile u).leave then s else requestLeave u s

/-- MMODE (R281). One that another strand's pending MMODE of the tile precedes is not ready until that one completes, a case of which the rule does not
speak (log entry 99). -/
def execMmode (s : BitVec 5) (st : State) : Out :=
  issueStream one [s] (fun u i t st =>
    let x := t.xr s
    let v := st.tile u
    let r : BitVec 2 := x.setWidth 2
    if x.toNat / 4 != 0 then operandStop t 4
    else if v.mode.isSome then .error .stall
    else if r = v.region then .ok (noteBoth i t st)
    else if v.region = 0 && v.contextIn r then matrixState t
    else
      let st := traceEvent i 0 false t.issued t.strip t.pc (st.setTile u { v with mode := some ⟨i.slot, r⟩ })
      let st := block i t .mmode st
      .ok (if v.region = 0 then askLeave u st else st)) st

/-- The waiting MMODE of a tile completes. -/
def finishMode (u : TileId) (slot : BitVec 3) (s : State) : State :=
  let i : StrandId := ⟨.tile u, slot⟩
  unblock i one (noteWoken i (s.modTile u fun v => { v with mode := none }))

/-- The trap of an MMODE that has left its region and finds a context in the new one (R281); its entry takes the issue slot (R87). -/
def trapMode (u : TileId) (slot : BitVec 3) (s : State) : State :=
  let i : StrandId := ⟨.tile u, slot⟩
  let t := s.strand i
  lone i.core (takeTrap i ⟨cMatrixState, 0, false, t.pc, t.pc, 0, 0⟩ s)

/-- MATRIX_EXIT (R281): the old region leaves once the array queue is empty; the accumulators are cleared and leave is given back. -/
def execMatrixExit (u : TileId) (st : State) : Out :=
  event st <|
    let v := st.tile u
    match v.works, v.mode with
    | true, some m =>
      let trap := m.region != 0 && v.contextIn m.region
      if v.region = 0 || !v.mats.isEmpty || (trap && !st.slotOpen (.tile u)) then none
      else
        let s := st.setTile u { v with region := 0, acc := [], rels := [], qacc := none, leave := false }
        some (if m.region = 0 then finishMode u m.slot s
              else if trap then trapMode u m.slot s
              else requestLeave u s)
    | _, _ => none

/-- MATRIX_ENTRY (R281, R282): the tile holds leave and enters its new region. -/
def execMatrixEntry (u : TileId) (st : State) : Out :=
  event st <|
    let v := st.tile u
    match v.works, v.mode with
    | true, some m =>
      if v.region != 0 || !v.leave then none
      else some (finishMode u m.slot (st.setTile u { v with region := m.region }))
    | _, _ => none

/-! ### Operand memory (R283 to R285) -/

/-- A slot descriptor: FIRST and COUNT, none where it is invalid (R284). -/
def slotRun (x : Word) : Option (Nat × Nat) :=
  let first := field x.toNat 0 6
  let count := field x.toNat 6 7
  if x.toNat / 2 ^ 13 != 0 || count = 0 || 64 < count || 64 < first + count then none else some (first, count)

/-- Whether a slot lies in a run. -/
def inRun (first count k : Nat) : Bool := first ≤ k && k < first + count

/-- The first byte of every page, at the smallest page size, that `n` bytes from an address touch. -/
def pageStarts (ea : Addr) (n : Nat) : List Addr :=
  ea :: (range (ea.toNat / 2 ^ 17 + 1) ((ea.toNat + n - 1) / 2 ^ 17 + 1)).map fun p => BitVec.ofNat 80 (p * 2 ^ 17)

/-- Translates some addresses for an access, refusing device-class pages. -/
def checkPlaces (i : StrandId) (t : Strand) (acc : Access) : List Addr → State → Except Stop State
  | [], s => .ok s
  | a :: as, s =>
    match locate i t a acc s with
    | .error e => .error e
    | .ok (p, s) => if p.device then .error (preciseStop t (p.barred a 5)) else checkPlaces i t acc as s

/-- QCLAIM (R284). -/
def execQclaim (d : BitVec 5) (s : BitVec 4) (t : BitVec 5) (st : State) : Out :=
  issueStream one [d, t] (fun u i r st =>
    if r.acquiring then .error .stall
    else
      let ea := r.ar s
      match slotRun (r.xr t) with
      | none => operandStop r 10
      | some (first, count) =>
        if ea.toNat % 128 != 0 then .error (preciseStop r ⟨cMisaligned, ea, 0⟩)
        else match (if ea = 0 then .ok st else checkPlaces i r .read (pageStarts ea (count * 16384)) st) with
          | .error e => .error e
          | .ok st =>
            let v := st.tile u
            if v.claimed.any fun (k, _) => inRun first count k then .ok (noteBoth i r (st.setX i d 0))
            else
              let claims := (List.range count).map fun k => (first + k, i.slot)
              let fill : OmFill := { first := first, count := count, src := if ea = 0 then none else some ea, issuer := i.slot, level := r.level,
                                     seq := r.issued, pc := r.pc, strip := r.strip }
              let st := (st.setTile u { v with claimed := claims ++ v.claimed, fills := v.fills ++ [fill] }).setX i d 1
              .ok (traceEvent i 6 false r.issued r.strip r.pc (traceEvent i 0 false r.issued r.strip r.pc st))) st

/-- The OM with some bytes replaced; a line wholly rewritten has failed no longer (R393). -/
def putOm (u : TileId) (a : Nat) (bs : List Byte) (s : State) : State :=
  { s.modTile u fun v => { v with om := v.om.write a bs } with poison := healPoison (.om u) a bs.length s.poison }

/-- The failure of an engine's line read that is no translation fault: uncorrectable data (R284). -/
def Flt.corrupt (f : Flt) : Bool := f.cause = cMachineCheck

/-- Fills lines of OM from an address (R284): the lines whose data is corrupt become zero and are listed. -/
def fillLines (g : Eng) (src : Addr) (om : Nat) : Nat → Nat → State → Except (Option Flt) (List Addr × State)
  | 0, _, s => .ok ([], s)
  | n + 1, k, s =>
    let ea := src + BitVec.ofNat 80 (128 * k)
    match engPlace g ea .read 128 s with
    | .error f => .error f
    | .ok (p, s) =>
      match readPhys p 128 s with
      | .error _ =>
        (fillLines g src om n (k + 1) (putOm g.tile (om + 128 * k) (zeroBytes 128) s)).map fun (l, s) => (ea :: l, s)
      | .ok v => fillLines g src om n (k + 1) (putOm g.tile (om + 128 * k) (leBytes 128 v) s)

/-- The k-th fill of a tile is complete; corrupt lines deliver MACHINE_CHECK (R284). -/
def finishFill (u : TileId) (k : Nat) (f : OmFill) (bad : List Addr) (s : State) : State :=
  let i : StrandId := ⟨.tile u, f.issuer⟩
  let s := s.modTile u fun v => { v with fills := v.fills.eraseIdx k }
  let s := bad.foldl (fun s ea => engineFault 5 i f.pc ⟨cMachineCheck, ea, 0⟩ (3 * 2 ^ 40) s) s
  traceEvent i 0 true f.seq f.strip f.pc (traceEvent i 6 true f.seq f.strip f.pc s)

/-- QCLAIM_FILL_DONE (R284): the k-th fill of a tile reads its run; a translation that has failed since issue stops it as a stream fault
does. -/
def execQclaimFillDone (u : TileId) (k : Nat) (st : State) : Out :=
  event st <|
    let v := st.tile u
    match v.fills[k]? with
    | none => none
    | some f =>
      if f.stopped then none
      else match f.src with
        | none => some (finishFill u k f [] (putOm u (16384 * f.first) (zeroBytes (16384 * f.count)) st))
        | some src =>
          let g := engineOf u f.issuer f.level none st
          let i : StrandId := ⟨.tile u, f.issuer⟩
          let lines := 128 * f.count
          let reads := (List.range lines).filterMap fun n => (placeOf g.xl (src + BitVec.ofNat 80 (128 * n)) .read st).map (·, 128)
          if engineHeld true i f.seq none reads [] st then none
          else match fillLines g src (16384 * f.first) lines 0 st with
            | .error none => none
            | .error (some x) =>
              let s := engineFault 5 i f.pc x (3 * 2 ^ 40) st
              some (s.modTile u fun v => { v with fills := v.fills.set k { f with stopped := true } })
            | .ok (bad, s) => some (finishFill u k f bad s)

/-- The array queue takes an entry (R299). -/
def enterQueue (u : TileId) (i : StrandId) (t : Strand) (op : MatOp) (s : State) : State :=
  let e : MatEntry := { op := op, issuer := i.slot, pc := t.pc, strip := t.strip, seq := t.issued }
  traceEvent i 0 false t.issued t.strip t.pc (s.modTile u fun v => { v with mats := v.mats ++ [e] })

/-- Whether the array queue is full (R299). -/
def Tile.arrayFull (v : Tile) : Bool := 4 ≤ v.mats.length

/-- Whether a strand's slot has claimed every slot of a run that does not reach past om63. -/
def Tile.owns (v : Tile) (slot : BitVec 3) (first count : Nat) : Bool :=
  first + count ≤ 64 && (List.range count).all fun k => v.claimed.contains (first + k, slot)

/-- QREL (R285). -/
def execQrel (s : BitVec 5) (st : State) : Out :=
  issueStream one [s] (fun u i t st =>
    let v := st.tile u
    match slotRun (t.xr s) with
    | none => operandStop t 10
    | some (first, count) =>
      if !v.owns i.slot first count then .error (preciseStop t ⟨cMatrixSlot, 0, 0⟩)
      else if v.arrayFull then .error .stall
      else .ok (enterQueue u i t (.rel first count) st)) st

/-- QREL_EFFECT (R285): the QREL at the head of the array queue frees its slots, once no fill of them is in progress. -/
def execQrelEffect (u : TileId) (st : State) : Out :=
  event st <|
    let v := st.tile u
    match v.works, v.mats with
    | true, e :: r =>
      match e.op with
      | .rel first count =>
        if v.fills.any fun x => overlap first count x.first x.count then none
        else
        let s := st.setTile u { v with mats := r, claimed := v.claimed.filter fun (k, _) => !inRun first count k }
        some (traceEvent ⟨.tile u, e.issuer⟩ 0 true e.seq e.strip e.pc s)
      | _ => none
    | _, _ => none

/-! ### Set-up (R286, R296) -/

/-- BSSET (R286). -/
def execBsset (d s t : BitVec 5) (st : State) : Out :=
  issueStream one [d, s, t] (fun _ i r st =>
    let k := r.xr t
    if k.toNat / 16 != 0 then operandStop r 4
    else
      let n : BitVec 4 := k.setWidth 4
      let old := r.bs.get n.toFin
      .ok (noteBoth i r ((st.modStrand i fun q => { q with bs := q.bs.set n.toNat (r.xr s &&& sysRw 0x200) n.isLt }).setX i d old))) st

/-- The output formats that suit a class (R296). -/
def accFormatOk (int : Bool) (f : BitVec 4) : Bool := if int then 9 ≤ f.toNat && f.toNat ≤ 11 else 1 ≤ f.toNat && f.toNat ≤ 5

/-- The pitch of the rows of a release (R296). -/
def rowPitch (cols : Nat) (ofmt : BitVec 4) : Nat := max 64 (cols * widthOf ofmt / 8)

/-- Whether an entry of the array queue is an MGEMM. -/
def MatOp.isGemm : MatOp → Bool
  | .gemm _ _ _ _ _ _ _ _ _ => true
  | _ => false

/-- QACC (R296). -/
def execQacc (d : BitVec 4) (s : BitVec 5) (st : State) : Out :=
  issueStream one [s] (fun u i t st =>
    let v := st.tile u
    let x := (t.xr s).toNat
    let ofmt := BitVec.ofNat 4 (field x 8 4)
    let rnd := BitVec.ofNat 3 (field x 12 3)
    let int := field x 16 1 = 1
    if v.region = 0 || !v.acc.isEmpty || v.mats.any (·.op.isGemm) then matrixState t
    else if x / 2 ^ 17 != 0 then operandStop t 4
    else match tmemSide v (t.ar d) (256 * rowPitch (regionCols v.region) ofmt) with
      | none => operandStop t 5
      | some base =>
        if field x 0 8 = 0 || !accFormatOk int ofmt || 4 < rnd.toNat then operandStop t 11
        else .ok (noteBoth i t (st.setTile u { v with qacc := some ⟨base, field x 0 8, ofmt, copyMode rnd t.vcfg, field x 15 1 = 1, int⟩ }))) st

/-! ### The operations at issue (R290, R291) -/

/-- The slots that some bits from the start of a slot occupy. -/
def slotsFor (bits : Nat) : Nat := (bits + 131071) / 131072

/-- The bits of a stage's weights (R292). -/
def StageParam.weightBits (g : StageParam) (logn : Nat) : Nat := 2 * 2 ^ logn * 2 ^ g.lb * widthOf g.wfmt

/-- Whether code 2 applies to a stage: LB = 7, or fewer than two blocks. -/
def StageParam.badBlock (g : StageParam) (logn : Nat) : Bool := g.lb = 7 || 2 ^ logn < 2 * 2 ^ g.lb

/-- Whether code 3 applies to a stage: a stride of at least the number of blocks. -/
def StageParam.badStride (g : StageParam) (logn : Nat) : Bool := 2 ^ logn / 2 ^ g.lb ≤ 2 ^ g.ls

/-- Whether two ranges of TMEM meet. -/
def sidesMeet (a n b m : Nat) : Bool := overlap a n b m

/-- The lowest code of R291 that applies, of some conditions in ascending order of code. -/
def lowestCode (l : List (Nat × Bool)) : Option Nat := (l.find? (·.2)).map (·.1)

/-- The end of the issue of a matrix operation (R291 orders 3 to 5). -/
def enterOp (u : TileId) (i : StrandId) (t : Strand) (code : Option Nat) (runs : List (Nat × Nat)) (op : MatOp) (s : State) : Except Stop State :=
  let v := s.tile u
  if v.region = 0 then matrixState t
  else match code with
    | some c => operandStop t c
    | none =>
      if runs.any fun (f, n) => !v.owns i.slot f n then .error (preciseStop t ⟨cMatrixSlot, 0, 0⟩)
      else if v.arrayFull then .error .stall
      else .ok (enterQueue u i t op s)

/-- QSTAGE (R290, R291, R293). -/
def execQstage (d s : BitVec 4) (t : BitVec 5) (afmt wfmt ofmt : BitVec 4) (rnd : BitVec 3) (sat : BitVec 1) (wslot : BitVec 6) (st : State) : Out :=
  issueStream two [t] (fun u i r st =>
    let v := st.tile u
    let x := (r.xr t).toNat
    let rows := field x 0 13
    let logn := field x 16 4
    let g : StageParam := ⟨field x 20 3, field x 24 4, wslot.toNat, wfmt⟩
    let inLen := rows * 2 ^ logn * widthOf afmt / 8
    let outLen := rows * 2 ^ logn * widthOf ofmt / 8
    let a := tmemSide v (r.ar s) inLen
    let o := tmemSide v (r.ar d) outLen
    let meets := match a, o with
      | some a, some o => sidesMeet a inLen o outLen && !(a = o && widthOf afmt = widthOf ofmt)
      | _, _ => false
    let code := lowestCode
      [(1, rows = 0 || 4096 < rows), (2, logn < 4 || 12 < logn || g.badBlock logn), (3, g.badStride logn),
       (4, field x 13 3 != 0 || field x 23 1 != 0 || x / 2 ^ 28 != 0), (5, a.isNone || o.isNone), (8, meets)]
    enterOp u i r code [(wslot.toNat, slotsFor (g.weightBits logn))]
      (.chain false (a.getD 0) (o.getD 0) 0 rows logn [g] afmt ofmt false (copyMode rnd r.vcfg) (sat = 1)) st) st

/-- A stage of a QCHAIN, of its register (R285). -/
def stageOf (b : Word) : StageParam := ⟨field b.toNat 0 3, field b.toNat 4 4, field b.toNat 8 6, BitVec.ofNat 4 (field b.toNat 16 4)⟩

/-- QCHAIN (R290, R291, R294). -/
def execQchain (d s : BitVec 4) (t : BitVec 5) (afmt ofmt : BitVec 4) (ifmt : BitVec 1) (rnd : BitVec 3) (sat : BitVec 1) (st : State) : Out :=
  issueStream two [t] (fun u i r st =>
    let v := st.tile u
    let x := (r.xr t).toNat
    let rows := field x 0 13
    let logn := field x 16 4
    let bs0 := field x 20 4
    let nst := field x 24 4
    let chain := field x 32 22
    let stages := ((List.range (nst + 1)).filter fun k => bs0 + k ≤ 15).map fun k => stageOf (r.bs.get (bsIndex (bs0 + k)))
    let wi := if ifmt = 1 then 32 else 16
    let inLen := rows * 2 ^ logn * widthOf afmt / 8
    let outLen := rows * 2 ^ logn * widthOf ofmt / 8
    let midLen := rows * 2 ^ logn * wi / 8
    let a := tmemSide v (r.ar s) inLen
    let o := tmemSide v (r.ar d) outLen
    let many := nst != 0
    let meets := many && (match a, o with
      | some a, some o => sidesMeet a inLen chain midLen || sidesMeet o outLen chain midLen
      | _, _ => false)
    let code := lowestCode
      [(1, rows = 0 || 4096 < rows), (2, logn < 4 || 12 < logn || stages.any (·.badBlock logn)), (3, stages.any (·.badStride logn)),
       (4, field x 13 3 != 0 || field x 28 4 != 0 || x / 2 ^ 54 != 0),
       (5, a.isNone || o.isNone || chain % 64 != 0 || (many && 0x300000 < chain + midLen)),
       (6, 15 < bs0 + nst || stages.any fun g => g.wfmt.toNat = 0 || 8 < g.wfmt.toNat), (8, meets)]
    enterOp u i r code (stages.map fun g => (g.wslot, slotsFor (g.weightBits logn)))
      (.chain true (a.getD 0) (o.getD 0) chain rows logn stages afmt ofmt (ifmt = 1) (copyMode rnd r.vcfg) (sat = 1)) st) st

/-- The slot runs that an MGEMM reads (R297): activations, weights and scales. -/
def gemmRuns (afmt wfmt : BitVec 4) (smode m kp aslot wslot sslot cols : Nat) : List (Nat × Nat) :=
  let p := kp + 1
  [(aslot, slotsFor (p * m * 128 * widthOf afmt)), (wslot, slotsFor (p * 128 * cols * widthOf wfmt))] ++
  (if smode = 1 then [(sslot, slotsFor (32 * (p * m + p)))] else if smode = 2 then [(sslot, slotsFor (16 * (4 * p * m + 4 * p * cols)))] else [])

/-- Whether an MGEMM is of integer class (R289). -/
def gemmIsInt (afmt : BitVec 4) (smode : Nat) : Bool := smode = 0 && 9 ≤ afmt.toNat

/-- MGEMM (R290, R291, R297). -/
def execMgemm (t : BitVec 5) (afmt wfmt : BitVec 4) (smode : BitVec 2) (wslot sslot : BitVec 6) (st : State) : Out :=
  issueStream two [t] (fun u i r st =>
    let v := st.tile u
    let x := (r.xr t).toNat
    let m := field x 0 9
    let kp := field x 16 4
    let aslot := field x 24 6
    let row0 := field x 32 8
    let bad := match v.qacc with | none => true | some q => q.int != gemmIsInt afmt smode.toNat
    let code := lowestCode
      [(1, m = 0 || 256 < m || 256 < row0 + m), (4, field x 9 7 != 0 || field x 20 4 != 0 || field x 30 2 != 0 || x / 2 ^ 40 != 0), (7, bad)]
    enterOp u i r code (gemmRuns afmt wfmt smode.toNat m kp aslot wslot.toNat sslot.toNat (regionCols v.region))
      (.gemm afmt wfmt smode.toNat m kp aslot wslot.toNat sslot.toNat row0) st) st

/-- QDRAIN (R300). -/
def execQdrain (d : BitVec 5) (force : BitVec 1) (st : State) : Out :=
  issueStream two [d] (fun u i t st =>
    let v := st.tile u
    if v.region = 0 then matrixState t
    else if v.arrayFull then .error .stall
    else .ok (block i t (.drain d) (enterQueue u i t (.drain d (force = 1)) st))) st

/-! ### The array at work -/

/-- An element of packed storage (R58). -/
def packedAt (m : Mem) (base w k : Nat) : Nat :=
  let v := leNat (m.bytes (base + k * w / 8) (max 1 (w / 8)))
  if w = 4 then (if k % 2 = 1 then v / 16 else v % 16) else v

/-- An element of the run that starts at a slot of OM. -/
def Tile.omElem (v : Tile) (slot w k : Nat) : Nat := packedAt v.om (16384 * slot) w k

/-- Whether a fill that is not complete concerns a range of OM, in bits from a slot (R284, R298). -/
def Tile.filling (v : Tile) (r : Nat × Nat × Nat) : Bool :=
  let (slot, at', n) := r
  v.fills.any fun x => overlap (131072 * slot + at') n (131072 * x.first) (131072 * x.count)

/-- Whether the operation is one that the array computes. -/
def MatOp.computes : MatOp → Bool
  | .chain _ _ _ _ _ _ _ _ _ _ _ _ => true
  | .gemm _ _ _ _ _ _ _ _ _ => true
  | _ => false

/-- MATRIX_START (R282, R299): the operation at the head of the queue begins once the tile holds leave; without leave it asks for it. -/
def execMatrixStart (u : TileId) (st : State) : Out :=
  event st <|
    let v := st.tile u
    match v.works, v.mats with
    | true, e :: r =>
      if e.started || !e.op.computes then none
      else if !v.leave then (if (st.quad u.quad).waiting.any (·.tile = u) then none else some (requestLeave u st))
      else some (traceEvent ⟨.tile u, e.issuer⟩ 6 false e.seq e.strip e.pc (st.setTile u { v with mats := { e with started := true } :: r }))
    | _, _ => none

/-- RN32 of an exact value, as a code. -/
def rn32 (v : Val) : Nat := FFmt.fp32.rn v

/-- The value of an FP32 code. -/
def fp32 (c : Nat) : Val := FFmt.fp32.decode c

/-- The exact sum of exact products, with the special values of R295. -/
def dotExact (ps : List (Val × Val)) : Val := (sumVals .nearest (ps.map fun p => (p.1.mul p.2).1)).1

/-- Row output element `e` of a stage (R292): `x` gives the input values, `wgt` the weights of the run. -/
def stageElem (n b s : Nat) (x wgt : Nat → Val) (e : Nat) : Nat :=
  let i := e / b
  let lo := min i (i ^^^ s)
  let hi := max i (i ^^^ s)
  let q := ((List.range lo).filter fun k => k < (k ^^^ s)).length
  let t := if i = lo then e % b else b + e % b
  let _ := n
  rn32 (dotExact ((List.range (2 * b)).map fun k =>
    (wgt (q * 4 * b * b + t * 2 * b + k), x (if k < b then lo * b + k else hi * b + (k - b)))))

/-- The bytes of a row of codes of a width of at least 8. -/
def rowBytes (w : Nat) (cs : List Nat) : List Byte := cs.flatMap fun c => leBytes (w / 8) c

/-- An FP32 code converted to an output format (R72, R293, R298). -/
def fromFp32 (ofmt : BitVec 4) (rnd : Nat) (sat : Bool) (c : Nat) : Nat :=
  if ofmt = 1 then c else (convert 1 ofmt (RMode.ofCode rnd).plain sat false 0 c).1

/-- An INT32 code converted to an output format (R75, R298). -/
def fromInt32 (ofmt : BitVec 4) (rnd : Nat) (sat : Bool) (c : Nat) : Nat :=
  if ofmt = 9 then c else (convert 9 ofmt (RMode.ofCode rnd).plain sat false 0 c).1

/-- What firing a row gives: a wait, a stop for a fault, or the state after it. -/
inductive RowRes where
  | hold
  | bad (f : Flt)
  | done (s : State)

/-- The head entry with its progress moved past a row. -/
def MatEntry.step (e : MatEntry) (rows : Nat) : MatEntry :=
  if e.row + 1 < rows then { e with row := e.row + 1 } else { e with pass := e.pass + 1, row := 0 }

/-- The stop of a row whose data is in error (R301): operand memory has no address. -/
def RowRes.corrupt (ea : Addr) : RowRes := .bad ⟨cMachineCheck, ea, 0⟩

/-- The stop of a row at a reserved code (R301). -/
def RowRes.reserved : RowRes := .bad ⟨cFormatReserved, 0, 0⟩

/-- One row of one stage of a QSTAGE or QCHAIN (R292 to R294); its weights must be filled (R298). -/
def chainRow (u : TileId) (e : MatEntry) (src dst chain logn : Nat) (stages : List StageParam) (afmt ofmt : BitVec 4) (ifp32 : Bool)
    (rnd : Nat) (sat : Bool) (s : State) : RowRes :=
  let v := s.tile u
  match stages[e.pass]? with
  | none => .hold
  | some g =>
    let n := 2 ^ logn
    let b := 2 ^ g.lb
    let ifmt : BitVec 4 := if ifp32 then 1 else 2
    let last := e.pass + 1 = stages.length
    let inFmt := if e.pass = 0 then afmt else ifmt
    let inBase := (if e.pass = 0 then src else chain) + e.row * (n * widthOf inFmt / 8)
    let code (k : Nat) : Nat := packedAt v.tmem inBase (widthOf inFmt) k
    let wcode (k : Nat) : Nat := v.omElem g.wslot (widthOf g.wfmt) k
    let inLen := n * widthOf inFmt / 8
    if v.filling (g.wslot, 0, g.weightBits logn) || engineHeld true ⟨.tile u, e.issuer⟩ e.seq none [(.tmem u inBase, inLen)] [] s then .hold
    else if s.poisoned (.tmem u inBase) inLen then .corrupt (BitVec.ofNat 80 (twb + 0x1C000000 + inBase))
    else if s.omPoisoned u (16384 * g.wslot) (2 * n * b * widthOf g.wfmt / 8) then .corrupt 0
    else if (List.range n).any (fun k => reservedCode inFmt (code k)) || (List.range (2 * n * b)).any (fun k => reservedCode g.wfmt (wcode k)) then .reserved
    else
      let hs := (List.range n).map (stageElem n b (2 ^ g.ls) (fun k => valueOf inFmt (code k)) fun k => valueOf g.wfmt (wcode k))
      let outFmt := if last then ofmt else ifmt
      let cs := hs.map fun h => if last then fromFp32 ofmt rnd sat h else fromFp32 ifmt 0 false h
      let out := (if last then dst else chain) + e.row * (n * widthOf outFmt / 8)
      let bs := rowBytes (widthOf outFmt) cs
      let s := writeTmem none u out bs s
      .done (if last then setFull u out bs.length s else s)

/-- The count and value of an accumulator slot (R296). -/
def Tile.accSlot (v : Tile) (node row : Nat) : AccSlot := (amGet (256 * node + row) v.acc).getD ⟨0, 0⟩

/-- An S12 scale's value. -/
def Scale.val : Scale → Val
  | .res => .nan false
  | .zero => .zero false
  | .nan => .nan false
  | .fin n d => .fin false n d

/-- One promotion of MGEMM into a slot (R297). -/
def promote (afmt wfmt : BitVec 4) (smode m kp aslot wslot sslot cols p r j acc : Nat) (v : Tile) : Nat :=
  let a (k : Nat) : Nat := v.omElem aslot (widthOf afmt) ((p * m + r) * 128 + k)
  let b (k : Nat) : Nat := v.omElem wslot (widthOf wfmt) ((p * 128 + k) * cols + j)
  let dot (lo n : Nat) : Val := dotExact ((List.range n).map fun k => (valueOf afmt (a (lo + k)), valueOf wfmt (b (lo + k))))
  let add (x y : Nat) : Nat := rn32 (sumVals .nearest [fp32 x, fp32 y]).1
  if smode = 2 then
    (List.range 4).foldl (fun acc g =>
      let sa := scaleOf (packedAt v.om (16384 * sslot + 2 * ((p * m + r) * 4 + g)) 16 0)
      let sw := scaleOf (packedAt v.om (16384 * sslot + 8 * (kp + 1) * m + 2 * ((p * 4 + g) * cols + j)) 16 0)
      let z := rn32 (dot (32 * g) 32)
      let sc := rn32 (sa.val.mul sw.val).1
      add acc (rn32 ((fp32 z).mul (fp32 sc)).1)) acc
  else if smode = 1 then
    let sa := packedAt v.om (16384 * sslot + 4 * (p * m + r)) 32 0
    let sw := packedAt v.om (16384 * sslot + 4 * (kp + 1) * m + 4 * p) 32 0
    let sc := rn32 ((fp32 sa).mul (fp32 sw)).1
    add acc (rn32 ((fp32 (rn32 (dot 0 128))).mul (fp32 sc)).1)
  else if gemmIsInt afmt smode then
    let z : Int := ((List.range 128).map fun k =>
      match intFmt afmt, intFmt wfmt with
      | some (wa, ga), some (wb, gb) => intOfCode wa ga (a k) * intOfCode wb gb (b k)
      | _, _ => 0).sum
    codeOfInt 32 ((acc : Int) + z)
  else add acc (rn32 (dot 0 128))

/-- Whether an operand code or S12 scale of a row of a pass is reserved (R301). -/
def gemmReserved (afmt wfmt : BitVec 4) (smode m kp aslot wslot sslot cols p r : Nat) (v : Tile) : Bool :=
  (List.range 128).any (fun k => reservedCode afmt (v.omElem aslot (widthOf afmt) ((p * m + r) * 128 + k))) ||
  (List.range (128 * cols)).any (fun k => reservedCode wfmt (v.omElem wslot (widthOf wfmt) (p * 128 * cols + k))) ||
  (smode = 2 &&
    ((List.range 4).any (fun g => scaleOf (packedAt v.om (16384 * sslot + 2 * ((p * m + r) * 4 + g)) 16 0) = .res) ||
     (List.range (4 * cols)).any fun k => scaleOf (packedAt v.om (16384 * sslot + 8 * (kp + 1) * m + 2 * (p * 4 * cols + k)) 16 0) = .res))

/-- The ranges of OM, in bits from a slot, that a row of a pass of an MGEMM reads (R297). -/
def gemmReads (afmt wfmt : BitVec 4) (smode m kp aslot wslot sslot cols p r : Nat) : List (Nat × Nat × Nat) :=
  [(aslot, (p * m + r) * 128 * widthOf afmt, 128 * widthOf afmt), (wslot, p * 128 * cols * widthOf wfmt, 128 * cols * widthOf wfmt)] ++
  (if smode = 1 then [(sslot, 32 * (p * m + r), 32), (sslot, 32 * ((kp + 1) * m + p), 32)]
   else if smode = 2 then [(sslot, 64 * (p * m + r), 64), (sslot, 64 * (kp + 1) * m + 64 * p * cols, 64 * cols)] else [])

/-- The entries that wait in a node's link. -/
def Tile.link (v : Tile) (node : Nat) : List LinkEntry := (amGet node v.rels).getD []

/-- A node's slot after a promotion (R297, R298): it keeps its partial sum, or its row goes to the node's link and the slot rests. -/
def settle (v : Tile) (count node row val : Nat) : Tile :=
  let n := (v.accSlot node row).count + 1
  if n = count then { v with acc := amDel (256 * node + row) v.acc,
                             rels := amSet node (v.link node ++ [⟨row, BitVec.ofNat 32 val⟩]) v.rels }
  else { v with acc := amSet (256 * node + row) ⟨BitVec.ofNat 32 val, n⟩ v.acc }

/-- One row of one pass of an MGEMM (R297, R298). -/
def gemmRow (u : TileId) (e : MatEntry) (afmt wfmt : BitVec 4) (smode m kp aslot wslot sslot row0 : Nat) (s : State) : RowRes :=
  let v := s.tile u
  let cols := regionCols v.region
  match v.qacc with
  | none => .hold
  | some q =>
    let row := row0 + e.row
    let nodes := (List.range cols).map (regionBase v.region + ·)
    let reads := gemmReads afmt wfmt smode m kp aslot wslot sslot cols e.pass e.row
    if reads.any v.filling || nodes.any fun k => (v.accSlot k row).count + 1 = q.count && 2 ≤ (v.link k).length then .hold
    else if reads.any fun (k, at', n) => s.omPoisoned u (16384 * k + at' / 8) (n / 8) then .corrupt 0
    else if gemmReserved afmt wfmt smode m kp aslot wslot sslot cols e.pass e.row v then .reserved
    else .done (s.setTile u ((List.range cols).foldl (fun w j =>
      let node := regionBase v.region + j
      settle w q.count node row (promote afmt wfmt smode m kp aslot wslot sslot cols e.pass e.row j (v.accSlot node row).value.toNat v)) v))

/-- The kind of an operation in a fault's detail word (R392). -/
def MatOp.kind : MatOp → Nat
  | .chain false _ _ _ _ _ _ _ _ _ _ _ => 0
  | .chain true _ _ _ _ _ _ _ _ _ _ _ => 1
  | _ => 2

/-- The fields of an array fault's detail word (R392). -/
def MatEntry.detail (e : MatEntry) : Nat :=
  e.row % 2 ^ 16 * 2 ^ 16 + (if e.op.isGemm then e.pass * 2 ^ 32 else e.pass * 2 ^ 36) + e.op.kind * 2 ^ 40

/-- Stops the operation at the head of the array queue before its row (R301). -/
def stopArray (u : TileId) (e : MatEntry) (f : Flt) (s : State) : State :=
  let s := s.modTile u fun v => { v with mats := match v.mats with | [] => [] | _ :: r => { e with stopped := true } :: r }
  engineFault 5 ⟨.tile u, e.issuer⟩ e.pc f e.detail s

/-- ROW_FIRE (R292 to R298, R301): the next row of the operation at the head of the array queue, or its stop at a reserved code or at
data in error. -/
def execRowFire (u : TileId) (st : State) : Out :=
  event st <|
    let v := st.tile u
    match v.works, v.mats with
    | true, e :: r =>
      if !e.started || e.stopped then none
      else
        let (rows, more, res) := match e.op with
          | .chain _ src dst chain rows logn stages afmt ofmt ifp32 rnd sat =>
            (rows, decide (e.pass < stages.length), chainRow u e src dst chain logn stages afmt ofmt ifp32 rnd sat st)
          | .gemm a w sm m kp as ws ss row0 => (m, decide (e.pass ≤ kp), gemmRow u e a w sm m kp as ws ss row0 st)
          | _ => (0, false, .hold)
        if !more then none
        else match res with
          | .hold => none
          | .bad f => some (stopArray u e f st)
          | .done s => some (s.modTile u fun v => { v with mats := e.step rows :: r })
    | _, _ => none

/-- The code that a node releases (R298). -/
def QaccCfg.code (q : QaccCfg) (val : BitVec 32) : Nat :=
  if q.int then fromInt32 q.ofmt q.rnd q.sat val.toNat else fromFp32 q.ofmt q.rnd q.sat val.toNat

/-- Writes a node's value of a row to its place in TMEM (R296). -/
def writeNode (u : TileId) (q : QaccCfg) (region : BitVec 2) (node row : Nat) (val : BitVec 32) (s : State) : State :=
  let w := widthOf q.ofmt / 8
  writeTmem none u (q.base + row * rowPitch (regionCols region) q.ofmt + (node - regionBase region) * w) (leBytes w (q.code val)) s

/-- ROW_RELEASE (R298): a node's link writes its oldest entry. A granule's full bits are set once every link that holds a part of this release of the row
has written it. -/
def execRowRelease (u : TileId) (node : Nat) (st : State) : Out :=
  event st <|
    let v := st.tile u
    match v.drains, v.qacc, v.link node with
    | true, some q, x :: rest =>
      let w := widthOf q.ofmt / 8
      let per := 16 / w
      let first := (node - regionBase v.region) / per * per + regionBase v.region
      let s := writeNode u q v.region node x.row x.value (st.setTile u { v with rels := if rest.isEmpty then amDel node v.rels else amSet node rest v.rels })
      let due (k : Nat) : Nat := (((s.tile u).link k).filter (·.row = x.row)).length
      let left := (range first (first + per)).any fun k => due node < due k
      let at' := q.base + x.row * rowPitch (regionCols v.region) q.ofmt + (first - regionBase v.region) * w
      some (if left then s else setFull u at' 16 s)
    | _, _, _ => none

/-- MATRIX_COMPLETE (R299): every row has fired and every release has been written. -/
def execMatrixComplete (u : TileId) (st : State) : Out :=
  event st <|
    let v := st.tile u
    match v.works, v.mats with
    | true, e :: r =>
      let done := match e.op with
        | .chain _ _ _ _ _ _ stages _ _ _ _ _ => decide (stages.length ≤ e.pass)
        | .gemm _ _ _ _ kp _ _ _ _ => decide (kp < e.pass)
        | _ => false
      if !e.started || !done || !v.rels.isEmpty then none
      else
        let i : StrandId := ⟨.tile u, e.issuer⟩
        some (traceEvent i 0 true e.seq e.strip e.pc (traceEvent i 6 true e.seq e.strip e.pc (st.setTile u { v with mats := r })))
    | _, _ => none

/-- The rows that hold a partial sum in a region. -/
def Tile.heldRows (v : Tile) : List Nat := (v.acc.map fun (k, _) => k % 256).foldl (fun l r => insertNat r l) []

/-- Releases every row that holds a partial sum, as if COUNT had been reached (R300). -/
def forceRelease (u : TileId) (s : State) : State :=
  let v := s.tile u
  match v.qacc with
  | none => s
  | some q =>
    let s := v.acc.foldl (fun s (k, a) => writeNode u q v.region (k / 256) (k % 256) a.value s) (s.setTile u { v with acc := [] })
    let p := rowPitch (regionCols v.region) q.ofmt
    v.heldRows.foldl (fun s r => setFull u (q.base + r * p) (regionCols v.region * widthOf q.ofmt / 8) s) s

/-- QDRAIN_WAKE (R300): everything before the QDRAIN has completed; with FORCE it releases what is left. -/
def execQdrainWake (i : StrandId) (st : State) : Out :=
  event st <|
    match (st.strand i).status, i.core with
    | .blocked (.drain d), .tile u =>
      let v := st.tile u
      match v.works, v.mats with
      | true, e :: r =>
        match e.op with
        | .drain _ force =>
          if e.issuer != i.slot then none
          else
            let s := noteWoken i (st.setTile u { v with mats := r })
            let s := if force then forceRelease u s else s
            some ((unblock i two s).setX i d (BitVec.ofNat 64 (if force then v.heldRows.length else 0)))
        | _ => none
      | _, _ => none
    | _, _ => none

end Sys2Proof.Machine
end

