-- ==== Sys2Proof/Machine/Fabric.lean ====
section
/-! DEFINITION. The fabric's machinery: tables and elements (R324), routes and guards (R355, R371, R373), queues and slots (R345 to R347), the
choice of a firing (R327 to R331), element faults (R342, R343), and the frame that every element operation shares (R330 to R338). -/

namespace Sys2Proof.Machine

open Sys2Proof

/-! ### Accessors -/

/-- An element of a tile's fabric. -/
def Fabric.elem (f : Fabric) (q : Nat) : Elem := (amGet q f.elems).getD {}

/-- Changes a tile's fabric. -/
def modFabric (t : TileId) (g : Fabric → Fabric) (s : State) : State := s.modTile t fun v => { v with fabric := g v.fabric }

/-- Replaces an element. -/
def Fabric.setElem (f : Fabric) (q : Nat) (x : Elem) : Fabric := { f with elems := amSet q x f.elems }

/-- An element of the state. -/
def State.elemAt (s : State) (e : ElemId) : Elem := (s.tile e.tile).fabric.elem e.idx.toNat

/-- Changes an element of the state. -/
def modElem (e : ElemId) (g : Elem → Elem) (s : State) : State :=
  modFabric e.tile (fun f => f.setElem e.idx.toNat (g (f.elem e.idx.toNat))) s

/-- Changes every one of a fabric's 256 elements. -/
def Fabric.mapElems (f : Fabric) (g : Nat → Elem → Elem) : Fabric :=
  { f with elems := (List.range 256).map fun q => (q, g q (f.elem q)) }

/-- A context of a tile's fabric. -/
def Fabric.context (f : Fabric) (n : Nat) : Ctx := (f.ctxs.toList[n]?).getD {}

/-- The context that a firing of a cycle uses (R341): where CFG.WR has written it in that cycle, as it stood before. -/
def Fabric.running (f : Fabric) (now n : Nat) : Ctx :=
  if f.before.1 = now then (amGet n f.before.2).getD (f.context n) else f.context n

/-- Replaces a context. -/
def Fabric.setContext (f : Fabric) (n : Nat) (c : Ctx) : Fabric := { f with ctxs := f.ctxs.setIfInBounds n c }

/-- The instruction word of a table entry. -/
def Ctx.word (c : Ctx) (q e : Nat) : Parcel := ((amGet (16 * q + e) c.entries).getD 0).setWidth 32

/-- The trigger word of a table entry. -/
def Ctx.trigger (c : Ctx) (q e : Nat) : Nat := ((amGet (16 * q + e) c.entries).getD 0).toNat / 2 ^ 32

/-- A literal. -/
def Ctx.lit (c : Ctx) (q n : Nat) : Word := (amGet (32 * q + n) c.lits).getD 0

/-- The route field of an output port. -/
def Ctx.route (c : Ctx) (q p : Nat) : Nat := ((amGet (4 * q + p) c.routes).getD 0).toNat

/-- INM of an element: the inputs on which it awaits markers (R354). -/
def Ctx.inm (c : Ctx) (q : Nat) : Nat := ((amGet q c.ctl).getD 0).toNat % 16

/-- The tokens of an input queue. -/
def Elem.queue (x : Elem) (n : Nat) : List Token := (x.ins.toList[n]?).getD []

/-- Replaces an input queue. -/
def Elem.setQueue (x : Elem) (n : Nat) (l : List Token) : Elem := { x with ins := x.ins.setIfInBounds n l }

/-- A k register. -/
def Elem.kr (x : Elem) (n : Nat) : Word := (x.k.toList[n]?).getD 0

/-- Writes a k register. -/
def Elem.setK (x : Elem) (n : Nat) (v : Word) : Elem := { x with k := x.k.setIfInBounds n v }

/-- A predicate bit. -/
def Elem.bit (x : Elem) (n : Nat) : Bool := x.b.getLsbD n

/-- Writes a predicate bit. -/
def Elem.setBit (x : Elem) (n : Nat) (v : Bool) : Elem :=
  { x with b := if v then x.b ||| BitVec.twoPow 8 n else x.b &&& ~~~ BitVec.twoPow 8 n }

/-- Whether an element stands in the tile's matrix region (R281). -/
def Tile.inMatrix (v : Tile) (q : Nat) : Bool := inRegion v.region q

/-- The waves of a context. -/
def Fabric.wave (f : Fabric) (c : Nat) : Waves := (f.waves.toList[c]?).getD {}

/-- Whether a token takes a slot of a queue (R368, R374). -/
def Token.slotted (k : Token) : Bool := k.kind = .data || k.kind = .control

/-- The slots that the tokens of a queue take. -/
def slotCount (l : List Token) : Nat := (l.filter Token.slotted).length

/-- Dequeues the markers at the head of an input that awaits none (R354). -/
def stripMarkers : List Token → List Token
  | k :: r => if k.kind = .marker then stripMarkers r else k :: r
  | [] => []

/-- Whether the marker condition of an element holds (R368): a marker stands at the head of every input that it awaits. -/
def Elem.marked (x : Elem) (inm : Nat) : Bool :=
  (List.range 4).all fun n => !inm.testBit n || match x.queue n with | k :: _ => k.kind = .marker | [] => false

/-- An element with the markers that nothing awaits taken from the heads of its queues (R354), and with the cycle in which its marker condition came to
hold, where it awaits markers (R368). -/
def Fabric.settle (f : Fabric) (now q : Nat) (x : Elem) : Elem :=
  match x.ctx with
  | none => x
  | some c =>
    let inm := (f.context c).inm q
    let x := (List.range 4).foldl (fun x n => if inm.testBit n then x else x.setQueue n (stripMarkers (x.queue n))) x
    if inm = 0 then x else { x with met := if x.marked inm then some (x.met.getD now) else none }

/-- An element that awaits no marker is to switch, from this cycle on (R366, R368). -/
def Elem.injected (x : Elem) (now : Nat) : Elem := { x with inject := true, met := some (x.met.getD now) }

/-! ### The grid, guards and routes -/

/-- The column and row of an element in its quadrant's grid (R355). -/
def gridX (e : ElemId) : Int := 16 * (e.tile.idx.toNat % 8) + e.idx.toNat % 16
def gridY (e : ElemId) : Int := 16 * (e.tile.idx.toNat / 8) + e.idx.toNat / 16

/-- The tile of a position of the grid. -/
def gridTile (q : BitVec 2) (x y : Int) : TileId := tileAt q (x / 16).toNat (y / 16).toNat

/-- The element of a position of the grid. -/
def gridElem (q : BitVec 2) (x y : Int) : ElemId := ⟨gridTile q x y, BitVec.ofNat 8 (16 * (y % 16).toNat + (x % 16).toNat)⟩

/-- The tile beyond an edge: 0 north, 1 east, 2 south, 3 west. -/
def neighbour (t : TileId) (side : Nat) : Option TileId :=
  let x := t.idx.toNat % 8
  let y := t.idx.toNat / 8
  match side with
  | 0 => if y = 0 then none else some (tileAt t.quad x (y - 1))
  | 1 => if x = 7 then none else some (tileAt t.quad (x + 1) y)
  | 2 => if y = 8 then none else some (tileAt t.quad x (y + 1))
  | _ => if x = 0 then none else some (tileAt t.quad (x - 1) y)

/-- Whether an edge lies on the boundary of the team's footprint. -/
def Residency.border (r : Residency) (side : Nat) : Bool :=
  match side with
  | 0 => r.dy = 0
  | 1 => r.dx + 1 = r.w
  | 2 => r.dy + 1 = r.h
  | _ => r.dx = 0

/-- Whether hardware holds the guard of a tile edge closed whatever the column: at the footprint's boundary, and toward a disabled tile
(R371). -/
def State.edgeHeld (s : State) (t : TileId) (side : Nat) : Bool :=
  match (s.tile t).res with
  | none => true
  | some r => r.border side || (match neighbour t side with | none => true | some u => !s.enabled u)

/-- The column and edge guards that a token meets in a cycle (R372): a change takes effect at the end of its cycle. -/
def Fabric.guardsAt (f : Fabric) (n : Nat) : BitVec 15 × BitVec 4 :=
  match f.was.find? fun w => n ≤ w.1 with
  | some w => w.2
  | none => (f.gcol, f.gedge)

/-- Whether a closed guard stands at an edge where element column `i` meets it in a cycle (R371): the tile whose guard drops a token. -/
def State.edgeGuard (s : State) (n : Nat) (t : TileId) (side i : Nat) : Option TileId :=
  let v := s.tile t
  if s.edgeHeld t side || (v.fabric.guardsAt n).2.getLsbD side || v.inMatrix i then some t
  else match neighbour t side with
    | none => some t
    | some u =>
      let w := s.tile u
      let k := match side with | 1 => 0 | 3 => 15 | _ => i
      if (w.fabric.guardsAt n).2.getLsbD ((side + 2) % 4) || w.inMatrix k then some u else none

/-- Whether hardware holds the guard between element columns `c` and `c + 1` closed: the boundary of a half matrix region (R371). -/
def Tile.columnHeld (v : Tile) (c : Nat) : Bool := c = 7 && (v.region = 2 || v.region = 3)

/-- Whether the guard between element columns `c` and `c + 1` is closed to what meets it in a cycle. -/
def Tile.columnGuard (v : Tile) (n c : Nat) : Bool := v.columnHeld c || (v.fabric.guardsAt n).1.getLsbD c

/-- Where a route's leg through one tile ends: at its target, at an edge with the tile beyond, or at a closed guard, whose tile, kind (column
boundary or edge) and position it names. -/
inductive LegEnd where
  | arrive
  | cross (u : TileId)
  | drop (t : TileId) (column : Bool) (pos : Nat)
  deriving DecidableEq, Repr

/-- Walks a leg from a position in a tile, along X first and then along Y, one element per hop (R355), with its latency: 1 ac for a hop within
the tile, 2 ac for one that crosses its edge (R345). Each guard counts as it stands when the token that set out in a cycle meets it. -/
def State.leg (s : State) (sent : Nat) (t : TileId) (tx ty : Int) : Nat → Int → Int → Nat → LegEnd × Nat
  | 0, _, _, h => (.arrive, h)
  | n + 1, x, y, h =>
    if x = tx && y = ty then (.arrive, h)
    else
      let side := if x < tx then 1 else if tx < x then 3 else if y < ty then 2 else 0
      let i := (x % 16).toNat
      let j := (y % 16).toNat
      let leaves : Bool := match side with | 0 => j = 0 | 1 => i = 15 | 2 => j = 15 | _ => i = 0
      if leaves then
        match s.edgeGuard (sent + h + 2) t side i with
        | some u => (.drop u false (if u = t then side else (side + 2) % 4), h + 2)
        | none => match neighbour t side with
          | some u => (.cross u, h + 2)
          | none => (.drop t false side, h + 2)
      else
        let c := if side = 1 then i else i - 1
        if (side = 1 || side = 3) && (s.tile t).columnGuard (sent + h + 1) c then (.drop t true c, h + 1)
        else match side with
          | 0 => s.leg sent t tx ty n x (y - 1) (h + 1)
          | 1 => s.leg sent t tx ty n (x + 1) y (h + 1)
          | 2 => s.leg sent t tx ty n x (y + 1) (h + 1)
          | _ => s.leg sent t tx ty n (x - 1) y (h + 1)

/-- The first position of a route within a tile. -/
def enters (t : TileId) (tx ty : Int) : Nat → Int → Int → Int × Int
  | 0, x, y => (x, y)
  | n + 1, x, y =>
    if gridTile t.quad x y = t then (x, y)
    else if x < tx then enters t tx ty n (x + 1) y
    else if tx < x then enters t tx ty n (x - 1) y
    else if y < ty then enters t tx ty n x (y + 1)
    else enters t tx ty n x (y - 1)

/-- The number of hops between two positions. -/
def hopsBetween (x y tx ty : Int) : Nat := (tx - x).natAbs + (ty - y).natAbs

/-- The cycle in which a token set out on its leg. -/
def Flight.sent (fl : Flight) : Nat := fl.due - fl.hop

/-- The leg of a token, set out in a cycle, through the tile in which it stands; a route from an element to itself takes 1 ac (R345). -/
def State.flightLeg (s : State) (sent : Nat) (t : TileId) (fl : Flight) : LegEnd × Nat :=
  let x0 := gridX fl.src
  let y0 := gridY fl.src
  let p := enters t fl.tx fl.ty (hopsBetween x0 y0 fl.tx fl.ty) x0 y0
  if hopsBetween x0 y0 fl.tx fl.ty = 0 then (.arrive, 1) else s.leg sent t fl.tx fl.ty (hopsBetween p.1 p.2 fl.tx fl.ty) p.1 p.2 0

/-- Whether a token that a tile sends on reaches its target, no closed guard standing in between (R356, R371). -/
def State.delivers (s : State) (fl : Flight) : Nat → TileId → Bool
  | 0, _ => false
  | n + 1, t =>
    match (s.flightLeg s.now t fl).1 with
    | .arrive => true
    | .cross u => s.delivers fl n u
    | .drop _ _ _ => false

/-- Whether a token on its way in a tile reaches its target, past the guard changes that it has met already. -/
def State.reaches (s : State) (t : TileId) (fl : Flight) : Bool :=
  match (s.flightLeg fl.sent t fl).1 with
  | .arrive => true
  | .cross u => s.delivers fl 17 u
  | .drop _ _ _ => false

/-- Whether a route delivers to its target; it crosses at most 15 tile edges. -/
def State.routeDelivers (s : State) (fl : Flight) : Bool := s.delivers fl 17 fl.src.tile

/-- A signed field. -/
def signedField (v lo n : Nat) : Int := (BitVec.ofNat n (field v lo n)).toInt

/-- A token on the route of an output port under a context, none where the port drives no route (R355). -/
def State.flightOf (s : State) (e : ElemId) (port ctx : Nat) (tok : Token) : Option Flight :=
  let r := ((s.tile e.tile).fabric.context ctx).route e.idx.toNat port
  if r % 2 = 0 then none
  else
    let x := gridX e - e.idx.toNat % 16 + 16 * signedField r 1 4 + field r 10 4
    let y := gridY e - e.idx.toNat / 16 + 16 * signedField r 5 5 + field r 14 4
    some { tok := tok, src := e, port := port, ctx := ctx, tx := x, ty := y, inq := BitVec.ofNat 2 (field r 18 2), due := 0 }

/-- Whether two tokens travel on one route. -/
def Flight.same (a b : Flight) : Bool := a.src = b.src && a.port = b.port && a.ctx = b.ctx

/-- A token as it sets out on its leg through a tile (R345). -/
def State.onLeg (s : State) (t : TileId) (fl : Flight) : Flight :=
  let h := (s.flightLeg s.now t fl).2
  { fl with due := s.now + h, hop := h }

/-- A token leaves an element by an output port (R337, R345); a port without a route passes nothing on. -/
def sendToken (e : ElemId) (port ctx : Nat) (tok : Token) (s : State) : State :=
  match s.flightOf e port ctx tok with
  | none => s
  | some fl => modFabric e.tile (fun f => { f with flights := f.flights ++ [s.onLeg e.tile fl] }) s

/-! ### Slots (R346, R347) -/

/-- The edge queue of a route on a tile. -/
def Fabric.edge (f : Fabric) (fl : Flight) : List Flight :=
  match f.edges.find? fun g => g.src = fl.src && g.port = fl.port && g.ctx = fl.ctx with
  | some g => g.toks
  | none => []

/-- The slots taken by tokens of a route on their way within a tile. -/
def Fabric.onWay (f : Fabric) (fl : Flight) : Nat := (f.flights.filter fun g => g.same fl && g.tok.slotted).length

/-- The slots that an input queue holds: those of its tokens, and of tokens that a firing has taken on a prediction (R332, R333). -/
def Fabric.held (f : Fabric) (q n : Nat) : Nat :=
  let x := f.elem q
  slotCount (x.queue n) +
  ((x.firings.filter fun g => !g.sure).map fun g => (g.taken.filter fun k => k.1 = n && k.2.slotted).length).sum

/-- The slots of an input queue that are taken: those it holds, and those of the caught tokens due to it (R376). -/
def Fabric.used (f : Fabric) (q n : Nat) : Nat :=
  f.held q n + (f.caught.filter fun c => c.elem.toNat = q && c.inq.toNat = n).length

/-- The slots of a queue that are on their way back to its producer (R346). -/
def Fabric.owed (f : Fabric) (n : QueueName) (now : Nat) : Nat := (f.credits.filter fun c => c.queue = n && now < c.due).length

/-- Slots of queues of a tile go back to their producers (R346). -/
def giveBack (t : TileId) (l : List Credit) (s : State) : State :=
  if l.isEmpty then s else modFabric t (fun f => { f with credits := f.credits.filter (fun c => s.now < c.due) ++ l }) s

/-- Whether the ordering condition of an operation of a tile's memory interface holds (R338, R350): plain stores of one element go in firing order, in
which their identities rise. -/
def Fabric.ordered (f : Fabric) (o : MemOp) : Bool :=
  if o.plain then
    let older (p : MemOp) : Bool := p.plain && p.elem = o.elem && p.id < o.id
    o.awaits.isNone && !f.ops.any older && !(f.elem o.elem.toNat).firings.any (·.mems.any older)
  else
    let w := f.wave o.ctx
    if o.pred = 0 then o.wave = w.cur
    else if o.pred = 255 then w.done.any fun d => d.1 = o.wave && d.2.2 = o.seq
    else w.done.any fun d => d.1 = o.wave && d.2.1 = o.pred

/-- Whether a tile's snapshot is complete (R374): every element outside a matrix region has passed its marker on and been reached on every input
that it awaits, and every memory operation that remains is held by a fault or by its place in wave order. -/
def Tile.snapped (v : Tile) : Bool :=
  v.fabric.snap.isSome &&
  (List.range 256).all (fun q =>
    let x := v.fabric.elem q
    v.inMatrix q || x.ctx.isNone ||
    (x.sent && match x.reached, x.ctx with
      | some r, some c => (v.fabric.context c).inm q &&& r.toNat = (v.fabric.context c).inm q
      | _, _ => false)) &&
  v.fabric.ops.all fun o => o.held || !v.fabric.ordered o

/-- Whether the first queue of a leg from tile `t` has a free slot for one more token of a route, `extra` slots being taken by pushes still to
come. -/
def State.room (s : State) (t : TileId) (fl : Flight) (extra : Nat) : Bool :=
  let f := (s.tile t).fabric
  match (s.flightLeg s.now t fl).1 with
  | .drop _ _ _ => true
  | .cross u => !(s.tile u).snapped && f.onWay fl + ((s.tile u).fabric.edge fl |>.filter (·.tok.slotted)).length +
      (s.tile u).fabric.owed (.edge fl.src fl.port fl.ctx) s.now + extra < 16
  | .arrive =>
    let d := (gridElem t.quad fl.tx fl.ty).idx
    f.onWay fl + f.used d.toNat fl.inq.toNat + f.owed (.input d fl.inq) s.now + extra < 4

/-- The pushes to a destination that an element's firings and LDTs have still to make. -/
def Fabric.pending (f : Fabric) (q : Nat) (d : Nat) : Nat :=
  let count (l : List (BitVec 4)) : Nat := (l.filter (·.toNat = d)).length
  ((f.elem q).firings.map fun g => count (g.pushes.map (·.1)) + (g.mems.map fun o => count o.dests).sum).sum +
  ((f.ops.filter (·.elem.toNat = q)).map fun o => count o.dests).sum

/-- Whether a stream-out binding takes an element's tokens (R338). -/
def Fabric.bound (f : Fabric) (q : Nat) : Bool := f.bindings.any fun b => b.out && b.elem.toNat = q

/-- Whether an output port of a switched element shows no free slot, since the target of its route has still to switch (R368). For a wait of a save area
(count 0) the target has to be restored, and to have turned in the phase that it was saved in, or to run the producer's context. -/
def State.unswitched (s : State) (x : Elem) (port : Nat) (fl : Flight) : Bool :=
  let e := gridElem fl.src.tile.quad fl.tx fl.ty
  let d := s.elemAt e
  x.waits.any fun (p, n) =>
    p = port &&
    if n = 0 then d.ctx.isNone || (d.turns ≤ 1 && ((s.tile e.tile).fabric.decided.isSome || d.ctx ≠ x.ctx))
    else d.ctx.isSome && d.turns ≤ n

/-- Whether a destination of a firing has a free slot (R328, R346). -/
def State.slotFree (s : State) (e : ElemId) (x : Elem) (ctx : Nat) (d : Nat) : Bool :=
  let f := (s.tile e.tile).fabric
  if d < 4 then
    match s.flightOf e d ctx ⟨0, 0, .data⟩ with
    | none => true
    | some fl => !(s.unswitched x d fl && s.routeDelivers fl) && s.room e.tile fl (f.pending e.idx.toNat d)
  else if d = 6 then !f.bound e.idx.toNat || x.strm.length + f.pending e.idx.toNat 6 < 4
  else true

/-! ### Drops (R371, R373) -/

/-- The code of a token's kind in a guard report. -/
def TokKind.code : TokKind → Nat
  | .data => 0
  | .control => 1
  | .marker => 2
  | .preempt => 3

/-- A token is dropped at a closed guard: the counter advances, and a report is written unless the guard has written one within 1,250 ac. -/
def dropToken (t : TileId) (column : Bool) (pos : Nat) (fl : Flight) (s : State) : State :=
  let s := bump t 5 1 s
  let qd := s.quad t.quad
  let recent := qd.reported.any fun (u, c, p, at') => u = t && c = column && p = pos && s.now < at' + 1250
  if recent || qd.grsize.toNat % 32 = 0 then s
  else
    let s := s.modQuad t.quad fun d =>
      { d with reported := (t, column, pos, s.now) :: d.reported.filter fun (u, c, p, _) => !(u = t && c = column && p = pos) }
    let e := fl.src.idx.toNat
    let w := t.idx.toNat + t.quad.toNat * 2 ^ 7 + (if column then 2 ^ 9 else 0) + pos * 2 ^ 10 + e % 16 * 2 ^ 14 + e / 16 * 2 ^ 18 +
      fl.port * 2 ^ 22 + fl.ctx * 2 ^ 24 + fl.tok.kind.code * 2 ^ 26 + fl.tok.tag.toNat * 2 ^ 28
    (ringWrite qd.grbase (qd.grsize.toNat % 32) 32
      (leBytes 4 w ++ leBytes 4 (s.tileHandle t) ++ leBytes 8 fl.tok.data.toNat ++ leBytes 8 ((s.tile t).counts.get 5).toNat ++
       leBytes 8 (Config.timestamp s.now).toNat) s).2

/-! ### The choice of a firing (R327 to R331) -/

/-- What an operation's fields name: whether it reads SA and SB, and whether it has destinations. -/
structure ElemShape where
  sa   : Bool
  sb   : Bool
  dest : Bool

/-- The shape of an operation (R49). -/
def elemShape (op : Nat) : ElemShape :=
  if 0x02 ≤ op && op ≤ 0x11 then ⟨true, true, true⟩
  else if 0x12 ≤ op && op ≤ 0x17 then ⟨true, false, true⟩
  else if 0x18 ≤ op && op ≤ 0x1E then ⟨true, true, true⟩
  else if op = 0x21 then ⟨true, false, false⟩
  else if op = 0x22 || op = 0x26 || op = 0x2B || op = 0x2C || op = 0x2D then ⟨true, false, true⟩
  else if op = 0x23 || op = 0x28 then ⟨false, false, true⟩
  else if op = 0x24 then ⟨true, true, true⟩
  else if op = 0x25 || op = 0x27 then ⟨true, true, false⟩
  else ⟨false, false, false⟩

/-- The number of values that an operation's LIT may take (R49). -/
def litRange (op : Nat) : Nat :=
  if (0x12 ≤ op && op ≤ 0x17) || op = 0x23 || op = 0x26 || op = 0x27 then 32
  else if (0x18 ≤ op && op ≤ 0x21) || op = 0x24 || op = 0x28 || op = 0x2D then 8
  else if op = 0x29 then 4 else 1

/-- Whether a word is an operation (R48): an assigned OP, no nonzero field that it does not use, LIT in range. -/
def elemWordOk (w : Parcel) : Bool :=
  let op := (elOp w).toNat
  let sh := elemShape op
  let untagged := op = 0x01 || (0x1F ≤ op && op ≤ 0x21) || op = 0x25 || op = 0x29 || op = 0x2A
  1 ≤ op && op ≤ 0x2D && (sh.sa || elSa w = 0) && (sh.sb || elSb w = 0) && (sh.dest || (elDa w = 0 && elDb w = 0)) &&
  (!untagged || elTag w = 0) && (elLit w).toNat < litRange op

/-- A chosen firing: the entry, the input of the control token that names it, the predicate values it relies on, and its word. -/
structure Choice where
  entry   : Nat
  handler : Option Nat
  relied  : List (Nat × Bool)
  word    : Parcel
  deriving DecidableEq, Repr

/-- How a read of a predicate bit stands at a time (R331): settled, predicted, or not to be predicted. -/
def Elem.bitPending (x : Elem) (n : Nat) : List Nat :=
  x.firings.filterMap fun g => match g.bit with | some (m, _) => if m = n then some g.due else none | none => none

/-- The predicted values of some bits at a time; none where one of them must not be predicted (R331). -/
def Elem.predict (x : Elem) (now : Nat) (ns : List Nat) : Option (List (Nat × Bool)) :=
  if ns.any fun n => (x.bitPending n).any fun w => now + 1 < w || w < now then none
  else some ((ns.filter fun n => !(x.bitPending n).isEmpty).map fun n => (n, x.bit n))

/-- Whether a trigger word holds (R327): predicates and the heads of the required inputs. -/
def Elem.triggered (x : Elem) (tw : Nat) : Bool :=
  let pm := field tw 16 8
  let pv := field tw 8 8
  let im := field tw 4 4
  let tm := tw % 16
  ((List.range 8).all fun n => !pm.testBit n || x.bit n = pv.testBit n) &&
  ((List.range 4).all fun n => !im.testBit n ||
    match x.queue n with
    | k :: _ => k.kind = .data && (tm = 0 || k.tag.toNat = tm)
    | [] => false)

/-- The predicate bits that a trigger word selects. -/
def selectedBits (tw : Nat) : List Nat := (List.range 8).filter fun n => (field tw 16 8).testBit n

/-- The k registers with a write pending from an earlier firing or an LDT (R328, R338). -/
def Fabric.kBusy (f : Fabric) (q n : Nat) : Bool :=
  let named (d : BitVec 4) : Bool := d.toNat = 8 + n || (d = 5 && n = 0)
  ((f.elem q).firings.any fun g => g.writes.any (·.1 = n) || (n = 0 && g.acc.isSome) || g.mems.any fun o => o.dests.any named) ||
  f.ops.any fun o => o.elem.toNat = q && o.dests.any named

/-- The destinations that an entry names, but for 7; STEER names the one that its predicate bit chooses. -/
def Elem.dests (x : Elem) (w : Parcel) : List Nat :=
  let op := (elOp w).toNat
  let da := (elDa w).toNat
  let db := (elDb w).toNat
  if !(elemShape op).dest then []
  else if op = 0x2D then [if x.bit ((elLit w).toNat % 8) then da else db].filter (· ≠ 7)
  else [da, db].filter (· ≠ 7)

/-- The destinations that a firing writes or pushes to: those that the entry names, none for an LDT that performs no access (R349). -/
def Elem.goals (x : Elem) (w : Parcel) (lit : Word) : List Nat := if (elOp w).toNat = 0x26 && lit.getLsbD 56 then [] else x.dests w

/-- The k registers that an entry with some destinations reads or writes. -/
def kNamed (w : Parcel) (ds : List Nat) : List Nat :=
  let op := (elOp w).toNat
  let sh := elemShape op
  ((if sh.sa then [(elSa w).toNat] else []) ++ (if sh.sb then [(elSb w).toNat] else []) ++ ds).filterMap (fun d => if 8 ≤ d then some (d - 8) else none) ++
  (if op = 0x18 || op = 0x19 || op = 0x28 then [(elLit w).toNat % 8] else []) ++
  (if ds.contains 4 then [7] else []) ++ (if ds.contains 5 then [0] else [])

/-- The operations that wait or are in progress in a tile's memory interface (R351). -/
def Fabric.opCount (f : Fabric) : Nat :=
  (f.ops.filter (!·.plain)).length + (f.elems.map fun p => (p.2.firings.map fun g => (g.mems.filter (!·.plain)).length).sum).sum

/-- Whether an entry is eligible beyond its trigger (R328): the predicate values it relies on, none where it must wait. -/
def State.eligible (s : State) (e : ElemId) (x : Elem) (ctx : Nat) (w : Parcel) (bits : List Nat) : Option (List (Nat × Bool)) :=
  let f := (s.tile e.tile).fabric
  let op := (elOp w).toNat
  let n := (elLit w).toNat % 8
  let ds := x.goals w ((f.running s.now ctx).lit e.idx.toNat (elLit w).toNat)
  match x.predict s.now (if op = 0x2D then n :: bits else bits) with
  | none => none
  | some relied =>
    if (op = 0x24 && !(x.bitPending n).isEmpty) || (kNamed w ds).any (f.kBusy e.idx.toNat) ||
       ((op = 0x26 || op = 0x27) && 64 ≤ f.opCount) || !ds.all (s.slotFree e x ctx) then none
    else some relied

/-- The lowest-numbered input with a control token at its head. -/
def Elem.controlHead (x : Elem) : Option (Nat × Token) :=
  (List.range 4).findSome? fun n => match x.queue n with | k :: _ => if k.kind = .control then some (n, k) else none | [] => none

/-- Whether an element may fire at all at this time: it runs a context outside a matrix region, and no marker has stopped it (R281, R342, R366, R368,
R374). -/
def State.fires (s : State) (e : ElemId) : Option (Elem × Nat) :=
  let v := s.tile e.tile
  let x := v.fabric.elem e.idx.toNat
  match x.ctx with
  | none => none
  | some c => if v.works && !v.inMatrix e.idx.toNat && x.status = .running && x.reached.isNone && x.start ≤ s.now && x.last ≤ s.now then some (x, c) else none

/-- The firing that an element chooses (R329). -/
def State.choose (s : State) (e : ElemId) : Option Choice :=
  match s.fires e with
  | none => none
  | some (x, c) =>
    let q := e.idx.toNat
    let t := (s.tile e.tile).fabric.running s.now c
    match x.controlHead with
    | some (n, k) =>
      let en := k.data.toNat % 16
      let w := t.word q en
      if w = 0 && t.trigger q en = 0 then none
      else (s.eligible e x c w []).map fun r => ⟨en, some n, r, w⟩
    | none =>
      (List.range 16).findSome? fun en =>
        let w := t.word q en
        let tw := t.trigger q en
        if (w = 0 && tw = 0) || !x.triggered tw then none
        else (s.eligible e x c w (selectedBits tw)).map fun r => ⟨en, none, r, w⟩

/-! ### Element faults (R342, R343) -/

/-- The strand that takes a fault of a tile's fabric: the selecting strand, or the lowest-numbered one that is Running or Blocked. -/
def State.faultTaker (s : State) (t : TileId) : Option StrandId :=
  let i : StrandId := ⟨.tile t, (s.tile t).fabric.selector⟩
  if (s.strand i).status.alive then some i else (slots (.tile t)).find? fun j => (s.strand j).status.alive

/-- A fabric without the memory operations of a context: those in the tile's interface and those on their way there (R343). -/
def Fabric.dropOps (f : Fabric) (c : Nat) : Fabric :=
  { f with
    ops := f.ops.filter fun o => o.ctx ≠ c
    elems := f.elems.map fun (q, x) => (q, { x with firings := x.firings.map fun g => { g with mems := g.mems.filter fun o => o.ctx ≠ c } }) }

/-- An element fault: the context of the element freezes, and the record is delivered (R342, R343, R392). Where no strand is there to take it, the
operations of the context are discarded. -/
def elemFault (e : ElemId) (entry : Nat) (cause : BitVec 8) (addr : Addr) (seq wave : Nat) (s : State) : State :=
  let x := s.elemAt e
  let s := modElem e (fun x => { x with status := .frozen }) s
  let q := e.idx.toNat
  let c := x.ctx.getD 0
  let detail := q % 16 * 2 ^ 8 + q / 16 * 2 ^ 12 + c * 2 ^ 16 + entry * 2 ^ 18 + seq * 2 ^ 22 + wave * 2 ^ 32 + e.tile.idx.toNat * 2 ^ 48
  match s.faultTaker e.tile with
  | some i => addAsync i (engineRec 6 (s.strand i) cause 0 addr (BitVec.ofNat 64 detail)) s
  | none =>
    errorRecord e.tile.quad 7 e.tile.idx.toNat cause.toNat (s.tileHandle e.tile) 0
      (modFabric e.tile (·.dropOps c) s)

/-- Whether a firing of the element relies on a prediction that is not confirmed (R332). -/
def Elem.unconfirmed (x : Elem) : Bool := x.firings.any fun g => !g.relied.isEmpty

/-! ### Operands, results and the frame of a firing (R330, R334, R335, R337, R338) -/

/-- The classes of operations by the formats they accept (R336). -/
inductive ElemClass where
  | int | float | both | any | memory | dot | none
  deriving DecidableEq, Repr

/-- Whether a class accepts a TAG. -/
def ElemClass.accepts (c : ElemClass) (f : BitVec 4) : Bool :=
  let i := f = 0 || (9 ≤ f.toNat && f.toNat ≤ 14)
  let r := f.toNat ≤ 5
  match c with
  | .int => i
  | .float => r
  | .both => i || r
  | .any => true
  | .memory => f != 8 && f != 13 && f != 14
  | .dot => f = 1 || f = 9
  | .none => f = 0

/-- Whether a tag names a floating-point format. -/
def floatTag (f : BitVec 4) : Bool := 1 ≤ f.toNat && f.toNat ≤ 8

/-- A W-bit result as a token or a register holds it (R334). -/
def elemWord (f : BitVec 4) (c : Nat) : Word :=
  match intFmt f with
  | some (w, true) => if f = 15 then BitVec.ofNat 64 c else BitVec.ofInt 64 (intOfCode w true (c % 2 ^ w))
  | _ => BitVec.ofNat 64 (c % 2 ^ widthOf f)

/-- The head of the input that a source select names; none for a register. -/
def Elem.sourceTok (x : Elem) (sel : BitVec 4) : Option Token := if 8 ≤ sel.toNat then none else (x.queue (sel.toNat % 4)).head?

/-- Reads a source (R334, R335): its W-bit operand and whether it was converted, or FORMAT_RESERVED. -/
def Elem.source (x : Elem) (f : BitVec 4) (raw : Bool) (sel : BitVec 4) : Except (BitVec 8) (Nat × Bool) :=
  let w := widthOf f
  if 8 ≤ sel.toNat then .ok ((x.kr (sel.toNat - 8)).toNat % 2 ^ w, false)
  else match x.sourceTok sel with
    | none => .ok (0, false)
    | some k =>
      let c := k.data.toNat % 2 ^ widthOf k.tag
      if k.kind = .control || raw || k.tag = f || k.tag = 0 || k.tag = 15 || f = 0 || f = 15 then .ok (k.data.toNat % 2 ^ w, false)
      else if reservedCode k.tag c then .error cFormatReserved
      else .ok ((convert k.tag f .nearest false false 0 c).1, true)

/-- What an operation reads as it fires: the element, its choice and context, format and width, the operands, the head token of source A and its
whole word, the literal and LIT. -/
structure Fire where
  e    : ElemId
  x    : Elem
  ctx  : Nat
  c    : Choice
  f    : BitVec 4
  w    : Nat
  s    : Nat
  u    : Nat
  tok  : Option Token
  aw   : Word
  lit  : Word
  n    : Nat
  conv : Bool

/-- What an operation does: its result for the destinations, its latency, its predicate write, register writes of its own before and after those
of the destinations, the control token it passes on, the context it offers (none for HALT), and an LDT or STT. -/
structure Eff where
  lat   : Nat
  res   : Option Nat := none
  bit   : Option Bool := none
  pre   : List (Nat × Word) := []
  post  : List (Nat × Word) := []
  pass  : Bool := false
  turn  : Option (Option Nat) := none
  mem   : Option MemOp := none

/-- An identity that no memory operation of the tile has. -/
def Fabric.newId (f : Fabric) : Nat :=
  let top (l : List MemOp) (n : Nat) : Nat := l.foldl (fun m o => Nat.max m (o.id + 1)) n
  f.elems.foldl (fun n p => p.2.firings.foldl (fun n g => top g.mems n) n) (top f.ops 0)

/-- The tag of a firing's tokens (R44). -/
def Fire.outTag (r : Fire) : BitVec 4 := if r.f != 0 then r.f else match r.tok with | some k => k.tag | none => 0

/-- A plain store at k7 (R338). -/
def Fire.tmemStore (r : Fire) (id : Nat) (awaits : Option Nat) (word : Word) (now : Nat) : MemOp where
  id := id
  awaits := awaits
  elem := r.e.idx
  entry := r.c.entry
  ctx := r.ctx
  load := false
  plain := true
  noacc := false
  wave := 0
  seq := 0
  pred := 0
  succ := 0
  off := (r.x.kr 7).toNat % 2 ^ 29
  size := r.w / 8
  data := word
  tag := r.f
  dests := []
  due := now + 3 + (if r.conv then 1 else 0)

/-- Whether an entry breaks a rule that is checked as it fires (R48, R330, R336, R338). -/
def fireIllegal (cls : ElemClass) (shape : ElemShape) (handler : Option Nat) (sa sb da db tag : BitVec 4) : Bool :=
  let other (b : Bool) (sel : BitVec 4) : Bool := match handler with | some n => b && sel.toNat < 8 && sel.toNat % 4 != n | none => false
  !cls.accepts tag || other shape.sa sa || other shape.sb sb ||
  (shape.dest && ((da = db && da != 7) ||
    ((da = 4 || db = 4) && (da = 15 || db = 15 || widthOf tag = 4)) || ((da = 5 || db = 5) && (da = 8 || db = 8))))

/-- The inputs that a firing dequeues (R45, R330), each once. -/
def fireTakes (shape : ElemShape) (handler : Option Nat) (sa sb : BitVec 4) : List Nat :=
  (List.range 4).filter fun n => (shape.sa && sa.toNat = n) || (shape.sb && sb.toNat = n) || handler = some n

/-- Whether an accumulation is one of floats (R338): at a float format, and for the float class at RAW, which R336 reads and writes as FP64. -/
def ElemClass.sumsFloats (c : ElemClass) (f : BitVec 4) : Bool := c = .float || floatTag f

/-- The time that an accumulation into k0 adds to a latency (R338). -/
def accLag (float : Bool) : Nat := if float then 3 else 1

/-- A part of a firing with a time of its own. -/
def tailFiring (entry ctx due : Nat) (writes : List (Nat × Word)) (acc : Option (Bool × BitVec 4 × Word)) (pushes : List (BitVec 4 × Token)) : Firing where
  entry := entry
  ctx := ctx
  taken := []
  relied := []
  bit := none
  writes := writes
  acc := acc
  pushes := pushes
  mems := []
  turn := none
  due := due
  tail := true

/-- The firing that an operation's effect makes. -/
def Fire.firing (r : Fire) (takes : List Nat) (dests : List Nat) (o : Eff) (newId now : Nat) : Firing :=
  let word := elemWord r.f (o.res.getD 0)
  let tok : Token := if o.pass then ⟨(r.tok.map (·.data)).getD 0, 0, .control⟩ else ⟨word, r.outTag, .data⟩
  let valued := o.res.isSome
  let stores := dests.contains 4 && (valued || match o.mem with | some m => !m.noacc | none => false)
  { entry := r.c.entry
    ctx := r.ctx
    taken := takes.filterMap fun n => (r.x.queue n).head?.map fun k => (n, k)
    relied := r.c.relied
    bit := o.bit.map fun v => (r.n % 8, v)
    writes := o.pre ++ (if valued then dests.filterMap fun d => if 8 ≤ d then some (d - 8, word) else none else []) ++ o.post
    acc := none
    pushes := if valued then (dests.filter fun d => d < 4 || d = 6).map fun d => (BitVec.ofNat 4 d, tok) else []
    mems := (match o.mem with | some m => [{ m with id := newId, due := now + m.due + (if r.conv && !m.load then 1 else 0) }] | none => []) ++
      (if stores then [r.tmemStore (newId + 1) (if valued then none else some newId) word now] else [])
    turn := o.turn
    due := now + o.lat + (if r.conv then 1 else 0) }

/-- The parts of a firing with times of their own (R338): the accumulation of `accp`, and the count of k7 for a `tmem` store. -/
def Fire.tails (r : Fire) (float : Bool) (dests : List Nat) (o : Eff) (now : Nat) : List Firing :=
  let valued := o.res.isSome
  let stores := dests.contains 4 && (valued || match o.mem with | some m => !m.noacc | none => false)
  let lat := o.lat + (if r.conv then 1 else 0)
  (if stores then [tailFiring r.c.entry r.ctx (now + 1) [(7, r.x.kr 7 + BitVec.ofNat 64 (r.w / 8))] none []] else []) ++
  (if valued && dests.contains 5 then
     [tailFiring r.c.entry r.ctx (now + lat + accLag float) [] (some (float, r.f, elemWord r.f (o.res.getD 0))) []] else [])

/-- The element after a firing is made: its tokens dequeued, and stopped where it is CTX or HALT (R340). -/
def Elem.made (x : Elem) (takes : List Nat) (g : Firing) (tails : List Firing) (now : Nat) : Elem :=
  let x := takes.foldl (fun x n => x.setQueue n ((x.queue n).drop 1)) x
  { x with firings := x.firings ++ g :: tails, last := now + 1, status := if g.turn.isSome then .halted else x.status }

/-- The firings that no prediction can squash any more are confirmed (R332): with the inputs whose tokens they have taken for good. -/
def confirm : List Firing → List Firing × List Nat
  | [] => ([], [])
  | g :: r =>
    if !g.relied.isEmpty then (g :: r, [])
    else
      let (r, ns) := confirm r
      ({ g with sure := true } :: r, (if g.sure then [] else (g.taken.filter (·.2.slotted)).map (·.1)) ++ ns)

/-- Confirms an element's firings, whose dequeues give their slots back from now on (R333, R346). -/
def confirmElem (e : ElemId) (s : State) : State :=
  let x := s.elemAt e
  let (gs, ns) := confirm x.firings
  giveBack e.tile (ns.map fun n => ⟨.input e.idx (BitVec.ofNat 2 n), s.now + (x.hop.toList[n]?).getD 0⟩) (modElem e (fun y => { y with firings := gs }) s)

/-- The frame of an element operation: the element fires where R329 chooses an entry that holds it. `raw` tells whether sources A and B are read
unchanged; `illegal` are the operation's own checks; `body` computes the effect. A fault met on a prediction is judged once that is
confirmed. -/
def fireElem (op : BitVec 7) (cls : ElemClass) (sa sb da db tag : BitVec 4) (lit : BitVec 5) (rawA rawB : Bool)
    (illegal : Fire → Option (BitVec 8)) (body : Fire → Eff) (st : State) : Out :=
  match st.cur with
  | .strand _ => .fault .agentMismatch
  | .elem e =>
    match st.fires e, st.choose e with
    | some (x, ctx), some c =>
      if c.word ≠ packElem op sa sb da db tag lit then wait st
      else
        let f := (st.tile e.tile).fabric
        let shape := elemShape op.toNat
        let fault (cause : BitVec 8) : Out :=
          if !c.relied.isEmpty || x.unconfirmed then wait st else .next (elemFault e c.entry cause 0 0 0 st)
        if fireIllegal cls shape c.handler sa sb da db tag then fault cFabricIllegal
        else
          let read (b : Bool) (raw : Bool) (sel : BitVec 4) : Except (BitVec 8) (Nat × Bool) := if b then x.source tag raw sel else .ok (0, false)
          let aw := match x.sourceTok sa with | some k => k.data | none => x.kr (sa.toNat - 8)
          let r : Fire := ⟨e, x, ctx, c, tag, widthOf tag, 0, 0, if shape.sa then x.sourceTok sa else none, aw,
            (f.running st.now ctx).lit e.idx.toNat lit.toNat, lit.toNat, false⟩
          match illegal r with
          | some cause => if cause = cFormatReserved then squashFault e c x st else fault cause
          | none =>
            match read shape.sa rawA sa, read shape.sb rawB sb with
            | .ok (s, p), .ok (u, q) =>
              let r := { r with s := s, u := u, conv := p || q }
              let o := body r
              let takes := fireTakes shape c.handler sa sb
              let ds := x.goals c.word r.lit
              let g := r.firing takes ds o f.newId st.now
              .next (confirmElem e (modElem e (fun x => f.settle st.now e.idx.toNat (x.made takes g (r.tails (cls.sumsFloats tag) ds o st.now) st.now)) st))
            | _, _ => squashFault e c x st
    | _, _ => wait st
where
  /-- FORMAT_RESERVED at an operand: the firing is squashed (R342). -/
  squashFault (e : ElemId) (c : Choice) (x : Elem) (st : State) : Out :=
    if !c.relied.isEmpty || x.unconfirmed then wait st
    else .next (elemFault e c.entry cFormatReserved 0 0 0 (bump e.tile 4 1 st))

/-- No check of an operation's own. -/
def legal : Fire → Option (BitVec 8) := fun _ => none

end Sys2Proof.Machine
end

