-- ==== Sys2Proof/Machine/Place.lean ====
section
/-! DEFINITION. How an instruction comes to be the next one that runs (log entry 10): its parcels are stored where a strand fetches, or its word
stands in the table of a fabric element; the order of moves then begins with that strand's issue or that element's firing. -/

namespace Sys2Proof.Machine

open Sys2Proof

/-- The bytes of an instruction of up to three parcels, the first at the lowest address, each with its low byte first (R5, R27). -/
def wordBytes (w : Nat) : List Byte := leBytes 12 w

/-- The address at which a strand at level M fetches its next instruction: where it stands, if that is a parcel address of this device's HBM with
room for three parcels, and else the lowest address. -/
def placePc (s : State) (i : StrandId) : Addr :=
  let a := (s.strand i).pc
  if s.own a.toNat && localOf a.toNat + 12 ≤ 0x8000000000 && a.toNat % 4 = 0 && a.toNat < 2 ^ 77 then a else BitVec.ofNat 80 (s.globalPa 0)

/-- Stores an instruction where a strand fetches next, and lets the strand fetch it at level M and issue next. -/
def placeAt (i : StrandId) (w : Nat) (s : State) : State :=
  let a := placePc s i
  let s := s.modStrand i fun t => { t with status := .running, level := .M, pc := a, pend := [], due := none }
  let s := s.modCore i.core fun k => { k with icache := [], last := none }
  let ls := (linesOf a.toNat 12).map Line.mem
  { s with
    mem := s.mem.write a.toNat (wordBytes w)
    poison := s.poison.filter fun p => !ls.contains p.line
    sched := ⟨1, false, .issue i.core (~~~ BitVec.twoPow 8 i.slot.toNat)⟩ :: s.sched }

/-- The tile and the element that a placed instruction runs on. -/
def placedTile : TileId := ⟨0, 0⟩
def placedElem : ElemId := ⟨placedTile, 0⟩

/-- A tile as a team of one tile of launch slot 0 leaves it at its first issue, with all its lanes in the group of strand 0 (R123, R314). -/
def seatTile (v : Tile) : Tile :=
  { v with
    life := .resident
    started := true
    res := some (v.res.getD ⟨0, 0, 0, 0, 0, 1, 0, 0, 0, 0, 1, 1⟩)
    groups := if v.groups.any (·.2.owner = some 0) then v.groups else [(0, ⟨0, 32, some 0⟩)] }

/-- A fabric whose element 0 runs context 0, which holds a word that fires on four data tokens. -/
def seatElem (w : Parcel) (f : Fabric) : Fabric :=
  let c := f.context 0
  let x := f.elem 0
  let k : Token := ⟨1, 9, .data⟩
  let x : Elem :=
    { x with ctx := some 0, status := .running, start := 0, last := 0, reached := none, firings := [], ins := Vector.replicate 4 [k] }
  { f.setContext 0 { c with loaded := true, entries := amSet 0 (BitVec.ofNat 56 (0xF0 * 2 ^ 32 + w.toNat)) c.entries } with
    selected := some 0, elems := amSet 0 x f.elems }

/-- Whether parcel 0 is of an instruction that a control core does not execute (R84). -/
def tileOnly (p0 : Parcel) : Bool :=
  let m := (majorOf p0).toNat
  (0x18 ≤ m && m ≤ 0x2F) || (0x33 ≤ m && m ≤ 0x37) || p0 &&& 0xFFFE00FF = 0x01000050 || p0 &&& 0xFFFE00FF = 0x01800050

noncomputable section

/-- Whether bits are an element instruction word and no core instruction, as `decodeTableWord` reads them. -/
def elemOnly (nbits : Nat) (v : BitVec 96) : Bool :=
  match decode (v.extractLsb' 0 32) (v.extractLsb' 32 32) (v.extractLsb' 64 32) with
  | .ok _ => false
  | .error _ => nbits = 32 && (match Sys2Proof.decodeElem (v.extractLsb' 0 32) with | .ok _ => true | .error _ => false)

/-- The state in which the next step runs the instruction of some bits, as a program's loader leaves it (log entry 10). -/
def placeWord (s : State) (nbits w : Nat) : State :=
  let v : BitVec 96 := BitVec.ofNat 96 (w % 2 ^ nbits)
  if elemOnly nbits v then
    let s := s.modTile placedTile fun t => { seatTile t with fabric := seatElem (v.extractLsb' 0 32) t.fabric }
    { s with sched := ⟨1, false, .fire placedElem⟩ :: s.sched }
  else if tileOnly (v.extractLsb' 0 32) then placeAt ⟨.tile placedTile, 0⟩ v.toNat (s.modTile placedTile seatTile)
  else placeAt (bootStrand 0) v.toNat (s.modQuad 0 fun q => { q with inReset := false })

end

end Sys2Proof.Machine
end

