-- ==== Sys2Proof/Machine/Elements.lean ====
section
/-! DEFINITION. The element operations (R337 to R340): one meaning for each operation of the element opcode map (R49). -/

namespace Sys2Proof.Machine

open Sys2Proof

/-- The floating-point format that a TAG names; RAW is read as FP64 (R336). -/
def elemFmt (f : BitVec 4) : FFmt := (floatFmt f).getD .fp64

/-- An operation with a value. -/
def valueEff (lat : Nat) (f : Fire → Nat) (r : Fire) : Eff := { lat := lat, res := some (f r) }

/-- The value of a compare's result (R337): 1 in the format. -/
def oneIn (float : Bool) (f : BitVec 4) : Nat := if float || floatTag f then (elemFmt f).rn (.fin false 1 1) else 1

/-- A compare: it writes its predicate bit, and its result goes to the destinations. -/
def compareEff (lat : Nat) (float : Bool) (p : Fire → Bool) (r : Fire) : Eff :=
  { lat := lat, res := some (if p r then oneIn float r.f else 0), bit := some (p r) }

/-- A signed operand. -/
def Fire.si (r : Fire) (c : Nat) : Int := intOfCode r.w true c

/-- The literal's low W bits. -/
def Fire.litW (r : Fire) : Nat := r.lit.toNat % 2 ^ r.w

/-- The addend of FMA and MAC: k(m), its low W bits. -/
def Fire.addend (r : Fire) : Nat := (r.x.kr (r.n % 8)).toNat % 2 ^ r.w

/-- The source of a dot product: its tag, and the four codes of a word (R339). -/
def dotTag (r : Fire) : BitVec 4 := match r.tok with | some k => k.tag | none => 0

/-- The codes of a word of a dot product. -/
def dotCodes (x : Nat) : List Nat := (List.range 4).map fun q => field x (8 * q) 8

/-- The format check of a dot product (R339): source A is an input whose token carries an accepted tag. -/
def dotIllegal (sa sb : BitVec 4) (r : Fire) : Option (BitVec 8) :=
  let t := dotTag r
  let ok := sa.toNat < 8 && (if r.f = 1 then 4 ≤ t.toNat && t.toNat ≤ 7 else t = 11 || t = 12)
  let u := match r.x.sourceTok sb with | some k => k.data.toNat | none => (r.x.kr (sb.toNat - 8)).toNat
  if !ok then some cFabricIllegal
  else if (dotCodes r.aw.toNat ++ dotCodes u).any (reservedCode t) then some cFormatReserved else none

/-- The dot product (R339, R153). -/
def dotValue (r : Fire) : Nat :=
  let t := dotTag r
  let ps := (dotCodes r.s).zip (dotCodes r.u)
  if r.f = 1 then
    let ts := ps.map fun p => ((valueOf t p.1).mul (valueOf t p.2)).1
    (FFmt.fp32.sum .nearest false ts 0).1
  else codeOfInt 32 (ps.foldl (fun (a : Int) p => a + intOfCode 8 (t = 11) p.1 * intOfCode 8 (t = 11) p.2) 0)

/-- Whether the literal of an LDT or STT is malformed (R348). -/
def waveIllegal (r : Fire) : Option (BitVec 8) :=
  let l := r.lit.toNat
  if l / 2 ^ 57 != 0 || field l 32 8 = 0 || field l 32 8 = 255 then some cFabricIllegal else none

/-- The memory operation of an LDT or STT (R348, R349); its time counts from the firing. -/
def waveOp (r : Fire) (load : Bool) (dests : List Nat) : MemOp where
  id := 0
  elem := r.e.idx
  entry := r.c.entry
  ctx := r.ctx
  load := load
  plain := false
  noacc := r.lit.getLsbD 56
  wave := BitVec.ofNat 16 (field r.aw.toNat 48 16)
  seq := field r.lit.toNat 32 8
  pred := field r.lit.toNat 40 8
  succ := field r.lit.toNat 48 8
  off := (r.aw.toNat % 2 ^ 29 + ((r.lit.setWidth 32).signExtend 64).toNat) % 2 ^ 29
  size := r.w / 8
  data := elemWord r.f r.u
  tag := r.outTag
  dests := dests.map (BitVec.ofNat 4)
  due := if load then 1 else 3

/-- CNT reads k(n) and counts it; the order of its count and of a destination that names k(n) is a free choice (log entry 7). -/
def cntEff (late : Bool) (r : Fire) : Eff :=
  let k := r.x.kr (r.n % 8)
  let w := [(r.n % 8, k + 1)]
  { lat := 1, res := some (k.toNat % 2 ^ r.w), pre := if late then [] else w, post := if late then w else [] }

/-- NOP: no effect. -/
def execElemNop  (st : State) : Out :=
  fireElem 1 .none 0 0 0 0 0 0 false false legal (fun _ => { lat := 1 }) st

/-- ADD (R337). -/
def execElemAdd (sa sb da db tag : BitVec 4) (st : State) : Out :=
  fireElem 2 .int sa sb da db tag 0 false false legal (valueEff 1 fun r => VInt.eval .add r.w r.s r.u) st

/-- SUB (R337). -/
def execElemSub (sa sb da db tag : BitVec 4) (st : State) : Out :=
  fireElem 3 .int sa sb da db tag 0 false false legal (valueEff 1 fun r => VInt.eval .sub r.w r.s r.u) st

/-- MUL (R337). -/
def execElemMul (sa sb da db tag : BitVec 4) (st : State) : Out :=
  fireElem 4 .int sa sb da db tag 0 false false legal (valueEff 2 fun r => VInt.eval .mul r.w r.s r.u) st

/-- AND (R337). -/
def execElemAnd (sa sb da db tag : BitVec 4) (st : State) : Out :=
  fireElem 5 .any sa sb da db tag 0 true true legal (valueEff 1 fun r => r.s &&& r.u) st

/-- OR (R337). -/
def execElemOr (sa sb da db tag : BitVec 4) (st : State) : Out :=
  fireElem 6 .any sa sb da db tag 0 true true legal (valueEff 1 fun r => r.s ||| r.u) st

/-- XOR (R337). -/
def execElemXor (sa sb da db tag : BitVec 4) (st : State) : Out :=
  fireElem 7 .any sa sb da db tag 0 true true legal (valueEff 1 fun r => r.s ^^^ r.u) st

/-- MIN (R337). -/
def execElemMin (sa sb da db tag : BitVec 4) (st : State) : Out :=
  fireElem 8 .int sa sb da db tag 0 false false legal (valueEff 1 fun r => VInt.eval .min r.w r.s r.u) st

/-- MAX (R337). -/
def execElemMax (sa sb da db tag : BitVec 4) (st : State) : Out :=
  fireElem 9 .int sa sb da db tag 0 false false legal (valueEff 1 fun r => VInt.eval .max r.w r.s r.u) st

/-- MINU (R337). -/
def execElemMinu (sa sb da db tag : BitVec 4) (st : State) : Out :=
  fireElem 10 .int sa sb da db tag 0 false false legal (valueEff 1 fun r => VInt.eval .minu r.w r.s r.u) st

/-- MAXU (R337). -/
def execElemMaxu (sa sb da db tag : BitVec 4) (st : State) : Out :=
  fireElem 11 .int sa sb da db tag 0 false false legal (valueEff 1 fun r => VInt.eval .maxu r.w r.s r.u) st

/-- FADD (R337). -/
def execElemFadd (sa sb da db tag : BitVec 4) (st : State) : Out :=
  fireElem 12 .float sa sb da db tag 0 false false legal (valueEff 3 fun r => ((elemFmt r.f).add .nearest false r.s r.u).1) st

/-- FSUB (R337). -/
def execElemFsub (sa sb da db tag : BitVec 4) (st : State) : Out :=
  fireElem 13 .float sa sb da db tag 0 false false legal (valueEff 3 fun r => ((elemFmt r.f).sub .nearest false r.s r.u).1) st

/-- FMUL (R337). -/
def execElemFmul (sa sb da db tag : BitVec 4) (st : State) : Out :=
  fireElem 14 .float sa sb da db tag 0 false false legal (valueEff 3 fun r => ((elemFmt r.f).mul .nearest false r.s r.u).1) st

/-- FMIN (R337). -/
def execElemFmin (sa sb da db tag : BitVec 4) (st : State) : Out :=
  fireElem 15 .float sa sb da db tag 0 false false legal (valueEff 1 fun r => ((elemFmt r.f).minMax false false r.s r.u).1) st

/-- FMAX (R337). -/
def execElemFmax (sa sb da db tag : BitVec 4) (st : State) : Out :=
  fireElem 16 .float sa sb da db tag 0 false false legal (valueEff 1 fun r => ((elemFmt r.f).minMax true false r.s r.u).1) st

/-- DOT4 (R339). -/
def execElemDot4 (sa sb da db tag : BitVec 4) (st : State) : Out :=
  fireElem 17 .dot sa sb da db tag 0 true true (dotIllegal sa sb) (valueEff 3 dotValue) st

/-- ADDL (R337). -/
def execElemAddl (sa da db tag : BitVec 4) (lit : BitVec 5) (st : State) : Out :=
  fireElem 18 .int sa 0 da db tag lit false false legal (valueEff 1 fun r => VInt.eval .add r.w r.s r.litW) st

/-- MULL (R337). -/
def execElemMull (sa da db tag : BitVec 4) (lit : BitVec 5) (st : State) : Out :=
  fireElem 19 .int sa 0 da db tag lit false false legal (valueEff 2 fun r => VInt.eval .mul r.w r.s r.litW) st

/-- ANDL (R337). -/
def execElemAndl (sa da db tag : BitVec 4) (lit : BitVec 5) (st : State) : Out :=
  fireElem 20 .any sa 0 da db tag lit true true legal (valueEff 1 fun r => r.s &&& r.litW) st

/-- SHL (R337). -/
def execElemShl (sa da db tag : BitVec 4) (lit : BitVec 5) (st : State) : Out :=
  fireElem 21 .any sa 0 da db tag lit true true legal (valueEff 1 fun r => r.s * 2 ^ r.n % 2 ^ r.w) st

/-- SHR (R337). -/
def execElemShr (sa da db tag : BitVec 4) (lit : BitVec 5) (st : State) : Out :=
  fireElem 22 .any sa 0 da db tag lit true true legal (valueEff 1 fun r => r.s / 2 ^ r.n) st

/-- SAR (R337). -/
def execElemSar (sa da db tag : BitVec 4) (lit : BitVec 5) (st : State) : Out :=
  fireElem 23 .any sa 0 da db tag lit true true legal (valueEff 1 fun r => codeOfInt r.w (r.si r.s / 2 ^ r.n)) st

/-- FMA (R337): s × u + k(m), rounded once. -/
def execElemFma (sa sb da db tag : BitVec 4) (lit : BitVec 3) (st : State) : Out :=
  fireElem 24 .float sa sb da db tag (lit.setWidth 5) false false legal (valueEff 4 fun r => ((elemFmt r.f).fma .nearest false false false r.s r.u r.addend).1) st

/-- MAC's value (R336, R337): floating point at a float format, else the integer multiply-add. -/
def macValue (r : Fire) : Nat :=
  if floatTag r.f then ((elemFmt r.f).fma .nearest false false false r.s r.u r.addend).1 else (r.s * r.u + r.addend) % 2 ^ r.w

/-- MAC (R337): k(m) receives the result after the destinations. -/
def execElemMac (sa sb da db tag : BitVec 4) (lit : BitVec 3) (st : State) : Out :=
  fireElem 0x19 .both sa sb da db tag (lit.setWidth 5) false false legal (fun r =>
    { lat := if floatTag r.f then 4 else 2, res := some (macValue r), post := [(r.n % 8, elemWord r.f (macValue r))] }) st

/-- CMPEQ (R337). -/
def execElemCmpeq (sa sb da db tag : BitVec 4) (lit : BitVec 3) (st : State) : Out :=
  fireElem 26 .any sa sb da db tag (lit.setWidth 5) true true legal (compareEff 1 false fun r => decide (r.s = r.u)) st

/-- CMPLT (R337). -/
def execElemCmplt (sa sb da db tag : BitVec 4) (lit : BitVec 3) (st : State) : Out :=
  fireElem 27 .int sa sb da db tag (lit.setWidth 5) false false legal (compareEff 1 false fun r => decide (r.si r.s < r.si r.u)) st

/-- CMPLTU (R337). -/
def execElemCmpltu (sa sb da db tag : BitVec 4) (lit : BitVec 3) (st : State) : Out :=
  fireElem 28 .int sa sb da db tag (lit.setWidth 5) false false legal (compareEff 1 false fun r => decide (r.s < r.u)) st

/-- FCMPLT (R337). -/
def execElemFcmplt (sa sb da db tag : BitVec 4) (lit : BitVec 3) (st : State) : Out :=
  fireElem 29 .float sa sb da db tag (lit.setWidth 5) false false legal (compareEff 2 true fun r => ((elemFmt r.f).compare 1 false r.s r.u).1) st

/-- FCMPEQ (R337). -/
def execElemFcmpeq (sa sb da db tag : BitVec 4) (lit : BitVec 3) (st : State) : Out :=
  fireElem 30 .float sa sb da db tag (lit.setWidth 5) false false legal (compareEff 2 true fun r => ((elemFmt r.f).compare 0 false r.s r.u).1) st

/-- SETP (R337). -/
def execElemSetp (lit : BitVec 3) (st : State) : Out :=
  fireElem 31 .none 0 0 0 0 0 (lit.setWidth 5) false false legal (fun _ => { lat := 1, bit := some true }) st

/-- CLRP (R337). -/
def execElemClrp (lit : BitVec 3) (st : State) : Out :=
  fireElem 32 .none 0 0 0 0 0 (lit.setWidth 5) false false legal (fun _ => { lat := 1, bit := some false }) st

/-- MOVP (R337): bit 0 of the source word, read unchanged. -/
def execElemMovp (sa : BitVec 4) (lit : BitVec 3) (st : State) : Out :=
  fireElem 33 .none sa 0 0 0 0 (lit.setWidth 5) true true legal (fun r => { lat := 1, bit := some (r.aw.getLsbD 0) }) st

/-- MOV (R337); one that reads a control token passes it on (R330). -/
def execElemMov (sa da db tag : BitVec 4) (st : State) : Out :=
  fireElem 34 .any sa 0 da db tag 0 false false legal (fun r =>
    { lat := 1, res := some r.s, pass := match r.tok with | some k => decide (k.kind = .control) | none => false }) st

/-- LIT (R337). -/
def execElemLit (da db tag : BitVec 4) (lit : BitVec 5) (st : State) : Out :=
  fireElem 35 .any 0 0 da db tag lit false false legal (valueEff 1 fun r => r.litW) st

/-- SEL (R337). -/
def execElemSel (sa sb da db tag : BitVec 4) (lit : BitVec 3) (st : State) : Out :=
  fireElem 36 .any sa sb da db tag (lit.setWidth 5) false false legal (valueEff 1 fun r => if r.x.bit (r.n % 8) then r.s else r.u) st

/-- DROP (R337): no effect beyond the dequeues. -/
def execElemDrop (sa sb : BitVec 4) (st : State) : Out :=
  fireElem 37 .none sa sb 0 0 0 0 true true legal (fun _ => { lat := 1 }) st

/-- LDT (R348 to R351). -/
def execElemLdt (sa da db tag : BitVec 4) (lit : BitVec 5) (st : State) : Out :=
  fireElem 38 .memory sa 0 da db tag lit true true waveIllegal (fun r =>
    { lat := 1, mem := some (waveOp r true (r.x.goals r.c.word r.lit)) }) st

/-- STT (R348 to R351). -/
def execElemStt (sa sb tag : BitVec 4) (lit : BitVec 5) (st : State) : Out :=
  fireElem 39 .memory sa sb 0 0 tag lit true false waveIllegal (fun r =>
    { lat := 1, mem := some (waveOp r false []) }) st

/-- CNT (R337). -/
def execElemCnt (da db tag : BitVec 4) (lit : BitVec 3) (st : State) : Out :=
  let own := da.toNat = 8 + lit.toNat || db.toNat = 8 + lit.toNat
  if own then
    let (x, s) := st.fresh
    fireElem 0x28 .int 0 0 da db tag (lit.setWidth 5) false false legal (cntEff (x.getLsbD 0)) s
  else fireElem 0x28 .int 0 0 da db tag (lit.setWidth 5) false false legal (cntEff true) st

/-- CTX of a context that is not loaded (R367). -/
def ctxIllegal (st : State) (r : Fire) : Option (BitVec 8) :=
  if ((st.tile r.e.tile).fabric.context r.n).loaded then none else some cFabricNoHandler

/-- CTX (R340, R367): a context that is not loaded freezes the element. -/
def execElemCtx (lit : BitVec 2) (st : State) : Out :=
  fireElem 41 .none 0 0 0 0 0 (lit.setWidth 5) false false (ctxIllegal st) (fun r => { lat := 1, turn := some (some r.n) }) st

/-- HALT (R340). -/
def execElemHalt  (st : State) : Out :=
  fireElem 42 .none 0 0 0 0 0 0 false false legal (fun _ => { lat := 1, turn := some none }) st

/-- ABS (R337). -/
def execElemAbs (sa da db tag : BitVec 4) (st : State) : Out :=
  fireElem 43 .int sa 0 da db tag 0 false false legal (valueEff 1 fun r => VInt.eval .abs r.w r.s 0) st

/-- POPC (R337). -/
def execElemPopc (sa da db tag : BitVec 4) (st : State) : Out :=
  fireElem 44 .any sa 0 da db tag 0 true true legal (valueEff 1 fun r => ((List.range r.w).filter fun n => r.s.testBit n).length) st

/-- STEER (R337): to DA or DB by its predicate bit. -/
def execElemSteer (sa da db tag : BitVec 4) (lit : BitVec 3) (st : State) : Out :=
  fireElem 45 .any sa 0 da db tag (lit.setWidth 5) false false legal (valueEff 1 fun r => r.s) st

end Sys2Proof.Machine
end

