-- ==== Sys2Proof/Machine/Crypto.lean ====
section
/-! DEFINITION. The cryptographic standards that the rules name: SHA3-512 (R358, R429, R431), KMAC256 (R377), and the verification of ML-DSA-87
signatures (R358). They are written from the standards themselves: FIPS 202, NIST SP 800-185 and FIPS 204 (log entry 8). -/

namespace Sys2Proof.Machine

/-! ### FIPS 202: the permutation and the sponge -/

/-- The 25 lanes of the state, lane (x, y) at 5 y + x. -/
abbrev Lanes := List (BitVec 64)

/-- Lane (x, y), both modulo 5. -/
def Lanes.at (a : Lanes) (x y : Nat) : BitVec 64 := a.getD (5 * (y % 5) + x % 5) 0

/-- A state by its lanes. -/
def lanesOf (f : Nat → Nat → BitVec 64) : Lanes := (List.range 25).map fun i => f (i % 5) (i / 5)

/-- The rotations of the step rho, as the standard walks them: from lane (1, 0) lane (x, y) leads to (y, 2x + 3y), and the step numbered `n` turns its
lane by n (n + 1) / 2. -/
def rhoWalk : Nat → Nat → Nat → Nat → List (Nat × Nat)
  | 0, _, _, _ => []
  | k + 1, n, x, y => (5 * y + x, n * (n + 1) / 2 % 64) :: rhoWalk k (n + 1) y ((2 * x + 3 * y) % 5)

/-- The rotation of each lane; lane (0, 0) stays. -/
def rhoTurns : List Nat := (List.range 25).map fun l => ((rhoWalk 24 1 1 0).lookup l).getD 0

/-- The shift register of the step iota, whose polynomial is x^8 + x^6 + x^5 + x^4 + 1, after each of `k` steps. -/
def iotaBits : Nat → Nat → List Nat
  | 0, _ => []
  | k + 1, r => r % 2 :: iotaBits k (if r < 128 then 2 * r else (2 * r) ^^^ 0x171)

/-- The word of each round of iota from seven successive bits: bit j stands at 2^j - 1. -/
def iotaWords : Nat → List Nat → Lanes
  | 0, _ => []
  | k + 1, bits => BitVec.ofNat 64 ((bits.take 7).zipIdx.map fun (b, j) => b * 2 ^ (2 ^ j - 1)).sum :: iotaWords k (bits.drop 7)

/-- One round: theta, rho and pi, chi, iota. -/
def keccakRound (a : Lanes) (word : BitVec 64) : Lanes :=
  let parity : Lanes := (List.range 5).map fun x => ((List.range 5).map (a.at x)).foldl (· ^^^ ·) 0
  let mixed := lanesOf fun x y => a.at x y ^^^ (parity.at (x + 4) 0 ^^^ (parity.at (x + 1) 0).rotateLeft 1)
  let turned : Lanes := (mixed.zip rhoTurns).map fun (l, n) => l.rotateLeft n
  let moved := lanesOf fun x y => turned.at (x + 3 * y) x
  match lanesOf fun x y => moved.at x y ^^^ (moved.at (x + 2) y &&& ~~~(moved.at (x + 1) y)) with
  | first :: rest => (first ^^^ word) :: rest
  | [] => []

/-- The permutation of 24 rounds. -/
def keccakF (a : Lanes) : Lanes := (iotaWords 24 (iotaBits 168 1)).foldl keccakRound a

/-- The bytes of a message with its suffix, padded to a multiple of the rate. -/
def padded (rate : Nat) (suffix : Byte) (m : List Byte) : List Byte :=
  let p := m ++ suffix :: List.replicate (rate - 1 - m.length % rate) 0
  p.set (p.length - 1) (p.getLastD 0 ||| 0x80)

/-- A block of bytes enters the state. -/
def absorbBlock (a : Lanes) (block : List Byte) : Lanes :=
  keccakF (lanesOf fun x y => a.at x y ^^^ BitVec.ofNat 64 (leNat ((block.drop (8 * (5 * y + x))).take 8)))

/-- `n` bytes come out of the state, a block of `rate` bytes between permutations. -/
def squeeze (rate : Nat) : Nat → Lanes → Nat → List Byte
  | 0, _, _ => []
  | k + 1, a, n =>
    let block := (a.flatMap fun l => leBytes 8 l.toNat).take rate
    if n ≤ rate then block.take n else block ++ squeeze rate k (keccakF a) (n - rate)

/-- The sponge with a rate in bytes and the suffix bits of its function: `n` bytes of output. -/
def sponge (rate : Nat) (suffix : Byte) (n : Nat) (m : List Byte) : List Byte :=
  let p := padded rate suffix m
  let a := (List.range (p.length / rate)).foldl (fun a j => absorbBlock a ((p.drop (rate * j)).take rate)) (List.replicate 25 0)
  squeeze rate (n / rate + 1) a n

/-- SHA3-512 (FIPS 202): the digest's byte 0 is the least significant one. -/
@[irreducible] def sha3 (m : List Byte) : BitVec 512 := BitVec.ofNat 512 (leNat (sponge 72 0x06 64 m))

def shake128 (n : Nat) (m : List Byte) : List Byte := sponge 168 0x1F n m
def shake256 (n : Nat) (m : List Byte) : List Byte := sponge 136 0x1F n m

/-! ### NIST SP 800-185: KMAC256 -/

/-- A string of fewer than 8192 bytes before whose bytes its length in bits stands. -/
def encodeString (s : List Byte) : List Byte :=
  let n := 8 * s.length
  (if n < 256 then [1, BitVec.ofNat 8 n] else [2, BitVec.ofNat 8 (n / 256), BitVec.ofNat 8 n]) ++ s

/-- A string with the rate before it, filled with zeros to a multiple of the rate of 136 bytes. -/
def bytePad (s : List Byte) : List Byte :=
  let p := [1, 136] ++ s
  p ++ List.replicate ((136 - p.length % 136) % 136) 0

/-- KMAC256 of 256 bits with an empty customisation string (R377): a key and a message. -/
@[irreducible] def kmac256 (key : BitVec 256) (m : List Byte) : BitVec 256 :=
  let head := bytePad (encodeString [0x4B, 0x4D, 0x41, 0x43] ++ encodeString [])
  BitVec.ofNat 256 (leNat (sponge 136 0x04 32 (head ++ bytePad (encodeString (leBytes 32 key.toNat)) ++ m ++ [1, 0, 2])))

/-! ### FIPS 204: verification of ML-DSA-87 -/

/-- The modulus of the polynomials' coefficients, and the doubled low-order range 2 gamma2. -/
def dsaQ : Nat := 8380417
def dsaRange : Nat := 523776

/-- A polynomial of 256 coefficients modulo `dsaQ`, or its values in the transformed domain. -/
abbrev Poly := List Nat

/-- A power of the 512-th root of unity. -/
def root (e : Nat) : Nat := 1753 ^ (e % 512) % dsaQ

/-- A byte with its bits in the reverse order. -/
def reverseBits (j : Nat) : Nat := (List.range 8).foldl (fun r k => 2 * r + j / 2 ^ k % 2) 0

/-- The transform: value `j` is the polynomial's at an odd power of the root. -/
def ntt (w : Poly) : Poly :=
  (List.range 256).map fun j => (w.zipIdx.foldl (fun a (c, i) => a + c * root ((2 * reverseBits j + 1) * i)) 0) % dsaQ

/-- Its inverse; 8347681 is the inverse of 256. -/
def invNtt (w : Poly) : Poly :=
  (List.range 256).map fun i =>
    (w.zipIdx.foldl (fun a (c, j) => a + c * root (512 - (2 * reverseBits j + 1) * i % 512)) 0) * 8347681 % dsaQ

/-- The coefficients of `n` bits each that bytes hold. -/
def coefficients (n : Nat) (bs : List Byte) : List Nat :=
  let v := leNat bs
  (List.range 256).map fun i => field v (n * i) n

/-- The bytes of 4-bit coefficients. -/
def pack4 (w : List Nat) : List Byte := leBytes 128 (w.foldr (fun c v => c + 16 * v) 0)

/-- The numbers of 23 bits that successive three bytes give. -/
def threes : List Byte → List Nat
  | a :: b :: c :: r => (a.toNat + 2 ^ 8 * b.toNat + 2 ^ 16 * (c.toNat % 128)) :: threes r
  | _ => []

/-- An entry of the public matrix, in the transformed domain. 1344 bytes of candidates are more than the standard's Appendix C asks for. -/
def expandEntry (rho : List Byte) (r s : Nat) : Poly :=
  ((threes (shake128 1344 (rho ++ [BitVec.ofNat 8 s, BitVec.ofNat 8 r]))).filter (· < dsaQ)).take 256

/-- Places the nonzero coefficients from position `i` on by the bytes that follow, with the signs from bit 0 of `h` on. -/
def placeSigns : List Byte → Nat → Nat → Poly → Poly
  | [], _, _, c => c
  | j :: bs, i, h, c =>
    if 256 ≤ i then c
    else if i < j.toNat then placeSigns bs i h c
    else placeSigns bs (i + 1) (h / 2) ((c.set i (c.getD j.toNat 0)).set j.toNat (if h % 2 = 0 then 1 else dsaQ - 1))

/-- The challenge with 60 coefficients of 1 or -1. -/
def challenge (seed : List Byte) : Poly :=
  let bs := shake256 544 seed
  placeSigns (bs.drop 8) 196 (leNat (bs.take 8)) (List.replicate 256 0)

/-- The positions of one polynomial's hints, which rise. -/
def hintRow (y : List Byte) (first last : Nat) : Option (List Nat) :=
  let r := ((y.drop first).take (last - first)).map (·.toNat)
  if first ≤ last && last ≤ 75 && (r.zip r.tail).all (fun (a, b) => a < b) then some r else none

/-- The positions of the hints of the 8 polynomials, if the 83 bytes are an encoding. -/
def hintRows (y : List Byte) : Option (List (List Nat)) :=
  let ends := ((y.drop 75).take 8).map (·.toNat)
  let rows := ((0 :: ends).zip ends).map fun (a, b) => hintRow y a b
  if rows.all (·.isSome) && ((y.take 75).drop (ends.getLastD 0)).all (· = 0) then some (rows.filterMap id) else none

/-- The high-order part of a coefficient, with or without a hint. -/
def useHint (h : Bool) (r : Nat) : Nat :=
  let low := r % dsaRange
  let up := decide (dsaRange / 2 < low)
  let high := (if up then r / dsaRange + 1 else r / dsaRange) % 16
  if !h then high else if !up && 0 < low then (high + 1) % 16 else (high + 15) % 16

/-- Whether a field of 4,627 bytes is an ML-DSA-87 signature of a message by a public key of 2,592 bytes, in the pure form with an empty context string
(R358). -/
@[irreducible] def mlDsaVerify (key : List Byte) (msg : BitVec 512) (sig : List Byte) : Bool :=
  let part (bs : List Byte) (off n k : Nat) : List Byte := (bs.drop (off + n * k)).take n
  let z := (List.range 7).map fun k => (coefficients 20 (part sig 64 640 k)).map fun v => (dsaQ + 2 ^ 19 - v) % dsaQ
  match hintRows (sig.drop 4544) with
  | none => false
  | some rows =>
    let mu := shake256 64 (shake256 64 key ++ [0, 0] ++ leBytes 64 msg.toNat)
    let c := ntt (challenge (sig.take 64))
    let zs := z.map ntt
    let high := (List.range 8).map fun r =>
      let t := ntt ((coefficients 10 (part key 32 320 r)).map (· * 2 ^ 13))
      let entries := (List.range 7).map fun s => expandEntry (key.take 32) r s
      let w := invNtt ((List.range 256).map fun i =>
        (((entries.zip zs).map fun (a, b) => a.getD i 0 * b.getD i 0).sum + (dsaQ - c.getD i 0) * t.getD i 0) % dsaQ)
      w.zipIdx.map fun (v, i) => useHint ((rows.getD r []).contains i) v
    z.all (fun p => p.all fun v => decide (v < 2 ^ 19 - 120 ∨ dsaQ < v + (2 ^ 19 - 120))) &&
      decide (shake256 64 (mu ++ high.flatMap pack4) = sig.take 64)

end Sys2Proof.Machine
end

