-- ==== Sys2Proof/Machine/FabricSteps.lean ====
section
/-! DEFINITION. The fabric's own steps: faults found at a queue's head (R46, R48), predicate writes (R332), results (R337, R344), tokens on their
way (R345 to R347), memory operations (R350 to R352), context switches (R367, R368), snapshots (R374), and the stream-out port (R370). -/

namespace Sys2Proof.Machine

open Sys2Proof

/-- NOHANDLER_FREEZE (R46, R329): the control token at the head names an empty entry. -/
def execNohandlerFreeze (e : ElemId) (st : State) : Out :=
  event st <|
    match st.fires e with
    | none => none
    | some (x, c) =>
      match x.controlHead with
      | none => none
      | some (_, k) =>
        let en := k.data.toNat % 16
        let t := (st.tile e.tile).fabric.running st.now c
        if t.word e.idx.toNat en = 0 && t.trigger e.idx.toNat en = 0 && !x.unconfirmed
        then some (elemFault e en cFabricNoHandler 0 0 0 st) else none

/-- FABRIC_ILLEGAL (R48): the chosen entry's word is no operation. -/
def execFabricIllegal (e : ElemId) (st : State) : Out :=
  event st <|
    match st.fires e, st.choose e with
    | some (x, _), some c =>
      if !elemWordOk c.word && c.relied.isEmpty && !x.unconfirmed then some (elemFault e c.entry cFabricIllegal 0 0 0 st) else none
    | _, _ => none

/-! ### Predicate writes -/

/-- Puts back what a squashed firing had taken, and undoes its stop (R332). -/
def Elem.unmake (x : Elem) (g : Firing) : Elem :=
  let x := g.taken.foldl (fun x (n, k) => x.setQueue n (k :: x.queue n)) x
  if g.turn.isSome then { x with status := .running } else x

/-- Splits a list at its first element that satisfies a condition. -/
def splitFirst {α : Type} (p : α → Bool) : List α → List α × List α
  | [] => ([], [])
  | a :: r => if p a then ([], a :: r) else let (l, m) := splitFirst p r; (a :: l, m)

/-- Whether some firing of a list has a write of a predicate bit pending. -/
def pendingIn (gs : List Firing) (n : Nat) : Bool := gs.any fun g => match g.bit with | some (m, _) => m = n | none => false

/-- Removes a settled prediction from the firings after the resolved one, as long as no write of the bit stands before them. -/
def settlePrediction (n : Nat) : List Firing → List Firing → List Firing
  | _, [] => []
  | before, g :: r =>
    let g' := if pendingIn before n then g else { g with relied := g.relied.filter (·.1 ≠ n) }
    g' :: settlePrediction n (before ++ [g']) r

/-- PREDICATE_WRITE_RESOLVE (R331 to R333): the oldest pending predicate write takes effect; the first firing that predicted another value, and all
after it, are squashed; the firings that no longer rely on a prediction are confirmed. The bit is readable from the next cycle on, so that the element
fires no more in this one (R344). -/
def execPredicateWriteResolve (e : ElemId) (st : State) : Out :=
  event st <|
    let x := st.elemAt e
    match splitFirst (fun g => g.bit.isSome) x.firings with
    | (old, g :: young) =>
      match g.bit with
      | none => none
      | some (n, v) =>
        if !g.relied.isEmpty || st.now < g.due then none
        else
          let (kept, bad) := splitFirst (fun h => h.relied.any fun r => r.1 = n && r.2 != v) young
          let x := bad.reverse.foldl Elem.unmake { x.setBit n v with firings := [] }
          let fs := old ++ { g with bit := none } :: settlePrediction n old kept
          let x := (st.tile e.tile).fabric.settle st.now e.idx.toNat { x with firings := fs, last := Nat.max x.last (st.now + 1) }
          let s := modElem e (fun _ => x) st
          some (confirmElem e (if bad.isEmpty then s else bump e.tile 4 (bad.filter fun h => !h.tail).length s))
    | _ => none

/-! ### Results -/

/-- A float or integer accumulation into k0 (R338): at RAW of the float class a sum of FP64 numbers, as R336 reads and writes them (log entry 102). -/
def Elem.accumulate (x : Elem) (float : Bool) (f : BitVec 4) (v : Word) : Elem :=
  let w := widthOf f
  let a := (x.kr 0).toNat % 2 ^ w
  let b := v.toNat % 2 ^ w
  let c := if float then ((elemFmt f).add .nearest false a b).1 else (a + b) % 2 ^ w
  x.setK 0 (elemWord f c)

/-- A token goes to a destination that takes tokens: an output port, or the stream-out port; without a binding the latter discards it and counts it
(R338). -/
def pushToken (e : ElemId) (ctx : Nat) (d : Nat) (k : Token) (s : State) : State :=
  if d < 4 then sendToken e d ctx k s
  else if (s.tile e.tile).fabric.bound e.idx.toNat then modElem e (fun x => { x with strm := x.strm ++ [k] }) s
  else modFabric e.tile (fun f => { f with discards := f.discards + 1 }) s

/-- Whether an offer to a tile's predicate network decides its phase (R367): the first does, and among those of one cycle the one of lowest rank. The
ranks are 0 for CFG.SEL, then the elements, then the markers. -/
def Fabric.decides (f : Fabric) (rank now : Nat) : Bool :=
  f.selected.isSome && (f.decided.isNone || (f.decidedAt.1 = now && rank < f.decidedAt.2))

/-- An offer of a context to a tile's predicate network (R367). -/
def offer (t : TileId) (rank n : Nat) (s : State) : State :=
  modFabric t (fun f =>
    if !f.decides rank s.now then f
    else { f with decided := some n, decidedAt := (s.now, rank), waves := if f.selected = some n then f.waves else f.waves.setIfInBounds n {} }) s

/-- CTX has ended an element's phase: its offer, and the switch of an element that awaits no marker (R340, R367, R368). -/
def endPhase (e : ElemId) (ctx n : Nat) (s : State) : State :=
  let s := offer e.tile (1 + e.idx.toNat) n s
  if ((s.tile e.tile).fabric.context ctx).inm e.idx.toNat = 0 then modElem e (·.injected s.now) s else s

/-- ELEMENT_RESULT_WRITE (R337, R344): the effects of the `k`-th firing of an element, which is confirmed and due, none being due before it. A register is
readable from the next cycle on, so that an element whose registers are written fires no more in this one. -/
def execElementResultWrite (e : ElemId) (k : Nat) (st : State) : Out :=
  event st <|
    let x := st.elemAt e
    match x.firings[k]? with
    | none => none
    | some g =>
      if g.bit.isSome || !g.sure || st.now < g.due || x.firings.any (·.due < g.due) || (x.firings.take k).any (·.due = g.due) then none
      else
        let x := g.writes.foldl (fun x (n, v) => x.setK n v) { x with firings := x.firings.eraseIdx k }
        let x := match g.acc with | some (b, f, v) => x.accumulate b f v | none => x
        let x := if g.writes.isEmpty && g.acc.isNone then x else { x with last := Nat.max x.last (st.now + 1) }
        let s := modElem e (fun _ => x) st
        let s := g.pushes.foldl (fun s (d, t) => pushToken e g.ctx d.toNat t s) s
        let s := if g.mems.isEmpty then s else modFabric e.tile (fun f => { f with ops := f.ops ++ g.mems }) s
        some (match g.turn with
          | some (some n) => endPhase e g.ctx n s
          | _ => s)

/-! ### Tokens on their way -/

/-- The tiles of a route in order. -/
def routeTiles (q : BitVec 2) (tx ty : Int) : Nat → Int → Int → List TileId
  | 0, x, y => [gridTile q x y]
  | n + 1, x, y =>
    let t := gridTile q x y
    if x = tx && y = ty then [t]
    else
      let r := if x < tx then routeTiles q tx ty n (x + 1) y
        else if tx < x then routeTiles q tx ty n (x - 1) y
        else if y < ty then routeTiles q tx ty n x (y + 1)
        else routeTiles q tx ty n x (y - 1)
      if r.head? = some t then r else t :: r

/-- The tokens of a route that are on their way to its target and reach it, nearest first; a closed guard drops the others (R371). -/
def State.routeTokens (s : State) (fl : Flight) : List Token :=
  let x := gridX fl.src
  let y := gridY fl.src
  (routeTiles fl.src.tile.quad fl.tx fl.ty (hopsBetween x y fl.tx fl.ty) x y).reverse.flatMap fun t =>
    let f := (s.tile t).fabric
    ((f.flights.filter fun g => g.same fl && g.tok.kind ≠ .preempt && s.reaches t g) ++ (f.edge fl).filter fun g => s.delivers g 17 t).map (·.tok)

/-- Removes the tokens of a route that are on their way to its target and reach it. -/
def dropRoute (fl : Flight) (s : State) : State :=
  { s with tiles := s.tiles.map fun (t, v) =>
      if t.quad ≠ fl.src.tile.quad then (t, v)
      else (t, { v with fabric := { v.fabric with
        flights := v.fabric.flights.filter fun g => !(g.same fl && g.tok.kind ≠ .preempt && s.reaches t g)
        edges := (v.fabric.edges.map fun g =>
          if g.src = fl.src && g.port = fl.port && g.ctx = fl.ctx then { g with toks := g.toks.filter fun h => !s.delivers h 17 t } else g).filter
            fun g => !g.toks.isEmpty } }) }

/-- The tokens on their way to an input become caught tokens of it, in order (R374). -/
def catchRoute (e : ElemId) (n : Nat) (fl : Flight) (s : State) : State :=
  let toks := s.routeTokens fl
  let one (k : Token) : Caught := ⟨e.idx, BitVec.ofNat 2 n, k, fl.src.tile ≠ e.tile⟩
  modFabric e.tile (fun f => { f with caught := f.caught ++ toks.map one }) (dropRoute fl s)

/-- The routes by which tokens are on their way to an input of an element, none of them met by a closed guard (R371): one token of each. -/
def State.routesTo (s : State) (e : ElemId) (n : Nat) : List Flight :=
  let aimed (g : Flight) : Bool := g.src.tile.quad = e.tile.quad && g.tx = gridX e && g.ty = gridY e && g.inq.toNat = n && g.tok.kind ≠ .preempt
  let all := s.tiles.flatMap fun (t, v) =>
    (v.fabric.flights.filter fun g => aimed g && s.reaches t g) ++ (v.fabric.edges.flatMap (·.toks)).filter fun g => aimed g && s.delivers g 17 t
  all.foldl (fun l g => if l.any g.same then l else l ++ [g]) []

/-- Whatever is on its way to an input of an element becomes a caught token of it (R374). -/
def catchInput (e : ElemId) (n : Nat) (s : State) : State := (s.routesTo e n).foldl (fun s fl => catchRoute e n fl s) s

/-- A pre-emption marker reaches an input (R374): the element fires nothing further, and what was still on its way there is caught. -/
def markInput (e : ElemId) (n : Nat) (fl : Flight) (s : State) : State :=
  let s := modElem e (fun x => { x with reached := some ((x.reached.getD 0) ||| BitVec.twoPow 4 n) }) s
  catchRoute e n fl s

/-- A marker that enters an input from another tile offers its context (R367), where the element awaits it there (R354). -/
def offerMarker (e : ElemId) (n : Nat) (k : Token) (outside : Bool) (s : State) : State :=
  match (s.elemAt e).ctx with
  | some c =>
    if k.kind = .marker && outside && (((s.tile e.tile).fabric.context c).inm e.idx.toNat).testBit n
    then offer e.tile (257 + 4 * e.idx.toNat + n) (k.data.toNat % 4) s else s
  | none => s

/-- Notes the latency of the leg by which an input's tokens come (R346). -/
def Elem.setHop (x : Elem) (n h : Nat) : Elem := { x with hop := x.hop.setIfInBounds n h }

/-- A token that is no pre-emption marker comes to an input of an element by a leg: it is caught (R374), waits, or enters the queue. -/
def enterInput (e : ElemId) (n : Nat) (k : Token) (outside : Bool) (hop : Nat) (s : State) : Option State :=
  let f := (s.tile e.tile).fabric
  let q := e.idx.toNat
  let x := f.elem q
  match x.reached with
  | some _ => some (modFabric e.tile (fun f => { f with caught := f.caught ++ [⟨e.idx, BitVec.ofNat 2 n, k, outside⟩] }) s)
  | none =>
    if f.caught.any fun c => c.elem = e.idx && c.inq.toNat = n then none
    else
      some (offerMarker e n k outside (modElem e (fun x => f.settle s.now q ((x.setHop n hop).setQueue n (x.queue n ++ [k]))) s))

/-- A token enters the edge queue of its route on a tile. -/
def enterEdge (u : TileId) (fl : Flight) (s : State) : State :=
  modFabric u (fun f =>
    if f.edges.any fun g => g.src = fl.src && g.port = fl.port && g.ctx = fl.ctx then
      { f with edges := f.edges.map fun g => if g.src = fl.src && g.port = fl.port && g.ctx = fl.ctx then { g with toks := g.toks ++ [fl] } else g }
    else { f with edges := f.edges ++ [⟨fl.src, fl.port, fl.ctx, [fl]⟩] }) s

/-- The `k`-th token on its way within a tile reaches the end of its leg. -/
def landFlight (t : TileId) (k : Nat) (fl : Flight) (s : State) : Option State :=
  let f := (s.tile t).fabric
  let pre := fl.tok.kind = .preempt
  if s.now < fl.due || (!pre && (f.flights.take k).any fun g => g.same fl && g.tok.kind ≠ .preempt) then none
  else
    let out := modFabric t (fun f => { f with flights := f.flights.eraseIdx k }) s
    match (s.flightLeg fl.sent t fl).1 with
    | .drop u c p => some (dropToken u c p fl out)
    | .cross u =>
      if pre then
        some (modFabric u (fun f => { f with flights := f.flights ++ [s.onLeg u fl] }) out)
      else if (s.tile u).snapped then none
      else some (enterEdge u fl out)
    | .arrive =>
      let e := gridElem t.quad fl.tx fl.ty
      if pre then some (markInput e fl.inq.toNat fl out) else enterInput e fl.inq.toNat fl.tok (fl.src.tile ≠ t) fl.hop out

/-- The first of the tokens that the stream engine holds for an input enters it (R370). -/
def landFeed (t : TileId) (k : Nat) (d : Feed) (s : State) : Option State :=
  let f := (s.tile t).fabric
  let e : ElemId := ⟨t, d.elem⟩
  let n := d.inq.toNat
  if (f.feeds.take k).any (fun g => g.elem = d.elem && g.inq = d.inq) || (f.elem d.elem.toNat).reached.isSome ||
     4 ≤ f.used d.elem.toNat n + f.owed (.input d.elem d.inq) s.now then none
  else enterInput e n d.tok false 1 (modFabric t (fun f => { f with feeds := f.feeds.eraseIdx k }) s)

/-- Whether a route of some tile's selected context feeds a queue of an element, no closed guard standing in between (R370, R371). -/
def State.routeFeeds (s : State) (e : ElemId) (n : Nat) : Bool :=
  (e.tile :: s.tiles.map (·.1)).any fun t =>
    t.quad = e.tile.quad &&
    match (s.tile t).fabric.selected with
    | none => false
    | some c => ((s.tile t).fabric.context c).routes.any fun (k, _) =>
      match s.flightOf ⟨t, BitVec.ofNat 8 (k / 4)⟩ (k % 4) c ⟨0, 0, .data⟩ with
      | some fl => fl.tx = gridX e && fl.ty = gridY e && fl.inq.toNat = n && s.routeDelivers fl
      | none => false

/-- The first caught token of an input is replayed into it (R376). -/
def landCaught (t : TileId) (k : Nat) (c : Caught) (s : State) : Option State :=
  let f := (s.tile t).fabric
  let q := c.elem.toNat
  let n := c.inq.toNat
  let x := f.elem q
  if x.ctx.isNone || x.reached.isSome || (f.caught.take k).any (fun d => d.elem = c.elem && d.inq = c.inq) ||
     (c.tok.slotted && 4 ≤ f.held q n) then none
  else
    let e : ElemId := ⟨t, c.elem⟩
    some (offerMarker e n c.tok c.outside
      (modFabric t (fun f => ({ f with caught := f.caught.eraseIdx k }).setElem q (f.settle s.now q (x.setQueue n (x.queue n ++ [c.tok])))) s))

/-- TOKEN_DELIVERY (R345, R370, R376): the `k`-th token on its way in a tile, counting after them the stream engine's tokens and the caught
ones. -/
def execTokenDelivery (t : TileId) (k : Nat) (st : State) : Out :=
  event st <|
    let v := st.tile t
    let f := v.fabric
    if !v.drains then none
    else match f.flights[k]? with
      | some fl => landFlight t k fl st
      | none =>
        let k := k - f.flights.length
        match f.feeds[k]? with
        | some d => if v.works then landFeed t k d st else none
        | none =>
          let k := k - f.feeds.length
          match f.caught[k]? with
          | some c => if v.works then landCaught t k c st else none
          | none => none

/-- EDGE_QUEUE_FORWARD (R346, R347): the head of the `k`-th edge queue of a tile goes on when the next queue has a free slot, and its own slot goes back
to its producer. -/
def execEdgeQueueForward (t : TileId) (k : Nat) (st : State) : Out :=
  event st <|
    let f := (st.tile t).fabric
    match f.edges[k]? with
    | some g =>
      match g.toks with
      | fl :: r =>
        if !(st.tile t).drains || (fl.tok.slotted && !st.room t fl 0) then none
        else
          let es := if r.isEmpty then f.edges.eraseIdx k else f.edges.set k { g with toks := r }
          let s := modFabric t (fun f => { f with edges := es, flights := f.flights ++ [st.onLeg t fl] }) st
          some (if fl.tok.slotted then giveBack t [⟨.edge fl.src fl.port fl.ctx, st.now + fl.hop⟩] s else s)
      | [] => none
    | none => none

/-! ### Memory operations -/

/-- Notes an operation as performed (R350). -/
def Fabric.noteDone (f : Fabric) (o : MemOp) : Fabric :=
  if o.plain then f
  else
    let w := f.wave o.ctx
    let old := if o.pred = 0 then w.done.filter (·.1 ≠ o.wave) else w.done
    let w : Waves := { cur := if o.succ = 0 then o.wave + 1 else w.cur, done := (o.wave, o.seq, o.succ) :: old }
    { f with waves := f.waves.setIfInBounds o.ctx w }

/-- The access of an operation (R349, R352): the value loaded, with the state after it, or the fault. -/
def opAccess (t : TileId) (o : MemOp) (s : State) : Except Flt (Nat × State) :=
  let ea : Addr := BitVec.ofNat 80 (twb + o.off)
  if o.noacc then .ok (0, s)
  else if o.off % Nat.max o.size 1 != 0 then .error ⟨cMisaligned, ea, 0⟩
  else match windowAddr (.tile t) ea (if o.load then .read else .write) s with
    | .error f => .error f
    | .ok p =>
      if o.load then
        match readPhys p o.size s with
        | .ok v => .ok (v, s)
        | .error f => .error { f with addr := ea }
      else
        let s := writePhys none p (leBytes o.size o.data.toNat) s
        .ok (0, if !o.plain then markFull p.loc o.size s
          else if (o.off + o.size) % 16 = 0 then markFull (p.loc.add (o.size - 1)) 1 s else s)

/-- The loaded value of an LDT goes to its destinations (R337, R338, R349), no sooner than 8 ac after the firing (R351). A part of the firing that was
made long ago stands before every later one. -/
def finishLoad (e : ElemId) (o : MemOp) (v : Nat) (s : State) : State :=
  let f : BitVec 4 := if o.size = 8 then 0 else o.tag
  let w := elemWord f v
  let at' := Nat.max s.now (o.due + 7)
  let ds := o.dests.map (·.toNat)
  let pushes := (ds.filter fun d => d < 4 || d = 6).map fun d => (BitVec.ofNat 4 d, (⟨w, o.tag, .data⟩ : Token))
  let writes := ds.filterMap fun d => if 8 ≤ d then some (d - 8, w) else none
  let late : List Firing :=
    (if pushes.isEmpty && writes.isEmpty then [] else [tailFiring o.entry o.ctx at' writes none pushes]) ++
    (if ds.contains 5 then [tailFiring o.entry o.ctx (at' + accLag (floatTag f)) [] (some (floatTag f, f, w)) []] else [])
  let store (p : MemOp) : MemOp := if ds.contains 4 && p.awaits = some o.id && p.elem = o.elem then { p with awaits := none, data := w } else p
  modFabric e.tile (fun g => { g with ops := g.ops.map store })
    (modElem e (fun x => { x with firings := late.map (fun g => { g with sure := true }) ++ x.firings }) s)

/-- WAVE_OPERATION_PERFORM (R349 to R352): the `k`-th operation of a tile's memory interface is performed, or held by its fault. -/
def execWaveOperationPerform (t : TileId) (k : Nat) (st : State) : Out :=
  event st <|
    let v := st.tile t
    match v.fabric.ops[k]? with
    | none => none
    | some o =>
      let e : ElemId := ⟨t, o.elem⟩
      if !v.drains || o.held || st.now < o.due || !v.fabric.ordered o then none
      else match opAccess t o st with
        | .error f =>
          some (elemFault e o.entry f.cause f.addr o.seq o.wave.toNat
            (modFabric t (fun g => { g with ops := g.ops.set k { o with held := true } }) st))
        | .ok (x, s) =>
          let s := modFabric t (fun g => { g with ops := g.ops.eraseIdx k }.noteDone o) s
          some (if o.load && !o.noacc then finishLoad e o x s else s)

/-! ### Context switches -/

/-- Whether every element outside the matrix region has switched (R367). -/
def Tile.phaseOver (v : Tile) : Bool := (List.range 256).all fun q => v.inMatrix q || (v.fabric.elem q).turned

/-- The record of the end of a context switch that a CFG.SEL began (R410). -/
def endTurn (t : TileId) (s : State) : State :=
  let f := (s.tile t).fabric
  match f.turning with
  | none => s
  | some (n, strip, pc) => traceEvent ⟨.tile t, f.selector⟩ 7 true n strip pc (modFabric t (fun f => { f with turning := none }) s)

/-- The phase ends: the decided context is the current one (R367). -/
def closePhase (t : TileId) (d : Nat) (s : State) : State :=
  endTurn t (modFabric t (fun f =>
    { f with
      waves := if f.selected = some d then f.waves.setIfInBounds d {} else f.waves
      selected := some d
      decided := none
      elems := f.elems.map fun (q, x) => (q, { x with turned := false, inject := false }) }) s)

/-- Sends a marker on every route of a context of an element. -/
def sendMarkers (e : ElemId) (ctx : Nat) (k : Token) (s : State) : State := (List.range 4).foldl (fun s p => sendToken e p ctx k s) s

/-- The output ports of a new context whose target has still to switch as an element switches to that context (R368): in a tile whose phase is open, an
element that has not switched; in another tile, one that runs another context. -/
def State.waitsFor (s : State) (e : ElemId) (new : Nat) : List (Nat × Nat) :=
  (List.range 4).filterMap fun p =>
    match s.flightOf e p new ⟨0, 0, .data⟩ with
    | none => none
    | some fl =>
      let d := gridElem e.tile.quad fl.tx fl.ty
      let y := s.elemAt d
      let open' := (s.tile d.tile).fabric.decided.isSome
      if d ≠ e && y.ctx.isSome && (if open' then !y.turned else y.ctx ≠ some new) && s.routeDelivers fl then some (p, y.turns) else none

/-- ELEMENT_CONTEXT_SWITCH (R368): the element's made firings are complete, and its marker condition holds. The offers of the cycle in which the
phase was decided are all in (R367). It fires from 32 ac after the cycle in which that condition came to hold. -/
def execElementContextSwitch (e : ElemId) (st : State) : Out :=
  event st <|
    let v := st.tile e.tile
    let q := e.idx.toNat
    let x := v.fabric.elem q
    match v.fabric.decided, x.ctx with
    | some d, some old =>
      let inm := (v.fabric.context old).inm q
      if !v.works || x.turned || st.now ≤ v.fabric.decidedAt.1 || x.status = .frozen || x.reached.isSome || !x.firings.isEmpty || v.fabric.ops.any (·.elem = e.idx) ||
         (if inm = 0 then !x.inject else !x.marked inm) then none
      else
        let x := (List.range 4).foldl (fun x n => if inm.testBit n then x.setQueue n ((x.queue n).drop 1) else x) x
        let s := sendMarkers e old ⟨BitVec.ofNat 64 d, 0, .marker⟩ st
        let s := modFabric e.tile (fun f =>
          f.setElem q (f.settle st.now q { x with ctx := some d, status := .running, start := Nat.max x.start (x.met.getD st.now + 32), turned := true,
                                                  inject := false, met := none, turns := x.turns + 1, waits := st.waitsFor e d })) s
        some (if (s.tile e.tile).phaseOver then closePhase e.tile d s else s)
    | _, _ => none

/-! ### Snapshots -/

/-- ELEMENT_SNAPSHOT (R374): a stopped element's last made firing has pushed, an LDT whose turn has come among them; it passes the marker on. -/
def execElementSnapshot (e : ElemId) (st : State) : Out :=
  event st <|
    let v := st.tile e.tile
    let x := v.fabric.elem e.idx.toNat
    let due := v.fabric.ops.any fun o => o.elem = e.idx && !o.held && v.fabric.ordered o
    if !v.drains || x.reached.isNone || x.sent || !x.firings.isEmpty || due then none
    else
      let s := modElem e (fun x => { x with sent := true }) st
      some (match x.ctx with
        | some c => sendMarkers e c ⟨0, 0, .preempt⟩ s
        | none => s)

/-- The inputs of an element that no marker has reached count as reached, and what is on its way to them is caught (R374). -/
def timeoutElem (e : ElemId) (s : State) : State :=
  let r := ((s.elemAt e).reached.getD 0)
  let s := modElem e (fun x => { x with reached := some 15 }) s
  (List.range 4).foldl (fun s n => if r.getLsbD n then s else catchInput e n s) s

/-- MARKER_TIMEOUT (R374): 4,096 ac after the injection. -/
def execMarkerTimeout (t : TileId) (st : State) : Out :=
  event st <|
    let v := st.tile t
    match v.fabric.snap with
    | none => none
    | some n =>
      if !v.drains || st.now < n + 4096 || v.snapped then none
      else some ((List.range 256).foldl (fun s q =>
        let e : ElemId := ⟨t, BitVec.ofNat 8 q⟩
        if v.inMatrix q || (v.fabric.elem q).ctx.isNone then s else timeoutElem e s) st)

/-! ### The stream-out port -/

/-- Sets the full bits of the granules that a stream-out binding has filled, and counts their bytes at its tag (R370). -/
def fillGranules (t : TileId) (ch : BitVec 6) (base : Nat) (gs : List Nat) (s : State) : State :=
  gs.foldl (fun s g => arrive t ch 16 (setFull t (base + 16 * g) 16 s)) s

/-- STREAM_OUT_TAKE (R370): the engine takes the first token of the port of the `k`-th binding, and writes its container. -/
def execStreamOutTake (t : TileId) (k : Nat) (st : State) : Out :=
  event st <|
    let v := st.tile t
    match v.fabric.bindings[k]? with
    | none => none
    | some b =>
      let e : ElemId := ⟨t, b.elem⟩
      let x := v.fabric.elem b.elem.toNat
      match x.strm with
      | [] => none
      | tok :: r =>
        if !b.out || !v.works || x.reached.isSome then none
        else
          let w := widthOf tok.tag
          let pos := if w = 4 then b.pos else b.pos + b.pos % 2
          let off := 16 * b.boff + pos / 2
          let next := pos + w / 4
          if 0x300000 < 16 * b.boff + (next + 1) / 2 then
            if x.status = .frozen then none
            else some (elemFault e 0 cAbsent (BitVec.ofNat 80 (twb + 0x1C000000 + off)) 0 0 st)
          else
            let s := modFabric t (fun f => ({ f with bindings := f.bindings.set k { b with pos := next } }).setElem b.elem.toNat { x with strm := r }) st
            let s := if w = 4 then writeNib ⟨.tmem t off, false, 0, false, none⟩ (pos % 2 = 1) tok.data.toNat s
              else writeTmem none t off (leBytes (w / 8) tok.data.toNat) s
            some (fillGranules t b.ch (16 * b.boff) (range (b.pos / 32) (next / 32)) s)

end Sys2Proof.Machine
end

