-- ==== Sys2Proof/Machine/FabricControl.lean ====
section
/-! DEFINITION. Fabric configuration: images and their checks (R353 to R358, R360), CFG.LOAD, CFG.CHECK and CFG.WR (R362 to R364), the configuration
port (R365), CFG.SEL (R366), CFG.BIND (R370), CFG.GUARD (R372), CFG.MARK, CFG.SAVE and CFG.REST (R374 to R378). -/

namespace Sys2Proof.Machine

open Sys2Proof

/-! ### Bytes of an area -/

/-- The little-endian number at an offset of a byte list. -/
def numAt (bs : List Byte) (off n : Nat) : Nat := leNat ((bs.drop off).take n)

/-- The size of a translation granule, within which an area of virtual addresses is contiguous. -/
def granuleSize : Nat := 2 ^ 17

/-- The places of `n` bytes from an address on, piece by piece (R361, R365). -/
def spanPlaces (g : Eng) (acc : Access) : Nat → Addr → Nat → State → Except (Option Flt) (List (Phys × Nat) × State)
  | 0, _, _, s => .ok ([], s)
  | k + 1, ea, n, s =>
    if n = 0 then .ok ([], s)
    else
      let m := Nat.min n (granuleSize - ea.toNat % granuleSize)
      match engPlace g ea acc m s with
      | .error f => .error f
      | .ok (p, s) =>
        if acc = .read && (s.poisoned p.loc m || s.reach p.loc = .lost) then .error (some ⟨cMachineCheck, ea, 0⟩)
        else match spanPlaces g acc k (ea + BitVec.ofNat 80 m) (n - m) s with
          | .error f => .error f
          | .ok (r, s) => .ok ((p, m) :: r, s)

/-- The pieces that an area of `n` bytes can have. -/
def spanFuel (n : Nat) : Nat := n / granuleSize + 2

/-- Reads an area. -/
def spanRead (g : Eng) (ea : Addr) (n : Nat) (s : State) : Except (Option Flt) (List Byte × State) :=
  match spanPlaces g .read (spanFuel n) ea n s with
  | .error f => .error f
  | .ok (ps, s) => .ok (ps.flatMap fun (p, m) => s.bytesAt p.loc m, s)

/-- Writes the pieces of an area. -/
def writePieces : List (Phys × Nat) → List Byte → State → State
  | [], _, s => s
  | (p, m) :: r, bs, s => writePieces r (bs.drop m) (writePhys none p (bs.take m) s)

/-- Writes an area, or nothing of it. -/
def spanWrite (g : Eng) (ea : Addr) (bs : List Byte) (s : State) : Except (Option Flt) State :=
  match spanPlaces g .write (spanFuel bs.length) ea bs.length s with
  | .error f => .error f
  | .ok (ps, s) => .ok (writePieces ps bs s)

/-! ### Tile sections (R354 to R357, R360) -/

/-- The length of a context block. -/
def blockLen : Nat := 102656

/-- The length of a save area (R377). -/
def areaLen (contexts caught : Nat) : Nat := (128 + blockLen * contexts + 98304 + 2048 + 16 * caught + 127) / 128 * 128

/-- The number of contexts that a mask names. -/
def maskCount (m : Nat) : Nat := ((List.range 4).filter m.testBit).length

/-- CTXM of a tile section. -/
def sectionCtxm (bs : List Byte) : Nat := field (numAt bs 0 64) 72 4

/-- The length of a tile section with some contexts. -/
def sectionLen (m : Nat) : Nat := 64 + blockLen * maskCount m

/-- The offset of the block of a context that a section or a save area holds. -/
def blockAt (base m c : Nat) : Nat := base + blockLen * maskCount (m % 2 ^ c)

/-- The result word of a refusal (R360). -/
def resultWord (code entry q ctx : Nat) : Nat := code + entry * 2 ^ 8 + q % 16 * 2 ^ 12 + q / 16 * 2 ^ 16 + ctx * 2 ^ 20

/-- Whether a tile header is valid for a mask (code 1). -/
def tileHeaderOk (bs : List Byte) (mask : Nat) : Bool :=
  let h := numAt bs 0 64
  field h 71 1 = 0 && field h 76 4 = 0 && field h 95 1 = 0 && field h 100 28 = 0 && field h 160 352 = 0 && mask &&& sectionCtxm bs = mask

/-- The bytes over which a section's CRC runs (R357). -/
def crcBytes (bs : List Byte) : List Byte :=
  bs.zipIdx.map fun (b, i) =>
    let o := (i - 64) % blockLen
    if 16 ≤ i && i < 20 then 0
    else if 64 ≤ i && 98304 ≤ o && o < 102400 then (if o % 4 = 0 then b &&& 1 else if o % 4 = 1 then b &&& 0xFC else b)
    else b

/-- Whether a trigger word is accepted for an instruction word (R47). A source select counts where the operation reads it (R49): the model's reading, log
entry 64. -/
def entryOk (iw : Parcel) (tw : Nat) : Bool :=
  let sh := elemShape (elOp iw).toNat
  let im := field tw 4 4
  let named (b : Bool) (sel : BitVec 4) : Bool := !b || 8 ≤ sel.toNat || im.testBit (sel.toNat % 4)
  field tw 8 8 &&& field tw 16 8 = field tw 8 8 && named sh.sa (elSa iw) && named sh.sb (elSb iw) && !(tw != 0 && elOp iw = 0)

/-- Whether a route field is valid (R355). -/
def routeOk (r : Nat) : Bool :=
  if r % 2 = 0 then r = 0
  else r < 2 ^ 20 && field r 1 4 != 8 && -8 ≤ signedField r 5 5 && signedField r 5 5 ≤ 8

/-- Entry `e` of element `q` in a block: instruction word, trigger word, byte 7. -/
def blockEntry (bs : List Byte) (at' q e : Nat) : Nat := numAt bs (at' + 128 * q + 8 * e) 8

/-- The route field of port `p` of element `q` in a block. -/
def blockRoute (bs : List Byte) (at' q p : Nat) : Nat := numAt bs (at' + 98304 + 16 * q + 4 * p) 4

/-- The control byte of element `q` in a block. -/
def blockCtl (bs : List Byte) (at' q : Nat) : Nat := numAt bs (at' + 102400 + q) 1

/-- The first rejected entry of a block (code 3). -/
def badEntryAt (bs : List Byte) (at' : Nat) : Option (Nat × Nat) :=
  (List.range 256).findSome? fun q => (List.range 16).findSome? fun e =>
    let w := blockEntry bs at' q e
    if w / 2 ^ 56 != 0 || !entryOk (BitVec.ofNat 32 w) (field w 32 24) then some (q, e) else none

/-- The first invalid route field or control byte of a block (code 4). -/
def badRouteAt (bs : List Byte) (at' : Nat) : Option (Nat × Nat) :=
  (List.range 256).findSome? fun q =>
    match (List.range 4).find? fun p => !routeOk (blockRoute bs at' q p) with
    | some p => some (q, p)
    | none => if 16 ≤ blockCtl bs at' q then some (q, 4) else none

/-- The directed segments that a route uses within its tile (R355, R356). -/
def segments (tx ty : Int) : Nat → Int → Int → List (Int × Int × Nat)
  | 0, _, _ => []
  | n + 1, x, y =>
    if (x = tx && y = ty) || x < 0 || 16 ≤ x || y < 0 || 16 ≤ y then []
    else if x < tx then (x, y, 1) :: segments tx ty n (x + 1) y
    else if tx < x then (x, y, 3) :: segments tx ty n (x - 1) y
    else if y < ty then (x, y, 2) :: segments tx ty n x (y + 1)
    else (x, y, 0) :: segments tx ty n x (y - 1)

/-- The first route of a block, in ascending element and port, that shares a segment or a queue with an earlier one (code 5). -/
def clashAt (bs : List Byte) (at' : Nat) : Option (Nat × Nat) :=
  let step (a : List (Int × Int × Nat) × List (Int × Int × Nat) × Option (Nat × Nat)) (q p : Nat) :=
    let r := blockRoute bs at' q p
    if r % 2 = 0 || a.2.2.isSome then a
    else
      let tx := 16 * signedField r 1 4 + field r 10 4
      let ty := 16 * signedField r 5 5 + field r 14 4
      let segs := segments tx ty 32 (q % 16 : Nat) (q / 16 : Nat)
      let goal := (tx, ty, field r 18 2)
      if segs.any a.1.contains || a.2.1.contains goal then (a.1, a.2.1, some (q, p)) else (segs ++ a.1, goal :: a.2.1, none)
  ((List.range 256).foldl (fun a q => (List.range 4).foldl (fun a p => step a q p) a) ([], [], none)).2.2

/-- The first finding of a check over the contexts of a section, with its code. -/
def findIn (m : Nat) (code : Nat) (f : Nat → Option (Nat × Nat)) : Option Nat :=
  (List.range 4).findSome? fun c => if m.testBit c then (f (blockAt 64 m c)).map fun (q, e) => resultWord code e q c else none

/-- The result of the checks of a section (R363): codes 1, 2, 6, 3, 4, 5 in that order; 0 where it is accepted. -/
def sectionResult (bs : List Byte) (mask : Nat) (verified : Bool) : Nat :=
  let m := sectionCtxm bs
  if !tileHeaderOk bs mask then 1
  else if (crc32c (crcBytes bs)).toNat != numAt bs 16 4 then 2
  else if !verified then 6
  else ((findIn m 3 (badEntryAt bs)).orElse fun _ => (findIn m 4 (badRouteAt bs)).orElse fun _ => findIn m 5 (clashAt bs)).getD 0

/-- A context as a block holds it. -/
def blockContext (bs : List Byte) (at' : Nat) : Ctx where
  loaded := true
  entries := ((List.range 4096).map fun n => (n, BitVec.ofNat 56 (numAt bs (at' + 8 * n) 8))).filter (·.2 != 0)
  lits := ((List.range 8192).map fun n => (n, BitVec.ofNat 64 (numAt bs (at' + 32768 + 8 * n) 8))).filter (·.2 != 0)
  routes := ((List.range 1024).map fun n => (n, BitVec.ofNat 32 (numAt bs (at' + 98304 + 4 * n) 4))).filter (·.2 != 0)
  ctl := ((List.range 256).map fun n => (n, BitVec.ofNat 8 (numAt bs (at' + 102400 + n) 1))).filter (·.2 != 0)

/-- The block of a context. -/
def Ctx.block (c : Ctx) : List Byte :=
  (List.range 4096).flatMap (fun n => leBytes 8 ((amGet n c.entries).getD 0).toNat) ++
  (List.range 8192).flatMap (fun n => leBytes 8 ((amGet n c.lits).getD 0).toNat) ++
  (List.range 1024).flatMap (fun n => leBytes 4 ((amGet n c.routes).getD 0).toNat) ++
  (List.range 256).map (fun n => (amGet n c.ctl).getD 0)

/-- Loads the named contexts of an area (R363, R378). -/
def loadBlocks (bs : List Byte) (base present mask : Nat) (f : Fabric) : Fabric :=
  (List.range 4).foldl (fun f c => if mask.testBit c then f.setContext c (blockContext bs (blockAt base present c)) else f) f

/-! ### Guards (R371, R372) -/

/-- Whether hardware holds the whole guard of a tile edge closed, a matrix region's boundary included. -/
def State.edgeClosed (s : State) (t : TileId) (side : Nat) : Bool :=
  let r := (s.tile t).region
  s.edgeHeld t side || r = 1 || (r = 2 && side = 3) || (r = 3 && side = 1)

/-- Sets every guard that hardware does not hold closed, from the end of this cycle on (R372). -/
def setGuards (t : TileId) (gcol : BitVec 15) (gedge : BitVec 4) (s : State) : State :=
  let v := s.tile t
  let pick {n : Nat} (held : Nat → Bool) (old new : BitVec n) : BitVec n :=
    BitVec.ofNat n (((List.range n).map fun k => if (if held k then old else new).getLsbD k then 2 ^ k else 0).sum)
  modFabric t (fun f =>
    { f with
      gcol := pick v.columnHeld f.gcol gcol
      gedge := pick (s.edgeClosed t) f.gedge gedge
      was := (f.was.filter fun w => s.now < w.1 + 64) ++ [(s.now, f.gcol, f.gedge)] }) s

/-- The effective state of a tile's guards. -/
def State.guards (s : State) (t : TileId) : Nat :=
  let v := s.tile t
  ((List.range 15).map fun c => if v.columnHeld c || v.fabric.gcol.getLsbD c then 2 ^ c else 0).sum +
  ((List.range 4).map fun d => if s.edgeClosed t d || v.fabric.gedge.getLsbD d then 2 ^ (16 + d) else 0).sum

/-! ### Selection -/

/-- A fabric with no selected context and no snapshot: its elements keep their k and b registers and complete their firings without tokens. -/
def Fabric.bare (f : Fabric) : Fabric :=
  let op (o : MemOp) : MemOp := { o with dests := o.dests.filter fun d => !(d.toNat < 4 || d = 6) }
  { f with
    selected := none, decided := none, caught := [], snap := none
    ops := f.ops.map op
    elems := f.elems.map fun (q, x) => (q,
      { x with ins := Vector.replicate 4 [], strm := [], status := .idle, ctx := none, reached := none, sent := false, inject := false,
               turned := false, waits := [], met := none,
               firings := x.firings.map fun g => { g with taken := [], pushes := [], turn := none, mems := g.mems.map op } }) }

/-- Deselects a tile's fabric (R366 OFF): every token is discarded, k and b registers are kept, firings complete without their tokens. -/
def deselect (t : TileId) (s : State) : State :=
  endTurn t (modFabric t (fun f => { f.bare with flights := [], edges := [], credits := [] }) s)

/-- A context becomes selected at once on every element outside a matrix region (R366). -/
def selectNow (t : TileId) (n : Nat) (slot : BitVec 3) (start : Nat) (s : State) : State :=
  s.modTile t fun v =>
    let f := v.fabric.mapElems fun q x =>
      if v.inMatrix q then x
      else
        let y := { x with ctx := some n, status := .running, start := start, reached := none, sent := false, inject := false, turned := false,
                          turns := x.turns + 1, waits := [], met := none }
        { v.fabric with elems := [] }.settle s.now q y
    { v with fabric := { f with selected := some n, decided := none, selector := slot, waves := f.waves.setIfInBounds n {} } }

/-- Injects reconfiguration markers at every source of a tile (R366): elements that await no marker are to switch; at a binding-fed input a marker
enters the queue, unless the element has switched or a marker stands there already. -/
def injectMarkers (t : TileId) (d : Nat) (s : State) : State :=
  modFabric t (fun f =>
    let f : Fabric := { f with elems := f.elems.map fun (q, x) =>
      match x.ctx with
      | some c => if (f.context c).inm q = 0 && !x.turned then (q, x.injected s.now) else (q, x)
      | none => (q, x) }
    f.bindings.foldl (fun f b =>
      let q := b.elem.toNat
      let n := b.inq.toNat
      let x := f.elem q
      if b.out || x.ctx.isNone || x.turned || (x.queue n).any (·.kind = .marker) then f
      else f.setElem q (f.settle s.now q (x.setQueue n (x.queue n ++ [⟨BitVec.ofNat 64 d, 0, .marker⟩])))) f) s

/-- FABRIC_STATE with a detail code (R361). -/
def fabricStop (t : Strand) (code : Nat) : Except Stop State := .error (preciseStop t ⟨cFabricState, 0, BitVec.ofNat 64 code⟩)

/-- The frame of the fabric instructions (R84): a control core has none, and a trap at issue names no engine instruction in TVPC (R387). -/
def issueFabric (xs : List (BitVec 5)) (body : TileId → StrandId → Strand → State → Except Stop State) (st : State) : Out :=
  issue st one (onTile xs body)

/-- The tile's prior status (R366). -/
def Tile.fabricStatus (v : Tile) : Nat :=
  let f := v.fabric
  f.selected.getD 0 + (if f.selected.isNone then 4 else 0) + (if f.decided.isSome then 8 else 0) +
  ((List.range 4).map fun c => if (f.context c).loaded then 2 ^ (4 + c) else 0).sum +
  (f.elems.filter (·.2.status = .frozen)).length * 2 ^ 8 + (if v.snapped then 2 ^ 17 else 0)

/-- A held snapshot ends (R376): the elements go on, with the markers on their way to them gone and every producer's credit reset. -/
def endSnapshot (t : TileId) (s : State) : State :=
  modFabric t (fun f =>
    { f with
      snap := none
      credits := if f.snap.isSome then [] else f.credits
      flights := f.flights.filter fun g => !(g.tok.kind = .preempt && gridTile t.quad g.tx g.ty = t)
      elems := f.elems.map fun (q, x) => (q, { x with reached := none, sent := false }) }) s

/-- RESUME (R366, R376): frozen elements run, held operations are reissued, and a held snapshot resumes. -/
def resumeFabric (t : TileId) (s : State) : State :=
  modFabric t (fun f =>
    { f with
      ops := f.ops.map fun o => { o with held := false }
      elems := f.elems.map fun (q, x) => (q, { x with status := if x.status = .frozen then .running else x.status }) }) (endSnapshot t s)

/-- CFG.SEL (R366). -/
def execCfgSel (d s : BitVec 5) (st : State) : Out :=
  issueFabric [d, s] (fun u i t st =>
    let x := (t.xr s).toNat
    let v := st.tile u
    let n := x % 4
    if x / 2 ^ 5 != 0 then fabricStop t 1
    else if v.region = 1 then fabricStop t 6
    else
      let done (st : State) : Except Stop State := .ok (noteBoth i t (st.setX i d (BitVec.ofNat 64 v.fabricStatus)))
      if x.testBit 4 then done st
      else if x.testBit 2 then done (deselect u st)
      else if x.testBit 3 && v.fabric.selected = some n then done (resumeFabric u st)
      else if !(v.fabric.context n).loaded then fabricStop t 3
      else match v.fabric.selected with
        | none => done (selectNow u n i.slot (st.now + 32) st)
        | some c =>
          if c = n then done st
          else
            let wins := v.fabric.decides 0 st.now
            let st := offer u 0 n st
            let st := if wins then modFabric u (fun f => { f with selector := i.slot, turning := some (t.issued, t.strip, t.pc) })
                (traceEvent i 7 false t.issued t.strip t.pc st)
              else st
            done (injectMarkers u (((st.tile u).fabric.decided).getD n) st)) st

/-- CFG.GUARD (R372). -/
def execCfgGuard (d s : BitVec 5) (st : State) : Out :=
  issueFabric [d, s] (fun u i t st =>
    let x := (t.xr s).toNat
    if field x 15 1 != 0 || field x 20 11 != 0 || x / 2 ^ 32 != 0 then fabricStop t 1
    else
      let st := if x.testBit 31 then setGuards u (BitVec.ofNat 15 x) (BitVec.ofNat 4 (x / 2 ^ 16)) st else st
      .ok (noteBoth i t (st.setX i d (BitVec.ofNat 64 (st.guards u))))) st

/-- UNBIND (R370): the binding goes at once, and with a stream-out binding the tokens of its port that have not been taken. -/
def Fabric.unbind (f : Fabric) (out : Bool) (ch : BitVec 6) : Fabric :=
  let same (b : Binding) : Bool := b.out = out && b.ch = ch
  let gone := f.bindings.filter same
  { f with
    bindings := f.bindings.filter (!same ·)
    elems := f.elems.map fun (q, x) => (q, if out && gone.any (·.elem.toNat = q) then { x with strm := [] } else x) }

/-- CFG.BIND (R370). -/
def execCfgBind (s t : BitVec 5) (st : State) : Out :=
  issueFabric [s, t] (fun u i r st =>
    let x := (r.xr s).toNat
    let y := (r.xr t).toNat
    let out := x.testBit 10
    let q := x % 256
    let ch := BitVec.ofNat 6 y
    let f := (st.tile u).fabric
    let same (b : Binding) : Bool := b.out = out && b.ch = ch
    if x / 2 ^ 12 != 0 || field y 6 2 != 0 || y / 2 ^ 32 != 0 || (!out && y / 2 ^ 8 != 0) then fabricStop r 1
    else if x.testBit 11 then
      if f.bindings.any same then .ok (noteBoth i r (modFabric u (·.unbind out ch) st)) else fabricStop r 5
    else if f.bindings.any same || 8 ≤ (f.bindings.filter (·.out = out)).length || (!out && st.routeFeeds ⟨u, BitVec.ofNat 8 q⟩ (field x 8 2)) then
      fabricStop r 5
    else
      .ok (noteBoth i r (modFabric u (fun f =>
        { f with bindings := f.bindings ++ [⟨BitVec.ofNat 8 q, BitVec.ofNat 2 (x / 2 ^ 8), out, ch, y / 2 ^ 8, 0⟩] }) st))) st

/-! ### Single writes -/

/-- Whether a context is one that elements of the tile run or are to run. -/
def Fabric.inUse (f : Fabric) (c : Nat) : Bool := f.selected = some c || f.decided = some c

/-- CFG.WR's checks and write (R364): the result word and the fabric. -/
def writeItem (f : Fabric) (x : Nat) (d : Nat) : Nat × Fabric :=
  let q := field d 0 8
  let c := field d 8 2
  let kind := field d 10 2
  let n := field d 12 5
  let ctx := f.context c
  let put (k : Ctx) : Nat × Fabric := (0, f.setContext c { k with loaded := true })
  match kind with
  | 0 =>
    if x / 2 ^ 56 != 0 || !entryOk (BitVec.ofNat 32 x) (field x 32 24) then (resultWord 3 n q c, f)
    else put { ctx with entries := amSet (16 * q + n) (BitVec.ofNat 56 x) ctx.entries }
  | 1 => put { ctx with lits := amSet (32 * q + n) (BitVec.ofNat 64 x) ctx.lits }
  | 2 =>
    if f.inUse c then (resultWord 10 n q c, f)
    else if x / 2 ^ 32 != 0 || !routeOk x then (resultWord 4 n q c, f)
    else put { ctx with routes := amSet (4 * q + n) (BitVec.ofNat 32 x) ctx.routes }
  | _ =>
    if f.inUse c then (resultWord 10 4 q c, f)
    else if 16 ≤ x then (resultWord 4 4 q c, f)
    else put { ctx with ctl := amSet q (BitVec.ofNat 8 x) ctx.ctl }

/-- Whether a write descriptor is malformed (R364). -/
def descriptorBad (d : Nat) : Bool :=
  let n := field d 12 5
  d / 2 ^ 17 != 0 ||
  match field d 10 2 with
  | 0 => decide (16 ≤ n)
  | 1 => false
  | 2 => decide (4 ≤ n)
  | _ => n != 0

/-- Notes a context as it stood before the writes of a cycle (R341). -/
def Fabric.remember (f : Fabric) (now n : Nat) (old : Ctx) : Fabric :=
  let l := if f.before.1 = now then f.before.2 else []
  { f with before := (now, if (amGet n l).isSome then l else amSet n old l) }

/-- CFG.WR (R341, R362, R364): what fires in the cycle of the write uses the item as it stood before. -/
def execCfgWr (d s t : BitVec 5) (st : State) : Out :=
  issueFabric [d, s, t] (fun u i r st =>
    let x := (r.xr s).toNat
    let y := (r.xr t).toNat
    if r.level = .U && (st.quad u.quad).reqsig then .error (preciseStop r ⟨cPrivilege, 0, 0⟩)
    else if descriptorBad y then fabricStop r 1
    else
      let c := field y 8 2
      let old := (st.tile u).fabric
      let (code, f) := writeItem old x y
      let f := if code = 0 then f.remember st.now c (old.context c) else f
      .ok (noteBoth i r ((modFabric u (fun _ => f) st).setX i d (BitVec.ofNat 64 code)))) st

/-! ### Images -/

/-- Whether an image header is valid (R353). -/
def imageHeaderOk (h : Nat) : Bool :=
  let nt := (field h 40 3 + 1) * (field h 43 4 + 1)
  let slen := sectionLen (field h 48 4)
  field h 0 32 = 0x43474649 && field h 32 8 = 1 && field h 43 4 ≤ 8 && field h 47 1 = 0 && field h 48 4 != 0 && field h 52 4 = 0 && field h 58 6 = 0 &&
  field h 256 256 = 0 && field h 64 32 = nt && field h 96 32 = slen && field h 128 32 = 64 + nt * slen && field h 160 32 = 64 + nt * slen + 4627

/-- Whether some page of an area is writable at level U in a view (R362). -/
def pageWritable (x : Xl) : Nat → Addr → Nat → State → Bool
  | 0, _, _, _ => false
  | k + 1, ea, n, s =>
    if n = 0 then false
    else
      let m := Nat.min n (granuleSize - ea.toNat % granuleSize)
      (match translate x ea .write s with | .ok _ => true | .error _ => false) || pageWritable x k (ea + BitVec.ofNat 80 m) (n - m) s

/-- The signature check of an image's bytes with the key of its slot (R358): code 8, 7 or 0. -/
def signatureResult (key : Option (List Byte)) (bs : List Byte) (soff : Nat) : Nat :=
  match key with
  | none => 8
  | some key =>
    let sig := bs.drop soff
    if sig.all (· = 0) || !mlDsaVerify key (sha3 (bs.take soff)) sig then 7 else 0

/-- Enters an image into the quadrant's verified-image table: 16 entries, the oldest replaced (R362). -/
def enterVerified (q : BitVec 2) (x : Verified) (s : State) : State :=
  s.modQuad q fun d => { d with verified := (d.verified ++ [x]).drop (d.verified.length - 15) }

/-- Whether a load of a section is verified (R362). -/
def State.sectionVerified (s : State) (q : BitVec 2) (lvl : Level) (ctx : BitVec 16) (base len : Nat) (id : Word) : Bool :=
  let d := s.quad q
  !d.reqsig || d.verified.any fun v => v.imgid = id && (lvl != .U || (v.ctx = ctx && v.base ≤ base && base + len ≤ v.base + v.len))

/-- The length of an area whose header says it (R361): the header is read, as the strand's earlier stores leave it. -/
def headLength (n : Nat) (len : Nat → Nat) (i : StrandId) (t : Strand) (ea : Addr) (st : State) : Except Stop (Nat × State) :=
  match recordAt i t ea n false st with
  | .error e => .error e
  | .ok (p, st) =>
    match recordBits t p ea n st with
    | .error e => .error e
    | .ok h => .ok (Nat.max n (len h), st)

/-- The length of the save area that a fabric needs: with a complete snapshot the whole of it, and else at least, with no token caught yet. -/
def saveLength (i : StrandId) (_ : Strand) (_ : Addr) (st : State) : Except Stop (Nat × State) :=
  match i.core with
  | .tile u =>
    let v := st.tile u
    .ok (areaLen (v.fabric.ctxs.toList.filter (·.loaded)).length (if v.snapped then v.fabric.caught.length else 0), st)
  | .control _ => .ok (0, st)

/-- The frame of CFG.LOAD, CFG.CHECK, CFG.SAVE and CFG.REST (R361): alignment and the translation of every page of the area first, then the operation's
own checks, and the strand is Blocked. -/
def issueArea (xs : List (BitVec 5)) (a : BitVec 4) (align : Nat) (acc : Access)
    (len : StrandId → Strand → Addr → State → Except Stop (Nat × State)) (own : TileId → Strand → State → Option Nat)
    (w : TileId → Strand → Addr → State → Wait) (after : TileId → StrandId → Strand → State → State) (st : State) : Out :=
  issueFabric xs (fun u i t st =>
    let ea := t.ar a
    if t.acquiring then .error .stall
    else if ea.toNat % align != 0 then .error (preciseStop t ⟨cMisaligned, ea, 0⟩)
    else match len i t ea st with
      | .error e => .error e
      | .ok (n, st) =>
        match checkPlaces i t acc (pageStarts ea n) st with
        | .error e => .error e
        | .ok st =>
          match own u t st with
          | some code => fabricStop t code
          | none => .ok (block i t (w u t ea st) (after u i t (traceEvent i 0 false t.issued t.strip t.pc st)))) st

/-- The record on pipe 7 of the start of an operation (R410). -/
def beginFabric (_ : TileId) (i : StrandId) (t : Strand) (s : State) : State := traceEvent i 7 false t.issued t.strip t.pc s

/-- The end of a blocked operation: its result, its records, and the strand runs on. `p7` tells whether it used pipe 7. -/
def endArea (i : StrandId) (d : BitVec 5) (p7 : Bool) (v : Nat) (s : State) : State :=
  let t := s.strand i
  let s := noteWoken i s
  let s := if p7 then traceEvent i 7 true (t.issued - 1) t.strip t.pc s else s
  (unblock i one s).setX i d (BitVec.ofNat 64 v)

/-- A fault that a blocked operation meets is precise (R361): its entry takes the issue slot, once that is free (R87). -/
def trapArea (i : StrandId) (f : Flt) (s : State) : Option State :=
  if s.slotOpen i.core then some (lone i.core (takeTrap i (preciseRec (s.strand i) f) s)) else none

/-- Whether an area read must wait for the strand's own earlier stores. -/
def areaHeld (i : StrandId) (ps : List (Phys × Nat)) (s : State) : Bool :=
  engineHeld (!(s.strand i).held) i ((s.strand i).issued - 1) none (ps.map fun (p, m) => (p.loc, m)) [] s

/-- Reads an area for a blocked strand, after its own earlier stores. -/
def areaRead (i : StrandId) (g : Eng) (ea : Addr) (n : Nat) (s : State) : Except (Option Flt) (List Byte × State) :=
  match spanPlaces g .read (spanFuel n) ea n s with
  | .error f => .error f
  | .ok (ps, s) => if areaHeld i ps s then .error none else .ok (ps.flatMap fun (p, m) => s.bytesAt p.loc m, s)

/-- An operation of a blocked strand whose outcome is a wait, a trap or a state. -/
def areaEnd (i : StrandId) (st : State) (r : Except (Option Flt) State) : Option State :=
  match r with
  | .ok s => some s
  | .error none => none
  | .error (some f) => trapArea i f st

/-- The engine that reads and writes areas for a strand. -/
def areaEng (u : TileId) (i : StrandId) (s : State) : Eng := engineOf u i.slot (s.strand i).level none s

/-- CFG.CHECK (R362). -/
def execCfgCheck (d : BitVec 5) (s : BitVec 4) (st : State) : Out :=
  issueArea [d] s 64 .read (headLength 64 fun h => if imageHeaderOk h then field h 160 32 else 0) (fun _ _ _ => none) 
    (fun u _ ea st => .cfgCheck d ea (st.quad u.quad).keys) (fun _ _ _ s => s) st

/-- The check of an image at an address for a strand, with the keys as they stood when it began (R405): the result, with the table's new entry
(R362). -/
def checkImage (u : TileId) (i : StrandId) (ea : Addr) (keys : Keys) (s : State) : Except (Option Flt) (Nat × State) :=
  let g := areaEng u i s
  match areaRead i g ea 64 s with
  | .error f => .error f
  | .ok (hb, s) =>
    let h := leNat hb
    let ilen := field h 160 32
    let soff := field h 128 32
    let key := keys.slot (field h 56 2)
    if !imageHeaderOk h then .ok (1, s)
    else if g.xl.level = .U && pageWritable g.xl (spanFuel ilen) ea ilen s then .ok (9, s)
    else if key.isNone then .ok (8, s)
    else match areaRead i g ea ilen s with
      | .error f => .error f
      | .ok (bs, s) =>
        let code := signatureResult key bs soff
        .ok (code, if code = 0 then enterVerified u.quad ⟨BitVec.ofNat 64 (field h 192 64), ea.toNat, ilen, (s.strand i).ctxcur⟩ s else s)

/-- CFG_CHECK_DONE (R362). -/
def execCfgCheckDone (i : StrandId) (st : State) : Out :=
  event st <|
    match (st.strand i).status, i.core with
    | .blocked (.cfgCheck d ea keys), .tile u =>
      areaEnd i st (match checkImage u i ea keys st with
        | .error f => .error f
        | .ok (code, s) => .ok (endArea i d false code s))
    | _, _ => none

/-- CFG.LOAD (R363). -/
def execCfgLoad (d : BitVec 5) (s : BitVec 4) (t : BitVec 5) (st : State) : Out :=
  issueArea [d, t] s 64 .read (headLength 64 fun h => sectionLen (field h 72 4))
    (fun u r st =>
      let m := (r.xr t).toNat
      if m / 16 != 0 || m = 0 then some 1
      else if (List.range 4).any fun c => m.testBit c && (st.tile u).fabric.inUse c then some 2 else none)
    (fun _ r ea _ => .cfgLoad d ea ((r.xr t).setWidth 4)) beginFabric st

/-- Writes what an accepted section holds (R363). -/
def acceptSection (u : TileId) (bs : List Byte) (mask : Nat) (s : State) : State :=
  let h := numAt bs 0 64
  setGuards u (BitVec.ofNat 15 (field h 80 15)) (BitVec.ofNat 4 (field h 96 4)) (modFabric u (loadBlocks bs 64 (sectionCtxm bs) mask) s)

/-- The section at an address: its header says how long it is. -/
def readSection (i : StrandId) (g : Eng) (ea : Addr) (s : State) : Except (Option Flt) (List Byte × State) :=
  match areaRead i g ea 64 s with
  | .error f => .error f
  | .ok (hb, s) => areaRead i g ea (sectionLen (sectionCtxm hb)) s

/-- CFG_LOAD_DONE (R363). -/
def execCfgLoadDone (i : StrandId) (st : State) : Out :=
  event st <|
    match (st.strand i).status, i.core with
    | .blocked (.cfgLoad d ea mask), .tile u =>
      areaEnd i st (match readSection i (areaEng u i st) ea st with
        | .error f => .error f
        | .ok (bs, s) =>
          let t := s.strand i
          let verified := s.sectionVerified u.quad t.level t.ctxcur ea.toNat bs.length (BitVec.ofNat 64 (numAt bs 0 8))
          let code := sectionResult bs mask.toNat verified
          .ok (endArea i d true code (if code = 0 then acceptSection u bs mask.toNat s else s)))
    | _, _ => none

/-! ### Snapshots and save areas -/

/-- Pre-emption markers are injected at every source of a tile (R366, R374, R376). -/
def markTile (u : TileId) (s : State) : State :=
  s.modTile u fun v =>
    let f := v.fabric
    let hit (q n : Nat) (f : Fabric) : Fabric :=
      let x := f.elem q
      if v.inMatrix q || x.ctx.isNone then f else f.setElem q { x with reached := some ((x.reached.getD 0) ||| (BitVec.ofNat 4 n)) }
    let f := (List.range 256).foldl (fun f q =>
      match (f.elem q).ctx with
      | some c => if (f.context c).inm q = 0 then hit q 0 f else f
      | none => f) f
    let f := f.bindings.foldl (fun f b => if b.out then f else hit b.elem.toNat (2 ^ b.inq.toNat) f) f
    { v with fabric := { f with snap := some s.now } }

/-- CFG.MARK (R376). -/
def execCfgMark (st : State) : Out :=
  issueFabric [] (fun u i t st =>
    let f := (st.tile u).fabric
    if f.selected.isNone then fabricStop t 4
    else .ok (noteBoth i t (if f.snap.isSome then st else markTile u st))) st

/-- CFG.SAVE (R377). -/
def execCfgSave (d : BitVec 5) (s : BitVec 4) (st : State) : Out :=
  issueArea [d] s 128 .write saveLength
    (fun u _ st => let f := (st.tile u).fabric; if f.selected.isNone && f.snap.isNone then some 4 else none)
    (fun u _ ea st => .cfgSave d ea (st.tile u).fabric.snap.isNone)
    (fun u i t s => beginFabric u i t (if (s.tile u).fabric.snap.isSome then s else markTile u s)) st

/-- Fields of given widths, packed from bit 0 on. -/
def pack : List (Nat × Nat) → Nat
  | [] => 0
  | (w, v) :: r => v % 2 ^ w + pack r * 2 ^ w

/-- The values of packed fields. -/
def unpack : List Nat → Nat → List Nat
  | [], _ => []
  | w :: r, v => v % 2 ^ w :: unpack r (v / 2 ^ w)

/-- An optional number as one number. -/
def optNat (o : Option Nat) : Nat := match o with | none => 0 | some n => n + 1

/-- The converse. -/
def natOpt (n : Nat) : Option Nat := if n = 0 then none else some (n - 1)

/-- A Bool as a number. -/
def bitNat (b : Bool) : Nat := if b then 1 else 0

/-- A token in nine bytes. -/
def Token.bytes (k : Token) : List Byte := leBytes 8 k.data.toNat ++ leBytes 1 (k.tag.toNat + k.kind.code * 16)

/-- The kind of a code. -/
def kindOf (n : Nat) : TokKind := if n = 0 then .data else if n = 1 then .control else if n = 2 then .marker else .preempt

/-- A token from nine bytes. -/
def tokenAt (bs : List Byte) (off : Nat) : Token :=
  let b := numAt bs (off + 8) 1
  ⟨BitVec.ofNat 64 (numAt bs off 8), BitVec.ofNat 4 b, kindOf (b / 16 % 4)⟩

/-- The code of an element's status. -/
def EStatus.code : EStatus → Nat
  | .idle => 0
  | .running => 1
  | .halted => 2
  | .frozen => 3

/-- The status of a code. -/
def statusOf (n : Nat) : EStatus := if n = 0 then .idle else if n = 1 then .running else if n = 2 then .halted else .frozen

/-- An element's state in 384 bytes (R377; the layout is the model's own): `outs` are the inputs whose caught tokens came from another tile. -/
def Elem.save (x : Elem) (outs : Nat) : List Byte :=
  let waits := ((List.range 4).filter fun p => x.waits.any (·.1 = p)).foldl (fun n p => n + 2 ^ p) 0
  fitBytes 384 (x.k.toList.flatMap (fun k => leBytes 8 k.toNat) ++ leBytes 1 x.b.toNat ++
    leBytes 1 (pack [(2, x.status.code), (3, optNat x.ctx), (1, bitNat x.inject), (1, bitNat x.turned)]) ++
    x.ins.toList.flatMap (fun l => leBytes 1 (Nat.min 6 l.length)) ++ leBytes 2 x.strm.length ++
    x.ins.toList.flatMap (fun l => fitBytes 54 (l.flatMap Token.bytes)) ++ fitBytes 36 (x.strm.flatMap Token.bytes) ++ leBytes 1 (outs + 16 * waits))

/-- The converse, at an offset of an area; elements fire again from a time on. An element that has turned has had a context more than one that has not. -/
def loadElem (bs : List Byte) (at' start : Nat) : Elem :=
  let fl := unpack [2, 3, 1, 1] (numAt bs (at' + 65) 1)
  let ports := numAt bs (at' + 324) 1 / 16
  { k := Vector.ofFn fun n => BitVec.ofNat 64 (numAt bs (at' + 8 * n.val) 8)
    b := BitVec.ofNat 8 (numAt bs (at' + 64) 1)
    status := statusOf (fl.getD 0 0)
    ctx := natOpt (fl.getD 1 0)
    inject := fl.getD 2 0 = 1
    turned := fl.getD 3 0 = 1
    turns := 1 + fl.getD 3 0
    waits := ((List.range 4).filter ports.testBit).map fun p => (p, 0)
    ins := Vector.ofFn fun n => (List.range (numAt bs (at' + 66 + n.val) 1)).map fun m => tokenAt bs (at' + 72 + 54 * n.val + 9 * m)
    strm := (List.range (numAt bs (at' + 70) 2)).map fun m => tokenAt bs (at' + 288 + 9 * m)
    start := start }

/-- The widths of a saved memory operation's fields. -/
def opWidths : List Nat := [8, 4, 2, 1, 1, 1, 17, 16, 16, 8, 8, 8, 29, 4, 64, 4, 2, 4, 4]

/-- A memory operation in 26 bytes. -/
def MemOp.save (o : MemOp) : List Byte :=
  let ds := o.dests.map (·.toNat)
  leBytes 26 (pack (opWidths.zip [o.elem.toNat, o.entry, o.ctx, bitNat o.load, bitNat o.plain, bitNat o.noacc, optNat (o.awaits.map (· % 2 ^ 16)), o.id,
    o.wave.toNat, o.seq, o.pred, o.succ, o.off, o.size, o.data.toNat, o.tag.toNat, ds.length, ds.getD 0 0, ds.getD 1 0]))

/-- The converse. -/
def loadOp (bs : List Byte) (at' now : Nat) : MemOp :=
  let f := unpack opWidths (numAt bs at' 26)
  let g (k : Nat) : Nat := f.getD k 0
  { elem := BitVec.ofNat 8 (g 0), entry := g 1, ctx := g 2, load := g 3 = 1, plain := g 4 = 1, noacc := g 5 = 1, awaits := natOpt (g 6), id := g 7
    wave := BitVec.ofNat 16 (g 8), seq := g 9, pred := g 10, succ := g 11, off := g 12, size := g 13, data := BitVec.ofNat 64 (g 14)
    tag := BitVec.ofNat 4 (g 15), dests := ([g 17, g 18].take (g 16)).map (BitVec.ofNat 4), due := now }

/-- A channel binding in nine bytes. -/
def Binding.save (b : Binding) : List Byte :=
  leBytes 9 (pack [(8, b.elem.toNat), (2, b.inq.toNat), (1, bitNat b.out), (6, b.ch.toNat), (24, b.boff), (24, b.pos)])

/-- The converse. -/
def loadBinding (bs : List Byte) (at' : Nat) : Binding :=
  let f := unpack [8, 2, 1, 6, 24, 24] (numAt bs at' 9)
  ⟨BitVec.ofNat 8 (f.getD 0 0), BitVec.ofNat 2 (f.getD 1 0), f.getD 2 0 = 1, BitVec.ofNat 6 (f.getD 3 0), f.getD 4 0, f.getD 5 0⟩

/-- The current wave of a context, and the SEQ and SUCC numbers performed in it, as 66 bytes. -/
def Waves.save (w : Waves) : List Byte :=
  let ds := w.done.filter (·.1 = w.cur)
  let map (f : Nat × Nat → Nat) : Nat := ((List.range 256).map fun n => if ds.any fun d => f d.2 = n then 2 ^ n else 0).sum
  leBytes 2 w.cur.toNat ++ leBytes 32 (map (·.1)) ++ leBytes 32 (map (·.2))

/-- The converse: the two maps as performed operations that answer the same questions (R350). -/
def loadWaves (bs : List Byte) (at' : Nat) : Waves :=
  let cur := BitVec.ofNat 16 (numAt bs at' 2)
  let seqs := numAt bs (at' + 2) 32
  let sucs := numAt bs (at' + 34) 32
  ⟨cur, ((List.range 256).filter seqs.testBit).map (fun n => (cur, n, 256)) ++ ((List.range 256).filter sucs.testBit).map (fun n => (cur, 0, n))⟩

/-- The interface and binding block in 2,048 bytes (R377; the layout is the model's own). The operations are numbered anew, in their order. -/
def Fabric.saveInterface (f : Fabric) : List Byte :=
  let rank (n : Nat) : Nat := (f.ops.filter (·.id < n)).length
  let ops := (f.ops.take 64).map fun o => { o with id := rank o.id, awaits := o.awaits.map rank }
  fitBytes 2048 (leBytes 4 (pack [(8, ops.length), (8, f.bindings.length), (4, optNat f.decided)]) ++
    fitBytes 1664 (ops.flatMap MemOp.save) ++ fitBytes 144 (f.bindings.flatMap Binding.save) ++
    (f.wave (f.selected.getD 0)).save ++ (f.wave (f.decided.getD 0)).save)

/-- A caught-token record (R375); `n` is its place among those of its input. -/
def Caught.record (c : Caught) (n : Nat) : List Byte :=
  leBytes 16 (pack [(64, c.tok.data.toNat), (4, c.tok.tag.toNat), (2, c.tok.kind.code), (4, c.elem.toNat % 16), (4, c.elem.toNat / 16), (2, c.inq.toNat), (12, n)])

/-- The converse, with the place; the element's saved state at an offset tells whether the token came from another tile. -/
def loadCaught (bs : List Byte) (elems at' : Nat) : Nat × Caught :=
  let f := unpack [64, 4, 2, 4, 4, 2, 12] (numAt bs at' 16)
  let q := f.getD 3 0 + 16 * f.getD 4 0
  let n := f.getD 5 0
  (f.getD 6 0, ⟨BitVec.ofNat 8 q, BitVec.ofNat 2 n, ⟨BitVec.ofNat 64 (f.getD 0 0), BitVec.ofNat 4 (f.getD 1 0), kindOf (f.getD 2 0)⟩,
    (numAt bs (elems + 384 * q + 324) 1).testBit n⟩)

/-- Enters a numbered item before those of higher number. -/
def insertNumbered {α : Type} (x : Nat × α) : List (Nat × α) → List (Nat × α)
  | [] => [x]
  | y :: r => if x.1 ≤ y.1 then x :: y :: r else y :: insertNumbered x r

/-- The records of caught tokens, numbered per input. -/
def caughtBytes : List Caught → List Caught → List Byte
  | _, [] => []
  | before, c :: r => c.record (before.filter fun d => d.elem = c.elem && d.inq = c.inq).length ++ caughtBytes (before ++ [c]) r

/-- The header of a save area, with the effective state of the guards (R372). -/
def saveHeader (f : Fabric) (guards loaded len crc : Nat) (seal' : Nat) : List Byte :=
  leBytes 128 (0x53564746 + loaded * 2 ^ 32 + f.selected.getD 0 * 2 ^ 36 + f.caught.length % 2 ^ 16 * 2 ^ 48 + len * 2 ^ 64 + crc * 2 ^ 96 +
    field guards 0 15 * 2 ^ 128 + field guards 16 4 * 2 ^ 144 + seal' * 2 ^ 256)

/-- The inputs of an element whose caught tokens came from another tile. -/
def Fabric.caughtOutside (f : Fabric) (q : Nat) : Nat :=
  ((List.range 4).filter fun n => f.caught.any fun c => c.outside && c.elem.toNat = q && c.inq.toNat = n).foldl (fun m n => m + 2 ^ n) 0

/-- The save area of a fabric (R377), with the state of its guards, sealed with a key. -/
def Fabric.saveArea (f : Fabric) (guards : Nat) (key : BitVec 256) : List Byte :=
  let loaded := ((List.range 4).map fun c => if (f.context c).loaded then 2 ^ c else 0).sum
  let len := areaLen (maskCount loaded) f.caught.length
  let body := fitBytes (len - 128) ((List.range 4).flatMap (fun c => if loaded.testBit c then (f.context c).block else []) ++
    (List.range 256).flatMap (fun q => (f.elem q).save (f.caughtOutside q)) ++ f.saveInterface ++ caughtBytes [] f.caught)
  let seal' := (kmac256 key (saveHeader f guards loaded len 0 0 ++ body)).toNat
  let crc := (crc32c (saveHeader f guards loaded len 0 seal' ++ body)).toNat
  saveHeader f guards loaded len crc seal' ++ body

/-- The fabric of a tile whose snapshot is complete, as it is saved: what still stands in the tile on its way to its own elements is caught (R374), and of
the ports that await a target's switch those remain whose target has still to switch (R368). -/
def snapTile (u : TileId) (s : State) : State :=
  let f := (s.tile u).fabric
  let s := (f.flights ++ f.edges.flatMap (·.toks)).foldl (fun s g =>
    if g.tok.kind ≠ .preempt && gridTile u.quad g.tx g.ty = u then catchRoute (gridElem u.quad g.tx g.ty) g.inq.toNat g s else s) s
  let still (q : Nat) (x : Elem) (w : Nat × Nat) : Bool :=
    match x.ctx with
    | some c => match s.flightOf ⟨u, BitVec.ofNat 8 q⟩ w.1 c ⟨0, 0, .data⟩ with | some fl => s.unswitched x w.1 fl | none => false
    | none => false
  modFabric u (fun f => { f with elems := f.elems.map fun (q, x) => (q, { x with waits := x.waits.filter (still q x) }) }) s

/-- A tile after CFG.SAVE holds no selected context and no snapshot (R377); tokens and markers on their way to other tiles go on. -/
def leaveFabric (u : TileId) (s : State) : State :=
  endTurn u (modFabric u (fun f =>
    { f.bare with
      ops := []
      flights := f.flights.filter fun g => !(g.tok.kind = .preempt && gridTile u.quad g.tx g.ty = u) }) s)

/-- CFG_SAVE_DONE (R377): the snapshot is complete; it is written, and the tile holds no selected context. A fault of a page that only the caught tokens
need undoes the marking that the instruction began (R361). -/
def execCfgSaveDone (i : StrandId) (st : State) : Out :=
  event st <|
    match (st.strand i).status, i.core with
    | .blocked (.cfgSave d ea marked), .tile u =>
      if !(st.tile u).snapped then none
      else
        let s := snapTile u st
        let bs := (s.tile u).fabric.saveArea (s.guards u) (st.quad u.quad).sealKey
        match spanWrite (areaEng u i s) ea bs s with
        | .ok s => some (endArea i d true bs.length (leaveFabric u s))
        | .error none => none
        | .error (some f) => trapArea i f (if marked then endSnapshot u st else st)
    | _, _ => none

/-- How much of a save area CFG.REST needs, by its header: of one with a bad MAGIC the header alone (R378). -/
def restLen (h : Nat) : Nat := if field h 0 32 = 0x53564746 then areaLen (maskCount (field h 32 4)) (field h 48 16) else 128

/-- CFG.REST (R378). -/
def execCfgRest (d : BitVec 5) (s : BitVec 4) (st : State) : Out :=
  issueArea [d] s 128 .read (headLength 128 restLen) (fun u _ st => if (st.tile u).fabric.selected.isSome then some 2 else none)
    (fun _ _ ea _ => .cfgRest d ea) beginFabric st

/-- Restores a save area onto a tile (R378). The caught tokens are replayed in SEQN order, and tokens of neighbours that have been restored before wait
behind them (R376). Memory operations that were sent before are still performed. -/
def restoreArea (u : TileId) (slot : BitVec 3) (bs : List Byte) (s : State) : State :=
  let h := numAt bs 0 128
  let loaded := field h 32 4
  let elems := 128 + blockLen * maskCount loaded
  let iface := elems + 98304
  let cnt := unpack [8, 8, 4] (numAt bs iface 4)
  let sel := field h 36 2
  let dec := natOpt (cnt.getD 2 0)
  let s := modFabric u (loadBlocks bs 128 loaded loaded) s
  let s := setGuards u (BitVec.ofNat 15 (field h 128 15)) (BitVec.ofNat 4 (field h 144 4)) s
  let kept := ((List.range (field h 48 16)).map fun n => loadCaught bs elems (iface + 2048 + 16 * n)).foldr insertNumbered []
  s.modTile u fun v =>
    let old := v.fabric
    let came := old.elems.flatMap fun (q, x) => (List.range 4).flatMap fun n =>
      if v.inMatrix q then [] else (x.queue n).map fun k => (⟨BitVec.ofNat 8 q, BitVec.ofNat 2 n, k, true⟩ : Caught)
    let sent := old.ops ++ old.elems.flatMap fun (_, x) => x.firings.flatMap (·.mems)
    let f := old.mapElems fun q x => if v.inMatrix q then x else old.settle s.now q (loadElem bs (elems + 384 * q) (s.now + 64))
    let waves := f.waves.setIfInBounds sel (loadWaves bs (iface + 1812))
    let op (n : Nat) : MemOp :=
      let o := loadOp bs (iface + 4 + 26 * n) s.now
      { o with id := o.id + old.newId, awaits := o.awaits.map (· + old.newId) }
    { v with fabric :=
      { f with
        selected := some sel
        decided := dec
        selector := slot
        snap := none
        ops := sent ++ (List.range (cnt.getD 0 0)).map op
        bindings := (List.range (cnt.getD 1 0)).map fun n => loadBinding bs (iface + 1668 + 9 * n)
        waves := match dec with | some c => waves.setIfInBounds c (loadWaves bs (iface + 1878)) | none => waves
        caught := kept.map (·.2) ++ came } }

/-- A byte list with a part replaced by zeros. -/
def zeroed (bs : List Byte) (off n : Nat) : List Byte := bs.take off ++ zeroBytes n ++ bs.drop (off + n)

/-- The result of the checks of a save area (R378): codes 1, 2 and 6. -/
def State.areaResult (s : State) (q : BitVec 2) (lvl : Level) (bs : List Byte) : Nat :=
  let nocrc := zeroed bs 12 4
  let seal' := (kmac256 (s.quad q).sealKey (zeroed nocrc 32 32)).toNat
  if numAt bs 0 4 != 0x53564746 then 1
  else if (crc32c nocrc).toNat != numAt bs 12 4 then 2
  else if lvl = .U && (s.quad q).reqsig && seal' != numAt bs 32 32 then 6 else 0

/-- CFG_REST_DONE (R378). -/
def execCfgRestDone (i : StrandId) (st : State) : Out :=
  event st <|
    match (st.strand i).status, i.core with
    | .blocked (.cfgRest d ea), .tile u =>
      let g := areaEng u i st
      areaEnd i st (match areaRead i g ea 128 st with
        | .error f => .error f
        | .ok (hb, s) =>
          match areaRead i g ea (restLen (leNat hb)) s with
          | .error f => .error f
          | .ok (bs, s) =>
            let code := s.areaResult u.quad (s.strand i).level bs
            .ok (endArea i d true code (if code = 0 then restoreArea u i.slot bs s else s)))
    | _, _ => none

/-! ### The configuration port (R365) -/

/-- A command written to a tile's configuration port. -/
def portCommand (t : TileId) (op : Nat) (st : State) : Out :=
  event st <|
    if !st.enabled t then none
    else some (st.modTile t fun v => { v with port := v.port.write 0x10 (BitVec.allOnes 64) (BitVec.ofNat 64 (op + v.port.mask.toNat * 16)) st.now (st.quad t.quad).keys })

/-- CP_LOAD (R365). -/
def execCpLoad (t : TileId) (st : State) : Out := portCommand t 0 st

/-- CP_CHECK (R365). -/
def execCpCheck (t : TileId) (st : State) : Out := portCommand t 1 st

/-- CP_CLEAR (R365). -/
def execCpClear (t : TileId) (st : State) : Out := portCommand t 2 st

/-- The code of an address fault of a port's read (R365). -/
def portFault (a : Addr) (n : Nat) : Option Nat :=
  let p := a.toNat
  let bad (r : Region) : Bool := match r with | .hbm => false | .cxl => false | _ => true
  if p % 64 != 0 then some 0x80
  else if 2 ^ 77 ≤ p + n || bad (regionOf (localOf p)) || bad (regionOf (localOf (p + n - 1))) then some 0x81 else none

/-- Reads bytes at a global physical address for a port: the bytes, a RESULT code, or a wait. -/
def portRead (a : Addr) (n : Nat) (s : State) : Except (Option Nat) (List Byte) :=
  let p := a.toNat
  match portFault a n with
  | some c => .error (some c)
  | none =>
    if s.reach (.mem p) = .lost || s.poisoned (.mem p) n then .error (some 0x82)
    else if s.reach (.mem p) = .wait || s.meets none false (.mem p) n = .wait || s.meets none false (.mem p) n = .trap then .error none
    else .ok (s.mem.bytes p n)

/-- LOAD through the port, address faults first as R361 has them: its result and the state (R362, R363, R365). -/
def portLoad (t : TileId) (a : Addr) (mask : Nat) (s : State) : Except (Option Nat) (Nat × State) :=
  match portRead a 64 s with
  | .error c => .error c
  | .ok hb => match portRead a (sectionLen (sectionCtxm hb)) s with
    | .error c => .error c
    | .ok bs =>
      if mask = 0 then .ok (1, s)
      else if (List.range 4).any fun c => mask.testBit c && (s.tile t).fabric.inUse c then .ok (11, s)
      else
        let code := sectionResult bs mask (s.sectionVerified t.quad .M 0 0 0 (BitVec.ofNat 64 (numAt bs 0 8)))
        .ok (code, if code = 0 then acceptSection t bs mask s else s)

/-- CHECK through the port, with the keys as they stood when it began (R365, R405); every address is checked before the key slot (R361). -/
def portCheck (t : TileId) (a : Addr) (keys : Keys) (s : State) : Except (Option Nat) (Nat × State) :=
  match portRead a 64 s with
  | .error c => .error c
  | .ok hb =>
    let h := leNat hb
    let ilen := field h 160 32
    let key := keys.slot (field h 56 2)
    if !imageHeaderOk h then .ok (1, s)
    else if let some c := portFault a ilen then .error (some c)
    else if key.isNone then .ok (8, s)
    else match portRead a ilen s with
      | .error c => .error c
      | .ok bs =>
        let code := signatureResult key bs (field h 128 32)
        .ok (code, if code = 0 then enterVerified t.quad ⟨BitVec.ofNat 64 (field h 192 64), a.toNat, ilen, 0⟩ s else s)

/-- CLEAR through the port (R365). -/
def portClear (t : TileId) (mask : Nat) (s : State) : State :=
  modFabric t (fun f => (List.range 4).foldl (fun f c => if mask.testBit c then f.setContext c {} else f) f) (deselect t s)

/-- The error records of what a port read of an area (R393), when it ends with code 0x82: the lines of its header, and else those of the rest. -/
def portErrors (p : CfgPort) (s : State) : State :=
  let a := p.target.toNat
  let n := if s.poisoned (.mem a) 64 then 64 else if p.cmd = 0 then sectionLen (sectionCtxm (s.mem.bytes a 64)) else field (leNat (s.mem.bytes a 64)) 160 32
  notePoison a n s

/-- CP_COMMAND_DONE (R365, R379): the command ends, and its result becomes visible with BUSY clear. -/
def execCpCommandDone (t : TileId) (st : State) : Out :=
  event st <|
    let p := (st.tile t).port
    let put (code : Nat) (s : State) : State := s.modTile t fun v => { v with port := { v.port with busy := false, result := BitVec.ofNat 32 code } }
    let finish (r : Except (Option Nat) (Nat × State)) : Option State :=
      match r with
      | .ok (code, s) => some (put code s)
      | .error (some code) => some (put code (if code = 0x82 then portErrors p st else st))
      | .error none => none
    if !p.busy then none
    else match p.cmd.toNat with
      | 0 => finish (portLoad t p.target p.which.toNat st)
      | 1 => finish (portCheck t p.target p.keys st)
      | _ => if st.now < p.start + 64 + 401 * maskCount p.which.toNat then none else some (put 0 (portClear t p.which.toNat st))

end Sys2Proof.Machine
end

