-- ==== Sys2Proof/Machine/Fetch.lean ====
section
/-! DEFINITION. Fetching and decoding the next instruction of a strand (R30, R31), the trap of one that cannot be fetched or decoded, and the
instruction cache. -/

namespace Sys2Proof.Machine

open Sys2Proof

/-- The address space of a view; level M has none. -/
def Xl.asid (x : Xl) : Option (BitVec 16) := if x.level = .M then none else x.ctx.map (·.asid)

/-- The line of the instruction cache that a virtual line number hits. -/
def CoreState.line (k : CoreState) (asid : Option (BitVec 16)) (n : Nat) : Option ICacheLine :=
  k.icache.find? fun l => l.line = n && l.asid = asid

/-- A parcel of a held line. -/
def ICacheLine.parcel (l : ICacheLine) (va : Addr) : Parcel := BitVec.ofNat 32 (leNat ((l.bytes.drop (va.toNat % 128)).take 4))

/-- mem.fetch (R30, R31): one parcel as memory holds it, or as the instruction cache still does; where the two differ, either. An error without a
fault is a wait. -/
def fetchParcel (i : StrandId) (va : Addr) (s : State) : Except (Option Flt) (Parcel × State) :=
  let (x, s) := strandXl i s
  match translate x va .fetch s with
  | .error f => .error f.deliver
  | .ok (p, s) =>
    if s.reach p.loc = .wait then .error none
    else match readPhys p 4 s with
      | .error f => .error (some { f with addr := va })
      | .ok v =>
        let new : Parcel := BitVec.ofNat 32 v
        match (s.core i.core).line x.asid (va.toNat / 128) with
        | none => .ok (new, s)
        | some l =>
          if l.parcel va = new then .ok (new, s)
          else
            let (w, s) := s.fresh
            .ok (if w.getLsbD 0 then l.parcel va else new, s)

/-- A later parcel: its fault names the first byte of the page that holds it (R30). -/
def fetchLater (i : StrandId) (va : Addr) (s : State) : Except (Option Flt) (Parcel × State) :=
  match fetchParcel i va s with
  | .error (some f) => .error (some { f with addr := va >>> 17 <<< 17 })
  | r => r

/-- The parcels of the instruction at a program counter (R30): as many as parcel 0's length code tells, the others 0. -/
def fetchParcels (i : StrandId) (pc : Addr) (s : State) : Except (Option Flt) ((Parcel × Parcel × Parcel) × State) :=
  match fetchParcel i pc s with
  | .error f => .error f
  | .ok (p0, s) =>
    let len := p0.toNat % 4
    if p0 = 0 then .error (some ⟨cZeroParcel, 0, 0⟩)
    else if len = 3 then .error (some ⟨cIllegal, 0, 0⟩)
    else if len = 0 then .ok ((p0, 0, 0), s)
    else match fetchLater i (pc + 4) s with
      | .error f => .error f
      | .ok (p1, s) =>
        if len = 1 then .ok ((p0, p1, 0), s)
        else match fetchLater i (pc + 8) s with
          | .error f => .error f
          | .ok (p2, s) => .ok ((p0, p1, p2), s)

/-- Whether a strand competes for the issue slot (R85, R87, R188, R314). -/
def State.contends (s : State) (i : StrandId) : Bool :=
  let t := s.strand i
  t.status = .running && s.coreRuns i.core && !t.shortening

/-- Whether an asynchronous trap takes the next issue opportunity of a strand (R388). -/
def State.asyncDue (s : State) (i : StrandId) : Bool :=
  let t := s.strand i
  t.asyncRipe s.now && t.status.interruptible && !t.inhibited

/-- FETCH_TRAP (R30): the fetch trap that is due for the next instruction of a strand takes its issue slot. -/
def execFetchTrap (i : StrandId) (st : State) : Out :=
  event st <|
    match (st.strand i).due with
    | some k =>
      if !st.contends i || !st.slotOpen i.core || st.asyncDue i then none
      else some (lone i.core (takeTrap i k (countFault (strandXl i st).1 k.cause k.taddr (st.modStrand i fun t => { t with due := none }))))
    | none => none

/-- Whether a parcel is a VSETL (R125). -/
def isVsetl (p : Parcel) : Bool := p.toNat % 4 = 0 && majorOf p = 0x18 && fZRfn p = 0 && fZRT p = 0

/-- BREAKPOINT_STOP (R416): the next instruction of the strand is a VSETL that its breakpoint matches. On a control core none matches (R415). -/
def execBreakpointStop (i : StrandId) (st : State) : Out :=
  event st <|
    if !st.coreRuns i.core || onControl i then none
    else match fetchParcels i (st.strand i).pc st with
      | .ok ((p, _, _), s) => if isVsetl p then debugStop i s else none
      | .error _ => none

/-- The lines that an instruction cache holds (R14). -/
def icacheLines : Nat := 256

/-- A line as a strand fetches it: its address space, its bytes, and the state after the translation. -/
def fetchLine (i : StrandId) (line : Nat) (st : State) : Option (ICacheLine × State) :=
  let (x, s) := strandXl i st
  match translate x (BitVec.ofNat 80 (128 * line)) .fetch s with
  | .error _ => none
  | .ok (p, s) => if s.reach p.loc ≠ .ok || s.poisoned p.loc 128 then none else some (⟨line, x.asid, s.bytesAt p.loc 128⟩, s)

/-- INSTRUCTION_CACHE_FILL (R31, R87): a line that a strand of the core may fetch is read, whichever the device chooses; a full cache drops the
line that the device chooses. -/
def execInstructionCacheFill (c : CoreId) (line : Nat) (st : State) : Out :=
  event st <|
    match (slots c).findSome? fun i => if (st.strand i).status = .free then none else fetchLine i line st with
    | none => none
    | some (l, s) =>
      let (w, s) := s.fresh
      let old := (s.core c).icache.filter fun k => !(k.line = line && k.asid = l.asid)
      let old := if old.length < icacheLines then old else old.eraseIdx (w.toNat % old.length)
      some (s.modCore c fun k => { k with icache := l :: old })

noncomputable section

/-- The next instruction of a strand, or the fault of its fetch or decode; one that is not well formed is an ILLEGAL_INSTRUCTION too (R30, R33). -/
def fetchInstr (i : StrandId) (s : State) : Except (Option Flt) (Instr × State) :=
  match fetchParcels i (s.strand i).pc s with
  | .error f => .error f
  | .ok ((p0, p1, p2), s) =>
    match decode p0 p1 p2 with
    | .ok n => if n.wellFormed then .ok (n, s) else .error (some ⟨cIllegal, 0, 0⟩)
    | .error .zeroParcel => .error (some ⟨cZeroParcel, 0, 0⟩)
    | .error _ => .error (some ⟨cIllegal, 0, 0⟩)

/-- The fetch of a strand's next instruction finds a trap, which is due from now on (R30, R87). -/
def noteFetchTrap (i : StrandId) (s : State) : State :=
  match fetchInstr i s with
  | .error (some f) => s.modStrand i fun t => { t with due := some (preciseRec t f) }
  | _ => s.modStrand i fun t => { t with due := none }

end

end Sys2Proof.Machine
end

