-- ==== Sys2Proof/Machine/Riddle.lean ====
section
/-! DEFINITION. The Riddle (BINR, R192 to R196) and the Ladle (CHPOOL and CHALLOC, R198 to R201). -/

namespace Sys2Proof.Machine

open Sys2Proof

/-! ### The Riddle -/

/-- The thresholds of a job record. -/
def jobThresholds (r : Nat) : List Nat := (List.range 7).map fun k => field r (384 + 32 * k) 32

/-- Whether a list never falls. -/
def rising : List Nat → Bool
  | a :: b :: r => a ≤ b && rising (b :: r)
  | _ => true

/-- Whether a job record is invalid (R192, R193). -/
def jobInvalid (r : Nat) : Bool :=
  field r 80 48 != 0 || field r 208 48 != 0 || field r 353 7 != 0 || field r 366 18 != 0 || field r 608 32 != 0 || field r 928 96 != 0 ||
  !rising (jobThresholds r) || field r 0 80 % (if field r 352 1 = 1 then 8 else 4) != 0 || field r 128 80 % 4 != 0 ||
  2 ^ 32 < field r 256 32 + field r 288 32

/-- The job that a record describes. -/
def jobOf (t : Strand) (slot : BitVec 3) (ea : Addr) (r : Nat) : RiddleJob where
  record := ea
  rp := BitVec.ofNat 80 r
  out := BitVec.ofNat 80 (field r 128 80)
  row0 := field r 256 32
  nrows := field r 288 32
  cap := field r 320 32
  wide := field r 352 1 = 1
  thr := jobThresholds r
  ch := BitVec.ofNat 6 (field r 360 6)
  issuer := slot
  level := t.level
  seq := t.issued
  pc := t.pc
  strip := t.strip
  counts := List.replicate 8 0

/-- BINR (R193). -/
def execBinr (d : BitVec 5) (s : BitVec 4) (st : State) : Out :=
  issueStream one [d] (fun u i t st =>
    let ea := t.ar s
    if t.acquiring then .error .stall
    else if ea.toNat % 128 != 0 then .error (preciseStop t ⟨cMisaligned, ea, 0⟩)
    else match recordAt i t ea 128 true st with
      | .error e => .error e
      | .ok (p, st) =>
        match recordBits t p ea 128 st with
        | .error e => .error e
        | .ok r =>
          let j := jobOf t i.slot ea r
          if jobInvalid r then .error (preciseStop t ⟨cRiddleInvalid, 0, 0⟩)
          else if ((st.tile u).tag j.ch).busy then .error (preciseStop t ⟨cChannelBusy, 0, 0⟩)
          else
            let st := traceEvent i 0 false j.seq j.strip j.pc st
            match freeSlotOf 2 (st.tile u).jobs with
            | none => .ok (traceEvent i 0 true j.seq j.strip j.pc (st.setX i d 0))
            | some k =>
              let st := setTag u j.ch { (st.tile u).tag j.ch with busy := true } st
              let st := st.modTile u fun v => { v with jobs := amSet k j v.jobs }
              .ok (traceEvent i 5 false j.seq j.strip j.pc (st.setX i d 1))) st

/-- The class of a row length (R194). -/
def RiddleJob.classOf (j : RiddleJob) (len : Nat) : Nat := (j.thr.filter (· ≤ len)).length

/-- Bins one row (R194): the state with its list entry written, and the counts. -/
def binRow (g : Eng) (j : RiddleJob) (r : Nat) (counts : List Nat) (s : State) : Except (Option Flt) (List Nat × State) :=
  let w := if j.wide then 8 else 4
  match engRead g (j.rp + BitVec.ofNat 80 (w * r)) w s with
  | .error k => .error k
  | .ok (a, s) =>
    match engRead g (j.rp + BitVec.ofNat 80 (w * (r + 1))) w s with
    | .error k => .error k
    | .ok (b, s) =>
      let c := j.classOf ((b + 2 ^ (8 * w) - a) % 2 ^ (8 * w))
      let n := counts.getD c 0
      let counts := counts.set c (n + 1)
      if j.cap ≤ n then .ok (counts, s)
      else match engWrite g (j.out + BitVec.ofNat 80 (4 * (j.cap * c + n))) (leBytes 4 r) s with
        | .error k => .error k
        | .ok (p, s) => .ok (counts, markFull p.loc 4 s)

/-- Bins rows in ascending order; on a failure, the state reached and the failure. -/
def binRows (g : Eng) (j : RiddleJob) : List Nat → List Nat → State → List Nat × State × Option (Option Flt)
  | [], counts, s => (counts, s, none)
  | r :: rs, counts, s =>
    match binRow g j r counts s with
    | .error k => (counts, s, some k)
    | .ok (counts, s) => binRows g j rs counts s

/-- STATUS at the end of a job (R192). -/
def RiddleJob.status (j : RiddleJob) (counts : List Nat) : Nat :=
  1 + ((counts.zipIdx.map fun (n, c) => if j.cap < n then 2 ^ (8 + c) else 0).sum)

/-- Writes COUNT0 to COUNT7 and STATUS to the record (R194). -/
def writeCounts (g : Eng) (j : RiddleJob) (counts : List Nat) (s : State) : Except (Option Flt) State :=
  match engWrite g (j.record + 80) (counts.flatMap (leBytes 4) ++ leBytes 4 (j.status counts)) s with
  | .error k => .error k
  | .ok (p, s) => .ok (markFull p.loc 36 s)

/-- Completion of a job (R195): its tag is completed, and its slot is free. -/
def finishJob (u : TileId) (k : Nat) (j : RiddleJob) (s : State) : State :=
  let i : StrandId := ⟨.tile u, j.issuer⟩
  let s := setTag u j.ch ((s.tile u).tag j.ch).complete s
  let s := s.modTile u fun v => { v with jobs := amDel k v.jobs }
  traceEvent i 0 true j.seq j.strip j.pc (traceEvent i 5 true j.seq j.strip j.pc s)

/-- The fields of a job's fault in its detail word (R392). -/
def RiddleJob.detail (j : RiddleJob) : Nat := j.ch.toNat * 2 ^ 8 + j.batch % 2 ^ 16 * 2 ^ 16

/-- Stops a job at its batch and delivers the fault (R196, R392). -/
def stopJob (u : TileId) (k : Nat) (j : RiddleJob) (f : Flt) (s : State) : State :=
  let s := engineFault 4 ⟨.tile u, j.issuer⟩ j.pc f j.detail s
  s.modTile u fun v => { v with jobs := amSet k { j with stopped := true, halted := s.now } v.jobs }

/-- RIDDLE_BATCH (R194, R196): the next batch of 256 rows, with the record's results after the last. A failed batch stops the job; what it had
written stands or does not. A job of no rows reads no row pointer, and a fault of the write of the results is one of the last batch, which is done again
whole: R194 and R196 leave both open (log entry 97). A batch is written in one event, and the results in the last: which mix of old and new values a program finds before
completion, R195 leaves open (log entry 35). -/
def execRiddleBatch (u : TileId) (k : Nat) (st : State) : Out :=
  event st <|
    let v := st.tile u
    match v.works, amGet k v.jobs with
    | true, some j =>
      if j.stopped then none
      else
        let g := engineOf u j.issuer j.level none st
        let rows := (range (256 * j.batch) (min j.nrows (256 * (j.batch + 1)))).map (j.row0 + ·)
        let stop (f : Flt) (s : State) : State :=
          freeState (fun s' => stopJob u k j f { s with free := s'.free }) (stopJob u k j f) st
        match binRows g j rows j.counts st with
        | (_, _, some none) => none
        | (_, s, some (some f)) => some (stop f s)
        | (counts, s, none) =>
          if 256 * (j.batch + 1) < j.nrows then
            some (s.modTile u fun v => { v with jobs := amSet k { j with batch := j.batch + 1, counts := counts } v.jobs })
          else match writeCounts g j counts s with
            | .error none => none
            | .error (some f) => some (stop f s)
            | .ok s => some (finishJob u k j s)
    | _, _ => none

/-! ### The Ladle -/

/-- The chunk size of a pool descriptor. -/
def chunkSize (r : Nat) : Nat := 64 * 2 ^ field r 384 3

/-- Whether a pool descriptor is invalid (R198). -/
def poolInvalid (r : Nat) : Bool :=
  let base := field r 0 80
  let limit := field r 256 80
  field r 80 48 != 0 || field r 208 48 != 0 || field r 336 48 != 0 || field r 387 29 != 0 || field r 417 31 != 0 || field r 384 3 = 7 ||
  base % chunkSize r != 0 || limit < base || (limit - base) % chunkSize r != 0

/-- A pool descriptor with NEXT, EXH and ALLOCS replaced. -/
def poolWith (r next exh allocs : Nat) : Nat :=
  field r 0 128 + next * 2 ^ 128 + field r 256 160 * 2 ^ 256 + exh * 2 ^ 416 + allocs % 2 ^ 64 * 2 ^ 448

/-- A write of the Ladle: it is an engine of the tile, so a write into TMEM sets full bits as R262 says of an engine write (log entry 96). -/
def ladleWrite (p : Phys) (bs : List Byte) (s : State) : State := markFull p.loc bs.length (writePhys none p bs s)

/-- The frame of the Ladle's instructions (R84, R249, R257): scalar accesses that write. `link` finds the place of a header to link, before the
indivisible step on the descriptor. -/
def issueLadle (xs : List (BitVec 5)) (s : BitVec 4) (link : StrandId → Strand → State → Except Stop (Option Phys × State))
    (body : StrandId → Strand → Phys → Option Phys → Nat → State → Except Stop State) (st : State) : Out :=
  issue st one fun i t st =>
    let ea := t.ar s
    if onControl i then .error (preciseStop t ⟨cIllegal, 0, 0⟩)
    else if t.anyX xs || t.acquiring || t.releasing then .error .stall
    else if ea.toNat % 64 != 0 then .error (preciseStop t ⟨cMisaligned, ea, 0⟩)
    else match recordPlace i t ea true st with
      | .error e => .error e
      | .ok (p, st) =>
        match link i t st with
        | .error e => .error e
        | .ok (q, st) =>
          match recordTake i t ea p 64 true st with
          | .error e => .error e
          | .ok st =>
            match recordBits t p ea 64 st with
            | .error e => .error e
            | .ok r => if poolInvalid r then .error (preciseStop t ⟨cLadleInvalid, 0, 0⟩) else body i t p q r st

/-- CHPOOL (R200). -/
def execChpool (d : BitVec 5) (s : BitVec 4) (st : State) : Out :=
  issueLadle [d] s (fun _ _ st => .ok (none, st)) (fun i _ p _ r st =>
    let n := (field r 256 80 - field r 0 80) / chunkSize r
    .ok ((ladleWrite p (leBytes 64 (poolWith r (field r 0 80) 0 0)) st).setX i d (BitVec.ofNat 64 n))) st

/-- The place of the header that CHALLOC links, none where aT is 0 (R201). -/
def linkPlace (l : BitVec 4) (i : StrandId) (r : Strand) (st : State) : Except Stop (Option Phys × State) :=
  let ea := r.ar l
  if ea = 0 then .ok (none, st)
  else if ea.toNat % 16 != 0 then .error (preciseStop r ⟨cMisaligned, ea, 0⟩)
  else match locate i r ea .write st with
    | .error e => .error e
    | .ok (q, st) => if q.device then .error (preciseStop r (q.barred ea 5)) else .ok (some q, st)

/-- A pool descriptor after CHALLOC, with the chunk that it hands out, 0 where too little space is left (R201). -/
def takeChunk (r : Nat) : Nat × Nat :=
  let next := field r 128 80
  if next + chunkSize r ≤ field r 256 80 then (poolWith r (next + chunkSize r) (field r 416 1) (field r 448 64 + 1), next)
  else (poolWith r next 1 (field r 448 64), 0)

/-- CHALLOC (R201): the link write is a release of scope `.dv`, and is made only where a chunk is handed out. -/
def execChalloc (d s l : BitVec 4) (st : State) : Out :=
  issueLadle [] s (linkPlace l) (fun i r p q bits st =>
    let (desc, c) := takeChunk bits
    let hand (st : State) : State := (ladleWrite p (leBytes 64 desc) st).modStrand i (·.setA d (BitVec.ofNat 80 c))
    match q with
    | none => .ok (hand st)
    | some q =>
      if c = 0 then .ok (hand st)
      else if r.owing r.issued then .error .stall
      else match recordTake i r (r.ar l) q 12 true st with
        | .error e => .error e
        | .ok st => .ok (ladleWrite q (leBytes 12 c) (hand st))) st

end Sys2Proof.Machine
end

