-- ==== Sys2Proof/Machine/Launch.lean ====
section
/-! DEFINITION. The launch unit: LAUNCH and LSTAT (R307 to R309, R317), readiness (R310), placement (R311 to R314), the end of a team and of a launch
(R315), pre-emption (R316, R318 to R321) and restore (R322). -/

namespace Sys2Proof.Machine

open Sys2Proof

/-! ### The launch record (R307) -/

/-- A field of a record as a bit vector. -/
def bitsOf (n v lo : Nat) : BitVec n := BitVec.ofNat n (field v lo n)

/-- NDEP of a record. -/
def recordDeps (v : Nat) : Nat := field v 114 3

/-- DEPk of a record. -/
def recordDep (v k : Nat) : Addr := bitsOf 80 v (144 * k + 448)

/-- The captured fields of a launch record. -/
def parseLaunch (v : Nat) : LaunchRec where
  entry := bitsOf 80 v 0
  twm1 := field v 80 3
  thm1 := field v 83 4
  stgm1 := field v 87 4
  saxis := field v 91 1 = 1
  strm1 := field v 92 3
  fix := field v 95 1 = 1
  orx := field v 96 3
  ory := field v 99 4
  mint := field v 103 7
  prio := field v 110 4
  ntm1 := field v 117 6
  args := bitsOf 80 v 128
  lanes := (List.range 8).map fun k => field v (240 + 3 * k) 3
  tmemp := field v 264 12
  ctx := bitsOf 16 v 288
  sig := bitsOf 80 v 320
  sigv := field v 416 32
  deps := (List.range (recordDeps v)).map fun k => (recordDep v k, field v (144 * k + 528) 64)

/-- The lane groups of a launch record (R123): group k belongs to strand k. None where LANES breaks the rules of R124. -/
def LaunchRec.groups (r : LaunchRec) : Option (List (Nat × LaneGroup)) :=
  match partList ((List.range 8).map fun k => match r.lanes.getD k 0 with | 0 => 0 | c => c + 16 * k) with
  | none => none
  | some l => layGroups 0 0 l

/-! ### Footprints (R313) -/

/-- The offsets of a footprint in ascending 8 dy + dx. -/
def LaunchRec.offsets (r : LaunchRec) : List (Nat × Nat) :=
  (List.range (r.thm1 + 1)).flatMap fun dy => (List.range (r.twm1 + 1)).map fun dx => (dx, dy)

/-- The candidate origins in first-fit order. -/
def LaunchRec.origins (r : LaunchRec) : List (Nat × Nat) :=
  if r.fix then [(r.orx, r.ory)]
  else (List.range (9 - r.thm1)).flatMap fun y => (List.range (8 - r.twm1)).map fun x => (x, y)

/-- The offsets of a footprint that are enabled at an origin. -/
def State.covered (s : State) (q : BitVec 2) (r : LaunchRec) (ox oy : Nat) : List (Nat × Nat) :=
  r.offsets.filter fun (dx, dy) => s.enabled (tileAt q (ox + dx) (oy + dy))

/-- Whether an origin's footprint meets MINT under TILEMAP. -/
def State.meetsMint (s : State) (q : BitVec 2) (r : LaunchRec) (ox oy : Nat) : Bool :=
  let n := (s.covered q r ox oy).length
  if r.mint = 0 then n = (r.twm1 + 1) * (r.thm1 + 1) else r.mint ≤ n

/-- Whether a team fits at an origin, tiles counting as free by a condition; `need` is the offset set of a swapped-out team. -/
def State.fitsAt (s : State) (q : BitVec 2) (r : LaunchRec) (need : Option (List (Nat × Nat))) (free : TileId → Bool) (ox oy : Nat) : Bool :=
  let c := s.covered q r ox oy
  s.meetsMint q r ox oy && c.all (fun (dx, dy) => free (tileAt q (ox + dx) (oy + dy))) &&
  match need with
  | none => true
  | some l => l = c

/-- The first candidate origin at which a team fits. -/
def State.firstFit (s : State) (q : BitVec 2) (r : LaunchRec) (need : Option (List (Nat × Nat))) (free : TileId → Bool) : Option (Nat × Nat) :=
  r.origins.find? fun (x, y) => s.fitsAt q r need free x y

/-- Whether a tile is free for placement. -/
def State.vacant (s : State) (t : TileId) : Bool := (s.tile t).life = .idle

/-! ### The launch table (R309) -/

/-- A slot of a quadrant's launch table. -/
def State.launchSlot (s : State) (q : BitVec 2) (n : Nat) : LaunchSlot := (amGet n (s.quad q).launches).getD {}

/-- A launch of a quadrant. -/
def State.launchAt (s : State) (q : BitVec 2) (n : Nat) : Option Launch := (s.launchSlot q n).launch

/-- Replaces a launch. -/
def setLaunch (q : BitVec 2) (n : Nat) (l : Launch) (s : State) : State :=
  let sl := s.launchSlot q n
  s.modQuad q fun d => { d with launches := amSet n { sl with launch := some l } d.launches }

/-- A team of a launch. -/
def Launch.team (l : Launch) (k : Nat) : Option Team := l.teams[k]?

/-- Replaces a team of a launch. -/
def setTeam (q : BitVec 2) (n k : Nat) (tm : Team) (s : State) : State :=
  match s.launchAt q n with
  | none => s
  | some l => setLaunch q n { l with teams := l.teams.set k tm } s

/-- Whether a team stands on tiles. -/
def TeamState.onTiles : TeamState → Bool
  | .resident _ _ _ => true
  | .draining _ _ => true
  | _ => false

/-- Whether a team is saved. -/
def TeamState.isSaved : TeamState → Bool
  | .saved _ => true
  | _ => false

/-- Whether a launch has ended for good. -/
def LaunchState.final : LaunchState → Bool
  | .done => true
  | .cancelled => true
  | .failed => true
  | _ => false

/-- Whether a table slot may take a new launch (R309, R317): its launch is done, cancelled or failed. -/
def LaunchSlot.free (sl : LaunchSlot) : Bool :=
  match sl.launch with
  | none => true
  | some l => l.state.final

/-- Whether a launch whose slot is taken again still has something to do: its signal, or teams on tiles. -/
def LaunchSlot.unfinished (sl : LaunchSlot) : Bool :=
  match sl.launch with
  | none => false
  | some l => l.signal || l.teams.any fun t => t.state.onTiles

/-- An unfinished launch whose slot is taken again goes on beyond the table, out of reach of every handle (R317, log entry 71). -/
def moveAside (q : BitVec 2) (n : Nat) (s : State) : State :=
  let sl := s.launchSlot q n
  if !sl.unfinished then s
  else
    let k := n + 512 * ((s.quad q).launches.foldl (fun m l => max m (l.1 / 512 + 1)) 1)
    let s := s.modQuad q fun d => { d with launches := amSet k sl d.launches }
    { s with tiles := s.tiles.map fun (t, v) =>
        (t, if t.quad = q then { v with res := v.res.map fun r => if r.slot = n then { r with slot := k } else r } else v) }

/-- STATE of the status word (R317). -/
def Launch.status (l : Launch) : Nat :=
  match l.state with
  | .pending => 1
  | .done => 5
  | .cancelled => 6
  | .failed => 7
  | .ready =>
    if l.teams.all fun t => t.state = .waiting then 2
    else if l.teams.any (fun t => t.state.isSaved) && !(l.teams.any fun t => t.state.onTiles) then 4 else 3

/-- The status word of a launch (R317). -/
def Launch.word (l : Launch) : Word :=
  BitVec.ofNat 64 (l.status + (l.teams.filter fun t => t.state.onTiles).length * 2 ^ 4 + (l.teams.filter fun t => t.state = .ended).length * 2 ^ 11)

/-- A placement opportunity arises (R311). -/
def opportunity (q : BitVec 2) (s : State) : State := s.modQuad q fun d => { d with chances := d.chances + 1 }

/-- A launch becomes ready: its stamp, and its teams wait from now on (R310, R311). -/
def Launch.makeReady (l : Launch) (now : Nat) : Launch :=
  { l with state := .ready, stamp := now, teams := l.teams.map fun t => { t with since := now } }

/-- The translation context of a launch as its issuer gives it (R309): at level U the team's own, else CTX. -/
def launchContext (i : StrandId) (t : Strand) (r : LaunchRec) (s : State) : BitVec 16 × CtxEntry :=
  if t.level = .U then (t.ctxcur, (strandXl i s).1.ctx.getD .invalid)
  else (r.ctx, (s.ctxEntry (coreQuad i.core) r.ctx).getD .invalid)

/-- Whether a record sets a reserved bit (code 1). -/
def recordReserved (v : Nat) : Bool := field v 123 5 != 0 || field v 276 12 != 0 || field v 304 16 != 0 || field v 400 16 != 0

/-- The lowest LAUNCH_INVALID code that applies to a record (R308). No code covers a priority of 12 to 15, so such a record passes and is ranked above 11
(R307 gives 0 to 11; log entry 100). -/
def launchCode (q : BitVec 2) (lvl : Level) (v : Nat) (s : State) : Option Nat :=
  let r := parseLaunch v
  let beyond := (List.range 8).any fun k => r.strm1 < k && r.lanes.getD k 0 != 0
  if recordReserved v then some 1
  else if 8 < r.thm1 || 4 < recordDeps v || (!r.fix && (r.orx != 0 || r.ory != 0)) || (r.fix && (7 < r.orx + r.twm1 || 8 < r.ory + r.thm1))
  then some 2
  else if 64 < r.mint || (r.twm1 + 1) * (r.thm1 + 1) < r.mint then some 3
  else if r.groups.isNone || beyond then some 4
  else if r.entry.toNat % 4 != 0 || r.args.toNat % 16 != 0 || field v 208 32 % 16 != 0 || r.deps.any (fun d => d.1.toNat % 8 != 0) ||
    r.sig.toNat % 8 != 0 then some 5
  else if 3072 < r.tmemp then some 6
  else if !(r.origins.any fun (x, y) => s.meetsMint q r x y) then some 7
  else if lvl != .U && (s.ctxEntry q r.ctx).isNone then some 8
  else none

/-- Enters a launch into a slot: its handle's bits 31 to 0 (R309). A slot's generation advances each time it is reused. -/
def enterLaunch (q : BitVec 2) (n : Nat) (l : Launch) (s : State) : Nat × State :=
  let sl := s.launchSlot q n
  let gen := if sl.launch.isSome then sl.gen + 1 else sl.gen
  (handleOf q n gen, (moveAside q n s).modQuad q fun d => { d with launches := amSet n { gen := gen, launch := some l } d.launches })

/-- LAUNCH after its checks (R309): a free slot of the table, which one the manual leaves open, or xD := 0 where it is full. -/
def acceptLaunch (i : StrandId) (t : Strand) (d : BitVec 5) (r : LaunchRec) (s : State) : State :=
  let q := coreQuad i.core
  let (ctx, entry) := launchContext i t r s
  let l : Launch :=
    { record := { r with ctx := ctx }, entry := entry, state := .pending, met := r.deps.map fun _ => false, stamp := 0,
      teams := List.replicate (r.ntm1 + 1) { state := .waiting, since := 0, claim := false }, signal := false, doneAt := 0 }
  let l := if r.deps.isEmpty then l.makeReady s.now else l
  let open' := (List.range 512).filter fun n => (s.launchSlot q n).free
  let (x, s) := s.fresh
  match open'[x.toNat % open'.length]? with
  | none => s.setX i d 0
  | some n =>
    let (h, s) := enterLaunch q n l s
    let s := if r.deps.isEmpty then opportunity q s else s
    s.setX i d (BitVec.ofNat 64 (h + 2 ^ 63))

/-- LAUNCH (R308). -/
def execLaunch (d : BitVec 5) (s : BitVec 4) (st : State) : Out :=
  issue st one fun i t st =>
    let ea := t.ar s
    if t.anyX [d] || t.acquiring then .error .stall
    else if ea.toNat % 128 != 0 then .error (preciseStop t ⟨cMisaligned, ea, 0⟩)
    else match recordAt i t ea 128 false st with
      | .error e => .error e
      | .ok (p, st) =>
        match recordBits t p ea 128 st with
        | .error e => .error e
        | .ok v =>
          let r := parseLaunch v
          let deps := if recordDeps v ≤ 4 then r.deps.map (·.1) else []
          match checkPlaces i t .read deps st with
          | .error e => .error e
          | .ok st =>
            match checkPlaces i t .write (if r.sig = 0 then [] else [r.sig]) st with
            | .error e => .error e
            | .ok st =>
              if t.level = .U && (10 ≤ r.prio || r.ctx != 0) then .error (preciseStop t ⟨cPrivilege, 0, 0⟩)
              else match launchCode (coreQuad i.core) t.level v st with
                | some c => .error (preciseStop t ⟨cLaunchInvalid, 0, BitVec.ofNat 64 c⟩)
                | none => .ok (acceptLaunch i t d r st)

/-- The slot that a handle names, none where it refers to no launch that the strand may see (R317). -/
def State.handled (s : State) (i : StrandId) (h : Nat) : Option (Nat × Launch) :=
  let q := coreQuad i.core
  let t := s.strand i
  let sl := s.launchSlot q (field h 0 9)
  match sl.launch with
  | none => none
  | some l =>
    if field h 63 1 != 1 || field h 11 5 != 0 || field h 32 31 != 0 || field h 9 2 != q.toNat || field h 16 16 != sl.gen.toNat ||
       (t.level = .U && l.record.ctx != t.ctxcur) then none
    else some (field h 0 9, l)

/-- LSTAT (R317). -/
def execLstat (d s t : BitVec 5) (st : State) : Out :=
  issue st one fun i r st =>
    let op := (r.xr t).toNat
    if r.anyX [d, s, t] then .error .stall
    else if 2 ≤ op then .error (preciseStop r ⟨cLaunchInvalid, 0, 10⟩)
    else match st.handled i (r.xr s).toNat with
      | none => .ok (st.setX i d 0)
      | some (n, l) =>
        let l' := if op = 1 && (l.status = 1 || l.status = 2) then { l with state := .cancelled } else l
        .ok ((setLaunch (coreQuad i.core) n l' st).setX i d l'.word)

/-! ### Readiness (R310) -/

/-- The view by which the launch unit translates for a launch (R309, R310): its context, at level U. -/
def launchXl (q : BitVec 2) (l : Launch) : Xl := ⟨.control q, .U, some l.entry⟩

/-- A launch fails: it signals nothing, and an error record names its handle (R310, R315, R321). -/
def failLaunch (q : BitVec 2) (n : Nat) (cause : BitVec 8) (pa : Nat) (s : State) : State :=
  match s.launchAt q n with
  | none => s
  | some l =>
    errorRecord q 4 127 cause.toNat (handleOf q n (s.launchSlot q n).gen) pa (setLaunch q n { l with state := .failed, signal := false } s)

/-- The place of a completion word, for the launch unit's access: an error carries the cause and the address concerned, none is a wait. A
reservation of any mode but SPLIT makes the access wait (R220, R315). -/
def launchPlace (x : Xl) (ea : Addr) (acc : Access) (s : State) : Except (Option (BitVec 8 × Nat)) (Phys × State) :=
  match translate x ea acc s with
  | .error f => .error (f.deliver.map fun f => (f.cause, 0))
  | .ok (p, s) =>
    if p.device then .error (some (cProtect, p.loc.offset))
    else
      let write := acc = .write
      match s.meets none write p.loc 8 with
      | .trap => .error none
      | .wait => .error none
      | m => if s.reach p.loc = .wait then .error none else .ok (p, if m = .cut then cutRanges none write p.loc 8 s else s)

/-- READINESS_READ (R310): the launch unit reads the `k`-th completion word, where that tells it something new. -/
def execReadinessRead (q : BitVec 2) (n k : Nat) (st : State) : Out :=
  event st <|
    match st.launchAt q n with
    | none => none
    | some l =>
      match l.state, l.record.deps[k]? with
      | .pending, some (ea, target) =>
        match launchPlace (launchXl q l) ea .read st with
        | .error none => none
        | .error (some (cause, pa)) => some (failLaunch q n cause pa st)
        | .ok (p, s) =>
          match readPhys p 8 s with
          | .error f => some (failLaunch q n f.cause p.loc.offset s)
          | .ok v =>
            let hit := decide (target ≤ v)
            if l.met.getD k false = hit then none
            else
              let l := { l with met := l.met.set k hit }
              some (if l.met.all id then opportunity q (setLaunch q n (l.makeReady s.now) s) else setLaunch q n l s)
      | _, _ => none

/-! ### The queues and placement (R311 to R314) -/

/-- A ready team that is not placed, with its launch. -/
structure Waiter where
  slot   : Nat
  index  : Nat
  launch : Launch
  team   : Team
  deriving DecidableEq, Repr

/-- The ready teams of a quadrant that are not placed: never yet, or swapped out (R311, R312). -/
def State.waiters (s : State) (q : BitVec 2) : List Waiter :=
  (s.quad q).launches.flatMap fun (n, sl) =>
    match sl.launch with
    | none => []
    | some l =>
      if l.state ≠ .ready then []
      else (l.teams.mapIdx fun k t => (⟨n, k, l, t⟩ : Waiter)).filter fun w => w.team.state = .waiting || w.team.state.isSaved

/-- Whether a team is considered before another (R311): priority, readiness stamp, team order within a launch. -/
def Waiter.before (a b : Waiter) : Bool :=
  b.launch.record.prio < a.launch.record.prio ||
  (a.launch.record.prio = b.launch.record.prio &&
    (a.launch.stamp < b.launch.stamp || (a.slot = b.slot && a.index < b.index)))

/-- Whether a team holds a claim (R311): it has been ready and unplaced for 62,500 ac. -/
def Team.claims (t : Team) (now : Nat) : Bool := t.claim || t.since + 62500 ≤ now

/-- Whether a claim holds a team back (R311). -/
def State.heldBack (s : State) (q : BitVec 2) (w : Waiter) : Bool :=
  (s.waiters q).any fun c => c.team.claims s.now && w.launch.record.prio ≤ c.launch.record.prio && c.launch.stamp < w.launch.stamp

/-- The offsets that a swapped-out team needs (R313). -/
def TeamState.need : TeamState → Option (List (Nat × Nat))
  | .saved im => some (im.tiles.map (·.1))
  | _ => none

/-- The origin for which other teams have been swapped out (R318): the team is placed there once its tiles are free, and nowhere else while none of
them belongs to a team again. -/
def State.promised (s : State) (q : BitVec 2) (w : Waiter) : Option (Nat × Nat) :=
  w.team.target.filter fun (x, y) => s.fitsAt q w.launch.record w.team.state.need (fun t => (s.tile t).life ≠ .resident) x y

/-- Whether a tile is free for a team: no team has it, and it is not promised to another (R316, R318). -/
def State.freeFor (s : State) (q : BitVec 2) (w : Waiter) (t : TileId) : Bool :=
  s.vacant t && (s.waiters q).all fun v =>
    (v.slot = w.slot && v.index = w.index) ||
    match s.promised q v with
    | none => true
    | some (x, y) => (s.covered q v.launch.record x y).all fun (dx, dy) => tileAt q (x + dx) (y + dy) ≠ t

/-- The origin at which a team would be placed now, if it fits. -/
def State.placement (s : State) (q : BitVec 2) (w : Waiter) : Option (Nat × Nat) :=
  match s.promised q w with
  | some (x, y) => if s.fitsAt q w.launch.record w.team.state.need s.vacant x y then some (x, y) else none
  | none => s.firstFit q w.launch.record w.team.state.need (s.freeFor q w)

/-- Whether a team is the next to be placed, at an origin: it fits there first, and no team considered before it fits. A team for which others were
swapped out waits for no other (R316, R318). -/
def State.nextPlaced (s : State) (q : BitVec 2) (w : Waiter) (ox oy : Nat) : Bool :=
  s.placement q w = some (ox, oy) &&
  ((s.promised q w).isSome ||
   (!s.heldBack q w && !(s.waiters q).any fun v => v.before w && !s.heldBack q v && (s.placement q v).isSome))

/-- The waiting team of a slot and index. -/
def State.waiter (s : State) (q : BitVec 2) (n k : Nat) : Option Waiter := (s.waiters q).find? fun w => w.slot = n && w.index = k

/-- CLAIM_BEGIN (R311): a team has been ready and unplaced for 62,500 ac. -/
def execClaimBegin (q : BitVec 2) (n k : Nat) (st : State) : Out :=
  event st <|
    match st.waiter q n k with
    | none => none
    | some w =>
      if w.team.claim || st.now < w.team.since + 62500 then none
      else some (opportunity q (setTeam q n k { w.team with claim := true } st))

/-- The exit latency of a low-power state in ac (R402). -/
def Power.wake (p : Power) : Nat := (p.exit * 125 + 1) / 2

/-- The context entry that a strand's translation uses once it has been read (R396): none where the read fails, which the strand's accesses meet
(R393). -/
def State.readCtx (s : State) (q : BitVec 2) (n : BitVec 16) : Option CtxEntry :=
  if s.ctxPoisoned q n then none else some ((s.ctxEntry q n).getD .invalid)

/-- A strand as it starts on a tile (R314, R396). -/
def startStrand (r : LaunchRec) (entry : Option CtxEntry) (k : Nat) : Strand :=
  { status := .running, pc := r.entry, a := ((Vector.replicate 16 0).set 14 r.args).set 15 (BitVec.ofNat 80 (twb + 0x1C300000)), age := k + 1,
    level := .U, ctxcur := r.ctx, ctx := entry }

/-- Places one tile of a team (R314). -/
def placeTile (q : BitVec 2) (r : LaunchRec) (entry : Option CtxEntry) (res : Nat → Nat → Nat → Residency) (dx dy ord : Nat) (s : State) : State :=
  let e := res dx dy ord
  let t := tileAt q (e.ox + dx) (e.oy + dy)
  let v := s.tile t
  let s := s.setTile t
    { life := .resident, since := s.now, res := some e, core := { stamp := 8, icache := v.core.icache }, groups := r.groups.getD [], tlb := v.tlb, port := v.port,
      sync := v.sync, traced := v.traced }
  (List.range (r.strm1 + 1)).foldl (fun s k => s.setStrand ⟨.tile t, BitVec.ofNat 3 k⟩ (startStrand r entry k)) s

/-- The place of a tile in a team. -/
def residencyOf (n k : Nat) (r : LaunchRec) (count ox oy dx dy ord : Nat) : Residency where
  slot := n
  team := k
  dx := dx
  dy := dy
  ord := ord
  ntiles := count
  stage := (if r.saxis then dy else dx) % (r.stgm1 + 1)
  nstm1 := r.stgm1
  ox := ox
  oy := oy
  w := r.twm1 + 1
  h := r.thm1 + 1

/-- The longest wait for power of some tiles (R402). -/
def State.wakeTime (s : State) (q : BitVec 2) (ox oy : Nat) (c : List (Nat × Nat)) : Nat :=
  c.foldl (fun n (dx, dy) => Nat.max n (s.tile (tileAt q (ox + dx) (oy + dy))).power.wake) 0

/-- The team as it stands once placed. -/
def Team.placed (tm : Team) (ox oy at' : Nat) : Team := { tm with state := .resident ox oy at', claim := false, weighed := none, target := none }

/-- TEAM_PLACE (R311, R313, R314). -/
def execTeamPlace (q : BitVec 2) (n k ox oy : Nat) (st : State) : Out :=
  event st <|
    match st.waiter q n k with
    | none => none
    | some w =>
      if w.team.state.isSaved || !st.nextPlaced q w ox oy then none
      else
        let r := w.launch.record
        let c := st.covered q r ox oy
        let entry := st.readCtx q r.ctx
        let s := (c.mapIdx fun o p => (p, o)).foldl (fun s ((dx, dy), o) =>
          placeTile q r entry (residencyOf n k r c.length ox oy) dx dy o s) st
        some (setTeam q n k (w.team.placed ox oy (st.now + st.wakeTime q ox oy c)) s)

/-- The tiles of a team on the tile map. -/
def State.teamTiles (s : State) (q : BitVec 2) (n k : Nat) : List TileId :=
  (tilesOf q).filter fun t => match (s.tile t).res with | some r => r.slot = n && r.team = k | none => false

/-- The END records of a tile's engines as they stop for a swap-out, and the BEGIN records as they resume (R410): a context switch in progress is one. -/
def traceEngines (t : TileId) (fin : Bool) (s : State) : State :=
  let v := s.tile t
  let s := v.jobs.foldl (fun s (_, j) => traceEvent ⟨.tile t, j.issuer⟩ 5 fin j.seq j.strip j.pc s) s
  let s := v.mats.foldl (fun s e => if e.started then traceEvent ⟨.tile t, e.issuer⟩ 6 fin e.seq e.strip e.pc s else s) s
  let s := v.fills.foldl (fun s e => traceEvent ⟨.tile t, e.issuer⟩ 6 fin e.seq e.strip e.pc s) s
  match v.fabric.turning with
  | some (n, strip, pc) => traceEvent ⟨.tile t, v.fabric.selector⟩ 7 fin n strip pc s
  | none => s

/-- A tile of a restored team starts: its trace begins with a SYNC (R411), and its engines resume. -/
def resumeTile (t : TileId) (s : State) : State := traceEngines t false (trace t.quad (some t) 0 2 0 false 0 ⟨0, 0, 0⟩ 0 s)

/-- TEAM_FIRST_ISSUE (R314, R322): every tile is ready, 48 ac after the placement; a restored region has its leave (R303). -/
def execTeamFirstIssue (q : BitVec 2) (n k : Nat) (st : State) : Out :=
  event st <|
    match (st.launchAt q n).bind (·.team k) with
    | some { state := .resident _ _ at', restored := again, .. } =>
      let ts := st.teamTiles q n k
      if st.now < at' + 48 || ts.all (fun t => (st.tile t).started) || ts.any (fun t => (st.tile t).region != 0 && !(st.tile t).leave) then none
      else
        let start (s : State) (t : TileId) : State := s.modTile t fun v => { v with started := true }
        some (ts.foldl (fun s t => start (if again then resumeTile t s else s) t) st)
    | _ => none

/-! ### The end of a team and of a launch (R315) -/

/-- Whether a tile holds nothing that its team's end waits for (R315). -/
def State.tileOver (s : State) (t : TileId) : Bool :=
  let v := s.tile t
  (slots (.tile t)).all (fun i => (s.strand i).status = .free && (s.strand i).orphans.isEmpty) && v.streams.isEmpty && v.jobs.isEmpty &&
  v.mats.isEmpty && v.fills.isEmpty && v.fabric.ops.isEmpty && v.fabric.elems.all fun (_, x) => x.firings.all (·.mems.isEmpty)

/-- A tile leaves its team (R315, R319): leave is returned, and it is to be cleared. -/
def leaveTile (t : TileId) (s : State) : State :=
  let s := s.modQuad t.quad fun d => { d with waiting := d.waiting.filter (·.tile ≠ t) }
  let s := (slots (.tile t)).foldl (fun s i => s.setStrand i {}) s
  let s := { s with merges := s.merges.filter fun m => match m.loc with | .tmem u _ => u ≠ t | .mem _ => true }
  s.modTile t fun v => { v with life := .clearing, since := s.now, res := none, started := false, leave := false, region := 0, mode := none,
                                fabric := {}, mats := [], fills := [], streams := [], jobs := [] }

/-- A team ends on its tiles; the last team of a launch ends the launch (R315). -/
def endTeam (q : BitVec 2) (n k : Nat) (s : State) : State :=
  let s := (s.teamTiles q n k).foldl (fun s t => leaveTile t s) s
  match s.launchAt q n with
  | none => s
  | some l =>
    let teams := l.teams.modify k fun t => { t with state := .ended }
    let l := { l with teams := teams }
    setLaunch q n (if l.state = .ready && teams.all (fun t => t.state = .ended)
      then { l with state := .done, signal := l.record.sig != 0, doneAt := s.now } else l) s

/-- TEAM_END (R315). -/
def execTeamEnd (q : BitVec 2) (n k : Nat) (st : State) : Out :=
  event st <|
    match (st.launchAt q n).bind (·.team k) with
    | some { state := .resident _ _ _, .. } =>
      let ts := st.teamTiles q n k
      if ts.all fun t => (st.tile t).started && st.tileOver t then some (endTeam q n k st) else none
    | _ => none

/-- TILE_CLEAR_DONE (R315): 1,536 ac after the tile's team has left; its memories are rewritten with zeros, failing lines among them (R393). -/
def execTileClearDone (t : TileId) (st : State) : Out :=
  event st <|
    let v := st.tile t
    if v.life ≠ .clearing || st.now < v.since + 1536 then none
    else
      let s := st.setTile t
        { power := v.power, core := { icache := v.core.icache }, isspol := v.isspol, polWas := v.polWas, tlb := v.tlb, port := v.port, sync := v.sync, traced := v.traced, since := st.now }
      some (opportunity t.quad { s with poison := s.poison.filter fun p => match p.line with | .tmem u _ => u ≠ t | .om u _ => u ≠ t | _ => true })

/-- LAUNCH_SIGNAL (R315): SIGV is added to the word at SIG, no sooner than 60 ac after the last team's end. -/
def execLaunchSignal (q : BitVec 2) (n : Nat) (st : State) : Out :=
  event st <|
    match st.launchAt q n with
    | none => none
    | some l =>
      if l.state ≠ .done || !l.signal || st.now < l.doneAt + 60 then none
      else match launchPlace (launchXl q l) l.record.sig .write st with
        | .error none => none
        | .error (some (cause, pa)) => some (failLaunch q n cause pa st)
        | .ok (p, s) =>
          match atomicUpdate none p .add 8 l.record.sigv 0 s with
          | .error f => some (failLaunch q n f.cause p.loc.offset s)
          | .ok (_, s) => some (setLaunch q n { l with signal := false } s)

/-! ### Pre-emption (R318 to R321) -/

/-- The priority of the team on a tile. -/
def State.tilePrio (s : State) (t : TileId) : Option Nat :=
  match (s.tile t).res with
  | none => none
  | some r => (s.launchAt t.quad r.slot).map (·.record.prio)

/-- Whether a tile belongs to a resident team of a priority below `p` (R318). -/
def State.freeable (s : State) (p : Nat) (t : TileId) : Bool :=
  (s.tile t).life = .resident && match s.tilePrio t with | some r => r < p | none => false

/-- The teams on the tiles of a footprint, each by slot and index. -/
def State.victims (s : State) (q : BitVec 2) (r : LaunchRec) (ox oy : Nat) : List (Nat × Nat) :=
  ((s.covered q r ox oy).filterMap fun (dx, dy) =>
    let v := s.tile (tileAt q (ox + dx) (oy + dy))
    match v.life, v.res with
    | .resident, some e => some (e.slot, e.team)
    | _, _ => none).eraseDups

/-- The words of each lane's slice that a saved register keeps (R137). -/
def savedWords (lanes : Nat) (t : Strand) : Nat := if lanes = 0 then 0 else Nat.min 8 ((t.vvl.toNat + lanes - 1) / lanes)

/-- The registers of a strand's FULL and BOUND Tundish buffers (R232). -/
def Strand.tundishRegs (t : Strand) : List Nat :=
  match t.tundish with
  | none => []
  | some d => (d.bufs.mapIdx fun b x => if x.state = .full || x.state = .bound then (List.range d.g).map (d.vD + b * d.g + ·) else []).flatten

/-- The bytes of a strand's vector registers in an image (R321). -/
def vectorSize (lanes : Nat) (t : Strand) : Nat :=
  ((List.range 32).map fun r =>
    if t.tundishRegs.contains r then lanes * 64 else if t.dirty.getLsbD r then lanes * 8 * savedWords lanes t else 0).sum

/-- The tokens that a snapshot of a tile may have to catch. -/
def Fabric.catchable (f : Fabric) : Nat :=
  f.caught.length + f.flights.length + (f.edges.map fun g => g.toks.length).sum + f.feeds.length +
  (f.elems.map fun (_, x) => (x.firings.map fun g => g.pushes.length + (g.mems.map fun o => o.dests.length).sum).sum).sum +
  (f.ops.map fun o => o.dests.length).sum

/-- The size of a tile's image (R321). -/
def State.tileSize (s : State) (tmemp : Nat) (t : TileId) : Nat :=
  let v := s.tile t
  let f := v.fabric
  let loaded := (f.ctxs.toList.filter (·.loaded)).length
  8192 +
  ((slots (.tile t)).map fun i => if (s.strand i).status = .free then 0 else 6144 + vectorSize (s.lanes i) (s.strand i)).sum +
  tmemp * 1032 + 16384 * v.claimed.length +
  (if v.region = 0 then 0 else (if v.region = 1 then 131072 else 65536) + 1024) +
  (if loaded = 0 && f.selected.isNone then 0 else areaLen loaded f.catchable)

/-- The save-pool blocks of a team's image. -/
def State.teamBlocks (s : State) (q : BitVec 2) (n k : Nat) : Nat :=
  let p := match s.launchAt q n with | some l => l.record.tmemp | none => 0
  (((s.teamTiles q n k).map (s.tileSize p)).sum + 0x1FFFF) / 0x20000

/-- The save-pool blocks that images hold. -/
def Quad.taken (d : Quad) : List Nat :=
  d.launches.flatMap fun l =>
    match l.2.launch with
    | none => []
    | some x => x.teams.flatMap fun t => match t.state with | .saved im => im.blocks | _ => []

/-- The teams of a quadrant that are being swapped out. -/
def State.drainingTeams (s : State) (q : BitVec 2) : List (Nat × Nat) :=
  (s.quad q).launches.flatMap fun (n, sl) =>
    match sl.launch with
    | none => []
    | some l => (l.teams.mapIdx fun k t => (k, t)).filterMap fun (k, t) => match t.state with | .draining _ _ => some (n, k) | _ => none

/-- Whether the save pool has room for some teams (R318, R404). -/
def State.poolRoom (s : State) (q : BitVec 2) (vs : List (Nat × Nat)) : Bool :=
  let d := s.quad q
  d.taken.length + ((s.drainingTeams q ++ vs).map fun (n, k) => s.teamBlocks q n k).sum ≤ d.nblk.toNat && d.nblk != 0

/-- The oldest instruction's next element goes to `vstart` (R137); a held queue's head is the handler's (R136). -/
def Strand.swapQueue (t : Strand) : Strand :=
  match t.held, t.queue with
  | false, e :: r =>
    if e.started then
      { t with vstart := BitVec.ofNat 12 e.next, queue := { e with started := false, resume := none } :: r.map (·.stop) }
    else { t with queue := e :: r.map (·.stop) }
  | _, _ => t.stopQueue

/-- The first of some events that is due, as it leaves the state. -/
def actsNow (l : List (State → Out)) (s : State) : Option State :=
  l.findSome? fun f => match f { s with idle := false } with | .next u => if u.idle then none else some u | _ => none

/-- A JOINL that an image records as satisfied makes its group whole (R139): at once, or, behind earlier vector-class instructions, before the restored
strand issues again. -/
def joinNow (i : StrandId) (s : State) : State :=
  let mark (e : VEntry) : VEntry := if e.op = .join then { e with whole := true } else e
  (actsNow [execJoinlAct i] s).getD (s.modStrand i fun t => { t with queue := t.queue.map mark })

/-- The wait of a Blocked strand whose event has come by the cycle of the decision ends, with its result (R114, R139, R226, R231, R252, R300, R320); a
trap that is due is not taken. -/
def endWait (i : StrandId) (s : State) : State :=
  match (s.strand i).status with
  | .blocked .join => ((actsNow [execJoinlWake i] s).map (joinNow i)).getD s
  | _ =>
    (actsNow [execWaitlineWake i, execFullemptyWake i, execStrmWaitWake i, execTqpopWake i, execBarwWake i, execQdrainWake i] s).getD s

/-- Enters a store into a store queue at its place in issue order. -/
def insertStore (e : StoreEntry) : List StoreEntry → List StoreEntry
  | [] => [e]
  | f :: r => if e.seq < f.seq then e :: f :: r else f :: insertStore e r

/-- The traps that are due and not taken are not taken (R319): the fetch trap, and those of scalar accesses, which are left as not performed. What engines
have found stays pending. -/
def Strand.recall (t : Strand) : Strand :=
  { t with
    due := none
    pend := t.pend.filter (·.src ≠ 0)
    news := 0
    failed := []
    lates := t.lates ++ t.failed.filterMap fun a => match a with | .late b => some b | .store _ => none
    stores := t.failed.foldl (fun l a => match a with | .store e => insertStore e l | .late _ => l) t.stores }

/-- A strand stops for a swap-out (R319, R320): a blocking instruction whose event has not come is left as not performed, the vector queue stops at its
element groups, links are lost. -/
def swapStrand (i : StrandId) (s : State) : State :=
  let s := flushParts i (dropWait i (traceStops i s))
  s.modStrand i fun t =>
    let u := { t.swapQueue.recall with links := [], loose := [] }
    match u.status with
    | .blocked .debug => { u with status := .running, brk := { u.brk with held := some s.now } }
    | .blocked _ => { u with status := .running }
    | _ => u

/-- A fault that an engine found in the cycle of the decision is not delivered (R196, R218). -/
def dropFault (i : StrandId) (src : BitVec 3) (pc : Addr) (detail : Nat) (s : State) : State :=
  s.modStrand i fun t =>
    let kept := t.pend.filter fun k => !(k.src = src && k.tvpc = pc && field k.detail.toNat 8 24 = field detail 8 24)
    { t with pend := kept, news := t.news - (t.pend.length - kept.length) }

/-- A stream as a swap-out leaves it (R218, R221): at its resume point, and what it had reserved is to be registered afresh. -/
def Stream.swapped (x : Stream) (reserved : Bool) (now : Nat) : Stream :=
  { x.halt with moving := false, regdue := x.regdue || reserved, stopped := x.stopped && x.halted ≠ now }

/-- The engines of a tile stop for a swap-out (R196, R218, R221): a fault found in this cycle is not delivered. -/
def swapEngines (t : TileId) (s : State) : State :=
  let v := s.tile t
  let s := v.streams.foldl (fun s (_, x) =>
    let i : StrandId := ⟨.tile t, x.issuer⟩
    let s := endMoving i x s
    if x.stopped && x.halted = s.now then dropFault i (match x.kind with | .tundish _ => 3 | _ => 2) x.pc (x.detail x.resume) s else s) s
  let s := v.jobs.foldl (fun s (_, j) => if j.stopped && j.halted = s.now then dropFault ⟨.tile t, j.issuer⟩ 4 j.pc j.detail s else s) s
  let held (k : Nat) : Bool := s.ranges.any fun r => r.tile = t && r.slot = k
  { s.modTile t (fun v =>
      { v with streams := v.streams.map fun (k, x) => (k, x.swapped (held k) s.now)
               jobs := v.jobs.map fun (k, j) => (k, { j with stopped := j.stopped && j.halted ≠ s.now }) }) with
    ranges := s.ranges.filter (·.tile ≠ t) }

/-- A tile stops for a swap-out (R319): from this cycle none of its strands issues; waits that have come to their end, strands, engines and their
reservations, and markers on its fabric (R374). -/
def swapTile (t : TileId) (s : State) : State :=
  let s := s.modTile t fun v => { v with core := { v.core with last := some s.now } }
  let s := (List.range 8).foldl (fun s _ => (slots (.tile t)).foldl (fun s i => endWait i s) s) s
  let s := (slots (.tile t)).foldl (fun s i => if (s.strand i).status = .free then s else swapStrand i s) s
  let s := swapEngines t (traceEngines t true s)
  let s := s.modTile t fun v => { v with life := .saving, since := s.now }
  let f := (s.tile t).fabric
  if f.selected.isNone || f.snap.isSome then s
  else modFabric t (fun f => { f with swapped := true }) (markTile t s)

/-- A team's swap-out is decided (R319). -/
def swapTeam (q : BitVec 2) (n k : Nat) (s : State) : State :=
  match (s.launchAt q n).bind (·.team k) with
  | some tm =>
    match tm.state with
    | .resident ox oy _ => setTeam q n k { tm with state := .draining ox oy } ((s.teamTiles q n k).foldl (fun s t => swapTile t s) s)
    | _ => s
  | none => s

/-- PREEMPT_DECISION (R318): a team with a claim that does not fit is weighed once at each placement opportunity. It is not due in a cycle in which a
tile of a victim has performed a tagged write: one that arrives in the cycle of the decision is discarded (R423). -/
def execPreemptDecision (q : BitVec 2) (n k : Nat) (st : State) : Out :=
  event st <|
    match st.waiter q n k with
    | none => none
    | some w =>
      let r := w.launch.record
      let chance := (st.quad q).chances
      if !w.team.claims st.now || st.heldBack q w || w.team.weighed = some chance || (st.placement q w).isSome || (st.promised q w).isSome then none
      else
        let refused := bumpQuad q 0 1 (setTeam q n k { w.team with weighed := some chance } st)
        match st.firstFit q r w.team.state.need (fun t => st.freeFor q w t || st.freeable r.prio t) with
        | none => some refused
        | some (ox, oy) =>
          let vs := st.victims q r ox oy
          if vs.any fun (a, b) => (st.teamTiles q a b).any fun t => (st.tile t).tagged = some st.now then none
          else if !st.poolRoom q vs then some refused
          else
            let s := setTeam q n k { w.team with weighed := some chance, target := some (ox, oy) } st
            some (vs.foldl (fun s (a, b) => swapTeam q a b s) s)

/-- Whether every store and outstanding access of a strand that can be performed has been (R238, R268, R319): one that fails, meets a WAIT reservation or
stands behind another access is left. -/
def State.settled (s : State) (i : StrandId) : Bool :=
  let t := s.strand i
  let waits (write : Bool) (l : Loc) (n : Nat) : Bool := s.meets none write l n = .wait
  let left (l : Loc) (r : Option State) : Bool := s.reach l ≠ .wait && r.isNone
  (t.lates.mapIdx fun k a => waits a.kind.writes a.phys.loc a.kind.size || t.blocks a || left a.phys.loc (completeLate i k s)).all id &&
  (t.orphans.mapIdx fun k e => waits e.kind.writes e.span.1 e.span.2 || t.orphanHeld k e || left e.phys.loc (drainStore i k s)).all id &&
  (t.stores.mapIdx fun k e =>
    waits e.kind.writes e.span.1 e.span.2 || t.storeHeld k e || left e.phys.loc (drainStore i (t.orphans.length + k) s)).all id

/-- Whether an event would do something. -/
def acts (o : Out) : Bool :=
  match o with
  | .next s => !s.idle
  | _ => false

/-- Whether a tile's engines have drained for its swap-out (R303, R319, R374). -/
def State.drainedTile (s : State) (t : TileId) : Bool :=
  let v := s.tile t
  let quiet : State := { s with idle := false }
  (slots (.tile t)).all (fun i => quiet.settled i) &&
  !((List.range v.fills.length).any fun k => acts (execQclaimFillDone t k quiet)) &&
  v.rels.isEmpty && v.fabric.elems.all (fun (_, x) => x.firings.isEmpty) && (v.fabric.selected.isNone || v.snapped) &&
  v.fabric.flights.all (fun fl => match (s.flightLeg fl.sent t fl).1 with | .drop _ _ _ => false | _ => fl.tok.kind ≠ .preempt)

/-- The tokens still on their way to a tile's inputs become caught tokens (R374, R375). -/
def catchAll (t : TileId) (s : State) : State :=
  (s.tile t).fabric.elems.foldl (fun s (q, _) =>
    let e : ElemId := ⟨t, BitVec.ofNat 8 q⟩
    (List.range 4).foldl (fun s n => catchInput e n s) s) s

/-- The strands of a tile that an image holds: those in use, and those with stores of strands that have gone. -/
def State.savedStrands (s : State) (t : TileId) : List (Nat × Strand) :=
  (slots (.tile t)).filterMap fun i =>
    let r := s.strand i
    if r.status = .free && r.orphans.isEmpty then none else some (i.slot.toNat, r)

/-- The local physical address of a save-pool block. -/
def Quad.poolBlock (d : Quad) (b : Nat) : Nat := d.savebase.toNat + b * 0x20000

/-- What the device writes to the `j`-th block of an image (R321): its layout is the device's own. -/
def imageBytes (base j : Nat) : List Byte := (List.range 16384).flatMap fun k => leBytes 8 (Config.freeWord (base + 16384 * j + k)).toNat

/-- Whether a saved image stands in the save pool as it was written, as its CRC-32C tells (R321). -/
def State.intact (s : State) (q : BitVec 2) (im : Image) : Bool :=
  im.blocks.zipIdx.all fun (b, j) =>
    let a := s.globalPa ((s.quad q).poolBlock b)
    !s.poisoned (.mem a) 0x20000 && s.mem.bytes a 0x20000 = imageBytes im.base j

/-- The image of a team, which goes to the save pool, and the state in which its tiles are being cleared (R319, R321). -/
def saveTeam (q : BitVec 2) (n k : Nat) (s : State) : Image × State :=
  let ts := s.teamTiles q n k
  let blocks := s.teamBlocks q n k
  let s := ts.foldl (fun s t => catchAll t s) s
  let at' (t : TileId) : Nat × Nat := match (s.tile t).res with | some r => (r.dx, r.dy) | none => (0, 0)
  let taken := (s.quad q).taken
  let im : Image :=
    { tiles := ts.map fun t => (at' t, s.tile t, s.savedStrands t)
      blocks := ((List.range (s.quad q).nblk.toNat).filter fun b => !taken.contains b).take blocks
      base := s.free }
  let s := im.blocks.zipIdx.foldl (fun s (b, j) => hwWrite (s.globalPa ((s.quad q).poolBlock b)) (imageBytes im.base j) s)
    { s with free := s.free + 16384 * im.blocks.length }
  (im, ts.foldl (fun s t => leaveTile t s) s)

/-- SWAP_OUT_SAVE (R319, R316): every engine has drained; the team is saved, or ends where nothing of it is left. -/
def execSwapOutSave (q : BitVec 2) (n k : Nat) (st : State) : Out :=
  event st <|
    match (st.launchAt q n).bind (·.team k) with
    | some tm =>
      match tm.state with
      | .draining _ _ =>
        let ts := st.teamTiles q n k
        if !ts.all (fun t => st.drainedTile t) then none
        else if ts.all fun t => st.tileOver t then some (endTeam q n k st)
        else
          let (im, s) := saveTeam q n k st
          some (setTeam q n k { tm with state := .saved im, since := st.now, claim := false, weighed := none, target := none } s)
      | _ => none
    | none => none

/-! ### Restore (R322) -/

/-- TMEM after a restore (R322): the preserved bytes, and beyond them each granule as it was or zero, by free choice. -/
def restoreTmem (limit base : Nat) (m : Mem) : Mem :=
  m.filter fun c => c.1 < limit || (Config.freeWord (base + c.1 / 16)).getLsbD 0

/-- The full bits after a restore: those of the preserved granules, and of the others that kept their bytes. -/
def restoreFull (limit base : Nat) (l : List Nat) : List Nat :=
  l.filter fun g => 16 * g < limit || (Config.freeWord (base + g)).getLsbD 0

/-- Whether a word of the lanes is in the image (R137, R138, R232). -/
def keptWord (gs : List (Nat × LaneGroup)) (ts : List (Nat × Strand)) (key : Nat) : Bool :=
  let word := key % 8
  let lane := key / 8 % 32
  let r := key / 256
  gs.any fun (_, g) =>
    g.base ≤ lane && lane < g.base + g.size &&
    match g.owner with
    | none => false
    | some o =>
      match amGet o.toNat ts with
      | none => false
      | some t => t.tundishRegs.contains r || (t.dirty.getLsbD r && word < savedWords g.size t)

/-- A tile of an image as it stands after its restore, before its strands issue. -/
def restoreTile (old saved : Tile) (ts : List (Nat × Strand)) (ox oy tmemp free now : Nat) : Tile :=
  let f := saved.fabric
  let f : Fabric :=
    if !f.swapped then f
    else { f with swapped := false, snap := none, elems := f.elems.map fun (q, x) => (q, { x with reached := none, sent := false, start := now + 64 }) }
  { saved with
    life := .resident, since := now, started := false, leave := false, power := .active,
    res := saved.res.map fun r => { r with ox := ox, oy := oy }
    core := { saved.core with rr := 0, greedy := none, icache := old.core.icache }
    tlb := old.tlb, port := old.port, sync := true, traced := old.traced
    tmem := restoreTmem (tmemp * 1024) free saved.tmem
    full := restoreFull (tmemp * 1024) free saved.full
    v := saved.v.filter fun w => keptWord saved.groups ts w.1
    fabric := f }

/-- A strand as its team is restored (R138, R322, R396): its wait count is zero, its translation context is the launch's, whose entry is read, and every
vector register that was saved is dirty. -/
def restoreStrand (q : BitVec 2) (c : BitVec 16) (r : Strand) (s : State) : Strand :=
  { r with
    gto := 0
    dirty := r.tundishRegs.foldl (fun d n => d ||| BitVec.twoPow 32 n) r.dirty
    ctxcur := c
    ctx := s.readCtx q c }

/-- The place that the address of a waiting access names now, as the access is replayed (R268); a failure is the strand's, as of one that has issued since
(R434), and the access is gone. While its walk must wait for a link port it keeps the place `p` that it had (log entry 95). -/
def replayed (i : StrandId) (a : FailedAccess) (p : Phys) (ea : Addr) (acc : Access) (pc : Addr) (s : State) : Option Phys × State :=
  let (x, s) := strandXl i s
  match translate x ea acc s with
  | .ok (p, s) => (some p, s)
  | .error f => if f = .waiting then (some p, s) else (none, (addAsync i ⟨f.cause, 0, true, (s.strand i).pc, pc, f.addr, f.detail⟩ s).modStrand i fun t => { t with failed := t.failed ++ [a] })

/-- The accesses of a restored strand that had not been performed are replayed (R268); so are the stores of strands that have gone, which have nobody to
tell. -/
def replayStrand (i : StrandId) (s : State) : State :=
  let t := s.strand i
  let s := s.setStrand i { t with lates := [], stores := [], orphans := [] }
  let s := t.lates.foldl (fun s a =>
    match replayed i (.late a) a.phys a.ea (if a.kind.writes then .write else .read) a.pc s with
    | (none, s) => s
    | (some p, s) => s.modStrand i fun r => { r with lates := r.lates ++ [{ a with phys := p }] }) s
  let again (gone : Bool) (s : State) (e : StoreEntry) : State :=
    match replayed i (.store e) e.phys e.ea (if e.kind.writes then .write else .read) e.pc s with
    | (none, z) => if gone then s else z
    | (some p, s) => s.modStrand i fun r =>
        if gone then { r with orphans := r.orphans ++ [{ e with phys := p }] } else { r with stores := r.stores ++ [{ e with phys := p }] }
  t.orphans.foldl (again true) (t.stores.foldl (again false) s)

/-- The reservations of the saved streams of a tile, stopped ones among them, are registered afresh (R221, R322). -/
def reserveAgain (t : TileId) (s : State) : State :=
  (s.tile t).streams.foldl (fun s (k, x) =>
    match registerStream t k x s with
    | .ok s => setStream t k { x with regdue := false } s
    | .error (some f) => if x.stopped then s else stopStream t k x f s
    | .error none => s) s

/-- The granules of a TMEM. -/
def tmemGranules : Nat := 0x30000

/-- Restores a team at an origin (R322). -/
def restoreTeam (q : BitVec 2) (c : BitVec 16) (tmemp ox oy : Nat) (im : Image) (s : State) : State :=
  let s := im.tiles.foldl (fun s ((dx, dy), v, ts) =>
    let t := tileAt q (ox + dx) (oy + dy)
    { s.setTile t (restoreTile (s.tile t) v ts ox oy tmemp s.free s.now) with free := s.free + tmemGranules }) s
  im.tiles.foldl (fun s ((dx, dy), _, ts) =>
    let t := tileAt q (ox + dx) (oy + dy)
    let s := ts.foldl (fun s (j, r) =>
      let i : StrandId := ⟨.tile t, BitVec.ofNat 3 j⟩
      replayStrand i (s.setStrand i (restoreStrand q c r s))) s
    let s := reserveAgain t s
    if (s.tile t).region = 0 then s else requestLeave t s) s

/-- TEAM_RESTORE (R322): a swapped-out team is placed again; an image whose CRC does not match puts the launch in state FAILED (R321). -/
def execTeamRestore (q : BitVec 2) (n k ox oy : Nat) (st : State) : Out :=
  event st <|
    match st.waiter q n k with
    | none => none
    | some w =>
      match w.team.state with
      | .saved im =>
        if !st.nextPlaced q w ox oy then none
        else if !st.intact q im then some (failLaunch q n 0 0 (setTeam q n k { w.team with state := .waiting } st))
        else
          let r := w.launch.record
          let wake := st.wakeTime q ox oy (st.covered q r ox oy)
          some (setTeam q n k { w.team.placed ox oy (st.now + wake) with restored := true } (restoreTeam q r.ctx r.tmemp ox oy im st))
      | _ => none

end Sys2Proof.Machine
end

