-- ==== Sys2Proof/Machine/Platform.lean ====
section
/-! DEFINITION. What happens around the cores: the Crucible's installs (R272), the host port and tagged writes (R265, R266, R420, R422), Ndeit Link
(R424 to R426), uncorrectable errors (R393), boot, resets and attestation (R429 to R433), and low-power states (R402). -/

namespace Sys2Proof.Machine

open Sys2Proof

/-! ### The Crucible (R270 to R275) -/

/-- LINE_INSTALL (R271, R272): a line of the quadrant's memory enters the data array at a fill or at the write-back of a modified copy, whichever line
and whenever the device does so. -/
def execLineInstall (q : BitVec 2) (line : Nat) (st : State) : Out :=
  event st (if !st.homed line || homeQuad line ≠ q then none else some (installLine line st))

/-! ### Accesses from outside (R266, R420, R422, R425) -/

/-- An access of an agent that takes no trap to bytes of one line of this device (R220): it waits at a reservation, or cuts it. -/
def agentAccess (write : Bool) (a n : Nat) (f : State → State) (s : State) : Option State :=
  if n = 0 || 128 < a % 128 + n then none
  else match s.meets none write (.mem a) n with
    | .free => some (f s)
    | .cut => some (f (cutRanges none write (.mem a) n s))
    | _ => none

/-- TAGGED_WRITE (R422): a write into the tagged-write window from outside. -/
def execTaggedWrite (_ : BitVec 21) (offset : Nat) (bytes : List Byte) (st : State) : Out :=
  event st (if bytes.isEmpty || 2 ^ 37 ≤ offset then none else some (taggedWrite offset bytes st))

/-- Bytes of a line with some replaced from an offset on. -/
def patch (old : List Byte) (off : Nat) (bs : List Byte) : List Byte := old.take off ++ bs ++ old.drop (off + bs.length)

/-- A non-coherent write of bytes of one line to HBM (R266), which withdraws every link on the line (R245). Caches keep what they hold; whether one
holds a clean copy that nothing shows is the device's. -/
def barLine (a : Nat) (bs : List Byte) (s : State) : State :=
  let line := a / 128
  let off := a % 128
  let s := endMerges (.mem a) bs.length (loseLinks none (.mem line) s)
  let s := { s with poison := healPoison .mem a bs.length s.poison }
  match s.home.find? (·.line = line) with
  | some h => { s with home := s.home.map fun g => if g.line = line then { g with bytes := patch h.bytes off bs } else g }
  | none =>
    let (x, s) := s.fresh
    if x.getLsbD 0 || (s.quad (homeQuad line)).crucible.tags.any (·.line = line) then
      { s with home := { line := line, bytes := patch (s.mem.bytes (128 * line) 128) off bs, stale := true } :: s.home }
    else { s with mem := s.mem.write a bs }

/-- A non-coherent write of bytes to HBM, line by line. -/
def barWrite (a : Nat) (bs : List Byte) (s : State) : State :=
  (linesOf a bs.length).foldl (fun s n =>
    let lo := Nat.max a (128 * n)
    let hi := Nat.min (a + bs.length) (128 * n + 128)
    barLine lo ((bs.drop (lo - a)).take (hi - lo)) s) s

/-- Whether an access of `n` bytes has the size and alignment of one register access. -/
def regAligned (a n : Nat) : Bool := (n = 1 || n = 2 || n = 4 || n = 8) && a % n = 0

/-- HOST_BAR_ACCESS (R266, R420): reads of the windows change nothing; an
uncorrectable error that one meets is recorded (R393). -/
def execHostBarAccess (bar : Bar) (op : BusOp) (st : State) : Out :=
  event st <|
    match bar, op with
    | .bar0, .read a n => if regAligned a n && a < 0x2000000 then some st else none
    | .bar0, .write a bs =>
      if regAligned a bs.length && a < 0x2000000 then some (barReg (regionOf (0x8000000000 + a)) bs st) else none
    | .bar2, .read a n => if a + n ≤ 0x8000000000 then some (notePoison (st.globalPa a) n st) else none
    | .bar2, .write a bs => if a + bs.length ≤ 0x8000000000 then some (barWrite (st.globalPa a) bs st) else none
    | .bar4, .read a n => if a + n ≤ 2 ^ 37 then some st else none
    | .bar4, .write a bs => if bs.isEmpty || 2 ^ 37 ≤ a then none else some (taggedWrite a bs st)

/-- An access from outside bypasses translation: the DDID of its line is 0 (R271). -/
def noteOuter (a : Nat) (s : State) : State := { s with domains := s.domains.filter (·.1 ≠ a / 128) }

/-- A request from outside to an address of this device (R418, R425): memory is coherent; a register block answers with an error, and nothing changes;
reads of the tagged-write window return zero. An uncorrectable error that a read meets is recorded (R393). -/
def outerRead (a n : Nat) (s : State) : Option State :=
  if !s.own a then none
  else match regionOf (localOf a) with
    | .hbm => agentAccess false a n (fun s => notePoison a n (noteOuter a s)) s
    | .cxl => agentAccess false a n id s
    | _ => some s

/-- A store from outside to an address of this device. -/
def outerWrite (a : Nat) (bs : List Byte) (s : State) : Option State :=
  if !s.own a then none
  else match regionOf (localOf a) with
    | .hbm => agentAccess true a bs.length (fun s => writeMem none a bs (noteOuter a s)) s
    | .cxl => agentAccess true a bs.length (writeMem none a bs) s
    | .tagged off => if bs.isEmpty then none else some (taggedWrite off bs s)
    | _ => some s

/-- CXL_REQUEST (R266): a coherent request of the host or a peer to memory of this device. -/
def execCxlRequest (op : BusOp) (st : State) : Out :=
  event st <|
    match op with
    | .read a n => outerRead a n st
    | .write a bs => match regionOf (localOf a) with | .tagged _ => none | _ => outerWrite a bs st

/-- NDEIT_LOAD (R425): 1 to 128 bytes within one line. -/
def execNdeitLoad (addr len : Nat) (st : State) : Out :=
  event st (if len = 0 || 128 < addr % 128 + len then none else outerRead addr len st)

/-- NDEIT_STORE (R425): 1 to 128 bytes within one line, and tagged writes. -/
def execNdeitStore (addr : Nat) (bytes : List Byte) (st : State) : Out :=
  event st (if bytes.isEmpty || 128 < addr % 128 + bytes.length then none else outerWrite addr bytes st)

/-- An atomic operation by number, in the order of R237. -/
def amoOfCode (n : Nat) : Option AmoOp := [AmoOp.add, .and, .or, .xor, .min, .max, .minu, .maxu, .fadd, .swap, .cas][n]?

/-- A place of this device's memory as a request from outside names it. -/
def outerPlace (a : Nat) : Phys := ⟨.mem a, false, 0, true, none⟩

/-- An update from outside: memory only; of anything else it completes with an error. -/
def outerUpdate (a size : Nat) (f : State → State) (s : State) : Option State :=
  if !s.own a || !(size = 4 || size = 8) || a % size != 0 then none
  else match regionOf (localOf a) with
    | .hbm => agentAccess true a size (fun s => f (noteOuter a s)) s
    | .cxl => agentAccess true a size f s
    | _ => some s

/-- NDEIT_ATOMIC (R425): performed at its point of coherence; corrupt data leaves the word as it was. -/
def execNdeitAtomic (op : BitVec 5) (addr size : Nat) (operand expected : BitVec 64) (st : State) : Out :=
  event st <|
    match amoOfCode op.toNat with
    | none => none
    | some k =>
      outerUpdate addr size (fun s =>
        match atomicUpdate none (outerPlace addr) k size (operand.toNat % 2 ^ (8 * size)) (expected.toNat % 2 ^ (8 * size)) s with
        | .ok (_, s) => s
        | .error _ => notePoison addr size s) st

/-- NDEIT_REDUCTION (R242, R425): a partial is applied, a float sum merged with partials before it or not. -/
def execNdeitReduction (op : BitVec 5) (addr size : Nat) (operand : BitVec 64) (st : State) : Out :=
  event st <|
    match amoOfCode op.toNat with
    | none => none
    | some k =>
      if k = .swap || k = .cas then none
      else outerUpdate addr size (applyPartial k ⟨outerPlace addr, 0, size, operand.toNat % 2 ^ (8 * size)⟩) st

/-- Memory whose owner is another agent has changed there: free bytes, no modified copy of the line, and links on it are lost. -/
def refetch (line : Nat) (s : State) : State :=
  let bs := (List.range 16).flatMap fun k => leBytes 8 (Config.freeWord (s.free + k)).toNat
  let s := { s with free := s.free + 16 }
  endMerges (.mem (128 * line)) 128
    (loseLinks none (.mem line) { s with mem := s.mem.write (128 * line) bs, home := s.home.filter (·.line ≠ line) })

/-- NDEIT_COHERENCE (R264, R425): a request for a line of this device, which changes no value, or a snoop that takes the device's copy of another
device's line, whose owner may then have written it. -/
def execNdeitCoherence (line : Nat) (st : State) : Out :=
  event st <|
    if st.homed line then agentAccess false (128 * line) 128 id st
    else if st.own (128 * line) then none
    else some (refetch line st)

/-- BACK_INVALIDATE (R265): a peer takes the device's clean copy of a line of its memory, which it may then write. -/
def execBackInvalidate (line : Nat) (st : State) : Out :=
  event st <|
    if st.own (128 * line) && regionOf (localOf (128 * line)) = .cxl then some (refetch line st) else none

/-! ### Ndeit Link ports (R424 to R426) -/

/-- A link port. -/
def State.port (s : State) (p : BitVec 4) : LinkPort := s.dev.ports.get p.toFin

/-- Replaces a link port. -/
def setPort (p : BitVec 4) (v : LinkPort) (s : State) : State :=
  { s with dev := { s.dev with ports := s.dev.ports.set p.toNat v p.isLt } }

/-- FLIT_REPLAY (R424, R425): the count saturates. -/
def execFlitReplay (p : BitVec 4) (st : State) : Out :=
  event st <|
    let v := st.port p
    if v.state ≠ 2 then none
    else some (setPort p { v with replay := if v.replay = BitVec.allOnes 24 then v.replay else v.replay + 1 } st)

/-- LINK_RETRAIN (R426): requests routed to the port wait. -/
def execLinkRetrain (p : BitVec 4) (st : State) : Out :=
  event st <|
    let v := st.port p
    if v.state ≠ 2 then none
    else some (setPort p { v with state := 1, retrain := if v.retrain = BitVec.allOnes 16 then v.retrain else v.retrain + 1 } st)

/-- LINK_RETRAIN_DONE (R426): the port is up again, or has failed, with an error record; what had waited fails as it is performed. -/
def execLinkRetrainDone (p : BitVec 4) (ok : Bool) (st : State) : Out :=
  event st <|
    let v := st.port p
    if v.state ≠ 1 || v.retrain = 0 then none
    else if ok then some (setPort p { v with state := 2 } st)
    else some (errorRecord 0 3 127 0 0 0 (setPort p { v with state := 3, lanes := 0 } st))

/-- LINK_TRAINING_DONE (R425): a port that level M has enabled, by means that are the device's own, comes up with some of its lanes.
Without a device number it enables none (R430). -/
def execLinkTrainingDone (p : BitVec 4) (st : State) : Out :=
  event st <|
    let v := st.port p
    if (v.state ≠ 0 && v.state ≠ 1) || st.dev.unnumbered then none
    else
      let (w, s) := st.fresh
      some (setPort p { v with state := 2, lanes := BitVec.ofNat 3 (w.toNat % 4 + 1) } s)

/-! ### Uncorrectable errors (R393) -/

/-- A line's storage fails: none of its bytes have been rewritten yet. -/
def failLine (l : Line) (s : State) : State := { s with poison := ⟨l, 0⟩ :: s.poison.filter (·.line ≠ l) }

/-- What an engine of a tile does for a strand: the delivery of a fault to each piece of work (R217, R196, R301). -/
def Tile.workers (u : TileId) (v : Tile) : List (Flt → State → State) :=
  ((v.streams.filter fun p => !p.2.stopped).map fun (k, x) => stopStream u k x) ++
  ((v.jobs.filter fun p => !p.2.stopped).map fun (k, j) => stopJob u k j) ++
  ((v.mats.take 1).filter fun e => e.started && !e.stopped).map fun e => stopArray u e

/-- An error in what an engine of a tile consumes (R393): the strand that issued the work, whichever work it is, takes an asynchronous MACHINE_CHECK; with
no work it is recorded. The failing address is the device's. -/
def engineError (u : TileId) (s : State) : State :=
  let ws := (s.tile u).workers u
  let (w, s') := s.fresh
  match ws[w.toNat % ws.length]? with
  | some stop => let (a, s') := s'.fresh; stop ⟨cMachineCheck, a.setWidth 80, 0⟩ s'
  | none => errorRecord u.quad 2 u.idx.toNat 0 (s.tileHandle u) 0 s

/-- An error in data that a strand consumes (R393): precise where it is found before the strand's next issue, at the instruction that is to issue, and
asynchronous otherwise; which of them, and the address, are the device's. -/
def strandError (i : StrandId) (s : State) : State :=
  let t := s.strand i
  let (w, s) := s.fresh
  let (a, s) := s.fresh
  if w.getLsbD 0 && t.status = .running && s.coreRuns i.core && s.slotOpen i.core
  then lone i.core (takeTrap i (preciseRec t ⟨cMachineCheck, a.setWidth 80, 0⟩) s)
  else addAsync i (engineRec 0 t cMachineCheck 0 (a.setWidth 80) 0) s

/-- UNCORRECTABLE_ERROR (R393): a line of HBM, TMEM or operand memory fails, so that its readers take MACHINE_CHECK; the data of a strand or of an engine
that works for one, which traps; or what no strand consumes, which is recorded. -/
def execUncorrectableError (site : ErrorSite) (st : State) : Out :=
  event st <|
    match site with
    | .memoryLine n => if !st.homed n then none else some (failLine (.mem n) st)
    | .tmemLine t n => if 0x300000 ≤ 128 * n then none else some (failLine (.tmem t n) st)
    | .omLine t n => if 0x100000 ≤ 128 * n then none else some (failLine (.om t n) st)
    | .strandLocal i =>
      if !(st.strand i).status.alive then none else some (strandError i st)
    | .tileEngine u => some (engineError u st)
    | .unattributed q u => some (errorRecord q (if u = 0 then 1 else 2) 127 0 0 0 st)

/-! ### Boot and resets (R17, R420, R429, R430, R432, R433) -/

/-- The device held in reset: nothing of its quadrants is left but the map of enabled tiles, HBM holds nothing, and fuses and DEVNUM stay (R429, R430). -/
def inReset (s : State) : State :=
  { State.reset with
    sched := s.sched
    now := s.now
    free := s.free
    strands := []
    quads := s.quads.map fun q => { inReset := true, tilemap := q.tilemap }
    dev := { fuses := s.dev.fuses, devnum := s.dev.devnum, numbered := s.dev.numbered, unnumbered := s.dev.unnumbered }
    mem := s.mem.filter fun c => !(s.own c.1 && regionOf (localOf c.1) = .hbm) }

/-- Some fresh free words. -/
def freshBytes (n : Nat) (s : State) : List Byte × State :=
  ((List.range n).flatMap fun k => leBytes 8 (Config.freeWord (s.free + k)).toNat, { s with free := s.free + n })

/-- The keys that the root of trust draws for a quadrant (R275, R377). -/
def drawKeys (q : BitVec 2) (s : State) : State :=
  let (a, s) := freshBytes 4 s
  let (b, s) := freshBytes 4 s
  s.modQuad q fun v => { v with inReset := false, sealKey := BitVec.ofNat 256 (leNat a), crkey := BitVec.ofNat 256 (leNat b) }

/-- The quadrants. -/
def allQuads : List (BitVec 2) := [0, 1, 2, 3]

/-- DEVNUM as the root of trust reads it from the platform block (R430), once while power is applied; a block without a valid number gives 0. -/
def readDevnum (s : State) : State :=
  if s.dev.numbered then s
  else
    let (w, s) := s.fresh
    let valid := w.getLsbD 63
    { s with dev := { s.dev with devnum := if valid then w.setWidth 21 else 0, numbered := true, unnumbered := !valid } }

/-- The status of the root of trust for a firmware image (R429, R432): its key's digest, its security version and its signature are checked in this
order. -/
def bootStatus (f : Fuses) (key : List Byte) (version : Word) (digest : BitVec 512) (sig : List Byte) : BitVec 8 :=
  if sha3 key ≠ f.digest then 1
  else if version.toNat < f.version.toNat then 2
  else if !mlDsaVerify key digest sig then 1
  else 0

/-- ROOT_OF_TRUST_BOOT (R17, R429), once after each reset: the image in the boot flash is checked; where it passes, it is measured, keys are
drawn, DEVNUM is read, and the quadrants are released. The firmware begins in slot 0 of each control core at the device's local address 0, which is the
model's choice (log entry 2). -/
def execRootOfTrustBoot (st : State) : Out :=
  event st <|
    if st.dev.rot ≠ 0 || !st.quads.toList.all (·.inReset) then none
    else
      let n := st.free
      let key := fitBytes 2592 (Config.flash n)
      let digest := sha3 (Config.flash (n + 1))
      let version := Config.freeWord n
      let code := bootStatus st.dev.fuses key version digest (fitBytes 4627 (Config.flash (n + 2)))
      let s := { st with free := n + 3 }
      if code ≠ 0 then some { s with dev := { s.dev with rot := code } }
      else
        let dev := { s.dev with meas := #v[digest, 0, 0, 0], secver := version, imgid := Config.freeWord (n + 1), rot := 0 }
        let s := readDevnum (allQuads.foldl (fun s q => drawKeys q s) { s with dev := dev })
        some { s with strands := State.reset.strands.map fun (k, t) => (k, { t with pc := BitVec.ofNat 80 (s.globalPa 0) }) }

/-- SECONDARY_BUS_RESET (R420). -/
def execSecondaryBusReset (st : State) : Out := event st (some (inReset st))

/-- MGMT_RESET (R432): only the value 0xA5 resets. -/
def execMgmtReset (v : Byte) (st : State) : Out := event st (some (if v = 0xA5 then inReset st else st))

/-- THERMAL_SHUTDOWN (R433). -/
def execThermalShutdown (st : State) : Out := event st (some (inReset st))

/-! ### Attestation (R431) -/

/-- The signed part of a report. -/
def reportBody (nonce : BitVec 512) (d : Device) : List Byte :=
  leBytes 64 nonce.toNat ++ d.meas.toList.flatMap (fun m => leBytes 64 m.toNat) ++
  leBytes 8 d.devnum.toNat ++ leBytes 8 d.secver.toNat ++ leBytes 8 d.imgid.toNat ++ zeroBytes 40

/-- The private part of the device's identity key pair (R429). -/
def Device.identityKey (d : Device) : List Byte := Config.identityKey d.fuses.seed (d.meas.get 0)

/-- ATTEST_REPORT (R431): the oldest command that waits at the mailbox; the signature's 4,627 bytes are by the identity key. -/
def execAttestReport (nonce : BitVec 512) (st : State) : Out :=
  event st <|
    match st.dev.asks with
    | [] => none
    | _ :: r =>
      let b := reportBody nonce st.dev
      let sig := fitBytes 4627 (Config.sign st.dev.identityKey (sha3 b) st.free)
      some { st with dev := { st.dev with report := b ++ sig, mbox := 0, asks := r }, free := st.free + 1 }

/-- ATTEST_EXTEND (R431): MEAS1 to MEAS3, for level M; for anyone else, and for another register, it completes with status 1 and changes nothing. -/
def execAttestExtend (n : Nat) (digest : BitVec 512) (st : State) : Out :=
  event st <|
    match st.dev.asks with
    | [] => none
    | who :: r =>
      if h : 1 ≤ n ∧ n ≤ 3 ∧ who = .levelM then
        let m := st.dev.meas.get ⟨n, by omega⟩
        let x := sha3 (leBytes 64 m.toNat ++ leBytes 64 digest.toNat)
        some { st with dev := { st.dev with meas := st.dev.meas.set n x (by omega), mbox := 0, asks := r } }
      else some { st with dev := { st.dev with mbox := 1, asks := r } }

/-! ### Management (R432) -/

/-- What a private read of a register of the management interface answers (R432), in reset too. -/
def mgmtRead (reg : Nat) (s : State) : List Nat :=
  match reg with
  | 0 => [Config.deviceIdentity.toNat, s.dev.devnum.toNat]
  | 1 => [(Config.dieTemperature s.now).toNat]
  | 2 => [(Config.modulePower s.now).toNat]
  | 3 => s.quads.toList.map (·.errors)
  | 4 => [s.dev.rot.toNat]
  | _ => []

/-! ### Low-power states (R402) -/

/-- TILE_LOW_POWER_ENTRY (R402): 1,250 ac after a tile without a team has been cleared. -/
def execTileLowPowerEntry (t : TileId) (st : State) : Out :=
  event st <|
    let v := st.tile t
    let p := deepest (st.quad t.quad).lattol
    if !st.enabled t || v.life ≠ .idle || st.now < v.since + 1250 || p.exit ≤ v.power.exit then none
    else some (st.setTile t { v with power := p })

end Sys2Proof.Machine
end

