-- ==== Sys2Proof/Machine/Scalar.lean ====
section
/-! DEFINITION. Integer, address, branch and scalar floating-point instructions: majors 0x01 to 0x0E (R96 to R106). -/

namespace Sys2Proof.Machine

open Sys2Proof

/-! ### Integer arithmetic (R96, R97) -/

/-- Signed quotient truncated toward zero, saturating (R97). -/
def divSigned (s t : Word) : Word :=
  if t = 0 then (if s.slt 0 then BitVec.intMin 64 else BitVec.intMax 64)
  else if s = BitVec.intMin 64 && t = BitVec.allOnes 64 then BitVec.intMax 64
  else BitVec.ofInt 64 (s.toInt.tdiv t.toInt)

/-- Unsigned quotient, saturating for a zero divisor (R97). -/
def divUnsigned (s t : Word) : Word := if t = 0 then BitVec.allOnes 64 else BitVec.ofNat 64 (s.toNat / t.toNat)

/-- Signed remainder with the sign of the dividend; the dividend itself for a zero divisor (R97). -/
def remSigned (s t : Word) : Word := if t = 0 then s else BitVec.ofInt 64 (s.toInt.tmod t.toInt)

/-- Unsigned remainder; the dividend itself for a zero divisor (R97). -/
def remUnsigned (s t : Word) : Word := if t = 0 then s else BitVec.ofNat 64 (s.toNat % t.toNat)

/-- The high 64 bits of the signed product. -/
def mulHigh (s t : Word) : Word := BitVec.ofInt 64 (s.toInt * t.toInt / 2 ^ 64)

/-- The high 64 bits of the unsigned product. -/
def mulHighU (s t : Word) : Word := BitVec.ofNat 64 (s.toNat * t.toNat / 2 ^ 64)

/-- The number of one bits. -/
def popCount (s : Word) : Word := BitVec.ofNat 64 ((List.range 64).countP fun n => s.getLsbD n)

/-- The number of leading zero bits; 64 for 0. -/
def leadingZeros (s : Word) : Word := BitVec.ofNat 64 (((List.range 64).takeWhile fun n => !s.getLsbD (63 - n)).length)

/-- The number of trailing zero bits; 64 for 0. -/
def trailingZeros (s : Word) : Word := BitVec.ofNat 64 (((List.range 64).takeWhile fun n => !s.getLsbD n).length)

/-- A register-register integer instruction (major 0x01). -/
def alu (d s t : BitVec 5) (st : State) (f : Word → Word → Word) : Out :=
  issueX st one d [s, t] fun r => f (r.xr s) (r.xr t)

/-- A unary integer instruction (major 0x01). -/
def alu1 (d s : BitVec 5) (st : State) (f : Word → Word) : Out := issueX st one d [s] fun r => f (r.xr s)

/-- ADD (R96). -/
def execAdd (d s t : BitVec 5) (st : State) : Out := alu d s t st fun s t => s + t

/-- SUB (R96). -/
def execSub (d s t : BitVec 5) (st : State) : Out := alu d s t st fun s t => s - t

/-- AND (R96). -/
def execAnd (d s t : BitVec 5) (st : State) : Out := alu d s t st fun s t => s &&& t

/-- OR (R96). -/
def execOr (d s t : BitVec 5) (st : State) : Out := alu d s t st fun s t => s ||| t

/-- XOR (R96). -/
def execXor (d s t : BitVec 5) (st : State) : Out := alu d s t st fun s t => s ^^^ t

/-- SLL (R96). -/
def execSll (d s t : BitVec 5) (st : State) : Out := alu d s t st fun s t => s <<< (t.toNat % 64)

/-- SRL (R96). -/
def execSrl (d s t : BitVec 5) (st : State) : Out := alu d s t st fun s t => s >>> (t.toNat % 64)

/-- SRA (R96). -/
def execSra (d s t : BitVec 5) (st : State) : Out := alu d s t st fun s t => s.sshiftRight (t.toNat % 64)

/-- SLT (R96). -/
def execSlt (d s t : BitVec 5) (st : State) : Out := alu d s t st fun s t => boolWord (s.slt t)

/-- SLTU (R96). -/
def execSltu (d s t : BitVec 5) (st : State) : Out := alu d s t st fun s t => boolWord (s.ult t)

/-- MIN (R96). -/
def execMin (d s t : BitVec 5) (st : State) : Out := alu d s t st fun s t => if s.slt t then s else t

/-- MAX (R96). -/
def execMax (d s t : BitVec 5) (st : State) : Out := alu d s t st fun s t => if s.slt t then t else s

/-- MINU (R96). -/
def execMinu (d s t : BitVec 5) (st : State) : Out := alu d s t st fun s t => if s.ult t then s else t

/-- MAXU (R96). -/
def execMaxu (d s t : BitVec 5) (st : State) : Out := alu d s t st fun s t => if s.ult t then t else s

/-- MUL (R96). -/
def execMul (d s t : BitVec 5) (st : State) : Out := alu d s t st fun s t => s * t

/-- MULH (R96). -/
def execMulh (d s t : BitVec 5) (st : State) : Out := alu d s t st fun s t => mulHigh s t

/-- MULHU (R96). -/
def execMulhu (d s t : BitVec 5) (st : State) : Out := alu d s t st fun s t => mulHighU s t

/-- DIV (R96). -/
def execDiv (d s t : BitVec 5) (st : State) : Out := alu d s t st fun s t => divSigned s t

/-- DIVU (R96). -/
def execDivu (d s t : BitVec 5) (st : State) : Out := alu d s t st fun s t => divUnsigned s t

/-- REM (R96). -/
def execRem (d s t : BitVec 5) (st : State) : Out := alu d s t st fun s t => remSigned s t

/-- REMU (R96). -/
def execRemu (d s t : BitVec 5) (st : State) : Out := alu d s t st fun s t => remUnsigned s t

/-- ADD32 (R96). -/
def execAdd32 (d s t : BitVec 5) (st : State) : Out := alu d s t st fun s t => sext64 ((s + t).setWidth 32)

/-- SUB32 (R96). -/
def execSub32 (d s t : BitVec 5) (st : State) : Out := alu d s t st fun s t => sext64 ((s - t).setWidth 32)

/-- CLZ (R96). -/
def execClz (d s : BitVec 5) (st : State) : Out := alu1 d s st fun s => leadingZeros s

/-- CTZ (R96). -/
def execCtz (d s : BitVec 5) (st : State) : Out := alu1 d s st fun s => trailingZeros s

/-- POPC (R96). -/
def execPopc (d s : BitVec 5) (st : State) : Out := alu1 d s st fun s => popCount s

/-- SXB (R96). -/
def execSxb (d s : BitVec 5) (st : State) : Out := alu1 d s st fun s => sext64 (s.setWidth 8)

/-- SXH (R96). -/
def execSxh (d s : BitVec 5) (st : State) : Out := alu1 d s st fun s => sext64 (s.setWidth 16)

/-- SXW (R96). -/
def execSxw (d s : BitVec 5) (st : State) : Out := alu1 d s st fun s => sext64 (s.setWidth 32)

/-- ZXW (R96). -/
def execZxw (d s : BitVec 5) (st : State) : Out := alu1 d s st fun s => zext64 (s.setWidth 32)

/-! ### Immediate forms (R98) -/

/-- ADDI (R98). -/
def execAddi (d s : BitVec 5) (i : BitVec 14) (st : State) : Out := issueX st one d [s] fun r => r.xr s + sext64 i

/-- ADDI, two parcels (R98). -/
def execAddiImm32 (d s : BitVec 5) (i : BitVec 32) (st : State) : Out := issueX st two d [s] fun r => r.xr s + sext64 i

/-- ANDI (R98). -/
def execAndi (d s : BitVec 5) (i : BitVec 12) (st : State) : Out := issueX st one d [s] fun r => r.xr s &&& sext64 i

/-- ANDI, two parcels (R98). -/
def execAndiImm32 (d s : BitVec 5) (i : BitVec 32) (st : State) : Out := issueX st two d [s] fun r => r.xr s &&& sext64 i

/-- ORI (R98). -/
def execOri (d s : BitVec 5) (i : BitVec 12) (st : State) : Out := issueX st one d [s] fun r => r.xr s ||| sext64 i

/-- ORI, two parcels (R98). -/
def execOriImm32 (d s : BitVec 5) (i : BitVec 32) (st : State) : Out := issueX st two d [s] fun r => r.xr s ||| sext64 i

/-- XORI (R98). -/
def execXori (d s : BitVec 5) (i : BitVec 12) (st : State) : Out := issueX st one d [s] fun r => r.xr s ^^^ sext64 i

/-- XORI, two parcels (R98). -/
def execXoriImm32 (d s : BitVec 5) (i : BitVec 32) (st : State) : Out := issueX st two d [s] fun r => r.xr s ^^^ sext64 i

/-- SLLI (R98). -/
def execSlli (d s : BitVec 5) (h : BitVec 6) (st : State) : Out := issueX st one d [s] fun r => r.xr s <<< h.toNat

/-- SRLI (R98). -/
def execSrli (d s : BitVec 5) (h : BitVec 6) (st : State) : Out := issueX st one d [s] fun r => r.xr s >>> h.toNat

/-- SRAI (R98). -/
def execSrai (d s : BitVec 5) (h : BitVec 6) (st : State) : Out := issueX st one d [s] fun r => (r.xr s).sshiftRight h.toNat

/-- LUI (R98): sext of the 32-bit value IMM19 × 2^13. -/
def execLui (d : BitVec 5) (i : BitVec 19) (st : State) : Out := issueX st one d [] fun _ => sext64 (i ++ 0#13)

/-- LIW (R98). -/
def execLiw (d : BitVec 5) (i : BitVec 32) (st : State) : Out := issueX st two d [] fun _ => sext64 i

/-- LIQ (R98). -/
def execLiq (d : BitVec 5) (i : BitVec 64) (st : State) : Out := issueX st three d [] fun _ => i

/-! ### Scalar floating point (R99 to R101) -/

/-- A scalar float instruction (major 0x06): the result of `f` on the format, the rounding mode of FRM, FZ and the codes of s, t and
the old d; its flags reach `fcsr` (R71). -/
def fpu (F : FFmt) (d : BitVec 5) (reads : List (BitVec 5)) (st : State) (f : RMode → Bool → Strand → Nat × Flags) : Out :=
  issue st one fun i t s =>
    if t.anyX (d :: reads) then .error .stall
    else
      let (v, fl) := f (frmOf t.fcsr) (fzOf t.fcsr) t
      .ok (s.modStrand i fun t => (t.setX d (BitVec.ofNat 64 (v % 2 ^ F.width))).raise fl)

/-- The code of a register in a format: .S reads bits 31-0. -/
def FFmt.code (F : FFmt) (t : Strand) (r : BitVec 5) : Nat := (t.xr r).toNat % 2 ^ F.width

/-- FADD.S (R99, R100). -/
def execFaddS (d s t : BitVec 5) (st : State) : Out :=
  fpu .fp32 d [s, t] st fun m z r => FFmt.fp32.add m z (FFmt.fp32.code r s) (FFmt.fp32.code r t)

/-- FSUB.S (R99, R100). -/
def execFsubS (d s t : BitVec 5) (st : State) : Out :=
  fpu .fp32 d [s, t] st fun m z r => FFmt.fp32.sub m z (FFmt.fp32.code r s) (FFmt.fp32.code r t)

/-- FMUL.S (R99, R100). -/
def execFmulS (d s t : BitVec 5) (st : State) : Out :=
  fpu .fp32 d [s, t] st fun m z r => FFmt.fp32.mul m z (FFmt.fp32.code r s) (FFmt.fp32.code r t)

/-- FDIV.S (R99, R100). -/
def execFdivS (d s t : BitVec 5) (st : State) : Out :=
  fpu .fp32 d [s, t] st fun m z r => FFmt.fp32.div m z (FFmt.fp32.code r s) (FFmt.fp32.code r t)

/-- FSQRT.S (R99, R100). -/
def execFsqrtS (d s : BitVec 5) (st : State) : Out :=
  fpu .fp32 d [s] st fun m z r => FFmt.fp32.sqrt m z (FFmt.fp32.code r s)

/-- FMIN.S (R100). -/
def execFminS (d s t : BitVec 5) (st : State) : Out :=
  fpu .fp32 d [s, t] st fun _ z r => FFmt.fp32.minMax false z (FFmt.fp32.code r s) (FFmt.fp32.code r t)

/-- FMAX.S (R100). -/
def execFmaxS (d s t : BitVec 5) (st : State) : Out :=
  fpu .fp32 d [s, t] st fun _ z r => FFmt.fp32.minMax true z (FFmt.fp32.code r s) (FFmt.fp32.code r t)

/-- FMA.S (R99): one rounding of the exact sum with the old xD. -/
def execFmaS (d s t : BitVec 5) (st : State) : Out :=
  fpu .fp32 d [s, t] st fun m z r => FFmt.fp32.fma m z false false (FFmt.fp32.code r s) (FFmt.fp32.code r t) (FFmt.fp32.code r d)

/-- FNMA.S (R99): one rounding of the exact sum with the old xD. -/
def execFnmaS (d s t : BitVec 5) (st : State) : Out :=
  fpu .fp32 d [s, t] st fun m z r => FFmt.fp32.fma m z true false (FFmt.fp32.code r s) (FFmt.fp32.code r t) (FFmt.fp32.code r d)

/-- FADD.D (R99, R100). -/
def execFaddD (d s t : BitVec 5) (st : State) : Out :=
  fpu .fp64 d [s, t] st fun m z r => FFmt.fp64.add m z (FFmt.fp64.code r s) (FFmt.fp64.code r t)

/-- FSUB.D (R99, R100). -/
def execFsubD (d s t : BitVec 5) (st : State) : Out :=
  fpu .fp64 d [s, t] st fun m z r => FFmt.fp64.sub m z (FFmt.fp64.code r s) (FFmt.fp64.code r t)

/-- FMUL.D (R99, R100). -/
def execFmulD (d s t : BitVec 5) (st : State) : Out :=
  fpu .fp64 d [s, t] st fun m z r => FFmt.fp64.mul m z (FFmt.fp64.code r s) (FFmt.fp64.code r t)

/-- FDIV.D (R99, R100). -/
def execFdivD (d s t : BitVec 5) (st : State) : Out :=
  fpu .fp64 d [s, t] st fun m z r => FFmt.fp64.div m z (FFmt.fp64.code r s) (FFmt.fp64.code r t)

/-- FSQRT.D (R99, R100). -/
def execFsqrtD (d s : BitVec 5) (st : State) : Out :=
  fpu .fp64 d [s] st fun m z r => FFmt.fp64.sqrt m z (FFmt.fp64.code r s)

/-- FMIN.D (R100). -/
def execFminD (d s t : BitVec 5) (st : State) : Out :=
  fpu .fp64 d [s, t] st fun _ z r => FFmt.fp64.minMax false z (FFmt.fp64.code r s) (FFmt.fp64.code r t)

/-- FMAX.D (R100). -/
def execFmaxD (d s t : BitVec 5) (st : State) : Out :=
  fpu .fp64 d [s, t] st fun _ z r => FFmt.fp64.minMax true z (FFmt.fp64.code r s) (FFmt.fp64.code r t)

/-- FMA.D (R99): one rounding of the exact sum with the old xD. -/
def execFmaD (d s t : BitVec 5) (st : State) : Out :=
  fpu .fp64 d [s, t] st fun m z r => FFmt.fp64.fma m z false false (FFmt.fp64.code r s) (FFmt.fp64.code r t) (FFmt.fp64.code r d)

/-- FNMA.D (R99): one rounding of the exact sum with the old xD. -/
def execFnmaD (d s t : BitVec 5) (st : State) : Out :=
  fpu .fp64 d [s, t] st fun m z r => FFmt.fp64.fma m z true false (FFmt.fp64.code r s) (FFmt.fp64.code r t) (FFmt.fp64.code r d)

/-- A scalar compare (R101): 1 or 0 to xD, its flags to `fcsr`. `which` is 0 for equal, 1 for less, 2 for less or equal. -/
def fcompare (F : FFmt) (which : Nat) (d s t : BitVec 5) (st : State) : Out :=
  issue st one fun i r st =>
    if r.anyX [d, s, t] then .error .stall
    else
      let (b, fl) := F.compare which (fzOf r.fcsr) (F.code r s) (F.code r t)
      .ok (st.modStrand i fun r => (r.setX d (boolWord b)).raise fl)

/-- FEQ.S (R101). -/
def execFeqS (d s t : BitVec 5) (st : State) : Out := fcompare .fp32 0 d s t st

/-- FLT.S (R101). -/
def execFltS (d s t : BitVec 5) (st : State) : Out := fcompare .fp32 1 d s t st

/-- FLE.S (R101). -/
def execFleS (d s t : BitVec 5) (st : State) : Out := fcompare .fp32 2 d s t st

/-- FCLASS.S (R101): ignores FZ and sets no flag. -/
def execFclassS (d s : BitVec 5) (st : State) : Out :=
  issueX st one d [s] fun r => BitVec.ofNat 64 (FFmt.fp32.classify (FFmt.fp32.code r s))

/-- FEQ.D (R101). -/
def execFeqD (d s t : BitVec 5) (st : State) : Out := fcompare .fp64 0 d s t st

/-- FLT.D (R101). -/
def execFltD (d s t : BitVec 5) (st : State) : Out := fcompare .fp64 1 d s t st

/-- FLE.D (R101). -/
def execFleD (d s t : BitVec 5) (st : State) : Out := fcompare .fp64 2 d s t st

/-- FCLASS.D (R101): ignores FZ and sets no flag. -/
def execFclassD (d s : BitVec 5) (st : State) : Out :=
  issueX st one d [s] fun r => BitVec.ofNat 64 (FFmt.fp64.classify (FFmt.fp64.code r s))

/-! ### Address arithmetic (R102, R103) -/

/-- AADD (R102). -/
def execAadd (d s : BitVec 4) (t : BitVec 5) (st : State) : Out := issueA st one d [t] fun r => r.ar s + sext80 (r.xr t)

/-- ASUB (R102). -/
def execAsub (d s : BitVec 4) (t : BitVec 5) (st : State) : Out := issueA st one d [t] fun r => r.ar s - sext80 (r.xr t)

/-- ADIFF (R102). -/
def execAdiff (d : BitVec 5) (s t : BitVec 4) (st : State) : Out := issueX st one d [] fun r => (r.ar s - r.ar t).setWidth 64

/-- AMOV (R102). -/
def execAmov (d s : BitVec 4) (st : State) : Out := issueA st one d [] fun r => r.ar s

/-- AFROMX (R102). -/
def execAfromx (d : BitVec 4) (s : BitVec 5) (st : State) : Out := issueA st one d [s] fun r => (r.xr s).setWidth 80

/-- ATOX (R102). -/
def execAtox (d : BitVec 5) (s : BitVec 4) (st : State) : Out := issueX st one d [] fun r => (r.ar s).setWidth 64

/-- AADDI (R103). -/
def execAaddi (d s : BitVec 4) (i : BitVec 14) (st : State) : Out := issueA st one d [] fun r => r.ar s + sext80 i

/-- AADDI, two parcels (R103). -/
def execAaddiImm32 (d s : BitVec 4) (i : BitVec 32) (st : State) : Out := issueA st two d [] fun r => r.ar s + sext80 i

/-- AHI (R103): bits 79-64 of aD. -/
def execAhi (d : BitVec 4) (i : BitVec 16) (st : State) : Out := issueA st one d [] fun r => i ++ (r.ar d).setWidth 64

/-! ### Branches and jumps (R104 to R106) -/

/-- A conditional branch (R104): the target is relative to the branch's own address. -/
def branch (st : State) (len : Nat) (reads : List (BitVec 5)) (taken : Strand → Bool) (off : Addr) : Out :=
  issue st len fun i t s =>
    if t.anyX reads then .error .stall
    else if taken t then .ok (s.setPc i (t.pc + 4 * off)) else .ok s

/-- BEQ (R104). -/
def execBeq (s t : BitVec 5) (o : BitVec 10) (st : State) : Out := branch st one [s, t] (fun r => r.xr s == r.xr t) (sext80 o)

/-- BEQ, two parcels (R104). -/
def execBeqOff32 (s t : BitVec 5) (o : BitVec 32) (st : State) : Out := branch st two [s, t] (fun r => r.xr s == r.xr t) (sext80 o)

/-- BNE (R104). -/
def execBne (s t : BitVec 5) (o : BitVec 10) (st : State) : Out := branch st one [s, t] (fun r => r.xr s != r.xr t) (sext80 o)

/-- BNE, two parcels (R104). -/
def execBneOff32 (s t : BitVec 5) (o : BitVec 32) (st : State) : Out := branch st two [s, t] (fun r => r.xr s != r.xr t) (sext80 o)

/-- BLT (R104). -/
def execBlt (s t : BitVec 5) (o : BitVec 10) (st : State) : Out := branch st one [s, t] (fun r => (r.xr s).slt (r.xr t)) (sext80 o)

/-- BLT, two parcels (R104). -/
def execBltOff32 (s t : BitVec 5) (o : BitVec 32) (st : State) : Out := branch st two [s, t] (fun r => (r.xr s).slt (r.xr t)) (sext80 o)

/-- BGE (R104). -/
def execBge (s t : BitVec 5) (o : BitVec 10) (st : State) : Out := branch st one [s, t] (fun r => !(r.xr s).slt (r.xr t)) (sext80 o)

/-- BGE, two parcels (R104). -/
def execBgeOff32 (s t : BitVec 5) (o : BitVec 32) (st : State) : Out := branch st two [s, t] (fun r => !(r.xr s).slt (r.xr t)) (sext80 o)

/-- BLTU (R104). -/
def execBltu (s t : BitVec 5) (o : BitVec 10) (st : State) : Out := branch st one [s, t] (fun r => (r.xr s).ult (r.xr t)) (sext80 o)

/-- BLTU, two parcels (R104). -/
def execBltuOff32 (s t : BitVec 5) (o : BitVec 32) (st : State) : Out := branch st two [s, t] (fun r => (r.xr s).ult (r.xr t)) (sext80 o)

/-- BGEU (R104). -/
def execBgeu (s t : BitVec 5) (o : BitVec 10) (st : State) : Out := branch st one [s, t] (fun r => !(r.xr s).ult (r.xr t)) (sext80 o)

/-- BGEU, two parcels (R104). -/
def execBgeuOff32 (s t : BitVec 5) (o : BitVec 32) (st : State) : Out := branch st two [s, t] (fun r => !(r.xr s).ult (r.xr t)) (sext80 o)

/-- BAEQ (R104). -/
def execBaeq (s t : BitVec 4) (o : BitVec 10) (st : State) : Out := branch st one [] (fun r => r.ar s == r.ar t) (sext80 o)

/-- BAEQ, two parcels (R104). -/
def execBaeqOff32 (s t : BitVec 4) (o : BitVec 32) (st : State) : Out := branch st two [] (fun r => r.ar s == r.ar t) (sext80 o)

/-- BANE (R104). -/
def execBane (s t : BitVec 4) (o : BitVec 10) (st : State) : Out := branch st one [] (fun r => r.ar s != r.ar t) (sext80 o)

/-- BANE, two parcels (R104). -/
def execBaneOff32 (s t : BitVec 4) (o : BitVec 32) (st : State) : Out := branch st two [] (fun r => r.ar s != r.ar t) (sext80 o)

/-- BALTU (R104). -/
def execBaltu (s t : BitVec 4) (o : BitVec 10) (st : State) : Out := branch st one [] (fun r => (r.ar s).ult (r.ar t)) (sext80 o)

/-- BALTU, two parcels (R104). -/
def execBaltuOff32 (s t : BitVec 4) (o : BitVec 32) (st : State) : Out := branch st two [] (fun r => (r.ar s).ult (r.ar t)) (sext80 o)

/-- BAGEU (R104). -/
def execBageu (s t : BitVec 4) (o : BitVec 10) (st : State) : Out := branch st one [] (fun r => !(r.ar s).ult (r.ar t)) (sext80 o)

/-- BAGEU, two parcels (R104). -/
def execBageuOff32 (s t : BitVec 4) (o : BitVec 32) (st : State) : Out := branch st two [] (fun r => !(r.ar s).ult (r.ar t)) (sext80 o)

/-- A jump with link to an address relative to the jump (R106). -/
def jump (st : State) (len : Nat) (d : BitVec 4) (off : Addr) : Out :=
  issue st len fun i t s =>
    .ok (s.modStrand i fun r => { r.setA d (t.pc + BitVec.ofNat 80 len) with pc := t.pc + 4 * off })

/-- JAL (R106). -/
def execJal (d : BitVec 4) (i : BitVec 19) (st : State) : Out := jump st one d (sext80 i)

/-- JAL, two parcels (R106). -/
def execJalOff32 (d : BitVec 4) (i : BitVec 32) (st : State) : Out := jump st two d (sext80 i)

/-- JALR (R106): the target from aS as read at issue; a misaligned target traps before aD is written. -/
def execJalr (d s : BitVec 4) (i : BitVec 14) (st : State) : Out :=
  issue st one fun id t st =>
    let target := t.ar s + 4 * sext80 i
    if target.toNat % 4 != 0 then .error (preciseStop t ⟨cJumpMisaligned, target, 0⟩)
    else .ok (st.modStrand id fun r => { r.setA d (t.pc + 4) with pc := target })

/-! ### FCVT (R77) -/

/-- FCVT (R77): a conversion between two formats, rounded by T or by FRM, with SAT = 0. -/
def execFcvt (d s : BitVec 5) (a b : BitVec 4) (t : BitVec 5) (st : State) : Out :=
  issue st one fun i r st =>
    if r.anyX [d, s] then .error .stall
    else
      let m := if t = 0 then frmOf r.fcsr else RMode.ofCode (t.toNat - 1)
      let (c, fl) := convert a b m false (fzOf r.fcsr) 0 ((r.xr s).toNat % 2 ^ codeWidth a)
      .ok (st.modStrand i fun r => (r.setX d (extendCode b c)).raise fl)


end Sys2Proof.Machine
end

