-- ==== Sys2Proof/Machine/Trace.lean ====
section
/-! DEFINITION. Major 0x39: TMARK, PROF.LOCK, PROF.UNLOCK, BRKPT and CNTRD (R413 to R417), and the events of the clock and the trace unit. -/

namespace Sys2Proof.Machine

open Sys2Proof

/-- TMARK (R413). -/
def execTmark (s : BitVec 5) (st : State) : Out :=
  issue st one fun i t st => if t.anyX [s] then .error .stall else .ok (traceStrand i 4 t.issued t.strip (t.xr s).toNat st)

/-! ### The clock (R414) -/

/-- The lock status (R414). -/
def Clock.word (c : Clock) : Word :=
  BitVec.ofNat 64 ((if c.locked then 1 else 0) + (if c.broken then 2 else 0) + c.opp.toNat * 4)

/-- PROF.LOCK and PROF.UNLOCK: PRIVILEGE at level U; otherwise the strand is Blocked until the new point is in force. -/
def profile (d : BitVec 5) (reads : List (BitVec 5)) (f : Strand → Option (BitVec 3)) (st : State) : Out :=
  issue st one fun i t s =>
    if t.level = .U then .error (preciseStop t ⟨cPrivilege, 0, 0⟩)
    else if t.anyX (d :: reads) then .error .stall
    else
      let q := coreQuad i.core
      let c := (s.quad q).clock
      .ok (block i t (.clock d c.word) (s.modQuad q fun v => { v with clock := { c with target := c.target ++ [(i, f t)] } }))

/-- PROF.LOCK (R414). -/
def execProfLock (d s : BitVec 5) (st : State) : Out := profile d [s] (fun t => some ((t.xr s).setWidth 3)) st

/-- PROF.UNLOCK (R414). -/
def execProfUnlock (d : BitVec 5) (st : State) : Out := profile d [] (fun _ => none) st

/-- A strand that waits for a clock runs on, with the lock status as it stood before. -/
def wakeClock (i : StrandId) (s : State) : State :=
  match (s.strand i).status with
  | .blocked (.clock d w) => (unblock i one s).setX i d w
  | _ => s

/-- CLOCK_LOCK_DONE (R414, R411): the operating point that has been waited for longest is in force. The governor's own point, after an unlock, is not
stated. -/
def execClockLockDone (q : BitVec 2) (st : State) : Out :=
  event st <|
    match (st.quad q).clock.target with
    | [] => none
    | (i, p) :: rest =>
      let (x, s) := match p with
        | some n => (n, st)
        | none => let (w, s) := st.fresh; (w.setWidth 3, s)
      let s := s.modQuad q fun v => { v with clock := { locked := p.isSome, broken := false, opp := x, target := rest } }
      some (noteResync q (traceClock q x (if p.isSome then 0 else 1) (wakeClock i s)))

/-- The governor lowers the clock of a quadrant (R414, R433) to a slower point, if there is one: a lock in force is broken, recorded and counted. -/
def lowerClock (q : BitVec 2) (st : State) : State :=
  let (w, s) := st.fresh
  let c := (s.quad q).clock
  let x : BitVec 3 := if c.opp = 7 then 7 else BitVec.ofNat 3 (c.opp.toNat + 1 + w.toNat % (7 - c.opp.toNat))
  let breaks := c.locked && !c.broken
  let s := s.modQuad q fun v => { v with clock := { c with broken := c.broken || breaks, opp := x } }
  let s := if breaks then errorRecord q 6 127 0 0 0 (bumpQuad q 5 1 (traceClock q x 2 s)) else s
  noteResync q s

/-- CLOCK_THROTTLE (R433): a die has reached 105 °C. -/
def execClockThrottle (q : BitVec 2) (st : State) : Out := event st (some (lowerClock q st))

/-- CURRENT_LIMIT (R414). -/
def execCurrentLimit (q : BitVec 2) (st : State) : Out := event st (some (lowerClock q st))

/-! ### BRKPT and CNTRD -/

/-- BRKPT (R415). -/
def execBrkpt (d : BitVec 5) (s : BitVec 4) (t : BitVec 5) (st : State) : Out :=
  issue st one fun i r st =>
    if r.anyX [d, t] then .error .stall
    else
      let x := r.xr t
      .ok (st.modStrand i fun u =>
        { u.setX d (boolWord r.brk.armed) with
          brk := { r.brk with addr := r.ar s, ord := x.setWidth 32, any := x.getLsbD 32, armed := !x.getLsbD 33 } })

/-- The counters of a Crucible, in the order of R276. -/
def Crucible.counter (c : Crucible) (k : Nat) : Word :=
  match k with
  | 0 => BitVec.ofNat 64 c.tags.length
  | 1 => BitVec.ofNat 64 c.entries.length
  | 2 => BitVec.ofNat 64 (c.tags.filter (·.ptr.isNone)).length
  | 3 => BitVec.ofNat 64 (c.tags.filter fun t => match t.ptr.bind (amGet · c.entries) with | some e => 2 ≤ e.count | none => false).length
  | 4 => c.refused
  | 5 => c.collide
  | _ => c.unshare

/-- A tile counter (R417) as the CNTRD that reads it issues: the cycles with no issue are those up to this one less the instructions issued, the CNTRD
among them. -/
def Tile.counter (v : Tile) (k : Nat) : Word :=
  if k = 2 then v.counts[0] + 1 - v.counts[1] else (v.counts.toList[k]?).getD 0

/-- The value of a counter (R417). A control core has no tile whose counters it could read: it reads a free value. -/
def counter (i : StrandId) (n : Nat) (s : State) : Word × State :=
  let qd := s.quad (coreQuad i.core)
  if n < 10 then
    match i.core with
    | .tile u => ((s.tile u).counter n, s)
    | .control _ => s.fresh
  else if 0x100 ≤ n && n < 0x107 then ((qd.counts.toList[n - 0x100]?).getD 0, s)
  else if 0x200 ≤ n && n < 0x207 then (qd.crucible.counter (n - 0x200), s)
  else (0, s)

/-- CNTRD (R417). -/
def execCntrd (d s : BitVec 5) (st : State) : Out :=
  issue st one fun i t st =>
    if t.anyX [d, s] then .error .stall
    else
      let n := (t.xr s).toNat % 2 ^ 16
      if t.level = .U && 0x100 ≤ n then .error (preciseStop t ⟨cPrivilege, 0, 0⟩)
      else
        let (w, st) := counter i n st
        .ok (st.setX i d w)

/-! ### Samples (R408, R409) -/

/-- The next slot of a core that is not Free, in ascending order from a slot on and round. -/
def State.nextSlot (s : State) (c : CoreId) (from' : Nat) : Option StrandId :=
  ((List.range 8).map fun k => (⟨c, BitVec.ofNat 3 ((from' + k) % 8)⟩ : StrandId)).find? fun i => (s.strand i).status ≠ .free

/-- The sample of a core: a record of its next strand in use, and the slot after it. -/
def sampleCore (c : CoreId) (from' : Nat) (s : State) : Nat × State :=
  match s.nextSlot c from' with
  | none => (from', s)
  | some i => let t := s.strand i; ((i.slot.toNat + 1) % 8, traceStrand i 8 t.issued t.strip t.pc.toNat s)

/-- TRACE_SAMPLE (R408, R409): SAMPINT ac after the last, every core that records writes the sample of its next strand in use. -/
def execTraceSample (q : BitVec 2) (st : State) : Out :=
  event st <|
    let tr := (st.quad q).trace
    if tr.sampint = 0 || tr.log2n = 0 || !tr.typeen.getLsbD 4 || st.now < tr.sampled + Nat.max 1024 tr.sampint.toNat then none
    else
      let s := (tilesOf q).foldl (fun s t =>
        if !tr.tileen.getLsbD t.idx.toNat then s
        else
          let (n, s) := sampleCore (.tile t) (s.tile t).cursor s
          s.modTile t fun v => { v with cursor := n }) st
      let (n, s) := if tr.ccen then sampleCore (.control q) tr.cursor s else (tr.cursor, s)
      some (s.modQuad q fun v => { v with trace := { v.trace with cursor := n, sampled := st.now } })

end Sys2Proof.Machine
end

