-- ==== Sys2Proof/Machine/VecIssue.lean ====
section
/-! DEFINITION. The vector-class instructions at issue: majors 0x1A, 0x1C to 0x28, 0x2A and 0x2F enter the vector queue with their captured
operands (R130, R132, R141, R145 to R154, R157, R177, R239, R78). -/

namespace Sys2Proof.Machine

open Sys2Proof

/-- A mask instruction (R132). -/
def issueMask (op : MaskOp) (d s t : BitVec 3) (st : State) : Out := issueV one [] (fun _ => .mask op d s t) none st

/-- An integer instruction with a v register (R145). -/
def issueIntVV (op : VInt) (d s t : BitVec 5) (mk : Option (BitVec 3)) (st : State) : Out :=
  issueV one [] (fun _ => .int op d s (.reg t)) mk st

/-- An integer instruction with an x register (R145). -/
def issueIntVX (op : VInt) (d s x : BitVec 5) (mk : Option (BitVec 3)) (st : State) : Out :=
  issueV one [x] (fun r => .int op d s (capture x r)) mk st

/-- An integer instruction with an immediate (R145). -/
def issueIntVI (op : VInt) (d s : BitVec 5) (c : VSrc) (mk : Option (BitVec 3)) (st : State) : Out :=
  issueV one [] (fun _ => .int op d s c) mk st

/-- A floating-point instruction with a v register (R147). -/
def issueFpVV (op : VFp) (d s t : BitVec 5) (mk : Option (BitVec 3)) (st : State) : Out :=
  issueV one [] (fun _ => .fp op d s (.reg t)) mk st

/-- A floating-point instruction with an x register (R147). -/
def issueFpVX (op : VFp) (d s x : BitVec 5) (mk : Option (BitVec 3)) (st : State) : Out :=
  issueV one [x] (fun r => .fp op d s (capture x r)) mk st

/-- A compare (R151). -/
def issueCmp (op : VCmp) (d : BitVec 3) (s t : BitVec 5) (mk : Option (BitVec 3)) (st : State) : Out :=
  issueV one [] (fun _ => .cmp op d s (.reg t)) mk st

/-- A conversion (R78). -/
def issueCvt (f : CvtForm) (d s t : BitVec 5) (mk : Option (BitVec 3)) (srcf dstf : BitVec 4) (rnd : BitVec 3) (sat : BitVec 1) (st : State) : Out :=
  issueV two [] (fun _ => .cvt f d s t srcf dstf rnd (sat = 1)) mk st

/-- A load whose index field is not an x register (R157). -/
def issueLd (f : LdForm) (d : BitVec 5) (a : BitVec 4) (mk : Option (BitVec 3)) (st : State) : Out :=
  issueV one [] (fun r => .ld f d (r.ar a)) mk st

/-- A store whose index field is not an x register (R157). -/
def issueSt (f : StForm) (d : BitVec 5) (a : BitVec 4) (mk : Option (BitVec 3)) (st : State) : Out :=
  issueV one [] (fun r => .st f d (r.ar a)) mk st

/-- VRED, VSCAN and VSCANX (R182, R183). -/
def issueRed (k : RedKind) (d s o : BitVec 5) (mk : Option (BitVec 3)) (st : State) : Out := issueV one [] (fun _ => .red k o d s) mk st

/-- A returning vector atomic (R241). -/
def issueAmo (op : AmoOp) (d : BitVec 5) (a : BitVec 4) (i : BitVec 5) (mk : Option (BitVec 3)) (st : State) : Out :=
  issueV one [] (fun r => .amo op d (r.ar a) i) mk st

/-- A non-returning vector atomic (R242). -/
def issueCamo (op : AmoOp) (d : BitVec 5) (a : BitVec 4) (i : BitVec 5) (mk : Option (BitVec 3)) (st : State) : Out :=
  issueV one [] (fun r => .camo op d (r.ar a) i) mk st

/-- MAND (R132). -/
def execMand (d s t : BitVec 3) (st : State) : Out := issueMask .and d s t st

/-- MOR (R132). -/
def execMor (d s t : BitVec 3) (st : State) : Out := issueMask .or d s t st

/-- MXOR (R132). -/
def execMxor (d s t : BitVec 3) (st : State) : Out := issueMask .xor d s t st

/-- MANDN (R132). -/
def execMandn (d s t : BitVec 3) (st : State) : Out := issueMask .andn d s t st

/-- MNOT (R132). -/
def execMnot (d s : BitVec 3) (st : State) : Out := issueMask .not d s s st

/-- MSET (R132). -/
def execMset (d : BitVec 3) (st : State) : Out := issueMask .set d d d st

/-- MCLR (R132). -/
def execMclr (d : BitVec 3) (st : State) : Out := issueMask .clr d d d st

/-- MPOPC (R132). -/
def execMpopc (d : BitVec 5) (s : BitVec 3) (st : State) : Out := issueV one [d] (fun _ => .mpopc d s) none st

/-- MFIRST (R132). -/
def execMfirst (d : BitVec 5) (s : BitVec 3) (st : State) : Out := issueV one [d] (fun _ => .mfirst d s) none st

/-- VADD_VV (R145). -/
def execVaddVV (d s t : BitVec 5) (mk : Option (BitVec 3)) (st : State) : Out := issueIntVV .add d s t mk st

/-- VSUB_VV (R145). -/
def execVsubVV (d s t : BitVec 5) (mk : Option (BitVec 3)) (st : State) : Out := issueIntVV .sub d s t mk st

/-- VAND_VV (R145). -/
def execVandVV (d s t : BitVec 5) (mk : Option (BitVec 3)) (st : State) : Out := issueIntVV .and d s t mk st

/-- VOR_VV (R145). -/
def execVorVV (d s t : BitVec 5) (mk : Option (BitVec 3)) (st : State) : Out := issueIntVV .or d s t mk st

/-- VXOR_VV (R145). -/
def execVxorVV (d s t : BitVec 5) (mk : Option (BitVec 3)) (st : State) : Out := issueIntVV .xor d s t mk st

/-- VSLL_VV (R145). -/
def execVsllVV (d s t : BitVec 5) (mk : Option (BitVec 3)) (st : State) : Out := issueIntVV .sll d s t mk st

/-- VSRL_VV (R145). -/
def execVsrlVV (d s t : BitVec 5) (mk : Option (BitVec 3)) (st : State) : Out := issueIntVV .srl d s t mk st

/-- VSRA_VV (R145). -/
def execVsraVV (d s t : BitVec 5) (mk : Option (BitVec 3)) (st : State) : Out := issueIntVV .sra d s t mk st

/-- VMIN_VV (R145). -/
def execVminVV (d s t : BitVec 5) (mk : Option (BitVec 3)) (st : State) : Out := issueIntVV .min d s t mk st

/-- VMAX_VV (R145). -/
def execVmaxVV (d s t : BitVec 5) (mk : Option (BitVec 3)) (st : State) : Out := issueIntVV .max d s t mk st

/-- VMINU_VV (R145). -/
def execVminuVV (d s t : BitVec 5) (mk : Option (BitVec 3)) (st : State) : Out := issueIntVV .minu d s t mk st

/-- VMAXU_VV (R145). -/
def execVmaxuVV (d s t : BitVec 5) (mk : Option (BitVec 3)) (st : State) : Out := issueIntVV .maxu d s t mk st

/-- VMUL_VV (R145). -/
def execVmulVV (d s t : BitVec 5) (mk : Option (BitVec 3)) (st : State) : Out := issueIntVV .mul d s t mk st

/-- VMULH_VV (R145). -/
def execVmulhVV (d s t : BitVec 5) (mk : Option (BitVec 3)) (st : State) : Out := issueIntVV .mulh d s t mk st

/-- VMULHU_VV (R145). -/
def execVmulhuVV (d s t : BitVec 5) (mk : Option (BitVec 3)) (st : State) : Out := issueIntVV .mulhu d s t mk st

/-- VDIV_VV (R146). -/
def execVdivVV (d s t : BitVec 5) (mk : Option (BitVec 3)) (st : State) : Out := issueIntVV .div d s t mk st

/-- VDIVU_VV (R146). -/
def execVdivuVV (d s t : BitVec 5) (mk : Option (BitVec 3)) (st : State) : Out := issueIntVV .divu d s t mk st

/-- VREM_VV (R146). -/
def execVremVV (d s t : BitVec 5) (mk : Option (BitVec 3)) (st : State) : Out := issueIntVV .rem d s t mk st

/-- VREMU_VV (R146). -/
def execVremuVV (d s t : BitVec 5) (mk : Option (BitVec 3)) (st : State) : Out := issueIntVV .remu d s t mk st

/-- VSADD_VV (R145). -/
def execVsaddVV (d s t : BitVec 5) (mk : Option (BitVec 3)) (st : State) : Out := issueIntVV .sadd d s t mk st

/-- VSADDU_VV (R145). -/
def execVsadduVV (d s t : BitVec 5) (mk : Option (BitVec 3)) (st : State) : Out := issueIntVV .saddu d s t mk st

/-- VSSUB_VV (R145). -/
def execVssubVV (d s t : BitVec 5) (mk : Option (BitVec 3)) (st : State) : Out := issueIntVV .ssub d s t mk st

/-- VSSUBU_VV (R145). -/
def execVssubuVV (d s t : BitVec 5) (mk : Option (BitVec 3)) (st : State) : Out := issueIntVV .ssubu d s t mk st

/-- VABS (R145). -/
def execVabs (d s : BitVec 5) (mk : Option (BitVec 3)) (st : State) : Out := issueIntVI .abs d s (.const 0) mk st

/-- VNEG (R145). -/
def execVneg (d s : BitVec 5) (mk : Option (BitVec 3)) (st : State) : Out := issueIntVI .neg d s (.const 0) mk st

/-- VADD_VX (R145). -/
def execVaddVX (d s x : BitVec 5) (mk : Option (BitVec 3)) (st : State) : Out := issueIntVX .add d s x mk st

/-- VSUB_VX (R145). -/
def execVsubVX (d s x : BitVec 5) (mk : Option (BitVec 3)) (st : State) : Out := issueIntVX .sub d s x mk st

/-- VAND_VX (R145). -/
def execVandVX (d s x : BitVec 5) (mk : Option (BitVec 3)) (st : State) : Out := issueIntVX .and d s x mk st

/-- VOR_VX (R145). -/
def execVorVX (d s x : BitVec 5) (mk : Option (BitVec 3)) (st : State) : Out := issueIntVX .or d s x mk st

/-- VXOR_VX (R145). -/
def execVxorVX (d s x : BitVec 5) (mk : Option (BitVec 3)) (st : State) : Out := issueIntVX .xor d s x mk st

/-- VSLL_VX (R145). -/
def execVsllVX (d s x : BitVec 5) (mk : Option (BitVec 3)) (st : State) : Out := issueIntVX .sll d s x mk st

/-- VSRL_VX (R145). -/
def execVsrlVX (d s x : BitVec 5) (mk : Option (BitVec 3)) (st : State) : Out := issueIntVX .srl d s x mk st

/-- VSRA_VX (R145). -/
def execVsraVX (d s x : BitVec 5) (mk : Option (BitVec 3)) (st : State) : Out := issueIntVX .sra d s x mk st

/-- VMIN_VX (R145). -/
def execVminVX (d s x : BitVec 5) (mk : Option (BitVec 3)) (st : State) : Out := issueIntVX .min d s x mk st

/-- VMAX_VX (R145). -/
def execVmaxVX (d s x : BitVec 5) (mk : Option (BitVec 3)) (st : State) : Out := issueIntVX .max d s x mk st

/-- VMINU_VX (R145). -/
def execVminuVX (d s x : BitVec 5) (mk : Option (BitVec 3)) (st : State) : Out := issueIntVX .minu d s x mk st

/-- VMAXU_VX (R145). -/
def execVmaxuVX (d s x : BitVec 5) (mk : Option (BitVec 3)) (st : State) : Out := issueIntVX .maxu d s x mk st

/-- VMUL_VX (R145). -/
def execVmulVX (d s x : BitVec 5) (mk : Option (BitVec 3)) (st : State) : Out := issueIntVX .mul d s x mk st

/-- VMULH_VX (R145). -/
def execVmulhVX (d s x : BitVec 5) (mk : Option (BitVec 3)) (st : State) : Out := issueIntVX .mulh d s x mk st

/-- VMULHU_VX (R145). -/
def execVmulhuVX (d s x : BitVec 5) (mk : Option (BitVec 3)) (st : State) : Out := issueIntVX .mulhu d s x mk st

/-- VDIV_VX (R146). -/
def execVdivVX (d s x : BitVec 5) (mk : Option (BitVec 3)) (st : State) : Out := issueIntVX .div d s x mk st

/-- VDIVU_VX (R146). -/
def execVdivuVX (d s x : BitVec 5) (mk : Option (BitVec 3)) (st : State) : Out := issueIntVX .divu d s x mk st

/-- VREM_VX (R146). -/
def execVremVX (d s x : BitVec 5) (mk : Option (BitVec 3)) (st : State) : Out := issueIntVX .rem d s x mk st

/-- VREMU_VX (R146). -/
def execVremuVX (d s x : BitVec 5) (mk : Option (BitVec 3)) (st : State) : Out := issueIntVX .remu d s x mk st

/-- VSADD_VX (R145). -/
def execVsaddVX (d s x : BitVec 5) (mk : Option (BitVec 3)) (st : State) : Out := issueIntVX .sadd d s x mk st

/-- VSADDU_VX (R145). -/
def execVsadduVX (d s x : BitVec 5) (mk : Option (BitVec 3)) (st : State) : Out := issueIntVX .saddu d s x mk st

/-- VSSUB_VX (R145). -/
def execVssubVX (d s x : BitVec 5) (mk : Option (BitVec 3)) (st : State) : Out := issueIntVX .ssub d s x mk st

/-- VSSUBU_VX (R145). -/
def execVssubuVX (d s x : BitVec 5) (mk : Option (BitVec 3)) (st : State) : Out := issueIntVX .ssubu d s x mk st

/-- VADD_VI (R145). -/
def execVaddVI (d s i : BitVec 5) (mk : Option (BitVec 3)) (st : State) : Out := issueIntVI .add d s (immS i) mk st

/-- VSUB_VI (R145). -/
def execVsubVI (d s i : BitVec 5) (mk : Option (BitVec 3)) (st : State) : Out := issueIntVI .sub d s (immS i) mk st

/-- VAND_VI (R145). -/
def execVandVI (d s i : BitVec 5) (mk : Option (BitVec 3)) (st : State) : Out := issueIntVI .and d s (immS i) mk st

/-- VOR_VI (R145). -/
def execVorVI (d s i : BitVec 5) (mk : Option (BitVec 3)) (st : State) : Out := issueIntVI .or d s (immS i) mk st

/-- VXOR_VI (R145). -/
def execVxorVI (d s i : BitVec 5) (mk : Option (BitVec 3)) (st : State) : Out := issueIntVI .xor d s (immS i) mk st

/-- VSLL_VI (R145). -/
def execVsllVI (d s i : BitVec 5) (mk : Option (BitVec 3)) (st : State) : Out := issueIntVI .sll d s (immU i) mk st

/-- VSRL_VI (R145). -/
def execVsrlVI (d s i : BitVec 5) (mk : Option (BitVec 3)) (st : State) : Out := issueIntVI .srl d s (immU i) mk st

/-- VSRA_VI (R145). -/
def execVsraVI (d s i : BitVec 5) (mk : Option (BitVec 3)) (st : State) : Out := issueIntVI .sra d s (immU i) mk st

/-- VMIN_VI (R145). -/
def execVminVI (d s i : BitVec 5) (mk : Option (BitVec 3)) (st : State) : Out := issueIntVI .min d s (immS i) mk st

/-- VMAX_VI (R145). -/
def execVmaxVI (d s i : BitVec 5) (mk : Option (BitVec 3)) (st : State) : Out := issueIntVI .max d s (immS i) mk st

/-- VMINU_VI (R145). -/
def execVminuVI (d s i : BitVec 5) (mk : Option (BitVec 3)) (st : State) : Out := issueIntVI .minu d s (immU i) mk st

/-- VMAXU_VI (R145). -/
def execVmaxuVI (d s i : BitVec 5) (mk : Option (BitVec 3)) (st : State) : Out := issueIntVI .maxu d s (immU i) mk st

/-- VSADD_VI (R145). -/
def execVsaddVI (d s i : BitVec 5) (mk : Option (BitVec 3)) (st : State) : Out := issueIntVI .sadd d s (immS i) mk st

/-- VSADDU_VI (R145). -/
def execVsadduVI (d s i : BitVec 5) (mk : Option (BitVec 3)) (st : State) : Out := issueIntVI .saddu d s (immU i) mk st

/-- VSSUB_VI (R145). -/
def execVssubVI (d s i : BitVec 5) (mk : Option (BitVec 3)) (st : State) : Out := issueIntVI .ssub d s (immS i) mk st

/-- VSSUBU_VI (R145). -/
def execVssubuVI (d s i : BitVec 5) (mk : Option (BitVec 3)) (st : State) : Out := issueIntVI .ssubu d s (immU i) mk st

/-- VFADD_VV (R147). -/
def execVfaddVV (d s t : BitVec 5) (mk : Option (BitVec 3)) (st : State) : Out := issueFpVV .add d s t mk st

/-- VFSUB_VV (R147). -/
def execVfsubVV (d s t : BitVec 5) (mk : Option (BitVec 3)) (st : State) : Out := issueFpVV .sub d s t mk st

/-- VFMUL_VV (R147). -/
def execVfmulVV (d s t : BitVec 5) (mk : Option (BitVec 3)) (st : State) : Out := issueFpVV .mul d s t mk st

/-- VFDIV_VV (R147). -/
def execVfdivVV (d s t : BitVec 5) (mk : Option (BitVec 3)) (st : State) : Out := issueFpVV .div d s t mk st

/-- VFMIN_VV (R147). -/
def execVfminVV (d s t : BitVec 5) (mk : Option (BitVec 3)) (st : State) : Out := issueFpVV .min d s t mk st

/-- VFMAX_VV (R147). -/
def execVfmaxVV (d s t : BitVec 5) (mk : Option (BitVec 3)) (st : State) : Out := issueFpVV .max d s t mk st

/-- VFMA_VV (R147). -/
def execVfmaVV (d s t : BitVec 5) (mk : Option (BitVec 3)) (st : State) : Out := issueFpVV .fma d s t mk st

/-- VFMS_VV (R147). -/
def execVfmsVV (d s t : BitVec 5) (mk : Option (BitVec 3)) (st : State) : Out := issueFpVV .fms d s t mk st

/-- VFNMA_VV (R147). -/
def execVfnmaVV (d s t : BitVec 5) (mk : Option (BitVec 3)) (st : State) : Out := issueFpVV .fnma d s t mk st

/-- VFSQRT (R147). -/
def execVfsqrt (d s : BitVec 5) (mk : Option (BitVec 3)) (st : State) : Out := issueFpVV .sqrt d s s mk st

/-- VFRECE (R149). -/
def execVfrece (d s : BitVec 5) (mk : Option (BitVec 3)) (st : State) : Out := issueFpVV .rece d s s mk st

/-- VFRSQE (R150). -/
def execVfrsqe (d s : BitVec 5) (mk : Option (BitVec 3)) (st : State) : Out := issueFpVV .rsqe d s s mk st

/-- VFABS (R147). -/
def execVfabs (d s : BitVec 5) (mk : Option (BitVec 3)) (st : State) : Out := issueFpVV .abs d s s mk st

/-- VFNEG (R147). -/
def execVfneg (d s : BitVec 5) (mk : Option (BitVec 3)) (st : State) : Out := issueFpVV .neg d s s mk st

/-- VFSGNJ (R147). -/
def execVfsgnj (d s t : BitVec 5) (mk : Option (BitVec 3)) (st : State) : Out := issueFpVV .sgnj d s t mk st

/-- VFADD_VX (R148). -/
def execVfaddVX (d s x : BitVec 5) (mk : Option (BitVec 3)) (st : State) : Out := issueFpVX .add d s x mk st

/-- VFSUB_VX (R148). -/
def execVfsubVX (d s x : BitVec 5) (mk : Option (BitVec 3)) (st : State) : Out := issueFpVX .sub d s x mk st

/-- VFMUL_VX (R148). -/
def execVfmulVX (d s x : BitVec 5) (mk : Option (BitVec 3)) (st : State) : Out := issueFpVX .mul d s x mk st

/-- VFDIV_VX (R148). -/
def execVfdivVX (d s x : BitVec 5) (mk : Option (BitVec 3)) (st : State) : Out := issueFpVX .div d s x mk st

/-- VFMIN_VX (R148). -/
def execVfminVX (d s x : BitVec 5) (mk : Option (BitVec 3)) (st : State) : Out := issueFpVX .min d s x mk st

/-- VFMAX_VX (R148). -/
def execVfmaxVX (d s x : BitVec 5) (mk : Option (BitVec 3)) (st : State) : Out := issueFpVX .max d s x mk st

/-- VFMA_VX (R148). -/
def execVfmaVX (d s x : BitVec 5) (mk : Option (BitVec 3)) (st : State) : Out := issueFpVX .fma d s x mk st

/-- VFMS_VX (R148). -/
def execVfmsVX (d s x : BitVec 5) (mk : Option (BitVec 3)) (st : State) : Out := issueFpVX .fms d s x mk st

/-- VFNMA_VX (R148). -/
def execVfnmaVX (d s x : BitVec 5) (mk : Option (BitVec 3)) (st : State) : Out := issueFpVX .fnma d s x mk st

/-- VCMPEQ (R151). -/
def execVcmpeq (d : BitVec 3) (s t : BitVec 5) (mk : Option (BitVec 3)) (st : State) : Out := issueCmp .eq d s t mk st

/-- VCMPNE (R151). -/
def execVcmpne (d : BitVec 3) (s t : BitVec 5) (mk : Option (BitVec 3)) (st : State) : Out := issueCmp .ne d s t mk st

/-- VCMPLT (R151). -/
def execVcmplt (d : BitVec 3) (s t : BitVec 5) (mk : Option (BitVec 3)) (st : State) : Out := issueCmp .lt d s t mk st

/-- VCMPLE (R151). -/
def execVcmple (d : BitVec 3) (s t : BitVec 5) (mk : Option (BitVec 3)) (st : State) : Out := issueCmp .le d s t mk st

/-- VCMPLTU (R151). -/
def execVcmpltu (d : BitVec 3) (s t : BitVec 5) (mk : Option (BitVec 3)) (st : State) : Out := issueCmp .ltu d s t mk st

/-- VCMPLEU (R151). -/
def execVcmpleu (d : BitVec 3) (s t : BitVec 5) (mk : Option (BitVec 3)) (st : State) : Out := issueCmp .leu d s t mk st

/-- VFCMPEQ (R151). -/
def execVfcmpeq (d : BitVec 3) (s t : BitVec 5) (mk : Option (BitVec 3)) (st : State) : Out := issueCmp .feq d s t mk st

/-- VFCMPLT (R151). -/
def execVfcmplt (d : BitVec 3) (s t : BitVec 5) (mk : Option (BitVec 3)) (st : State) : Out := issueCmp .flt d s t mk st

/-- VFCMPLE (R151). -/
def execVfcmple (d : BitVec 3) (s t : BitVec 5) (mk : Option (BitVec 3)) (st : State) : Out := issueCmp .fle d s t mk st

/-- VFCMPUN (R151). -/
def execVfcmpun (d : BitVec 3) (s t : BitVec 5) (mk : Option (BitVec 3)) (st : State) : Out := issueCmp .funord d s t mk st

/-- VMERGE (R152). -/
def execVmerge (d s t : BitVec 5) (m : BitVec 3) (st : State) : Out := issueV one [] (fun _ => .merge d s t) (some m) st

/-- VMV (R152). -/
def execVmv (d s : BitVec 5) (mk : Option (BitVec 3)) (st : State) : Out := issueV one [] (fun _ => .mv d s) mk st

/-- VID (R152). -/
def execVid (d : BitVec 5) (mk : Option (BitVec 3)) (st : State) : Out := issueV one [] (fun _ => .vid d) mk st

/-- VSPLAT (R152). -/
def execVsplat (d t : BitVec 5) (mk : Option (BitVec 3)) (st : State) : Out := issueV one [t] (fun r => .splat d (r.xr t)) mk st

/-- VEXT (R152). -/
def execVext (d s t : BitVec 5) (st : State) : Out := issueV one [d, t] (fun r => .ext d s (r.xr t)) none st

/-- VDOT4 (R153). -/
def execVdot4 (d s t : BitVec 5) (mk : Option (BitVec 3)) (st : State) : Out := issueV one [] (fun _ => .dot 4 d s t) mk st

/-- VDOT8 (R153). -/
def execVdot8 (d s t : BitVec 5) (mk : Option (BitVec 3)) (st : State) : Out := issueV one [] (fun _ => .dot 8 d s t) mk st

/-- VBSAPPLY (R154). -/
def execVbsapply (d s t : BitVec 5) (mk : Option (BitVec 3)) (st : State) : Out := issueV one [] (fun _ => .bsapply d s t) mk st

/-- VCVT (R79). -/
def execVcvt (d s : BitVec 5) (mk : Option (BitVec 3)) (srcf dstf : BitVec 4) (rnd : BitVec 3) (sat : BitVec 1) (st : State) : Out := issueCvt .same d s s mk srcf dstf rnd sat st

/-- VCVT_W (R79). -/
def execVcvtW (d s : BitVec 5) (mk : Option (BitVec 3)) (srcf dstf : BitVec 4) (rnd : BitVec 3) (sat : BitVec 1) (st : State) : Out := issueCvt .widen d s s mk srcf dstf rnd sat st

/-- VCVT_N (R79). -/
def execVcvtN (d s : BitVec 5) (mk : Option (BitVec 3)) (srcf dstf : BitVec 4) (rnd : BitVec 3) (sat : BitVec 1) (st : State) : Out := issueCvt .narrow d s s mk srcf dstf rnd sat st

/-- VCVT_SC (R80). -/
def execVcvtSC (d s t : BitVec 5) (mk : Option (BitVec 3)) (srcf dstf : BitVec 4) (rnd : BitVec 3) (sat : BitVec 1) (st : State) : Out := issueCvt .scaled d s t mk srcf dstf rnd sat st

/-- VSRSEED (R82). -/
def execVsrseed (t : BitVec 5) (st : State) : Out := issueV one [t] (fun r => .srseed (r.xr t)) none st

/-- VLD (R165). -/
def execVld (d : BitVec 5) (a : BitVec 4) (mk : Option (BitVec 3)) (st : State) : Out := issueLd .unit d a mk st

/-- VLD_FE (R170). -/
def execVldFE (d : BitVec 5) (a : BitVec 4) (mk : Option (BitVec 3)) (st : State) : Out := issueLd .fe d a mk st

/-- VLD_FC (R170). -/
def execVldFC (d : BitVec 5) (a : BitVec 4) (mk : Option (BitVec 3)) (st : State) : Out := issueLd .fc d a mk st

/-- VLDS (R165). -/
def execVlds (d : BitVec 5) (a : BitVec 4) (i : BitVec 5) (mk : Option (BitVec 3)) (st : State) : Out := issueV one [i] (fun r => .ld (.strided (r.xr i)) d (r.ar a)) mk st

/-- VLDX (R165). -/
def execVldx (d : BitVec 5) (a : BitVec 4) (i : BitVec 5) (mk : Option (BitVec 3)) (st : State) : Out := issueLd (.indexed i) d a mk st

/-- VLDFF (R166). -/
def execVldff (d : BitVec 5) (a : BitVec 4) (mk : Option (BitVec 3)) (st : State) : Out := issueLd .ff d a mk st

/-- VLDZ (R173). -/
def execVldz (d : BitVec 5) (a : BitVec 4) (i : BitVec 5) (st : State) : Out := issueV one [i] (fun r => .ld (.zsb i) d (r.ar a)) none st

/-- VLDSEG (R165). -/
def execVldseg (d : BitVec 5) (a : BitVec 4) (n : BitVec 5) (mk : Option (BitVec 3)) (st : State) : Out := issueLd (.seg (n.toNat + 1)) d a mk st

/-- VST (R165). -/
def execVst (d : BitVec 5) (a : BitVec 4) (mk : Option (BitVec 3)) (st : State) : Out := issueSt .unit d a mk st

/-- VSTS (R165). -/
def execVsts (d : BitVec 5) (a : BitVec 4) (i : BitVec 5) (mk : Option (BitVec 3)) (st : State) : Out := issueV one [i] (fun r => .st (.strided (r.xr i)) d (r.ar a)) mk st

/-- VSTX (R162). -/
def execVstx (d : BitVec 5) (a : BitVec 4) (i : BitVec 5) (mk : Option (BitVec 3)) (st : State) : Out := issueSt (.indexed i) d a mk st

/-- VSTXO (R162). -/
def execVstxo (d : BitVec 5) (a : BitVec 4) (i : BitVec 5) (mk : Option (BitVec 3)) (st : State) : Out := issueSt (.ordered i) d a mk st

/-- VSTZ (R173). -/
def execVstz (d : BitVec 5) (a : BitVec 4) (i : BitVec 5) (st : State) : Out := issueV one [i] (fun r => .st (.zsb i) d (r.ar a)) none st

/-- VSTSEG (R165). -/
def execVstseg (d : BitVec 5) (a : BitVec 4) (n : BitVec 5) (mk : Option (BitVec 3)) (st : State) : Out := issueSt (.seg (n.toNat + 1)) d a mk st

/-- VPF (R175). -/
def execVpf (a : BitVec 4) (i : BitVec 5) (mk : Option (BitVec 3)) (st : State) : Out := issueV one [i] (fun r => .pf (r.ar a) (if i = 0 then none else some (r.xr i))) mk st

/-- VRED (R182). -/
def execVred (d s o : BitVec 5) (mk : Option (BitVec 3)) (st : State) : Out := issueRed .red d s o mk st

/-- VSCAN (R183). -/
def execVscan (d s o : BitVec 5) (mk : Option (BitVec 3)) (st : State) : Out := issueRed .scan d s o mk st

/-- VSCANX (R183). -/
def execVscanx (d s o : BitVec 5) (mk : Option (BitVec 3)) (st : State) : Out := issueRed .scanx d s o mk st

/-- VPERM (R184). -/
def execVperm (d s t : BitVec 5) (mk : Option (BitVec 3)) (st : State) : Out := issueV one [] (fun _ => .perm d s t) mk st

/-- VCOMP (R187). -/
def execVcomp (d s : BitVec 5) (m : BitVec 3) (st : State) : Out := issueV one [] (fun _ => .comp d s) (some m) st

/-- VEXPD (R186). -/
def execVexpd (d s : BitVec 5) (m : BitVec 3) (st : State) : Out := issueV one [] (fun _ => .expd d s) (some m) st

/-- VFILT (R187). -/
def execVfilt (d s : BitVec 5) (mk : Option (BitVec 3)) (st : State) : Out := issueV one [] (fun _ => .filt d s) mk st

/-- VTOPK (R189). -/
def execVtopk (d s x : BitVec 5) (mk : Option (BitVec 3)) (st : State) : Out := issueV one [x] (fun r => .topk d s (r.xr x)) mk st

/-- VSLIDEUP (R185). -/
def execVslideup (d s x : BitVec 5) (mk : Option (BitVec 3)) (st : State) : Out := issueV one [x] (fun r => .slide true d s (r.xr x)) mk st

/-- VSLIDEDN (R185). -/
def execVslidedn (d s x : BitVec 5) (mk : Option (BitVec 3)) (st : State) : Out := issueV one [x] (fun r => .slide false d s (r.xr x)) mk st

/-- VAADD (R241). -/
def execVaadd (d : BitVec 5) (a : BitVec 4) (i : BitVec 5) (mk : Option (BitVec 3)) (st : State) : Out := issueAmo .add d a i mk st

/-- VAAND (R241). -/
def execVaand (d : BitVec 5) (a : BitVec 4) (i : BitVec 5) (mk : Option (BitVec 3)) (st : State) : Out := issueAmo .and d a i mk st

/-- VAOR (R241). -/
def execVaor (d : BitVec 5) (a : BitVec 4) (i : BitVec 5) (mk : Option (BitVec 3)) (st : State) : Out := issueAmo .or d a i mk st

/-- VAXOR (R241). -/
def execVaxor (d : BitVec 5) (a : BitVec 4) (i : BitVec 5) (mk : Option (BitVec 3)) (st : State) : Out := issueAmo .xor d a i mk st

/-- VAMIN (R241). -/
def execVamin (d : BitVec 5) (a : BitVec 4) (i : BitVec 5) (mk : Option (BitVec 3)) (st : State) : Out := issueAmo .min d a i mk st

/-- VAMAX (R241). -/
def execVamax (d : BitVec 5) (a : BitVec 4) (i : BitVec 5) (mk : Option (BitVec 3)) (st : State) : Out := issueAmo .max d a i mk st

/-- VAMINU (R241). -/
def execVaminu (d : BitVec 5) (a : BitVec 4) (i : BitVec 5) (mk : Option (BitVec 3)) (st : State) : Out := issueAmo .minu d a i mk st

/-- VAMAXU (R241). -/
def execVamaxu (d : BitVec 5) (a : BitVec 4) (i : BitVec 5) (mk : Option (BitVec 3)) (st : State) : Out := issueAmo .maxu d a i mk st

/-- VAFADD (R241). -/
def execVafadd (d : BitVec 5) (a : BitVec 4) (i : BitVec 5) (mk : Option (BitVec 3)) (st : State) : Out := issueAmo .fadd d a i mk st

/-- VASWAP (R241). -/
def execVaswap (d : BitVec 5) (a : BitVec 4) (i : BitVec 5) (mk : Option (BitVec 3)) (st : State) : Out := issueAmo .swap d a i mk st

/-- VACAS (R241). -/
def execVacas (d : BitVec 5) (a : BitVec 4) (i : BitVec 5) (mk : Option (BitVec 3)) (st : State) : Out := issueAmo .cas d a i mk st

/-- VCADD (R242). -/
def execVcadd (d : BitVec 5) (a : BitVec 4) (i : BitVec 5) (mk : Option (BitVec 3)) (st : State) : Out := issueCamo .add d a i mk st

/-- VCAND (R242). -/
def execVcand (d : BitVec 5) (a : BitVec 4) (i : BitVec 5) (mk : Option (BitVec 3)) (st : State) : Out := issueCamo .and d a i mk st

/-- VCOR (R242). -/
def execVcor (d : BitVec 5) (a : BitVec 4) (i : BitVec 5) (mk : Option (BitVec 3)) (st : State) : Out := issueCamo .or d a i mk st

/-- VCXOR (R242). -/
def execVcxor (d : BitVec 5) (a : BitVec 4) (i : BitVec 5) (mk : Option (BitVec 3)) (st : State) : Out := issueCamo .xor d a i mk st

/-- VCMIN (R242). -/
def execVcmin (d : BitVec 5) (a : BitVec 4) (i : BitVec 5) (mk : Option (BitVec 3)) (st : State) : Out := issueCamo .min d a i mk st

/-- VCMAX (R242). -/
def execVcmax (d : BitVec 5) (a : BitVec 4) (i : BitVec 5) (mk : Option (BitVec 3)) (st : State) : Out := issueCamo .max d a i mk st

/-- VCMINU (R242). -/
def execVcminu (d : BitVec 5) (a : BitVec 4) (i : BitVec 5) (mk : Option (BitVec 3)) (st : State) : Out := issueCamo .minu d a i mk st

/-- VCMAXU (R242). -/
def execVcmaxu (d : BitVec 5) (a : BitVec 4) (i : BitVec 5) (mk : Option (BitVec 3)) (st : State) : Out := issueCamo .maxu d a i mk st

/-- VCFADD (R242). -/
def execVcfadd (d : BitVec 5) (a : BitVec 4) (i : BitVec 5) (mk : Option (BitVec 3)) (st : State) : Out := issueCamo .fadd d a i mk st

/-- VGL (R244). -/
def execVgl (d : BitVec 5) (a : BitVec 4) (i : BitVec 5) (mk : Option (BitVec 3)) (st : State) : Out := issueV one [] (fun r => .gl d (r.ar a) i) mk st

/-- VSC (R246). -/
def execVsc (d : BitVec 5) (a : BitVec 4) (i : BitVec 5) (m : BitVec 3) (st : State) : Out := issueV one [] (fun r => .sc d (r.ar a) i) (some m) st

end Sys2Proof.Machine
end

