-- ==== Sys2Proof/Machine/Dispatch.lean ====
section
/-! DEFINITION. One arm per constructor of `Instr`: its meaning. -/

namespace Sys2Proof.Machine

open Sys2Proof

def exec (i : Instr) (s : State) : Host.Outcome State Fault Refusal :=
  match i with
  | .add a0 a1 a2 => Sys2Proof.Machine.execAdd a0 a1 a2 s
  | .sub a0 a1 a2 => Sys2Proof.Machine.execSub a0 a1 a2 s
  | .and a0 a1 a2 => Sys2Proof.Machine.execAnd a0 a1 a2 s
  | .or a0 a1 a2 => Sys2Proof.Machine.execOr a0 a1 a2 s
  | .xor a0 a1 a2 => Sys2Proof.Machine.execXor a0 a1 a2 s
  | .sll a0 a1 a2 => Sys2Proof.Machine.execSll a0 a1 a2 s
  | .srl a0 a1 a2 => Sys2Proof.Machine.execSrl a0 a1 a2 s
  | .sra a0 a1 a2 => Sys2Proof.Machine.execSra a0 a1 a2 s
  | .slt a0 a1 a2 => Sys2Proof.Machine.execSlt a0 a1 a2 s
  | .sltu a0 a1 a2 => Sys2Proof.Machine.execSltu a0 a1 a2 s
  | .min a0 a1 a2 => Sys2Proof.Machine.execMin a0 a1 a2 s
  | .max a0 a1 a2 => Sys2Proof.Machine.execMax a0 a1 a2 s
  | .minu a0 a1 a2 => Sys2Proof.Machine.execMinu a0 a1 a2 s
  | .maxu a0 a1 a2 => Sys2Proof.Machine.execMaxu a0 a1 a2 s
  | .mul a0 a1 a2 => Sys2Proof.Machine.execMul a0 a1 a2 s
  | .mulh a0 a1 a2 => Sys2Proof.Machine.execMulh a0 a1 a2 s
  | .mulhu a0 a1 a2 => Sys2Proof.Machine.execMulhu a0 a1 a2 s
  | .div a0 a1 a2 => Sys2Proof.Machine.execDiv a0 a1 a2 s
  | .divu a0 a1 a2 => Sys2Proof.Machine.execDivu a0 a1 a2 s
  | .rem a0 a1 a2 => Sys2Proof.Machine.execRem a0 a1 a2 s
  | .remu a0 a1 a2 => Sys2Proof.Machine.execRemu a0 a1 a2 s
  | .add32 a0 a1 a2 => Sys2Proof.Machine.execAdd32 a0 a1 a2 s
  | .sub32 a0 a1 a2 => Sys2Proof.Machine.execSub32 a0 a1 a2 s
  | .clz a0 a1 => Sys2Proof.Machine.execClz a0 a1 s
  | .ctz a0 a1 => Sys2Proof.Machine.execCtz a0 a1 s
  | .popc a0 a1 => Sys2Proof.Machine.execPopc a0 a1 s
  | .sxb a0 a1 => Sys2Proof.Machine.execSxb a0 a1 s
  | .sxh a0 a1 => Sys2Proof.Machine.execSxh a0 a1 s
  | .sxw a0 a1 => Sys2Proof.Machine.execSxw a0 a1 s
  | .zxw a0 a1 => Sys2Proof.Machine.execZxw a0 a1 s
  | .addi a0 a1 a2 => Sys2Proof.Machine.execAddi a0 a1 a2 s
  | .addiImm32 a0 a1 a2 => Sys2Proof.Machine.execAddiImm32 a0 a1 a2 s
  | .andi a0 a1 a2 => Sys2Proof.Machine.execAndi a0 a1 a2 s
  | .ori a0 a1 a2 => Sys2Proof.Machine.execOri a0 a1 a2 s
  | .xori a0 a1 a2 => Sys2Proof.Machine.execXori a0 a1 a2 s
  | .andiImm32 a0 a1 a2 => Sys2Proof.Machine.execAndiImm32 a0 a1 a2 s
  | .oriImm32 a0 a1 a2 => Sys2Proof.Machine.execOriImm32 a0 a1 a2 s
  | .xoriImm32 a0 a1 a2 => Sys2Proof.Machine.execXoriImm32 a0 a1 a2 s
  | .slli a0 a1 a2 => Sys2Proof.Machine.execSlli a0 a1 a2 s
  | .srli a0 a1 a2 => Sys2Proof.Machine.execSrli a0 a1 a2 s
  | .srai a0 a1 a2 => Sys2Proof.Machine.execSrai a0 a1 a2 s
  | .lui a0 a1 => Sys2Proof.Machine.execLui a0 a1 s
  | .liw a0 a1 => Sys2Proof.Machine.execLiw a0 a1 s
  | .liq a0 a1 => Sys2Proof.Machine.execLiq a0 a1 s
  | .faddS a0 a1 a2 => Sys2Proof.Machine.execFaddS a0 a1 a2 s
  | .fsubS a0 a1 a2 => Sys2Proof.Machine.execFsubS a0 a1 a2 s
  | .fmulS a0 a1 a2 => Sys2Proof.Machine.execFmulS a0 a1 a2 s
  | .fdivS a0 a1 a2 => Sys2Proof.Machine.execFdivS a0 a1 a2 s
  | .fsqrtS a0 a1 => Sys2Proof.Machine.execFsqrtS a0 a1 s
  | .fminS a0 a1 a2 => Sys2Proof.Machine.execFminS a0 a1 a2 s
  | .fmaxS a0 a1 a2 => Sys2Proof.Machine.execFmaxS a0 a1 a2 s
  | .fmaS a0 a1 a2 => Sys2Proof.Machine.execFmaS a0 a1 a2 s
  | .fnmaS a0 a1 a2 => Sys2Proof.Machine.execFnmaS a0 a1 a2 s
  | .faddD a0 a1 a2 => Sys2Proof.Machine.execFaddD a0 a1 a2 s
  | .fsubD a0 a1 a2 => Sys2Proof.Machine.execFsubD a0 a1 a2 s
  | .fmulD a0 a1 a2 => Sys2Proof.Machine.execFmulD a0 a1 a2 s
  | .fdivD a0 a1 a2 => Sys2Proof.Machine.execFdivD a0 a1 a2 s
  | .fsqrtD a0 a1 => Sys2Proof.Machine.execFsqrtD a0 a1 s
  | .fminD a0 a1 a2 => Sys2Proof.Machine.execFminD a0 a1 a2 s
  | .fmaxD a0 a1 a2 => Sys2Proof.Machine.execFmaxD a0 a1 a2 s
  | .fmaD a0 a1 a2 => Sys2Proof.Machine.execFmaD a0 a1 a2 s
  | .fnmaD a0 a1 a2 => Sys2Proof.Machine.execFnmaD a0 a1 a2 s
  | .feqS a0 a1 a2 => Sys2Proof.Machine.execFeqS a0 a1 a2 s
  | .fltS a0 a1 a2 => Sys2Proof.Machine.execFltS a0 a1 a2 s
  | .fleS a0 a1 a2 => Sys2Proof.Machine.execFleS a0 a1 a2 s
  | .fclassS a0 a1 => Sys2Proof.Machine.execFclassS a0 a1 s
  | .feqD a0 a1 a2 => Sys2Proof.Machine.execFeqD a0 a1 a2 s
  | .fltD a0 a1 a2 => Sys2Proof.Machine.execFltD a0 a1 a2 s
  | .fleD a0 a1 a2 => Sys2Proof.Machine.execFleD a0 a1 a2 s
  | .fclassD a0 a1 => Sys2Proof.Machine.execFclassD a0 a1 s
  | .fcvt a0 a1 a2 a3 a4 => Sys2Proof.Machine.execFcvt a0 a1 a2 a3 a4 s
  | .aadd a0 a1 a2 => Sys2Proof.Machine.execAadd a0 a1 a2 s
  | .asub a0 a1 a2 => Sys2Proof.Machine.execAsub a0 a1 a2 s
  | .adiff a0 a1 a2 => Sys2Proof.Machine.execAdiff a0 a1 a2 s
  | .amov a0 a1 => Sys2Proof.Machine.execAmov a0 a1 s
  | .afromx a0 a1 => Sys2Proof.Machine.execAfromx a0 a1 s
  | .atox a0 a1 => Sys2Proof.Machine.execAtox a0 a1 s
  | .aaddi a0 a1 a2 => Sys2Proof.Machine.execAaddi a0 a1 a2 s
  | .aaddiImm32 a0 a1 a2 => Sys2Proof.Machine.execAaddiImm32 a0 a1 a2 s
  | .ahi a0 a1 => Sys2Proof.Machine.execAhi a0 a1 s
  | .beq a0 a1 a2 => Sys2Proof.Machine.execBeq a0 a1 a2 s
  | .bne a0 a1 a2 => Sys2Proof.Machine.execBne a0 a1 a2 s
  | .blt a0 a1 a2 => Sys2Proof.Machine.execBlt a0 a1 a2 s
  | .bge a0 a1 a2 => Sys2Proof.Machine.execBge a0 a1 a2 s
  | .bltu a0 a1 a2 => Sys2Proof.Machine.execBltu a0 a1 a2 s
  | .bgeu a0 a1 a2 => Sys2Proof.Machine.execBgeu a0 a1 a2 s
  | .baeq a0 a1 a2 => Sys2Proof.Machine.execBaeq a0 a1 a2 s
  | .bane a0 a1 a2 => Sys2Proof.Machine.execBane a0 a1 a2 s
  | .baltu a0 a1 a2 => Sys2Proof.Machine.execBaltu a0 a1 a2 s
  | .bageu a0 a1 a2 => Sys2Proof.Machine.execBageu a0 a1 a2 s
  | .beqOff32 a0 a1 a2 => Sys2Proof.Machine.execBeqOff32 a0 a1 a2 s
  | .bneOff32 a0 a1 a2 => Sys2Proof.Machine.execBneOff32 a0 a1 a2 s
  | .bltOff32 a0 a1 a2 => Sys2Proof.Machine.execBltOff32 a0 a1 a2 s
  | .bgeOff32 a0 a1 a2 => Sys2Proof.Machine.execBgeOff32 a0 a1 a2 s
  | .bltuOff32 a0 a1 a2 => Sys2Proof.Machine.execBltuOff32 a0 a1 a2 s
  | .bgeuOff32 a0 a1 a2 => Sys2Proof.Machine.execBgeuOff32 a0 a1 a2 s
  | .baeqOff32 a0 a1 a2 => Sys2Proof.Machine.execBaeqOff32 a0 a1 a2 s
  | .baneOff32 a0 a1 a2 => Sys2Proof.Machine.execBaneOff32 a0 a1 a2 s
  | .baltuOff32 a0 a1 a2 => Sys2Proof.Machine.execBaltuOff32 a0 a1 a2 s
  | .bageuOff32 a0 a1 a2 => Sys2Proof.Machine.execBageuOff32 a0 a1 a2 s
  | .jal a0 a1 => Sys2Proof.Machine.execJal a0 a1 s
  | .jalOff32 a0 a1 => Sys2Proof.Machine.execJalOff32 a0 a1 s
  | .jalr a0 a1 a2 => Sys2Proof.Machine.execJalr a0 a1 a2 s
  | .lb a0 a1 a2 => Sys2Proof.Machine.execLb a0 a1 a2 s
  | .lbu a0 a1 a2 => Sys2Proof.Machine.execLbu a0 a1 a2 s
  | .lh a0 a1 a2 => Sys2Proof.Machine.execLh a0 a1 a2 s
  | .lhu a0 a1 a2 => Sys2Proof.Machine.execLhu a0 a1 a2 s
  | .lw a0 a1 a2 => Sys2Proof.Machine.execLw a0 a1 a2 s
  | .lwu a0 a1 a2 => Sys2Proof.Machine.execLwu a0 a1 a2 s
  | .ld a0 a1 a2 => Sys2Proof.Machine.execLd a0 a1 a2 s
  | .sb a0 a1 a2 => Sys2Proof.Machine.execSb a0 a1 a2 s
  | .sh a0 a1 a2 => Sys2Proof.Machine.execSh a0 a1 a2 s
  | .sw a0 a1 a2 => Sys2Proof.Machine.execSw a0 a1 a2 s
  | .sd a0 a1 a2 => Sys2Proof.Machine.execSd a0 a1 a2 s
  | .lbQ32 a0 a1 a2 a3 => Sys2Proof.Machine.execLbQ32 a0 a1 a2 a3 s
  | .lbuQ32 a0 a1 a2 a3 => Sys2Proof.Machine.execLbuQ32 a0 a1 a2 a3 s
  | .lhQ32 a0 a1 a2 a3 => Sys2Proof.Machine.execLhQ32 a0 a1 a2 a3 s
  | .lhuQ32 a0 a1 a2 a3 => Sys2Proof.Machine.execLhuQ32 a0 a1 a2 a3 s
  | .lwQ32 a0 a1 a2 a3 => Sys2Proof.Machine.execLwQ32 a0 a1 a2 a3 s
  | .lwuQ32 a0 a1 a2 a3 => Sys2Proof.Machine.execLwuQ32 a0 a1 a2 a3 s
  | .ldQ32 a0 a1 a2 a3 => Sys2Proof.Machine.execLdQ32 a0 a1 a2 a3 s
  | .sbQ32 a0 a1 a2 a3 => Sys2Proof.Machine.execSbQ32 a0 a1 a2 a3 s
  | .shQ32 a0 a1 a2 a3 => Sys2Proof.Machine.execShQ32 a0 a1 a2 a3 s
  | .swQ32 a0 a1 a2 a3 => Sys2Proof.Machine.execSwQ32 a0 a1 a2 a3 s
  | .sdQ32 a0 a1 a2 a3 => Sys2Proof.Machine.execSdQ32 a0 a1 a2 a3 s
  | .yield => Sys2Proof.Machine.execYield s
  | .waitline a0 a1 a2 => Sys2Proof.Machine.execWaitline a0 a1 a2 s
  | .forkl a0 a1 => Sys2Proof.Machine.execForkl a0 a1 s
  | .joinl => Sys2Proof.Machine.execJoinl s
  | .exit => Sys2Proof.Machine.execExit s
  | .sysrd a0 a1 => Sys2Proof.Machine.execSysrd a0 a1 s
  | .syswr a0 a1 => Sys2Proof.Machine.execSyswr a0 a1 s
  | .sysset a0 a1 => Sys2Proof.Machine.execSysset a0 a1 s
  | .sysclr a0 a1 => Sys2Proof.Machine.execSysclr a0 a1 s
  | .sysxch a0 a1 => Sys2Proof.Machine.execSysxch a0 a1 s
  | .scall => Sys2Proof.Machine.execScall s
  | .tret => Sys2Proof.Machine.execTret s
  | .tlbiva a0 a1 => Sys2Proof.Machine.execTlbiva a0 a1 s
  | .tlbias a0 => Sys2Proof.Machine.execTlbias a0 s
  | .tlbiall => Sys2Proof.Machine.execTlbiall s
  | .leave a0 => Sys2Proof.Machine.execLeave a0 s
  | .vsetl a0 a1 => Sys2Proof.Machine.execVsetl a0 a1 s
  | .vsetcfg a0 a1 => Sys2Proof.Machine.execVsetcfg a0 a1 s
  | .vpart a0 => Sys2Proof.Machine.execVpart a0 s
  | .sbr a0 a1 a2 a3 a4 a5 a6 a7 => Sys2Proof.Machine.execSbr a0 a1 a2 a3 a4 a5 a6 a7 s
  | .mand a0 a1 a2 => Sys2Proof.Machine.execMand a0 a1 a2 s
  | .mor a0 a1 a2 => Sys2Proof.Machine.execMor a0 a1 a2 s
  | .mxor a0 a1 a2 => Sys2Proof.Machine.execMxor a0 a1 a2 s
  | .mandn a0 a1 a2 => Sys2Proof.Machine.execMandn a0 a1 a2 s
  | .mnot a0 a1 => Sys2Proof.Machine.execMnot a0 a1 s
  | .mset a0 => Sys2Proof.Machine.execMset a0 s
  | .mclr a0 => Sys2Proof.Machine.execMclr a0 s
  | .mpopc a0 a1 => Sys2Proof.Machine.execMpopc a0 a1 s
  | .mfirst a0 a1 => Sys2Proof.Machine.execMfirst a0 a1 s
  | .vaddVV a0 a1 a2 a3 => Sys2Proof.Machine.execVaddVV a0 a1 a2 a3 s
  | .vsubVV a0 a1 a2 a3 => Sys2Proof.Machine.execVsubVV a0 a1 a2 a3 s
  | .vandVV a0 a1 a2 a3 => Sys2Proof.Machine.execVandVV a0 a1 a2 a3 s
  | .vorVV a0 a1 a2 a3 => Sys2Proof.Machine.execVorVV a0 a1 a2 a3 s
  | .vxorVV a0 a1 a2 a3 => Sys2Proof.Machine.execVxorVV a0 a1 a2 a3 s
  | .vsllVV a0 a1 a2 a3 => Sys2Proof.Machine.execVsllVV a0 a1 a2 a3 s
  | .vsrlVV a0 a1 a2 a3 => Sys2Proof.Machine.execVsrlVV a0 a1 a2 a3 s
  | .vsraVV a0 a1 a2 a3 => Sys2Proof.Machine.execVsraVV a0 a1 a2 a3 s
  | .vminVV a0 a1 a2 a3 => Sys2Proof.Machine.execVminVV a0 a1 a2 a3 s
  | .vmaxVV a0 a1 a2 a3 => Sys2Proof.Machine.execVmaxVV a0 a1 a2 a3 s
  | .vminuVV a0 a1 a2 a3 => Sys2Proof.Machine.execVminuVV a0 a1 a2 a3 s
  | .vmaxuVV a0 a1 a2 a3 => Sys2Proof.Machine.execVmaxuVV a0 a1 a2 a3 s
  | .vmulVV a0 a1 a2 a3 => Sys2Proof.Machine.execVmulVV a0 a1 a2 a3 s
  | .vmulhVV a0 a1 a2 a3 => Sys2Proof.Machine.execVmulhVV a0 a1 a2 a3 s
  | .vmulhuVV a0 a1 a2 a3 => Sys2Proof.Machine.execVmulhuVV a0 a1 a2 a3 s
  | .vdivVV a0 a1 a2 a3 => Sys2Proof.Machine.execVdivVV a0 a1 a2 a3 s
  | .vdivuVV a0 a1 a2 a3 => Sys2Proof.Machine.execVdivuVV a0 a1 a2 a3 s
  | .vremVV a0 a1 a2 a3 => Sys2Proof.Machine.execVremVV a0 a1 a2 a3 s
  | .vremuVV a0 a1 a2 a3 => Sys2Proof.Machine.execVremuVV a0 a1 a2 a3 s
  | .vsaddVV a0 a1 a2 a3 => Sys2Proof.Machine.execVsaddVV a0 a1 a2 a3 s
  | .vsadduVV a0 a1 a2 a3 => Sys2Proof.Machine.execVsadduVV a0 a1 a2 a3 s
  | .vssubVV a0 a1 a2 a3 => Sys2Proof.Machine.execVssubVV a0 a1 a2 a3 s
  | .vssubuVV a0 a1 a2 a3 => Sys2Proof.Machine.execVssubuVV a0 a1 a2 a3 s
  | .vabs a0 a1 a2 => Sys2Proof.Machine.execVabs a0 a1 a2 s
  | .vneg a0 a1 a2 => Sys2Proof.Machine.execVneg a0 a1 a2 s
  | .vaddVX a0 a1 a2 a3 => Sys2Proof.Machine.execVaddVX a0 a1 a2 a3 s
  | .vsubVX a0 a1 a2 a3 => Sys2Proof.Machine.execVsubVX a0 a1 a2 a3 s
  | .vandVX a0 a1 a2 a3 => Sys2Proof.Machine.execVandVX a0 a1 a2 a3 s
  | .vorVX a0 a1 a2 a3 => Sys2Proof.Machine.execVorVX a0 a1 a2 a3 s
  | .vxorVX a0 a1 a2 a3 => Sys2Proof.Machine.execVxorVX a0 a1 a2 a3 s
  | .vsllVX a0 a1 a2 a3 => Sys2Proof.Machine.execVsllVX a0 a1 a2 a3 s
  | .vsrlVX a0 a1 a2 a3 => Sys2Proof.Machine.execVsrlVX a0 a1 a2 a3 s
  | .vsraVX a0 a1 a2 a3 => Sys2Proof.Machine.execVsraVX a0 a1 a2 a3 s
  | .vminVX a0 a1 a2 a3 => Sys2Proof.Machine.execVminVX a0 a1 a2 a3 s
  | .vmaxVX a0 a1 a2 a3 => Sys2Proof.Machine.execVmaxVX a0 a1 a2 a3 s
  | .vminuVX a0 a1 a2 a3 => Sys2Proof.Machine.execVminuVX a0 a1 a2 a3 s
  | .vmaxuVX a0 a1 a2 a3 => Sys2Proof.Machine.execVmaxuVX a0 a1 a2 a3 s
  | .vmulVX a0 a1 a2 a3 => Sys2Proof.Machine.execVmulVX a0 a1 a2 a3 s
  | .vmulhVX a0 a1 a2 a3 => Sys2Proof.Machine.execVmulhVX a0 a1 a2 a3 s
  | .vmulhuVX a0 a1 a2 a3 => Sys2Proof.Machine.execVmulhuVX a0 a1 a2 a3 s
  | .vdivVX a0 a1 a2 a3 => Sys2Proof.Machine.execVdivVX a0 a1 a2 a3 s
  | .vdivuVX a0 a1 a2 a3 => Sys2Proof.Machine.execVdivuVX a0 a1 a2 a3 s
  | .vremVX a0 a1 a2 a3 => Sys2Proof.Machine.execVremVX a0 a1 a2 a3 s
  | .vremuVX a0 a1 a2 a3 => Sys2Proof.Machine.execVremuVX a0 a1 a2 a3 s
  | .vsaddVX a0 a1 a2 a3 => Sys2Proof.Machine.execVsaddVX a0 a1 a2 a3 s
  | .vsadduVX a0 a1 a2 a3 => Sys2Proof.Machine.execVsadduVX a0 a1 a2 a3 s
  | .vssubVX a0 a1 a2 a3 => Sys2Proof.Machine.execVssubVX a0 a1 a2 a3 s
  | .vssubuVX a0 a1 a2 a3 => Sys2Proof.Machine.execVssubuVX a0 a1 a2 a3 s
  | .vaddVI a0 a1 a2 a3 => Sys2Proof.Machine.execVaddVI a0 a1 a2 a3 s
  | .vsubVI a0 a1 a2 a3 => Sys2Proof.Machine.execVsubVI a0 a1 a2 a3 s
  | .vandVI a0 a1 a2 a3 => Sys2Proof.Machine.execVandVI a0 a1 a2 a3 s
  | .vorVI a0 a1 a2 a3 => Sys2Proof.Machine.execVorVI a0 a1 a2 a3 s
  | .vxorVI a0 a1 a2 a3 => Sys2Proof.Machine.execVxorVI a0 a1 a2 a3 s
  | .vsllVI a0 a1 a2 a3 => Sys2Proof.Machine.execVsllVI a0 a1 a2 a3 s
  | .vsrlVI a0 a1 a2 a3 => Sys2Proof.Machine.execVsrlVI a0 a1 a2 a3 s
  | .vsraVI a0 a1 a2 a3 => Sys2Proof.Machine.execVsraVI a0 a1 a2 a3 s
  | .vminVI a0 a1 a2 a3 => Sys2Proof.Machine.execVminVI a0 a1 a2 a3 s
  | .vmaxVI a0 a1 a2 a3 => Sys2Proof.Machine.execVmaxVI a0 a1 a2 a3 s
  | .vminuVI a0 a1 a2 a3 => Sys2Proof.Machine.execVminuVI a0 a1 a2 a3 s
  | .vmaxuVI a0 a1 a2 a3 => Sys2Proof.Machine.execVmaxuVI a0 a1 a2 a3 s
  | .vsaddVI a0 a1 a2 a3 => Sys2Proof.Machine.execVsaddVI a0 a1 a2 a3 s
  | .vsadduVI a0 a1 a2 a3 => Sys2Proof.Machine.execVsadduVI a0 a1 a2 a3 s
  | .vssubVI a0 a1 a2 a3 => Sys2Proof.Machine.execVssubVI a0 a1 a2 a3 s
  | .vssubuVI a0 a1 a2 a3 => Sys2Proof.Machine.execVssubuVI a0 a1 a2 a3 s
  | .vfaddVV a0 a1 a2 a3 => Sys2Proof.Machine.execVfaddVV a0 a1 a2 a3 s
  | .vfsubVV a0 a1 a2 a3 => Sys2Proof.Machine.execVfsubVV a0 a1 a2 a3 s
  | .vfmulVV a0 a1 a2 a3 => Sys2Proof.Machine.execVfmulVV a0 a1 a2 a3 s
  | .vfdivVV a0 a1 a2 a3 => Sys2Proof.Machine.execVfdivVV a0 a1 a2 a3 s
  | .vfminVV a0 a1 a2 a3 => Sys2Proof.Machine.execVfminVV a0 a1 a2 a3 s
  | .vfmaxVV a0 a1 a2 a3 => Sys2Proof.Machine.execVfmaxVV a0 a1 a2 a3 s
  | .vfmaVV a0 a1 a2 a3 => Sys2Proof.Machine.execVfmaVV a0 a1 a2 a3 s
  | .vfmsVV a0 a1 a2 a3 => Sys2Proof.Machine.execVfmsVV a0 a1 a2 a3 s
  | .vfnmaVV a0 a1 a2 a3 => Sys2Proof.Machine.execVfnmaVV a0 a1 a2 a3 s
  | .vfsqrt a0 a1 a2 => Sys2Proof.Machine.execVfsqrt a0 a1 a2 s
  | .vfrece a0 a1 a2 => Sys2Proof.Machine.execVfrece a0 a1 a2 s
  | .vfrsqe a0 a1 a2 => Sys2Proof.Machine.execVfrsqe a0 a1 a2 s
  | .vfabs a0 a1 a2 => Sys2Proof.Machine.execVfabs a0 a1 a2 s
  | .vfneg a0 a1 a2 => Sys2Proof.Machine.execVfneg a0 a1 a2 s
  | .vfsgnj a0 a1 a2 a3 => Sys2Proof.Machine.execVfsgnj a0 a1 a2 a3 s
  | .vfaddVX a0 a1 a2 a3 => Sys2Proof.Machine.execVfaddVX a0 a1 a2 a3 s
  | .vfsubVX a0 a1 a2 a3 => Sys2Proof.Machine.execVfsubVX a0 a1 a2 a3 s
  | .vfmulVX a0 a1 a2 a3 => Sys2Proof.Machine.execVfmulVX a0 a1 a2 a3 s
  | .vfdivVX a0 a1 a2 a3 => Sys2Proof.Machine.execVfdivVX a0 a1 a2 a3 s
  | .vfminVX a0 a1 a2 a3 => Sys2Proof.Machine.execVfminVX a0 a1 a2 a3 s
  | .vfmaxVX a0 a1 a2 a3 => Sys2Proof.Machine.execVfmaxVX a0 a1 a2 a3 s
  | .vfmaVX a0 a1 a2 a3 => Sys2Proof.Machine.execVfmaVX a0 a1 a2 a3 s
  | .vfmsVX a0 a1 a2 a3 => Sys2Proof.Machine.execVfmsVX a0 a1 a2 a3 s
  | .vfnmaVX a0 a1 a2 a3 => Sys2Proof.Machine.execVfnmaVX a0 a1 a2 a3 s
  | .vcmpeq a0 a1 a2 a3 => Sys2Proof.Machine.execVcmpeq a0 a1 a2 a3 s
  | .vcmpne a0 a1 a2 a3 => Sys2Proof.Machine.execVcmpne a0 a1 a2 a3 s
  | .vcmplt a0 a1 a2 a3 => Sys2Proof.Machine.execVcmplt a0 a1 a2 a3 s
  | .vcmple a0 a1 a2 a3 => Sys2Proof.Machine.execVcmple a0 a1 a2 a3 s
  | .vcmpltu a0 a1 a2 a3 => Sys2Proof.Machine.execVcmpltu a0 a1 a2 a3 s
  | .vcmpleu a0 a1 a2 a3 => Sys2Proof.Machine.execVcmpleu a0 a1 a2 a3 s
  | .vfcmpeq a0 a1 a2 a3 => Sys2Proof.Machine.execVfcmpeq a0 a1 a2 a3 s
  | .vfcmplt a0 a1 a2 a3 => Sys2Proof.Machine.execVfcmplt a0 a1 a2 a3 s
  | .vfcmple a0 a1 a2 a3 => Sys2Proof.Machine.execVfcmple a0 a1 a2 a3 s
  | .vfcmpun a0 a1 a2 a3 => Sys2Proof.Machine.execVfcmpun a0 a1 a2 a3 s
  | .vmerge a0 a1 a2 a3 => Sys2Proof.Machine.execVmerge a0 a1 a2 a3 s
  | .vmv a0 a1 a2 => Sys2Proof.Machine.execVmv a0 a1 a2 s
  | .vid a0 a1 => Sys2Proof.Machine.execVid a0 a1 s
  | .vsplat a0 a1 a2 => Sys2Proof.Machine.execVsplat a0 a1 a2 s
  | .vext a0 a1 a2 => Sys2Proof.Machine.execVext a0 a1 a2 s
  | .vdot4 a0 a1 a2 a3 => Sys2Proof.Machine.execVdot4 a0 a1 a2 a3 s
  | .vdot8 a0 a1 a2 a3 => Sys2Proof.Machine.execVdot8 a0 a1 a2 a3 s
  | .vbsapply a0 a1 a2 a3 => Sys2Proof.Machine.execVbsapply a0 a1 a2 a3 s
  | .vcvt a0 a1 a2 a3 a4 a5 a6 => Sys2Proof.Machine.execVcvt a0 a1 a2 a3 a4 a5 a6 s
  | .vcvtW a0 a1 a2 a3 a4 a5 a6 => Sys2Proof.Machine.execVcvtW a0 a1 a2 a3 a4 a5 a6 s
  | .vcvtN a0 a1 a2 a3 a4 a5 a6 => Sys2Proof.Machine.execVcvtN a0 a1 a2 a3 a4 a5 a6 s
  | .vcvtSC a0 a1 a2 a3 a4 a5 a6 a7 => Sys2Proof.Machine.execVcvtSC a0 a1 a2 a3 a4 a5 a6 a7 s
  | .vsrseed a0 => Sys2Proof.Machine.execVsrseed a0 s
  | .vld a0 a1 a2 => Sys2Proof.Machine.execVld a0 a1 a2 s
  | .vldFE a0 a1 a2 => Sys2Proof.Machine.execVldFE a0 a1 a2 s
  | .vldFC a0 a1 a2 => Sys2Proof.Machine.execVldFC a0 a1 a2 s
  | .vlds a0 a1 a2 a3 => Sys2Proof.Machine.execVlds a0 a1 a2 a3 s
  | .vldx a0 a1 a2 a3 => Sys2Proof.Machine.execVldx a0 a1 a2 a3 s
  | .vldff a0 a1 a2 => Sys2Proof.Machine.execVldff a0 a1 a2 s
  | .vldz a0 a1 a2 => Sys2Proof.Machine.execVldz a0 a1 a2 s
  | .vldseg a0 a1 a2 a3 => Sys2Proof.Machine.execVldseg a0 a1 a2 a3 s
  | .vst a0 a1 a2 => Sys2Proof.Machine.execVst a0 a1 a2 s
  | .vsts a0 a1 a2 a3 => Sys2Proof.Machine.execVsts a0 a1 a2 a3 s
  | .vstx a0 a1 a2 a3 => Sys2Proof.Machine.execVstx a0 a1 a2 a3 s
  | .vstxo a0 a1 a2 a3 => Sys2Proof.Machine.execVstxo a0 a1 a2 a3 s
  | .vstz a0 a1 a2 => Sys2Proof.Machine.execVstz a0 a1 a2 s
  | .vstseg a0 a1 a2 a3 => Sys2Proof.Machine.execVstseg a0 a1 a2 a3 s
  | .vpf a0 a1 a2 => Sys2Proof.Machine.execVpf a0 a1 a2 s
  | .vred a0 a1 a2 a3 => Sys2Proof.Machine.execVred a0 a1 a2 a3 s
  | .vscan a0 a1 a2 a3 => Sys2Proof.Machine.execVscan a0 a1 a2 a3 s
  | .vscanx a0 a1 a2 a3 => Sys2Proof.Machine.execVscanx a0 a1 a2 a3 s
  | .vperm a0 a1 a2 a3 => Sys2Proof.Machine.execVperm a0 a1 a2 a3 s
  | .vcomp a0 a1 a2 => Sys2Proof.Machine.execVcomp a0 a1 a2 s
  | .vexpd a0 a1 a2 => Sys2Proof.Machine.execVexpd a0 a1 a2 s
  | .vfilt a0 a1 a2 => Sys2Proof.Machine.execVfilt a0 a1 a2 s
  | .vtopk a0 a1 a2 a3 => Sys2Proof.Machine.execVtopk a0 a1 a2 a3 s
  | .vslideup a0 a1 a2 a3 => Sys2Proof.Machine.execVslideup a0 a1 a2 a3 s
  | .vslidedn a0 a1 a2 a3 => Sys2Proof.Machine.execVslidedn a0 a1 a2 a3 s
  | .binr a0 a1 => Sys2Proof.Machine.execBinr a0 a1 s
  | .challoc a0 a1 a2 => Sys2Proof.Machine.execChalloc a0 a1 a2 s
  | .chpool a0 a1 => Sys2Proof.Machine.execChpool a0 a1 s
  | .strmLd a0 a1 a2 a3 a4 => Sys2Proof.Machine.execStrmLd a0 a1 a2 a3 a4 s
  | .strmLdFab a0 a1 a2 a3 => Sys2Proof.Machine.execStrmLdFab a0 a1 a2 a3 s
  | .strmSt a0 a1 a2 a3 a4 => Sys2Proof.Machine.execStrmSt a0 a1 a2 a3 a4 s
  | .strmCp a0 a1 a2 a3 a4 a5 a6 a7 => Sys2Proof.Machine.execStrmCp a0 a1 a2 a3 a4 a5 a6 a7 s
  | .strmGx a0 a1 a2 a3 => Sys2Proof.Machine.execStrmGx a0 a1 a2 a3 s
  | .strmPost a0 a1 a2 => Sys2Proof.Machine.execStrmPost a0 a1 a2 s
  | .strmWait a0 a1 a2 => Sys2Proof.Machine.execStrmWait a0 a1 a2 s
  | .strmMark a0 a1 a2 => Sys2Proof.Machine.execStrmMark a0 a1 a2 s
  | .tqdecl a0 a1 => Sys2Proof.Machine.execTqdecl a0 a1 s
  | .tqld a0 a1 a2 => Sys2Proof.Machine.execTqld a0 a1 a2 s
  | .tqpop a0 => Sys2Proof.Machine.execTqpop a0 s
  | .vaadd a0 a1 a2 a3 => Sys2Proof.Machine.execVaadd a0 a1 a2 a3 s
  | .vaand a0 a1 a2 a3 => Sys2Proof.Machine.execVaand a0 a1 a2 a3 s
  | .vaor a0 a1 a2 a3 => Sys2Proof.Machine.execVaor a0 a1 a2 a3 s
  | .vaxor a0 a1 a2 a3 => Sys2Proof.Machine.execVaxor a0 a1 a2 a3 s
  | .vamin a0 a1 a2 a3 => Sys2Proof.Machine.execVamin a0 a1 a2 a3 s
  | .vamax a0 a1 a2 a3 => Sys2Proof.Machine.execVamax a0 a1 a2 a3 s
  | .vaminu a0 a1 a2 a3 => Sys2Proof.Machine.execVaminu a0 a1 a2 a3 s
  | .vamaxu a0 a1 a2 a3 => Sys2Proof.Machine.execVamaxu a0 a1 a2 a3 s
  | .vafadd a0 a1 a2 a3 => Sys2Proof.Machine.execVafadd a0 a1 a2 a3 s
  | .vaswap a0 a1 a2 a3 => Sys2Proof.Machine.execVaswap a0 a1 a2 a3 s
  | .vacas a0 a1 a2 a3 => Sys2Proof.Machine.execVacas a0 a1 a2 a3 s
  | .vcadd a0 a1 a2 a3 => Sys2Proof.Machine.execVcadd a0 a1 a2 a3 s
  | .vcand a0 a1 a2 a3 => Sys2Proof.Machine.execVcand a0 a1 a2 a3 s
  | .vcor a0 a1 a2 a3 => Sys2Proof.Machine.execVcor a0 a1 a2 a3 s
  | .vcxor a0 a1 a2 a3 => Sys2Proof.Machine.execVcxor a0 a1 a2 a3 s
  | .vcmin a0 a1 a2 a3 => Sys2Proof.Machine.execVcmin a0 a1 a2 a3 s
  | .vcmax a0 a1 a2 a3 => Sys2Proof.Machine.execVcmax a0 a1 a2 a3 s
  | .vcminu a0 a1 a2 a3 => Sys2Proof.Machine.execVcminu a0 a1 a2 a3 s
  | .vcmaxu a0 a1 a2 a3 => Sys2Proof.Machine.execVcmaxu a0 a1 a2 a3 s
  | .vcfadd a0 a1 a2 a3 => Sys2Proof.Machine.execVcfadd a0 a1 a2 a3 s
  | .vgl a0 a1 a2 a3 => Sys2Proof.Machine.execVgl a0 a1 a2 a3 s
  | .vsc a0 a1 a2 a3 => Sys2Proof.Machine.execVsc a0 a1 a2 a3 s
  | .amadd a0 a1 a2 => Sys2Proof.Machine.execAmadd a0 a1 a2 s
  | .amand a0 a1 a2 => Sys2Proof.Machine.execAmand a0 a1 a2 s
  | .amor a0 a1 a2 => Sys2Proof.Machine.execAmor a0 a1 a2 s
  | .amxor a0 a1 a2 => Sys2Proof.Machine.execAmxor a0 a1 a2 s
  | .ammin a0 a1 a2 => Sys2Proof.Machine.execAmmin a0 a1 a2 s
  | .ammax a0 a1 a2 => Sys2Proof.Machine.execAmmax a0 a1 a2 s
  | .amminu a0 a1 a2 => Sys2Proof.Machine.execAmminu a0 a1 a2 s
  | .ammaxu a0 a1 a2 => Sys2Proof.Machine.execAmmaxu a0 a1 a2 s
  | .amswap a0 a1 a2 => Sys2Proof.Machine.execAmswap a0 a1 a2 s
  | .amcas a0 a1 a2 => Sys2Proof.Machine.execAmcas a0 a1 a2 s
  | .amaddW a0 a1 a2 => Sys2Proof.Machine.execAmaddW a0 a1 a2 s
  | .amandW a0 a1 a2 => Sys2Proof.Machine.execAmandW a0 a1 a2 s
  | .amorW a0 a1 a2 => Sys2Proof.Machine.execAmorW a0 a1 a2 s
  | .amxorW a0 a1 a2 => Sys2Proof.Machine.execAmxorW a0 a1 a2 s
  | .amminW a0 a1 a2 => Sys2Proof.Machine.execAmminW a0 a1 a2 s
  | .ammaxW a0 a1 a2 => Sys2Proof.Machine.execAmmaxW a0 a1 a2 s
  | .amminuW a0 a1 a2 => Sys2Proof.Machine.execAmminuW a0 a1 a2 s
  | .ammaxuW a0 a1 a2 => Sys2Proof.Machine.execAmmaxuW a0 a1 a2 s
  | .amswapW a0 a1 a2 => Sys2Proof.Machine.execAmswapW a0 a1 a2 s
  | .amcasW a0 a1 a2 => Sys2Proof.Machine.execAmcasW a0 a1 a2 s
  | .amaddQ32 a0 a1 a2 a3 => Sys2Proof.Machine.execAmaddQ32 a0 a1 a2 a3 s
  | .amandQ32 a0 a1 a2 a3 => Sys2Proof.Machine.execAmandQ32 a0 a1 a2 a3 s
  | .amorQ32 a0 a1 a2 a3 => Sys2Proof.Machine.execAmorQ32 a0 a1 a2 a3 s
  | .amxorQ32 a0 a1 a2 a3 => Sys2Proof.Machine.execAmxorQ32 a0 a1 a2 a3 s
  | .amminQ32 a0 a1 a2 a3 => Sys2Proof.Machine.execAmminQ32 a0 a1 a2 a3 s
  | .ammaxQ32 a0 a1 a2 a3 => Sys2Proof.Machine.execAmmaxQ32 a0 a1 a2 a3 s
  | .amminuQ32 a0 a1 a2 a3 => Sys2Proof.Machine.execAmminuQ32 a0 a1 a2 a3 s
  | .ammaxuQ32 a0 a1 a2 a3 => Sys2Proof.Machine.execAmmaxuQ32 a0 a1 a2 a3 s
  | .amswapQ32 a0 a1 a2 a3 => Sys2Proof.Machine.execAmswapQ32 a0 a1 a2 a3 s
  | .amcasQ32 a0 a1 a2 a3 => Sys2Proof.Machine.execAmcasQ32 a0 a1 a2 a3 s
  | .amaddWQ32 a0 a1 a2 a3 => Sys2Proof.Machine.execAmaddWQ32 a0 a1 a2 a3 s
  | .amandWQ32 a0 a1 a2 a3 => Sys2Proof.Machine.execAmandWQ32 a0 a1 a2 a3 s
  | .amorWQ32 a0 a1 a2 a3 => Sys2Proof.Machine.execAmorWQ32 a0 a1 a2 a3 s
  | .amxorWQ32 a0 a1 a2 a3 => Sys2Proof.Machine.execAmxorWQ32 a0 a1 a2 a3 s
  | .amminWQ32 a0 a1 a2 a3 => Sys2Proof.Machine.execAmminWQ32 a0 a1 a2 a3 s
  | .ammaxWQ32 a0 a1 a2 a3 => Sys2Proof.Machine.execAmmaxWQ32 a0 a1 a2 a3 s
  | .amminuWQ32 a0 a1 a2 a3 => Sys2Proof.Machine.execAmminuWQ32 a0 a1 a2 a3 s
  | .ammaxuWQ32 a0 a1 a2 a3 => Sys2Proof.Machine.execAmmaxuWQ32 a0 a1 a2 a3 s
  | .amswapWQ32 a0 a1 a2 a3 => Sys2Proof.Machine.execAmswapWQ32 a0 a1 a2 a3 s
  | .amcasWQ32 a0 a1 a2 a3 => Sys2Proof.Machine.execAmcasWQ32 a0 a1 a2 a3 s
  | .fenceSV => Sys2Proof.Machine.execFenceSV s
  | .fenceVS => Sys2Proof.Machine.execFenceVS s
  | .fenceVV => Sys2Proof.Machine.execFenceVV s
  | .fence a0 a1 => Sys2Proof.Machine.execFence a0 a1 s
  | .bara a0 a1 a2 => Sys2Proof.Machine.execBara a0 a1 a2 s
  | .barw a0 a1 a2 => Sys2Proof.Machine.execBarw a0 a1 a2 s
  | .cflush a0 => Sys2Proof.Machine.execCflush a0 s
  | .cinv a0 => Sys2Proof.Machine.execCinv a0 s
  | .cclean a0 => Sys2Proof.Machine.execCclean a0 s
  | .czero a0 => Sys2Proof.Machine.execCzero a0 s
  | .cpf a0 a1 => Sys2Proof.Machine.execCpf a0 a1 s
  | .isync a0 a1 => Sys2Proof.Machine.execIsync a0 a1 s
  | .mmode a0 => Sys2Proof.Machine.execMmode a0 s
  | .qclaim a0 a1 a2 => Sys2Proof.Machine.execQclaim a0 a1 a2 s
  | .qrel a0 => Sys2Proof.Machine.execQrel a0 s
  | .qacc a0 a1 => Sys2Proof.Machine.execQacc a0 a1 s
  | .bsset a0 a1 a2 => Sys2Proof.Machine.execBsset a0 a1 a2 s
  | .qstage a0 a1 a2 a3 a4 a5 a6 a7 a8 => Sys2Proof.Machine.execQstage a0 a1 a2 a3 a4 a5 a6 a7 a8 s
  | .qchain a0 a1 a2 a3 a4 a5 a6 a7 => Sys2Proof.Machine.execQchain a0 a1 a2 a3 a4 a5 a6 a7 s
  | .mgemm a0 a1 a2 a3 a4 a5 => Sys2Proof.Machine.execMgemm a0 a1 a2 a3 a4 a5 s
  | .qdrain a0 a1 => Sys2Proof.Machine.execQdrain a0 a1 s
  | .cfgLoad a0 a1 a2 => Sys2Proof.Machine.execCfgLoad a0 a1 a2 s
  | .cfgCheck a0 a1 => Sys2Proof.Machine.execCfgCheck a0 a1 s
  | .cfgSel a0 a1 => Sys2Proof.Machine.execCfgSel a0 a1 s
  | .cfgMark => Sys2Proof.Machine.execCfgMark s
  | .cfgSave a0 a1 => Sys2Proof.Machine.execCfgSave a0 a1 s
  | .cfgRest a0 a1 => Sys2Proof.Machine.execCfgRest a0 a1 s
  | .cfgGuard a0 a1 => Sys2Proof.Machine.execCfgGuard a0 a1 s
  | .cfgBind a0 a1 => Sys2Proof.Machine.execCfgBind a0 a1 s
  | .cfgWr a0 a1 a2 => Sys2Proof.Machine.execCfgWr a0 a1 a2 s
  | .launch a0 a1 => Sys2Proof.Machine.execLaunch a0 a1 s
  | .lstat a0 a1 a2 => Sys2Proof.Machine.execLstat a0 a1 a2 s
  | .tmark a0 => Sys2Proof.Machine.execTmark a0 s
  | .profLock a0 a1 => Sys2Proof.Machine.execProfLock a0 a1 s
  | .profUnlock a0 => Sys2Proof.Machine.execProfUnlock a0 s
  | .brkpt a0 a1 a2 => Sys2Proof.Machine.execBrkpt a0 a1 a2 s
  | .cntrd a0 a1 => Sys2Proof.Machine.execCntrd a0 a1 s
  | .elemNop => Sys2Proof.Machine.execElemNop s
  | .elemAdd a0 a1 a2 a3 a4 => Sys2Proof.Machine.execElemAdd a0 a1 a2 a3 a4 s
  | .elemSub a0 a1 a2 a3 a4 => Sys2Proof.Machine.execElemSub a0 a1 a2 a3 a4 s
  | .elemMul a0 a1 a2 a3 a4 => Sys2Proof.Machine.execElemMul a0 a1 a2 a3 a4 s
  | .elemAnd a0 a1 a2 a3 a4 => Sys2Proof.Machine.execElemAnd a0 a1 a2 a3 a4 s
  | .elemOr a0 a1 a2 a3 a4 => Sys2Proof.Machine.execElemOr a0 a1 a2 a3 a4 s
  | .elemXor a0 a1 a2 a3 a4 => Sys2Proof.Machine.execElemXor a0 a1 a2 a3 a4 s
  | .elemMin a0 a1 a2 a3 a4 => Sys2Proof.Machine.execElemMin a0 a1 a2 a3 a4 s
  | .elemMax a0 a1 a2 a3 a4 => Sys2Proof.Machine.execElemMax a0 a1 a2 a3 a4 s
  | .elemMinu a0 a1 a2 a3 a4 => Sys2Proof.Machine.execElemMinu a0 a1 a2 a3 a4 s
  | .elemMaxu a0 a1 a2 a3 a4 => Sys2Proof.Machine.execElemMaxu a0 a1 a2 a3 a4 s
  | .elemFadd a0 a1 a2 a3 a4 => Sys2Proof.Machine.execElemFadd a0 a1 a2 a3 a4 s
  | .elemFsub a0 a1 a2 a3 a4 => Sys2Proof.Machine.execElemFsub a0 a1 a2 a3 a4 s
  | .elemFmul a0 a1 a2 a3 a4 => Sys2Proof.Machine.execElemFmul a0 a1 a2 a3 a4 s
  | .elemFmin a0 a1 a2 a3 a4 => Sys2Proof.Machine.execElemFmin a0 a1 a2 a3 a4 s
  | .elemFmax a0 a1 a2 a3 a4 => Sys2Proof.Machine.execElemFmax a0 a1 a2 a3 a4 s
  | .elemDot4 a0 a1 a2 a3 a4 => Sys2Proof.Machine.execElemDot4 a0 a1 a2 a3 a4 s
  | .elemAddl a0 a1 a2 a3 a4 => Sys2Proof.Machine.execElemAddl a0 a1 a2 a3 a4 s
  | .elemMull a0 a1 a2 a3 a4 => Sys2Proof.Machine.execElemMull a0 a1 a2 a3 a4 s
  | .elemAndl a0 a1 a2 a3 a4 => Sys2Proof.Machine.execElemAndl a0 a1 a2 a3 a4 s
  | .elemShl a0 a1 a2 a3 a4 => Sys2Proof.Machine.execElemShl a0 a1 a2 a3 a4 s
  | .elemShr a0 a1 a2 a3 a4 => Sys2Proof.Machine.execElemShr a0 a1 a2 a3 a4 s
  | .elemSar a0 a1 a2 a3 a4 => Sys2Proof.Machine.execElemSar a0 a1 a2 a3 a4 s
  | .elemFma a0 a1 a2 a3 a4 a5 => Sys2Proof.Machine.execElemFma a0 a1 a2 a3 a4 a5 s
  | .elemMac a0 a1 a2 a3 a4 a5 => Sys2Proof.Machine.execElemMac a0 a1 a2 a3 a4 a5 s
  | .elemCmpeq a0 a1 a2 a3 a4 a5 => Sys2Proof.Machine.execElemCmpeq a0 a1 a2 a3 a4 a5 s
  | .elemCmplt a0 a1 a2 a3 a4 a5 => Sys2Proof.Machine.execElemCmplt a0 a1 a2 a3 a4 a5 s
  | .elemCmpltu a0 a1 a2 a3 a4 a5 => Sys2Proof.Machine.execElemCmpltu a0 a1 a2 a3 a4 a5 s
  | .elemFcmplt a0 a1 a2 a3 a4 a5 => Sys2Proof.Machine.execElemFcmplt a0 a1 a2 a3 a4 a5 s
  | .elemFcmpeq a0 a1 a2 a3 a4 a5 => Sys2Proof.Machine.execElemFcmpeq a0 a1 a2 a3 a4 a5 s
  | .elemSetp a0 => Sys2Proof.Machine.execElemSetp a0 s
  | .elemClrp a0 => Sys2Proof.Machine.execElemClrp a0 s
  | .elemMovp a0 a1 => Sys2Proof.Machine.execElemMovp a0 a1 s
  | .elemMov a0 a1 a2 a3 => Sys2Proof.Machine.execElemMov a0 a1 a2 a3 s
  | .elemLit a0 a1 a2 a3 => Sys2Proof.Machine.execElemLit a0 a1 a2 a3 s
  | .elemSel a0 a1 a2 a3 a4 a5 => Sys2Proof.Machine.execElemSel a0 a1 a2 a3 a4 a5 s
  | .elemDrop a0 a1 => Sys2Proof.Machine.execElemDrop a0 a1 s
  | .elemLdt a0 a1 a2 a3 a4 => Sys2Proof.Machine.execElemLdt a0 a1 a2 a3 a4 s
  | .elemStt a0 a1 a2 a3 => Sys2Proof.Machine.execElemStt a0 a1 a2 a3 s
  | .elemCnt a0 a1 a2 a3 => Sys2Proof.Machine.execElemCnt a0 a1 a2 a3 s
  | .elemCtx a0 => Sys2Proof.Machine.execElemCtx a0 s
  | .elemHalt => Sys2Proof.Machine.execElemHalt s
  | .elemAbs a0 a1 a2 a3 => Sys2Proof.Machine.execElemAbs a0 a1 a2 a3 s
  | .elemPopc a0 a1 a2 a3 => Sys2Proof.Machine.execElemPopc a0 a1 a2 a3 s
  | .elemSteer a0 a1 a2 a3 a4 => Sys2Proof.Machine.execElemSteer a0 a1 a2 a3 a4 s
  | .nohandlerFreeze a0 => Sys2Proof.Machine.execNohandlerFreeze a0 s
  | .predicateWriteResolve a0 => Sys2Proof.Machine.execPredicateWriteResolve a0 s
  | .elementResultWrite a0 a1 => Sys2Proof.Machine.execElementResultWrite a0 a1 s
  | .tokenDelivery a0 a1 => Sys2Proof.Machine.execTokenDelivery a0 a1 s
  | .edgeQueueForward a0 a1 => Sys2Proof.Machine.execEdgeQueueForward a0 a1 s
  | .waveOperationPerform a0 a1 => Sys2Proof.Machine.execWaveOperationPerform a0 a1 s
  | .elementContextSwitch a0 => Sys2Proof.Machine.execElementContextSwitch a0 s
  | .elementSnapshot a0 => Sys2Proof.Machine.execElementSnapshot a0 s
  | .markerTimeout a0 => Sys2Proof.Machine.execMarkerTimeout a0 s
  | .streamOutTake a0 a1 => Sys2Proof.Machine.execStreamOutTake a0 a1 s
  | .cfgCheckDone a0 => Sys2Proof.Machine.execCfgCheckDone a0 s
  | .cfgLoadDone a0 => Sys2Proof.Machine.execCfgLoadDone a0 s
  | .cfgSaveDone a0 => Sys2Proof.Machine.execCfgSaveDone a0 s
  | .cfgRestDone a0 => Sys2Proof.Machine.execCfgRestDone a0 s
  | .asyncTrap a0 => Sys2Proof.Machine.execAsyncTrap a0 s
  | .scalarAccessComplete a0 a1 => Sys2Proof.Machine.execScalarAccessComplete a0 a1 s
  | .storeQueueDrain a0 a1 => Sys2Proof.Machine.execStoreQueueDrain a0 a1 s
  | .fullemptyWake a0 => Sys2Proof.Machine.execFullemptyWake a0 s
  | .waitlineWake a0 => Sys2Proof.Machine.execWaitlineWake a0 s
  | .barwWake a0 => Sys2Proof.Machine.execBarwWake a0 s
  | .joinlWake a0 => Sys2Proof.Machine.execJoinlWake a0 s
  | .slotFree a0 => Sys2Proof.Machine.execSlotFree a0 s
  | .pageWalk a0 a1 a2 => Sys2Proof.Machine.execPageWalk a0 a1 a2 s
  | .tlbInvalidateComplete a0 => Sys2Proof.Machine.execTlbInvalidateComplete a0 s
  | .reservationWaitProceed a0 a1 => Sys2Proof.Machine.execReservationWaitProceed a0 a1 s
  | .vectorInstructionStart a0 a1 => Sys2Proof.Machine.execVectorInstructionStart a0 a1 s
  | .elementGroup a0 a1 => Sys2Proof.Machine.execElementGroup a0 a1 s
  | .vldFeGroupProceed a0 a1 => Sys2Proof.Machine.execVldFeGroupProceed a0 a1 s
  | .vpartEffect a0 => Sys2Proof.Machine.execVpartEffect a0 s
  | .forklAct a0 => Sys2Proof.Machine.execForklAct a0 s
  | .joinlAct a0 => Sys2Proof.Machine.execJoinlAct a0 s
  | .sectorComplete a0 a1 a2 => Sys2Proof.Machine.execSectorComplete a0 a1 a2 s
  | .streamFault a0 a1 => Sys2Proof.Machine.execStreamFault a0 a1 s
  | .strmWaitWake a0 => Sys2Proof.Machine.execStrmWaitWake a0 s
  | .tqpopWake a0 => Sys2Proof.Machine.execTqpopWake a0 s
  | .bufferDrained a0 a1 => Sys2Proof.Machine.execBufferDrained a0 a1 s
  | .riddleBatch a0 a1 => Sys2Proof.Machine.execRiddleBatch a0 a1 s
  | .matrixStart a0 => Sys2Proof.Machine.execMatrixStart a0 s
  | .rowFire a0 => Sys2Proof.Machine.execRowFire a0 s
  | .rowRelease a0 a1 => Sys2Proof.Machine.execRowRelease a0 a1 s
  | .matrixComplete a0 => Sys2Proof.Machine.execMatrixComplete a0 s
  | .qclaimFillDone a0 a1 => Sys2Proof.Machine.execQclaimFillDone a0 a1 s
  | .qrelEffect a0 => Sys2Proof.Machine.execQrelEffect a0 s
  | .qdrainWake a0 => Sys2Proof.Machine.execQdrainWake a0 s
  | .leaveGrant a0 => Sys2Proof.Machine.execLeaveGrant a0 s
  | .leaveRevoke a0 => Sys2Proof.Machine.execLeaveRevoke a0 s
  | .matrixEntry a0 => Sys2Proof.Machine.execMatrixEntry a0 s
  | .matrixExit a0 => Sys2Proof.Machine.execMatrixExit a0 s
  | .readinessRead a0 a1 a2 => Sys2Proof.Machine.execReadinessRead a0 a1 a2 s
  | .claimBegin a0 a1 a2 => Sys2Proof.Machine.execClaimBegin a0 a1 a2 s
  | .teamPlace a0 a1 a2 a3 a4 => Sys2Proof.Machine.execTeamPlace a0 a1 a2 a3 a4 s
  | .teamFirstIssue a0 a1 a2 => Sys2Proof.Machine.execTeamFirstIssue a0 a1 a2 s
  | .teamEnd a0 a1 a2 => Sys2Proof.Machine.execTeamEnd a0 a1 a2 s
  | .tileClearDone a0 => Sys2Proof.Machine.execTileClearDone a0 s
  | .launchSignal a0 a1 => Sys2Proof.Machine.execLaunchSignal a0 a1 s
  | .preemptDecision a0 a1 a2 => Sys2Proof.Machine.execPreemptDecision a0 a1 a2 s
  | .swapOutSave a0 a1 a2 => Sys2Proof.Machine.execSwapOutSave a0 a1 a2 s
  | .teamRestore a0 a1 a2 a3 a4 => Sys2Proof.Machine.execTeamRestore a0 a1 a2 a3 a4 s
  | .lineInstall a0 a1 => Sys2Proof.Machine.execLineInstall a0 a1 s
  | .taggedWrite a0 a1 a2 => Sys2Proof.Machine.execTaggedWrite a0 a1 a2 s
  | .hostBarAccess a0 a1 => Sys2Proof.Machine.execHostBarAccess a0 a1 s
  | .cxlRequest a0 => Sys2Proof.Machine.execCxlRequest a0 s
  | .ndeitLoad a0 a1 => Sys2Proof.Machine.execNdeitLoad a0 a1 s
  | .ndeitStore a0 a1 => Sys2Proof.Machine.execNdeitStore a0 a1 s
  | .ndeitAtomic a0 a1 a2 a3 a4 => Sys2Proof.Machine.execNdeitAtomic a0 a1 a2 a3 a4 s
  | .ndeitReduction a0 a1 a2 a3 => Sys2Proof.Machine.execNdeitReduction a0 a1 a2 a3 s
  | .ndeitCoherence a0 => Sys2Proof.Machine.execNdeitCoherence a0 s
  | .flitReplay a0 => Sys2Proof.Machine.execFlitReplay a0 s
  | .linkRetrain a0 => Sys2Proof.Machine.execLinkRetrain a0 s
  | .linkRetrainDone a0 a1 => Sys2Proof.Machine.execLinkRetrainDone a0 a1 s
  | .uncorrectableError a0 => Sys2Proof.Machine.execUncorrectableError a0 s
  | .rootOfTrustBoot => Sys2Proof.Machine.execRootOfTrustBoot s
  | .secondaryBusReset => Sys2Proof.Machine.execSecondaryBusReset s
  | .mgmtReset a0 => Sys2Proof.Machine.execMgmtReset a0 s
  | .thermalShutdown => Sys2Proof.Machine.execThermalShutdown s
  | .clockThrottle a0 => Sys2Proof.Machine.execClockThrottle a0 s
  | .clockLockDone a0 => Sys2Proof.Machine.execClockLockDone a0 s
  | .tileLowPowerEntry a0 => Sys2Proof.Machine.execTileLowPowerEntry a0 s
  | .lattolWrite a0 a1 => Sys2Proof.Machine.execLattolWrite a0 a1 s
  | .ctxcurWrite a0 a1 => Sys2Proof.Machine.execCtxcurWrite a0 a1 s
  | .registerWrite a0 a1 => Sys2Proof.Machine.execRegisterWrite a0 a1 s
  | .fkeyInstall a0 => Sys2Proof.Machine.execFkeyInstall a0 s
  | .fkeyClear a0 => Sys2Proof.Machine.execFkeyClear a0 s
  | .fkeyCommandDone a0 => Sys2Proof.Machine.execFkeyCommandDone a0 s
  | .cpLoad a0 => Sys2Proof.Machine.execCpLoad a0 s
  | .cpCheck a0 => Sys2Proof.Machine.execCpCheck a0 s
  | .cpClear a0 => Sys2Proof.Machine.execCpClear a0 s
  | .cpCommandDone a0 => Sys2Proof.Machine.execCpCommandDone a0 s
  | .debugGo a0 a1 => Sys2Proof.Machine.execDebugGo a0 a1 s
  | .breakpointStop a0 => Sys2Proof.Machine.execBreakpointStop a0 s
  | .traceSample a0 => Sys2Proof.Machine.execTraceSample a0 s
  | .attestReport a0 => Sys2Proof.Machine.execAttestReport a0 s
  | .attestExtend a0 a1 => Sys2Proof.Machine.execAttestExtend a0 a1 s
  | .fetchTrap a0 => Sys2Proof.Machine.execFetchTrap a0 s
  | .instructionCacheFill a0 a1 => Sys2Proof.Machine.execInstructionCacheFill a0 a1 s
  | .fabricIllegal a0 => Sys2Proof.Machine.execFabricIllegal a0 s
  | .backInvalidate a0 => Sys2Proof.Machine.execBackInvalidate a0 s
  | .currentLimit a0 => Sys2Proof.Machine.execCurrentLimit a0 s
  | .linkTrainingDone a0 => Sys2Proof.Machine.execLinkTrainingDone a0 s

end Sys2Proof.Machine
end

