-- ==== Sys2Proof/Machine/Schedule.lean ====
section
/-! DEFINITION. What happens next: an instruction issues from a core's slot (R84 to R91), an element fires (R329, R342), or an event of the machine
happens. An ordered move says which; without one the default order of this file does (log entry 5). -/

namespace Sys2Proof.Machine

open Sys2Proof

/-- Time passes (R409, R411, R417): the trace records of the cycle that ends are written, and tiles with a team count residency over the cycles. -/
def tick (dt : Nat) (late : Bool) (s : State) : State :=
  let s := if dt = 0 then s else flushTrace 3 (flushTrace 2 (flushTrace 1 (flushTrace 0 s)))
  { s with
    now := s.now + dt
    late := late
    idle := false
    tiles := s.tiles.map fun (k, v) =>
      (k, if v.drains then { v with counts := v.counts.set 0 (v.counts.get 0 + BitVec.ofNat 64 dt) } else v) }

/-! ### The events of the default order -/

/-- The thunks of an event for every number below `n`. -/
def upTo (n : Nat) (f : Nat → State → Out) : List (State → Out) := (List.range n).map f

/-- The events of a strand. -/
def strandEvents (i : StrandId) (t : Strand) : List (State → Out) :=
  upTo t.lates.length (execScalarAccessComplete i) ++ upTo (t.orphans.length + t.stores.length) (execStoreQueueDrain i) ++
  upTo t.queue.length (execElementGroup i) ++ upTo t.queue.length (execVectorInstructionStart i) ++
  [execForklAct i, execJoinlAct i] ++
  (match t.tundish with
   | some q => upTo q.bufs.length (execBufferDrained i)
   | none => []) ++
  (match t.status with
   | .blocked _ =>
     [execFullemptyWake i, execWaitlineWake i, execBarwWake i, execJoinlWake i, execTlbInvalidateComplete i, execStrmWaitWake i, execTqpopWake i,
      execQdrainWake i, execCfgCheckDone i, execCfgLoadDone i, execCfgSaveDone i, execCfgRestDone i]
   | .exiting => [execSlotFree i]
   | .running => [execBreakpointStop i]
   | .free => [])

/-- The events of a tile's fabric. -/
def fabricEvents (t : TileId) (f : Fabric) : List (State → Out) :=
  f.elems.flatMap (fun (q, x) =>
    let e : ElemId := ⟨t, BitVec.ofNat 8 q⟩
    execPredicateWriteResolve e :: upTo x.firings.length (execElementResultWrite e) ++ [execElementContextSwitch e, execElementSnapshot e]) ++
  upTo (f.flights.length + f.feeds.length + f.caught.length) (execTokenDelivery t) ++ upTo f.edges.length (execEdgeQueueForward t) ++
  upTo f.ops.length (execWaveOperationPerform t) ++ upTo f.bindings.length (execStreamOutTake t) ++ [execMarkerTimeout t]

/-- The events of a tile. -/
def tileEvents (t : TileId) (v : Tile) : List (State → Out) :=
  [execVpartEffect t] ++
  v.streams.flatMap (fun (k, x) => upTo (x.done.length + 4) (fun j => execSectorComplete t k (x.resume + j)) ++ [execStreamFault t k]) ++
  v.jobs.map (fun (k, _) => execRiddleBatch t k) ++
  v.rels.map (fun (n, _) => execRowRelease t n) ++
  [execMatrixStart t, execRowFire t, execMatrixComplete t, execQrelEffect t] ++ upTo v.fills.length (execQclaimFillDone t) ++
  [execMatrixEntry t, execMatrixExit t, execLeaveGrant t, execCpCommandDone t, execTileClearDone t] ++
  (if v.fabric = {} then [] else fabricEvents t v.fabric)

/-- The origins at which a team can stand. -/
def origins : List (Nat × Nat) := (List.range 9).flatMap fun y => (List.range 8).map fun x => (x, y)

/-- The events of a team. -/
def teamEvents (q : BitVec 2) (n k : Nat) (tm : Team) : List (State → Out) :=
  match tm.state with
  | .waiting => origins.map (fun (x, y) => execTeamPlace q n k x y) ++ [execClaimBegin q n k, execPreemptDecision q n k]
  | .saved _ => origins.map (fun (x, y) => execTeamRestore q n k x y) ++ [execClaimBegin q n k, execPreemptDecision q n k]
  | .resident _ _ _ => [execTeamEnd q n k, execTeamFirstIssue q n k]
  | .draining _ _ => [execSwapOutSave q n k]
  | .ended => []

/-- The events of a quadrant. -/
def quadEvents (q : BitVec 2) (v : Quad) : List (State → Out) :=
  [execClockLockDone q, execFkeyCommandDone q, execTraceSample q] ++
  v.launches.flatMap fun (n, sl) =>
    match sl.launch with
    | none => []
    | some l =>
      upTo l.met.length (execReadinessRead q n) ++ (l.teams.mapIdx fun k tm => teamEvents q n k tm).flatten ++ [execLaunchSignal q n]

/-- The events of the default order, in that order. -/
def State.events (s : State) : List (State → Out) :=
  s.strands.flatMap (fun (i, t) => strandEvents i t) ++ s.tiles.flatMap (fun (t, v) => tileEvents t v) ++
  [(0 : BitVec 2), 1, 2, 3].flatMap fun q => quadEvents q (s.quad q)

/-- The first of some acts that does something. -/
def firstActs (l : List (State → Out)) (s : State) : Option State :=
  match l with
  | [] => none
  | f :: r =>
    match f s with
    | .next s' => if s'.idle then firstActs r s else some s'
    | _ => firstActs r s

/-- The cores that the machine has, but for tiles that nothing has touched. -/
def State.cores (s : State) : List CoreId := [(0 : BitVec 2), 1, 2, 3].map .control ++ s.tiles.map fun (t, _) => .tile t

/-- The elements of the tiles whose fabric runs. -/
def State.firable (s : State) : List ElemId :=
  s.tiles.flatMap fun (t, v) => v.fabric.elems.map fun (q, _) => ⟨t, BitVec.ofNat 8 q⟩

/-- The wait count of a strand (R90): it counts consecutive cycles, so that it lapses in a cycle in which its core issued nothing. -/
def State.waited (s : State) (i : StrandId) : Nat := if (s.core i.core).last.map (· + 1) = some s.now then (s.strand i).gto else 0

/-- The strand that issues of those of a core that are ready (R89, R90), with the state after its issue. -/
def pickSlot (c : CoreId) (ready : List (StrandId × State)) (s : State) : Option (StrandId × State) :=
  let k := s.core c
  if s.roundRobin c then
    (List.range 8).findSome? fun n => ready.find? fun a => a.1.slot.toNat = (k.rr + n) % 8
  else
    let most := ready.foldl (fun n a => max n (s.waited a.1)) 0
    if 56 ≤ most then ready.find? fun a => s.waited a.1 = most
    else match ready.find? fun a => k.greedy = some a.1.slot with
      | some a => some a
      | none =>
        let least := ready.foldl (fun n a => min n (s.strand a.1).age) ((ready.head?.map fun a => (s.strand a.1).age).getD 0)
        ready.find? fun a => (s.strand a.1).age = least

/-- The wait counts after a cycle in which a strand of a core issued (R90), from the state before it. -/
def countWaits (c : CoreId) (ready : List StrandId) (issued : StrandId) (before s : State) : State :=
  (slots c).foldl (fun s i =>
    let n := if i = issued || !ready.contains i then 0 else before.waited i + 1
    if (s.strand i).gto = n then s else s.modStrand i fun t => { t with gto := n }) s

noncomputable section

/-- An issue opportunity of a strand (R87): an asynchronous trap that is due takes it, else the next instruction issues, or its fetch traps. -/
def strandIssue (i : StrandId) (st : State) : Out :=
  let s : State := { st with cur := .strand i }
  if s.asyncDue i then execAsyncTrap i s
  else if !s.contends i then wait s
  else match fetchInstr i s with
    | .ok (n, s') => exec n s'
    | .error none => wait s
    | .error (some _) => execFetchTrap i (noteFetchTrap i s)

/-- The strands of a core that are ready (R87), each with the state after its issue, but for those that the environment holds back (R9). -/
def readyStrands (c : CoreId) (held : BitVec 8) (s : State) : List (StrandId × State) :=
  (slots c).filterMap fun i =>
    if held.getLsbD i.slot.toNat then none
    else match strandIssue i s with
      | .next s' => if s'.idle then none else some (i, s')
      | _ => none

/-- The issue slot of a core (R86 to R90): where it is free in this cycle, the strand that the policy picks of those that are ready issues. -/
def runIssue (c : CoreId) (held : BitVec 8) (s : State) : Out :=
  if !s.slotOpen c || !s.coreRuns c then wait s
  else
    let ready := readyStrands c held s
    match pickSlot c ready s with
    | none => wait s
    | some (i, f) => .next (countWaits c (ready.map (·.1)) i s f)

/-- An element fires (R329): its chosen word is executed; an entry that is empty or no instruction freezes it (R46, R48). -/
def runFire (e : ElemId) (st : State) : Out :=
  let s : State := { st with cur := .elem e }
  match s.choose e with
  | none => execNohandlerFreeze e s
  | some c =>
    match Sys2Proof.decodeElem c.word with
    | .ok n => exec n s
    | .error _ => execFabricIllegal e s

/-- An event of the machine: an instruction that no agent issues. -/
def runEvent (n : Instr) (s : State) : Out :=
  if !(encode n).isEmpty then wait s
  else match n with
    | .fetchTrap i => execFetchTrap i (noteFetchTrap i s)
    | n => exec n s

/-- An act of the environment's order. -/
def runAct (a : Act) (s : State) : Out :=
  match a with
  | .issue c held => runIssue c held s
  | .fire e => runFire e s
  | .event n => runEvent n s

/-- The default issue: the first core, the cores taken in turn, whose slot is free and that has a ready strand. -/
def defaultIssue (s : State) : Option State :=
  let l := s.cores
  let n := s.now % l.length
  firstActs ((l.drop n ++ l.take n).map fun c => runIssue c 0) s

/-- The default firing of an element. -/
def defaultFire (s : State) : Option State :=
  let l := s.firable
  let n := s.now % l.length
  firstActs ((l.drop n ++ l.take n).map runFire) s

/-- The default events. -/
def defaultEvent (s : State) : Option State := firstActs s.events s

/-- What happens where no move is ordered: every core issues in each cycle, and then time passes and an event happens or an element fires, these two
in turn. A machine in which nothing can happen passes 64 ac at a time. -/
def defaultAct (s : State) : Out :=
  match defaultIssue { s with late := false, idle := false } with
  | some f => .next f
  | none =>
    let u := tick (if s.idle then 64 else 1) false s
    let r := if u.now % 2 = 0 then (defaultEvent u).orElse fun _ => defaultFire u else (defaultFire u).orElse fun _ => defaultEvent u
    match r with
    | some f => .next f
    | none => wait u

/-- The next act: the first ordered move, or the default one. -/
def nextAct (s : State) : Out :=
  match s.sched with
  | m :: r => runAct m.act { tick m.dt m.late s with sched := r }
  | [] => defaultAct s

end

end Sys2Proof.Machine
end

