-- ==== Sys2Proof/Machine/Step.lean ====
section
/-! DEFINITION. The step function, and the state in which the next step runs a given instruction. -/

namespace Sys2Proof.Machine

open Sys2Proof

noncomputable section

/-- One step: the next act of the machine (log entry 5). -/
def step (s : State) : Host.Outcome State Fault Refusal := nextAct s

/-- The state in which the next step runs the instruction whose bits, numbered as the opcode table numbers them, are `w`. -/
def State.withFetchWord (s : State) (nbits w : Nat) : State := placeWord s nbits w

end

end Sys2Proof.Machine
end

