-- ==== Sys2Proof/Safety.lean ====
section
/-! DEFINITION. What a safe step is, and what must hold of every state that a run reaches. -/

namespace Sys2Proof

open Sys2Proof.Machine

/-- The machine goes on: a step that is neither a fault nor a refusal. -/
def Goes (o : Out) : Prop := ∃ s, o = .next s

/-- The machine goes on and does something: neither an instruction that is not ready nor an event that is not due. -/
def Acts (o : Out) : Prop := ∃ s, o = .next s ∧ s.idle = false

/-- The canonical form of a tile's byte storage. -/
abbrev TileOk (v : Tile) : Prop := v.tmem.wf = true ∧ v.om.wf = true

/-- The canonical form of every byte storage of the machine. -/
abbrev StorageOk (s : State) : Prop := s.mem.wf = true ∧ ∀ p ∈ s.tiles, TileOk p.2

/-- The canonical form of the byte storage that the images of swapped-out teams hold. -/
def ImagesOk (s : State) : Prop :=
  ∀ q, ∀ p ∈ (s.quad q).launches, ∀ l ∈ p.2.launch, ∀ tm ∈ l.teams, ∀ im, tm.state = .saved im → ∀ v ∈ im.tiles, TileOk v.2.1

/-- A safe run of some steps: no fault and no refusal. -/
def SafeFor : Nat → State → Prop
  | 0, _ => True
  | k + 1, s => ∃ s', step s = .next s' ∧ SafeFor k s'

/-! ### What the statements about an instruction share -/

/-- The strand that acts may issue: no VCOMP or VFILT of its own has yet to retire (R188). -/
abbrev MayIssue (s : State) (i : StrandId) : Prop := s.cur = .strand i ∧ (s.strand i).shortening = false

/-- None of some x registers carries a pending mark (R92). -/
abbrev Settled (s : State) (i : StrandId) (rs : List (BitVec 5)) : Prop := (s.strand i).anyX rs = false

/-- The state after an instruction of a length that writes one x register. -/
def afterX (s : State) (i : StrandId) (len : Nat) (d : BitVec 5) (v : Word) : State := (advance i len s).setX i d v

/-- The state after an instruction of a length that writes one a register. -/
def afterA (s : State) (i : StrandId) (len : Nat) (d : BitVec 4) (v : Addr) : State := (advance i len s).modStrand i (·.setA d v)

/-- The state after an instruction that writes the code of a floating-point result and raises its flags (R71). -/
def afterF (s : State) (i : StrandId) (F : FFmt) (d : BitVec 5) (r : Nat × Flags) : State :=
  (advance i one s).modStrand i fun t => (t.setX d (BitVec.ofNat 64 (r.1 % 2 ^ F.width))).raise r.2

/-- The place that an access of the strand at issue finds, and the state after its translation (R156, R383, R398). -/
def Finds (st : State) (i : StrandId) (len : Nat) (ea : Addr) (acc : Access) (p : Phys) (s : State) : Prop :=
  locate i (st.strand i) ea acc (advance i len st) = .ok (p, s)

/-- Nothing stands in the way of an access (R110, R220, R426): its data returns at once, its link port is up, no reservation meets it, and no older
access of the strand comes first. -/
abbrev Unhindered (s : State) (t : Strand) (a : LateAccess) : Prop :=
  s.late = false ∧ s.reach a.phys.loc = .ok ∧ s.meets none a.kind.writes a.phys.loc a.kind.size = .free ∧ t.blocks a = false

/-- The value of a scalar read in an x register (R107). -/
def widened (size : Nat) (sx : Bool) (v : Nat) : Word :=
  if sx then BitVec.ofInt 64 (BitVec.ofNat (8 * size) v).toInt else BitVec.ofNat 64 (v % 2 ^ (8 * size))

/-- The strand that acts may issue, and its vector queue takes an entry (R116, R124). -/
abbrev MayQueue (s : State) (i : StrandId) (len : Nat) : Prop :=
  MayIssue s i ∧ onControl i = false ∧ queueFull i (s.strand i) (advance i len s) = false

/-- The state after a vector-class instruction has entered the queue (R130). -/
def queued (s : State) (i : StrandId) (len : Nat) (op : VOp) (mk : Option (BitVec 3)) : State :=
  pushEntry i (vEntry (s.strand i) op mk) (advance i len s)

/-- The state after a branch or jump: the program counter holds a target. -/
def afterPc (s : State) (i : StrandId) (len : Nat) (a : Addr) : State := (advance i len s).setPc i a

end Sys2Proof
end

