-- ==== Sys2Proof/Certificates/Slice0/Obligations.lean ====
section
/-! DEFINITION. The statements for the provers. What they share (the hypotheses of an issue, the states after common instructions, the frames) stands in
Safety.lean. -/

open Sys2Proof Sys2Proof.Machine

/-- Integer register-register, unary and immediate instructions complete with the results of R96 and R98. Each integer instruction of major 0x01, but for
the four divisions, answers the state with xD written and the strand past the instruction, for every strand that may issue with no register named
pending. ADDI, ANDI, ORI, XORI in both lengths, the immediate shifts, LUI, LIW and LIQ answer the state with xD written and the strand one, two or
three parcels on. (spec/04_scalar.md, R96, R98.) -/
def Obligations.IntegerForms : Prop :=
  (∀ (st : State) (i : StrandId) (d s t : BitVec 5), MayIssue st i → Settled st i [d, s, t] →
      let a := st.xr i s
      let b := st.xr i t
      exec (.add d s t) st = .next (afterX st i one d (a + b)) ∧
      exec (.sub d s t) st = .next (afterX st i one d (a - b)) ∧
      exec (.and d s t) st = .next (afterX st i one d (a &&& b)) ∧
      exec (.or d s t) st = .next (afterX st i one d (a ||| b)) ∧
      exec (.xor d s t) st = .next (afterX st i one d (a ^^^ b)) ∧
      exec (.sll d s t) st = .next (afterX st i one d (a <<< (b.toNat % 64))) ∧
      exec (.srl d s t) st = .next (afterX st i one d (a >>> (b.toNat % 64))) ∧
      exec (.sra d s t) st = .next (afterX st i one d (a.sshiftRight (b.toNat % 64))) ∧
      exec (.slt d s t) st = .next (afterX st i one d (if a.toInt < b.toInt then 1 else 0)) ∧
      exec (.sltu d s t) st = .next (afterX st i one d (if a.toNat < b.toNat then 1 else 0)) ∧
      exec (.min d s t) st = .next (afterX st i one d (if a.toInt < b.toInt then a else b)) ∧
      exec (.max d s t) st = .next (afterX st i one d (if a.toInt < b.toInt then b else a)) ∧
      exec (.minu d s t) st = .next (afterX st i one d (if a.toNat < b.toNat then a else b)) ∧
      exec (.maxu d s t) st = .next (afterX st i one d (if a.toNat < b.toNat then b else a)) ∧
      exec (.mul d s t) st = .next (afterX st i one d (BitVec.ofNat 64 (a.toNat * b.toNat))) ∧
      exec (.mulh d s t) st = .next (afterX st i one d (BitVec.ofInt 64 (a.toInt * b.toInt / 2 ^ 64))) ∧
      exec (.mulhu d s t) st = .next (afterX st i one d (BitVec.ofNat 64 (a.toNat * b.toNat / 2 ^ 64))) ∧
      exec (.add32 d s t) st = .next (afterX st i one d (((a + b).setWidth 32).signExtend 64)) ∧
      exec (.sub32 d s t) st = .next (afterX st i one d (((a - b).setWidth 32).signExtend 64)) ∧
      exec (.clz d s) st = .next (afterX st i one d (leadingZeros a)) ∧
      exec (.ctz d s) st = .next (afterX st i one d (trailingZeros a)) ∧
      exec (.popc d s) st = .next (afterX st i one d (popCount a)) ∧
      exec (.sxb d s) st = .next (afterX st i one d ((a.setWidth 8).signExtend 64)) ∧
      exec (.sxh d s) st = .next (afterX st i one d ((a.setWidth 16).signExtend 64)) ∧
      exec (.sxw d s) st = .next (afterX st i one d ((a.setWidth 32).signExtend 64)) ∧
      exec (.zxw d s) st = .next (afterX st i one d ((a.setWidth 32).setWidth 64))) ∧
  (∀ (st : State) (i : StrandId) (d s : BitVec 5), MayIssue st i → Settled st i [d, s] →
      let a := st.xr i s
      (∀ k : BitVec 14, exec (.addi d s k) st = .next (afterX st i 4 d (a + k.signExtend 64))) ∧
      (∀ k : BitVec 12,
        exec (.andi d s k) st = .next (afterX st i 4 d (a &&& k.signExtend 64)) ∧
        exec (.ori d s k) st = .next (afterX st i 4 d (a ||| k.signExtend 64)) ∧
        exec (.xori d s k) st = .next (afterX st i 4 d (a ^^^ k.signExtend 64))) ∧
      (∀ k : BitVec 32,
        exec (.addiImm32 d s k) st = .next (afterX st i 8 d (a + k.signExtend 64)) ∧
        exec (.andiImm32 d s k) st = .next (afterX st i 8 d (a &&& k.signExtend 64)) ∧
        exec (.oriImm32 d s k) st = .next (afterX st i 8 d (a ||| k.signExtend 64)) ∧
        exec (.xoriImm32 d s k) st = .next (afterX st i 8 d (a ^^^ k.signExtend 64)) ∧
        exec (.liw d k) st = .next (afterX st i 8 d (k.signExtend 64))) ∧
      (∀ k : BitVec 6,
        exec (.slli d s k) st = .next (afterX st i 4 d (a <<< k.toNat)) ∧
        exec (.srli d s k) st = .next (afterX st i 4 d (a >>> k.toNat)) ∧
        exec (.srai d s k) st = .next (afterX st i 4 d (a.sshiftRight k.toNat))) ∧
      (∀ k : BitVec 19, exec (.lui d k) st = .next (afterX st i 4 d (BitVec.ofInt 64 (k.toInt * 2 ^ 13)))) ∧
      (∀ k : BitVec 64, exec (.liq d k) st = .next (afterX st i 12 d k)))

/-- The zero counts of CLZ and CTZ are positions of one bits. The leading count of a nonzero word is the number of bits above its highest one bit, the
trailing count the number below its lowest, and both are 64 for zero. (R96, spec/04_scalar.md.) -/
def Obligations.ZeroCountsCountTheBits : Prop :=
  leadingZeros 0 = 64 ∧ trailingZeros 0 = 64 ∧
  ∀ (a : Word) (n : Nat), n < 64 →
    (leadingZeros a = BitVec.ofNat 64 n ↔ a.getLsbD (63 - n) = true ∧ ∀ k, 63 - n < k → a.getLsbD k = false) ∧
    (trailingZeros a = BitVec.ofNat 64 n ↔ a.getLsbD n = true ∧ ∀ k, k < n → a.getLsbD k = false)

/-- Division never traps and saturates as R97 states. DIV, DIVU, REM and REMU complete for every operand: truncated quotients and remainders of the
dividend's sign, a zero divisor and the one overflow as the table of special cases gives them. (R97.) -/
def Obligations.DivisionSaturates : Prop :=
  ∀ (st : State) (i : StrandId) (d s t : BitVec 5), MayIssue st i → Settled st i [d, s, t] →
    let a := st.xr i s
    let b := st.xr i t
    let least : Word := BitVec.ofInt 64 (-(2 ^ 63))
    let most : Word := BitVec.ofInt 64 (2 ^ 63 - 1)
    exec (.div d s t) st = .next (afterX st i one d
      (if b = 0 then (if 0 ≤ a.toInt then most else least)
       else if a = least ∧ b.toInt = -1 then most
       else BitVec.ofInt 64 (a.toInt.tdiv b.toInt))) ∧
    exec (.divu d s t) st = .next (afterX st i one d
      (if b = 0 then BitVec.ofNat 64 (2 ^ 64 - 1) else BitVec.ofNat 64 (a.toNat / b.toNat))) ∧
    exec (.rem d s t) st = .next (afterX st i one d
      (if b = 0 then a else if a = least ∧ b.toInt = -1 then 0 else BitVec.ofInt 64 (a.toInt.tmod b.toInt))) ∧
    exec (.remu d s t) st = .next (afterX st i one d (if b = 0 then a else BitVec.ofNat 64 (a.toNat % b.toNat)))

/-- Scalar floating-point instructions complete in the mode of FRM and FZ, and their arithmetic is exact and then rounded once. Each instruction of majors
0x06 and 0x07 writes the code that the arithmetic of its format gives for the operands, the rounding mode and FZ of fcsr, and ORs the flags into fcsr;
FCVT takes its mode from T or FRM. Rounding an exact value gives rnd of R68, with NX where the value is inexact, UF where it is also below the smallest
normal after rounding, and the overflow result beyond the largest finite number. Sums, products, quotients and fused products of finite numbers are
rounded exact results; a NaN operand gives the canonical NaN, with NV where one is signalling; the invalid operations give it with NV, and a nonzero
number divided by zero an infinity with DZ. (R68, R70, R71, R72, R77, R99, R100, R101.) -/
def Obligations.ScalarFloatForms : Prop :=
  (∀ (tag : BitVec 4) (F : FFmt) (md : RMode) (sat fz neg : Bool) (s n d : Nat), floatFmt tag = some F → 0 < n → 0 < d →
    let v : ℚ := (n : ℚ) / d
    let q : ℚ := 2 ^ (max (Int.log 2 v) F.emin - F.fracW)
    let k : Nat := ⌊v / q⌋₊
    let rest : ℚ := v / q - k
    let up : Prop := match md with
      | .nearest => 1 / 2 < rest ∨ (rest = 1 / 2 ∧ k % 2 = 1)
      | .zero => False
      | .down => neg = true
      | .up => neg = false
      | .stochastic => 2 ^ 32 ≤ ⌊rest * 2 ^ 32⌋₊ + s
    let r := F.round md sat fz s neg n d
    ∀ z : ℚ, (rest ≠ 0 ∧ up → z = (k + 1) * q) → (¬ (rest ≠ 0 ∧ up) → z = k * q) →
      let low : Prop := z < 2 ^ F.emin
      (F.maxParts.1 * 2 ^ F.maxParts.2 < z → r = F.overflow md sat neg) ∧
      (z ≤ F.maxParts.1 * 2 ^ F.maxParts.2 →
        (fz = true → F.flush = true → low → z ≠ 0 → r = (F.zeroCode neg, flagUF ||| flagNX)) ∧
        (fz = false ∨ F.flush = false ∨ ¬ low ∨ z = 0 → r.1 < 2 ^ F.width ∧
          (z = 0 → F.decode r.1 = .zero neg) ∧ (z ≠ 0 → ∃ a b : Nat, F.decode r.1 = .fin neg a b ∧ 0 < b ∧ (a : ℚ) / b = z) ∧
          (rest = 0 → r.2 = 0) ∧ (rest ≠ 0 → low → r.2 = flagNX ||| flagUF) ∧ (rest ≠ 0 → ¬ low → r.2 = flagNX)))) ∧
  (∀ (F : FFmt) (md : RMode) (a b c : Nat), F = .fp64 ∨ F = .fp32 ∨ F = .bf16 ∨ F = .fp16 →
    let x := F.decode a
    let y := F.decode b
    let z := F.decode c
    let rnd (neg : Bool) (n d : Nat) : Nat × Flags := F.round md false false 0 neg n d
    let rat (v : Val) : ℚ := match v with | .fin neg n d => if neg = true then -((n : ℚ) / d) else (n : ℚ) / d | _ => 0
    let finite (v : Val) : Prop := v.isNan = false ∧ v ≠ .inf false ∧ v ≠ .inf true
    let rounded (v : ℚ) (r : Nat × Flags) : Prop := v ≠ 0 → ∃ n d : Nat, 0 < n ∧ 0 < d ∧ (n : ℚ) / d = |v| ∧ r = rnd (decide (v < 0)) n d
    let nan (vs : List Val) (r : Nat × Flags) : Prop := r = (F.nanCode, if vs.any Val.isSnan = true then flagNV else 0)
    let invalid (r : Nat × Flags) : Prop := r = (F.nanCode, flagNV)
    (∀ fz, (x.isNan = true ∨ y.isNan = true → nan [x, y] (F.add md fz a b) ∧ nan [x, y] (F.sub md fz a b) ∧ nan [x, y] (F.mul md fz a b) ∧
        nan [x, y] (F.div md fz a b)) ∧ (x.isNan = true → nan [x] (F.sqrt md fz a)) ∧
      (z.isNan = true → finite x → finite y → nan [z] (F.fma md fz false false a b c))) ∧
    (finite x → finite y →
      rounded (rat x + rat y) (F.add md false a b) ∧ rounded (rat x - rat y) (F.sub md false a b) ∧ rounded (rat x * rat y) (F.mul md false a b) ∧
      (rat y ≠ 0 → rounded (rat x / rat y) (F.div md false a b)) ∧
      (finite z → rounded (rat x * rat y + rat z) (F.fma md false false false a b c) ∧ rounded (rat z - rat x * rat y) (F.fma md false true false a b c)) ∧
      (rat y = 0 → rat x ≠ 0 → F.div md false a b = (F.infCode (x.isNeg != y.isNeg), flagDZ)) ∧
      (rat y = 0 → rat x = 0 → invalid (F.div md false a b)) ∧ (rat x < 0 → invalid (F.sqrt md false a))) ∧
    (∀ u v, x = .inf u → y = .inf v → (u ≠ v → invalid (F.add md false a b)) ∧ (u = v → invalid (F.sub md false a b)) ∧ invalid (F.div md false a b)) ∧
    (∀ u, x = .inf u → finite y → rat y = 0 → invalid (F.mul md false a b)) ∧ (x = .inf true → invalid (F.sqrt md false a))) ∧
  ∀ (st : State) (i : StrandId) (d s t : BitVec 5), MayIssue st i → Settled st i [d, s, t] →
    let r := st.strand i
    let m := frmOf r.fcsr
    let z := fzOf r.fcsr
    exec (.faddS d s t) st = .next (afterF st i .fp32 d (FFmt.fp32.add m z (FFmt.fp32.code r s) (FFmt.fp32.code r t))) ∧
    exec (.fsubS d s t) st = .next (afterF st i .fp32 d (FFmt.fp32.sub m z (FFmt.fp32.code r s) (FFmt.fp32.code r t))) ∧
    exec (.fmulS d s t) st = .next (afterF st i .fp32 d (FFmt.fp32.mul m z (FFmt.fp32.code r s) (FFmt.fp32.code r t))) ∧
    exec (.fdivS d s t) st = .next (afterF st i .fp32 d (FFmt.fp32.div m z (FFmt.fp32.code r s) (FFmt.fp32.code r t))) ∧
    exec (.fsqrtS d s) st = .next (afterF st i .fp32 d (FFmt.fp32.sqrt m z (FFmt.fp32.code r s))) ∧
    exec (.fminS d s t) st = .next (afterF st i .fp32 d (FFmt.fp32.minMax false z (FFmt.fp32.code r s) (FFmt.fp32.code r t))) ∧
    exec (.fmaxS d s t) st = .next (afterF st i .fp32 d (FFmt.fp32.minMax true z (FFmt.fp32.code r s) (FFmt.fp32.code r t))) ∧
    exec (.fmaS d s t) st =
      .next (afterF st i .fp32 d (FFmt.fp32.fma m z false false (FFmt.fp32.code r s) (FFmt.fp32.code r t) (FFmt.fp32.code r d))) ∧
    exec (.fnmaS d s t) st =
      .next (afterF st i .fp32 d (FFmt.fp32.fma m z true false (FFmt.fp32.code r s) (FFmt.fp32.code r t) (FFmt.fp32.code r d))) ∧
    (let c := FFmt.fp32.compare 0 z (FFmt.fp32.code r s) (FFmt.fp32.code r t)
     exec (.feqS d s t) st = .next ((advance i one st).modStrand i fun u => (u.setX d (boolWord c.1)).raise c.2)) ∧
    (let c := FFmt.fp32.compare 1 z (FFmt.fp32.code r s) (FFmt.fp32.code r t)
     exec (.fltS d s t) st = .next ((advance i one st).modStrand i fun u => (u.setX d (boolWord c.1)).raise c.2)) ∧
    (let c := FFmt.fp32.compare 2 z (FFmt.fp32.code r s) (FFmt.fp32.code r t)
     exec (.fleS d s t) st = .next ((advance i one st).modStrand i fun u => (u.setX d (boolWord c.1)).raise c.2)) ∧
    exec (.fclassS d s) st = .next (afterX st i one d (BitVec.ofNat 64 (FFmt.fp32.classify (FFmt.fp32.code r s)))) ∧
    exec (.faddD d s t) st = .next (afterF st i .fp64 d (FFmt.fp64.add m z (FFmt.fp64.code r s) (FFmt.fp64.code r t))) ∧
    exec (.fsubD d s t) st = .next (afterF st i .fp64 d (FFmt.fp64.sub m z (FFmt.fp64.code r s) (FFmt.fp64.code r t))) ∧
    exec (.fmulD d s t) st = .next (afterF st i .fp64 d (FFmt.fp64.mul m z (FFmt.fp64.code r s) (FFmt.fp64.code r t))) ∧
    exec (.fdivD d s t) st = .next (afterF st i .fp64 d (FFmt.fp64.div m z (FFmt.fp64.code r s) (FFmt.fp64.code r t))) ∧
    exec (.fsqrtD d s) st = .next (afterF st i .fp64 d (FFmt.fp64.sqrt m z (FFmt.fp64.code r s))) ∧
    exec (.fminD d s t) st = .next (afterF st i .fp64 d (FFmt.fp64.minMax false z (FFmt.fp64.code r s) (FFmt.fp64.code r t))) ∧
    exec (.fmaxD d s t) st = .next (afterF st i .fp64 d (FFmt.fp64.minMax true z (FFmt.fp64.code r s) (FFmt.fp64.code r t))) ∧
    exec (.fmaD d s t) st =
      .next (afterF st i .fp64 d (FFmt.fp64.fma m z false false (FFmt.fp64.code r s) (FFmt.fp64.code r t) (FFmt.fp64.code r d))) ∧
    exec (.fnmaD d s t) st =
      .next (afterF st i .fp64 d (FFmt.fp64.fma m z true false (FFmt.fp64.code r s) (FFmt.fp64.code r t) (FFmt.fp64.code r d))) ∧
    (let c := FFmt.fp64.compare 0 z (FFmt.fp64.code r s) (FFmt.fp64.code r t)
     exec (.feqD d s t) st = .next ((advance i one st).modStrand i fun u => (u.setX d (boolWord c.1)).raise c.2)) ∧
    (let c := FFmt.fp64.compare 1 z (FFmt.fp64.code r s) (FFmt.fp64.code r t)
     exec (.fltD d s t) st = .next ((advance i one st).modStrand i fun u => (u.setX d (boolWord c.1)).raise c.2)) ∧
    (let c := FFmt.fp64.compare 2 z (FFmt.fp64.code r s) (FFmt.fp64.code r t)
     exec (.fleD d s t) st = .next ((advance i one st).modStrand i fun u => (u.setX d (boolWord c.1)).raise c.2)) ∧
    exec (.fclassD d s) st = .next (afterX st i one d (BitVec.ofNat 64 (FFmt.fp64.classify (FFmt.fp64.code r s)))) ∧
    (∀ (a b : BitVec 4) (k : BitVec 5),
      let c := convert a b (if k = 0 then m else RMode.ofCode (k.toNat - 1)) false z 0 ((r.xr s).toNat % 2 ^ codeWidth a)
      exec (.fcvt d s a b k) st = .next ((advance i one st).modStrand i fun u => (u.setX d (extendCode b c.1)).raise c.2))

/-- Address arithmetic completes modulo 2^80. AADD, ASUB, ADIFF, AMOV, AFROMX, ATOX, AADDI in both lengths and AHI write the 80-bit result of R102 and
R103. (R102, R103.) -/
def Obligations.AddressArithmetic : Prop :=
  ∀ (st : State) (i : StrandId) (d s u : BitVec 4) (x y : BitVec 5), MayIssue st i → Settled st i [x, y] →
    let r := st.strand i
    exec (.aadd d s x) st = .next (afterA st i 4 d (r.ar s + (r.xr x).signExtend 80)) ∧
    exec (.asub d s x) st = .next (afterA st i 4 d (r.ar s - (r.xr x).signExtend 80)) ∧
    exec (.adiff y s u) st = .next (afterX st i 4 y ((r.ar s - r.ar u).setWidth 64)) ∧
    exec (.amov d s) st = .next (afterA st i 4 d (r.ar s)) ∧
    exec (.afromx d x) st = .next (afterA st i 4 d ((r.xr x).setWidth 80)) ∧
    exec (.atox y s) st = .next (afterX st i 4 y ((r.ar s).setWidth 64)) ∧
    (∀ k : BitVec 14, exec (.aaddi d s k) st = .next (afterA st i 4 d (r.ar s + k.signExtend 80))) ∧
    (∀ k : BitVec 32, exec (.aaddiImm32 d s k) st = .next (afterA st i 8 d (r.ar s + k.signExtend 80))) ∧
    (∀ k : BitVec 16, ∃ v : Addr, v.extractLsb' 64 16 = k ∧ v.extractLsb' 0 64 = (r.ar d).extractLsb' 0 64 ∧
      exec (.ahi d k) st = .next (afterA st i 4 d v))

/-- Conditional branches and SBR complete, taken or not; JAL and JALR with the link and the target. Each conditional branch, in both lengths, sets the program
counter to its own address plus four times the offset where its condition holds, and moves past itself where it does not. JAL writes its own address
plus its length to aD and jumps by four times its offset; JALR jumps to aS as read at issue plus four times IMM14 where that is a multiple of 4, and
else traps with JUMP_MISALIGNED before aD is written. SBR on a tile, where its register and vl carry no pending mark, sets the program counter to its
own address plus four times its offset where what is left is positive, and moves past itself where it is not. (spec/04_scalar.md, R28, R104, R106,
R133.) -/
def Obligations.BranchesAndJumpsGo : Prop :=
  (∀ (st : State) (i : StrandId), MayIssue st i →
      let pc := (st.strand i).pc
      (∀ (s t : BitVec 5), Settled st i [s, t] →
        let a := st.xr i s
        let b := st.xr i t
        (∀ k : BitVec 10,
        exec (.beq s t k) st = .next (if a = b then afterPc st i 4 (pc + 4 * k.signExtend 80) else advance i 4 st) ∧
        exec (.bne s t k) st = .next (if a ≠ b then afterPc st i 4 (pc + 4 * k.signExtend 80) else advance i 4 st) ∧
        exec (.blt s t k) st = .next (if a.toInt < b.toInt then afterPc st i 4 (pc + 4 * k.signExtend 80) else advance i 4 st) ∧
        exec (.bge s t k) st = .next (if b.toInt ≤ a.toInt then afterPc st i 4 (pc + 4 * k.signExtend 80) else advance i 4 st) ∧
        exec (.bltu s t k) st = .next (if a.toNat < b.toNat then afterPc st i 4 (pc + 4 * k.signExtend 80) else advance i 4 st) ∧
        exec (.bgeu s t k) st = .next (if b.toNat ≤ a.toNat then afterPc st i 4 (pc + 4 * k.signExtend 80) else advance i 4 st)) ∧
        (∀ k : BitVec 32,
        exec (.beqOff32 s t k) st = .next (if a = b then afterPc st i 8 (pc + 4 * k.signExtend 80) else advance i 8 st) ∧
        exec (.bneOff32 s t k) st = .next (if a ≠ b then afterPc st i 8 (pc + 4 * k.signExtend 80) else advance i 8 st) ∧
        exec (.bltOff32 s t k) st = .next (if a.toInt < b.toInt then afterPc st i 8 (pc + 4 * k.signExtend 80) else advance i 8 st) ∧
        exec (.bgeOff32 s t k) st = .next (if b.toInt ≤ a.toInt then afterPc st i 8 (pc + 4 * k.signExtend 80) else advance i 8 st) ∧
        exec (.bltuOff32 s t k) st = .next (if a.toNat < b.toNat then afterPc st i 8 (pc + 4 * k.signExtend 80) else advance i 8 st) ∧
        exec (.bgeuOff32 s t k) st = .next (if b.toNat ≤ a.toNat then afterPc st i 8 (pc + 4 * k.signExtend 80) else advance i 8 st))) ∧
      (∀ (s t : BitVec 4),
        let a := (st.strand i).ar s
        let b := (st.strand i).ar t
        (∀ k : BitVec 10,
        exec (.baeq s t k) st = .next (if a = b then afterPc st i 4 (pc + 4 * k.signExtend 80) else advance i 4 st) ∧
        exec (.bane s t k) st = .next (if a ≠ b then afterPc st i 4 (pc + 4 * k.signExtend 80) else advance i 4 st) ∧
        exec (.baltu s t k) st = .next (if a.toNat < b.toNat then afterPc st i 4 (pc + 4 * k.signExtend 80) else advance i 4 st) ∧
        exec (.bageu s t k) st = .next (if b.toNat ≤ a.toNat then afterPc st i 4 (pc + 4 * k.signExtend 80) else advance i 4 st)) ∧
        (∀ k : BitVec 32,
        exec (.baeqOff32 s t k) st = .next (if a = b then afterPc st i 8 (pc + 4 * k.signExtend 80) else advance i 8 st) ∧
        exec (.baneOff32 s t k) st = .next (if a ≠ b then afterPc st i 8 (pc + 4 * k.signExtend 80) else advance i 8 st) ∧
        exec (.baltuOff32 s t k) st = .next (if a.toNat < b.toNat then afterPc st i 8 (pc + 4 * k.signExtend 80) else advance i 8 st) ∧
        exec (.bageuOff32 s t k) st = .next (if b.toNat ≤ a.toNat then afterPc st i 8 (pc + 4 * k.signExtend 80) else advance i 8 st)))) ∧
  (∀ (st : State) (i : StrandId) (d s : BitVec 4), MayIssue st i →
      let r := st.strand i
      let link (len : Nat) (target : Addr) : State :=
        (advance i len st).modStrand i fun u => { u.setA d (r.pc + BitVec.ofNat 80 len) with pc := target }
      (∀ k : BitVec 19, exec (.jal d k) st = .next (link 4 (r.pc + 4 * k.signExtend 80))) ∧
      (∀ k : BitVec 32, exec (.jalOff32 d k) st = .next (link 8 (r.pc + 4 * k.signExtend 80))) ∧
      (∀ k : BitVec 14,
        let target := r.ar s + 4 * k.signExtend 80
        (target.toNat % 4 = 0 → exec (.jalr d s k) st = .next (link 4 target)) ∧
        (target.toNat % 4 ≠ 0 → exec (.jalr d s k) st = .next (takeTrap i ⟨cJumpMisaligned, 0, false, r.pc, 0, target, 0⟩ st)))) ∧
  (∀ (st : State) (i : StrandId) (c : BitVec 5) (a0 a1 a2 a3 : BitVec 4) (n : BitVec 3) (sz : BitVec 8) (off : BitVec 24), MayIssue st i →
      Settled st i [c] → onControl i = false → (st.strand i).pendVl = false →
      ∃ r, exec (.sbr c a0 a1 a2 a3 n sz off) st = .next r ∧
        (r.strand i).pc = (st.strand i).pc + (if 0 < (st.xr i c - (st.strand i).vl.setWidth 64).toInt then 4 * off.signExtend 80 else 8))

/-- Scalar loads complete with the bytes they read, extended. Every load of majors 0x10 and 0x12 without FE whose address is aligned and translates, and
which nothing holds back, writes to xD the sign- or zero-extended value of its bytes. (R107, R110, spec/04_scalar.md.) -/
def Obligations.ScalarLoadsReadTheirBytes : Prop :=
  ∀ (st : State) (i : StrandId) (d : BitVec 5) (a : BitVec 4) (o : BitVec 12), MayIssue st i → Settled st i [d] →
    (st.strand i).acquiring = false →
    let t := st.strand i
    let form (len size : Nat) (sx : Bool) (acq : BitVec 3) (n : Instr) : Prop :=
      ∀ (p : Phys) (s : State) (v : Nat),
        let ea := t.ar a + BitVec.ofInt 80 (o.toInt * size)
        ea.toNat % size = 0 → Finds st i len ea .read p s →
        Unhindered s t ⟨.load size sx, d, p, t.issued, acq, 0, t.pc, ea⟩ →
        scalarRead (s.strand i) t.issued p size s = .ok v → v < 2 ^ (8 * size) →
        exec n st = .next (s.setX i d (widened size sx v))
    form 4 1 true 0 (.lb d a o) ∧
    form 4 1 false 0 (.lbu d a o) ∧
    form 4 2 true 0 (.lh d a o) ∧
    form 4 2 false 0 (.lhu d a o) ∧
    form 4 4 true 0 (.lw d a o) ∧
    form 4 4 false 0 (.lwu d a o) ∧
    form 4 8 false 0 (.ld d a o) ∧
    ∀ q : Qual, q.fe = 0 →
      form 8 1 true (Qual.acq q) (.lbQ32 d a o q) ∧
      form 8 1 false (Qual.acq q) (.lbuQ32 d a o q) ∧
      form 8 2 true (Qual.acq q) (.lhQ32 d a o q) ∧
      form 8 2 false (Qual.acq q) (.lhuQ32 d a o q) ∧
      form 8 4 true (Qual.acq q) (.lwQ32 d a o q) ∧
      form 8 4 false (Qual.acq q) (.lwuQ32 d a o q) ∧
      form 8 8 false (Qual.acq q) (.ldQ32 d a o q)

/-- Loads with FE read a full granule at once and block on an empty one. A `.fe` or `.fc` load whose address lies in the TMEM window reads its bytes where
the full bit of the granule is set (for `.fe`, or was cleared by a read of this cycle) and no older access of the strand comes first, its own older queued
stores laid over them, and `.fc` clears the bit with the read; on an empty granule the strand is Blocked at the load. (R107, R108, R109, R110,
spec/04_scalar.md.) -/
def Obligations.FullEmptyLoadsReadOrBlock : Prop :=
  ∀ (st : State) (i : StrandId) (d : BitVec 5) (a : BitVec 4) (o : BitVec 12) (q : Qual), MayIssue st i → Settled st i [d] →
    (st.strand i).acquiring = false → q.fe = 1 ∨ q.fe = 2 →
    let t := st.strand i
    let form (size : Nat) (sx : Bool) (n : Instr) : Prop :=
      ∀ (u : TileId) (off v : Nat) (s : State) (c d' : Bool) (m : BitVec 16) (lv : Option TlbEntry),
        let ea := t.ar a + BitVec.ofInt 80 (o.toInt * size)
        let p : Phys := ⟨.tmem u off, c, m, d', lv⟩
        ea.toNat % size = 0 → Finds st i 8 ea .read p s → t.blocks ⟨.load size sx, d, p, t.issued, Qual.acq q, 0, t.pc, ea⟩ = false →
        (s.findsFull u (q.fe = 2) off size = true → scalarRead (s.strand i) t.issued (Loc.tmem u off).plain size s = .ok v → v < 2 ^ (8 * size) →
          exec n st = .next (((if q.fe = 2 then clearFull u (off / 16) s else s)).setX i d (widened size sx v))) ∧
        (s.findsFull u (q.fe = 2) off size = false →
          exec n st = .next (s.modStrand i fun r => { r with status := .blocked (.granule d u off size sx (q.fe = 2) ea), pc := t.pc }))
    form 1 true (.lbQ32 d a o q) ∧
    form 1 false (.lbuQ32 d a o q) ∧
    form 2 true (.lhQ32 d a o q) ∧
    form 2 false (.lhuQ32 d a o q) ∧
    form 4 true (.lwQ32 d a o q) ∧
    form 4 false (.lwuQ32 d a o q) ∧
    form 8 false (.ldQ32 d a o q)

/-- Scalar stores complete by taking a store-queue entry. Every store of majors 0x11 and 0x13 that is aligned and translates, with room in the queue, no
acquire or release before it outstanding and no TRAP reservation in its way, appends the low bytes of xD with its release scope to the store queue of
the strand. (R108, R110, R220.) -/
def Obligations.ScalarStoresEnterTheQueue : Prop :=
  ∀ (st : State) (i : StrandId) (d : BitVec 5) (a : BitVec 4) (o : BitVec 12), MayIssue st i → Settled st i [d] →
    (st.strand i).acquiring = false → (st.strand i).releasing = false → (st.strand i).stores.length < 8 →
    let t := st.strand i
    let form (len size : Nat) (rel : BitVec 3) (n : Instr) : Prop :=
      ∀ (p : Phys) (s : State),
        let ea := t.ar a + BitVec.ofInt 80 (o.toInt * size)
        let e : StoreEntry := ⟨.data size (BitVec.ofNat 64 ((t.xr d).toNat % 2 ^ (8 * size))), p, t.issued, rel, t.pc, ea⟩
        ea.toNat % size = 0 → Finds st i len ea .write p s → s.meets none true p.loc size ≠ .trap →
        exec n st = .next (s.modStrand i fun r => { r with stores := r.stores ++ [e] })
    form 4 1 0 (.sb d a o) ∧
    form 4 2 0 (.sh d a o) ∧
    form 4 4 0 (.sw d a o) ∧
    form 4 8 0 (.sd d a o) ∧
    ∀ q : Qual,
      form 8 1 (Qual.rel q) (.sbQ32 d a o q) ∧
      form 8 2 (Qual.rel q) (.shQ32 d a o q) ∧
      form 8 4 (Qual.rel q) (.swQ32 d a o q) ∧
      form 8 8 (Qual.rel q) (.sdQ32 d a o q)

/-- Misaligned scalar accesses trap before they are translated. A scalar load or store of 2, 4 or 8 bytes, each scalar atomic at 8 and 4 bytes with and
without Q32, WAITLINE, BARA and BARW whose address is no multiple of its size take DATA_MISALIGNED precisely with the address in the fault address, and
nothing else of the instruction happens. (R107, R108, R111, R113, R237, R252.) -/
def Obligations.MisalignedScalarAccessesTrap : Prop :=
  ∀ (st : State) (i : StrandId) (d x : BitVec 5) (a : BitVec 4) (o : BitVec 12) (q : Qual) (c : BitVec 3), MayIssue st i →
    Settled st i [d, x] → (st.strand i).acquiring = false → (st.strand i).releasing = false → (st.strand i).stores.length < 8 →
    let t := st.strand i
    let traps (ea : Addr) (size : Nat) (n : Instr) : Prop :=
      ea.toNat % size ≠ 0 → exec n st = .next (takeTrap i ⟨cMisaligned, 0, false, t.pc, 0, ea, 0⟩ st)
    let off (size : Nat) : Addr := t.ar a + BitVec.ofInt 80 (o.toInt * size)
    traps (off 2) 2 (.lh d a o) ∧
    traps (off 2) 2 (.lhQ32 d a o q) ∧
    traps (off 2) 2 (.lhu d a o) ∧
    traps (off 2) 2 (.lhuQ32 d a o q) ∧
    traps (off 4) 4 (.lw d a o) ∧
    traps (off 4) 4 (.lwQ32 d a o q) ∧
    traps (off 4) 4 (.lwu d a o) ∧
    traps (off 4) 4 (.lwuQ32 d a o q) ∧
    traps (off 8) 8 (.ld d a o) ∧
    traps (off 8) 8 (.ldQ32 d a o q) ∧
    traps (off 2) 2 (.sh d a o) ∧
    traps (off 2) 2 (.shQ32 d a o q) ∧
    traps (off 4) 4 (.sw d a o) ∧
    traps (off 4) 4 (.swQ32 d a o q) ∧
    traps (off 8) 8 (.sd d a o) ∧
    traps (off 8) 8 (.sdQ32 d a o q) ∧
    (∀ n ∈ (
      [.amadd d a x, .amaddQ32 d a x q, .amand d a x, .amandQ32 d a x q, .amor d a x, .amorQ32 d a x q, .amxor d a x, .amxorQ32 d a x q,
       .ammin d a x, .amminQ32 d a x q, .ammax d a x, .ammaxQ32 d a x q, .amminu d a x, .amminuQ32 d a x q, .ammaxu d a x, .ammaxuQ32 d a x q,
       .amswap d a x, .amswapQ32 d a x q, .amcas d a x, .amcasQ32 d a x q] : List Instr), traps (t.ar a) 8 n) ∧
    (∀ n ∈ (
      [.amaddW d a x, .amaddWQ32 d a x q, .amandW d a x, .amandWQ32 d a x q, .amorW d a x, .amorWQ32 d a x q, .amxorW d a x, .amxorWQ32 d a x q,
       .amminW d a x, .amminWQ32 d a x q, .ammaxW d a x, .ammaxWQ32 d a x q, .amminuW d a x, .amminuWQ32 d a x q, .ammaxuW d a x,
       .ammaxuWQ32 d a x q, .amswapW d a x, .amswapWQ32 d a x q, .amcasW d a x, .amcasWQ32 d a x q] : List Instr), traps (t.ar a) 4 n) ∧
    traps (t.ar a) 8 (.waitline d a x) ∧
    traps (t.ar a) 8 (.bara d a c) ∧
    traps (t.ar a) 8 (.barw d a c)

/-- Scalar atomics complete with the old value and one update; AMCAS writes only where the old value equals xD. Each scalar atomic but AMCAS, at 8 and 4
bytes, with and without Q32, that is aligned, translates for writing to a place that is not device-class and is not held back, writes the new value of
R237 over the old one and the sign-extended old value to xD. AMCAS, at 8 and 4 bytes, with and without Q32, under the hypotheses of the other atomics,
writes the low bytes of xT where the old value equals the low bytes of xD and leaves every byte alone where it does not, the line un-shared either way;
xD receives the sign-extended old value. Of another device's memory this device keeps no modified copy. (R220, R234, R237, R273.) -/
def Obligations.ScalarAtomicsComplete : Prop :=
  (∀ (st : State) (i : StrandId) (d x : BitVec 5) (a : BitVec 4) (q : Qual), MayIssue st i → Settled st i [d, x] →
      (st.strand i).acquiring = false → (st.strand i).releasing = false →
      let t := st.strand i
      let int (size v : Nat) : Int := (BitVec.ofNat (8 * size) v).toInt
      let form (len size : Nat) (op : AmoOp) (new : Nat → Nat → Nat → Nat) (acq rel : BitVec 3) (n : Instr) : Prop :=
        ∀ (p : Phys) (s : State) (old : Nat),
          (t.ar a).toNat % size = 0 → Finds st i len (t.ar a) .write p s → p.device = false →
          Unhindered s t ⟨.atomic op size (t.xr x) (t.xr d), d, p, t.issued, acq, rel, t.pc, t.ar a⟩ →
          readPhys p size s = .ok old → old < 2 ^ (8 * size) →
          exec n st = .next ((atHome p.loc (writePhys none p (leBytes size (new size old ((t.xr x).toNat % 2 ^ (8 * size)))) s)).setX i d
            (widened size true old))
      form 4 8 .add (fun size old y => (old + y) % 2 ^ (8 * size)) 0 0 (.amadd d a x) ∧
      form 8 8 .add (fun size old y => (old + y) % 2 ^ (8 * size)) (Qual.acq q) (Qual.rel q) (.amaddQ32 d a x q) ∧
      form 4 4 .add (fun size old y => (old + y) % 2 ^ (8 * size)) 0 0 (.amaddW d a x) ∧
      form 8 4 .add (fun size old y => (old + y) % 2 ^ (8 * size)) (Qual.acq q) (Qual.rel q) (.amaddWQ32 d a x q) ∧
      form 4 8 .and (fun _ old y => old &&& y) 0 0 (.amand d a x) ∧
      form 8 8 .and (fun _ old y => old &&& y) (Qual.acq q) (Qual.rel q) (.amandQ32 d a x q) ∧
      form 4 4 .and (fun _ old y => old &&& y) 0 0 (.amandW d a x) ∧
      form 8 4 .and (fun _ old y => old &&& y) (Qual.acq q) (Qual.rel q) (.amandWQ32 d a x q) ∧
      form 4 8 .or (fun _ old y => old ||| y) 0 0 (.amor d a x) ∧
      form 8 8 .or (fun _ old y => old ||| y) (Qual.acq q) (Qual.rel q) (.amorQ32 d a x q) ∧
      form 4 4 .or (fun _ old y => old ||| y) 0 0 (.amorW d a x) ∧
      form 8 4 .or (fun _ old y => old ||| y) (Qual.acq q) (Qual.rel q) (.amorWQ32 d a x q) ∧
      form 4 8 .xor (fun _ old y => old ^^^ y) 0 0 (.amxor d a x) ∧
      form 8 8 .xor (fun _ old y => old ^^^ y) (Qual.acq q) (Qual.rel q) (.amxorQ32 d a x q) ∧
      form 4 4 .xor (fun _ old y => old ^^^ y) 0 0 (.amxorW d a x) ∧
      form 8 4 .xor (fun _ old y => old ^^^ y) (Qual.acq q) (Qual.rel q) (.amxorWQ32 d a x q) ∧
      form 4 8 .min (fun size old y => if int size old < int size y then old else y) 0 0 (.ammin d a x) ∧
      form 8 8 .min (fun size old y => if int size old < int size y then old else y) (Qual.acq q) (Qual.rel q) (.amminQ32 d a x q) ∧
      form 4 4 .min (fun size old y => if int size old < int size y then old else y) 0 0 (.amminW d a x) ∧
      form 8 4 .min (fun size old y => if int size old < int size y then old else y) (Qual.acq q) (Qual.rel q) (.amminWQ32 d a x q) ∧
      form 4 8 .max (fun size old y => if int size old < int size y then y else old) 0 0 (.ammax d a x) ∧
      form 8 8 .max (fun size old y => if int size old < int size y then y else old) (Qual.acq q) (Qual.rel q) (.ammaxQ32 d a x q) ∧
      form 4 4 .max (fun size old y => if int size old < int size y then y else old) 0 0 (.ammaxW d a x) ∧
      form 8 4 .max (fun size old y => if int size old < int size y then y else old) (Qual.acq q) (Qual.rel q) (.ammaxWQ32 d a x q) ∧
      form 4 8 .minu (fun _ old y => if old < y then old else y) 0 0 (.amminu d a x) ∧
      form 8 8 .minu (fun _ old y => if old < y then old else y) (Qual.acq q) (Qual.rel q) (.amminuQ32 d a x q) ∧
      form 4 4 .minu (fun _ old y => if old < y then old else y) 0 0 (.amminuW d a x) ∧
      form 8 4 .minu (fun _ old y => if old < y then old else y) (Qual.acq q) (Qual.rel q) (.amminuWQ32 d a x q) ∧
      form 4 8 .maxu (fun _ old y => if old < y then y else old) 0 0 (.ammaxu d a x) ∧
      form 8 8 .maxu (fun _ old y => if old < y then y else old) (Qual.acq q) (Qual.rel q) (.ammaxuQ32 d a x q) ∧
      form 4 4 .maxu (fun _ old y => if old < y then y else old) 0 0 (.ammaxuW d a x) ∧
      form 8 4 .maxu (fun _ old y => if old < y then y else old) (Qual.acq q) (Qual.rel q) (.ammaxuWQ32 d a x q) ∧
      form 4 8 .swap (fun _ _ y => y) 0 0 (.amswap d a x) ∧
      form 8 8 .swap (fun _ _ y => y) (Qual.acq q) (Qual.rel q) (.amswapQ32 d a x q) ∧
      form 4 4 .swap (fun _ _ y => y) 0 0 (.amswapW d a x) ∧
      form 8 4 .swap (fun _ _ y => y) (Qual.acq q) (Qual.rel q) (.amswapWQ32 d a x q)) ∧
  (∀ (st : State) (i : StrandId) (d x : BitVec 5) (a : BitVec 4) (q : Qual), MayIssue st i → Settled st i [d, x] →
      (st.strand i).acquiring = false → (st.strand i).releasing = false →
      let t := st.strand i
      let form (len size : Nat) (acq rel : BitVec 3) (n : Instr) : Prop :=
        ∀ (p : Phys) (s : State) (old : Nat),
          (t.ar a).toNat % size = 0 → Finds st i len (t.ar a) .write p s → p.device = false →
          Unhindered s t ⟨.atomic .cas size (t.xr x) (t.xr d), d, p, t.issued, acq, rel, t.pc, t.ar a⟩ →
          readPhys p size s = .ok old → old < 2 ^ (8 * size) →
          exec n st = .next ((atHome p.loc (if old = (t.xr d).toNat % 2 ^ (8 * size) then
              writePhys none p (leBytes size ((t.xr x).toNat % 2 ^ (8 * size))) s else unshareAt p.loc s)).setX i d (widened size true old)) ∧
          (unshareAt p.loc s).mem = s.mem ∧
          ∀ u, ((unshareAt p.loc s).tile u).tmem = (s.tile u).tmem
      form 4 8 0 0 (.amcas d a x) ∧
      form 4 4 0 0 (.amcasW d a x) ∧
      form 8 8 (Qual.acq q) (Qual.rel q) (.amcasQ32 d a x q) ∧
      form 8 4 (Qual.acq q) (Qual.rel q) (.amcasWQ32 d a x q))

/-- BARA counts an arrival, BARW and WAITLINE retire on a change or block; the wakes complete what blocked. BARA writes the old PHASE to xD and advances
the count, at EXP back to 0 with the phase turned; an invalid word traps with BARRIER_INVALID and stays. BARW retires with the word where its PHASE
differs from bit 0 of xD and else blocks; WAITLINE retires with the word where it differs from xT and else blocks; a TRAP reservation in the way of
either read is RESERVATION_CONFLICT (the model's choice, log entry 72: R252 gives that trap for BARA). Once the granule is full, the word's PHASE differs from the one seen, or the word differs from the value seen,
and nothing stands in the way of the read, the event writes xD and the strand runs on after its instruction; so does a Blocked JOINL, once the child
has gone and the queue takes it. (R109, R113, R135, R220, R251, R252.) -/
def Obligations.BarriersAndWakesComplete : Prop :=
  (∀ (st : State) (i : StrandId) (d x : BitVec 5) (a : BitVec 4) (c : BitVec 3) (p : Phys) (s : State) (w : BitVec 64), MayIssue st i →
      Settled st i [d, x] → (st.strand i).acquiring = false → (st.strand i).releasing = false → p.device = false →
      let t := st.strand i
      let ea := t.ar a
      ea.toNat % 8 = 0 →
      (Finds st i 4 ea .write p s → Unhindered s t ⟨.arrive, d, p, t.issued, 0, c, t.pc, ea⟩ → readPhys p 8 s = .ok w.toNat →
        let cnt := w.extractLsb' 0 24
        let exp := w.extractLsb' 24 24
        let phase := w.extractLsb' 63 1
        (w.extractLsb' 48 15 = 0 → cnt.toNat < exp.toNat →
          exec (.bara d a c) st = .next ((atHome p.loc (writePhys none p
            (leBytes 8 ((if cnt + 1 = exp then ~~~ phase else phase) ++ 0#15 ++ exp ++ (if cnt + 1 = exp then 0 else cnt + 1) : BitVec 64).toNat) s)).setX
              i d (phase.setWidth 64))) ∧
        (¬ (w.extractLsb' 48 15 = 0 ∧ cnt.toNat < exp.toNat) →
          exec (.bara d a c) st = .next (takeTrap i ⟨cBarrierInvalid, 0, false, t.pc, 0, ea, 0⟩ st))) ∧
      (Finds st i 4 ea .read p s → readHeld t p 8 s = false → s.meets none false p.loc 8 = .trap →
        (exec (.barw d a c) st = .next (takeTrap i ⟨cReservation, 0, false, t.pc, 0, ea, 0⟩ st) ∧
          exec (.waitline d a x) st = .next (takeTrap i ⟨cReservation, 0, false, t.pc, 0, ea, 0⟩ st))) ∧
      (Finds st i 4 ea .read p s → readHeld t p 8 s = false → s.meets none false p.loc 8 = .free → scalarRead t t.issued p 8 s = .ok w.toNat →
        let blocked (v : Wait) : State := s.modStrand i fun r => { r with status := .blocked v, pc := t.pc }
        exec (.barw d a c) st = .next (if w.getLsbD 63 = (t.xr d).getLsbD 0 then blocked (.barrier d p ((t.xr d).getLsbD 0) ea) else s.setX i d w) ∧
        exec (.waitline d a x) st = .next (if w = t.xr x then blocked (.line d p (t.xr x) ea) else s.setX i d w))) ∧
  (∀ (st : State) (i : StrandId) (d : BitVec 5),
      let t := st.strand i
      let on (len : Nat) (s : State) : State := s.modStrand i fun r => { r with status := .running, pc := r.pc + BitVec.ofNat 80 len }
      (∀ (u : TileId) (off size v : Nat) (sx clear : Bool) (ea : Addr), t.status = .blocked (.granule d u off size sx clear ea) →
        st.findsFull u clear off size = true → scalarRead t t.issued (Loc.tmem u off).plain size st = .ok v → v < 2 ^ (8 * size) →
        exec (.fullemptyWake i) st = .next (on 8 ((if clear then clearFull u (off / 16) st else st).setX i d (widened size sx v)))) ∧
      (∀ c : Child, t.status = .blocked .join → t.grant = some c → c.gone.isSome = true → queueFull i t st = false →
        ∃ r, exec (.joinlWake i) st = .next r ∧ (r.strand i).status = .running ∧ (r.strand i).pc = t.pc + 4) ∧
      (∀ (p : Phys) (ea : Addr) (w : Word), readHeld t p 8 st = false → st.meets none false p.loc 8 = .free →
        scalarRead t t.issued p 8 st = .ok w.toNat →
        (∀ seen : Word, t.status = .blocked (.line d p seen ea) → w ≠ seen → exec (.waitlineWake i) st = .next (on 4 (st.setX i d w))) ∧
        (∀ seen : Bool, t.status = .blocked (.barrier d p seen ea) → w.getLsbD 63 ≠ seen →
          exec (.barwWake i) st = .next (on 4 (st.setX i d w)))))

/-- Outstanding scalar accesses complete, and the store queue drains. An outstanding access that nothing holds back any more is performed and writes its
register, whether its data was late or it waited at a reservation; a queued store that nothing holds back writes its bytes and leaves the queue.
(R434, R220, R108.) -/
def Obligations.LateAccessesAndStoresArePerformed : Prop :=
  ∀ (st : State) (i : StrandId) (k : Nat),
    let t := st.strand i
    (∀ (a : LateAccess) (v : Word) (s : State), t.lates[k]? = some a → st.meets none a.kind.writes a.phys.loc a.kind.size = .free →
      st.reach a.phys.loc = .ok → t.blocks a = false → performAccess i a st = .ok (v, s) →
      let r := (s.modStrand i fun t => { t with lates := t.lates.eraseIdx k }).setX i a.d v
      exec (.scalarAccessComplete i k) st = .next r ∧ exec (.reservationWaitProceed i k) st = .next r) ∧
    (∀ (e : StoreEntry) (n : Nat) (v : Word), t.orphans = [] → t.stores[k]? = some e → e.kind = .data n v →
      st.meets none true e.phys.loc n = .free → st.reach e.phys.loc = .ok → t.storeHeld k e = false →
      exec (.storeQueueDrain i k) st =
        .next (writePhys none e.phys (leBytes n v.toNat) (st.modStrand i fun t => { t with stores := t.stores.eraseIdx k })))

/-- A drained store changes the bytes it covers and no other byte. A queued data store to HBM of this device that drains leaves every byte outside its own
range as it was, gives each of its bytes the byte of its value, and changes no byte of any TMEM. (R108, spec/11_memory_model.md.) -/
def Obligations.DrainedStoreChangesOnlyItsBytes : Prop :=
  ∀ (st s : State) (i : StrandId) (k : Nat) (e : StoreEntry) (n a : Nat) (v : Word), st.mem.wf = true → (st.strand i).orphans = [] →
    (st.strand i).stores[k]? = some e → e.kind = .data n v → e.phys.loc = .mem a → st.own a = true → regionOf (localOf a) = .hbm →
    st.meets none true (.mem a) n = .free → (st.strand i).storeHeld k e = false → n ≤ 8 →
    exec (.storeQueueDrain i k) st = .next s →
    (∀ b, b < a ∨ a + n ≤ b → s.mem.get b = st.mem.get b) ∧
    (∀ j, j < n → s.mem.get (a + j) = BitVec.ofNat 8 (v.toNat / 256 ^ j)) ∧
    (∀ u, (s.tile u).tmem = (st.tile u).tmem) ∧ (∀ r, s.xr i r = st.xr i r)

/-- System-register instructions complete with the effect of R384. At a level that may access the register, SYSRD writes its value to xD; SYSWR and SYSXCH
replace its RW bits by those of xD and SYSSET and SYSCLR set and clear them, through the store of the register, SYSXCH also writing the old value to
xD; a write of an invalid vcfg traps instead, and so does a write of CTXCUR where the context entry meets an uncorrectable error (that it traps with
MACHINE_CHECK and the entry's address is the model's choice, log entry 54). (R384, R385, R4, R117.) -/
def Obligations.SystemRegistersAreReadAndWritten : Prop :=
  ∀ (st : State) (i : StrandId) (d : BitVec 5) (r : BitVec 15) (l : Level), MayIssue st i → Settled st i [d] →
    sysLevel r.toNat = some l → l.code ≤ (st.strand i).level.code →
    (r.toNat ≤ 4 → (st.strand i).live = []) →
    let n := r.toNat
    let x := st.xr i d
    let rw := sysRw n
    let old := (sysRead i n (advance i 4 st)).1
    let s := (sysRead i n (advance i 4 st)).2
    let put (v w : Word) : State := sysStore i n v (w &&& sysW1c n) s
    let plain (v : Word) (t : State) : Out :=
      if n = 1 ∧ vcfgInvalid v = true then .next (takeTrap i ⟨cVcfgInvalid, 0, false, (st.strand i).pc, 0, 0, 0⟩ st)
      else if n = 0x1010 ∧ st.ctxPoisoned (coreQuad i.core) (v.setWidth 16) = true then
        .next (takeTrap i ⟨cMachineCheck, 0, false, (st.strand i).pc, 0, BitVec.ofNat 80 (st.ctxPlace (coreQuad i.core) (v.setWidth 16)), 0⟩ st)
      else .next t
    exec (.sysrd d r) st = .next (s.setX i d old) ∧
    exec (.syswr d r) st = plain ((old &&& ~~~ rw) ||| (x &&& rw)) (put ((old &&& ~~~ rw) ||| (x &&& rw)) x) ∧
    exec (.sysset d r) st = plain (old ||| (x &&& rw)) (put (old ||| (x &&& rw)) 0) ∧
    exec (.sysclr d r) st = plain (old &&& ~~~ (x &&& rw)) (put (old &&& ~~~ (x &&& rw)) 0) ∧
    exec (.sysxch d r) st = plain ((old &&& ~~~ rw) ||| (x &&& rw)) ((put ((old &&& ~~~ rw) ||| (x &&& rw)) x).setX i d old)

/-- A system register reads back the RW fields that were stored. For each plain register of the state tables (vstart, ffstat, the butterfly stride registers
bs0 to bs15, the base, size and vector registers, the trap registers' scratch and record words), a read after a store of a value within its RW bits
gives that value, and the store changes no x register, no memory and no other strand. That the low bits of CTXBASE, ERRBASE, GRBASE and FKEYADDR are
kept and read back is the model's choice (log entry 67). (R385, R384, R285, R286, spec/18_system.md.) -/
def Obligations.SystemRegistersReadBackTheirFields : Prop :=
  ∀ (s : State) (i : StrandId) (n : Nat) (v w : Word), v &&& ~~~ sysRw n = 0 →
    n = 2 ∨ n = 3 ∨ (0x200 ≤ n ∧ n ≤ 0x20F) ∨ (0x1001 ≤ n ∧ n ≤ 0x1008) ∨ n = 0x1011 ∨ n = 0x1012 ∨ (0x1028 ≤ n ∧ n ≤ 0x102B) ∨
      (0x4001 ≤ n ∧ n ≤ 0x4008) ∨ n = 0x4010 →
    (sysRead i n (sysStore i n v w s)).1 = v ∧ (sysStore i n v w s).mem = s.mem ∧
    (∀ r, (sysStore i n v w s).xr i r = s.xr i r) ∧ (∀ j, j ≠ i → (sysStore i n v w s).strand j = s.strand j)

/-- A level that may not act takes PRIVILEGE, an unassigned number ILLEGAL_INSTRUCTION. A system-register instruction below the level of its register, and
TRET and the TLB invalidations at level U, take PRIVILEGE precisely and do nothing else; a system-register instruction with a number assigned nowhere
takes ILLEGAL_INSTRUCTION at every level. (R43, R384, R389, R401.) -/
def Obligations.PrivilegeIsChecked : Prop :=
  ∀ (st : State) (i : StrandId) (d t : BitVec 5) (s : BitVec 4) (r : BitVec 15), MayIssue st i →
    let trap (c : BitVec 8) : Out := .next (takeTrap i ⟨c, 0, false, (st.strand i).pc, 0, 0, 0⟩ st)
    (∀ n ∈ [Instr.sysrd d r, .syswr d r, .sysset d r, .sysclr d r, .sysxch d r],
      (sysLevel r.toNat = none → exec n st = trap cIllegal) ∧
      (∀ l, sysLevel r.toNat = some l → (st.strand i).level.code < l.code → exec n st = trap cPrivilege)) ∧
    ((st.strand i).level = .U → ∀ n ∈ [Instr.tret, .tlbiva s t, .tlbias t, .tlbiall], exec n st = trap cPrivilege)

/-- A strand takes a trap as R386 describes. A trap from level U, or from S outside a handler, goes to S and else to M: the level's registers take the
record, PPL the old level and INH one, the other level's registers keep, the program counter becomes the vector with its low two bits clear, no x, a
or m register changes, and the vector queue is held. A trap into level M that finds INH set there makes the strand Exiting instead, at its level; that
its vector queue is then discarded is the model's choice (log entry 24). (R386, R387, R136, R385.) -/
def Obligations.TrapEntrySavesTheRecord : Prop :=
  ∀ (s : State) (i : StrandId) (k : TrapRec),
    let t := s.strand i
    let u := (takeTrap i k s).strand i
    let toS := t.level = .U ∨ (t.level = .S ∧ t.st.stat.getLsbD 2 = false)
    let took (r : TrapRegs) (old : TrapRegs) : Prop :=
      r.stat.toNat % 4 = t.level.code ∧ r.stat.getLsbD 2 = true ∧ r.stat.getLsbD 3 = old.stat.getLsbD 3 ∧ r.scratch = old.scratch ∧
      r.cause.toNat = k.cause.toNat + k.src.toNat * 256 + (if k.async then 2048 else 0) ∧ r.detail = k.detail ∧
      r.pc.toNat + r.xhi.toNat % 2 ^ 16 * 2 ^ 64 = k.tpc.toNat ∧ r.vpc.toNat + r.xhi.toNat / 2 ^ 16 % 2 ^ 16 * 2 ^ 64 = k.tvpc.toNat ∧
      r.addr.toNat + r.xhi.toNat / 2 ^ 32 % 2 ^ 16 * 2 ^ 64 = k.taddr.toNat
    (toS → u.level = .S ∧ took u.st t.st ∧ u.mt = t.mt ∧ u.pc = ((s.quad (coreQuad i.core)).tvec &&& ~~~ 3#64).setWidth 80 ∧
      u.status = .running ∧ u.held = true ∧ u.links = [] ∧ u.x = t.x ∧ u.a = t.a ∧ u.m = t.m) ∧
    (¬ toS → t.mt.stat.getLsbD 2 = false → u.level = .M ∧ took u.mt t.mt ∧ u.st = t.st ∧
      u.pc = ((s.quad (coreQuad i.core)).mtvec &&& ~~~ 3#64).setWidth 80 ∧
      u.status = .running ∧ u.held = true ∧ u.links = [] ∧ u.x = t.x ∧ u.a = t.a ∧ u.m = t.m) ∧
    (¬ toS → t.mt.stat.getLsbD 2 = true → u.status = .exiting ∧ u.level = t.level ∧ u.queue = [])

/-- SCALL takes its trap and TRET returns from one. SCALL completes by taking SYSCALL with the next instruction's address in TPC, from level U into S and
from S or M into M (that R390 holds there against the general rule of R386 is the model's reading, log entry 92); TRET, once earlier stores and atomics
are performed, restores the level from PPL and the program counter from XPC with its high bits, clears INH and QDISC, and restarts the held queue or
discards it. (R390, R389.) -/
def Obligations.ScallAndTretReturn : Prop :=
  ∀ (st : State) (i : StrandId), MayIssue st i →
    let t := st.strand i
    exec .scall st = .next (takeTrapTo (if t.level = .U then .S else .M) i ⟨cSyscall, 0, false, t.pc + 4, 0, 0, 0⟩ (advance i 4 st)) ∧
    (t.level ≠ .U → t.stores = [] → (∀ a ∈ t.lates, a.kind.writes = false) → ∃ s, exec .tret st = .next s ∧
      let u := s.strand i
      let r := if t.level = .M then t.mt else t.st
      u.level.code = (if r.stat.toNat % 4 = 3 then 2 else r.stat.toNat % 4) ∧
      u.pc.toNat = r.pc.toNat + r.xhi.toNat % 2 ^ 16 * 2 ^ 64 ∧ u.held = false ∧
      u.queue = (if r.stat.getLsbD 3 then [] else t.queue) ∧
      (t.level = .M → u.st = t.st ∧ u.mt.stat = t.mt.stat &&& ~~~ 12#64) ∧
      (t.level = .S → u.mt = t.mt ∧ u.st.stat = t.st.stat &&& ~~~ 12#64) ∧ u.x = t.x ∧ u.a = t.a ∧ u.m = t.m ∧
      (r.stat.getLsbD 3 = false → s.mem = st.mem))

/-- A service call from level U returns to the instruction after it. From a strand at level U outside a handler whose queue holds no work, SCALL followed
by TRET at the handler restores level U and the address after the SCALL, and every x, a and m register. (R386, R389, R390.) -/
def Obligations.ServiceCallReturnsToTheNextInstruction : Prop :=
  ∀ (st s r : State) (i : StrandId), MayIssue st i → (st.strand i).status = .running → (st.strand i).level = .U → (st.strand i).st.stat.getLsbD 3 = false →
    (st.strand i).stores = [] → (st.strand i).lates = [] → (st.strand i).queue = [] →
    exec .scall st = .next s → exec .tret s = .next r →
    (r.strand i).level = .U ∧ (r.strand i).pc = (st.strand i).pc + 4 ∧ (r.strand i).x = (st.strand i).x ∧ (r.strand i).a = (st.strand i).a ∧
    (r.strand i).m = (st.strand i).m ∧ (r.strand i).st.stat.getLsbD 2 = false ∧ (r.strand i).mt = (st.strand i).mt ∧ r.mem = st.mem

/-- YIELD, EXIT, TLB invalidations and LEAVE complete. YIELD gives the strand the largest age stamp and leaves no strand greedy, but on a core that
issues round-robin, where it has no effect; EXIT makes the strand
Exiting; an invalidation above level U blocks the strand until it completes, and its completion removes every translation it names; LEAVE writes the
grant of the tile, and on a tile without one requests it. (R112, R115, R401, R403, R282.) -/
def Obligations.StrandControlCompletes : Prop :=
  ∀ (st : State) (i : StrandId) (d x : BitVec 5) (a : BitVec 4), MayIssue st i →
    let t := st.strand i
    let s := advance i 4 st
    let blocked (w : TlbRemoval) : Out := .next (s.modStrand i fun r => { r with status := .blocked (.tlb w), pc := t.pc })
    (s.roundRobin i.core = true → exec .yield st = .next s) ∧
    (s.roundRobin i.core = false → ∃ y, exec .yield st = .next y ∧ (y.strand i).age = (st.core i.core).stamp + 1 ∧ (y.core i.core).greedy = none ∧
      (y.core i.core).stamp = (st.core i.core).stamp + 1 ∧ y.mem = st.mem ∧ ∀ r, y.xr i r = st.xr i r) ∧
    exec .exit st = .next (s.modStrand i fun r => { r with status := .exiting, pc := t.pc, links := [], loose := [] }) ∧
    (t.level ≠ .U → exec .tlbiall st = blocked .all ∧
      (Settled st i [x] → exec (.tlbias x) st = blocked (.space ((t.xr x).setWidth 16)) ∧
        exec (.tlbiva a x) st = blocked (.page (t.ar a) ((t.xr x).setWidth 16)))) ∧
    (∀ w : TlbRemoval, t.status = .blocked (.tlb w) → t.stores = [] →
      t.live.any (fun e => e.op.memory && !e.op.loads) = false → st.usesRemoved w = false → ∃ r, exec (.tlbInvalidateComplete i) st = .next r ∧
      (r.strand i).status = .running ∧ (r.strand i).pc = t.pc + 4 ∧ (∀ u, ∀ h ∈ (r.tile u).tlb, w.hits h = false) ∧
      (∀ q, ∀ h ∈ (r.quad q).tlb, w.hits h = false) ∧ r.mem = st.mem) ∧
    (Settled st i [d] → exec (.leave d) st = .next (match i.core with
      | .control _ => s.setX i d 0
      | .tile u => if (s.tile u).leave then s.setX i d 1 else requestLeave u (s.setX i d 0)))

/-- Integer vector instructions complete their issue with the captured operand. Every instruction of majors 0x1C to 0x1E (the VV, VX and VI forms) completes its
issue where the queue takes an entry: it enters the vector queue with its registers, its mask and, in the VX and VI forms, the captured value of xT or
its extended immediate. (R145, R141, R130.) -/
def Obligations.VectorIntegerFormsEnterTheQueue : Prop :=
  ∀ (st : State) (i : StrandId), MayQueue st i 4 →
    let t := st.strand i
    let runs (n : Instr) (op : VOp) (mk : Option (BitVec 3)) : Prop := exec n st = .next (queued st i 4 op mk)
    ∀ (d s u : BitVec 5) (mk : Option (BitVec 3)),
    runs (.vaddVV d s u mk) (.int .add d s (.reg u)) mk ∧
    runs (.vsubVV d s u mk) (.int .sub d s (.reg u)) mk ∧
    runs (.vandVV d s u mk) (.int .and d s (.reg u)) mk ∧
    runs (.vorVV d s u mk) (.int .or d s (.reg u)) mk ∧
    runs (.vxorVV d s u mk) (.int .xor d s (.reg u)) mk ∧
    runs (.vsllVV d s u mk) (.int .sll d s (.reg u)) mk ∧
    runs (.vsrlVV d s u mk) (.int .srl d s (.reg u)) mk ∧
    runs (.vsraVV d s u mk) (.int .sra d s (.reg u)) mk ∧
    runs (.vminVV d s u mk) (.int .min d s (.reg u)) mk ∧
    runs (.vmaxVV d s u mk) (.int .max d s (.reg u)) mk ∧
    runs (.vminuVV d s u mk) (.int .minu d s (.reg u)) mk ∧
    runs (.vmaxuVV d s u mk) (.int .maxu d s (.reg u)) mk ∧
    runs (.vmulVV d s u mk) (.int .mul d s (.reg u)) mk ∧
    runs (.vmulhVV d s u mk) (.int .mulh d s (.reg u)) mk ∧
    runs (.vmulhuVV d s u mk) (.int .mulhu d s (.reg u)) mk ∧
    runs (.vdivVV d s u mk) (.int .div d s (.reg u)) mk ∧
    runs (.vdivuVV d s u mk) (.int .divu d s (.reg u)) mk ∧
    runs (.vremVV d s u mk) (.int .rem d s (.reg u)) mk ∧
    runs (.vremuVV d s u mk) (.int .remu d s (.reg u)) mk ∧
    runs (.vsaddVV d s u mk) (.int .sadd d s (.reg u)) mk ∧
    runs (.vsadduVV d s u mk) (.int .saddu d s (.reg u)) mk ∧
    runs (.vssubVV d s u mk) (.int .ssub d s (.reg u)) mk ∧
    runs (.vssubuVV d s u mk) (.int .ssubu d s (.reg u)) mk ∧
    runs (.vabs d s mk) (.int .abs d s (.const 0)) mk ∧
    runs (.vneg d s mk) (.int .neg d s (.const 0)) mk ∧
    runs (.vaddVI d s u mk) (.int .add d s (.const (u.signExtend 64))) mk ∧
    runs (.vsubVI d s u mk) (.int .sub d s (.const (u.signExtend 64))) mk ∧
    runs (.vandVI d s u mk) (.int .and d s (.const (u.signExtend 64))) mk ∧
    runs (.vorVI d s u mk) (.int .or d s (.const (u.signExtend 64))) mk ∧
    runs (.vxorVI d s u mk) (.int .xor d s (.const (u.signExtend 64))) mk ∧
    runs (.vsllVI d s u mk) (.int .sll d s (.const (u.setWidth 64))) mk ∧
    runs (.vsrlVI d s u mk) (.int .srl d s (.const (u.setWidth 64))) mk ∧
    runs (.vsraVI d s u mk) (.int .sra d s (.const (u.setWidth 64))) mk ∧
    runs (.vminVI d s u mk) (.int .min d s (.const (u.signExtend 64))) mk ∧
    runs (.vmaxVI d s u mk) (.int .max d s (.const (u.signExtend 64))) mk ∧
    runs (.vminuVI d s u mk) (.int .minu d s (.const (u.setWidth 64))) mk ∧
    runs (.vmaxuVI d s u mk) (.int .maxu d s (.const (u.setWidth 64))) mk ∧
    runs (.vsaddVI d s u mk) (.int .sadd d s (.const (u.signExtend 64))) mk ∧
    runs (.vsadduVI d s u mk) (.int .saddu d s (.const (u.setWidth 64))) mk ∧
    runs (.vssubVI d s u mk) (.int .ssub d s (.const (u.signExtend 64))) mk ∧
    runs (.vssubuVI d s u mk) (.int .ssubu d s (.const (u.setWidth 64))) mk ∧
    (Settled st i [u] →
      runs (.vaddVX d s u mk) (.int .add d s (.const (t.xr u))) mk ∧
      runs (.vsubVX d s u mk) (.int .sub d s (.const (t.xr u))) mk ∧
      runs (.vandVX d s u mk) (.int .and d s (.const (t.xr u))) mk ∧
      runs (.vorVX d s u mk) (.int .or d s (.const (t.xr u))) mk ∧
      runs (.vxorVX d s u mk) (.int .xor d s (.const (t.xr u))) mk ∧
      runs (.vsllVX d s u mk) (.int .sll d s (.const (t.xr u))) mk ∧
      runs (.vsrlVX d s u mk) (.int .srl d s (.const (t.xr u))) mk ∧
      runs (.vsraVX d s u mk) (.int .sra d s (.const (t.xr u))) mk ∧
      runs (.vminVX d s u mk) (.int .min d s (.const (t.xr u))) mk ∧
      runs (.vmaxVX d s u mk) (.int .max d s (.const (t.xr u))) mk ∧
      runs (.vminuVX d s u mk) (.int .minu d s (.const (t.xr u))) mk ∧
      runs (.vmaxuVX d s u mk) (.int .maxu d s (.const (t.xr u))) mk ∧
      runs (.vmulVX d s u mk) (.int .mul d s (.const (t.xr u))) mk ∧
      runs (.vmulhVX d s u mk) (.int .mulh d s (.const (t.xr u))) mk ∧
      runs (.vmulhuVX d s u mk) (.int .mulhu d s (.const (t.xr u))) mk ∧
      runs (.vdivVX d s u mk) (.int .div d s (.const (t.xr u))) mk ∧
      runs (.vdivuVX d s u mk) (.int .divu d s (.const (t.xr u))) mk ∧
      runs (.vremVX d s u mk) (.int .rem d s (.const (t.xr u))) mk ∧
      runs (.vremuVX d s u mk) (.int .remu d s (.const (t.xr u))) mk ∧
      runs (.vsaddVX d s u mk) (.int .sadd d s (.const (t.xr u))) mk ∧
      runs (.vsadduVX d s u mk) (.int .saddu d s (.const (t.xr u))) mk ∧
      runs (.vssubVX d s u mk) (.int .ssub d s (.const (t.xr u))) mk ∧
      runs (.vssubuVX d s u mk) (.int .ssubu d s (.const (t.xr u))) mk)

/-- Floating-point, compare, mask, move, dot-product and conversion instructions complete their issue. Every instruction of majors 0x1A and 0x1F to
0x24 completes its issue where the queue takes an entry, its x operand captured at issue; MPOPC, MFIRST and VEXT mark their
xD pending until they retire. (R132, R147, R148, R151, R152, R153, R154, R78, R141.) -/
def Obligations.VectorFloatMaskAndMoveFormsEnterTheQueue : Prop :=
  ∀ (st : State) (i : StrandId), MayQueue st i 4 →
    let t := st.strand i
    let runs (n : Instr) (op : VOp) (mk : Option (BitVec 3)) : Prop := exec n st = .next (queued st i 4 op mk)
    ∀ (d s u : BitVec 5) (k l m : BitVec 3) (mk : Option (BitVec 3)),
    runs (.mand k l m) (.mask .and k l m) none ∧
    runs (.mor k l m) (.mask .or k l m) none ∧
    runs (.mxor k l m) (.mask .xor k l m) none ∧
    runs (.mandn k l m) (.mask .andn k l m) none ∧
    runs (.mnot k l) (.mask .not k l l) none ∧
    runs (.mset k) (.mask .set k k k) none ∧
    runs (.mclr k) (.mask .clr k k k) none ∧
    runs (.vfaddVV d s u mk) (.fp .add d s (.reg u)) mk ∧
    runs (.vfsubVV d s u mk) (.fp .sub d s (.reg u)) mk ∧
    runs (.vfmulVV d s u mk) (.fp .mul d s (.reg u)) mk ∧
    runs (.vfdivVV d s u mk) (.fp .div d s (.reg u)) mk ∧
    runs (.vfminVV d s u mk) (.fp .min d s (.reg u)) mk ∧
    runs (.vfmaxVV d s u mk) (.fp .max d s (.reg u)) mk ∧
    runs (.vfmaVV d s u mk) (.fp .fma d s (.reg u)) mk ∧
    runs (.vfmsVV d s u mk) (.fp .fms d s (.reg u)) mk ∧
    runs (.vfnmaVV d s u mk) (.fp .fnma d s (.reg u)) mk ∧
    runs (.vfsqrt d s mk) (.fp .sqrt d s (.reg s)) mk ∧
    runs (.vfrece d s mk) (.fp .rece d s (.reg s)) mk ∧
    runs (.vfrsqe d s mk) (.fp .rsqe d s (.reg s)) mk ∧
    runs (.vfabs d s mk) (.fp .abs d s (.reg s)) mk ∧
    runs (.vfneg d s mk) (.fp .neg d s (.reg s)) mk ∧
    runs (.vfsgnj d s u mk) (.fp .sgnj d s (.reg u)) mk ∧
    runs (.vcmpeq k s u mk) (.cmp .eq k s (.reg u)) mk ∧
    runs (.vcmpne k s u mk) (.cmp .ne k s (.reg u)) mk ∧
    runs (.vcmplt k s u mk) (.cmp .lt k s (.reg u)) mk ∧
    runs (.vcmple k s u mk) (.cmp .le k s (.reg u)) mk ∧
    runs (.vcmpltu k s u mk) (.cmp .ltu k s (.reg u)) mk ∧
    runs (.vcmpleu k s u mk) (.cmp .leu k s (.reg u)) mk ∧
    runs (.vfcmpeq k s u mk) (.cmp .feq k s (.reg u)) mk ∧
    runs (.vfcmplt k s u mk) (.cmp .flt k s (.reg u)) mk ∧
    runs (.vfcmple k s u mk) (.cmp .fle k s (.reg u)) mk ∧
    runs (.vfcmpun k s u mk) (.cmp .funord k s (.reg u)) mk ∧
    runs (.vmerge d s u k) (.merge d s u) (some k) ∧
    runs (.vmv d s mk) (.mv d s) mk ∧
    runs (.vid d mk) (.vid d) mk ∧
    runs (.vdot4 d s u mk) (.dot 4 d s u) mk ∧
    runs (.vdot8 d s u mk) (.dot 8 d s u) mk ∧
    runs (.vbsapply d s u mk) (.bsapply d s u) mk ∧
    (Settled st i [d] → runs (.mpopc d k) (.mpopc d k) none ∧ runs (.mfirst d k) (.mfirst d k) none) ∧
    (Settled st i [u] →
      runs (.vfaddVX d s u mk) (.fp .add d s (.const (t.xr u))) mk ∧
      runs (.vfsubVX d s u mk) (.fp .sub d s (.const (t.xr u))) mk ∧
      runs (.vfmulVX d s u mk) (.fp .mul d s (.const (t.xr u))) mk ∧
      runs (.vfdivVX d s u mk) (.fp .div d s (.const (t.xr u))) mk ∧
      runs (.vfminVX d s u mk) (.fp .min d s (.const (t.xr u))) mk ∧
      runs (.vfmaxVX d s u mk) (.fp .max d s (.const (t.xr u))) mk ∧
      runs (.vfmaVX d s u mk) (.fp .fma d s (.const (t.xr u))) mk ∧
      runs (.vfmsVX d s u mk) (.fp .fms d s (.const (t.xr u))) mk ∧
      runs (.vfnmaVX d s u mk) (.fp .fnma d s (.const (t.xr u))) mk ∧
      runs (.vsplat d u mk) (.splat d (t.xr u)) mk ∧
      runs (.vsrseed u) (.srseed (t.xr u)) none) ∧
    (Settled st i [d, u] → runs (.vext d s u) (.ext d s (t.xr u)) none) ∧
    (MayQueue st i 8 → ∀ (sf df : BitVec 4) (rnd : BitVec 3) (sat : BitVec 1),
      let wide (n : Instr) (f : CvtForm) (v : BitVec 5) : Prop := exec n st = .next (queued st i 8 (.cvt f d s v sf df rnd (sat = 1)) mk)
      wide (.vcvt d s mk sf df rnd sat) .same s ∧ wide (.vcvtW d s mk sf df rnd sat) .widen s ∧
      wide (.vcvtN d s mk sf df rnd sat) .narrow s ∧ wide (.vcvtSC d s u mk sf df rnd sat) .scaled u)

/-- Vector memory, atomic and cross-lane instructions complete their issue. Every instruction of majors 0x25 to 0x28, 0x2A and 0x2F completes its issue
where the queue takes an entry, with the base address, stride and slide operands as they stand at issue; one that accesses memory also needs no
acquire outstanding and no releasing fence that holds it back. VSETL without a breakpoint, VSETCFG with a valid word, VPART with an accepted word,
FORKL with a free slot or none and JOINL of a child that has gone enter the queue likewise, each as its last entry. (R124, R125, R126, R134, R135,
R157, R175, R177, R239, R249, R257.) -/
def Obligations.VectorMemoryAndCrossLaneFormsEnterTheQueue : Prop :=
  ∀ (st : State) (i : StrandId), MayQueue st i 4 →
    let t := st.strand i
    let runs (n : Instr) (op : VOp) (mk : Option (BitVec 3)) : Prop := exec n st = .next (queued st i 4 op mk)
    ∀ (d s u : BitVec 5) (a : BitVec 4) (k : BitVec 3) (mk : Option (BitVec 3)),
    runs (.vred d s u mk) (.red .red u d s) mk ∧
    runs (.vscan d s u mk) (.red .scan u d s) mk ∧
    runs (.vscanx d s u mk) (.red .scanx u d s) mk ∧
    runs (.vperm d s u mk) (.perm d s u) mk ∧
    runs (.vcomp d s k) (.comp d s) (some k) ∧
    runs (.vexpd d s k) (.expd d s) (some k) ∧
    runs (.vfilt d s mk) (.filt d s) mk ∧
    (let enters (n : Instr) (op : VOp) : Prop := ∃ r y, exec n st = .next r ∧ (r.strand i).pc = t.pc + 4 ∧ (r.strand i).queue = t.queue ++ [y] ∧ y.op = op
     (Settled st i [d, s] → t.pendVl = false → t.breaks = false → ∃ n, enters (.vsetl d s) (.setl n)) ∧
     (Settled st i [d, s] → vcfgInvalid (t.xr s &&& 2047#64) = false → enters (.vsetcfg d s) (.setcfg (t.xr s &&& 2047#64))) ∧
     (∀ gs, Settled st i [s] → partGroups (t.xr s) = some gs → (∀ g ∈ gs, ∀ o, g.2.owner = some o → (st.strand ⟨i.core, o⟩).status ≠ .free) →
       (∀ j ∈ slots i.core, (st.strand j).grant = none) → enters (.vpart s) (.part (t.xr s))) ∧
     (Settled st i [d] → t.pendVl = false → (t.ar a).toNat % 4 = 0 → 4 < st.lanes i → t.grant = none →
       enters (.forkl d a) (.fork d (t.ar a) ((advance i 4 st).freeSlot i.core) t.x t.a)) ∧
     (∀ c : Child, t.pendVl = false → t.grant = some c → c.gone.isSome = true → t.queue.any (·.op = .join) = false → enters .joinl .join)) ∧
    (Settled st i [u] →
      runs (.vtopk d s u mk) (.topk d s (t.xr u)) mk ∧ runs (.vslideup d s u mk) (.slide true d s (t.xr u)) mk ∧
      runs (.vslidedn d s u mk) (.slide false d s (t.xr u)) mk ∧
      runs (.vpf a u mk) (.pf (t.ar a) (if u = 0 then none else some (t.xr u))) mk) ∧
    (t.acquiring = false → t.releasing = false →
      runs (.vld d a mk) (.ld .unit d (t.ar a)) mk ∧
      runs (.vldFE d a mk) (.ld .fe d (t.ar a)) mk ∧
      runs (.vldFC d a mk) (.ld .fc d (t.ar a)) mk ∧
      runs (.vldx d a s mk) (.ld (.indexed s) d (t.ar a)) mk ∧
      runs (.vldff d a mk) (.ld .ff d (t.ar a)) mk ∧
      runs (.vldseg d a s mk) (.ld (.seg (s.toNat + 1)) d (t.ar a)) mk ∧
      runs (.vst d a mk) (.st .unit d (t.ar a)) mk ∧
      runs (.vstx d a s mk) (.st (.indexed s) d (t.ar a)) mk ∧
      runs (.vstxo d a s mk) (.st (.ordered s) d (t.ar a)) mk ∧
      runs (.vstseg d a s mk) (.st (.seg (s.toNat + 1)) d (t.ar a)) mk ∧
      runs (.vaadd d a s mk) (.amo .add d (t.ar a) s) mk ∧
      runs (.vaand d a s mk) (.amo .and d (t.ar a) s) mk ∧
      runs (.vaor d a s mk) (.amo .or d (t.ar a) s) mk ∧
      runs (.vaxor d a s mk) (.amo .xor d (t.ar a) s) mk ∧
      runs (.vamin d a s mk) (.amo .min d (t.ar a) s) mk ∧
      runs (.vamax d a s mk) (.amo .max d (t.ar a) s) mk ∧
      runs (.vaminu d a s mk) (.amo .minu d (t.ar a) s) mk ∧
      runs (.vamaxu d a s mk) (.amo .maxu d (t.ar a) s) mk ∧
      runs (.vafadd d a s mk) (.amo .fadd d (t.ar a) s) mk ∧
      runs (.vaswap d a s mk) (.amo .swap d (t.ar a) s) mk ∧
      runs (.vacas d a s mk) (.amo .cas d (t.ar a) s) mk ∧
      runs (.vcadd d a s mk) (.camo .add d (t.ar a) s) mk ∧
      runs (.vcand d a s mk) (.camo .and d (t.ar a) s) mk ∧
      runs (.vcor d a s mk) (.camo .or d (t.ar a) s) mk ∧
      runs (.vcxor d a s mk) (.camo .xor d (t.ar a) s) mk ∧
      runs (.vcmin d a s mk) (.camo .min d (t.ar a) s) mk ∧
      runs (.vcmax d a s mk) (.camo .max d (t.ar a) s) mk ∧
      runs (.vcminu d a s mk) (.camo .minu d (t.ar a) s) mk ∧
      runs (.vcmaxu d a s mk) (.camo .maxu d (t.ar a) s) mk ∧
      runs (.vcfadd d a s mk) (.camo .fadd d (t.ar a) s) mk ∧
      runs (.vgl d a s mk) (.gl d (t.ar a) s) mk ∧
      runs (.vsc d a s k) (.sc d (t.ar a) s) (some k) ∧
      (Settled st i [u] →
        runs (.vlds d a u mk) (.ld (.strided (t.xr u)) d (t.ar a)) mk ∧ runs (.vldz d a u) (.ld (.zsb u) d (t.ar a)) none ∧
        runs (.vsts d a u mk) (.st (.strided (t.xr u)) d (t.ar a)) mk ∧ runs (.vstz d a u) (.st (.zsb u) d (t.ar a)) none))

/-- A queued vector instruction changes nothing but the queue and the program counter. The state after the issue of a vector-class instruction holds the
old queue with the entry at its end, the program counter past it, and every x, a and m register, lane word, TMEM byte and pending access as before;
with no trace ring it holds the same memory and the same other strands. (R130, R86, R410.) -/
def Obligations.IssueIntoTheVectorQueueTouchesNoRegister : Prop :=
  ∀ (st : State) (i : StrandId) (len : Nat) (op : VOp) (mk : Option (BitVec 3)),
    let t := st.strand i
    let s := queued st i len op mk
    let u := s.strand i
    u.queue = t.queue ++ [{ vEntry t op mk with time := st.now }] ∧ u.pc = t.pc + BitVec.ofNat 80 len ∧ u.issued = t.issued + 1 ∧ u.x = t.x ∧ u.a = t.a ∧ u.m = t.m ∧
    u.fcsr = t.fcsr ∧ u.vl = t.vl ∧ u.vcfg = t.vcfg ∧ u.status = t.status ∧ u.stores = t.stores ∧ u.lates = t.lates ∧
    (∀ w, (s.tile w).v = (st.tile w).v ∧ (s.tile w).tmem = (st.tile w).tmem) ∧
    ((st.quad (coreQuad i.core)).trace.log2n = 0 → s.mem = st.mem ∧ ∀ j, j ≠ i → s.strand j = st.strand j)

/-- The element functions of R145 and R146 are those of the elements as bit vectors. At every width the modular functions are the bit vector ones, shifts
take their amount modulo the width, comparisons order as signed or unsigned, and division by zero and its one overflow saturate; the saturating sums
clamp the exact result to the range. (R145, R146.) -/
def Obligations.VectorIntegerFunctionsOnBitVectors : Prop :=
  ∀ (w : Nat) (a b : BitVec w), 0 < w →
    let x := a.toNat
    let y := b.toNat
    let clamp (lo hi v : Int) : BitVec w := BitVec.ofInt w (if v < lo then lo else if hi < v then hi else v)
    let half : Int := 2 ^ (w - 1)
    VInt.add.eval w x y = (a + b).toNat ∧ VInt.sub.eval w x y = (a - b).toNat ∧ VInt.and.eval w x y = (a &&& b).toNat ∧
    VInt.or.eval w x y = (a ||| b).toNat ∧ VInt.xor.eval w x y = (a ^^^ b).toNat ∧ VInt.sll.eval w x y = (a <<< (y % w)).toNat ∧
    VInt.srl.eval w x y = (a >>> (y % w)).toNat ∧ VInt.sra.eval w x y = (a.sshiftRight (y % w)).toNat ∧
    VInt.min.eval w x y = (if a.slt b then a else b).toNat ∧ VInt.max.eval w x y = (if a.slt b then b else a).toNat ∧
    VInt.minu.eval w x y = (if a < b then a else b).toNat ∧ VInt.maxu.eval w x y = (if a < b then b else a).toNat ∧
    VInt.mul.eval w x y = (a * b).toNat ∧ VInt.mulh.eval w x y = (BitVec.ofInt w (a.toInt * b.toInt / 2 ^ w)).toNat ∧
    VInt.mulhu.eval w x y = x * y / 2 ^ w ∧
    VInt.div.eval w x y = (if b = 0 then (if a.toInt < 0 then BitVec.ofInt w (-half) else BitVec.ofInt w (half - 1))
      else clamp (-half) (half - 1) (a.toInt.tdiv b.toInt)).toNat ∧
    VInt.divu.eval w x y = (if b = 0 then BitVec.allOnes w else a / b).toNat ∧
    VInt.rem.eval w x y = (if b = 0 then a else BitVec.ofInt w (a.toInt.tmod b.toInt)).toNat ∧
    VInt.remu.eval w x y = (if b = 0 then a else a % b).toNat ∧
    VInt.sadd.eval w x y = (clamp (-half) (half - 1) (a.toInt + b.toInt)).toNat ∧ VInt.saddu.eval w x y = min (x + y) (2 ^ w - 1) ∧
    VInt.ssub.eval w x y = (clamp (-half) (half - 1) (a.toInt - b.toInt)).toNat ∧ VInt.ssubu.eval w x y = x - y ∧
    VInt.abs.eval w x y = (if a.toInt < 0 then -a else a).toNat ∧ VInt.neg.eval w x y = (-a).toNat

/-- Writing one element of a register changes that element alone. After element e of a register of a lane group is written at a width, it reads back as
the written value's low bits; every other element of the register within the group's capacity, every element of every other register, and every
register of any other group of lanes read as before. (R121, R122, R137.) -/
def Obligations.ElementWritesAreLocal : Prop :=
  ∀ (s : State) (i : StrandId) (g h : LaneGroup) (r q : BitVec 5) (w z e k v : Nat),
    w = 4 ∨ w = 8 ∨ w = 16 ∨ w = 32 ∨ w = 64 → z = 4 ∨ z = 8 ∨ z = 16 ∨ z = 32 ∨ z = 64 → 0 < g.size → g.base + g.size ≤ 32 →
    0 < h.size → h.base + h.size ≤ 32 → e < capacity g.size w →
    let s' := setElem i g r w e v s
    s'.elem i g r w e = v % 2 ^ w ∧
    (k < capacity g.size w → k ≠ e → s'.elem i g r w k = s.elem i g r w k) ∧
    (k < capacity h.size z → q ≠ r ∨ h.base + h.size ≤ g.base ∨ g.base + g.size ≤ h.base → s'.elem i h q z k = s.elem i h q z k) ∧
    (s'.strand i).dirty.getLsbD r.toNat = true ∧ s'.mem = s.mem ∧ (∀ j, (s'.strand j).x = (s.strand j).x ∧ (s'.strand j).a = (s.strand j).a)

/-- An element group of a vector instruction writes its active elements and no other. An element group without density-time at the head of its queue
completes; it writes the instruction's function of the old sources to each active element from the next one to the group's end, leaves the other elements
of the destination and every element of the other registers as they were, and collects its elements' flags; at vl the instruction leaves the queue with
the flags in fcsr. This holds of integer and floating-point arithmetic, merges, moves, element numbers, splats, integer dot products and conversions at
one width; a compare writes the mask bits of its elements, a mask instruction, VMPOPC, VMFIRST and VEXT do their whole work at once, and a
unit-stride load or store in the TMEM window reads or writes the bytes of its active elements and no other. (R129, R127, R71, R141, R145, R147, R151, R132, R152,
R153, R79, R165.) -/
def Obligations.ElementGroupsComputeTheirElements : Prop :=
  ∀ (st : State) (i : StrandId) (x : VEntry) (g : LaneGroup) (q : List VEntry) (vl : Nat) (cfg : Word),
    (st.strand i).held = false → (st.strand i).queue = x :: q → x.started = true → x.conf = some (vl, cfg) →
    st.group i = some g → 0 < g.size → g.base + g.size ≤ 32 → dtOf cfg = false → x.next < vl →
    let w := widthOf (fmtOf cfg)
    let F := vecFloat (fmtOf cfg)
    let m := (vrmOf cfg).plain
    let fz := fzOf x.fcsr
    let act := st.active i x.mreg
    let get (w : Nat) (r : BitVec 5) (e : Nat) : Nat := st.elem i g r w e
    let arg (y : VSrc) (e : Nat) : Nat := match y with | .reg r => get w r e | .const c => c.toNat % 2 ^ w
    let stop (w : Nat) : Nat := min vl ((x.next / perGroup g.size w + 1) * perGroup g.size w)
    let ends (n : Nat) (f : Flags) (r : State) : Prop := (n < vl → (r.strand i).queue = { x with next := n, flags := x.flags ||| f } :: q) ∧
      (n = vl → (r.strand i).queue = q ∧ (r.strand i).fcsr = ((st.strand i).raise (x.flags ||| f)).fcsr)
    let flags (w : Nat) (f : Nat → Flags) : Flags := ((range x.next (stop w)).filter act).foldl (fun a e => a ||| f e) 0
    let keepsX (r : State) : Prop := ∀ k, r.xr i k = st.xr i k
    let sets (w : Nat) (d : BitVec 5) (on : Nat → Bool) (f : Nat → Nat × Flags) : Prop := vl ≤ capacity g.size w →
      ∃ r, exec (.elementGroup i 0) st = .next r ∧ ends (stop w) (flags w fun e => (f e).2) r ∧ keepsX r ∧
        (∀ e, x.next ≤ e → e < stop w → on e = true → r.elem i g d w e = (f e).1 % 2 ^ w) ∧
        (∀ e, e < capacity g.size w → (e < x.next ∨ stop w ≤ e ∨ on e = false) → r.elem i g d w e = get w d e) ∧
        (∀ (k : BitVec 5) (e : Nat), k ≠ d → e < capacity g.size w → r.elem i g k w e = get w k e)
    (∀ op d s y, x.op = .int op d s y → sets w d act fun e => (op.eval w (get w s e) (arg y e), 0)) ∧
    (∀ op d s y, x.op = .fp op d s y → sets w d act fun e => op.eval F m fz (get w s e) (arg y e) (get w d e)) ∧
    (∀ d s t, x.op = .merge d s t → sets w d (fun _ => true) fun e => (if act e = true then get w t e else get w s e, 0)) ∧
    (∀ d s, x.op = .mv d s → sets w d act fun e => (get w s e, 0)) ∧
    (∀ d, x.op = .vid d → sets w d act fun e => (e, 0)) ∧
    (∀ d c, x.op = .splat d c → sets w d act fun _ => (c.toNat, 0)) ∧
    (∀ (n : Nat) (d s t : BitVec 5) (w' : Nat) (sg : Bool), x.op = .dot n d s t → n = 4 ∨ n = 8 → intFmt (fmtOf cfg) = some (w', sg) → s ≠ d → t ≠ d →
      sets 32 d act fun e => (codeOfInt 32 (get 32 d e + ((List.range n).map fun k =>
        intOfCode w' sg (get (32 / n) s (n * e + k)) * intOfCode w' sg (get (32 / n) t (n * e + k))).sum), 0)) ∧
    (∀ f d s t sf df rnd sat, x.op = .cvt f d s t sf df rnd sat → f ≠ .scaled → widthOf sf = widthOf df → cvtMode rnd cfg ≠ .stochastic →
      (∀ e, e < vl → reservedCode sf (get (widthOf sf) s e) = false) →
      sets (widthOf df) d act fun e => convert sf df (cvtMode rnd cfg) sat fz 0 (get (widthOf sf) s e)) ∧
    (∀ op d s y, x.op = .cmp op d s y → vl ≤ capacity g.size w → let f (e : Nat) : Bool × Flags := op.eval F fz w (get w s e) (arg y e)
      ∃ r, exec (.elementGroup i 0) st = .next r ∧ ends (stop w) (flags w fun e => (f e).2) r ∧ keepsX r ∧
        (∀ e, e < 4096 → (r.strand i).mbit d e = if x.next ≤ e ∧ e < stop w ∧ act e = true then (f e).1 else (st.strand i).mbit d e) ∧
        (∀ k, k ≠ d → (r.strand i).mr k = (st.strand i).mr k) ∧ (∀ u, (r.tile u).v = (st.tile u).v)) ∧
    (vl ≤ 4096 → let one (p : State → Prop) : Prop := ∃ r, exec (.elementGroup i 0) st = .next r ∧ ends vl 0 r ∧ (∀ u, (r.tile u).v = (st.tile u).v) ∧ p r
      let inside (e : Nat) : Prop := x.first ≤ e ∧ e < vl
      let xd (d : BitVec 5) (v : Word) (r : State) : Prop := r.xr i d = (if d = 0 then 0 else v) ∧ ∀ k, k ≠ d → r.xr i k = st.xr i k
      (∀ op d s t, x.op = .mask op d s t → one fun r => keepsX r ∧ (∀ e, e < 4096 → (inside e →
        (r.strand i).mbit d e = op.eval ((st.strand i).mbit s e) ((st.strand i).mbit t e)) ∧ (¬ inside e → (r.strand i).mbit d e = (st.strand i).mbit d e))) ∧
      (∀ d s, x.op = .mpopc d s → one (xd d (BitVec.ofNat 64 ((range x.first vl).filter ((st.strand i).mbit s)).length))) ∧
      (∀ d s, x.op = .mfirst d s → (∀ e, inside e → (st.strand i).mbit s e = true → (∀ k, inside k → k < e → (st.strand i).mbit s k = false) →
        one (xd d (BitVec.ofNat 64 e))) ∧ ((∀ e, inside e → (st.strand i).mbit s e = false) → one (xd d (BitVec.allOnes 64)))) ∧
      (∀ d s k, x.op = .ext d s k → one (xd d (if vl ≤ k.toNat then 0 else extWord (fmtOf cfg) w (get w s k.toNat))))) ∧
    (let n := w / 8
     let ea (base : Addr) (e : Nat) : Addr := base + BitVec.ofNat 80 (e * w / 8)
     let finds (acc : Access) (base : Addr) (u : TileId) (o : Nat) (e : Nat) : Prop := (ea base e).toNat % n = 0 ∧ inWindow (ea base e) = true ∧
       windowAddr i.core (ea base e) acc st = .ok ⟨.tmem u o, false, 0, false, none⟩ ∧ st.meets none (acc = .write) (.tmem u o) n = .free
     8 ≤ w →
     (∀ (d : BitVec 5) (base : Addr) (u : TileId) (o : Nat → Nat), x.op = .ld .unit d base →
       (∀ e, x.next ≤ e → e < stop w → act e = true → finds .read base u (o e) e ∧ st.poisoned (.tmem u (o e)) n = false) →
       sets w d act fun e => (leNat ((st.tile u).tmem.bytes (o e) n), 0)) ∧
     (∀ (s : BitVec 5) (base : Addr) (u : TileId) (o : Nat), x.op = .st .unit s base → (st.tile u).tmem.wf = true →
       (∀ a ∈ (st.strand i).stores, x.seq ≤ a.seq) → (∀ a ∈ (st.strand i).lates, x.seq ≤ a.seq) →
       (∀ e, x.next ≤ e → e < stop w → act e = true → finds .write base u (o + e * n) e) →
       ∃ r, exec (.elementGroup i 0) st = .next r ∧ ends (stop w) 0 r ∧ keepsX r ∧ (∀ t, (r.tile t).v = (st.tile t).v) ∧
         (∀ e, x.next ≤ e → e < stop w → act e = true → (r.tile u).tmem.bytes (o + e * n) n = leBytes n (get w s e)) ∧
         (∀ k, (∀ e, x.next ≤ e → e < stop w → act e = true → k < o + e * n ∨ o + e * n + n ≤ k) → (r.tile u).tmem.get k = (st.tile u).tmem.get k)))

/-- A queue entry starts where everything before it has started and its pipe is free. VSETL and VSETCFG give the vector side its length and configuration
and retire; the vector fences retire where nothing they wait for remains; an instruction that processes elements enters its pipe with the vector
side's length and configuration, at vstart, which it clears, and where it is no cross-lane instruction it then stands in its pipe; and no entry starts
behind one that has not started. A FORKL, a JOINL or, with every other queue of the tile empty, a VPART at the head acts and retires. A cross-lane
instruction at the head starts and completes at once: permutations, slides, VEXPD, VCOMP, and the sums of VRED and VSCAN write their function of the
old sources to their elements and no other. (R118, R124, R127, R130, R134, R135, R249, R180, R182, R183, R184, R186.) -/
def Obligations.QueueEntriesStartInOrder : Prop :=
  ∀ (st : State) (i : StrandId) (k : Nat) (e : VEntry), (st.strand i).held = false → (st.strand i).queue[k]? = some e → st.coreRuns i.core = true →
    e.started = false →
    let t := st.strand i
    let drop (s : State) : State := traceEvent i 0 true e.seq e.strip e.pc (s.modStrand i fun r => { (r.raise e.flags) with queue := r.queue.eraseIdx k })
    (olderStarted t k = false → exec (.vectorInstructionStart i k) st = wait st) ∧
    (olderStarted t k = true →
      (∀ n, e.op = .setl n → exec (.vectorInstructionStart i k) st = .next (drop (st.modStrand i fun r => { r with vvl := n }))) ∧
      (∀ c, e.op = .setcfg c → exec (.vectorInstructionStart i k) st = .next (drop (st.modStrand i fun r => { r with vvcfg := c }))) ∧
      (e.op = .fenceSV → t.stores.any (·.seq < e.seq) = false → t.lates.any (·.seq < e.seq) = false →
        exec (.vectorInstructionStart i k) st = .next (drop st)) ∧
      (e.op = .fenceVV → (t.queue.take k).any (fun o => o.op.memory) = false → exec (.vectorInstructionStart i k) st = .next (drop st)) ∧
      (∀ (p : Nat) (g : LaneGroup), e.op.pipe = some p → st.group i = some g → e.conf = none → e.resume = none → t.vvl ≠ 0 →
        p ≠ 3 → t.vstart.toNat < t.vvl.toNat → pipeFree i k p st = true → e.op.preCheck t.vvcfg g.size t.vvl.toNat = none →
        ∃ s, exec (.vectorInstructionStart i k) st = .next s ∧ (s.strand i).vstart = 0 ∧
          (s.strand i).queue[k]? = some { e with started := true, first := t.vstart.toNat, next := t.vstart.toNat, conf := some (t.vvl.toNat, t.vvcfg),
                                                 aux := 0, parts := [] })) ∧
    (k = 0 → ∀ (u : TileId) (n : Nat) (g : LaneGroup), i.core = .tile u → (st.tile u).groups.find? (·.2.owner = some i.slot) = some (n, g) →
      (∀ d pc c xs as, e.op = .fork d pc c xs as → c ≠ some i.slot →
        ∃ r, exec (.forklAct i) st = .next r ∧ (r.strand i).queue = t.queue.tail ∧ (r.strand i).vvl = 0) ∧
      (e.op = .join → ∃ r, exec (.joinlAct i) st = .next r ∧ (r.strand i).queue = t.queue.tail ∧ (r.strand i).vvl = 0) ∧
      (∀ x, e.op = .part x → t.queue = [e] → (∀ j ∈ slots i.core, j ≠ i → (st.strand j).queue = []) →
        ∃ r, exec (.vpartEffect u) st = .next r ∧ (r.strand i).queue = [] ∧ (r.strand i).vvl = 0)) ∧
    (k = 0 → ∀ g : LaneGroup, e.op.pipe = some 3 → st.group i = some g → 0 < g.size → g.base + g.size ≤ 32 → e.conf = none → e.resume = none →
      t.vvl ≠ 0 → t.vstart.toNat < t.vvl.toNat → pipeFree i 0 3 st = true → e.op.preCheck t.vvcfg g.size t.vvl.toNat = none →
      let vl := t.vvl.toNat
      let w := widthOf (fmtOf t.vvcfg)
      let act := (range t.vstart.toNat vl).filter fun j => st.active i e.mreg j
      let get (r : BitVec 5) (j : Nat) : Nat := st.elem i g r w j
      let wrote (d : BitVec 5) (n : BitVec 13) (f : Nat → Option Nat) : Prop := vl ≤ capacity g.size w →
        ∃ r, exec (.vectorInstructionStart i 0) st = .next r ∧ (r.strand i).queue = t.queue.tail ∧ (r.strand i).vstart = 0 ∧ (r.strand i).vl = n ∧
          (∀ j, j < capacity g.size w → r.elem i g d w j = match f j with | some v => v % 2 ^ w | none => get d j) ∧
          (∀ z j, z ≠ d → j < capacity g.size w → r.elem i g z w j = get z j)
      let each (d : BitVec 5) (on : Nat → Bool) (f : Nat → Nat) : Prop := wrote d t.vl fun j => if j ∈ act ∧ on j = true then some (f j) else none
      (∀ d s c, e.op = .perm d s c → each d (fun _ => true) fun j => if get c j < vl then get s (get c j) else 0) ∧
      (∀ d s n, e.op = .slide true d s n → each d (fun j => decide (n.toNat ≤ j)) fun j => get s (j - n.toNat)) ∧
      (∀ d s n, e.op = .slide false d s n → each d (fun _ => true) fun j => if j + n.toNat < vl then get s (j + n.toNat) else 0) ∧
      (∀ d s, e.op = .expd d s → each d (fun _ => true) fun j => get s (act.filter (· < j)).length) ∧
      (∀ d s, e.op = .comp d s → wrote d (BitVec.ofNat 13 act.length) fun j => (act[j]?).map (get s)) ∧
      (∀ d s, e.op = .red .red 0 d s → wrote d t.vl fun j => if j = 0 then some (act.map (get s)).sum else none) ∧
      (∀ d s, e.op = .red .scan 0 d s → each d (fun _ => true) fun j => ((act.filter (· ≤ j)).map (get s)).sum))

/-- An instruction that fails its check at the head takes the trap of the check. An entry at the head whose format is not accepted takes VFMT_UNSUPPORTED, one
whose length exceeds the capacity at its width VLEN_RANGE, where the issue slot is free, as a trap of the lanes that writes no element and no x
register and keeps the instruction in the held queue. (R87, R144, R143, R122, R136.) -/
def Obligations.VectorChecksTrapAtTheHead : Prop :=
  ∀ (st : State) (i : StrandId) (e : VEntry) (q : List VEntry) (g : LaneGroup) (p : Nat), (st.strand i).held = false → (st.strand i).queue = e :: q →
    st.coreRuns i.core = true → e.started = false → e.op.pipe = some p → st.group i = some g → e.conf = none → e.resume = none →
    let t := st.strand i
    t.vvl ≠ 0 → t.vstart.toNat < t.vvl.toNat → pipeFree i 0 p st = true → st.slotOpen i.core = true →
    let traps (c : BitVec 8) : Prop := ∃ r, laneTrap i e none ⟨c, 0, 0⟩ st = some r ∧ exec (.vectorInstructionStart i 0) st = .next r ∧
      let u := r.strand i
      u.held = true ∧ u.vstart = t.vstart ∧ u.x = t.x ∧ (∀ w, (r.tile w).v = (st.tile w).v) ∧
      (t.level = .U → u.level = .S ∧ u.st.cause.toNat = c.toNat + 256 ∧ u.queue.map (·.op) = t.queue.map (·.op))
    (e.op.formatOk t.vvcfg = false → traps cVfmt) ∧
    (∀ w, e.op.formatOk t.vvcfg = true → e.op.widthLimit t.vvcfg = some w → capacity g.size w < t.vvl.toNat → traps cVlenRange)

/-- VSETL, VSETCFG and SBR complete: a length granted, a configuration installed, a strip closed. VSETL grants the least of the request and the capacity, cut to whole blocks
under SCL, to xD and vl and names the strip; VSETCFG writes the masked word to vcfg and the old one to xD, or traps on an invalid word; SBR subtracts
vl from xC, advances its address registers by vl times the element size in order, and branches while the rest is positive. (R125, R126, R133, R407,
R122.) -/
def Obligations.LengthConfigurationAndStripsAreSet : Prop :=
  ∀ (st : State) (i : StrandId) (d s : BitVec 5), MayIssue st i →
    let t := st.strand i
    (MayQueue st i 4 → Settled st i [d, s] → t.pendVl = false → t.breaks = false →
      let w := widthOf (fmtOf t.vcfg)
      let g := min (t.xr s).toNat (st.lanes i * 512 / w)
      let n := if sclOf t.vcfg = true ∧ blockOf t.vcfg ≤ g then g - g % blockOf t.vcfg else g
      let name : StripName := if t.pc = t.strip.saddr then ⟨t.pc, t.strip.ord + 1, BitVec.ofNat 13 n⟩ else ⟨t.pc, 0, BitVec.ofNat 13 n⟩
      ∃ r, exec (.vsetl d s) st = .next r ∧ r.xr i d = (if d = 0 then 0 else BitVec.ofNat 64 n) ∧ (r.strand i).vl = BitVec.ofNat 13 n ∧
        (r.strand i).strip = name ∧ (r.strand i).pc = t.pc + 4 ∧ (∀ k, k ≠ d → r.xr i k = st.xr i k) ∧
        (r.strand i).queue = t.queue ++ [{ vEntry t (.setl (BitVec.ofNat 13 n)) none with strip := name, time := st.now }]) ∧
    (MayQueue st i 4 → Settled st i [d, s] →
      let v := t.xr s &&& 2047#64
      (vcfgInvalid v = true → exec (.vsetcfg d s) st = .next (takeTrap i ⟨cVcfgInvalid, 0, false, t.pc, t.pc, 0, 0⟩ st)) ∧
      (vcfgInvalid v = false → exec (.vsetcfg d s) st =
        .next (pushEntry i (vEntry t (.setcfg v) none) ((advance i 4 st).modStrand i fun r => { (r.setX d t.vcfg) with vcfg := v })))) ∧
    (∀ (a0 a1 a2 a3 : BitVec 4) (n : BitVec 3) (sz : BitVec 8) (off : BitVec 24), onControl i = false → Settled st i [d] → t.pendVl = false →
      let left := t.xr d - t.vl.setWidth 64
      let regs := ([a0, a1, a2, a3].zip [sz.toNat % 4, sz.toNat / 4 % 4, sz.toNat / 16 % 4, sz.toNat / 64]).take n.toNat
      ∃ r, exec (.sbr d a0 a1 a2 a3 n sz off) st = .next r ∧ r.xr i d = (if d = 0 then 0 else left) ∧
        (r.strand i).pc = (if 0 < left.toInt then t.pc + 4 * off.signExtend 80 else t.pc + 8) ∧
        (∀ k, (r.strand i).ar k = t.ar k + BitVec.ofNat 80 (t.vl.toNat * ((regs.filter (·.1 = k)).map fun p => 2 ^ p.2).sum)))

/-- VPART completes, and takes effect once nothing is queued before it. A VPART of an accepted word enters the queue and closes every queue of the tile, one
of another word traps with VPART_INVALID; where it is the last entry of its own queue, which no trap holds, and every other queue is empty, its effect
lays the groups out, each at the next multiple of its size, gives every strand of the tile length 0, start 0 and all registers dirty, and opens the
queues. (R124, R123, R137.) -/
def Obligations.LaneGroupsArePartitioned : Prop :=
  ∀ (st : State) (u : TileId) (k : BitVec 3) (s : BitVec 5),
    let i : StrandId := ⟨.tile u, k⟩
    let t := st.strand i
    (MayQueue st i 4 → Settled st i [s] →
      (partGroups (t.xr s) = none → exec (.vpart s) st = .next (takeTrap i ⟨cVpartInvalid, 0, false, t.pc, t.pc, 0, 0⟩ st)) ∧
      (∀ gs, partGroups (t.xr s) = some gs → (∀ g ∈ gs, ∀ o, g.2.owner = some o → (st.strand ⟨.tile u, o⟩).status ≠ .free) →
        (∀ j ∈ slots (.tile u), (st.strand j).grant = none) → ∃ r, exec (.vpart s) st = .next r ∧ (r.strand i).pc = t.pc + 4 ∧
          (r.strand i).queue = t.queue ++ [{ vEntry t (.part (t.xr s)) none with time := st.now }] ∧ r.parting (.tile u) = true ∧
          (r.tile u).groups = (st.tile u).groups)) ∧
    (∀ (e : VEntry) (x : Word) (gs : List (Nat × LaneGroup)), t.queue = [e] → e.op = .part x → t.held = false → partGroups x = some gs →
      (st.tile u).works = true → (∀ j ∈ slots (.tile u), j ≠ i → (st.strand j).queue = []) → ∃ r, exec (.vpartEffect u) st = .next r ∧
        (r.tile u).groups = gs ∧ r.parting (.tile u) = false ∧ (r.strand i).queue = [] ∧
        (∀ j ∈ slots (.tile u), (r.strand j).vl = 0 ∧ (r.strand j).vvl = 0 ∧ (r.strand j).vstart = 0 ∧
          (r.strand j).dirty = BitVec.allOnes 32 ∧ (r.strand j).x = (st.strand j).x)) ∧
    (∀ (x : Word) (gs : List (Nat × LaneGroup)), partGroups x = some gs →
      gs.Pairwise (fun a b => a.2.base + a.2.size ≤ b.2.base ∧ a.2.owner ≠ b.2.owner) ∧
      ∀ g ∈ gs, g.2.base + g.2.size ≤ 32 ∧ g.2.base % g.2.size = 0 ∧ (g.2.size = 4 ∨ g.2.size = 8 ∨ g.2.size = 16 ∨ g.2.size = 32))

/-- FORKL and JOINL complete: a lane group split for a child, and its halves joined again. FORKL reserves the lowest free slot and enters the queue, or gives 0 where none
is free, or traps on a target off a word or a group of four lanes; at the head of the queue it gives the upper half to a child at the target with the
captured registers, and with the fcsr and vcfg that the parent's vector side holds then (the model's choice of time, log entry 61). JOINL retires at
once without a child to join (a child that a queued JOINL takes back is none any more: the model's choice, log entry 91), waits for the child's slot,
enters the queue, and there doubles the group. (R134, R135.) -/
def Obligations.LaneGroupsSplitAndJoin : Prop :=
  ∀ (st : State) (u : TileId) (k : BitVec 3) (d : BitVec 5) (s : BitVec 4),
    let i : StrandId := ⟨.tile u, k⟩
    let t := st.strand i
    (MayQueue st i 4 → Settled st i [d] → t.pendVl = false →
      ((t.ar s).toNat % 4 ≠ 0 → exec (.forkl d s) st = .next (takeTrap i ⟨cJumpMisaligned, 0, false, t.pc, t.pc, t.ar s, 0⟩ st)) ∧
      ((t.ar s).toNat % 4 = 0 → st.lanes i ≤ 4 ∨ t.grant ≠ none →
        exec (.forkl d s) st = .next (takeTrap i ⟨cLaneSplit, 0, false, t.pc, t.pc, 0, 0⟩ st)) ∧
      ((t.ar s).toNat % 4 = 0 → 4 < st.lanes i → t.grant = none →
        let c := (advance i 4 st).freeSlot (.tile u)
        let w := (advance i 4 st).modStrand i fun r => { r with vl := 0, grant := c.map fun k => ⟨k, none⟩ }
        exec (.forkl d s) st = .next (pushEntry i (vEntry t (.fork d (t.ar s) c t.x t.a) none) (if c = none then w.setX i d 0 else w)))) ∧
    (∀ (e : VEntry) (q : List VEntry) (pc : Addr) (c : BitVec 3) (xs : Vector Word 32) (as : Vector Addr 16) (n : Nat) (g : LaneGroup),
      t.held = false → (st.tile u).works = true → t.queue = e :: q → e.op = .fork d pc (some c) xs as → c ≠ k →
      (st.tile u).groups.find? (·.2.owner = some k) = some (n, g) → ∃ r, exec (.forklAct i) st = .next r ∧ (r.strand i).queue = q ∧
        r.xr i d = (if d = 0 then 0 else BitVec.ofNat 64 (c.toNat + 1)) ∧ (r.strand i).vvl = 0 ∧
        (let h := r.strand ⟨.tile u, c⟩
         h.status = .running ∧ h.pc = pc ∧ h.x = xs ∧ h.a = as ∧ h.fcsr = (t.raise e.flags).fcsr ∧ (r.strand i).fcsr = h.fcsr ∧ h.vcfg = t.vvcfg ∧ h.level = t.level ∧ h.ctxcur = t.ctxcur ∧ h.vl = 0) ∧
        (r.tile u).groups = amSet (freeGroup (st.tile u).groups) ⟨g.base + g.size / 2, g.size / 2, some c⟩
          (amSet n { g with size := g.size / 2 } (st.tile u).groups)) ∧
    (let begun := traceEvent i 0 false t.issued t.strip t.pc (advance i 4 st)
     (MayQueue st i 4 → t.grant = none ∨ t.queue.any (·.op = .join) = true → exec .joinl st = .next (traceEvent i 0 true t.issued t.strip t.pc begun)) ∧
     (∀ c, MayQueue st i 4 → t.grant = some c → t.queue.any (·.op = .join) = false → t.pendVl = false →
      exec .joinl st = .next (if c.gone.isSome then
          pushEntry i (vEntry t .join none) ((advance i 4 st).modStrand i fun r => { r with vl := 0 })
        else begun.modStrand i fun r => { r with status := .blocked .join, pc := t.pc }))) ∧
    (∀ c, t.status = .blocked .join → t.grant = some c → c.gone.isSome = true → queueFull i t st = false →
      exec (.joinlWake i) st = .next (((st.modStrand i fun r => { r with vl := 0 }).modStrand i
        fun r => { r with queue := r.queue ++ [{ vEntry t .join none with seq := t.issued - 1, time := st.now }] }).modStrand i
        fun r => { r with status := .running, pc := r.pc + 4 })) ∧
    (∀ (e : VEntry) (q : List VEntry) (n : Nat) (g : LaneGroup), t.held = false → (st.tile u).works = true → t.queue = e :: q → e.op = .join →
      (st.tile u).groups.find? (·.2.owner = some k) = some (n, g) → ∃ r, exec (.joinlAct i) st = .next r ∧ (r.strand i).queue = q ∧
        (r.strand i).grant = none ∧ (r.strand i).vvl = 0 ∧ (r.strand i).dirty = BitVec.allOnes 32 ∧
        (r.tile u).groups = ((st.tile u).groups.filter fun p => !(p.2.base = g.base + g.size && p.2.size = g.size)).map fun p =>
          if p.1 = n then (n, { p.2 with size := 2 * p.2.size }) else p)

/-- Fences, cache-control instructions and ISYNC complete. A fence retires where everything it waits for is performed, a release or full fence leaving its
mark, a vector fence entering the queue; CFLUSH, CINV, CCLEAN and CZERO take a store-queue entry for the line of their address; CPF does nothing but
cut a SPLIT reservation of the line that it names; ISYNC drops the lines of the instruction cache that overlap its range. (R249, R269, R278, R279.) -/
def Obligations.FencesAndCacheControlComplete : Prop :=
  ∀ (st : State) (i : StrandId), MayIssue st i →
    let t := st.strand i
    let s := advance i 4 st
    (onControl i = true → exec .fenceSV st = .next s ∧ exec .fenceVV st = .next s ∧ exec .fenceVS st = .next s) ∧
    (MayQueue st i 4 → exec .fenceSV st = .next (queued st i 4 .fenceSV none) ∧ exec .fenceVV st = .next (queued st i 4 .fenceVV none)) ∧
    (t.live.any (·.op.memory) = false → exec .fenceVS st = .next s) ∧
    (∀ c : BitVec 3, (t.lates = [] → t.live.any (·.op.loads) = false → exec (.fence 1 c) st = .next s) ∧
      exec (.fence 2 c) st = .next (s.modStrand i fun r => { r with relFence := some t.issued }) ∧
      (t.owing t.issued = false → exec (.fence 3 c) st = .next (s.modStrand i fun r => { r with relFence := some t.issued }))) ∧
    (∀ (a : BitVec 4) (w : BitVec 1),
      ((∀ p z, Finds st i 4 (t.ar a) .read p z → p.device = true ∨ z.meets none false p.loc.lineBase 128 ≠ .cut) → exec (.cpf a w) st = .next s) ∧
      (∀ p z, Finds st i 4 (t.ar a) .read p z → p.device = false → s.meets none false p.loc.lineBase 128 = .cut →
        exec (.cpf a w) st = .next (cutRanges none false p.loc.lineBase 128 s))) ∧
    (∀ (a : BitVec 4) (x : BitVec 5), Settled st i [x] → ∃ r, exec (.isync a x) st = .next r ∧ (r.strand i).pc = t.pc + 4 ∧
      (∀ l ∈ (r.core i.core).icache, l ∈ (st.core i.core).icache) ∧
      (∀ l ∈ (st.core i.core).icache, l ∉ (r.core i.core).icache → (t.xr x).toNat ≠ 0) ∧
      (∀ l ∈ (r.core i.core).icache, (t.xr x).toNat ≠ 0 →
        128 * l.line + 128 ≤ (t.ar a).toNat ∨ (t.ar a).toNat + (t.xr x).toNat ≤ 128 * l.line) ∧
      (∀ j, r.strand j = s.strand j) ∧ r.mem = st.mem) ∧
    (∀ (a : BitVec 4) (p : Phys) (w : State), t.acquiring = false → t.releasing = false → t.stores.length < 8 →
      let ea := t.ar a
      let enters (k : StoreKind) : State := w.modStrand i fun r => { r with stores := r.stores ++ [⟨k, p, t.issued, 0, t.pc, ea⟩] }
      let free (k : StoreKind) : Prop := w.meets none k.writes p.loc.lineBase 128 ≠ .trap
      (Finds st i 4 ea .read p w →
        (free .flush → exec (.cflush a) st = .next (enters .flush)) ∧ (free .clean → exec (.cclean a) st = .next (enters .clean))) ∧
      (Finds st i 4 ea .write p w → p.device = false →
        (free .inv → exec (.cinv a) st = .next (enters .inv)) ∧
        (ea.toNat % 128 = 0 → free .zero → exec (.czero a) st = .next (enters .zero))))

/-- Major 0x39 completes, with the events of clock and trace and the strip breakpoint's stop. Where an armed breakpoint matches the VSETL at the program
counter and the vector queue holds no work, the VSETL does not happen: the strand enters the debug wait with its program counter at the VSETL and a BRK
record is written, and the VSETL has taken the issue slot (the model's choice, log entry 59); the event BREAKPOINT_STOP does the same where the parcel
at the program counter is a VSETL. TMARK writes its record; PROF.LOCK and PROF.UNLOCK note the target behind those that wait and block until it is in
force, when xD receives the lock status as it was at issue (the model's reading, with what a forced break keeps, log entry 47); BRKPT arms or disarms the
breakpoint and returns the old armed bit; CNTRD reads a counter, on a control core a free value for a tile counter (the model's choice, log entry 49);
a throttle breaks a lock in force; a sample is taken SAMPINT ac after the last; GO lets a stopped strand run on. (R407, R408, R413, R414, R415, R416,
R417, R433.) -/
def Obligations.TraceClockAndBreakpointsComplete : Prop :=
  (∀ (st : State) (i : StrandId) (d s : BitVec 5), MayIssue st i → onControl i = false →
      let t := st.strand i
      t.breaks = true → t.live = [] → t.status = .running → st.coreRuns i.core = true →
      let n := t.strip.next t.pc t.strip.vl
      let stopped (z : State) : State := traceStrand i 7 t.issued n t.pc.toNat (z.setStatus i (.blocked .debug))
      exec (.vsetl d s) st = .next (takeSlot i (stopped st)) ∧
      (∀ (p : Parcel) (ps : Parcel × Parcel) (z : State), fetchParcels i t.pc st = .ok ((p, ps), z) → isVsetl p = true → z.strand i = t →
        exec (.breakpointStop i) st = .next (stopped z)) ∧
      ((stopped st).strand i).status = .blocked .debug ∧ ((stopped st).strand i).pc = t.pc ∧ ((stopped st).strand i).x = t.x ∧
      ((stopped st).strand i).vl = t.vl) ∧
  (∀ (st : State) (i : StrandId) (d x : BitVec 5) (a : BitVec 4),
      let t := st.strand i
      let s0 := advance i 4 st
      let q := coreQuad i.core
      (MayIssue st i → Settled st i [d, x] →
        exec (.tmark x) st = .next (traceStrand i 4 t.issued t.strip (t.xr x).toNat s0) ∧
        (let c := (s0.quad q).clock
         let word : Word := 0#59 ++ c.opp ++ BitVec.ofBool c.broken ++ BitVec.ofBool c.locked
         let waits (o : Option (BitVec 3)) : Out := .next ((s0.modQuad q fun v => { v with clock := { c with target := c.target ++ [(i, o)] } }).modStrand i
           fun r => { r with status := .blocked (.clock d word), pc := t.pc })
         (t.level ≠ .U → exec (.profLock d x) st = waits (some ((t.xr x).setWidth 3)) ∧ exec (.profUnlock d) st = waits none) ∧
         (t.level = .U → ∀ k, k = Instr.profLock d x ∨ k = Instr.profUnlock d → exec k st = .next (takeTrap i ⟨cPrivilege, 0, false, t.pc, 0, 0, 0⟩ st))) ∧
        (let w := t.xr x
         ∃ r, exec (.brkpt d a x) st = .next r ∧ r.xr i d = (if d = 0 then 0 else if t.brk.armed then 1 else 0) ∧ (r.strand i).brk.addr = t.ar a ∧
           (r.strand i).brk.ord = w.setWidth 32 ∧ (r.strand i).brk.any = w.getLsbD 32 ∧ (r.strand i).brk.armed = !w.getLsbD 33) ∧
        (let n := (t.xr x).toNat % 2 ^ 16
         (t.level = .U → 0x100 ≤ n → exec (.cntrd d x) st = .next (takeTrap i ⟨cPrivilege, 0, false, t.pc, 0, 0, 0⟩ st)) ∧
         (∀ u, i.core = .tile u → n < 10 → let c := (s0.tile u).counts.toList
           exec (.cntrd d x) st = .next (s0.setX i d (if n = 2 then c.getD 0 0 + 1 - c.getD 1 0 else c.getD n 0))) ∧
         (∀ u, i.core = .control u → n < 10 → exec (.cntrd d x) st = .next (s0.fresh.2.setX i d s0.fresh.1)) ∧
         (10 ≤ n → n < 0x100 → exec (.cntrd d x) st = .next (s0.setX i d 0)) ∧
         (t.level ≠ .U → 0x100 ≤ n → exec (.cntrd d x) st = .next (s0.setX i d (
           if n < 0x107 then (s0.quad q).counts.toList.getD (n - 0x100) 0
           else if 0x200 ≤ n ∧ n < 0x207 then (s0.quad q).crucible.counter (n - 0x200) else 0))))) ∧
      (∀ (p : BitVec 2),
        let c := (st.quad p).clock
        (∀ o rest, c.target = (i, o) :: rest → ∃ r, exec (.clockLockDone p) st = .next r ∧ (r.quad p).clock.target = rest ∧
          (r.quad p).clock.broken = false ∧ (r.quad p).clock.locked = o.isSome ∧ (∀ n, o = some n → (r.quad p).clock.opp = n) ∧
          (∀ w, t.status = .blocked (.clock d w) → (r.strand i).status = .running ∧ (r.strand i).pc = t.pc + 4 ∧
            r.xr i d = (if d = 0 then 0 else w))) ∧
        (∀ e, e = Instr.clockThrottle p ∨ e = Instr.currentLimit p → ∃ r, exec e st = .next r ∧ (r.quad p).clock.locked = c.locked ∧
          (r.quad p).clock.broken = (c.broken || c.locked) ∧ (r.quad p).clock.target = c.target ∧
          (c.opp ≠ 7 → c.opp.toNat < (r.quad p).clock.opp.toNat) ∧ (c.opp = 7 → (r.quad p).clock.opp = 7)) ∧
        (let tr := (st.quad p).trace
         tr.sampint ≠ 0 → tr.log2n ≠ 0 → tr.typeen.getLsbD 4 = true → tr.sampled + 1024 ≤ st.now → tr.sampled + tr.sampint.toNat ≤ st.now →
          ∃ r, exec (.traceSample p) st = .next r ∧ (r.quad p).trace.sampled = st.now) ∧
        (∀ v : Word, ∃ r, exec (.debugGo p v) st = .next r ∧
          (∀ u : BitVec 7, i = ⟨.tile ⟨p, u⟩, (v >>> 7).setWidth 3⟩ → v.setWidth 7 = u → t.status = .blocked .debug →
            (r.strand i).status = .running ∧ (r.strand i).pc = t.pc ∧ (r.strand i).brk.pass = some t.pc))))

/-- BINR, CHPOOL, CHALLOC and the Riddle's batches complete. BINR with a valid record and an idle tag takes the lowest free job slot with xD = 1, or gives
0 where both are taken; a batch bins its 256 rows in one event, the last writes the counts with it and frees slot and tag (that a program sees a batch
whole is the model's choice, log entry 35). CHPOOL rewinds a pool and returns its chunks; CHALLOC takes the next chunk, or sets EXH and gives 0, and
links a chunk not at 0 where aT is not 0; what they write to TMEM sets full bits (the model's reading, log entry 96). (R193, R194, R195, R200, R201.) -/
def Obligations.RiddleAndLadleComplete : Prop :=
  ∀ (st : State) (u : TileId) (b : BitVec 3) (d : BitVec 5) (c a l : BitVec 4),
    let i : StrandId := ⟨.tile u, b⟩
    let t := st.strand i
    let s0 := advance i 4 st
    (∀ (p : Phys) (s : State) (r : Nat), MayIssue st i → Settled st i [d] → t.acquiring = false → (t.ar a).toNat % 128 = 0 →
      recordAt i t (t.ar a) 128 true s0 = .ok (p, s) → recordBits t p (t.ar a) 128 s = .ok r →
      (jobInvalid r = true → exec (.binr d a) st = .next (takeTrap i ⟨cRiddleInvalid, 0, false, t.pc, t.pc, 0, 0⟩ st)) ∧
      (jobInvalid r = false → ((s.tile u).tag (jobOf t b (t.ar a) r).ch).busy = false → ∃ x, exec (.binr d a) st = .next x ∧
        (freeSlotOf 2 (s.tile u).jobs = none → x.xr i d = 0 ∧ (x.tile u).jobs = (s.tile u).jobs ∧ (x.tile u).tags = (s.tile u).tags) ∧
        (∀ k, freeSlotOf 2 (s.tile u).jobs = some k → x.xr i d = (if d = 0 then 0 else 1) ∧
          amGet k (x.tile u).jobs = some (jobOf t b (t.ar a) r) ∧ ((x.tile u).tag (jobOf t b (t.ar a) r).ch).busy = true))) ∧
    (∀ (k : Nat) (j : RiddleJob) (counts : List Nat) (s : State), (st.tile u).works = true → amGet k (st.tile u).jobs = some j → j.stopped = false →
      let g := engineOf u j.issuer j.level none st
      let last := j.nrows ≤ 256 * (j.batch + 1)
      let rows := (range (256 * j.batch) (if last then j.nrows else 256 * (j.batch + 1))).map (j.row0 + ·)
      binRows g j rows j.counts st = (counts, s, none) →
      (¬ last → exec (.riddleBatch u k) st =
        .next (s.modTile u fun v => { v with jobs := amSet k { j with batch := j.batch + 1, counts := counts } v.jobs })) ∧
      (∀ r, last → writeCounts g j counts s = .ok r → ∃ x, exec (.riddleBatch u k) st = .next x ∧ amGet k (x.tile u).jobs = none ∧
        ((x.tile u).tag j.ch).busy = false)) ∧
    (let fits (r : Nat) : Prop := field r 128 80 + 64 * 2 ^ field r 384 3 ≤ field r 256 80
     let kept (r w : Nat) : Prop := field w 0 128 = field r 0 128 ∧ field w 256 160 = field r 256 160
     let taken (r w : Nat) : Prop := kept r w ∧
       (fits r → field w 128 80 = field r 128 80 + 64 * 2 ^ field r 384 3 ∧ field w 416 1 = field r 416 1 ∧
         field w 448 64 = (field r 448 64 + 1) % 2 ^ 64) ∧
       (¬ fits r → field w 128 80 = field r 128 80 ∧ field w 416 1 = 1 ∧ field w 448 64 = field r 448 64)
     let handed (p : Phys) (r w : Nat) (s : State) : State := (ladleWrite p (leBytes 64 w) s).modStrand i
       (·.setA c (if field r 128 80 + 64 * 2 ^ field r 384 3 ≤ field r 256 80 then BitVec.ofNat 80 (field r 128 80) else 0))
     ∀ (p : Phys) (s : State) (r : Nat), MayIssue st i → Settled st i [d] → t.acquiring = false → t.releasing = false → (t.ar a).toNat % 64 = 0 →
      poolInvalid r = false → r < 2 ^ 512 →
      (recordAt i t (t.ar a) 64 true s0 = .ok (p, s) → recordBits t p (t.ar a) 64 s = .ok r →
        (∃ w, kept r w ∧ field w 128 80 = field r 0 80 ∧ field w 416 1 = 0 ∧ field w 448 64 = 0 ∧ exec (.chpool d a) st =
          .next ((ladleWrite p (leBytes 64 w) s).setX i d (BitVec.ofNat 64 ((field r 256 80 - field r 0 80) / (64 * 2 ^ field r 384 3))))) ∧
        (t.ar l = 0 → ∃ w, taken r w ∧ exec (.challoc c a l) st = .next (handed p r w s))) ∧
      (∀ (q : Phys) (y z : State), t.ar l ≠ 0 → (t.ar l).toNat % 16 = 0 → recordPlace i t (t.ar a) true s0 = .ok (p, y) →
        locate i t (t.ar l) .write y = .ok (q, z) → q.device = false → recordTake i t (t.ar a) p 64 true z = .ok s → recordBits t p (t.ar a) 64 s = .ok r →
        ∃ w, taken r w ∧ (¬ fits r ∨ field r 128 80 = 0 → exec (.challoc c a l) st = .next (handed p r w s)) ∧
          (∀ x, fits r → field r 128 80 ≠ 0 → t.owing t.issued = false → recordTake i t (t.ar l) q 12 true s = .ok x →
            exec (.challoc c a l) st = .next (ladleWrite q (leBytes 12 (field r 128 80)) (handed p r w x)))))

/-- The stream data instructions complete by starting a stream. STRM.LD, STRM.LD into the fabric, STRM.ST, STRM.CP, STRM.GX and TQLD with a free slot, an
idle tag, aligned operands and records without a fault start a stream of vl positions (rows for a gather) in the lowest free slot; with vl = 0 all six
only retire (for TQLD before its declaration is asked for: the model's order, log entry 34); the five with a tag trap with CHANNEL_BUSY on a busy one;
a faulty record, a tag or rank that the form does not take, and a TMEM side outside one slot trap with SHAPE_INVALID and their code (code 12 of a copy is
taken of its source record, the model's choice of log entry 93); an altering copy whose sides overlap traps with STREAM_OVERLAP (the addresses compared
are virtual ones, the model's choice of log entry 75). (R203, R204, R205, R209, R210, R211, R214, R230.) -/
def Obligations.StreamInstructionsStartStreams : Prop :=
  ∀ (st : State) (u : TileId) (b : BitVec 3) (d s e : BitVec 4) (x y : BitVec 5) (ch : BitVec 6) (rm : BitVec 2) (tr : BitVec 1) (rnd : BitVec 3)
      (sat : BitVec 1) (k : Nat),
    let i : StrandId := ⟨.tile u, b⟩
    let t := st.strand i
    MayIssue st i → Settled st i [x] → freeSlotOf 16 (st.tile u).streams = some k → t.pendVl = false → t.acquiring = false →
    let s0 := advance i 8 st
    let n := t.vl.toNat
    let p := (t.xr x).toNat
    let stream (kind : StreamKind) (h : Shape) (pos len : Nat) (r : BitVec 2) : Stream :=
      { kind := kind, shape := h, p := pos, n := len, ch := ch, rmode := r, issuer := b, level := t.level, seq := t.issued, fence := t.relFence,
        pc := t.pc, strip := t.strip, regdue := r != 0 }
    let bad (a : Addr) (c : Nat) : Out := .next (takeTrap i ⟨cShapeInvalid, 0, false, t.pc, t.pc, a, BitVec.ofNat 64 c⟩ st)
    let retired (z : State) : Out := .next (traceEvent i 0 true t.issued t.strip t.pc (traceEvent i 0 false t.issued t.strip t.pc z))
    let all : List Instr := [.strmLd d s x ch rm, .strmLdFab s x ch rm, .strmSt d s x ch rm, .strmCp d s x ch rm tr rnd sat, .strmGx d s e ch]
    (t.vl = 0 → (∀ j ∈ all, exec j st = retired s0) ∧ (Settled st i [y] → exec (.tqld y s x) st = retired (advance i 4 st))) ∧
    (t.vl ≠ 0 → ((st.tile u).tag ch).busy = true →
      ∀ j ∈ all, exec j st = .next (takeTrap i ⟨cChannelBusy, 0, false, t.pc, t.pc, 0, 0⟩ st)) ∧
    (∀ (h : Shape) (rsv : Bool) (w : State), t.vl ≠ 0 → ((st.tile u).tag ch).busy = false → (t.ar s).toNat % 64 = 0 →
      readShape i t (t.ar s) s0 = .ok (h, rsv, w) →
      ((t.ar d).toNat % 16 = 0 → (∀ c, h.fault rsv false p n = some c → exec (.strmLd d s x ch rm) st = bad (t.ar s) c) ∧
        (∀ c, h.fault rsv true p n = some c → exec (.strmSt d s x ch rm) st = bad (t.ar s) c) ∧
        (h.fault rsv false p n = none → exec (.strmLd d s x ch rm) st = (if inOneSlot (t.ar d) ((n * h.w + 7) / 8) = true then
          .next (startStream u k i (stream (.load (t.ar d)) h p n rm) w) else bad (t.ar s) 13)) ∧
        (h.fault rsv true p n = none → exec (.strmSt d s x ch rm) st = (if inOneSlot (t.ar d) ((n * h.w + 7) / 8) = true then
          .next (startStream u k i (stream (.store (t.ar d)) h p n rm) w) else bad (t.ar s) 13)) ∧
        ((t.ar e).toNat % 4 = 0 → (∀ c, h.fault rsv false 0 0 = some c → exec (.strmGx d s e ch) st = bad (t.ar s) c) ∧
          (h.fault rsv false 0 0 = none → exec (.strmGx d s e ch) st =
            (if h.rank ≠ 2 ∨ ∃ z ∈ h.win, z ≠ 0 then bad (t.ar s) 12
             else if inOneSlot (t.ar d) ((n * h.extent 0 * h.w + 7) / 8) = true then
               .next (startStream u k i (stream (.gather (t.ar d) (t.ar e)) h 0 (n * h.extent 0) 0) w)
             else bad (t.ar s) 13)))) ∧
      (∀ c, h.fault rsv false p n = some c → exec (.strmLdFab s x ch rm) st = bad (t.ar s) c) ∧
      (h.fault rsv false p n = none → exec (.strmLdFab s x ch rm) st = .next (startStream u k i (stream .fabric h p n rm) w)) ∧
      (∀ (g : Shape) (grsv : Bool) (v : State), (t.ar d).toNat % 64 = 0 → readShape i t (t.ar d) w = .ok (g, grsv, v) →
        let copies : Prop := h.fmt = g.fmt ∨ (h.fmt ≠ 0 ∧ h.fmt ≠ 15 ∧ g.fmt ≠ 0 ∧ g.fmt ≠ 15)
        let c := stream (.copy g (tr = 1) (copyMode rnd t.vcfg) (sat = 1) (fzOf t.fcsr)) h p n rm
        (∀ m, h.fault rsv false p n = some m → exec (.strmCp d s x ch rm tr rnd sat) st = bad (t.ar s) m) ∧
        (h.fault rsv false p n = none →
          (¬ copies → exec (.strmCp d s x ch rm tr rnd sat) st = bad (t.ar s) 11) ∧
          (copies → tr = 1 → h.rank = 1 → exec (.strmCp d s x ch rm tr rnd sat) st = bad (t.ar s) 12) ∧
          (copies → tr = 0 ∨ h.rank ≠ 1 → (∀ m, g.fault grsv true p n = some m → exec (.strmCp d s x ch rm tr rnd sat) st = bad (t.ar d) (m + 128)) ∧
            (g.fault grsv true p n = none → exec (.strmCp d s x ch rm tr rnd sat) st = .next (if c.alters && c.overlaps u v then
              takeTrap i ⟨cStreamOverlap, 0, false, t.pc, t.pc, 0, 0⟩ st else startStream u k i c v)))))) ∧
    (∀ (q : Tundish) (h : Shape) (rsv : Bool) (w : State), t.vl ≠ 0 → Settled st i [y] → t.tundish = some q →
      (t.ar s).toNat % 64 = 0 → readShape i t (t.ar s) (advance i 4 st) = .ok (h, rsv, w) →
      (∀ c, h.fault rsv false p n = some c → exec (.tqld y s x) st = bad (t.ar s) c) ∧
      (h.fault rsv false p n = none → n ≤ q.g * capacity (w.lanes i) h.w → (q.bufs.getD q.next {}).state = .free →
      let f := { q.bufs.getD q.next {} with state := .loading, n := n, rank := h.rankAfter (p + n - 1), order := q.turn }
      let q' := { q with bufs := q.bufs.set q.next f, next := (q.next + 1) % q.bufs.length, turn := q.turn + 1 }
      exec (.tqld y s x) st = .next (startStream u k i { stream (.tundish q.next) h p n 0 with ch := 0 }
        ((w.modStrand i fun r => { r with tundish := some q' }).setX i y (BitVec.ofNat 64 (q.next + 1))))))

/-- A sector of a stream completes whole or faults at the resume point. Where a sector may be worked on and every access of it succeeds, SECTOR_COMPLETE
performs it, sets the full bit of every granule of TMEM that it wrote and adds the bytes written to ARR of the stream's tag in the tile they went to,
which ends a posted phase at EXP and freezes the tag beyond it; with its last sector the stream frees its slot, clears BUSY and raises its flags; where
an access of the lowest incomplete sector fails, STREAM_FAULT stops the stream, whose sectors beyond it are done again, and delivers the trap. That a
sector moves whole in one event, with a fault only at the lowest incomplete one, is the model's reading (log entry 30), and so is that a sector which is
performed again adds its bytes once (log entry 69). (R215, R217, R222, R223, R262.) -/
def Obligations.SectorsCompleteOrFault : Prop :=
  ∀ (st : State) (u : TileId) (k j : Nat) (x : Stream), (st.tile u).works = true → amGet k (st.tile u).streams = some x →
    let i : StrandId := ⟨.tile u, x.issuer⟩
    (x.spent (st.tile u) = true → (∀ b, x.kind ≠ .tundish b) → ∃ r, exec (.sectorComplete u k j) st = .next r ∧
      amGet k (r.tile u).streams = none ∧ ((r.tile u).tag x.ch).busy = false ∧
      (r.strand i).fcsr = ((st.strand i).raise x.flags).fcsr ∧ (∀ q ∈ r.ranges, ¬ (q.tile = u ∧ q.slot = k))) ∧
    (∀ y a, x.spent (st.tile u) = false → x.allows u j st = true → workSector u k x j st = some (y, a, none) →
      let r := settleSector u k y j a
      exec (.sectorComplete u k j) st = .next r ∧
      (∀ w off m bits, (Loc.tmem w off, m, bits) ∈ a.wrote → 0 < m → ∀ g, off / 16 ≤ g → g ≤ (off + m - 1) / 16 → g ∈ (r.tile w).full) ∧
      (∀ w bits, amGet w (tmemBits a.wrote) = some bits →
        let g := (a.st.tile w).tag y.ch
        let h := (r.tile w).tag y.ch
        let sum := min (g.arr.toNat + (bits + 7) / 8) (2 ^ 32 - 1)
        (y.counted.contains j = true ∨ g.frozen = true → h.arr = g.arr ∧ h.phase = g.phase) ∧
        (y.counted.contains j = false → g.frozen = false →
          (g.posted = false ∨ sum < g.exp.toNat → h.arr.toNat = sum ∧ h.phase = g.phase ∧ h.frozen = false) ∧
          (g.posted = true → sum = g.exp.toNat → h.arr = 0 ∧ h.posted = false ∧ h.phase = !g.phase ∧ h.frozen = false) ∧
          (g.posted = true → g.exp.toNat < sum → h.arr.toNat = sum ∧ h.frozen = true)))) ∧
    (x.spent (st.tile u) = false → x.allows u x.resume st = true → ∀ w a f, workSector u k x x.resume st = some (w, a, some (some f)) →
      (a.st.strand i).pend = (st.strand i).pend → (a.st.strand i).heard = (st.strand i).heard → (a.st.strand i).news = (st.strand i).news →
      a.st.now = st.now → ∃ r y z, exec (.streamFault u k) st = .next r ∧ amGet k (r.tile u).streams = some y ∧
        y.stopped = true ∧ y.done = x.done.filter (· < x.resume) ∧ (r.strand i).pend = ((st.strand i).hear z st.now).pend ∧ z.cause = f.cause ∧ z.async = true)

/-- STRM.POST, STRM.WAIT, STRM.MARK and the Tundish instructions complete. STRM.POST sets EXP and turns the phase at once where the bytes have arrived;
STRM.WAIT returns the status word of an idle tag or blocks, and its wake returns it once the stream, the job or the phase that stood at its issue is
over (that it waits for those counted at its issue is the model's reading, log entry 34); STRM.MARK enters a marker behind what the pending stream or the
engine holds (tokens that the engine holds until the fabric takes them, the model's reading of log entry 31), or joins it to a marker that is the last the
engine holds; TQDECL declares buffers, TQPOP binds the oldest buffer once it is full, and a drained buffer is free again. (R222, R224, R226, R228, R229,
R231.) -/
def Obligations.ChannelTagsAndTundishComplete : Prop :=
  ∀ (st : State) (u : TileId) (b : BitVec 3) (d x : BitVec 5) (ch : BitVec 6),
    let i : StrandId := ⟨.tile u, b⟩
    let t := st.strand i
    let g := (st.tile u).tag ch
    let word : Word := g.arr ++ 0#28 ++ BitVec.ofBool g.busy ++ BitVec.ofBool g.frozen ++ BitVec.ofBool g.posted ++ BitVec.ofBool g.phase
    let e : BitVec 32 := (t.xr x).setWidth 32
    (MayIssue st i → Settled st i [x] → g.posted = false → g.frozen = false → g.arr ≤ e → ∃ r, exec (.strmPost x ch 0) st = .next r ∧
      (r.tile u).tag ch = (if g.arr = e then { g with arr := 0, exp := e, phase := !g.phase, phases := g.phases + 1, owner := b, left := false }
        else { g with exp := e, posted := true, owner := b, left := false })) ∧
    (MayIssue st i → Settled st i [d] →
      (g.busy = false → exec (.strmWait d ch 0) st = .next ((advance i 8 st).setX i d word)) ∧
      (g.busy = true → exec (.strmWait d ch 0) st =
        .next ((advance i 8 st).modStrand i fun r => { r with status := .blocked (.stream d ch false g.ends), pc := t.pc })) ∧
      (g.frozen = false → exec (.strmWait d ch 1) st =
        .next ((advance i 8 st).modStrand i fun r => { r with status := .blocked (.stream d ch true g.phases), pc := t.pc }))) ∧
    (∀ seen form, t.status = .blocked (.stream d ch form seen) → (if form then g.phases ≠ seen else g.busy = false ∨ g.ends ≠ seen) →
      exec (.strmWaitWake i) st = .next ((st.modStrand i fun r => { r with status := .running, pc := r.pc + 8 }).setX i d word)) ∧
    (∀ (rank : BitVec 3) (last : BitVec 1), MayIssue st i →
      (st.tile u).streams.find? (fun p => p.2.ch = ch && p.2.kind = .fabric && p.2.resume < p.2.sectors) = none →
      (coalesce ch rank.toNat (last = 1) (st.tile u).fabric.feeds = none → exec (.strmMark ch rank last) st =
        .next (feedTokens u ch [markToken rank.toNat (last = 1)] (advance i 8 st))) ∧
      (∀ fs, coalesce ch rank.toNat (last = 1) (st.tile u).fabric.feeds = some fs → ∃ r, exec (.strmMark ch rank last) st = .next r ∧
        (r.tile u).fabric.feeds = fs ∧ fs.length = (st.tile u).fabric.feeds.length)) ∧
    (∀ (k : Nat) (y : Stream) (rank : BitVec 3) (last : BitVec 1), MayIssue st i →
      (st.tile u).streams.find? (fun p => p.2.ch = ch && p.2.kind = .fabric && p.2.resume < p.2.sectors) = some (k, y) →
      exec (.strmMark ch rank last) st =
        .next (setStream u k { y with marks := y.marks ++ [(rank.toNat, decide (last = 1))] } (advance i 8 st))) ∧
    (let nb := (t.xr x).toNat % 16
     let sz := 2 ^ ((t.xr x).toNat / 16 % 8)
     MayIssue st i → Settled st i [x] → t.tundish = none → nb ≤ 8 → sz ≤ 8 → (t.xr x).toNat < 128 → d.toNat % sz = 0 → d.toNat + nb * sz ≤ 32 →
      exec (.tqdecl d x) st = .next ((advance i 4 st).modStrand i fun r =>
        { r with tundish := if nb = 0 then none else some ⟨d.toNat, sz, 0, 0, List.replicate nb {}⟩ })) ∧
    (∀ (q : Tundish) (n : Nat) (f : Buffer), t.tundish = some q →
      let q1 := q.unbind t.issued
      let bound (z : Tundish) (s : State) : State :=
        (s.modStrand i fun r => { r with tundish := some { z with bufs := z.bufs.set n { f with state := .bound } } }).setX i d
          (BitVec.ofNat 64 (z.vD + n * z.g + f.n * 2 ^ 8 + f.rank * 2 ^ 21))
      let s1 := (advance i 4 st).modStrand i fun r => { r with tundish := some q1 }
      (MayIssue st i → Settled st i [d] → (q1.oldest = none → exec (.tqpop d) st = .next (s1.setX i d 0)) ∧
        (q1.oldest = some (n, f) → exec (.tqpop d) st = .next (if f.state = .full then bound q1 s1
          else s1.modStrand i fun r => { r with status := .blocked (.tundish d), pc := t.pc }))) ∧
      (t.status = .blocked (.tundish d) → q.oldest = some (n, f) → f.state = .full →
        exec (.tqpopWake i) st = .next (bound q (st.modStrand i fun r => { r with status := .running, pc := r.pc + 4 }))) ∧
      (q.bufs[n]? = some f → f.state = .draining → (∀ v ∈ t.queue, f.since ≤ v.seq) →
        exec (.bufferDrained i n) st =
          .next (st.modStrand i fun r => { r with tundish := some { q with bufs := q.bufs.set n { f with state := .free } } })))

/-- MMODE, QCLAIM, QREL, QACC, BSSET, QSTAGE, QCHAIN, MGEMM and QDRAIN complete. MMODE to the region in force only retires and else blocks with the change
noted; QCLAIM claims a free run of slots and starts its fill with xD = 1, or gives 0; QACC sets the release configuration, BSSET a stride register;
QREL, QSTAGE, QCHAIN, MGEMM and QDRAIN take a place in the array queue with the words they captured, QDRAIN blocking the strand. (R281, R284, R285,
R286, R290, R291, R296, R299, R300.) -/
def Obligations.MatrixInstructionsComplete : Prop :=
  ∀ (st : State) (u : TileId) (b : BitVec 3) (x d z : BitVec 5) (a e : BitVec 4),
    let i : StrandId := ⟨.tile u, b⟩
    MayIssue st i → Settled st i [x, d, z] →
    let t := st.strand i
    let v := st.tile u
    let s0 := advance i 4 st
    let w := (t.xr x).toNat
    let note (s : State) : State := traceEvent i 0 true t.issued t.strip t.pc (traceEvent i 0 false t.issued t.strip t.pc s)
    let entered (op : MatOp) (s : State) : State := traceEvent i 0 false t.issued t.strip t.pc
      (s.modTile u fun v => { v with mats := v.mats ++ [{ op := op, issuer := b, pc := t.pc, strip := t.strip, seq := t.issued }] })
    (w < 4 → v.mode = none →
      (BitVec.ofNat 2 w = v.region → exec (.mmode x) st = .next (note s0)) ∧
      (BitVec.ofNat 2 w ≠ v.region → (v.region = 0 → v.contextIn (BitVec.ofNat 2 w) = false) → ∃ r, exec (.mmode x) st = .next r ∧
        (r.strand i).status = .blocked .mmode ∧ (r.strand i).pc = t.pc ∧ (r.tile u).mode = some ⟨b, BitVec.ofNat 2 w⟩ ∧
        (r.tile u).region = v.region)) ∧
    (∀ (first count : Nat) (s : State), t.acquiring = false → slotRun (t.xr x) = some (first, count) → (t.ar a).toNat % 128 = 0 →
      (if t.ar a = 0 then .ok s0 else checkPlaces i t .read (pageStarts (t.ar a) (count * 16384)) s0) = Except.ok (ε := Stop) s →
      let busy := (s.tile u).claimed.any fun p => inRun first count p.1
      ∃ r, exec (.qclaim d a x) st = .next r ∧ (busy = true → r.xr i d = 0 ∧ (r.tile u).claimed = (s.tile u).claimed ∧ (r.tile u).fills = (s.tile u).fills) ∧
        (busy = false → r.xr i d = (if d = 0 then 0 else 1) ∧ (∀ k, k < count → (first + k, b) ∈ (r.tile u).claimed) ∧
          (r.tile u).fills = (s.tile u).fills ++
            [⟨first, count, if t.ar a = 0 then none else some (t.ar a), b, t.level, t.issued, t.pc, t.strip, false⟩])) ∧
    (∀ first count, slotRun (t.xr x) = some (first, count) → v.owns b first count = true → v.mats.length < 4 →
      exec (.qrel x) st = .next (entered (.rel first count) s0)) ∧
    (∀ base, v.region ≠ 0 → v.acc = [] → v.mats.any (·.op.isGemm) = false → w < 2 ^ 17 → w % 256 ≠ 0 → w / 4096 % 8 ≤ 4 →
      let o := BitVec.ofNat 4 (w / 256 % 16)
      let int := decide (w / 65536 = 1)
      (if int then 9 ≤ o.toNat ∧ o.toNat ≤ 11 else 1 ≤ o.toNat ∧ o.toNat ≤ 5) →
      tmemSide v (t.ar a) (256 * max 64 (regionCols v.region * widthOf o / 8)) = some base → ∃ r, exec (.qacc a x) st = .next r ∧
        (r.tile u).qacc = some ⟨base, w % 256, o, copyMode (BitVec.ofNat 3 (w / 4096 % 8)) t.vcfg, decide (w / 32768 % 2 = 1), int⟩) ∧
    (w < 16 → exec (.bsset d z x) st = .next (note ((s0.modStrand i fun q =>
      { q with bs := q.bs.set (w % 16) (t.xr z &&& sysRw 0x200) (Nat.mod_lt _ (by decide)) }).setX i d (t.bs.get ⟨w % 16, Nat.mod_lt _ (by decide)⟩)))) ∧
    (v.region ≠ 0 → v.mats.length < 4 →
      let s8 := advance i 8 st
      (∀ f : BitVec 1, exec (.qdrain d f) st = .next ((entered (.drain d (f = 1)) s8).modStrand i
        fun r => { r with status := .blocked (.drain d), pc := t.pc })) ∧
      (let rows := w % 2 ^ 13
       let logn := w / 2 ^ 16 % 16
       ∀ (afmt wfmt ofmt : BitVec 4) (rnd : BitVec 3) (sat : BitVec 1) (slot : BitVec 6) (src dst : Nat),
        let g : StageParam := ⟨w / 2 ^ 20 % 8, w / 2 ^ 24 % 16, slot.toNat, wfmt⟩
        let inLen := rows * 2 ^ logn * widthOf afmt / 8
        let outLen := rows * 2 ^ logn * widthOf ofmt / 8
        0 < rows → rows ≤ 4096 → 4 ≤ logn → logn ≤ 12 → g.badBlock logn = false → g.badStride logn = false → w / 2 ^ 13 % 8 = 0 →
        w / 2 ^ 23 % 2 = 0 → w < 2 ^ 28 → tmemSide v (t.ar a) inLen = some src → tmemSide v (t.ar e) outLen = some dst →
        (sidesMeet src inLen dst outLen = true → src = dst ∧ widthOf afmt = widthOf ofmt) → v.owns b slot.toNat (slotsFor (g.weightBits logn)) = true →
        exec (.qstage e a x afmt wfmt ofmt rnd sat slot) st =
          .next (entered (.chain false src dst 0 rows logn [g] afmt ofmt false (copyMode rnd t.vcfg) (sat = 1)) s8)) ∧
      (let rows := w % 2 ^ 13
       let logn := w / 2 ^ 16 % 16
       let bs0 := w / 2 ^ 20 % 16
       let nst := w / 2 ^ 24 % 16
       let chain := w / 2 ^ 32 % 2 ^ 22
       ∀ (afmt ofmt : BitVec 4) (ifmt : BitVec 1) (rnd : BitVec 3) (sat : BitVec 1) (src dst : Nat),
        let stages := (List.range (nst + 1)).map fun k => stageOf (t.bs.get (bsIndex (bs0 + k)))
        let inLen := rows * 2 ^ logn * widthOf afmt / 8
        let outLen := rows * 2 ^ logn * widthOf ofmt / 8
        let midLen := rows * 2 ^ logn * (if ifmt = 1 then 32 else 16) / 8
        0 < rows → rows ≤ 4096 → 4 ≤ logn → logn ≤ 12 → bs0 + nst ≤ 15 → w / 2 ^ 13 % 8 = 0 → w / 2 ^ 28 % 16 = 0 → w < 2 ^ 54 →
        (∀ g ∈ stages, g.badBlock logn = false ∧ g.badStride logn = false ∧ g.wfmt ≠ 0 ∧ g.wfmt.toNat ≤ 8 ∧
          v.owns b g.wslot (slotsFor (g.weightBits logn)) = true) →
        tmemSide v (t.ar a) inLen = some src → tmemSide v (t.ar e) outLen = some dst →
        chain % 64 = 0 → (nst ≠ 0 → chain + midLen ≤ 0x300000 ∧ sidesMeet src inLen chain midLen = false ∧ sidesMeet dst outLen chain midLen = false) →
        exec (.qchain e a x afmt ofmt ifmt rnd sat) st =
          .next (entered (.chain true src dst chain rows logn stages afmt ofmt (ifmt = 1) (copyMode rnd t.vcfg) (sat = 1)) s8)) ∧
      (let m := w % 512
       let kp := w / 2 ^ 16 % 16
       let aslot := w / 2 ^ 24 % 64
       let row0 := w / 2 ^ 32 % 256
       ∀ (afmt wfmt : BitVec 4) (sm : BitVec 2) (ws ss : BitVec 6) (q : QaccCfg), 0 < m → row0 + m ≤ 256 → w / 2 ^ 9 % 128 = 0 →
        w / 2 ^ 20 % 16 = 0 → w / 2 ^ 30 % 4 = 0 → w < 2 ^ 40 → v.qacc = some q → q.int = gemmIsInt afmt sm.toNat →
        (∀ p ∈ gemmRuns afmt wfmt sm.toNat m kp aslot ws.toNat ss.toNat (regionCols v.region), v.owns b p.1 p.2 = true) →
        exec (.mgemm x afmt wfmt sm ws ss) st = .next (entered (.gemm afmt wfmt sm.toNat m kp aslot ws.toNat ss.toNat row0) s8)))

/-- The events of the array, of operand memory and of leave act as their rules state. The operation at the head starts where leave is held, or
asks for leave; its rows fire in order, or stop it at a reserved code or at data in error; node links release their oldest entries; it completes after
its last row; fills, QREL and QDRAIN end as stated; leave is granted to the oldest request and revoked between operations; MMODE leaves the old region
and enters the new. (R281, R282, R284, R285, R292, R297, R298, R299, R300, R301.) -/
def Obligations.TheArrayAdvances : Prop :=
  ∀ (st : State) (u : TileId) (e : MatEntry) (q : List MatEntry), (st.tile u).works = true →
    let v := st.tile u
    let i : StrandId := ⟨.tile u, e.issuer⟩
    (v.mats = e :: q → e.started = false → e.op.computes = true →
      (v.leave = true → exec (.matrixStart u) st =
        .next (traceEvent i 6 false e.seq e.strip e.pc (st.setTile u { v with mats := { e with started := true } :: q }))) ∧
      (v.leave = false → (st.quad u.quad).waiting.any (·.tile = u) = false → exec (.matrixStart u) st = .next (requestLeave u st))) ∧
    (v.mats = e :: q → e.started = true → e.stopped = false →
      (∀ (c : Bool) (src dst chain rows logn : Nat) (stages : List StageParam) (afmt ofmt : BitVec 4) (ifp : Bool) (rnd : Nat) (sat : Bool),
        e.op = .chain c src dst chain rows logn stages afmt ofmt ifp rnd sat → e.pass < stages.length →
        (∀ s, chainRow u e src dst chain logn stages afmt ofmt ifp rnd sat st = .done s →
          exec (.rowFire u) st = .next (s.modTile u fun v => { v with mats := e.step rows :: q })) ∧
        (∀ k, chainRow u e src dst chain logn stages afmt ofmt ifp rnd sat st = .bad k →
          exec (.rowFire u) st = .next (stopArray u e k st))) ∧
      (∀ (af wf : BitVec 4) (sm m kp as ws ss row0 : Nat), e.op = .gemm af wf sm m kp as ws ss row0 → e.pass ≤ kp →
        (∀ s, gemmRow u e af wf sm m kp as ws ss row0 st = .done s →
          exec (.rowFire u) st = .next (s.modTile u fun v => { v with mats := e.step m :: q })) ∧
        (∀ k, gemmRow u e af wf sm m kp as ws ss row0 st = .bad k → exec (.rowFire u) st = .next (stopArray u e k st)))) ∧
    (∀ (node : Nat) (c : QaccCfg) (l : LinkEntry) (r : List LinkEntry), v.qacc = some c → v.link node = l :: r →
      ∃ s, exec (.rowRelease u node) st = .next s ∧ (s.tile u).link node = r ∧
        (s.tile u).tmem = v.tmem.write (c.base + l.row * rowPitch (regionCols v.region) c.ofmt +
          (node - regionBase v.region) * (widthOf c.ofmt / 8)) (leBytes (widthOf c.ofmt / 8) (c.code l.value))) ∧
    (v.mats = e :: q → e.started = true → v.rels = [] →
      (match e.op with
        | .chain _ _ _ _ _ _ stages _ _ _ _ _ => stages.length ≤ e.pass
        | .gemm _ _ _ _ kp _ _ _ _ => kp < e.pass
        | _ => False) →
      exec (.matrixComplete u) st = .next (traceEvent i 0 true e.seq e.strip e.pc (traceEvent i 6 true e.seq e.strip e.pc
        (st.setTile u { v with mats := q })))) ∧
    (∀ first count, v.mats = e :: q → e.op = .rel first count → (∀ f ∈ v.fills, overlap first count f.first f.count = false) → exec (.qrelEffect u) st = .next (traceEvent i 0 true e.seq e.strip e.pc
      (st.setTile u { v with mats := q, claimed := v.claimed.filter fun p => !inRun first count p.1 }))) ∧
    (∀ (k : Nat) (f : OmFill), v.fills[k]? = some f → f.stopped = false →
      (f.src = none → exec (.qclaimFillDone u k) st =
        .next (finishFill u k f [] (putOm u (16384 * f.first) (zeroBytes (16384 * f.count)) st))) ∧
      (∀ (a : Addr) (bad : List Addr) (s : State), f.src = some a →
        let g := engineOf u f.issuer f.level none st
        let reads := (List.range (128 * f.count)).filterMap fun n => (placeOf g.xl (a + BitVec.ofNat 80 (128 * n)) .read st).map (·, 128)
        engineHeld true ⟨.tile u, f.issuer⟩ f.seq none reads [] st = false →
        fillLines g a (16384 * f.first) (128 * f.count) 0 st = .ok (bad, s) → exec (.qclaimFillDone u k) st = .next (finishFill u k f bad s))) ∧
    (∀ (d d' : BitVec 5) (force : Bool), (st.strand i).status = .blocked (.drain d) → v.mats = e :: q → e.op = .drain d' force →
      ∃ s, exec (.qdrainWake i) st = .next s ∧ (s.strand i).status = .running ∧ (s.strand i).pc = (st.strand i).pc + 8 ∧ (s.tile u).mats = q ∧
        s.xr i d = (if d = 0 ∨ force = false then 0 else BitVec.ofNat 64 v.heldRows.length)) ∧
    (∀ (r : LeaveReq) (w : List LeaveReq), (st.quad u.quad).waiting = r :: w → r.tile = u → ((st.quad u.quad).recent st.now).length < 8 →
      ∃ s, exec (.leaveGrant u) st = .next s ∧ (s.tile u).leave = true ∧ (s.quad u.quad).waiting = w ∧ st.now ∈ (s.quad u.quad).grants) ∧
    (v.leave = true → v.mode = none → v.mats.any (·.started) = false → exec (.leaveRevoke u) st = .next (st.setTile u { v with leave := false })) ∧
    (∀ m : ModeChange, v.mode = some m →
      (v.region ≠ 0 → v.mats = [] → m.region = 0 ∨ v.contextIn m.region = false → ∃ s, exec (.matrixExit u) st = .next s ∧ (s.tile u).region = 0 ∧
        (s.tile u).acc = [] ∧ (s.tile u).qacc = none ∧ (s.tile u).leave = false ∧
        (m.region = 0 → (s.tile u).mode = none ∧ (s.strand ⟨.tile u, m.slot⟩).status = .running)) ∧
      (v.region = 0 → v.leave = true → ∃ s, exec (.matrixEntry u) st = .next s ∧ (s.tile u).region = m.region ∧ (s.tile u).mode = none ∧
        (s.strand ⟨.tile u, m.slot⟩).status = .running))

/-- Every element operation fires with its effect. An element that may fire and chooses an entry with an operation, legal and with sources that read
without a fault, fires it: the tokens read are dequeued and the firing holds the result of the operation's row of R337 (R339 for DOT4), its latency,
its predicate bit, MAC's and CNT's own register write, or the memory operation of LDT and STT; CTX and HALT also stop the element; where CNT names its
own k(n) as a destination the order of the two writes is a free choice (the model's choice, log entry 7). The slots of the tokens taken go back once the
firing relies on no prediction. (R330, R333, R334, R336, R337, R338, R339, R340, R346, R348.) -/
def Obligations.ElementOperationsFire : Prop :=
  ∀ (st : State) (e : ElemId) (x : Elem) (ctx : Nat) (sa sb da db tag : BitVec 4) (l5 : BitVec 5) (l3 : BitVec 3) (l2 : BitVec 2),
    st.cur = .elem e → st.fires e = some (x, ctx) →
    let f := (st.tile e.tile).fabric
    let fired (op : BitVec 7) (cls : ElemClass) (p q d1 d2 tg : BitVec 4) (lit : BitVec 5) (rawA rawB : Bool) (chk : Fire → Option (BitVec 8))
        (eff : Fire → Eff) (o : Out) (now : State) : Prop :=
      ∀ (c : Choice) (a b : Nat × Bool), st.choose e = some c → c.word = packElem op p q d1 d2 tg lit →
        let sh := elemShape op.toNat
        fireIllegal cls sh c.handler p q d1 d2 tg = false →
        (if sh.sa then x.source tg rawA p else .ok (0, false)) = Except.ok (ε := BitVec 8) a →
        (if sh.sb then x.source tg rawB q else .ok (0, false)) = Except.ok (ε := BitVec 8) b →
        let raw : Fire := ⟨e, x, ctx, c, tg, widthOf tg, 0, 0, if sh.sa then x.sourceTok p else none,
          match x.sourceTok p with | some k => k.data | none => x.kr (p.toNat - 8), (f.running st.now ctx).lit e.idx.toNat lit.toNat, lit.toNat, false⟩
        let r : Fire := { raw with s := a.1, u := b.1, conv := a.2 || b.2 }
        let takes := fireTakes sh c.handler p q
        let ds := x.goals c.word r.lit
        chk raw = none → o = .next (confirmElem e (modElem e (fun y => f.settle st.now e.idx.toNat
          (y.made takes (r.firing takes ds (eff r) f.newId st.now) (r.tails (cls.sumsFloats tg) ds (eff r) st.now) st.now)) now))
    let go (i : Instr) (op : BitVec 7) (cls : ElemClass) (p q d1 d2 tg : BitVec 4) (lit : BitVec 5) (raw : Bool) (chk : Fire → Option (BitVec 8))
        (eff : Fire → Eff) : Prop := fired op cls p q d1 d2 tg lit raw raw chk eff (exec i st) st
    let ok : Fire → Option (BitVec 8) := fun _ => none
    let si (r : Fire) (c : Nat) : Int := intOfCode r.w true c
    let k (r : Fire) : Nat := r.lit.toNat % 2 ^ r.w
    let m (r : Fire) : Nat := (r.x.kr (r.n % 8)).toNat % 2 ^ r.w
    let one (fl : Bool) (r : Fire) : Nat := if fl || floatTag r.f then (elemFmt r.f).rn (.fin false 1 1) else 1
    let val0 (b : Option Bool) (_ : Fire) : Eff := { lat := 1, bit := b }
    let val (lat : Nat) (v : Fire → Nat) (r : Fire) : Eff := { lat := lat, res := some (v r) }
    let cmp (lat : Nat) (fl : Bool) (p : Fire → Bool) (r : Fire) : Eff := { lat := lat, res := some (if p r then one fl r else 0), bit := some (p r) }
    go (.elemNop) 1 .none 0 0 0 0 0 0 false ok (val0 none) ∧
    go (.elemAdd sa sb da db tag) 2 .int sa sb da db tag 0 false ok (val 1 fun r => (r.s + r.u) % 2 ^ r.w) ∧
    go (.elemSub sa sb da db tag) 3 .int sa sb da db tag 0 false ok (val 1 fun r => (r.s + 2 ^ r.w - r.u) % 2 ^ r.w) ∧
    go (.elemMul sa sb da db tag) 4 .int sa sb da db tag 0 false ok (val 2 fun r => r.s * r.u % 2 ^ r.w) ∧
    go (.elemAnd sa sb da db tag) 5 .any sa sb da db tag 0 true ok (val 1 fun r => r.s &&& r.u) ∧
    go (.elemOr sa sb da db tag) 6 .any sa sb da db tag 0 true ok (val 1 fun r => r.s ||| r.u) ∧
    go (.elemXor sa sb da db tag) 7 .any sa sb da db tag 0 true ok (val 1 fun r => r.s ^^^ r.u) ∧
    go (.elemMin sa sb da db tag) 8 .int sa sb da db tag 0 false ok (val 1 fun r => if si r r.s < si r r.u then r.s else r.u) ∧
    go (.elemMax sa sb da db tag) 9 .int sa sb da db tag 0 false ok (val 1 fun r => if si r r.s < si r r.u then r.u else r.s) ∧
    go (.elemMinu sa sb da db tag) 10 .int sa sb da db tag 0 false ok (val 1 fun r => Nat.min r.s r.u) ∧
    go (.elemMaxu sa sb da db tag) 11 .int sa sb da db tag 0 false ok (val 1 fun r => Nat.max r.s r.u) ∧
    go (.elemFadd sa sb da db tag) 12 .float sa sb da db tag 0 false ok (val 3 fun r => ((elemFmt r.f).add .nearest false r.s r.u).1) ∧
    go (.elemFsub sa sb da db tag) 13 .float sa sb da db tag 0 false ok (val 3 fun r => ((elemFmt r.f).sub .nearest false r.s r.u).1) ∧
    go (.elemFmul sa sb da db tag) 14 .float sa sb da db tag 0 false ok (val 3 fun r => ((elemFmt r.f).mul .nearest false r.s r.u).1) ∧
    go (.elemFmin sa sb da db tag) 15 .float sa sb da db tag 0 false ok (val 1 fun r => ((elemFmt r.f).minMax false false r.s r.u).1) ∧
    go (.elemFmax sa sb da db tag) 16 .float sa sb da db tag 0 false ok (val 1 fun r => ((elemFmt r.f).minMax true false r.s r.u).1) ∧
    go (.elemDot4 sa sb da db tag) 17 .dot sa sb da db tag 0 true (dotIllegal sa sb) (val 3 dotValue) ∧
    go (.elemCtx l2) 41 .none 0 0 0 0 0 (l2.setWidth 5) false (ctxIllegal st) (fun r => { lat := 1, turn := some (some r.n) }) ∧
    go (.elemHalt) 42 .none 0 0 0 0 0 0 false ok (fun _ => { lat := 1, turn := some none }) ∧
    go (.elemAbs sa da db tag) 43 .int sa 0 da db tag 0 false ok (val 1 fun r => codeOfInt r.w (si r r.s).natAbs) ∧
    go (.elemPopc sa da db tag) 44 .any sa 0 da db tag 0 true ok (val 1 fun r => ((List.range r.w).filter fun n => r.s.testBit n).length) ∧
    go (.elemAddl sa da db tag l5) 18 .int sa 0 da db tag l5 false ok (val 1 fun r => (r.s + k r) % 2 ^ r.w) ∧
    go (.elemMull sa da db tag l5) 19 .int sa 0 da db tag l5 false ok (val 2 fun r => r.s * k r % 2 ^ r.w) ∧
    go (.elemAndl sa da db tag l5) 20 .any sa 0 da db tag l5 true ok (val 1 fun r => r.s &&& k r) ∧
    go (.elemShl sa da db tag l5) 21 .any sa 0 da db tag l5 true ok (val 1 fun r => r.s * 2 ^ r.n % 2 ^ r.w) ∧
    go (.elemShr sa da db tag l5) 22 .any sa 0 da db tag l5 true ok (val 1 fun r => r.s / 2 ^ r.n) ∧
    go (.elemSar sa da db tag l5) 23 .any sa 0 da db tag l5 true ok (val 1 fun r => codeOfInt r.w (si r r.s / 2 ^ r.n)) ∧
    go (.elemFma sa sb da db tag l3) 24 .float sa sb da db tag (l3.setWidth 5) false ok (val 4 fun r => ((elemFmt r.f).fma .nearest false false false r.s r.u (m r)).1) ∧
    go (.elemMac sa sb da db tag l3) 25 .both sa sb da db tag (l3.setWidth 5) false ok (fun r => let v := if floatTag r.f then ((elemFmt r.f).fma .nearest false false false r.s r.u (m r)).1 else (r.s * r.u + m r) % 2 ^ r.w; { lat := if floatTag r.f then 4 else 2, res := some v, post := [(r.n % 8, elemWord r.f v)] }) ∧
    go (.elemCmpeq sa sb da db tag l3) 26 .any sa sb da db tag (l3.setWidth 5) true ok (cmp 1 false fun r => decide (r.s = r.u)) ∧
    go (.elemCmplt sa sb da db tag l3) 27 .int sa sb da db tag (l3.setWidth 5) false ok (cmp 1 false fun r => decide (si r r.s < si r r.u)) ∧
    go (.elemCmpltu sa sb da db tag l3) 28 .int sa sb da db tag (l3.setWidth 5) false ok (cmp 1 false fun r => decide (r.s < r.u)) ∧
    go (.elemFcmplt sa sb da db tag l3) 29 .float sa sb da db tag (l3.setWidth 5) false ok (cmp 2 true fun r => ((elemFmt r.f).compare 1 false r.s r.u).1) ∧
    go (.elemFcmpeq sa sb da db tag l3) 30 .float sa sb da db tag (l3.setWidth 5) false ok (cmp 2 true fun r => ((elemFmt r.f).compare 0 false r.s r.u).1) ∧
    go (.elemSetp l3) 31 .none 0 0 0 0 0 (l3.setWidth 5) false ok (val0 (some true)) ∧
    go (.elemClrp l3) 32 .none 0 0 0 0 0 (l3.setWidth 5) false ok (val0 (some false)) ∧
    go (.elemMovp sa l3) 33 .none sa 0 0 0 0 (l3.setWidth 5) true ok (fun r => { lat := 1, bit := some (r.aw.getLsbD 0) }) ∧
    go (.elemMov sa da db tag) 34 .any sa 0 da db tag 0 false ok (fun r => { lat := 1, res := some r.s, pass := match r.tok with | some k => decide (k.kind = .control) | none => false }) ∧
    go (.elemLit da db tag l5) 35 .any 0 0 da db tag l5 false ok (val 1 fun r => k r) ∧
    go (.elemSel sa sb da db tag l3) 36 .any sa sb da db tag (l3.setWidth 5) false ok (val 1 fun r => if r.x.bit (r.n % 8) then r.s else r.u) ∧
    go (.elemDrop sa sb) 37 .none sa sb 0 0 0 0 true ok (val0 none) ∧
    go (.elemLdt sa da db tag l5) 38 .memory sa 0 da db tag l5 true waveIllegal (fun r => { lat := 1, mem := some (waveOp r true (r.x.goals r.c.word r.lit)) }) ∧
    go (.elemSteer sa da db tag l3) 45 .any sa 0 da db tag (l3.setWidth 5) false ok (val 1 fun r => r.s) ∧
    fired 39 .memory sa sb 0 0 tag l5 true false waveIllegal (fun r => { lat := 1, mem := some (waveOp r false []) }) (exec (.elemStt sa sb tag l5) st) st ∧
    (let own := da.toNat = 8 + l3.toNat ∨ db.toNat = 8 + l3.toNat
     let eff (late : Bool) (r : Fire) : Eff :=
       { lat := 1, res := some ((r.x.kr (r.n % 8)).toNat % 2 ^ r.w), pre := if late then [] else [(r.n % 8, r.x.kr (r.n % 8) + 1)],
         post := if late then [(r.n % 8, r.x.kr (r.n % 8) + 1)] else [] }
     (¬ own → fired 40 .int 0 0 da db tag (l3.setWidth 5) false false ok (eff true) (exec (.elemCnt da db tag l3) st) st) ∧
     (own → ∃ late, fired 40 .int 0 0 da db tag (l3.setWidth 5) false false ok (eff late) (exec (.elemCnt da db tag l3) st) st.fresh.2))

/-- Handler faults, illegal entries, predicate writes and results complete. A control token that names an empty entry freezes its element with
FABRIC_NOHANDLER, and a chosen word that is no operation with FABRIC_ILLEGAL; the oldest due predicate write sets its bit, keeps the firings that
predicted it rightly and squashes the others, whose tokens return; a due result writes its registers, pushes its tokens, one for the stream-out port
without a binding being discarded and counted, enters its memory operations and leaves the firings. (R46, R48, R331, R332, R337, R338, R344.) -/
def Obligations.FabricFaultsAndPredicatesSettle : Prop :=
  ∀ (st : State) (e : ElemId),
    let x := st.elemAt e
    let f := (st.tile e.tile).fabric
    (∀ (c n : Nat) (k : Token), st.fires e = some (x, c) → x.controlHead = some (n, k) → x.unconfirmed = false →
      let en := k.data.toNat % 16
      (f.running st.now c).word e.idx.toNat en = 0 → (f.running st.now c).trigger e.idx.toNat en = 0 →
      exec (.nohandlerFreeze e) st = .next (elemFault e en cFabricNoHandler 0 0 0 st)) ∧
    (∀ (n : Nat) (c : Choice), st.fires e = some (x, n) → st.choose e = some c → elemWordOk c.word = false → c.relied = [] → x.unconfirmed = false →
      exec (.fabricIllegal e) st = .next (elemFault e c.entry cFabricIllegal 0 0 0 st)) ∧
    (∀ en cause, let r := elemFault e en cause 0 0 0 st
      (r.elemAt e).status = .frozen ∧ (r.elemAt e).k = x.k ∧ (r.elemAt e).b = x.b ∧ (r.elemAt e).ins = x.ins) ∧
    (∀ (old young : List Firing) (g : Firing) (n : Nat) (v : Bool), x.firings = old ++ g :: young → (∀ h ∈ old, h.bit = none) →
      g.bit = some (n, v) → n < 8 → g.relied = [] → g.due ≤ st.now → ∃ r, exec (.predicateWriteResolve e) st = .next r ∧ st.now < (r.elemAt e).last ∧
      (r.elemAt e).bit n = v ∧ (∀ m, m ≠ n → (r.elemAt e).bit m = x.bit m) ∧
      ((∀ h ∈ young, (n, !v) ∉ h.relied) → (r.elemAt e).firings.length = x.firings.length ∧ (r.elemAt e).status = x.status ∧
        (∀ q, q < 4 → (∀ k ∈ (x.queue q).head?, k.kind ≠ .marker) → (r.elemAt e).queue q = x.queue q)) ∧
      (∀ kept h bad, young = kept ++ h :: bad → (∀ j ∈ kept, (n, !v) ∉ j.relied) → (n, !v) ∈ h.relied →
        (r.elemAt e).firings.length = old.length + 1 + kept.length ∧
        (∀ q k, bad = [] → h.taken = [(q, k)] → q < 4 → k.kind ≠ .marker → (r.elemAt e).queue q = k :: x.queue q))) ∧
    (∀ (k : Nat) (g : Firing), x.firings[k]? = some g → g.bit = none → g.sure = true → g.due ≤ st.now → (∀ h ∈ x.firings, g.due ≤ h.due) →
      (∀ h ∈ x.firings.take k, h.due ≠ g.due) → ∃ r, exec (.elementResultWrite e k) st = .next r ∧
      (r.elemAt e).firings = x.firings.eraseIdx k ∧ (r.elemAt e).ins = x.ins ∧ (r.tile e.tile).fabric.ops = f.ops ++ g.mems ∧
      (∀ n v, g.writes = [(n, v)] → n < 8 → g.acc = none → (r.elemAt e).kr n = v ∧ st.now < (r.elemAt e).last) ∧
      (∀ v, g.writes = [] → g.acc = some (false, 9, v) → ((r.elemAt e).kr 0).setWidth 32 = (x.kr 0).setWidth 32 + v.setWidth 32) ∧
      (∀ d t, g.writes = [] → g.acc = none → g.pushes = [(d, t)] → g.mems = [] → g.turn = none →
        let y := modElem e (fun _ => { x with firings := x.firings.eraseIdx k }) st
        r = (if d.toNat < 4 then sendToken e d.toNat g.ctx t y else if f.bound e.idx.toNat = true then modElem e (fun z => { z with strm := z.strm ++ [t] }) y
          else modFabric e.tile (fun h => { h with discards := h.discards + 1 }) y)))

/-- TOKEN_DELIVERY and EDGE_QUEUE_FORWARD complete. A due token that is the first of its route enters the target's input queue at its tail, or the edge
queue of the next tile, or is dropped at a closed guard; a pre-emption marker stops the element and goes ahead of them; a token of the stream engine
and a caught token enter their input with a free slot; the head of an edge queue goes on when the next queue has a slot, and its own slot goes back to
its producer. (R345, R346, R347, R370, R371, R374, R376.) -/
def Obligations.TokensTravelAndQueue : Prop :=
  ∀ (st : State) (t : TileId) (k : Nat),
    let v := st.tile t
    let f := v.fabric
    v.drains = true →
    (∀ (fl : Flight), f.flights[k]? = some fl → fl.due ≤ st.now → fl.tok.kind ≠ .preempt →
      (∀ g ∈ f.flights.take k, g.same fl = true → g.tok.kind = .preempt) →
      let out := modFabric t (fun f => { f with flights := f.flights.eraseIdx k }) st
      (∀ u c p, (st.flightLeg fl.sent t fl).1 = .drop u c p → exec (.tokenDelivery t k) st = .next (dropToken u c p fl out)) ∧
      (∀ u, (st.flightLeg fl.sent t fl).1 = .cross u → (st.tile u).snapped = false → exec (.tokenDelivery t k) st = .next (enterEdge u fl out)) ∧
      (∀ e, (st.flightLeg fl.sent t fl).1 = .arrive → gridElem t.quad fl.tx fl.ty = e → e.tile = t → (st.elemAt e).reached = none →
        (∀ c ∈ f.caught, ¬ (c.elem = e.idx ∧ c.inq = fl.inq)) → ∃ r, exec (.tokenDelivery t k) st = .next r ∧
        (r.tile t).fabric.flights = f.flights.eraseIdx k ∧
        (fl.tok.kind ≠ .marker → (∀ y, (st.elemAt e).queue fl.inq.toNat = y :: ((st.elemAt e).queue fl.inq.toNat).tail → y.kind ≠ .marker) →
          (r.elemAt e).queue fl.inq.toNat = (st.elemAt e).queue fl.inq.toNat ++ [fl.tok]))) ∧
    (∀ (fl : Flight) (e : ElemId), f.flights[k]? = some fl → fl.due ≤ st.now → fl.tok.kind = .preempt → (st.flightLeg fl.sent t fl).1 = .arrive →
      gridElem t.quad fl.tx fl.ty = e → e.tile = t → ∃ r y, exec (.tokenDelivery t k) st = .next r ∧ (r.elemAt e).reached = some y ∧
        y.getLsbD fl.inq.toNat = true) ∧
    (∀ (j : Nat) (d : Feed), k = f.flights.length + j → f.feeds[j]? = some d → v.works = true →
      (∀ g ∈ f.feeds.take j, ¬ (g.elem = d.elem ∧ g.inq = d.inq)) → (f.elem d.elem.toNat).reached = none →
      f.used d.elem.toNat d.inq.toNat + f.owed (.input d.elem d.inq) st.now < 4 → (∀ c ∈ f.caught, ¬ (c.elem = d.elem ∧ c.inq = d.inq)) →
      ∃ r, exec (.tokenDelivery t k) st = .next r ∧ (r.tile t).fabric.feeds = f.feeds.eraseIdx j) ∧
    (∀ (j : Nat) (c : Caught), k = f.flights.length + f.feeds.length + j → f.caught[j]? = some c → v.works = true →
      (∀ d ∈ f.caught.take j, ¬ (d.elem = c.elem ∧ d.inq = c.inq)) → (f.elem c.elem.toNat).ctx ≠ none → (f.elem c.elem.toNat).reached = none →
      f.held c.elem.toNat c.inq.toNat < 4 →
      ∃ r, exec (.tokenDelivery t k) st = .next r ∧ (r.tile t).fabric.caught = f.caught.eraseIdx j) ∧
    (∀ (g : EdgeQueue) (fl : Flight) (rest : List Flight), f.edges[k]? = some g → g.toks = fl :: rest → (fl.tok.slotted = true → st.room t fl 0 = true) →
      let s := modFabric t (fun f =>
        { f with
          edges := if rest = [] then f.edges.eraseIdx k else f.edges.set k { g with toks := rest }
          flights := f.flights ++ [{ fl with due := st.now + (st.flightLeg st.now t fl).2, hop := (st.flightLeg st.now t fl).2 }] }) st
      exec (.edgeQueueForward t k) st =
        .next (if fl.tok.slotted then giveBack t [⟨.edge fl.src fl.port fl.ctx, st.now + fl.hop⟩] s else s))

/-- Wave-ordered operations, the stream-out port, context switches and snapshots complete. The memory operation of a tile whose turn has come loads or
stores its aligned bytes in the tile's own window, is noted as performed in its wave, and gives a loaded value to its destinations; a fault, one of the
data among them, holds it and freezes the element; the stream-out port writes the container of its first token to the bound buffer and advances, and a token beyond TMEM freezes
the element. An element whose firings and memory operations are complete switches to the decided context once every awaited marker stands at its
queue's head, or at once where it awaits none and was offered the context: it takes the markers and runs the new context 32 ac after the cycle in which that came to hold, and the last
element to switch ends the phase; a stopped element passes its marker on; 4,096 ac after the injection every element counts as reached. That the port's position rounds up to
the token's alignment is the model's reading (log entry 40). (R348, R349,
R350, R351, R352, R367, R368, R370, R374.) -/
def Obligations.FabricMemoryPortsAndPhasesComplete : Prop :=
  (∀ (st : State) (t : TileId) (k : Nat),
      let v := st.tile t
      let f := v.fabric
      (∀ (o : MemOp), f.ops[k]? = some o → v.drains = true → o.held = false → o.due ≤ st.now → f.ordered o = true →
        let e : ElemId := ⟨t, o.elem⟩
        let ea : Addr := BitVec.ofNat 80 (twb + o.off)
        let done (s : State) : State := modFabric t (fun g => { g with ops := g.ops.eraseIdx k }.noteDone o) s
        let held := modFabric t (fun g => { g with ops := g.ops.set k { o with held := true } }) st
        (o.noacc = true → exec (.waveOperationPerform t k) st = .next (done st)) ∧
        (o.noacc = false → 0 < o.size → o.off % o.size ≠ 0 →
          exec (.waveOperationPerform t k) st = .next (elemFault e o.entry cMisaligned ea o.seq o.wave.toNat held)) ∧
        (o.noacc = false → 0 < o.size → o.off % o.size = 0 →
          (∀ g, windowAddr (.tile t) ea (if o.load then .read else .write) st = .error g →
            exec (.waveOperationPerform t k) st = .next (elemFault e o.entry g.cause g.addr o.seq o.wave.toNat held)) ∧
          (∀ p n, o.load = true → windowAddr (.tile t) ea .read st = .ok p → readPhys p o.size st = .ok n →
            exec (.waveOperationPerform t k) st = .next (finishLoad e o n (done st))) ∧
          (∀ p g, o.load = true → windowAddr (.tile t) ea .read st = .ok p → readPhys p o.size st = .error g →
            exec (.waveOperationPerform t k) st = .next (elemFault e o.entry g.cause ea o.seq o.wave.toNat held)) ∧
          (∀ p, o.load = false → o.plain = false → windowAddr (.tile t) ea .write st = .ok p →
            exec (.waveOperationPerform t k) st = .next (done (markFull p.loc o.size (writePhys none p (leBytes o.size o.data.toNat) st)))) ∧
          (∀ p, o.load = false → o.plain = true → windowAddr (.tile t) ea .write st = .ok p → ∃ r,
            exec (.waveOperationPerform t k) st = .next r ∧ (r.tile t).fabric.ops = f.ops.eraseIdx k ∧
            r.mem = (writePhys none p (leBytes o.size o.data.toNat) st).mem))) ∧
      (∀ (b : Binding) (tok : Token) (rest : List Token), f.bindings[k]? = some b → b.out = true → v.works = true → v.tmem.wf = true →
        let e : ElemId := ⟨t, b.elem⟩
        let x := f.elem b.elem.toNat
        x.reached = none → x.strm = tok :: rest →
        let w := widthOf tok.tag
        let pos := if w = 4 then b.pos else b.pos + b.pos % 2
        let off := 16 * b.boff + pos / 2
        let next := pos + w / 4
        (16 * b.boff + (next + 1) / 2 ≤ 0x300000 → ∃ r, exec (.streamOutTake t k) st = .next r ∧
          (r.tile t).fabric.bindings = f.bindings.set k { b with pos := next } ∧ (r.elemAt e).strm = rest ∧
          (∀ j, j < w / 8 → (r.tile t).tmem.get (off + j) = BitVec.ofNat 8 (tok.data.toNat / 256 ^ j))) ∧
        (0x300000 < 16 * b.boff + (next + 1) / 2 → x.status ≠ .frozen →
          exec (.streamOutTake t k) st = .next (elemFault e 0 cAbsent (BitVec.ofNat 80 (twb + 0x1C000000 + off)) 0 0 st)))) ∧
  (∀ (st : State) (e : ElemId),
      let t := e.tile
      let v := st.tile t
      let f := v.fabric
      let x := st.elemAt e
      (∀ (d old : Nat), f.decided = some d → f.decidedAt.1 < st.now → x.ctx = some old → v.works = true → x.turned = false → x.status ≠ .frozen → x.reached = none →
        x.firings = [] → (∀ o ∈ f.ops, o.elem ≠ e.idx) →
        let inm := (f.context old).inm e.idx.toNat
        (inm = 0 → x.inject = true) → (∀ n, n < 4 → inm.testBit n = true → ∃ y z, x.queue n = y :: z ∧ y.kind = .marker) →
        ∃ r, exec (.elementContextSwitch e) st = .next r ∧ (r.elemAt e).ctx = some d ∧ (r.elemAt e).status = .running ∧
          (r.elemAt e).start = Nat.max x.start (x.met.getD st.now + 32) ∧ (r.elemAt e).k = x.k ∧ (r.elemAt e).b = x.b ∧
          ((∀ q, q < 256 → q ≠ e.idx.toNat → v.inMatrix q = false → (f.elem q).turned = true) →
            (r.tile t).fabric.selected = some d ∧ (r.tile t).fabric.decided = none) ∧
          (∀ q, q < 256 → q ≠ e.idx.toNat → v.inMatrix q = false → (f.elem q).turned = false →
            (r.elemAt e).turned = true ∧ (r.tile t).fabric.decided = some d)) ∧
      (v.drains = true → x.reached ≠ none → x.sent = false → x.firings = [] →
        (∀ o ∈ f.ops, o.elem = e.idx → o.held = true ∨ f.ordered o = false) →
        let s := modElem e (fun y => { y with sent := true }) st
        exec (.elementSnapshot e) st = .next (match x.ctx with
          | some c => (List.range 4).foldl (fun s p => sendToken e p c ⟨0, 0, .preempt⟩ s) s
          | none => s)) ∧
      (∀ n, v.drains = true → f.snap = some n → n + 4096 ≤ st.now → v.snapped = false → ∃ r, exec (.markerTimeout t) st = .next r ∧
        (v.inMatrix e.idx.toNat = false → x.ctx ≠ none → (r.elemAt e).reached = some 15)))

/-- CFG.SEL, CFG.GUARD, CFG.BIND, CFG.WR and CFG.MARK complete. CFG.SEL reads the prior status into xD and does nothing more on a query, deselects on OFF,
resumes on RESUME, selects a loaded context at once where none is selected and offers it to the network where another is, which the first offer and
among those of one cycle CFG.SEL's decides; CFG.GUARD sets the guards hardware does not hold and reads them; CFG.BIND adds or removes a binding; CFG.WR
writes one item, which what fires in the same cycle does not see yet; CFG.MARK injects pre-emption markers. A FABRIC_STATE trap has 0 in TVPC (the model's reading,
log entry 23), and code 6 comes of a matrix region of the whole tile whatever the word asks, and the selector is the strand of the last CFG.SEL or
CFG.REST (the model's reading, log entry 39). (R341, R364, R366, R367, R370, R372, R376.) -/
def Obligations.FabricControlCompletes : Prop :=
  ∀ (st : State) (u : TileId) (b : BitVec 3) (d x y : BitVec 5),
    let i : StrandId := ⟨.tile u, b⟩
    MayIssue st i → Settled st i [d, x, y] →
    let t := st.strand i
    let v := st.tile u
    let f := v.fabric
    let s0 := advance i 4 st
    let w := (t.xr x).toNat
    let z := (t.xr y).toNat
    let n := w % 4
    let done (s : State) : Out := .next (noteBoth i t (s.setX i d (BitVec.ofNat 64 v.fabricStatus)))
    let stop (c : Nat) : Out := .next (takeTrap i ⟨cFabricState, 0, false, t.pc, 0, 0, BitVec.ofNat 64 c⟩ st)
    (w < 32 → v.region ≠ 1 →
      (w.testBit 4 = true → exec (.cfgSel d x) st = done s0) ∧
      (w.testBit 4 = false → w.testBit 2 = true → exec (.cfgSel d x) st = done (deselect u s0)) ∧
      (w < 16 → w.testBit 2 = false →
        (w.testBit 3 = true → f.selected = some n → exec (.cfgSel d x) st = done (resumeFabric u s0)) ∧
        (w.testBit 3 = false ∨ f.selected ≠ some n → (f.context n).loaded = false → exec (.cfgSel d x) st = stop 3) ∧
        (f.selected = none → (f.context n).loaded = true → exec (.cfgSel d x) st = done (selectNow u n b (st.now + 32) s0)) ∧
        (w.testBit 3 = false → f.selected = some n → (f.context n).loaded = true → exec (.cfgSel d x) st = done s0) ∧
        (∀ c, f.selected = some c → c ≠ n → (f.context n).loaded = true → ∃ r, exec (.cfgSel d x) st = .next r ∧
          (r.tile u).fabric.selected = some c ∧
          (f.decides 0 st.now = true → (r.tile u).fabric.decided = some n ∧ (r.tile u).fabric.selector = b) ∧
          (f.decides 0 st.now = false → (r.tile u).fabric.decided = f.decided ∧ (r.tile u).fabric.selector = f.selector)))) ∧
    (v.region = 1 → w < 32 → exec (.cfgSel d x) st = stop 6) ∧
    (field w 15 1 = 0 → field w 20 11 = 0 → w < 2 ^ 32 →
      let s := if w.testBit 31 then setGuards u (BitVec.ofNat 15 w) (BitVec.ofNat 4 (w / 2 ^ 16)) s0 else s0
      exec (.cfgGuard d x) st = .next (noteBoth i t (s.setX i d (BitVec.ofNat 64 (s.guards u))))) ∧
    (let out := w.testBit 10
     let ch := BitVec.ofNat 6 z
     w < 2 ^ 12 → field z 6 2 = 0 → z < 2 ^ 32 → (out = false → z < 2 ^ 8) →
      (w.testBit 11 = true → (∃ q ∈ f.bindings, q.out = out ∧ q.ch = ch) → exec (.cfgBind x y) st =
        .next (noteBoth i t (modFabric u (·.unbind out ch) s0))) ∧
      (w.testBit 11 = false → (∀ q ∈ f.bindings, ¬ (q.out = out ∧ q.ch = ch)) → (f.bindings.filter (·.out = out)).length < 8 →
        (out = false → s0.routeFeeds ⟨u, BitVec.ofNat 8 (w % 256)⟩ (field w 8 2) = false) → exec (.cfgBind x y) st =
        .next (noteBoth i t (modFabric u (fun f => { f with bindings :=
          f.bindings ++ [⟨BitVec.ofNat 8 (w % 256), BitVec.ofNat 2 (w / 2 ^ 8), out, ch, z / 2 ^ 8, 0⟩] }) s0)))) ∧
    ((t.level = .U → (st.quad u.quad).reqsig = false) → descriptorBad z = false →
      exec (.cfgWr d x y) st = .next (noteBoth i t ((modFabric u (fun _ =>
        if (writeItem f w z).1 = 0 then (writeItem f w z).2.remember st.now (field z 8 2) (f.context (field z 8 2)) else (writeItem f w z).2) s0).setX i d
          (BitVec.ofNat 64 (writeItem f w z).1))) ∧
      (∀ h : Fabric, h.before.1 ≠ st.now → ∀ (k n : Nat) (c : Ctx), ((h.remember st.now k c).running st.now k) = c ∧
        (st.now < n → (h.remember st.now k c).running n k = h.context k)) ∧
      (field z 10 2 = 1 → (writeItem f w z).1 = 0 ∧
        (((writeItem f w z).2.context (field z 8 2)).lit (field z 0 8) (field z 12 5)) = BitVec.ofNat 64 w) ∧
      (field z 10 2 = 0 → w < 2 ^ 56 → entryOk (BitVec.ofNat 32 w) (field w 32 24) = true → (writeItem f w z).1 = 0 ∧
        ((writeItem f w z).2.context (field z 8 2)).word (field z 0 8) (field z 12 5) = BitVec.ofNat 32 w ∧
        ((writeItem f w z).2.context (field z 8 2)).trigger (field z 0 8) (field z 12 5) = w / 2 ^ 32) ∧
      (2 ≤ field z 10 2 → f.selected = some (field z 8 2) → (writeItem f w z).1 % 256 = 10 ∧ (writeItem f w z).2 = f)) ∧
    (f.selected ≠ none → exec .cfgMark st = .next (noteBoth i t (if f.snap.isSome then s0 else markTile u s0))) ∧
    (f.selected = none → exec .cfgMark st = stop 4)

/-- CFG.LOAD, CFG.CHECK, CFG.SAVE, CFG.REST and the configuration port complete. With no acquire outstanding, an aligned area whose pages translate and
no state error of its own, each blocks its strand, CFG.SAVE after injecting markers; the end of each gives xD the result of its checks or the saved
length and lets the strand run on, having loaded the named contexts, entered the verified image, saved or restored the fabric; a port command sets
BUSY and ends with its RESULT. The model's choices are the layout that a save area has (log entry 17), TVPC 0 in a trap of a blocked operation (log
entry 23), the records that a port's RESULT 0x82 leaves (log entry 54), which pages CFG.SAVE checks at issue, and that a later fault undoes its
marking (log entry 85), and when the keys are read (log entry 89). (R361, R362, R363, R365, R377, R378.) -/
def Obligations.FabricAreasAndThePortComplete : Prop :=
  ∀ (st : State) (u : TileId) (b : BitVec 3) (d x : BitVec 5) (a : BitVec 4),
    let i : StrandId := ⟨.tile u, b⟩
    let t := st.strand i
    let v := st.tile u
    let f := v.fabric
    let ea := t.ar a
    let s0 := advance i 4 st
    let m := (t.xr x).toNat
    let waits (z r : State) (w : Wait) : Prop := (r.strand i).status = .blocked w ∧ (r.strand i).pc = t.pc ∧ (r.strand i).x = (z.strand i).x
    (∀ (n : Nat) (s z : State), MayIssue st i → Settled st i [d, x] → t.acquiring = false →
      (ea.toNat % 64 = 0 →
        (headLength 64 (fun h => if imageHeaderOk h then field h 160 32 else 0) i t ea s0 = .ok (n, s) →
          checkPlaces i t .read (pageStarts ea n) s = .ok z → ∃ r, exec (.cfgCheck d a) st = .next r ∧ waits z r (.cfgCheck d ea (z.quad u.quad).keys)) ∧
        (headLength 64 (fun h => sectionLen (field h 72 4)) i t ea s0 = .ok (n, s) → checkPlaces i t .read (pageStarts ea n) s = .ok z →
          0 < m → m < 16 → (∀ c, c < 4 → m.testBit c = true → (z.tile u).fabric.inUse c = false) →
          ∃ r, exec (.cfgLoad d a x) st = .next r ∧ waits z r (.cfgLoad d ea (BitVec.ofNat 4 m)))) ∧
      (ea.toNat % 128 = 0 →
        (headLength 128 restLen i t ea s0 = .ok (n, s) →
          checkPlaces i t .read (pageStarts ea n) s = .ok z → (z.tile u).fabric.selected = none →
          ∃ r, exec (.cfgRest d a) st = .next r ∧ waits z r (.cfgRest d ea)) ∧
        (checkPlaces i t .write (pageStarts ea (areaLen (f.ctxs.toList.filter (·.loaded)).length (if v.snapped = true then f.caught.length else 0))) s0 = .ok z →
          (z.tile u).fabric.selected ≠ none ∨ (z.tile u).fabric.snap ≠ none →
          ∃ r, exec (.cfgSave d a) st = .next r ∧ waits z r (.cfgSave d ea (z.tile u).fabric.snap.isNone) ∧ (r.tile u).fabric.snap ≠ none))) ∧
    (∀ e, let g := areaEng u i st
      (∀ keys, t.status = .blocked (.cfgCheck d e keys) →
        (∀ q, checkImage u i e keys st = .error (some q) → st.slotOpen (.tile u) = true → exec (.cfgCheckDone i) st =
          .next (lone (.tile u) (takeTrap i ⟨q.cause, 0, false, t.pc, 0, q.addr, q.detail⟩ st))) ∧
        (∀ hb s, areaRead i g e 64 st = .ok (hb, s) → imageHeaderOk (leNat hb) = false → exec (.cfgCheckDone i) st = .next (endArea i d false 1 s)) ∧
        (∀ hb s bs w, areaRead i g e 64 st = .ok (hb, s) → imageHeaderOk (leNat hb) = true →
          (g.xl.level = .U → pageWritable g.xl (spanFuel (field (leNat hb) 160 32)) e (field (leNat hb) 160 32) s = false) →
          keys.slot (field (leNat hb) 56 2) ≠ none → areaRead i g e (field (leNat hb) 160 32) s = .ok (bs, w) →
          exec (.cfgCheckDone i) st = .next (
            let c := signatureResult (keys.slot (field (leNat hb) 56 2)) bs (field (leNat hb) 128 32)
            endArea i d false c (if c = 0 then
              enterVerified u.quad ⟨BitVec.ofNat 64 (field (leNat hb) 192 64), e.toNat, field (leNat hb) 160 32, (w.strand i).ctxcur⟩ w else w)))) ∧
      (∀ k bs s, t.status = .blocked (.cfgLoad d e k) → readSection i g e st = .ok (bs, s) → exec (.cfgLoadDone i) st = .next (
        let c := sectionResult bs k.toNat
          (s.sectionVerified u.quad (s.strand i).level (s.strand i).ctxcur e.toNat bs.length (BitVec.ofNat 64 (numAt bs 0 8)))
        endArea i d true c (if c = 0 then acceptSection u bs k.toNat s else s))) ∧
      (∀ marked, t.status = .blocked (.cfgSave d e marked) → v.snapped = true →
        let z := snapTile u st
        let bs := (z.tile u).fabric.saveArea (z.guards u) (st.quad u.quad).sealKey
        (∀ q r, spanWrite (areaEng u i z) e bs z = .error (some q) → trapArea i q (if marked then endSnapshot u st else st) = some r →
          exec (.cfgSaveDone i) st = .next r) ∧
        ∀ s, spanWrite (areaEng u i z) e bs z = .ok s → ∃ r, exec (.cfgSaveDone i) st = .next r ∧ (r.strand i).status = .running ∧ (r.tile u).fabric.selected = none ∧ (r.tile u).fabric.ops = [] ∧
          r.xr i d = (if d = 0 then 0 else BitVec.ofNat 64 bs.length)) ∧
      (∀ hb s bs w, t.status = .blocked (.cfgRest d e) → areaRead i g e 128 st = .ok (hb, s) →
        areaRead i g e (restLen (leNat hb)) s = .ok (bs, w) → exec (.cfgRestDone i) st = .next (
          let c := w.areaResult u.quad (w.strand i).level bs
          endArea i d true c (if c = 0 then restoreArea u b bs w else w)))) ∧
    (st.enabled u = true →
      let cmd (o : BitVec 2) (k : Instr) : Prop := ∃ r, exec k st = .next r ∧
        (v.port.busy = true → (r.tile u).port = { v.port with op := o, ign := true }) ∧
        (v.port.busy = false → (r.tile u).port =
          { v.port with op := o, busy := true, start := st.now, cmd := o, target := v.port.addr, which := v.port.mask, keys := (st.quad u.quad).keys })
      cmd 0 (.cpLoad u) ∧ cmd 1 (.cpCheck u) ∧ cmd 2 (.cpClear u)) ∧
    (v.port.busy = true →
      let fin (o : Except (Option Nat) (Nat × State)) : Prop :=
        (∀ c s, o = .ok (c, s) → exec (.cpCommandDone u) st =
          .next (s.modTile u fun v => { v with port := { v.port with busy := false, result := BitVec.ofNat 32 c } })) ∧
        (∀ c, o = .error (some c) → exec (.cpCommandDone u) st =
          .next ((if c = 0x82 then portErrors v.port st else st).modTile u fun v => { v with port := { v.port with busy := false, result := BitVec.ofNat 32 c } }))
      (v.port.cmd = 0 → fin (portLoad u v.port.target v.port.which.toNat st)) ∧
      (v.port.cmd = 1 → fin (portCheck u v.port.target v.port.keys st)) ∧
      (v.port.cmd = 2 → v.port.start + 64 + 401 * maskCount v.port.which.toNat ≤ st.now → ∃ r, exec (.cpCommandDone u) st = .next r ∧
        (r.tile u).port = { v.port with busy := false, result := 0 } ∧ (r.tile u).fabric.selected = none ∧
        (∀ c, c < 4 → v.port.which.getLsbD c = true → (r.tile u).fabric.context c = {})))

/-- LAUNCH and LSTAT complete, and READINESS_READ, CLAIM_BEGIN and LAUNCH_SIGNAL. LAUNCH with an aligned, readable record whose dependence words and
signal word translate and that breaks no rule takes some free slot of the quadrant's table and returns the launch's handle with bit 63, the launch
ready at once where it has no dependences, and a launch of that slot that still has something to do going on beyond the table (log entry 71); with no free slot xD is 0; a record that breaks a rule traps with LAUNCH_INVALID and its code. LSTAT reads
a launch's word, cancels one that has no placed team, and reads 0 for an unknown handle. A read of a pending launch's completion word at or above its
target is noted, and the last one makes the launch ready with its stamp; a faulting word fails the launch; a team ready and unplaced for 62,500 ac
claims; 60 ac after the last team's end SIGV is added to the word at SIG, and a fault there fails the launch. That these accesses use the captured
context at level U, that a MACHINE_CHECK among them fails the launch, and what its record holds is the model's reading (log entry 42). (R307, R308, R309, R310, R311, R315,
R317.) -/
def Obligations.LaunchesCompleteInTheTable : Prop :=
  (∀ (st : State) (i : StrandId) (d x y : BitVec 5) (a : BitVec 4), MayIssue st i → Settled st i [d, x, y] →
      let t := st.strand i
      let s0 := advance i 4 st
      let q := coreQuad i.core
      (∀ (p : Phys) (s u z : State) (v : Nat), t.acquiring = false → (t.ar a).toNat % 128 = 0 → recordAt i t (t.ar a) 128 false s0 = .ok (p, s) →
        recordBits t p (t.ar a) 128 s = .ok v →
        let r := parseLaunch v
        checkPlaces i t .read (if recordDeps v ≤ 4 then r.deps.map (·.1) else []) s = .ok u →
        checkPlaces i t .write (if r.sig = 0 then [] else [r.sig]) u = .ok z →
        (t.level = .U → 10 ≤ r.prio ∨ r.ctx ≠ 0 → exec (.launch d a) st = .next (takeTrap i ⟨cPrivilege, 0, false, t.pc, 0, 0, 0⟩ st)) ∧
        ((t.level = .U → r.prio < 10 ∧ r.ctx = 0) →
          (∀ c, launchCode q t.level v z = some c →
            exec (.launch d a) st = .next (takeTrap i ⟨cLaunchInvalid, 0, false, t.pc, 0, 0, BitVec.ofNat 64 c⟩ st)) ∧
          (launchCode q t.level v z = none →
            ((∀ n, n < 512 → (z.launchSlot q n).free = false) → ∃ w, exec (.launch d a) st = .next w ∧ w.xr i d = 0 ∧
              (w.quad q).launches = (z.quad q).launches) ∧
            (∀ m, m < 512 → (z.launchSlot q m).free = true → ∃ w n l, exec (.launch d a) st = .next w ∧ n < 512 ∧ (z.launchSlot q n).free = true ∧
              w.launchAt q n = some l ∧ l.record = { r with ctx := l.record.ctx } ∧ (t.level ≠ .U → l.record.ctx = r.ctx) ∧
              (t.level = .U → l.record.ctx = t.ctxcur) ∧ l.state = (if r.deps = [] then .ready else .pending) ∧ l.teams.length = r.ntm1 + 1 ∧
              (∀ e ∈ l.teams, e.state = .waiting) ∧ (∀ k, k < 512 → k ≠ n → w.launchAt q k = z.launchAt q k) ∧
              ((z.launchSlot q n).unfinished = true → ∃ k, 512 ≤ k ∧ w.launchAt q k = z.launchAt q n) ∧
              w.xr i d = (if d = 0 then 0 else BitVec.ofNat 64 (2 ^ 63 + n + q.toNat * 2 ^ 9 + (w.launchSlot q n).gen.toNat * 2 ^ 16)) ∧
              (w.launchSlot q n).gen = (z.launchSlot q n).gen + (if (z.launchSlot q n).launch = none then 0 else 1))))) ∧
      (let op := (t.xr y).toNat
       (2 ≤ op → exec (.lstat d x y) st = .next (takeTrap i ⟨cLaunchInvalid, 0, false, t.pc, 0, 0, 10⟩ st)) ∧
       (op < 2 → s0.handled i (t.xr x).toNat = none → exec (.lstat d x y) st = .next (s0.setX i d 0)) ∧
       (∀ n l, s0.handled i (t.xr x).toNat = some (n, l) →
         (op = 0 ∨ (op = 1 ∧ l.status ≠ 1 ∧ l.status ≠ 2) → exec (.lstat d x y) st = .next ((setLaunch q n l s0).setX i d l.word)) ∧
         (op = 1 → l.status = 1 ∨ l.status = 2 →
           let c := { l with state := .cancelled }
           exec (.lstat d x y) st = .next ((setLaunch q n c s0).setX i d c.word) ∧ c.status = 6)))) ∧
  (∀ (st : State) (q : BitVec 2) (n k : Nat),
      (∀ (l : Launch) (ea : Addr) (target : Nat), st.launchAt q n = some l → l.state = .pending → l.record.deps[k]? = some (ea, target) →
        (∀ c pa, launchPlace (launchXl q l) ea .read st = .error (some (c, pa)) → exec (.readinessRead q n k) st = .next (failLaunch q n c pa st)) ∧
        (∀ p s, launchPlace (launchXl q l) ea .read st = .ok (p, s) →
          (∀ f, readPhys p 8 s = .error f → exec (.readinessRead q n k) st = .next (failLaunch q n f.cause p.loc.offset s)) ∧
          (∀ v, readPhys p 8 s = .ok v → l.met.getD k false ≠ decide (target ≤ v) → ∃ r, exec (.readinessRead q n k) st = .next r ∧
            let m := l.met.set k (decide (target ≤ v))
            r.launchAt q n = some (if m.all id then
              { l with met := m, state := .ready, stamp := s.now, teams := l.teams.map fun t => { t with since := s.now } }
              else { l with met := m }))) ∧
        (∀ c pa, ∃ f, (failLaunch q n c pa st).launchAt q n = some f ∧ f.state = .failed ∧ f.signal = false ∧ f.teams = l.teams)) ∧
      (∀ w, st.waiter q n k = some w → w.team.claim = false → w.team.since + 62500 ≤ st.now →
        exec (.claimBegin q n k) st = .next (opportunity q (setTeam q n k { w.team with claim := true } st))) ∧
      (∀ l, st.launchAt q n = some l → l.state = .done → l.signal = true → l.doneAt + 60 ≤ st.now →
        (∀ c pa, launchPlace (launchXl q l) l.record.sig .write st = .error (some (c, pa)) →
          exec (.launchSignal q n) st = .next (failLaunch q n c pa st)) ∧
        (∀ p s, launchPlace (launchXl q l) l.record.sig .write st = .ok (p, s) →
          (∀ f, atomicUpdate none p .add 8 l.record.sigv 0 s = .error f → exec (.launchSignal q n) st = .next (failLaunch q n f.cause p.loc.offset s)) ∧
          (∀ v z, atomicUpdate none p .add 8 l.record.sigv 0 s = .ok (v, z) →
            exec (.launchSignal q n) st = .next (setLaunch q n { l with signal := false } z)))))

/-- TEAM_PLACE, TEAM_FIRST_ISSUE, TEAM_END, TILE_CLEAR_DONE and TILE_LOW_POWER_ENTRY complete. The next team to be placed takes the enabled tiles of its
footprint, each of its strands at ENTRY at level U with zero registers but a14 = ARGS and a15; it issues 48 ac later; once no strand, engine or store
is left the tiles leave the team, and the last team ends its launch; a tile is idle and cleared 1,536 ac later, and may enter a low-power state after
1,250 ac more. (R311, R313, R314, R315, R402.) -/
def Obligations.TeamsArePlacedAndEnd : Prop :=
  ∀ (st : State) (q : BitVec 2) (n k ox oy : Nat),
    (∀ w, st.waiter q n k = some w → w.team.state.isSaved = false → st.nextPlaced q w ox oy = true →
      let r := w.launch.record
      let c := st.covered q r ox oy
      ox + r.twm1 < 8 → oy + r.thm1 < 9 → ∃ s, exec (.teamPlace q n k ox oy) st = .next s ∧
        ((st.launchAt q n).bind (·.team k) = some w.team → ∃ e, (s.launchAt q n).bind (·.team k) = some e ∧ e.claim = false ∧
          e.state = .resident ox oy (st.now + st.wakeTime q ox oy c)) ∧
        (∀ p ∈ c, let t := tileAt q (ox + p.1) (oy + p.2)
          (s.tile t).life = .resident ∧ (s.tile t).started = false ∧ (s.tile t).tmem = [] ∧ (s.tile t).groups = r.groups.getD [] ∧
          (∃ e, (s.tile t).res = some e ∧ e.slot = n ∧ e.team = k ∧ e.dx = p.1 ∧ e.dy = p.2 ∧ e.ntiles = c.length) ∧
          (∀ j, j ≤ r.strm1 → let u := s.strand ⟨.tile t, BitVec.ofNat 3 j⟩
            u.status = .running ∧ u.pc = r.entry ∧ u.level = .U ∧ u.ctxcur = r.ctx ∧ u.ar 14 = r.args ∧ u.ar 15 = BitVec.ofNat 80 (twb + 0x1C300000) ∧
            (∀ z, u.xr z = 0)))) ∧
    (∀ tm at', (st.launchAt q n).bind (·.team k) = some tm → tm.state = .resident ox oy at' →
      let ts := st.teamTiles q n k
      (at' + 48 ≤ st.now → (∃ t ∈ ts, (st.tile t).started = false) → (∀ t ∈ ts, (st.tile t).region = 0 ∨ (st.tile t).leave = true) →
        ∃ s, exec (.teamFirstIssue q n k) st = .next s ∧ (∀ t ∈ ts, (s.tile t).started = true ∧
          (tm.restored = false → s.tile t = { st.tile t with started := true }))) ∧
      ((∀ t ∈ ts, (st.tile t).started = true ∧ st.tileOver t = true) → ∃ s, exec (.teamEnd q n k) st = .next s ∧
        (∀ t ∈ ts, (s.tile t).life = .clearing ∧ (s.tile t).since = st.now ∧ (s.tile t).res = none ∧ (s.tile t).leave = false ∧
          (∀ j, s.strand ⟨.tile t, j⟩ = {})) ∧
        (∀ l, st.launchAt q n = some l →
          let e := { l with teams := l.teams.modify k fun t => { t with state := .ended } }
          s.launchAt q n = some (if l.state = .ready ∧ e.teams.all (fun t => t.state = .ended) = true
            then { e with state := .done, signal := l.record.sig != 0, doneAt := st.now } else e)))) ∧
    (∀ t : TileId, let v := st.tile t
      (v.life = .clearing → v.since + 1536 ≤ st.now → ∃ s, exec (.tileClearDone t) st = .next s ∧ (s.tile t).life = .idle ∧ (s.tile t).tmem = [] ∧
        (s.tile t).v = [] ∧ (s.tile t).power = v.power) ∧
      (st.enabled t = true → v.life = .idle → v.since + 1250 ≤ st.now → v.power.exit < (deepest (st.quad t.quad).lattol).exit →
        exec (.tileLowPowerEntry t) st = .next (st.setTile t { v with power := deepest (st.quad t.quad).lattol })))

/-- PREEMPT_DECISION, SWAP_OUT_SAVE and TEAM_RESTORE complete. A claiming team that does not fit is weighed once per placement opportunity: it swaps out
the lower teams of the first footprint that would fit where the save pool has room, and its place is then promised to it, else the refusal is counted; once a swapped team's engines have
drained it is saved and its tiles are cleared, or it ends where nothing is left of it; a saved team is restored at its next placement, and a corrupt
image fails its launch. The model's readings are that a claim is weighed once per opportunity (log entry 43), that the claimed place is kept for the
claimant (log entry 78), and that an image is intact where the bytes of its blocks are the ones written (log entry 79). (R316, R318, R319, R321, R322.) -/
def Obligations.TeamsSwapOutAndReturn : Prop :=
  ∀ (st : State) (q : BitVec 2) (n k : Nat),
    (∀ w, st.waiter q n k = some w → w.team.claims st.now = true → st.heldBack q w = false → w.team.weighed ≠ some (st.quad q).chances →
      st.placement q w = none → st.promised q w = none →
      let r := w.launch.record
      let chance := (st.quad q).chances
      let refused := bumpQuad q 0 1 (setTeam q n k { w.team with weighed := some chance } st)
      let free (t : TileId) : Bool := st.freeFor q w t || st.freeable r.prio t
      (st.firstFit q r w.team.state.need free = none → exec (.preemptDecision q n k) st = .next refused) ∧
      (∀ ox oy, st.firstFit q r w.team.state.need free = some (ox, oy) →
        (∀ v ∈ st.victims q r ox oy, ∀ t ∈ st.teamTiles q v.1 v.2, (st.tile t).tagged ≠ some st.now) →
        (st.poolRoom q (st.victims q r ox oy) = false → exec (.preemptDecision q n k) st = .next refused) ∧
        (st.poolRoom q (st.victims q r ox oy) = true → exec (.preemptDecision q n k) st = .next ((st.victims q r ox oy).foldl
          (fun s v => swapTeam q v.1 v.2 s) (setTeam q n k { w.team with weighed := some chance, target := some (ox, oy) } st))))) ∧
    (∀ tm ox oy at', (st.launchAt q n).bind (·.team k) = some tm → tm.state = .resident ox oy at' →
      (swapTeam q n k st).launchAt q n = (st.launchAt q n).map fun l => { l with teams := l.teams.set k { tm with state := .draining ox oy } }) ∧
    (∀ tm ox oy, (st.launchAt q n).bind (·.team k) = some tm → tm.state = .draining ox oy →
      let ts := st.teamTiles q n k
      (∀ t ∈ ts, st.drainedTile t = true) →
      ((∀ t ∈ ts, st.tileOver t = true) → exec (.swapOutSave q n k) st = .next (endTeam q n k st)) ∧
      ((∃ t ∈ ts, st.tileOver t = false) → ∃ s im e, exec (.swapOutSave q n k) st = .next s ∧ (s.launchAt q n).bind (·.team k) = some e ∧
        e.state = .saved im ∧ e.since = st.now ∧ e.claim = false ∧ im.tiles.length = ts.length ∧ im.base = st.free ∧
        im.blocks.length ≤ st.teamBlocks q n k ∧ (∀ b ∈ im.blocks, b ∉ (st.quad q).taken) ∧
        (∀ t ∈ ts, (s.tile t).life = .clearing ∧ (s.tile t).res = none))) ∧
    (∀ w im ox oy, st.waiter q n k = some w → w.team.state = .saved im → st.nextPlaced q w ox oy = true →
      (st.intact q im = false → exec (.teamRestore q n k ox oy) st = .next (failLaunch q n 0 0 (setTeam q n k { w.team with state := .waiting } st))) ∧
      (st.intact q im = true → exec (.teamRestore q n k ox oy) st = .next
        (let r := w.launch.record
         let at' := st.now + st.wakeTime q ox oy (st.covered q r ox oy)
         setTeam q n k { w.team with state := .resident ox oy at', claim := false, weighed := none, target := none, restored := true }
           (restoreTeam q r.ctx r.tmemp ox oy im st))))

/-- The state after reset, the resets, the boot and attestation. After reset every tile is idle, every launch table and queue is empty, memory lists
nothing and slot 0 of each control core runs at level M; a bus reset, a thermal shutdown and a write of 0xA5 hold every quadrant in reset, forget HBM
and keep the map of tiles; the first boot after a reset releases every quadrant, or none where the firmware does not verify (which of the two is the
device's, log entry 7), and after a failure there is no other; a command at the mailbox for a report signs the measurements by the identity key, one of level M for
an extension hashes a measurement, and one of anyone else changes nothing. The model's choices are that memory lists nothing (log entry 1), that the firmware begins in
slot 0 of each control core at level M and at local address 0 (log entry 2), that a reset forgets HBM (log entry 55), and what the fuses, the boot
flash and the identity key hold (log entry 98). (R17, R383, R420, R429, R430, R431, R432, R433.) -/
def Obligations.ResetsBootAndAttestationComplete : Prop :=
  (let s := State.reset
   s.mem = [] ∧ s.ranges = [] ∧ s.poison = [] ∧ s.home = [] ∧ StorageOk s ∧ ImagesOk s ∧ (∀ t, (s.tile t).life = .idle ∧ (s.tile t).res = none) ∧
   (∀ q, (s.quad q).launches = [] ∧ (s.quad q).waiting = [] ∧ (s.quad q).inReset = false ∧ (s.strand (bootStrand q)).status = .running ∧
     (s.strand (bootStrand q)).level = .M ∧ (s.quad q).reqsig = true) ∧
   (∀ i, (s.strand i).status ≠ .free → ∃ q, i = bootStrand q)) ∧
  ∀ st : State,
    (let r := inReset st
     exec .secondaryBusReset st = .next r ∧ exec .thermalShutdown st = .next r ∧ exec (.mgmtReset 0xA5) st = .next r ∧
     (∀ b, b ≠ 0xA5 → exec (.mgmtReset b) st = .next st) ∧
     (∀ q, (r.quad q).inReset = true ∧ (r.quad q).launches = [] ∧ (r.quad q).tilemap = (st.quad q).tilemap) ∧
     (∀ i, (r.strand i).status = .free) ∧ (∀ t, (r.tile t).life = .idle) ∧ r.dev.devnum = st.dev.devnum ∧ r.now = st.now ∧
     (∀ c ∈ r.mem, c ∈ st.mem ∧ ¬ (st.own c.1 = true ∧ regionOf (localOf c.1) = .hbm))) ∧
    (st.dev.rot = 0 → (∀ q, (st.quad q).inReset = true) → ∃ r, exec .rootOfTrustBoot st = .next r ∧
      ((r.dev.rot ≠ 0 ∧ r.strands = st.strands ∧ (∀ q, (r.quad q).inReset = true)) ∨
       (r.dev.rot = 0 ∧ (∀ q, (r.quad q).inReset = false ∧ (r.quad q).launches = (st.quad q).launches ∧ (r.strand (bootStrand q)).status = .running ∧
         (r.strand (bootStrand q)).level = .M ∧ (r.strand (bootStrand q)).pc = BitVec.ofNat 80 (r.globalPa 0))))) ∧
    (st.dev.rot ≠ 0 → ∃ r, exec .rootOfTrustBoot st = .next r ∧ { r with idle := st.idle } = st) ∧
    (∀ (nonce : BitVec 512) (who : Asker) (rest : List Asker), st.dev.asks = who :: rest → ∃ r, exec (.attestReport nonce) st = .next r ∧
      r.dev.meas = st.dev.meas ∧ r.dev.mbox = 0 ∧ r.dev.asks = rest ∧ r.dev.report.take 64 = leBytes 64 nonce.toNat ∧
      ∃ body, body.length = 384 ∧ r.dev.report = body ++ fitBytes 4627 (Config.sign st.dev.identityKey (sha3 body) st.free)) ∧
    (∀ (n : Fin 4) (g : BitVec 512) (who : Asker) (rest : List Asker), st.dev.asks = who :: rest → ∃ r, exec (.attestExtend n.val g) st = .next r ∧
      r.dev.asks = rest ∧
      (n = 0 ∨ who ≠ .levelM → r.dev.mbox = 1 ∧ r.dev.meas = st.dev.meas) ∧
      (n ≠ 0 → who = .levelM → r.dev.mbox = 0 ∧ r.dev.meas.get n = sha3 (leBytes 64 (st.dev.meas.get n).toNat ++ leBytes 64 g.toNat) ∧
        ∀ m, m ≠ n → r.dev.meas.get m = st.dev.meas.get m))

/-- Accesses from outside, installs, link events and uncorrectable errors complete. Coherent requests, Ndeit transactions and atomics act on this device's
HBM where no reservation stands in their way, cutting SPLIT ones, and an uncorrectable error that they read is recorded; tagged and BAR writes write their bytes; a line of another owner that is taken holds
free bytes; the Crucible installs a tag; link ports train, retrain, fail and count replays; an error poisons a line of memory, TMEM
or operand memory, traps a strand, precisely or not, or stops some work of an engine, or is recorded. The model's choices are what outside requests do at
reservations and the BAR's order (log entry 51), the free bytes of a line that is taken (log entry 52), the training of a link (log entry 53) and
the record types and the free choice of the address and the work at fault (log entry 54). (R220, R264, R265, R266, R271, R393, R420, R422, R424, R425, R426.) -/
def Obligations.OutsideAccessesComplete : Prop :=
  ∀ (st : State) (a n : Nat) (bs : List Byte),
    (st.own a = true → regionOf (localOf a) = .hbm → 0 < n → a % 128 + n ≤ 128 → bs.length = n →
      let reads (o : Out) : Prop := (st.meets none false (.mem a) n = .free → o = .next (notePoison a n (noteOuter a st))) ∧
        (st.meets none false (.mem a) n = .cut → o = .next (notePoison a n (noteOuter a (cutRanges none false (.mem a) n st))))
      let writes (f : State → State) (o : Out) : Prop := (st.meets none true (.mem a) n = .free → o = .next (f (noteOuter a st))) ∧
        (st.meets none true (.mem a) n = .cut → o = .next (f (noteOuter a (cutRanges none true (.mem a) n st))))
      reads (exec (.cxlRequest (.read a n)) st) ∧ reads (exec (.ndeitLoad a n) st) ∧
      writes (writeMem none a bs) (exec (.cxlRequest (.write a bs)) st) ∧ writes (writeMem none a bs) (exec (.ndeitStore a bs) st) ∧
      (∀ (op : BitVec 5) (k : AmoOp) (x y : BitVec 64), amoOfCode op.toNat = some k → n = 4 ∨ n = 8 → a % n = 0 →
        let p : Phys := ⟨.mem a, false, 0, true, none⟩
        writes (fun s => match atomicUpdate none p k n (x.toNat % 2 ^ (8 * n)) (y.toNat % 2 ^ (8 * n)) s with | .ok (_, s) => s | .error _ => notePoison a n s)
          (exec (.ndeitAtomic op a n x y) st) ∧
        (k ≠ .swap → k ≠ .cas → writes (applyPartial k ⟨p, 0, n, x.toNat % 2 ^ (8 * n)⟩) (exec (.ndeitReduction op a n x) st)))) ∧
    (∀ line, (st.homed line = true → st.meets none false (.mem (128 * line)) 128 = .free → exec (.ndeitCoherence line) st = .next st) ∧
      (st.homed line = false → st.own (128 * line) = false → exec (.ndeitCoherence line) st = .next (refetch line st)) ∧
      (st.own (128 * line) = true → regionOf (localOf (128 * line)) = .cxl → exec (.backInvalidate line) st = .next (refetch line st)) ∧
      (st.homed line = true → ∃ r, exec (.lineInstall (homeQuad line) line) st = .next r ∧ r.mem = st.mem ∧
        ∃ t ∈ (r.quad (homeQuad line)).crucible.tags, t.line = line)) ∧
    (∀ src : BitVec 21, bs ≠ [] → a < 2 ^ 37 → exec (.taggedWrite src a bs) st = .next (taggedWrite a bs st) ∧
      exec (.hostBarAccess .bar4 (.write a bs)) st = .next (taggedWrite a bs st)) ∧
    (a + n ≤ 0x8000000000 → bs.length = n → exec (.hostBarAccess .bar2 (.read a n)) st = .next (notePoison (st.globalPa a) n st) ∧
      exec (.hostBarAccess .bar2 (.write a bs)) st = .next (barWrite (st.globalPa a) bs st)) ∧
    (a + n ≤ 2 ^ 37 → exec (.hostBarAccess .bar4 (.read a n)) st = .next st) ∧
    (n = 1 ∨ n = 2 ∨ n = 4 ∨ n = 8 → a % n = 0 → a < 0x2000000 → bs.length = n → exec (.hostBarAccess .bar0 (.read a n)) st = .next st ∧
      exec (.hostBarAccess .bar0 (.write a bs)) st = .next (barReg (regionOf (0x8000000000 + a)) bs st)) ∧
    (∀ p : BitVec 4, let v := st.port p
      (v.state = 2 → ∃ r w, exec (.flitReplay p) st = .next r ∧ r.port p = { v with replay := w } ∧
        w.toNat = min (v.replay.toNat + 1) (2 ^ 24 - 1)) ∧
      (v.state = 2 → ∃ r w, exec (.linkRetrain p) st = .next r ∧ r.port p = { v with state := 1, retrain := w } ∧
        w.toNat = min (v.retrain.toNat + 1) (2 ^ 16 - 1)) ∧
      (v.state = 1 → v.retrain ≠ 0 → ∀ ok, ∃ r, exec (.linkRetrainDone p ok) st = .next r ∧
        r.port p = (if ok then { v with state := 2 } else { v with state := 3, lanes := 0 }) ∧
        (ok = false → (st.quad 0).errsize.toNat % 32 ≠ 0 →
          (r.quad 0).errors = (st.quad 0).errors + (if (ringWrite (st.quad 0).errbase ((st.quad 0).errsize.toNat % 32) 64 [] st).1 then 1 else 0)) ∧
        (ok = true ∨ (st.quad 0).errsize.toNat % 32 = 0 → (r.quad 0).errors = (st.quad 0).errors)) ∧
      (v.state = 0 ∨ v.state = 1 → st.dev.unnumbered = false → ∃ r l, exec (.linkTrainingDone p) st = .next r ∧ r.port p = { v with state := 2, lanes := l } ∧ 1 ≤ l.toNat ∧
        l.toNat ≤ 4)) ∧
    (∀ line, st.homed line = true → ∃ r, exec (.uncorrectableError (.memoryLine line)) st = .next r ∧ ⟨.mem line, 0⟩ ∈ r.poison ∧ r.mem = st.mem) ∧
    (∀ t line, (line < 24576 → ∃ r, exec (.uncorrectableError (.tmemLine t line)) st = .next r ∧ ⟨.tmem t line, 0⟩ ∈ r.poison ∧ r.tiles = st.tiles) ∧
      (line < 8192 → ∃ r, exec (.uncorrectableError (.omLine t line)) st = .next r ∧ ⟨.om t line, 0⟩ ∈ r.poison ∧ r.tiles = st.tiles)) ∧
    (∀ i, (st.strand i).status.alive = true → let t := st.strand i
      let s : State := { st with free := st.free + 2 }
      ∃ x r, exec (.uncorrectableError (.strandLocal i)) st = .next r ∧
        (r = addAsync i ⟨cMachineCheck, 0, true, t.pc, 0, x, 0⟩ s ∨
         (t.status = .running ∧ st.coreRuns i.core = true ∧ st.slotOpen i.core = true ∧
           r = lone i.core (takeTrap i ⟨cMachineCheck, 0, false, t.pc, 0, x, 0⟩ s)))) ∧
    (∀ t, let ws := (st.tile t).workers t
      (ws = [] → exec (.uncorrectableError (.tileEngine t)) st = .next (errorRecord t.quad 2 t.idx.toNat 0 (st.tileHandle t) 0 st)) ∧
      (ws ≠ [] → ∃ stop ∈ ws, ∃ x, exec (.uncorrectableError (.tileEngine t)) st = .next (stop ⟨cMachineCheck, x, 0⟩ { st with free := st.free + 2 }))) ∧
    (∀ q u, exec (.uncorrectableError (.unattributed q u)) st = .next (errorRecord q (if u = 0 then 1 else 2) 127 0 0 0 st))

/-- Trap delivery, slot release, walks, register writes, key commands and cache fills complete. The first pending asynchronous trap is taken at the
strand's program counter from the cycle after its detection, where its status and INH allow; a fetch trap that is due takes the issue slot; an exiting strand whose work has retired frees
its slot; a page walk enters what it found; context, register and LATTOL writes write; a key command fills or empties its slot; an instruction line is
read afresh; a waiting full/empty group proceeds. (R30, R87, R115, R170, R386, R388, R396, R398, R402, R405, R419.) -/
def Obligations.SystemEventsComplete : Prop :=
  ∀ (st : State) (i : StrandId),
    let t := st.strand i
    let q := coreQuad i.core
    (∀ k r, t.pend = k :: r → t.asyncRipe st.now = true → st.coreRuns i.core = true → st.slotOpen i.core = true → t.status.interruptible = true → t.inhibited = false →
      exec (.asyncTrap i) st = .next (lone i.core (takeTrap i { k with tpc := t.pc } (st.setStrand i { t with pend := r, failed := if k.src = 0 then t.failed.tail else t.failed })))) ∧
    (∀ k, t.due = some k → st.contends i = true → st.slotOpen i.core = true → st.asyncDue i = false →
      exec (.fetchTrap i) st =
        .next (lone i.core (takeTrap i k (countFault (strandXl i st).1 k.cause k.taddr (st.modStrand i fun t => { t with due := none }))))) ∧
    (t.status = .exiting → st.retired i = true → ∃ r, exec (.slotFree i) st = .next r ∧
      (r.strand i).status = .free ∧ (r.strand i).stores = [] ∧ (r.strand i).orphans = t.orphans ++ t.stores ∧
      (∀ u, i.core = .tile u → ∀ p ∈ (r.tile u).claimed, p.2 ≠ i.slot)) ∧
    (∀ (va : Addr) (acc : Access) (c : CtxEntry) (s : State), t.status ≠ .free → t.level ≠ .M → inWindow va = false →
      strandXl i st = (⟨i.core, t.level, some c⟩, s) → c.valid = true → (s.tlbFind ⟨i.core, t.level, some c⟩ c acc va).1 = none →
      ∀ e r, walkFill ⟨i.core, t.level, some c⟩ c acc va (countMiss i.core true true s) = .ok (e, r) → exec (.pageWalk i va acc) st = .next r) ∧
    (∀ v : Word, t.status ≠ .free → t.level ≠ .U → ∃ r, exec (.ctxcurWrite i v) st = .next r ∧
      (∀ c, st.ctxEntry q (v.setWidth 16) = some c → (r.strand i).ctxcur = v.setWidth 16 ∧ (r.strand i).ctx = some c) ∧
      (st.ctxEntry q (v.setWidth 16) = none → r = st)) ∧
    (∀ v : Word, ∃ r, exec (.lattolWrite q v) st = .next r ∧ (r.quad q).lattol = v.setWidth 20 ∧
      (∀ u, u.quad = q → (r.tile u).power.exit ≤ (st.tile u).power.exit) ∧ (∀ u, u.quad ≠ q → r.tile u = st.tile u)) ∧
    (∀ (o : Nat) (v : Word), o % 8 = 0 → o < 0x2000000 → exec (.registerWrite o v) st =
      .next (barReg (regionOf (0x8000000000 + o)) (leBytes 8 v.toNat) st)) ∧
    ((st.quad q).fkeycmd.run = none →
      ∀ e b, e = Instr.fkeyInstall q ∧ b = false ∨ e = Instr.fkeyClear q ∧ b = true → ∃ r, exec e st = .next r ∧
        (r.quad q).fkeycmd = { (st.quad q).fkeycmd with run := some ((st.quad q).fkeycmd.slot, b, (st.quad q).fkeyaddr.setWidth 56) }) ∧
    (∀ k b a, (st.quad q).fkeycmd.run = some (k, b, a) → ∃ r, exec (.fkeyCommandDone q) st = .next r ∧ (r.quad q).fkeycmd.run = none ∧
      let p := st.globalPa a.toNat
      (b = false → st.poisoned (.mem p) 2592 = false →
        (r.quad q).keys.get k.toFin = some (st.mem.bytes p 2592) ∧ (r.quad q).fkeycmd.err = (st.quad q).fkeycmd.err) ∧
      (b = false → st.poisoned (.mem p) 2592 = true → (r.quad q).keys.get k.toFin = none ∧ (r.quad q).fkeycmd.err = true) ∧
      (b = true → (r.quad q).keys.get k.toFin = none ∧ (r.quad q).fkeycmd.err = (st.quad q).fkeycmd.err)) ∧
    (∀ (n : Nat) (x : Xl) (s : State) (p : Phys) (w : State), t.status ≠ .free →
      (∀ j, j.core = i.core → j ≠ i → (st.strand j).status = .free) → strandXl i st = (x, s) →
      translate x (BitVec.ofNat 80 (128 * n)) .fetch s = .ok (p, w) → w.reach p.loc = .ok → w.poisoned p.loc 128 = false →
      ∃ r, exec (.instructionCacheFill i.core n) st = .next r ∧ (r.core i.core).icache.head? = some ⟨n, x.asid, w.bytesAt p.loc 128⟩) ∧
    (∀ k c, t.held = false → entryCtx i k st = some c → c.x.op.fullEmpty = true → ∀ r, groupRun i k c st = some r →
      exec (.vldFeGroupProceed i k) st = .next r)

/-- Every step keeps the canonical form of memory, of TMEM and of operand memory. From every state whose memory lists its bytes at strictly rising addresses
and lists none that reads as an unlisted byte does, a step that answers a next state leaves memory in that form; and where memory, the TMEM and operand
memory of every tile, and those of the images of swapped-out teams have that form, they have it after the step: equal contents are equal data whatever
the machine does. What an unlisted byte reads as is the model's choice (log entry 1). (spec/11_memory_model.md, spec/01_machine.md.) -/
def Obligations.MemoryKeepsItsCanonicalForm : Prop :=
  (∀ s s' : State, s.mem.wf = true → step s = .next s' → s'.mem.wf = true) ∧
  ∀ s s' : State, StorageOk s → ImagesOk s → step s = .next s' → StorageOk s' ∧ ImagesOk s'

/-- Decoding the words of every well-formed instruction gives that instruction. For every well-formed instruction that has an encoding, with every operand
at every value the encoding admits, decoding its parcels gives it back; an element instruction is decoded from its one element word. (R27, R32, R33,
R35, R36, R38, R44.) -/
def Obligations.DecodingInvertsEncoding : Prop :=
  ∀ n : Instr, n.wellFormed = true → encode n ≠ [] →
    decodeWords false (encode n) = .ok n ∨ decodeWords true (encode n) = .ok n

/-- Words that the manual prints decode to their instructions. The parcels and element words that the manual writes out for some instructions decode to
those instructions, one or more for each kind of format; their formatted constructors carry the operands that the manual's assembly names. (R77, R133, R146,
R165, R182, R191, R205, R236, R287, R288, R308, R359.) -/
def Obligations.PrintedEncodingsDecode : Prop :=
  decode 0x00148304#32 0 0 = .ok (.add 3 4 5) ∧
  decode 0xFFFCA508#32 0 0 = .ok (.addi 5 5 (-1)) ∧
  decode 0x8A05271C#32 0 0 = .ok (.fcvt 7 9 1 4 1) ∧
  decode 0xFEC00130#32 0 0 = .ok (.beq 1 0 (-5)) ∧
  decode 0x000C4A40#32 0 0 = .ok (.ld 10 2 0) ∧
  decode 0x001845C1#32 0x0000000C#32 0 = .ok (.amaddQ32 5 2 6 ⟨4, 1, 0⟩) ∧
  decode 0x00200158#32 0 0 = .ok (.sysrd 1 0x100) ∧
  decode 0x12000558#32 0 0 = .ok (.syswr 5 0x1000) ∧
  decode 0x40064465#32 0xFFFFFD0A#32 0 = .ok (.sbr 4 2 3 0 0 2 0xA (-3)) ∧
  decode 0x98746278#32 0 0 = .ok (.vsaddVI 2 3 29 none) ∧
  decode 0x050C417C#32 0 0 = .ok (.vfaddVV 1 2 3 (some 2)) ∧
  decode 0x00004198#32 0 0 = .ok (.vld 1 2 none) ∧
  decode 0x002041A8#32 0 0 = .ok (.vred 1 2 8 none) ∧
  decode 0x000067B0#32 0 0 = .ok (.binr 7 3) ∧
  decode 0x001860B5#32 0x00000105#32 0 = .ok (.strmLdFab 3 6 5 0) ∧
  decode 0x0098A4CC#32 0 0 = .ok (.qclaim 4 5 6) ∧
  decode 0x011800D1#32 0x18401044#32 0 = .ok (.mgemm 6 4 4 1 8 12) ∧
  decode 0x000045E0#32 0 0 = .ok (.launch 5 2) ∧
  decode 0x0018A4D8#32 0 0 = .ok (.cfgLoad 4 5 6) ∧
  decode 0x0000A0E4#32 0 0 = .ok (.tmark 5) ∧
  decodeElem 0x5A602522#32 = .ok (.elemSteer 3 1 2 9 2) ∧
  decodeElem 0x24602F20#32 = .ok (.elemAddl 3 1 7 9 0)

/-- A step runs the instruction that the bytes at the program counter decode to. What a strand does at an issue opportunity where no trap is due is exec of
the instruction that the parcels at its program counter decode to, in the state after the fetch; where the environment orders an issue of a core whose
slot is free and holds back every other strand, the step is that, and with several strands ready it is that of the one the policy picks of them, the
wait counts then following; a parcel is the word that memory holds there unless a cached line may stand for it. An ordered firing is exec of the chosen
entry's instruction, an ordered event exec of the event. Without an order the model's default order applies (log entry 5), and what it issues is an
issue of that form. (R30, R86, R87, R89, R90, R329.) -/
def Obligations.StepRunsTheDecodedInstruction : Prop :=
  ∀ (s : State) (dt : Nat) (late : Bool) (r : List Move),
    (∀ (i : StrandId) (p0 p1 p2 : Parcel) (n : Instr) (f : State),
      let t : State := { s with cur := .strand i }
      t.asyncDue i = false → t.contends i = true → fetchParcels i (t.strand i).pc t = .ok ((p0, p1, p2), f) → decode p0 p1 p2 = .ok n →
      n.wellFormed = true → strandIssue i s = exec n f) ∧
    (∀ (i : StrandId) (held : BitVec 8),
      let t : State := { tick dt late s with sched := r }
      s.sched = ⟨dt, late, .issue i.core held⟩ :: r → t.slotOpen i.core = true → t.coreRuns i.core = true → held.getLsbD i.slot.toNat = false →
      (∀ j ∈ slots i.core, j ≠ i → held.getLsbD j.slot.toNat = true) →
      ∀ f, strandIssue i t = .next f → step s = .next (if f.idle = true then { t with idle := true } else lone i.core f)) ∧
    (∀ (c : CoreId) (held : BitVec 8),
      let t : State := { tick dt late s with sched := r }
      let ready := readyStrands c held t
      s.sched = ⟨dt, late, .issue c held⟩ :: r → t.slotOpen c = true → t.coreRuns c = true →
      (∀ i f, (i, f) ∈ ready ↔ i ∈ slots c ∧ held.getLsbD i.slot.toNat = false ∧ strandIssue i t = .next f ∧ f.idle = false) ∧
      (∀ i f, pickSlot c ready t = some (i, f) → (i, f) ∈ ready ∧ step s = .next (countWaits c (ready.map (·.1)) i t f)) ∧
      (ready ≠ [] → pickSlot c ready t ≠ none)) ∧
    (∀ (i : StrandId) (va : Addr) (x : Xl) (u f : State) (p : Phys) (v : Nat),
      strandXl i s = (x, u) → translate x va .fetch u = .ok (p, f) → f.reach p.loc ≠ .wait → readPhys p 4 f = .ok v →
      (f.core i.core).line x.asid (va.toNat / 128) = none → fetchParcel i va s = .ok (BitVec.ofNat 32 v, f)) ∧
    (∀ (i : StrandId) (pc : Addr) (p0 p1 p2 : Parcel) (u1 u2 u3 : State),
      p0 ≠ 0 → fetchParcel i pc s = .ok (p0, u1) → fetchParcel i (pc + 4) u1 = .ok (p1, u2) → fetchParcel i (pc + 8) u2 = .ok (p2, u3) →
      (p0.extractLsb' 0 2 = 0 → fetchParcels i pc s = .ok ((p0, 0, 0), u1)) ∧
      (p0.extractLsb' 0 2 = 1 → fetchParcels i pc s = .ok ((p0, p1, 0), u2)) ∧
      (p0.extractLsb' 0 2 = 2 → fetchParcels i pc s = .ok ((p0, p1, p2), u3))) ∧
    (∀ (e : ElemId) (c : Choice) (n : Instr),
      let t : State := { tick dt late s with sched := r, cur := .elem e }
      s.sched = ⟨dt, late, .fire e⟩ :: r → t.choose e = some c → decodeElem c.word = .ok n → step s = exec n t) ∧
    (∀ n : Instr,
      s.sched = ⟨dt, late, .event n⟩ :: r → encode n = [] → (∀ i, n ≠ .fetchTrap i) → step s = exec n { tick dt late s with sched := r }) ∧
    (s.sched = [] → ∀ f, defaultIssue { s with late := false, idle := false } = some f → step s = .next f ∧
      ∃ c, runIssue c 0 { s with late := false, idle := false } = .next f ∧ f.idle = false)

/-- Integer, floating-point, address and branch instructions change only their destination and the flags. Where an instruction of majors 0x01 to 0x0E
answers a next state, only its destination register, the program counter and the issue counts may differ, and for floating-point instructions the flag
bits of fcsr, which only gain bits: every other x, a, m and special register of the strand, every other strand, every byte of every memory and
everything else in the machine is as before. JALR is included where its target is aligned. (R71, R96, R98, R99, R101, R102, R103, R104, R106, R77.) -/
def Obligations.RegisterInstructionsWriteOnlyTheirDestination : Prop :=
  ∀ (st : State) (i : StrandId) (d s t : BitVec 5) (c a b : BitVec 4), st.cur = .strand i →
    let frame (x : Option (BitVec 5)) (w : Option (BitVec 4)) (n : Instr) (ok : Word → Prop) : Prop :=
      ∀ f : State, exec n st = .next f →
        (∀ r, some r ≠ x → f.xr i r = st.xr i r) ∧
        (∀ r, some r ≠ w → (f.strand i).ar r = (st.strand i).ar r) ∧
        ok (f.strand i).fcsr ∧
        { f.strand i with
            x := (st.strand i).x, a := (st.strand i).a, fcsr := (st.strand i).fcsr, pc := (st.strand i).pc,
            issued := (st.strand i).issued } = st.strand i ∧
        (∀ j, j ≠ i → f.strand j = st.strand j) ∧
        (∀ k, f.mem.get k = st.mem.get k) ∧
        (∀ u, { f.tile u with core := (st.tile u).core, counts := (st.tile u).counts } = st.tile u) ∧
        (∀ q, { f.quad q with core := (st.quad q).core } = st.quad q) ∧
        { f with strands := st.strands, tiles := st.tiles, quads := st.quads, idle := st.idle } = st
    let same (v : Word) : Prop := v = (st.strand i).fcsr
    let gains (v : Word) : Prop := ∃ k : BitVec 5, v = (st.strand i).fcsr ||| k.setWidth 64
    let xOnly (n : Instr) : Prop := frame (some d) none n same
    let aOnly (n : Instr) : Prop := frame none (some c) n same
    let flags (n : Instr) : Prop := frame (some d) none n gains
    let none' (n : Instr) : Prop := frame none none n same
    xOnly (.add d s t) ∧ xOnly (.sub d s t) ∧ xOnly (.and d s t) ∧ xOnly (.or d s t) ∧ xOnly (.xor d s t) ∧
    xOnly (.sll d s t) ∧ xOnly (.srl d s t) ∧ xOnly (.sra d s t) ∧ xOnly (.slt d s t) ∧ xOnly (.sltu d s t) ∧
    xOnly (.min d s t) ∧ xOnly (.max d s t) ∧ xOnly (.minu d s t) ∧ xOnly (.maxu d s t) ∧ xOnly (.mul d s t) ∧
    xOnly (.mulh d s t) ∧ xOnly (.mulhu d s t) ∧ xOnly (.div d s t) ∧ xOnly (.divu d s t) ∧ xOnly (.rem d s t) ∧
    xOnly (.remu d s t) ∧ xOnly (.add32 d s t) ∧ xOnly (.sub32 d s t) ∧
    xOnly (.clz d s) ∧ xOnly (.ctz d s) ∧ xOnly (.popc d s) ∧ xOnly (.sxb d s) ∧ xOnly (.sxh d s) ∧
    xOnly (.sxw d s) ∧ xOnly (.zxw d s) ∧
    xOnly (.fclassS d s) ∧ xOnly (.fclassD d s) ∧
    (∀ k : BitVec 14, xOnly (.addi d s k)) ∧
    (∀ k : BitVec 12, xOnly (.andi d s k) ∧ xOnly (.ori d s k) ∧ xOnly (.xori d s k)) ∧
    (∀ k : BitVec 32, xOnly (.addiImm32 d s k) ∧ xOnly (.andiImm32 d s k) ∧ xOnly (.oriImm32 d s k) ∧ xOnly (.xoriImm32 d s k) ∧ xOnly (.liw d k)) ∧
    (∀ k : BitVec 6, xOnly (.slli d s k) ∧ xOnly (.srli d s k) ∧ xOnly (.srai d s k)) ∧
    (∀ k : BitVec 19, xOnly (.lui d k)) ∧
    (∀ k : BitVec 64, xOnly (.liq d k)) ∧
    flags (.faddS d s t) ∧ flags (.fsubS d s t) ∧ flags (.fmulS d s t) ∧ flags (.fdivS d s t) ∧ flags (.fminS d s t) ∧
    flags (.fmaxS d s t) ∧ flags (.fmaS d s t) ∧ flags (.fnmaS d s t) ∧ flags (.feqS d s t) ∧ flags (.fltS d s t) ∧
    flags (.fleS d s t) ∧ flags (.faddD d s t) ∧ flags (.fsubD d s t) ∧ flags (.fmulD d s t) ∧ flags (.fdivD d s t) ∧
    flags (.fminD d s t) ∧ flags (.fmaxD d s t) ∧ flags (.fmaD d s t) ∧ flags (.fnmaD d s t) ∧ flags (.feqD d s t) ∧
    flags (.fltD d s t) ∧ flags (.fleD d s t) ∧
    flags (.fsqrtS d s) ∧ flags (.fsqrtD d s) ∧
    (∀ (k l : BitVec 4) (m : BitVec 5), flags (.fcvt d s k l m)) ∧
    xOnly (.adiff d a b) ∧ xOnly (.atox d a) ∧
    aOnly (.aadd c a t) ∧ aOnly (.asub c a t) ∧ aOnly (.amov c a) ∧ aOnly (.afromx c s) ∧
    (∀ k : BitVec 14, aOnly (.aaddi c a k)) ∧
    (∀ k : BitVec 32, aOnly (.aaddiImm32 c a k)) ∧
    (∀ k : BitVec 16, aOnly (.ahi c k)) ∧
    (∀ k : BitVec 10, none' (.beq s t k) ∧ none' (.bne s t k) ∧ none' (.blt s t k) ∧ none' (.bge s t k) ∧ none' (.bltu s t k) ∧ none' (.bgeu s t k) ∧
      none' (.baeq a b k) ∧ none' (.bane a b k) ∧ none' (.baltu a b k) ∧ none' (.bageu a b k)) ∧
    (∀ k : BitVec 32, none' (.beqOff32 s t k) ∧ none' (.bneOff32 s t k) ∧ none' (.bltOff32 s t k) ∧ none' (.bgeOff32 s t k) ∧ none' (.bltuOff32 s t k) ∧ none' (.bgeuOff32 s t k) ∧
      none' (.baeqOff32 a b k) ∧ none' (.baneOff32 a b k) ∧ none' (.baltuOff32 a b k) ∧ none' (.bageuOff32 a b k)) ∧
    (∀ k : BitVec 19, aOnly (.jal c k)) ∧
    (∀ k : BitVec 32, aOnly (.jalOff32 c k)) ∧
    (∀ k : BitVec 14, ((st.strand i).ar a + 4 * k.signExtend 80).toNat % 4 = 0 → aOnly (.jalr c a k))

/-- A scalar access changes only its destination register and the bytes it addresses. A translation changes no register of any strand and no TMEM byte,
and of memory at most the 16 bytes of the leaf entry that its walk finds. A load, BARW or WAITLINE that issues then writes no byte and no register but
xD; a store writes no byte and no register at issue, only a store-queue entry; an atomic or BARA writes no byte outside its own range at the place its
address translates to, in HBM of this device or in TMEM, and no register but xD. (R107, R108, R237, R252, R113, R398, R156.) -/
def Obligations.AccessesChangeOnlyWhatTheyAddress : Prop :=
  (∀ (v : Xl) (va : Addr) (acc : Access) (s f : State) (p : Phys), s.mem.wf = true → translate v va acc s = .ok (p, f) →
    (∀ j, { f.strand j with links := (s.strand j).links, loose := (s.strand j).loose } = s.strand j) ∧
    (∀ u k, (f.tile u).tmem.get k = (s.tile u).tmem.get k) ∧
    (∀ k, f.mem.get k ≠ s.mem.get k → inWindow va = false ∧ v.level ≠ .M ∧
      ∃ (c : CtxEntry) (e : BitVec 128) (lvl ea : Nat), v.ctx = some c ∧ (s.tlbFind v c acc va).1 = none ∧
        walk acc va s 5 (c.root.toNat * 2 ^ 17) 0 = .ok (e, lvl, ea) ∧ ea ≤ k ∧ k < ea + 16)) ∧
  ∀ (st : State) (i : StrandId) (d x : BitVec 5) (a : BitVec 4) (o : BitVec 12) (q : Qual), st.cur = .strand i →
    let t := st.strand i
    let off (size : Nat) : Addr := t.ar a + BitVec.ofInt 80 (o.toInt * size)
    let keeps (w : Option (BitVec 5)) (f : State) : Prop :=
      (∀ r, some r ≠ w → f.xr i r = st.xr i r) ∧
      { f.strand i with
          x := t.x, pc := t.pc, status := t.status, issued := t.issued, stores := t.stores, lates := t.lates, ctx := t.ctx,
          links := t.links, loose := t.loose } = t
    let reads (len : Nat) (ea : Addr) (n : Instr) : Prop :=
      ∀ (p : Phys) (s f : State), Finds st i len ea .read p s → exec n st = .next f → (f.strand i).issued = t.issued + 1 →
        keeps (some d) f ∧ (∀ k, f.mem.get k = s.mem.get k) ∧ (∀ u k, (f.tile u).tmem.get k = (s.tile u).tmem.get k)
    let queues (len : Nat) (ea : Addr) (n : Instr) : Prop :=
      ∀ (p : Phys) (s f : State), Finds st i len ea .write p s → exec n st = .next f → (f.strand i).issued = t.issued + 1 →
        keeps none f ∧ (∀ k, f.mem.get k = s.mem.get k) ∧ (∀ u k, (f.tile u).tmem.get k = (s.tile u).tmem.get k)
    let updates (len size : Nat) (n : Instr) : Prop :=
      ∀ (p : Phys) (s f : State), Finds st i len (t.ar a) .write p s → exec n st = .next f → (f.strand i).issued = t.issued + 1 →
        StorageOk s →
        (∀ b, p.loc = .mem b → s.own b = true → regionOf (localOf b) = .hbm →
          keeps (some d) f ∧ (∀ k, k < b ∨ b + size ≤ k → f.mem.get k = s.mem.get k) ∧
          (∀ u k, (f.tile u).tmem.get k = (s.tile u).tmem.get k)) ∧
        (∀ u b, p.loc = .tmem u b →
          keeps (some d) f ∧ (∀ k, f.mem.get k = s.mem.get k) ∧
          (∀ w k, w ≠ u ∨ k < b ∨ b + size ≤ k → (f.tile w).tmem.get k = (s.tile w).tmem.get k))
    reads 4 (off 1) (.lb d a o) ∧ reads 8 (off 1) (.lbQ32 d a o q) ∧
    reads 4 (off 1) (.lbu d a o) ∧ reads 8 (off 1) (.lbuQ32 d a o q) ∧
    reads 4 (off 2) (.lh d a o) ∧ reads 8 (off 2) (.lhQ32 d a o q) ∧
    reads 4 (off 2) (.lhu d a o) ∧ reads 8 (off 2) (.lhuQ32 d a o q) ∧
    reads 4 (off 4) (.lw d a o) ∧ reads 8 (off 4) (.lwQ32 d a o q) ∧
    reads 4 (off 4) (.lwu d a o) ∧ reads 8 (off 4) (.lwuQ32 d a o q) ∧
    reads 4 (off 8) (.ld d a o) ∧ reads 8 (off 8) (.ldQ32 d a o q) ∧
    queues 4 (off 1) (.sb d a o) ∧ queues 8 (off 1) (.sbQ32 d a o q) ∧
    queues 4 (off 2) (.sh d a o) ∧ queues 8 (off 2) (.shQ32 d a o q) ∧
    queues 4 (off 4) (.sw d a o) ∧ queues 8 (off 4) (.swQ32 d a o q) ∧
    queues 4 (off 8) (.sd d a o) ∧ queues 8 (off 8) (.sdQ32 d a o q) ∧
    updates 4 8 (.amadd d a x) ∧ updates 8 8 (.amaddQ32 d a x q) ∧
    updates 4 4 (.amaddW d a x) ∧ updates 8 4 (.amaddWQ32 d a x q) ∧
    updates 4 8 (.amand d a x) ∧ updates 8 8 (.amandQ32 d a x q) ∧
    updates 4 4 (.amandW d a x) ∧ updates 8 4 (.amandWQ32 d a x q) ∧
    updates 4 8 (.amor d a x) ∧ updates 8 8 (.amorQ32 d a x q) ∧
    updates 4 4 (.amorW d a x) ∧ updates 8 4 (.amorWQ32 d a x q) ∧
    updates 4 8 (.amxor d a x) ∧ updates 8 8 (.amxorQ32 d a x q) ∧
    updates 4 4 (.amxorW d a x) ∧ updates 8 4 (.amxorWQ32 d a x q) ∧
    updates 4 8 (.ammin d a x) ∧ updates 8 8 (.amminQ32 d a x q) ∧
    updates 4 4 (.amminW d a x) ∧ updates 8 4 (.amminWQ32 d a x q) ∧
    updates 4 8 (.ammax d a x) ∧ updates 8 8 (.ammaxQ32 d a x q) ∧
    updates 4 4 (.ammaxW d a x) ∧ updates 8 4 (.ammaxWQ32 d a x q) ∧
    updates 4 8 (.amminu d a x) ∧ updates 8 8 (.amminuQ32 d a x q) ∧
    updates 4 4 (.amminuW d a x) ∧ updates 8 4 (.amminuWQ32 d a x q) ∧
    updates 4 8 (.ammaxu d a x) ∧ updates 8 8 (.ammaxuQ32 d a x q) ∧
    updates 4 4 (.ammaxuW d a x) ∧ updates 8 4 (.ammaxuWQ32 d a x q) ∧
    updates 4 8 (.amswap d a x) ∧ updates 8 8 (.amswapQ32 d a x q) ∧
    updates 4 4 (.amswapW d a x) ∧ updates 8 4 (.amswapWQ32 d a x q) ∧
    updates 4 8 (.amcas d a x) ∧ updates 8 8 (.amcasQ32 d a x q) ∧
    updates 4 4 (.amcasW d a x) ∧ updates 8 4 (.amcasWQ32 d a x q) ∧
    (∀ c : BitVec 3, updates 4 8 (.bara d a c) ∧ reads 4 (t.ar a) (.barw d a c)) ∧ reads 4 (t.ar a) (.waitline d a x)

/-- Conversions between integer formats keep the value, wrap or saturate as R75 states. For any two integer formats and every source code: a value in the
destination's range is kept and no flag is set; another gives with SAT = 0 the low bits of its two's complement and with SAT = 1 the nearest bound.
(R75.) -/
def Obligations.IntegerConversionsKeepOrSaturate : Prop :=
  ∀ (a b : BitVec 4) (w w' : Nat) (sg sg' : Bool) (m : RMode) (sat fz : Bool) (s c : Nat),
    intFmt a = some (w, sg) → intFmt b = some (w', sg') → c < 2 ^ w →
    let v : Int := if sg = true then (BitVec.ofNat w c).toInt else c
    let lo : Int := if sg' = true then -2 ^ (w' - 1) else 0
    let hi : Int := if sg' = true then 2 ^ (w' - 1) - 1 else 2 ^ w' - 1
    let r := convert a b m sat fz s c
    let u : Int := if sg' = true then (BitVec.ofNat w' r.1).toInt else r.1
    r.1 < 2 ^ w' ∧
    (lo ≤ v → v ≤ hi → u = v ∧ r.2 = 0) ∧
    (sat = false → v < lo ∨ hi < v → BitVec.ofNat w' r.1 = BitVec.ofInt w' v) ∧
    (sat = true → (v < lo → u = lo) ∧ (hi < v → u = hi))
end

