-- ==== Sys2Proof/Laws/Encoding.lean ====
section
/-! SUPPORT. The fields of packed words (R32, R35 to R41, R44): each field of a word reads what the encoder put there. -/

namespace Sys2Proof

theorem ext_hi {a b s n : Nat} (v : BitVec a) (x : BitVec b) (h : b ≤ s) : (v ++ x).extractLsb' s n = v.extractLsb' (s - b) n :=
  BitVec.extractLsb'_append_eq_of_le h

theorem ext_lo {a b s n : Nat} (v : BitVec a) (x : BitVec b) (h : s + n ≤ b) : (v ++ x).extractLsb' s n = x.extractLsb' s n :=
  BitVec.extractLsb'_append_eq_of_add_le h

theorem ext_self {n : Nat} (x : BitVec n) : x.extractLsb' 0 n = x := BitVec.extractLsb'_eq_self

@[simp] theorem unused_zero {n : Nat} : unused (0 : BitVec n) = .ok () := rfl

@[simp] theorem expect_self {n : Nat} (v : BitVec n) : expect v v = .ok () := if_pos rfl

@[simp] theorem narrow_setWidth {k n : Nat} (h : k ≤ n) (f : BitVec k) : narrow k (f.setWidth n) = .ok f := by
  have := f.isLt
  have hp : 2 ^ k ≤ 2 ^ n := Nat.pow_le_pow_right (by decide) h
  simp only [narrow, BitVec.toNat_setWidth, Nat.mod_eq_of_lt (Nat.lt_of_lt_of_le this hp), if_pos this]
  congr 1
  apply BitVec.eq_of_toNat_eq
  simp [Nat.mod_eq_of_lt this, Nat.mod_eq_of_lt (Nat.lt_of_lt_of_le this hp)]

@[simp] theorem lenOf_packZR (mj : BitVec 6) (ln : BitVec 2) (fn : BitVec 9) (t : BitVec 5) (s : BitVec 5) (d : BitVec 5) : lenOf (packZR mj ln fn t s d) = ln :=
  (ext_lo (fn ++ t ++ s ++ d ++ mj) ln (by decide)).trans (ext_self ln)

@[simp] theorem majorOf_packZR (mj : BitVec 6) (ln : BitVec 2) (fn : BitVec 9) (t : BitVec 5) (s : BitVec 5) (d : BitVec 5) : majorOf (packZR mj ln fn t s d) = mj :=
  (ext_hi (fn ++ t ++ s ++ d ++ mj) ln (by decide)).trans ((ext_lo (fn ++ t ++ s ++ d) mj (by decide)).trans (ext_self mj))

@[simp] theorem fZRfn_packZR (mj : BitVec 6) (ln : BitVec 2) (fn : BitVec 9) (t : BitVec 5) (s : BitVec 5) (d : BitVec 5) : fZRfn (packZR mj ln fn t s d) = fn :=
  (ext_hi (fn ++ t ++ s ++ d ++ mj) ln (by decide)).trans ((ext_hi (fn ++ t ++ s ++ d) mj (by decide)).trans ((ext_hi (fn ++ t ++ s) d (by decide)).trans ((ext_hi (fn ++ t) s (by decide)).trans ((ext_hi fn t (by decide)).trans (ext_self fn)))))

@[simp] theorem fZRT_packZR (mj : BitVec 6) (ln : BitVec 2) (fn : BitVec 9) (t : BitVec 5) (s : BitVec 5) (d : BitVec 5) : fZRT (packZR mj ln fn t s d) = t :=
  (ext_hi (fn ++ t ++ s ++ d ++ mj) ln (by decide)).trans ((ext_hi (fn ++ t ++ s ++ d) mj (by decide)).trans ((ext_hi (fn ++ t ++ s) d (by decide)).trans ((ext_hi (fn ++ t) s (by decide)).trans ((ext_lo fn t (by decide)).trans (ext_self t)))))

@[simp] theorem fZRS_packZR (mj : BitVec 6) (ln : BitVec 2) (fn : BitVec 9) (t : BitVec 5) (s : BitVec 5) (d : BitVec 5) : fZRS (packZR mj ln fn t s d) = s :=
  (ext_hi (fn ++ t ++ s ++ d ++ mj) ln (by decide)).trans ((ext_hi (fn ++ t ++ s ++ d) mj (by decide)).trans ((ext_hi (fn ++ t ++ s) d (by decide)).trans ((ext_lo (fn ++ t) s (by decide)).trans (ext_self s))))

@[simp] theorem fZRD_packZR (mj : BitVec 6) (ln : BitVec 2) (fn : BitVec 9) (t : BitVec 5) (s : BitVec 5) (d : BitVec 5) : fZRD (packZR mj ln fn t s d) = d :=
  (ext_hi (fn ++ t ++ s ++ d ++ mj) ln (by decide)).trans ((ext_hi (fn ++ t ++ s ++ d) mj (by decide)).trans ((ext_lo (fn ++ t ++ s) d (by decide)).trans (ext_self d)))

@[simp] theorem lenOf_packFcvt (mj : BitVec 6) (ln : BitVec 2) (one : BitVec 1) (a : BitVec 4) (b : BitVec 4) (t : BitVec 5) (s : BitVec 5) (d : BitVec 5) : lenOf (packFcvt mj ln one a b t s d) = ln :=
  (ext_lo (one ++ a ++ b ++ t ++ s ++ d ++ mj) ln (by decide)).trans (ext_self ln)

@[simp] theorem majorOf_packFcvt (mj : BitVec 6) (ln : BitVec 2) (one : BitVec 1) (a : BitVec 4) (b : BitVec 4) (t : BitVec 5) (s : BitVec 5) (d : BitVec 5) : majorOf (packFcvt mj ln one a b t s d) = mj :=
  (ext_hi (one ++ a ++ b ++ t ++ s ++ d ++ mj) ln (by decide)).trans ((ext_lo (one ++ a ++ b ++ t ++ s ++ d) mj (by decide)).trans (ext_self mj))

@[simp] theorem fFCVTone_packFcvt (mj : BitVec 6) (ln : BitVec 2) (one : BitVec 1) (a : BitVec 4) (b : BitVec 4) (t : BitVec 5) (s : BitVec 5) (d : BitVec 5) : fFCVTone (packFcvt mj ln one a b t s d) = one :=
  (ext_hi (one ++ a ++ b ++ t ++ s ++ d ++ mj) ln (by decide)).trans ((ext_hi (one ++ a ++ b ++ t ++ s ++ d) mj (by decide)).trans ((ext_hi (one ++ a ++ b ++ t ++ s) d (by decide)).trans ((ext_hi (one ++ a ++ b ++ t) s (by decide)).trans ((ext_hi (one ++ a ++ b) t (by decide)).trans ((ext_hi (one ++ a) b (by decide)).trans ((ext_hi one a (by decide)).trans (ext_self one)))))))

@[simp] theorem fFCVTA_packFcvt (mj : BitVec 6) (ln : BitVec 2) (one : BitVec 1) (a : BitVec 4) (b : BitVec 4) (t : BitVec 5) (s : BitVec 5) (d : BitVec 5) : fFCVTA (packFcvt mj ln one a b t s d) = a :=
  (ext_hi (one ++ a ++ b ++ t ++ s ++ d ++ mj) ln (by decide)).trans ((ext_hi (one ++ a ++ b ++ t ++ s ++ d) mj (by decide)).trans ((ext_hi (one ++ a ++ b ++ t ++ s) d (by decide)).trans ((ext_hi (one ++ a ++ b ++ t) s (by decide)).trans ((ext_hi (one ++ a ++ b) t (by decide)).trans ((ext_hi (one ++ a) b (by decide)).trans ((ext_lo one a (by decide)).trans (ext_self a)))))))

@[simp] theorem fFCVTB_packFcvt (mj : BitVec 6) (ln : BitVec 2) (one : BitVec 1) (a : BitVec 4) (b : BitVec 4) (t : BitVec 5) (s : BitVec 5) (d : BitVec 5) : fFCVTB (packFcvt mj ln one a b t s d) = b :=
  (ext_hi (one ++ a ++ b ++ t ++ s ++ d ++ mj) ln (by decide)).trans ((ext_hi (one ++ a ++ b ++ t ++ s ++ d) mj (by decide)).trans ((ext_hi (one ++ a ++ b ++ t ++ s) d (by decide)).trans ((ext_hi (one ++ a ++ b ++ t) s (by decide)).trans ((ext_hi (one ++ a ++ b) t (by decide)).trans ((ext_lo (one ++ a) b (by decide)).trans (ext_self b))))))

@[simp] theorem fFCVTT_packFcvt (mj : BitVec 6) (ln : BitVec 2) (one : BitVec 1) (a : BitVec 4) (b : BitVec 4) (t : BitVec 5) (s : BitVec 5) (d : BitVec 5) : fFCVTT (packFcvt mj ln one a b t s d) = t :=
  (ext_hi (one ++ a ++ b ++ t ++ s ++ d ++ mj) ln (by decide)).trans ((ext_hi (one ++ a ++ b ++ t ++ s ++ d) mj (by decide)).trans ((ext_hi (one ++ a ++ b ++ t ++ s) d (by decide)).trans ((ext_hi (one ++ a ++ b ++ t) s (by decide)).trans ((ext_lo (one ++ a ++ b) t (by decide)).trans (ext_self t)))))

@[simp] theorem fFCVTS_packFcvt (mj : BitVec 6) (ln : BitVec 2) (one : BitVec 1) (a : BitVec 4) (b : BitVec 4) (t : BitVec 5) (s : BitVec 5) (d : BitVec 5) : fFCVTS (packFcvt mj ln one a b t s d) = s :=
  (ext_hi (one ++ a ++ b ++ t ++ s ++ d ++ mj) ln (by decide)).trans ((ext_hi (one ++ a ++ b ++ t ++ s ++ d) mj (by decide)).trans ((ext_hi (one ++ a ++ b ++ t ++ s) d (by decide)).trans ((ext_lo (one ++ a ++ b ++ t) s (by decide)).trans (ext_self s))))

@[simp] theorem fFCVTD_packFcvt (mj : BitVec 6) (ln : BitVec 2) (one : BitVec 1) (a : BitVec 4) (b : BitVec 4) (t : BitVec 5) (s : BitVec 5) (d : BitVec 5) : fFCVTD (packFcvt mj ln one a b t s d) = d :=
  (ext_hi (one ++ a ++ b ++ t ++ s ++ d ++ mj) ln (by decide)).trans ((ext_hi (one ++ a ++ b ++ t ++ s ++ d) mj (by decide)).trans ((ext_lo (one ++ a ++ b ++ t ++ s) d (by decide)).trans (ext_self d)))

@[simp] theorem lenOf_packZI (mj : BitVec 6) (ln : BitVec 2) (i : BitVec 14) (s : BitVec 5) (d : BitVec 5) : lenOf (packZI mj ln i s d) = ln :=
  (ext_lo (i ++ s ++ d ++ mj) ln (by decide)).trans (ext_self ln)

@[simp] theorem majorOf_packZI (mj : BitVec 6) (ln : BitVec 2) (i : BitVec 14) (s : BitVec 5) (d : BitVec 5) : majorOf (packZI mj ln i s d) = mj :=
  (ext_hi (i ++ s ++ d ++ mj) ln (by decide)).trans ((ext_lo (i ++ s ++ d) mj (by decide)).trans (ext_self mj))

@[simp] theorem fZII_packZI (mj : BitVec 6) (ln : BitVec 2) (i : BitVec 14) (s : BitVec 5) (d : BitVec 5) : fZII (packZI mj ln i s d) = i :=
  (ext_hi (i ++ s ++ d ++ mj) ln (by decide)).trans ((ext_hi (i ++ s ++ d) mj (by decide)).trans ((ext_hi (i ++ s) d (by decide)).trans ((ext_hi i s (by decide)).trans (ext_self i))))

@[simp] theorem fZIS_packZI (mj : BitVec 6) (ln : BitVec 2) (i : BitVec 14) (s : BitVec 5) (d : BitVec 5) : fZIS (packZI mj ln i s d) = s :=
  (ext_hi (i ++ s ++ d ++ mj) ln (by decide)).trans ((ext_hi (i ++ s ++ d) mj (by decide)).trans ((ext_hi (i ++ s) d (by decide)).trans ((ext_lo i s (by decide)).trans (ext_self s))))

@[simp] theorem fZID_packZI (mj : BitVec 6) (ln : BitVec 2) (i : BitVec 14) (s : BitVec 5) (d : BitVec 5) : fZID (packZI mj ln i s d) = d :=
  (ext_hi (i ++ s ++ d ++ mj) ln (by decide)).trans ((ext_hi (i ++ s ++ d) mj (by decide)).trans ((ext_lo (i ++ s) d (by decide)).trans (ext_self d)))

@[simp] theorem lenOf_packZL (mj : BitVec 6) (ln : BitVec 2) (sel : BitVec 2) (i : BitVec 12) (s : BitVec 5) (d : BitVec 5) : lenOf (packZL mj ln sel i s d) = ln :=
  (ext_lo (sel ++ i ++ s ++ d ++ mj) ln (by decide)).trans (ext_self ln)

@[simp] theorem majorOf_packZL (mj : BitVec 6) (ln : BitVec 2) (sel : BitVec 2) (i : BitVec 12) (s : BitVec 5) (d : BitVec 5) : majorOf (packZL mj ln sel i s d) = mj :=
  (ext_hi (sel ++ i ++ s ++ d ++ mj) ln (by decide)).trans ((ext_lo (sel ++ i ++ s ++ d) mj (by decide)).trans (ext_self mj))

@[simp] theorem fZLsel_packZL (mj : BitVec 6) (ln : BitVec 2) (sel : BitVec 2) (i : BitVec 12) (s : BitVec 5) (d : BitVec 5) : fZLsel (packZL mj ln sel i s d) = sel :=
  (ext_hi (sel ++ i ++ s ++ d ++ mj) ln (by decide)).trans ((ext_hi (sel ++ i ++ s ++ d) mj (by decide)).trans ((ext_hi (sel ++ i ++ s) d (by decide)).trans ((ext_hi (sel ++ i) s (by decide)).trans ((ext_hi sel i (by decide)).trans (ext_self sel)))))

@[simp] theorem fZLI_packZL (mj : BitVec 6) (ln : BitVec 2) (sel : BitVec 2) (i : BitVec 12) (s : BitVec 5) (d : BitVec 5) : fZLI (packZL mj ln sel i s d) = i :=
  (ext_hi (sel ++ i ++ s ++ d ++ mj) ln (by decide)).trans ((ext_hi (sel ++ i ++ s ++ d) mj (by decide)).trans ((ext_hi (sel ++ i ++ s) d (by decide)).trans ((ext_hi (sel ++ i) s (by decide)).trans ((ext_lo sel i (by decide)).trans (ext_self i)))))

@[simp] theorem fZLS_packZL (mj : BitVec 6) (ln : BitVec 2) (sel : BitVec 2) (i : BitVec 12) (s : BitVec 5) (d : BitVec 5) : fZLS (packZL mj ln sel i s d) = s :=
  (ext_hi (sel ++ i ++ s ++ d ++ mj) ln (by decide)).trans ((ext_hi (sel ++ i ++ s ++ d) mj (by decide)).trans ((ext_hi (sel ++ i ++ s) d (by decide)).trans ((ext_lo (sel ++ i) s (by decide)).trans (ext_self s))))

@[simp] theorem fZLD_packZL (mj : BitVec 6) (ln : BitVec 2) (sel : BitVec 2) (i : BitVec 12) (s : BitVec 5) (d : BitVec 5) : fZLD (packZL mj ln sel i s d) = d :=
  (ext_hi (sel ++ i ++ s ++ d ++ mj) ln (by decide)).trans ((ext_hi (sel ++ i ++ s ++ d) mj (by decide)).trans ((ext_lo (sel ++ i ++ s) d (by decide)).trans (ext_self d)))

@[simp] theorem lenOf_packZS (mj : BitVec 6) (ln : BitVec 2) (sel : BitVec 2) (z : BitVec 6) (h : BitVec 6) (s : BitVec 5) (d : BitVec 5) : lenOf (packZS mj ln sel z h s d) = ln :=
  (ext_lo (sel ++ z ++ h ++ s ++ d ++ mj) ln (by decide)).trans (ext_self ln)

@[simp] theorem majorOf_packZS (mj : BitVec 6) (ln : BitVec 2) (sel : BitVec 2) (z : BitVec 6) (h : BitVec 6) (s : BitVec 5) (d : BitVec 5) : majorOf (packZS mj ln sel z h s d) = mj :=
  (ext_hi (sel ++ z ++ h ++ s ++ d ++ mj) ln (by decide)).trans ((ext_lo (sel ++ z ++ h ++ s ++ d) mj (by decide)).trans (ext_self mj))

@[simp] theorem fZSsel_packZS (mj : BitVec 6) (ln : BitVec 2) (sel : BitVec 2) (z : BitVec 6) (h : BitVec 6) (s : BitVec 5) (d : BitVec 5) : fZSsel (packZS mj ln sel z h s d) = sel :=
  (ext_hi (sel ++ z ++ h ++ s ++ d ++ mj) ln (by decide)).trans ((ext_hi (sel ++ z ++ h ++ s ++ d) mj (by decide)).trans ((ext_hi (sel ++ z ++ h ++ s) d (by decide)).trans ((ext_hi (sel ++ z ++ h) s (by decide)).trans ((ext_hi (sel ++ z) h (by decide)).trans ((ext_hi sel z (by decide)).trans (ext_self sel))))))

@[simp] theorem fZSZ_packZS (mj : BitVec 6) (ln : BitVec 2) (sel : BitVec 2) (z : BitVec 6) (h : BitVec 6) (s : BitVec 5) (d : BitVec 5) : fZSZ (packZS mj ln sel z h s d) = z :=
  (ext_hi (sel ++ z ++ h ++ s ++ d ++ mj) ln (by decide)).trans ((ext_hi (sel ++ z ++ h ++ s ++ d) mj (by decide)).trans ((ext_hi (sel ++ z ++ h ++ s) d (by decide)).trans ((ext_hi (sel ++ z ++ h) s (by decide)).trans ((ext_hi (sel ++ z) h (by decide)).trans ((ext_lo sel z (by decide)).trans (ext_self z))))))

@[simp] theorem fZSH_packZS (mj : BitVec 6) (ln : BitVec 2) (sel : BitVec 2) (z : BitVec 6) (h : BitVec 6) (s : BitVec 5) (d : BitVec 5) : fZSH (packZS mj ln sel z h s d) = h :=
  (ext_hi (sel ++ z ++ h ++ s ++ d ++ mj) ln (by decide)).trans ((ext_hi (sel ++ z ++ h ++ s ++ d) mj (by decide)).trans ((ext_hi (sel ++ z ++ h ++ s) d (by decide)).trans ((ext_hi (sel ++ z ++ h) s (by decide)).trans ((ext_lo (sel ++ z) h (by decide)).trans (ext_self h)))))

@[simp] theorem fZSS_packZS (mj : BitVec 6) (ln : BitVec 2) (sel : BitVec 2) (z : BitVec 6) (h : BitVec 6) (s : BitVec 5) (d : BitVec 5) : fZSS (packZS mj ln sel z h s d) = s :=
  (ext_hi (sel ++ z ++ h ++ s ++ d ++ mj) ln (by decide)).trans ((ext_hi (sel ++ z ++ h ++ s ++ d) mj (by decide)).trans ((ext_hi (sel ++ z ++ h ++ s) d (by decide)).trans ((ext_lo (sel ++ z ++ h) s (by decide)).trans (ext_self s))))

@[simp] theorem fZSD_packZS (mj : BitVec 6) (ln : BitVec 2) (sel : BitVec 2) (z : BitVec 6) (h : BitVec 6) (s : BitVec 5) (d : BitVec 5) : fZSD (packZS mj ln sel z h s d) = d :=
  (ext_hi (sel ++ z ++ h ++ s ++ d ++ mj) ln (by decide)).trans ((ext_hi (sel ++ z ++ h ++ s ++ d) mj (by decide)).trans ((ext_lo (sel ++ z ++ h ++ s) d (by decide)).trans (ext_self d)))

@[simp] theorem lenOf_packZU (mj : BitVec 6) (ln : BitVec 2) (i : BitVec 19) (d : BitVec 5) : lenOf (packZU mj ln i d) = ln :=
  (ext_lo (i ++ d ++ mj) ln (by decide)).trans (ext_self ln)

@[simp] theorem majorOf_packZU (mj : BitVec 6) (ln : BitVec 2) (i : BitVec 19) (d : BitVec 5) : majorOf (packZU mj ln i d) = mj :=
  (ext_hi (i ++ d ++ mj) ln (by decide)).trans ((ext_lo (i ++ d) mj (by decide)).trans (ext_self mj))

@[simp] theorem fZUI_packZU (mj : BitVec 6) (ln : BitVec 2) (i : BitVec 19) (d : BitVec 5) : fZUI (packZU mj ln i d) = i :=
  (ext_hi (i ++ d ++ mj) ln (by decide)).trans ((ext_hi (i ++ d) mj (by decide)).trans ((ext_hi i d (by decide)).trans (ext_self i)))

@[simp] theorem fZUD_packZU (mj : BitVec 6) (ln : BitVec 2) (i : BitVec 19) (d : BitVec 5) : fZUD (packZU mj ln i d) = d :=
  (ext_hi (i ++ d ++ mj) ln (by decide)).trans ((ext_hi (i ++ d) mj (by decide)).trans ((ext_lo i d (by decide)).trans (ext_self d)))

@[simp] theorem lenOf_packAH (mj : BitVec 6) (ln : BitVec 2) (z : BitVec 3) (i : BitVec 16) (d : BitVec 5) : lenOf (packAH mj ln z i d) = ln :=
  (ext_lo (z ++ i ++ d ++ mj) ln (by decide)).trans (ext_self ln)

@[simp] theorem majorOf_packAH (mj : BitVec 6) (ln : BitVec 2) (z : BitVec 3) (i : BitVec 16) (d : BitVec 5) : majorOf (packAH mj ln z i d) = mj :=
  (ext_hi (z ++ i ++ d ++ mj) ln (by decide)).trans ((ext_lo (z ++ i ++ d) mj (by decide)).trans (ext_self mj))

@[simp] theorem fAHZ_packAH (mj : BitVec 6) (ln : BitVec 2) (z : BitVec 3) (i : BitVec 16) (d : BitVec 5) : fAHZ (packAH mj ln z i d) = z :=
  (ext_hi (z ++ i ++ d ++ mj) ln (by decide)).trans ((ext_hi (z ++ i ++ d) mj (by decide)).trans ((ext_hi (z ++ i) d (by decide)).trans ((ext_hi z i (by decide)).trans (ext_self z))))

@[simp] theorem fAHI_packAH (mj : BitVec 6) (ln : BitVec 2) (z : BitVec 3) (i : BitVec 16) (d : BitVec 5) : fAHI (packAH mj ln z i d) = i :=
  (ext_hi (z ++ i ++ d ++ mj) ln (by decide)).trans ((ext_hi (z ++ i ++ d) mj (by decide)).trans ((ext_hi (z ++ i) d (by decide)).trans ((ext_lo z i (by decide)).trans (ext_self i))))

@[simp] theorem fAHD_packAH (mj : BitVec 6) (ln : BitVec 2) (z : BitVec 3) (i : BitVec 16) (d : BitVec 5) : fAHD (packAH mj ln z i d) = d :=
  (ext_hi (z ++ i ++ d ++ mj) ln (by decide)).trans ((ext_hi (z ++ i ++ d) mj (by decide)).trans ((ext_lo (z ++ i) d (by decide)).trans (ext_self d)))

@[simp] theorem lenOf_packZB (mj : BitVec 6) (ln : BitVec 2) (o : BitVec 10) (cnd : BitVec 4) (t : BitVec 5) (s : BitVec 5) : lenOf (packZB mj ln o cnd t s) = ln :=
  (ext_lo (o ++ cnd ++ t ++ s ++ mj) ln (by decide)).trans (ext_self ln)

@[simp] theorem majorOf_packZB (mj : BitVec 6) (ln : BitVec 2) (o : BitVec 10) (cnd : BitVec 4) (t : BitVec 5) (s : BitVec 5) : majorOf (packZB mj ln o cnd t s) = mj :=
  (ext_hi (o ++ cnd ++ t ++ s ++ mj) ln (by decide)).trans ((ext_lo (o ++ cnd ++ t ++ s) mj (by decide)).trans (ext_self mj))

@[simp] theorem fZBO_packZB (mj : BitVec 6) (ln : BitVec 2) (o : BitVec 10) (cnd : BitVec 4) (t : BitVec 5) (s : BitVec 5) : fZBO (packZB mj ln o cnd t s) = o :=
  (ext_hi (o ++ cnd ++ t ++ s ++ mj) ln (by decide)).trans ((ext_hi (o ++ cnd ++ t ++ s) mj (by decide)).trans ((ext_hi (o ++ cnd ++ t) s (by decide)).trans ((ext_hi (o ++ cnd) t (by decide)).trans ((ext_hi o cnd (by decide)).trans (ext_self o)))))

@[simp] theorem fZBcnd_packZB (mj : BitVec 6) (ln : BitVec 2) (o : BitVec 10) (cnd : BitVec 4) (t : BitVec 5) (s : BitVec 5) : fZBcnd (packZB mj ln o cnd t s) = cnd :=
  (ext_hi (o ++ cnd ++ t ++ s ++ mj) ln (by decide)).trans ((ext_hi (o ++ cnd ++ t ++ s) mj (by decide)).trans ((ext_hi (o ++ cnd ++ t) s (by decide)).trans ((ext_hi (o ++ cnd) t (by decide)).trans ((ext_lo o cnd (by decide)).trans (ext_self cnd)))))

@[simp] theorem fZBT_packZB (mj : BitVec 6) (ln : BitVec 2) (o : BitVec 10) (cnd : BitVec 4) (t : BitVec 5) (s : BitVec 5) : fZBT (packZB mj ln o cnd t s) = t :=
  (ext_hi (o ++ cnd ++ t ++ s ++ mj) ln (by decide)).trans ((ext_hi (o ++ cnd ++ t ++ s) mj (by decide)).trans ((ext_hi (o ++ cnd ++ t) s (by decide)).trans ((ext_lo (o ++ cnd) t (by decide)).trans (ext_self t))))

@[simp] theorem fZBS_packZB (mj : BitVec 6) (ln : BitVec 2) (o : BitVec 10) (cnd : BitVec 4) (t : BitVec 5) (s : BitVec 5) : fZBS (packZB mj ln o cnd t s) = s :=
  (ext_hi (o ++ cnd ++ t ++ s ++ mj) ln (by decide)).trans ((ext_hi (o ++ cnd ++ t ++ s) mj (by decide)).trans ((ext_lo (o ++ cnd ++ t) s (by decide)).trans (ext_self s)))

@[simp] theorem lenOf_packSM (mj : BitVec 6) (ln : BitVec 2) (o : BitVec 12) (w : BitVec 2) (sx : BitVec 1) (a : BitVec 4) (d : BitVec 5) : lenOf (packSM mj ln o w sx a d) = ln :=
  (ext_lo (o ++ w ++ sx ++ a ++ d ++ mj) ln (by decide)).trans (ext_self ln)

@[simp] theorem majorOf_packSM (mj : BitVec 6) (ln : BitVec 2) (o : BitVec 12) (w : BitVec 2) (sx : BitVec 1) (a : BitVec 4) (d : BitVec 5) : majorOf (packSM mj ln o w sx a d) = mj :=
  (ext_hi (o ++ w ++ sx ++ a ++ d ++ mj) ln (by decide)).trans ((ext_lo (o ++ w ++ sx ++ a ++ d) mj (by decide)).trans (ext_self mj))

@[simp] theorem fSMO_packSM (mj : BitVec 6) (ln : BitVec 2) (o : BitVec 12) (w : BitVec 2) (sx : BitVec 1) (a : BitVec 4) (d : BitVec 5) : fSMO (packSM mj ln o w sx a d) = o :=
  (ext_hi (o ++ w ++ sx ++ a ++ d ++ mj) ln (by decide)).trans ((ext_hi (o ++ w ++ sx ++ a ++ d) mj (by decide)).trans ((ext_hi (o ++ w ++ sx ++ a) d (by decide)).trans ((ext_hi (o ++ w ++ sx) a (by decide)).trans ((ext_hi (o ++ w) sx (by decide)).trans ((ext_hi o w (by decide)).trans (ext_self o))))))

@[simp] theorem fSMW_packSM (mj : BitVec 6) (ln : BitVec 2) (o : BitVec 12) (w : BitVec 2) (sx : BitVec 1) (a : BitVec 4) (d : BitVec 5) : fSMW (packSM mj ln o w sx a d) = w :=
  (ext_hi (o ++ w ++ sx ++ a ++ d ++ mj) ln (by decide)).trans ((ext_hi (o ++ w ++ sx ++ a ++ d) mj (by decide)).trans ((ext_hi (o ++ w ++ sx ++ a) d (by decide)).trans ((ext_hi (o ++ w ++ sx) a (by decide)).trans ((ext_hi (o ++ w) sx (by decide)).trans ((ext_lo o w (by decide)).trans (ext_self w))))))

@[simp] theorem fSMSX_packSM (mj : BitVec 6) (ln : BitVec 2) (o : BitVec 12) (w : BitVec 2) (sx : BitVec 1) (a : BitVec 4) (d : BitVec 5) : fSMSX (packSM mj ln o w sx a d) = sx :=
  (ext_hi (o ++ w ++ sx ++ a ++ d ++ mj) ln (by decide)).trans ((ext_hi (o ++ w ++ sx ++ a ++ d) mj (by decide)).trans ((ext_hi (o ++ w ++ sx ++ a) d (by decide)).trans ((ext_hi (o ++ w ++ sx) a (by decide)).trans ((ext_lo (o ++ w) sx (by decide)).trans (ext_self sx)))))

@[simp] theorem fSMA_packSM (mj : BitVec 6) (ln : BitVec 2) (o : BitVec 12) (w : BitVec 2) (sx : BitVec 1) (a : BitVec 4) (d : BitVec 5) : fSMA (packSM mj ln o w sx a d) = a :=
  (ext_hi (o ++ w ++ sx ++ a ++ d ++ mj) ln (by decide)).trans ((ext_hi (o ++ w ++ sx ++ a ++ d) mj (by decide)).trans ((ext_hi (o ++ w ++ sx ++ a) d (by decide)).trans ((ext_lo (o ++ w ++ sx) a (by decide)).trans (ext_self a))))

@[simp] theorem fSMD_packSM (mj : BitVec 6) (ln : BitVec 2) (o : BitVec 12) (w : BitVec 2) (sx : BitVec 1) (a : BitVec 4) (d : BitVec 5) : fSMD (packSM mj ln o w sx a d) = d :=
  (ext_hi (o ++ w ++ sx ++ a ++ d ++ mj) ln (by decide)).trans ((ext_hi (o ++ w ++ sx ++ a ++ d) mj (by decide)).trans ((ext_lo (o ++ w ++ sx ++ a) d (by decide)).trans (ext_self d)))

@[simp] theorem lenOf_packSY (mj : BitVec 6) (ln : BitVec 2) (fn4 : BitVec 4) (r : BitVec 15) (d : BitVec 5) : lenOf (packSY mj ln fn4 r d) = ln :=
  (ext_lo (fn4 ++ r ++ d ++ mj) ln (by decide)).trans (ext_self ln)

@[simp] theorem majorOf_packSY (mj : BitVec 6) (ln : BitVec 2) (fn4 : BitVec 4) (r : BitVec 15) (d : BitVec 5) : majorOf (packSY mj ln fn4 r d) = mj :=
  (ext_hi (fn4 ++ r ++ d ++ mj) ln (by decide)).trans ((ext_lo (fn4 ++ r ++ d) mj (by decide)).trans (ext_self mj))

@[simp] theorem fSYfn4_packSY (mj : BitVec 6) (ln : BitVec 2) (fn4 : BitVec 4) (r : BitVec 15) (d : BitVec 5) : fSYfn4 (packSY mj ln fn4 r d) = fn4 :=
  (ext_hi (fn4 ++ r ++ d ++ mj) ln (by decide)).trans ((ext_hi (fn4 ++ r ++ d) mj (by decide)).trans ((ext_hi (fn4 ++ r) d (by decide)).trans ((ext_hi fn4 r (by decide)).trans (ext_self fn4))))

@[simp] theorem fSYR_packSY (mj : BitVec 6) (ln : BitVec 2) (fn4 : BitVec 4) (r : BitVec 15) (d : BitVec 5) : fSYR (packSY mj ln fn4 r d) = r :=
  (ext_hi (fn4 ++ r ++ d ++ mj) ln (by decide)).trans ((ext_hi (fn4 ++ r ++ d) mj (by decide)).trans ((ext_hi (fn4 ++ r) d (by decide)).trans ((ext_lo fn4 r (by decide)).trans (ext_self r))))

@[simp] theorem fSYD_packSY (mj : BitVec 6) (ln : BitVec 2) (fn4 : BitVec 4) (r : BitVec 15) (d : BitVec 5) : fSYD (packSY mj ln fn4 r d) = d :=
  (ext_hi (fn4 ++ r ++ d ++ mj) ln (by decide)).trans ((ext_hi (fn4 ++ r ++ d) mj (by decide)).trans ((ext_lo (fn4 ++ r) d (by decide)).trans (ext_self d)))

@[simp] theorem lenOf_packSB (mj : BitVec 6) (ln : BitVec 2) (n : BitVec 3) (a3 : BitVec 4) (a2 : BitVec 4) (a1 : BitVec 4) (a0 : BitVec 4) (c : BitVec 5) : lenOf (packSB mj ln n a3 a2 a1 a0 c) = ln :=
  (ext_lo (n ++ a3 ++ a2 ++ a1 ++ a0 ++ c ++ mj) ln (by decide)).trans (ext_self ln)

@[simp] theorem majorOf_packSB (mj : BitVec 6) (ln : BitVec 2) (n : BitVec 3) (a3 : BitVec 4) (a2 : BitVec 4) (a1 : BitVec 4) (a0 : BitVec 4) (c : BitVec 5) : majorOf (packSB mj ln n a3 a2 a1 a0 c) = mj :=
  (ext_hi (n ++ a3 ++ a2 ++ a1 ++ a0 ++ c ++ mj) ln (by decide)).trans ((ext_lo (n ++ a3 ++ a2 ++ a1 ++ a0 ++ c) mj (by decide)).trans (ext_self mj))

@[simp] theorem fSBn_packSB (mj : BitVec 6) (ln : BitVec 2) (n : BitVec 3) (a3 : BitVec 4) (a2 : BitVec 4) (a1 : BitVec 4) (a0 : BitVec 4) (c : BitVec 5) : fSBn (packSB mj ln n a3 a2 a1 a0 c) = n :=
  (ext_hi (n ++ a3 ++ a2 ++ a1 ++ a0 ++ c ++ mj) ln (by decide)).trans ((ext_hi (n ++ a3 ++ a2 ++ a1 ++ a0 ++ c) mj (by decide)).trans ((ext_hi (n ++ a3 ++ a2 ++ a1 ++ a0) c (by decide)).trans ((ext_hi (n ++ a3 ++ a2 ++ a1) a0 (by decide)).trans ((ext_hi (n ++ a3 ++ a2) a1 (by decide)).trans ((ext_hi (n ++ a3) a2 (by decide)).trans ((ext_hi n a3 (by decide)).trans (ext_self n)))))))

@[simp] theorem fSBa3_packSB (mj : BitVec 6) (ln : BitVec 2) (n : BitVec 3) (a3 : BitVec 4) (a2 : BitVec 4) (a1 : BitVec 4) (a0 : BitVec 4) (c : BitVec 5) : fSBa3 (packSB mj ln n a3 a2 a1 a0 c) = a3 :=
  (ext_hi (n ++ a3 ++ a2 ++ a1 ++ a0 ++ c ++ mj) ln (by decide)).trans ((ext_hi (n ++ a3 ++ a2 ++ a1 ++ a0 ++ c) mj (by decide)).trans ((ext_hi (n ++ a3 ++ a2 ++ a1 ++ a0) c (by decide)).trans ((ext_hi (n ++ a3 ++ a2 ++ a1) a0 (by decide)).trans ((ext_hi (n ++ a3 ++ a2) a1 (by decide)).trans ((ext_hi (n ++ a3) a2 (by decide)).trans ((ext_lo n a3 (by decide)).trans (ext_self a3)))))))

@[simp] theorem fSBa2_packSB (mj : BitVec 6) (ln : BitVec 2) (n : BitVec 3) (a3 : BitVec 4) (a2 : BitVec 4) (a1 : BitVec 4) (a0 : BitVec 4) (c : BitVec 5) : fSBa2 (packSB mj ln n a3 a2 a1 a0 c) = a2 :=
  (ext_hi (n ++ a3 ++ a2 ++ a1 ++ a0 ++ c ++ mj) ln (by decide)).trans ((ext_hi (n ++ a3 ++ a2 ++ a1 ++ a0 ++ c) mj (by decide)).trans ((ext_hi (n ++ a3 ++ a2 ++ a1 ++ a0) c (by decide)).trans ((ext_hi (n ++ a3 ++ a2 ++ a1) a0 (by decide)).trans ((ext_hi (n ++ a3 ++ a2) a1 (by decide)).trans ((ext_lo (n ++ a3) a2 (by decide)).trans (ext_self a2))))))

@[simp] theorem fSBa1_packSB (mj : BitVec 6) (ln : BitVec 2) (n : BitVec 3) (a3 : BitVec 4) (a2 : BitVec 4) (a1 : BitVec 4) (a0 : BitVec 4) (c : BitVec 5) : fSBa1 (packSB mj ln n a3 a2 a1 a0 c) = a1 :=
  (ext_hi (n ++ a3 ++ a2 ++ a1 ++ a0 ++ c ++ mj) ln (by decide)).trans ((ext_hi (n ++ a3 ++ a2 ++ a1 ++ a0 ++ c) mj (by decide)).trans ((ext_hi (n ++ a3 ++ a2 ++ a1 ++ a0) c (by decide)).trans ((ext_hi (n ++ a3 ++ a2 ++ a1) a0 (by decide)).trans ((ext_lo (n ++ a3 ++ a2) a1 (by decide)).trans (ext_self a1)))))

@[simp] theorem fSBa0_packSB (mj : BitVec 6) (ln : BitVec 2) (n : BitVec 3) (a3 : BitVec 4) (a2 : BitVec 4) (a1 : BitVec 4) (a0 : BitVec 4) (c : BitVec 5) : fSBa0 (packSB mj ln n a3 a2 a1 a0 c) = a0 :=
  (ext_hi (n ++ a3 ++ a2 ++ a1 ++ a0 ++ c ++ mj) ln (by decide)).trans ((ext_hi (n ++ a3 ++ a2 ++ a1 ++ a0 ++ c) mj (by decide)).trans ((ext_hi (n ++ a3 ++ a2 ++ a1 ++ a0) c (by decide)).trans ((ext_lo (n ++ a3 ++ a2 ++ a1) a0 (by decide)).trans (ext_self a0))))

@[simp] theorem fSBc_packSB (mj : BitVec 6) (ln : BitVec 2) (n : BitVec 3) (a3 : BitVec 4) (a2 : BitVec 4) (a1 : BitVec 4) (a0 : BitVec 4) (c : BitVec 5) : fSBc (packSB mj ln n a3 a2 a1 a0 c) = c :=
  (ext_hi (n ++ a3 ++ a2 ++ a1 ++ a0 ++ c ++ mj) ln (by decide)).trans ((ext_hi (n ++ a3 ++ a2 ++ a1 ++ a0 ++ c) mj (by decide)).trans ((ext_lo (n ++ a3 ++ a2 ++ a1 ++ a0) c (by decide)).trans (ext_self c)))

@[simp] theorem lenOf_packVM (mj : BitVec 6) (ln : BitVec 2) (fn5 : BitVec 5) (mk : BitVec 1) (mreg : BitVec 3) (z : BitVec 1) (i : BitVec 5) (a : BitVec 4) (d : BitVec 5) : lenOf (packVM mj ln fn5 mk mreg z i a d) = ln :=
  (ext_lo (fn5 ++ mk ++ mreg ++ z ++ i ++ a ++ d ++ mj) ln (by decide)).trans (ext_self ln)

@[simp] theorem majorOf_packVM (mj : BitVec 6) (ln : BitVec 2) (fn5 : BitVec 5) (mk : BitVec 1) (mreg : BitVec 3) (z : BitVec 1) (i : BitVec 5) (a : BitVec 4) (d : BitVec 5) : majorOf (packVM mj ln fn5 mk mreg z i a d) = mj :=
  (ext_hi (fn5 ++ mk ++ mreg ++ z ++ i ++ a ++ d ++ mj) ln (by decide)).trans ((ext_lo (fn5 ++ mk ++ mreg ++ z ++ i ++ a ++ d) mj (by decide)).trans (ext_self mj))

@[simp] theorem fVMfn5_packVM (mj : BitVec 6) (ln : BitVec 2) (fn5 : BitVec 5) (mk : BitVec 1) (mreg : BitVec 3) (z : BitVec 1) (i : BitVec 5) (a : BitVec 4) (d : BitVec 5) : fVMfn5 (packVM mj ln fn5 mk mreg z i a d) = fn5 :=
  (ext_hi (fn5 ++ mk ++ mreg ++ z ++ i ++ a ++ d ++ mj) ln (by decide)).trans ((ext_hi (fn5 ++ mk ++ mreg ++ z ++ i ++ a ++ d) mj (by decide)).trans ((ext_hi (fn5 ++ mk ++ mreg ++ z ++ i ++ a) d (by decide)).trans ((ext_hi (fn5 ++ mk ++ mreg ++ z ++ i) a (by decide)).trans ((ext_hi (fn5 ++ mk ++ mreg ++ z) i (by decide)).trans ((ext_hi (fn5 ++ mk ++ mreg) z (by decide)).trans ((ext_hi (fn5 ++ mk) mreg (by decide)).trans ((ext_hi fn5 mk (by decide)).trans (ext_self fn5))))))))

@[simp] theorem fVMMK_packVM (mj : BitVec 6) (ln : BitVec 2) (fn5 : BitVec 5) (mk : BitVec 1) (mreg : BitVec 3) (z : BitVec 1) (i : BitVec 5) (a : BitVec 4) (d : BitVec 5) : fVMMK (packVM mj ln fn5 mk mreg z i a d) = mk :=
  (ext_hi (fn5 ++ mk ++ mreg ++ z ++ i ++ a ++ d ++ mj) ln (by decide)).trans ((ext_hi (fn5 ++ mk ++ mreg ++ z ++ i ++ a ++ d) mj (by decide)).trans ((ext_hi (fn5 ++ mk ++ mreg ++ z ++ i ++ a) d (by decide)).trans ((ext_hi (fn5 ++ mk ++ mreg ++ z ++ i) a (by decide)).trans ((ext_hi (fn5 ++ mk ++ mreg ++ z) i (by decide)).trans ((ext_hi (fn5 ++ mk ++ mreg) z (by decide)).trans ((ext_hi (fn5 ++ mk) mreg (by decide)).trans ((ext_lo fn5 mk (by decide)).trans (ext_self mk))))))))

@[simp] theorem fVMMREG_packVM (mj : BitVec 6) (ln : BitVec 2) (fn5 : BitVec 5) (mk : BitVec 1) (mreg : BitVec 3) (z : BitVec 1) (i : BitVec 5) (a : BitVec 4) (d : BitVec 5) : fVMMREG (packVM mj ln fn5 mk mreg z i a d) = mreg :=
  (ext_hi (fn5 ++ mk ++ mreg ++ z ++ i ++ a ++ d ++ mj) ln (by decide)).trans ((ext_hi (fn5 ++ mk ++ mreg ++ z ++ i ++ a ++ d) mj (by decide)).trans ((ext_hi (fn5 ++ mk ++ mreg ++ z ++ i ++ a) d (by decide)).trans ((ext_hi (fn5 ++ mk ++ mreg ++ z ++ i) a (by decide)).trans ((ext_hi (fn5 ++ mk ++ mreg ++ z) i (by decide)).trans ((ext_hi (fn5 ++ mk ++ mreg) z (by decide)).trans ((ext_lo (fn5 ++ mk) mreg (by decide)).trans (ext_self mreg)))))))

@[simp] theorem fVMZ_packVM (mj : BitVec 6) (ln : BitVec 2) (fn5 : BitVec 5) (mk : BitVec 1) (mreg : BitVec 3) (z : BitVec 1) (i : BitVec 5) (a : BitVec 4) (d : BitVec 5) : fVMZ (packVM mj ln fn5 mk mreg z i a d) = z :=
  (ext_hi (fn5 ++ mk ++ mreg ++ z ++ i ++ a ++ d ++ mj) ln (by decide)).trans ((ext_hi (fn5 ++ mk ++ mreg ++ z ++ i ++ a ++ d) mj (by decide)).trans ((ext_hi (fn5 ++ mk ++ mreg ++ z ++ i ++ a) d (by decide)).trans ((ext_hi (fn5 ++ mk ++ mreg ++ z ++ i) a (by decide)).trans ((ext_hi (fn5 ++ mk ++ mreg ++ z) i (by decide)).trans ((ext_lo (fn5 ++ mk ++ mreg) z (by decide)).trans (ext_self z))))))

@[simp] theorem fVMI_packVM (mj : BitVec 6) (ln : BitVec 2) (fn5 : BitVec 5) (mk : BitVec 1) (mreg : BitVec 3) (z : BitVec 1) (i : BitVec 5) (a : BitVec 4) (d : BitVec 5) : fVMI (packVM mj ln fn5 mk mreg z i a d) = i :=
  (ext_hi (fn5 ++ mk ++ mreg ++ z ++ i ++ a ++ d ++ mj) ln (by decide)).trans ((ext_hi (fn5 ++ mk ++ mreg ++ z ++ i ++ a ++ d) mj (by decide)).trans ((ext_hi (fn5 ++ mk ++ mreg ++ z ++ i ++ a) d (by decide)).trans ((ext_hi (fn5 ++ mk ++ mreg ++ z ++ i) a (by decide)).trans ((ext_lo (fn5 ++ mk ++ mreg ++ z) i (by decide)).trans (ext_self i)))))

@[simp] theorem fVMA_packVM (mj : BitVec 6) (ln : BitVec 2) (fn5 : BitVec 5) (mk : BitVec 1) (mreg : BitVec 3) (z : BitVec 1) (i : BitVec 5) (a : BitVec 4) (d : BitVec 5) : fVMA (packVM mj ln fn5 mk mreg z i a d) = a :=
  (ext_hi (fn5 ++ mk ++ mreg ++ z ++ i ++ a ++ d ++ mj) ln (by decide)).trans ((ext_hi (fn5 ++ mk ++ mreg ++ z ++ i ++ a ++ d) mj (by decide)).trans ((ext_hi (fn5 ++ mk ++ mreg ++ z ++ i ++ a) d (by decide)).trans ((ext_lo (fn5 ++ mk ++ mreg ++ z ++ i) a (by decide)).trans (ext_self a))))

@[simp] theorem fVMD_packVM (mj : BitVec 6) (ln : BitVec 2) (fn5 : BitVec 5) (mk : BitVec 1) (mreg : BitVec 3) (z : BitVec 1) (i : BitVec 5) (a : BitVec 4) (d : BitVec 5) : fVMD (packVM mj ln fn5 mk mreg z i a d) = d :=
  (ext_hi (fn5 ++ mk ++ mreg ++ z ++ i ++ a ++ d ++ mj) ln (by decide)).trans ((ext_hi (fn5 ++ mk ++ mreg ++ z ++ i ++ a ++ d) mj (by decide)).trans ((ext_lo (fn5 ++ mk ++ mreg ++ z ++ i ++ a) d (by decide)).trans (ext_self d)))

@[simp] theorem fVVMK_packVM (mj : BitVec 6) (ln : BitVec 2) (fn5 : BitVec 5) (mk : BitVec 1) (mreg : BitVec 3) (z : BitVec 1) (i : BitVec 5) (a : BitVec 4) (d : BitVec 5) : fVVMK (packVM mj ln fn5 mk mreg z i a d) = mk :=
  (ext_hi (fn5 ++ mk ++ mreg ++ z ++ i ++ a ++ d ++ mj) ln (by decide)).trans ((ext_hi (fn5 ++ mk ++ mreg ++ z ++ i ++ a ++ d) mj (by decide)).trans ((ext_hi (fn5 ++ mk ++ mreg ++ z ++ i ++ a) d (by decide)).trans ((ext_hi (fn5 ++ mk ++ mreg ++ z ++ i) a (by decide)).trans ((ext_hi (fn5 ++ mk ++ mreg ++ z) i (by decide)).trans ((ext_hi (fn5 ++ mk ++ mreg) z (by decide)).trans ((ext_hi (fn5 ++ mk) mreg (by decide)).trans ((ext_lo fn5 mk (by decide)).trans (ext_self mk))))))))

@[simp] theorem fVVMREG_packVM (mj : BitVec 6) (ln : BitVec 2) (fn5 : BitVec 5) (mk : BitVec 1) (mreg : BitVec 3) (z : BitVec 1) (i : BitVec 5) (a : BitVec 4) (d : BitVec 5) : fVVMREG (packVM mj ln fn5 mk mreg z i a d) = mreg :=
  (ext_hi (fn5 ++ mk ++ mreg ++ z ++ i ++ a ++ d ++ mj) ln (by decide)).trans ((ext_hi (fn5 ++ mk ++ mreg ++ z ++ i ++ a ++ d) mj (by decide)).trans ((ext_hi (fn5 ++ mk ++ mreg ++ z ++ i ++ a) d (by decide)).trans ((ext_hi (fn5 ++ mk ++ mreg ++ z ++ i) a (by decide)).trans ((ext_hi (fn5 ++ mk ++ mreg ++ z) i (by decide)).trans ((ext_hi (fn5 ++ mk ++ mreg) z (by decide)).trans ((ext_lo (fn5 ++ mk) mreg (by decide)).trans (ext_self mreg)))))))

@[simp] theorem lenOf_packVV (mj : BitVec 6) (ln : BitVec 2) (fn5 : BitVec 5) (mk : BitVec 1) (mreg : BitVec 3) (t : BitVec 5) (s : BitVec 5) (d : BitVec 5) : lenOf (packVV mj ln fn5 mk mreg t s d) = ln :=
  (ext_lo (fn5 ++ mk ++ mreg ++ t ++ s ++ d ++ mj) ln (by decide)).trans (ext_self ln)

@[simp] theorem majorOf_packVV (mj : BitVec 6) (ln : BitVec 2) (fn5 : BitVec 5) (mk : BitVec 1) (mreg : BitVec 3) (t : BitVec 5) (s : BitVec 5) (d : BitVec 5) : majorOf (packVV mj ln fn5 mk mreg t s d) = mj :=
  (ext_hi (fn5 ++ mk ++ mreg ++ t ++ s ++ d ++ mj) ln (by decide)).trans ((ext_lo (fn5 ++ mk ++ mreg ++ t ++ s ++ d) mj (by decide)).trans (ext_self mj))

@[simp] theorem fVVfn5_packVV (mj : BitVec 6) (ln : BitVec 2) (fn5 : BitVec 5) (mk : BitVec 1) (mreg : BitVec 3) (t : BitVec 5) (s : BitVec 5) (d : BitVec 5) : fVVfn5 (packVV mj ln fn5 mk mreg t s d) = fn5 :=
  (ext_hi (fn5 ++ mk ++ mreg ++ t ++ s ++ d ++ mj) ln (by decide)).trans ((ext_hi (fn5 ++ mk ++ mreg ++ t ++ s ++ d) mj (by decide)).trans ((ext_hi (fn5 ++ mk ++ mreg ++ t ++ s) d (by decide)).trans ((ext_hi (fn5 ++ mk ++ mreg ++ t) s (by decide)).trans ((ext_hi (fn5 ++ mk ++ mreg) t (by decide)).trans ((ext_hi (fn5 ++ mk) mreg (by decide)).trans ((ext_hi fn5 mk (by decide)).trans (ext_self fn5)))))))

@[simp] theorem fVVMK_packVV (mj : BitVec 6) (ln : BitVec 2) (fn5 : BitVec 5) (mk : BitVec 1) (mreg : BitVec 3) (t : BitVec 5) (s : BitVec 5) (d : BitVec 5) : fVVMK (packVV mj ln fn5 mk mreg t s d) = mk :=
  (ext_hi (fn5 ++ mk ++ mreg ++ t ++ s ++ d ++ mj) ln (by decide)).trans ((ext_hi (fn5 ++ mk ++ mreg ++ t ++ s ++ d) mj (by decide)).trans ((ext_hi (fn5 ++ mk ++ mreg ++ t ++ s) d (by decide)).trans ((ext_hi (fn5 ++ mk ++ mreg ++ t) s (by decide)).trans ((ext_hi (fn5 ++ mk ++ mreg) t (by decide)).trans ((ext_hi (fn5 ++ mk) mreg (by decide)).trans ((ext_lo fn5 mk (by decide)).trans (ext_self mk)))))))

@[simp] theorem fVVMREG_packVV (mj : BitVec 6) (ln : BitVec 2) (fn5 : BitVec 5) (mk : BitVec 1) (mreg : BitVec 3) (t : BitVec 5) (s : BitVec 5) (d : BitVec 5) : fVVMREG (packVV mj ln fn5 mk mreg t s d) = mreg :=
  (ext_hi (fn5 ++ mk ++ mreg ++ t ++ s ++ d ++ mj) ln (by decide)).trans ((ext_hi (fn5 ++ mk ++ mreg ++ t ++ s ++ d) mj (by decide)).trans ((ext_hi (fn5 ++ mk ++ mreg ++ t ++ s) d (by decide)).trans ((ext_hi (fn5 ++ mk ++ mreg ++ t) s (by decide)).trans ((ext_hi (fn5 ++ mk ++ mreg) t (by decide)).trans ((ext_lo (fn5 ++ mk) mreg (by decide)).trans (ext_self mreg))))))

@[simp] theorem fVVT_packVV (mj : BitVec 6) (ln : BitVec 2) (fn5 : BitVec 5) (mk : BitVec 1) (mreg : BitVec 3) (t : BitVec 5) (s : BitVec 5) (d : BitVec 5) : fVVT (packVV mj ln fn5 mk mreg t s d) = t :=
  (ext_hi (fn5 ++ mk ++ mreg ++ t ++ s ++ d ++ mj) ln (by decide)).trans ((ext_hi (fn5 ++ mk ++ mreg ++ t ++ s ++ d) mj (by decide)).trans ((ext_hi (fn5 ++ mk ++ mreg ++ t ++ s) d (by decide)).trans ((ext_hi (fn5 ++ mk ++ mreg ++ t) s (by decide)).trans ((ext_lo (fn5 ++ mk ++ mreg) t (by decide)).trans (ext_self t)))))

@[simp] theorem fVVS_packVV (mj : BitVec 6) (ln : BitVec 2) (fn5 : BitVec 5) (mk : BitVec 1) (mreg : BitVec 3) (t : BitVec 5) (s : BitVec 5) (d : BitVec 5) : fVVS (packVV mj ln fn5 mk mreg t s d) = s :=
  (ext_hi (fn5 ++ mk ++ mreg ++ t ++ s ++ d ++ mj) ln (by decide)).trans ((ext_hi (fn5 ++ mk ++ mreg ++ t ++ s ++ d) mj (by decide)).trans ((ext_hi (fn5 ++ mk ++ mreg ++ t ++ s) d (by decide)).trans ((ext_lo (fn5 ++ mk ++ mreg ++ t) s (by decide)).trans (ext_self s))))

@[simp] theorem fVVD_packVV (mj : BitVec 6) (ln : BitVec 2) (fn5 : BitVec 5) (mk : BitVec 1) (mreg : BitVec 3) (t : BitVec 5) (s : BitVec 5) (d : BitVec 5) : fVVD (packVV mj ln fn5 mk mreg t s d) = d :=
  (ext_hi (fn5 ++ mk ++ mreg ++ t ++ s ++ d ++ mj) ln (by decide)).trans ((ext_hi (fn5 ++ mk ++ mreg ++ t ++ s ++ d) mj (by decide)).trans ((ext_lo (fn5 ++ mk ++ mreg ++ t ++ s) d (by decide)).trans (ext_self d)))

@[simp] theorem elOp_packElem (op : BitVec 7) (sa sb da db tag : BitVec 4) (lit : BitVec 5) : elOp (packElem op sa sb da db tag lit) = op :=
  (ext_hi (op ++ sa ++ sb ++ da ++ db ++ tag) lit (by decide)).trans ((ext_hi (op ++ sa ++ sb ++ da ++ db) tag (by decide)).trans ((ext_hi (op ++ sa ++ sb ++ da) db (by decide)).trans ((ext_hi (op ++ sa ++ sb) da (by decide)).trans ((ext_hi (op ++ sa) sb (by decide)).trans ((ext_hi op sa (by decide)).trans (ext_self op))))))

@[simp] theorem elSa_packElem (op : BitVec 7) (sa sb da db tag : BitVec 4) (lit : BitVec 5) : elSa (packElem op sa sb da db tag lit) = sa :=
  (ext_hi (op ++ sa ++ sb ++ da ++ db ++ tag) lit (by decide)).trans ((ext_hi (op ++ sa ++ sb ++ da ++ db) tag (by decide)).trans ((ext_hi (op ++ sa ++ sb ++ da) db (by decide)).trans ((ext_hi (op ++ sa ++ sb) da (by decide)).trans ((ext_hi (op ++ sa) sb (by decide)).trans ((ext_lo op sa (by decide)).trans (ext_self sa))))))

@[simp] theorem elSb_packElem (op : BitVec 7) (sa sb da db tag : BitVec 4) (lit : BitVec 5) : elSb (packElem op sa sb da db tag lit) = sb :=
  (ext_hi (op ++ sa ++ sb ++ da ++ db ++ tag) lit (by decide)).trans ((ext_hi (op ++ sa ++ sb ++ da ++ db) tag (by decide)).trans ((ext_hi (op ++ sa ++ sb ++ da) db (by decide)).trans ((ext_hi (op ++ sa ++ sb) da (by decide)).trans ((ext_lo (op ++ sa) sb (by decide)).trans (ext_self sb)))))

@[simp] theorem elDa_packElem (op : BitVec 7) (sa sb da db tag : BitVec 4) (lit : BitVec 5) : elDa (packElem op sa sb da db tag lit) = da :=
  (ext_hi (op ++ sa ++ sb ++ da ++ db ++ tag) lit (by decide)).trans ((ext_hi (op ++ sa ++ sb ++ da ++ db) tag (by decide)).trans ((ext_hi (op ++ sa ++ sb ++ da) db (by decide)).trans ((ext_lo (op ++ sa ++ sb) da (by decide)).trans (ext_self da))))

@[simp] theorem elDb_packElem (op : BitVec 7) (sa sb da db tag : BitVec 4) (lit : BitVec 5) : elDb (packElem op sa sb da db tag lit) = db :=
  (ext_hi (op ++ sa ++ sb ++ da ++ db ++ tag) lit (by decide)).trans ((ext_hi (op ++ sa ++ sb ++ da ++ db) tag (by decide)).trans ((ext_lo (op ++ sa ++ sb ++ da) db (by decide)).trans (ext_self db)))

@[simp] theorem elTag_packElem (op : BitVec 7) (sa sb da db tag : BitVec 4) (lit : BitVec 5) : elTag (packElem op sa sb da db tag lit) = tag :=
  (ext_hi (op ++ sa ++ sb ++ da ++ db ++ tag) lit (by decide)).trans ((ext_lo (op ++ sa ++ sb ++ da ++ db) tag (by decide)).trans (ext_self tag))

@[simp] theorem elLit_packElem (op : BitVec 7) (sa sb da db tag : BitVec 4) (lit : BitVec 5) : elLit (packElem op sa sb da db tag lit) = lit :=
  (ext_lo (op ++ sa ++ sb ++ da ++ db ++ tag) lit (by decide)).trans (ext_self lit)

@[simp] theorem word0_part0 (q : Qual) : (0#25 ++ q.fe ++ q.kind ++ q.scope : Parcel).extractLsb' 0 3 = q.scope :=
  (ext_lo (0#25 ++ q.fe ++ q.kind) q.scope (by decide)).trans (ext_self q.scope)

@[simp] theorem word0_part1 (q : Qual) : (0#25 ++ q.fe ++ q.kind ++ q.scope : Parcel).extractLsb' 3 2 = q.kind :=
  (ext_hi (0#25 ++ q.fe ++ q.kind) q.scope (by decide)).trans ((ext_lo (0#25 ++ q.fe) q.kind (by decide)).trans (ext_self q.kind))

@[simp] theorem word0_part2 (q : Qual) : (0#25 ++ q.fe ++ q.kind ++ q.scope : Parcel).extractLsb' 5 2 = q.fe :=
  (ext_hi (0#25 ++ q.fe ++ q.kind) q.scope (by decide)).trans ((ext_hi (0#25 ++ q.fe) q.kind (by decide)).trans ((ext_lo 0#25 q.fe (by decide)).trans (ext_self q.fe)))

@[simp] theorem word0_part3 (q : Qual) : (0#25 ++ q.fe ++ q.kind ++ q.scope : Parcel).extractLsb' 7 25 = 0#25 :=
  (ext_hi (0#25 ++ q.fe ++ q.kind) q.scope (by decide)).trans ((ext_hi (0#25 ++ q.fe) q.kind (by decide)).trans ((ext_hi 0#25 q.fe (by decide)).trans (ext_self 0#25)))

@[simp] theorem word1_part0 (sat : BitVec 1) (rnd : BitVec 3) (dstf : BitVec 4) (srcf : BitVec 4) : (0#20 ++ sat ++ rnd ++ dstf ++ srcf : Parcel).extractLsb' 0 4 = srcf :=
  (ext_lo (0#20 ++ sat ++ rnd ++ dstf) srcf (by decide)).trans (ext_self srcf)

@[simp] theorem word1_part1 (sat : BitVec 1) (rnd : BitVec 3) (dstf : BitVec 4) (srcf : BitVec 4) : (0#20 ++ sat ++ rnd ++ dstf ++ srcf : Parcel).extractLsb' 4 4 = dstf :=
  (ext_hi (0#20 ++ sat ++ rnd ++ dstf) srcf (by decide)).trans ((ext_lo (0#20 ++ sat ++ rnd) dstf (by decide)).trans (ext_self dstf))

@[simp] theorem word1_part2 (sat : BitVec 1) (rnd : BitVec 3) (dstf : BitVec 4) (srcf : BitVec 4) : (0#20 ++ sat ++ rnd ++ dstf ++ srcf : Parcel).extractLsb' 8 3 = rnd :=
  (ext_hi (0#20 ++ sat ++ rnd ++ dstf) srcf (by decide)).trans ((ext_hi (0#20 ++ sat ++ rnd) dstf (by decide)).trans ((ext_lo (0#20 ++ sat) rnd (by decide)).trans (ext_self rnd)))

@[simp] theorem word1_part3 (sat : BitVec 1) (rnd : BitVec 3) (dstf : BitVec 4) (srcf : BitVec 4) : (0#20 ++ sat ++ rnd ++ dstf ++ srcf : Parcel).extractLsb' 11 1 = sat :=
  (ext_hi (0#20 ++ sat ++ rnd ++ dstf) srcf (by decide)).trans ((ext_hi (0#20 ++ sat ++ rnd) dstf (by decide)).trans ((ext_hi (0#20 ++ sat) rnd (by decide)).trans ((ext_lo 0#20 sat (by decide)).trans (ext_self sat))))

@[simp] theorem word1_part4 (sat : BitVec 1) (rnd : BitVec 3) (dstf : BitVec 4) (srcf : BitVec 4) : (0#20 ++ sat ++ rnd ++ dstf ++ srcf : Parcel).extractLsb' 12 20 = 0#20 :=
  (ext_hi (0#20 ++ sat ++ rnd ++ dstf) srcf (by decide)).trans ((ext_hi (0#20 ++ sat ++ rnd) dstf (by decide)).trans ((ext_hi (0#20 ++ sat) rnd (by decide)).trans ((ext_hi 0#20 sat (by decide)).trans (ext_self 0#20))))

@[simp] theorem word2_part0 (rm : BitVec 2) (ch : BitVec 6) : (0#24 ++ rm ++ ch : Parcel).extractLsb' 0 6 = ch :=
  (ext_lo (0#24 ++ rm) ch (by decide)).trans (ext_self ch)

@[simp] theorem word2_part1 (rm : BitVec 2) (ch : BitVec 6) : (0#24 ++ rm ++ ch : Parcel).extractLsb' 6 2 = rm :=
  (ext_hi (0#24 ++ rm) ch (by decide)).trans ((ext_lo 0#24 rm (by decide)).trans (ext_self rm))

@[simp] theorem word2_part2 (rm : BitVec 2) (ch : BitVec 6) : (0#24 ++ rm ++ ch : Parcel).extractLsb' 8 24 = 0#24 :=
  (ext_hi (0#24 ++ rm) ch (by decide)).trans ((ext_hi 0#24 rm (by decide)).trans (ext_self 0#24))

@[simp] theorem word3_part0 (rm : BitVec 2) (ch : BitVec 6) : (1#24 ++ rm ++ ch : Parcel).extractLsb' 0 6 = ch :=
  (ext_lo (1#24 ++ rm) ch (by decide)).trans (ext_self ch)

@[simp] theorem word3_part1 (rm : BitVec 2) (ch : BitVec 6) : (1#24 ++ rm ++ ch : Parcel).extractLsb' 6 2 = rm :=
  (ext_hi (1#24 ++ rm) ch (by decide)).trans ((ext_lo 1#24 rm (by decide)).trans (ext_self rm))

@[simp] theorem word3_part2 (rm : BitVec 2) (ch : BitVec 6) : (1#24 ++ rm ++ ch : Parcel).extractLsb' 8 24 = 1#24 :=
  (ext_hi (1#24 ++ rm) ch (by decide)).trans ((ext_hi 1#24 rm (by decide)).trans (ext_self 1#24))

@[simp] theorem word4_part0 (off : BitVec 24) (sz : BitVec 8) : (off ++ sz : Parcel).extractLsb' 0 8 = sz :=
  (ext_lo off sz (by decide)).trans (ext_self sz)

@[simp] theorem word4_part1 (off : BitVec 24) (sz : BitVec 8) : (off ++ sz : Parcel).extractLsb' 8 24 = off :=
  (ext_hi off sz (by decide)).trans (ext_self off)

@[simp] theorem word5_part0 (wslot : BitVec 6) (sat : BitVec 1) (rnd : BitVec 3) (ofmt : BitVec 4) (wfmt : BitVec 4) (afmt : BitVec 4) : (0#7 ++ wslot ++ sat ++ rnd ++ 0#3 ++ ofmt ++ wfmt ++ afmt : Parcel).extractLsb' 0 4 = afmt :=
  (ext_lo (0#7 ++ wslot ++ sat ++ rnd ++ 0#3 ++ ofmt ++ wfmt) afmt (by decide)).trans (ext_self afmt)

@[simp] theorem word5_part1 (wslot : BitVec 6) (sat : BitVec 1) (rnd : BitVec 3) (ofmt : BitVec 4) (wfmt : BitVec 4) (afmt : BitVec 4) : (0#7 ++ wslot ++ sat ++ rnd ++ 0#3 ++ ofmt ++ wfmt ++ afmt : Parcel).extractLsb' 4 4 = wfmt :=
  (ext_hi (0#7 ++ wslot ++ sat ++ rnd ++ 0#3 ++ ofmt ++ wfmt) afmt (by decide)).trans ((ext_lo (0#7 ++ wslot ++ sat ++ rnd ++ 0#3 ++ ofmt) wfmt (by decide)).trans (ext_self wfmt))

@[simp] theorem word5_part2 (wslot : BitVec 6) (sat : BitVec 1) (rnd : BitVec 3) (ofmt : BitVec 4) (wfmt : BitVec 4) (afmt : BitVec 4) : (0#7 ++ wslot ++ sat ++ rnd ++ 0#3 ++ ofmt ++ wfmt ++ afmt : Parcel).extractLsb' 8 4 = ofmt :=
  (ext_hi (0#7 ++ wslot ++ sat ++ rnd ++ 0#3 ++ ofmt ++ wfmt) afmt (by decide)).trans ((ext_hi (0#7 ++ wslot ++ sat ++ rnd ++ 0#3 ++ ofmt) wfmt (by decide)).trans ((ext_lo (0#7 ++ wslot ++ sat ++ rnd ++ 0#3) ofmt (by decide)).trans (ext_self ofmt)))

@[simp] theorem word5_part3 (wslot : BitVec 6) (sat : BitVec 1) (rnd : BitVec 3) (ofmt : BitVec 4) (wfmt : BitVec 4) (afmt : BitVec 4) : (0#7 ++ wslot ++ sat ++ rnd ++ 0#3 ++ ofmt ++ wfmt ++ afmt : Parcel).extractLsb' 12 3 = 0#3 :=
  (ext_hi (0#7 ++ wslot ++ sat ++ rnd ++ 0#3 ++ ofmt ++ wfmt) afmt (by decide)).trans ((ext_hi (0#7 ++ wslot ++ sat ++ rnd ++ 0#3 ++ ofmt) wfmt (by decide)).trans ((ext_hi (0#7 ++ wslot ++ sat ++ rnd ++ 0#3) ofmt (by decide)).trans ((ext_lo (0#7 ++ wslot ++ sat ++ rnd) 0#3 (by decide)).trans (ext_self 0#3))))

@[simp] theorem word5_part4 (wslot : BitVec 6) (sat : BitVec 1) (rnd : BitVec 3) (ofmt : BitVec 4) (wfmt : BitVec 4) (afmt : BitVec 4) : (0#7 ++ wslot ++ sat ++ rnd ++ 0#3 ++ ofmt ++ wfmt ++ afmt : Parcel).extractLsb' 15 3 = rnd :=
  (ext_hi (0#7 ++ wslot ++ sat ++ rnd ++ 0#3 ++ ofmt ++ wfmt) afmt (by decide)).trans ((ext_hi (0#7 ++ wslot ++ sat ++ rnd ++ 0#3 ++ ofmt) wfmt (by decide)).trans ((ext_hi (0#7 ++ wslot ++ sat ++ rnd ++ 0#3) ofmt (by decide)).trans ((ext_hi (0#7 ++ wslot ++ sat ++ rnd) 0#3 (by decide)).trans ((ext_lo (0#7 ++ wslot ++ sat) rnd (by decide)).trans (ext_self rnd)))))

@[simp] theorem word5_part5 (wslot : BitVec 6) (sat : BitVec 1) (rnd : BitVec 3) (ofmt : BitVec 4) (wfmt : BitVec 4) (afmt : BitVec 4) : (0#7 ++ wslot ++ sat ++ rnd ++ 0#3 ++ ofmt ++ wfmt ++ afmt : Parcel).extractLsb' 18 1 = sat :=
  (ext_hi (0#7 ++ wslot ++ sat ++ rnd ++ 0#3 ++ ofmt ++ wfmt) afmt (by decide)).trans ((ext_hi (0#7 ++ wslot ++ sat ++ rnd ++ 0#3 ++ ofmt) wfmt (by decide)).trans ((ext_hi (0#7 ++ wslot ++ sat ++ rnd ++ 0#3) ofmt (by decide)).trans ((ext_hi (0#7 ++ wslot ++ sat ++ rnd) 0#3 (by decide)).trans ((ext_hi (0#7 ++ wslot ++ sat) rnd (by decide)).trans ((ext_lo (0#7 ++ wslot) sat (by decide)).trans (ext_self sat))))))

@[simp] theorem word5_part6 (wslot : BitVec 6) (sat : BitVec 1) (rnd : BitVec 3) (ofmt : BitVec 4) (wfmt : BitVec 4) (afmt : BitVec 4) : (0#7 ++ wslot ++ sat ++ rnd ++ 0#3 ++ ofmt ++ wfmt ++ afmt : Parcel).extractLsb' 19 6 = wslot :=
  (ext_hi (0#7 ++ wslot ++ sat ++ rnd ++ 0#3 ++ ofmt ++ wfmt) afmt (by decide)).trans ((ext_hi (0#7 ++ wslot ++ sat ++ rnd ++ 0#3 ++ ofmt) wfmt (by decide)).trans ((ext_hi (0#7 ++ wslot ++ sat ++ rnd ++ 0#3) ofmt (by decide)).trans ((ext_hi (0#7 ++ wslot ++ sat ++ rnd) 0#3 (by decide)).trans ((ext_hi (0#7 ++ wslot ++ sat) rnd (by decide)).trans ((ext_hi (0#7 ++ wslot) sat (by decide)).trans ((ext_lo 0#7 wslot (by decide)).trans (ext_self wslot)))))))

@[simp] theorem word5_part7 (wslot : BitVec 6) (sat : BitVec 1) (rnd : BitVec 3) (ofmt : BitVec 4) (wfmt : BitVec 4) (afmt : BitVec 4) : (0#7 ++ wslot ++ sat ++ rnd ++ 0#3 ++ ofmt ++ wfmt ++ afmt : Parcel).extractLsb' 25 7 = 0#7 :=
  (ext_hi (0#7 ++ wslot ++ sat ++ rnd ++ 0#3 ++ ofmt ++ wfmt) afmt (by decide)).trans ((ext_hi (0#7 ++ wslot ++ sat ++ rnd ++ 0#3 ++ ofmt) wfmt (by decide)).trans ((ext_hi (0#7 ++ wslot ++ sat ++ rnd ++ 0#3) ofmt (by decide)).trans ((ext_hi (0#7 ++ wslot ++ sat ++ rnd) 0#3 (by decide)).trans ((ext_hi (0#7 ++ wslot ++ sat) rnd (by decide)).trans ((ext_hi (0#7 ++ wslot) sat (by decide)).trans ((ext_hi 0#7 wslot (by decide)).trans (ext_self 0#7)))))))

@[simp] theorem word6_part0 (force : BitVec 1) : (0#31 ++ force : Parcel).extractLsb' 0 1 = force :=
  (ext_lo 0#31 force (by decide)).trans (ext_self force)

@[simp] theorem word6_part1 (force : BitVec 1) : (0#31 ++ force : Parcel).extractLsb' 1 31 = 0#31 :=
  (ext_hi 0#31 force (by decide)).trans (ext_self 0#31)

@[simp] theorem word7_part0 (ch : BitVec 6) : (0#26 ++ ch : Parcel).extractLsb' 0 6 = ch :=
  (ext_lo 0#26 ch (by decide)).trans (ext_self ch)

@[simp] theorem word7_part1 (ch : BitVec 6) : (0#26 ++ ch : Parcel).extractLsb' 6 26 = 0#26 :=
  (ext_hi 0#26 ch (by decide)).trans (ext_self 0#26)

@[simp] theorem word8_part0 (wm : BitVec 1) (ch : BitVec 6) : (0#23 ++ wm ++ 0#2 ++ ch : Parcel).extractLsb' 0 6 = ch :=
  (ext_lo (0#23 ++ wm ++ 0#2) ch (by decide)).trans (ext_self ch)

@[simp] theorem word8_part1 (wm : BitVec 1) (ch : BitVec 6) : (0#23 ++ wm ++ 0#2 ++ ch : Parcel).extractLsb' 6 2 = 0#2 :=
  (ext_hi (0#23 ++ wm ++ 0#2) ch (by decide)).trans ((ext_lo (0#23 ++ wm) 0#2 (by decide)).trans (ext_self 0#2))

@[simp] theorem word8_part2 (wm : BitVec 1) (ch : BitVec 6) : (0#23 ++ wm ++ 0#2 ++ ch : Parcel).extractLsb' 8 1 = wm :=
  (ext_hi (0#23 ++ wm ++ 0#2) ch (by decide)).trans ((ext_hi (0#23 ++ wm) 0#2 (by decide)).trans ((ext_lo 0#23 wm (by decide)).trans (ext_self wm)))

@[simp] theorem word8_part3 (wm : BitVec 1) (ch : BitVec 6) : (0#23 ++ wm ++ 0#2 ++ ch : Parcel).extractLsb' 9 23 = 0#23 :=
  (ext_hi (0#23 ++ wm ++ 0#2) ch (by decide)).trans ((ext_hi (0#23 ++ wm) 0#2 (by decide)).trans ((ext_hi 0#23 wm (by decide)).trans (ext_self 0#23)))

@[simp] theorem word9_part0 (last : BitVec 1) (rank : BitVec 3) (ch : BitVec 6) : (0#20 ++ last ++ rank ++ 0#2 ++ ch : Parcel).extractLsb' 0 6 = ch :=
  (ext_lo (0#20 ++ last ++ rank ++ 0#2) ch (by decide)).trans (ext_self ch)

@[simp] theorem word9_part1 (last : BitVec 1) (rank : BitVec 3) (ch : BitVec 6) : (0#20 ++ last ++ rank ++ 0#2 ++ ch : Parcel).extractLsb' 6 2 = 0#2 :=
  (ext_hi (0#20 ++ last ++ rank ++ 0#2) ch (by decide)).trans ((ext_lo (0#20 ++ last ++ rank) 0#2 (by decide)).trans (ext_self 0#2))

@[simp] theorem word9_part2 (last : BitVec 1) (rank : BitVec 3) (ch : BitVec 6) : (0#20 ++ last ++ rank ++ 0#2 ++ ch : Parcel).extractLsb' 8 3 = rank :=
  (ext_hi (0#20 ++ last ++ rank ++ 0#2) ch (by decide)).trans ((ext_hi (0#20 ++ last ++ rank) 0#2 (by decide)).trans ((ext_lo (0#20 ++ last) rank (by decide)).trans (ext_self rank)))

@[simp] theorem word9_part3 (last : BitVec 1) (rank : BitVec 3) (ch : BitVec 6) : (0#20 ++ last ++ rank ++ 0#2 ++ ch : Parcel).extractLsb' 11 1 = last :=
  (ext_hi (0#20 ++ last ++ rank ++ 0#2) ch (by decide)).trans ((ext_hi (0#20 ++ last ++ rank) 0#2 (by decide)).trans ((ext_hi (0#20 ++ last) rank (by decide)).trans ((ext_lo 0#20 last (by decide)).trans (ext_self last))))

@[simp] theorem word9_part4 (last : BitVec 1) (rank : BitVec 3) (ch : BitVec 6) : (0#20 ++ last ++ rank ++ 0#2 ++ ch : Parcel).extractLsb' 12 20 = 0#20 :=
  (ext_hi (0#20 ++ last ++ rank ++ 0#2) ch (by decide)).trans ((ext_hi (0#20 ++ last ++ rank) 0#2 (by decide)).trans ((ext_hi (0#20 ++ last) rank (by decide)).trans ((ext_hi 0#20 last (by decide)).trans (ext_self 0#20))))

@[simp] theorem word10_part0 (sat : BitVec 1) (rnd : BitVec 3) (tr : BitVec 1) (rm : BitVec 2) (ch : BitVec 6) : (0#19 ++ sat ++ rnd ++ tr ++ rm ++ ch : Parcel).extractLsb' 0 6 = ch :=
  (ext_lo (0#19 ++ sat ++ rnd ++ tr ++ rm) ch (by decide)).trans (ext_self ch)

@[simp] theorem word10_part1 (sat : BitVec 1) (rnd : BitVec 3) (tr : BitVec 1) (rm : BitVec 2) (ch : BitVec 6) : (0#19 ++ sat ++ rnd ++ tr ++ rm ++ ch : Parcel).extractLsb' 6 2 = rm :=
  (ext_hi (0#19 ++ sat ++ rnd ++ tr ++ rm) ch (by decide)).trans ((ext_lo (0#19 ++ sat ++ rnd ++ tr) rm (by decide)).trans (ext_self rm))

@[simp] theorem word10_part2 (sat : BitVec 1) (rnd : BitVec 3) (tr : BitVec 1) (rm : BitVec 2) (ch : BitVec 6) : (0#19 ++ sat ++ rnd ++ tr ++ rm ++ ch : Parcel).extractLsb' 8 1 = tr :=
  (ext_hi (0#19 ++ sat ++ rnd ++ tr ++ rm) ch (by decide)).trans ((ext_hi (0#19 ++ sat ++ rnd ++ tr) rm (by decide)).trans ((ext_lo (0#19 ++ sat ++ rnd) tr (by decide)).trans (ext_self tr)))

@[simp] theorem word10_part3 (sat : BitVec 1) (rnd : BitVec 3) (tr : BitVec 1) (rm : BitVec 2) (ch : BitVec 6) : (0#19 ++ sat ++ rnd ++ tr ++ rm ++ ch : Parcel).extractLsb' 9 3 = rnd :=
  (ext_hi (0#19 ++ sat ++ rnd ++ tr ++ rm) ch (by decide)).trans ((ext_hi (0#19 ++ sat ++ rnd ++ tr) rm (by decide)).trans ((ext_hi (0#19 ++ sat ++ rnd) tr (by decide)).trans ((ext_lo (0#19 ++ sat) rnd (by decide)).trans (ext_self rnd))))

@[simp] theorem word10_part4 (sat : BitVec 1) (rnd : BitVec 3) (tr : BitVec 1) (rm : BitVec 2) (ch : BitVec 6) : (0#19 ++ sat ++ rnd ++ tr ++ rm ++ ch : Parcel).extractLsb' 12 1 = sat :=
  (ext_hi (0#19 ++ sat ++ rnd ++ tr ++ rm) ch (by decide)).trans ((ext_hi (0#19 ++ sat ++ rnd ++ tr) rm (by decide)).trans ((ext_hi (0#19 ++ sat ++ rnd) tr (by decide)).trans ((ext_hi (0#19 ++ sat) rnd (by decide)).trans ((ext_lo 0#19 sat (by decide)).trans (ext_self sat)))))

@[simp] theorem word10_part5 (sat : BitVec 1) (rnd : BitVec 3) (tr : BitVec 1) (rm : BitVec 2) (ch : BitVec 6) : (0#19 ++ sat ++ rnd ++ tr ++ rm ++ ch : Parcel).extractLsb' 13 19 = 0#19 :=
  (ext_hi (0#19 ++ sat ++ rnd ++ tr ++ rm) ch (by decide)).trans ((ext_hi (0#19 ++ sat ++ rnd ++ tr) rm (by decide)).trans ((ext_hi (0#19 ++ sat ++ rnd) tr (by decide)).trans ((ext_hi (0#19 ++ sat) rnd (by decide)).trans ((ext_hi 0#19 sat (by decide)).trans (ext_self 0#19)))))

@[simp] theorem word11_part0 (sat : BitVec 1) (rnd : BitVec 3) (ifmt : BitVec 1) (ofmt : BitVec 4) (afmt : BitVec 4) : (0#13 ++ sat ++ rnd ++ ifmt ++ 0#2 ++ ofmt ++ 0#4 ++ afmt : Parcel).extractLsb' 0 4 = afmt :=
  (ext_lo (0#13 ++ sat ++ rnd ++ ifmt ++ 0#2 ++ ofmt ++ 0#4) afmt (by decide)).trans (ext_self afmt)

@[simp] theorem word11_part1 (sat : BitVec 1) (rnd : BitVec 3) (ifmt : BitVec 1) (ofmt : BitVec 4) (afmt : BitVec 4) : (0#13 ++ sat ++ rnd ++ ifmt ++ 0#2 ++ ofmt ++ 0#4 ++ afmt : Parcel).extractLsb' 4 4 = 0#4 :=
  (ext_hi (0#13 ++ sat ++ rnd ++ ifmt ++ 0#2 ++ ofmt ++ 0#4) afmt (by decide)).trans ((ext_lo (0#13 ++ sat ++ rnd ++ ifmt ++ 0#2 ++ ofmt) 0#4 (by decide)).trans (ext_self 0#4))

@[simp] theorem word11_part2 (sat : BitVec 1) (rnd : BitVec 3) (ifmt : BitVec 1) (ofmt : BitVec 4) (afmt : BitVec 4) : (0#13 ++ sat ++ rnd ++ ifmt ++ 0#2 ++ ofmt ++ 0#4 ++ afmt : Parcel).extractLsb' 8 4 = ofmt :=
  (ext_hi (0#13 ++ sat ++ rnd ++ ifmt ++ 0#2 ++ ofmt ++ 0#4) afmt (by decide)).trans ((ext_hi (0#13 ++ sat ++ rnd ++ ifmt ++ 0#2 ++ ofmt) 0#4 (by decide)).trans ((ext_lo (0#13 ++ sat ++ rnd ++ ifmt ++ 0#2) ofmt (by decide)).trans (ext_self ofmt)))

@[simp] theorem word11_part3 (sat : BitVec 1) (rnd : BitVec 3) (ifmt : BitVec 1) (ofmt : BitVec 4) (afmt : BitVec 4) : (0#13 ++ sat ++ rnd ++ ifmt ++ 0#2 ++ ofmt ++ 0#4 ++ afmt : Parcel).extractLsb' 12 2 = 0#2 :=
  (ext_hi (0#13 ++ sat ++ rnd ++ ifmt ++ 0#2 ++ ofmt ++ 0#4) afmt (by decide)).trans ((ext_hi (0#13 ++ sat ++ rnd ++ ifmt ++ 0#2 ++ ofmt) 0#4 (by decide)).trans ((ext_hi (0#13 ++ sat ++ rnd ++ ifmt ++ 0#2) ofmt (by decide)).trans ((ext_lo (0#13 ++ sat ++ rnd ++ ifmt) 0#2 (by decide)).trans (ext_self 0#2))))

@[simp] theorem word11_part4 (sat : BitVec 1) (rnd : BitVec 3) (ifmt : BitVec 1) (ofmt : BitVec 4) (afmt : BitVec 4) : (0#13 ++ sat ++ rnd ++ ifmt ++ 0#2 ++ ofmt ++ 0#4 ++ afmt : Parcel).extractLsb' 14 1 = ifmt :=
  (ext_hi (0#13 ++ sat ++ rnd ++ ifmt ++ 0#2 ++ ofmt ++ 0#4) afmt (by decide)).trans ((ext_hi (0#13 ++ sat ++ rnd ++ ifmt ++ 0#2 ++ ofmt) 0#4 (by decide)).trans ((ext_hi (0#13 ++ sat ++ rnd ++ ifmt ++ 0#2) ofmt (by decide)).trans ((ext_hi (0#13 ++ sat ++ rnd ++ ifmt) 0#2 (by decide)).trans ((ext_lo (0#13 ++ sat ++ rnd) ifmt (by decide)).trans (ext_self ifmt)))))

@[simp] theorem word11_part5 (sat : BitVec 1) (rnd : BitVec 3) (ifmt : BitVec 1) (ofmt : BitVec 4) (afmt : BitVec 4) : (0#13 ++ sat ++ rnd ++ ifmt ++ 0#2 ++ ofmt ++ 0#4 ++ afmt : Parcel).extractLsb' 15 3 = rnd :=
  (ext_hi (0#13 ++ sat ++ rnd ++ ifmt ++ 0#2 ++ ofmt ++ 0#4) afmt (by decide)).trans ((ext_hi (0#13 ++ sat ++ rnd ++ ifmt ++ 0#2 ++ ofmt) 0#4 (by decide)).trans ((ext_hi (0#13 ++ sat ++ rnd ++ ifmt ++ 0#2) ofmt (by decide)).trans ((ext_hi (0#13 ++ sat ++ rnd ++ ifmt) 0#2 (by decide)).trans ((ext_hi (0#13 ++ sat ++ rnd) ifmt (by decide)).trans ((ext_lo (0#13 ++ sat) rnd (by decide)).trans (ext_self rnd))))))

@[simp] theorem word11_part6 (sat : BitVec 1) (rnd : BitVec 3) (ifmt : BitVec 1) (ofmt : BitVec 4) (afmt : BitVec 4) : (0#13 ++ sat ++ rnd ++ ifmt ++ 0#2 ++ ofmt ++ 0#4 ++ afmt : Parcel).extractLsb' 18 1 = sat :=
  (ext_hi (0#13 ++ sat ++ rnd ++ ifmt ++ 0#2 ++ ofmt ++ 0#4) afmt (by decide)).trans ((ext_hi (0#13 ++ sat ++ rnd ++ ifmt ++ 0#2 ++ ofmt) 0#4 (by decide)).trans ((ext_hi (0#13 ++ sat ++ rnd ++ ifmt ++ 0#2) ofmt (by decide)).trans ((ext_hi (0#13 ++ sat ++ rnd ++ ifmt) 0#2 (by decide)).trans ((ext_hi (0#13 ++ sat ++ rnd) ifmt (by decide)).trans ((ext_hi (0#13 ++ sat) rnd (by decide)).trans ((ext_lo 0#13 sat (by decide)).trans (ext_self sat)))))))

@[simp] theorem word11_part7 (sat : BitVec 1) (rnd : BitVec 3) (ifmt : BitVec 1) (ofmt : BitVec 4) (afmt : BitVec 4) : (0#13 ++ sat ++ rnd ++ ifmt ++ 0#2 ++ ofmt ++ 0#4 ++ afmt : Parcel).extractLsb' 19 13 = 0#13 :=
  (ext_hi (0#13 ++ sat ++ rnd ++ ifmt ++ 0#2 ++ ofmt ++ 0#4) afmt (by decide)).trans ((ext_hi (0#13 ++ sat ++ rnd ++ ifmt ++ 0#2 ++ ofmt) 0#4 (by decide)).trans ((ext_hi (0#13 ++ sat ++ rnd ++ ifmt ++ 0#2) ofmt (by decide)).trans ((ext_hi (0#13 ++ sat ++ rnd ++ ifmt) 0#2 (by decide)).trans ((ext_hi (0#13 ++ sat ++ rnd) ifmt (by decide)).trans ((ext_hi (0#13 ++ sat) rnd (by decide)).trans ((ext_hi 0#13 sat (by decide)).trans (ext_self 0#13)))))))

@[simp] theorem word12_part0 (sslot : BitVec 6) (wslot : BitVec 6) (smode : BitVec 2) (wfmt : BitVec 4) (afmt : BitVec 4) : (0#1 ++ sslot ++ wslot ++ 0#5 ++ smode ++ 0#4 ++ wfmt ++ afmt : Parcel).extractLsb' 0 4 = afmt :=
  (ext_lo (0#1 ++ sslot ++ wslot ++ 0#5 ++ smode ++ 0#4 ++ wfmt) afmt (by decide)).trans (ext_self afmt)

@[simp] theorem word12_part1 (sslot : BitVec 6) (wslot : BitVec 6) (smode : BitVec 2) (wfmt : BitVec 4) (afmt : BitVec 4) : (0#1 ++ sslot ++ wslot ++ 0#5 ++ smode ++ 0#4 ++ wfmt ++ afmt : Parcel).extractLsb' 4 4 = wfmt :=
  (ext_hi (0#1 ++ sslot ++ wslot ++ 0#5 ++ smode ++ 0#4 ++ wfmt) afmt (by decide)).trans ((ext_lo (0#1 ++ sslot ++ wslot ++ 0#5 ++ smode ++ 0#4) wfmt (by decide)).trans (ext_self wfmt))

@[simp] theorem word12_part2 (sslot : BitVec 6) (wslot : BitVec 6) (smode : BitVec 2) (wfmt : BitVec 4) (afmt : BitVec 4) : (0#1 ++ sslot ++ wslot ++ 0#5 ++ smode ++ 0#4 ++ wfmt ++ afmt : Parcel).extractLsb' 8 4 = 0#4 :=
  (ext_hi (0#1 ++ sslot ++ wslot ++ 0#5 ++ smode ++ 0#4 ++ wfmt) afmt (by decide)).trans ((ext_hi (0#1 ++ sslot ++ wslot ++ 0#5 ++ smode ++ 0#4) wfmt (by decide)).trans ((ext_lo (0#1 ++ sslot ++ wslot ++ 0#5 ++ smode) 0#4 (by decide)).trans (ext_self 0#4)))

@[simp] theorem word12_part3 (sslot : BitVec 6) (wslot : BitVec 6) (smode : BitVec 2) (wfmt : BitVec 4) (afmt : BitVec 4) : (0#1 ++ sslot ++ wslot ++ 0#5 ++ smode ++ 0#4 ++ wfmt ++ afmt : Parcel).extractLsb' 12 2 = smode :=
  (ext_hi (0#1 ++ sslot ++ wslot ++ 0#5 ++ smode ++ 0#4 ++ wfmt) afmt (by decide)).trans ((ext_hi (0#1 ++ sslot ++ wslot ++ 0#5 ++ smode ++ 0#4) wfmt (by decide)).trans ((ext_hi (0#1 ++ sslot ++ wslot ++ 0#5 ++ smode) 0#4 (by decide)).trans ((ext_lo (0#1 ++ sslot ++ wslot ++ 0#5) smode (by decide)).trans (ext_self smode))))

@[simp] theorem word12_part4 (sslot : BitVec 6) (wslot : BitVec 6) (smode : BitVec 2) (wfmt : BitVec 4) (afmt : BitVec 4) : (0#1 ++ sslot ++ wslot ++ 0#5 ++ smode ++ 0#4 ++ wfmt ++ afmt : Parcel).extractLsb' 14 5 = 0#5 :=
  (ext_hi (0#1 ++ sslot ++ wslot ++ 0#5 ++ smode ++ 0#4 ++ wfmt) afmt (by decide)).trans ((ext_hi (0#1 ++ sslot ++ wslot ++ 0#5 ++ smode ++ 0#4) wfmt (by decide)).trans ((ext_hi (0#1 ++ sslot ++ wslot ++ 0#5 ++ smode) 0#4 (by decide)).trans ((ext_hi (0#1 ++ sslot ++ wslot ++ 0#5) smode (by decide)).trans ((ext_lo (0#1 ++ sslot ++ wslot) 0#5 (by decide)).trans (ext_self 0#5)))))

@[simp] theorem word12_part5 (sslot : BitVec 6) (wslot : BitVec 6) (smode : BitVec 2) (wfmt : BitVec 4) (afmt : BitVec 4) : (0#1 ++ sslot ++ wslot ++ 0#5 ++ smode ++ 0#4 ++ wfmt ++ afmt : Parcel).extractLsb' 19 6 = wslot :=
  (ext_hi (0#1 ++ sslot ++ wslot ++ 0#5 ++ smode ++ 0#4 ++ wfmt) afmt (by decide)).trans ((ext_hi (0#1 ++ sslot ++ wslot ++ 0#5 ++ smode ++ 0#4) wfmt (by decide)).trans ((ext_hi (0#1 ++ sslot ++ wslot ++ 0#5 ++ smode) 0#4 (by decide)).trans ((ext_hi (0#1 ++ sslot ++ wslot ++ 0#5) smode (by decide)).trans ((ext_hi (0#1 ++ sslot ++ wslot) 0#5 (by decide)).trans ((ext_lo (0#1 ++ sslot) wslot (by decide)).trans (ext_self wslot))))))

@[simp] theorem word12_part6 (sslot : BitVec 6) (wslot : BitVec 6) (smode : BitVec 2) (wfmt : BitVec 4) (afmt : BitVec 4) : (0#1 ++ sslot ++ wslot ++ 0#5 ++ smode ++ 0#4 ++ wfmt ++ afmt : Parcel).extractLsb' 25 6 = sslot :=
  (ext_hi (0#1 ++ sslot ++ wslot ++ 0#5 ++ smode ++ 0#4 ++ wfmt) afmt (by decide)).trans ((ext_hi (0#1 ++ sslot ++ wslot ++ 0#5 ++ smode ++ 0#4) wfmt (by decide)).trans ((ext_hi (0#1 ++ sslot ++ wslot ++ 0#5 ++ smode) 0#4 (by decide)).trans ((ext_hi (0#1 ++ sslot ++ wslot ++ 0#5) smode (by decide)).trans ((ext_hi (0#1 ++ sslot ++ wslot) 0#5 (by decide)).trans ((ext_hi (0#1 ++ sslot) wslot (by decide)).trans ((ext_lo 0#1 sslot (by decide)).trans (ext_self sslot)))))))

@[simp] theorem word12_part7 (sslot : BitVec 6) (wslot : BitVec 6) (smode : BitVec 2) (wfmt : BitVec 4) (afmt : BitVec 4) : (0#1 ++ sslot ++ wslot ++ 0#5 ++ smode ++ 0#4 ++ wfmt ++ afmt : Parcel).extractLsb' 31 1 = 0#1 :=
  (ext_hi (0#1 ++ sslot ++ wslot ++ 0#5 ++ smode ++ 0#4 ++ wfmt) afmt (by decide)).trans ((ext_hi (0#1 ++ sslot ++ wslot ++ 0#5 ++ smode ++ 0#4) wfmt (by decide)).trans ((ext_hi (0#1 ++ sslot ++ wslot ++ 0#5 ++ smode) 0#4 (by decide)).trans ((ext_hi (0#1 ++ sslot ++ wslot ++ 0#5) smode (by decide)).trans ((ext_hi (0#1 ++ sslot ++ wslot) 0#5 (by decide)).trans ((ext_hi (0#1 ++ sslot) wslot (by decide)).trans ((ext_hi 0#1 sslot (by decide)).trans (ext_self 0#1)))))))

/-- Whether a word of major 0x07 is FCVT: bit 31, the top bit of a ZR function code. -/
@[simp] theorem fFCVTone_packZR (mj : BitVec 6) (ln : BitVec 2) (fn : BitVec 9) (t s d : BitVec 5) :
    fFCVTone (packZR mj ln fn t s d) = fn.extractLsb' 8 1 :=
  (ext_hi (fn ++ t ++ s ++ d ++ mj) ln (by decide)).trans ((ext_hi (fn ++ t ++ s ++ d) mj (by decide)).trans ((ext_hi (fn ++ t ++ s) d (by decide)).trans
    ((ext_hi (fn ++ t) s (by decide)).trans (ext_hi fn t (by decide)))))

/-- Width and sign bit of a scalar memory word. -/
@[simp] theorem width_packSM (mj : BitVec 6) (ln : BitVec 2) (o : BitVec 12) (w : BitVec 2) (sx : BitVec 1) (a : BitVec 4) (d : BitVec 5) :
    (packSM mj ln o w sx a d).extractLsb' 17 3 = w ++ sx :=
  (ext_hi (o ++ w ++ sx ++ a ++ d ++ mj) ln (by decide)).trans ((ext_hi (o ++ w ++ sx ++ a ++ d) mj (by decide)).trans
    ((ext_hi (o ++ w ++ sx ++ a) d (by decide)).trans ((ext_hi (o ++ w ++ sx) a (by decide)).trans
      (((congrArg (·.extractLsb' 0 3) (BitVec.append_assoc (x₁ := o) (x₂ := w) (x₃ := sx))).trans (ext_lo o (w ++ sx) (by decide))).trans (ext_self (w ++ sx))))))

@[simp] theorem maskOpt_packVV (mj : BitVec 6) (ln : BitVec 2) (fn5 : BitVec 5) (mk : Option (BitVec 3)) (t s d : BitVec 5) :
    maskOpt (packVV mj ln fn5 (maskMk mk) (maskReg mk) t s d) = .ok mk := by
  cases mk <;> simp [maskOpt, maskMk, maskReg]

@[simp] theorem maskOpt_packVM (mj : BitVec 6) (ln : BitVec 2) (fn5 : BitVec 5) (mk : Option (BitVec 3)) (z : BitVec 1) (i : BitVec 5) (a : BitVec 4)
    (d : BitVec 5) : maskOpt (packVM mj ln fn5 (maskMk mk) (maskReg mk) z i a d) = .ok mk := by
  cases mk <;> simp [maskOpt, maskMk, maskReg]

@[simp] theorem maskReq_packVV (mj : BitVec 6) (ln : BitVec 2) (fn5 : BitVec 5) (m : BitVec 3) (t s d : BitVec 5) :
    maskReq (packVV mj ln fn5 1 m t s d) = .ok m := by
  simp [maskReq]

@[simp] theorem maskReq_packVM (mj : BitVec 6) (ln : BitVec 2) (fn5 : BitVec 5) (m : BitVec 3) (z : BitVec 1) (i : BitVec 5) (a : BitVec 4)
    (d : BitVec 5) : maskReq (packVM mj ln fn5 1 m z i a d) = .ok m := by
  simp [maskReq]

@[simp] theorem noMask_packVV (mj : BitVec 6) (ln : BitVec 2) (fn5 : BitVec 5) (t s d : BitVec 5) : noMask (packVV mj ln fn5 0 0 t s d) = .ok () := by
  simp [noMask]

@[simp] theorem noMask_packVM (mj : BitVec 6) (ln : BitVec 2) (fn5 : BitVec 5) (z : BitVec 1) (i : BitVec 5) (a : BitVec 4) (d : BitVec 5) :
    noMask (packVM mj ln fn5 0 0 z i a d) = .ok () := by
  simp [noMask]

/-- A word whose major is not 0 and whose length code is not 3 is decoded by its major. -/
theorem decode_major (p0 p1 p2 : Parcel) (hm : majorOf p0 ≠ 0) (hl : lenOf p0 ≠ 3) :
    decode p0 p1 p2 = decodeMajor (majorOf p0).toNat (lenOf p0).toNat p0 p1 p2 := by
  unfold decode
  rw [if_neg, if_neg hl]
  intro h
  subst h
  exact hm (by decide)

end Sys2Proof
end

