-- ==== Sys2Proof/Laws/Memory.lean ====
section
/-! SUPPORT. Sparse tables (`amGet`, `amSet`, `amDel`), byte storage (`Mem`) and byte lists: what a read gives after a write, and that every write keeps
the canonical form. -/

namespace Sys2Proof.Machine

open Sys2Proof

/-! ### Sparse tables -/

section
variable {κ ν : Type} [DecidableEq κ]

@[simp] theorem amGet_nil (k : κ) : amGet k ([] : List (κ × ν)) = none := rfl

@[simp] theorem amGet_amSet_self (k : κ) (v : ν) (l : List (κ × ν)) : amGet k (amSet k v l) = some v := by
  induction l with
  | nil => simp [amSet, amGet]
  | cons p r ih => by_cases h : k = p.1 <;> simp [amSet, amGet, h, ih]

theorem amGet_amSet_ne {k j : κ} (h : k ≠ j) (v : ν) (l : List (κ × ν)) : amGet k (amSet j v l) = amGet k l := by
  induction l with
  | nil => simp [amSet, amGet, h]
  | cons p r ih =>
    by_cases hj : j = p.1
    · subst hj; simp [amSet, amGet, h]
    · by_cases hk : k = p.1 <;> simp [amSet, amGet, hj, hk, ih]

theorem amGet_amSet (k j : κ) (v : ν) (l : List (κ × ν)) : amGet k (amSet j v l) = if k = j then some v else amGet k l := by
  by_cases h : k = j
  · subst h; simp
  · simp [h, amGet_amSet_ne h]

theorem amGet_amDel (k j : κ) (l : List (κ × ν)) : amGet k (amDel j l) = if k = j then none else amGet k l := by
  induction l with
  | nil => simp [amDel]
  | cons p r ih =>
    by_cases hj : j = p.1
    · by_cases hk : k = p.1 <;> simp_all [amDel, amGet]
    · by_cases hk : k = p.1
      · subst hk; simp [amDel, amGet, hj, Ne.symm hj]
      · simp [amDel, amGet, hj, hk, ih]

/-- A table that gives every key of a list one value gives it. -/
theorem amGet_map_const (k : κ) (v : ν) (l : List κ) (h : k ∈ l) : amGet k (l.map fun j => (j, v)) = some v := by
  induction l with
  | nil => simp at h
  | cons j r ih =>
    by_cases hk : k = j
    · simp [amGet, hk]
    · simp [amGet, hk, ih (by simpa [hk] using h)]

end

/-! ### The canonical form of byte storage -/

theorem Mem.wfFrom_le {lo lo' : Nat} {m : Mem} (h : Mem.wfFrom lo m = true) (hle : lo' ≤ lo) : Mem.wfFrom lo' m = true := by
  cases m with
  | nil => rfl
  | cons c r => obtain ⟨a, b⟩ := c; simp only [Mem.wfFrom, Bool.and_eq_true, decide_eq_true_eq] at h ⊢; exact ⟨⟨by omega, h.1.2⟩, h.2⟩

theorem Mem.wfFrom_cons {a lo : Nat} {b : Byte} {r : Mem} (hr : Mem.wfFrom (a + 1) r = true) (hlo : lo ≤ a) : Mem.wfFrom lo (Mem.cons a b r) = true := by
  unfold Mem.cons
  split
  · exact Mem.wfFrom_le hr (by omega)
  · simp [Mem.wfFrom, hlo, hr]; assumption

theorem Mem.wfFrom_put {a lo : Nat} (b : Byte) {m : Mem} (h : Mem.wfFrom lo m = true) (hlo : lo ≤ a) : Mem.wfFrom lo (Mem.put a b m) = true := by
  induction m generalizing lo with
  | nil => exact Mem.wfFrom_cons rfl hlo
  | cons c r ih =>
    obtain ⟨a', b'⟩ := c
    simp only [Mem.wfFrom, Bool.and_eq_true, decide_eq_true_eq] at h
    simp only [Mem.put]
    split
    · subst_vars; exact Mem.wfFrom_cons h.2 hlo
    · split
      · refine Mem.wfFrom_cons ?_ hlo
        simp only [Mem.wfFrom, Bool.and_eq_true, decide_eq_true_eq]
        exact ⟨⟨by omega, h.1.2⟩, h.2⟩
      · simp only [Mem.wfFrom, Bool.and_eq_true, decide_eq_true_eq]
        exact ⟨h.1, ih h.2 (by omega)⟩

/-- Writing a byte keeps the canonical form. -/
theorem Mem.wf_put (a : Nat) (b : Byte) {m : Mem} (h : m.wf = true) : (Mem.put a b m).wf = true := Mem.wfFrom_put b h (Nat.zero_le a)

/-- Writing bytes keeps the canonical form. -/
theorem Mem.wf_write {m : Mem} (h : m.wf = true) (a : Nat) (bs : List Byte) : (m.write a bs).wf = true := by
  induction bs generalizing m a with
  | nil => exact h
  | cons b bs ih => exact ih (Mem.wf_put a b h) (a + 1)

theorem Mem.wfFrom_filter (p : Host.Cell → Bool) {lo : Nat} {m : Mem} (h : Mem.wfFrom lo m = true) : Mem.wfFrom lo (m.filter p) = true := by
  induction m generalizing lo with
  | nil => rfl
  | cons c r ih =>
    obtain ⟨a, b⟩ := c
    simp only [Mem.wfFrom, Bool.and_eq_true, decide_eq_true_eq] at h
    rw [List.filter_cons]
    split
    · simp only [Mem.wfFrom, Bool.and_eq_true, decide_eq_true_eq]; exact ⟨h.1, ih h.2⟩
    · exact Mem.wfFrom_le (ih h.2) (by omega)

/-- Leaving cells out keeps the canonical form. -/
theorem Mem.wf_filter (p : Host.Cell → Bool) {m : Mem} (h : m.wf = true) : Mem.wf (m.filter p) = true := Mem.wfFrom_filter p h

theorem Mem.wf_below (n : Nat) {m : Mem} (h : m.wf = true) : (m.below n).wf = true := Mem.wf_filter _ h

/-! ### Reads after writes -/

theorem Mem.get_lt {a lo : Nat} {m : Mem} (h : Mem.wfFrom lo m = true) (hlt : a < lo) : Mem.get a m = unlistedByte := by
  cases m with
  | nil => rfl
  | cons c r =>
    obtain ⟨a', b'⟩ := c
    simp only [Mem.wfFrom, Bool.and_eq_true, decide_eq_true_eq] at h
    simp only [Mem.get]
    rw [if_neg (by omega), if_pos (by omega)]

theorem Mem.get_cons {a j lo : Nat} (b : Byte) {r : Mem} (hr : Mem.wfFrom lo r = true) (hlo : a < lo) :
    Mem.get j (Mem.cons a b r) = if j = a then b else Mem.get j r := by
  unfold Mem.cons
  split
  · split
    · subst_vars; exact Mem.get_lt hr hlo
    · rfl
  · simp only [Mem.get]
    split
    · rfl
    · split
      · exact (Mem.get_lt hr (by omega)).symm
      · rfl

/-- A byte reads as the last byte written there, and every other byte as before. -/
theorem Mem.get_put_from {a lo : Nat} (j : Nat) (b : Byte) {m : Mem} (h : Mem.wfFrom lo m = true) :
    Mem.get j (Mem.put a b m) = if j = a then b else Mem.get j m := by
  induction m generalizing lo with
  | nil => exact Mem.get_cons (lo := a + 1) b rfl (by omega)
  | cons c r ih =>
    obtain ⟨a', b'⟩ := c
    simp only [Mem.wfFrom, Bool.and_eq_true, decide_eq_true_eq] at h
    simp only [Mem.put]
    split
    · subst_vars
      rw [Mem.get_cons b h.2 (by omega)]
      split
      · rfl
      · simp only [Mem.get]
        rw [if_neg (by assumption)]
        split
        · exact Mem.get_lt h.2 (by omega)
        · rfl
    · split
      · have hw : Mem.wfFrom a' ((a', b') :: r) = true := by
          simp only [Mem.wfFrom, Bool.and_eq_true, decide_eq_true_eq]; exact ⟨⟨by omega, h.1.2⟩, h.2⟩
        exact Mem.get_cons b hw (by omega)
      · simp only [Mem.get]
        by_cases hj : j = a'
        · subst hj; simp only [if_true]; rw [if_neg (by omega)]
        · rw [if_neg hj, if_neg hj]
          split
          · rw [if_neg (by omega)]
          · exact ih h.2

theorem Mem.get_put (a j : Nat) (b : Byte) {m : Mem} (h : m.wf = true) : Mem.get j (Mem.put a b m) = if j = a then b else Mem.get j m :=
  Mem.get_put_from j b h

/-- A byte outside those written reads as before. -/
theorem Mem.get_write_outside {m : Mem} (h : m.wf = true) (a j : Nat) (bs : List Byte) (hj : j < a ∨ a + bs.length ≤ j) :
    Mem.get j (m.write a bs) = Mem.get j m := by
  induction bs generalizing m a with
  | nil => rfl
  | cons b bs ih =>
    simp only [List.length_cons] at hj
    simp only [Mem.write]
    rw [ih (Mem.wf_put a b h) (a + 1) (by omega), Mem.get_put a j b h, if_neg (by omega)]

/-- A byte among those written reads as written. -/
theorem Mem.get_write_inside {m : Mem} (h : m.wf = true) (a k : Nat) (bs : List Byte) (hk : k < bs.length) :
    Mem.get (a + k) (m.write a bs) = bs[k] := by
  induction bs generalizing m a k with
  | nil => simp at hk
  | cons b bs ih =>
    simp only [Mem.write]
    cases k with
    | zero => rw [Nat.add_zero, Mem.get_write_outside (Mem.wf_put a b h) (a + 1) a bs (by omega), Mem.get_put a a b h, if_pos rfl]; rfl
    | succ k =>
      have := ih (Mem.wf_put a b h) (a + 1) k (by simpa using hk)
      rw [show a + (k + 1) = a + 1 + k by omega, this]; rfl

@[simp] theorem Mem.bytes_length (m : Mem) (a n : Nat) : (m.bytes a n).length = n := by
  induction n generalizing a with
  | zero => rfl
  | succ n ih => simp [Mem.bytes, ih]

theorem Mem.bytes_get (m : Mem) (a n k : Nat) (hk : k < n) : (m.bytes a n)[k]? = some (m.get (a + k)) := by
  induction n generalizing a k with
  | zero => omega
  | succ n ih =>
    cases k with
    | zero => simp [Mem.bytes]
    | succ k => simp only [Mem.bytes, List.getElem?_cons_succ]; rw [ih (a + 1) k (by omega)]; congr 2; omega

/-- Bytes read where nothing of them was written are as before. -/
theorem Mem.bytes_write_outside {m : Mem} (h : m.wf = true) (a j n : Nat) (bs : List Byte) (hj : j + n ≤ a ∨ a + bs.length ≤ j) :
    (m.write a bs).bytes j n = m.bytes j n := by
  induction n generalizing j with
  | zero => rfl
  | succ n ih =>
    simp only [Mem.bytes]
    rw [Mem.get_write_outside h a j bs (by omega), ih (j + 1) (by omega)]

/-- Two memories in canonical form that read alike are equal. -/
theorem Mem.ext_get_from {lo : Nat} {m n : Mem} (hm : Mem.wfFrom lo m = true) (hn : Mem.wfFrom lo n = true) (h : ∀ a, Mem.get a m = Mem.get a n) : m = n := by
  induction m generalizing lo n with
  | nil =>
    cases n with
    | nil => rfl
    | cons c r =>
      obtain ⟨a, b⟩ := c
      simp only [Mem.wfFrom, Bool.and_eq_true, bne_iff_ne, ne_eq] at hn
      exact absurd (by simpa [Mem.get] using (h a).symm) hn.1.2
  | cons c r ih =>
    obtain ⟨a, b⟩ := c
    have hm' := hm
    simp only [Mem.wfFrom, Bool.and_eq_true, bne_iff_ne, ne_eq, decide_eq_true_eq] at hm'
    cases n with
    | nil => exact absurd (by simpa [Mem.get] using h a) hm'.1.2
    | cons d q =>
      obtain ⟨a', b'⟩ := d
      have hn' := hn
      simp only [Mem.wfFrom, Bool.and_eq_true, bne_iff_ne, ne_eq, decide_eq_true_eq] at hn'
      have haa : a = a' := by
        rcases Nat.lt_trichotomy a a' with hlt | heq | hgt
        · have := h a
          simp only [Mem.get, if_true] at this
          rw [if_neg (by omega), if_pos hlt] at this
          exact absurd this hm'.1.2
        · exact heq
        · have := h a'
          simp only [Mem.get, if_true] at this
          rw [if_neg (by omega), if_pos hgt] at this
          exact absurd this.symm hn'.1.2
      subst haa
      have hb : b = b' := by simpa [Mem.get] using h a
      subst hb
      congr 1
      refine ih hm'.2 hn'.2 fun j => ?_
      by_cases hj : j < a + 1
      · rw [Mem.get_lt hm'.2 hj, Mem.get_lt hn'.2 hj]
      · have := h j
        simp only [Mem.get] at this
        rwa [if_neg (by omega), if_neg (by omega), if_neg (by omega), if_neg (by omega)] at this

theorem Mem.ext_get {m n : Mem} (hm : m.wf = true) (hn : n.wf = true) (h : ∀ a, Mem.get a m = Mem.get a n) : m = n := Mem.ext_get_from hm hn h

/-! ### Byte lists -/

@[simp] theorem leBytes_length (n v : Nat) : (leBytes n v).length = n := by
  induction n generalizing v with
  | zero => rfl
  | succ n ih => simp [leBytes, ih]

@[simp] theorem zeroBytes_length (n : Nat) : (zeroBytes n).length = n := by simp [zeroBytes]

/-- The value of the bytes of a number is the number cut to them. -/
theorem leNat_leBytes (n v : Nat) : leNat (leBytes n v) = v % 256 ^ n := by
  induction n generalizing v with
  | zero => simp [leBytes, leNat, Nat.mod_one]
  | succ n ih =>
    simp only [leBytes, leNat, ih, BitVec.toNat_ofNat]
    rw [show 256 ^ (n + 1) = 256 * 256 ^ n from by rw [Nat.pow_succ, Nat.mul_comm], Nat.mod_mul]

theorem leNat_lt (bs : List Byte) : leNat bs < 256 ^ bs.length := by
  induction bs with
  | nil => simp [leNat]
  | cons b bs ih =>
    simp only [leNat, List.length_cons, Nat.pow_succ]
    have := b.isLt
    omega

end Sys2Proof.Machine
end

