-- ==== Sys2Proof/Laws/State.lean ====
section
/-! SUPPORT. One lemma per field per update of State and of Strand, and the accessors after an update: no later proof unfolds a record update. -/

namespace Sys2Proof.Machine

open Sys2Proof

/-! ### Accessors after an update of the same table -/

theorem vget_set {α : Type} {n : Nat} (v : Vector α n) (i : Nat) (x : α) (h : i < n) (j : Fin n) :
    (v.set i x h).get j = if i = j.val then x else v.get j := by
  change (v.set i x h)[j.val] = if i = j.val then x else v[j.val]
  rw [Vector.getElem_set]

@[simp] theorem State.strand_setStrand_self (s : State) (i : StrandId) (t : Strand) : (s.setStrand i t).strand i = t := by
  simp [State.strand, State.setStrand]

theorem State.strand_setStrand (s : State) (i j : StrandId) (t : Strand) : (s.setStrand i t).strand j = if j = i then t else s.strand j := by
  simp only [State.strand, State.setStrand, amGet_amSet]; split <;> rfl

theorem State.strand_setStrand_ne (s : State) {i j : StrandId} (t : Strand) (h : j ≠ i) : (s.setStrand i t).strand j = s.strand j := by
  simp [State.strand_setStrand, h]

@[simp] theorem State.strand_modStrand_self (s : State) (i : StrandId) (f : Strand → Strand) : (s.modStrand i f).strand i = f (s.strand i) := by
  simp [State.modStrand]

theorem State.strand_modStrand (s : State) (i j : StrandId) (f : Strand → Strand) :
    (s.modStrand i f).strand j = if j = i then f (s.strand i) else s.strand j := by
  simp [State.modStrand, State.strand_setStrand]

theorem State.strand_modStrand_ne (s : State) {i j : StrandId} (f : Strand → Strand) (h : j ≠ i) : (s.modStrand i f).strand j = s.strand j := by
  simp [State.strand_modStrand, h]

@[simp] theorem State.tile_setTile_self (s : State) (t : TileId) (v : Tile) : (s.setTile t v).tile t = v := by
  simp [State.tile, State.setTile]

theorem State.tile_setTile (s : State) (t u : TileId) (v : Tile) : (s.setTile t v).tile u = if u = t then v else s.tile u := by
  simp only [State.tile, State.setTile, amGet_amSet]; split <;> rfl

theorem State.tile_setTile_ne (s : State) {t u : TileId} (v : Tile) (h : u ≠ t) : (s.setTile t v).tile u = s.tile u := by
  simp [State.tile_setTile, h]

@[simp] theorem State.tile_modTile_self (s : State) (t : TileId) (f : Tile → Tile) : (s.modTile t f).tile t = f (s.tile t) := by
  simp [State.modTile]

theorem State.tile_modTile (s : State) (t u : TileId) (f : Tile → Tile) : (s.modTile t f).tile u = if u = t then f (s.tile t) else s.tile u := by
  simp [State.modTile, State.tile_setTile]

theorem State.tile_modTile_ne (s : State) {t u : TileId} (f : Tile → Tile) (h : u ≠ t) : (s.modTile t f).tile u = s.tile u := by
  simp [State.tile_modTile, h]

@[simp] theorem State.quad_setQuad_self (s : State) (q : BitVec 2) (v : Quad) : (s.setQuad q v).quad q = v := by
  simp [State.quad, State.setQuad, vget_set]

theorem State.quad_setQuad_ne (s : State) {q r : BitVec 2} (v : Quad) (h : r ≠ q) : (s.setQuad q v).quad r = s.quad r := by
  have hn : q.toNat ≠ r.toNat := fun e => h (BitVec.eq_of_toNat_eq e).symm
  simp [State.quad, State.setQuad, vget_set, hn]

@[simp] theorem State.quad_modQuad_self (s : State) (q : BitVec 2) (f : Quad → Quad) : (s.modQuad q f).quad q = f (s.quad q) := by
  simp [State.modQuad]

theorem State.quad_modQuad_ne (s : State) {q r : BitVec 2} (f : Quad → Quad) (h : r ≠ q) : (s.modQuad q f).quad r = s.quad r := by
  simp [State.modQuad, State.quad_setQuad_ne s _ h]


/-! ### The other fields of State after an update -/

@[simp] theorem State.cur_setStrand (s : State) (i : StrandId) (t : Strand) : (s.setStrand i t).cur = s.cur := rfl
@[simp] theorem State.sched_setStrand (s : State) (i : StrandId) (t : Strand) : (s.setStrand i t).sched = s.sched := rfl
@[simp] theorem State.late_setStrand (s : State) (i : StrandId) (t : Strand) : (s.setStrand i t).late = s.late := rfl
@[simp] theorem State.idle_setStrand (s : State) (i : StrandId) (t : Strand) : (s.setStrand i t).idle = s.idle := rfl
@[simp] theorem State.now_setStrand (s : State) (i : StrandId) (t : Strand) : (s.setStrand i t).now = s.now := rfl
@[simp] theorem State.free_setStrand (s : State) (i : StrandId) (t : Strand) : (s.setStrand i t).free = s.free := rfl
@[simp] theorem State.tiles_setStrand (s : State) (i : StrandId) (t : Strand) : (s.setStrand i t).tiles = s.tiles := rfl
@[simp] theorem State.quads_setStrand (s : State) (i : StrandId) (t : Strand) : (s.setStrand i t).quads = s.quads := rfl
@[simp] theorem State.dev_setStrand (s : State) (i : StrandId) (t : Strand) : (s.setStrand i t).dev = s.dev := rfl
@[simp] theorem State.mem_setStrand (s : State) (i : StrandId) (t : Strand) : (s.setStrand i t).mem = s.mem := rfl
@[simp] theorem State.home_setStrand (s : State) (i : StrandId) (t : Strand) : (s.setStrand i t).home = s.home := rfl
@[simp] theorem State.poison_setStrand (s : State) (i : StrandId) (t : Strand) : (s.setStrand i t).poison = s.poison := rfl
@[simp] theorem State.ranges_setStrand (s : State) (i : StrandId) (t : Strand) : (s.setStrand i t).ranges = s.ranges := rfl
@[simp] theorem State.merges_setStrand (s : State) (i : StrandId) (t : Strand) : (s.setStrand i t).merges = s.merges := rfl
@[simp] theorem State.domains_setStrand (s : State) (i : StrandId) (t : Strand) : (s.setStrand i t).domains = s.domains := rfl
@[simp] theorem State.cur_modStrand (s : State) (i : StrandId) (f : Strand → Strand) : (s.modStrand i f).cur = s.cur := rfl
@[simp] theorem State.sched_modStrand (s : State) (i : StrandId) (f : Strand → Strand) : (s.modStrand i f).sched = s.sched := rfl
@[simp] theorem State.late_modStrand (s : State) (i : StrandId) (f : Strand → Strand) : (s.modStrand i f).late = s.late := rfl
@[simp] theorem State.idle_modStrand (s : State) (i : StrandId) (f : Strand → Strand) : (s.modStrand i f).idle = s.idle := rfl
@[simp] theorem State.now_modStrand (s : State) (i : StrandId) (f : Strand → Strand) : (s.modStrand i f).now = s.now := rfl
@[simp] theorem State.free_modStrand (s : State) (i : StrandId) (f : Strand → Strand) : (s.modStrand i f).free = s.free := rfl
@[simp] theorem State.tiles_modStrand (s : State) (i : StrandId) (f : Strand → Strand) : (s.modStrand i f).tiles = s.tiles := rfl
@[simp] theorem State.quads_modStrand (s : State) (i : StrandId) (f : Strand → Strand) : (s.modStrand i f).quads = s.quads := rfl
@[simp] theorem State.dev_modStrand (s : State) (i : StrandId) (f : Strand → Strand) : (s.modStrand i f).dev = s.dev := rfl
@[simp] theorem State.mem_modStrand (s : State) (i : StrandId) (f : Strand → Strand) : (s.modStrand i f).mem = s.mem := rfl
@[simp] theorem State.home_modStrand (s : State) (i : StrandId) (f : Strand → Strand) : (s.modStrand i f).home = s.home := rfl
@[simp] theorem State.poison_modStrand (s : State) (i : StrandId) (f : Strand → Strand) : (s.modStrand i f).poison = s.poison := rfl
@[simp] theorem State.ranges_modStrand (s : State) (i : StrandId) (f : Strand → Strand) : (s.modStrand i f).ranges = s.ranges := rfl
@[simp] theorem State.merges_modStrand (s : State) (i : StrandId) (f : Strand → Strand) : (s.modStrand i f).merges = s.merges := rfl
@[simp] theorem State.domains_modStrand (s : State) (i : StrandId) (f : Strand → Strand) : (s.modStrand i f).domains = s.domains := rfl
@[simp] theorem State.cur_setX (s : State) (i : StrandId) (r : BitVec 5) (v : Word) : (s.setX i r v).cur = s.cur := rfl
@[simp] theorem State.sched_setX (s : State) (i : StrandId) (r : BitVec 5) (v : Word) : (s.setX i r v).sched = s.sched := rfl
@[simp] theorem State.late_setX (s : State) (i : StrandId) (r : BitVec 5) (v : Word) : (s.setX i r v).late = s.late := rfl
@[simp] theorem State.idle_setX (s : State) (i : StrandId) (r : BitVec 5) (v : Word) : (s.setX i r v).idle = s.idle := rfl
@[simp] theorem State.now_setX (s : State) (i : StrandId) (r : BitVec 5) (v : Word) : (s.setX i r v).now = s.now := rfl
@[simp] theorem State.free_setX (s : State) (i : StrandId) (r : BitVec 5) (v : Word) : (s.setX i r v).free = s.free := rfl
@[simp] theorem State.tiles_setX (s : State) (i : StrandId) (r : BitVec 5) (v : Word) : (s.setX i r v).tiles = s.tiles := rfl
@[simp] theorem State.quads_setX (s : State) (i : StrandId) (r : BitVec 5) (v : Word) : (s.setX i r v).quads = s.quads := rfl
@[simp] theorem State.dev_setX (s : State) (i : StrandId) (r : BitVec 5) (v : Word) : (s.setX i r v).dev = s.dev := rfl
@[simp] theorem State.mem_setX (s : State) (i : StrandId) (r : BitVec 5) (v : Word) : (s.setX i r v).mem = s.mem := rfl
@[simp] theorem State.home_setX (s : State) (i : StrandId) (r : BitVec 5) (v : Word) : (s.setX i r v).home = s.home := rfl
@[simp] theorem State.poison_setX (s : State) (i : StrandId) (r : BitVec 5) (v : Word) : (s.setX i r v).poison = s.poison := rfl
@[simp] theorem State.ranges_setX (s : State) (i : StrandId) (r : BitVec 5) (v : Word) : (s.setX i r v).ranges = s.ranges := rfl
@[simp] theorem State.merges_setX (s : State) (i : StrandId) (r : BitVec 5) (v : Word) : (s.setX i r v).merges = s.merges := rfl
@[simp] theorem State.domains_setX (s : State) (i : StrandId) (r : BitVec 5) (v : Word) : (s.setX i r v).domains = s.domains := rfl
@[simp] theorem State.cur_setPc (s : State) (i : StrandId) (a : Addr) : (s.setPc i a).cur = s.cur := rfl
@[simp] theorem State.sched_setPc (s : State) (i : StrandId) (a : Addr) : (s.setPc i a).sched = s.sched := rfl
@[simp] theorem State.late_setPc (s : State) (i : StrandId) (a : Addr) : (s.setPc i a).late = s.late := rfl
@[simp] theorem State.idle_setPc (s : State) (i : StrandId) (a : Addr) : (s.setPc i a).idle = s.idle := rfl
@[simp] theorem State.now_setPc (s : State) (i : StrandId) (a : Addr) : (s.setPc i a).now = s.now := rfl
@[simp] theorem State.free_setPc (s : State) (i : StrandId) (a : Addr) : (s.setPc i a).free = s.free := rfl
@[simp] theorem State.tiles_setPc (s : State) (i : StrandId) (a : Addr) : (s.setPc i a).tiles = s.tiles := rfl
@[simp] theorem State.quads_setPc (s : State) (i : StrandId) (a : Addr) : (s.setPc i a).quads = s.quads := rfl
@[simp] theorem State.dev_setPc (s : State) (i : StrandId) (a : Addr) : (s.setPc i a).dev = s.dev := rfl
@[simp] theorem State.mem_setPc (s : State) (i : StrandId) (a : Addr) : (s.setPc i a).mem = s.mem := rfl
@[simp] theorem State.home_setPc (s : State) (i : StrandId) (a : Addr) : (s.setPc i a).home = s.home := rfl
@[simp] theorem State.poison_setPc (s : State) (i : StrandId) (a : Addr) : (s.setPc i a).poison = s.poison := rfl
@[simp] theorem State.ranges_setPc (s : State) (i : StrandId) (a : Addr) : (s.setPc i a).ranges = s.ranges := rfl
@[simp] theorem State.merges_setPc (s : State) (i : StrandId) (a : Addr) : (s.setPc i a).merges = s.merges := rfl
@[simp] theorem State.domains_setPc (s : State) (i : StrandId) (a : Addr) : (s.setPc i a).domains = s.domains := rfl
@[simp] theorem State.cur_setStatus (s : State) (i : StrandId) (v : Status) : (s.setStatus i v).cur = s.cur := rfl
@[simp] theorem State.sched_setStatus (s : State) (i : StrandId) (v : Status) : (s.setStatus i v).sched = s.sched := rfl
@[simp] theorem State.late_setStatus (s : State) (i : StrandId) (v : Status) : (s.setStatus i v).late = s.late := rfl
@[simp] theorem State.idle_setStatus (s : State) (i : StrandId) (v : Status) : (s.setStatus i v).idle = s.idle := rfl
@[simp] theorem State.now_setStatus (s : State) (i : StrandId) (v : Status) : (s.setStatus i v).now = s.now := rfl
@[simp] theorem State.free_setStatus (s : State) (i : StrandId) (v : Status) : (s.setStatus i v).free = s.free := rfl
@[simp] theorem State.tiles_setStatus (s : State) (i : StrandId) (v : Status) : (s.setStatus i v).tiles = s.tiles := rfl
@[simp] theorem State.quads_setStatus (s : State) (i : StrandId) (v : Status) : (s.setStatus i v).quads = s.quads := rfl
@[simp] theorem State.dev_setStatus (s : State) (i : StrandId) (v : Status) : (s.setStatus i v).dev = s.dev := rfl
@[simp] theorem State.mem_setStatus (s : State) (i : StrandId) (v : Status) : (s.setStatus i v).mem = s.mem := rfl
@[simp] theorem State.home_setStatus (s : State) (i : StrandId) (v : Status) : (s.setStatus i v).home = s.home := rfl
@[simp] theorem State.poison_setStatus (s : State) (i : StrandId) (v : Status) : (s.setStatus i v).poison = s.poison := rfl
@[simp] theorem State.ranges_setStatus (s : State) (i : StrandId) (v : Status) : (s.setStatus i v).ranges = s.ranges := rfl
@[simp] theorem State.merges_setStatus (s : State) (i : StrandId) (v : Status) : (s.setStatus i v).merges = s.merges := rfl
@[simp] theorem State.domains_setStatus (s : State) (i : StrandId) (v : Status) : (s.setStatus i v).domains = s.domains := rfl
@[simp] theorem State.cur_setTile (s : State) (t : TileId) (v : Tile) : (s.setTile t v).cur = s.cur := rfl
@[simp] theorem State.sched_setTile (s : State) (t : TileId) (v : Tile) : (s.setTile t v).sched = s.sched := rfl
@[simp] theorem State.late_setTile (s : State) (t : TileId) (v : Tile) : (s.setTile t v).late = s.late := rfl
@[simp] theorem State.idle_setTile (s : State) (t : TileId) (v : Tile) : (s.setTile t v).idle = s.idle := rfl
@[simp] theorem State.now_setTile (s : State) (t : TileId) (v : Tile) : (s.setTile t v).now = s.now := rfl
@[simp] theorem State.free_setTile (s : State) (t : TileId) (v : Tile) : (s.setTile t v).free = s.free := rfl
@[simp] theorem State.strands_setTile (s : State) (t : TileId) (v : Tile) : (s.setTile t v).strands = s.strands := rfl
@[simp] theorem State.quads_setTile (s : State) (t : TileId) (v : Tile) : (s.setTile t v).quads = s.quads := rfl
@[simp] theorem State.dev_setTile (s : State) (t : TileId) (v : Tile) : (s.setTile t v).dev = s.dev := rfl
@[simp] theorem State.mem_setTile (s : State) (t : TileId) (v : Tile) : (s.setTile t v).mem = s.mem := rfl
@[simp] theorem State.home_setTile (s : State) (t : TileId) (v : Tile) : (s.setTile t v).home = s.home := rfl
@[simp] theorem State.poison_setTile (s : State) (t : TileId) (v : Tile) : (s.setTile t v).poison = s.poison := rfl
@[simp] theorem State.ranges_setTile (s : State) (t : TileId) (v : Tile) : (s.setTile t v).ranges = s.ranges := rfl
@[simp] theorem State.merges_setTile (s : State) (t : TileId) (v : Tile) : (s.setTile t v).merges = s.merges := rfl
@[simp] theorem State.domains_setTile (s : State) (t : TileId) (v : Tile) : (s.setTile t v).domains = s.domains := rfl
@[simp] theorem State.cur_modTile (s : State) (t : TileId) (f : Tile → Tile) : (s.modTile t f).cur = s.cur := rfl
@[simp] theorem State.sched_modTile (s : State) (t : TileId) (f : Tile → Tile) : (s.modTile t f).sched = s.sched := rfl
@[simp] theorem State.late_modTile (s : State) (t : TileId) (f : Tile → Tile) : (s.modTile t f).late = s.late := rfl
@[simp] theorem State.idle_modTile (s : State) (t : TileId) (f : Tile → Tile) : (s.modTile t f).idle = s.idle := rfl
@[simp] theorem State.now_modTile (s : State) (t : TileId) (f : Tile → Tile) : (s.modTile t f).now = s.now := rfl
@[simp] theorem State.free_modTile (s : State) (t : TileId) (f : Tile → Tile) : (s.modTile t f).free = s.free := rfl
@[simp] theorem State.strands_modTile (s : State) (t : TileId) (f : Tile → Tile) : (s.modTile t f).strands = s.strands := rfl
@[simp] theorem State.quads_modTile (s : State) (t : TileId) (f : Tile → Tile) : (s.modTile t f).quads = s.quads := rfl
@[simp] theorem State.dev_modTile (s : State) (t : TileId) (f : Tile → Tile) : (s.modTile t f).dev = s.dev := rfl
@[simp] theorem State.mem_modTile (s : State) (t : TileId) (f : Tile → Tile) : (s.modTile t f).mem = s.mem := rfl
@[simp] theorem State.home_modTile (s : State) (t : TileId) (f : Tile → Tile) : (s.modTile t f).home = s.home := rfl
@[simp] theorem State.poison_modTile (s : State) (t : TileId) (f : Tile → Tile) : (s.modTile t f).poison = s.poison := rfl
@[simp] theorem State.ranges_modTile (s : State) (t : TileId) (f : Tile → Tile) : (s.modTile t f).ranges = s.ranges := rfl
@[simp] theorem State.merges_modTile (s : State) (t : TileId) (f : Tile → Tile) : (s.modTile t f).merges = s.merges := rfl
@[simp] theorem State.domains_modTile (s : State) (t : TileId) (f : Tile → Tile) : (s.modTile t f).domains = s.domains := rfl
@[simp] theorem State.cur_setQuad (s : State) (q : BitVec 2) (v : Quad) : (s.setQuad q v).cur = s.cur := rfl
@[simp] theorem State.sched_setQuad (s : State) (q : BitVec 2) (v : Quad) : (s.setQuad q v).sched = s.sched := rfl
@[simp] theorem State.late_setQuad (s : State) (q : BitVec 2) (v : Quad) : (s.setQuad q v).late = s.late := rfl
@[simp] theorem State.idle_setQuad (s : State) (q : BitVec 2) (v : Quad) : (s.setQuad q v).idle = s.idle := rfl
@[simp] theorem State.now_setQuad (s : State) (q : BitVec 2) (v : Quad) : (s.setQuad q v).now = s.now := rfl
@[simp] theorem State.free_setQuad (s : State) (q : BitVec 2) (v : Quad) : (s.setQuad q v).free = s.free := rfl
@[simp] theorem State.strands_setQuad (s : State) (q : BitVec 2) (v : Quad) : (s.setQuad q v).strands = s.strands := rfl
@[simp] theorem State.tiles_setQuad (s : State) (q : BitVec 2) (v : Quad) : (s.setQuad q v).tiles = s.tiles := rfl
@[simp] theorem State.dev_setQuad (s : State) (q : BitVec 2) (v : Quad) : (s.setQuad q v).dev = s.dev := rfl
@[simp] theorem State.mem_setQuad (s : State) (q : BitVec 2) (v : Quad) : (s.setQuad q v).mem = s.mem := rfl
@[simp] theorem State.home_setQuad (s : State) (q : BitVec 2) (v : Quad) : (s.setQuad q v).home = s.home := rfl
@[simp] theorem State.poison_setQuad (s : State) (q : BitVec 2) (v : Quad) : (s.setQuad q v).poison = s.poison := rfl
@[simp] theorem State.ranges_setQuad (s : State) (q : BitVec 2) (v : Quad) : (s.setQuad q v).ranges = s.ranges := rfl
@[simp] theorem State.merges_setQuad (s : State) (q : BitVec 2) (v : Quad) : (s.setQuad q v).merges = s.merges := rfl
@[simp] theorem State.domains_setQuad (s : State) (q : BitVec 2) (v : Quad) : (s.setQuad q v).domains = s.domains := rfl
@[simp] theorem State.cur_modQuad (s : State) (q : BitVec 2) (f : Quad → Quad) : (s.modQuad q f).cur = s.cur := rfl
@[simp] theorem State.sched_modQuad (s : State) (q : BitVec 2) (f : Quad → Quad) : (s.modQuad q f).sched = s.sched := rfl
@[simp] theorem State.late_modQuad (s : State) (q : BitVec 2) (f : Quad → Quad) : (s.modQuad q f).late = s.late := rfl
@[simp] theorem State.idle_modQuad (s : State) (q : BitVec 2) (f : Quad → Quad) : (s.modQuad q f).idle = s.idle := rfl
@[simp] theorem State.now_modQuad (s : State) (q : BitVec 2) (f : Quad → Quad) : (s.modQuad q f).now = s.now := rfl
@[simp] theorem State.free_modQuad (s : State) (q : BitVec 2) (f : Quad → Quad) : (s.modQuad q f).free = s.free := rfl
@[simp] theorem State.strands_modQuad (s : State) (q : BitVec 2) (f : Quad → Quad) : (s.modQuad q f).strands = s.strands := rfl
@[simp] theorem State.tiles_modQuad (s : State) (q : BitVec 2) (f : Quad → Quad) : (s.modQuad q f).tiles = s.tiles := rfl
@[simp] theorem State.dev_modQuad (s : State) (q : BitVec 2) (f : Quad → Quad) : (s.modQuad q f).dev = s.dev := rfl
@[simp] theorem State.mem_modQuad (s : State) (q : BitVec 2) (f : Quad → Quad) : (s.modQuad q f).mem = s.mem := rfl
@[simp] theorem State.home_modQuad (s : State) (q : BitVec 2) (f : Quad → Quad) : (s.modQuad q f).home = s.home := rfl
@[simp] theorem State.poison_modQuad (s : State) (q : BitVec 2) (f : Quad → Quad) : (s.modQuad q f).poison = s.poison := rfl
@[simp] theorem State.ranges_modQuad (s : State) (q : BitVec 2) (f : Quad → Quad) : (s.modQuad q f).ranges = s.ranges := rfl
@[simp] theorem State.merges_modQuad (s : State) (q : BitVec 2) (f : Quad → Quad) : (s.modQuad q f).merges = s.merges := rfl
@[simp] theorem State.domains_modQuad (s : State) (q : BitVec 2) (f : Quad → Quad) : (s.modQuad q f).domains = s.domains := rfl
@[simp] theorem State.tile_setStrand (s : State) (i : StrandId) (t : Strand) (u : TileId) : (s.setStrand i t).tile u = s.tile u := rfl
@[simp] theorem State.quad_setStrand (s : State) (i : StrandId) (t : Strand) (p : BitVec 2) : (s.setStrand i t).quad p = s.quad p := rfl
@[simp] theorem State.tile_modStrand (s : State) (i : StrandId) (f : Strand → Strand) (u : TileId) : (s.modStrand i f).tile u = s.tile u := rfl
@[simp] theorem State.quad_modStrand (s : State) (i : StrandId) (f : Strand → Strand) (p : BitVec 2) : (s.modStrand i f).quad p = s.quad p := rfl
@[simp] theorem State.tile_setX (s : State) (i : StrandId) (r : BitVec 5) (v : Word) (u : TileId) : (s.setX i r v).tile u = s.tile u := rfl
@[simp] theorem State.quad_setX (s : State) (i : StrandId) (r : BitVec 5) (v : Word) (p : BitVec 2) : (s.setX i r v).quad p = s.quad p := rfl
@[simp] theorem State.tile_setPc (s : State) (i : StrandId) (a : Addr) (u : TileId) : (s.setPc i a).tile u = s.tile u := rfl
@[simp] theorem State.quad_setPc (s : State) (i : StrandId) (a : Addr) (p : BitVec 2) : (s.setPc i a).quad p = s.quad p := rfl
@[simp] theorem State.tile_setStatus (s : State) (i : StrandId) (v : Status) (u : TileId) : (s.setStatus i v).tile u = s.tile u := rfl
@[simp] theorem State.quad_setStatus (s : State) (i : StrandId) (v : Status) (p : BitVec 2) : (s.setStatus i v).quad p = s.quad p := rfl
@[simp] theorem State.strand_setTile (s : State) (t : TileId) (v : Tile) (j : StrandId) : (s.setTile t v).strand j = s.strand j := rfl
@[simp] theorem State.quad_setTile (s : State) (t : TileId) (v : Tile) (p : BitVec 2) : (s.setTile t v).quad p = s.quad p := rfl
@[simp] theorem State.strand_modTile (s : State) (t : TileId) (f : Tile → Tile) (j : StrandId) : (s.modTile t f).strand j = s.strand j := rfl
@[simp] theorem State.quad_modTile (s : State) (t : TileId) (f : Tile → Tile) (p : BitVec 2) : (s.modTile t f).quad p = s.quad p := rfl
@[simp] theorem State.strand_setQuad (s : State) (q : BitVec 2) (v : Quad) (j : StrandId) : (s.setQuad q v).strand j = s.strand j := rfl
@[simp] theorem State.tile_setQuad (s : State) (q : BitVec 2) (v : Quad) (u : TileId) : (s.setQuad q v).tile u = s.tile u := rfl
@[simp] theorem State.strand_modQuad (s : State) (q : BitVec 2) (f : Quad → Quad) (j : StrandId) : (s.modQuad q f).strand j = s.strand j := rfl
@[simp] theorem State.tile_modQuad (s : State) (q : BitVec 2) (f : Quad → Quad) (u : TileId) : (s.modQuad q f).tile u = s.tile u := rfl
@[simp] theorem State.cur_fresh (s : State) : s.fresh.2.cur = s.cur := rfl
@[simp] theorem State.sched_fresh (s : State) : s.fresh.2.sched = s.sched := rfl
@[simp] theorem State.late_fresh (s : State) : s.fresh.2.late = s.late := rfl
@[simp] theorem State.idle_fresh (s : State) : s.fresh.2.idle = s.idle := rfl
@[simp] theorem State.now_fresh (s : State) : s.fresh.2.now = s.now := rfl
@[simp] theorem State.strands_fresh (s : State) : s.fresh.2.strands = s.strands := rfl
@[simp] theorem State.tiles_fresh (s : State) : s.fresh.2.tiles = s.tiles := rfl
@[simp] theorem State.quads_fresh (s : State) : s.fresh.2.quads = s.quads := rfl
@[simp] theorem State.dev_fresh (s : State) : s.fresh.2.dev = s.dev := rfl
@[simp] theorem State.mem_fresh (s : State) : s.fresh.2.mem = s.mem := rfl
@[simp] theorem State.home_fresh (s : State) : s.fresh.2.home = s.home := rfl
@[simp] theorem State.poison_fresh (s : State) : s.fresh.2.poison = s.poison := rfl
@[simp] theorem State.ranges_fresh (s : State) : s.fresh.2.ranges = s.ranges := rfl
@[simp] theorem State.merges_fresh (s : State) : s.fresh.2.merges = s.merges := rfl
@[simp] theorem State.domains_fresh (s : State) : s.fresh.2.domains = s.domains := rfl

/-! ### Registers -/

@[simp] theorem Strand.xr_zero (t : Strand) : t.xr 0 = 0 := rfl
@[simp] theorem Strand.setX_zero (t : Strand) (v : Word) : t.setX 0 v = t := rfl

/-- An x register reads as the last word written to it; x0 reads zero whatever is written. -/
theorem Strand.xr_setX (t : Strand) (r q : BitVec 5) (v : Word) : (t.setX r v).xr q = if q = r ∧ r ≠ 0 then v else t.xr q := by
  by_cases hr : r = 0
  · simp [Strand.setX, hr]
  · by_cases hq : q = r
    · subst hq
      rw [Strand.setX, if_neg hr, Strand.xr, if_neg hr, if_pos ⟨rfl, hr⟩]
      simp [vget_set]
    · have hn : r.toNat ≠ q.toNat := fun e => hq (BitVec.eq_of_toNat_eq e).symm
      rw [Strand.setX, if_neg hr, if_neg fun h => hq h.1]
      simp [Strand.xr, vget_set, hn]

theorem Strand.ar_setA (t : Strand) (r q : BitVec 4) (v : Addr) : (t.setA r v).ar q = if q = r then v else t.ar q := by
  unfold Strand.setA Strand.ar
  by_cases hq : q = r
  · subst hq; simp [vget_set]
  · have hn : r.toNat ≠ q.toNat := fun e => hq (BitVec.eq_of_toNat_eq e).symm
    simp [hq, vget_set, hn]

theorem Strand.mr_setM (t : Strand) (r q : BitVec 3) (v : BitVec 4096) : (t.setM r v).mr q = if q = r then v else t.mr q := by
  unfold Strand.setM Strand.mr
  by_cases hq : q = r
  · subst hq; simp [vget_set]
  · have hn : r.toNat ≠ q.toNat := fun e => hq (BitVec.eq_of_toNat_eq e).symm
    simp [hq, vget_set, hn]

@[simp] theorem Strand.ar_setX (t : Strand) (r : BitVec 5) (q : BitVec 4) (v : Word) : (t.setX r v).ar q = t.ar q := by
  unfold Strand.setX Strand.ar; split <;> rfl
@[simp] theorem Strand.xr_setA (t : Strand) (r : BitVec 4) (q : BitVec 5) (v : Addr) : (t.setA r v).xr q = t.xr q := rfl

theorem State.xr_setX (s : State) (i j : StrandId) (r q : BitVec 5) (v : Word) :
    (s.setX i r v).xr j q = if j = i ∧ q = r ∧ r ≠ 0 then v else s.xr j q := by
  unfold State.xr State.setX
  rw [State.strand_modStrand]
  by_cases h : j = i
  · subst h; simp [Strand.xr_setX]
  · simp [h]

theorem State.strand_setX (s : State) (i j : StrandId) (r : BitVec 5) (v : Word) :
    (s.setX i r v).strand j = if j = i then (s.strand i).setX r v else s.strand j := by simp [State.setX, State.strand_modStrand]

theorem State.strand_setPc (s : State) (i j : StrandId) (a : Addr) :
    (s.setPc i a).strand j = if j = i then { s.strand i with pc := a } else s.strand j := by simp [State.setPc, State.strand_modStrand]

theorem State.strand_setStatus (s : State) (i j : StrandId) (v : Status) :
    (s.setStatus i v).strand j = if j = i then { s.strand i with status := v } else s.strand j := by simp [State.setStatus, State.strand_modStrand]


/-! ### The other fields of Strand after a register is written -/

@[simp] theorem Strand.status_setX (t : Strand) (r : BitVec 5) (v : Word) : (t.setX r v).status = t.status := by unfold Strand.setX; split <;> rfl
@[simp] theorem Strand.pc_setX (t : Strand) (r : BitVec 5) (v : Word) : (t.setX r v).pc = t.pc := by unfold Strand.setX; split <;> rfl
@[simp] theorem Strand.a_setX (t : Strand) (r : BitVec 5) (v : Word) : (t.setX r v).a = t.a := by unfold Strand.setX; split <;> rfl
@[simp] theorem Strand.m_setX (t : Strand) (r : BitVec 5) (v : Word) : (t.setX r v).m = t.m := by unfold Strand.setX; split <;> rfl
@[simp] theorem Strand.fcsr_setX (t : Strand) (r : BitVec 5) (v : Word) : (t.setX r v).fcsr = t.fcsr := by unfold Strand.setX; split <;> rfl
@[simp] theorem Strand.vl_setX (t : Strand) (r : BitVec 5) (v : Word) : (t.setX r v).vl = t.vl := by unfold Strand.setX; split <;> rfl
@[simp] theorem Strand.vvl_setX (t : Strand) (r : BitVec 5) (v : Word) : (t.setX r v).vvl = t.vvl := by unfold Strand.setX; split <;> rfl
@[simp] theorem Strand.vcfg_setX (t : Strand) (r : BitVec 5) (v : Word) : (t.setX r v).vcfg = t.vcfg := by unfold Strand.setX; split <;> rfl
@[simp] theorem Strand.vvcfg_setX (t : Strand) (r : BitVec 5) (v : Word) : (t.setX r v).vvcfg = t.vvcfg := by unfold Strand.setX; split <;> rfl
@[simp] theorem Strand.vstart_setX (t : Strand) (r : BitVec 5) (v : Word) : (t.setX r v).vstart = t.vstart := by unfold Strand.setX; split <;> rfl
@[simp] theorem Strand.ffstat_setX (t : Strand) (r : BitVec 5) (v : Word) : (t.setX r v).ffstat = t.ffstat := by unfold Strand.setX; split <;> rfl
@[simp] theorem Strand.bs_setX (t : Strand) (r : BitVec 5) (v : Word) : (t.setX r v).bs = t.bs := by unfold Strand.setX; split <;> rfl
@[simp] theorem Strand.age_setX (t : Strand) (r : BitVec 5) (v : Word) : (t.setX r v).age = t.age := by unfold Strand.setX; split <;> rfl
@[simp] theorem Strand.gto_setX (t : Strand) (r : BitVec 5) (v : Word) : (t.setX r v).gto = t.gto := by unfold Strand.setX; split <;> rfl
@[simp] theorem Strand.level_setX (t : Strand) (r : BitVec 5) (v : Word) : (t.setX r v).level = t.level := by unfold Strand.setX; split <;> rfl
@[simp] theorem Strand.st_setX (t : Strand) (r : BitVec 5) (v : Word) : (t.setX r v).st = t.st := by unfold Strand.setX; split <;> rfl
@[simp] theorem Strand.mt_setX (t : Strand) (r : BitVec 5) (v : Word) : (t.setX r v).mt = t.mt := by unfold Strand.setX; split <;> rfl
@[simp] theorem Strand.ctxcur_setX (t : Strand) (r : BitVec 5) (v : Word) : (t.setX r v).ctxcur = t.ctxcur := by unfold Strand.setX; split <;> rfl
@[simp] theorem Strand.ctx_setX (t : Strand) (r : BitVec 5) (v : Word) : (t.setX r v).ctx = t.ctx := by unfold Strand.setX; split <;> rfl
@[simp] theorem Strand.strip_setX (t : Strand) (r : BitVec 5) (v : Word) : (t.setX r v).strip = t.strip := by unfold Strand.setX; split <;> rfl
@[simp] theorem Strand.brk_setX (t : Strand) (r : BitVec 5) (v : Word) : (t.setX r v).brk = t.brk := by unfold Strand.setX; split <;> rfl
@[simp] theorem Strand.issued_setX (t : Strand) (r : BitVec 5) (v : Word) : (t.setX r v).issued = t.issued := by unfold Strand.setX; split <;> rfl
@[simp] theorem Strand.queue_setX (t : Strand) (r : BitVec 5) (v : Word) : (t.setX r v).queue = t.queue := by unfold Strand.setX; split <;> rfl
@[simp] theorem Strand.held_setX (t : Strand) (r : BitVec 5) (v : Word) : (t.setX r v).held = t.held := by unfold Strand.setX; split <;> rfl
@[simp] theorem Strand.dirty_setX (t : Strand) (r : BitVec 5) (v : Word) : (t.setX r v).dirty = t.dirty := by unfold Strand.setX; split <;> rfl
@[simp] theorem Strand.grant_setX (t : Strand) (r : BitVec 5) (v : Word) : (t.setX r v).grant = t.grant := by unfold Strand.setX; split <;> rfl
@[simp] theorem Strand.stores_setX (t : Strand) (r : BitVec 5) (v : Word) : (t.setX r v).stores = t.stores := by unfold Strand.setX; split <;> rfl
@[simp] theorem Strand.orphans_setX (t : Strand) (r : BitVec 5) (v : Word) : (t.setX r v).orphans = t.orphans := by unfold Strand.setX; split <;> rfl
@[simp] theorem Strand.lates_setX (t : Strand) (r : BitVec 5) (v : Word) : (t.setX r v).lates = t.lates := by unfold Strand.setX; split <;> rfl
@[simp] theorem Strand.pend_setX (t : Strand) (r : BitVec 5) (v : Word) : (t.setX r v).pend = t.pend := by unfold Strand.setX; split <;> rfl
@[simp] theorem Strand.heard_setX (t : Strand) (r : BitVec 5) (v : Word) : (t.setX r v).heard = t.heard := by unfold Strand.setX; split <;> rfl
@[simp] theorem Strand.news_setX (t : Strand) (r : BitVec 5) (v : Word) : (t.setX r v).news = t.news := by unfold Strand.setX; split <;> rfl
@[simp] theorem Strand.links_setX (t : Strand) (r : BitVec 5) (v : Word) : (t.setX r v).links = t.links := by unfold Strand.setX; split <;> rfl
@[simp] theorem Strand.loose_setX (t : Strand) (r : BitVec 5) (v : Word) : (t.setX r v).loose = t.loose := by unfold Strand.setX; split <;> rfl
@[simp] theorem Strand.tundish_setX (t : Strand) (r : BitVec 5) (v : Word) : (t.setX r v).tundish = t.tundish := by unfold Strand.setX; split <;> rfl
@[simp] theorem Strand.relFence_setX (t : Strand) (r : BitVec 5) (v : Word) : (t.setX r v).relFence = t.relFence := by unfold Strand.setX; split <;> rfl
@[simp] theorem Strand.due_setX (t : Strand) (r : BitVec 5) (v : Word) : (t.setX r v).due = t.due := by unfold Strand.setX; split <;> rfl
@[simp] theorem Strand.status_setA (t : Strand) (r : BitVec 4) (v : Addr) : (t.setA r v).status = t.status := rfl
@[simp] theorem Strand.pc_setA (t : Strand) (r : BitVec 4) (v : Addr) : (t.setA r v).pc = t.pc := rfl
@[simp] theorem Strand.x_setA (t : Strand) (r : BitVec 4) (v : Addr) : (t.setA r v).x = t.x := rfl
@[simp] theorem Strand.m_setA (t : Strand) (r : BitVec 4) (v : Addr) : (t.setA r v).m = t.m := rfl
@[simp] theorem Strand.fcsr_setA (t : Strand) (r : BitVec 4) (v : Addr) : (t.setA r v).fcsr = t.fcsr := rfl
@[simp] theorem Strand.vl_setA (t : Strand) (r : BitVec 4) (v : Addr) : (t.setA r v).vl = t.vl := rfl
@[simp] theorem Strand.vvl_setA (t : Strand) (r : BitVec 4) (v : Addr) : (t.setA r v).vvl = t.vvl := rfl
@[simp] theorem Strand.vcfg_setA (t : Strand) (r : BitVec 4) (v : Addr) : (t.setA r v).vcfg = t.vcfg := rfl
@[simp] theorem Strand.vvcfg_setA (t : Strand) (r : BitVec 4) (v : Addr) : (t.setA r v).vvcfg = t.vvcfg := rfl
@[simp] theorem Strand.vstart_setA (t : Strand) (r : BitVec 4) (v : Addr) : (t.setA r v).vstart = t.vstart := rfl
@[simp] theorem Strand.ffstat_setA (t : Strand) (r : BitVec 4) (v : Addr) : (t.setA r v).ffstat = t.ffstat := rfl
@[simp] theorem Strand.bs_setA (t : Strand) (r : BitVec 4) (v : Addr) : (t.setA r v).bs = t.bs := rfl
@[simp] theorem Strand.age_setA (t : Strand) (r : BitVec 4) (v : Addr) : (t.setA r v).age = t.age := rfl
@[simp] theorem Strand.gto_setA (t : Strand) (r : BitVec 4) (v : Addr) : (t.setA r v).gto = t.gto := rfl
@[simp] theorem Strand.level_setA (t : Strand) (r : BitVec 4) (v : Addr) : (t.setA r v).level = t.level := rfl
@[simp] theorem Strand.st_setA (t : Strand) (r : BitVec 4) (v : Addr) : (t.setA r v).st = t.st := rfl
@[simp] theorem Strand.mt_setA (t : Strand) (r : BitVec 4) (v : Addr) : (t.setA r v).mt = t.mt := rfl
@[simp] theorem Strand.ctxcur_setA (t : Strand) (r : BitVec 4) (v : Addr) : (t.setA r v).ctxcur = t.ctxcur := rfl
@[simp] theorem Strand.ctx_setA (t : Strand) (r : BitVec 4) (v : Addr) : (t.setA r v).ctx = t.ctx := rfl
@[simp] theorem Strand.strip_setA (t : Strand) (r : BitVec 4) (v : Addr) : (t.setA r v).strip = t.strip := rfl
@[simp] theorem Strand.brk_setA (t : Strand) (r : BitVec 4) (v : Addr) : (t.setA r v).brk = t.brk := rfl
@[simp] theorem Strand.issued_setA (t : Strand) (r : BitVec 4) (v : Addr) : (t.setA r v).issued = t.issued := rfl
@[simp] theorem Strand.queue_setA (t : Strand) (r : BitVec 4) (v : Addr) : (t.setA r v).queue = t.queue := rfl
@[simp] theorem Strand.held_setA (t : Strand) (r : BitVec 4) (v : Addr) : (t.setA r v).held = t.held := rfl
@[simp] theorem Strand.dirty_setA (t : Strand) (r : BitVec 4) (v : Addr) : (t.setA r v).dirty = t.dirty := rfl
@[simp] theorem Strand.grant_setA (t : Strand) (r : BitVec 4) (v : Addr) : (t.setA r v).grant = t.grant := rfl
@[simp] theorem Strand.stores_setA (t : Strand) (r : BitVec 4) (v : Addr) : (t.setA r v).stores = t.stores := rfl
@[simp] theorem Strand.orphans_setA (t : Strand) (r : BitVec 4) (v : Addr) : (t.setA r v).orphans = t.orphans := rfl
@[simp] theorem Strand.lates_setA (t : Strand) (r : BitVec 4) (v : Addr) : (t.setA r v).lates = t.lates := rfl
@[simp] theorem Strand.pend_setA (t : Strand) (r : BitVec 4) (v : Addr) : (t.setA r v).pend = t.pend := rfl
@[simp] theorem Strand.heard_setA (t : Strand) (r : BitVec 4) (v : Addr) : (t.setA r v).heard = t.heard := rfl
@[simp] theorem Strand.news_setA (t : Strand) (r : BitVec 4) (v : Addr) : (t.setA r v).news = t.news := rfl
@[simp] theorem Strand.links_setA (t : Strand) (r : BitVec 4) (v : Addr) : (t.setA r v).links = t.links := rfl
@[simp] theorem Strand.loose_setA (t : Strand) (r : BitVec 4) (v : Addr) : (t.setA r v).loose = t.loose := rfl
@[simp] theorem Strand.tundish_setA (t : Strand) (r : BitVec 4) (v : Addr) : (t.setA r v).tundish = t.tundish := rfl
@[simp] theorem Strand.relFence_setA (t : Strand) (r : BitVec 4) (v : Addr) : (t.setA r v).relFence = t.relFence := rfl
@[simp] theorem Strand.due_setA (t : Strand) (r : BitVec 4) (v : Addr) : (t.setA r v).due = t.due := rfl
@[simp] theorem Strand.status_setM (t : Strand) (r : BitVec 3) (v : BitVec 4096) : (t.setM r v).status = t.status := rfl
@[simp] theorem Strand.pc_setM (t : Strand) (r : BitVec 3) (v : BitVec 4096) : (t.setM r v).pc = t.pc := rfl
@[simp] theorem Strand.x_setM (t : Strand) (r : BitVec 3) (v : BitVec 4096) : (t.setM r v).x = t.x := rfl
@[simp] theorem Strand.a_setM (t : Strand) (r : BitVec 3) (v : BitVec 4096) : (t.setM r v).a = t.a := rfl
@[simp] theorem Strand.fcsr_setM (t : Strand) (r : BitVec 3) (v : BitVec 4096) : (t.setM r v).fcsr = t.fcsr := rfl
@[simp] theorem Strand.vl_setM (t : Strand) (r : BitVec 3) (v : BitVec 4096) : (t.setM r v).vl = t.vl := rfl
@[simp] theorem Strand.vvl_setM (t : Strand) (r : BitVec 3) (v : BitVec 4096) : (t.setM r v).vvl = t.vvl := rfl
@[simp] theorem Strand.vcfg_setM (t : Strand) (r : BitVec 3) (v : BitVec 4096) : (t.setM r v).vcfg = t.vcfg := rfl
@[simp] theorem Strand.vvcfg_setM (t : Strand) (r : BitVec 3) (v : BitVec 4096) : (t.setM r v).vvcfg = t.vvcfg := rfl
@[simp] theorem Strand.vstart_setM (t : Strand) (r : BitVec 3) (v : BitVec 4096) : (t.setM r v).vstart = t.vstart := rfl
@[simp] theorem Strand.ffstat_setM (t : Strand) (r : BitVec 3) (v : BitVec 4096) : (t.setM r v).ffstat = t.ffstat := rfl
@[simp] theorem Strand.bs_setM (t : Strand) (r : BitVec 3) (v : BitVec 4096) : (t.setM r v).bs = t.bs := rfl
@[simp] theorem Strand.age_setM (t : Strand) (r : BitVec 3) (v : BitVec 4096) : (t.setM r v).age = t.age := rfl
@[simp] theorem Strand.gto_setM (t : Strand) (r : BitVec 3) (v : BitVec 4096) : (t.setM r v).gto = t.gto := rfl
@[simp] theorem Strand.level_setM (t : Strand) (r : BitVec 3) (v : BitVec 4096) : (t.setM r v).level = t.level := rfl
@[simp] theorem Strand.st_setM (t : Strand) (r : BitVec 3) (v : BitVec 4096) : (t.setM r v).st = t.st := rfl
@[simp] theorem Strand.mt_setM (t : Strand) (r : BitVec 3) (v : BitVec 4096) : (t.setM r v).mt = t.mt := rfl
@[simp] theorem Strand.ctxcur_setM (t : Strand) (r : BitVec 3) (v : BitVec 4096) : (t.setM r v).ctxcur = t.ctxcur := rfl
@[simp] theorem Strand.ctx_setM (t : Strand) (r : BitVec 3) (v : BitVec 4096) : (t.setM r v).ctx = t.ctx := rfl
@[simp] theorem Strand.strip_setM (t : Strand) (r : BitVec 3) (v : BitVec 4096) : (t.setM r v).strip = t.strip := rfl
@[simp] theorem Strand.brk_setM (t : Strand) (r : BitVec 3) (v : BitVec 4096) : (t.setM r v).brk = t.brk := rfl
@[simp] theorem Strand.issued_setM (t : Strand) (r : BitVec 3) (v : BitVec 4096) : (t.setM r v).issued = t.issued := rfl
@[simp] theorem Strand.queue_setM (t : Strand) (r : BitVec 3) (v : BitVec 4096) : (t.setM r v).queue = t.queue := rfl
@[simp] theorem Strand.held_setM (t : Strand) (r : BitVec 3) (v : BitVec 4096) : (t.setM r v).held = t.held := rfl
@[simp] theorem Strand.dirty_setM (t : Strand) (r : BitVec 3) (v : BitVec 4096) : (t.setM r v).dirty = t.dirty := rfl
@[simp] theorem Strand.grant_setM (t : Strand) (r : BitVec 3) (v : BitVec 4096) : (t.setM r v).grant = t.grant := rfl
@[simp] theorem Strand.stores_setM (t : Strand) (r : BitVec 3) (v : BitVec 4096) : (t.setM r v).stores = t.stores := rfl
@[simp] theorem Strand.orphans_setM (t : Strand) (r : BitVec 3) (v : BitVec 4096) : (t.setM r v).orphans = t.orphans := rfl
@[simp] theorem Strand.lates_setM (t : Strand) (r : BitVec 3) (v : BitVec 4096) : (t.setM r v).lates = t.lates := rfl
@[simp] theorem Strand.pend_setM (t : Strand) (r : BitVec 3) (v : BitVec 4096) : (t.setM r v).pend = t.pend := rfl
@[simp] theorem Strand.heard_setM (t : Strand) (r : BitVec 3) (v : BitVec 4096) : (t.setM r v).heard = t.heard := rfl
@[simp] theorem Strand.news_setM (t : Strand) (r : BitVec 3) (v : BitVec 4096) : (t.setM r v).news = t.news := rfl
@[simp] theorem Strand.links_setM (t : Strand) (r : BitVec 3) (v : BitVec 4096) : (t.setM r v).links = t.links := rfl
@[simp] theorem Strand.loose_setM (t : Strand) (r : BitVec 3) (v : BitVec 4096) : (t.setM r v).loose = t.loose := rfl
@[simp] theorem Strand.tundish_setM (t : Strand) (r : BitVec 3) (v : BitVec 4096) : (t.setM r v).tundish = t.tundish := rfl
@[simp] theorem Strand.relFence_setM (t : Strand) (r : BitVec 3) (v : BitVec 4096) : (t.setM r v).relFence = t.relFence := rfl
@[simp] theorem Strand.due_setM (t : Strand) (r : BitVec 3) (v : BitVec 4096) : (t.setM r v).due = t.due := rfl

end Sys2Proof.Machine
end

