-- ==== Sys2Proof/Laws/Operations.lean ====
section
/-! SUPPORT. What the shared operations can do, said once: the frame of an instruction's issue and of an event, what a write to memory changes, and that
records, traps and issue keep the canonical form of memory. -/

namespace Sys2Proof.Machine

open Sys2Proof

/-! ### Bookkeeping leaves memory as it is -/

@[simp] theorem modCore_mem (s : State) (c : CoreId) (f : CoreState → CoreState) : (s.modCore c f).mem = s.mem := by cases c <;> rfl
@[simp] theorem bump_mem (t : TileId) (k : Fin 10) (n : Nat) (s : State) : (bump t k n s).mem = s.mem := rfl
@[simp] theorem bumpQuad_mem (q : BitVec 2) (k : Fin 7) (n : Nat) (s : State) : (bumpQuad q k n s).mem = s.mem := rfl
@[simp] theorem bumpCore_mem (c : CoreId) (k : Fin 10) (n : Nat) (s : State) : (bumpCore c k n s).mem = s.mem := by cases c <;> rfl
@[simp] theorem takeSlot_mem (i : StrandId) (s : State) : (takeSlot i s).mem = s.mem := by simp [takeSlot]
@[simp] theorem advance_mem (i : StrandId) (len : Nat) (s : State) : (advance i len s).mem = s.mem := by simp [advance]
@[simp] theorem setFull_mem (t : TileId) (o n : Nat) (s : State) : (setFull t o n s).mem = s.mem := by unfold setFull; split <;> rfl
@[simp] theorem setFullWhole_mem (t : TileId) (o n : Nat) (s : State) : (setFullWhole t o n s).mem = s.mem := rfl
@[simp] theorem clearFull_mem (t : TileId) (g : Nat) (s : State) : (clearFull t g s).mem = s.mem := rfl
@[simp] theorem cutRanges_mem (self : Option (TileId × Nat)) (w : Bool) (l : Loc) (n : Nat) (s : State) : (cutRanges self w l n s).mem = s.mem := by
  cases l <;> rfl
@[simp] theorem loseLinks_mem (k : Option StrandId) (l : Line) (s : State) : (loseLinks k l s).mem = s.mem := rfl
@[simp] theorem endMerges_mem (l : Loc) (n : Nat) (s : State) : (endMerges l n s).mem = s.mem := rfl
@[simp] theorem endMerges_tile (l : Loc) (n : Nat) (s : State) (t : TileId) : (endMerges l n s).tile t = s.tile t := rfl
@[simp] theorem noteDirty_mem (n : Nat) (s : State) : (noteDirty n s).mem = s.mem := by
  unfold noteDirty; (repeat' split) <;> rfl
@[simp] theorem modCrucible_mem (n : Nat) (f : Crucible → Crucible) (s : State) : (modCrucible n f s).mem = s.mem := by
  unfold modCrucible; split <;> rfl
@[simp] theorem writeBack_mem (n : Nat) (s : State) : (writeBack n s).mem = s.mem := by simp [writeBack]
@[simp] theorem evict_mem (q : BitVec 2) (l : Nat) (room : Crucible → Bool) (n : Nat) (s : State) : (evict q l room n s).mem = s.mem := by
  induction n generalizing s with
  | zero => rfl
  | succ n ih =>
    simp only [evict]
    split
    · rfl
    · split
      · rfl
      · rw [ih]; split <;> simp
@[simp] theorem makeRoom_mem (q : BitVec 2) (l : Nat) (room : Crucible → Bool) (s : State) : (makeRoom q l room s).mem = s.mem := evict_mem _ _ _ _ s
@[simp] theorem unshareLine_mem (n : Nat) (s : State) : (unshareLine n s).mem = s.mem := by
  unfold unshareLine; split
  · rfl
  · simp
@[simp] theorem touchLine_mem (k : Option StrandId) (n : Nat) (s : State) : (touchLine k n s).mem = s.mem := by simp [touchLine]
@[simp] theorem addAsync_mem (i : StrandId) (k : TrapRec) (s : State) : (addAsync i k s).mem = s.mem := rfl
@[simp] theorem newStamp_mem (c : CoreId) (s : State) : (newStamp c s).2.mem = s.mem := by simp [newStamp]
@[simp] theorem fresh_mem (s : State) : s.fresh.2.mem = s.mem := rfl

/-- A fold of steps that each leave memory as it is leaves it as it is. -/
theorem foldl_mem {α : Type} (f : State → α → State) (h : ∀ s a, (f s a).mem = s.mem) (l : List α) (s : State) : (l.foldl f s).mem = s.mem := by
  induction l generalizing s with
  | nil => rfl
  | cons a r ih => rw [List.foldl_cons, ih, h]

/-- A fold of steps that each keep the canonical form keeps it. -/
theorem foldl_memWf {α : Type} (f : State → α → State) (h : ∀ s a, s.mem.wf = true → (f s a).mem.wf = true) (l : List α) (s : State)
    (hs : s.mem.wf = true) : (l.foldl f s).mem.wf = true := by
  induction l generalizing s with
  | nil => exact hs
  | cons a r ih => exact ih (f s a) (h s a hs)

/-! ### Writes -/

/-- What a coherent write does to memory. -/
theorem writeMem_mem (k : Option StrandId) (a : Nat) (bs : List Byte) (s : State) : (writeMem k a bs s).mem = s.mem.write a bs := by
  unfold writeMem
  split
  · rename_i h; rw [List.isEmpty_iff.mp h]; rfl
  · dsimp only; rw [endMerges_mem]; dsimp only; rw [foldl_mem _ fun s n => touchLine_mem k n s]

@[simp] theorem writeTmem_mem (k : Option StrandId) (t : TileId) (o : Nat) (bs : List Byte) (s : State) : (writeTmem k t o bs s).mem = s.mem := by
  unfold writeTmem
  split
  · rfl
  · exact foldl_mem (fun s n => loseLinks k (.tmem t n) s) (fun s n => loseLinks_mem k (.tmem t n) s) _ s

theorem foldl_loseLinks_tile (k : Option StrandId) (g : Nat → Line) (l : List Nat) (s : State) (u : TileId) :
    ((l.foldl (fun s n => loseLinks k (g n) s) s).tile u) = s.tile u := by
  induction l generalizing s with
  | nil => rfl
  | cons a r ih => rw [List.foldl_cons, ih]; rfl

/-- What a write to a tile's TMEM does to it. -/
theorem writeTmem_tile (k : Option StrandId) (t u : TileId) (o : Nat) (bs : List Byte) (s : State) :
    (writeTmem k t o bs s).tile u = if u = t then { s.tile t with tmem := (s.tile t).tmem.write o bs } else s.tile u := by
  unfold writeTmem
  split
  · rename_i h; rw [List.isEmpty_iff.mp h]; split
    · subst_vars; rfl
    · rfl
  · dsimp only
    rw [endMerges_tile, State.tile_modTile]
    have h (v : TileId) := foldl_loseLinks_tile k (.tmem t) (linesOf o bs.length) s v
    simp only [State.tile] at h ⊢
    simp only [h]

/-- A byte of memory outside those written reads as before. -/
theorem writeMem_outside (k : Option StrandId) (a j : Nat) (bs : List Byte) {s : State} (h : s.mem.wf = true) (hj : j < a ∨ a + bs.length ≤ j) :
    (writeMem k a bs s).mem.get j = s.mem.get j := by rw [writeMem_mem, Mem.get_write_outside h a j bs hj]

theorem writeMem_memWf (k : Option StrandId) (a : Nat) (bs : List Byte) {s : State} (h : s.mem.wf = true) : (writeMem k a bs s).mem.wf = true := by
  rw [writeMem_mem]; exact Mem.wf_write h a bs

theorem writeLoc_memWf (k : Option StrandId) (l : Loc) (bs : List Byte) {s : State} (h : s.mem.wf = true) : (writeLoc k l bs s).mem.wf = true := by
  cases l with
  | mem a => exact writeMem_memWf k a bs h
  | tmem t o => simpa [writeLoc] using h

theorem hwWrite_memWf (a : Nat) (bs : List Byte) {s : State} (h : s.mem.wf = true) : (hwWrite a bs s).mem.wf = true := writeMem_memWf none a bs h

theorem dropCopies_memWf (n : Nat) {s : State} (h : s.mem.wf = true) : (dropCopies n s).mem.wf = true := by
  unfold dropCopies; dsimp only; split
  · simpa using h
  · exact Mem.wf_write (by simpa using h) _ _

/-- The canonical form of a tile's TMEM is kept by a write to it. -/
theorem writeTmem_tmemWf (k : Option StrandId) (t u : TileId) (o : Nat) (bs : List Byte) {s : State} (h : (s.tile u).tmem.wf = true) :
    ((writeTmem k t o bs s).tile u).tmem.wf = true := by
  rw [writeTmem_tile]; split
  · subst_vars; exact Mem.wf_write h o bs
  · exact h

/-! ### Records and traps keep the canonical form -/

/-- Everything the write of a ring's record does: it counts the record as lost, or writes it and moves the head. -/
theorem ringWrite_cases (base : Word) (n r : Nat) (bs : List Byte) (s : State) :
    ∃ a b c d e, ringWrite base n r bs s = (false, hwWrite a b s) ∨ ringWrite base n r bs s = (true, hwWrite c d (hwWrite e bs s)) := by
  unfold ringWrite
  lift_lets
  intro a n head tail
  by_cases hc : (head + 2 ^ 64 - tail) % 2 ^ 64 = n
  · rw [if_pos hc]; exact ⟨_, _, 0, [], 0, .inl rfl⟩
  · rw [if_neg hc]; exact ⟨0, [], _, _, _, .inr rfl⟩

theorem ringWrite_memWf (base : Word) (n r : Nat) (bs : List Byte) {s : State} (h : s.mem.wf = true) : (ringWrite base n r bs s).2.mem.wf = true := by
  obtain ⟨a, b, c, d, e, hr⟩ := ringWrite_cases base n r bs s
  generalize ringWrite base n r bs s = w at hr ⊢
  obtain ⟨p, u⟩ := w
  rw [Prod.mk.injEq, Prod.mk.injEq] at hr
  obtain ⟨-, rfl⟩ | ⟨-, rfl⟩ := hr
  · exact hwWrite_memWf _ _ h
  · exact hwWrite_memWf _ _ (hwWrite_memWf _ _ h)

theorem countRecord_memWf (q : BitVec 2) {w : Bool × State} (h : w.2.mem.wf = true) : (countRecord q w).mem.wf = true := by
  obtain ⟨ok, u⟩ := w
  cases ok <;> exact h

/-- Everything an error record does: nothing without a ring; else the ring takes it, and it is counted where it was written. -/
theorem errorRecord_cases (q : BitVec 2) (typ tile cause handle pa : Nat) (s : State) :
    errorRecord q typ tile cause handle pa s = s ∨ ∃ a n bs, errorRecord q typ tile cause handle pa s = countRecord q (ringWrite a n 64 bs s) := by
  unfold errorRecord
  lift_lets
  intro qd
  by_cases hc : qd.errsize.toNat % 32 = 0
  · rw [if_pos hc]; exact .inl rfl
  · rw [if_neg hc]; exact .inr ⟨_, _, _, rfl⟩

theorem errorRecord_memWf (q : BitVec 2) (typ tile cause handle pa : Nat) {s : State} (h : s.mem.wf = true) :
    (errorRecord q typ tile cause handle pa s).mem.wf = true := by
  obtain hr | ⟨a, n, bs, hr⟩ := errorRecord_cases q typ tile cause handle pa s
  · rw [hr]; exact h
  · rw [hr]; exact countRecord_memWf q (ringWrite_memWf a n 64 bs h)

/-- The records of uncorrectable errors keep memory's canonical form. -/
theorem notePoison_memWf (a n : Nat) {s : State} (h : s.mem.wf = true) : (notePoison a n s).mem.wf = true :=
  foldl_memWf _ (fun s k hs => by
    split
    · exact errorRecord_memWf _ _ _ _ _ _ hs
    · exact hs) _ s h

theorem traceDone_memWf (q : BitVec 2) (t : Option TileId) {w : Bool × State} (h : w.2.mem.wf = true) : (traceDone q t w).mem.wf = true := by
  obtain ⟨ok, u⟩ := w
  cases ok <;> cases t <;> exact h

theorem tracePut_memWf (q : BitVec 2) (t : Option TileId) (bs : List Byte) {s : State} (h : s.mem.wf = true) : (tracePut q t bs s).mem.wf = true :=
  traceDone_memWf q t (ringWrite_memWf _ _ _ _ h)

@[simp] theorem traceOwe_mem (q : BitVec 2) (t : Option TileId) (s : State) : (traceOwe q t s).mem = s.mem := by cases t <;> rfl

theorem traceLost_memWf (q : BitVec 2) (t : Option TileId) {s : State} (h : s.mem.wf = true) : (traceLost q t s).mem.wf = true := by
  unfold traceLost
  rw [State.mem_modQuad, bumpQuad_mem]
  exact hwWrite_memWf _ _ h

theorem trace_memWf (q : BitVec 2) (t : Option TileId) (i : BitVec 3) (typ pipe : Nat) (fin : Bool) (n : Nat) (m : StripName) (aux : Nat) {s : State}
    (h : s.mem.wf = true) : (trace q t i typ pipe fin n m aux s).mem.wf = true := by
  unfold trace
  dsimp only
  split
  · exact h
  · split
    · exact traceLost_memWf _ _ h
    · exact h

theorem traceEmit_memWf (q : BitVec 2) (r : Noted) {s : State} (h : s.mem.wf = true) : (traceEmit q s r).mem.wf = true := by
  unfold traceEmit
  by_cases hc : (s.quad q).trace.log2n = 0
  · rw [if_pos hc]; exact h
  · rw [if_neg hc]
    split
    · exact tracePut_memWf _ _ _ h
    · refine tracePut_memWf _ _ _ ?_
      by_cases hd : s.syncDue q r.tile = true
      · rw [if_pos hd]; exact tracePut_memWf _ _ _ h
      · rw [if_neg hd]; exact h

/-- The end of a cycle keeps memory's canonical form. -/
theorem flushTrace_memWf (q : BitVec 2) {s : State} (h : s.mem.wf = true) : (flushTrace q s).mem.wf = true := by
  unfold flushTrace
  dsimp only
  split
  · exact h
  · have hf := foldl_memWf (traceEmit q) (fun s r hs => traceEmit_memWf q r hs) (s.quad q).trace.buf
      (s.modQuad q fun v => { v with trace := { v.trace with buf := [], resync := false, lost := [] } }) h
    have ho := foldl_memWf (fun s t => traceOwe q t s) (fun s t hs => by rw [traceOwe_mem]; exact hs) (s.quad q).trace.lost _ hf
    split
    · exact ho
    · exact ho

/-- The passing of time keeps memory's canonical form. -/
theorem tick_memWf (dt : Nat) (late : Bool) {s : State} (h : s.mem.wf = true) : (tick dt late s).mem.wf = true := by
  unfold tick
  dsimp only
  split
  · exact h
  · exact flushTrace_memWf 3 (flushTrace_memWf 2 (flushTrace_memWf 1 (flushTrace_memWf 0 h)))

theorem traceEvent_memWf (i : StrandId) (pipe : Nat) (fin : Bool) (n : Nat) (m : StripName) (pc : Addr) {s : State} (h : s.mem.wf = true) :
    (traceEvent i pipe fin n m pc s).mem.wf = true := trace_memWf _ _ _ _ _ _ _ _ _ h

theorem traceStrand_memWf (i : StrandId) (typ n : Nat) (m : StripName) (aux : Nat) {s : State} (h : s.mem.wf = true) :
    (traceStrand i typ n m aux s).mem.wf = true := trace_memWf _ _ _ _ _ _ _ _ _ h

theorem traceStops_memWf (i : StrandId) {s : State} (h : s.mem.wf = true) : (traceStops i s).mem.wf = true := by
  unfold traceStops
  refine foldl_memWf _ (fun s e hs => ?_) _ s h
  split
  · exact traceEvent_memWf _ _ _ _ _ _ hs
  · exact hs

theorem traceWait_memWf (i : StrandId) {s : State} (h : s.mem.wf = true) : (traceWait i s).mem.wf = true := by
  unfold traceWait
  dsimp only
  split
  · exact foldl_memWf _ (fun s p hs => traceEvent_memWf _ _ _ _ _ _ hs) _ s h
  · exact h

@[simp] theorem dropClock_mem (i : StrandId) (s : State) : (dropClock i s).mem = s.mem := State.mem_modQuad _ _ _

@[simp] theorem leaveWait_mem (i : StrandId) (s : State) : (leaveWait i s).mem = s.mem := by
  unfold leaveWait
  generalize (s.strand i).status = w
  generalize hc : i.core = c
  cases w with
  | blocked w =>
    cases w <;> cases c <;> rfl
  | _ => rfl

@[simp] theorem countFault_mem (x : Xl) (c : BitVec 8) (va : Addr) (s : State) : (countFault x c va s).mem = s.mem := by
  have hm (k : CoreId) (a b : Bool) : (countMiss k a b s).mem = s.mem := by
    unfold countMiss
    cases k <;> cases a <;> cases b <;> simp
  unfold countFault
  dsimp only
  repeat' split
  all_goals first | rfl | exact hm _ _ _

theorem dropWait_memWf (i : StrandId) {s : State} (h : s.mem.wf = true) : (dropWait i s).mem.wf = true := by
  unfold dropWait; rw [leaveWait_mem]; exact traceWait_memWf i h

theorem traceDiscard_memWf (i : StrandId) {s : State} (h : s.mem.wf = true) : (traceDiscard i s).mem.wf = true :=
  foldl_memWf _ (fun _ _ hs => traceEvent_memWf _ _ _ _ _ _ hs) _ s h

theorem enterTrap_memWf (g : Level) (i : StrandId) (k : TrapRec) (t : Strand) {s : State} (h : s.mem.wf = true) : (enterTrap g i k t s).mem.wf = true := by
  unfold enterTrap
  dsimp only
  split
  · split
    · exact errorRecord_memWf _ _ _ _ _ _ (by rw [State.mem_setStrand]; exact traceDiscard_memWf i h)
    · exact h
  · exact h

theorem writeStorage_memWf (k : Option StrandId) (l : Loc) (bs : List Byte) {s : State} (h : s.mem.wf = true) :
    (writeStorage k l bs s).mem.wf = true := by
  unfold writeStorage
  split
  · cases l with
    | mem a => exact errorRecord_memWf _ _ _ _ _ _ h
    | tmem t o => exact h
  · exact writeLoc_memWf k l bs h

@[simp] theorem bracket_mem (n k : Nat) (l : List Nat) (s : State) : (bracket n k l s).2.mem = s.mem := by
  induction k generalizing l s with
  | zero => rfl
  | succ k ih =>
    match l with
    | [] => rfl
    | [_] => rfl
    | a :: b :: r => simp only [bracket]; rw [ih]; rfl

@[simp] theorem atHome_mem (l : Loc) (s : State) : (atHome l s).mem = s.mem := by
  unfold atHome
  split
  · rfl
  · split
    · rfl
    · rw [writeBack, modCrucible_mem]

theorem applyPartial_memWf (op : AmoOp) (k : Combine) {s : State} (h : s.mem.wf = true) : (applyPartial op k s).mem.wf = true := by
  unfold applyPartial
  dsimp only
  have hc : (if s.meets none true k.phys.loc k.size = .cut then cutRanges none true k.phys.loc k.size s else s).mem.wf = true := by
    split
    · rw [cutRanges_mem]; exact h
    · exact h
  revert hc
  generalize (if s.meets none true k.phys.loc k.size = .cut then cutRanges none true k.phys.loc k.size s else s) = u
  intro h
  split
  · exact writeStorage_memWf _ _ _ h
  · split
    · split
      · exact notePoison_memWf _ _ h
      · exact errorRecord_memWf _ _ _ _ _ _ h
    · split
      · rw [atHome_mem]; exact writeStorage_memWf _ _ _ h
      · show (atHome _ _).mem.wf = true
        rw [atHome_mem]; exact writeStorage_memWf _ _ _ (by rw [bracket_mem]; exact h)

theorem flushParts_memWf (i : StrandId) {s : State} (h : s.mem.wf = true) : (flushParts i s).mem.wf = true := by
  unfold flushParts
  dsimp only
  split
  · exact h
  · exact foldl_memWf _ (fun s p hs => foldl_memWf _ (fun _ k hk => applyPartial_memWf p.1 k hk) _ s hs) _ _ h

/-- Taking a trap keeps the canonical form. -/
theorem takeTrap_memWf (i : StrandId) (k : TrapRec) {s : State} (h : s.mem.wf = true) : (takeTrap i k s).mem.wf = true :=
  enterTrap_memWf _ _ _ _ (by simpa using flushParts_memWf i (dropWait_memWf i (traceStops_memWf i h)))

/-! ### Issue -/

theorem advance_strand (i j : StrandId) (len : Nat) (s : State) :
    (advance i len s).strand j = if j = i then (s.strand i).advance len else s.strand j := by
  have hb : ∀ (c : CoreId) (k : Fin 10) (n : Nat) (s : State), (bumpCore c k n s).strand j = s.strand j := by intro c k n s; cases c <;> rfl
  have hm : ∀ (c : CoreId) (f : CoreState → CoreState) (s : State), (s.modCore c f).strand j = s.strand j := by intro c f s; cases c <;> rfl
  rw [advance, hb, takeSlot, hm, State.strand_modStrand]

/-- Everything the issue of an instruction can do: it waits, it completes as its body says, or it traps. -/
theorem issue_cases {s s' : State} {len : Nat} {body : StrandId → Strand → State → Except Stop State} (h : issue s len body = .next s') :
    ∃ i, s.cur = .strand i ∧ (s' = { s with idle := true } ∨ body i (s.strand i) (advance i len s) = .ok s' ∨
      ∃ k, body i (s.strand i) (advance i len s) = .error (.trap k) ∧ s' = takeTrap i k (countFault (strandXl i s).1 k.cause k.taddr s)) := by
  unfold issue issueWith at h
  split at h
  · cases h
  · rename_i i hi
    refine ⟨i, hi, ?_⟩
    split at h
    · cases h; exact .inl rfl
    · split at h
      · cases h; exact .inr (.inl (by assumption))
      · cases h; exact .inl rfl
      · cases h; exact .inr (.inr ⟨_, by assumption, rfl⟩)

/-- An instruction whose body completes answers that state. -/
theorem issue_ok {s s' : State} {i : StrandId} {len : Nat} {body : StrandId → Strand → State → Except Stop State} (hc : s.cur = .strand i)
    (hs : (s.strand i).shortening = false) (h : body i (s.strand i) (advance i len s) = .ok s') : issue s len body = .next s' := by
  unfold issue issueWith; simp [hc, hs, h]

/-- An instruction whose body traps takes that trap, with nothing of the instruction done. -/
theorem issue_trap {s : State} {i : StrandId} {len : Nat} {k : TrapRec} {body : StrandId → Strand → State → Except Stop State} (hc : s.cur = .strand i)
    (hs : (s.strand i).shortening = false) (h : body i (s.strand i) (advance i len s) = .error (.trap k)) :
    issue s len body = .next (takeTrap i k (countFault (strandXl i s).1 k.cause k.taddr s)) := by
  unfold issue issueWith; simp [hc, hs, h]

/-- An engine instruction whose body succeeds answers that state. -/
theorem issueEngine_ok {s s' : State} {i : StrandId} {len : Nat} {body : StrandId → Strand → State → Except Stop State} (hc : s.cur = .strand i)
    (hs : (s.strand i).shortening = false) (h : body i (s.strand i) (advance i len s) = .ok s') : issueEngine s len body = .next s' :=
  issue_ok hc hs (by rw [h])

/-- An engine instruction whose body traps takes that trap, which names it in TVPC. -/
theorem issueEngine_trap {s : State} {i : StrandId} {len : Nat} {k : TrapRec} {body : StrandId → Strand → State → Except Stop State}
    (hc : s.cur = .strand i) (hs : (s.strand i).shortening = false) (h : body i (s.strand i) (advance i len s) = .error (.trap k)) :
    issueEngine s len body = .next (takeTrap i { k with tvpc := (s.strand i).pc } (countFault (strandXl i s).1 k.cause k.taddr s)) :=
  issue_trap hc hs (by rw [h])

/-- An issue keeps the canonical form where its body does. -/
theorem issue_memWf {s s' : State} {len : Nat} {body : StrandId → Strand → State → Except Stop State}
    (hb : ∀ i t u u', u.mem.wf = true → body i t u = .ok u' → u'.mem.wf = true) (hs : s.mem.wf = true) (h : issue s len body = .next s') :
    s'.mem.wf = true := by
  obtain ⟨i, -, rfl | hk | ⟨k, -, rfl⟩⟩ := issue_cases h
  · exact hs
  · exact hb _ _ _ _ (by simpa using hs) hk
  · exact takeTrap_memWf i k (by rw [countFault_mem]; exact hs)

/-- Everything an instruction that writes one x register can do. -/
theorem issueX_cases {s s' : State} {len : Nat} {d : BitVec 5} {reads : List (BitVec 5)} {f : Strand → Word} (h : issueX s len d reads f = .next s') :
    ∃ i, s.cur = .strand i ∧ (s' = { s with idle := true } ∨ s' = (advance i len s).setX i d (f (s.strand i))) := by
  obtain ⟨i, hi, rfl | hk | ⟨k, hk, -⟩⟩ := issue_cases h
  · exact ⟨i, hi, .inl rfl⟩
  · refine ⟨i, hi, .inr ?_⟩; split at hk <;> cases hk; rfl
  · split at hk <;> cases hk

theorem issueX_ok {s : State} {i : StrandId} {len : Nat} {d : BitVec 5} {reads : List (BitVec 5)} {f : Strand → Word} (hc : s.cur = .strand i)
    (hs : (s.strand i).shortening = false) (hx : (s.strand i).anyX (d :: reads) = false) :
    issueX s len d reads f = .next ((advance i len s).setX i d (f (s.strand i))) := issue_ok hc hs (by simp [hx])

/-- Everything an instruction that writes one a register can do. -/
theorem issueA_cases {s s' : State} {len : Nat} {d : BitVec 4} {reads : List (BitVec 5)} {f : Strand → Addr} (h : issueA s len d reads f = .next s') :
    ∃ i, s.cur = .strand i ∧ (s' = { s with idle := true } ∨ s' = (advance i len s).modStrand i (·.setA d (f (s.strand i)))) := by
  obtain ⟨i, hi, rfl | hk | ⟨k, hk, -⟩⟩ := issue_cases h
  · exact ⟨i, hi, .inl rfl⟩
  · refine ⟨i, hi, .inr ?_⟩; split at hk <;> cases hk; rfl
  · split at hk <;> cases hk

theorem issueA_ok {s : State} {i : StrandId} {len : Nat} {d : BitVec 4} {reads : List (BitVec 5)} {f : Strand → Addr} (hc : s.cur = .strand i)
    (hs : (s.strand i).shortening = false) (hx : (s.strand i).anyX reads = false) :
    issueA s len d reads f = .next ((advance i len s).modStrand i (·.setA d (f (s.strand i)))) := issue_ok hc hs (by simp [hx])

/-- A vector-class instruction enters the queue where it takes an entry and nothing of the strand holds it back. -/
theorem issueV_ok {s : State} {i : StrandId} {len : Nat} {xs : List (BitVec 5)} {op : Strand → VOp} {mk : Option (BitVec 3)} (hc : s.cur = .strand i)
    (hs : (s.strand i).shortening = false) (ht : onControl i = false) (hq : queueFull i (s.strand i) (advance i len s) = false)
    (hx : (s.strand i).anyX xs = false)
    (hm : (op (s.strand i)).memory = true → (s.strand i).acquiring = false ∧ (s.strand i).releasing = false) :
    issueV len xs op mk s = .next (pushEntry i (vEntry (s.strand i) (op (s.strand i)) mk) (advance i len s)) := by
  refine issueEngine_ok hc hs ?_
  by_cases hh : (op (s.strand i)).memory = true
  · simp [ht, hq, hx, hh, hm hh]
  · simp [ht, hq, hx, hh]

/-! ### Events -/

/-- Everything an event can do: it answers its state, or it is not due. -/
theorem event_cases {s s' : State} {r : Option State} (h : event s r = .next s') : s' = { s with idle := true } ∨ r = some s' := by
  unfold event at h
  split at h
  · cases h; exact .inr rfl
  · cases h; exact .inl rfl

@[simp] theorem event_some (s s' : State) : event s (some s') = .next s' := rfl

theorem event_memWf {s s' : State} {r : Option State} (hr : ∀ u, r = some u → u.mem.wf = true) (hs : s.mem.wf = true) (h : event s r = .next s') :
    s'.mem.wf = true := by
  obtain rfl | hk := event_cases h
  · exact hs
  · exact hr _ hk

end Sys2Proof.Machine
end

