-- ==== Sys2Proof/Tests/Slice0.lean ====
section
/-! SUPPORT. The model's own tests: words of the manual's encodings and what they decode to, an ill-formed term for each check of WellFormed, single
steps with results worked by hand from the rules, and a witness for the hypotheses of every statement. -/

namespace Sys2Proof.Tests

open Sys2Proof Sys2Proof.Machine

set_option Elab.async false

/-! ### Small states -/

/-- The tile and the strand that the tests use, and the strand of quadrant 0's control core. -/
abbrev T0 : TileId := ⟨0, 0⟩
abbrev S0 : StrandId := ⟨.tile T0, 0⟩
abbrev C0 : StrandId := ⟨.control 0, 0⟩

/-- A running strand at level M, which translates nothing. -/
def strand0 : Strand := { status := .running, level := .M, pc := 0x1000 }

/-- A tile whose team of one tile runs, with one lane group of 32 lanes for slot 0. -/
def tile0 : Tile := { life := .resident, started := true, res := some ⟨0, 0, 0, 0, 0, 1, 0, 1, 0, 0, 1, 1⟩, groups := [(0, ⟨0, 32, some 0⟩)] }

/-- A state in which the strand of the tests acts, with the strand and the tile changed as a test needs; its fuses are given, so that states compare. -/
def mk (f : Strand → Strand) (g : Tile → Tile) : State :=
  { State.reset with cur := .strand S0, strands := [(S0, f strand0)], tiles := [(T0, g tile0)], dev := { fuses := ⟨0, 0, 0⟩ } }

/-- The same with nothing changed. -/
def base : State := mk id id

/-- The strand with some x registers and a2 set. -/
def withX (l : List (BitVec 5 × Word)) (a : Addr) (t : Strand) : Strand := l.foldl (fun t p => t.setX p.1 p.2) (t.setA 2 a)

/-- What holds of the next state of an outcome. -/
def nextHas (o : Out) (p : State → Bool) : Bool := match o with | .next s => p s | _ => false

/-- What holds of an answer. -/
def okHas {ε α : Type} (r : Except ε α) (p : α → Bool) : Bool := match r with | .ok v => p v | .error _ => false

/-- An answer is the one that it is found to be. -/
theorem eq_ok {ε α : Type} [DecidableEq α] {r : Except ε α} {w : α} (h : okHas r (fun v => decide (v = w)) = true) : r = .ok w := by
  cases r with
  | ok v => simpa [okHas] using h
  | error e => simp [okHas] at h

/-- An answer that has a property. -/
theorem ok_with {ε α : Type} {r : Except ε α} {P : α → Prop} [DecidablePred P] (h : okHas r (fun v => decide (P v)) = true) : ∃ v, r = .ok v ∧ P v := by
  cases r with
  | ok v => exact ⟨v, rfl, by simpa [okHas] using h⟩
  | error e => simp [okHas] at h

/-- A next state that has a property. -/
theorem next_with {o : Out} {P : State → Prop} [DecidablePred P] (h : nextHas o (fun v => decide (P v)) = true) : ∃ v, o = .next v ∧ P v := by
  cases o with
  | next v => exact ⟨v, rfl, by simpa [nextHas] using h⟩
  | fault e => simp [nextHas] at h
  | refused e => simp [nextHas] at h

/-- An answer exists; nothing is said of what it is. -/
theorem ok_any {ε α : Type} {r : Except ε α} (h : okHas r (fun _ => true) = true) : ∃ v, r = .ok v := by
  cases r with
  | ok v => exact ⟨v, rfl⟩
  | error e => simp [okHas] at h
def errHas {ε α : Type} (r : Except ε α) (p : ε → Bool) : Bool := match r with | .ok _ => false | .error e => p e
theorem error_with {ε α : Type} {r : Except ε α} {P : ε → Prop} [DecidablePred P] (h : errHas r (fun v => decide (P v)) = true) :
    ∃ v, r = .error v ∧ P v := by
  cases r with
  | ok v => simp [errHas] at h
  | error e => exact ⟨e, rfl, by simpa [errHas] using h⟩

/-! ### Decoding: words that the manual writes out (the worked encodings and examples of the rules) -/

theorem test_decode_add : (decode 0x00148304#32 0 0).toOption = some (.add 3 4 5) := by decide +kernel
theorem test_decode_mul : (decode 0x072D4C04#32 0 0).toOption = some (.mul 12 10 11) := by decide +kernel
theorem test_decode_addi : (decode 0xFFFCA508#32 0 0).toOption = some (.addi 5 5 (-1)) := by decide +kernel
theorem test_decode_fcvt : (decode 0x8A05271C#32 0 0).toOption = some (.fcvt 7 9 1 4 1) := by decide +kernel
theorem test_decode_aaddi : (decode 0x00204224#32 0 0).toOption = some (.aaddi 2 2 8) := by decide +kernel
theorem test_decode_beq : (decode 0xFEC00130#32 0 0).toOption = some (.beq 1 0 (-5)) := by decide +kernel
theorem test_decode_bne : (decode 0xFD440530#32 0 0).toOption = some (.bne 5 0 (-11)) := by decide +kernel
theorem test_decode_ld : (decode 0x000C4A40#32 0 0).toOption = some (.ld 10 2 0) := by decide +kernel
theorem test_decode_amaddQ32 : (decode 0x001845C1#32 0x0000000C#32 0).toOption = some (.amaddQ32 5 2 6 ⟨4, 1, 0⟩) := by decide +kernel
theorem test_decode_bara : (decode 0x021087C4#32 0 0).toOption = some (.bara 7 4 4) := by decide +kernel
theorem test_decode_fence : (decode 0x01F000C4#32 0 0).toOption = some (.fence 3 4) := by decide +kernel
theorem test_decode_yield : (decode 0x00000050#32 0 0).toOption = some (.yield) := by decide +kernel
theorem test_decode_exit : (decode 0x02000050#32 0 0).toOption = some (.exit) := by decide +kernel
theorem test_decode_sysrd : (decode 0x00200158#32 0 0).toOption = some (.sysrd 1 0x100) := by decide +kernel
theorem test_decode_syswr : (decode 0x12000558#32 0 0).toOption = some (.syswr 5 0x1000) := by decide +kernel
theorem test_decode_tret : (decode 0x0080005C#32 0 0).toOption = some (.tret) := by decide +kernel
theorem test_decode_scall : (decode 0x0000005C#32 0 0).toOption = some (.scall) := by decide +kernel
theorem test_decode_tlbiva : (decode 0x010C405C#32 0 0).toOption = some (.tlbiva 2 3) := by decide +kernel
theorem test_decode_leave : (decode 0x0280045C#32 0 0).toOption = some (.leave 4) := by decide +kernel
theorem test_decode_vsetl : (decode 0x00008560#32 0 0).toOption = some (.vsetl 5 4) := by decide +kernel
theorem test_decode_vsetcfg : (decode 0x0080C060#32 0 0).toOption = some (.vsetcfg 0 6) := by decide +kernel
theorem test_decode_sbr : (decode 0x40064465#32 0xFFFFFD0A#32 0).toOption = some (.sbr 4 2 3 0 0 2 0xA (-3)) := by decide +kernel
theorem test_decode_mand : (decode 0x000C4168#32 0 0).toOption = some (.mand 1 2 3) := by decide +kernel
theorem test_decode_mpopc : (decode 0x38004968#32 0 0).toOption = some (.mpopc 9 2) := by decide +kernel
theorem test_decode_vsaddVI : (decode 0x98746278#32 0 0).toOption = some (.vsaddVI 2 3 29 none) := by decide +kernel
theorem test_decode_vfaddVV : (decode 0x050C417C#32 0 0).toOption = some (.vfaddVV 1 2 3 (some 2)) := by decide +kernel
theorem test_decode_vfmaVV : (decode 0x3018A47C#32 0 0).toOption = some (.vfmaVV 4 5 6 none) := by decide +kernel
theorem test_decode_vcmplt : (decode 0x140C4184#32 0 0).toOption = some (.vcmplt 1 2 3 (some 0)) := by decide +kernel
theorem test_decode_vld : (decode 0x00004198#32 0 0).toOption = some (.vld 1 2 none) := by decide +kernel
theorem test_decode_vldx : (decode 0x248C4498#32 0 0).toOption = some (.vldx 4 2 6 (some 1)) := by decide +kernel
theorem test_decode_vst : (decode 0x0000619C#32 0 0).toOption = some (.vst 1 3 none) := by decide +kernel
theorem test_decode_vred : (decode 0x002041A8#32 0 0).toOption = some (.vred 1 2 8 none) := by decide +kernel
theorem test_decode_vtopk : (decode 0x381888A8#32 0 0).toOption = some (.vtopk 8 4 6 none) := by decide +kernel
theorem test_decode_vgl : (decode 0xE48463BC#32 0 0).toOption = some (.vgl 3 3 2 (some 1)) := by decide +kernel
theorem test_decode_vsc : (decode 0xEC8463BC#32 0 0).toOption = some (.vsc 3 3 2 1) := by decide +kernel
theorem test_decode_binr : (decode 0x000067B0#32 0 0).toOption = some (.binr 7 3) := by decide +kernel
theorem test_decode_challoc : (decode 0x0098A4B0#32 0 0).toOption = some (.challoc 4 5 6) := by decide +kernel
theorem test_decode_tqpop : (decode 0x010008B8#32 0 0).toOption = some (.tqpop 8) := by decide +kernel
theorem test_decode_strmLdFab : (decode 0x001860B5#32 0x00000105#32 0).toOption = some (.strmLdFab 3 6 5 0) := by decide +kernel
theorem test_decode_strmPost : (decode 0x020120B5#32 0x00000009#32 0).toOption = some (.strmPost 9 9 0) := by decide +kernel
theorem test_decode_cflush : (decode 0x000060C8#32 0 0).toOption = some (.cflush 3) := by decide +kernel
theorem test_decode_mmode : (decode 0x000060CC#32 0 0).toOption = some (.mmode 3) := by decide +kernel
theorem test_decode_qclaim : (decode 0x0098A4CC#32 0 0).toOption = some (.qclaim 4 5 6) := by decide +kernel
theorem test_decode_qrel : (decode 0x0100C0CC#32 0 0).toOption = some (.qrel 6) := by decide +kernel
theorem test_decode_qacc : (decode 0x0180E2CC#32 0 0).toOption = some (.qacc 2 7) := by decide +kernel
theorem test_decode_bsset : (decode 0x022500CC#32 0 0).toOption = some (.bsset 0 8 9) := by decide +kernel
theorem test_decode_mgemm : (decode 0x011800D1#32 0x18401044#32 0).toOption = some (.mgemm 6 4 4 1 8 12) := by decide +kernel
theorem test_decode_launch : (decode 0x000045E0#32 0 0).toOption = some (.launch 5 2) := by decide +kernel
theorem test_decode_lstat : (decode 0x00A0E6E0#32 0 0).toOption = some (.lstat 6 7 8) := by decide +kernel
theorem test_decode_cfgLoad : (decode 0x0018A4D8#32 0 0).toOption = some (.cfgLoad 4 5 6) := by decide +kernel
theorem test_decode_cfgSel : (decode 0x010107D8#32 0 0).toOption = some (.cfgSel 7 8) := by decide +kernel
theorem test_decode_cfgMark : (decode 0x018000D8#32 0 0).toOption = some (.cfgMark) := by decide +kernel
theorem test_decode_cfgWr : (decode 0x041062D8#32 0 0).toOption = some (.cfgWr 2 3 4) := by decide +kernel
theorem test_decode_tmark : (decode 0x0000A0E4#32 0 0).toOption = some (.tmark 5) := by decide +kernel
theorem test_decode_brkpt : (decode 0x019CC2E4#32 0 0).toOption = some (.brkpt 2 6 7) := by decide +kernel
theorem test_decode_cntrd : (decode 0x020128E4#32 0 0).toOption = some (.cntrd 8 9) := by decide +kernel
theorem test_decode_elemMovp : (decodeElem 0x42000002#32).toOption = some (.elemMovp 0 2) := by decide +kernel
theorem test_decode_elemSteer : (decodeElem 0x5A602522#32).toOption = some (.elemSteer 3 1 2 9 2) := by decide +kernel
theorem test_decode_elemAddl : (decodeElem 0x24602F20#32).toOption = some (.elemAddl 3 1 7 9 0) := by decide +kernel
theorem test_decode_elemAdd : (decodeElem 0x0460CF20#32).toOption = some (.elemAdd 3 0 6 7 9) := by decide +kernel


/-! ### Decoding and well-formedness refuse what the manual calls illegal -/

/-- R30: the zero parcel, a length code of 3 and an unassigned major are refused, each by name. -/
theorem test_decode_refuses : (decode 0 0 0).toOption = none ∧ (decode 3#32 0 0).toOption = none ∧ (decode 0xFC#32 0 0).toOption = none := by
  decide +kernel

/-- R40: SBR with N = 5 is refused by decoding or by well-formedness. R33: MREG without MK. -/
theorem test_decode_worked_illegal :
    ((decode 0xA0064465#32 0xFFFFFD0A#32 0).toOption.all fun n => !n.wellFormed) = true ∧ (decode 0x010C417C#32 0 0).toOption = none := by decide +kernel

/-- R44, R48: an empty element word and an unassigned OP are no operations. -/
theorem test_decodeElem_refuses : (decodeElem 0).toOption = none ∧ (decodeElem 0x5C000000#32).toOption = none := by decide +kernel

/-- R77: FCVT's T field holds a rounding mode up to 4. -/
theorem test_illformed_fcvt : Instr.wellFormed (.fcvt 1 2 1 4 5) = false := by decide +kernel

/-- R36: a load is no release, an FE code of 3 is reserved, a qualifier needs its scope and a plain access has none. -/
theorem test_illformed_loads :
    Instr.wellFormed (.lbQ32 1 2 0 ⟨1, 2, 0⟩) = false ∧ Instr.wellFormed (.lbuQ32 1 2 0 ⟨0, 0, 3⟩) = false ∧
    Instr.wellFormed (.lhQ32 1 2 0 ⟨0, 1, 0⟩) = false ∧ Instr.wellFormed (.lhuQ32 1 2 0 ⟨6, 1, 0⟩) = false ∧
    Instr.wellFormed (.lwQ32 1 2 0 ⟨1, 0, 0⟩) = false ∧ Instr.wellFormed (.lwuQ32 1 2 0 ⟨7, 3, 0⟩) = false ∧
    Instr.wellFormed (.ldQ32 1 2 0 ⟨1, 2, 1⟩) = false := by decide +kernel

/-- R36: a store is no acquire and has no FE form. -/
theorem test_illformed_stores :
    Instr.wellFormed (.sbQ32 1 2 0 ⟨1, 1, 0⟩) = false ∧ Instr.wellFormed (.shQ32 1 2 0 ⟨0, 0, 1⟩) = false ∧
    Instr.wellFormed (.swQ32 1 2 0 ⟨0, 2, 0⟩) = false ∧ Instr.wellFormed (.sdQ32 1 2 0 ⟨2, 0, 0⟩) = false := by decide +kernel

/-- R236: an atomic has no FE form, and its kinds need a scope. -/
theorem test_illformed_atomics :
    Instr.wellFormed (.amaddQ32 1 2 3 ⟨0, 0, 1⟩) = false ∧ Instr.wellFormed (.amandQ32 1 2 3 ⟨0, 1, 0⟩) = false ∧
    Instr.wellFormed (.amorQ32 1 2 3 ⟨6, 1, 0⟩) = false ∧ Instr.wellFormed (.amxorQ32 1 2 3 ⟨1, 0, 0⟩) = false ∧
    Instr.wellFormed (.amminQ32 1 2 3 ⟨0, 2, 0⟩) = false ∧ Instr.wellFormed (.ammaxQ32 1 2 3 ⟨0, 3, 0⟩) = false ∧
    Instr.wellFormed (.amminuQ32 1 2 3 ⟨0, 0, 2⟩) = false ∧ Instr.wellFormed (.ammaxuQ32 1 2 3 ⟨7, 1, 0⟩) = false ∧
    Instr.wellFormed (.amswapQ32 1 2 3 ⟨1, 1, 1⟩) = false ∧ Instr.wellFormed (.amcasQ32 1 2 3 ⟨0, 0, 3⟩) = false := by decide +kernel

/-- R236: the same of the 4-byte atomics. -/
theorem test_illformed_atomicsW :
    Instr.wellFormed (.amaddWQ32 1 2 3 ⟨0, 0, 1⟩) = false ∧ Instr.wellFormed (.amandWQ32 1 2 3 ⟨0, 1, 0⟩) = false ∧
    Instr.wellFormed (.amorWQ32 1 2 3 ⟨6, 1, 0⟩) = false ∧ Instr.wellFormed (.amxorWQ32 1 2 3 ⟨1, 0, 0⟩) = false ∧
    Instr.wellFormed (.amminWQ32 1 2 3 ⟨0, 2, 0⟩) = false ∧ Instr.wellFormed (.ammaxWQ32 1 2 3 ⟨0, 3, 0⟩) = false ∧
    Instr.wellFormed (.amminuWQ32 1 2 3 ⟨0, 0, 2⟩) = false ∧ Instr.wellFormed (.ammaxuWQ32 1 2 3 ⟨7, 1, 0⟩) = false ∧
    Instr.wellFormed (.amswapWQ32 1 2 3 ⟨1, 1, 1⟩) = false ∧ Instr.wellFormed (.amcasWQ32 1 2 3 ⟨0, 0, 3⟩) = false := by decide +kernel

/-- R43: a number that the manual assigns nowhere. -/
theorem test_illformed_sysreg :
    Instr.wellFormed (.sysrd 1 0x7FFF) = false ∧ Instr.wellFormed (.syswr 1 0x7FFF) = false ∧ Instr.wellFormed (.sysset 1 0x0210) = false ∧
    Instr.wellFormed (.sysclr 1 0x0210) = false ∧ Instr.wellFormed (.sysxch 1 0x7FFF) = false := by decide +kernel

/-- R40: SBR's N is at most 4, an unused address register or size is zero. -/
theorem test_illformed_sbr : Instr.wellFormed (.sbr 4 2 3 0 0 5 0xA 0) = false ∧ Instr.wellFormed (.sbr 4 2 3 1 0 2 0xA 0) = false := by decide +kernel

/-- R153, R154, R157, R239: a destination that overlaps an operand which the instruction reads again. -/
theorem test_illformed_overlap :
    Instr.wellFormed (.vdot4 2 2 3 none) = false ∧ Instr.wellFormed (.vdot8 2 3 2 none) = false ∧ Instr.wellFormed (.vbsapply 2 3 2 none) = false ∧
    Instr.wellFormed (.vldx 2 1 2 none) = false ∧ Instr.wellFormed (.vgl 2 1 2 none) = false := by decide +kernel

/-- R78 to R82: a conversion between unlike widths, one whose group is not aligned, a rounding code of 6, a plain format in the scaled form. -/
theorem test_illformed_convert :
    Instr.wellFormed (.vcvt 1 2 none 0 1 0 0) = false ∧ Instr.wellFormed (.vcvt 1 2 none 0 0 6 0) = false ∧
    Instr.wellFormed (.vcvtW 1 2 none 2 1 7 0) = false ∧ Instr.wellFormed (.vcvtN 1 2 none 1 1 0 0) = false ∧
    Instr.wellFormed (.vcvtSC 1 2 3 none 1 1 0 0) = false := by decide +kernel

/-- R157: a segment of one register, or one that ends beyond v31. -/
theorem test_illformed_segments : Instr.wellFormed (.vldseg 1 2 0 none) = false ∧ Instr.wellFormed (.vstseg 30 2 3 none) = false := by decide +kernel

/-- R181: a reduction operator above 10. -/
theorem test_illformed_reductions :
    Instr.wellFormed (.vred 1 2 11 none) = false ∧ Instr.wellFormed (.vscan 1 2 31 none) = false ∧ Instr.wellFormed (.vscanx 1 2 11 none) = false := by
  decide +kernel

/-- R205: STRM.CP's rounding code is at most 4, STRM.MARK's rank 1 to 4. -/
theorem test_illformed_streams :
    Instr.wellFormed (.strmCp 1 2 3 4 0 0 5 0) = false ∧ Instr.wellFormed (.strmMark 4 0 0) = false ∧ Instr.wellFormed (.strmMark 4 5 0) = false := by
  decide +kernel

/-- R239: an index register is no destination of a returning vector atomic. -/
theorem test_illformed_vatomics :
    Instr.wellFormed (.vaadd 2 1 2 none) = false ∧ Instr.wellFormed (.vaand 2 1 2 none) = false ∧ Instr.wellFormed (.vaor 2 1 2 none) = false ∧
    Instr.wellFormed (.vaxor 2 1 2 none) = false ∧ Instr.wellFormed (.vamin 2 1 2 none) = false ∧ Instr.wellFormed (.vamax 2 1 2 none) = false ∧
    Instr.wellFormed (.vaminu 2 1 2 none) = false ∧ Instr.wellFormed (.vamaxu 2 1 2 none) = false ∧ Instr.wellFormed (.vafadd 2 1 2 none) = false ∧
    Instr.wellFormed (.vaswap 2 1 2 none) = false ∧ Instr.wellFormed (.vacas 31 1 2 none) = false ∧ Instr.wellFormed (.vacas 2 1 3 none) = false := by
  decide +kernel

/-- R37, R252: a fence needs a kind and a scope, a barrier instruction a scope. -/
theorem test_illformed_fences :
    Instr.wellFormed (.fence 0 1) = false ∧ Instr.wellFormed (.fence 1 0) = false ∧ Instr.wellFormed (.bara 1 2 0) = false ∧
    Instr.wellFormed (.barw 1 2 6) = false := by decide +kernel

/-- R288, R289: the formats and rounding codes of the array's operations. -/
theorem test_illformed_matrix :
    Instr.wellFormed (.qstage 1 2 3 0 1 1 0 0 0) = false ∧ Instr.wellFormed (.qstage 1 2 3 1 1 1 5 0 0) = false ∧
    Instr.wellFormed (.qchain 1 2 3 1 6 0 0 0) = false ∧ Instr.wellFormed (.mgemm 1 1 11 0 0 0) = false ∧ Instr.wellFormed (.mgemm 1 4 4 3 0 0) = false := by
  decide +kernel

/-! ### Witnesses for the statements on scalar instructions, and single steps worked from the rules -/

/-- A strand with x1 to x3 at corner values and a2 at an aligned address. -/
def sc : State := mk (withX [(1, 0x8000000000000000), (2, 0xFFFFFFFFFFFFFFFF), (3, 5)] 0x2000) id

theorem witness_issue : MayIssue sc S0 ∧ Settled sc S0 [31, 1, 2] ∧ Settled sc S0 [0, 0] := by decide +kernel

/-- R96: a sum wraps; a write of x0 is discarded; a source may be the destination. -/
theorem test_add_wraps : nextHas (exec (.add 2 2 3) sc) (fun s => s.xr S0 2 = 4 && (s.strand S0).pc = 0x1004) = true := by decide +kernel
theorem test_add_x0 : nextHas (exec (.add 0 2 3) sc) (fun s => s.xr S0 0 = 0) = true := by decide +kernel
/-- R96: the shift amount is bits 5 to 0. -/
theorem test_sra : nextHas (exec (.sra 4 1 3) sc) (fun s => s.xr S0 4 = 0xFC00000000000000) = true := by decide +kernel
theorem test_mulh : nextHas (exec (.mulh 4 1 2) sc) (fun s => s.xr S0 4 = 0) = true := by decide +kernel
theorem test_mulhu : nextHas (exec (.mulhu 4 2 2) sc) (fun s => s.xr S0 4 = 0xFFFFFFFFFFFFFFFE) = true := by decide +kernel
/-- R97: the one overflow saturates, and its remainder is 0; a zero divisor saturates toward the dividend's sign. -/
theorem test_div_overflow : nextHas (exec (.div 4 1 2) sc) (fun s => s.xr S0 4 = 0x7FFFFFFFFFFFFFFF) = true := by decide +kernel
theorem test_rem_overflow : nextHas (exec (.rem 4 1 2) sc) (fun s => s.xr S0 4 = 0) = true := by decide +kernel
theorem test_div_zero : nextHas (exec (.div 4 1 0) sc) (fun s => s.xr S0 4 = 0x8000000000000000) = true := by decide +kernel
theorem test_add32 : nextHas (exec (.add32 4 2 3) sc) (fun s => s.xr S0 4 = 4) = true := by decide +kernel
theorem test_clz_zero : nextHas (exec (.clz 4 0) sc) (fun s => s.xr S0 4 = 64) = true := by decide +kernel
/-- R98: LUI's field counts 2^13 and is signed. -/
theorem test_lui : nextHas (exec (.lui 4 0x40000) sc) (fun s => s.xr S0 4 = 0xFFFFFFFF80000000) = true := by decide +kernel
theorem test_liq : nextHas (exec (.liq 4 0x0123456789ABCDEF) sc) (fun s => s.xr S0 4 = 0x0123456789ABCDEF && (s.strand S0).pc = 0x100C) = true := by
  decide +kernel
/-- R101: the manual's class codes. -/
theorem test_fclass : FFmt.fp32.classify 0x80000000 = 8 ∧ FFmt.fp32.classify 1 = 1 ∧ FFmt.fp32.classify 0xFF800000 = 0xB ∧ FFmt.fp32.classify 0x7FC00000 = 4 := by
  decide +kernel
/-- A format and codes of each kind that the rounding and the invalid-operation laws speak of. -/
theorem witness_Rounding : floatFmt 1 = some .fp32 ∧ FFmt.fp32.decode 0x7F800000 = .inf false ∧ (FFmt.fp32.decode 0x7FC00000).isNan = true ∧
    (FFmt.fp32.decode 0x7F800001).isSnan = true ∧ FFmt.fp32.decode 0x80000000 = .zero true ∧ FFmt.fp32.decode 0xBFC00000 ≠ .inf true ∧
    (FFmt.fp32.decode 0xBFC00000).isNan = false ∧ (FFmt.fp32.decode 0xBFC00000).isNeg = true := by decide +kernel
/-- R68: one third rounds to the nearest with NX; the midpoint beyond the largest finite FP32 number overflows. -/
theorem test_round_third : FFmt.fp32.round .nearest false false 0 false 1 3 = (0x3EAAAAAB, flagNX) := by decide +kernel
theorem test_round_overflow : FFmt.fp32.round .nearest false false 0 true (2 ^ 129 - 2 ^ 104) 2 = (0xFF800000, flagOF ||| flagNX) := by decide +kernel
/-- R77's worked conversions to E4M3: 256 gives 0x78, and the midpoint 464 gives 0x7E. -/
theorem test_fcvt_worked : (convert 1 4 .nearest false false 0 0x43800000).1 = 0x78 ∧ (convert 1 4 .nearest false false 0 0x43E80000).1 = 0x7E := by
  decide +kernel
/-- R103: AHI leaves bits 63 to 0. -/
theorem test_ahi : nextHas (exec (.ahi 2 0xFFFF) sc) (fun s => (s.strand S0).ar 2 = 0xFFFF0000000000002000) = true := by decide +kernel
/-- R104: a taken branch counts four bytes from its own address; R106: JALR with its destination as source reads it first. -/
theorem test_bne : nextHas (exec (.bne 3 0 (-11)) sc) (fun s => (s.strand S0).pc = 0x1000 - 44) = true := by decide +kernel
theorem test_jalr : nextHas (exec (.jalr 2 2 1) sc) (fun s => (s.strand S0).pc = 0x2004 && (s.strand S0).ar 2 = 0x1004) = true := by decide +kernel

theorem witness_JALR :
    (((sc.strand S0).ar 2 + 4 * (8191#14).signExtend 80).toNat % 4 = 0) ∧ (((mk (withX [] 0x2002) id).strand S0).ar 2 + 4 * (0#14).signExtend 80).toNat % 4 ≠ 0 ∧
    MayIssue (mk (withX [] 0x2002) id) S0 := by decide +kernel

/-- An access at an aligned address of HBM that nothing stands in the way of, as loads, stores, atomics and barriers need it. -/
def hbm (a : Nat) : Phys := ⟨.mem a, false, 0, true, none⟩
def word (w : Nat) : State := { mk (withX [(1, 7), (3, 5)] 0x2000) id with mem := Mem.write [] 0x2000 (leBytes 8 w) }

/-- The same with a stream's reservation, under a mode, on the line of the word. -/
def reserved (mode : BitVec 2) : State := { word 9 with ranges := [⟨T0, 1, true, mode, [64], [], []⟩] }

theorem witness_ScalarLoads :
    MayIssue (word 0x80) S0 ∧ Settled (word 0x80) S0 [1] ∧ ((word 0x80).strand S0).acquiring = false ∧
    Finds (word 0x80) S0 4 0x2000 .read (hbm 0x2000) (advance S0 4 (word 0x80)) ∧
    Unhindered (advance S0 4 (word 0x80)) ((word 0x80).strand S0) ⟨.load 8 false, 1, hbm 0x2000, 0, 0, 0, 0x1000, 0x2000⟩ ∧
    scalarRead ((advance S0 4 (word 0x80)).strand S0) 0 (hbm 0x2000) 8 (advance S0 4 (word 0x80)) = .ok 0x80 ∧ 0x80 < 2 ^ (8 * 8) := by
  and_intros <;> first | decide +kernel | exact eq_ok (by decide +kernel)

/-- R107: a byte load extends its sign; R108: a store's bytes are written when its entry drains. -/
theorem test_lb : nextHas (exec (.lb 4 2 0) (word 0x80)) (fun s => s.xr S0 4 = 0xFFFFFFFFFFFFFF80) = true := by decide +kernel
theorem test_lbu_offset : nextHas (exec (.lbu 4 2 (-1)) (word 0x80)) (fun s => s.xr S0 4 = 0) = true := by decide +kernel
theorem test_sd_queues : nextHas (exec (.sd 3 2 1) (word 0x80)) (fun s => (s.strand S0).stores.length = 1 && s.mem.get 0x2008 = 0) = true := by decide +kernel
theorem test_ld_misaligned :
    nextHas (exec (.ld 4 2 0) (mk (withX [] 0x2004) id)) (fun s => (s.strand S0).mt.cause = 8 && (s.strand S0).mt.pc = 0x1000 && (s.strand S0).mt.addr = 0x2004) = true := by
  decide +kernel

theorem witness_Misaligned : MayIssue (mk (withX [] 0x2001) id) S0 ∧ Settled (mk (withX [] 0x2001) id) S0 [1, 3] ∧
    ((mk (withX [] 0x2001) id).strand S0).acquiring = false ∧ ((mk (withX [] 0x2001) id).strand S0).releasing = false ∧
    ((mk (withX [] 0x2001) id).strand S0).stores.length < 8 ∧ (((mk (withX [] 0x2001) id).strand S0).ar 2 + BitVec.ofInt 80 ((0#12).toInt * 2)).toNat % 2 ≠ 0 := by
  decide +kernel

/-- A strand whose a2 names the first granule of its own TMEM through the window (R167), full or empty. -/
def granule (full : List Nat) : State :=
  mk (withX [] 0xFFFFF00000001C000000) fun v => { v with tmem := Mem.write [] 0 (leBytes 8 0xFFF6), full := full }

theorem witness_FullEmpty (full : List Nat) (h : full = [] ∨ full = [0]) :
    MayIssue (granule full) S0 ∧ Settled (granule full) S0 [1] ∧ ((granule full).strand S0).acquiring = false ∧
    Finds (granule full) S0 8 0xFFFFF00000001C000000 .read ⟨.tmem T0 0, false, 0, false, none⟩ (advance S0 8 (granule full)) ∧
    ((granule full).strand S0).blocks ⟨.load 2 true, 1, ⟨.tmem T0 0, false, 0, false, none⟩, 0, 0, 0, 0x1000, 0xFFFFF00000001C000000⟩ = false ∧
    (∀ c, (advance S0 8 (granule full)).findsFull T0 c 0 8 = decide (full = [0])) ∧
    scalarRead ((advance S0 8 (granule full)).strand S0) 0 (Loc.tmem T0 0).plain 2 (advance S0 8 (granule full)) = .ok 0xFFF6 := by
  rcases h with rfl | rfl <;> and_intros <;> first | decide +kernel | exact eq_ok (by decide +kernel)

/-- R109: `.fc` reads a full granule and clears its bit; on an empty one the strand blocks at the load. -/
theorem test_lh_fc : nextHas (exec (.lhQ32 4 2 0 ⟨0, 0, 2⟩) (granule [0])) (fun s => s.xr S0 4 = 0xFFFFFFFFFFFFFFF6 && (s.tile T0).full = []) = true := by
  decide +kernel
theorem test_lh_fe_blocks : nextHas (exec (.lhQ32 4 2 0 ⟨0, 0, 1⟩) (granule [])) (fun s => (s.strand S0).pc = 0x1000 && (s.strand S0).status != .running) = true := by
  decide +kernel

theorem witness_ScalarStores :
    ((word 0).strand S0).acquiring = false ∧ ((word 0).strand S0).releasing = false ∧ ((word 0).strand S0).stores.length < 8 ∧
    Finds (word 0) S0 4 0x2000 .write (hbm 0x2000) (advance S0 4 (word 0)) ∧ Finds (word 0) S0 8 0x2000 .write (hbm 0x2000) (advance S0 8 (word 0)) ∧
    (advance S0 4 (word 0)).meets none true (.mem 0x2000) 8 ≠ .trap := by
  and_intros <;> first | decide +kernel | exact eq_ok (by decide +kernel)

theorem witness_ScalarAtomics :
    (hbm 0x2000).device = false ∧
    Unhindered (advance S0 4 (word 9)) ((word 9).strand S0) ⟨.atomic .cas 8 5 7, 1, hbm 0x2000, 0, 0, 0, 0x1000, 0x2000⟩ ∧
    readPhys (hbm 0x2000) 8 (advance S0 4 (word 9)) = .ok 9 ∧ readPhys (hbm 0x2000) 4 (advance S0 8 (word 9)) = .ok 9 ∧
    StorageOk (advance S0 4 (word 9)) ∧ (advance S0 4 (word 9)).own 0x2000 = true ∧ regionOf (localOf 0x2000) = .hbm := by
  and_intros <;> first | decide +kernel | exact eq_ok (by decide +kernel)

/-- R237: AMADD returns the old value; AMCAS writes where the old value equals xD, and only there. -/
theorem test_amadd : nextHas (exec (.amadd 4 2 3) (word 9)) (fun s => s.xr S0 4 = 9 && s.mem.get 0x2000 = 14) = true := by decide +kernel
theorem test_amcas_hit : nextHas (exec (.amcas 1 2 3) (word 7)) (fun s => s.xr S0 1 = 7 && s.mem.get 0x2000 = 5) = true := by decide +kernel
theorem test_amcas_miss : nextHas (exec (.amcas 1 2 3) (word 9)) (fun s => s.xr S0 1 = 9 && s.mem.get 0x2000 = 9) = true := by decide +kernel

/-- Barrier words: PHASE 0, EXP 2 with CNT 1 and CNT 0; CNT = EXP, which is invalid. -/
theorem witness_Barriers :
    Unhindered (advance S0 4 (word 0x2000001)) ((word 0x2000001).strand S0) ⟨.arrive, 4, hbm 0x2000, 0, 0, 4, 0x1000, 0x2000⟩ ∧
    readPhys (hbm 0x2000) 8 (advance S0 4 (word 0x2000001)) = .ok (0x2000001#64).toNat ∧ (0x2000001#64).extractLsb' 48 15 = 0 ∧
    ((0x2000001#64).extractLsb' 0 24).toNat < ((0x2000001#64).extractLsb' 24 24).toNat ∧
    readPhys (hbm 0x2000) 8 (advance S0 4 (word 0x2000002)) = .ok (0x2000002#64).toNat ∧
    ¬ ((0x2000002#64).extractLsb' 0 24).toNat < ((0x2000002#64).extractLsb' 24 24).toNat ∧
    Finds (word 9) S0 4 0x2000 .read (hbm 0x2000) (advance S0 4 (word 9)) ∧ readHeld ((word 9).strand S0) (hbm 0x2000) 8 (advance S0 4 (word 9)) = false ∧
    (advance S0 4 (word 9)).meets none false (.mem 0x2000) 8 = .free ∧
    scalarRead ((word 9).strand S0) 0 (hbm 0x2000) 8 (advance S0 4 (word 9)) = .ok (9#64).toNat ∧
    Finds (reserved 3) S0 4 0x2000 .read (hbm 0x2000) (advance S0 4 (reserved 3)) ∧
    readHeld ((reserved 3).strand S0) (hbm 0x2000) 8 (advance S0 4 (reserved 3)) = false ∧
    (advance S0 4 (reserved 3)).meets none false (.mem 0x2000) 8 = .trap := by
  and_intros <;> first | decide +kernel | exact eq_ok (by decide +kernel)

/-- R252: the last arrival turns the phase and clears the count; an invalid word traps and stays. -/
theorem test_bara_last : nextHas (exec (.bara 4 2 4) (word 0x2000001)) (fun s => s.xr S0 4 = 0 && s.mem.bytes 0x2000 8 = leBytes 8 0x8000000002000000) = true := by
  decide +kernel
theorem test_bara_invalid : nextHas (exec (.bara 4 2 4) (word 0x2000002)) (fun s => (s.strand S0).mt.cause = 0x20 && s.mem.get 0x2000 = 2) = true := by
  decide +kernel
/-- R113: WAITLINE blocks on the value seen and retires on another. -/
theorem test_waitline : nextHas (exec (.waitline 4 2 3) (word 5)) (fun s => (s.strand S0).pc = 0x1000) = true ∧
    nextHas (exec (.waitline 4 2 3) (word 6)) (fun s => s.xr S0 4 = 6) = true := by decide +kernel

/-- Strands blocked on a granule, on a word and on a phase. -/
def blockedOn (w : Wait) (s : State) : State := s.setStatus S0 (.blocked w)

theorem witness_Wakes :
    ((blockedOn (.granule 4 T0 0 8 false true 0xFFFFF00000001C000000) (granule [0])).strand S0).status = .blocked (.granule 4 T0 0 8 false true 0xFFFFF00000001C000000) ∧
    (blockedOn (.granule 4 T0 0 8 false true 0xFFFFF00000001C000000) (granule [0])).findsFull T0 true 0 8 = true ∧
    (let s := blockedOn (.granule 4 T0 0 8 false true 0xFFFFF00000001C000000) (granule [0])
     scalarRead (s.strand S0) 0 (Loc.tmem T0 0).plain 8 s = .ok 0xFFF6) ∧
    (let s := blockedOn (.line 4 (hbm 0x2000) 5 0x2000) (word 9)
     readHeld (s.strand S0) (Loc.mem 0x2000).plain 8 s = false ∧ scalarRead (s.strand S0) 0 (Loc.mem 0x2000).plain 8 s = .ok (9#64).toNat ∧
     s.meets none false (.mem 0x2000) 8 = .free ∧ (s.strand S0).status = .blocked (.line 4 (hbm 0x2000) 5 0x2000) ∧ (9#64) ≠ 5) ∧
    (let s := blockedOn (.barrier 4 (hbm 0x2000) true 0x2000) (word 9)
     readHeld (s.strand S0) (Loc.mem 0x2000).plain 8 s = false ∧ scalarRead (s.strand S0) 0 (Loc.mem 0x2000).plain 8 s = .ok (9#64).toNat ∧
     (s.strand S0).status = .blocked (.barrier 4 (hbm 0x2000) true 0x2000) ∧ (9#64).getLsbD 63 ≠ true) := by
  and_intros <;> first | decide +kernel | exact eq_ok (by decide +kernel)

theorem test_wakes :
    nextHas (exec (.fullemptyWake S0) (blockedOn (.granule 4 T0 0 8 false true 0xFFFFF00000001C000000) (granule [0]))) (fun s => s.xr S0 4 = 0xFFF6 && (s.strand S0).pc = 0x1008) = true ∧
    nextHas (exec (.waitlineWake S0) (blockedOn (.line 4 (hbm 0x2000) 5 0x2000) (word 9))) (fun s => s.xr S0 4 = 9 && (s.strand S0).pc = 0x1004) = true ∧
    nextHas (exec (.barwWake S0) (blockedOn (.barrier 4 (hbm 0x2000) true 0x2000) (word 9))) (fun s => s.xr S0 4 = 9) = true := by decide +kernel

/-- An outstanding load and a queued store. -/
def lateLoad : LateAccess := ⟨.load 8 false, 4, hbm 0x2000, 0, 0, 0, 0x0FFC, 0x2000⟩
def queuedStore : StoreEntry := ⟨.data 4 0xA1B2C3D4, hbm 0x2000, 0, 0, 0x0FFC, 0x2000⟩
def outstanding : State := (word 9).modStrand S0 fun t => { t with lates := [lateLoad], issued := 1 }
def withStore : State := (word 9).modStrand S0 fun t => { t with stores := [queuedStore], issued := 1 }

theorem witness_LateAccesses :
    (outstanding.strand S0).lates[0]? = some lateLoad ∧ outstanding.meets none lateLoad.kind.writes lateLoad.phys.loc lateLoad.kind.size = .free ∧
    outstanding.reach lateLoad.phys.loc = .ok ∧ (outstanding.strand S0).blocks lateLoad = false ∧ performAccess S0 lateLoad outstanding = .ok (9, outstanding) ∧
    (withStore.strand S0).orphans = [] ∧ (withStore.strand S0).stores[0]? = some queuedStore ∧ queuedStore.kind = .data 4 0xA1B2C3D4 ∧
    withStore.meets none true (.mem 0x2000) 4 = .free ∧ withStore.reach (.mem 0x2000) = .ok ∧ (withStore.strand S0).storeHeld 0 queuedStore = false ∧
    withStore.mem.wf = true ∧ withStore.own 0x2000 = true ∧ nextHas (exec (.storeQueueDrain S0 0) withStore) (fun _ => true) = true := by
  and_intros <;> first | decide +kernel | exact eq_ok (by decide +kernel)

/-- R434, R108: both are performed, and the store's bytes lie in little-endian order. -/
theorem test_late_load : nextHas (exec (.scalarAccessComplete S0 0) outstanding) (fun s => s.xr S0 4 = 9 && (s.strand S0).lates = []) = true := by decide +kernel
theorem test_store_drains : nextHas (exec (.storeQueueDrain S0 0) withStore) (fun s => s.mem.bytes 0x2000 5 = [0xD4, 0xC3, 0xB2, 0xA1, 0]) = true := by
  decide +kernel

/-! ### System registers, traps and the strand's control -/

/-- A strand at level U, and one at level S in a handler. -/
def atU : State := mk (fun t => { withX [(1, 7), (3, 5)] 0x2000 t with level := .U }) id
def atS : State := mk (fun t => { withX [(1, 7), (3, 5)] 0x2000 t with level := .S, st := { t.st with stat := 4, pc := 0x4000 } }) id

/-- TSCRATCH and a level-M register, for a strand at level M; a vector register, with the queue empty. -/
theorem witness_SystemRegisters :
    MayIssue sc S0 ∧ Settled sc S0 [3] ∧ sysLevel (0x1007#15).toNat = some .S ∧ Level.S.code ≤ (sc.strand S0).level.code ∧
    sysLevel (1#15).toNat = some .U ∧ (sc.strand S0).live = [] := by decide +kernel

theorem witness_ReadBack : (5#64) &&& ~~~ sysRw 0x1007 = 0 ∧ (0xFFF#64) &&& ~~~ sysRw 2 = 0 ∧ (0#64) &&& ~~~ sysRw 0x4010 = 0 := by decide +kernel

theorem test_sysrd_strandid : nextHas (exec (.sysrd 4 0x100) sc) (fun s => s.xr S0 4 = 0) = true := by decide +kernel
theorem test_syswr_scratch : nextHas (exec (.syswr 3 0x1007) sc) (fun s => (s.strand S0).st.scratch = 5) = true := by decide +kernel

theorem witness_Privilege :
    MayIssue atU S0 ∧ sysLevel (0x7FFF#15).toNat = none ∧ sysLevel (0x1007#15).toNat = some .S ∧ (atU.strand S0).level.code < Level.S.code ∧
    (atU.strand S0).level = .U := by decide +kernel

/-- R43, R384: a level-S number at level U is PRIVILEGE, and the strand enters level S. -/
theorem test_sysrd_privilege : nextHas (exec (.sysrd 4 0x1007) atU) (fun s => (s.strand S0).st.cause = 3 && (s.strand S0).level = .S) = true := by
  decide +kernel
theorem test_tret_privilege : nextHas (exec .tret atU) (fun s => (s.strand S0).st.cause = 3 && (s.strand S0).st.pc = 0x1000) = true := by decide +kernel

/-- A trap from level U goes to S, from S in a handler to M, from M in a handler to Exiting (R386). -/
theorem witness_Traps :
    (atU.strand S0).level = .U ∧ ¬ ((atS.strand S0).level = .U ∨ ((atS.strand S0).level = .S ∧ (atS.strand S0).st.stat.getLsbD 2 = false)) ∧
    (atS.strand S0).mt.stat.getLsbD 2 = false ∧
    (let s := mk (fun t => { t with mt := { t.mt with stat := 4 } }) id
     ¬ ((s.strand S0).level = .U ∨ ((s.strand S0).level = .S ∧ (s.strand S0).st.stat.getLsbD 2 = false)) ∧ (s.strand S0).mt.stat.getLsbD 2 = true) := by
  decide +kernel

theorem test_trap_in_handler : nextHas (exec .scall atS) (fun s => (s.strand S0).level = .M && (s.strand S0).mt.stat = 5 && (s.strand S0).mt.pc = 0x1004 &&
    (s.strand S0).st.pc = 0x4000) = true := by decide +kernel

theorem witness_Tret : MayIssue atS S0 ∧ (atS.strand S0).level ≠ .U ∧ (atS.strand S0).stores = [] ∧ (∀ a ∈ (atS.strand S0).lates, a.kind.writes = false) := by
  decide +kernel
theorem test_tret : nextHas (exec .tret atS) (fun s => (s.strand S0).level = .U && (s.strand S0).pc = 0x4000 && (s.strand S0).st.stat = 0) = true := by
  decide +kernel

theorem witness_ServiceCall : MayIssue atU S0 ∧ (atU.strand S0).status = .running ∧ (atU.strand S0).st.stat.getLsbD 3 = false ∧ (atU.strand S0).stores = [] ∧
    (atU.strand S0).lates = [] ∧ (atU.strand S0).queue = [] ∧
    ∃ s, exec .scall atU = .next s ∧ nextHas (exec .tret s) (fun r => (r.strand S0).pc = 0x1004 && (r.strand S0).level = .U) = true :=
  by and_intros <;> first | decide +kernel | exact next_with (by decide +kernel)

theorem witness_StrandControl :
    MayIssue sc S0 ∧ (sc.strand S0).level ≠ .U ∧ Settled sc S0 [3] ∧
    ((advance S0 4 sc).roundRobin S0.core = false ∧ (advance S0 4 (mk id fun v => { v with isspol := true })).roundRobin S0.core = true) ∧
    (let s := blockedOn (.tlb .all) sc
     (s.strand S0).status = .blocked (.tlb .all) ∧ (s.strand S0).stores = [] ∧ s.usesRemoved .all = false) := by decide +kernel

theorem test_exit : nextHas (exec .exit sc) (fun s => (s.strand S0).status = .exiting && (s.strand S0).pc = 0x1000) = true := by decide +kernel
theorem test_yield : nextHas (exec .yield sc) (fun s => (s.strand S0).age = 1 && (s.core S0.core).greedy = none) = true := by decide +kernel
theorem test_leave_requests : nextHas (exec (.leave 4) sc) (fun s => s.xr S0 4 = 0 && (s.quad 0).waiting.length = 1) = true := by decide +kernel
theorem test_tlbi_completes : nextHas (exec (.tlbInvalidateComplete S0) (blockedOn (.tlb .all) sc)) (fun s => (s.strand S0).pc = 0x1004) = true := by
  decide +kernel

/-! ### Fences and cache control -/

theorem witness_Fences :
    MayIssue sc S0 ∧ MayQueue sc S0 4 ∧ (sc.strand S0).live.any (·.op.memory) = false ∧ (sc.strand S0).lates = [] ∧
    (sc.strand S0).live.any (·.op.loads) = false ∧ (sc.strand S0).earlier (sc.strand S0).issued = false ∧ Settled sc S0 [3] ∧ ((sc.strand S0).xr 3).toNat ≠ 0 ∧
    onControl C0 = true ∧ MayIssue { State.reset with cur := .strand C0 } C0 := by decide +kernel

theorem witness_CacheControl :
    ((word 9).strand S0).stores.length < 8 ∧ (hbm 0x2000).device = false ∧ (0x2000 : Addr).toNat % 128 = 0 ∧
    (∀ k ∈ [StoreKind.flush, .clean, .inv, .zero], (advance S0 4 (word 9)).meets none k.writes (hbm 0x2000).loc.lineBase 128 ≠ .trap) := by decide +kernel

theorem test_fence_release : nextHas (exec (.fence 2 4) sc) (fun s => (s.strand S0).relFence = some 0) = true := by decide +kernel
theorem test_czero : nextHas (exec (.czero 2) (word 9)) (fun s => nextHas (exec (.storeQueueDrain S0 0) s) (fun r => r.mem = [])) = true := by decide +kernel

/-! ### Trace, clock and breakpoints -/

/-- A strand with a breakpoint armed at its program counter, where a VSETL stands. -/
def armed : State :=
  { mk (fun t => { t with brk := { addr := 0x1000, any := true, armed := true } }) id with mem := Mem.write [] 0x1000 (leBytes 4 0x00008560) }

theorem witness_Breakpoint :
    MayIssue armed S0 ∧ onControl S0 = false ∧ (armed.strand S0).breaks = true ∧ (armed.strand S0).live = [] ∧
    (armed.strand S0).status = .running ∧ armed.coreRuns S0.core = true ∧
    (∃ v, fetchParcels S0 0x1000 armed = .ok v ∧ isVsetl v.1.1 = true ∧ v.2.strand S0 = armed.strand S0) := by
  and_intros <;> first | decide +kernel | exact ok_with (by decide +kernel)
theorem test_breakpoint : nextHas (exec (.vsetl 1 2) armed) (fun s => (s.strand S0).status = .blocked .debug && (s.strand S0).pc = 0x1000) = true := by
  decide +kernel

/-- A counter number of each range, a clock with a target, a sampling trace, a strand in the debug wait. -/
def clocked : State := ((blockedOn (.clock 4 7) base).modQuad 0 fun v =>
  { v with clock := { v.clock with target := [(S0, some 3)] } })
def sampling : State := { base.modQuad 0 fun v => { v with trace := { v.trace with sampint := 2000, log2n := 4, typeen := 16 } } with now := 2000 }

theorem witness_TraceAndClock :
    ((sc.strand S0).xr 3).toNat % 2 ^ 16 < 10 ∧ (sc.strand S0).level ≠ .U ∧ (atU.strand S0).level = .U ∧
    0x100 ≤ (((mk (withX [(3, 0x100)] 0) id).strand S0).xr 3).toNat % 2 ^ 16 ∧
    (10 ≤ (((mk (withX [(3, 0xFF)] 0) id).strand S0).xr 3).toNat % 2 ^ 16 ∧ (((mk (withX [(3, 0xFF)] 0) id).strand S0).xr 3).toNat % 2 ^ 16 < 0x100) ∧
    (clocked.quad 0).clock.target = [(S0, some 3)] ∧ (clocked.strand S0).status = .blocked (.clock 4 7) ∧ coreQuad S0.core = 0 ∧
    (let tr := (sampling.quad 0).trace
     tr.sampint ≠ 0 ∧ tr.log2n ≠ 0 ∧ tr.typeen.getLsbD 4 = true ∧ tr.sampled + 1024 ≤ sampling.now ∧ tr.sampled + tr.sampint.toNat ≤ sampling.now) ∧
    S0 = ⟨.tile ⟨0, 0⟩, ((0#64) >>> 7).setWidth 3⟩ ∧ (0#64).setWidth 7 = (0 : BitVec 7) ∧ ((blockedOn .debug base).strand S0).status = .blocked .debug := by
  decide +kernel

theorem test_brkpt : nextHas (exec (.brkpt 4 2 3) sc) (fun s => s.xr S0 4 = 0 && (s.strand S0).brk.addr = 0x2000 && (s.strand S0).brk.ord = 5 &&
    (s.strand S0).brk.armed) = true := by decide +kernel
theorem test_lock_done : nextHas (exec (.clockLockDone 0) clocked) (fun s => (s.quad 0).clock.locked && (s.quad 0).clock.opp = 3 && s.xr S0 4 = 7) = true := by
  decide +kernel
theorem test_debug_go : nextHas (exec (.debugGo 0 0) (blockedOn .debug base)) (fun s => (s.strand S0).status = .running && (s.strand S0).brk.pass = some 0x1000) = true := by
  decide +kernel
theorem test_throttle : nextHas (exec (.clockThrottle 0) (base.modQuad 0 fun v => { v with clock := { v.clock with locked := true } }))
    (fun s => (s.quad 0).clock.broken && (s.quad 0).clock.locked) = true := by decide +kernel

/-! ### The vector side -/

theorem witness_MayQueue : MayQueue sc S0 4 ∧ MayQueue sc S0 8 ∧ Settled sc S0 [1, 3] ∧ (sc.strand S0).acquiring = false ∧ (sc.strand S0).releasing = false := by
  decide +kernel

theorem test_vadd_queues : nextHas (exec (.vaddVX 1 2 3 none) sc) (fun s => (s.strand S0).queue.map (·.op) = [.int .add 1 2 (.const 5)]) = true := by
  decide +kernel

/-- R145, R146 at corners of 8 bits. -/
theorem test_vint_corners :
    VInt.sadd.eval 8 0x82 0xFD = 0x80 ∧ VInt.sadd.eval 8 100 0xFD = 97 ∧ VInt.div.eval 8 0x80 0xFF = 0x7F ∧ VInt.rem.eval 8 0x80 0xFF = 0 ∧
    VInt.mulh.eval 8 0x80 0x80 = 0x40 ∧ VInt.ssubu.eval 8 1 2 = 0 ∧ VInt.sra.eval 8 0x80 9 = 0xC0 := by decide +kernel

theorem witness_ElementWrites : (4 : Nat) < capacity 32 32 ∧ (0 : Nat) < 32 ∧ 0 + 32 ≤ 32 ∧ (511 : Nat) < capacity 32 32 ∧ 16 + 16 ≤ 32 ∧ 0 + 16 ≤ 16 := by
  decide +kernel

/-- A strand whose queue holds entries, with a vector length and an FP32 configuration. -/
def inQueue (es : List VEntry) : State := mk (fun t => { t with queue := es, vl := 40, vvl := 40, vcfg := 9, vvcfg := 9 }) id
def entryOf (op : VOp) : VEntry := vEntry strand0 op none
def running (op : VOp) (next : Nat) : VEntry := { entryOf op with started := true, next := next, conf := some (40, 9) }
def addEntry : VEntry := running (.int .add 1 2 (.const 3)) 32

theorem witness_ElementGroup :
    ((inQueue [addEntry]).strand S0).held = false ∧ ((inQueue [addEntry]).strand S0).queue = addEntry :: [] ∧ addEntry.op = .int .add 1 2 (.const 3) ∧
    addEntry.started = true ∧ addEntry.conf = some (40, 9) ∧ (inQueue [addEntry]).group S0 = some ⟨0, 32, some 0⟩ ∧ dtOf 9 = false ∧ addEntry.next < 40 ∧
    40 ≤ capacity 32 (widthOf (fmtOf 9)) := by decide +kernel

theorem test_element_group : nextHas (exec (.elementGroup S0 0) (inQueue [addEntry]))
    (fun s => s.elem S0 ⟨0, 32, some 0⟩ 1 32 32 = 3 && s.elem S0 ⟨0, 32, some 0⟩ 1 32 31 = 0 && (s.strand S0).queue = []) = true := by decide +kernel

/-- A running instruction at the head, from element 0 (or 32) on, under a configuration and a length. -/
def groupState (op : VOp) (next vl : Nat) (cfg : Word) (f : Tile → Tile) : State :=
  mk (fun t => { t with queue := [{ entryOf op with started := true, next := next, conf := some (vl, cfg) }], vl := 40, vvl := 40 }) f

/-- Every form of an element group runs from such a state: in FP32, INT32, INT8 with a dot product, and in FP8 for a conversion at one width. -/
theorem witness_ElementGroupForms :
    (∀ p ∈ ([(.fp .fma 1 2 (.reg 3), 1), (.merge 1 2 3, 9), (.mv 1 2, 9), (.vid 1, 9), (.splat 1 7, 9), (.dot 4 1 2 3, 11), (.dot 8 1 2 3, 14),
      (.cvt .same 1 2 3 4 5 1 true, 9), (.cmp .feq 1 2 (.const 3), 1), (.mask .andn 1 2 3, 9), (.mpopc 4 2, 9), (.mfirst 4 2, 9), (.ext 4 2 39, 9)] :
        List (VOp × Word)),
      let s := groupState p.1 0 40 p.2 id
      (s.strand S0).held = false ∧ (s.strand S0).queue.map (·.op) = [p.1] ∧ s.group S0 = some ⟨0, 32, some 0⟩ ∧ dtOf p.2 = false ∧
      40 ≤ capacity 32 (widthOf (fmtOf p.2)) ∧ nextHas (exec (.elementGroup S0 0) s) (fun z => (z.strand S0).queue.all fun x => decide (0 < x.next)) = true) ∧
    intFmt (fmtOf 11) = some (8, true) ∧ intFmt (fmtOf 14) = some (4, false) ∧ widthOf 4 = widthOf 5 ∧ cvtMode 1 9 ≠ .stochastic ∧
    (∀ e, e < 40 → reservedCode 4 ((groupState (.cvt .same 1 2 3 4 5 1 true) 0 40 9 id).elem S0 ⟨0, 32, some 0⟩ 2 8 e) = false) := by
  decide +kernel

/-- A unit-stride load and a store of the last elements of INT32 at the first granules of the tile's own TMEM. -/
def tmemGroup (op : VOp) : State := groupState op 32 40 9 fun v => { v with tmem := [(128, 5)] }
theorem witness_ElementGroupMemory :
    (∀ w, (∀ e ∈ range 32 40, let ea : Addr := 0xFFFFF00000001C000000 + BitVec.ofNat 80 (e * 32 / 8)
      ea.toNat % 4 = 0 ∧ inWindow ea = true ∧
      okHas (windowAddr (.tile T0) ea (if w then .write else .read) (tmemGroup (.ld .unit 1 0xFFFFF00000001C000000)))
        (fun p => decide (p = ⟨.tmem T0 (e * 4), false, 0, false, none⟩)) = true ∧
      (tmemGroup (.ld .unit 1 0xFFFFF00000001C000000)).meets none w (.tmem T0 (e * 4)) 4 = .free ∧
      (tmemGroup (.ld .unit 1 0xFFFFF00000001C000000)).poisoned (.tmem T0 (e * 4)) 4 = false)) ∧
    ((tmemGroup (.st .unit 1 0xFFFFF00000001C000000)).tile T0).tmem.wf = true ∧
    ((tmemGroup (.st .unit 1 0xFFFFF00000001C000000)).strand S0).stores = [] ∧ ((tmemGroup (.st .unit 1 0xFFFFF00000001C000000)).strand S0).lates = [] := by
  decide +kernel
theorem test_vld_tmem : nextHas (exec (.elementGroup S0 0) (tmemGroup (.ld .unit 1 0xFFFFF00000001C000000)))
    (fun s => s.elem S0 ⟨0, 32, some 0⟩ 1 32 32 = 5 && (s.strand S0).queue = []) = true := by decide +kernel
theorem test_vst_tmem : nextHas (exec (.elementGroup S0 0) (tmemGroup (.st .unit 1 0xFFFFF00000001C000000))) (fun s => (s.tile T0).tmem = []) = true := by
  decide +kernel

/-- Cross-lane instructions at the head, each with its pipe free. -/
theorem witness_CrossLaneStarts :
    ∀ op ∈ ([.perm 1 2 3, .slide true 1 2 39, .slide false 1 2 40, .expd 1 2, .comp 1 2, .red .red 0 1 2, .red .scan 0 1 2] : List VOp),
      let s := inQueue [entryOf op]
      op.pipe = some 3 ∧ s.group S0 = some ⟨0, 32, some 0⟩ ∧ (s.strand S0).vvl ≠ 0 ∧ (s.strand S0).vstart.toNat < (s.strand S0).vvl.toNat ∧
      pipeFree S0 0 3 s = true ∧ op.preCheck (s.strand S0).vvcfg 32 (s.strand S0).vvl.toNat = none ∧ 40 ≤ capacity 32 (widthOf (fmtOf 9)) := by
  decide +kernel

theorem witness_QueueStarts :
    (let s := inQueue [entryOf (.setl 7), entryOf (.setcfg 9)]
     (s.strand S0).held = false ∧ (s.strand S0).queue[0]? = some (entryOf (.setl 7)) ∧ (s.strand S0).queue[1]? = some (entryOf (.setcfg 9)) ∧
     s.coreRuns S0.core = true ∧ (entryOf (.setl 7)).started = false ∧ olderStarted (s.strand S0) 0 = true ∧ olderStarted (s.strand S0) 1 = false) ∧
    (let s := inQueue [entryOf .fenceSV]
     (s.strand S0).stores.any (·.seq < 0) = false ∧ (s.strand S0).lates.any (·.seq < 0) = false ∧ ((s.strand S0).queue.take 0).any (fun o => o.op.memory) = false) ∧
    (let e := entryOf (.int .add 1 2 (.const 3))
     let s := inQueue [e]
     e.op.pipe = some 1 ∧ s.group S0 = some ⟨0, 32, some 0⟩ ∧ e.conf = none ∧ e.resume = none ∧ (s.strand S0).vvl ≠ 0 ∧
     (s.strand S0).vstart.toNat < (s.strand S0).vvl.toNat ∧ pipeFree S0 0 1 s = true ∧
     e.op.preCheck (s.strand S0).vvcfg 32 (s.strand S0).vvl.toNat = none) := by
  decide +kernel

theorem test_setl_starts : nextHas (exec (.vectorInstructionStart S0 0) (inQueue [entryOf (.setl 7)])) (fun s => (s.strand S0).vvl = 7 && (s.strand S0).queue = []) = true := by
  decide +kernel

/-- VFADD under an integer format (R143), and VADD with a length above the capacity of 64-bit elements (256). -/
def fpEntry : VEntry := entryOf (.fp .add 1 2 (.reg 3))
def intEntry : VEntry := entryOf (.int .add 1 2 (.const 3))
def atHead (e : VEntry) (cfg : Word) (n : BitVec 13) : State := mk (fun t => { t with queue := [e], vvl := n, vvcfg := cfg }) id

theorem witness_HeadChecks :
    fpEntry.op.formatOk ((atHead fpEntry 9 4).strand S0).vvcfg = false ∧ fpEntry.op.pipe = some 1 ∧ pipeFree S0 0 1 (atHead fpEntry 9 4) = true ∧
    (atHead fpEntry 9 4).group S0 = some ⟨0, 32, some 0⟩ ∧ ((atHead fpEntry 9 4).strand S0).vstart.toNat < ((atHead fpEntry 9 4).strand S0).vvl.toNat ∧
    intEntry.op.formatOk ((atHead intEntry 15 257).strand S0).vvcfg = true ∧ intEntry.op.widthLimit ((atHead intEntry 15 257).strand S0).vvcfg = some 64 ∧
    intEntry.op.pipe = some 1 ∧ pipeFree S0 0 1 (atHead intEntry 15 257) = true ∧ (atHead intEntry 15 257).group S0 = some ⟨0, 32, some 0⟩ ∧
    capacity 32 64 < ((atHead intEntry 15 257).strand S0).vvl.toNat ∧ (atHead intEntry 15 257).slotOpen S0.core = true := by decide +kernel

theorem test_vfmt_trap : nextHas (exec (.vectorInstructionStart S0 0) (atHead fpEntry 9 4)) (fun s => (s.strand S0).mt.cause.toNat % 256 = 0x14 && (s.strand S0).held) = true := by
  decide +kernel

theorem witness_Strips :
    MayQueue sc S0 4 ∧ Settled sc S0 [4, 3] ∧ (sc.strand S0).pendVl = false ∧ (sc.strand S0).breaks = false ∧ onControl S0 = false ∧
    vcfgInvalid ((sc.strand S0).xr 3 &&& 2047#64) = false ∧ vcfgInvalid ((sc.strand S0).xr 2 &&& 2047#64) = true := by decide +kernel

/-- R125's example: `vsetl` grants the request within the capacity. -/
theorem test_vsetl : nextHas (exec (.vsetl 4 3) sc) (fun s => s.xr S0 4 = 5 && (s.strand S0).vl = 5) = true := by decide +kernel
theorem test_vsetl_capacity : nextHas (exec (.vsetl 4 2) sc) (fun s => s.xr S0 4 = 512) = true := by decide +kernel
theorem test_sbr : nextHas (exec (.sbr 4 2 3 0 0 2 0xA (-3)) (mk (fun t => { withX [(4, 100)] 0x2000 t with vl := 40 }) id))
    (fun s => s.xr S0 4 = 60 && (s.strand S0).ar 2 = 0x2000 + 160 && (s.strand S0).pc = 0x1000 - 12) = true := by decide +kernel

/-- A VPART operand: two groups of 16 lanes for slots 0 and 1; and one that is invalid. -/
def two16 : Word := 0x1303
def parting (x : Word) : State := mk (fun t => withX [(3, x)] 0 t) id
def bothRun (x : Word) : State := { parting x with strands := (parting x).strands ++ [(⟨.tile T0, 1⟩, strand0)] }
def partHeld : State := (bothRun two16).modStrand S0 fun t => { t with queue := [entryOf (.part two16)] }

theorem witness_Vpart :
    MayQueue (parting 5) S0 4 ∧ Settled (parting 5) S0 [3] ∧ partGroups (((parting 5).strand S0).xr 3) = none ∧
    MayQueue (bothRun two16) S0 4 ∧ partGroups (((bothRun two16).strand S0).xr 3) = some [(0, ⟨0, 16, some 0⟩), (1, ⟨16, 16, some 1⟩)] ∧
    (∀ g ∈ [((0 : Nat), (⟨0, 16, some 0⟩ : LaneGroup)), (1, ⟨16, 16, some 1⟩)], ∀ o ∈ g.2.owner, ((bothRun two16).strand ⟨.tile T0, o⟩).status ≠ .free) ∧
    (∀ j ∈ slots (.tile T0), ((bothRun two16).strand j).grant = none) ∧
    (partHeld.strand S0).queue = [entryOf (.part two16)] ∧ (entryOf (.part two16)).op = .part two16 ∧ (entryOf (.part two16)).started = false ∧
    (partHeld.strand S0).held = false ∧ (partHeld.tile T0).works = true ∧ (partHeld.tile T0).groups.find? (·.2.owner = some 0) = some (0, ⟨0, 32, some 0⟩) ∧
    (∀ j ∈ slots (.tile T0), j ≠ S0 → (partHeld.strand j).queue = []) := by decide +kernel

theorem test_vpart : nextHas (exec (.vpart 3) (bothRun two16)) (fun s => s.parting (.tile T0) && (s.tile T0).groups.length = 1) = true := by decide +kernel
theorem test_vpart_effect : nextHas (exec (.vpartEffect T0) partHeld)
    (fun s => (s.tile T0).groups = [(0, ⟨0, 16, some 0⟩), (1, ⟨16, 16, some 1⟩)] && (s.strand S0).vl = 0 && !s.parting (.tile T0)) = true := by decide +kernel

/-- A FORKL and a JOINL at the head of the queue, a JOINL whose child still runs, and a strand that waits in JOINL for a child that has gone. -/
def forkHead : VEntry := entryOf (.fork 4 0x3000 (some 1) (Vector.replicate 32 9) (Vector.replicate 16 8))
def parent (gone : Option Nat) : State := mk (fun t => { t with grant := some ⟨1, gone⟩ }) id
def childRuns : State := { parent none with strands := (parent none).strands ++ [(⟨.tile T0, 1⟩, strand0)] }
def halves : State := (parent (some 0)).modStrand S0 (fun t => { t with queue := [entryOf .join] }) |>.modTile T0
  fun v => { v with groups := [(0, ⟨0, 16, some 0⟩), (1, ⟨16, 16, some 1⟩)] }

theorem witness_ForklJoinl :
    MayQueue sc S0 4 ∧ Settled sc S0 [4] ∧ (sc.strand S0).pendVl = false ∧ ((mk (withX [] 0x2002) id).strand S0).ar 2 = 0x2002 ∧
    ((sc.strand S0).ar 2).toNat % 4 = 0 ∧ 4 < sc.lanes S0 ∧ (sc.strand S0).grant = none ∧ (childRuns.strand S0).grant ≠ none ∧
    (let s := inQueue [forkHead]
     (s.strand S0).held = false ∧ (s.tile T0).works = true ∧ s.coreRuns S0.core = true ∧ (s.strand S0).queue = [forkHead] ∧
     forkHead.op = .fork 4 0x3000 (some 1) (Vector.replicate 32 9) (Vector.replicate 16 8) ∧ forkHead.started = false ∧
     (s.tile T0).groups.find? (·.2.owner = some 0) = some (0, ⟨0, 32, some 0⟩)) ∧
    MayQueue childRuns S0 4 ∧ MayQueue (parent (some 0)) S0 4 ∧ (childRuns.strand S0).pendVl = false ∧ ((parent (some 0)).strand S0).pendVl = false ∧
    (let s := blockedOn .join (parent (some 0))
     (s.strand S0).status = .blocked .join ∧ (s.strand S0).grant = some ⟨1, some 0⟩ ∧ queueFull S0 (s.strand S0) s = false) ∧
    (halves.strand S0).queue = [entryOf .join] ∧ (halves.tile T0).works = true ∧ (entryOf .join).op = .join ∧
    (halves.tile T0).groups.find? (·.2.owner = some 0) = some (0, ⟨0, 16, some 0⟩) := by decide +kernel

theorem test_forkl_act : nextHas (exec (.forklAct S0) (inQueue [forkHead])) (fun s => s.xr S0 4 = 2 && (s.strand ⟨.tile T0, 1⟩).pc = 0x3000 &&
    (s.tile T0).groups = [(0, ⟨0, 16, some 0⟩), (1, ⟨16, 16, some 1⟩)]) = true := by decide +kernel
theorem test_joinl_act : nextHas (exec (.joinlAct S0) halves) (fun s => (s.tile T0).groups = [(0, ⟨0, 32, some 0⟩)] && (s.strand S0).grant = none) = true := by
  decide +kernel

/-! ### The Riddle, the Ladle, streams, channel tags and the Tundish -/

/-- What an optional answer is found to have. -/
theorem some_with {α : Type} {r : Option α} {P : α → Prop} [DecidablePred P] (h : (match r with | some v => decide (P v) | none => false) = true) :
    ∃ v, r = some v ∧ P v := by
  cases r with
  | some v => exact ⟨v, rfl, by simpa using h⟩
  | none => simp at h

/-- A strand whose a2 names a record in memory. -/
def withRecord (n r : Nat) (f : Strand → Strand) (g : Tile → Tile) : State :=
  { mk (fun t => f (withX [(1, 0)] 0x2000 t)) g with mem := Mem.write [] 0x2000 (leBytes n r) }

/-- A job of one row (or of 257) with row pointers at 0x3000, an output at 0x4000 and room for none; one whose ROW0 + NROWS is too large. -/
def jobRecord (rows : Nat) : Nat := 0x3000 + 0x4000 * 2 ^ 128 + rows * (2 ^ 256 * 2 ^ 32)
def badJob : Nat := jobRecord 2 + (2 ^ 32 - 1) * 2 ^ 256
def binState (r : Nat) : State := withRecord 128 r id id

theorem witness_Binr (r : Nat) (h : r = jobRecord 1 ∨ r = badJob) :
    MayIssue (binState r) S0 ∧ Settled (binState r) S0 [4] ∧ ((binState r).strand S0).acquiring = false ∧ (((binState r).strand S0).ar 2).toNat % 128 = 0 ∧
    recordAt S0 ((binState r).strand S0) (((binState r).strand S0).ar 2) 128 true (advance S0 4 (binState r)) = .ok (hbm 0x2000, advance S0 4 (binState r)) ∧
    recordBits ((binState r).strand S0) (hbm 0x2000) 0x2000 128 (advance S0 4 (binState r)) = .ok r ∧ jobInvalid r = decide (r = badJob) ∧
    (((advance S0 4 (binState r)).tile T0).tag (jobOf ((binState r).strand S0) 0 0x2000 r).ch).busy = false ∧
    freeSlotOf 2 ((advance S0 4 (binState r)).tile T0).jobs = some 0 := by
  rcases h with rfl | rfl <;> and_intros <;> first | decide +kernel | exact eq_ok (by decide +kernel)

/-- A state whose first job slot holds a job. -/
def jobRuns (rows : Nat) : State := (binState (jobRecord rows)).modTile T0 fun v => { v with jobs := [(0, jobOf strand0 0 0x2000 (jobRecord rows))] }
def jobEngine (rows : Nat) : Eng := engineOf T0 0 .M none (jobRuns rows)

theorem witness_RiddleBatch :
    ((jobRuns 1).tile T0).works = true ∧ amGet 0 ((jobRuns 1).tile T0).jobs = some (jobOf strand0 0 0x2000 (jobRecord 1)) ∧
    (jobOf strand0 0 0x2000 (jobRecord 1)).stopped = false ∧ (jobOf strand0 0 0x2000 (jobRecord 1)).nrows ≤ 256 ∧
    ¬ (jobOf strand0 0 0x2000 (jobRecord 257)).nrows ≤ 256 ∧
    binRows (jobEngine 1) (jobOf strand0 0 0x2000 (jobRecord 1)) [0] (List.replicate 8 0) (jobRuns 1) = ([0, 0, 0, 0, 0, 0, 0, 1], jobRuns 1, none) ∧
    (∃ s, writeCounts (jobEngine 1) (jobOf strand0 0 0x2000 (jobRecord 1)) [0, 0, 0, 0, 0, 0, 0, 1] (jobRuns 1) = .ok s ∧ s.mem.get (0x2000 + 80 + 28) = 1) := by
  and_intros <;> first | decide +kernel | exact ok_with (by decide +kernel)

theorem test_riddle_batch : nextHas (exec (.riddleBatch T0 0) (jobRuns 1)) (fun s => (s.tile T0).jobs = [] && s.mem.bytes 0x2070 4 = [1, 0x80, 0, 0]) = true := by
  decide +kernel
theorem test_binr : nextHas (exec (.binr 4 2) (binState (jobRecord 1))) (fun s => s.xr S0 4 = 1 && (s.tile T0).jobs.length = 1) = true := by decide +kernel

/-- A pool of two chunks of 64 bytes, of which one or both are taken. -/
def pool (taken : Nat) : Nat := 0x8000 + (0x8000 + 64 * taken) * 2 ^ 128 + 0x8080 * 2 ^ 256 + taken * 2 ^ 448
def poolState (taken : Nat) : State := withRecord 64 (pool taken) (fun t => t.setA 3 0x9000) id

theorem witness_Ladle (n : Nat) (h : n = 1 ∨ n = 2) :
    Settled (poolState n) S0 [4] ∧ ((poolState n).strand S0).acquiring = false ∧ ((poolState n).strand S0).releasing = false ∧
    recordAt S0 ((poolState n).strand S0) 0x2000 64 true (advance S0 4 (poolState n)) = .ok (hbm 0x2000, advance S0 4 (poolState n)) ∧
    recordBits ((poolState n).strand S0) (hbm 0x2000) 0x2000 64 (advance S0 4 (poolState n)) = .ok (pool n) ∧ poolInvalid (pool n) = false ∧ pool n < 2 ^ 512 ∧
    (n = 1 → field (pool n) 128 80 + 64 ≤ field (pool n) 256 80) ∧ (n = 2 → field (pool n) 256 80 < field (pool n) 128 80 + 64) ∧
    field (pool n) 128 80 ≠ 0 ∧ ((poolState n).strand S0).ar 4 = 0 ∧ ((poolState n).strand S0).ar 3 ≠ 0 ∧ (((poolState n).strand S0).ar 3).toNat % 16 = 0 ∧
    recordAt S0 ((poolState n).strand S0) 0x9000 12 true (advance S0 4 (poolState n)) = .ok (hbm 0x9000, advance S0 4 (poolState n)) ∧
    ((poolState n).strand S0).earlier ((poolState n).strand S0).issued = false := by
  rcases h with rfl | rfl <;> and_intros <;> first | decide +kernel | exact eq_ok (by decide +kernel)

/-- R201: the last chunk and its link; an exhausted pool sets EXH. R200: CHPOOL rewinds. -/
theorem test_challoc : nextHas (exec (.challoc 5 2 3) (poolState 1)) (fun s => (s.strand S0).ar 5 = 0x8040 && s.mem.bytes 0x9000 2 = [0x40, 0x80] &&
    s.mem.get 0x2010 = 0x80) = true := by decide +kernel
theorem test_challoc_exhausted : nextHas (exec (.challoc 5 2 3) (poolState 2)) (fun s => (s.strand S0).ar 5 = 0 && s.mem.get 0x2034 = 1 && s.mem.get 0x9000 = 0) = true := by
  decide +kernel
theorem test_chpool : nextHas (exec (.chpool 4 2) (poolState 2)) (fun s => s.xr S0 4 = 2 && s.mem.get 0x2010 = 0) = true := by decide +kernel

/-- Shape records: sixteen INT8 elements at 0x8000; a matrix of 8 rows of 4; a rank of 0, which is invalid. -/
def row16 : Nat := 0x8000 + 11 * 2 ^ 80 + 2 ^ 84 + 16 * 2 ^ 128
def rows8 : Nat := 0x8000 + 11 * 2 ^ 80 + 2 * 2 ^ 84 + 4 * 2 ^ 128 + 8 * 2 ^ 160 + 4 * 2 ^ 256
def noRank : Nat := 0x8000 + 11 * 2 ^ 80

/-- A strand with vl = 16 (or 2 rows), a2 at the record, a3 in its own TMEM, a4 at indices and a5 at the record again. -/
def streamState (r : Nat) (n : BitVec 13) : State :=
  withRecord 64 r (fun t => { (((t.setA 3 0xFFFFF00000001C000000).setA 4 0x9000).setA 5 0x2000) with vl := n, vvl := n }) id
def shape (r : Nat) : Shape := shapeOf r

theorem witness_Streams (r : Nat) (n : BitVec 13) (h : (r = row16 ∧ n = 16) ∨ (r = rows8 ∧ n = 2) ∨ (r = noRank ∧ n = 0)) :
    MayIssue (streamState r n) S0 ∧ Settled (streamState r n) S0 [1] ∧ freeSlotOf 16 ((streamState r n).tile T0).streams = some 0 ∧
    ((streamState r n).strand S0).pendVl = false ∧ ((streamState r n).strand S0).acquiring = false ∧ (((streamState r n).tile T0).tag 5).busy = false ∧
    readShape S0 ((streamState r n).strand S0) 0x2000 (advance S0 8 (streamState r n)) = .ok (shape r, false, advance S0 8 (streamState r n)) := by
  rcases h with ⟨rfl, rfl⟩ | ⟨rfl, rfl⟩ | ⟨rfl, rfl⟩ <;> and_intros <;> first | decide +kernel | exact eq_ok (by decide +kernel)

theorem witness_StreamShapes :
    ((streamState row16 16).strand S0).vl ≠ 0 ∧ ((streamState noRank 0).strand S0).vl = 0 ∧ (shape row16).fault false false 0 16 = none ∧
    (shape row16).fault false true 0 16 = none ∧ (shape noRank).fault false false 0 1 = some 1 ∧ inOneSlot 0xFFFFF00000001C000000 ((16 * 8 + 7) / 8) = true ∧
    inOneSlot 0xFFFFF00000001C300000 1 = false ∧ (shape rows8).fault false false 0 0 = none ∧ (shape rows8).rank = 2 ∧ (∀ z ∈ (shape rows8).win, z = 0) ∧
    inOneSlot 0xFFFFF00000001C000000 ((2 * (shape rows8).extent 0 * 8 + 7) / 8) = true ∧ ((0xFFFFF00000001C000000 : Addr)).toNat % 16 = 0 ∧
    (let v : Tile := { tile0 with tags := [(5, { busy := true })] }
     (v.tag 5).busy = true) := by decide +kernel

theorem test_strm_ld_starts : nextHas (exec (.strmLd 3 2 1 5 0) (streamState row16 16)) (fun s => (s.tile T0).streams.length = 1 && ((s.tile T0).tag 5).busy) = true := by
  decide +kernel
theorem test_shape_invalid : nextHas (exec (.strmLd 3 2 1 5 0) (streamState noRank 1)) (fun s => (s.strand S0).mt.cause.toNat % 256 = 0x1B && (s.strand S0).mt.detail = 1) = true := by
  decide +kernel

/-- A load of sixteen bytes at work in slot 0, one whose source is absent, one that has delivered all, and a fabric-bound one. -/
def loads (b : Addr) (done : List Nat) (k : StreamKind) : Stream :=
  { kind := k, shape := { shape row16 with base := b }, p := 0, n := 16, ch := 5, rmode := 0, issuer := 0, level := .M, seq := 0, fence := none, pc := 0xFFC,
    strip := ⟨0, 0, 0⟩, done := done }
def toTmem : StreamKind := .load 0xFFFFF00000001C000000
def atWork (x : Stream) : State :=
  { mk (fun t => { t with issued := 1 }) (fun v => { v with streams := [(0, x)], tags := [(5, { busy := true })] }) with mem := Mem.write [] 0x8000 [1, 2, 3] }

theorem witness_Sectors :
    ((atWork (loads 0x8000 [] toTmem)).tile T0).works = true ∧ amGet 0 ((atWork (loads 0x8000 [] toTmem)).tile T0).streams = some (loads 0x8000 [] toTmem) ∧
    (loads 0x8000 [0] toTmem).spent ((atWork (loads 0x8000 [0] toTmem)).tile T0) = true ∧
    (loads 0x8000 [] toTmem).spent ((atWork (loads 0x8000 [] toTmem)).tile T0) = false ∧
    (loads 0x8000 [] toTmem).allows T0 0 (atWork (loads 0x8000 [] toTmem)) = true ∧
    (∃ v, workSector T0 0 (loads 0x8000 [] toTmem) 0 (atWork (loads 0x8000 [] toTmem)) = some v ∧ v.2.2 = none) ∧
    (loads (2 ^ 78) [] toTmem).resume = 0 ∧
    ∃ v, workSector T0 0 (loads (2 ^ 78) [] toTmem) 0 (atWork (loads (2 ^ 78) [] toTmem)) = some v ∧ v.2.2 = some (some ⟨cAbsent, 2 ^ 78, 0⟩) ∧
      (v.2.1.st.strand S0).pend = ((atWork (loads (2 ^ 78) [] toTmem)).strand S0).pend ∧
      (v.2.1.st.strand S0).heard = ((atWork (loads (2 ^ 78) [] toTmem)).strand S0).heard ∧
      (v.2.1.st.strand S0).news = ((atWork (loads (2 ^ 78) [] toTmem)).strand S0).news ∧ v.2.1.st.now = (atWork (loads (2 ^ 78) [] toTmem)).now := by
  and_intros <;> first | decide +kernel | exact some_with (by decide +kernel)

/-- R215, R169: a whole sector writes its bytes, sets the full bit and counts 16 bytes; the stream is complete. -/
theorem test_sector : nextHas (exec (.sectorComplete T0 0 0) (atWork (loads 0x8000 [] toTmem))) (fun s => (s.tile T0).tmem.bytes 0 4 = [1, 2, 3, 0] &&
    (s.tile T0).full = [0] && ((s.tile T0).tag 5).arr = 16 && (s.tile T0).streams = []) = true := by decide +kernel

/-- A tag that is posted, one that is busy, a fabric-bound stream, and strands that wait on a tag and for a buffer. -/
def waitingTag (form : Bool) : State := blockedOn (.stream 4 5 form 1) (mk id id)

theorem witness_Tags :
    (((streamState row16 16).tile T0).tag 5).posted = false ∧ (((streamState row16 16).tile T0).tag 5).frozen = false ∧
    (((streamState row16 16).tile T0).tag 5).arr ≤ 0 ∧ (((atWork (loads 0x8000 [] toTmem)).tile T0).tag 5).busy = true ∧
    ((waitingTag false).strand S0).status = .blocked (.stream 4 5 false 1) ∧ (((waitingTag false).tile T0).tag 5).busy = false ∧
    (((waitingTag true).tile T0).tag 5).phases ≠ 1 ∧ coalesce 5 2 true [] = none ∧
    (let k : Feed := ⟨3, 1, 5, markToken 4 false⟩
     (coalesce 5 2 true [k]).isSome = true ∧ ((coalesce 5 2 true [k]).getD []).length = 1) ∧ ((mk id id).tile T0).streams.find? (fun p => p.2.ch = 5 && p.2.kind = .fabric && p.2.resume < p.2.sectors) = none ∧
    ((atWork (loads 0x8000 [] .fabric)).tile T0).streams.find? (fun p => p.2.ch = 5 && p.2.kind = .fabric && p.2.resume < p.2.sectors) = some (0, loads 0x8000 [] .fabric) ∧
    (loads 0x8000 [] .fabric).resume < (loads 0x8000 [] .fabric).sectors := by decide +kernel

theorem test_post_at_once : nextHas (exec (.strmPost 1 5 0) (streamState row16 16)) (fun s => ((s.tile T0).tag 5).phase && !((s.tile T0).tag 5).posted) = true := by
  decide +kernel
theorem test_strm_wait_idle : nextHas (exec (.strmWait 4 5 0) (streamState row16 16)) (fun s => s.xr S0 4 = 0) = true := by decide +kernel

/-- A Tundish of two buffers from v8 on, with its first buffer full, loading or draining. -/
def tundishOf (b : BufState) : Tundish := ⟨8, 1, 0, 1, [{ state := b, n := 16 }, {}]⟩
def withTundish (b : BufState) (f : Strand → Strand) : State := mk (fun t => f { withX [(1, 0x12)] 0x2000 t with tundish := some (tundishOf b), issued := 1 }) id
def loaderState : State := { streamState row16 16 with strands := [(S0, { (streamState row16 16).strand S0 with tundish := some ⟨8, 1, 0, 0, [{}, {}]⟩ })] }

theorem witness_Tundish :
    (let w := (0x12#64).toNat
     w % 16 ≤ 8 ∧ 2 ^ (w / 16 % 8) ≤ 8 ∧ w < 128 ∧ (8#5).toNat % 2 ^ (w / 16 % 8) = 0 ∧ (8#5).toNat + w % 16 * 2 ^ (w / 16 % 8) ≤ 32) ∧
    ((withTundish .full id).strand S0).tundish = some (tundishOf .full) ∧ ((tundishOf .full).unbind 1).oldest = some (0, { state := .full, n := 16 }) ∧
    ((tundishOf .loading).unbind 1).oldest = some (0, { state := .loading, n := 16 }) ∧ ((tundishOf .free).unbind 1).oldest = none ∧
    ((blockedOn (.tundish 4) (withTundish .full id)).strand S0).status = .blocked (.tundish 4) ∧ (tundishOf .full).oldest = some (0, { state := .full, n := 16 }) ∧
    (tundishOf .draining).bufs[0]? = some { state := .draining, n := 16 } ∧ (∀ v ∈ ((withTundish .draining id).strand S0).queue, 0 ≤ v.seq) ∧
    (loaderState.strand S0).tundish = some ⟨8, 1, 0, 0, [{}, {}]⟩ ∧ Settled loaderState S0 [4, 1] ∧ 16 ≤ 1 * capacity ((advance S0 4 loaderState).lanes S0) (shape row16).w ∧
    readShape S0 (loaderState.strand S0) 0x2000 (advance S0 4 loaderState) = .ok (shape row16, false, advance S0 4 loaderState) :=
  by
  and_intros <;> first | decide +kernel | exact eq_ok (by decide +kernel)

/-- R231: TQPOP binds the full buffer and returns its first register, length and rank. -/
theorem test_tqpop : nextHas (exec (.tqpop 4) (withTundish .full id)) (fun s => s.xr S0 4 = 8 + 16 * 2 ^ 8) = true := by decide +kernel
theorem test_tqpop_blocks : nextHas (exec (.tqpop 4) (withTundish .loading id)) (fun s => (s.strand S0).status = .blocked (.tundish 4)) = true := by decide +kernel

/-! ### The array -/

/-- A strand with x4 and an address register or two, on a tile of a region whose slots 0 to 39 it has claimed. -/
def matState (w : Word) (r : BitVec 2) : State :=
  mk (fun t => (((withX [(4, w)] 0xFFFFF00000001C000000 t).setA 3 0xFFFFF00000001C040000).setA 5 0x8000))
    (fun v => { v with region := r, claimed := (List.range 40).map fun k => (k, 0) })
def oneQacc : QaccCfg := ⟨0, 1, 1, 0, false, false⟩
def withQacc (w : Word) : State := (matState w 1).modTile T0 fun v => { v with qacc := some oneQacc }
/-- A free run of two slots from slot 40, and one from slot 39, which is claimed. -/
def run40 : Word := 40 + 2 * 64
def run39 : Word := 39 + 2 * 64
/-- One row of 16 elements with blocks of 2, stride 1, BS0 = 0: as TU of a QSTAGE, and as TU of a QCHAIN of two stages with its row at 0x20000. -/
def stageWord : Word := 1 + 4 * 2 ^ 16 + 1 * 2 ^ 20
def chainWord : Word := 1 + 4 * 2 ^ 16 + 1 * 2 ^ 24 + 0x20000 * 2 ^ 32
def oneStage : StageParam := ⟨1, 0, 0, 1⟩
def chainState : State := (matState chainWord 1).modStrand S0 fun t => { t with bs := Vector.replicate 16 (1 + 1 * 2 ^ 16) }
/-- One row of one pass with activations in slot 0, and 256 rows that end at row 255. -/
def gemmWord (m row0 : Nat) : Word := BitVec.ofNat 64 (m + row0 * 2 ^ 32)

theorem witness_MatrixFrame : MayIssue (matState 1 0) S0 ∧ Settled (matState 1 0) S0 [4, 5] ∧ MayIssue (withQacc 1) S0 ∧ MayIssue chainState S0 ∧
    Settled chainState S0 [4, 5] := by decide +kernel
theorem witness_Mmode : ((matState 0 0).tile T0).mode = none ∧ BitVec.ofNat 2 ((matState 0 0).xr S0 4).toNat = ((matState 0 0).tile T0).region ∧
    BitVec.ofNat 2 ((matState 3 0).xr S0 4).toNat ≠ ((matState 3 0).tile T0).region ∧ ((matState 3 0).tile T0).contextIn 3 = false := by decide +kernel
theorem witness_Qclaim : ((matState run40 0).strand S0).acquiring = false ∧ slotRun run40 = some (40, 2) ∧ slotRun run39 = some (39, 2) ∧
    slotRun (0 + 64 * 64) = some (0, 64) ∧ (((matState run40 0).strand S0).ar 5).toNat % 128 = 0 ∧ (((matState run40 0).strand S0).ar 6) = 0 ∧
    ((matState run40 0).tile T0).claimed.any (fun p => inRun 40 2 p.1) = false ∧ ((matState run39 0).tile T0).claimed.any (fun p => inRun 39 2 p.1) = true ∧
    checkPlaces S0 ((matState run40 0).strand S0) .read (pageStarts (((matState run40 0).strand S0).ar 5) (2 * 16384)) (advance S0 4 (matState run40 0)) =
      .ok (advance S0 4 (matState run40 0)) :=
  by
  and_intros <;> first | decide +kernel | exact eq_ok (by decide +kernel)
theorem witness_QrelQaccBsset : ((matState 0 1).tile T0).owns 0 0 40 = true ∧ ((matState 0 1).tile T0).mats.length < 4 ∧ slotRun (0 + 40 * 64) = some (0, 40) ∧
    ((matState 0 1).tile T0).region ≠ 0 ∧ ((matState 0 1).tile T0).acc = [] ∧
    (let w := 255 + 1 * 256 + 4 * 4096 + 32768
     w < 2 ^ 17 ∧ w % 256 ≠ 0 ∧ w / 4096 % 8 ≤ 4 ∧ BitVec.ofNat 4 (w / 256 % 16) = 1 ∧ w / 65536 ≠ 1) ∧
    (let w := 1 + 9 * 256 + 65536
     w < 2 ^ 17 ∧ w % 256 ≠ 0 ∧ w / 4096 % 8 ≤ 4 ∧ BitVec.ofNat 4 (w / 256 % 16) = 9 ∧ w / 65536 = 1) ∧
    tmemSide ((matState 0 1).tile T0) (((matState 0 1).strand S0).ar 2) (256 * max 64 (regionCols 1 * widthOf 1 / 8)) = some 0 ∧
    ((15 : Word)).toNat < 16 := by decide +kernel
theorem witness_Qstage :
    (let w := stageWord.toNat
     0 < w % 2 ^ 13 ∧ w % 2 ^ 13 ≤ 4096 ∧ 4 ≤ w / 2 ^ 16 % 16 ∧ w / 2 ^ 16 % 16 ≤ 12 ∧ oneStage.badBlock 4 = false ∧ oneStage.badStride 4 = false ∧
     w / 2 ^ 13 % 8 = 0 ∧ w / 2 ^ 23 % 2 = 0 ∧ w < 2 ^ 28 ∧ (⟨w / 2 ^ 20 % 8, w / 2 ^ 24 % 16, 0, 1⟩ : StageParam) = oneStage) ∧
    tmemSide ((matState stageWord 1).tile T0) (((matState stageWord 1).strand S0).ar 2) (16 * 32 / 8) = some 0 ∧
    tmemSide ((matState stageWord 1).tile T0) (((matState stageWord 1).strand S0).ar 3) (16 * 32 / 8) = some 0x40000 ∧ sidesMeet 0 64 0x40000 64 = false ∧
    sidesMeet 0 64 0 64 = true ∧ ((matState stageWord 1).tile T0).owns 0 0 (slotsFor (oneStage.weightBits 4)) = true := by decide +kernel
theorem witness_Qchain :
    (let w := chainWord.toNat
     0 < w % 2 ^ 13 ∧ w / 2 ^ 16 % 16 = 4 ∧ w / 2 ^ 20 % 16 + w / 2 ^ 24 % 16 ≤ 15 ∧ w / 2 ^ 13 % 8 = 0 ∧ w / 2 ^ 28 % 16 = 0 ∧ w < 2 ^ 54 ∧
     w / 2 ^ 24 % 16 = 1 ∧ w / 2 ^ 32 % 2 ^ 22 = 0x20000 ∧ w / 2 ^ 32 % 2 ^ 22 % 64 = 0) ∧
    (∀ g ∈ (List.range 2).map (fun k => stageOf ((chainState.strand S0).bs.get (bsIndex k))), g.badBlock 4 = false ∧ g.badStride 4 = false ∧ g.wfmt ≠ 0 ∧
      g.wfmt.toNat ≤ 8 ∧ (chainState.tile T0).owns 0 g.wslot (slotsFor (g.weightBits 4)) = true) ∧
    0x20000 + 64 ≤ 0x300000 ∧ sidesMeet 0 64 0x20000 64 = false ∧ sidesMeet 0x40000 64 0x20000 64 = false := by decide +kernel
theorem witness_Mgemm :
    (∀ m row0, (m = 1 ∧ row0 = 255) ∨ (m = 256 ∧ row0 = 0) → let w := (gemmWord m row0).toNat
      0 < w % 512 ∧ w / 2 ^ 32 % 256 + w % 512 ≤ 256 ∧ w / 2 ^ 9 % 128 = 0 ∧ w / 2 ^ 20 % 16 = 0 ∧ w / 2 ^ 30 % 4 = 0 ∧ w < 2 ^ 40) ∧
    ((withQacc 1).tile T0).qacc = some oneQacc ∧ oneQacc.int = gemmIsInt 2 0 ∧
    (∀ p ∈ gemmRuns 2 2 0 256 0 0 4 0 (regionCols 1), ((withQacc 1).tile T0).owns 0 p.1 p.2 = true) :=
  ⟨by rintro _ _ (⟨rfl, rfl⟩ | ⟨rfl, rfl⟩) <;> decide +kernel, by decide +kernel, by decide +kernel, by decide +kernel⟩

theorem test_qclaim : nextHas (exec (.qclaim 5 0 4) (matState run40 0)) (fun s => s.xr S0 5 = 1 && (s.tile T0).claimed.contains (41, 0) &&
    !(s.tile T0).claimed.contains (42, 0)) = true := by decide +kernel
theorem test_qclaim_busy : nextHas (exec (.qclaim 5 0 4) (matState run39 0)) (fun s => s.xr S0 5 = 0) = true := by decide +kernel
theorem test_bsset : nextHas (exec (.bsset 5 4 4) (matState 3 1)) (fun s => (s.strand S0).bs.get 3 = 3 && s.xr S0 5 = 0) = true := by decide +kernel
theorem test_qstage : nextHas (exec (.qstage 3 2 4 1 1 1 0 0 0) (matState stageWord 1)) (fun s => (s.tile T0).mats.length = 1) = true := by decide +kernel
theorem test_mgemm_slot : nextHas (exec (.mgemm 4 2 2 0 63 0) (withQacc (gemmWord 1 0))) (fun s => (s.strand S0).mt.cause.toNat % 256 = cMatrixSlot.toNat) = true := by
  decide +kernel

/-- Entries at the head of the array queue, over a tile of region 1. -/
def matEntry (op : MatOp) : MatEntry := { op := op, issuer := 0, pc := 0xFFC, strip := ⟨0, 0, 0⟩, seq := 0 }
def chainOp : MatOp := .chain false 0 0x40000 0 1 4 [oneStage] 1 1 false 0 false
def gemmOp : MatOp := .gemm 9 9 0 1 0 0 4 0 0
def arrayState (e : MatEntry) (f : Tile → Tile) : State :=
  mk (fun t => { t with issued := 1 }) fun v => f { v with region := 1, mats := [e], claimed := (List.range 40).map fun k => (k, 0), leave := true }
def matRunning (op : MatOp) : MatEntry := { matEntry op with started := true }
def intQacc : QaccCfg := ⟨0, 1, 9, 0, false, true⟩
def gemmState (q : QaccCfg) : State := arrayState (matRunning gemmOp) fun v => { v with qacc := some q }
def linked : State := arrayState (matRunning gemmOp) fun v => { v with qacc := some intQacc, rels := [(5, [⟨0, 7⟩])] }

/-- What the answer of a row is found to be. -/
theorem done_with {r : RowRes} {P : State → Prop} [DecidablePred P] (h : (match r with | .done s => decide (P s) | _ => false) = true) :
    ∃ s, r = .done s ∧ P s := by
  cases r with
  | done s => exact ⟨s, rfl, by simpa using h⟩
  | _ => simp at h

theorem witness_ArrayStarts : ((arrayState (matEntry chainOp) id).tile T0).works = true ∧ ((arrayState (matEntry chainOp) id).tile T0).mats = [matEntry chainOp] ∧
    (matEntry chainOp).op.computes = true ∧ ((arrayState (matEntry chainOp) id).tile T0).fills = [] ∧
    ((arrayState (matEntry chainOp) fun v => { v with leave := false }).tile T0).leave = false ∧
    ((arrayState (matEntry chainOp) id).quad 0).waiting.any (·.tile = T0) = false := by decide +kernel
theorem witness_ArrayRows :
    (∃ s, chainRow T0 (matRunning chainOp) 0 0x40000 0 4 [oneStage] 1 1 false 0 false (arrayState (matRunning chainOp) id) = .done s ∧ (s.tile T0).tmem = []) ∧
    (∃ s, gemmRow T0 (matRunning gemmOp) 9 9 0 1 0 0 4 0 0 (gemmState ⟨0, 2, 9, 0, false, true⟩) = .done s ∧ ((s.tile T0).accSlot 3 0).count = 1) :=
  ⟨done_with (by decide +kernel), done_with (by decide +kernel)⟩
theorem witness_ArrayRelease : (linked.tile T0).qacc = some intQacc ∧ (linked.tile T0).link 5 = [⟨0, 7⟩] := by decide +kernel
theorem witness_ArrayEnds :
    ((arrayState { matRunning chainOp with pass := 1 } id).tile T0).rels = [] ∧ [oneStage].length ≤ 1 ∧
    ((arrayState (matEntry (.rel 0 40)) id).tile T0).mats = [matEntry (.rel 0 40)] ∧
    ((blockedOn (.drain 5) (arrayState (matEntry (.drain 5 true)) id)).strand S0).status = .blocked (.drain 5) ∧
    ((arrayState (matEntry chainOp) id).tile T0).leave = true ∧ ((arrayState (matEntry chainOp) id).tile T0).mats.any (·.started) = false := by decide +kernel

/-- A tile with a fill of one slot, with zeros or from 0x8000; one with MMODE in progress; one that waits for leave. -/
def fillOf (src : Option Addr) : OmFill := ⟨40, 1, src, 0, .M, 0, 0xFFC, ⟨0, 0, 0⟩, false⟩
def fillState (src : Option Addr) : State := mk (fun t => { t with issued := 1 }) fun v => { v with fills := [fillOf src] }
def modeState (o r : BitVec 2) (l : Bool) : State :=
  blockedOn .mmode (mk id fun v => { v with region := o, leave := l, mode := some ⟨0, r⟩ })
def leaveState : State := (mk id id).modQuad 0 fun q => { q with waiting := [⟨T0, 0⟩] }

theorem witness_FillsLeaveAndMode :
    ((fillState none).tile T0).works = true ∧ ((fillState none).tile T0).fills[0]? = some (fillOf none) ∧
    engineHeld true S0 0 none ((List.range 128).filterMap fun n => (placeOf (engineOf T0 0 .M none (fillState (some 0x8000))).xl
      ((0x8000 : Addr) + BitVec.ofNat 80 (128 * n)) .read (fillState (some 0x8000))).map (·, 128)) [] (fillState (some 0x8000)) = false ∧
    (leaveState.quad 0).waiting = [⟨T0, 0⟩] ∧ ((leaveState.quad 0).recent leaveState.now).length < 8 ∧
    ((modeState 1 0 true).tile T0).mode = some ⟨0, 0⟩ ∧ ((modeState 1 0 true).tile T0).mats = [] ∧
    ((modeState 0 1 true).tile T0).region = 0 ∧ ((modeState 0 1 true).tile T0).leave = true ∧ ((modeState 1 2 true).tile T0).contextIn 2 = false ∧
    (∃ r, fillLines (engineOf T0 0 .M none (fillState (some 0x8000))) 0x8000 (16384 * 40) 128 0 (fillState (some 0x8000)) = .ok r ∧ r.1 = []) := by
  and_intros <;> first | decide +kernel | exact ok_with (by decide +kernel)

theorem test_row_release : nextHas (exec (.rowRelease T0 5) linked) (fun s => (s.tile T0).tmem.get 20 = 7 && (s.tile T0).rels = []) = true := by decide +kernel
theorem test_matrix_entry : nextHas (exec (.matrixEntry T0) (modeState 0 1 true)) (fun s => (s.tile T0).region = 1 && (s.strand S0).status = .running) = true := by
  decide +kernel

/-! ### The fabric -/

/-- Element 0 of the tile with two INT32 or FP32 tokens and one table entry, a word under a trigger; literal 0 says SEQ 1 and SUCC 0. -/
abbrev E0 : ElemId := ⟨T0, 0⟩
def ctxWith (w : Parcel) (tw : BitVec 24) : Ctx := { loaded := true, entries := [(0, tw ++ w)], lits := [(0, BitVec.ofNat 64 (2 ^ 32))] }
def oneElem (tag : BitVec 4) : Elem := { ctx := some 0, status := .running, ins := #v[[⟨5, tag, .data⟩], [⟨3, tag, .data⟩], [], []] }
def fabricOf (w : Parcel) (tw : BitVec 24) (x : Elem) : Fabric :=
  { ctxs := #v[ctxWith w tw, { loaded := true }, {}, {}], selected := some 0, elems := [(0, x)] }
def elemState (w : Parcel) (tw : BitVec 24) (x : Elem) : State := { mk id fun v => { v with fabric := fabricOf w tw x } with cur := .elem E0 }

/-- The hypotheses of an element operation: it is chosen, legal, and its sources read. -/
def firesHere (op : BitVec 7) (cls : ElemClass) (p q d1 d2 tg : BitVec 4) (lit : BitVec 5) (raw : Bool) (tag : BitVec 4) (chk : State → Fire → Option (BitVec 8)) : Bool :=
  let w := packElem op p q d1 d2 tg lit
  let st := elemState w 0x30 (oneElem tag)
  let sh := elemShape op.toNat
  match st.fires E0, st.choose E0 with
  | some (x, n), some c =>
    n = 0 && c.word = w && !fireIllegal cls sh c.handler p q d1 d2 tg && okHas (if sh.sa then x.source tg raw p else .ok (0, false)) (fun a => !a.2) &&
    okHas (if sh.sb then x.source tg raw q else .ok (0, false)) (fun a => !a.2) &&
    (chk st ⟨E0, x, n, c, tg, widthOf tg, 0, 0, if sh.sa then x.sourceTok p else none,
      match x.sourceTok p with | some k => k.data | none => x.kr (p.toNat - 8), (((st.tile T0).fabric).context n).lit 0 lit.toNat, lit.toNat, false⟩).isNone
  | _, _ => false
def anyTag : State → Fire → Option (BitVec 8) := fun _ _ => none

theorem witness_ElementsTwoSources :
    (List.range 10).all (fun n => firesHere (BitVec.ofNat 7 (2 + n)) (if 3 ≤ n ∧ n ≤ 5 then .any else .int) 0 1 8 7 9 0 (3 ≤ n && n ≤ 5) 9 anyTag) = true ∧
    (List.range 5).all (fun n => firesHere (BitVec.ofNat 7 (12 + n)) .float 0 1 8 7 1 0 false 1 anyTag) = true ∧
    firesHere 17 .dot 0 1 8 7 9 0 true 11 (fun _ => dotIllegal 0 1) = true ∧
    [24, 29, 30].all (fun n => firesHere n .float 0 1 8 7 1 7 false 1 anyTag) = true ∧ firesHere 25 .both 0 1 8 7 9 7 false 9 anyTag = true ∧
    firesHere 26 .any 0 1 8 7 9 7 true 9 anyTag = true ∧ [27, 28].all (fun n => firesHere n .int 0 1 8 7 9 7 false 9 anyTag) = true ∧
    firesHere 36 .any 0 1 8 7 9 7 false 9 anyTag = true ∧ firesHere 37 .none 0 1 0 0 0 0 true 9 anyTag = true ∧
    firesHere 39 .memory 0 1 0 0 9 0 false 9 (fun _ => waveIllegal) = true := by decide +kernel
theorem witness_ElementsOneSource :
    [18, 19].all (fun n => firesHere n .int 0 0 8 7 9 31 false 9 anyTag) = true ∧ [20, 21, 22, 23].all (fun n => firesHere n .any 0 0 8 7 9 31 true 9 anyTag) = true ∧
    firesHere 33 .none 0 0 0 0 0 7 true 9 anyTag = true ∧ firesHere 34 .any 0 0 8 7 9 0 false 9 anyTag = true ∧
    firesHere 38 .memory 0 0 8 7 9 0 true 9 (fun _ => waveIllegal) = true ∧ firesHere 43 .int 0 0 8 7 9 0 false 9 anyTag = true ∧
    firesHere 44 .any 0 0 8 7 9 0 true 9 anyTag = true ∧ firesHere 45 .any 0 0 8 7 9 7 false 9 anyTag = true := by decide +kernel
theorem witness_ElementsNoSource :
    [1, 31, 32, 42].all (fun n => firesHere n .none 0 0 0 0 0 0 false 9 anyTag) = true ∧ firesHere 41 .none 0 0 0 0 0 1 false 9 ctxIllegal = true ∧
    firesHere 35 .any 0 0 8 7 9 31 false 9 anyTag = true ∧ firesHere 40 .int 0 0 8 7 9 7 false 9 anyTag = true ∧
    firesHere 40 .int 0 0 15 7 9 7 false 9 anyTag = true := by decide +kernel

theorem test_elem_sub : nextHas (exec (.elemSub 0 1 8 7 9) (elemState (packElem 3 0 1 8 7 9 0) 0x30 (oneElem 9))) (fun s =>
    (s.elemAt E0).firings.map (·.writes) = [[(0, 2)]] && (s.elemAt E0).queue 0 = []) = true := by decide +kernel
theorem test_elem_cmplt : nextHas (exec (.elemCmplt 1 0 8 7 9 7) (elemState (packElem 27 1 0 8 7 9 7) 0x30 (oneElem 9))) (fun s =>
    (s.elemAt E0).firings.map (fun g => (g.bit, g.writes)) = [(some (7, true), [(0, 1)])]) = true := by decide +kernel
theorem test_elem_dot4 : nextHas (exec (.elemDot4 0 1 8 7 9) (elemState (packElem 17 0 1 8 7 9 0) 0x30
    { oneElem 11 with ins := #v[[⟨0x02FF, 11, .data⟩], [⟨0x0503, 11, .data⟩], [], []] })) (fun s => (s.elemAt E0).firings.map (·.writes) = [[(0, 7)]]) = true := by
  decide +kernel
theorem test_elem_illegal_tag : nextHas (exec (.elemAdd 0 1 8 7 1) (elemState (packElem 2 0 1 8 7 1 0) 0x30 (oneElem 9))) (fun s =>
    (s.elemAt E0).status = .frozen && (s.strand S0).pend.map (·.cause) = [cFabricIllegal]) = true := by decide +kernel

/-- A control token that names an empty entry, a word that is no operation, and firings: a predicate write, one that relied on it wrongly, a result
that writes k3, one that accumulates, and one that pushes. -/
def noHandler : Elem := { oneElem 9 with ins := #v[[⟨5, 0, .control⟩], [], [], []] }
def firing (bit : Option (Nat × Bool)) (relied : List (Nat × Bool)) (ws : List (Nat × Word)) (acc : Option (Bool × BitVec 4 × Word)) (ps : List (BitVec 4 × Token)) : Firing :=
  { entry := 0, ctx := 0, taken := [(2, ⟨9, 9, .data⟩)], relied, bit, writes := ws, acc, pushes := ps, mems := [], turn := none, due := 0,
    sure := relied.isEmpty }
def resolving (young : List Firing) : State := elemState 0 0 { oneElem 9 with firings := firing (some (7, true)) [] [] none [] :: young }
def ending (g : Firing) : State := elemState 0 0 { oneElem 9 with firings := [g] }

theorem witness_FabricFaults :
    (elemState 0 0 noHandler).fires E0 = some (noHandler, 0) ∧ noHandler.controlHead = some (0, ⟨5, 0, .control⟩) ∧ noHandler.unconfirmed = false ∧
    (((elemState 0 0 noHandler).tile T0).fabric.context 0).word 0 5 = 0 ∧ (((elemState 0 0 noHandler).tile T0).fabric.context 0).trigger 0 5 = 0 ∧
    (elemState 0xFFFFFFFF 0 (oneElem 9)).choose E0 = some ⟨0, none, [], 0xFFFFFFFF⟩ ∧ elemWordOk 0xFFFFFFFF = false := by decide +kernel
theorem witness_Predicates :
    ((resolving [firing none [(7, true)] [] none []]).elemAt E0).firings = [] ++ firing (some (7, true)) [] [] none [] :: [firing none [(7, true)] [] none []] ∧
    (∀ h ∈ [firing none [(7, true)] [] none []], (7, !true) ∉ h.relied) ∧ (7, !true) ∈ (firing none [(7, false)] [] none []).relied ∧
    ((ending (firing none [] [(3, 7)] none [])).elemAt E0).firings[0]? = some (firing none [] [(3, 7)] none []) ∧ (firing none [] [(3, 7)] none []).sure = true ∧
    (firing none [] [] (some (false, 9, 7)) []).writes = [] ∧ (firing none [] [] (some (false, 9, 7)) []).acc = some (false, 9, 7) ∧ (firing none [] [] none [(6, ⟨1, 9, .data⟩)]).pushes = [(6, ⟨1, 9, .data⟩)] := by decide +kernel

/-- R332: the firing that predicted wrongly is squashed, and its token returns. -/
theorem test_squash : nextHas (exec (.predicateWriteResolve E0) (resolving [firing none [(7, false)] [] none []])) (fun s =>
    (s.elemAt E0).firings.length = 1 && (s.elemAt E0).bit 7 && (s.elemAt E0).queue 2 = [⟨9, 9, .data⟩]) = true := by decide +kernel
theorem test_result_write : nextHas (exec (.elementResultWrite E0 0) (ending (firing none [] [(3, 7)] none []))) (fun s => (s.elemAt E0).kr 3 = 7) = true := by
  decide +kernel

/-- A token on its way to input 3 of element 1, to the tile to the east, and to a closed guard in the north; a marker; an edge queue's head; a token of the stream
engine and a caught one. The two tiles are those of one team. -/
def flight (tx ty : Int) (k : TokKind) : Flight := { tok := ⟨7, 9, k⟩, src := E0, port := 0, ctx := 0, tx, ty, inq := 3, due := 0 }
def team2 (dx : Nat) : Tile := { tile0 with res := some ⟨0, 0, dx, 0, dx, 2, 0, 1, 0, 0, 2, 1⟩ }
def wire (f : Fabric → Fabric) : State :=
  { mk id id with tiles := [(T0, { team2 0 with fabric := f { fabricOf 0 0 {} with elems := [(1, oneElem 9)] } }), (⟨0, 1⟩, team2 1)] }
def flying (l : Flight) : State := wire fun f => { f with flights := [l] }
def feed : Feed := ⟨1, 3, 5, ⟨7, 9, .data⟩⟩
def caught : Caught := ⟨1, 3, ⟨7, 9, .data⟩, false⟩

theorem witness_Tokens :
    ((flying (flight 1 0 .data)).tile T0).drains = true ∧ ((flying (flight 1 0 .data)).tile T0).fabric.flights[0]? = some (flight 1 0 .data) ∧
    ((flying (flight 1 0 .data)).flightLeg 0 T0 (flight 1 0 .data)).1 = .arrive ∧ gridElem 0 1 0 = ⟨T0, 1⟩ ∧
    ((flying (flight 1 0 .preempt)).flightLeg 0 T0 (flight 1 0 .preempt)).1 = .arrive ∧
    ((flying (flight 20 0 .data)).flightLeg 0 T0 (flight 20 0 .data)).1 = .cross ⟨0, 1⟩ ∧ ((flying (flight 20 0 .data)).tile ⟨0, 1⟩).snapped = false ∧
    ((flying (flight 0 (-1) .data)).flightLeg 0 T0 (flight 0 (-1) .data)).1 = .drop T0 false 0 ∧
    ((flying (flight 1 0 .data)).elemAt ⟨T0, 1⟩).reached = none ∧ ((flying (flight 1 0 .data)).tile T0).fabric.caught = [] ∧
    ((wire fun f => { f with feeds := [feed] }).tile T0).works = true ∧ ((wire fun f => { f with feeds := [feed] }).tile T0).fabric.feeds[0 - 0]? = some feed ∧
    (let f := ((wire fun f => { f with feeds := [feed] }).tile T0).fabric
     f.used 1 3 + f.owed (.input 1 3) 0 < 4 ∧ (f.elem 1).reached = none) ∧
    (let f := ((wire fun f => { f with caught := [caught] }).tile T0).fabric
     f.caught[0]? = some caught ∧ (f.elem 1).ctx ≠ none ∧ f.held 1 3 < 4) ∧
    ((wire fun f => { f with edges := [⟨E0, 0, 0, [flight 1 0 .data]⟩] }).tile T0).fabric.edges[0]? = some ⟨E0, 0, 0, [flight 1 0 .data]⟩ ∧
    (wire fun f => { f with edges := [⟨E0, 0, 0, [flight 1 0 .data]⟩] }).room T0 (flight 1 0 .data) 0 = true := by decide +kernel
theorem test_token_delivery : nextHas (exec (.tokenDelivery T0 0) (flying (flight 1 0 .data))) (fun s => (s.elemAt ⟨T0, 1⟩).queue 3 = [⟨7, 9, .data⟩]) = true := by
  decide +kernel
theorem test_token_drop : nextHas (exec (.tokenDelivery T0 0) (flying (flight 0 (-1) .data))) (fun s => (s.tile T0).counts.get 5 = 1) = true := by decide +kernel

/-- A memory operation that loads or stores four bytes at an offset, a stream-out port with a token, a phase in progress, and a snapshot. -/
def memOp (load plain noacc : Bool) (off : Nat) : MemOp :=
  { id := 0, elem := 0, entry := 0, ctx := 0, load, plain, noacc, wave := 0, seq := 1, pred := 0, succ := 0, off, size := 4, data := 0x11223344, tag := 9,
    dests := [8], due := 0 }
def opState (o : MemOp) : State := { (elemState 0 0 (oneElem 9)).modTile T0 fun v => { v with fabric := { v.fabric with ops := [o] }, tmem := [(0, 9)] } with cur := .strand S0 }
def portOut (boff : Nat) : State := (elemState 0 0 { oneElem 9 with strm := [⟨0x0102, 10, .data⟩] }).modTile T0 fun v =>
  { v with fabric := { v.fabric with bindings := [⟨0, 0, true, 5, boff, 0⟩] } }
def phase (x : Elem) : State :=
  { (elemState 0 0 x).modTile T0 fun v => { v with region := 0, fabric := { v.fabric with decided := some 1 } } with now := 1 }
def snapping : State := { (elemState 0 0 { oneElem 9 with reached := some 0 }).modTile T0 fun v => { v with fabric := { v.fabric with snap := some 0 } } with now := 4096 }

theorem witness_MemoryOperations (o : MemOp) (h : o = memOp true false false 0x1C000000 ∨ o = memOp false false false 0x1C000000 ∨ o = memOp false true false 0x1C000000 ∨
    o = memOp true false false 0x1C000002 ∨ o = memOp true false true 3 ∨ o = memOp true false false 0x1C300000) :
    ((opState o).tile T0).fabric.ops[0]? = some o ∧ ((opState o).tile T0).drains = true ∧ o.held = false ∧ o.due ≤ (opState o).now ∧ 0 < o.size ∧
    ((opState o).tile T0).fabric.ordered o = true := by
  rcases h with rfl | rfl | rfl | rfl | rfl | rfl <;> decide +kernel
def spoilt (s : State) : State := { s with poison := [⟨.tmem T0 0, 0⟩] }
theorem witness_MemoryPlaces :
    windowAddr (.tile T0) (BitVec.ofNat 80 (twb + 0x1C000000)) .read (opState (memOp true false false 0x1C000000)) = .ok ⟨.tmem T0 0, false, 0, false, none⟩ ∧
    windowAddr (.tile T0) (BitVec.ofNat 80 (twb + 0x1C000000)) .write (opState (memOp false true false 0x1C000000)) = .ok ⟨.tmem T0 0, false, 0, false, none⟩ ∧
    readPhys ⟨.tmem T0 0, false, 0, false, none⟩ 4 (opState (memOp true false false 0x1C000000)) = .ok 9 ∧
    (∃ g, readPhys ⟨.tmem T0 0, false, 0, false, none⟩ 4 (spoilt (opState (memOp true false false 0x1C000000))) = .error g ∧ g.cause = cMachineCheck) ∧
    (∃ g, windowAddr (.tile T0) (BitVec.ofNat 80 (twb + 0x1C300000)) .read (opState (memOp true false false 0x1C300000)) = .error g ∧ g.cause = cAbsent) := by
  and_intros <;> first | exact eq_ok (by decide +kernel) | exact error_with (by decide +kernel)
theorem witness_PortsAndPhases :
    ((portOut 0).tile T0).fabric.bindings[0]? = some ⟨0, 0, true, 5, 0, 0⟩ ∧ ((portOut 0).tile T0).works = true ∧ ((portOut 0).tile T0).tmem.wf = true ∧
    ((portOut 0).elemAt E0).strm = [⟨0x0102, 10, .data⟩] ∧ 0x300000 < 16 * 0x30000 + (0 + 16 / 4 + 1) / 2 ∧ (oneElem 9).status ≠ .frozen ∧
    ((phase { oneElem 9 with inject := true }).tile T0).fabric.decided = some 1 ∧
    (((phase { oneElem 9 with inject := true }).tile T0).fabric.context 0).inm 0 = 0 ∧ ((phase { oneElem 9 with inject := true }).elemAt E0).turned = false ∧
    (((phase { oneElem 9 with inject := true }).tile T0).fabric.elem 1).turned = false ∧ (snapping.tile T0).drains = true ∧ (snapping.elemAt E0).reached ≠ none ∧
    (snapping.tile T0).fabric.snap = some 0 ∧ (snapping.tile T0).snapped = false ∧ (snapping.tile T0).inMatrix 0 = false := by decide +kernel

/-- Element 0 of a phase in which every other element has switched. -/
def lastOfPhase : State := (phase { oneElem 9 with inject := true }).modTile T0 fun v =>
  { v with fabric := v.fabric.mapElems fun q y => { y with turned := decide (q ≠ 0) } }
theorem witness_PhaseEnds : (∀ q, q < 256 → q ≠ 0 → (lastOfPhase.tile T0).inMatrix q = false → ((lastOfPhase.tile T0).fabric.elem q).turned = true) ∧
    (lastOfPhase.elemAt E0).turned = false ∧ (lastOfPhase.elemAt E0).inject = true := by decide +kernel

theorem test_wave_load : nextHas (exec (.waveOperationPerform T0 0) (opState (memOp true false false 0x1C000000))) (fun s =>
    (s.elemAt E0).firings.map (fun g => (g.writes, g.due)) = [([(0, 9)], 7)] && (s.tile T0).fabric.ops = [] &&
    ((s.tile T0).fabric.wave 0).cur = 1) = true := by decide +kernel
/-- R352: an uncorrectable error in what LDT reads is MACHINE_CHECK, and the operation is held. -/
theorem test_wave_poisoned : nextHas (exec (.waveOperationPerform T0 0) (spoilt (opState (memOp true false false 0x1C000000)))) (fun s =>
    (s.strand S0).pend.map (·.cause) = [cMachineCheck] && (s.tile T0).fabric.ops.all (·.held)) = true := by decide +kernel
theorem test_wave_misaligned : nextHas (exec (.waveOperationPerform T0 0) (opState (memOp true false false 0x1C000002))) (fun s =>
    (s.elemAt E0).status = .frozen) = true := by decide +kernel
theorem test_stream_out : nextHas (exec (.streamOutTake T0 0) (portOut 1)) (fun s => (s.tile T0).tmem = [(16, 2), (17, 1)] && (s.elemAt E0).strm = []) = true := by
  decide +kernel
theorem test_context_switch : nextHas (exec (.elementContextSwitch E0) (phase { oneElem 9 with inject := true })) (fun s =>
    (s.elemAt E0).ctx = some 1 && (s.elemAt E0).start = 33) = true := by decide +kernel

/-! ### Fabric control, areas and the port -/

/-- A strand with x4 and x5 on a tile whose contexts 0 and 1 are loaded, with a context selected or none. -/
def cfgState (w z : Word) (sel : Option Nat) : State :=
  mk (fun t => (withX [(4, w), (5, z)] 0x2000 t)) fun v => { v with fabric := { fabricOf 0 0 {} with selected := sel, elems := [] } }

theorem witness_FabricControl : ∀ p ∈ ([(0, 0, none), (1, 1024, some 0), (8, 0, some 0), (2, 2048, some 0), (31, 0, none), (4, 0, some 0)] :
    List (Word × Word × Option Nat)),
    let s := cfgState p.1 p.2.1 p.2.2
    MayIssue s S0 ∧ Settled s S0 [3, 4, 5] ∧ p.1.toNat < 32 ∧ (s.tile T0).region ≠ 1 ∧ (s.tile T0).fabric.selected = p.2.2 ∧
    ((s.tile T0).fabric.context 0).loaded = true ∧ ((s.tile T0).fabric.context 1).loaded = true ∧
    ((s.tile T0).fabric.context 2).loaded = false ∧ (s.strand S0).level ≠ .U ∧ descriptorBad p.2.1.toNat = false := by decide +kernel

theorem witness_GuardsAndBindings :
    (let w := 0x800F7FFF
     field w 15 1 = 0 ∧ field w 20 11 = 0 ∧ w < 2 ^ 32 ∧ w.testBit 31 = true) ∧
    (let w := 0x4FF
     let z := 0xFFFFFF3F
     w < 2 ^ 12 ∧ field z 6 2 = 0 ∧ z < 2 ^ 32 ∧ w.testBit 10 = true ∧ w.testBit 11 = false) ∧
    (∀ q ∈ ((cfgState 0 0 none).tile T0).fabric.bindings, ¬ (q.out = true ∧ q.ch = 63)) ∧
    ((portOut 0).tile T0).fabric.bindings.any (fun q => q.out = true && q.ch = 5) = true ∧ (cfgState 0 0 (some 0)).routeFeeds E0 3 = false ∧
    entryOk (packElem 2 0 1 8 7 9 0) 0x30 = true ∧ field 1024 10 2 = 1 ∧ field 2048 10 2 = 2 ∧ field 2048 8 2 = 0 := by decide +kernel

theorem witness_Offers : ((cfgState 2 2048 (some 0)).tile T0).fabric.decides 0 0 = true ∧
    { ((cfgState 2 2048 (some 0)).tile T0).fabric with decided := some 1 }.decides 0 0 = false := by decide +kernel
theorem test_cfg_sel : nextHas (exec (.cfgSel 3 4) (cfgState 1 0 none)) (fun s => (s.tile T0).fabric.selected = some 1) = true := by decide +kernel
theorem test_cfg_sel_other : nextHas (exec (.cfgSel 3 4) (cfgState 1 0 (some 0))) (fun s => (s.tile T0).fabric.decided = some 1) = true := by decide +kernel
theorem test_cfg_wr : nextHas (exec (.cfgWr 3 4 5) (cfgState 7 (2 ^ 10 + 2 ^ 12 + 5) none)) (fun s =>
    ((s.tile T0).fabric.context 0).lit 5 1 = 7 && s.xr S0 3 = 0) = true := by decide +kernel
theorem test_cfg_guard : nextHas (exec (.cfgGuard 3 4) (cfgState 0x80000001 0 none)) (fun s => (s.tile T0).fabric.gcol = 1) = true := by decide +kernel

/-- The header of a valid image of one tile whose section holds context 0, and a strand that waits for an area's end. -/
def imageHeader : Nat := 0x43474649 + 1 * 2 ^ 32 + 1 * 2 ^ 48 + 1 * 2 ^ 64 + sectionLen 1 * (2 ^ 48 * 2 ^ 48) + (64 + sectionLen 1) * 2 ^ 128 +
  (64 + sectionLen 1 + 4627) * (2 ^ 80 * 2 ^ 80)
def areaState (m : Mem) (w : Wait) : State := { blockedOn w (cfgState 1 0 none) with mem := m }
def imageMem : Mem := Mem.write [] 0x2000 (leBytes 64 imageHeader)
def savedState : State := (areaState [] (.cfgSave 3 0x2000 true)).modTile T0 fun v => { v with fabric := { v.fabric with snap := some 0 } }

/-- The pages of an area translate, and then a context is still selected or none, and context 1 is not in use. -/
def pagesOk (sel : Option Nat) (acc : Access) (r : Nat × State) : Bool :=
  okHas (checkPlaces S0 ((cfgState 2 0 sel).strand S0) acc (pageStarts 0x2000 r.1) r.2) fun z =>
    decide ((z.tile T0).fabric.selected = sel) && !(z.tile T0).fabric.inUse 1
theorem witness_AreasBegin (sel : Option Nat) (h : sel = none ∨ sel = some 0) :
    MayIssue (cfgState 2 0 sel) S0 ∧ Settled (cfgState 2 0 sel) S0 [3, 4] ∧ ((cfgState 2 0 sel).strand S0).acquiring = false ∧
    (((cfgState 2 0 sel).strand S0).ar 2).toNat % 128 = 0 ∧
    (∃ r, headLength 64 (fun h => if imageHeaderOk h then field h 160 32 else 0) S0 ((cfgState 2 0 sel).strand S0) 0x2000 (advance S0 4 (cfgState 2 0 sel)) = .ok r ∧
      pagesOk sel .read r = true) ∧
    (∃ r, headLength 64 (fun h => sectionLen (field h 72 4)) S0 ((cfgState 2 0 sel).strand S0) 0x2000 (advance S0 4 (cfgState 2 0 sel)) = .ok r ∧
      pagesOk sel .read r = true) ∧
    (∃ r, headLength 128 restLen S0 ((cfgState 2 0 sel).strand S0) 0x2000
      (advance S0 4 (cfgState 2 0 sel)) = .ok r ∧ pagesOk sel .read r = true) ∧
    pagesOk sel .write (areaLen (((cfgState 2 0 sel).tile T0).fabric.ctxs.toList.filter (·.loaded)).length 0, advance S0 4 (cfgState 2 0 sel)) = true := by
  rcases h with rfl | rfl <;> and_intros <;> first | decide +kernel | exact ok_with (by decide +kernel)

theorem witness_AreaChecks :
    (∃ q, checkImage T0 S0 (2 ^ 78) .none (areaState [] (.cfgCheck 3 (2 ^ 78) .none)) = .error q ∧ q.isSome = true) ∧
    (∃ r, areaRead S0 (areaEng T0 S0 (areaState [] (.cfgCheck 3 0x2000 .none))) 0x2000 64 (areaState [] (.cfgCheck 3 0x2000 .none)) = .ok r ∧
      imageHeaderOk (leNat r.1) = false) ∧
    (∃ r, areaRead S0 (areaEng T0 S0 (areaState imageMem (.cfgCheck 3 0x2000 .none))) 0x2000 64 (areaState imageMem (.cfgCheck 3 0x2000 .none)) = .ok r ∧
      imageHeaderOk (leNat r.1) = true) ∧
    (∃ r, areaRead S0 (areaEng T0 S0 (areaState imageMem (.cfgCheck 3 0x2000 .none))) 0x2000 (field imageHeader (2 * 80) 32) (areaState imageMem (.cfgCheck 3 0x2000 .none)) = .ok r) ∧
    Keys.slot (Vector.replicate 4 (some [])) 0 ≠ none ∧
    ((areaState imageMem (.cfgCheck 3 0x2000 .none)).strand S0).level ≠ .U ∧
    (∃ r, readSection S0 (areaEng T0 S0 (areaState [] (.cfgLoad 3 0x2000 1))) 0x2000 (areaState [] (.cfgLoad 3 0x2000 1)) = .ok r) ∧
    (∃ r, areaRead S0 (areaEng T0 S0 (areaState [] (.cfgRest 3 0x2000))) 0x2000 128 (areaState [] (.cfgRest 3 0x2000)) = .ok r) ∧
    (∃ r, areaRead S0 (areaEng T0 S0 (areaState [] (.cfgRest 3 0x2000))) 0x2000 (restLen 0) (areaState [] (.cfgRest 3 0x2000)) = .ok r) ∧
    (savedState.strand S0).status = .blocked (.cfgSave 3 0x2000 true) ∧ (savedState.tile T0).snapped = true := by
  refine ⟨error_with ?_, ok_with ?_, ok_with ?_, ok_any ?_, ?_, ?_, ok_any ?_, ok_any ?_, ok_any ?_, ?_, ?_⟩ <;> decide +kernel

theorem witness_AreaSaved (bs : List Byte) (h : bs.length = 202 * 1000) : ∃ s, spanWrite (areaEng T0 S0 savedState) 0x2000 bs savedState = .ok s := by
  unfold spanWrite
  rw [h]
  obtain ⟨v, hv⟩ := ok_any (r := spanPlaces (areaEng T0 S0 savedState) .write (spanFuel (202 * 1000)) 0x2000 (202 * 1000) savedState) (by decide +kernel)
  exact ⟨_, by rw [hv]⟩

/-- A port with a command in progress. -/
def portState (o : BitVec 2) (n : Nat) : State := { mk id fun v => { v with port := { v.port with busy := true, cmd := o, target := 0x2000, which := 1 } } with now := n }
theorem witness_Port : base.enabled T0 = true ∧ (base.tile T0).port.busy = false ∧ ((portState 2 465).tile T0).port.busy = true ∧
    ((portState 2 465).tile T0).port.start + 64 + 401 * maskCount ((portState 2 465).tile T0).port.which.toNat ≤ (portState 2 465).now ∧
    (∃ r, portLoad T0 0x2000 0 (portState 0 0) = .ok r ∧ r.1 = 1) ∧ (∃ r, portCheck T0 0x2000 .none (portState 1 0) = .ok r ∧ r.1 = 1) ∧
    (∃ c, portCheck T0 (2 ^ 78) .none (portState 1 0) = .error c ∧ c.isSome = true) := by
  refine ⟨?_, ?_, ?_, ?_, ok_with ?_, ok_with ?_, error_with ?_⟩ <;> decide +kernel
theorem test_cfg_check_header : nextHas (exec (.cfgCheckDone S0) (areaState [] (.cfgCheck 3 0x2000 .none))) (fun s => s.xr S0 3 = 1) = true := by decide +kernel
/-- FIPS 202's digest of the empty message. -/
theorem test_sha3_empty : (sha3 []).toNat % 2 ^ 128 = 0x6e755a18dc67b5c8c59a3aa2cc739fa6 := by decide +kernel
theorem test_port_command : nextHas (exec (.cpCheck T0) base) (fun s => (s.tile T0).port.busy && (s.tile T0).port.cmd = 1) = true := by decide +kernel

/-! ### Launches and teams -/

/-- A launch record: ENTRY 0x10000, one tile, one strand with one lane group, priority 3, no arguments, with a dependence on the word at 0x9000 or with none, and with
the signal word at 0x9008 or with none; and the state of a strand that launches it, at level M with context 0 valid, or at level U with the record in TMEM. -/
def launchBits (prio deps sig : Nat) : Nat :=
  0x10000 + prio * 2 ^ 110 + deps * 2 ^ 114 + 1 * 2 ^ 240 + sig * (2 ^ 160 * 2 ^ 160) + 1 * (2 ^ 208 * 2 ^ 208) + 0x9000 * (2 ^ 224 * 2 ^ 224) + 5 * (2 ^ 176 * 2 ^ 176 * 2 ^ 176)
def launchState (r : Nat) (op h : Word) : State :=
  { (mk (withX [(4, h), (5, op)] 0x2000) id).modQuad 0 fun q => { q with ctxcnt := 1 } with mem := Mem.write [(0, 1)] 0x2000 (leBytes 128 r) }
def launchU (r : Nat) : State :=
  mk (fun t => { withX [(4, 0), (5, 0)] 0xFFFFF00000001C000000 t with level := .U }) fun v => { v with tmem := Mem.write [] 0 (leBytes 128 r) }
/-- A launch in a state, with one team in a state; a table full of launches. -/
def teamOf (s : TeamState) : Team := { state := s, since := 0, claim := false }
def launchOf (s : LaunchState) (r : Nat) (l : List Team) : Launch :=
  { record := parseLaunch r, entry := ⟨true, 0, 0, 0⟩, state := s, met := [false], stamp := 0, teams := l, signal := true, doneAt := 0 }
def withLaunch (l : Launch) (s : State) : State := s.modQuad 0 fun q => { q with launches := [(7, { launch := some l })] }
def fullTable (r : Nat) : State := (launchState r 0 0).modQuad 0 fun q =>
  { q with launches := (List.range 512).map fun n => (n, { launch := some (launchOf .ready r [teamOf .waiting]) }) }
def handle7 : Word := BitVec.ofNat 64 (2 ^ 63 + 7)

theorem witness_Launch (r : Nat) (h : r = launchBits 3 0 0 ∨ r = launchBits 15 0 0 ∨ r = launchBits 3 5 0 ∨ r = launchBits 3 1 0x9008) :
    let st := launchState r 0 0
    MayIssue st S0 ∧ Settled st S0 [3, 4, 5] ∧ (st.strand S0).acquiring = false ∧ ((st.strand S0).ar 2).toNat % 128 = 0 ∧
    recordAt S0 (st.strand S0) 0x2000 128 false (advance S0 4 st) = .ok (hbm 0x2000, advance S0 4 st) ∧
    recordBits (st.strand S0) (hbm 0x2000) 0x2000 128 (advance S0 4 st) = .ok r ∧
    checkPlaces S0 (st.strand S0) .read (if recordDeps r ≤ 4 then (parseLaunch r).deps.map (·.1) else []) (advance S0 4 st) = .ok (advance S0 4 st) ∧
    checkPlaces S0 (st.strand S0) .write (if (parseLaunch r).sig = 0 then [] else [(parseLaunch r).sig]) (advance S0 4 st) = .ok (advance S0 4 st) ∧
    (launchCode 0 .M r (advance S0 4 st)).isSome = decide (r = launchBits 3 5 0) ∧ ((advance S0 4 st).launchSlot 0 511).free = true := by
  rcases h with rfl | rfl | rfl | rfl
  all_goals (and_intros <;> first | decide +kernel | exact eq_ok (by decide +kernel))
theorem witness_LaunchAtU (r : Nat) (h : r = launchBits 9 0 0 ∨ r = launchBits 10 0 0) :
    let st := launchU r
    MayIssue st S0 ∧ Settled st S0 [3, 4, 5] ∧ (st.strand S0).level = .U ∧
    (∃ v, recordAt S0 (st.strand S0) 0xFFFFF00000001C000000 128 false (advance S0 4 st) = .ok v ∧ v.1.loc = .tmem T0 0) ∧
    recordBits (st.strand S0) ⟨.tmem T0 0, false, 0, false, none⟩ 0xFFFFF00000001C000000 128 (advance S0 4 st) = .ok r ∧
    ((parseLaunch r).prio < 10 ∧ (parseLaunch r).ctx = 0 ↔ r = launchBits 9 0 0) ∧ launchCode 0 .U r (advance S0 4 st) = none := by
  rcases h with rfl | rfl
  all_goals (and_intros <;> first | decide +kernel | exact eq_ok (by decide +kernel) | exact ok_with (by decide +kernel))
theorem witness_TableFull : ∀ n, n < 512 → ((fullTable (launchBits 3 0 0)).launchSlot 0 n).free = false := by
  intro n hn
  unfold fullTable State.launchSlot
  rw [State.quad_modQuad_self]
  simp only [amGet_map_const n _ _ (List.mem_range.mpr hn)]
  decide +kernel
theorem witness_Lstat :
    ((launchState 0 2 0).xr S0 5).toNat = 2 ∧ (advance S0 4 (launchState 0 1 0)).handled S0 0 = none ∧
    (advance S0 4 (withLaunch (launchOf .ready (launchBits 3 0 0) [teamOf .waiting]) (launchState 0 1 handle7))).handled S0 handle7.toNat =
      some (7, launchOf .ready (launchBits 3 0 0) [teamOf .waiting]) ∧ (launchOf .ready (launchBits 3 0 0) [teamOf .waiting]).status = 2 ∧
    (launchOf .pending (launchBits 3 1 0) [teamOf .waiting]).status = 1 ∧ (launchOf .done (launchBits 3 0 0) [teamOf .ended]).status ≠ 1 ∧
    (launchOf .done (launchBits 3 0 0) [teamOf .ended]).status ≠ 2 := by decide +kernel

theorem test_launch_invalid : nextHas (exec (.launch 3 2) (launchState (launchBits 3 5 0) 0 0)) (fun s => (s.strand S0).mt.cause.toNat % 256 = cLaunchInvalid.toNat &&
    (s.strand S0).mt.detail = 2) = true := by decide +kernel
theorem test_launch_privilege : nextHas (exec (.launch 3 2) (launchU (launchBits 10 0 0))) (fun s => (s.strand S0).st.cause.toNat % 256 = cPrivilege.toNat) = true := by
  decide +kernel
theorem test_lstat_cancel : nextHas (exec (.lstat 3 4 5) (withLaunch (launchOf .ready (launchBits 3 0 0) [teamOf .waiting]) (launchState 0 1 handle7))) (fun s =>
    (s.launchAt 0 7).map (·.state) = some .cancelled) = true := by decide +kernel

/-- A finished launch in slot 7 whose signal is still due, so that the slot is free and the launch goes on. -/
def signalling : State := withLaunch (launchOf .done (launchBits 3 0 0x9008) [teamOf .ended]) (launchState (launchBits 3 0 0) 0 0)
theorem witness_SlotTaken : ((advance S0 4 signalling).launchSlot 0 7).free = true ∧ ((advance S0 4 signalling).launchSlot 0 7).unfinished = true ∧
    launchCode 0 .M (launchBits 3 0 0) (advance S0 4 signalling) = none := by decide +kernel

/-- A launch whose words translate by a held page, at 0x9000 and 0x9008 with 6 there; one whose words do not. -/
def pageEntry : TlbEntry := ⟨0, 17, 0, true, 0, 0, 0⟩
def depState (v : Byte) : State :=
  { withLaunch (launchOf .pending (launchBits 3 1 0x9008) [teamOf .waiting]) base with mem := if v = 0 then [] else [(0x9000, v), (0x9008, v)] }
theorem witness_Readiness :
    (depState 6).launchAt 0 7 = some (launchOf .pending (launchBits 3 1 0x9008) [teamOf .waiting]) ∧
    (launchOf .pending (launchBits 3 1 0x9008) [teamOf .waiting]).record.deps[0]? = some (0x9000, 5) ∧
    (∃ e, launchPlace (launchXl 0 (launchOf .pending (launchBits 3 1 0x9008) [teamOf .waiting])) 0x9000 .read (depState 6) = .error e ∧ e.isSome = true) ∧
    (∃ r, launchPlace (launchXl 0 (launchOf .pending (launchBits 3 1 0x9008) [teamOf .waiting])) (BitVec.ofNat 80 (twb + 0x1C000000)) .read (depState 6) = .error r ∧
      r.isSome = true) ∧ readPhys (hbm 0x9000) 8 (depState 6) = .ok 6 ∧ ∃ r, atomicUpdate none (hbm 0x9008) .add 8 0 0 (depState 6) = .ok r := by
  and_intros <;> first | decide +kernel | exact eq_ok (by decide +kernel) | exact ok_any (by decide +kernel) | exact error_with (by decide +kernel)

/-- A ready launch with a team that waits, claims, runs on tile 0 or drains there. -/
def readyLaunch (l : List Team) : State := withLaunch (launchOf .ready (launchBits 3 0 0) l) State.reset
def claimant : Team := { teamOf .waiting with claim := true }
def onTile (s : TeamState) (t : Tile → Tile) (u : Strand → Strand) (now : Nat) : State :=
  { withLaunch (launchOf .ready (launchBits 3 0 0) [teamOf s]) (mk u fun v => t { v with res := some ⟨7, 0, 0, 0, 0, 1, 0, 1, 0, 0, 1, 1⟩ }) with now := now }
def waiter7 (t : Team) : Waiter := ⟨7, 0, launchOf .ready (launchBits 3 0 0) [t], t⟩

theorem witness_Placement :
    (readyLaunch [teamOf .waiting]).waiter 0 7 0 = some (waiter7 (teamOf .waiting)) ∧ (teamOf .waiting).state.isSaved = false ∧
    (readyLaunch [teamOf .waiting]).nextPlaced 0 (waiter7 (teamOf .waiting)) 0 0 = true ∧ (teamOf .waiting).claim = false ∧
    (waiter7 (teamOf .waiting)).launch.record.twm1 = 0 ∧ (waiter7 (teamOf .waiting)).launch.record.thm1 = 0 ∧
    (readyLaunch [claimant]).waiter 0 7 0 = some (waiter7 claimant) ∧ (readyLaunch [claimant]).heldBack 0 (waiter7 claimant) = false := by decide +kernel
theorem witness_TeamRuns :
    ((onTile (.resident 0 0 0) (fun v => { v with started := false }) id 48).launchAt 0 7).bind (·.team 0) = some (teamOf (.resident 0 0 0)) ∧
    (onTile (.resident 0 0 0) (fun v => { v with started := false }) id 48).teamTiles 0 7 0 = [T0] ∧
    ((onTile (.resident 0 0 0) (fun v => { v with started := false }) id 48).tile T0).region = 0 ∧
    (onTile (.resident 0 0 0) id (fun _ => {}) 48).tileOver T0 = true ∧ ((onTile (.resident 0 0 0) id (fun _ => {}) 48).tile T0).started = true ∧
    (onTile (.resident 0 0 0) id id 48).tileOver T0 = false := by decide +kernel
theorem witness_TeamSwaps :
    ((onTile (.draining 0 0) (fun v => { v with life := .saving }) id 48).launchAt 0 7).bind (·.team 0) = some (teamOf (.draining 0 0)) ∧
    (onTile (.draining 0 0) (fun v => { v with life := .saving }) id 48).teamTiles 0 7 0 = [T0] ∧
    (onTile (.draining 0 0) (fun v => { v with life := .saving }) id 48).drainedTile T0 = true ∧
    (onTile (.draining 0 0) (fun v => { v with life := .saving }) id 48).tileOver T0 = false ∧
    (onTile (.draining 0 0) (fun v => { v with life := .saving }) (fun _ => {}) 48).tileOver T0 = true ∧
    (readyLaunch [teamOf (.saved ⟨[((0, 0), tile0, [(0, strand0)])], [], 0⟩)]).nextPlaced 0
      (waiter7 (teamOf (.saved ⟨[((0, 0), tile0, [(0, strand0)])], [], 0⟩))) 0 0 = true ∧
    (readyLaunch [teamOf (.saved ⟨[], [0], 0⟩)]).waiter 0 7 0 = some (waiter7 (teamOf (.saved ⟨[], [0], 0⟩))) ∧
    (readyLaunch [teamOf (.saved ⟨[], [0], 0⟩)]).intact 0 ⟨[], [], 0⟩ = true ∧
    { readyLaunch [teamOf (.saved ⟨[], [0], 0⟩)] with poison := [⟨.mem 0, 0⟩] }.intact 0 ⟨[], [0], 0⟩ = false := by decide +kernel

/-- A claimant of priority 3 over a fixed tile 0 whose team has priority 2 or 3, with a save pool of some blocks. -/
def fixedBits (prio : Nat) : Nat := launchBits prio 0 0 + 2 ^ 95
def contest (prio n : Nat) : State :=
  (mk id fun v => { v with res := some ⟨8, 0, 0, 0, 0, 1, 0, 1, 0, 0, 1, 1⟩ }).modQuad 0 fun q =>
    { q with nblk := BitVec.ofNat 24 n, chances := 4,
             launches := [(7, { launch := some (launchOf .ready (fixedBits 3) [claimant]) }),
                          (8, { launch := some (launchOf .ready (fixedBits prio) [teamOf (.resident 0 0 0)]) })] }
def contender : Waiter := ⟨7, 0, launchOf .ready (fixedBits 3) [claimant], claimant⟩

theorem witness_Preemption :
    (contest 2 100).waiter 0 7 0 = some contender ∧ (contest 2 100).heldBack 0 contender = false ∧ contender.team.weighed ≠ some ((contest 2 100).quad 0).chances ∧
    (contest 2 100).placement 0 contender = none ∧ (contest 2 100).promised 0 contender = none ∧ contender.team.claims (contest 2 100).now = true ∧
    (contest 3 100).firstFit 0 contender.launch.record contender.team.state.need
      (fun t => (contest 3 100).freeFor 0 contender t || (contest 3 100).freeable 3 t) = none ∧
    (contest 2 100).firstFit 0 contender.launch.record contender.team.state.need
      (fun t => (contest 2 100).freeFor 0 contender t || (contest 2 100).freeable 3 t) = some (0, 0) ∧
    (contest 2 0).poolRoom 0 ((contest 2 0).victims 0 contender.launch.record 0 0) = false ∧
    (contest 2 100).poolRoom 0 ((contest 2 100).victims 0 contender.launch.record 0 0) = true := by decide +kernel

/-- R314: the strand starts at ENTRY at level U with its stack pointer set. -/
theorem test_team_place : nextHas (exec (.teamPlace 0 7 0 0 0) (readyLaunch [teamOf .waiting])) (fun s => (s.strand S0).status = .running && (s.strand S0).level = .U &&
    (s.strand S0).pc = 0x10000 && (s.strand S0).ar 15 = 0xFFFFF00000001C300000) = true := by decide +kernel
theorem test_team_end : nextHas (exec (.teamEnd 0 7 0) (onTile (.resident 0 0 0) id (fun _ => {}) 48)) (fun s => (s.tile T0).life = .clearing &&
    (s.launchAt 0 7).map (·.state) = some .done) = true := by decide +kernel
theorem test_preempt : nextHas (exec (.preemptDecision 0 7 0) (contest 2 100)) (fun s => (s.tile T0).life = .saving) = true := by decide +kernel

/-! ### The platform -/

theorem witness_Resets : (∀ q, ((inReset State.reset).quad q).inReset = true) ∧ (inReset State.reset).dev.rot = 0 ∧
    { State.reset with dev := { State.reset.dev with rot := 1 } }.dev.rot ≠ 0 ∧ (0xA4 : BitVec 8) ≠ 0xA5 ∧ (3 : Fin 4) ≠ 0 ∧
    (∀ w ∈ [Asker.host, .levelS, .levelM], { base with dev := { base.dev with asks := [w] } }.dev.asks = w :: []) := by decide +kernel
theorem test_reset_registers : (State.reset.strand (bootStrand 2)).pc = 0 ∧ (State.reset.strand (bootStrand 2)).x = Vector.replicate 32 0 := by decide +kernel
theorem test_mgmt_reset : nextHas (exec (.mgmtReset 0xA5) base) (fun s => (s.strand S0).status = .free && (s.quad 3).inReset) = true := by decide +kernel

/-- A state with a SPLIT reservation for the line at 0x2000, and a state whose link port 15 is in a state. -/
def splitState : State := { base with ranges := [⟨T0, 0, true, 2, [64], [], []⟩] }
def portAt (n : BitVec 2) : State := setPort 15 { state := n, lanes := 4, retrain := 0xFFFF, replay := 0xFFFFFF } base

theorem witness_Outside :
    base.own 0x2000 = true ∧ regionOf (localOf 0x2000) = .hbm ∧ 0x2078 % 128 + 8 ≤ 128 ∧ (leBytes 8 1).length = 8 ∧ base.meets none true (.mem 0x2078) 8 = .free ∧
    splitState.meets none false (.mem 0x2000) 8 = .cut ∧ splitState.meets none true (.mem 0x2000) 8 = .cut ∧ amoOfCode 10 = some .cas ∧ amoOfCode 0 = some .add ∧
    0x2000 % 8 = 0 ∧ base.homed 64 = true ∧ base.homed (2 ^ 49) = false ∧ base.own (128 * 2 ^ 49) = false ∧
    base.own (128 * 2 ^ 33) = true ∧ regionOf (localOf (128 * 2 ^ 33)) = .cxl ∧ (leBytes 8 1) ≠ [] ∧ 0x7FFFFFFFF8 + 8 ≤ 0x8000000000 ∧
    0x1FFFFF8 % 8 = 0 ∧ 0x1FFFFF8 < 0x2000000 ∧ ((portAt 0).port 15).state = 0 ∧ ((portAt 1).port 15).state = 1 ∧ ((portAt 1).port 15).retrain ≠ 0 ∧
    ((portAt 2).port 15).state = 2 ∧ (base.strand S0).status.alive = true := by decide +kernel
theorem test_ndeit_atomic : nextHas (exec (.ndeitAtomic 0 0x2000 4 7 0) (word 5)) (fun s => s.mem.get 0x2000 = 12) = true := by decide +kernel
theorem test_retrain : nextHas (exec (.linkRetrain 15) (portAt 2)) (fun s => (s.port 15).state = 1 && (s.port 15).retrain = 0xFFFF) = true := by decide +kernel

/-! ### Events of the system -/

def asyncRec : TrapRec := ⟨cMachineCheck, 1, true, 0, 0, 0, 0⟩
def leavingState : State := mk (fun t => { t with status := .exiting }) id
theorem witness_TrapEvents :
    ((mk (fun t => { t with pend := [asyncRec] }) id).strand S0).pend = asyncRec :: [] ∧ (mk (fun t => { t with pend := [asyncRec] }) id).coreRuns S0.core = true ∧
    ((mk (fun t => { t with pend := [asyncRec] }) id).strand S0).status.interruptible = true ∧
    ((mk (fun t => { t with pend := [asyncRec] }) id).strand S0).inhibited = false ∧
    ((mk (fun t => { t with due := some asyncRec }) id).strand S0).due = some asyncRec ∧ (mk (fun t => { t with due := some asyncRec }) id).contends S0 = true ∧
    (mk (fun t => { t with due := some asyncRec }) id).asyncDue S0 = false ∧
    (leavingState.strand S0).status = .exiting ∧ leavingState.retired S0 = true ∧ leavingState.parting S0.core = false ∧
    ((mk (fun t => { t with pend := [asyncRec], heard := 5 }) id).strand S0).asyncRipe 0 = true ∧
    ((mk (fun t => { t with pend := [asyncRec], news := 1 }) id).strand S0).asyncRipe 0 = false ∧ (mk (fun t => { t with pend := [asyncRec] }) id).slotOpen S0.core = true := by decide +kernel

/-- Tables of four levels whose entries of index 0 lead to a leaf with every right, and a strand at level U that translates by them. -/
def pageTables : Mem :=
  (Mem.write (Mem.write (Mem.write (Mem.write (Mem.write [] 0x20000 (leBytes 16 (1 + 2 * 2 ^ 17))) 0x40000 (leBytes 16 (1 + 3 * 2 ^ 17))) 0x60000
    (leBytes 16 (1 + 4 * 2 ^ 17))) 0x80000 (leBytes 16 (1 + 5 * 2 ^ 17))) 0xA0000 (leBytes 16 (0x3F + 6 * 2 ^ 17)))
def userEntry : CtxEntry := ⟨true, 1, 0, 0⟩
def userState : State := { mk (fun t => { t with level := .U, ctx := some userEntry }) id with mem := pageTables }

theorem witness_Walk :
    (userState.strand S0).status ≠ .free ∧ (userState.strand S0).level ≠ .M ∧ inWindow 0x123 = false ∧
    strandXl S0 userState = (⟨S0.core, .U, some userEntry⟩, userState) ∧ (userState.tlbFind ⟨S0.core, .U, some userEntry⟩ userEntry .write 0x123).1 = none ∧
    (∃ r, walkFill ⟨S0.core, .U, some userEntry⟩ userEntry .write 0x123 (countMiss S0.core true true userState) = .ok r ∧ r.1.entry = 0x1BF + 6 * 2 ^ 17) := by
  and_intros <;> first | decide +kernel | exact ok_with (by decide +kernel)

/-- Context 0 valid in memory or absent, a key command in progress, and a strand that alone runs on its core. -/
def contexts (n : Word) : State := { base.modQuad 0 fun q => { q with ctxcnt := n } with mem := [(0, 1)] }
def keyState (b : Bool) (bad : Bool) : State :=
  { base.modQuad 0 fun q => { q with fkeycmd := { q.fkeycmd with run := some (3, b, 0x4000) } } with poison := if bad then [⟨.mem 128, 0⟩] else [] }
theorem witness_SystemWrites :
    ((contexts 1).strand S0).level ≠ .U ∧ ((contexts 1).ctxEntry 0 0).isSome = true ∧ (contexts 0).ctxEntry 0 0 = none ∧ (base.quad 0).fkeycmd.run = none ∧
    ((keyState false false).quad 0).fkeycmd.run = some (3, false, 0x4000) ∧ (keyState false false).poisoned (.mem ((keyState false false).globalPa 0x4000)) 2592 = false ∧
    (keyState false true).poisoned (.mem ((keyState false true).globalPa 0x4000)) 2592 = true ∧ 0x1FFFFF8 % 8 = 0 := by decide +kernel
theorem witness_InstructionFill :
    (base.strand S0).status = .running ∧ (base.strand S0).pc.toNat / 128 = 32 ∧ (∀ n : BitVec 3, n ≠ 0 → (base.strand ⟨.tile T0, n⟩).status = .free) ∧
    strandXl S0 base = (⟨.tile T0, .M, none⟩, base) ∧ base.reach (.mem 0x1000) = .ok ∧ base.poisoned (.mem 0x1000) 128 = false ∧
    (∃ r, translate ⟨.tile T0, .M, none⟩ 0x1000 .fetch base = .ok r ∧ r.1.loc = .mem 0x1000) := by
  and_intros <;> first | decide +kernel | exact ok_with (by decide +kernel)

/-- A full/empty load of four elements from TMEM whose granule is full. -/
def feEntry : VEntry := { entryOf (.ld .fe 1 0xFFFFF00000001C000000) with started := true, conf := some (4, 9) }
def feState : State := { mk (fun t => { t with queue := [feEntry], vvl := 4, vvcfg := 9 }) fun v => { v with tmem := [(0, 7)], full := [0] } with now := 3 }
def feCtx : VCtx := ⟨S0, feEntry, ⟨0, 32, some 0⟩, 4, 9⟩
theorem witness_FullEmptyGroup : (feState.strand S0).held = false ∧ entryCtx S0 0 feState = some feCtx ∧ feCtx.x.op.fullEmpty = true ∧
    ∃ r, groupRun S0 0 feCtx feState = some r ∧ (r.strand S0).queue = [] := by
  and_intros <;> first | decide +kernel | rfl | exact some_with (by decide +kernel)
theorem test_fe_load : nextHas (exec (.vldFeGroupProceed S0 0) feState) (fun s => s.elem S0 ⟨0, 32, some 0⟩ 1 32 0 = 7) = true := by decide +kernel

/-! ### General statements -/

/-- A state whose save pool holds the image of a team. -/
def withImage : State := readyLaunch [teamOf (.saved ⟨[((0, 0), tile0, [(0, strand0)])], [0], 0⟩)]
theorem witness_Canonical : State.reset.mem.wf = true ∧ (word 5).mem.wf = true ∧ nextHas (step State.reset) (fun _ => true) = true ∧
    StorageOk State.reset ∧ StorageOk withImage ∧ ∀ p ∈ (withImage.quad 0).launches, ∀ l ∈ p.2.launch, ∀ m ∈ l.teams, m.state.isSaved = true := by
  decide +kernel
theorem witness_Images : ImagesOk State.reset ∧ ImagesOk withImage := by
  have one : ∀ s : State, (∀ q : BitVec 2, (s.quad q).launches.all (fun p => p.2.launch.all fun l => l.teams.all fun m =>
      match m.state with | .saved im => im.tiles.all fun v => decide (TileOk v.2.1) | _ => true) = true) → ImagesOk s := by
    intro s h q p hp l hl m hm im he v hv
    have a := List.all_eq_true.mp (h q) p hp
    rw [hl] at a
    have b := List.all_eq_true.mp a m hm
    rw [he] at b
    exact of_decide_eq_true (List.all_eq_true.mp b v hv)
  exact ⟨one _ (by decide +kernel), one _ (by decide +kernel)⟩
theorem witness_Encode : (Instr.sbr 4 2 3 0 0 2 0xA (-3)).wellFormed = true ∧ encode (.sbr 4 2 3 0 0 2 0xA (-3)) ≠ [] ∧
    (Instr.elemSteer 3 1 2 9 2).wellFormed = true ∧ encode (.elemSteer 3 1 2 9 2) ≠ [] := by decide +kernel

/-- A state whose next moves an environment ordered: an issue of ADD, of the two-parcel SBR, of a three-parcel LIQ, an event, a firing. -/
def program : Mem := Mem.write [] 0x1000 (leBytes 4 0x00148304 ++ leBytes 4 0x40064465 ++ leBytes 4 0xFFFFFD0A)
def ordered (a : Act) (pc : Addr) : State := { mk (fun t => { t with pc := pc }) id with mem := program, sched := [⟨1, false, a⟩] }
def ticked (a : Act) (pc : Addr) : State := { tick 1 false (ordered a pc) with sched := [], cur := .strand S0 }
def issueAlone : Act := .issue S0.core 0xFE
theorem witness_StepIssue (pc : Addr) (h : pc = 0x1000 ∨ pc = 0x1004) :
    (ticked issueAlone pc).slotOpen S0.core = true ∧ (ticked issueAlone pc).coreRuns S0.core = true ∧ (0xFE : BitVec 8).getLsbD S0.slot.toNat = false ∧
    (∀ j ∈ slots S0.core, j ≠ S0 → (0xFE : BitVec 8).getLsbD j.slot.toNat = true) ∧
    (ticked issueAlone pc).asyncDue S0 = false ∧ (ticked issueAlone pc).contends S0 = true ∧
    (∃ f, strandIssue S0 (ticked issueAlone pc) = .next f ∧ f.idle = false) ∧
    (∃ v, fetchParcels S0 pc (ticked issueAlone pc) = .ok v ∧
      okHas (decode v.1.1 v.1.2.1 v.1.2.2) (fun n => n.wellFormed && decide (n = if pc = 0x1000 then .add 3 4 5 else .sbr 4 2 3 0 0 2 0xA (-3))) = true) := by
  rcases h with rfl | rfl <;> and_intros <;> first | decide +kernel | exact next_with (by decide +kernel) | exact ok_with (by decide +kernel)

/-- Two strands of a core are ready; the one issues that the policy picks. -/
def twoReady : State := { ticked issueAlone 0x1000 with strands := [(S0, { strand0 with pc := 0x1000, age := 5 }), (⟨.tile T0, 1⟩, { strand0 with pc := 0x1000, age := 3 })] }
theorem witness_StepPicks : (readyStrands S0.core 0 twoReady).map (·.1) = [S0, ⟨.tile T0, 1⟩] ∧
    (pickSlot S0.core (readyStrands S0.core 0 twoReady) twoReady).map (·.1) = some ⟨.tile T0, 1⟩ := by decide +kernel
theorem witness_StepParts :
    (∃ v, fetchParcel S0 0x1000 base = .ok v ∧ v.1.extractLsb' 0 2 = 0) ∧ ((base.core S0.core).line none (0x1000 / 128)) = none ∧
    base.reach (.mem 0x1000) ≠ .wait ∧ encode (.slotFree S0) = [] ∧ (∀ i, Instr.slotFree S0 ≠ .fetchTrap i) ∧ State.reset.sched = [] ∧
    (defaultIssue { ordered issueAlone 0x1000 with sched := [] }).isSome = true ∧
    (elemState (packElem 3 0 1 8 7 9 0) 0x30 (oneElem 9)).choose E0 = some ⟨0, none, [], packElem 3 0 1 8 7 9 0⟩ ∧
    (∃ n, decodeElem (packElem 3 0 1 8 7 9 0) = .ok n ∧ n = .elemSub 0 1 8 7 9) := by
  and_intros <;> first | decide +kernel | exact ok_with (by decide +kernel) | nofun
theorem test_step_add : nextHas (step (ordered issueAlone 0x1000)) (fun s => (s.strand S0).pc = 0x1004 && (s.strand S0).issued = 1) = true := by decide +kernel

/-- The premises of the frame statements: a store and an atomic in HBM and in TMEM, a load, and canonical storage. -/
theorem witness_Frames : sc.cur = .strand S0 ∧ StorageOk (word 5) ∧ (word 5).own 0x2000 = true ∧ regionOf (localOf 0x2000) = .hbm ∧
    nextHas (exec (.amadd 1 2 3) (word 5)) (fun s => (s.strand S0).issued = 1 && s.mem.get 0x2000 = 10) = true ∧
    nextHas (exec (.ld 1 2 0) (word 5)) (fun s => (s.strand S0).issued = 1 && s.xr S0 1 = 5) = true ∧
    nextHas (exec (.sd 1 2 0) (word 5)) (fun s => (s.strand S0).issued = 1 && (s.strand S0).stores.length = 1) = true ∧
    ((sc.strand S0).ar 2 + 4 * (0 : BitVec 14).signExtend 80).toNat % 4 = 0 := by decide +kernel
theorem witness_Conversions :
    intFmt 11 = some (8, true) ∧ intFmt 9 = some (32, true) ∧ intFmt 12 = some (8, false) ∧ (0xFF : Nat) < 2 ^ 8 ∧
    (convert 11 12 .nearest true false 0 0xFF).1 = 0 ∧ (convert 11 12 .nearest true false 0 0x7F).1 = 0x7F ∧ (convert 12 11 .nearest true false 0 0x80).1 = 0x7F ∧
    (convert 12 11 .nearest false false 0 0x80).1 = 0x80 := by decide +kernel

end Sys2Proof.Tests
end

section
/-! PROOF. The state after reset, the resets, the boot and attestation (R17, R383, R420, R429 to R433). -/

namespace Sys2Proof.Machine

open Sys2Proof

/-! ### The meanings of the events -/

theorem exec_secondaryBusReset (s : State) : exec .secondaryBusReset s = .next (inReset s) := rfl

theorem exec_thermalShutdown (s : State) : exec .thermalShutdown s = .next (inReset s) := rfl

theorem exec_mgmtReset (b : Byte) (s : State) : exec (.mgmtReset b) s = .next (if b = 0xA5 then inReset s else s) := rfl

theorem exec_rootOfTrustBoot (s : State) : exec .rootOfTrustBoot s = execRootOfTrustBoot s := rfl

theorem exec_attestReport (nonce : BitVec 512) (s : State) : exec (.attestReport nonce) s = execAttestReport nonce s := rfl

theorem exec_attestExtend (n : Nat) (g : BitVec 512) (s : State) : exec (.attestExtend n g) s = execAttestExtend n g s := rfl

/-! ### Tables -/

/-- A key outside a list has no value in the table that gives each key of the list one value. -/
theorem amGet_map_const_of_not_mem {κ ν : Type} [DecidableEq κ] (k : κ) (v : ν) (l : List κ) (h : k ∉ l) :
    amGet k (l.map fun j => (j, v)) = none := by
  induction l with
  | nil => rfl
  | cons j r ih =>
    rw [List.mem_cons, not_or] at h
    obtain ⟨hj, hr⟩ := h
    simp [amGet, hj, ih hr]

theorem mem_allQuads (q : BitVec 2) : q ∈ allQuads := by
  revert q; decide

/-- A check that every quadrant passes holds of the whole vector of quadrants. -/
theorem State.all_quads (s : State) (p : Quad → Bool) (h : ∀ q, p (s.quad q) = true) : s.quads.toList.all p = true := by
  rw [List.all_eq_true]
  intro v hv
  obtain ⟨n, hn, rfl⟩ := Vector.getElem_of_mem (Vector.mem_toList_iff.mp hv)
  exact h ⟨⟨n, hn⟩⟩

/-! ### The state after reset (R17) -/

@[simp] theorem State.quad_reset (q : BitVec 2) : State.reset.quad q = {} := by
  simp [State.quad, State.reset, Vector.get]

/-- A reset leaves one strand in each quadrant, all alike, in slot 0 of its control core. -/
theorem State.strands_reset : State.reset.strands = (allQuads.map bootStrand).map fun j => (j, .boot) := rfl

theorem bootStrand_mem (q : BitVec 2) : bootStrand q ∈ allQuads.map bootStrand := List.mem_map_of_mem (mem_allQuads q)

@[simp] theorem State.strand_reset_bootStrand (q : BitVec 2) : State.reset.strand (bootStrand q) = .boot := by
  rw [State.strand, State.strands_reset, amGet_map_const _ _ _ (bootStrand_mem q), Option.getD_some]

/-- Every strand but slot 0 of a control core is free after a reset. -/
theorem State.bootStrand_of_strand_reset {i : StrandId} (hi : (State.reset.strand i).status ≠ .free) : ∃ q, i = bootStrand q := by
  by_contra hn
  have hm : i ∉ allQuads.map bootStrand := by
    intro h
    obtain ⟨q, -, rfl⟩ := List.mem_map.mp h
    exact hn ⟨q, rfl⟩
  rw [State.strand, State.strands_reset, amGet_map_const_of_not_mem _ _ _ hm] at hi
  exact hi rfl

theorem State.storageOk_reset : StorageOk State.reset := ⟨rfl, fun _ h => nomatch h⟩

theorem State.imagesOk_reset : ImagesOk State.reset := by
  intro q p hp
  simp at hp

/-! ### The device held in reset (R429, R430) -/

@[simp] theorem quad_inReset (s : State) (q : BitVec 2) :
    (inReset s).quad q = { inReset := true, tilemap := (s.quad q).tilemap } := by
  simp only [State.quad, inReset, Vector.get, Vector.toArray_map, Array.getElem_map]
  rfl

/-- A reset keeps a cell of memory only if it stood there, and it keeps none of this device's HBM. -/
theorem mem_mem_inReset {s : State} {c : Host.Cell} (h : c ∈ (inReset s).mem) :
    c ∈ s.mem ∧ ¬ (s.own c.1 = true ∧ regionOf (localOf c.1) = .hbm) := by
  obtain ⟨hm, hp⟩ := List.mem_filter.mp h
  exact ⟨hm, by simpa [imp_iff_not_or] using hp⟩

/-! ### The boot (R429) -/

@[simp] theorem dev_drawKeys (p : BitVec 2) (s : State) : (drawKeys p s).dev = s.dev := rfl

theorem inReset_drawKeys (p q : BitVec 2) (s : State) :
    ((drawKeys p s).quad q).inReset = if q = p then false else (s.quad q).inReset := by
  by_cases h : q = p
  · subst h; simp [drawKeys]
  · simp only [drawKeys, if_neg h, State.quad_modQuad_ne _ _ h]; rfl

@[simp] theorem launches_drawKeys (p q : BitVec 2) (s : State) : ((drawKeys p s).quad q).launches = (s.quad q).launches := by
  by_cases h : q = p
  · subst h; simp only [drawKeys, State.quad_modQuad_self]; rfl
  · simp only [drawKeys, State.quad_modQuad_ne _ _ h]; rfl

/-- The keys of some quadrants are drawn: these are released, with the device and every launch table as before. -/
theorem foldl_drawKeys (l : List (BitVec 2)) (s : State) :
    let r := l.foldl (fun s q => drawKeys q s) s
    r.dev = s.dev ∧ ∀ q, (r.quad q).inReset = (if q ∈ l then false else (s.quad q).inReset) ∧ (r.quad q).launches = (s.quad q).launches := by
  induction l generalizing s with
  | nil => simp
  | cons p l ih =>
    obtain ⟨hd, hq⟩ := ih (drawKeys p s)
    refine ⟨hd.trans (dev_drawKeys p s), fun q => ?_⟩
    obtain ⟨hi, hl⟩ := hq q
    refine ⟨hi.trans ?_, hl.trans (launches_drawKeys p q s)⟩
    rw [inReset_drawKeys]
    by_cases h : q = p <;> simp [h]

@[simp] theorem quad_readDevnum (s : State) (q : BitVec 2) : (readDevnum s).quad q = s.quad q := by
  unfold readDevnum; split <;> rfl

@[simp] theorem rot_readDevnum (s : State) : (readDevnum s).dev.rot = s.dev.rot := by
  unfold readDevnum; split <;> rfl

/-- The device after its firmware has verified: keys drawn, DEVNUM read, and slot 0 of each control core at the start of its memory. -/
def bootReleased (s : State) : State :=
  let s := readDevnum (allQuads.foldl (fun s q => drawKeys q s) s)
  { s with strands := State.reset.strands.map fun (k, t) => (k, { t with pc := BitVec.ofNat 80 (s.globalPa 0) }) }

theorem rot_bootReleased (s : State) : (bootReleased s).dev.rot = s.dev.rot :=
  (rot_readDevnum _).trans (congrArg Device.rot (foldl_drawKeys allQuads s).1)

theorem quad_bootReleased (s : State) (q : BitVec 2) :
    ((bootReleased s).quad q).inReset = false ∧ ((bootReleased s).quad q).launches = (s.quad q).launches := by
  obtain ⟨hi, hl⟩ := (foldl_drawKeys allQuads s).2 q
  rw [if_pos (mem_allQuads q)] at hi
  have h : (bootReleased s).quad q = (allQuads.foldl (fun s q => drawKeys q s) s).quad q := quad_readDevnum _ q
  exact ⟨h ▸ hi, h ▸ hl⟩

theorem strand_bootReleased (s : State) (q : BitVec 2) :
    (bootReleased s).strand (bootStrand q) = { Strand.boot with pc := BitVec.ofNat 80 ((bootReleased s).globalPa 0) } := by
  have h : (bootReleased s).strands = (allQuads.map bootStrand).map
      fun j => (j, { Strand.boot with pc := BitVec.ofNat 80 ((bootReleased s).globalPa 0) }) := rfl
  rw [State.strand, h, amGet_map_const _ _ _ (bootStrand_mem q), Option.getD_some]

/-- The code that the check of the firmware image in the boot flash gives. -/
def bootCode (s : State) : BitVec 8 :=
  bootStatus s.dev.fuses (fitBytes 2592 (Config.flash s.free)) (Config.freeWord s.free) (sha3 (Config.flash (s.free + 1)))
    (fitBytes 4627 (Config.flash (s.free + 2)))

/-- The state after the image has been measured. -/
def bootMeasured (s : State) : State :=
  { s with
    free := s.free + 3
    dev := { s.dev with
      meas := #v[sha3 (Config.flash (s.free + 1)), 0, 0, 0], secver := Config.freeWord s.free, imgid := Config.freeWord (s.free + 1), rot := 0 } }

/-- What a boot does: it is not due, or it records a failure, or it releases the device. -/
theorem execRootOfTrustBoot_eq (s : State) :
    execRootOfTrustBoot s = event s
      (if s.dev.rot ≠ 0 || !s.quads.toList.all (·.inReset) then none
       else if bootCode s ≠ 0 then some { s with free := s.free + 3, dev := { s.dev with rot := bootCode s } }
       else some (bootReleased (bootMeasured s))) := rfl

/-- The first boot after a reset is due. -/
theorem execRootOfTrustBoot_first {s : State} (h0 : s.dev.rot = 0) (hq : ∀ q, (s.quad q).inReset = true) :
    execRootOfTrustBoot s = .next
      (if bootCode s ≠ 0 then { s with free := s.free + 3, dev := { s.dev with rot := bootCode s } } else bootReleased (bootMeasured s)) := by
  rw [execRootOfTrustBoot_eq, if_neg (by simp [h0, s.all_quads (·.inReset) hq])]
  split <;> rfl

/-- After a failed boot there is no other before the next reset. -/
theorem execRootOfTrustBoot_of_failed {s : State} (h : s.dev.rot ≠ 0) : execRootOfTrustBoot s = .next { s with idle := true } := by
  rw [execRootOfTrustBoot_eq, if_pos (by rw [decide_eq_true h, Bool.true_or])]
  rfl

/-! ### Attestation (R431) -/

@[simp] theorem reportBody_length (nonce : BitVec 512) (d : Device) : (reportBody nonce d).length = 384 := by
  simp [reportBody]

theorem reportBody_take (nonce : BitVec 512) (d : Device) (bs : List Byte) :
    (reportBody nonce d ++ bs).take 64 = leBytes 64 nonce.toNat := by
  simp only [reportBody, List.append_assoc]
  exact List.take_left' (leBytes_length _ _)

theorem execAttestReport_of_asked {s : State} {who : Asker} {rest : List Asker} (nonce : BitVec 512) (h : s.dev.asks = who :: rest) :
    execAttestReport nonce s = .next
      (let b := reportBody nonce s.dev
       { s with
          dev := { s.dev with report := b ++ fitBytes 4627 (Config.sign s.dev.identityKey (sha3 b) s.free), mbox := 0, asks := rest }
          free := s.free + 1 }) := by
  unfold execAttestReport; rw [h]; rfl

/-- An extension by anyone but level M, or of register 0, is refused. -/
theorem execAttestExtend_refused {s : State} {who : Asker} {rest : List Asker} {n : Fin 4} (g : BitVec 512) (h : s.dev.asks = who :: rest)
    (hn : n = 0 ∨ who ≠ .levelM) :
    execAttestExtend n.val g s = .next { s with dev := { s.dev with mbox := 1, asks := rest } } := by
  unfold execAttestExtend
  rw [h]
  dsimp only
  rw [dif_neg]
  · rfl
  · rintro ⟨h1, -, hw⟩
    obtain rfl | hne := hn
    · exact absurd h1 (by decide)
    · exact hne hw

/-- An extension of register 1, 2 or 3 by level M hashes the register. -/
theorem execAttestExtend_levelM {s : State} {rest : List Asker} {n : Fin 4} (g : BitVec 512) (h : s.dev.asks = .levelM :: rest) (hn : n ≠ 0) :
    execAttestExtend n.val g s = .next
      (let x := sha3 (leBytes 64 (s.dev.meas.get n).toNat ++ leBytes 64 g.toNat)
       { s with dev := { s.dev with meas := s.dev.meas.set n.val x n.isLt, mbox := 0, asks := rest } }) := by
  have hc : 1 ≤ n.val ∧ n.val ≤ 3 ∧ Asker.levelM = .levelM := ⟨by omega, by omega, rfl⟩
  unfold execAttestExtend
  rw [h]
  dsimp only
  rw [dif_pos hc]
  rfl

/-! ### The statement -/

/-- What holds right after reset (R17, R383). -/
theorem reset_idle_empty_booting :
    let s := State.reset
    s.mem = [] ∧ s.ranges = [] ∧ s.poison = [] ∧ s.home = [] ∧ StorageOk s ∧ ImagesOk s ∧ (∀ t, (s.tile t).life = .idle ∧ (s.tile t).res = none) ∧
    (∀ q, (s.quad q).launches = [] ∧ (s.quad q).waiting = [] ∧ (s.quad q).inReset = false ∧ (s.strand (bootStrand q)).status = .running ∧
      (s.strand (bootStrand q)).level = .M ∧ (s.quad q).reqsig = true) ∧
    (∀ i, (s.strand i).status ≠ .free → ∃ q, i = bootStrand q) := by
  refine ⟨rfl, rfl, rfl, rfl, State.storageOk_reset, State.imagesOk_reset, fun t => ⟨rfl, rfl⟩, fun q => ?_,
    fun i => State.bootStrand_of_strand_reset⟩
  rw [State.quad_reset, State.strand_reset_bootStrand]
  exact ⟨rfl, rfl, rfl, rfl, rfl, rfl⟩

/-- The first boot after a reset fails with every quadrant held, or releases every quadrant. -/
theorem rootOfTrustBoot_fails_or_releases {st : State} (h0 : st.dev.rot = 0) (hq : ∀ q, (st.quad q).inReset = true) :
    ∃ r, exec .rootOfTrustBoot st = .next r ∧
      ((r.dev.rot ≠ 0 ∧ r.strands = st.strands ∧ ∀ q, (r.quad q).inReset = true) ∨
       (r.dev.rot = 0 ∧ ∀ q, (r.quad q).inReset = false ∧ (r.quad q).launches = (st.quad q).launches ∧
         (r.strand (bootStrand q)).status = .running ∧ (r.strand (bootStrand q)).level = .M ∧
         (r.strand (bootStrand q)).pc = BitVec.ofNat 80 (r.globalPa 0))) := by
  rw [exec_rootOfTrustBoot, execRootOfTrustBoot_first h0 hq]
  refine ⟨_, rfl, ?_⟩
  by_cases hc : bootCode st = 0
  · rw [if_neg (not_not_intro hc)]
    refine .inr ⟨rot_bootReleased (bootMeasured st), fun q => ?_⟩
    obtain ⟨hi, hl⟩ := quad_bootReleased (bootMeasured st) q
    rw [strand_bootReleased]
    exact ⟨hi, hl, rfl, rfl, rfl⟩
  · rw [if_pos hc]
    exact .inl ⟨hc, rfl, hq⟩

/-- Settles O51: each event's state is given by its equation, and the fields of that state by the lemmas above. -/
theorem resetsBootAndAttestationComplete : Obligations.ResetsBootAndAttestationComplete := by
  refine ⟨reset_idle_empty_booting, fun st => ⟨?resets, rootOfTrustBoot_fails_or_releases, ?noSecondBoot, ?report, ?extend⟩⟩
  case resets =>
    refine ⟨exec_secondaryBusReset st, exec_thermalShutdown st, exec_mgmtReset 0xA5 st, fun b hb => ?_, fun q => ?_,
      fun _ => rfl, fun _ => rfl, rfl, rfl, fun _ => mem_mem_inReset⟩
    · rw [exec_mgmtReset, if_neg hb]
    · rw [quad_inReset]
      exact ⟨rfl, rfl, rfl⟩
  case noSecondBoot => exact fun h => ⟨_, (exec_rootOfTrustBoot st).trans (execRootOfTrustBoot_of_failed h), rfl⟩
  case report =>
    intro nonce who rest h
    rw [exec_attestReport]
    exact ⟨_, execAttestReport_of_asked nonce h, rfl, rfl, rfl, reportBody_take _ _ _, _, reportBody_length _ _, rfl⟩
  case extend =>
    intro n g who rest h
    rw [exec_attestExtend]
    by_cases hn : n = 0 ∨ who ≠ .levelM
    · exact ⟨_, execAttestExtend_refused g h hn, rfl, fun _ => ⟨rfl, rfl⟩,
        fun h0 hw => absurd hn (not_or.mpr ⟨h0, not_not_intro hw⟩)⟩
    · obtain ⟨h0, hw⟩ := not_or.mp hn
      obtain rfl := not_not.mp hw
      refine ⟨_, execAttestExtend_levelM g h h0, rfl, fun h1 => absurd h1 hn, fun _ _ => ⟨rfl, ?_, fun m hm => ?_⟩⟩
      · rw [vget_set, if_pos rfl]
      · rw [vget_set, if_neg (fun e => hm (Fin.ext e.symm))]

end Sys2Proof.Machine
end

section
/-! PROOF. Decoding inverts encoding (R27, R32, R33, R35, R36, R38, R44): one lemma for each major in each of its lengths, over the instructions that the
major lists (R42), and one for the element operations. -/

namespace Sys2Proof

/-! ### What the decoders' steps answer -/

@[simp] theorem Except.ok_bind {ε α β : Type} (a : α) (f : α → Except ε β) : (Except.ok a >>= f) = f a := rfl

@[simp] theorem unused_ofNat_zero {n : Nat} : unused 0#n = .ok () := rfl

@[simp] theorem noMask_packVV_ofNat (mj : BitVec 6) (ln : BitVec 2) (fn5 t s d : BitVec 5) : noMask (packVV mj ln fn5 0#1 0#3 t s d) = .ok () :=
  noMask_packVV ..

@[simp] theorem noMask_packVM_ofNat (mj : BitVec 6) (ln : BitVec 2) (fn5 : BitVec 5) (z : BitVec 1) (i : BitVec 5) (a : BitVec 4) (d : BitVec 5) :
    noMask (packVM mj ln fn5 0#1 0#3 z i a d) = .ok () :=
  noMask_packVM ..

@[simp] theorem maskReq_packVV_ofNat (mj : BitVec 6) (ln : BitVec 2) (fn5 : BitVec 5) (m : BitVec 3) (t s d : BitVec 5) :
    maskReq (packVV mj ln fn5 1#1 m t s d) = .ok m :=
  maskReq_packVV ..

@[simp] theorem maskReq_packVM_ofNat (mj : BitVec 6) (ln : BitVec 2) (fn5 : BitVec 5) (m : BitVec 3) (z : BitVec 1) (i : BitVec 5) (a : BitVec 4)
    (d : BitVec 5) : maskReq (packVM mj ln fn5 1#1 m z i a d) = .ok m :=
  maskReq_packVM ..

/-- Bit 8 of STRM.LD's second parcel tells a load into TMEM from one into the fabric. -/
@[simp] theorem strmLd_fabricBit (v : BitVec 24) (rm : BitVec 2) (ch : BitVec 6) : (v ++ rm ++ ch : Parcel).extractLsb' 8 1 = v.extractLsb' 0 1 :=
  (ext_hi (v ++ rm) ch (by decide)).trans (ext_hi v rm (by decide))

/-- FENCE's T field holds its kind above its scope. -/
@[simp] theorem fence_kind (k : BitVec 2) (c : BitVec 3) : (k ++ c).extractLsb' 3 2 = k :=
  (ext_hi k c (by decide)).trans (ext_self k)

@[simp] theorem fence_scope (k : BitVec 2) (c : BitVec 3) : (k ++ c).extractLsb' 0 3 = c :=
  (ext_lo k c (by decide)).trans (ext_self c)

/-- LIQ's two immediate parcels make up its 64 bits. -/
@[simp] theorem liq_parcels (i : BitVec 64) : i.extractLsb' 32 32 ++ i.extractLsb' 0 32 = i :=
  (BitVec.extractLsb'_append_extractLsb'_eq_extractLsb' rfl).trans BitVec.extractLsb'_eq_self

@[simp] theorem decodeQual_qualWord (q : Qual) : decodeQual (qualWord q) = .ok q := by
  simp [decodeQual, qualWord]

/-! ### From the words of an instruction to the decoder of its major -/

/-- A parcel 0 of major `mj` and length `ln` goes to the decoder of the two. -/
theorem decode_of_major {p0 p1 p2 : Parcel} {mj : BitVec 6} {ln : BitVec 2} {r : Except DecodeError Instr} (hm : majorOf p0 = mj) (hl : lenOf p0 = ln)
    (hv : mj ≠ 0 ∧ ln ≠ 3) (hd : decodeMajor mj.toNat ln.toNat p0 p1 p2 = r) : decode p0 p1 p2 = r := by
  subst hm hl
  exact (decode_major p0 p1 p2 hv.1 hv.2).trans hd

theorem decodeWords_one {n : Instr} {p0 : Parcel} {mj : BitVec 6} {ln : BitVec 2} (he : encode n = [p0]) (hm : majorOf p0 = mj) (hl : lenOf p0 = ln)
    (hv : mj ≠ 0 ∧ ln ≠ 3) (hd : decodeMajor mj.toNat ln.toNat p0 0 0 = .ok n) : decodeWords false (encode n) = .ok n := by
  rw [he]
  exact decode_of_major hm hl hv hd

theorem decodeWords_two {n : Instr} {p0 p1 : Parcel} {mj : BitVec 6} {ln : BitVec 2} (he : encode n = [p0, p1]) (hm : majorOf p0 = mj)
    (hl : lenOf p0 = ln) (hv : mj ≠ 0 ∧ ln ≠ 3) (hd : decodeMajor mj.toNat ln.toNat p0 p1 0 = .ok n) : decodeWords false (encode n) = .ok n := by
  rw [he]
  exact decode_of_major hm hl hv hd

theorem decodeWords_three {n : Instr} {p0 p1 p2 : Parcel} {mj : BitVec 6} {ln : BitVec 2} (he : encode n = [p0, p1, p2]) (hm : majorOf p0 = mj)
    (hl : lenOf p0 = ln) (hv : mj ≠ 0 ∧ ln ≠ 3) (hd : decodeMajor mj.toNat ln.toNat p0 p1 p2 = .ok n) : decodeWords false (encode n) = .ok n := by
  rw [he]
  exact decode_of_major hm hl hv hd

theorem decodeWords_elem {n : Instr} {w : Parcel} (he : encode n = [w]) (hd : decodeElem w = .ok n) : decodeWords true (encode n) = .ok n := by
  rw [he]
  exact hd

/-! ### The majors -/

/-- Integer register forms: major 0x01 in one parcel (R42). -/
theorem decodeWords_encode_integerRegister (d s t : BitVec 5) : ∀ op ∈ [Instr.add d s t, .sub d s t, .and d s t, .or d s t, .xor d s t, .sll d s t,
      .srl d s t, .sra d s t, .slt d s t, .sltu d s t, .min d s t, .max d s t, .minu d s t, .maxu d s t, .mul d s t, .mulh d s t, .mulhu d s t,
      .div d s t, .divu d s t, .rem d s t, .remu d s t, .add32 d s t, .sub32 d s t, .clz d s, .ctz d s, .popc d s, .sxb d s, .sxh d s, .sxw d s,
      .zxw d s],
    decodeWords false (encode op) = .ok op := by
  simp only [List.forall_mem_cons, List.not_mem_nil, false_imp_iff, implies_true, and_true]
  and_intros <;>
    exact decodeWords_one rfl (majorOf_packZR ..) (lenOf_packZR ..) (by decide) (show decode01_0 .. = _ by simp [decode01_0])

/-- Scalar floating point: major 0x06 in one parcel (R42). -/
theorem decodeWords_encode_scalarFloat (d s t : BitVec 5) : ∀ op ∈ [Instr.faddS d s t, .fsubS d s t, .fmulS d s t, .fdivS d s t, .fsqrtS d s,
      .fminS d s t, .fmaxS d s t, .fmaS d s t, .fnmaS d s t, .faddD d s t, .fsubD d s t, .fmulD d s t, .fdivD d s t, .fsqrtD d s, .fminD d s t,
      .fmaxD d s t, .fmaD d s t, .fnmaD d s t],
    decodeWords false (encode op) = .ok op := by
  simp only [List.forall_mem_cons, List.not_mem_nil, false_imp_iff, implies_true, and_true]
  and_intros <;>
    exact decodeWords_one rfl (majorOf_packZR ..) (lenOf_packZR ..) (by decide) (show decode06_0 .. = _ by simp [decode06_0])

/-- Scalar comparison and classification: major 0x07 in one parcel (R42). -/
theorem decodeWords_encode_floatCompare (d s t : BitVec 5) : ∀ op ∈ [Instr.feqS d s t, .fltS d s t, .fleS d s t, .fclassS d s, .feqD d s t,
      .fltD d s t, .fleD d s t, .fclassD d s],
    decodeWords false (encode op) = .ok op := by
  simp only [List.forall_mem_cons, List.not_mem_nil, false_imp_iff, implies_true, and_true]
  and_intros <;>
    exact decodeWords_one rfl (majorOf_packZR ..) (lenOf_packZR ..) (by decide) (show decode07_0 .. = _ by simp [decode07_0])

/-- Address arithmetic: major 0x08 in one parcel (R42). -/
theorem decodeWords_encode_addressRegister (a b c : BitVec 4) (t d s : BitVec 5) : ∀ op ∈ [Instr.aadd a b t, .asub a b t, .adiff d b c, .amov a b,
      .afromx a s, .atox d b],
    decodeWords false (encode op) = .ok op := by
  simp only [List.forall_mem_cons, List.not_mem_nil, false_imp_iff, implies_true, and_true]
  and_intros <;>
    exact decodeWords_one rfl (majorOf_packZR ..) (lenOf_packZR ..) (by decide) (show decode08_0 .. = _ by simp [decode08_0])

/-- Conditional branches: major 0x0C in one parcel (R42). -/
theorem decodeWords_encode_branch (s t : BitVec 5) (o : BitVec 10) (b c : BitVec 4) : ∀ op ∈ [Instr.beq s t o, .bne s t o, .blt s t o, .bge s t o,
      .bltu s t o, .bgeu s t o, .baeq b c o, .bane b c o, .baltu b c o, .bageu b c o],
    decodeWords false (encode op) = .ok op := by
  simp only [List.forall_mem_cons, List.not_mem_nil, false_imp_iff, implies_true, and_true]
  and_intros <;>
    exact decodeWords_one rfl (majorOf_packZB ..) (lenOf_packZB ..) (by decide) (show decode0C_0 .. = _ by simp [decode0C_0])

/-- Conditional branches with OFF32: major 0x0C in two parcels (R42). -/
theorem decodeWords_encode_branchOff32 (s t : BitVec 5) (o : BitVec 32) (b c : BitVec 4) : ∀ op ∈ [Instr.beqOff32 s t o, .bneOff32 s t o,
      .bltOff32 s t o, .bgeOff32 s t o, .bltuOff32 s t o, .bgeuOff32 s t o, .baeqOff32 b c o, .baneOff32 b c o, .baltuOff32 b c o, .bageuOff32 b c o],
    decodeWords false (encode op) = .ok op := by
  simp only [List.forall_mem_cons, List.not_mem_nil, false_imp_iff, implies_true, and_true]
  and_intros <;>
    exact decodeWords_two rfl (majorOf_packZB ..) (lenOf_packZB ..) (by decide) (show decode0C_1 .. = _ by simp [decode0C_1])

/-- Scalar loads: major 0x10 in one parcel (R42). -/
theorem decodeWords_encode_load (d : BitVec 5) (a : BitVec 4) (o : BitVec 12) : ∀ op ∈ [Instr.lb d a o, .lbu d a o, .lh d a o, .lhu d a o,
      .lw d a o, .lwu d a o, .ld d a o],
    decodeWords false (encode op) = .ok op := by
  simp only [List.forall_mem_cons, List.not_mem_nil, false_imp_iff, implies_true, and_true]
  and_intros <;>
    exact decodeWords_one rfl (majorOf_packSM ..) (lenOf_packSM ..) (by decide) (show decode10_0 .. = _ by simp [decode10_0])

/-- Qualified scalar loads: major 0x12 in two parcels (R42). -/
theorem decodeWords_encode_loadQ32 (d : BitVec 5) (a : BitVec 4) (o : BitVec 12) (q : Qual) : ∀ op ∈ [Instr.lbQ32 d a o q, .lbuQ32 d a o q,
      .lhQ32 d a o q, .lhuQ32 d a o q, .lwQ32 d a o q, .lwuQ32 d a o q, .ldQ32 d a o q],
    decodeWords false (encode op) = .ok op := by
  simp only [List.forall_mem_cons, List.not_mem_nil, false_imp_iff, implies_true, and_true]
  and_intros <;>
    exact decodeWords_two rfl (majorOf_packSM ..) (lenOf_packSM ..) (by decide) (show decode12_1 .. = _ by simp [decode12_1])

/-- Mask instructions: major 0x1A in one parcel (R42). -/
theorem decodeWords_encode_maskLogic (d s t : BitVec 3) (x : BitVec 5) : ∀ op ∈ [Instr.mand d s t, .mor d s t, .mxor d s t, .mandn d s t,
      .mnot d s, .mset d, .mclr d, .mpopc x s, .mfirst x s],
    decodeWords false (encode op) = .ok op := by
  simp only [List.forall_mem_cons, List.not_mem_nil, false_imp_iff, implies_true, and_true]
  and_intros <;>
    exact decodeWords_one rfl (majorOf_packVV ..) (lenOf_packVV ..) (by decide) (show decode1A_0 .. = _ by simp [decode1A_0])

/-- Vector integer, VV: major 0x1C in one parcel (R42). -/
theorem decodeWords_encode_vectorVV (d s t : BitVec 5) (mk : Option (BitVec 3)) : ∀ op ∈ [Instr.vaddVV d s t mk, .vsubVV d s t mk,
      .vandVV d s t mk, .vorVV d s t mk, .vxorVV d s t mk, .vsllVV d s t mk, .vsrlVV d s t mk, .vsraVV d s t mk, .vminVV d s t mk,
      .vmaxVV d s t mk, .vminuVV d s t mk, .vmaxuVV d s t mk, .vmulVV d s t mk, .vmulhVV d s t mk, .vmulhuVV d s t mk, .vdivVV d s t mk,
      .vdivuVV d s t mk, .vremVV d s t mk, .vremuVV d s t mk, .vsaddVV d s t mk, .vsadduVV d s t mk, .vssubVV d s t mk, .vssubuVV d s t mk,
      .vabs d s mk, .vneg d s mk],
    decodeWords false (encode op) = .ok op := by
  simp only [List.forall_mem_cons, List.not_mem_nil, false_imp_iff, implies_true, and_true]
  and_intros <;>
    exact decodeWords_one rfl (majorOf_packVV ..) (lenOf_packVV ..) (by decide) (show decode1C_0 .. = _ by simp [decode1C_0])

/-- Vector integer, VX: major 0x1D in one parcel (R42). -/
theorem decodeWords_encode_vectorVX (d s x : BitVec 5) (mk : Option (BitVec 3)) : ∀ op ∈ [Instr.vaddVX d s x mk, .vsubVX d s x mk,
      .vandVX d s x mk, .vorVX d s x mk, .vxorVX d s x mk, .vsllVX d s x mk, .vsrlVX d s x mk, .vsraVX d s x mk, .vminVX d s x mk,
      .vmaxVX d s x mk, .vminuVX d s x mk, .vmaxuVX d s x mk, .vmulVX d s x mk, .vmulhVX d s x mk, .vmulhuVX d s x mk, .vdivVX d s x mk,
      .vdivuVX d s x mk, .vremVX d s x mk, .vremuVX d s x mk, .vsaddVX d s x mk, .vsadduVX d s x mk, .vssubVX d s x mk, .vssubuVX d s x mk],
    decodeWords false (encode op) = .ok op := by
  simp only [List.forall_mem_cons, List.not_mem_nil, false_imp_iff, implies_true, and_true]
  and_intros <;>
    exact decodeWords_one rfl (majorOf_packVV ..) (lenOf_packVV ..) (by decide) (show decode1D_0 .. = _ by simp [decode1D_0])

/-- Vector integer, VI: major 0x1E in one parcel (R42). -/
theorem decodeWords_encode_vectorVI (d s i : BitVec 5) (mk : Option (BitVec 3)) : ∀ op ∈ [Instr.vaddVI d s i mk, .vsubVI d s i mk,
      .vandVI d s i mk, .vorVI d s i mk, .vxorVI d s i mk, .vsllVI d s i mk, .vsrlVI d s i mk, .vsraVI d s i mk, .vminVI d s i mk,
      .vmaxVI d s i mk, .vminuVI d s i mk, .vmaxuVI d s i mk, .vsaddVI d s i mk, .vsadduVI d s i mk, .vssubVI d s i mk, .vssubuVI d s i mk],
    decodeWords false (encode op) = .ok op := by
  simp only [List.forall_mem_cons, List.not_mem_nil, false_imp_iff, implies_true, and_true]
  and_intros <;>
    exact decodeWords_one rfl (majorOf_packVV ..) (lenOf_packVV ..) (by decide) (show decode1E_0 .. = _ by simp [decode1E_0])

/-- Vector float, VV: major 0x1F in one parcel (R42). -/
theorem decodeWords_encode_vectorFloatVV (d s t : BitVec 5) (mk : Option (BitVec 3)) : ∀ op ∈ [Instr.vfaddVV d s t mk, .vfsubVV d s t mk,
      .vfmulVV d s t mk, .vfdivVV d s t mk, .vfminVV d s t mk, .vfmaxVV d s t mk, .vfmaVV d s t mk, .vfmsVV d s t mk, .vfnmaVV d s t mk,
      .vfsqrt d s mk, .vfrece d s mk, .vfrsqe d s mk, .vfabs d s mk, .vfneg d s mk, .vfsgnj d s t mk],
    decodeWords false (encode op) = .ok op := by
  simp only [List.forall_mem_cons, List.not_mem_nil, false_imp_iff, implies_true, and_true]
  and_intros <;>
    exact decodeWords_one rfl (majorOf_packVV ..) (lenOf_packVV ..) (by decide) (show decode1F_0 .. = _ by simp [decode1F_0])

/-- Vector float, VX: major 0x20 in one parcel (R42). -/
theorem decodeWords_encode_vectorFloatVX (d s x : BitVec 5) (mk : Option (BitVec 3)) : ∀ op ∈ [Instr.vfaddVX d s x mk, .vfsubVX d s x mk,
      .vfmulVX d s x mk, .vfdivVX d s x mk, .vfminVX d s x mk, .vfmaxVX d s x mk, .vfmaVX d s x mk, .vfmsVX d s x mk, .vfnmaVX d s x mk],
    decodeWords false (encode op) = .ok op := by
  simp only [List.forall_mem_cons, List.not_mem_nil, false_imp_iff, implies_true, and_true]
  and_intros <;>
    exact decodeWords_one rfl (majorOf_packVV ..) (lenOf_packVV ..) (by decide) (show decode20_0 .. = _ by simp [decode20_0])

/-- Vector comparisons: major 0x21 in one parcel (R42). -/
theorem decodeWords_encode_vectorCompare (d : BitVec 3) (s t : BitVec 5) (mk : Option (BitVec 3)) : ∀ op ∈ [Instr.vcmpeq d s t mk,
      .vcmpne d s t mk, .vcmplt d s t mk, .vcmple d s t mk, .vcmpltu d s t mk, .vcmpleu d s t mk, .vfcmpeq d s t mk, .vfcmplt d s t mk,
      .vfcmple d s t mk, .vfcmpun d s t mk],
    decodeWords false (encode op) = .ok op := by
  simp only [List.forall_mem_cons, List.not_mem_nil, false_imp_iff, implies_true, and_true]
  and_intros <;>
    exact decodeWords_one rfl (majorOf_packVV ..) (lenOf_packVV ..) (by decide) (show decode21_0 .. = _ by simp [decode21_0])

/-- Vector loads: major 0x26 in one parcel (R42). -/
theorem decodeWords_encode_vectorLoad (d i n : BitVec 5) (a : BitVec 4) (mk : Option (BitVec 3)) : ∀ op ∈ [Instr.vld d a mk, .vldFE d a mk,
      .vldFC d a mk, .vlds d a i mk, .vldx d a i mk, .vldff d a mk, .vldz d a i, .vldseg d a n mk],
    decodeWords false (encode op) = .ok op := by
  simp only [List.forall_mem_cons, List.not_mem_nil, false_imp_iff, implies_true, and_true]
  and_intros <;>
    exact decodeWords_one rfl (majorOf_packVM ..) (lenOf_packVM ..) (by decide) (show decode26_0 .. = _ by simp [decode26_0])

/-- Vector stores: major 0x27 in one parcel (R42). -/
theorem decodeWords_encode_vectorStore (d i n : BitVec 5) (a : BitVec 4) (mk : Option (BitVec 3)) : ∀ op ∈ [Instr.vst d a mk, .vsts d a i mk,
      .vstx d a i mk, .vstxo d a i mk, .vstz d a i, .vstseg d a n mk],
    decodeWords false (encode op) = .ok op := by
  simp only [List.forall_mem_cons, List.not_mem_nil, false_imp_iff, implies_true, and_true]
  and_intros <;>
    exact decodeWords_one rfl (majorOf_packVM ..) (lenOf_packVM ..) (by decide) (show decode27_0 .. = _ by simp [decode27_0])

/-- Cross-lane instructions: major 0x2A in one parcel (R42). -/
theorem decodeWords_encode_crossLane (d s o t x : BitVec 5) (mk : Option (BitVec 3)) (m : BitVec 3) : ∀ op ∈ [Instr.vred d s o mk, .vscan d s o mk,
      .vscanx d s o mk, .vperm d s t mk, .vcomp d s m, .vexpd d s m, .vfilt d s mk, .vtopk d s x mk, .vslideup d s x mk, .vslidedn d s x mk],
    decodeWords false (encode op) = .ok op := by
  simp only [List.forall_mem_cons, List.not_mem_nil, false_imp_iff, implies_true, and_true]
  and_intros <;>
    exact decodeWords_one rfl (majorOf_packVV ..) (lenOf_packVV ..) (by decide) (show decode2A_0 .. = _ by simp [decode2A_0])

/-- Vector atomics: major 0x2F in one parcel (R42). -/
theorem decodeWords_encode_vectorAtomic (d i : BitVec 5) (a : BitVec 4) (mk : Option (BitVec 3)) (m : BitVec 3) : ∀ op ∈ [Instr.vaadd d a i mk,
      .vaand d a i mk, .vaor d a i mk, .vaxor d a i mk, .vamin d a i mk, .vamax d a i mk, .vaminu d a i mk, .vamaxu d a i mk, .vafadd d a i mk,
      .vaswap d a i mk, .vacas d a i mk, .vcadd d a i mk, .vcand d a i mk, .vcor d a i mk, .vcxor d a i mk, .vcmin d a i mk, .vcmax d a i mk,
      .vcminu d a i mk, .vcmaxu d a i mk, .vcfadd d a i mk, .vgl d a i mk, .vsc d a i m],
    decodeWords false (encode op) = .ok op := by
  simp only [List.forall_mem_cons, List.not_mem_nil, false_imp_iff, implies_true, and_true]
  and_intros <;>
    exact decodeWords_one rfl (majorOf_packVM ..) (lenOf_packVM ..) (by decide) (show decode2F_0 .. = _ by simp [decode2F_0])

/-- Scalar atomics: major 0x30 in one parcel (R42). -/
theorem decodeWords_encode_scalarAtomic (d t : BitVec 5) (s : BitVec 4) : ∀ op ∈ [Instr.amadd d s t, .amand d s t, .amor d s t, .amxor d s t,
      .ammin d s t, .ammax d s t, .amminu d s t, .ammaxu d s t, .amswap d s t, .amcas d s t, .amaddW d s t, .amandW d s t, .amorW d s t,
      .amxorW d s t, .amminW d s t, .ammaxW d s t, .amminuW d s t, .ammaxuW d s t, .amswapW d s t, .amcasW d s t],
    decodeWords false (encode op) = .ok op := by
  simp only [List.forall_mem_cons, List.not_mem_nil, false_imp_iff, implies_true, and_true]
  and_intros <;>
    exact decodeWords_one rfl (majorOf_packZR ..) (lenOf_packZR ..) (by decide) (show decode30_0 .. = _ by simp [decode30_0])

/-- Qualified scalar atomics: major 0x30 in two parcels (R42). -/
theorem decodeWords_encode_scalarAtomicQ32 (d t : BitVec 5) (s : BitVec 4) (q : Qual) : ∀ op ∈ [Instr.amaddQ32 d s t q, .amandQ32 d s t q,
      .amorQ32 d s t q, .amxorQ32 d s t q, .amminQ32 d s t q, .ammaxQ32 d s t q, .amminuQ32 d s t q, .ammaxuQ32 d s t q, .amswapQ32 d s t q,
      .amcasQ32 d s t q, .amaddWQ32 d s t q, .amandWQ32 d s t q, .amorWQ32 d s t q, .amxorWQ32 d s t q, .amminWQ32 d s t q, .ammaxWQ32 d s t q,
      .amminuWQ32 d s t q, .ammaxuWQ32 d s t q, .amswapWQ32 d s t q, .amcasWQ32 d s t q],
    decodeWords false (encode op) = .ok op := by
  simp only [List.forall_mem_cons, List.not_mem_nil, false_imp_iff, implies_true, and_true]
  and_intros <;>
    exact decodeWords_two rfl (majorOf_packZR ..) (lenOf_packZR ..) (by decide) (show decode30_1 .. = _ by simp [decode30_1])

/-- Cache control: major 0x32 in one parcel (R42). -/
theorem decodeWords_encode_cacheControl (s : BitVec 4) (wi : BitVec 1) (t : BitVec 5) : ∀ op ∈ [Instr.cflush s, .cinv s, .cclean s, .czero s,
      .cpf s wi, .isync s t],
    decodeWords false (encode op) = .ok op := by
  simp only [List.forall_mem_cons, List.not_mem_nil, false_imp_iff, implies_true, and_true]
  and_intros <;>
    exact decodeWords_one rfl (majorOf_packZR ..) (lenOf_packZR ..) (by decide) (show decode32_0 .. = _ by simp [decode32_0])

/-- Fabric configuration: major 0x36 in one parcel (R42). -/
theorem decodeWords_encode_fabricConfiguration (d t s : BitVec 5) (b : BitVec 4) : ∀ op ∈ [Instr.cfgLoad d b t, .cfgCheck d b, .cfgSel d s,
      .cfgSave d b, .cfgRest d b, .cfgGuard d s, .cfgBind s t, .cfgWr d s t],
    decodeWords false (encode op) = .ok op := by
  simp only [List.forall_mem_cons, List.not_mem_nil, false_imp_iff, implies_true, and_true]
  and_intros <;>
    exact decodeWords_one rfl (majorOf_packZR ..) (lenOf_packZR ..) (by decide) (show decode36_0 .. = _ by simp [decode36_0])

/-- Element operations (R44, R49). -/
theorem decodeWords_encode_element (sa sb da db tag : BitVec 4) (l3 : BitVec 3) (lit : BitVec 5) (l2 : BitVec 2) : ∀ op ∈ [
      Instr.elemAdd sa sb da db tag, .elemSub sa sb da db tag, .elemMul sa sb da db tag, .elemAnd sa sb da db tag, .elemOr sa sb da db tag,
      .elemXor sa sb da db tag, .elemMin sa sb da db tag, .elemMax sa sb da db tag, .elemMinu sa sb da db tag, .elemMaxu sa sb da db tag,
      .elemFadd sa sb da db tag, .elemFsub sa sb da db tag, .elemFmul sa sb da db tag, .elemFmin sa sb da db tag, .elemFmax sa sb da db tag,
      .elemDot4 sa sb da db tag, .elemAddl sa da db tag lit, .elemMull sa da db tag lit, .elemAndl sa da db tag lit, .elemShl sa da db tag lit,
      .elemShr sa da db tag lit, .elemSar sa da db tag lit, .elemFma sa sb da db tag l3, .elemMac sa sb da db tag l3,
      .elemCmpeq sa sb da db tag l3, .elemCmplt sa sb da db tag l3, .elemCmpltu sa sb da db tag l3, .elemFcmplt sa sb da db tag l3,
      .elemFcmpeq sa sb da db tag l3, .elemSetp l3, .elemClrp l3, .elemMovp sa l3, .elemMov sa da db tag, .elemLit da db tag lit,
      .elemSel sa sb da db tag l3, .elemDrop sa sb, .elemLdt sa da db tag lit, .elemStt sa sb tag lit, .elemCnt da db tag l3, .elemCtx l2,
      .elemAbs sa da db tag, .elemPopc sa da db tag, .elemSteer sa da db tag l3],
    decodeWords true (encode op) = .ok op := by
  simp only [List.forall_mem_cons, List.not_mem_nil, false_imp_iff, implies_true, and_true]
  and_intros <;>
    exact decodeWords_elem rfl (by simp [decodeElem])

/-- Settles O55: a case for each major in each of its lengths, where the decoder of the major reads back the fields that the encoder
packed. -/
theorem decodingInvertsEncoding : Obligations.DecodingInvertsEncoding := by
  intro n _ hw
  cases n with
  | add d s t | sub d s t | and d s t | or d s t | xor d s t | sll d s t | srl d s t | sra d s t | slt d s t | sltu d s t | min d s t | max d s t
  | minu d s t | maxu d s t | mul d s t | mulh d s t | mulhu d s t | div d s t | divu d s t | rem d s t | remu d s t | add32 d s t | sub32 d s t =>
    exact .inl (decodeWords_encode_integerRegister d s t _ (by simp))
  | clz d s | ctz d s | popc d s | sxb d s | sxh d s | sxw d s | zxw d s =>
    exact .inl (decodeWords_encode_integerRegister d s 0 _ (by simp))
  | addi =>
    exact .inl (decodeWords_one rfl (majorOf_packZI ..) (lenOf_packZI ..) (by decide) (show decode02_0 .. = _ by simp [decode02_0]))
  | addiImm32 =>
    exact .inl (decodeWords_two rfl (majorOf_packZI ..) (lenOf_packZI ..) (by decide) (show decode02_1 .. = _ by simp [decode02_1]))
  | andi | ori | xori =>
    exact .inl (decodeWords_one rfl (majorOf_packZL ..) (lenOf_packZL ..) (by decide) (show decode03_0 .. = _ by simp [decode03_0]))
  | andiImm32 | oriImm32 | xoriImm32 =>
    exact .inl (decodeWords_two rfl (majorOf_packZL ..) (lenOf_packZL ..) (by decide) (show decode03_1 .. = _ by simp [decode03_1]))
  | slli | srli | srai =>
    exact .inl (decodeWords_one rfl (majorOf_packZS ..) (lenOf_packZS ..) (by decide) (show decode04_0 .. = _ by simp [decode04_0]))
  | lui =>
    exact .inl (decodeWords_one rfl (majorOf_packZU ..) (lenOf_packZU ..) (by decide) (show decode05_0 .. = _ by simp [decode05_0]))
  | liw =>
    exact .inl (decodeWords_two rfl (majorOf_packZU ..) (lenOf_packZU ..) (by decide) (show decode05_1 .. = _ by simp [decode05_1]))
  | liq =>
    exact .inl (decodeWords_three rfl (majorOf_packZU ..) (lenOf_packZU ..) (by decide) (show decode05_2 .. = _ by simp [decode05_2]))
  | faddS d s t | fsubS d s t | fmulS d s t | fdivS d s t | fminS d s t | fmaxS d s t | fmaS d s t | fnmaS d s t | faddD d s t | fsubD d s t
  | fmulD d s t | fdivD d s t | fminD d s t | fmaxD d s t | fmaD d s t | fnmaD d s t =>
    exact .inl (decodeWords_encode_scalarFloat d s t _ (by simp))
  | fsqrtS d s | fsqrtD d s =>
    exact .inl (decodeWords_encode_scalarFloat d s 0 _ (by simp))
  | feqS d s t | fltS d s t | fleS d s t | feqD d s t | fltD d s t | fleD d s t =>
    exact .inl (decodeWords_encode_floatCompare d s t _ (by simp))
  | fclassS d s | fclassD d s =>
    exact .inl (decodeWords_encode_floatCompare d s 0 _ (by simp))
  | fcvt =>
    exact .inl (decodeWords_one rfl (majorOf_packFcvt ..) (lenOf_packFcvt ..) (by decide) (show decode07_0 .. = _ by simp [decode07_0]))
  | aadd a b t | asub a b t =>
    exact .inl (decodeWords_encode_addressRegister a b 0 t 0 0 _ (by simp))
  | adiff d b c =>
    exact .inl (decodeWords_encode_addressRegister 0 b c 0 d 0 _ (by simp))
  | amov a b =>
    exact .inl (decodeWords_encode_addressRegister a b 0 0 0 0 _ (by simp))
  | afromx a s =>
    exact .inl (decodeWords_encode_addressRegister a 0 0 0 0 s _ (by simp))
  | atox d b =>
    exact .inl (decodeWords_encode_addressRegister 0 b 0 0 d 0 _ (by simp))
  | aaddi =>
    exact .inl (decodeWords_one rfl (majorOf_packZI ..) (lenOf_packZI ..) (by decide) (show decode09_0 .. = _ by simp [decode09_0]))
  | aaddiImm32 =>
    exact .inl (decodeWords_two rfl (majorOf_packZI ..) (lenOf_packZI ..) (by decide) (show decode09_1 .. = _ by simp [decode09_1]))
  | ahi =>
    exact .inl (decodeWords_one rfl (majorOf_packAH ..) (lenOf_packAH ..) (by decide) (show decode0A_0 .. = _ by simp [decode0A_0]))
  | beq s t o | bne s t o | blt s t o | bge s t o | bltu s t o | bgeu s t o =>
    exact .inl (decodeWords_encode_branch s t o 0 0 _ (by simp))
  | baeq b c o | bane b c o | baltu b c o | bageu b c o =>
    exact .inl (decodeWords_encode_branch 0 0 o b c _ (by simp))
  | beqOff32 s t o | bneOff32 s t o | bltOff32 s t o | bgeOff32 s t o | bltuOff32 s t o | bgeuOff32 s t o =>
    exact .inl (decodeWords_encode_branchOff32 s t o 0 0 _ (by simp))
  | baeqOff32 b c o | baneOff32 b c o | baltuOff32 b c o | bageuOff32 b c o =>
    exact .inl (decodeWords_encode_branchOff32 0 0 o b c _ (by simp))
  | jal =>
    exact .inl (decodeWords_one rfl (majorOf_packZU ..) (lenOf_packZU ..) (by decide) (show decode0D_0 .. = _ by simp [decode0D_0]))
  | jalOff32 =>
    exact .inl (decodeWords_two rfl (majorOf_packZU ..) (lenOf_packZU ..) (by decide) (show decode0D_1 .. = _ by simp [decode0D_1]))
  | jalr =>
    exact .inl (decodeWords_one rfl (majorOf_packZI ..) (lenOf_packZI ..) (by decide) (show decode0E_0 .. = _ by simp [decode0E_0]))
  | lb d a o | lbu d a o | lh d a o | lhu d a o | lw d a o | lwu d a o | ld d a o =>
    exact .inl (decodeWords_encode_load d a o _ (by simp))
  | sb | sh | sw | sd =>
    exact .inl (decodeWords_one rfl (majorOf_packSM ..) (lenOf_packSM ..) (by decide) (show decode11_0 .. = _ by simp [decode11_0]))
  | lbQ32 d a o q | lbuQ32 d a o q | lhQ32 d a o q | lhuQ32 d a o q | lwQ32 d a o q | lwuQ32 d a o q | ldQ32 d a o q =>
    exact .inl (decodeWords_encode_loadQ32 d a o q _ (by simp))
  | sbQ32 | shQ32 | swQ32 | sdQ32 =>
    exact .inl (decodeWords_two rfl (majorOf_packSM ..) (lenOf_packSM ..) (by decide) (show decode13_1 .. = _ by simp [decode13_1]))
  | waitline | forkl =>
    exact .inl (decodeWords_one rfl (majorOf_packZR ..) (lenOf_packZR ..) (by decide) (show decode14_0 .. = _ by simp [decode14_0]))
  | sysrd | syswr | sysset | sysclr | sysxch =>
    exact .inl (decodeWords_one rfl (majorOf_packSY ..) (lenOf_packSY ..) (by decide) (show decode16_0 .. = _ by simp [decode16_0]))
  | tlbiva | tlbias | leave =>
    exact .inl (decodeWords_one rfl (majorOf_packZR ..) (lenOf_packZR ..) (by decide) (show decode17_0 .. = _ by simp [decode17_0]))
  | vsetl | vsetcfg | vpart =>
    exact .inl (decodeWords_one rfl (majorOf_packZR ..) (lenOf_packZR ..) (by decide) (show decode18_0 .. = _ by simp [decode18_0]))
  | sbr =>
    exact .inl (decodeWords_two rfl (majorOf_packSB ..) (lenOf_packSB ..) (by decide) (show decode19_1 .. = _ by simp [decode19_1]))
  | mand d s t | mor d s t | mxor d s t | mandn d s t =>
    exact .inl (decodeWords_encode_maskLogic d s t 0 _ (by simp))
  | mnot d s =>
    exact .inl (decodeWords_encode_maskLogic d s 0 0 _ (by simp))
  | mset d | mclr d =>
    exact .inl (decodeWords_encode_maskLogic d 0 0 0 _ (by simp))
  | mpopc x s | mfirst x s =>
    exact .inl (decodeWords_encode_maskLogic 0 s 0 x _ (by simp))
  | vaddVV d s t mk | vsubVV d s t mk | vandVV d s t mk | vorVV d s t mk | vxorVV d s t mk | vsllVV d s t mk | vsrlVV d s t mk | vsraVV d s t mk
  | vminVV d s t mk | vmaxVV d s t mk | vminuVV d s t mk | vmaxuVV d s t mk | vmulVV d s t mk | vmulhVV d s t mk | vmulhuVV d s t mk
  | vdivVV d s t mk | vdivuVV d s t mk | vremVV d s t mk | vremuVV d s t mk | vsaddVV d s t mk | vsadduVV d s t mk | vssubVV d s t mk
  | vssubuVV d s t mk =>
    exact .inl (decodeWords_encode_vectorVV d s t mk _ (by simp))
  | vabs d s mk | vneg d s mk =>
    exact .inl (decodeWords_encode_vectorVV d s 0 mk _ (by simp))
  | vaddVX d s x mk | vsubVX d s x mk | vandVX d s x mk | vorVX d s x mk | vxorVX d s x mk | vsllVX d s x mk | vsrlVX d s x mk | vsraVX d s x mk
  | vminVX d s x mk | vmaxVX d s x mk | vminuVX d s x mk | vmaxuVX d s x mk | vmulVX d s x mk | vmulhVX d s x mk | vmulhuVX d s x mk
  | vdivVX d s x mk | vdivuVX d s x mk | vremVX d s x mk | vremuVX d s x mk | vsaddVX d s x mk | vsadduVX d s x mk | vssubVX d s x mk
  | vssubuVX d s x mk =>
    exact .inl (decodeWords_encode_vectorVX d s x mk _ (by simp))
  | vaddVI d s i mk | vsubVI d s i mk | vandVI d s i mk | vorVI d s i mk | vxorVI d s i mk | vsllVI d s i mk | vsrlVI d s i mk | vsraVI d s i mk
  | vminVI d s i mk | vmaxVI d s i mk | vminuVI d s i mk | vmaxuVI d s i mk | vsaddVI d s i mk | vsadduVI d s i mk | vssubVI d s i mk
  | vssubuVI d s i mk =>
    exact .inl (decodeWords_encode_vectorVI d s i mk _ (by simp))
  | vfaddVV d s t mk | vfsubVV d s t mk | vfmulVV d s t mk | vfdivVV d s t mk | vfminVV d s t mk | vfmaxVV d s t mk | vfmaVV d s t mk
  | vfmsVV d s t mk | vfnmaVV d s t mk | vfsgnj d s t mk =>
    exact .inl (decodeWords_encode_vectorFloatVV d s t mk _ (by simp))
  | vfsqrt d s mk | vfrece d s mk | vfrsqe d s mk | vfabs d s mk | vfneg d s mk =>
    exact .inl (decodeWords_encode_vectorFloatVV d s 0 mk _ (by simp))
  | vfaddVX d s x mk | vfsubVX d s x mk | vfmulVX d s x mk | vfdivVX d s x mk | vfminVX d s x mk | vfmaxVX d s x mk | vfmaVX d s x mk
  | vfmsVX d s x mk | vfnmaVX d s x mk =>
    exact .inl (decodeWords_encode_vectorFloatVX d s x mk _ (by simp))
  | vcmpeq d s t mk | vcmpne d s t mk | vcmplt d s t mk | vcmple d s t mk | vcmpltu d s t mk | vcmpleu d s t mk | vfcmpeq d s t mk
  | vfcmplt d s t mk | vfcmple d s t mk | vfcmpun d s t mk =>
    exact .inl (decodeWords_encode_vectorCompare d s t mk _ (by simp))
  | vmerge | vmv | vid | vsplat | vext =>
    exact .inl (decodeWords_one rfl (majorOf_packVV ..) (lenOf_packVV ..) (by decide) (show decode22_0 .. = _ by simp [decode22_0]))
  | vdot4 | vdot8 | vbsapply =>
    exact .inl (decodeWords_one rfl (majorOf_packVV ..) (lenOf_packVV ..) (by decide) (show decode23_0 .. = _ by simp [decode23_0]))
  | vcvt | vcvtW | vcvtN | vcvtSC =>
    exact .inl (decodeWords_two rfl (majorOf_packVV ..) (lenOf_packVV ..) (by decide) (show decode24_1 .. = _ by simp [decode24_1]))
  | vsrseed =>
    exact .inl (decodeWords_one rfl (majorOf_packVV ..) (lenOf_packVV ..) (by decide) (show decode25_0 .. = _ by simp [decode25_0]))
  | vld d a mk | vldFE d a mk | vldFC d a mk | vldff d a mk =>
    exact .inl (decodeWords_encode_vectorLoad d 0 0 a mk _ (by simp))
  | vlds d a i mk | vldx d a i mk =>
    exact .inl (decodeWords_encode_vectorLoad d i 0 a mk _ (by simp))
  | vldz d a i =>
    exact .inl (decodeWords_encode_vectorLoad d i 0 a none _ (by simp))
  | vldseg d a n mk =>
    exact .inl (decodeWords_encode_vectorLoad d 0 n a mk _ (by simp))
  | vst d a mk =>
    exact .inl (decodeWords_encode_vectorStore d 0 0 a mk _ (by simp))
  | vsts d a i mk | vstx d a i mk | vstxo d a i mk =>
    exact .inl (decodeWords_encode_vectorStore d i 0 a mk _ (by simp))
  | vstz d a i =>
    exact .inl (decodeWords_encode_vectorStore d i 0 a none _ (by simp))
  | vstseg d a n mk =>
    exact .inl (decodeWords_encode_vectorStore d 0 n a mk _ (by simp))
  | vpf =>
    exact .inl (decodeWords_one rfl (majorOf_packVM ..) (lenOf_packVM ..) (by decide) (show decode28_0 .. = _ by simp [decode28_0]))
  | vred d s o mk | vscan d s o mk | vscanx d s o mk =>
    exact .inl (decodeWords_encode_crossLane d s o 0 0 mk 0 _ (by simp))
  | vperm d s t mk =>
    exact .inl (decodeWords_encode_crossLane d s 0 t 0 mk 0 _ (by simp))
  | vcomp d s m | vexpd d s m =>
    exact .inl (decodeWords_encode_crossLane d s 0 0 0 none m _ (by simp))
  | vfilt d s mk =>
    exact .inl (decodeWords_encode_crossLane d s 0 0 0 mk 0 _ (by simp))
  | vtopk d s x mk | vslideup d s x mk | vslidedn d s x mk =>
    exact .inl (decodeWords_encode_crossLane d s 0 0 x mk 0 _ (by simp))
  | binr | challoc | chpool =>
    exact .inl (decodeWords_one rfl (majorOf_packZR ..) (lenOf_packZR ..) (by decide) (show decode2C_0 .. = _ by simp [decode2C_0]))
  | strmLd | strmLdFab | strmSt | strmCp | strmGx | strmPost | strmWait =>
    exact .inl (decodeWords_two rfl (majorOf_packZR ..) (lenOf_packZR ..) (by decide)
      (show decode2D_1 (packZR ..) _ = _ by simp [decode2D_1]))
  | strmMark =>
    exact .inl (decodeWords_two rfl (majorOf_packZR ..) (lenOf_packZR ..) (by decide)
      (show decode2D_1 (packZR 0x2D 1 6 0 0 0) _ = _ by simp [decode2D_1]))
  | tqdecl | tqld | tqpop =>
    exact .inl (decodeWords_one rfl (majorOf_packZR ..) (lenOf_packZR ..) (by decide) (show decode2E_0 .. = _ by simp [decode2E_0]))
  | vaadd d a i mk | vaand d a i mk | vaor d a i mk | vaxor d a i mk | vamin d a i mk | vamax d a i mk | vaminu d a i mk | vamaxu d a i mk
  | vafadd d a i mk | vaswap d a i mk | vacas d a i mk | vcadd d a i mk | vcand d a i mk | vcor d a i mk | vcxor d a i mk | vcmin d a i mk
  | vcmax d a i mk | vcminu d a i mk | vcmaxu d a i mk | vcfadd d a i mk | vgl d a i mk =>
    exact .inl (decodeWords_encode_vectorAtomic d i a mk 0 _ (by simp))
  | vsc d a i m =>
    exact .inl (decodeWords_encode_vectorAtomic d i a none m _ (by simp))
  | amadd d s t | amand d s t | amor d s t | amxor d s t | ammin d s t | ammax d s t | amminu d s t | ammaxu d s t | amswap d s t | amcas d s t
  | amaddW d s t | amandW d s t | amorW d s t | amxorW d s t | amminW d s t | ammaxW d s t | amminuW d s t | ammaxuW d s t | amswapW d s t
  | amcasW d s t =>
    exact .inl (decodeWords_encode_scalarAtomic d t s _ (by simp))
  | amaddQ32 d s t q | amandQ32 d s t q | amorQ32 d s t q | amxorQ32 d s t q | amminQ32 d s t q | ammaxQ32 d s t q | amminuQ32 d s t q
  | ammaxuQ32 d s t q | amswapQ32 d s t q | amcasQ32 d s t q | amaddWQ32 d s t q | amandWQ32 d s t q | amorWQ32 d s t q | amxorWQ32 d s t q
  | amminWQ32 d s t q | ammaxWQ32 d s t q | amminuWQ32 d s t q | ammaxuWQ32 d s t q | amswapWQ32 d s t q | amcasWQ32 d s t q =>
    exact .inl (decodeWords_encode_scalarAtomicQ32 d t s q _ (by simp))
  | fence | bara | barw =>
    exact .inl (decodeWords_one rfl (majorOf_packZR ..) (lenOf_packZR ..) (by decide) (show decode31_0 .. = _ by simp [decode31_0]))
  | cflush s | cinv s | cclean s | czero s =>
    exact .inl (decodeWords_encode_cacheControl s 0 0 _ (by simp))
  | cpf s wi =>
    exact .inl (decodeWords_encode_cacheControl s wi 0 _ (by simp))
  | isync s t =>
    exact .inl (decodeWords_encode_cacheControl s 0 t _ (by simp))
  | mmode | qclaim | qrel | qacc | bsset =>
    exact .inl (decodeWords_one rfl (majorOf_packZR ..) (lenOf_packZR ..) (by decide) (show decode33_0 .. = _ by simp [decode33_0]))
  | qstage | qchain | mgemm | qdrain =>
    exact .inl (decodeWords_two rfl (majorOf_packZR ..) (lenOf_packZR ..) (by decide) (show decode34_1 .. = _ by simp [decode34_1]))
  | cfgLoad d b t =>
    exact .inl (decodeWords_encode_fabricConfiguration d t 0 b _ (by simp))
  | cfgCheck d b | cfgSave d b | cfgRest d b =>
    exact .inl (decodeWords_encode_fabricConfiguration d 0 0 b _ (by simp))
  | cfgSel d s | cfgGuard d s =>
    exact .inl (decodeWords_encode_fabricConfiguration d 0 s 0 _ (by simp))
  | cfgBind s t =>
    exact .inl (decodeWords_encode_fabricConfiguration 0 t s 0 _ (by simp))
  | cfgWr d s t =>
    exact .inl (decodeWords_encode_fabricConfiguration d t s 0 _ (by simp))
  | launch | lstat =>
    exact .inl (decodeWords_one rfl (majorOf_packZR ..) (lenOf_packZR ..) (by decide) (show decode38_0 .. = _ by simp [decode38_0]))
  | tmark | profLock | profUnlock | brkpt | cntrd =>
    exact .inl (decodeWords_one rfl (majorOf_packZR ..) (lenOf_packZR ..) (by decide) (show decode39_0 .. = _ by simp [decode39_0]))
  | elemAdd sa sb da db tag | elemSub sa sb da db tag | elemMul sa sb da db tag | elemAnd sa sb da db tag | elemOr sa sb da db tag
  | elemXor sa sb da db tag | elemMin sa sb da db tag | elemMax sa sb da db tag | elemMinu sa sb da db tag | elemMaxu sa sb da db tag
  | elemFadd sa sb da db tag | elemFsub sa sb da db tag | elemFmul sa sb da db tag | elemFmin sa sb da db tag | elemFmax sa sb da db tag
  | elemDot4 sa sb da db tag =>
    exact .inr (decodeWords_encode_element sa sb da db tag 0 0 0 _ (by simp))
  | elemAddl sa da db tag lit | elemMull sa da db tag lit | elemAndl sa da db tag lit | elemShl sa da db tag lit | elemShr sa da db tag lit
  | elemSar sa da db tag lit | elemLdt sa da db tag lit =>
    exact .inr (decodeWords_encode_element sa 0 da db tag 0 lit 0 _ (by simp))
  | elemFma sa sb da db tag l3 | elemMac sa sb da db tag l3 | elemCmpeq sa sb da db tag l3 | elemCmplt sa sb da db tag l3
  | elemCmpltu sa sb da db tag l3 | elemFcmplt sa sb da db tag l3 | elemFcmpeq sa sb da db tag l3 | elemSel sa sb da db tag l3 =>
    exact .inr (decodeWords_encode_element sa sb da db tag l3 0 0 _ (by simp))
  | elemSetp l3 | elemClrp l3 =>
    exact .inr (decodeWords_encode_element 0 0 0 0 0 l3 0 0 _ (by simp))
  | elemMovp sa l3 =>
    exact .inr (decodeWords_encode_element sa 0 0 0 0 l3 0 0 _ (by simp))
  | elemMov sa da db tag | elemAbs sa da db tag | elemPopc sa da db tag =>
    exact .inr (decodeWords_encode_element sa 0 da db tag 0 0 0 _ (by simp))
  | elemLit da db tag lit =>
    exact .inr (decodeWords_encode_element 0 0 da db tag 0 lit 0 _ (by simp))
  | elemDrop sa sb =>
    exact .inr (decodeWords_encode_element sa sb 0 0 0 0 0 0 _ (by simp))
  | elemStt sa sb tag lit =>
    exact .inr (decodeWords_encode_element sa sb 0 0 tag 0 lit 0 _ (by simp))
  | elemCnt da db tag l3 =>
    exact .inr (decodeWords_encode_element 0 0 da db tag l3 0 0 _ (by simp))
  | elemCtx l2 =>
    exact .inr (decodeWords_encode_element 0 0 0 0 0 0 0 l2 _ (by simp))
  | elemSteer sa da db tag l3 =>
    exact .inr (decodeWords_encode_element sa 0 da db tag l3 0 0 _ (by simp))
  | yield | joinl | exit | scall | tret | tlbiall | fenceSV | fenceVS | fenceVV | cfgMark => exact .inl rfl
  | elemNop | elemHalt => exact .inr rfl
  | _ => exact absurd rfl hw

end Sys2Proof
end

section
/-! PROOF. What a level may not do (R43, R384, R389, R401), and the branches and jumps (R28, R104, R106, R133). -/

namespace Sys2Proof.Machine

open Sys2Proof

/-! ### Traps of the issuing strand -/

/-- An instruction whose traps follow no translation takes the trap of its body, with nothing of the instruction done. -/
theorem issueWith_trap {s : State} {i : StrandId} {len : Nat} {k : TrapRec} {body : StrandId → Strand → State → Except Stop State}
    {trap : StrandId → TrapRec → State} (hi : MayIssue s i) (h : body i (s.strand i) (advance i len s) = .error (.trap k)) :
    issueWith s len body trap = .next (trap i k) := by
  obtain ⟨hc, hs⟩ := hi
  simp [issueWith, hc, hs, h]

/-- A cause that no walk answers leaves the counts of translation alone (R417). -/
theorem countFault_of_no_walk (x : Xl) (va : Addr) (s : State) {c : BitVec 8} (h : walkCause c = false) : countFault x c va s = s := by
  simp [countFault, h]

/-- An instruction whose body stops at a fault that no walk answers takes its precise trap. -/
theorem issue_preciseStop {s : State} {i : StrandId} {len : Nat} {f : Flt} {body : StrandId → Strand → State → Except Stop State} (hi : MayIssue s i)
    (h : body i (s.strand i) (advance i len s) = .error (preciseStop (s.strand i) f)) (hf : walkCause f.cause = false) :
    issue s len body = .next (takeTrap i (preciseRec (s.strand i) f) s) :=
  (issue_trap hi.1 hi.2 h).trans (by rw [countFault_of_no_walk (c := (preciseRec (s.strand i) f).cause) _ _ _ hf])

/-! ### Privilege -/

theorem exec_sysrd (d : BitVec 5) (r : BitVec 15) (st : State) : exec (.sysrd d r) st = sysAccess d r true (fun _ _ _ => none) st := rfl

theorem exec_syswr (d : BitVec 5) (r : BitVec 15) (st : State) :
    exec (.syswr d r) st = sysAccess d r false (fun old rw x => some ((old &&& ~~~ rw) ||| (x &&& rw), x)) st := rfl

theorem exec_sysset (d : BitVec 5) (r : BitVec 15) (st : State) :
    exec (.sysset d r) st = sysAccess d r false (fun old rw x => some (old ||| (x &&& rw), 0)) st := rfl

theorem exec_sysclr (d : BitVec 5) (r : BitVec 15) (st : State) :
    exec (.sysclr d r) st = sysAccess d r false (fun old rw x => some (old &&& ~~~ (x &&& rw), 0)) st := rfl

theorem exec_sysxch (d : BitVec 5) (r : BitVec 15) (st : State) :
    exec (.sysxch d r) st = sysAccess d r true (fun old rw x => some ((old &&& ~~~ rw) ||| (x &&& rw), x)) st := rfl

theorem exec_tlbiva (s : BitVec 4) (t : BitVec 5) (st : State) :
    exec (.tlbiva s t) st = invalidate (fun r => .page (r.ar s) ((r.xr t).setWidth 16)) [t] st := rfl

theorem exec_tlbias (t : BitVec 5) (st : State) : exec (.tlbias t) st = invalidate (fun r => .space ((r.xr t).setWidth 16)) [t] st := rfl

theorem exec_tlbiall (st : State) : exec .tlbiall st = invalidate (fun _ => .all) [] st := rfl

/-- A system-register instruction with a number that is assigned nowhere is illegal at every level, and one below the level of its register takes
PRIVILEGE. -/
theorem sysAccess_refused {st : State} {i : StrandId} {d : BitVec 5} {r : BitVec 15} {out : Bool} {f : Word → Word → Word → Option (Word × Word)}
    {n : Instr} (he : exec n st = sysAccess d r out f st) (hi : MayIssue st i) :
    (sysLevel r.toNat = none → exec n st = .next (takeTrap i (preciseRec (st.strand i) ⟨cIllegal, 0, 0⟩) st)) ∧
    (∀ l, sysLevel r.toNat = some l → (st.strand i).level.code < l.code →
      exec n st = .next (takeTrap i (preciseRec (st.strand i) ⟨cPrivilege, 0, 0⟩) st)) := by
  refine ⟨fun hr => he.trans (issueWith_trap hi ?_), fun l hr hl => he.trans (issueWith_trap hi ?_)⟩
  · simp only [hr]
    rfl
  · simp only [hr, Level.below, decide_eq_true hl, if_true]
    rfl

theorem execTret_levelU {st : State} {i : StrandId} (hi : MayIssue st i) (hu : (st.strand i).level = .U) :
    execTret st = .next (takeTrap i (preciseRec (st.strand i) ⟨cPrivilege, 0, 0⟩) st) :=
  issue_preciseStop hi (if_pos hu) rfl

theorem invalidate_levelU {st : State} {i : StrandId} {w : Strand → TlbRemoval} {reads : List (BitVec 5)} {n : Instr}
    (he : exec n st = invalidate w reads st) (hi : MayIssue st i) (hu : (st.strand i).level = .U) :
    exec n st = .next (takeTrap i (preciseRec (st.strand i) ⟨cPrivilege, 0, 0⟩) st) :=
  he.trans (issue_preciseStop hi (if_pos hu) rfl)

/-- Settles O17: the five system-register instructions are one access, and the three invalidations one operation. -/
theorem privilegeIsChecked : Obligations.PrivilegeIsChecked := by
  intro st i d t s r hi
  simp only [List.forall_mem_cons, List.not_mem_nil, false_imp_iff, implies_true, and_true]
  refine ⟨⟨?sysrd, ?syswr, ?sysset, ?sysclr, ?sysxch⟩, fun hu => ⟨?tret, ?tlbiva, ?tlbias, ?tlbiall⟩⟩
  case sysrd => exact sysAccess_refused (exec_sysrd d r st) hi
  case syswr => exact sysAccess_refused (exec_syswr d r st) hi
  case sysset => exact sysAccess_refused (exec_sysset d r st) hi
  case sysclr => exact sysAccess_refused (exec_sysclr d r st) hi
  case sysxch => exact sysAccess_refused (exec_sysxch d r st) hi
  case tret => exact execTret_levelU hi hu
  case tlbiva => exact invalidate_levelU (exec_tlbiva s t st) hi hu
  case tlbias => exact invalidate_levelU (exec_tlbias t st) hi hu
  case tlbiall => exact invalidate_levelU (exec_tlbiall st) hi hu

/-! ### Branches and jumps -/

theorem not_slt_iff {w : Nat} {a b : BitVec w} : (!a.slt b) = true ↔ b.toInt ≤ a.toInt := by
  simp [BitVec.slt_eq_decide]

theorem not_ult_iff {w : Nat} {a b : BitVec w} : (!a.ult b) = true ↔ b.toNat ≤ a.toNat := by
  simp [BitVec.ult_eq_decide]

/-- A conditional branch whose registers are settled goes to its target where its condition holds, and past itself where it does not. -/
theorem branch_goes {st : State} {i : StrandId} {len : Nat} {reads : List (BitVec 5)} {taken : Strand → Bool} {off : Addr} {c : Prop}
    [Decidable c] (hi : MayIssue st i) (hr : Settled st i reads) (hc : taken (st.strand i) = true ↔ c) :
    branch st len reads taken off = .next (if c then afterPc st i len ((st.strand i).pc + 4 * off) else advance i len st) := by
  refine issue_ok hi.1 hi.2 ?_
  by_cases h : c
  · simp [hr, hc.mpr h, h, afterPc]
  · simp [hr, mt hc.mp h, h]

theorem jump_goes {st : State} {i : StrandId} (len : Nat) (d : BitVec 4) (off : Addr) (hi : MayIssue st i) :
    jump st len d off = .next ((advance i len st).modStrand i fun u =>
      { u.setA d ((st.strand i).pc + BitVec.ofNat 80 len) with pc := (st.strand i).pc + 4 * off }) :=
  issue_ok hi.1 hi.2 rfl

theorem execJalr_aligned {st : State} {i : StrandId} (d s : BitVec 4) (k : BitVec 14) (hi : MayIssue st i)
    (h : ((st.strand i).ar s + 4 * sext80 k).toNat % 4 = 0) :
    execJalr d s k st = .next ((advance i one st).modStrand i fun u =>
      { u.setA d ((st.strand i).pc + 4) with pc := (st.strand i).ar s + 4 * sext80 k }) :=
  issue_ok hi.1 hi.2 (if_neg (by simp only [h, bne_self_eq_false, Bool.false_eq_true, not_false_iff]))

theorem execJalr_misaligned {st : State} {i : StrandId} (d s : BitVec 4) (k : BitVec 14) (hi : MayIssue st i)
    (h : ((st.strand i).ar s + 4 * sext80 k).toNat % 4 ≠ 0) :
    execJalr d s k st = .next (takeTrap i (preciseRec (st.strand i) ⟨cJumpMisaligned, (st.strand i).ar s + 4 * sext80 k, 0⟩) st) :=
  issue_preciseStop hi (if_pos (bne_iff_ne.mpr h)) rfl

theorem pc_sbrAdvance (vl : Nat) (regs : List (BitVec 4 × Nat)) (t : Strand) : (sbrAdvance vl regs t).pc = t.pc := by
  induction regs generalizing t with
  | nil => rfl
  | cons p rest ih => exact ih _

/-- SBR on a tile, with its register and vl settled, goes by what is left. -/
theorem execSbr_goes {st : State} {i : StrandId} {c : BitVec 5} (a0 a1 a2 a3 : BitVec 4) (n : BitVec 3) (sz : BitVec 8) (off : BitVec 24)
    (hi : MayIssue st i) (hx : Settled st i [c]) (ht : onControl i = false) (hv : (st.strand i).pendVl = false) :
    ∃ r, execSbr c a0 a1 a2 a3 n sz off st = .next r ∧
      (r.strand i).pc = (st.strand i).pc + (if 0 < ((st.strand i).xr c - (st.strand i).vl.setWidth 64).toInt then 4 * sext80 off else 8) := by
  refine ⟨_, issue_ok hi.1 hi.2 ((if_neg (by simp [ht])).trans (if_neg (by simp [hx, hv]))), ?_⟩
  · rw [State.strand_modStrand_self]
    split
    · rfl
    · rw [pc_sbrAdvance, Strand.pc_setX, advance_strand, if_pos rfl]
      rfl

/-- Settles O6: the branches differ in the condition alone, and both lengths of each in the length alone. -/
theorem branchesAndJumpsGo : Obligations.BranchesAndJumpsGo := by
  refine ⟨fun st i hi => ⟨fun s t hx => ⟨fun k => ?x, fun k => ?x32⟩, fun s t => ⟨fun k => ?a, fun k => ?a32⟩⟩, fun st i d s hi => ⟨?jal, ?jal32, ?jalr⟩,
    fun st i c a0 a1 a2 a3 n sz off hi hx ht hv => execSbr_goes a0 a1 a2 a3 n sz off hi hx ht hv⟩
  case x =>
    show execBeq s t k st = _ ∧ execBne s t k st = _ ∧ execBlt s t k st = _ ∧ execBge s t k st = _ ∧ execBltu s t k st = _ ∧ execBgeu s t k st = _
    exact ⟨branch_goes hi hx beq_iff_eq, branch_goes hi hx bne_iff_ne, branch_goes hi hx BitVec.slt_iff_toInt_lt,
      branch_goes hi hx not_slt_iff, branch_goes hi hx BitVec.ult_iff_lt, branch_goes hi hx not_ult_iff⟩
  case x32 =>
    show execBeqOff32 s t k st = _ ∧ execBneOff32 s t k st = _ ∧ execBltOff32 s t k st = _ ∧ execBgeOff32 s t k st = _ ∧
      execBltuOff32 s t k st = _ ∧ execBgeuOff32 s t k st = _
    exact ⟨branch_goes hi hx beq_iff_eq, branch_goes hi hx bne_iff_ne, branch_goes hi hx BitVec.slt_iff_toInt_lt,
      branch_goes hi hx not_slt_iff, branch_goes hi hx BitVec.ult_iff_lt, branch_goes hi hx not_ult_iff⟩
  case a =>
    show execBaeq s t k st = _ ∧ execBane s t k st = _ ∧ execBaltu s t k st = _ ∧ execBageu s t k st = _
    exact ⟨branch_goes hi rfl beq_iff_eq, branch_goes hi rfl bne_iff_ne, branch_goes hi rfl BitVec.ult_iff_lt, branch_goes hi rfl not_ult_iff⟩
  case a32 =>
    show execBaeqOff32 s t k st = _ ∧ execBaneOff32 s t k st = _ ∧ execBaltuOff32 s t k st = _ ∧ execBageuOff32 s t k st = _
    exact ⟨branch_goes hi rfl beq_iff_eq, branch_goes hi rfl bne_iff_ne, branch_goes hi rfl BitVec.ult_iff_lt, branch_goes hi rfl not_ult_iff⟩
  case jal => exact fun k => jump_goes 4 d (sext80 k) hi
  case jal32 => exact fun k => jump_goes 8 d (sext80 k) hi
  case jalr => exact fun k => ⟨execJalr_aligned d s k hi, execJalr_misaligned d s k hi⟩

end Sys2Proof.Machine
end

section
/-! PROOF. Faults found at a queue's head, predicate writes and results of the fabric's elements (R46, R48, R331, R332, R337, R338, R344). -/

namespace Sys2Proof.Machine

open Sys2Proof

/-! ### Writes to memory and error records leave the tiles alone -/

@[simp] theorem noteDirty_tiles (n : Nat) (s : State) : (noteDirty n s).tiles = s.tiles := by
  unfold noteDirty; (repeat' split) <;> rfl

@[simp] theorem modCrucible_tiles (n : Nat) (f : Crucible → Crucible) (s : State) : (modCrucible n f s).tiles = s.tiles := by
  unfold modCrucible; split <;> rfl

@[simp] theorem evict_tiles (q : BitVec 2) (l : Nat) (room : Crucible → Bool) (n : Nat) (s : State) : (evict q l room n s).tiles = s.tiles := by
  induction n generalizing s with
  | zero => rfl
  | succ n ih =>
    simp only [evict]
    split
    · rfl
    · split
      · rfl
      · rw [ih]; split <;> simp [writeBack]

@[simp] theorem unshareLine_tiles (n : Nat) (s : State) : (unshareLine n s).tiles = s.tiles := by
  unfold unshareLine; split
  · rfl
  · simp [makeRoom]

@[simp] theorem touchLine_tiles (k : Option StrandId) (n : Nat) (s : State) : (touchLine k n s).tiles = s.tiles := by simp [touchLine, loseLinks]

theorem foldl_touchLine_tiles (k : Option StrandId) (l : List Nat) (s : State) : (l.foldl (fun s n => touchLine k n s) s).tiles = s.tiles := by
  induction l generalizing s with
  | nil => rfl
  | cons n r ih => rw [List.foldl_cons, ih, touchLine_tiles]

@[simp] theorem writeMem_tiles (k : Option StrandId) (a : Nat) (bs : List Byte) (s : State) : (writeMem k a bs s).tiles = s.tiles := by
  unfold writeMem
  split
  · rfl
  · exact foldl_touchLine_tiles k _ s

@[simp] theorem hwWrite_tiles (a : Nat) (bs : List Byte) (s : State) : (hwWrite a bs s).tiles = s.tiles := writeMem_tiles none a bs s

@[simp] theorem errorRecord_tiles (q : BitVec 2) (typ tile cause handle pa : Nat) (s : State) :
    (errorRecord q typ tile cause handle pa s).tiles = s.tiles := by
  obtain hr | ⟨a, n, bs, hr⟩ := errorRecord_cases q typ tile cause handle pa s
  · rw [hr]
  · obtain ⟨b, c, d, f, g, hw | hw⟩ := ringWrite_cases a n 64 bs s <;> rw [hr, hw] <;> simp [countRecord]

/-! ### Elements after an update -/

theorem State.elemAt_of_tiles {s r : State} (h : r.tiles = s.tiles) (e : ElemId) : r.elemAt e = s.elemAt e := by
  simp [State.elemAt, State.tile, h]

@[simp] theorem fabric_modFabric (t : TileId) (g : Fabric → Fabric) (s : State) : ((modFabric t g s).tile t).fabric = g (s.tile t).fabric := by
  simp [modFabric]

@[simp] theorem elemAt_modElem (e : ElemId) (g : Elem → Elem) (s : State) : (modElem e g s).elemAt e = g (s.elemAt e) := by
  simp [modElem, State.elemAt, Fabric.elem, Fabric.setElem]

/-- A change of the fabric that keeps the table of elements keeps each element. -/
theorem elemAt_modFabric {t : TileId} {g : Fabric → Fabric} (h : ∀ f, (g f).elems = f.elems) (e : ElemId) (s : State) :
    (modFabric t g s).elemAt e = s.elemAt e := by
  by_cases ht : e.tile = t
  · subst ht
    simp [State.elemAt, Fabric.elem, h]
  · simp [State.elemAt, modFabric, State.tile_modTile_ne _ _ ht]

theorem fabric_modElem (e : ElemId) (g : Elem → Elem) (s : State) :
    ((modElem e g s).tile e.tile).fabric = (s.tile e.tile).fabric.setElem e.idx.toNat (g (s.elemAt e)) := by
  simp [modElem, State.elemAt]

@[simp] theorem elemAt_giveBack (t : TileId) (l : List Credit) (e : ElemId) (s : State) : (giveBack t l s).elemAt e = s.elemAt e := by
  unfold giveBack
  split
  · rfl
  · apply elemAt_modFabric
    intro f
    rfl

@[simp] theorem elemAt_bump (t : TileId) (k : Fin 10) (n : Nat) (e : ElemId) (s : State) : (bump t k n s).elemAt e = s.elemAt e := by
  by_cases ht : e.tile = t
  · subst ht
    simp [State.elemAt, bump]
  · simp [State.elemAt, bump, State.tile_modTile_ne _ _ ht]

/-- What a map holds at a key after each of its values has changed. -/
theorem amGet_map_keyed {κ ν μ : Type} [DecidableEq κ] (k : κ) (g : κ → ν → μ) (l : List (κ × ν)) :
    amGet k (l.map fun p => (p.1, g p.1 p.2)) = (amGet k l).map (g k) := by
  induction l with
  | nil => rfl
  | cons p r ih => by_cases h : k = p.1 <;> simp [amGet, h, ih]

/-! ### Element faults (R342, R343) -/

/-- An element whose firings have lost the memory operations of a context (R343). -/
def Elem.dropOps (c : Nat) (x : Elem) : Elem :=
  { x with firings := x.firings.map fun g => { g with mems := g.mems.filter fun o => o.ctx ≠ c } }

/-- Discarding the memory operations of a context changes an element in its firings alone. -/
theorem elem_dropOps (f : Fabric) (c q : Nat) : (f.dropOps c).elem q = (f.elem q).dropOps c := by
  have h := amGet_map_keyed q (fun _ x => Elem.dropOps c x) f.elems
  rw [Fabric.elem, show (f.dropOps c).elems = f.elems.map fun p => (p.1, p.2.dropOps c) from rfl, h, Fabric.elem]
  cases amGet q f.elems <;> rfl

/-- A fault freezes the element, whoever takes it, and changes nothing else of it but the operations of its firings. -/
theorem elemAt_elemFault (e : ElemId) (en : Nat) (cause : BitVec 8) (addr : Addr) (seq wave : Nat) (s : State) :
    ∃ l, (elemFault e en cause addr seq wave s).elemAt e = { s.elemAt e with status := .frozen, firings := l } := by
  have hx := elemAt_modElem e (fun x => { x with status := .frozen }) s
  unfold elemFault
  dsimp only
  split
  · exact ⟨_, hx⟩
  · refine ⟨((s.elemAt e).dropOps ((s.elemAt e).ctx.getD 0)).firings, (State.elemAt_of_tiles (errorRecord_tiles ..) e).trans ?_⟩
    rw [State.elemAt, fabric_modFabric, elem_dropOps, ← State.elemAt, hx]
    rfl

/-! ### The firings before and after a resolved prediction (R332) -/

theorem splitFirst_of_none {α : Type} {p : α → Bool} {l : List α} (h : ∀ a ∈ l, p a = false) : splitFirst p l = (l, []) := by
  induction l with
  | nil => rfl
  | cons a r ih =>
    rw [splitFirst, h a List.mem_cons_self, ih fun b hb => h b (List.mem_cons_of_mem a hb)]
    rfl

theorem splitFirst_append {α : Type} {p : α → Bool} {l : List α} {a : α} (m : List α) (h : ∀ b ∈ l, p b = false) (ha : p a = true) :
    splitFirst p (l ++ a :: m) = (l, a :: m) := by
  induction l with
  | nil => simp [splitFirst, ha]
  | cons b r ih =>
    rw [List.cons_append, splitFirst, h b List.mem_cons_self, ih fun c hc => h c (List.mem_cons_of_mem b hc)]
    rfl

@[simp] theorem length_settlePrediction (n : Nat) (l before : List Firing) : (settlePrediction n before l).length = l.length := by
  induction l generalizing before with
  | nil => rfl
  | cons g r ih => simp [settlePrediction, ih]

theorem length_confirm (l : List Firing) : (confirm l).1.length = l.length := by
  induction l with
  | nil => rfl
  | cons g r ih =>
    rw [confirm]
    split
    · rfl
    · simp [ih]

/-- A firing predicted the other value of a bit where its predictions hold it. -/
theorem predictsOther_iff (h : Firing) (n : Nat) (v : Bool) : (h.relied.any fun r => r.1 = n && r.2 != v) = true ↔ (n, !v) ∈ h.relied := by
  rw [List.any_eq_true]
  constructor
  · rintro ⟨⟨m, w⟩, hm, hp⟩
    obtain ⟨rfl, hw⟩ : m = n ∧ w ≠ v := by simpa using hp
    rwa [show (!v) = w from by cases v <;> cases w <;> simp_all]
  · intro hm
    exact ⟨_, hm, by cases v <;> simp⟩

/-- Confirming an element's firings keeps their number, and everything else of the element. -/
theorem elemAt_confirmElem (e : ElemId) (s : State) :
    ∃ l, (confirmElem e s).elemAt e = { s.elemAt e with firings := l } ∧ l.length = (s.elemAt e).firings.length := by
  refine ⟨_, ?_, length_confirm _⟩
  unfold confirmElem
  rw [elemAt_giveBack, elemAt_modElem]

/-! ### Queues, registers and bits of an element -/

theorem queue_setQueue_same (x : Elem) {n : Nat} (l : List Token) (h : n < 4) : (x.setQueue n l).queue n = l := by
  simp [Elem.queue, Elem.setQueue, h]

theorem queue_setQueue_ne (x : Elem) {m n : Nat} (l : List Token) (h : m ≠ n) : (x.setQueue m l).queue n = x.queue n := by
  simp [Elem.queue, Elem.setQueue, List.getElem?_set_ne h]

theorem kr_setK_same (x : Elem) {n : Nat} (v : Word) (h : n < 8) : (x.setK n v).kr n = v := by
  simp [Elem.kr, Elem.setK, h]

theorem bit_setBit_same (x : Elem) {n : Nat} (v : Bool) (h : n < 8) : (x.setBit n v).bit n = v := by
  cases v <;> simp [Elem.bit, Elem.setBit, h]

theorem bit_setBit_ne (x : Elem) {m n : Nat} (v : Bool) (h : m ≠ n) : (x.setBit n v).bit m = x.bit m := by
  cases v <;> simp [Elem.bit, Elem.setBit, BitVec.getLsbD_twoPow, Ne.symm h]
  intro hx
  exact BitVec.lt_of_getLsbD hx

theorem stripMarkers_of_head {l : List Token} (h : ∀ k ∈ l.head?, k.kind ≠ .marker) : stripMarkers l = l := by
  cases l with
  | nil => rfl
  | cons k r => simp [stripMarkers, h k (by simp)]

/-- An element with the markers that nothing awaits taken from the heads of some of its queues (R354). -/
def Elem.strip (inm : Nat) (x : Elem) (l : List Nat) : Elem :=
  l.foldl (fun x n => if inm.testBit n then x else x.setQueue n (stripMarkers (x.queue n))) x

/-- What is left of an element when markers leave the heads of its queues: everything but the queues. -/
theorem strip_ins (inm : Nat) (x : Elem) (l : List Nat) : ∃ v, x.strip inm l = { x with ins := v } := by
  induction l generalizing x with
  | nil => exact ⟨_, rfl⟩
  | cons n r ih =>
    obtain ⟨v, hv⟩ := ih (if inm.testBit n then x else x.setQueue n (stripMarkers (x.queue n)))
    refine ⟨v, hv.trans ?_⟩
    split <;> rfl

theorem queue_strip (inm : Nat) (x : Elem) (l : List Nat) {q : Nat} (hq : q < 4) (h : ∀ k ∈ (x.queue q).head?, k.kind ≠ .marker) :
    (x.strip inm l).queue q = x.queue q := by
  induction l generalizing x with
  | nil => rfl
  | cons n r ih =>
    have hstep : (if inm.testBit n then x else x.setQueue n (stripMarkers (x.queue n))).queue q = x.queue q := by
      split
      · rfl
      · by_cases hn : n = q
        · subst hn
          rw [queue_setQueue_same _ _ hq, stripMarkers_of_head h]
        · exact queue_setQueue_ne _ _ hn
    exact (ih _ (by rwa [hstep])).trans hstep

theorem settle_idle (f : Fabric) (now q : Nat) {x : Elem} (h : x.ctx = none) : f.settle now q x = x := by
  simp [Fabric.settle, h]

theorem settle_some (f : Fabric) (now q : Nat) {x : Elem} {c : Nat} (h : x.ctx = some c) :
    f.settle now q x = (let inm := (f.context c).inm q
      let y := x.strip inm (List.range 4)
      if inm = 0 then y else { y with met := if y.marked inm then some (y.met.getD now) else none }) := by
  simp only [Fabric.settle, h]
  rfl

/-- Settling an element changes its queues and the cycle of its marker condition alone. -/
theorem settle_eq (f : Fabric) (now q : Nat) (x : Elem) : ∃ v m, f.settle now q x = { x with ins := v, met := m } := by
  obtain hc | ⟨c, hc⟩ := Option.eq_none_or_eq_some x.ctx
  · exact ⟨_, _, settle_idle f now q hc⟩
  · obtain ⟨v, hv⟩ := strip_ins ((f.context c).inm q) x (List.range 4)
    rw [settle_some f now q hc]
    dsimp only
    split
    · exact ⟨v, x.met, hv⟩
    · rw [hv]
      exact ⟨v, _, rfl⟩

/-- Settling an element leaves a queue whose head is no marker. -/
theorem queue_settle (f : Fabric) (now p : Nat) (x : Elem) {q : Nat} (hq : q < 4) (h : ∀ k ∈ (x.queue q).head?, k.kind ≠ .marker) :
    (f.settle now p x).queue q = x.queue q := by
  cases hc : x.ctx with
  | none => rw [settle_idle f now p hc]
  | some c =>
    have hs := queue_strip ((f.context c).inm p) x (List.range 4) hq h
    rw [settle_some f now p hc]
    dsimp only
    split <;> exact hs

/-! ### Predicate writes (R331 to R333) -/

theorem foldl_giveTaken_ins (l : List (Nat × Token)) (x : Elem) :
    ∃ v, l.foldl (fun x (n, k) => x.setQueue n (k :: x.queue n)) x = { x with ins := v } := by
  induction l generalizing x with
  | nil => exact ⟨_, rfl⟩
  | cons p r ih => exact ih _

/-- Undoing a squashed firing changes an element's queues and status alone. -/
theorem unmake_eq (x : Elem) (g : Firing) : ∃ v t, x.unmake g = { x with ins := v, status := t } := by
  obtain ⟨v, hv⟩ := foldl_giveTaken_ins g.taken x
  unfold Elem.unmake
  rw [hv]
  dsimp only
  split
  · exact ⟨v, _, rfl⟩
  · exact ⟨v, x.status, rfl⟩

theorem foldl_unmake_eq (l : List Firing) (x : Elem) : ∃ v t, l.foldl Elem.unmake x = { x with ins := v, status := t } := by
  induction l generalizing x with
  | nil => exact ⟨_, _, rfl⟩
  | cons g r ih =>
    obtain ⟨v, t, hu⟩ := unmake_eq x g
    rw [List.foldl_cons, hu]
    exact ih _

/-- A squashed firing that had taken one token puts it back at the head of its queue. -/
theorem queue_unmake_one {x : Elem} {g : Firing} {q : Nat} {k : Token} (h : g.taken = [(q, k)]) (hq : q < 4) : (x.unmake g).queue q = k :: x.queue q := by
  unfold Elem.unmake
  rw [h]
  dsimp only [List.foldl]
  split <;> exact queue_setQueue_same x _ hq

/-- An element after the write of its predicate bit, before it settles: `kept` are the younger firings that stay, `bad` those that are squashed. -/
def Elem.resolved (x : Elem) (now n : Nat) (v : Bool) (old kept bad : List Firing) (g : Firing) : Elem :=
  let y := bad.reverse.foldl Elem.unmake { x.setBit n v with firings := [] }
  { y with firings := old ++ { g with bit := none } :: settlePrediction n old kept, last := Nat.max y.last (now + 1) }

/-- What a resolved write leaves of the element but for its queues, its status and its firings. -/
theorem resolved_eq (x : Elem) (now n : Nat) (v : Bool) (old kept bad : List Firing) (g : Firing) :
    ∃ i t l, x.resolved now n v old kept bad g = { x.setBit n v with ins := i, status := t, firings := l, last := Nat.max x.last (now + 1) } := by
  obtain ⟨i, t, h⟩ := foldl_unmake_eq bad.reverse { x.setBit n v with firings := [] }
  exact ⟨i, t, _, by rw [Elem.resolved, h]; rfl⟩

/-- The oldest due write of a predicate bit resolves, whichever of the younger firings it squashes. -/
theorem predicateWriteResolve_elem {st : State} {e : ElemId} {old young kept bad : List Firing} {g : Firing} {n : Nat} {v : Bool}
    (hx : (st.elemAt e).firings = old ++ g :: young) (hold : ∀ h ∈ old, h.bit = none) (hg : g.bit = some (n, v)) (hrel : g.relied = [])
    (hdue : g.due ≤ st.now) (hsplit : splitFirst (fun h => h.relied.any fun r => r.1 = n && r.2 != v) young = (kept, bad)) :
    ∃ r l, exec (.predicateWriteResolve e) st = .next r ∧ l.length = old.length + 1 + kept.length ∧
      r.elemAt e = { (st.tile e.tile).fabric.settle st.now e.idx.toNat ((st.elemAt e).resolved st.now n v old kept bad g) with firings := l } := by
  have hfirst : splitFirst (fun g : Firing => g.bit.isSome) (st.elemAt e).firings = (old, g :: young) := by
    rw [hx]
    exact splitFirst_append young (fun h hh => by rw [hold h hh]; rfl) (by rw [hg]; rfl)
  have hready : (!g.relied.isEmpty || decide (st.now < g.due)) = false := by simp [hrel, hdue]
  obtain ⟨s, hs, hexec⟩ : ∃ s, s.elemAt e = (st.tile e.tile).fabric.settle st.now e.idx.toNat ((st.elemAt e).resolved st.now n v old kept bad g) ∧
      exec (.predicateWriteResolve e) st = .next (confirmElem e s) := by
    show ∃ s, _ ∧ execPredicateWriteResolve e st = _
    simp only [execPredicateWriteResolve, hfirst, hg, hready, hsplit]
    refine ⟨_, ?_, rfl⟩
    split
    · exact elemAt_modElem ..
    · exact (elemAt_bump ..).trans (elemAt_modElem ..)
  obtain ⟨l, hl, hlen⟩ := elemAt_confirmElem e s
  rw [hs] at hl hlen
  refine ⟨_, l, hexec, hlen.trans ?_, hl⟩
  obtain ⟨i, m, hf⟩ := settle_eq (st.tile e.tile).fabric st.now e.idx.toNat ((st.elemAt e).resolved st.now n v old kept bad g)
  rw [hf, Elem.resolved]
  simp only [List.length_append, List.length_cons, length_settlePrediction]
  omega

/-- What a resolved write leaves behind in its element, whatever it squashes: the bit and the cycle from which it may fire again (R331, R344). -/
theorem resolved_last_and_bits {st : State} {x y : Elem} {f : Fabric} {l : List Firing} {q n : Nat} {v : Bool} {old kept bad : List Firing} {g : Firing}
    (hy : y = { f.settle st.now q (x.resolved st.now n v old kept bad g) with firings := l }) :
    st.now < y.last ∧ y.b = (x.setBit n v).b := by
  obtain ⟨i, m, hf⟩ := settle_eq f st.now q (x.resolved st.now n v old kept bad g)
  obtain ⟨j, t, k, hr⟩ := resolved_eq x st.now n v old kept bad g
  rw [hy, hf, hr]
  exact ⟨Nat.lt_of_lt_of_le (Nat.lt_succ_self _) (Nat.le_max_right ..), rfl⟩

/-- A resolved write that was predicted rightly, or not at all, squashes nothing: the element keeps its status and its tokens (R332). -/
theorem resolved_keeps (x : Elem) (now n : Nat) (v : Bool) (old young : List Firing) (g : Firing) :
    (x.resolved now n v old young [] g).status = x.status ∧ ∀ q, (x.resolved now n v old young [] g).queue q = x.queue q := ⟨rfl, fun _ => rfl⟩

/-- The oldest due predicate write sets its bit; the firings up to the first wrong prediction stay, and a squashed firing's token returns. -/
theorem predicateWriteResolve_settles {st : State} {e : ElemId} {old young : List Firing} {g : Firing} {n : Nat} {v : Bool}
    (hx : (st.elemAt e).firings = old ++ g :: young) (hold : ∀ h ∈ old, h.bit = none) (hg : g.bit = some (n, v)) (hn : n < 8) (hrel : g.relied = [])
    (hdue : g.due ≤ st.now) : ∃ r, exec (.predicateWriteResolve e) st = .next r ∧ st.now < (r.elemAt e).last ∧
      (r.elemAt e).bit n = v ∧ (∀ m, m ≠ n → (r.elemAt e).bit m = (st.elemAt e).bit m) ∧
      ((∀ h ∈ young, (n, !v) ∉ h.relied) → (r.elemAt e).firings.length = (st.elemAt e).firings.length ∧ (r.elemAt e).status = (st.elemAt e).status ∧
        (∀ q, q < 4 → (∀ k ∈ ((st.elemAt e).queue q).head?, k.kind ≠ .marker) → (r.elemAt e).queue q = (st.elemAt e).queue q)) ∧
      (∀ kept h bad, young = kept ++ h :: bad → (∀ j ∈ kept, (n, !v) ∉ j.relied) → (n, !v) ∈ h.relied →
        (r.elemAt e).firings.length = old.length + 1 + kept.length ∧
        (∀ q k, bad = [] → h.taken = [(q, k)] → q < 4 → k.kind ≠ .marker → (r.elemAt e).queue q = k :: (st.elemAt e).queue q)) := by
  obtain ⟨kept, bad, hsplit⟩ : ∃ kept bad, splitFirst (fun h : Firing => h.relied.any fun r => r.1 = n && r.2 != v) young = (kept, bad) := ⟨_, _, rfl⟩
  obtain ⟨r, l, hexec, hlen, hr⟩ := predicateWriteResolve_elem hx hold hg hrel hdue hsplit
  obtain ⟨hlast, hb⟩ := resolved_last_and_bits hr
  have hbit (m : Nat) : (r.elemAt e).bit m = ((st.elemAt e).setBit n v).bit m := by rw [Elem.bit, hb, Elem.bit]
  have hno {h : Firing} (hm : (n, !v) ∉ h.relied) : (h.relied.any fun r => r.1 = n && r.2 != v) = false := by
    rwa [← Bool.not_eq_true, predictsOther_iff]
  refine ⟨r, hexec, hlast, ?_, fun m hm => ?_, fun hall => ?_, fun kept' h bad' hy hk hh => ?_⟩
  · rw [hbit, bit_setBit_same _ _ hn]
  · rw [hbit, bit_setBit_ne _ _ hm]
  · obtain ⟨rfl, rfl⟩ : young = kept ∧ [] = bad := by simpa [splitFirst_of_none fun h hh => hno (hall h hh)] using hsplit
    obtain ⟨hstatus, hqueue⟩ := resolved_keeps (st.elemAt e) st.now n v old young g
    have hl : (r.elemAt e).firings = l := by rw [hr]
    refine ⟨?_, ?_, fun q hq hm => ?_⟩
    · rw [hl, hlen, hx]
      simp only [List.length_append, List.length_cons]
      omega
    · obtain ⟨i, m, hf⟩ := settle_eq (st.tile e.tile).fabric st.now e.idx.toNat ((st.elemAt e).resolved st.now n v old young [] g)
      rw [hr, hf, hstatus]
    · rw [hr]
      exact (queue_settle _ _ _ _ hq (by rwa [hqueue q])).trans (hqueue q)
  · obtain ⟨rfl, rfl⟩ : kept' = kept ∧ h :: bad' = bad := by
      simpa [hy, splitFirst_append bad' (fun j hj => hno (hk j hj)) ((predictsOther_iff h n v).mpr hh)] using hsplit
    refine ⟨by rw [hr]; exact hlen, fun q k hb ht hq hm => ?_⟩
    subst hb
    have hqueue : ((st.elemAt e).resolved st.now n v old kept' [h] g).queue q = k :: (st.elemAt e).queue q :=
      queue_unmake_one (x := { (st.elemAt e).setBit n v with firings := [] }) ht hq
    rw [hr]
    exact (queue_settle _ _ _ _ hq (by simpa [hqueue] using hm)).trans hqueue

/-! ### Results (R337, R338, R344) -/

/-- An element after the registers and the accumulation of a due firing are written, and the firing has left it. -/
def Elem.resulted (x : Elem) (now k : Nat) (g : Firing) : Elem :=
  let y := g.writes.foldl (fun x (n, v) => x.setK n v) { x with firings := x.firings.eraseIdx k }
  let z := match g.acc with | some (b, f, v) => y.accumulate b f v | none => y
  if g.writes.isEmpty && g.acc.isNone then z else { z with last := Nat.max z.last (now + 1) }

theorem foldl_setK_k (l : List (Nat × Word)) (x : Elem) : ∃ k, l.foldl (fun x (n, v) => x.setK n v) x = { x with k := k } := by
  induction l generalizing x with
  | nil => exact ⟨_, rfl⟩
  | cons p r ih => exact ih _

/-- A due firing's result changes the registers of its element, the cycle from which that may fire again, and takes the firing away. -/
theorem resulted_eq (x : Elem) (now k : Nat) (g : Firing) :
    ∃ v n, x.resulted now k g = { x with k := v, last := n, firings := x.firings.eraseIdx k } := by
  obtain ⟨v, hv⟩ := foldl_setK_k g.writes { x with firings := x.firings.eraseIdx k }
  unfold Elem.resulted
  rw [hv]
  dsimp only
  cases g.acc <;> split <;> exact ⟨_, _, rfl⟩

/-- The tokens of a firing go out. -/
def pushAll (e : ElemId) (c : Nat) (l : List (BitVec 4 × Token)) (s : State) : State := l.foldl (fun s (d, t) => pushToken e c d.toNat t s) s

/-- A pushed token leaves its element but for the stream-out port's tokens, and the tile's memory operations. -/
theorem pushToken_frame (e : ElemId) (c d : Nat) (t : Token) (s : State) :
    (∃ l, (pushToken e c d t s).elemAt e = { s.elemAt e with strm := l }) ∧
      ((pushToken e c d t s).tile e.tile).fabric.ops = (s.tile e.tile).fabric.ops := by
  unfold pushToken sendToken
  (repeat' split)
  · exact ⟨⟨_, rfl⟩, rfl⟩
  · refine ⟨⟨(s.elemAt e).strm, ?_⟩, by rw [fabric_modFabric]⟩
    apply elemAt_modFabric
    intro f
    rfl
  · exact ⟨⟨_, elemAt_modElem ..⟩, by rw [fabric_modElem]; rfl⟩
  · refine ⟨⟨(s.elemAt e).strm, ?_⟩, by rw [fabric_modFabric]⟩
    apply elemAt_modFabric
    intro f
    rfl

theorem pushAll_frame (e : ElemId) (c : Nat) (l : List (BitVec 4 × Token)) (s : State) :
    (∃ p, (pushAll e c l s).elemAt e = { s.elemAt e with strm := p }) ∧ ((pushAll e c l s).tile e.tile).fabric.ops = (s.tile e.tile).fabric.ops := by
  induction l generalizing s with
  | nil => exact ⟨⟨_, rfl⟩, rfl⟩
  | cons a r ih =>
    obtain ⟨⟨p, hp⟩, ho⟩ := pushToken_frame e c a.1.toNat a.2 s
    obtain ⟨⟨q, hq⟩, ho'⟩ := ih (pushToken e c a.1.toNat a.2 s)
    exact ⟨⟨q, by rw [pushAll, List.foldl_cons]; exact hq.trans (by rw [hp])⟩, ho'.trans ho⟩

/-- The memory operations of a firing enter the tile's interface. -/
def enterMems (t : TileId) (l : List MemOp) (s : State) : State := if l.isEmpty then s else modFabric t (fun f => { f with ops := f.ops ++ l }) s

theorem enterMems_frame (e : ElemId) (l : List MemOp) (s : State) :
    (enterMems e.tile l s).elemAt e = s.elemAt e ∧ ((enterMems e.tile l s).tile e.tile).fabric.ops = (s.tile e.tile).fabric.ops ++ l := by
  unfold enterMems
  split
  · next h => exact ⟨rfl, by rw [List.isEmpty_iff.mp h, List.append_nil]⟩
  · refine ⟨?_, by rw [fabric_modFabric]⟩
    apply elemAt_modFabric
    intro f
    rfl

theorem offer_frame (e : ElemId) (rank n : Nat) (s : State) :
    (offer e.tile rank n s).elemAt e = s.elemAt e ∧ ((offer e.tile rank n s).tile e.tile).fabric.ops = (s.tile e.tile).fabric.ops := by
  unfold offer
  refine ⟨elemAt_modFabric (fun f => ?_) e s, ?_⟩
  · split <;> rfl
  · rw [fabric_modFabric]
    split <;> rfl

/-- The end of an element's phase changes of the element its switch at once alone, and of the memory operations nothing. -/
theorem endPhase_frame (e : ElemId) (c n : Nat) (s : State) :
    (∃ i m, (endPhase e c n s).elemAt e = { s.elemAt e with inject := i, met := m }) ∧
      ((endPhase e c n s).tile e.tile).fabric.ops = (s.tile e.tile).fabric.ops := by
  obtain ⟨he, ho⟩ := offer_frame e (1 + e.idx.toNat) n s
  unfold endPhase
  dsimp only
  split
  · exact ⟨⟨_, _, by rw [elemAt_modElem, he]; rfl⟩, by rw [fabric_modElem]; exact ho⟩
  · exact ⟨⟨_, _, he⟩, ho⟩

/-- The end of the phase, where a firing is a change of context (R340). -/
def passTurn (e : ElemId) (g : Firing) (s : State) : State :=
  match g.turn with
  | some (some n) => endPhase e g.ctx n s
  | _ => s

theorem passTurn_frame (e : ElemId) (g : Firing) (s : State) :
    (∃ i m, (passTurn e g s).elemAt e = { s.elemAt e with inject := i, met := m }) ∧
      ((passTurn e g s).tile e.tile).fabric.ops = (s.tile e.tile).fabric.ops := by
  unfold passTurn
  split
  · exact endPhase_frame ..
  · exact ⟨⟨_, _, rfl⟩, rfl⟩

/-- A firing that is confirmed and due, none being due before it, takes effect. -/
theorem exec_elementResultWrite {st : State} {e : ElemId} {k : Nat} {g : Firing} (hk : (st.elemAt e).firings[k]? = some g) (hb : g.bit = none)
    (hsure : g.sure = true) (hdue : g.due ≤ st.now) (hall : ∀ h ∈ (st.elemAt e).firings, g.due ≤ h.due)
    (hbefore : ∀ h ∈ (st.elemAt e).firings.take k, h.due ≠ g.due) :
    exec (.elementResultWrite e k) st =
      .next (passTurn e g (enterMems e.tile g.mems (pushAll e g.ctx g.pushes (modElem e (fun _ => (st.elemAt e).resulted st.now k g) st)))) := by
  have hready : (g.bit.isSome || !g.sure || decide (st.now < g.due) || (st.elemAt e).firings.any (fun h => decide (h.due < g.due)) ||
      ((st.elemAt e).firings.take k).any (fun h => decide (h.due = g.due))) = false := by
    simp only [hb, hsure, Option.isSome_none, Bool.not_true, Bool.or_eq_false_iff, decide_eq_false_iff_not, List.any_eq_false, decide_eq_true_eq,
      Nat.not_lt, and_self, true_and]
    exact ⟨⟨hdue, hall⟩, hbefore⟩
  show execElementResultWrite e k st = _
  simp only [execElementResultWrite, hk, hready]
  rfl

/-- What is left of a tile's element, and the memory operations of its interface, after a result: the registers are the result's. -/
theorem elementResultWrite_frame (st : State) (e : ElemId) (k : Nat) (g : Firing) :
    let r := passTurn e g (enterMems e.tile g.mems (pushAll e g.ctx g.pushes (modElem e (fun _ => (st.elemAt e).resulted st.now k g) st)))
    (∃ p i m, r.elemAt e = { (st.elemAt e).resulted st.now k g with strm := p, inject := i, met := m }) ∧
      (r.tile e.tile).fabric.ops = (st.tile e.tile).fabric.ops ++ g.mems := by
  intro r
  obtain ⟨⟨i, m, ht⟩, hto⟩ := passTurn_frame e g
    (enterMems e.tile g.mems (pushAll e g.ctx g.pushes (modElem e (fun _ => (st.elemAt e).resulted st.now k g) st)))
  obtain ⟨hm, hmo⟩ := enterMems_frame e g.mems (pushAll e g.ctx g.pushes (modElem e (fun _ => (st.elemAt e).resulted st.now k g) st))
  obtain ⟨⟨p, hp⟩, hpo⟩ := pushAll_frame e g.ctx g.pushes (modElem e (fun _ => (st.elemAt e).resulted st.now k g) st)
  constructor
  · refine ⟨p, i, m, ht.trans ?_⟩
    rw [hm, hp, elemAt_modElem]
  · rw [hto, hmo, hpo, fabric_modElem]
    rfl

/-- A firing that writes one register leaves that value in it, and the element fires no more in the cycle (R344). -/
theorem resulted_write_one {x : Elem} {now k : Nat} {g : Firing} {n : Nat} {v : Word} (hw : g.writes = [(n, v)]) (hn : n < 8) (ha : g.acc = none) :
    (x.resulted now k g).kr n = v ∧ now < (x.resulted now k g).last := by
  unfold Elem.resulted
  rw [hw, ha]
  exact ⟨kr_setK_same { x with firings := x.firings.eraseIdx k } v hn, Nat.lt_of_lt_of_le (Nat.lt_succ_self _) (Nat.le_max_right ..)⟩

/-- The low 32 bits of an I32 element's register word are the code's. -/
theorem toNat_elemWord_i32 (c : Nat) : (elemWord 9 c).toNat % 2 ^ 32 = c % 2 ^ 32 := by
  have hw : elemWord 9 c = BitVec.ofInt 64 (intOfCode 32 true (c % 2 ^ 32)) := rfl
  rw [hw, BitVec.toNat_ofInt]
  simp only [intOfCode, Bool.true_and, decide_eq_true_eq]
  split <;> omega

/-- An integer accumulation at I32 adds modulo 2^32 (R338). -/
theorem kr_accumulate_i32 (x : Elem) (v : Word) : ((x.accumulate false 9 v).kr 0).setWidth 32 = (x.kr 0).setWidth 32 + v.setWidth 32 := by
  have hk : (x.accumulate false 9 v).kr 0 = elemWord 9 (((x.kr 0).toNat % 2 ^ 32 + v.toNat % 2 ^ 32) % 2 ^ 32) := kr_setK_same x _ (by decide)
  apply BitVec.eq_of_toNat_eq
  rw [hk, BitVec.toNat_setWidth, toNat_elemWord_i32, BitVec.toNat_add, BitVec.toNat_setWidth, BitVec.toNat_setWidth, Nat.mod_mod]

/-- A due result writes its registers, sends its tokens, enters its memory operations and leaves the firings. -/
theorem elementResultWrite_settles {st : State} {e : ElemId} {k : Nat} {g : Firing} (hk : (st.elemAt e).firings[k]? = some g) (hb : g.bit = none)
    (hsure : g.sure = true) (hdue : g.due ≤ st.now) (hall : ∀ h ∈ (st.elemAt e).firings, g.due ≤ h.due)
    (hbefore : ∀ h ∈ (st.elemAt e).firings.take k, h.due ≠ g.due) :
    ∃ r, exec (.elementResultWrite e k) st = .next r ∧
      (r.elemAt e).firings = (st.elemAt e).firings.eraseIdx k ∧ (r.elemAt e).ins = (st.elemAt e).ins ∧
      (r.tile e.tile).fabric.ops = (st.tile e.tile).fabric.ops ++ g.mems ∧
      (∀ n v, g.writes = [(n, v)] → n < 8 → g.acc = none → (r.elemAt e).kr n = v ∧ st.now < (r.elemAt e).last) ∧
      (∀ v, g.writes = [] → g.acc = some (false, 9, v) → ((r.elemAt e).kr 0).setWidth 32 = ((st.elemAt e).kr 0).setWidth 32 + v.setWidth 32) ∧
      (∀ d t, g.writes = [] → g.acc = none → g.pushes = [(d, t)] → g.mems = [] → g.turn = none →
        r = pushToken e g.ctx d.toNat t (modElem e (fun _ => { st.elemAt e with firings := (st.elemAt e).firings.eraseIdx k }) st)) := by
  obtain ⟨⟨p, i, m, hr⟩, hops⟩ := elementResultWrite_frame st e k g
  obtain ⟨w, n, hx⟩ := resulted_eq (st.elemAt e) st.now k g
  refine ⟨_, exec_elementResultWrite hk hb hsure hdue hall hbefore, ?_, ?_, hops, fun n v hw hn ha => ?_, fun v hw ha => ?_,
    fun d t hw ha hp hm ht => ?_⟩
  · rw [hr, hx]
  · rw [hr, hx]
  · rw [hr]
    exact resulted_write_one hw hn ha
  · have hy : (st.elemAt e).resulted st.now k g =
        { { st.elemAt e with firings := (st.elemAt e).firings.eraseIdx k }.accumulate false 9 v with last := ((st.elemAt e).resulted st.now k g).last } := by
      simp only [Elem.resulted, hw, ha]
      rfl
    rw [hr, hy]
    exact kr_accumulate_i32 { st.elemAt e with firings := (st.elemAt e).firings.eraseIdx k } v
  · have hy : (st.elemAt e).resulted st.now k g = { st.elemAt e with firings := (st.elemAt e).firings.eraseIdx k } := by
      simp only [Elem.resulted, hw, ha]
      rfl
    simp only [passTurn, enterMems, pushAll, hp, hm, ht, hy]
    rfl

/-! ### Faults met at the head of a queue (R46, R48) -/

theorem exec_nohandlerFreeze {st : State} {e : ElemId} {x : Elem} {c n : Nat} {k : Token} (hf : st.fires e = some (x, c))
    (hk : x.controlHead = some (n, k)) (hu : x.unconfirmed = false)
    (hw : ((st.tile e.tile).fabric.running st.now c).word e.idx.toNat (k.data.toNat % 16) = 0)
    (ht : ((st.tile e.tile).fabric.running st.now c).trigger e.idx.toNat (k.data.toNat % 16) = 0) :
    exec (.nohandlerFreeze e) st = .next (elemFault e (k.data.toNat % 16) cFabricNoHandler 0 0 0 st) := by
  show execNohandlerFreeze e st = _
  simp only [execNohandlerFreeze, hf, hk, hu, hw, ht]
  rfl

theorem exec_fabricIllegal {st : State} {e : ElemId} {x : Elem} {n : Nat} {c : Choice} (hf : st.fires e = some (x, n)) (hc : st.choose e = some c)
    (hw : elemWordOk c.word = false) (hrel : c.relied = []) (hu : x.unconfirmed = false) :
    exec (.fabricIllegal e) st = .next (elemFault e c.entry cFabricIllegal 0 0 0 st) := by
  show execFabricIllegal e st = _
  simp only [execFabricIllegal, hf, hc, hu, hw, hrel]
  rfl

/-- The fabric keeps its table of bindings when an element changes. -/
theorem bound_modElem (e : ElemId) (g : Elem → Elem) (s : State) :
    ((modElem e g s).tile e.tile).fabric.bound e.idx.toNat = (s.tile e.tile).fabric.bound e.idx.toNat := by
  rw [fabric_modElem]
  rfl

end Sys2Proof.Machine

namespace Sys2Proof

open Sys2Proof.Machine

/-- Settles O43: the faults are those of the shared event, a frozen element keeps its registers and queues, and the two settling steps follow from
what they make of the element's firings. -/
theorem fabricFaultsAndPredicatesSettle : Obligations.FabricFaultsAndPredicatesSettle := by
  intro st e x f
  refine ⟨fun c n k hf hk hu hw ht => exec_nohandlerFreeze hf hk hu hw ht, fun n c hf hc hw hrel hu => exec_fabricIllegal hf hc hw hrel hu,
    fun en cause => ?_, fun old young g n v hx hold hg hn hrel hdue => predicateWriteResolve_settles hx hold hg hn hrel hdue,
    fun k g hk hb hsure hdue hall hbefore => ?_⟩
  · obtain ⟨l, hl⟩ := elemAt_elemFault e en cause 0 0 0 st
    dsimp only
    rw [hl]
    exact ⟨rfl, rfl, rfl, rfl⟩
  · obtain ⟨r, hexec, hfirings, hins, hops, hwrite, hacc, hpush⟩ := elementResultWrite_settles hk hb hsure hdue hall hbefore
    refine ⟨r, hexec, hfirings, hins, hops, hwrite, hacc, fun d t hw ha hp hm ht => ?_⟩
    rw [hpush d t hw ha hp hm ht, pushToken, bound_modElem]

end Sys2Proof
end

section
/-! PROOF. Issue, firing and events: what a step runs (R30, R86, R87, R89, R90, R329). -/

namespace Sys2Proof.Machine

open Sys2Proof

/-! ### Fetching (R30) -/

theorem fetchParcel_of_uncached {i : StrandId} {va : Addr} {s u f : State} {x : Xl} {p : Phys} {v : Nat} (hx : strandXl i s = (x, u))
    (ht : translate x va .fetch u = .ok (p, f)) (hr : f.reach p.loc ≠ .wait) (hv : readPhys p 4 f = .ok v)
    (hl : (f.core i.core).line x.asid (va.toNat / 128) = none) : fetchParcel i va s = .ok (BitVec.ofNat 32 v, f) := by
  simp only [fetchParcel, hx, ht, hr, hv, hl, if_false]

theorem fetchLater_of_ok {i : StrandId} {va : Addr} {s : State} {r : Parcel × State} (h : fetchParcel i va s = .ok r) : fetchLater i va s = .ok r := by
  simp only [fetchLater, h]

/-- The length code of a parcel as a number (R30). -/
theorem lengthCode_toNat (p : Parcel) : (p.extractLsb' 0 2).toNat = p.toNat % 4 := by simp [BitVec.extractLsb'_toNat]

theorem lengthCode_eq {p : Parcel} {n : Nat} (hn : n < 4) (h : p.extractLsb' 0 2 = BitVec.ofNat 2 n) : p.toNat % 4 = n := by
  rw [← lengthCode_toNat, h, BitVec.toNat_ofNat]
  omega

section
variable {i : StrandId} {pc : Addr} {s u1 u2 u3 : State} {p0 p1 p2 : Parcel}

theorem fetchParcels_one (hz : p0 ≠ 0) (h0 : fetchParcel i pc s = .ok (p0, u1)) (hl : p0.toNat % 4 = 0) :
    fetchParcels i pc s = .ok ((p0, 0, 0), u1) := by
  simp only [fetchParcels, h0, hz, hl, if_false, reduceCtorEq, OfNat.zero_ne_ofNat, if_true]

theorem fetchParcels_two (hz : p0 ≠ 0) (h0 : fetchParcel i pc s = .ok (p0, u1)) (h1 : fetchParcel i (pc + 4) u1 = .ok (p1, u2))
    (hl : p0.toNat % 4 = 1) : fetchParcels i pc s = .ok ((p0, p1, 0), u2) := by
  simp only [fetchParcels, h0, hz, hl, fetchLater_of_ok h1, if_false, if_true, OfNat.one_ne_ofNat, one_ne_zero]

theorem fetchParcels_three (hz : p0 ≠ 0) (h0 : fetchParcel i pc s = .ok (p0, u1)) (h1 : fetchParcel i (pc + 4) u1 = .ok (p1, u2))
    (h2 : fetchParcel i (pc + 8) u2 = .ok (p2, u3)) (hl : p0.toNat % 4 = 2) : fetchParcels i pc s = .ok ((p0, p1, p2), u3) := by
  simp only [fetchParcels, h0, hz, hl, fetchLater_of_ok h1, fetchLater_of_ok h2, if_false, Nat.reduceEqDiff]

end

/-! ### An issue opportunity of one strand (R87) -/

theorem strandIssue_of_fetch {i : StrandId} {p0 p1 p2 : Parcel} {n : Instr} {s f : State} (ha : State.asyncDue { s with cur := .strand i } i = false)
    (hc : State.contends { s with cur := .strand i } i = true)
    (hf : fetchParcels i (State.strand { s with cur := .strand i } i).pc { s with cur := .strand i } = .ok ((p0, p1, p2), f))
    (hd : decode p0 p1 p2 = .ok n) (hn : n.wellFormed = true) : strandIssue i s = exec n f := by
  have hfetch : fetchInstr i { s with cur := .strand i } = .ok (n, f) := by simp only [fetchInstr, hf, hd, hn, if_true]
  simp [strandIssue, ha, hc, hfetch]

/-! ### The strand that the policy picks (R89, R90) -/

theorem mem_slots_core (i : StrandId) : i ∈ slots i.core :=
  List.mem_map.mpr ⟨i.slot.toNat, List.mem_range.mpr i.slot.isLt, by rw [BitVec.ofNat_toNat, BitVec.setWidth_eq]⟩

theorem nodup_slots (c : CoreId) : (slots c).Nodup := by
  refine List.Nodup.map_on (fun m hm n hn h => ?_) List.nodup_range
  have h' : BitVec.ofNat 3 m = BitVec.ofNat 3 n := congrArg StrandId.slot h
  have hmod := congrArg BitVec.toNat h'
  rw [BitVec.toNat_ofNat, BitVec.toNat_ofNat] at hmod
  rw [List.mem_range] at hm hn
  omega

theorem core_of_mem_slots {c : CoreId} {i : StrandId} (h : i ∈ slots c) : i.core = c := by
  obtain ⟨n, -, rfl⟩ := List.mem_map.mp h
  rfl

/-- What an issue opportunity of a strand leads to, where it is not held back and does something. -/
noncomputable def readyIssue (held : BitVec 8) (s : State) (i : StrandId) : Option (StrandId × State) :=
  if held.getLsbD i.slot.toNat then none
  else match strandIssue i s with
    | .next f => if f.idle then none else some (i, f)
    | _ => none

theorem readyStrands_eq (c : CoreId) (held : BitVec 8) (s : State) : readyStrands c held s = (slots c).filterMap (readyIssue held s) := rfl

theorem readyIssue_eq_some {held : BitVec 8} {s f : State} {i j : StrandId} :
    readyIssue held s j = some (i, f) ↔ j = i ∧ held.getLsbD i.slot.toNat = false ∧ strandIssue i s = .next f ∧ f.idle = false := by
  unfold readyIssue
  constructor
  · intro h
    split at h
    · cases h
    · next hh =>
      split at h
      · next g hg =>
        split at h
        · cases h
        · next hi =>
          cases h
          exact ⟨rfl, Bool.eq_false_iff.mpr hh, hg, Bool.eq_false_iff.mpr hi⟩
      · cases h
  · rintro ⟨rfl, hh, hs, hf⟩
    simp [hh, hs, hf]

theorem readyIssue_held {held : BitVec 8} {i : StrandId} (s : State) (h : held.getLsbD i.slot.toNat = true) : readyIssue held s i = none := by
  simp only [readyIssue, h, if_true]

theorem readyIssue_issued {held : BitVec 8} {i : StrandId} {s f : State} (h : held.getLsbD i.slot.toNat = false) (hf : strandIssue i s = .next f) :
    readyIssue held s i = if f.idle = true then none else some (i, f) := by
  simp only [readyIssue, h, hf]
  rfl

theorem mem_readyStrands {c : CoreId} {held : BitVec 8} {s f : State} {i : StrandId} :
    (i, f) ∈ readyStrands c held s ↔ i ∈ slots c ∧ held.getLsbD i.slot.toNat = false ∧ strandIssue i s = .next f ∧ f.idle = false := by
  rw [readyStrands_eq, List.mem_filterMap]
  constructor
  · rintro ⟨j, hj, h⟩
    obtain ⟨rfl, h'⟩ := readyIssue_eq_some.mp h
    exact ⟨hj, h'⟩
  · rintro ⟨hi, h⟩
    exact ⟨i, hi, readyIssue_eq_some.mpr ⟨rfl, h⟩⟩

/-- The greatest of some numbers, above the start value, is one of them. -/
theorem exists_foldl_max {α : Type} (g : α → Nat) (l : List α) (n : Nat) :
    l.foldl (fun n a => max n (g a)) n = n ∨ ∃ a ∈ l, g a = l.foldl (fun n a => max n (g a)) n := by
  induction l generalizing n with
  | nil => exact .inl rfl
  | cons a r ih =>
    obtain h | ⟨b, hb, h⟩ := ih (max n (g a))
    · rw [List.foldl_cons, h]
      obtain hm | hm := Nat.le_total n (g a)
      · exact .inr ⟨a, List.mem_cons_self, (Nat.max_eq_right hm).symm⟩
      · exact .inl (Nat.max_eq_left hm)
    · exact .inr ⟨b, List.mem_cons_of_mem a hb, h⟩

/-- The least of some numbers and a start value is the start value or one of them. -/
theorem exists_foldl_min {α : Type} (g : α → Nat) (l : List α) (n : Nat) :
    l.foldl (fun n a => min n (g a)) n = n ∨ ∃ a ∈ l, g a = l.foldl (fun n a => min n (g a)) n := by
  induction l generalizing n with
  | nil => exact .inl rfl
  | cons a r ih =>
    obtain h | ⟨b, hb, h⟩ := ih (min n (g a))
    · rw [List.foldl_cons, h]
      obtain hm | hm := Nat.le_total n (g a)
      · exact .inl (Nat.min_eq_left hm)
      · exact .inr ⟨a, List.mem_cons_self, (Nat.min_eq_right hm).symm⟩
    · exact .inr ⟨b, List.mem_cons_of_mem a hb, h⟩

theorem find?_ne_none {α : Type} {p : α → Bool} {l : List α} {a : α} (ha : a ∈ l) (hp : p a = true) : l.find? p ≠ none := by
  rw [Ne, List.find?_eq_none]
  exact fun h => h a ha hp

/-- The policy picks one of the ready strands. -/
theorem mem_of_pickSlot {c : CoreId} {ready : List (StrandId × State)} {s : State} {a : StrandId × State} (h : pickSlot c ready s = some a) :
    a ∈ ready := by
  unfold pickSlot at h
  dsimp only at h
  split at h
  · obtain ⟨n, -, hn⟩ := List.exists_of_findSome?_eq_some h
    exact List.mem_of_find?_eq_some hn
  · split at h
    · exact List.mem_of_find?_eq_some h
    · split at h
      · next b hb =>
        cases h
        exact List.mem_of_find?_eq_some hb
      · exact List.mem_of_find?_eq_some h

/-- Where some strand is ready the policy picks one. -/
theorem pickSlot_ne_none {c : CoreId} {ready : List (StrandId × State)} {s : State} (h : ready ≠ []) : pickSlot c ready s ≠ none := by
  obtain ⟨a, r, rfl⟩ := List.exists_cons_of_ne_nil h
  unfold pickSlot
  dsimp only
  split
  · intro hn
    rw [List.findSome?_eq_none_iff] at hn
    have hslot := a.1.slot.isLt
    refine find?_ne_none List.mem_cons_self ?_ (hn ((a.1.slot.toNat + 8 - (s.core c).rr % 8) % 8) (List.mem_range.mpr (by omega)))
    rw [decide_eq_true_eq]
    omega
  · split
    · next hm =>
      obtain h0 | ⟨b, hb, he⟩ := exists_foldl_max (fun a : StrandId × State => s.waited a.1) (a :: r) 0
      · omega
      · exact find?_ne_none hb (decide_eq_true he)
    · split
      · exact Option.some_ne_none _
      · obtain h0 | ⟨b, hb, he⟩ := exists_foldl_min (fun a : StrandId × State => (s.strand a.1).age) (a :: r)
          (((a :: r).head?.map fun a => (s.strand a.1).age).getD 0)
        · exact find?_ne_none List.mem_cons_self (decide_eq_true h0.symm)
        · exact find?_ne_none hb (decide_eq_true he)

theorem pickSlot_nil (c : CoreId) (s : State) : pickSlot c [] s = none :=
  Option.eq_none_iff_forall_ne_some.mpr fun _ ha => List.not_mem_nil (mem_of_pickSlot ha)

theorem pickSlot_singleton (c : CoreId) (a : StrandId × State) (s : State) : pickSlot c [a] s = some a := by
  obtain ⟨b, hb⟩ := Option.ne_none_iff_exists'.mp (pickSlot_ne_none (c := c) (s := s) (List.cons_ne_nil a []))
  rw [hb, List.mem_singleton.mp (mem_of_pickSlot hb)]

/-- Where every other strand of the core is held back, the strand's issue is the one that is ready, unless it does nothing. -/
theorem readyStrands_alone {i : StrandId} {held : BitVec 8} {s f : State} (hi : held.getLsbD i.slot.toNat = false)
    (ho : ∀ j ∈ slots i.core, j ≠ i → held.getLsbD j.slot.toNat = true) (hf : strandIssue i s = .next f) :
    readyStrands i.core held s = if f.idle = true then [] else [(i, f)] := by
  obtain ⟨l, r, hl⟩ := List.append_of_mem (mem_slots_core i)
  have hnd := nodup_slots i.core
  rw [hl, List.nodup_middle, List.nodup_cons] at hnd
  have hother {m : List StrandId} (hm : ∀ j ∈ m, j ∈ l ++ r) : m.filterMap (readyIssue held s) = [] := by
    refine List.filterMap_eq_nil_iff.mpr fun j hj => readyIssue_held s (ho j ?_ ?_)
    · rw [hl]
      obtain h | h := List.mem_append.mp (hm j hj)
      · exact List.mem_append_left _ h
      · exact List.mem_append_right _ (List.mem_cons_of_mem _ h)
    · rintro rfl
      exact hnd.1 (hm j hj)
  rw [readyStrands_eq, hl, List.filterMap_append, List.filterMap_cons, hother fun j hj => List.mem_append_left _ hj,
    hother fun j hj => List.mem_append_right _ hj, readyIssue_issued hi hf]
  split <;> simp_all

/-- The wait counts of a cycle in which one strand alone was ready. -/
theorem countWaits_alone (c : CoreId) (i : StrandId) (s f : State) : countWaits c [i] i s f = lone c f := by
  have hz (j : StrandId) : (if (decide (j = i) || !([i] : List StrandId).contains j) = true then 0 else s.waited j + 1) = 0 := by
    by_cases h : j = i <;> simp [h]
  simp only [countWaits, hz]
  rfl

/-! ### What a step does with an order -/

theorem step_of_order {s : State} {dt : Nat} {late : Bool} {a : Act} {r : List Move} (h : s.sched = ⟨dt, late, a⟩ :: r) :
    step s = runAct a { tick dt late s with sched := r } := by
  simp only [step, nextAct, h]

theorem runIssue_pick {c : CoreId} {held : BitVec 8} {s : State} (ho : s.slotOpen c = true) (hr : s.coreRuns c = true) :
    runIssue c held s = match pickSlot c (readyStrands c held s) s with
      | none => wait s
      | some (i, f) => .next (countWaits c ((readyStrands c held s).map (·.1)) i s f) := by
  simp only [runIssue, ho, hr]
  rfl

/-- A core of which one strand alone may issue runs that strand's issue (R86, R87). -/
theorem runIssue_alone {i : StrandId} {held : BitVec 8} {s f : State} (hopen : s.slotOpen i.core = true) (hruns : s.coreRuns i.core = true)
    (hi : held.getLsbD i.slot.toNat = false) (ho : ∀ j ∈ slots i.core, j ≠ i → held.getLsbD j.slot.toNat = true)
    (hf : strandIssue i s = .next f) :
    runIssue i.core held s = .next (if f.idle = true then { s with idle := true } else lone i.core f) := by
  rw [runIssue_pick hopen hruns, readyStrands_alone hi ho hf]
  cases f.idle with
  | true =>
    rw [if_pos rfl, pickSlot_nil]
    rfl
  | false =>
    rw [if_neg Bool.false_ne_true, pickSlot_singleton]
    show Host.Outcome.next (countWaits i.core [i] i s f) = _
    rw [countWaits_alone]
    rfl

theorem runFire_of_choose {e : ElemId} {s : State} {c : Choice} {n : Instr} (hc : State.choose { s with cur := .elem e } e = some c)
    (hd : Sys2Proof.decodeElem c.word = .ok n) : runFire e s = exec n { s with cur := .elem e } := by
  simp only [runFire, hc, hd]

/-- An event but the trap of a fetch runs as it stands. -/
theorem runEvent_of_exec {n : Instr} {s : State} (he : encode n = []) (hn : ∀ i, n ≠ .fetchTrap i) : runEvent n s = exec n s := by
  unfold runEvent
  rw [he]
  split
  · next h => simp at h
  · split
    · next i => exact absurd rfl (hn i)
    · rfl

/-- The act that comes first in a list and does something is one of the list's. -/
theorem exists_of_firstActs {l : List (State → Out)} {s f : State} (h : firstActs l s = some f) : ∃ g ∈ l, g s = .next f ∧ f.idle = false := by
  induction l with
  | nil => cases h
  | cons g r ih =>
    have hrest (h' : firstActs r s = some f) : ∃ k ∈ g :: r, k s = .next f ∧ f.idle = false := by
      obtain ⟨k, hk, hf⟩ := ih h'
      exact ⟨k, List.mem_cons_of_mem g hk, hf⟩
    rw [firstActs] at h
    split at h
    · next u hu =>
      split at h
      · exact hrest h
      · next hidle =>
        cases h
        exact ⟨g, List.mem_cons_self, hu, Bool.eq_false_iff.mpr hidle⟩
    · exact hrest h

/-- What the default order issues is an issue of some core (log entry 5). -/
theorem exists_of_defaultIssue {s f : State} (h : defaultIssue s = some f) : ∃ c, runIssue c 0 s = .next f ∧ f.idle = false := by
  obtain ⟨g, hg, hf⟩ := exists_of_firstActs h
  obtain ⟨c, -, rfl⟩ := List.mem_map.mp hg
  exact ⟨c, hf⟩

theorem step_of_defaultIssue {s f : State} (hs : s.sched = []) (h : defaultIssue { s with late := false, idle := false } = some f) :
    step s = .next f := by
  have hd : defaultAct s = .next f := by simp only [defaultAct, h]
  simp only [step, nextAct, hs, hd]

end Sys2Proof.Machine

namespace Sys2Proof

open Sys2Proof.Machine

/-- Settles O57: the step is its first move's act; an issue runs the strand that the policy picks of the ready ones, and that strand what it fetched. -/
theorem stepRunsTheDecodedInstruction : Obligations.StepRunsTheDecodedInstruction := by
  intro s dt late r
  refine ⟨fun i p0 p1 p2 n f ha hc hf hd hn => strandIssue_of_fetch ha hc hf hd hn, fun i held hs hopen hruns hi ho f hf => ?_,
    fun c held hs hopen hruns => ⟨fun i f => mem_readyStrands, fun i f hp => ⟨mem_of_pickSlot hp, ?_⟩, pickSlot_ne_none⟩,
    fun i va x u f p v hx ht hr hv hl => fetchParcel_of_uncached hx ht hr hv hl,
    fun i pc p0 p1 p2 u1 u2 u3 hz h0 h1 h2 => ⟨fun hl => fetchParcels_one hz h0 (lengthCode_eq (n := 0) (by decide) hl),
      fun hl => fetchParcels_two hz h0 h1 (lengthCode_eq (n := 1) (by decide) hl),
      fun hl => fetchParcels_three hz h0 h1 h2 (lengthCode_eq (n := 2) (by decide) hl)⟩,
    fun e c n hs hc hd => ?_, fun n hs he hn => ?_, fun hs f hf => ⟨step_of_defaultIssue hs hf, exists_of_defaultIssue hf⟩⟩
  · rw [step_of_order hs]
    exact runIssue_alone hopen hruns hi ho hf
  · rw [step_of_order hs, runAct, runIssue_pick hopen hruns, hp]
  · rw [step_of_order hs]
    exact runFire_of_choose hc hd
  · rw [step_of_order hs]
    exact runEvent_of_exec he hn

end Sys2Proof
end

section
/-! PROOF. Traps that are due, freed slots, walks, register writes, key commands and cache fills (R30, R87, R115, R170, R386, R388, R396, R398, R402,
R405, R419). -/

namespace Sys2Proof.Machine

open Sys2Proof

/-! ### Traps that take the issue slot (R30, R87, R388) -/

theorem exec_asyncTrap {st : State} {i : StrandId} {k : TrapRec} {r : List TrapRec} (hp : (st.strand i).pend = k :: r)
    (hripe : (st.strand i).asyncRipe st.now = true) (hruns : st.coreRuns i.core = true) (hopen : st.slotOpen i.core = true)
    (hint : (st.strand i).status.interruptible = true) (hinh : (st.strand i).inhibited = false) :
    exec (.asyncTrap i) st = .next (lone i.core (takeTrap i { k with tpc := (st.strand i).pc }
      (st.setStrand i { st.strand i with pend := r, failed := if k.src = 0 then (st.strand i).failed.tail else (st.strand i).failed }))) := by
  show execAsyncTrap i st = _
  simp only [execAsyncTrap, hp, hripe, hruns, hopen, hint, hinh]
  rfl

theorem exec_fetchTrap {st : State} {i : StrandId} {k : TrapRec} (hdue : (st.strand i).due = some k) (hc : st.contends i = true)
    (hopen : st.slotOpen i.core = true) (ha : st.asyncDue i = false) :
    exec (.fetchTrap i) st =
      .next (lone i.core (takeTrap i k (countFault (strandXl i st).1 k.cause k.taddr (st.modStrand i fun t => { t with due := none })))) := by
  show execFetchTrap i st = _
  simp only [execFetchTrap, hdue, hc, hopen, ha]
  rfl

/-! ### A slot becomes free (R115) -/

@[simp] theorem State.strand_modCore (s : State) (c : CoreId) (f : CoreState → CoreState) (j : StrandId) : (s.modCore c f).strand j = s.strand j := by
  cases c <;> rfl

@[simp] theorem State.core_modCore (s : State) (c : CoreId) (f : CoreState → CoreState) : (s.modCore c f).core c = f (s.core c) := by
  cases c <;> simp [State.modCore, State.core]

/-- What a child's leaving does to one strand of its core. -/
def noteLeft (i : StrandId) (s : State) (j : StrandId) : State :=
  match (s.strand j).grant with
  | some ⟨c, none⟩ => if c = i.slot then s.modStrand j fun t => { t with grant := some ⟨c, some s.now⟩ } else s
  | _ => s

theorem childLeaves_eq (i : StrandId) (s : State) : childLeaves i s = (slots i.core).foldl (noteLeft i) s := rfl

/-- A child's leaving changes nothing of a strand but its grant, and no tile. -/
theorem noteLeft_frame (i j k : StrandId) (s : State) :
    (∃ g, (noteLeft i s j).strand k = { s.strand k with grant := g }) ∧ (noteLeft i s j).tiles = s.tiles := by
  unfold noteLeft
  split
  · split
    · refine ⟨?_, rfl⟩
      by_cases h : k = j
      · subst h
        exact ⟨_, State.strand_modStrand_self ..⟩
      · exact ⟨_, State.strand_modStrand_ne _ _ h⟩
    · exact ⟨⟨_, rfl⟩, rfl⟩
  · exact ⟨⟨_, rfl⟩, rfl⟩

theorem childLeaves_frame (i k : StrandId) (s : State) :
    (∃ g, (childLeaves i s).strand k = { s.strand k with grant := g }) ∧ (childLeaves i s).tiles = s.tiles := by
  rw [childLeaves_eq]
  induction slots i.core generalizing s with
  | nil => exact ⟨⟨_, rfl⟩, rfl⟩
  | cons j r ih =>
    obtain ⟨⟨g, hg⟩, ht⟩ := noteLeft_frame i j k s
    obtain ⟨⟨h, hh⟩, hu⟩ := ih (noteLeft i s j)
    exact ⟨⟨h, by rw [List.foldl_cons, hh, hg]⟩, hu.trans ht⟩

/-- The tile of a strand that leaves its slot: its claims go, its lanes return, its tags have lost their owner. -/
def Tile.vacate (slot : BitVec 3) (grant : Option Child) (v : Tile) : Tile :=
  { v with
    claimed := v.claimed.filter (·.2 ≠ slot)
    groups := dropGroup slot grant v.groups
    tags := v.tags.map fun (k, g) => (k, if g.owner = slot then { g with left := true } else g) }

/-- The state of a strand that has left its slot, before its parent notes it. -/
def vacateSlot (i : StrandId) (st : State) : State :=
  let s := (st.setStrand i (st.strand i).vacated).modCore i.core fun k => if k.greedy = some i.slot then { k with greedy := none } else k
  match i.core with
  | .control _ => s
  | .tile u => s.modTile u (·.vacate i.slot (st.strand i).grant)

theorem exec_slotFree {st : State} {i : StrandId} (he : (st.strand i).status = .exiting) (hr : st.retired i = true) :
    exec (.slotFree i) st = .next (childLeaves i (vacateSlot i st)) := by
  show execSlotFree i st = _
  simp only [execSlotFree, he, hr]
  rfl

theorem strand_vacateSlot (i : StrandId) (st : State) : (vacateSlot i st).strand i = (st.strand i).vacated := by
  unfold vacateSlot
  split <;> simp

theorem claimed_vacateSlot {i : StrandId} {u : TileId} (st : State) (hu : i.core = .tile u) :
    ∀ p ∈ ((vacateSlot i st).tile u).claimed, p.2 ≠ i.slot := by
  intro p hp
  simp only [vacateSlot, hu, State.tile_modTile_self, Tile.vacate, List.mem_filter, decide_eq_true_eq] at hp
  exact hp.2

/-! ### Page walks, and writes of CTXCUR, LATTOL and registers (R396, R398, R402, R419) -/

theorem exec_pageWalk {st s r : State} {i : StrandId} {va : Addr} {acc : Access} {x : Xl} {c : CtxEntry} {e : TlbEntry}
    (hfree : (st.strand i).status ≠ .free) (hm : (st.strand i).level ≠ .M) (hw : inWindow va = false) (hx : strandXl i st = (x, s))
    (hc : x.ctx = some c) (hv : c.valid = true) (hf : (s.tlbFind x c acc va).1 = none)
    (hr : walkFill x c acc va (countMiss x.core true true s) = .ok (e, r)) : exec (.pageWalk i va acc) st = .next r := by
  show execPageWalk i va acc st = _
  simp only [execPageWalk, hfree, hm, hw, hx, hc, hv, hf, hr]
  rfl

theorem exec_ctxcurWrite {st : State} {i : StrandId} {v : Word} (hfree : (st.strand i).status ≠ .free) (hu : (st.strand i).level ≠ .U) :
    exec (.ctxcurWrite i v) st = .next (writeCtxcur i (v.setWidth 16) st) := by
  show execCtxcurWrite i v st = _
  simp only [execCtxcurWrite, hfree, hu]
  rfl

theorem writeCtxcur_none {st : State} {i : StrandId} {n : BitVec 16} (h : st.ctxEntry (coreQuad i.core) n = none) : writeCtxcur i n st = st := by
  simp only [writeCtxcur, h]

theorem strand_writeCtxcur_some {st : State} {i : StrandId} {n : BitVec 16} {c : CtxEntry} (h : st.ctxEntry (coreQuad i.core) n = some c) :
    (writeCtxcur i n st).strand i = { st.strand i with ctxcur := n, ctx := some c } := by
  simp [writeCtxcur, h]

/-- A tile under a new LATTOL: raised to the deepest state now permitted. -/
def wakeTo (q : BitVec 2) (v : BitVec 20) (t : TileId) (u : Tile) : Tile :=
  if t.quad = q && (deepest v).exit < u.power.exit then { u with power := deepest v } else u

theorem tiles_writeLattol (q : BitVec 2) (v : BitVec 20) (s : State) :
    (writeLattol q v s).tiles = s.tiles.map fun p => (p.1, wakeTo q v p.1 p.2) := by
  unfold writeLattol
  refine List.map_congr_left fun p _ => ?_
  dsimp only [wakeTo]
  split <;> rfl

theorem wakeTo_exit_le (q : BitVec 2) (v : BitVec 20) (t : TileId) (u : Tile) : (wakeTo q v t u).power.exit ≤ u.power.exit := by
  unfold wakeTo
  split
  · next h =>
    rw [Bool.and_eq_true, decide_eq_true_eq, decide_eq_true_eq] at h
    exact Nat.le_of_lt h.2
  · exact Nat.le_refl _

theorem wakeTo_other {q : BitVec 2} (v : BitVec 20) {t : TileId} (u : Tile) (h : t.quad ≠ q) : wakeTo q v t u = u := by
  simp [wakeTo, h]

/-- The tile that LATTOL leaves: the woken one, or one that nothing has touched. -/
theorem tile_writeLattol (q : BitVec 2) (v : BitVec 20) (s : State) (t : TileId) :
    (writeLattol q v s).tile t = wakeTo q v t (s.tile t) ∨ (writeLattol q v s).tile t = s.tile t := by
  rw [State.tile, tiles_writeLattol, amGet_map_keyed t (wakeTo q v), State.tile]
  cases amGet t s.tiles
  · exact .inr rfl
  · exact .inl rfl

theorem lattol_writeLattol (q : BitVec 2) (v : BitVec 20) (s : State) : ((writeLattol q v s).quad q).lattol = v := by
  show ((s.modQuad q fun d => { d with lattol := v }).quad q).lattol = v
  rw [State.quad_modQuad_self]

theorem exec_lattolWrite (q : BitVec 2) (v : Word) (st : State) : exec (.lattolWrite q v) st = .next (writeLattol q (v.setWidth 20) st) := rfl

theorem exec_registerWrite {o : Nat} {v : Word} (st : State) (h8 : o % 8 = 0) (ho : o < 0x2000000) :
    exec (.registerWrite o v) st = .next (barReg (regionOf (0x8000000000 + o)) (leBytes 8 v.toNat) st) := by
  have hin : ((o % 8 != 0) || decide (0x2000000 ≤ o)) = false := by simp [h8, ho]
  show execRegisterWrite o v st = _
  simp only [execRegisterWrite, hin]
  rfl

/-! ### Fabric key slots (R405) -/

theorem exec_fkeyInstall {st : State} {q : BitVec 2} (h : (st.quad q).fkeycmd.run = none) : exec (.fkeyInstall q) st = .next (startKey q false st) := by
  show execFkeyInstall q st = _
  simp only [execFkeyInstall, h]
  rfl

theorem exec_fkeyClear {st : State} {q : BitVec 2} (h : (st.quad q).fkeycmd.run = none) : exec (.fkeyClear q) st = .next (startKey q true st) := by
  show execFkeyClear q st = _
  simp only [execFkeyClear, h]
  rfl

theorem fkeycmd_startKey {st : State} {q : BitVec 2} (b : Bool) (h : (st.quad q).fkeycmd.run = none) :
    ((startKey q b st).quad q).fkeycmd =
      { (st.quad q).fkeycmd with run := some ((st.quad q).fkeycmd.slot, b, (st.quad q).fkeyaddr.setWidth 56) } := by
  simp [startKey, h]

/-- A quadrant whose key command is done: the slot receives the key or is emptied, and a bad read sets ERR. -/
def Quad.keyed (d : Quad) (k : BitVec 2) (key : Option (List Byte)) (bad : Bool) : Quad :=
  { d with keys := d.keys.set k.toNat key k.isLt, fkeycmd := { d.fkeycmd with run := none, err := d.fkeycmd.err || bad } }

theorem keys_keyed (d : Quad) (k : BitVec 2) (key : Option (List Byte)) (bad : Bool) : (d.keyed k key bad).keys.get k.toFin = key := by
  simp [Quad.keyed, Vector.get_eq_getElem]

/-- A key command that empties its slot. -/
theorem exec_fkeyCommandDone_clear {st : State} {q k : BitVec 2} {a : BitVec 56} (hr : (st.quad q).fkeycmd.run = some (k, true, a)) :
    exec (.fkeyCommandDone q) st = .next (st.modQuad q fun d => d.keyed k none false) := by
  show execFkeyCommandDone q st = _
  simp only [execFkeyCommandDone, hr]
  rfl

/-- A key command that fills its slot. -/
theorem exec_fkeyCommandDone_good {st : State} {q k : BitVec 2} {a : BitVec 56} (hr : (st.quad q).fkeycmd.run = some (k, false, a))
    (hp : st.poisoned (.mem (st.globalPa a.toNat)) 2592 = false) :
    exec (.fkeyCommandDone q) st = .next (st.modQuad q fun d => d.keyed k (some (st.mem.bytes (st.globalPa a.toNat) 2592)) false) := by
  show execFkeyCommandDone q st = _
  simp only [execFkeyCommandDone, hr, hp]
  rfl

/-- A key command whose key's memory has an uncorrectable error. -/
theorem exec_fkeyCommandDone_bad {st : State} {q k : BitVec 2} {a : BitVec 56} (hr : (st.quad q).fkeycmd.run = some (k, false, a))
    (hp : st.poisoned (.mem (st.globalPa a.toNat)) 2592 = true) :
    exec (.fkeyCommandDone q) st = .next ((notePoison (st.globalPa a.toNat) 2592 st).modQuad q fun d => d.keyed k none true) := by
  show execFkeyCommandDone q st = _
  simp only [execFkeyCommandDone, hr, hp]
  rfl

/-- A key command that is done fills or empties its slot. -/
theorem fkeyCommandDone_settles {st : State} {q k : BitVec 2} {b : Bool} {a : BitVec 56} (hr : (st.quad q).fkeycmd.run = some (k, b, a)) :
    ∃ r, exec (.fkeyCommandDone q) st = .next r ∧ (r.quad q).fkeycmd.run = none ∧
      (b = false → st.poisoned (.mem (st.globalPa a.toNat)) 2592 = false →
        (r.quad q).keys.get k.toFin = some (st.mem.bytes (st.globalPa a.toNat) 2592) ∧ (r.quad q).fkeycmd.err = (st.quad q).fkeycmd.err) ∧
      (b = false → st.poisoned (.mem (st.globalPa a.toNat)) 2592 = true → (r.quad q).keys.get k.toFin = none ∧ (r.quad q).fkeycmd.err = true) ∧
      (b = true → (r.quad q).keys.get k.toFin = none ∧ (r.quad q).fkeycmd.err = (st.quad q).fkeycmd.err) := by
  cases b with
  | true =>
    refine ⟨_, exec_fkeyCommandDone_clear hr, ?_⟩
    rw [State.quad_modQuad_self, keys_keyed]
    exact ⟨rfl, nofun, nofun, fun _ => ⟨rfl, Bool.or_false _⟩⟩
  | false =>
    cases hp : st.poisoned (.mem (st.globalPa a.toNat)) 2592 with
    | false =>
      refine ⟨_, exec_fkeyCommandDone_good hr hp, ?_⟩
      rw [State.quad_modQuad_self, keys_keyed]
      exact ⟨rfl, fun _ _ => ⟨rfl, Bool.or_false _⟩, nofun, nofun⟩
    | true =>
      refine ⟨_, exec_fkeyCommandDone_bad hr hp, ?_⟩
      rw [State.quad_modQuad_self, keys_keyed]
      exact ⟨rfl, nofun, fun _ _ => ⟨rfl, Bool.or_true _⟩, nofun⟩

/-! ### Instruction lines and waiting groups (R31, R87, R170) -/

theorem fetchLine_of_ok {i : StrandId} {n : Nat} {st s w : State} {x : Xl} {p : Phys} (hx : strandXl i st = (x, s))
    (ht : translate x (BitVec.ofNat 80 (128 * n)) .fetch s = .ok (p, w)) (hr : w.reach p.loc = .ok) (hp : w.poisoned p.loc 128 = false) :
    fetchLine i n st = some (⟨n, x.asid, w.bytesAt p.loc 128⟩, w) := by
  simp [fetchLine, hx, ht, hr, hp]

/-- The first answer of a list that one member alone gives. -/
theorem findSome?_of_only {α β : Type} {g : α → Option β} {l : List α} {a : α} {b : β} (ha : a ∈ l) (hb : g a = some b)
    (ho : ∀ c ∈ l, c ≠ a → g c = none) : l.findSome? g = some b := by
  obtain ⟨c, hc⟩ : ∃ c, l.findSome? g = some c := Option.isSome_iff_exists.mp (List.findSome?_isSome_iff.mpr ⟨a, ha, by rw [hb]; rfl⟩)
  obtain ⟨d, hd, hg⟩ := List.exists_of_findSome?_eq_some hc
  by_cases h : d = a
  · rw [hc, ← hg, h, hb]
  · cases (ho d hd h).symm.trans hg

/-- A line that the one strand of a core fetches becomes the newest of its instruction cache. -/
theorem instructionCacheFill_head {st w : State} {i : StrandId} {n : Nat} {l : ICacheLine} (hfree : (st.strand i).status ≠ .free)
    (ho : ∀ j, j.core = i.core → j ≠ i → (st.strand j).status = .free) (hl : fetchLine i n st = some (l, w)) :
    ∃ r, exec (.instructionCacheFill i.core n) st = .next r ∧ (r.core i.core).icache.head? = some l := by
  have hfind : (slots i.core).findSome? (fun i => if (st.strand i).status = .free then none else fetchLine i n st) = some (l, w) := by
    refine findSome?_of_only (mem_slots_core i) (by rw [if_neg hfree, hl]) fun j hj hne => ?_
    rw [if_pos (ho j (core_of_mem_slots hj) hne)]
  show ∃ r, execInstructionCacheFill i.core n st = _ ∧ _
  simp only [execInstructionCacheFill, hfind]
  exact ⟨_, rfl, by rw [State.core_modCore]; rfl⟩

theorem exec_vldFeGroupProceed {st r : State} {i : StrandId} {k : Nat} {c : VCtx} (hh : (st.strand i).held = false)
    (hc : entryCtx i k st = some c) (hf : c.x.op.fullEmpty = true) (hr : groupRun i k c st = some r) :
    exec (.vldFeGroupProceed i k) st = .next r := by
  show execVldFeGroupProceed i k st = _
  simp only [execVldFeGroupProceed, hh, hc, hf, hr]
  rfl

end Sys2Proof.Machine

namespace Sys2Proof

open Sys2Proof.Machine

/-- Settles O53: each event's conditions give the state that its definition names, and what the clause says of it is a rule of its own. -/
theorem systemEventsComplete : Obligations.SystemEventsComplete := by
  intro st i t q
  refine ⟨fun k r hp hripe hruns hopen hint hinh => exec_asyncTrap hp hripe hruns hopen hint hinh,
    fun k hdue hc hopen ha => exec_fetchTrap hdue hc hopen ha, fun he hr => ?_,
    fun va acc c s hfree hm hw hx hv hf e r hr => exec_pageWalk hfree hm hw hx rfl hv hf hr,
    fun v hfree hu => ⟨_, exec_ctxcurWrite hfree hu, fun c hc => ?_, writeCtxcur_none⟩,
    fun v => ⟨_, exec_lattolWrite .., ?_⟩, fun o v h8 ho => exec_registerWrite st h8 ho, fun hrun e b he => ?_,
    fun k b a hr => fkeyCommandDone_settles hr,
    fun n x s p w hfree ho hx ht hr hp => instructionCacheFill_head hfree ho (fetchLine_of_ok hx ht hr hp),
    fun k c hh hc hf r hr => exec_vldFeGroupProceed hh hc hf hr⟩
  · obtain ⟨⟨g, hg⟩, ht⟩ := childLeaves_frame i i (vacateSlot i st)
    refine ⟨_, exec_slotFree he hr, ?_⟩
    rw [hg, strand_vacateSlot]
    refine ⟨rfl, rfl, rfl, fun u hu => ?_⟩
    rw [State.tile, ht]
    exact claimed_vacateSlot st hu
  · rw [strand_writeCtxcur_some hc]
    exact ⟨rfl, rfl⟩
  · refine ⟨lattol_writeLattol .., fun u _ => ?_, fun u hu => ?_⟩
    · obtain ht | ht := tile_writeLattol q (v.setWidth 20) st u <;> rw [ht]
      exact wakeTo_exit_le ..
    · obtain ht | ht := tile_writeLattol q (v.setWidth 20) st u <;> rw [ht]
      exact wakeTo_other _ _ hu
  · obtain ⟨rfl, rfl⟩ | ⟨rfl, rfl⟩ := he
    · exact ⟨_, exec_fkeyInstall hrun, fkeycmd_startKey false hrun⟩
    · exact ⟨_, exec_fkeyClear hrun, fkeycmd_startKey true hrun⟩

end Sys2Proof
end

section
/-! PROOF. The words that the manual writes out (R77, R133, R146, R165, R182, R191, R205, R236, R287, R288, R308, R359). -/

namespace Sys2Proof

/-- Settles O56: the decoder reads each of the words. -/
theorem printedEncodingsDecode : Obligations.PrintedEncodingsDecode := by
  unfold Obligations.PrintedEncodingsDecode
  and_intros <;> rfl

end Sys2Proof
end

section
/-! PROOF. Conversions between integer formats (R61, R75). -/

namespace Sys2Proof.Machine

open Sys2Proof

/-- A tag of an integer format is no tag of a floating-point format, and its codes have a bit. -/
theorem floatFmt_of_intFmt {a : BitVec 4} {w : Nat} {sg : Bool} (h : intFmt a = some (w, sg)) : floatFmt a = none ∧ 0 < w := by
  have hall : ∀ a : BitVec 4, (intFmt a).all fun p => floatFmt a = none ∧ 0 < p.1 := by decide
  simpa [h] using hall a

theorem convert_intFmt {a b : BitVec 4} {w w' : Nat} {sg sg' : Bool} (ha : intFmt a = some (w, sg)) (hb : intFmt b = some (w', sg')) (m : RMode)
    (sat fz : Bool) (s c : Nat) : convert a b m sat fz s c = (cvtII w' sg' sat (intOfCode w sg c), 0) := by
  simp only [convert, floatFmt_of_intFmt ha, floatFmt_of_intFmt hb, ha, hb]

theorem codeOfInt_lt (w : Nat) (i : Int) : codeOfInt w i < 2 ^ w := (BitVec.ofInt w i).isLt

theorem ofNat_codeOfInt (w : Nat) (i : Int) : BitVec.ofNat w (codeOfInt w i) = BitVec.ofInt w i :=
  (BitVec.ofNat_toNat w (BitVec.ofInt w i)).trans (BitVec.setWidth_eq _)

/-- The value of a code of an integer format, read as two's complement where the format is signed. -/
theorem intOfCode_eq {w c : Nat} (hw : 0 < w) (h : c < 2 ^ w) (sg : Bool) :
    intOfCode w sg c = if sg = true then (BitVec.ofNat w c).toInt else c := by
  have hp : 2 ^ w = 2 * 2 ^ (w - 1) := by rw [← Nat.pow_succ', Nat.succ_eq_add_one, Nat.sub_add_cancel hw]
  cases sg with
  | false => simp [intOfCode, Nat.mod_eq_of_lt h]
  | true =>
    simp only [intOfCode, BitVec.toInt_eq_toNat_cond, BitVec.toNat_ofNat, Nat.mod_eq_of_lt h, Bool.true_and, decide_eq_true_eq, if_true]
    by_cases hc : 2 ^ (w - 1) ≤ c
    · rw [if_pos hc, if_neg (by omega)]; norm_cast
    · rw [if_neg hc, if_pos (by omega)]

/-- An integer in the range of a format is the value of its code. -/
theorem intOfCode_codeOfInt {w : Nat} (hw : 0 < w) (sg : Bool) {i : Int} (hl : (intRange w sg).1 ≤ i) (hh : i ≤ (intRange w sg).2) :
    intOfCode w sg (codeOfInt w i) = i := by
  rw [intOfCode_eq hw (codeOfInt_lt w i), ofNat_codeOfInt]
  cases sg with
  | false => 
    have : i < 2 ^ w := by simp only [intRange] at hh; simpa using Int.lt_of_le_sub_one hh
    simp only [codeOfInt, Bool.false_eq_true, if_false]
    rw [Int.emod_eq_of_lt hl this, Int.toNat_of_nonneg hl]
  | true => exact BitVec.toInt_ofInt_eq_self hw hl (Int.lt_of_le_sub_one hh)

theorem intRange_le (w : Nat) (sg : Bool) : (intRange w sg).1 ≤ (intRange w sg).2 := by
  have hp (k : Nat) : (0 : Int) < 2 ^ k := Int.pow_pos (by decide)
  cases sg with
  | false => have := hp w; simp only [intRange, Bool.false_eq_true, if_false]; omega
  | true => have := hp (w - 1); simp only [intRange, if_true]; omega

theorem cvtII_wraps (w : Nat) (sg : Bool) (i : Int) : cvtII w sg false i = codeOfInt w i := rfl

theorem cvtII_saturates (w : Nat) (sg : Bool) (i : Int) :
    cvtII w sg true i = codeOfInt w (max (intRange w sg).1 (min (intRange w sg).2 i)) := rfl

/-- With SAT the value of the result is the nearest of the destination's range. -/
theorem intOfCode_cvtII_saturates {w : Nat} (hw : 0 < w) (sg : Bool) (i : Int) :
    intOfCode w sg (cvtII w sg true i) = max (intRange w sg).1 (min (intRange w sg).2 i) := by
  have := intRange_le w sg
  exact intOfCode_codeOfInt hw sg (by omega) (by omega)

/-- A value in the destination's range is kept. -/
theorem intOfCode_cvtII_inRange {w : Nat} (hw : 0 < w) {sg : Bool} (sat : Bool) {i : Int} (hl : (intRange w sg).1 ≤ i) (hh : i ≤ (intRange w sg).2) :
    intOfCode w sg (cvtII w sg sat i) = i := by
  cases sat with
  | false => exact intOfCode_codeOfInt hw sg hl hh
  | true => rw [intOfCode_cvtII_saturates hw, min_eq_right hh, max_eq_right hl]

theorem cvtII_lt (w : Nat) (sg sat : Bool) (i : Int) : cvtII w sg sat i < 2 ^ w := by cases sat <;> exact codeOfInt_lt w _

/-- Settles O60: the result is the code of the value itself, or of the nearest one of the destination's range, and an integer in the range of a format
is the value of its code. -/
theorem integerConversionsKeepOrSaturate : Obligations.IntegerConversionsKeepOrSaturate := by
  intro a b w w' sg sg' m sat fz s c ha hb hc v lo hi r u
  have hw := (floatFmt_of_intFmt ha).2
  have hw' := (floatFmt_of_intFmt hb).2
  have hv : intOfCode w sg c = v := intOfCode_eq hw hc sg
  have hr : r = (cvtII w' sg' sat v, 0) := hv ▸ convert_intFmt ha hb m sat fz s c
  have hu : u = intOfCode w' sg' (cvtII w' sg' sat v) := by
    rw [intOfCode_eq hw' (cvtII_lt ..)]; simp only [u, hr]
  have hlo : (intRange w' sg').1 = lo := by simp only [intRange, lo]; split <;> rfl
  have hhi : (intRange w' sg').2 = hi := by simp only [intRange, hi]; split <;> rfl
  have hle : lo ≤ hi := hlo ▸ hhi ▸ intRange_le w' sg'
  refine ⟨hr ▸ cvtII_lt .., fun hl hh => ⟨?_, congrArg Prod.snd hr⟩, ?_, ?_⟩
  · exact hu.trans (intOfCode_cvtII_inRange hw' sat (hlo ▸ hl) (hhi ▸ hh))
  · rintro rfl -
    rw [hr, cvtII_wraps, ofNat_codeOfInt]
  · rintro rfl
    rw [hu, intOfCode_cvtII_saturates hw', hlo, hhi]
    omega
end Sys2Proof.Machine
end

section
/-! PROOF. What the instructions of majors 0x01 to 0x0E leave as it was (R71, R77, R96 to R106). -/

namespace Sys2Proof.Machine

open Sys2Proof

/-! ### What an instruction leaves as it was -/

/-- Everything beside the registers of one strand is as it was, but for issue counts and slots. -/
structure KeepsBeside (st : State) (i : StrandId) (f : State) : Prop where
  strands : ∀ j, j ≠ i → f.strand j = st.strand j
  mem : ∀ k, f.mem.get k = st.mem.get k
  tiles : ∀ u, { f.tile u with core := (st.tile u).core, counts := (st.tile u).counts } = st.tile u
  quads : ∀ q, { f.quad q with core := (st.quad q).core } = st.quad q
  rest : { f with strands := st.strands, tiles := st.tiles, quads := st.quads, idle := st.idle } = st

/-- A strand differs from another in at most one x register, one a register, its program counter, its issue count and an `fcsr` of which
a predicate holds. -/
structure RegsDiffer (t u : Strand) (x : Option (BitVec 5)) (w : Option (BitVec 4)) (ok : Word → Prop) : Prop where
  xr : ∀ r, some r ≠ x → u.xr r = t.xr r
  ar : ∀ r, some r ≠ w → u.ar r = t.ar r
  fcsr : ok u.fcsr
  rest : { u with x := t.x, a := t.a, fcsr := t.fcsr, pc := t.pc, issued := t.issued } = t

/-- Where an outcome is a next state, nothing of the machine differs from a state but at most one x register and one a register of a strand, its
program counter, its `fcsr`, of which a predicate holds, and the issue counts. -/
def WritesOnly (st : State) (i : StrandId) (x : Option (BitVec 5)) (w : Option (BitVec 4)) (ok : Word → Prop) (o : Out) : Prop :=
  ∀ f, o = .next f →
    (∀ r, some r ≠ x → f.xr i r = st.xr i r) ∧
    (∀ r, some r ≠ w → (f.strand i).ar r = (st.strand i).ar r) ∧
    ok (f.strand i).fcsr ∧
    { f.strand i with
        x := (st.strand i).x, a := (st.strand i).a, fcsr := (st.strand i).fcsr, pc := (st.strand i).pc,
        issued := (st.strand i).issued } = st.strand i ∧
    (∀ j, j ≠ i → f.strand j = st.strand j) ∧
    (∀ k, f.mem.get k = st.mem.get k) ∧
    (∀ u, { f.tile u with core := (st.tile u).core, counts := (st.tile u).counts } = st.tile u) ∧
    (∀ q, { f.quad q with core := (st.quad q).core } = st.quad q) ∧
    { f with strands := st.strands, tiles := st.tiles, quads := st.quads, idle := st.idle } = st

/-- The `fcsr` of a strand as it was. -/
def SameFcsr (t : Strand) (v : Word) : Prop := v = t.fcsr

/-- The `fcsr` of a strand with some flags raised. -/
def GainsFlags (t : Strand) (v : Word) : Prop := ∃ k : BitVec 5, v = t.fcsr ||| k.setWidth 64

/-- An instruction that writes one x register and no flag. -/
def WritesX (st : State) (i : StrandId) (d : BitVec 5) (o : Out) : Prop := WritesOnly st i (some d) none (SameFcsr (st.strand i)) o

/-- An instruction that writes one x register and raises flags. -/
def WritesF (st : State) (i : StrandId) (d : BitVec 5) (o : Out) : Prop := WritesOnly st i (some d) none (GainsFlags (st.strand i)) o

/-- An instruction that writes one a register. -/
def WritesA (st : State) (i : StrandId) (d : BitVec 4) (o : Out) : Prop := WritesOnly st i none (some d) (SameFcsr (st.strand i)) o

/-- An instruction that writes the program counter alone. -/
def WritesPc (st : State) (i : StrandId) (o : Out) : Prop := WritesOnly st i none none (SameFcsr (st.strand i)) o

theorem SameFcsr.gainsFlags {t : Strand} {v : Word} (h : SameFcsr t v) : GainsFlags t v := ⟨0, h.trans (BitVec.or_zero).symm⟩

section
variable {t u : Strand} {x : Option (BitVec 5)} {w : Option (BitVec 4)} {ok : Word → Prop}

theorem RegsDiffer.refl (t : Strand) (h : ok t.fcsr) : RegsDiffer t t x w ok := ⟨fun _ _ => rfl, fun _ _ => rfl, h, rfl⟩

theorem RegsDiffer.advance (t : Strand) (len : Nat) : RegsDiffer t (t.advance len) x w (SameFcsr t) := ⟨fun _ _ => rfl, fun _ _ => rfl, rfl, rfl⟩

theorem RegsDiffer.setX {d : BitVec 5} (h : RegsDiffer t u (some d) w ok) (v : Word) : RegsDiffer t (u.setX d v) (some d) w ok := by
  refine ⟨fun r hr => ?_, fun r hr => ?_, ?_, ?_⟩
  · rw [Strand.xr_setX, if_neg fun e => hr (congrArg some e.1), h.xr r hr]
  · rw [Strand.ar_setX, h.ar r hr]
  · rw [Strand.fcsr_setX]; exact h.fcsr
  · unfold Strand.setX; split <;> exact h.rest

theorem RegsDiffer.setA {d : BitVec 4} (h : RegsDiffer t u x (some d) ok) (v : Addr) : RegsDiffer t (u.setA d v) x (some d) ok :=
  ⟨h.xr, fun r hr => by rw [Strand.ar_setA, if_neg fun e => hr (congrArg some e), h.ar r hr], h.fcsr, h.rest⟩

theorem RegsDiffer.setPc (h : RegsDiffer t u x w ok) (a : Addr) : RegsDiffer t { u with pc := a } x w ok := ⟨h.xr, h.ar, h.fcsr, h.rest⟩

theorem RegsDiffer.raise (h : RegsDiffer t u x w (SameFcsr t)) (k : Flags) : RegsDiffer t (u.raise k) x w (GainsFlags t) :=
  ⟨h.xr, h.ar, ⟨k, congrArg (· ||| k.setWidth 64) h.fcsr⟩, h.rest⟩

end

section
variable {st f : State} {i : StrandId}

theorem KeepsBeside.idle (st : State) (i : StrandId) : KeepsBeside st i { st with idle := true } :=
  ⟨fun _ _ => rfl, fun _ => rfl, fun _ => rfl, fun _ => rfl, rfl⟩

theorem KeepsBeside.modStrand (h : KeepsBeside st i f) (g : Strand → Strand) : KeepsBeside st i (f.modStrand i g) :=
  ⟨fun j hj => (State.strand_modStrand_ne f g hj).trans (h.strands j hj), h.mem, h.tiles, h.quads, h.rest⟩

/-- An issue counts the instruction at the core, and at its tile where it has one. -/
theorem KeepsBeside.advance (st : State) (i : StrandId) (len : Nat) : KeepsBeside st i (advance i len st) := by
  refine ⟨fun j hj => by rw [advance_strand, if_neg hj], fun k => by rw [advance_mem], ?tiles, ?quads, ?rest⟩
  all_goals unfold Machine.advance takeSlot; cases i.core
  case tiles.tile t =>
    intro u
    by_cases hu : u = t
    · subst hu; simp [bumpCore, bump, State.modCore]
    · simp [bumpCore, bump, State.modCore, State.tile_modTile_ne _ _ hu]
  case tiles.control q => exact fun u => rfl
  case quads.tile t => exact fun q => rfl
  case quads.control c =>
    intro q
    by_cases hq : q = c
    · subst hq; simp [bumpCore, State.modCore]
    · simp [bumpCore, State.modCore, State.quad_modQuad_ne _ _ hq]
  case rest.tile t => rfl
  case rest.control q => rfl

variable {x : Option (BitVec 5)} {w : Option (BitVec 4)} {ok : Word → Prop}

/-- After an issue and a change of the strand's registers. -/
theorem advance_modStrand_differs {len : Nat} {g : Strand → Strand} (h : RegsDiffer (st.strand i) (g ((st.strand i).advance len)) x w ok) :
    RegsDiffer (st.strand i) (((advance i len st).modStrand i g).strand i) x w ok ∧ KeepsBeside st i ((advance i len st).modStrand i g) := by
  rw [State.strand_modStrand_self, advance_strand, if_pos rfl]
  exact ⟨h, (KeepsBeside.advance st i len).modStrand g⟩

theorem advance_differs (len : Nat) :
    RegsDiffer (st.strand i) ((advance i len st).strand i) x w (SameFcsr (st.strand i)) ∧ KeepsBeside st i (advance i len st) := by
  rw [advance_strand, if_pos rfl]
  exact ⟨.advance _ len, .advance st i len⟩

theorem writesOnly_of_parts {o : Out} (h : ∀ f, o = .next f → RegsDiffer (st.strand i) (f.strand i) x w ok ∧ KeepsBeside st i f) :
    WritesOnly st i x w ok o := fun f hf =>
  have ⟨⟨hx, ha, hfc, hr⟩, ⟨hs, hm, ht, hq, hrest⟩⟩ := h f hf
  ⟨hx, ha, hfc, hr, hs, hm, ht, hq, hrest⟩

/-- An issue that never traps writes only what its body does. -/
theorem issue_writesOnly {len : Nat} {body : StrandId → Strand → State → Except Stop State} (hc : st.cur = .strand i) (h0 : ok (st.strand i).fcsr)
    (ht : ∀ k, body i (st.strand i) (advance i len st) ≠ .error (.trap k))
    (hb : ∀ f, body i (st.strand i) (advance i len st) = .ok f → RegsDiffer (st.strand i) (f.strand i) x w ok ∧ KeepsBeside st i f) :
    WritesOnly st i x w ok (issue st len body) := by
  refine writesOnly_of_parts fun f hf => ?_
  obtain ⟨j, hj, hk⟩ := issue_cases hf
  obtain rfl : i = j := Agent.strand.inj (hc.symm.trans hj)
  obtain rfl | hk | ⟨k, hk, -⟩ := hk
  · exact ⟨.refl _ h0, .idle st i⟩
  · exact hb f hk
  · exact absurd hk (ht k)

/-- An issue that waits or changes registers of its strand writes only those. -/
theorem issue_modStrand_writesOnly {len : Nat} {body : StrandId → Strand → State → Except Stop State} {stall : Strand → Bool}
    {g : Strand → Strand → Strand} (hc : st.cur = .strand i) (h0 : ok (st.strand i).fcsr)
    (hb : ∀ t s, body i t s = if stall t = true then .error .stall else .ok (s.modStrand i (g t)))
    (hg : RegsDiffer (st.strand i) (g (st.strand i) ((st.strand i).advance len)) x w ok) : WritesOnly st i x w ok (issue st len body) := by
  refine issue_writesOnly hc h0 (fun k => ?_) fun f hf => ?_
  · rw [hb]; split <;> nofun
  · rw [hb] at hf
    split at hf <;> cases hf
    exact advance_modStrand_differs hg

theorem issueX_writesX {len : Nat} {d : BitVec 5} {reads : List (BitVec 5)} {g : Strand → Word} (hc : st.cur = .strand i) :
    WritesX st i d (issueX st len d reads g) :=
  issue_modStrand_writesOnly hc rfl (fun _ _ => rfl) ((RegsDiffer.advance _ len).setX _)

theorem issueA_writesA {len : Nat} {d : BitVec 4} {reads : List (BitVec 5)} {g : Strand → Addr} (hc : st.cur = .strand i) :
    WritesA st i d (issueA st len d reads g) :=
  issue_modStrand_writesOnly hc rfl (fun _ _ => rfl) ((RegsDiffer.advance _ len).setA _)

theorem fpu_writesF {F : FFmt} {d : BitVec 5} {reads : List (BitVec 5)} {g : RMode → Bool → Strand → Nat × Flags} (hc : st.cur = .strand i) :
    WritesF st i d (fpu F d reads st g) :=
  issue_modStrand_writesOnly hc (SameFcsr.gainsFlags rfl) (fun _ _ => rfl) (((RegsDiffer.advance _ one).setX _).raise _)

theorem fcompare_writesF {F : FFmt} {n : Nat} {d s t : BitVec 5} (hc : st.cur = .strand i) :
    WritesF st i d (fcompare F n d s t st) :=
  issue_modStrand_writesOnly hc (SameFcsr.gainsFlags rfl) (fun _ _ => rfl) (((RegsDiffer.advance _ one).setX _).raise _)

theorem execFcvt_writesF {d s : BitVec 5} {a b : BitVec 4} {t : BitVec 5} (hc : st.cur = .strand i) :
    WritesF st i d (execFcvt d s a b t st) :=
  issue_modStrand_writesOnly hc (SameFcsr.gainsFlags rfl) (fun _ _ => rfl) (((RegsDiffer.advance _ one).setX _).raise _)

theorem branch_writesPc {len : Nat} {reads : List (BitVec 5)} {taken : Strand → Bool} {off : Addr} (hc : st.cur = .strand i) :
    WritesPc st i (branch st len reads taken off) := by
  refine issue_writesOnly hc rfl (fun k => ?_) fun f hf => ?_
  · repeat' split
    all_goals nofun
  · split at hf
    · cases hf
    · split at hf <;> cases hf
      · exact advance_modStrand_differs ((RegsDiffer.advance _ len).setPc _)
      · exact advance_differs len

theorem jump_writesA {len : Nat} {d : BitVec 4} {off : Addr} (hc : st.cur = .strand i) :
    WritesA st i d (jump st len d off) :=
  issue_writesOnly hc rfl (fun _ => nofun) fun f hf => by
    cases hf
    exact advance_modStrand_differs (((RegsDiffer.advance _ len).setA _).setPc _)

theorem execJalr_writesA {d s : BitVec 4} {k : BitVec 14} (hc : st.cur = .strand i)
    (ha : ((st.strand i).ar s + 4 * k.signExtend 80).toNat % 4 = 0) :
    WritesA st i d (execJalr d s k st) := by
  have hm : ¬ (((st.strand i).ar s + 4 * sext80 k).toNat % 4 != 0) = true := by simpa using ha
  refine issue_writesOnly hc rfl (fun _ => ?_) fun f hf => ?_
  · rw [if_neg hm]; nofun
  · rw [if_neg hm] at hf
    cases hf
    exact advance_modStrand_differs (((RegsDiffer.advance _ one).setA _).setPc _)

end

/-- Settles O58: each instruction is a form of one of eight shared operations, and the frame of each is its lemma above. -/
theorem registerInstructionsWriteOnlyTheirDestination : Obligations.RegisterInstructionsWriteOnlyTheirDestination := by
  intro st i d s t c a b hc
  show
    WritesX st i d (execAdd d s t st) ∧ WritesX st i d (execSub d s t st) ∧ WritesX st i d (execAnd d s t st) ∧ WritesX st i d (execOr d s t st) ∧
    WritesX st i d (execXor d s t st) ∧ WritesX st i d (execSll d s t st) ∧ WritesX st i d (execSrl d s t st) ∧
    WritesX st i d (execSra d s t st) ∧ WritesX st i d (execSlt d s t st) ∧ WritesX st i d (execSltu d s t st) ∧
    WritesX st i d (execMin d s t st) ∧ WritesX st i d (execMax d s t st) ∧ WritesX st i d (execMinu d s t st) ∧
    WritesX st i d (execMaxu d s t st) ∧ WritesX st i d (execMul d s t st) ∧ WritesX st i d (execMulh d s t st) ∧
    WritesX st i d (execMulhu d s t st) ∧ WritesX st i d (execDiv d s t st) ∧ WritesX st i d (execDivu d s t st) ∧
    WritesX st i d (execRem d s t st) ∧ WritesX st i d (execRemu d s t st) ∧ WritesX st i d (execAdd32 d s t st) ∧
    WritesX st i d (execSub32 d s t st) ∧ WritesX st i d (execClz d s st) ∧ WritesX st i d (execCtz d s st) ∧ WritesX st i d (execPopc d s st) ∧
    WritesX st i d (execSxb d s st) ∧ WritesX st i d (execSxh d s st) ∧ WritesX st i d (execSxw d s st) ∧ WritesX st i d (execZxw d s st) ∧
    WritesX st i d (execFclassS d s st) ∧ WritesX st i d (execFclassD d s st) ∧
    (∀ k : BitVec 14, WritesX st i d (execAddi d s k st)) ∧
    (∀ k : BitVec 12, WritesX st i d (execAndi d s k st) ∧ WritesX st i d (execOri d s k st) ∧ WritesX st i d (execXori d s k st)) ∧
    (∀ k : BitVec 32, WritesX st i d (execAddiImm32 d s k st) ∧ WritesX st i d (execAndiImm32 d s k st) ∧ WritesX st i d (execOriImm32 d s k st) ∧
      WritesX st i d (execXoriImm32 d s k st) ∧ WritesX st i d (execLiw d k st)) ∧
    (∀ k : BitVec 6, WritesX st i d (execSlli d s k st) ∧ WritesX st i d (execSrli d s k st) ∧ WritesX st i d (execSrai d s k st)) ∧
    (∀ k : BitVec 19, WritesX st i d (execLui d k st)) ∧
    (∀ k : BitVec 64, WritesX st i d (execLiq d k st)) ∧
    WritesF st i d (execFaddS d s t st) ∧ WritesF st i d (execFsubS d s t st) ∧ WritesF st i d (execFmulS d s t st) ∧
    WritesF st i d (execFdivS d s t st) ∧ WritesF st i d (execFminS d s t st) ∧ WritesF st i d (execFmaxS d s t st) ∧
    WritesF st i d (execFmaS d s t st) ∧ WritesF st i d (execFnmaS d s t st) ∧ WritesF st i d (execFeqS d s t st) ∧
    WritesF st i d (execFltS d s t st) ∧ WritesF st i d (execFleS d s t st) ∧ WritesF st i d (execFaddD d s t st) ∧
    WritesF st i d (execFsubD d s t st) ∧ WritesF st i d (execFmulD d s t st) ∧ WritesF st i d (execFdivD d s t st) ∧
    WritesF st i d (execFminD d s t st) ∧ WritesF st i d (execFmaxD d s t st) ∧ WritesF st i d (execFmaD d s t st) ∧
    WritesF st i d (execFnmaD d s t st) ∧ WritesF st i d (execFeqD d s t st) ∧ WritesF st i d (execFltD d s t st) ∧
    WritesF st i d (execFleD d s t st) ∧ WritesF st i d (execFsqrtS d s st) ∧ WritesF st i d (execFsqrtD d s st) ∧
    (∀ (k l : BitVec 4) (m : BitVec 5), WritesF st i d (execFcvt d s k l m st)) ∧
    WritesX st i d (execAdiff d a b st) ∧ WritesX st i d (execAtox d a st) ∧ WritesA st i c (execAadd c a t st) ∧
    WritesA st i c (execAsub c a t st) ∧ WritesA st i c (execAmov c a st) ∧ WritesA st i c (execAfromx c s st) ∧
    (∀ k : BitVec 14, WritesA st i c (execAaddi c a k st)) ∧
    (∀ k : BitVec 32, WritesA st i c (execAaddiImm32 c a k st)) ∧
    (∀ k : BitVec 16, WritesA st i c (execAhi c k st)) ∧
    (∀ k : BitVec 10, WritesPc st i (execBeq s t k st) ∧ WritesPc st i (execBne s t k st) ∧ WritesPc st i (execBlt s t k st) ∧
      WritesPc st i (execBge s t k st) ∧ WritesPc st i (execBltu s t k st) ∧ WritesPc st i (execBgeu s t k st) ∧
      WritesPc st i (execBaeq a b k st) ∧ WritesPc st i (execBane a b k st) ∧ WritesPc st i (execBaltu a b k st) ∧
      WritesPc st i (execBageu a b k st)) ∧
    (∀ k : BitVec 32, WritesPc st i (execBeqOff32 s t k st) ∧ WritesPc st i (execBneOff32 s t k st) ∧ WritesPc st i (execBltOff32 s t k st) ∧
      WritesPc st i (execBgeOff32 s t k st) ∧ WritesPc st i (execBltuOff32 s t k st) ∧ WritesPc st i (execBgeuOff32 s t k st) ∧
      WritesPc st i (execBaeqOff32 a b k st) ∧ WritesPc st i (execBaneOff32 a b k st) ∧ WritesPc st i (execBaltuOff32 a b k st) ∧
      WritesPc st i (execBageuOff32 a b k st)) ∧
    (∀ k : BitVec 19, WritesA st i c (execJal c k st)) ∧
    (∀ k : BitVec 32, WritesA st i c (execJalOff32 c k st)) ∧
    (∀ k : BitVec 14, ((st.strand i).ar a + 4 * k.signExtend 80).toNat % 4 = 0 → WritesA st i c (execJalr c a k st))
  simp only [execAdd, execSub, execAnd, execOr, execXor, execSll, execSrl, execSra, execSlt, execSltu, execMin, execMax, execMinu, execMaxu,
    execMul, execMulh, execMulhu, execDiv, execDivu, execRem, execRemu, execAdd32, execSub32, execClz, execCtz, execPopc, execSxb, execSxh, execSxw,
    execZxw, execFclassS, execFclassD, execAddi, execAndi, execOri, execXori, execAddiImm32, execAndiImm32, execOriImm32, execXoriImm32, execLiw,
    execSlli, execSrli, execSrai, execLui, execLiq, execFaddS, execFsubS, execFmulS, execFdivS, execFminS, execFmaxS, execFmaS, execFnmaS, execFeqS,
    execFltS, execFleS, execFaddD, execFsubD, execFmulD, execFdivD, execFminD, execFmaxD, execFmaD, execFnmaD, execFeqD, execFltD, execFleD,
    execFsqrtS, execFsqrtD, execAdiff, execAtox, execAadd, execAsub, execAmov, execAfromx, execAaddi, execAaddiImm32, execAhi, execBeq, execBne,
    execBlt, execBge, execBltu, execBgeu, execBaeq, execBane, execBaltu, execBageu, execBeqOff32, execBneOff32, execBltOff32, execBgeOff32,
    execBltuOff32, execBgeuOff32, execBaeqOff32, execBaneOff32, execBaltuOff32, execBageuOff32, execJal, execJalOff32, alu, alu1, issueX_writesX hc,
    issueA_writesA hc, fpu_writesF hc, fcompare_writesF hc, execFcvt_writesF hc, branch_writesPc hc, jump_writesA hc, implies_true, and_self,
    true_and]
  exact fun _ ha => execJalr_writesA hc ha

end Sys2Proof.Machine
end

section
/-! PROOF. Rounding an exact magnitude into a format (R59, R68, R70, R72). -/

namespace Sys2Proof.Machine

open Sys2Proof

/-! ### Fractions of powers of two -/

theorem scalePow_snd_pos (k : Nat) (e : Int) : 0 < (scalePow k e).2 := by
  unfold scalePow; split
  · exact Nat.one_pos
  · exact Nat.two_pow_pos _

/-- The numerator and denominator of `scalePow` are those of `k` times two to the power `e`. -/
theorem scalePow_div (k : Nat) (e : Int) : ((scalePow k e).1 : ℚ) / (scalePow k e).2 = k * 2 ^ e := by
  unfold scalePow; split
  case isTrue h =>
    obtain ⟨n, rfl⟩ := Int.eq_ofNat_of_zero_le h
    simp
  case isFalse h =>
    obtain ⟨n, rfl⟩ : ∃ n : Nat, e = -n := ⟨(-e).toNat, by omega⟩
    simp [div_eq_mul_inv]

theorem scalePow_fst (k : Nat) (e : Int) : ((scalePow k e).1 : ℚ) = k * 2 ^ e * (scalePow k e).2 :=
  (div_eq_iff (by exact_mod_cast (scalePow_snd_pos k e).ne')).mp (scalePow_div k e)

theorem scalePow_fst_pos {k : Nat} (hk : 0 < k) (e : Int) : 0 < (scalePow k e).1 := by
  have hs := scalePow_snd_pos k e
  have : (0 : ℚ) < (scalePow k e).1 := by rw [scalePow_fst]; positivity
  exact_mod_cast this

/-- The order of two fractions, cross-multiplied. -/
theorem cross_lt_iff {a b c d : Nat} (hb : 0 < b) (hd : 0 < d) : a * d < c * b ↔ (a : ℚ) / b < (c : ℚ) / d := by
  rw [div_lt_div_iff₀ (by exact_mod_cast hb) (by exact_mod_cast hd)]; norm_cast

theorem FFmt.tiny_iff (F : FFmt) (n : Nat) {d : Nat} (hd : 0 < d) : F.tiny n d = true ↔ (n : ℚ) / d < 2 ^ F.emin := by
  simp only [FFmt.tiny, decide_eq_true_eq]
  rw [cross_lt_iff hd (scalePow_snd_pos 1 F.emin), scalePow_div, Nat.cast_one, one_mul]

theorem two_zpow_log2_le {n : Nat} (hn : 0 < n) : (2 : ℚ) ^ (Nat.log2 n : Int) ≤ n ∧ (n : ℚ) < 2 ^ ((Nat.log2 n : Int) + 1) := by
  rw [Nat.log2_eq_log_two, ← Int.log_natCast (R := ℚ)]
  exact ⟨Int.zpow_log_le_self one_lt_two (by exact_mod_cast hn), Int.lt_zpow_succ_log_self one_lt_two _⟩

theorem intLog_eq_of_bounds {v : ℚ} {l : Int} (hl : (2 : ℚ) ^ l ≤ v) (hh : v < 2 ^ (l + 1)) : Int.log 2 v = l := by
  have hv : 0 < v := lt_of_lt_of_le (by positivity) hl
  have h1 := (Int.zpow_le_iff_le_log one_lt_two hv).mp hl
  have h2 := (Int.lt_zpow_iff_log_lt one_lt_two hv).mp hh
  omega

/-- The logarithm that rounding takes is the floor of the base-two logarithm. -/
theorem floorLog2_eq {n d : Nat} (hn : 0 < n) (hd : 0 < d) : floorLog2 n d = Int.log 2 ((n : ℚ) / d) := by
  obtain ⟨hn1, hn2⟩ := two_zpow_log2_le hn
  obtain ⟨hd1, hd2⟩ := two_zpow_log2_le hd
  have hd0 : (0 : ℚ) < d := by exact_mod_cast hd
  have hle (l : Int) : (scalePow d l).1 ≤ n * (scalePow d l).2 ↔ (2 : ℚ) ^ l ≤ n / d := by
    have hs : (0 : ℚ) < (scalePow d l).2 := by exact_mod_cast scalePow_snd_pos d l
    rw [← Nat.cast_le (α := ℚ), Nat.cast_mul, scalePow_fst, mul_le_mul_iff_left₀ hs, le_div_iff₀ hd0, mul_comm]
  have hlow : (2 : ℚ) ^ ((Nat.log2 n : Int) - Nat.log2 d - 1) ≤ n / d := by
    rw [sub_sub, zpow_sub₀ two_ne_zero]
    exact div_le_div₀ (by positivity) hn1 hd0 hd2.le
  have hhigh : (n : ℚ) / d < 2 ^ ((Nat.log2 n : Int) - Nat.log2 d + 1) := by
    rw [sub_add_eq_add_sub, zpow_sub₀ two_ne_zero]
    exact div_lt_div₀ hn2 hd1 (by positivity) (by positivity)
  simp only [floorLog2, hle]
  split
  case isTrue h => exact (intLog_eq_of_bounds h hhigh).symm
  case isFalse h => exact (intLog_eq_of_bounds hlow (by simpa using h)).symm

/-! ### Rounding to a multiple (R68) -/

/-- The decision to round a magnitude away from zero, of its integer part and the rest, in a mode. -/
def RMode.RoundsUp (m : RMode) (neg : Bool) (s k : Nat) (rest : ℚ) : Prop :=
  match m with
  | .nearest => 1 / 2 < rest ∨ (rest = 1 / 2 ∧ k % 2 = 1)
  | .zero => False
  | .down => neg = true
  | .up => neg = false
  | .stochastic => 2 ^ 32 ≤ ⌊rest * 2 ^ 32⌋₊ + s

/-- The part of a nonnegative number behind its integer part. -/
def fracPart (w : ℚ) : ℚ := w - ⌊w⌋₊

/-- A magnitude is rounded away from zero. -/
def RMode.RoundsAway (m : RMode) (neg : Bool) (s : Nat) (w : ℚ) : Prop := fracPart w ≠ 0 ∧ m.RoundsUp neg s ⌊w⌋₊ (fracPart w)

theorem fracPart_div {a b : Nat} (hb : 0 < b) : fracPart ((a : ℚ) / b) = ((a % b : Nat) : ℚ) / b := by
  have hb0 : (b : ℚ) ≠ 0 := by exact_mod_cast hb.ne'
  have h : (a : ℚ) = b * ((a / b : Nat) : ℚ) + ((a % b : Nat) : ℚ) := by exact_mod_cast (Nat.div_add_mod a b).symm
  rw [fracPart, Nat.floor_div_eq_div, sub_eq_iff_eq_add, div_eq_iff hb0, add_mul, div_mul_cancel₀ _ hb0]
  linarith

theorem roundUp_iff (m : RMode) (neg : Bool) (s k r : Nat) {den : Nat} (hd : 0 < den) :
    roundUp m neg k r den s = true ↔ (r : ℚ) / den ≠ 0 ∧ m.RoundsUp neg s k (r / den) := by
  have hd0 : (0 : ℚ) < den := by exact_mod_cast hd
  have hz : (r : ℚ) / den = 0 ↔ r = 0 := by simp [hd.ne']
  unfold roundUp
  split
  case isTrue h => simp [h]
  case isFalse h =>
    rw [ne_eq, hz, eq_false h, not_false_eq_true, true_and]
    cases m with
    | nearest =>
      have h1 : (1 : ℚ) / 2 < r / den ↔ den < 2 * r := by
        rw [div_lt_div_iff₀ two_pos hd0, one_mul, mul_comm]; norm_cast
      have h2 : (r : ℚ) / den = 1 / 2 ↔ 2 * r = den := by
        rw [div_eq_div_iff hd0.ne' two_ne_zero, one_mul, mul_comm]; norm_cast
      simp only [RMode.RoundsUp, h1, h2, Bool.or_eq_true, Bool.and_eq_true, decide_eq_true_eq, beq_iff_eq]
    | zero => simp [RMode.RoundsUp]
    | down => simp [RMode.RoundsUp]
    | up => simp [RMode.RoundsUp]
    | stochastic =>
      have h3 : ⌊(r : ℚ) / den * 2 ^ 32⌋₊ = r * 2 ^ 32 / den := by
        rw [div_mul_eq_mul_div, ← Nat.floor_div_eq_div (K := ℚ)]; norm_cast
      simp only [RMode.RoundsUp, h3, decide_eq_true_eq]

section
variable (m : RMode) (neg : Bool) (n : Nat) {d : Nat} (qe : Int) (s : Nat)

theorem roundAt_quotient : ((n * (scalePow d qe).2 : Nat) : ℚ) / (scalePow d qe).1 = (n : ℚ) / d / 2 ^ qe := by
  have hs : ((scalePow d qe).2 : ℚ) ≠ 0 := by exact_mod_cast (scalePow_snd_pos d qe).ne'
  rw [scalePow_fst, Nat.cast_mul, mul_div_mul_right _ _ hs, div_div]

theorem roundUp_quotient_iff {a b : Nat} (hb : 0 < b) : roundUp m neg (a / b) (a % b) b s = true ↔ m.RoundsAway neg s ((a : ℚ) / b) := by
  rw [RMode.RoundsAway, fracPart_div hb, Nat.floor_div_eq_div, roundUp_iff m neg s _ _ hb]

/-- The multiple that rounding takes is the integer part, or the next where the mode rounds away from zero. -/
theorem roundAt_fst_up (hd : 0 < d) (h : m.RoundsAway neg s ((n : ℚ) / d / 2 ^ qe)) : (roundAt m neg n d qe s).1 = ⌊(n : ℚ) / d / 2 ^ qe⌋₊ + 1 := by
  rw [← roundAt_quotient n qe, ← roundUp_quotient_iff m neg s (scalePow_fst_pos hd qe)] at h
  rw [← roundAt_quotient n qe, Nat.floor_div_eq_div]
  exact if_pos h

theorem roundAt_fst_down (hd : 0 < d) (h : ¬ m.RoundsAway neg s ((n : ℚ) / d / 2 ^ qe)) :
    (roundAt m neg n d qe s).1 = ⌊(n : ℚ) / d / 2 ^ qe⌋₊ := by
  rw [← roundAt_quotient n qe, ← roundUp_quotient_iff m neg s (scalePow_fst_pos hd qe)] at h
  rw [← roundAt_quotient n qe, Nat.floor_div_eq_div]
  exact if_neg h

theorem roundAt_snd (hd : 0 < d) : (roundAt m neg n d qe s).2 = true ↔ fracPart ((n : ℚ) / d / 2 ^ qe) ≠ 0 := by
  have hp : ((scalePow d qe).1 : ℚ) ≠ 0 := by exact_mod_cast (scalePow_fst_pos hd qe).ne'
  rw [← roundAt_quotient n qe, fracPart_div (scalePow_fst_pos hd qe), ne_eq, div_eq_zero_iff, Nat.cast_eq_zero, or_iff_left hp]
  exact bne_iff_ne

theorem roundAt_fst_bounds (hd : 0 < d) :
    ⌊(n : ℚ) / d / 2 ^ qe⌋₊ ≤ (roundAt m neg n d qe s).1 ∧ (roundAt m neg n d qe s).1 ≤ ⌊(n : ℚ) / d / 2 ^ qe⌋₊ + 1 := by
  by_cases h : m.RoundsAway neg s ((n : ℚ) / d / 2 ^ qe)
  · rw [roundAt_fst_up m neg n qe s hd h]; omega
  · rw [roundAt_fst_down m neg n qe s hd h]; omega

end

/-! ### The code of a finite magnitude (R59, R68) -/

/-- The exponent of the unit in the last place of a magnitude. -/
def FFmt.unitExp (F : FFmt) (v : ℚ) : Int := max (Int.log 2 v) F.emin - F.fracW

/-- A magnitude in units in its last place. -/
def FFmt.scaled (F : FFmt) (v : ℚ) : ℚ := v / 2 ^ F.unitExp v

/-- Exponent and fraction fields that stand for a finite magnitude. -/
def FFmt.FiniteFields (F : FFmt) (e f : Nat) : Prop :=
  (F.spec = .ieee → e ≠ 2 ^ F.expW - 1) ∧ (F.spec = .e4m3 → e = 2 ^ F.expW - 1 → f ≠ 2 ^ F.fracW - 1)

/-- The code of some fields. -/
def FFmt.pack (F : FFmt) (neg : Bool) (e f : Nat) : Nat := F.zeroCode neg + (e * 2 ^ F.fracW + f)

theorem FFmt.pack_eq (F : FFmt) (neg : Bool) (e f : Nat) : F.pack neg e f = (neg.toNat * 2 ^ F.expW + e) * 2 ^ F.fracW + f := by
  cases neg <;> simp only [FFmt.pack, FFmt.zeroCode, pow_add, Bool.toNat, if_true, Bool.false_eq_true, if_false, cond] <;> ring

section
variable (F : FFmt) (neg : Bool) {e f : Nat}

theorem FFmt.pack_lt (he : e < 2 ^ F.expW) (hf : f < 2 ^ F.fracW) : F.pack neg e f < 2 ^ F.width := by
  have h1 : neg.toNat * 2 ^ F.expW + e < 2 * 2 ^ F.expW := by
    have := Nat.mul_le_mul_right (2 ^ F.expW) neg.toNat_le
    omega
  calc F.pack neg e f = (neg.toNat * 2 ^ F.expW + e) * 2 ^ F.fracW + f := F.pack_eq neg e f
    _ < (neg.toNat * 2 ^ F.expW + e + 1) * 2 ^ F.fracW := by rw [add_mul _ 1]; omega
    _ ≤ 2 * 2 ^ F.expW * 2 ^ F.fracW := Nat.mul_le_mul_right _ h1
    _ = 2 ^ F.width := by rw [FFmt.width, pow_add, pow_add, pow_one]

theorem FFmt.pack_mod (hf : f < 2 ^ F.fracW) : F.pack neg e f % 2 ^ F.fracW = f := by
  rw [F.pack_eq, Nat.mul_add_mod_of_lt hf]

theorem FFmt.pack_div (hf : f < 2 ^ F.fracW) : F.pack neg e f / 2 ^ F.fracW = neg.toNat * 2 ^ F.expW + e := by
  rw [F.pack_eq, Nat.mul_comm, Nat.mul_add_div (Nat.two_pow_pos _), Nat.div_eq_of_lt hf, Nat.add_zero]

theorem FFmt.pack_exponent (he : e < 2 ^ F.expW) (hf : f < 2 ^ F.fracW) : F.pack neg e f / 2 ^ F.fracW % 2 ^ F.expW = e := by
  rw [F.pack_div neg hf, Nat.mul_add_mod_of_lt he]

theorem FFmt.pack_sign (he : e < 2 ^ F.expW) (hf : f < 2 ^ F.fracW) : (F.pack neg e f / 2 ^ (F.fracW + F.expW) % 2 == 1) = neg := by
  rw [pow_add, ← Nat.div_div_eq_div_mul, F.pack_div neg hf, Nat.mul_comm, Nat.mul_add_div (Nat.two_pow_pos _), Nat.div_eq_of_lt he]
  cases neg <;> rfl

/-- A code of finite fields reads as a zero, a subnormal or a normal. -/
theorem FFmt.decode_pack (he : e < 2 ^ F.expW) (hf : f < 2 ^ F.fracW) (hfin : F.FiniteFields e f) :
    F.decode (F.pack neg e f) =
      if e = 0 then
        if f = 0 then .zero neg
        else .fin neg (scalePow f (F.emin - F.fracW)).1 (scalePow f (F.emin - F.fracW)).2
      else .fin neg (scalePow (2 ^ F.fracW + f) ((e : Int) - F.bias - F.fracW)).1 (scalePow (2 ^ F.fracW + f) ((e : Int) - F.bias - F.fracW)).2 := by
  obtain ⟨h1, h2⟩ := hfin
  simp only [FFmt.decode, F.pack_mod neg hf, F.pack_exponent neg he hf, F.pack_sign neg he hf]
  rw [if_neg fun h => h1 h.1 h.2, if_neg fun h => h2 h.1 h.2.1 h.2.2]

end

/-- A code reads as a finite magnitude of a sign. -/
def FFmt.Reads (F : FFmt) (neg : Bool) (z : ℚ) (c : Nat) : Prop :=
  c < 2 ^ F.width ∧ (z = 0 → F.decode c = .zero neg) ∧ (z ≠ 0 → ∃ a b : Nat, F.decode c = .fin neg a b ∧ 0 < b ∧ (a : ℚ) / b = z)

theorem FFmt.reads_pack_subnormal {F : FFmt} {f : Nat} (neg : Bool) (hw : 1 ≤ F.expW) (hf : f < 2 ^ F.fracW) :
    F.Reads neg (f * 2 ^ (F.emin - F.fracW)) (F.pack neg 0 f) := by
  have hE : 2 ≤ 2 ^ F.expW := Nat.pow_le_pow_right (n := 2) two_pos hw
  have hfin : F.FiniteFields 0 f := ⟨fun _ => by omega, fun _ _ => by omega⟩
  have hd := F.decode_pack neg (by omega) hf hfin
  have hz : (f : ℚ) * 2 ^ (F.emin - F.fracW) = 0 ↔ f = 0 := by
    rw [mul_eq_zero, or_iff_left (zpow_ne_zero _ two_ne_zero), Nat.cast_eq_zero]
  refine ⟨F.pack_lt neg (by omega) hf, fun h => ?_, fun h => ?_⟩
  · rw [hd, if_pos rfl, if_pos (hz.mp h)]
  · rw [hd, if_pos rfl, if_neg (mt hz.mpr h)]
    exact ⟨_, _, rfl, scalePow_snd_pos _ _, scalePow_div _ _⟩

theorem FFmt.reads_pack_normal {F : FFmt} {e f : Nat} (neg : Bool) (h0 : 0 < e) (he : e < 2 ^ F.expW) (hf : f < 2 ^ F.fracW)
    (hfin : F.FiniteFields e f) : F.Reads neg (((2 ^ F.fracW + f : Nat) : ℚ) * 2 ^ ((e : Int) - F.bias - F.fracW)) (F.pack neg e f) := by
  refine ⟨F.pack_lt neg he hf, fun h => absurd h ?_, fun _ => ?_⟩
  · have : 0 < 2 ^ F.fracW + f := Nat.add_pos_left (Nat.two_pow_pos _) _
    positivity
  · rw [F.decode_pack neg he hf hfin, if_neg h0.ne']
    exact ⟨_, _, rfl, scalePow_snd_pos _ _, scalePow_div _ _⟩

/-- The largest exponent field of a finite magnitude. -/
def FFmt.topExp (F : FFmt) : Nat := if F.spec = .ieee then 2 ^ F.expW - 2 else 2 ^ F.expW - 1

/-- The largest finite magnitude has the largest exponent field and the largest fraction, or in E4M3 the one below. -/
theorem FFmt.maxParts_eq {F : FFmt} (hw : 1 ≤ F.expW) :
    F.maxParts = (if F.spec = .e4m3 then 2 ^ (F.fracW + 1) - 2 else 2 ^ (F.fracW + 1) - 1, (F.topExp : Int) - F.bias - F.fracW) := by
  have hE : 2 ≤ 2 ^ F.expW := Nat.pow_le_pow_right (n := 2) two_pos hw
  unfold FFmt.maxParts FFmt.topExp
  cases F.spec
  case ieee => simp only [reduceCtorEq, if_true, if_false]; congr 1; omega
  case e4m3 => rfl
  case none => rfl

theorem FFmt.maxParts_lt {F : FFmt} (hw : 1 ≤ F.expW) : F.maxParts.1 < 2 ^ (F.fracW + 1) := by
  have := Nat.two_pow_pos (F.fracW + 1)
  rw [F.maxParts_eq hw]; dsimp only; split <;> omega

/-- A magnitude that is not beyond the largest finite one has no larger exponent. -/
theorem FFmt.exponent_le_topExp {F : FFmt} (hw : 1 ≤ F.expW) {j k : Nat} {qe : Int} (hk : 2 ^ j ≤ k)
    (hm : (k : ℚ) * 2 ^ qe ≤ F.maxParts.1 * 2 ^ F.maxParts.2) : (j : Int) + qe + F.bias ≤ F.topExp := by
  have h1 : (2 : ℚ) ^ ((j : Int) + qe) < 2 ^ ((F.fracW : Int) + 1 + F.maxParts.2) := by
    calc (2 : ℚ) ^ ((j : Int) + qe) = (2 ^ j : Nat) * 2 ^ qe := by rw [zpow_add₀ two_ne_zero]; norm_cast
      _ ≤ k * 2 ^ qe := mul_le_mul_of_nonneg_right (by exact_mod_cast hk) (by positivity)
      _ ≤ F.maxParts.1 * 2 ^ F.maxParts.2 := hm
      _ < (2 ^ (F.fracW + 1) : Nat) * 2 ^ F.maxParts.2 := mul_lt_mul_of_pos_right (by exact_mod_cast F.maxParts_lt hw) (by positivity)
      _ = 2 ^ ((F.fracW : Int) + 1 + F.maxParts.2) := by rw [zpow_add₀ two_ne_zero]; norm_cast
  have h2 := (zpow_lt_zpow_iff_right₀ (one_lt_two (α := ℚ))).mp h1
  rw [F.maxParts_eq hw] at h2
  dsimp only at h2
  omega

theorem FFmt.finiteFields_of_lt {F : FFmt} {e f : Nat} (hw : 1 ≤ F.expW) (he : e ≤ F.topExp)
    (hf : F.spec = .e4m3 → e = 2 ^ F.expW - 1 → f ≠ 2 ^ F.fracW - 1) : F.FiniteFields e f := by
  have hE : 2 ≤ 2 ^ F.expW := Nat.pow_le_pow_right (n := 2) two_pos hw
  refine ⟨fun hs => ?_, hf⟩
  rw [FFmt.topExp, if_pos hs] at he
  omega

theorem FFmt.topExp_lt (F : FFmt) : F.topExp < 2 ^ F.expW := by
  have := Nat.two_pow_pos F.expW
  unfold FFmt.topExp
  split <;> omega

section
variable {F : FFmt} {k : Nat} {qe : Int} (neg : Bool)

/-- A multiple with fewer bits than the significand is encoded as a zero or a subnormal. -/
theorem FFmt.encode_subnormal (h : k < 2 ^ F.fracW) : F.encode neg k qe = F.pack neg 0 k := by
  simp [FFmt.encode, FFmt.pack, h]

theorem FFmt.encode_normal {e f : Nat} (hf : f < 2 ^ F.fracW) (he : qe + F.fracW + F.bias = e) :
    F.encode neg (2 ^ F.fracW + f) qe = F.pack neg e f := by
  have hP : 2 ^ (F.fracW + 1) = 2 ^ F.fracW + 2 ^ F.fracW := by rw [pow_succ]; omega
  simp [FFmt.encode, FFmt.pack, he, hP, hf.ne]

/-- A significand that rounding carried into the next power of two is encoded with the next exponent. -/
theorem FFmt.encode_carry {e : Nat} (he : qe + F.fracW + F.bias + 1 = e) : F.encode neg (2 ^ (F.fracW + 1)) qe = F.pack neg e 0 := by
  have hP : 2 ^ (F.fracW + 1) = 2 ^ F.fracW + 2 ^ F.fracW := by rw [pow_succ]; omega
  simp [FFmt.encode, FFmt.pack, he, hP]

variable (hw : 1 ≤ F.expW) (hq : F.emin - F.fracW ≤ qe) (hm : (k : ℚ) * 2 ^ qe ≤ F.maxParts.1 * 2 ^ F.maxParts.2)
include hw hq hm

theorem FFmt.reads_encode_carry (hF : 1 ≤ F.fracW) (hk : k = 2 ^ (F.fracW + 1)) : F.Reads neg (k * 2 ^ qe) (F.encode neg k qe) := by
  have hP : 2 ≤ 2 ^ F.fracW := Nat.pow_le_pow_right (n := 2) two_pos hF
  have hemin : F.emin = 1 - F.bias := rfl
  have htop := F.topExp_lt
  have hle := F.exponent_le_topExp hw hk.ge hm
  obtain ⟨e, he⟩ : ∃ e : Nat, qe + F.fracW + F.bias + 1 = e := ⟨(qe + F.fracW + F.bias + 1).toNat, by omega⟩
  have hv : (k : ℚ) * 2 ^ qe = ((2 ^ F.fracW + 0 : Nat) : ℚ) * 2 ^ ((e : Int) - F.bias - F.fracW) := by
    rw [hk, show (e : Int) - F.bias - F.fracW = qe + 1 by omega, zpow_add_one₀ two_ne_zero]
    push_cast
    ring
  rw [hv, hk, F.encode_carry neg he]
  exact FFmt.reads_pack_normal neg (by omega) (by omega) (by omega) (FFmt.finiteFields_of_lt hw (by omega) fun _ _ => by omega)

theorem FFmt.reads_encode_normal (hge : 2 ^ F.fracW ≤ k) (hlt : k < 2 ^ (F.fracW + 1)) : F.Reads neg (k * 2 ^ qe) (F.encode neg k qe) := by
  have hP : 2 ^ (F.fracW + 1) = 2 ^ F.fracW + 2 ^ F.fracW := by rw [pow_succ]; omega
  have hemin : F.emin = 1 - F.bias := rfl
  have htop := F.topExp_lt
  have hle := F.exponent_le_topExp hw hge hm
  obtain ⟨f, rfl⟩ := Nat.exists_eq_add_of_le hge
  obtain ⟨e, he⟩ : ∃ e : Nat, qe + F.fracW + F.bias = e := ⟨(qe + F.fracW + F.bias).toNat, by omega⟩
  have hqe : (e : Int) - F.bias - F.fracW = qe := by omega
  rw [F.encode_normal neg (by omega) he, ← hqe]
  refine FFmt.reads_pack_normal neg (by omega) (by omega) (by omega) (FFmt.finiteFields_of_lt hw (by omega) fun h4 htop4 => ?_)
  have hT : F.topExp = 2 ^ F.expW - 1 := if_neg (by rw [h4]; nofun)
  rw [F.maxParts_eq hw, if_pos h4, show (F.topExp : Int) - F.bias - F.fracW = qe by omega, mul_le_mul_iff_left₀ (by positivity), Nat.cast_le] at hm
  omega

/-- The encoded multiple of a unit reads as that magnitude, where the format holds it. -/
theorem FFmt.reads_encode (hF : 1 ≤ F.fracW) (hk : k ≤ 2 ^ (F.fracW + 1)) (hs : k < 2 ^ F.fracW → qe = F.emin - F.fracW) :
    F.Reads neg (k * 2 ^ qe) (F.encode neg k qe) := by
  obtain hlt | hge := Nat.lt_or_ge k (2 ^ F.fracW)
  · rw [F.encode_subnormal neg hlt, hs hlt]
    exact FFmt.reads_pack_subnormal neg hw hlt
  · obtain hlt | hk := Nat.lt_or_eq_of_le hk
    · exact FFmt.reads_encode_normal neg hw hq hm hge hlt
    · exact FFmt.reads_encode_carry neg hw hq hm hF hk

end

/-! ### Rounding into a format (R68, R70, R72) -/

section
variable (F : FFmt) (m : RMode) (sat fz : Bool) (s : Nat) (neg : Bool) {n d : Nat}

/-- The multiple of the unit in the last place that a magnitude rounds to. -/
def FFmt.units (n d : Nat) : Nat := (roundAt m neg n d (F.unitExp ((n : ℚ) / d)) s).1

/-- The magnitude that rounding gives: rnd of R68. -/
def FFmt.rounded (n d : Nat) : ℚ := F.units m s neg n d * 2 ^ F.unitExp ((n : ℚ) / d)

/-- The largest finite magnitude. -/
def FFmt.largest : ℚ := F.maxParts.1 * 2 ^ F.maxParts.2

/-- Rounding discards a part of the magnitude. -/
def FFmt.Inexact (v : ℚ) : Prop := fracPart (F.scaled v) ≠ 0

theorem FFmt.unitExp_eq (hn : 0 < n) (hd : 0 < d) : max (floorLog2 n d) F.emin - F.fracW = F.unitExp ((n : ℚ) / d) := by
  rw [floorLog2_eq hn hd, FFmt.unitExp]

theorem FFmt.beyond_iff (k : Nat) (e : Int) :
    (scalePow F.maxParts.1 F.maxParts.2).1 * (scalePow k e).2 < (scalePow k e).1 * (scalePow F.maxParts.1 F.maxParts.2).2 ↔
      F.largest < k * 2 ^ e := by
  rw [cross_lt_iff (scalePow_snd_pos _ _) (scalePow_snd_pos _ _), scalePow_div, scalePow_div, FFmt.largest]

theorem FFmt.tiny_scalePow (k : Nat) (e : Int) : F.tiny (scalePow k e).1 (scalePow k e).2 = true ↔ (k : ℚ) * 2 ^ e < 2 ^ F.emin := by
  rw [F.tiny_iff _ (scalePow_snd_pos _ _), scalePow_div]

theorem FFmt.rounded_eq_zero : F.rounded m s neg n d = 0 ↔ F.units m s neg n d = 0 := by
  rw [FFmt.rounded, mul_eq_zero, or_iff_left (zpow_ne_zero _ two_ne_zero), Nat.cast_eq_zero]

theorem FFmt.round_overflow (hn : 0 < n) (hd : 0 < d) (h : F.largest < F.rounded m s neg n d) :
    F.round m sat fz s neg n d = F.overflow m sat neg := by
  unfold FFmt.round
  rw [F.unitExp_eq hn hd]
  exact if_pos ((F.beyond_iff _ _).mpr h)

theorem FFmt.round_flush (hn : 0 < n) (hd : 0 < d) (h : F.rounded m s neg n d ≤ F.largest) (hf : F.flush = true)
    (hl : F.rounded m s neg n d < 2 ^ F.emin) (hz : F.rounded m s neg n d ≠ 0) :
    F.round m sat true s neg n d = (F.zeroCode neg, flagUF ||| flagNX) := by
  have hk : (F.units m s neg n d != 0) = true := bne_iff_ne.mpr (mt (F.rounded_eq_zero m s neg).mpr hz)
  unfold FFmt.round
  rw [F.unitExp_eq hn hd]
  refine (if_neg (mt (F.beyond_iff _ _).mp (not_lt.mpr h))).trans (if_pos ?_)
  simp only [Bool.and_eq_true, true_and]
  exact ⟨⟨hf, (F.tiny_scalePow _ _).mpr hl⟩, hk⟩

/-- A magnitude within the format that FZ leaves alone gets its code, with NX where it is inexact and UF where it is also below the smallest normal. -/
theorem FFmt.round_code (hn : 0 < n) (hd : 0 < d) (h : F.rounded m s neg n d ≤ F.largest)
    (hnf : fz = false ∨ F.flush = false ∨ ¬ F.rounded m s neg n d < 2 ^ F.emin ∨ F.rounded m s neg n d = 0) :
    (F.round m sat fz s neg n d).1 = F.encode neg (F.units m s neg n d) (F.unitExp ((n : ℚ) / d)) ∧
    (¬ F.Inexact ((n : ℚ) / d) → (F.round m sat fz s neg n d).2 = 0) ∧
    (F.Inexact ((n : ℚ) / d) → F.rounded m s neg n d < 2 ^ F.emin → (F.round m sat fz s neg n d).2 = flagNX ||| flagUF) ∧
    (F.Inexact ((n : ℚ) / d) → ¬ F.rounded m s neg n d < 2 ^ F.emin → (F.round m sat fz s neg n d).2 = flagNX) := by
  have hx := roundAt_snd m neg n (F.unitExp ((n : ℚ) / d)) s hd
  have hl := F.tiny_scalePow (F.units m s neg n d) (F.unitExp ((n : ℚ) / d))
  have hr : F.round m sat fz s neg n d = (F.encode neg (F.units m s neg n d) (F.unitExp ((n : ℚ) / d)),
      flagIf (roundAt m neg n d (F.unitExp ((n : ℚ) / d)) s).2 flagNX |||
        flagIf ((roundAt m neg n d (F.unitExp ((n : ℚ) / d)) s).2 && F.tiny (scalePow (F.units m s neg n d) (F.unitExp ((n : ℚ) / d))).1
          (scalePow (F.units m s neg n d) (F.unitExp ((n : ℚ) / d))).2) flagUF) := by
    unfold FFmt.round
    rw [F.unitExp_eq hn hd]
    refine (if_neg (mt (F.beyond_iff _ _).mp (not_lt.mpr h))).trans (if_neg fun hc => ?_)
    simp only [Bool.and_eq_true, bne_iff_ne] at hc
    obtain ⟨⟨⟨h1, h2⟩, h3⟩, h4⟩ := hc
    obtain h' | h' | h' | h' := hnf
    · exact absurd (h'.symm.trans h1) nofun
    · exact absurd (h'.symm.trans h2) nofun
    · exact h' (hl.mp h3)
    · exact h4 ((F.rounded_eq_zero m s neg).mp h')
  rw [hr]
  refine ⟨rfl, fun hi => ?_, fun hi hlow => ?_, fun hi hlow => ?_⟩
  · simp [flagIf, Bool.eq_false_iff.mpr (mt hx.mp hi)]
  · rw [hx.mpr hi, hl.mpr hlow]; rfl
  · rw [hx.mpr hi, Bool.eq_false_iff.mpr (mt hl.mp hlow)]; rfl

theorem FFmt.scaled_nonneg (n d : Nat) : 0 ≤ F.scaled ((n : ℚ) / d) := by unfold FFmt.scaled; positivity

theorem FFmt.scaled_lt (v : ℚ) : F.scaled v < ((2 ^ (F.fracW + 1) : Nat) : ℚ) := by
  have h : Int.log 2 v + 1 ≤ F.fracW + 1 + F.unitExp v := by simp only [FFmt.unitExp]; omega
  rw [FFmt.scaled, div_lt_iff₀ (by positivity)]
  calc v < 2 ^ (Int.log 2 v + 1) := Int.lt_zpow_succ_log_self one_lt_two v
    _ ≤ 2 ^ ((F.fracW : Int) + 1 + F.unitExp v) := zpow_le_zpow_right₀ one_le_two h
    _ = ((2 ^ (F.fracW + 1) : Nat) : ℚ) * 2 ^ F.unitExp v := by rw [zpow_add₀ two_ne_zero]; norm_cast

theorem FFmt.le_scaled {v : ℚ} (hv : 0 < v) (h : F.unitExp v ≠ F.emin - F.fracW) : ((2 ^ F.fracW : Nat) : ℚ) ≤ F.scaled v := by
  have he : (F.fracW : Int) + F.unitExp v = Int.log 2 v := by simp only [FFmt.unitExp] at h ⊢; omega
  rw [FFmt.scaled, le_div_iff₀ (by positivity)]
  calc ((2 ^ F.fracW : Nat) : ℚ) * 2 ^ F.unitExp v = 2 ^ ((F.fracW : Int) + F.unitExp v) := by rw [zpow_add₀ two_ne_zero]; norm_cast
    _ ≤ v := by rw [he]; exact Int.zpow_log_le_self one_lt_two hv

theorem FFmt.units_le (hd : 0 < d) : F.units m s neg n d ≤ 2 ^ (F.fracW + 1) := by
  have h1 := (roundAt_fst_bounds m neg n (F.unitExp ((n : ℚ) / d)) s hd).2
  have h2 := (Nat.floor_lt (F.scaled_nonneg n d)).mpr (F.scaled_lt ((n : ℚ) / d))
  unfold FFmt.scaled at h2
  unfold FFmt.units
  omega

theorem FFmt.unitExp_of_units_lt (hn : 0 < n) (hd : 0 < d) (h : F.units m s neg n d < 2 ^ F.fracW) : F.unitExp ((n : ℚ) / d) = F.emin - F.fracW := by
  by_contra hne
  have h1 := (roundAt_fst_bounds m neg n (F.unitExp ((n : ℚ) / d)) s hd).1
  have h2 := Nat.le_floor (F.le_scaled (by positivity) hne)
  unfold FFmt.scaled at h2
  unfold FFmt.units at h
  omega

/-- The code of a magnitude that is rounded within the format reads as the rounded magnitude. -/
theorem FFmt.reads_rounded (hw : 1 ≤ F.expW) (hF : 1 ≤ F.fracW) (hn : 0 < n) (hd : 0 < d) (h : F.rounded m s neg n d ≤ F.largest) :
    F.Reads neg (F.rounded m s neg n d) (F.encode neg (F.units m s neg n d) (F.unitExp ((n : ℚ) / d))) :=
  FFmt.reads_encode neg hw (by simp only [FFmt.unitExp]; omega) h hF (F.units_le m s neg hd) (F.unitExp_of_units_lt m s neg hn hd)

/-- The rounded magnitude is the next multiple of the unit where the mode rounds away from zero, and else the multiple below. -/
theorem FFmt.rounded_eq (hd : 0 < d) {z : ℚ}
    (hu : m.RoundsAway neg s (F.scaled ((n : ℚ) / d)) → z = (⌊F.scaled ((n : ℚ) / d)⌋₊ + 1) * 2 ^ F.unitExp ((n : ℚ) / d))
    (hn : ¬ m.RoundsAway neg s (F.scaled ((n : ℚ) / d)) → z = ⌊F.scaled ((n : ℚ) / d)⌋₊ * 2 ^ F.unitExp ((n : ℚ) / d)) :
    z = F.rounded m s neg n d := by
  by_cases h : m.RoundsAway neg s (F.scaled ((n : ℚ) / d))
  · rw [hu h, FFmt.rounded, FFmt.units, roundAt_fst_up m neg n _ s hd h, Nat.cast_add_one, FFmt.scaled]
  · rw [hn h, FFmt.rounded, FFmt.units, roundAt_fst_down m neg n _ s hd h, FFmt.scaled]

end

theorem floatFmt_widths {tag : BitVec 4} {F : FFmt} (h : floatFmt tag = some F) : 1 ≤ F.expW ∧ 1 ≤ F.fracW := by
  have hall : ∀ t : BitVec 4, ∀ G ∈ floatFmt t, 1 ≤ G.expW ∧ 1 ≤ G.fracW := by decide
  exact hall tag F h

end Sys2Proof.Machine
end

section
/-! PROOF. The exact values of codes, the results that are rounded once, NaNs and invalid operations (R60, R68, R99, R100). -/

namespace Sys2Proof.Machine

open Sys2Proof

/-! ### The exact values of codes -/

/-- The exact rational of a finite value. -/
def Val.rat : Val → ℚ
  | .fin neg n d => if neg = true then -((n : ℚ) / d) else (n : ℚ) / d
  | _ => 0

/-- Neither a NaN nor an infinity. -/
def Val.Finite (v : Val) : Prop := v.isNan = false ∧ v ≠ .inf false ∧ v ≠ .inf true

/-- A finite nonzero value is a fraction of positive numbers. -/
def Val.Proper : Val → Prop
  | .fin _ n d => 0 < n ∧ 0 < d
  | _ => True

/-- An exact number: a finite value in proper form. -/
def Val.Exact (v : Val) : Prop := v.Finite ∧ v.Proper

theorem Val.Exact.zero (b : Bool) : (Val.zero b).Exact := ⟨⟨rfl, nofun, nofun⟩, trivial⟩

theorem Val.Exact.fin (b : Bool) {n d : Nat} (hn : 0 < n) (hd : 0 < d) : (Val.fin b n d).Exact := ⟨⟨rfl, nofun, nofun⟩, hn, hd⟩

/-- An exact number is a zero or a proper fraction. -/
theorem Val.Exact.cases {v : Val} (h : v.Exact) : (∃ b, v = .zero b) ∨ ∃ b n d, v = .fin b n d ∧ 0 < n ∧ 0 < d := by
  obtain ⟨⟨hn, hf, ht⟩, hp⟩ := h
  cases v with
  | nan s => cases hn
  | inf b => cases b <;> contradiction
  | zero b => exact .inl ⟨b, rfl⟩
  | fin b n d => exact .inr ⟨b, n, d, rfl, hp⟩

theorem FFmt.decode_proper (F : FFmt) (c : Nat) : (F.decode c).Proper := by
  simp only [FFmt.decode]
  split
  · split <;> trivial
  · split
    · trivial
    · split
      · split
        · trivial
        next hf => exact ⟨scalePow_fst_pos (Nat.pos_of_ne_zero hf) _, scalePow_snd_pos _ _⟩
      · exact ⟨scalePow_fst_pos (Nat.add_pos_left (Nat.two_pow_pos _) _) _, scalePow_snd_pos _ _⟩

@[simp] theorem FFmt.flushIn_false (F : FFmt) (v : Val) : F.flushIn false v = v := by cases v <;> rfl

@[simp] theorem FFmt.isNan_flushIn (F : FFmt) (fz : Bool) (v : Val) : (F.flushIn fz v).isNan = v.isNan := by
  cases v with
  | fin b n d => simp only [FFmt.flushIn]; split <;> rfl
  | _ => rfl

@[simp] theorem FFmt.isSnan_flushIn (F : FFmt) (fz : Bool) (v : Val) : (F.flushIn fz v).isSnan = v.isSnan := by
  cases v with
  | fin b n d => simp only [FFmt.flushIn]; split <;> rfl
  | _ => rfl

theorem Val.Exact.flushIn {v : Val} (h : v.Exact) (F : FFmt) (fz : Bool) : (F.flushIn fz v).Exact := by
  obtain ⟨b, rfl⟩ | ⟨b, n, d, rfl, hn, hd⟩ := h.cases
  · exact h
  · simp only [FFmt.flushIn]
    split
    · exact .zero b
    · exact h

@[simp] theorem Val.isNan_negate (v : Val) : v.negate.isNan = v.isNan := by cases v <;> rfl

@[simp] theorem Val.rat_negate (v : Val) : v.negate.rat = -v.rat := by
  cases v with
  | fin b n d => cases b <;> simp [Val.negate, Val.rat]
  | _ => simp [Val.negate, Val.rat]

theorem Val.Exact.negate {v : Val} (h : v.Exact) : v.negate.Exact := by
  obtain ⟨b, rfl⟩ | ⟨b, n, d, rfl, hn, hd⟩ := h.cases
  · exact .zero _
  · exact .fin _ hn hd

theorem Val.isSnan_of_isNan_false {v : Val} (h : v.isNan = false) : v.isSnan = false := by
  cases v with
  | nan s => cases h
  | _ => rfl

theorem Val.Exact.isSnan {v : Val} (h : v.Exact) : v.isSnan = false := Val.isSnan_of_isNan_false h.1.1

theorem snanFlag_of_exact {vs : List Val} (h : ∀ v ∈ vs, v.Exact) : snanFlag vs = 0 := by
  have : vs.any Val.isSnan = false := List.any_eq_false.mpr fun v hv => by simp [(h v hv).isSnan]
  rw [snanFlag, this]; rfl

theorem Val.rat_fin_ne_zero (b : Bool) {n d : Nat} (hn : 0 < n) (hd : 0 < d) : (Val.fin b n d).rat ≠ 0 := by
  have : (0 : ℚ) < (n : ℚ) / d := by positivity
  cases b <;> simp [Val.rat, hn.ne', hd.ne']

theorem Val.abs_rat_fin (b : Bool) (n d : Nat) : |(Val.fin b n d).rat| = (n : ℚ) / d := by
  have : (0 : ℚ) ≤ (n : ℚ) / d := by positivity
  cases b <;> simp [Val.rat, abs_of_nonneg this]

theorem Val.rat_fin_neg_iff (b : Bool) {n d : Nat} (hn : 0 < n) (hd : 0 < d) : (Val.fin b n d).rat < 0 ↔ b = true := by
  have : (0 : ℚ) < (n : ℚ) / d := by positivity
  cases b <;> simp [Val.rat, this, this.le]

/-! ### Exact results, rounded once (R68, R99, R100) -/

/-- A result is the rounded code of an exact nonzero number. -/
def FFmt.RoundsTo (F : FFmt) (md : RMode) (v : ℚ) (r : Nat × Flags) : Prop :=
  v ≠ 0 → ∃ n d : Nat, 0 < n ∧ 0 < d ∧ (n : ℚ) / d = |v| ∧ r = F.round md false false 0 (decide (v < 0)) n d

theorem FFmt.roundsTo_fin (F : FFmt) (md : RMode) (b : Bool) {n d : Nat} (hn : 0 < n) (hd : 0 < d) :
    F.RoundsTo md (Val.fin b n d).rat (F.round md false false 0 b n d) := fun _ =>
  ⟨n, d, hn, hd, (Val.abs_rat_fin b n d).symm,
    congrArg (F.round md false false 0 · n d) (Bool.eq_iff_iff.mpr (by rw [decide_eq_true_iff, Val.rat_fin_neg_iff b hn hd]))⟩

theorem FFmt.roundsTo_result (F : FFmt) (md : RMode) {v : Val} (h : v.Exact) : F.RoundsTo md v.rat (F.result md false v) := by
  obtain ⟨b, rfl⟩ | ⟨b, n, d, rfl, hn, hd⟩ := h.cases
  · exact fun h0 => absurd rfl h0
  · exact F.roundsTo_fin md b hn hd

theorem Val.ratio_snd_pos {v : Val} (h : v.Exact) : 0 < v.ratio.2 := by
  obtain ⟨b, rfl⟩ | ⟨b, n, d, rfl, -, hd⟩ := h.cases
  · exact Nat.one_pos
  · exact hd

theorem Val.ratio_div (v : Val) : (v.ratio.1 : ℚ) / v.ratio.2 = v.rat := by
  cases v with
  | fin b n d => cases b <;> simp [Val.ratio, Val.rat, neg_div]
  | _ => simp [Val.ratio, Val.rat]

/-- The exact sum of some numbers is the sum of their rationals. -/
theorem sumExact_spec {vs : List Val} (h : ∀ v ∈ vs, v.Exact) :
    0 < (sumExact vs).2 ∧ ((sumExact vs).1 : ℚ) / (sumExact vs).2 = (vs.map Val.rat).sum := by
  induction vs with
  | nil => simp [sumExact]
  | cons v vs ih =>
    obtain ⟨hp, hs⟩ := ih fun u hu => h u (List.mem_cons_of_mem _ hu)
    have hv := Val.ratio_snd_pos (h v List.mem_cons_self)
    have hp0 : ((sumExact vs).2 : ℚ) ≠ 0 := by exact_mod_cast hp.ne'
    have hv0 : (v.ratio.2 : ℚ) ≠ 0 := by exact_mod_cast hv.ne'
    rw [List.map_cons, List.sum_cons, ← hs, ← Val.ratio_div v]
    simp only [sumExact]
    split
    case isTrue he => exact ⟨hv, by rw [← he, ← add_div]; push_cast; rfl⟩
    case isFalse => exact ⟨Nat.mul_pos hv hp, by rw [div_add_div _ _ hv0 hp0]; push_cast; ring⟩

theorem sumVals_of_exact (md : RMode) {vs : List Val} (h : ∀ v ∈ vs, v.Exact) (h0 : (sumExact vs).1 ≠ 0) :
    sumVals md vs = (.fin ((sumExact vs).1 < 0) (sumExact vs).1.natAbs (sumExact vs).2, false) := by
  have h1 : vs.any Val.isNan = false := List.any_eq_false.mpr fun v hv => by simp [(h v hv).1.1]
  have h2 (b : Bool) : (vs.any fun t => t = .inf b) = false := List.any_eq_false.mpr fun v hv => by
    cases b <;> simp [(h v hv).1.2.1, (h v hv).1.2.2]
  simp [sumVals, h1, h2, h0]

theorem FFmt.roundsTo_sum (F : FFmt) (md : RMode) {vs : List Val} (h : ∀ v ∈ vs, v.Exact) :
    F.RoundsTo md (vs.map Val.rat).sum (F.sum md false vs 0) := by
  intro hne
  obtain ⟨hp, hs⟩ := sumExact_spec h
  have hp0 : (0 : ℚ) < (sumExact vs).2 := by exact_mod_cast hp
  have h0 : (sumExact vs).1 ≠ 0 := fun h0 => hne (by rw [← hs, h0]; simp)
  have hneg : (sumExact vs).1 < 0 ↔ (vs.map Val.rat).sum < 0 := by rw [← hs, div_lt_iff₀ hp0, zero_mul, Int.cast_lt_zero]
  refine ⟨(sumExact vs).1.natAbs, (sumExact vs).2, Int.natAbs_pos.mpr h0, hp, ?_, ?_⟩
  · rw [← hs, abs_div, Nat.cast_natAbs, Int.cast_abs, Nat.abs_cast]
  · simp [FFmt.sum, sumVals_of_exact md h h0, FFmt.result, flagIf, hneg]

theorem Val.mul_exact {x y : Val} (hx : x.Exact) (hy : y.Exact) : (x.mul y).2 = false ∧ (x.mul y).1.Exact ∧ (x.mul y).1.rat = x.rat * y.rat := by
  obtain ⟨b, rfl⟩ | ⟨b, n, d, rfl, hn, hd⟩ := hx.cases
  · obtain ⟨c, rfl⟩ | ⟨c, k, e, rfl, hk, he⟩ := hy.cases
    · exact ⟨rfl, .zero _, (zero_mul _).symm⟩
    · exact ⟨rfl, .zero _, (zero_mul _).symm⟩
  · obtain ⟨c, rfl⟩ | ⟨c, k, e, rfl, hk, he⟩ := hy.cases
    · exact ⟨rfl, .zero _, (mul_zero _).symm⟩
    · refine ⟨rfl, .fin _ (Nat.mul_pos hn hk) (Nat.mul_pos hd he), ?_⟩
      have h : (n * k : ℚ) / (d * e) = n / d * (k / e) := (div_mul_div_comm ..).symm
      cases b <;> cases c <;> simp [Val.mul, Val.isNeg, Val.rat, h]

section
variable (F : FFmt) (md : RMode) {a b c : Nat} (hx : (F.decode a).Exact) (hy : (F.decode b).Exact) (hz : (F.decode c).Exact)

include hx hy

theorem FFmt.roundsTo_add : F.RoundsTo md ((F.decode a).rat + (F.decode b).rat) (F.add md false a b) := by
  have h : ∀ v ∈ [F.decode a, F.decode b], v.Exact := by simp [hx, hy]
  simpa [FFmt.add, snanFlag_of_exact h] using F.roundsTo_sum md h

theorem FFmt.roundsTo_sub : F.RoundsTo md ((F.decode a).rat - (F.decode b).rat) (F.sub md false a b) := by
  have h : ∀ v ∈ [F.decode a, F.decode b], v.Exact := by simp [hx, hy]
  have h' : ∀ v ∈ [F.decode a, (F.decode b).negate], v.Exact := by simp [hx, hy.negate]
  simpa [FFmt.sub, snanFlag_of_exact h, sub_eq_add_neg] using F.roundsTo_sum md h'

theorem FFmt.roundsTo_mul : F.RoundsTo md ((F.decode a).rat * (F.decode b).rat) (F.mul md false a b) := by
  have h : ∀ v ∈ [F.decode a, F.decode b], v.Exact := by simp [hx, hy]
  obtain ⟨h1, h2, h3⟩ := Val.mul_exact hx hy
  simpa [FFmt.mul, snanFlag_of_exact h, h1, h3, flagIf] using F.roundsTo_result md h2

theorem FFmt.roundsTo_div (hne : (F.decode b).rat ≠ 0) : F.RoundsTo md ((F.decode a).rat / (F.decode b).rat) (F.div md false a b) := by
  obtain ⟨v, hb⟩ | ⟨v, k, e, hb, hk, he⟩ := hy.cases
  · exact absurd (by rw [hb]; rfl) hne
  obtain ⟨u, ha⟩ | ⟨u, n, d, ha, hn, hd⟩ := hx.cases
  · exact fun h0 => absurd (by rw [ha]; exact zero_div _) h0
  have h : (n * e : ℚ) / (d * k) = n / d / (k / e) := (div_div_div_eq ..).symm
  have hr : (F.decode a).rat / (F.decode b).rat = (Val.fin (u != v) (n * e) (d * k)).rat := by
    rw [ha, hb]
    cases u <;> cases v <;> simp [Val.rat, h, neg_div, div_neg]
  rw [hr]
  simpa [FFmt.div, ha, hb, Val.isNeg] using F.roundsTo_fin md (u != v) (Nat.mul_pos hn he) (Nat.mul_pos hd hk)

include hz

/-- A fused product is rounded once with its addend. -/
theorem FFmt.roundsTo_fma : F.RoundsTo md ((F.decode a).rat * (F.decode b).rat + (F.decode c).rat) (F.fma md false false false a b c) := by
  have h : ∀ v ∈ [F.decode a, F.decode b, F.decode c], v.Exact := by simp [hx, hy, hz]
  obtain ⟨h1, h2, h3⟩ := Val.mul_exact hx hy
  have hs := F.roundsTo_sum md (vs := [((F.decode a).mul (F.decode b)).1, F.decode c]) (by simp [h2, hz])
  simpa [FFmt.fma, snanFlag_of_exact h, h1, h3, flagIf] using hs

theorem FFmt.roundsTo_fnma : F.RoundsTo md ((F.decode c).rat - (F.decode a).rat * (F.decode b).rat) (F.fma md false true false a b c) := by
  have h : ∀ v ∈ [F.decode a, F.decode b, F.decode c], v.Exact := by simp [hx, hy, hz]
  obtain ⟨h1, h2, h3⟩ := Val.mul_exact hx hy
  have hs := F.roundsTo_sum md (vs := [((F.decode a).mul (F.decode b)).1.negate, F.decode c]) (by simp [h2.negate, hz])
  simpa [FFmt.fma, snanFlag_of_exact h, h1, h3, flagIf, neg_add_eq_sub] using hs

end

/-! ### NaNs and invalid operations (R60, R100) -/

/-- A result is the canonical NaN, with NV where an operand is signalling. -/
def FFmt.NanOf (F : FFmt) (vs : List Val) (r : Nat × Flags) : Prop := r = (F.nanCode, if vs.any Val.isSnan = true then flagNV else 0)

/-- A result is that of an invalid operation. -/
def FFmt.InvalidOp (F : FFmt) (r : Nat × Flags) : Prop := r = (F.nanCode, flagNV)

theorem FFmt.nanOf_snanFlag (F : FFmt) (vs : List Val) : F.NanOf vs (F.nanCode, snanFlag vs) := rfl

theorem snanFlag_flushIn (F : FFmt) (fz : Bool) (vs : List Val) : snanFlag (vs.map (F.flushIn fz)) = snanFlag vs := by
  rw [snanFlag, snanFlag, List.any_map, show Val.isSnan ∘ F.flushIn fz = Val.isSnan from funext fun v => F.isSnan_flushIn fz v]

theorem FFmt.sum_of_nan (F : FFmt) (md : RMode) (fz : Bool) {vs : List Val} (extra : Flags) (h : vs.any Val.isNan = true) :
    F.sum md fz vs extra = (F.nanCode, extra) := by
  simp [FFmt.sum, sumVals, h, FFmt.result, flagIf]

theorem Val.mul_of_nan {x y : Val} (h : x.isNan = true ∨ y.isNan = true) : x.mul y = (.nan false, false) := by
  cases x with
  | nan s => rfl
  | _ =>
    cases y with
    | nan s => rfl
    | _ => exact absurd h (by simp [Val.isNan])

section
variable (F : FFmt) (md : RMode) (fz : Bool) {a b : Nat}

theorem FFmt.sqrt_of_nan (h : (F.decode a).isNan = true) : F.NanOf [F.decode a] (F.sqrt md fz a) := by
  obtain ⟨s, ha⟩ : ∃ s, F.decode a = .nan s := by
    generalize F.decode a = v at h
    cases v with
    | nan s => exact ⟨s, rfl⟩
    | _ => cases h
  simp [FFmt.NanOf, FFmt.sqrt, ha, FFmt.flushIn, flagIf, Val.isSnan]

variable (h : (F.decode a).isNan = true ∨ (F.decode b).isNan = true)
include h

theorem FFmt.add_of_nan : F.NanOf [F.decode a, F.decode b] (F.add md fz a b) := by
  rw [FFmt.add, F.sum_of_nan md fz _ (by simpa using h)]
  exact congrArg _ (snanFlag_flushIn F fz [F.decode a, F.decode b])

theorem FFmt.sub_of_nan : F.NanOf [F.decode a, F.decode b] (F.sub md fz a b) := by
  rw [FFmt.sub, F.sum_of_nan md fz _ (by simpa using h)]
  exact congrArg _ (snanFlag_flushIn F fz [F.decode a, F.decode b])

theorem FFmt.mul_of_nan : F.NanOf [F.decode a, F.decode b] (F.mul md fz a b) := by
  have hn : (F.flushIn fz (F.decode a)).isNan = true ∨ (F.flushIn fz (F.decode b)).isNan = true := by simpa using h
  simp [FFmt.NanOf, FFmt.mul, Val.mul_of_nan hn, FFmt.result, snanFlag, flagIf]

theorem FFmt.div_of_nan : F.NanOf [F.decode a, F.decode b] (F.div md fz a b) := by
  have hs : snanFlag [F.flushIn fz (F.decode a), F.flushIn fz (F.decode b)] = snanFlag [F.decode a, F.decode b] :=
    snanFlag_flushIn F fz [F.decode a, F.decode b]
  have hn : (F.flushIn fz (F.decode a)).isNan = true ∨ (F.flushIn fz (F.decode b)).isNan = true := by simpa using h
  have hr : F.div md fz a b = (F.nanCode, snanFlag [F.flushIn fz (F.decode a), F.flushIn fz (F.decode b)]) := by
    unfold FFmt.div
    generalize F.flushIn fz (F.decode a) = x at hn
    generalize F.flushIn fz (F.decode b) = y at hn
    cases x with
    | nan s => rfl
    | _ =>
      cases y with
      | nan s => rfl
      | _ => exact absurd hn (by simp [Val.isNan])
  rw [hr, hs]
  exact F.nanOf_snanFlag _

end

theorem FFmt.fma_of_nan_addend (F : FFmt) (md : RMode) (fz : Bool) {a b c : Nat} (hx : (F.decode a).Exact) (hy : (F.decode b).Exact)
    (h : (F.decode c).isNan = true) : F.NanOf [F.decode c] (F.fma md fz false false a b c) := by
  obtain ⟨h1, -, -⟩ := Val.mul_exact (hx.flushIn F fz) (hy.flushIn F fz)
  rw [FFmt.fma, F.sum_of_nan md fz _ (by simp [h])]
  simp [FFmt.NanOf, h1, flagIf, snanFlag, hx.isSnan, hy.isSnan]

section
variable (F : FFmt) (md : RMode) {a b : Nat}

theorem FFmt.add_of_unlike_infs {u v : Bool} (ha : F.decode a = .inf u) (hb : F.decode b = .inf v) (h : u ≠ v) :
    F.InvalidOp (F.add md false a b) := by
  obtain rfl := Bool.eq_not.mpr h
  cases v <;> simp [FFmt.InvalidOp, FFmt.add, FFmt.sum, sumVals, ha, hb, FFmt.result, snanFlag, flagIf, Val.isNan, Val.isSnan]

theorem FFmt.sub_of_like_infs {u : Bool} (ha : F.decode a = .inf u) (hb : F.decode b = .inf u) : F.InvalidOp (F.sub md false a b) := by
  cases u <;> simp [FFmt.InvalidOp, FFmt.sub, FFmt.sum, sumVals, ha, hb, FFmt.result, snanFlag, flagIf, Val.isNan, Val.isSnan, Val.negate]

theorem FFmt.div_of_infs {u v : Bool} (ha : F.decode a = .inf u) (hb : F.decode b = .inf v) : F.InvalidOp (F.div md false a b) := by
  simp [FFmt.InvalidOp, FFmt.div, ha, hb]

theorem FFmt.sqrt_of_neg_inf (ha : F.decode a = .inf true) : F.InvalidOp (F.sqrt md false a) := by
  simp [FFmt.InvalidOp, FFmt.sqrt, ha]

/-- An exact number of value zero is a zero. -/
theorem Val.Exact.eq_zero {v : Val} (h : v.Exact) (h0 : v.rat = 0) : ∃ b, v = .zero b := by
  obtain h | ⟨b, n, d, rfl, hn, hd⟩ := h.cases
  · exact h
  · exact absurd h0 (Val.rat_fin_ne_zero b hn hd)

/-- An exact number of another value is a fraction. -/
theorem Val.Exact.eq_fin {v : Val} (h : v.Exact) (h0 : v.rat ≠ 0) : ∃ b n d, v = .fin b n d ∧ 0 < n ∧ 0 < d := by
  obtain ⟨b, rfl⟩ | h := h.cases
  · exact absurd rfl h0
  · exact h

theorem FFmt.mul_of_inf_zero {u : Bool} (ha : F.decode a = .inf u) (hy : (F.decode b).Exact) (h0 : (F.decode b).rat = 0) :
    F.InvalidOp (F.mul md false a b) := by
  obtain ⟨v, hb⟩ := hy.eq_zero h0
  simp [FFmt.InvalidOp, FFmt.mul, ha, hb, Val.mul, FFmt.result, snanFlag, flagIf, Val.isSnan]

theorem FFmt.div_by_zero (hx : (F.decode a).Exact) (hy : (F.decode b).Exact) (h0 : (F.decode b).rat = 0) (hne : (F.decode a).rat ≠ 0) :
    F.div md false a b = (F.infCode ((F.decode a).isNeg != (F.decode b).isNeg), flagDZ) := by
  obtain ⟨v, hb⟩ := hy.eq_zero h0
  obtain ⟨u, n, d, ha, -, -⟩ := hx.eq_fin hne
  simp [FFmt.div, ha, hb]

theorem FFmt.div_zero_by_zero (hx : (F.decode a).Exact) (hy : (F.decode b).Exact) (h0 : (F.decode b).rat = 0) (h0' : (F.decode a).rat = 0) :
    F.InvalidOp (F.div md false a b) := by
  obtain ⟨v, hb⟩ := hy.eq_zero h0
  obtain ⟨u, ha⟩ := hx.eq_zero h0'
  simp [FFmt.InvalidOp, FFmt.div, ha, hb]

theorem FFmt.sqrt_of_neg (hx : (F.decode a).Exact) (h : (F.decode a).rat < 0) : F.InvalidOp (F.sqrt md false a) := by
  obtain ⟨u, n, d, ha, hn, hd⟩ := hx.eq_fin h.ne
  rw [ha, Val.rat_fin_neg_iff u hn hd] at h
  simp [FFmt.InvalidOp, FFmt.sqrt, ha, h]

end

end Sys2Proof.Machine
end

section
/-! PROOF. Scalar floating-point instructions (R68, R70 to R72, R77, R99 to R101). -/

namespace Sys2Proof.Machine

open Sys2Proof

/-! ### The scalar instructions (R70, R71, R77, R99 to R101) -/

section
variable {st : State} {i : StrandId}

/-- A scalar float instruction with its registers settled writes what its arithmetic gives in the modes of `fcsr`. -/
theorem fpu_completes {d : BitVec 5} {reads : List (BitVec 5)} (F : FFmt) (f : RMode → Bool → Strand → Nat × Flags) (hi : MayIssue st i)
    (hx : Settled st i (d :: reads)) :
    fpu F d reads st f = .next (afterF st i F d (f (frmOf (st.strand i).fcsr) (fzOf (st.strand i).fcsr) (st.strand i))) :=
  issue_ok hi.1 hi.2 (if_neg (by simp [hx]))

theorem fcompare_completes {d s t : BitVec 5} (F : FFmt) (n : Nat) (hi : MayIssue st i) (hx : Settled st i [d, s, t]) :
    fcompare F n d s t st = .next ((advance i one st).modStrand i fun u =>
      (u.setX d (boolWord (F.compare n (fzOf (st.strand i).fcsr) (F.code (st.strand i) s) (F.code (st.strand i) t)).1)).raise
        (F.compare n (fzOf (st.strand i).fcsr) (F.code (st.strand i) s) (F.code (st.strand i) t)).2) :=
  issue_ok hi.1 hi.2 (if_neg (by simp [hx]))

theorem execFcvt_completes {d s : BitVec 5} (a b : BitVec 4) (k : BitVec 5) (hi : MayIssue st i) (hx : Settled st i [d, s]) :
    let c := convert a b (if k = 0 then frmOf (st.strand i).fcsr else RMode.ofCode (k.toNat - 1)) false (fzOf (st.strand i).fcsr) 0
      (((st.strand i).xr s).toNat % 2 ^ codeWidth a)
    execFcvt d s a b k st = .next ((advance i one st).modStrand i fun u => (u.setX d (extendCode b c.1)).raise c.2) :=
  issue_ok hi.1 hi.2 (if_neg (by simp [hx]))

theorem Settled.of_mem {rs rs' : List (BitVec 5)} (h : Settled st i rs) (hs : ∀ r ∈ rs', r ∈ rs) : Settled st i rs' := by
  have := List.any_eq_false.mp h
  exact List.any_eq_false.mpr fun r hr => this r (hs r hr)

end

/-- Settles O4: rounding takes the next multiple of the unit or the one below, and its code reads as that magnitude; each operation rounds the exact
value of its result; each instruction is its format's operation. -/
theorem scalarFloatForms : Obligations.ScalarFloatForms := by
  refine ⟨fun tag F md sat fz neg s n d htag hn hd => ?rounding, fun F md a b c _ => ?arithmetic, fun st i d s t hi hx => ?instructions⟩
  case rounding =>
    intro v q k rest up r z hup hdown
    obtain ⟨hw, hF⟩ := floatFmt_widths htag
    obtain rfl : z = F.rounded md s neg n d := F.rounded_eq md s neg hd hup hdown
    refine ⟨fun h => F.round_overflow md sat fz s neg hn hd h, fun h => ⟨?flush, fun hnf => ?code⟩⟩
    case flush =>
      rintro rfl hfl hl hz
      exact F.round_flush md sat s neg hn hd h hfl hl hz
    case code =>
      obtain ⟨hc, hexact, hlow, hnormal⟩ := F.round_code md sat fz s neg hn hd h hnf
      obtain ⟨hlt, hzero, hfin⟩ := F.reads_rounded md s neg hw hF hn hd h
      rw [← hc] at hlt hzero hfin
      exact ⟨hlt, hzero, hfin, fun hr => hexact (not_not.mpr hr), hlow, hnormal⟩
  case arithmetic =>
    intro x y z rnd rat finite rounded nan invalid
    have hex (v : Nat) (h : finite (F.decode v)) : (F.decode v).Exact := ⟨h, F.decode_proper v⟩
    refine ⟨fun fz => ⟨fun h => ⟨F.add_of_nan md fz h, F.sub_of_nan md fz h, F.mul_of_nan md fz h, F.div_of_nan md fz h⟩, F.sqrt_of_nan md fz,
        fun h hx hy => F.fma_of_nan_addend md fz (hex a hx) (hex b hy) h⟩,
      fun hx hy => ?finite,
      fun u v hu hv => ⟨F.add_of_unlike_infs md hu hv, fun h => F.sub_of_like_infs md hu (h ▸ hv), F.div_of_infs md hu hv⟩,
      fun u hu hy h0 => F.mul_of_inf_zero md hu (hex b hy) h0, F.sqrt_of_neg_inf md⟩
    case finite =>
      have hx := hex a hx
      have hy := hex b hy
      exact ⟨F.roundsTo_add md hx hy, F.roundsTo_sub md hx hy, F.roundsTo_mul md hx hy, F.roundsTo_div md hx hy,
        fun hz => ⟨F.roundsTo_fma md hx hy (hex c hz), F.roundsTo_fnma md hx hy (hex c hz)⟩,
        F.div_by_zero md hx hy, F.div_zero_by_zero md hx hy, F.sqrt_of_neg md hx⟩
  case instructions =>
    have hds : Settled st i [d, s] := Settled.of_mem hx (by simp)
    show
      execFaddS d s t st = _ ∧ execFsubS d s t st = _ ∧ execFmulS d s t st = _ ∧ execFdivS d s t st = _ ∧ execFsqrtS d s st = _ ∧
      execFminS d s t st = _ ∧ execFmaxS d s t st = _ ∧ execFmaS d s t st = _ ∧ execFnmaS d s t st = _ ∧ execFeqS d s t st = _ ∧
      execFltS d s t st = _ ∧ execFleS d s t st = _ ∧ execFclassS d s st = _ ∧ execFaddD d s t st = _ ∧ execFsubD d s t st = _ ∧
      execFmulD d s t st = _ ∧ execFdivD d s t st = _ ∧ execFsqrtD d s st = _ ∧ execFminD d s t st = _ ∧ execFmaxD d s t st = _ ∧
      execFmaD d s t st = _ ∧ execFnmaD d s t st = _ ∧ execFeqD d s t st = _ ∧ execFltD d s t st = _ ∧ execFleD d s t st = _ ∧
      execFclassD d s st = _ ∧ ∀ (a b : BitVec 4) (k : BitVec 5), execFcvt d s a b k st = _
    simp only [execFaddS, execFsubS, execFmulS, execFdivS, execFsqrtS, execFminS, execFmaxS, execFmaS, execFnmaS, execFeqS, execFltS, execFleS,
      execFclassS, execFaddD, execFsubD, execFmulD, execFdivD, execFsqrtD, execFminD, execFmaxD, execFmaD, execFnmaD, execFeqD, execFltD,
      execFleD, execFclassD, fpu_completes _ _ hi hx, fpu_completes _ _ hi hds, fcompare_completes _ _ hi hx, issueX_ok hi.1 hi.2 hds,
      execFcvt_completes _ _ _ hi hds, afterX, implies_true, and_self]

end Sys2Proof.Machine
end

section
/-! PROOF. Integer and address instructions (R96 to R98, R102, R103). -/

namespace Sys2Proof.Machine

open Sys2Proof

/-! ### Instructions that write one register -/

section
variable {st : State} {i : StrandId} {len : Nat} {reads : List (BitVec 5)}

theorem issueX_settled {d : BitVec 5} {f : Strand → Word} (hi : MayIssue st i) (hx : Settled st i (d :: reads)) :
    issueX st len d reads f = .next (afterX st i len d (f (st.strand i))) := issueX_ok hi.1 hi.2 hx

theorem issueA_settled {d : BitVec 4} {f : Strand → Addr} (hi : MayIssue st i) (hx : Settled st i reads) :
    issueA st len d reads f = .next (afterA st i len d (f (st.strand i))) := issueA_ok hi.1 hi.2 hx

theorem alu_settled {d s t : BitVec 5} {f : Word → Word → Word} (hi : MayIssue st i) (hx : Settled st i [d, s, t]) :
    alu d s t st f = .next (afterX st i one d (f (st.xr i s) (st.xr i t))) := issueX_settled hi hx

theorem alu1_settled {d s : BitVec 5} {f : Word → Word} (hi : MayIssue st i) (hx : Settled st i [d, s]) :
    alu1 d s st f = .next (afterX st i one d (f (st.xr i s))) := issueX_settled hi hx

end

/-! ### The words that they write (R96, R98) -/

theorem boolWord_slt (a b : Word) : boolWord (a.slt b) = if a.toInt < b.toInt then 1 else 0 := by
  simp [boolWord, BitVec.slt_eq_decide]

theorem boolWord_ult (a b : Word) : boolWord (a.ult b) = if a.toNat < b.toNat then 1 else 0 := by
  simp [boolWord, BitVec.ult_eq_decide]

theorem ite_slt {α : Type} (a b : Word) (x y : α) : (if a.slt b = true then x else y) = if a.toInt < b.toInt then x else y :=
  if_congr BitVec.slt_iff_toInt_lt rfl rfl

theorem ite_ult {α : Type} (a b : Word) (x y : α) : (if a.ult b = true then x else y) = if a.toNat < b.toNat then x else y :=
  if_congr BitVec.ult_iff_lt rfl rfl

theorem mul_eq_ofNat (a b : Word) : a * b = BitVec.ofNat 64 (a.toNat * b.toNat) := by
  apply BitVec.eq_of_toNat_eq
  simp

/-- The word of LUI: a 19-bit number times two to the power 13. -/
theorem signExtend_append_zero (k : BitVec 19) : (k ++ 0#13).signExtend 64 = BitVec.ofInt 64 (k.toInt * 2 ^ 13) := by
  apply BitVec.eq_of_toInt_eq
  have h : (k ++ 0#13).toNat = k.toNat * 2 ^ 13 := by rw [BitVec.toNat_append, BitVec.toNat_ofNat, Nat.zero_mod, Nat.or_zero, Nat.shiftLeft_eq]
  have hk := k.isLt
  rw [BitVec.toInt_signExtend_of_le (by omega), BitVec.toInt_ofInt, BitVec.toInt_eq_toNat_cond, BitVec.toInt_eq_toNat_cond, h,
    Int.bmod_def]
  split <;> split <;> omega

/-- Settles O1: a register form writes the word of its operation, an immediate form that of its extended immediate. -/
theorem integerForms : Obligations.IntegerForms := by
  refine ⟨fun st i d s t hi hx => ?registers, fun st i d s hi hds => ?immediates⟩
  case registers =>
    have hds : Settled st i [d, s] := Settled.of_mem hx (by simp)
    show execAdd d s t st = _ ∧ execSub d s t st = _ ∧ execAnd d s t st = _ ∧ execOr d s t st = _ ∧ execXor d s t st = _ ∧ execSll d s t st = _ ∧
      execSrl d s t st = _ ∧ execSra d s t st = _ ∧ execSlt d s t st = _ ∧ execSltu d s t st = _ ∧ execMin d s t st = _ ∧ execMax d s t st = _ ∧
      execMinu d s t st = _ ∧ execMaxu d s t st = _ ∧ execMul d s t st = _ ∧ execMulh d s t st = _ ∧ execMulhu d s t st = _ ∧
      execAdd32 d s t st = _ ∧ execSub32 d s t st = _ ∧ execClz d s st = _ ∧ execCtz d s st = _ ∧ execPopc d s st = _ ∧ execSxb d s st = _ ∧
      execSxh d s st = _ ∧ execSxw d s st = _ ∧ execZxw d s st = _
    simp only [execAdd, execSub, execAnd, execOr, execXor, execSll, execSrl, execSra, execSlt, execSltu, execMin, execMax, execMinu, execMaxu,
      execMul, execMulh, execMulhu, execAdd32, execSub32, execClz, execCtz, execPopc, execSxb, execSxh, execSxw, execZxw, alu_settled hi hx,
      alu1_settled hi hds, boolWord_slt, boolWord_ult, ite_slt, ite_ult, ← mul_eq_ofNat, mulHigh, mulHighU, sext64, zext64, and_self]
  case immediates =>
    have hd : Settled st i [d] := Settled.of_mem hds (by simp)
    show (∀ k, execAddi d s k st = _) ∧ (∀ k, execAndi d s k st = _ ∧ execOri d s k st = _ ∧ execXori d s k st = _) ∧
      (∀ k, execAddiImm32 d s k st = _ ∧ execAndiImm32 d s k st = _ ∧ execOriImm32 d s k st = _ ∧ execXoriImm32 d s k st = _ ∧ execLiw d k st = _) ∧
      (∀ k, execSlli d s k st = _ ∧ execSrli d s k st = _ ∧ execSrai d s k st = _) ∧ (∀ k, execLui d k st = _) ∧ ∀ k, execLiq d k st = _
    simp only [execAddi, execAndi, execOri, execXori, execAddiImm32, execAndiImm32, execOriImm32, execXoriImm32, execLiw, execSlli, execSrli, execSrai,
      execLui, execLiq, issueX_settled hi hds, issueX_settled hi hd, sext64, signExtend_append_zero, State.xr, and_self, implies_true]

/-! ### Address arithmetic (R102, R103) -/

/-- The address of AHI: its immediate above the low 64 bits of the old address. -/
theorem append_setWidth_parts (k : BitVec 16) (a : Addr) :
    (k ++ a.setWidth 64).extractLsb' 64 16 = k ∧ (k ++ a.setWidth 64).extractLsb' 0 64 = a.extractLsb' 0 64 := by
  have happ : (k ++ a.setWidth 64).toNat = k.toNat * 2 ^ 64 + a.toNat % 2 ^ 64 := by
    rw [BitVec.toNat_append, ← Nat.shiftLeft_add_eq_or_of_lt (BitVec.isLt _), BitVec.toNat_setWidth, Nat.shiftLeft_eq]
  have hk := k.isLt
  constructor <;> apply BitVec.eq_of_toNat_eq <;> rw [BitVec.extractLsb'_toNat, Nat.shiftRight_eq_div_pow]
  · rw [happ]
    omega
  · rw [happ, BitVec.extractLsb'_toNat, Nat.shiftRight_zero]
    omega

/-- Settles O5. -/
theorem addressArithmetic : Obligations.AddressArithmetic := by
  intro st i d s u x y hi hxy
  have hx : Settled st i [x] := Settled.of_mem hxy (by simp)
  have hy : Settled st i [y] := Settled.of_mem hxy (by simp)
  have h0 : Settled st i [] := rfl
  have hahi (k : BitVec 16) := append_setWidth_parts k ((st.strand i).ar d)
  show execAadd d s x st = _ ∧ execAsub d s x st = _ ∧ execAdiff y s u st = _ ∧ execAmov d s st = _ ∧ execAfromx d x st = _ ∧
    execAtox y s st = _ ∧ (∀ k, execAaddi d s k st = _) ∧ (∀ k, execAaddiImm32 d s k st = _) ∧ ∀ k, ∃ v : Addr, _ ∧ _ ∧ execAhi d k st = _
  simp only [execAadd, execAsub, execAdiff, execAmov, execAfromx, execAtox, execAaddi, execAaddiImm32, execAhi, issueA_settled hi hx,
    issueA_settled hi h0, issueX_settled hi hy, sext80, implies_true, true_and]
  exact fun k => ⟨_, (hahi k).1, (hahi k).2, rfl⟩

/-! ### Counts of bits (R96) -/

/-- How long the first stretch of numbers below a bound that satisfy a test is. -/
theorem length_takeWhile_range {m n : Nat} (hn : n < m) (p : Nat → Bool) :
    ((List.range m).takeWhile p).length = n ↔ p n = false ∧ ∀ k, k < n → p k = true := by
  have h := List.findIdx_eq (p := fun k => !p k) (xs := List.range m) (i := n) (by simpa using hn)
  rw [List.takeWhile_eq_take_findIdx_not, List.length_take, List.length_range, Nat.min_eq_left (List.findIdx_le_length.trans_eq List.length_range)]
  simpa using h

theorem length_takeWhile_range_le (m : Nat) (p : Nat → Bool) : ((List.range m).takeWhile p).length ≤ m := by
  simpa using (List.takeWhile_sublist p (l := List.range m)).length_le

/-- A count of at most 64, as a word. -/
theorem ofNat_length_takeWhile {n : Nat} (hn : n < 64) (p : Nat → Bool) :
    BitVec.ofNat 64 ((List.range 64).takeWhile p).length = BitVec.ofNat 64 n ↔ p n = false ∧ ∀ k, k < n → p k = true := by
  rw [← length_takeWhile_range hn]
  have hle := length_takeWhile_range_le 64 p
  refine ⟨fun h => ?_, congrArg _⟩
  have := congrArg BitVec.toNat h
  simp only [BitVec.toNat_ofNat] at this
  omega

/-- Settles O2: a count is the length of the stretch of zero bits that one end of the word begins with. -/
theorem zeroCountsCountTheBits : Obligations.ZeroCountsCountTheBits := by
  refine ⟨rfl, rfl, fun a n hn => ⟨(ofNat_length_takeWhile hn _).trans ?leading, (ofNat_length_takeWhile hn _).trans ?trailing⟩⟩
  case leading =>
    simp only [Bool.not_eq_false', Bool.not_eq_true']
    refine and_congr_right fun _ => ⟨fun h k hk => ?_, fun h k hk => h (63 - k) (by omega)⟩
    by_cases h64 : k < 64
    · have := h (63 - k) (by omega)
      rwa [show 63 - (63 - k) = k by omega] at this
    · exact BitVec.getLsbD_of_ge _ _ (by omega)
  case trailing =>
    simp only [Bool.not_eq_false', Bool.not_eq_true']

/-! ### Division (R97) -/

theorem intMin_64 : BitVec.intMin 64 = BitVec.ofInt 64 (-(2 ^ 63)) := by decide

theorem intMax_64 : BitVec.intMax 64 = BitVec.ofInt 64 (2 ^ 63 - 1) := by decide

theorem eq_allOnes_iff (b : Word) : b = BitVec.allOnes 64 ↔ b.toInt = -1 := by
  rw [← BitVec.toInt_inj]
  rfl

theorem divSigned_eq (a b : Word) : divSigned a b =
    if b = 0 then (if 0 ≤ a.toInt then BitVec.ofInt 64 (2 ^ 63 - 1) else BitVec.ofInt 64 (-(2 ^ 63)))
    else if a = BitVec.ofInt 64 (-(2 ^ 63)) ∧ b.toInt = -1 then BitVec.ofInt 64 (2 ^ 63 - 1)
    else BitVec.ofInt 64 (a.toInt.tdiv b.toInt) := by
  rw [divSigned, ← intMin_64, ← intMax_64]
  refine if_congr Iff.rfl ?zero (if_congr ?overflow rfl rfl)
  case zero =>
    rw [ite_slt, show (0 : Word).toInt = 0 from rfl]
    by_cases h : a.toInt < 0
    · rw [if_pos h, if_neg (by omega)]
    · rw [if_neg h, if_pos (by omega)]
  case overflow => rw [Bool.and_eq_true, decide_eq_true_eq, decide_eq_true_eq, eq_allOnes_iff]

theorem divUnsigned_eq (a b : Word) : divUnsigned a b = if b = 0 then BitVec.ofNat 64 (2 ^ 64 - 1) else BitVec.ofNat 64 (a.toNat / b.toNat) := rfl

/-- The remainder of the one overflow is zero. -/
theorem remSigned_eq (a b : Word) : remSigned a b =
    if b = 0 then a else if a = BitVec.ofInt 64 (-(2 ^ 63)) ∧ b.toInt = -1 then 0 else BitVec.ofInt 64 (a.toInt.tmod b.toInt) := by
  rw [remSigned]
  refine if_congr Iff.rfl rfl ?_
  by_cases h : a = BitVec.ofInt 64 (-(2 ^ 63)) ∧ b.toInt = -1
  · rw [if_pos h, h.1, h.2]
    rfl
  · rw [if_neg h]

/-- Settles O3. -/
theorem divisionSaturates : Obligations.DivisionSaturates := by
  intro st i d s t hi hx
  show execDiv d s t st = _ ∧ execDivu d s t st = _ ∧ execRem d s t st = _ ∧ execRemu d s t st = _
  simp only [execDiv, execDivu, execRem, execRemu, alu_settled hi hx, divSigned_eq, divUnsigned_eq, remSigned_eq, remUnsigned, and_self]

end Sys2Proof.Machine
end

section
/-! PROOF. Scalar loads and stores, barriers, the wakes and the late accesses (R107 to R111, R113, R220, R237, R252, R434). -/

namespace Sys2Proof.Machine

open Sys2Proof

/-! ### The shared shape of the scalar accesses at issue

Every scalar access checks what may hold it back, then its alignment, then translates its address, and then acts at the place it has found. -/

/-- A scalar access at issue: what may hold it back, its address and size, and what it does at its place. -/
def scalarAccess (len : Nat) (stall : Strand → Bool) (ea : Strand → Addr) (size : Nat) (acc : Access)
    (act : StrandId → Strand → Phys → State → Except Stop State) (st : State) : Out :=
  issue st len fun i t s =>
    if stall t then .error .stall
    else if (ea t).toNat % size != 0 then .error (preciseStop t ⟨cMisaligned, ea t, 0⟩)
    else match locate i t (ea t) acc s with
      | .error e => .error e
      | .ok (p, s) => act i t p s

/-- The address of a scalar load or store (R107). -/
abbrev offsetEa (a : BitVec 4) (o : BitVec 12) (size : Nat) (t : Strand) : Addr := t.ar a + BitVec.ofInt 80 (o.toInt * size)

theorem scalarEa_eq (t : Strand) (a : BitVec 4) (o : BitVec 12) (size : Nat) : scalarEa t a o size = offsetEa a o size t := by
  rw [scalarEa, offsetEa, BitVec.ofInt_mul, BitVec.ofInt_natCast]
  rfl

/-- What a load does at its place (R107, R109). -/
def loadAt (d : BitVec 5) (a : BitVec 4) (o : BitVec 12) (size : Nat) (sx : Bool) (q : Qual) (i : StrandId) (t : Strand) (p : Phys) (s : State) :
    Except Stop State :=
  let ea := offsetEa a o size t
  let r : LateAccess := ⟨.load size sx, d, p, t.issued, Qual.acq q, 0, t.pc, ea⟩
  if q.fe = 0 then startAccess i t r s
  else match p.loc with
    | .mem _ => .error (preciseStop t ⟨cFullEmpty, ea, 0⟩)
    | .tmem u off =>
      if t.blocks r then .error .stall
      else if s.findsFull u (q.fe = 2) off size then orTrap t (locatedAt ea (granuleRead i t.issued d u off size sx (q.fe = 2) s))
      else .ok (block i t (.granule d u off size sx (q.fe = 2) ea) s)

/-- The store-queue entry of a store (R108). -/
def storeEntry (d : BitVec 5) (a : BitVec 4) (o : BitVec 12) (size : Nat) (q : Qual) (t : Strand) (p : Phys) : StoreEntry :=
  ⟨.data size (BitVec.ofNat 64 ((t.xr d).toNat % 2 ^ (8 * size))), p, t.issued, Qual.rel q, t.pc, offsetEa a o size t⟩

/-- What an atomic does at its place (R237). -/
def atomicAt (op : AmoOp) (size : Nat) (d : BitVec 5) (a : BitVec 4) (x : BitVec 5) (q : Qual) (i : StrandId) (t : Strand) (p : Phys) (s : State) :
    Except Stop State :=
  if p.device then .error (preciseStop t (p.barred (t.ar a) 5))
  else startAccess i t ⟨.atomic op size (t.xr x) (t.xr d), d, p, t.issued, Qual.acq q, Qual.rel q, t.pc, t.ar a⟩ s

/-- What BARA does at its place (R252). -/
def baraAt (d : BitVec 5) (a : BitVec 4) (c : BitVec 3) (i : StrandId) (t : Strand) (p : Phys) (s : State) : Except Stop State :=
  if p.device then .error (preciseStop t (p.barred (t.ar a) 5))
  else startAccess i t ⟨.arrive, d, p, t.issued, 0, c, t.pc, t.ar a⟩ s

/-- What BARW does at its place (R252). -/
def barwAt (d : BitVec 5) (a : BitVec 4) (i : StrandId) (t : Strand) (p : Phys) (s : State) : Except Stop State :=
  if p.device then .error (preciseStop t (p.barred (t.ar a) 5))
  else match waitWord t p (t.ar a) s with
    | none => .error .stall
    | some (.error f) => .error (preciseStop t f)
    | some (.ok (w, s)) =>
      if (w / 2 ^ 63 = 1) != (t.xr d).getLsbD 0 then .ok (s.setX i d (BitVec.ofNat 64 w))
      else .ok (block i t (.barrier d p ((t.xr d).getLsbD 0) (t.ar a)) s)

/-- What WAITLINE does at its place (R113). -/
def waitlineAt (d : BitVec 5) (a : BitVec 4) (x : BitVec 5) (i : StrandId) (t : Strand) (p : Phys) (s : State) : Except Stop State :=
  if p.device then .error (preciseStop t ⟨cWaitDevice, t.ar a, 0⟩)
  else match waitWord t p (t.ar a) s with
    | none => .error .stall
    | some (.error f) => .error (preciseStop t f)
    | some (.ok (w, s)) =>
      if BitVec.ofNat 64 w != t.xr x then .ok (s.setX i d (BitVec.ofNat 64 w))
      else .ok (block i t (.line d p (t.xr x) (t.ar a)) s)

section
variable (len size : Nat) (d x : BitVec 5) (a : BitVec 4) (o : BitVec 12) (sx : Bool) (q : Qual) (op : AmoOp) (c : BitVec 3) (st : State)

theorem load_eq : load len d a o size sx q st =
    scalarAccess len (fun t => t.anyX [d] || t.acquiring) (offsetEa a o size) size .read (loadAt d a o size sx q) st := by
  unfold load
  simp only [scalarEa_eq]
  rfl

theorem store_eq : store len d a o size q st =
    scalarAccess len (fun t => t.anyX [d] || t.acquiring || t.releasing || 8 ≤ t.stores.length) (offsetEa a o size) size .write
      (fun i t p s => enqueueStore i t (storeEntry d a o size q t p) s) st := by
  unfold store
  simp only [scalarEa_eq]
  rfl

theorem atomic_eq : atomic len op size d a x q st =
    scalarAccess len (fun t => t.anyX [d, x] || t.acquiring || t.releasing) (·.ar a) size .write (atomicAt op size d a x q) st := rfl

theorem execBara_eq : execBara d a c st =
    scalarAccess one (fun t => t.anyX [d] || t.acquiring || t.releasing) (·.ar a) 8 .write (baraAt d a c) st := rfl

theorem execBarw_eq : execBarw d a c st = scalarAccess one (fun t => t.anyX [d] || t.acquiring) (·.ar a) 8 .read (barwAt d a) st := rfl

theorem execWaitline_eq : execWaitline d a x st =
    scalarAccess one (fun t => t.anyX [d, x] || t.acquiring) (·.ar a) 8 .read (waitlineAt d a x) st := rfl

end

section
variable {st : State} {i : StrandId} {len size : Nat} {stall : Strand → Bool} {ea : Strand → Addr} {acc : Access}
  {act : StrandId → Strand → Phys → State → Except Stop State} (hi : MayIssue st i) (hs : stall (st.strand i) = false)
include hi hs

/-- A misaligned access traps before it is translated. -/
theorem scalarAccess_misaligned (ha : (ea (st.strand i)).toNat % size ≠ 0) :
    scalarAccess len stall ea size acc act st = .next (takeTrap i ⟨cMisaligned, 0, false, (st.strand i).pc, 0, ea (st.strand i), 0⟩ st) :=
  issue_preciseStop hi (f := ⟨cMisaligned, ea (st.strand i), 0⟩) (by simp [hs, ha]) rfl

variable {p : Phys} {s : State} (ha : (ea (st.strand i)).toNat % size = 0) (hf : Finds st i len (ea (st.strand i)) acc p s)
include ha hf

theorem scalarAccess_completes {r : State} (h : act i (st.strand i) p s = .ok r) : scalarAccess len stall ea size acc act st = .next r := by
  have hl : locate i (st.strand i) (ea (st.strand i)) acc (advance i len st) = .ok (p, s) := hf
  exact issue_ok hi.1 hi.2 (by simp [hs, ha, hl, h])

theorem scalarAccess_stops {f : Flt} (h : act i (st.strand i) p s = .error (preciseStop (st.strand i) f)) (hw : walkCause f.cause = false) :
    scalarAccess len stall ea size acc act st = .next (takeTrap i (preciseRec (st.strand i) f) st) := by
  have hl : locate i (st.strand i) (ea (st.strand i)) acc (advance i len st) = .ok (p, s) := hf
  exact issue_preciseStop hi (by simp [hs, ha, hl, h]) hw

end

/-! ### Misaligned accesses (R107, R108, R113, R237, R252) -/

section
variable {st : State} {i : StrandId} {d x : BitVec 5} {a : BitVec 4} {o : BitVec 12} {q : Qual} {len size : Nat} (hi : MayIssue st i)
  (hacq : (st.strand i).acquiring = false)
include hi hacq

/-- The trap of a misaligned access. -/
def misalignedTrap (i : StrandId) (ea : Addr) (st : State) : State := takeTrap i ⟨cMisaligned, 0, false, (st.strand i).pc, 0, ea, 0⟩ st

theorem load_misaligned {sx : Bool} (hd : Settled st i [d]) (ha : (offsetEa a o size (st.strand i)).toNat % size ≠ 0) :
    load len d a o size sx q st = .next (misalignedTrap i (offsetEa a o size (st.strand i)) st) := by
  rw [load_eq]
  exact scalarAccess_misaligned hi (by simp [hd, hacq]) ha

theorem waitline_misaligned (hdx : Settled st i [d, x]) (ha : ((st.strand i).ar a).toNat % 8 ≠ 0) :
    execWaitline d a x st = .next (misalignedTrap i ((st.strand i).ar a) st) :=
  scalarAccess_misaligned hi (by simp [hdx, hacq]) ha

theorem barw_misaligned (c : BitVec 3) (hd : Settled st i [d]) (ha : ((st.strand i).ar a).toNat % 8 ≠ 0) :
    execBarw d a c st = .next (misalignedTrap i ((st.strand i).ar a) st) :=
  scalarAccess_misaligned hi (by simp [hd, hacq]) ha

variable (hrel : (st.strand i).releasing = false)
include hrel

theorem store_misaligned (hd : Settled st i [d]) (hlen : (st.strand i).stores.length < 8)
    (ha : (offsetEa a o size (st.strand i)).toNat % size ≠ 0) :
    store len d a o size q st = .next (misalignedTrap i (offsetEa a o size (st.strand i)) st) := by
  rw [store_eq]
  exact scalarAccess_misaligned hi (by simp [hd, hacq, hrel, hlen]) ha

theorem atomic_misaligned {op : AmoOp} (hdx : Settled st i [d, x]) (ha : ((st.strand i).ar a).toNat % size ≠ 0) :
    atomic len op size d a x q st = .next (misalignedTrap i ((st.strand i).ar a) st) := by
  rw [atomic_eq]
  exact scalarAccess_misaligned hi (by simp [hdx, hacq, hrel]) ha

theorem bara_misaligned (c : BitVec 3) (hd : Settled st i [d]) (ha : ((st.strand i).ar a).toNat % 8 ≠ 0) :
    execBara d a c st = .next (misalignedTrap i ((st.strand i).ar a) st) :=
  scalarAccess_misaligned hi (by simp [hd, hacq, hrel]) ha

end

/-- Settles O10: the alignment check stands before the translation in the shape that all scalar accesses share. -/
theorem misalignedScalarAccessesTrap : Obligations.MisalignedScalarAccessesTrap := by
  intro st i d x a o q c hi hdx hacq hrel hlen t traps off
  have hd : Settled st i [d] := Settled.of_mem hdx (by simp)
  have hload (len size : Nat) (sx : Bool) (q : Qual) := load_misaligned (len := len) (size := size) (a := a) (o := o) (sx := sx) (q := q) hi hacq hd
  have hstore (len size : Nat) (q : Qual) := store_misaligned (len := len) (size := size) (a := a) (o := o) (q := q) hi hacq hrel hd hlen
  have hamo (len size : Nat) (op : AmoOp) (q : Qual) := atomic_misaligned (len := len) (size := size) (a := a) (q := q) (op := op) hi hacq hrel hdx
  refine ⟨hload 4 2 true plainQual, hload 8 2 true q, hload 4 2 false plainQual, hload 8 2 false q, hload 4 4 true plainQual, hload 8 4 true q,
    hload 4 4 false plainQual, hload 8 4 false q, hload 4 8 false plainQual, hload 8 8 false q, hstore 4 2 plainQual, hstore 8 2 q,
    hstore 4 4 plainQual, hstore 8 4 q, hstore 4 8 plainQual, hstore 8 8 q, ?words, ?halves, waitline_misaligned hi hacq hdx,
    bara_misaligned hi hacq hrel c hd, barw_misaligned hi hacq c hd⟩
  case words =>
    simp only [List.forall_mem_cons, List.not_mem_nil, false_imp_iff, implies_true, and_true]
    exact ⟨hamo 4 8 .add plainQual, hamo 8 8 .add q, hamo 4 8 .and plainQual, hamo 8 8 .and q, hamo 4 8 .or plainQual, hamo 8 8 .or q,
      hamo 4 8 .xor plainQual, hamo 8 8 .xor q, hamo 4 8 .min plainQual, hamo 8 8 .min q, hamo 4 8 .max plainQual, hamo 8 8 .max q,
      hamo 4 8 .minu plainQual, hamo 8 8 .minu q, hamo 4 8 .maxu plainQual, hamo 8 8 .maxu q, hamo 4 8 .swap plainQual, hamo 8 8 .swap q,
      hamo 4 8 .cas plainQual, hamo 8 8 .cas q⟩
  case halves =>
    simp only [List.forall_mem_cons, List.not_mem_nil, false_imp_iff, implies_true, and_true]
    exact ⟨hamo 4 4 .add plainQual, hamo 8 4 .add q, hamo 4 4 .and plainQual, hamo 8 4 .and q, hamo 4 4 .or plainQual, hamo 8 4 .or q,
      hamo 4 4 .xor plainQual, hamo 8 4 .xor q, hamo 4 4 .min plainQual, hamo 8 4 .min q, hamo 4 4 .max plainQual, hamo 8 4 .max q,
      hamo 4 4 .minu plainQual, hamo 8 4 .minu q, hamo 4 4 .maxu plainQual, hamo 8 4 .maxu q, hamo 4 4 .swap plainQual, hamo 8 4 .swap q,
      hamo 4 4 .cas plainQual, hamo 8 4 .cas q⟩

/-! ### The values of reads (R107) -/

theorem signed_intOfCode (w v : Nat) : intOfCode w true v = (BitVec.ofNat w v).toInt := by
  have hp : 0 < w → 2 ^ w = 2 * 2 ^ (w - 1) := fun h => by
    obtain ⟨n, rfl⟩ := Nat.exists_eq_succ_of_ne_zero h.ne'
    rw [Nat.pow_succ, Nat.mul_comm, Nat.succ_eq_add_one, Nat.add_sub_cancel]
  simp only [intOfCode, Bool.true_and, decide_eq_true_eq, BitVec.toInt_eq_toNat_cond, BitVec.toNat_ofNat]
  rcases Nat.eq_zero_or_pos w with rfl | h
  · simp [Nat.mod_one]
  · have := hp h
    push_cast
    split <;> split <;> omega

/-- A value read, as the model extends it. -/
theorem widened_eq {size v : Nat} (sx : Bool) (h : v < 2 ^ (8 * size)) :
    (if sx then BitVec.ofInt 64 (intOfCode (8 * size) true v) else BitVec.ofNat 64 v) = widened size sx v := by
  rw [widened, signed_intOfCode, Nat.mod_eq_of_lt h]

/-! ### Accesses that nothing holds back -/

section
variable {i : StrandId} {t : Strand} {a : LateAccess} {s : State} (hu : Unhindered s t a)
include hu

theorem startAccess_performs {v : Word} {r : State} (hp : performAccess i a s = .ok (v, r)) : startAccess i t a s = .ok (r.setX i a.d v) := by
  obtain ⟨hl, hr, hm, hb⟩ := hu
  simp [startAccess, hm, hl, hr, hb, hp]

theorem startAccess_fails {f : Flt} (hp : performAccess i a s = .error f) : startAccess i t a s = .error (preciseStop t f) := by
  obtain ⟨hl, hr, hm, hb⟩ := hu
  simp [startAccess, hm, hl, hr, hb, hp]

end

theorem performAccess_load {i : StrandId} {d : BitVec 5} {p : Phys} {seq size v : Nat} {sx : Bool} {acq rel : BitVec 3} {pc ea : Addr} {s : State}
    (hr : scalarRead (s.strand i) seq p size s = .ok v) (hv : v < 2 ^ (8 * size)) :
    performAccess i ⟨.load size sx, d, p, seq, acq, rel, pc, ea⟩ s = .ok (widened size sx v, s) := by
  simp [performAccess, hr, ← widened_eq sx hv]

section
variable {st s : State} {i : StrandId} {d : BitVec 5} {a : BitVec 4} {o : BitVec 12} {q : Qual} {len size v : Nat} {sx : Bool} {p : Phys}
  (hi : MayIssue st i) (hd : Settled st i [d]) (hacq : (st.strand i).acquiring = false)
  (ha : (offsetEa a o size (st.strand i)).toNat % size = 0)
include hi hd hacq ha

/-- A load without FE that nothing holds back reads its bytes. -/
theorem load_reads (hq : q.fe = 0) (hf : Finds st i len (offsetEa a o size (st.strand i)) .read p s)
    (hu : Unhindered s (st.strand i)
      ⟨.load size sx, d, p, (st.strand i).issued, Qual.acq q, 0, (st.strand i).pc, offsetEa a o size (st.strand i)⟩)
    (hr : scalarRead (s.strand i) (st.strand i).issued p size s = .ok v) (hv : v < 2 ^ (8 * size)) :
    load len d a o size sx q st = .next (s.setX i d (widened size sx v)) := by
  rw [load_eq]
  refine scalarAccess_completes hi (by simp [hd, hacq]) ha hf ?_
  rw [loadAt, if_pos hq]
  exact startAccess_performs hu (performAccess_load hr hv)

/-- What the place of a full/empty load holds decides whether it reads or blocks. -/
theorem load_fullEmpty {u : TileId} {off : Nat} {c v' : Bool} {m : BitVec 16} {lv : Option TlbEntry} (hq : q.fe = 1 ∨ q.fe = 2)
    (hf : Finds st i len (offsetEa a o size (st.strand i)) .read ⟨.tmem u off, c, m, v', lv⟩ s)
    (hb : (st.strand i).blocks ⟨.load size sx, d, ⟨.tmem u off, c, m, v', lv⟩, (st.strand i).issued, Qual.acq q, 0, (st.strand i).pc,
      offsetEa a o size (st.strand i)⟩ = false) :
    (s.findsFull u (q.fe = 2) off size = true → scalarRead (s.strand i) (st.strand i).issued (Loc.tmem u off).plain size s = .ok v →
      v < 2 ^ (8 * size) →
      load len d a o size sx q st = .next ((if q.fe = 2 then clearFull u (off / 16) s else s).setX i d (widened size sx v))) ∧
    (s.findsFull u (q.fe = 2) off size = false →
      load len d a o size sx q st = .next (block i (st.strand i) (.granule d u off size sx (q.fe = 2) (offsetEa a o size (st.strand i))) s)) := by
  have hne : q.fe ≠ 0 := by rcases hq with h | h <;> simp [h]
  rw [load_eq]
  refine ⟨fun hfull hr hv => ?_, fun hempty => ?_⟩ <;> refine scalarAccess_completes hi (by simp [hd, hacq]) ha hf ?_
  · simp only [loadAt, if_neg hne, hb, hfull, granuleRead, hr, widened_eq sx hv]
    simp [locatedAt, orTrap]
  · simp only [loadAt, if_neg hne, hb, hempty]
    simp

end

/-- Settles O7. -/
theorem scalarLoadsReadTheirBytes : Obligations.ScalarLoadsReadTheirBytes := by
  intro st i d a o hi hd hacq t form
  have hload (len size : Nat) (sx : Bool) (q : Qual) (hq : q.fe = 0) (p : Phys) (s : State) (v : Nat) ha :=
    load_reads (len := len) (size := size) (sx := sx) (q := q) (p := p) (s := s) (v := v) (a := a) (o := o) hi hd hacq ha hq
  have hplain (len size : Nat) (sx : Bool) := hload len size sx plainQual rfl
  exact ⟨hplain 4 1 true, hplain 4 1 false, hplain 4 2 true, hplain 4 2 false, hplain 4 4 true, hplain 4 4 false, hplain 4 8 false,
    fun q hq => ⟨hload 8 1 true q hq, hload 8 1 false q hq, hload 8 2 true q hq, hload 8 2 false q hq, hload 8 4 true q hq, hload 8 4 false q hq,
      hload 8 8 false q hq⟩⟩

/-- Settles O8. -/
theorem fullEmptyLoadsReadOrBlock : Obligations.FullEmptyLoadsReadOrBlock := by
  intro st i d a o q hi hd hacq hq t form
  have hload (size : Nat) (sx : Bool) (u : TileId) (off v : Nat) (s : State) (c d' : Bool) (m : BitVec 16) (lv : Option TlbEntry) ha :=
    load_fullEmpty (len := 8) (size := size) (sx := sx) (u := u) (off := off) (v := v) (s := s) (c := c) (v' := d') (m := m) (lv := lv) (a := a)
      (o := o) hi hd hacq ha hq
  exact ⟨hload 1 true, hload 1 false, hload 2 true, hload 2 false, hload 4 true, hload 4 false, hload 8 false⟩

/-! ### Stores (R108) -/

theorem enqueueStore_of_free {i : StrandId} {t : Strand} {e : StoreEntry} {s : State} (h : s.meets none e.kind.writes e.span.1 e.span.2 ≠ .trap) :
    enqueueStore i t e s = .ok (s.modStrand i fun r => { r with stores := r.stores ++ [e] }) := if_neg h

theorem store_enters {st s : State} {i : StrandId} {d : BitVec 5} {a : BitVec 4} {o : BitVec 12} {q : Qual} {len size : Nat} {p : Phys}
    (hi : MayIssue st i) (hd : Settled st i [d]) (hacq : (st.strand i).acquiring = false) (hrel : (st.strand i).releasing = false)
    (hlen : (st.strand i).stores.length < 8) (ha : (offsetEa a o size (st.strand i)).toNat % size = 0)
    (hf : Finds st i len (offsetEa a o size (st.strand i)) .write p s) (hm : s.meets none true p.loc size ≠ .trap) :
    store len d a o size q st = .next (s.modStrand i fun r => { r with stores := r.stores ++ [storeEntry d a o size q (st.strand i) p] }) := by
  rw [store_eq]
  exact scalarAccess_completes hi (by simp [hd, hacq, hrel, hlen]) ha hf (enqueueStore_of_free hm)

/-- Settles O9. -/
theorem scalarStoresEnterTheQueue : Obligations.ScalarStoresEnterTheQueue := by
  intro st i d a o hi hd hacq hrel hlen t form
  have hstore (len size : Nat) (q : Qual) (p : Phys) (s : State) :=
    store_enters (len := len) (size := size) (q := q) (p := p) (s := s) (a := a) (o := o) hi hd hacq hrel hlen
  exact ⟨hstore 4 1 plainQual, hstore 4 2 plainQual, hstore 4 4 plainQual, hstore 4 8 plainQual,
    fun q => ⟨hstore 8 1 q, hstore 8 2 q, hstore 8 4 q, hstore 8 8 q⟩⟩

/-! ### Barrier words (R251, R252) -/

theorem field_toNat (w : Word) (lo n : Nat) : field w.toNat lo n = (w.extractLsb' lo n).toNat := by
  rw [BitVec.extractLsb'_toNat, Nat.shiftRight_eq_div_pow, field]

/-- A barrier word counts arrivals where its reserved bits are clear and its count is below what it expects. -/
theorem barrierInvalid_iff (w : Word) :
    barrierInvalid w.toNat = true ↔ ¬ (w.extractLsb' 48 15 = 0 ∧ (w.extractLsb' 0 24).toNat < (w.extractLsb' 24 24).toNat) := by
  have hz : (w.extractLsb' 48 15).toNat = 0 ↔ w.extractLsb' 48 15 = 0 := (BitVec.toNat_eq (y := 0)).symm
  simp only [barrierInvalid, field_toNat, Bool.or_eq_true, bne_iff_ne, decide_eq_true_eq, ne_eq, hz]
  by_cases h : w.extractLsb' 48 15 = 0
  · simp only [h, not_true_eq_false, false_or, true_and, not_lt]
    omega
  · simp only [h, not_false_eq_true, true_or, false_and]

/-- The number of a barrier word with clear reserved bits (R251). -/
theorem toNat_barrierWord (p : BitVec 1) (e n : BitVec 24) :
    (p ++ 0#15 ++ e ++ n : BitVec 64).toNat = p.toNat * 2 ^ 63 + e.toNat * 2 ^ 24 + n.toNat := by
  have he : (p ++ 0#15 ++ e).toNat = p.toNat * 2 ^ 39 + e.toNat := by
    rw [BitVec.toNat_append, ← Nat.shiftLeft_add_eq_or_of_lt e.isLt, BitVec.toNat_append, BitVec.toNat_ofNat, Nat.zero_mod, Nat.or_zero,
      Nat.shiftLeft_eq, Nat.shiftLeft_eq]
    omega
  rw [BitVec.toNat_append, ← Nat.shiftLeft_add_eq_or_of_lt n.isLt, Nat.shiftLeft_eq, he]
  omega

theorem toNat_succ_of_lt {n : Nat} {c e : BitVec n} (h : c.toNat < e.toNat) : (c + 1#n).toNat = c.toNat + 1 := by
  have := e.isLt
  rw [BitVec.toNat_add_of_lt] <;> rw [BitVec.toNat_ofNat, Nat.mod_eq_of_lt] <;> omega

/-- The word after one arrival: one more in the count, or the count at zero and the phase turned. -/
theorem barrierArrive_eq (w : Word) (hr : w.extractLsb' 48 15 = 0) (hc : (w.extractLsb' 0 24).toNat < (w.extractLsb' 24 24).toNat) :
    let cnt := w.extractLsb' 0 24
    let exp := w.extractLsb' 24 24
    let phase := w.extractLsb' 63 1
    barrierArrive w.toNat =
      ((if cnt + 1 = exp then ~~~ phase else phase) ++ 0#15 ++ exp ++ (if cnt + 1 = exp then 0 else cnt + 1) : BitVec 64).toNat := by
  intro cnt exp phase
  have hw := w.isLt
  have hcnt : cnt.toNat = w.toNat % 2 ^ 24 := by simp [cnt]
  have hexp : exp.toNat = w.toNat / 2 ^ 24 % 2 ^ 24 := by simp [exp, Nat.shiftRight_eq_div_pow]
  have hphase : phase.toNat = w.toNat / 2 ^ 63 := by
    simp [phase, Nat.shiftRight_eq_div_pow]
    omega
  have hres : w.toNat / 2 ^ 48 % 2 ^ 15 = 0 := by
    have := congrArg BitVec.toNat hr
    simpa [Nat.shiftRight_eq_div_pow] using this
  have hsucc : (cnt + 1).toNat = cnt.toNat + 1 := toNat_succ_of_lt hc
  have hone : cnt.toNat + 1 = exp.toNat ↔ cnt + 1 = exp := by rw [← hsucc, BitVec.toNat_inj]
  rw [toNat_barrierWord, barrierArrive, field_toNat, field_toNat]
  change (if cnt.toNat + 1 = exp.toNat then _ else _ + (cnt.toNat + 1)) = _
  by_cases h : cnt + 1 = exp
  · rw [if_pos (hone.mpr h), if_pos h, if_pos h, BitVec.toNat_not, hphase, hexp, show (0 : BitVec 24).toNat = 0 from rfl]
    omega
  · rw [if_neg (mt hone.mp h), if_neg h, if_neg h, hphase, hexp, hsucc, hcnt]
    omega

theorem phaseWord_eq (w : Word) : BitVec.ofNat 64 (w.toNat / 2 ^ 63) = (w.extractLsb' 63 1).setWidth 64 := by
  apply BitVec.eq_of_toNat_eq
  have := w.isLt
  simp [Nat.shiftRight_eq_div_pow]
  omega

theorem phaseBit_eq (w : Word) : decide (w.toNat / 2 ^ 63 = 1) = w.getLsbD 63 := by
  have := w.isLt
  rw [BitVec.getLsbD, Nat.testBit_eq_decide_div_mod_eq]
  congr 1
  apply propext
  omega

/-! ### BARA, BARW and WAITLINE at issue (R113, R252) -/

section
variable {i : StrandId} {d : BitVec 5} {p : Phys} {seq : Nat} {acq rel : BitVec 3} {pc ea : Addr} {s : State} {w : Word}
  (hr : readPhys p 8 s = .ok w.toNat)
include hr

theorem performAccess_arrive (hv : barrierInvalid w.toNat = false) :
    performAccess i ⟨.arrive, d, p, seq, acq, rel, pc, ea⟩ s =
      .ok ((w.extractLsb' 63 1).setWidth 64, atHome p.loc (writePhys none p (leBytes 8 (barrierArrive w.toNat)) s)) := by
  simp only [performAccess, hr, hv, phaseWord_eq]
  rfl

theorem performAccess_arrive_invalid (hv : barrierInvalid w.toNat = true) :
    performAccess i ⟨.arrive, d, p, seq, acq, rel, pc, ea⟩ s = .error ⟨cBarrierInvalid, ea, 0⟩ := by
  simp [performAccess, hr, hv]

end

section
variable {t : Strand} {p : Phys} {ea : Addr} {s : State} (hh : readHeld t p 8 s = false)
include hh

theorem waitWord_trap (hm : s.meets none false p.loc 8 = .trap) : waitWord t p ea s = some (.error ⟨cReservation, ea, 0⟩) := by
  simp [waitWord, hh, hm]

theorem waitWord_reads {v : Nat} (hm : s.meets none false p.loc 8 = .free) (hr : scalarRead t t.issued p 8 s = .ok v) :
    waitWord t p ea s = some (.ok (v, s)) := by
  simp [waitWord, hh, hm, hr]

end

section
variable {st s : State} {i : StrandId} {d x : BitVec 5} {a : BitVec 4} {c : BitVec 3} {p : Phys} {w : Word} (hi : MayIssue st i)
  (hdx : Settled st i [d, x]) (hacq : (st.strand i).acquiring = false) (hp : p.device = false) (ha : ((st.strand i).ar a).toNat % 8 = 0)
include hi hdx hacq hp ha

/-- BARA at a word that it can read counts an arrival, or traps on an invalid word. -/
theorem bara_arrives (hrel : (st.strand i).releasing = false) (hf : Finds st i 4 ((st.strand i).ar a) .write p s)
    (hu : Unhindered s (st.strand i) ⟨.arrive, d, p, (st.strand i).issued, 0, c, (st.strand i).pc, (st.strand i).ar a⟩)
    (hr : readPhys p 8 s = .ok w.toNat) :
    (barrierInvalid w.toNat = false → execBara d a c st =
      .next ((atHome p.loc (writePhys none p (leBytes 8 (barrierArrive w.toNat)) s)).setX i d ((w.extractLsb' 63 1).setWidth 64))) ∧
    (barrierInvalid w.toNat = true → execBara d a c st =
      .next (takeTrap i (preciseRec (st.strand i) ⟨cBarrierInvalid, (st.strand i).ar a, 0⟩) st)) := by
  have hd : Settled st i [d] := Settled.of_mem hdx (by simp)
  have hstall : ((st.strand i).anyX [d] || (st.strand i).acquiring || (st.strand i).releasing) = false := by simp [hd, hacq, hrel]
  rw [execBara_eq]
  refine ⟨fun hv => scalarAccess_completes hi hstall ha hf ?_, fun hv => scalarAccess_stops hi hstall ha hf ?_ rfl⟩ <;> rw [baraAt, hp]
  · exact startAccess_performs hu (performAccess_arrive hr hv)
  · exact startAccess_fails hu (performAccess_arrive_invalid hr hv)

variable (hf : Finds st i 4 ((st.strand i).ar a) .read p s)
include hf

theorem barw_trap (hw : waitWord (st.strand i) p ((st.strand i).ar a) s = some (.error ⟨cReservation, (st.strand i).ar a, 0⟩)) :
    execBarw d a c st = .next (takeTrap i (preciseRec (st.strand i) ⟨cReservation, (st.strand i).ar a, 0⟩) st) := by
  have hd : Settled st i [d] := Settled.of_mem hdx (by simp)
  rw [execBarw_eq]
  refine scalarAccess_stops hi (by simp [hd, hacq]) ha hf ?_ rfl
  simp [barwAt, hp, hw]

theorem waitline_trap (hw : waitWord (st.strand i) p ((st.strand i).ar a) s = some (.error ⟨cReservation, (st.strand i).ar a, 0⟩)) :
    execWaitline d a x st = .next (takeTrap i (preciseRec (st.strand i) ⟨cReservation, (st.strand i).ar a, 0⟩) st) := by
  rw [execWaitline_eq]
  refine scalarAccess_stops hi (by simp [hdx, hacq]) ha hf ?_ rfl
  simp [waitlineAt, hp, hw]

variable (hw : waitWord (st.strand i) p ((st.strand i).ar a) s = some (.ok (w.toNat, s)))
include hw

theorem barw_retires_or_blocks : execBarw d a c st = .next
    (if w.getLsbD 63 = ((st.strand i).xr d).getLsbD 0 then
      block i (st.strand i) (.barrier d p (((st.strand i).xr d).getLsbD 0) ((st.strand i).ar a)) s
    else s.setX i d w) := by
  have hd : Settled st i [d] := Settled.of_mem hdx (by simp)
  rw [execBarw_eq]
  refine scalarAccess_completes hi (by simp [hd, hacq]) ha hf ?_
  simp only [barwAt, hp, hw, phaseBit_eq, BitVec.ofNat_toNat, BitVec.setWidth_eq]
  by_cases h : w.getLsbD 63 = ((st.strand i).xr d).getLsbD 0
  · rw [if_pos h, h, bne_self_eq_false]
    rfl
  · rw [if_neg h, bne_iff_ne.mpr h]
    rfl

theorem waitline_retires_or_blocks : execWaitline d a x st = .next
    (if w = (st.strand i).xr x then block i (st.strand i) (.line d p ((st.strand i).xr x) ((st.strand i).ar a)) s else s.setX i d w) := by
  rw [execWaitline_eq]
  refine scalarAccess_completes hi (by simp [hdx, hacq]) ha hf ?_
  rw [waitlineAt, hp, hw]
  by_cases h : w = (st.strand i).xr x
  · simp [h]
  · simp [h]

end

/-! ### The wakes (R109, R113, R135, R252) -/

section
variable {st : State} {i : StrandId} {d : BitVec 5}

theorem exec_fullemptyWake {u : TileId} {off size v : Nat} {sx clear : Bool} {ea : Addr}
    (hb : (st.strand i).status = .blocked (.granule d u off size sx clear ea)) (hf : st.findsFull u clear off size = true)
    (hr : scalarRead (st.strand i) (st.strand i).issued (Loc.tmem u off).plain size st = .ok v) (hv : v < 2 ^ (8 * size)) :
    exec (.fullemptyWake i) st = .next (unblock i 8 ((if clear then clearFull u (off / 16) st else st).setX i d (widened size sx v))) := by
  show execFullemptyWake i st = _
  simp only [execFullemptyWake, hb, hf, granuleRead, hr, widened_eq sx hv]
  rfl

theorem exec_joinlWake {c : Child} (hb : (st.strand i).status = .blocked .join) (hg : (st.strand i).grant = some c) (hc : c.gone.isSome = true)
    (hq : queueFull i (st.strand i) st = false) :
    exec (.joinlWake i) st =
      .next (unblock i one (enqueue i { vEntry (st.strand i) .join none with seq := (st.strand i).issued - 1 } (joinLength i st))) := by
  show execJoinlWake i st = _
  simp only [execJoinlWake, hb, hg, hc, hq]
  rfl

variable {p : Phys} {ea : Addr} {w : Word} (hw : waitWord (st.strand i) p ea st = some (.ok (w.toNat, st)))
include hw

theorem exec_waitlineWake {seen : Word} (hb : (st.strand i).status = .blocked (.line d p seen ea)) (hne : w ≠ seen) :
    exec (.waitlineWake i) st = .next (unblock i 4 (st.setX i d w)) := by
  show execWaitlineWake i st = _
  simp only [execWaitlineWake, hb, hw, BitVec.ofNat_toNat, BitVec.setWidth_eq, hne]
  rfl

theorem exec_barwWake {seen : Bool} (hb : (st.strand i).status = .blocked (.barrier d p seen ea)) (hne : w.getLsbD 63 ≠ seen) :
    exec (.barwWake i) st = .next (unblock i 4 (st.setX i d w)) := by
  show execBarwWake i st = _
  simp only [execBarwWake, hb, hw, phaseBit_eq, BitVec.ofNat_toNat, BitVec.setWidth_eq, bne_iff_ne.mpr hne]
  rfl

end

/-- Settles O12: the arrival of BARA is one access, BARW and WAITLINE read one word, and each wake reads what its wait names. -/
theorem barriersAndWakesComplete : Obligations.BarriersAndWakesComplete := by
  refine ⟨fun st i d x a c p s w hi hdx hacq hrel hp => ?issue, fun st i d => ?wakes⟩
  case issue =>
    intro t ea ha
    refine ⟨fun hf hu hr => ?bara, fun hf hh hm => ?trap, fun hf hh hm hr => ?word⟩
    case bara =>
      intro cnt exp phase
      obtain ⟨hvalid, hinvalid⟩ := bara_arrives hi hdx hacq hp ha hrel hf hu hr
      refine ⟨fun hz hlt => ?_, fun hn => hinvalid ((barrierInvalid_iff w).mpr hn)⟩
      have hv : barrierInvalid w.toNat = false := by simpa [hz] using mt (barrierInvalid_iff w).mp (not_not.mpr ⟨hz, hlt⟩)
      rw [← barrierArrive_eq w hz hlt]
      exact hvalid hv
    case trap =>
      have hw := waitWord_trap (ea := ea) hh hm
      exact ⟨barw_trap (c := c) hi hdx hacq hp ha hf hw, waitline_trap hi hdx hacq hp ha hf hw⟩
    case word =>
      have hw := waitWord_reads (ea := ea) hh hm hr
      exact ⟨barw_retires_or_blocks (c := c) hi hdx hacq hp ha hf hw, waitline_retires_or_blocks hi hdx hacq hp ha hf hw⟩
  case wakes =>
    intro t on
    refine ⟨fun u off size v sx clear ea hb hf hr hv => exec_fullemptyWake hb hf hr hv, fun c hb hg hc hq => ⟨_, exec_joinlWake hb hg hc hq, ?_⟩,
      fun p ea w hh hm hr => ?_⟩
    · simp [unblock, enqueue, joinLength, t]
    · have hw := waitWord_reads (ea := ea) hh hm hr
      exact ⟨fun seen hb hne => exec_waitlineWake hw hb hne, fun seen hb hne => exec_barwWake hw hb hne⟩

/-! ### Late accesses and the store queue (R108, R220, R434) -/

theorem completeLate_performs {st s : State} {i : StrandId} {k : Nat} {a : LateAccess} {v : Word} (hk : (st.strand i).lates[k]? = some a)
    (hm : st.meets none a.kind.writes a.phys.loc a.kind.size = .free) (hr : st.reach a.phys.loc = .ok) (hb : (st.strand i).blocks a = false)
    (hp : performAccess i a st = .ok (v, s)) : completeLate i k st = some ((dropLate i k s).setX i a.d v) := by
  simp [completeLate, hk, hm, hr, hb, hp]

theorem drainStore_performs {st : State} {i : StrandId} {k : Nat} {e : StoreEntry} (ho : (st.strand i).orphans = [])
    (hk : (st.strand i).stores[k]? = some e) (hm : st.meets none e.kind.writes e.span.1 e.span.2 = .free) (hr : st.reach e.phys.loc = .ok)
    (hh : (st.strand i).storeHeld k e = false) :
    drainStore i k st = some (performStore e (st.modStrand i fun t => { t with stores := t.stores.eraseIdx k })) := by
  simp [drainStore, ho, hk, hm, hr, hh]

theorem StoreEntry.span_data {e : StoreEntry} {n : Nat} {v : Word} (h : e.kind = .data n v) : e.span = (e.phys.loc, n) := by
  rw [StoreEntry.span, h]

theorem StoreEntry.writes_data {e : StoreEntry} {n : Nat} {v : Word} (h : e.kind = .data n v) : e.kind.writes = true := by
  rw [h]
  rfl

theorem performStore_data {e : StoreEntry} {n : Nat} {v : Word} (h : e.kind = .data n v) (s : State) :
    performStore e s = writePhys none e.phys (leBytes n v.toNat) s := by
  rw [performStore, h]

/-- A queued data store that nothing holds back writes its bytes and leaves the queue. -/
theorem exec_storeQueueDrain_data {st : State} {i : StrandId} {k n : Nat} {e : StoreEntry} {v : Word} (ho : (st.strand i).orphans = [])
    (hk : (st.strand i).stores[k]? = some e) (he : e.kind = .data n v) (hm : st.meets none true e.phys.loc n = .free)
    (hr : st.reach e.phys.loc = .ok) (hh : (st.strand i).storeHeld k e = false) :
    exec (.storeQueueDrain i k) st =
      .next (writePhys none e.phys (leBytes n v.toNat) (st.modStrand i fun t => { t with stores := t.stores.eraseIdx k })) := by
  have hm' : st.meets none e.kind.writes e.span.1 e.span.2 = .free := by rw [StoreEntry.span_data he, StoreEntry.writes_data he, hm]
  show event st (drainStore i k st) = _
  rw [drainStore_performs ho hk hm' hr hh, performStore_data he, event_some]

/-- Settles O13. -/
theorem lateAccessesAndStoresArePerformed : Obligations.LateAccessesAndStoresArePerformed := by
  intro st i k t
  refine ⟨fun a v s hk hm hr hb hp => ?_, fun e n v ho hk he hm hr hh => exec_storeQueueDrain_data ho hk he hm hr hh⟩
  have h : event st (completeLate i k st) = .next ((dropLate i k s).setX i a.d v) := by rw [completeLate_performs hk hm hr hb hp, event_some]
  exact ⟨h, h⟩

end Sys2Proof.Machine
end

section
/-! PROOF. What writes, records and traps leave of the strands and tiles (R245, R386, R393 to R395, R408 to R412). -/

namespace Sys2Proof.Machine

open Sys2Proof

/-! ### Strands but for their links

A write withdraws links on its lines from every strand (R245), and changes nothing else of any strand. -/

/-- A strand without its links. -/
def Strand.unlinked (t : Strand) : Strand := { t with links := [], loose := [] }

theorem Strand.xr_unlinked (t : Strand) (r : BitVec 5) : t.unlinked.xr r = t.xr r := rfl

theorem Strand.issued_unlinked (t : Strand) : t.unlinked.issued = t.issued := rfl

theorem State.strand_of_strands {s f : State} (h : f.strands = s.strands) (j : StrandId) : f.strand j = s.strand j := by
  rw [State.strand, State.strand, h]

/-- A fold of steps that each keep something of the state keeps it. -/
theorem foldl_keeps {α β : Type} (g : State → β) {f : State → α → State} (h : ∀ s a, g (f s a) = g s) (l : List α) (s : State) :
    g (l.foldl f s) = g s := by
  induction l generalizing s with
  | nil => rfl
  | cons a r ih => rw [List.foldl_cons, ih, h]

@[simp] theorem unlinked_loseLinks (k : Option StrandId) (l : Line) (s : State) (j : StrandId) :
    ((loseLinks k l s).strand j).unlinked = (s.strand j).unlinked := by
  have h := amGet_map_keyed j (fun i (t : Strand) => if some i = k || !t.links.contains l then t
    else { t with links := t.links.filter (· ≠ l), loose := t.loose.filter (· ≠ l) }) s.strands
  have hs : (loseLinks k l s).strands = s.strands.map fun p => (p.1, if some p.1 = k || !p.2.links.contains l then p.2
      else { p.2 with links := p.2.links.filter (· ≠ l), loose := p.2.loose.filter (· ≠ l) }) := by
    unfold loseLinks
    refine List.map_congr_left fun p _ => ?_
    dsimp only
    split <;> rfl
  rw [State.strand, hs, h, State.strand]
  cases amGet j s.strands with
  | none => rfl
  | some t =>
    show Strand.unlinked (ite _ _ _) = _
    split <;> rfl

@[simp] theorem noteDirty_strands (n : Nat) (s : State) : (noteDirty n s).strands = s.strands := by
  unfold noteDirty
  (repeat' split) <;> rfl

@[simp] theorem modCrucible_strands (n : Nat) (f : Crucible → Crucible) (s : State) : (modCrucible n f s).strands = s.strands := by
  unfold modCrucible
  split <;> rfl

@[simp] theorem writeBack_strands (n : Nat) (s : State) : (writeBack n s).strands = s.strands := by simp [writeBack]

@[simp] theorem evict_strands (q : BitVec 2) (l : Nat) (room : Crucible → Bool) (n : Nat) (s : State) : (evict q l room n s).strands = s.strands := by
  induction n generalizing s with
  | zero => rfl
  | succ n ih =>
    simp only [evict]
    split
    · rfl
    · split
      · rfl
      · rw [ih, State.strands_modQuad]
        split
        · rw [writeBack_strands]
          rfl
        · rfl

@[simp] theorem unshareLine_strands (n : Nat) (s : State) : (unshareLine n s).strands = s.strands := by
  unfold unshareLine
  split
  · rfl
  · rw [State.strands_modQuad, makeRoom, evict_strands]

@[simp] theorem unlinked_touchLine (k : Option StrandId) (n : Nat) (s : State) (j : StrandId) :
    ((touchLine k n s).strand j).unlinked = (s.strand j).unlinked := by
  rw [touchLine, State.strand_of_strands (modCrucible_strands ..), State.strand_of_strands (unshareLine_strands ..), unlinked_loseLinks,
    State.strand_of_strands (noteDirty_strands n s)]

@[simp] theorem unlinked_writeMem (k : Option StrandId) (a : Nat) (bs : List Byte) (s : State) (j : StrandId) :
    ((writeMem k a bs s).strand j).unlinked = (s.strand j).unlinked := by
  unfold writeMem
  split
  · rfl
  · exact foldl_keeps (fun s => (s.strand j).unlinked) (fun s n => unlinked_touchLine k n s j) _ s

@[simp] theorem unlinked_writeTmem (k : Option StrandId) (t : TileId) (o : Nat) (bs : List Byte) (s : State) (j : StrandId) :
    ((writeTmem k t o bs s).strand j).unlinked = (s.strand j).unlinked := by
  unfold writeTmem
  split
  · rfl
  · exact foldl_keeps (fun s => (s.strand j).unlinked) (fun s n => unlinked_loseLinks k (.tmem t n) s j) _ s

@[simp] theorem unlinked_hwWrite (a : Nat) (bs : List Byte) (s : State) (j : StrandId) :
    ((hwWrite a bs s).strand j).unlinked = (s.strand j).unlinked := unlinked_writeMem none a bs s j

/-! ### Records (R393 to R395, R408 to R412) -/

@[simp] theorem unlinked_ringWrite (base : Word) (n r : Nat) (bs : List Byte) (s : State) (j : StrandId) :
    ((ringWrite base n r bs s).2.strand j).unlinked = (s.strand j).unlinked := by
  obtain ⟨a, b, c, d, e, h | h⟩ := ringWrite_cases base n r bs s <;> rw [h] <;> simp

@[simp] theorem countRecord_strand (q : BitVec 2) (w : Bool × State) (j : StrandId) : (countRecord q w).strand j = w.2.strand j := by
  unfold countRecord
  split <;> rfl

@[simp] theorem unlinked_errorRecord (q : BitVec 2) (typ tile cause handle pa : Nat) (s : State) (j : StrandId) :
    ((errorRecord q typ tile cause handle pa s).strand j).unlinked = (s.strand j).unlinked := by
  obtain h | ⟨a, n, bs, h⟩ := errorRecord_cases q typ tile cause handle pa s <;> rw [h]
  rw [countRecord_strand, unlinked_ringWrite]

@[simp] theorem unlinked_notePoison (a n : Nat) (s : State) (j : StrandId) : ((notePoison a n s).strand j).unlinked = (s.strand j).unlinked :=
  foldl_keeps (fun s => (s.strand j).unlinked) (fun s k => by
    split
    · exact unlinked_errorRecord ..
    · rfl) _ s

@[simp] theorem unlinked_traceLost (q : BitVec 2) (t : Option TileId) (s : State) (j : StrandId) :
    ((traceLost q t s).strand j).unlinked = (s.strand j).unlinked := by
  rw [traceLost, State.strand_modQuad, bumpQuad, State.strand_modQuad, unlinked_hwWrite]

@[simp] theorem unlinked_traceEvent (i : StrandId) (pipe : Nat) (fin : Bool) (n : Nat) (m : StripName) (pc : Addr) (s : State) (j : StrandId) :
    ((traceEvent i pipe fin n m pc s).strand j).unlinked = (s.strand j).unlinked := by
  unfold traceEvent trace
  dsimp only
  split
  · rfl
  · split
    · exact unlinked_traceLost ..
    · rfl

@[simp] theorem unlinked_traceStops (i : StrandId) (s : State) (j : StrandId) : ((traceStops i s).strand j).unlinked = (s.strand j).unlinked :=
  foldl_keeps (fun s => (s.strand j).unlinked) (fun s e => by
    split
    · exact unlinked_traceEvent ..
    · rfl) _ s

@[simp] theorem unlinked_traceWait (i : StrandId) (s : State) (j : StrandId) : ((traceWait i s).strand j).unlinked = (s.strand j).unlinked := by
  unfold traceWait
  dsimp only
  split
  · exact foldl_keeps (fun s => (s.strand j).unlinked) (fun s p => unlinked_traceEvent ..) _ s
  · rfl

/-! ### Partials (R242) -/

@[simp] theorem cutRanges_strand (self : Option (TileId × Nat)) (w : Bool) (l : Loc) (n : Nat) (s : State) (j : StrandId) :
    (cutRanges self w l n s).strand j = s.strand j := by cases l <;> rfl

@[simp] theorem atHome_strands (l : Loc) (s : State) : (atHome l s).strands = s.strands := by
  unfold atHome
  split
  · rfl
  · split
    · rfl
    · exact writeBack_strands ..

@[simp] theorem bracket_strands (n k : Nat) (l : List Nat) (s : State) : (bracket n k l s).2.strands = s.strands := by
  induction k generalizing l s with
  | zero => rfl
  | succ k ih =>
    match l with
    | [] => rfl
    | [_] => rfl
    | a :: b :: r =>
      simp only [bracket]
      rw [ih]
      rfl

@[simp] theorem unlinked_writeStorage (k : Option StrandId) (l : Loc) (bs : List Byte) (s : State) (j : StrandId) :
    ((writeStorage k l bs s).strand j).unlinked = (s.strand j).unlinked := by
  unfold writeStorage
  split
  · cases l with
    | mem a => exact unlinked_errorRecord ..
    | tmem t o => rfl
  · cases l with
    | mem a => exact unlinked_writeMem ..
    | tmem t o => exact unlinked_writeTmem ..

@[simp] theorem unlinked_applyPartial (op : AmoOp) (k : Combine) (s : State) (j : StrandId) :
    ((applyPartial op k s).strand j).unlinked = (s.strand j).unlinked := by
  unfold applyPartial
  dsimp only
  have hc : ((if s.meets none true k.phys.loc k.size = .cut then cutRanges none true k.phys.loc k.size s else s).strand j).unlinked =
      (s.strand j).unlinked := by
    split
    · rw [cutRanges_strand]
    · rfl
  rw [← hc]
  generalize (if s.meets none true k.phys.loc k.size = .cut then cutRanges none true k.phys.loc k.size s else s) = u
  split
  · exact unlinked_writeStorage ..
  · split
    · split
      · exact unlinked_notePoison ..
      · exact unlinked_errorRecord ..
    · split
      · rw [State.strand_of_strands (atHome_strands ..), unlinked_writeStorage]
      · show ((atHome _ _).strand j).unlinked = _
        rw [State.strand_of_strands (atHome_strands ..), unlinked_writeStorage, State.strand_of_strands (bracket_strands ..)]

/-! ### Traps keep the count of issues (R386, R409) -/

/-- What keeps a strand but for its links keeps its count. -/
theorem issued_of_unlinked {t u : Strand} (h : u.unlinked = t.unlinked) : u.issued = t.issued := by
  rw [← Strand.issued_unlinked, h, Strand.issued_unlinked]

@[simp] theorem leaveWait_strand (i : StrandId) (s : State) (j : StrandId) : (leaveWait i s).strand j = s.strand j := by
  unfold leaveWait
  generalize (s.strand i).status = w
  generalize i.core = c
  cases w with
  | blocked w => cases w <;> cases c <;> rfl
  | _ => rfl

theorem issued_flushParts (i : StrandId) (s : State) (j : StrandId) : ((flushParts i s).strand j).issued = (s.strand j).issued := by
  unfold flushParts
  dsimp only
  split
  · rfl
  · have hf := foldl_keeps (fun s => (s.strand j).unlinked) (f := fun s (p : AmoOp × List Combine) => p.2.foldl (fun s k => applyPartial p.1 k s) s)
      fun s p => foldl_keeps (fun s => (s.strand j).unlinked) (fun s k => unlinked_applyPartial p.1 k s j) p.2 s
    rw [issued_of_unlinked (hf _ _), State.strand_modStrand]
    split
    · subst_vars
      rfl
    · rfl

@[simp] theorem takeSlot_strand (i : StrandId) (s : State) (j : StrandId) : (takeSlot i s).strand j = s.strand j := by simp [takeSlot]

theorem issued_enterTrap (g : Level) (i : StrandId) (k : TrapRec) (t : Strand) (s : State) : ((enterTrap g i k t s).strand i).issued = t.issued := by
  unfold enterTrap
  dsimp only
  split
  · split
    · rw [issued_of_unlinked (unlinked_errorRecord ..), State.strand_setStrand_self]
      rfl
    · rw [State.strand_setStrand_self]
  · rw [State.strand_setStrand_self]

/-- The state in which a strand has stopped for a trap, before it enters the trap (R136, R243, R259). -/
def stopped (i : StrandId) (s : State) : State := takeSlot i (flushParts i (dropWait i (traceStops i s)))

theorem takeTrapTo_eq (g : Level) (i : StrandId) (k : TrapRec) (s : State) :
    takeTrapTo g i k s = enterTrap g i k ((stopped i s).strand i).trapped (stopped i s) := rfl

theorem issued_trapped (t : Strand) : t.trapped.issued = t.issued := rfl

/-- A trap issues nothing. -/
theorem issued_takeTrap (i : StrandId) (k : TrapRec) (s : State) : ((takeTrap i k s).strand i).issued = (s.strand i).issued := by
  rw [takeTrap, takeTrapTo_eq, issued_enterTrap, issued_trapped, stopped, takeSlot_strand, issued_flushParts, dropWait, leaveWait_strand,
    issued_of_unlinked (unlinked_traceWait ..), issued_of_unlinked (unlinked_traceStops ..)]

@[simp] theorem countMiss_strand (c : CoreId) (a b : Bool) (s : State) (j : StrandId) : (countMiss c a b s).strand j = s.strand j := by
  unfold countMiss
  cases c <;> cases a <;> cases b <;> rfl

@[simp] theorem countFault_strand (x : Xl) (c : BitVec 8) (va : Addr) (s : State) (j : StrandId) : (countFault x c va s).strand j = s.strand j := by
  unfold countFault
  dsimp only
  repeat' split
  all_goals simp

/-! ### Writes at a place of this device's memory or of TMEM (R108, R156) -/

section
variable {k : Option StrandId} {p : Phys} {bs : List Byte} {s : State}

theorem writePhys_hbm {a : Nat} (hl : p.loc = .mem a) (ho : s.own a = true) (hr : regionOf (localOf a) = .hbm) :
    writePhys k p bs s = writeMem k a bs s := by
  have hreach : s.reach (.mem a) = .ok := if_pos ho
  simp [writePhys, hl, hreach, hr]

theorem writePhys_tmem {t : TileId} {o : Nat} (hl : p.loc = .tmem t o) : writePhys k p bs s = writeTmem k t o bs s := by
  simp [writePhys, hl]

end

theorem State.tile_of_tiles {s f : State} (h : f.tiles = s.tiles) (u : TileId) : f.tile u = s.tile u := by rw [State.tile, State.tile, h]

theorem leBytes_getElem (n v j : Nat) (h : j < (leBytes n v).length) : (leBytes n v)[j] = BitVec.ofNat 8 (v / 256 ^ j) := by
  induction n generalizing v j with
  | zero => simp [leBytes] at h
  | succ n ih =>
    cases j with
    | zero => simp [leBytes]
    | succ j =>
      simp only [leBytes, List.getElem_cons_succ]
      rw [ih, Nat.div_div_eq_div_mul, Nat.pow_succ, Nat.mul_comm]

/-- Settles O14: the store is one coherent write at its place. -/
theorem drainedStoreChangesOnlyItsBytes : Obligations.DrainedStoreChangesOnlyItsBytes := by
  intro st s i k e n a v hwf horph hk he hl hown hreg hm hh _ hs
  have hreach : st.reach e.phys.loc = .ok := by rw [hl]; exact if_pos hown
  rw [exec_storeQueueDrain_data horph hk he (by rw [hl]; exact hm) hreach hh, Host.Outcome.next.injEq] at hs
  subst hs
  rw [writePhys_hbm (s := st.modStrand i _) hl hown hreg]
  refine ⟨fun b hb => ?outside, fun j hj => ?inside, fun u => ?tmem, fun r => ?xr⟩
  case outside => exact writeMem_outside none a b _ (s := st.modStrand i _) hwf (by rwa [leBytes_length])
  case inside =>
    rw [writeMem_mem]
    exact (Mem.get_write_inside hwf a j _ (by rwa [leBytes_length])).trans (leBytes_getElem ..)
  case tmem => rw [State.tile_of_tiles (writeMem_tiles ..)]; rfl
  case xr =>
    rw [State.xr, ← Strand.xr_unlinked, unlinked_writeMem, State.strand_modStrand_self]
    rfl

end Sys2Proof.Machine
end

section
/-! PROOF. What translations and scalar accesses leave unchanged (R107, R108, R113, R156, R237, R252, R398). -/

namespace Sys2Proof.Machine

open Sys2Proof

/-! ### A walk does not depend on the counters (R398, R417) -/

/-- Two states that agree in everything that a read of memory or of a register block can show. -/
structure SameReads (s f : State) : Prop where
  mem    : f.mem = s.mem
  poison : f.poison = s.poison
  now    : f.now = s.now
  dev    : f.dev = s.dev
  port   : ∀ t, (f.tile t).port = (s.tile t).port
  power  : ∀ t, (f.tile t).power = (s.tile t).power
  trace  : ∀ q, (f.quad q).trace = (s.quad q).trace
  lattol : ∀ q, (f.quad q).lattol = (s.quad q).lattol
  map    : ∀ q, (f.quad q).tilemap = (s.quad q).tilemap

section
variable {s f : State} (h : SameReads s f)
include h

theorem SameReads.own (a : Nat) : f.own a = s.own a := by rw [State.own, State.own, h.dev]

theorem SameReads.reach (l : Loc) : f.reach l = s.reach l := by
  cases l with
  | tmem t o => rfl
  | mem a => simp only [State.reach, h.own, h.dev]

theorem SameReads.enabled (t : TileId) : f.enabled t = s.enabled t := by rw [State.enabled, State.enabled, h.map]

theorem SameReads.readQuadReg (q : BitVec 2) (o : Nat) : readQuadReg q o f = readQuadReg q o s := by
  simp only [Machine.readQuadReg, State.pwrstat, State.inPower, h.enabled, h.port, h.power, h.trace, h.lattol]

theorem SameReads.readDevReg (o : Nat) : readDevReg o f = readDevReg o s := by
  simp only [Machine.readDevReg, h.dev, h.now]

theorem SameReads.readReg (r : Region) (n : Nat) : readReg r n f = readReg r n s := by
  cases r <;> simp only [Machine.readReg, h.readQuadReg, h.readDevReg]

theorem SameReads.poisoned (l : Loc) (n : Nat) : f.poisoned l n = s.poisoned l n := by rw [State.poisoned, State.poisoned, h.poison]

theorem SameReads.readPhys_mem {p : Phys} {a : Nat} (hl : p.loc = .mem a) (n : Nat) : readPhys p n f = readPhys p n s := by
  simp only [readPhys, hl, h.reach, h.own, h.readReg, h.poisoned, h.mem]

theorem SameReads.readEntry (acc : Access) (va : Addr) (ea lvl : Nat) : readEntry acc va ea lvl f = readEntry acc va ea lvl s := by
  rw [Machine.readEntry, Machine.readEntry, h.reach, h.readPhys_mem rfl]

theorem SameReads.walk (acc : Access) (va : Addr) (n table lvl : Nat) : walk acc va f n table lvl = walk acc va s n table lvl := by
  induction n generalizing table lvl with
  | zero => rfl
  | succ n ih => simp only [Machine.walk, h.readEntry, ih]

end

/-! ### Counted misses (R417) -/

/-- Two states that differ in counters alone. -/
structure CountsDiffer (s f : State) : Prop where
  tile : ∀ t, { f.tile t with counts := (s.tile t).counts } = s.tile t
  quad : ∀ q, { f.quad q with counts := (s.quad q).counts } = s.quad q
  rest : { f with tiles := s.tiles, quads := s.quads } = s

theorem CountsDiffer.refl (s : State) : CountsDiffer s s := ⟨fun _ => rfl, fun _ => rfl, rfl⟩

theorem CountsDiffer.modTile {s f : State} (h : CountsDiffer s f) (t : TileId) {g : Tile → Tile} (hg : ∀ v, { g v with counts := v.counts } = v) :
    CountsDiffer s (f.modTile t g) := by
  refine ⟨fun u => ?_, h.quad, h.rest⟩
  rw [State.tile_modTile]
  split
  · subst_vars
    have := congrArg (fun v : Tile => { v with counts := (s.tile u).counts }) (hg (f.tile u))
    exact this.trans (h.tile u)
  · exact h.tile u

theorem CountsDiffer.modQuad {s f : State} (h : CountsDiffer s f) (q : BitVec 2) {g : Quad → Quad} (hg : ∀ v, { g v with counts := v.counts } = v) :
    CountsDiffer s (f.modQuad q g) := by
  refine ⟨h.tile, fun r => ?_, h.rest⟩
  by_cases hr : r = q
  · subst hr
    rw [State.quad_modQuad_self]
    have := congrArg (fun v : Quad => { v with counts := (s.quad r).counts }) (hg (f.quad r))
    exact this.trans (h.quad r)
  · rw [State.quad_modQuad_ne _ _ hr]
    exact h.quad r

/-- A miss counted at the tile of a core. -/
def countTileMiss (c : CoreId) (missed : Bool) (s : State) : State :=
  match c with
  | .tile t => if missed then s.modTile t fun v => { v with counts := v.counts.set 8 (v.counts[8] + 1) } else s
  | .control _ => s

theorem countMiss_eq (c : CoreId) (a b : Bool) (s : State) : countMiss c a b s =
    if b then (countTileMiss c a s).modQuad (coreQuad c) fun q => { q with counts := (q.counts.set 1 (q.counts[1] + 1)).set 2 (q.counts[2] + 1) }
    else countTileMiss c a s := rfl

theorem countTileMiss_countsDiffer (c : CoreId) (a : Bool) (s : State) : CountsDiffer s (countTileMiss c a s) := by
  unfold countTileMiss
  split
  · split
    · exact (CountsDiffer.refl s).modTile _ fun _ => rfl
    · exact .refl s
  · exact .refl s

theorem countMiss_countsDiffer (c : CoreId) (a b : Bool) (s : State) : CountsDiffer s (countMiss c a b s) := by
  rw [countMiss_eq]
  split
  · exact (countTileMiss_countsDiffer c a s).modQuad _ fun _ => rfl
  · exact countTileMiss_countsDiffer c a s

theorem CountsDiffer.sameReads {s f : State} (h : CountsDiffer s f) : SameReads s f where
  mem := (congrArg State.mem h.rest :)
  poison := (congrArg State.poison h.rest :)
  now := (congrArg State.now h.rest :)
  dev := (congrArg State.dev h.rest :)
  port t := (congrArg Tile.port (h.tile t) :)
  power t := (congrArg Tile.power (h.tile t) :)
  trace q := (congrArg Quad.trace (h.quad q) :)
  lattol q := (congrArg Quad.lattol (h.quad q) :)
  map q := (congrArg Quad.tilemap (h.quad q) :)

/-! ### Steps that spare the strands and TMEM -/

/-- Between two states nothing of a strand has changed but its links, and no byte of TMEM. -/
structure Spares (s f : State) : Prop where
  strand : ∀ j, (f.strand j).unlinked = (s.strand j).unlinked
  tmem   : ∀ u, (f.tile u).tmem = (s.tile u).tmem

theorem Spares.refl (s : State) : Spares s s := ⟨fun _ => rfl, fun _ => rfl⟩

theorem Spares.trans {s f g : State} (h : Spares s f) (k : Spares f g) : Spares s g :=
  ⟨fun j => (k.strand j).trans (h.strand j), fun u => (k.tmem u).trans (h.tmem u)⟩

theorem Spares.of_strands_tiles {s f : State} (hs : f.strands = s.strands) (ht : f.tiles = s.tiles) : Spares s f :=
  ⟨fun j => by rw [State.strand_of_strands hs], fun u => by rw [State.tile_of_tiles ht]⟩

theorem CountsDiffer.spares {s f : State} (h : CountsDiffer s f) : Spares s f :=
  ⟨fun j => congrArg Strand.unlinked (State.strand_of_strands (congrArg State.strands h.rest :) j), fun u => (congrArg Tile.tmem (h.tile u) :)⟩

theorem hwWrite_spares (a : Nat) (bs : List Byte) (s : State) : Spares s (hwWrite a bs s) :=
  ⟨fun j => unlinked_hwWrite a bs s j, fun u => by rw [State.tile_of_tiles (hwWrite_tiles a bs s)]⟩

theorem hwWrite_mem (a : Nat) (bs : List Byte) (s : State) : (hwWrite a bs s).mem = s.mem.write a bs := writeMem_mem none a bs s

theorem atHome_spares (l : Loc) (s : State) : Spares s (atHome l s) := by
  refine .of_strands_tiles (atHome_strands l s) ?_
  unfold atHome
  split
  · rfl
  · split
    · rfl
    · simp [writeBack]

theorem unshareAt_spares (l : Loc) (s : State) : Spares s (unshareAt l s) := by
  cases l with
  | tmem t o => exact .refl s
  | mem a => exact .of_strands_tiles (unshareLine_strands ..) (unshareLine_tiles ..)

@[simp] theorem unshareAt_mem (l : Loc) (s : State) : (unshareAt l s).mem = s.mem := by
  cases l with
  | tmem t o => rfl
  | mem a => exact unshareLine_mem ..

/-! ### Translation (R156, R398, R399) -/

/-- What a walk does to the tables: their lines' domains are those of the device, and the leaf is marked (R271, R398). -/
def markTables (c : CtxEntry) (acc : Access) (va : Addr) (e : BitVec 128) (ea : Nat) (s : State) : State :=
  let u := (walkEntries acc va s 5 (c.root.toNat * 2 ^ 17) 0).foldl (fun s a => untranslated a 16 s) s
  if markLeaf e acc = e || !(regionOf (localOf ea)).storage then u else hwWrite ea (leBytes 16 (markLeaf e acc).toNat) u

/-- A translation enters the TLBs of its core and its quadrant (R400). -/
def enterTlbs (x : Xl) (h : TlbEntry) (s : State) : State :=
  let (w, s) := s.fresh
  let s := s.modQuad (coreQuad x.core) fun q => { q with tlb := tlbPut 16384 h w q.tlb }
  let (w, s) := s.fresh
  match x.core with
  | .tile t => s.modTile t fun v => { v with tlb := tlbPut 64 h w v.tlb }
  | .control _ => s

theorem walkFill_ok {x : Xl} {c : CtxEntry} {acc : Access} {va : Addr} {s f : State} {h : TlbEntry} (hf : walkFill x c acc va s = .ok (h, f)) :
    ∃ e lvl ea, walk acc va s 5 (c.root.toNat * 2 ^ 17) 0 = .ok (e, lvl, ea) ∧ f = enterTlbs x h (markTables c acc va e ea s) := by
  unfold walkFill at hf
  split at hf
  · cases hf
  · next e lvl ea hw =>
    split at hf
    · cases hf
    · cases hf
      exact ⟨e, lvl, ea, hw, rfl⟩

theorem enterTlbs_spares (x : Xl) (h : TlbEntry) (s : State) : Spares s (enterTlbs x h s) := by
  unfold enterTlbs
  dsimp only
  split
  · refine ⟨fun j => rfl, fun u => ?_⟩
    rw [State.tile_modTile]
    split
    · subst_vars
      rfl
    · rfl
  · exact ⟨fun j => rfl, fun u => rfl⟩

theorem enterTlbs_mem (x : Xl) (h : TlbEntry) (s : State) : (enterTlbs x h s).mem = s.mem := by
  unfold enterTlbs
  dsimp only
  split <;> rfl

theorem foldl_untranslated_spares (l : List Nat) (n : Nat) (s : State) : Spares s (l.foldl (fun s a => untranslated a n s) s) :=
  .of_strands_tiles (foldl_keeps State.strands (f := fun s a => untranslated a n s) (fun _ _ => rfl) l s)
    (foldl_keeps State.tiles (f := fun s a => untranslated a n s) (fun _ _ => rfl) l s)

theorem foldl_untranslated_mem (l : List Nat) (n : Nat) (s : State) : (l.foldl (fun s a => untranslated a n s) s).mem = s.mem :=
  foldl_keeps State.mem (f := fun s a => untranslated a n s) (fun _ _ => rfl) l s

theorem markTables_spares (c : CtxEntry) (acc : Access) (va : Addr) (e : BitVec 128) (ea : Nat) (s : State) :
    Spares s (markTables c acc va e ea s) := by
  unfold markTables
  dsimp only
  split
  · exact foldl_untranslated_spares ..
  · exact (foldl_untranslated_spares ..).trans (hwWrite_spares ..)

/-- Of memory a walk changes the 16 bytes of its leaf at most. -/
theorem markTables_outside (c : CtxEntry) (acc : Access) (va : Addr) (e : BitVec 128) {ea k : Nat} {s : State} (hwf : s.mem.wf = true)
    (hk : k < ea ∨ ea + 16 ≤ k) : (markTables c acc va e ea s).mem.get k = s.mem.get k := by
  unfold markTables
  dsimp only
  split
  · rw [foldl_untranslated_mem]
  · rw [hwWrite_mem, foldl_untranslated_mem, Mem.get_write_outside hwf _ _ _ (by rwa [leBytes_length])]

theorem leafFrame_state (h : TlbEntry) (s : State) : (leafFrame h s).2 = s ∨ (leafFrame h s).2 = s.fresh.2 := by
  unfold leafFrame
  dsimp only
  split
  · exact .inl rfl
  · exact .inr rfl

/-- Finishing a translation by a held leaf takes a free value at most. -/
theorem leafPhys_state {lvl : Level} {acc : Access} {va : Addr} {h : TlbEntry} {s f : State} {p : Phys} (hp : leafPhys lvl acc va h s = .ok (p, f)) :
    f = s ∨ f = s.fresh.2 := by
  unfold leafPhys at hp
  dsimp only at hp
  split at hp
  · cases hp
  · revert hp
    generalize mapChecks .. = r
    intro hp
    cases r with
    | error e => cases hp
    | ok a =>
      have hf : (leafFrame h s).2 = f := (Prod.ext_iff.mp (Except.ok.inj hp)).2
      rw [← hf]
      exact leafFrame_state h s

theorem leafPhys_keeps {lvl : Level} {acc : Access} {va : Addr} {h : TlbEntry} {s f : State} {p : Phys} (hp : leafPhys lvl acc va h s = .ok (p, f)) :
    Spares s f ∧ f.mem = s.mem := by
  obtain rfl | rfl := leafPhys_state hp
  · exact ⟨.refl _, rfl⟩
  · exact ⟨.of_strands_tiles rfl rfl, rfl⟩

theorem noteDomain_keeps (p : Phys) (s : State) : Spares s (noteDomain p s) ∧ (noteDomain p s).mem = s.mem := by
  unfold noteDomain
  split
  · exact ⟨.refl s, rfl⟩
  · split
    · exact ⟨.refl s, rfl⟩
    · exact ⟨.of_strands_tiles rfl rfl, rfl⟩

/-- The leaf entry whose marking may change memory: that of the walk for an address that no TLB serves. -/
def MarksLeaf (x : Xl) (va : Addr) (acc : Access) (s : State) (k : Nat) : Prop :=
  inWindow va = false ∧ x.level ≠ .M ∧
    ∃ (c : CtxEntry) (e : BitVec 128) (lvl ea : Nat), x.ctx = some c ∧ (s.tlbFind x c acc va).1 = none ∧
      walk acc va s 5 (c.root.toNat * 2 ^ 17) 0 = .ok (e, lvl, ea) ∧ ea ≤ k ∧ k < ea + 16

/-- What a walk and a fill leave of a state in which a miss has been counted. -/
theorem walkFill_keeps {x : Xl} {c : CtxEntry} {acc : Access} {va : Addr} {s u f : State} {h : TlbEntry} (hu : CountsDiffer s u)
    (hf : walkFill x c acc va u = .ok (h, f)) :
    Spares s f ∧ ∃ e lvl ea, walk acc va s 5 (c.root.toNat * 2 ^ 17) 0 = .ok (e, lvl, ea) ∧
      (s.mem.wf = true → ∀ k, k < ea ∨ ea + 16 ≤ k → f.mem.get k = s.mem.get k) := by
  obtain ⟨e, lvl, ea, hw, rfl⟩ := walkFill_ok hf
  rw [hu.sameReads.walk] at hw
  refine ⟨hu.spares.trans ((markTables_spares c acc va e ea u).trans (enterTlbs_spares ..)), e, lvl, ea, hw, fun hwf k hk => ?_⟩
  rw [enterTlbs_mem, markTables_outside c acc va e (by rwa [hu.sameReads.mem]) hk, hu.sameReads.mem]

/-- A translation spares the strands and TMEM, and marks its leaf at most. -/
def TranslationKeeps (x : Xl) (va : Addr) (acc : Access) (s f : State) : Prop :=
  Spares s f ∧ (s.mem.wf = true → ∀ k, f.mem.get k ≠ s.mem.get k → MarksLeaf x va acc s k)

theorem TranslationKeeps.of_mem {x : Xl} {va : Addr} {acc : Access} {s f : State} (hs : Spares s f) (hm : f.mem = s.mem) :
    TranslationKeeps x va acc s f := ⟨hs, fun _ k hk => absurd (by rw [hm]) hk⟩

theorem TranslationKeeps.of_map {x : Xl} {va : Addr} {acc : Access} {s f : State} {p : Phys} {r : Except Flt Phys} (hr : r.map (·, s) = .ok (p, f)) :
    TranslationKeeps x va acc s f := by
  cases r with
  | error e => cases hr
  | ok a =>
    cases hr
    exact .of_mem (.refl _) rfl

theorem resolve_keeps {x : Xl} {va : Addr} {acc : Access} {s f : State} {p : Phys} (h : resolve x va acc s = .ok (p, f)) :
    TranslationKeeps x va acc s f := by
  unfold resolve at h
  split at h
  · exact .of_map h
  next hwin =>
  split at h
  · exact .of_map h
  next hm =>
  split at h
  · cases h
  next c hc =>
  split at h
  · cases h
  dsimp only at h
  split at h
  · obtain ⟨hs, hmem⟩ := leafPhys_keeps h
    have hcount := countMiss_countsDiffer x.core (s.tlbFind x c acc va).2 false s
    exact .of_mem (hcount.spares.trans hs) (hmem.trans hcount.sameReads.mem)
  next hfind =>
  split at h
  · cases h
  next g u hu =>
    obtain ⟨hs, hmem⟩ := leafPhys_keeps h
    obtain ⟨hw, e, lvl, ea, hwalk, hout⟩ := walkFill_keeps (countMiss_countsDiffer x.core true true s) hu
    refine ⟨hw.trans hs, fun hwf k hk => ⟨by simpa using hwin, hm, c, e, lvl, ea, hc, hfind, hwalk, ?_⟩⟩
    by_contra hlt
    exact hk (by rw [hmem, hout hwf k (by omega)])

theorem translate_keeps {x : Xl} {va : Addr} {acc : Access} {s f : State} {p : Phys} (h : translate x va acc s = .ok (p, f)) :
    TranslationKeeps x va acc s f := by
  unfold translate at h
  split at h
  · cases h
  next q u hu =>
    cases h
    obtain ⟨hs, hmem⟩ := resolve_keeps hu
    obtain ⟨hn, hd⟩ := noteDomain_keeps p u
    exact ⟨hs.trans hn, fun hwf k hk => hmem hwf k (by rwa [hd] at hk)⟩

end Sys2Proof.Machine
end

section
/-! PROOF. What scalar accesses leave unchanged at issue (R107, R108, R113, R237, R252). -/

namespace Sys2Proof.Machine

open Sys2Proof

/-! ### What of a strand a scalar access keeps -/

/-- A strand with another strand's fields in all that a scalar access can change at issue. -/
def accessFields (t u : Strand) : Strand :=
  { u with
      x := t.x, pc := t.pc, status := t.status, issued := t.issued, stores := t.stores, lates := t.lates, ctx := t.ctx,
      links := t.links, loose := t.loose }

/-- One strand differs from another in one x register at most, and in what else a scalar access changes at issue. -/
def Keeps (w : Option (BitVec 5)) (t u : Strand) : Prop := (∀ r, some r ≠ w → u.xr r = t.xr r) ∧ accessFields t u = t

/-- A strand that differs in no register. -/
theorem Keeps.of_x {w : Option (BitVec 5)} {t u : Strand} (hx : u.x = t.x) (h : accessFields t u = t) : Keeps w t u :=
  ⟨fun r _ => by rw [Strand.xr, Strand.xr, hx], h⟩

theorem Keeps.refl (w : Option (BitVec 5)) (t : Strand) : Keeps w t t := .of_x rfl rfl

theorem Keeps.trans {w : Option (BitVec 5)} {t u v : Strand} (h : Keeps w t u) (k : Keeps w u v) : Keeps w t v := by
  obtain ⟨hx, hr⟩ := h
  obtain ⟨kx, kr⟩ := k
  refine ⟨fun r hne => (kx r hne).trans (hx r hne), ?_⟩
  have hv : accessFields t v = accessFields t (accessFields u v) := rfl
  rw [hv, kr, hr]

theorem Keeps.any {w : Option (BitVec 5)} {t u : Strand} (h : Keeps none t u) : Keeps w t u := ⟨fun r _ => h.1 r nofun, h.2⟩

theorem Keeps.of_unlinked {w : Option (BitVec 5)} {t u : Strand} (h : u.unlinked = t.unlinked) : Keeps w t u :=
  ⟨fun r _ => by rw [← Strand.xr_unlinked, h, Strand.xr_unlinked], (congrArg (accessFields t) h :)⟩

theorem Keeps.setX (t : Strand) (d : BitVec 5) (v : Word) : Keeps (some d) t (t.setX d v) := by
  refine ⟨fun r hr => ?_, ?_⟩
  · rw [Strand.xr_setX, if_neg fun h => hr (congrArg some h.1)]
  · unfold Strand.setX
    split <;> rfl

theorem Keeps.modStrand {w : Option (BitVec 5)} {t : Strand} {i : StrandId} {s : State} {g : Strand → Strand} (h : Keeps w t (s.strand i))
    (hg : ∀ u, Keeps w u (g u)) : Keeps w t ((s.modStrand i g).strand i) := by
  rw [State.strand_modStrand_self]
  exact h.trans (hg _)

/-! ### The place that an access finds -/

theorem strandXl_keeps (i : StrandId) (s : State) : Keeps none (s.strand i) ((strandXl i s).2.strand i) := by
  unfold strandXl
  dsimp only
  split
  · exact .refl ..
  · exact .refl ..
  · split
    · exact .refl ..
    · show Keeps none _ ((s.setStrand i _).strand i)
      rw [State.strand_setStrand_self]
      exact .of_x rfl rfl

theorem orTrap_ok {α : Type} {t : Strand} {r : Except Flt α} {v : α} (h : orTrap t r = .ok v) : r = .ok v := by
  cases r with
  | error f => cases h
  | ok a => exact congrArg Except.ok (Except.ok.inj h)

/-- The issue and the translation of an access change no register of its strand. -/
theorem Finds.keeps {st s : State} {i : StrandId} {len : Nat} {ea : Addr} {acc : Access} {p : Phys} (h : Finds st i len ea acc p s) :
    Keeps none (st.strand i) (s.strand i) := by
  have ht : translate (strandXl i (advance i len st)).1 ea acc (strandXl i (advance i len st)).2 = .ok (p, s) := orTrap_ok h
  have hadv : Keeps none (st.strand i) ((advance i len st).strand i) := by
    rw [advance_strand, if_pos rfl]
    exact .of_x rfl rfl
  exact (hadv.trans (strandXl_keeps ..)).trans (.of_unlinked ((translate_keeps ht).1.strand i))

/-- An access that has issued has acted at the place it found. -/
theorem scalarAccess_acts {st s f : State} {i : StrandId} {len size : Nat} {stall : Strand → Bool} {ea : Strand → Addr} {acc : Access}
    {act : StrandId → Strand → Phys → State → Except Stop State} {p : Phys} (hc : st.cur = .strand i)
    (hf : Finds st i len (ea (st.strand i)) acc p s) (h : scalarAccess len stall ea size acc act st = .next f)
    (hn : (f.strand i).issued = (st.strand i).issued + 1) : act i (st.strand i) p s = .ok f := by
  obtain ⟨j, hj, hcases⟩ := issue_cases h
  obtain rfl : i = j := Agent.strand.inj (hc.symm.trans hj)
  have hl : locate i (st.strand i) (ea (st.strand i)) acc (advance i len st) = .ok (p, s) := hf
  obtain rfl | hok | ⟨k, -, rfl⟩ := hcases
  · exact absurd hn (Nat.succ_ne_self _).symm
  · simp only [hl] at hok
    split at hok
    · cases hok
    · split at hok
      · cases hok
      · exact hok
  · rw [issued_takeTrap, countFault_strand] at hn
    exact absurd hn (Nat.succ_ne_self _).symm

/-! ### Accesses that change no byte -/

/-- No byte of memory and no byte of TMEM differs. -/
def SameBytes (s f : State) : Prop := (∀ k, f.mem.get k = s.mem.get k) ∧ ∀ u k, (f.tile u).tmem.get k = (s.tile u).tmem.get k

theorem SameBytes.of_eq {s f : State} (hm : f.mem = s.mem) (ht : ∀ u, (f.tile u).tmem = (s.tile u).tmem) : SameBytes s f :=
  ⟨fun k => by rw [hm], fun u k => by rw [ht]⟩

/-- What an access at its place changes of its strand and of the bytes, where it writes none. -/
def Quiet (i : StrandId) (w : Option (BitVec 5)) (s f : State) : Prop := Keeps w (s.strand i) (f.strand i) ∧ SameBytes s f

theorem Quiet.refl (i : StrandId) (w : Option (BitVec 5)) (s : State) : Quiet i w s s := ⟨.refl .., .of_eq rfl fun _ => rfl⟩

theorem Quiet.modStrand {i : StrandId} {w : Option (BitVec 5)} {s f : State} {g : Strand → Strand} (h : Quiet i w s f)
    (hg : ∀ u, Keeps w u (g u)) : Quiet i w s (f.modStrand i g) := ⟨h.1.modStrand hg, h.2⟩

theorem Quiet.setX {i : StrandId} {s f : State} {d : BitVec 5} (h : Quiet i (some d) s f) (v : Word) : Quiet i (some d) s (f.setX i d v) :=
  h.modStrand fun u => .setX u d v

theorem Quiet.block {i : StrandId} {w : Option (BitVec 5)} {s f : State} (h : Quiet i w s f) (t : Strand) (k : Wait) :
    Quiet i w s (block i t k f) := h.modStrand fun _ => .of_x rfl rfl

theorem cutRanges_quiet (i : StrandId) (w : Option (BitVec 5)) (self : Option (TileId × Nat)) (b : Bool) (l : Loc) (n : Nat) (s : State) :
    Quiet i w s (cutRanges self b l n s) := by
  cases l <;> exact .refl ..

theorem clearFull_quiet (i : StrandId) (w : Option (BitVec 5)) (t : TileId) (g : Nat) (s : State) : Quiet i w s (clearFull t g s) := by
  refine ⟨.refl .., .of_eq rfl fun u => ?_⟩
  rw [clearFull, State.tile_modTile]
  split
  · subst_vars
    rfl
  · rfl

theorem performAccess_load_state {i : StrandId} {a : LateAccess} {s f : State} {n : Nat} {sx : Bool} {v : Word} (ha : a.kind = .load n sx)
    (h : performAccess i a s = .ok (v, f)) : f = s := by
  simp only [performAccess, ha] at h
  split at h
  · cases h
  · exact (Prod.ext_iff.mp (Except.ok.inj h)).2.symm

/-- What starting an access does: it is left outstanding, or performed where what stands in its way has been cut. -/
theorem startAccess_cases {i : StrandId} {t : Strand} {a : LateAccess} {s f : State} (h : startAccess i t a s = .ok f) :
    f = (s.modStrand i fun t => { t with lates := t.lates ++ [a] }) ∨
    ∃ u v r, (u = s ∨ u = cutRanges none a.kind.writes a.phys.loc a.kind.size s) ∧ performAccess i a u = .ok (v, r) ∧ f = r.setX i a.d v := by
  unfold startAccess at h
  dsimp only at h
  split at h
  · cases h
  · split at h
    · exact .inl (Except.ok.inj h).symm
    · split at h
      · cases h
      next v r hr =>
        refine .inr ⟨_, v, r, ?_, hr, (Except.ok.inj h).symm⟩
        split
        · exact .inr rfl
        · exact .inl rfl

theorem startAccess_load_quiet {i : StrandId} {t : Strand} {a : LateAccess} {s f : State} {n : Nat} {sx : Bool} (ha : a.kind = .load n sx)
    (h : startAccess i t a s = .ok f) : Quiet i (some a.d) s f := by
  obtain rfl | ⟨u, v, r, hu, hp, rfl⟩ := startAccess_cases h
  · exact (Quiet.refl ..).modStrand fun _ => .of_x rfl rfl
  · obtain rfl := performAccess_load_state ha hp
    refine Quiet.setX ?_ v
    obtain rfl | rfl := hu
    · exact .refl ..
    · exact cutRanges_quiet ..

theorem granuleRead_quiet {i : StrandId} {seq off size : Nat} {d : BitVec 5} {t : TileId} {sx clear : Bool} {s f : State}
    (h : granuleRead i seq d t off size sx clear s = .ok f) : Quiet i (some d) s f := by
  unfold granuleRead at h
  split at h
  · cases h
  · cases h
    refine Quiet.setX ?_ _
    split
    · exact clearFull_quiet ..
    · exact .refl ..

theorem locatedAt_ok {α : Type} {ea : Addr} {r : Except Flt α} {v : α} (h : locatedAt ea r = .ok v) : r = .ok v := by
  cases r with
  | error f => cases h
  | ok a => exact congrArg Except.ok (Except.ok.inj h)

theorem loadAt_quiet {d : BitVec 5} {a : BitVec 4} {o : BitVec 12} {size : Nat} {sx : Bool} {q : Qual} {i : StrandId} {t : Strand} {p : Phys}
    {s f : State} (h : loadAt d a o size sx q i t p s = .ok f) : Quiet i (some d) s f := by
  unfold loadAt at h
  dsimp only at h
  split at h
  · exact startAccess_load_quiet rfl h
  · split at h
    · cases h
    · split at h
      · cases h
      · split at h
        · exact granuleRead_quiet (locatedAt_ok (orTrap_ok h))
        · cases h
          exact (Quiet.refl ..).block ..

theorem enqueueStore_quiet {i : StrandId} {t : Strand} {e : StoreEntry} {s f : State} (h : enqueueStore i t e s = .ok f) : Quiet i none s f := by
  unfold enqueueStore at h
  split at h
  · cases h
  · cases h
    exact (Quiet.refl ..).modStrand fun _ => .of_x rfl rfl

theorem waitWord_quiet {t : Strand} {p : Phys} {ea : Addr} {s f : State} {w : Nat} (i : StrandId) (d : Option (BitVec 5))
    (h : waitWord t p ea s = some (.ok (w, f))) : Quiet i d s f := by
  unfold waitWord at h
  split at h
  · cases h
  · split at h
    · cases h
    · dsimp only at h
      split at h
      · cases h
      · cases h
        split
        · exact cutRanges_quiet ..
        · exact .refl ..

theorem barwAt_quiet {d : BitVec 5} {a : BitVec 4} {i : StrandId} {t : Strand} {p : Phys} {s f : State} (h : barwAt d a i t p s = .ok f) :
    Quiet i (some d) s f := by
  unfold barwAt at h
  split at h
  · cases h
  · split at h
    · cases h
    · cases h
    next w u hw =>
      have hq := waitWord_quiet i (some d) hw
      split at h <;> cases h
      · exact hq.setX _
      · exact hq.block ..

theorem waitlineAt_quiet {d x : BitVec 5} {a : BitVec 4} {i : StrandId} {t : Strand} {p : Phys} {s f : State}
    (h : waitlineAt d a x i t p s = .ok f) : Quiet i (some d) s f := by
  unfold waitlineAt at h
  split at h
  · cases h
  · split at h
    · cases h
    · cases h
    next w u hw =>
      have hq := waitWord_quiet i (some d) hw
      split at h <;> cases h
      · exact hq.setX _
      · exact hq.block ..

/-- An access that writes no byte at its place, once it has issued. -/
theorem scalarAccess_quiet {st s f : State} {i : StrandId} {len size : Nat} {stall : Strand → Bool} {ea : Strand → Addr} {acc : Access}
    {act : StrandId → Strand → Phys → State → Except Stop State} {p : Phys} {w : Option (BitVec 5)} (hc : st.cur = .strand i)
    (hact : act i (st.strand i) p s = .ok f → Quiet i w s f) (hf : Finds st i len (ea (st.strand i)) acc p s)
    (h : scalarAccess len stall ea size acc act st = .next f) (hn : (f.strand i).issued = (st.strand i).issued + 1) :
    Keeps w (st.strand i) (f.strand i) ∧ SameBytes s f := by
  obtain ⟨hk, hb⟩ := hact (scalarAccess_acts hc hf h hn)
  exact ⟨(Finds.keeps hf).any.trans hk, hb⟩

/-! ### Accesses that update their place (R237, R252) -/

/-- What an update leaves outside the bytes it addresses, in HBM of this device and in TMEM. -/
def UpdatesOnly (i : StrandId) (w : Option (BitVec 5)) (t : Strand) (p : Phys) (size : Nat) (s f : State) : Prop :=
  (∀ b, p.loc = .mem b → s.own b = true → regionOf (localOf b) = .hbm →
    Keeps w t (f.strand i) ∧ (∀ k, k < b ∨ b + size ≤ k → f.mem.get k = s.mem.get k) ∧
      ∀ u k, (f.tile u).tmem.get k = (s.tile u).tmem.get k) ∧
  ∀ u b, p.loc = .tmem u b →
    Keeps w t (f.strand i) ∧ (∀ k, f.mem.get k = s.mem.get k) ∧
      ∀ v k, v ≠ u ∨ k < b ∨ b + size ≤ k → (f.tile v).tmem.get k = (s.tile v).tmem.get k

theorem UpdatesOnly.of_quiet {i : StrandId} {w : Option (BitVec 5)} {t : Strand} {p : Phys} {size : Nat} {s f : State}
    (ht : Keeps w t (s.strand i)) (h : Quiet i w s f) : UpdatesOnly i w t p size s f := by
  obtain ⟨hk, hm, hu⟩ := h
  exact ⟨fun _ _ _ _ => ⟨ht.trans hk, fun k _ => hm k, hu⟩, fun _ _ _ => ⟨ht.trans hk, hm, fun v k _ => hu v k⟩⟩

theorem amGet_mem {κ ν : Type} [DecidableEq κ] {k : κ} {v : ν} {l : List (κ × ν)} (h : amGet k l = some v) : (k, v) ∈ l := by
  induction l with
  | nil => cases h
  | cons p r ih =>
    obtain ⟨k', v'⟩ := p
    rw [amGet] at h
    split at h
    · cases h
      subst_vars
      exact List.mem_cons_self
    · exact List.mem_cons_of_mem _ (ih h)

theorem StorageOk.tmem {s : State} (h : StorageOk s) (u : TileId) : (s.tile u).tmem.wf = true := by
  rw [State.tile]
  cases hu : amGet u s.tiles with
  | none => rfl
  | some v => exact (h.2 _ (amGet_mem hu)).1

/-- The two things an update does at its place: it writes its bytes, or (a failed compare-and-swap) takes its line alone. -/
def UpdatedAt (p : Phys) (size : Nat) (s f : State) : Prop :=
  (∃ bs : List Byte, bs.length = size ∧ f = atHome p.loc (writePhys none p bs s)) ∨ f = atHome p.loc (unshareAt p.loc s)

theorem performAccess_updates {i : StrandId} {a : LateAccess} {s f : State} {v : Word} (ha : a.kind.writes = true)
    (h : performAccess i a s = .ok (v, f)) : UpdatedAt a.phys a.kind.size s f := by
  unfold performAccess at h
  split at h
  next hk => rw [hk] at ha; cases ha
  next op n x d hk =>
    rw [hk]
    unfold atomicUpdate at h
    split at h
    · cases h
    next old u hu =>
      cases h
      split at hu
      · cases hu
      · cases hu
        split
        · exact .inr rfl
        · exact .inl ⟨_, leBytes_length .., rfl⟩
  next hk =>
    rw [hk]
    split at h
    · cases h
    · split at h
      · cases h
      · cases h
        exact .inl ⟨_, leBytes_length .., rfl⟩

theorem Quiet.of_spares {i : StrandId} {w : Option (BitVec 5)} {s f : State} (h : Spares s f) (hm : f.mem = s.mem) : Quiet i w s f :=
  ⟨.of_unlinked (h.strand i), .of_eq hm h.tmem⟩

theorem Quiet.trans {i : StrandId} {w : Option (BitVec 5)} {s f g : State} (h : Quiet i w s f) (k : Quiet i w f g) : Quiet i w s g := by
  obtain ⟨hk, hm, ht⟩ := h
  obtain ⟨kk, km, kt⟩ := k
  exact ⟨hk.trans kk, fun a => (km a).trans (hm a), fun u a => (kt u a).trans (ht u a)⟩

theorem atHome_quiet (i : StrandId) (w : Option (BitVec 5)) (l : Loc) (s : State) : Quiet i w s (atHome l s) :=
  .of_spares (atHome_spares l s) (atHome_mem l s)

/-- What follows an update at its place without changing a byte changes no more than the update. -/
theorem UpdatesOnly.quiet {i : StrandId} {w : Option (BitVec 5)} {t : Strand} {p : Phys} {size : Nat} {s f g : State}
    (h : UpdatesOnly i w t p size s f) (k : Quiet i w f g) : UpdatesOnly i w t p size s g := by
  obtain ⟨kk, km, kt⟩ := k
  obtain ⟨hmem, htmem⟩ := h
  refine ⟨fun b hl ho hr => ?_, fun u b hl => ?_⟩
  · obtain ⟨hk, hm, ht⟩ := hmem b hl ho hr
    exact ⟨hk.trans kk, fun a ha => (km a).trans (hm a ha), fun u a => (kt u a).trans (ht u a)⟩
  · obtain ⟨hk, hm, ht⟩ := htmem u b hl
    exact ⟨hk.trans kk, fun a => (km a).trans (hm a), fun v a ha => (kt v a).trans (ht v a ha)⟩

theorem writePhys_updatesOnly {i : StrandId} {w : Option (BitVec 5)} {t : Strand} {p : Phys} {bs : List Byte} {s : State} (hs : StorageOk s)
    (ht : Keeps w t (s.strand i)) : UpdatesOnly i w t p bs.length s (writePhys none p bs s) := by
  refine ⟨fun b hl ho hr => ?_, fun u b hl => ?_⟩
  · rw [writePhys_hbm hl ho hr]
    refine ⟨ht.trans (.of_unlinked (unlinked_writeMem ..)), fun k hk => writeMem_outside none b k bs hs.1 hk, fun u k => ?_⟩
    rw [State.tile_of_tiles (writeMem_tiles ..)]
  · rw [writePhys_tmem hl]
    refine ⟨ht.trans (.of_unlinked (unlinked_writeTmem ..)), fun k => by rw [writeTmem_mem], fun v k hk => ?_⟩
    rw [writeTmem_tile]
    split
    · subst_vars
      exact Mem.get_write_outside (StorageOk.tmem hs _) b k bs (hk.resolve_left fun h => h rfl)
    · rfl

theorem UpdatedAt.updatesOnly {i : StrandId} {w : Option (BitVec 5)} {t : Strand} {p : Phys} {size : Nat} {s f : State} (h : UpdatedAt p size s f)
    (hs : StorageOk s) (ht : Keeps w t (s.strand i)) : UpdatesOnly i w t p size s f := by
  obtain ⟨bs, rfl, rfl⟩ | rfl := h
  · exact (writePhys_updatesOnly hs ht).quiet (atHome_quiet ..)
  · exact .of_quiet ht (.trans (.of_spares (unshareAt_spares ..) (unshareAt_mem ..)) (atHome_quiet ..))

theorem startAccess_updatesOnly {i : StrandId} {t u : Strand} {a : LateAccess} {s f : State} (ha : a.kind.writes = true) (hs : StorageOk s)
    (ht : Keeps (some a.d) u (s.strand i)) (h : startAccess i t a s = .ok f) : UpdatesOnly i (some a.d) u a.phys a.kind.size s f := by
  obtain rfl | ⟨r, v, r', hr, hp, rfl⟩ := startAccess_cases h
  · exact .of_quiet ht ((Quiet.refl ..).modStrand fun _ => .of_x rfl rfl)
  · have hup := performAccess_updates ha hp
    have hset : Quiet i (some a.d) r' (r'.setX i a.d v) := (Quiet.refl ..).setX v
    obtain rfl | rfl := hr
    · exact (hup.updatesOnly hs ht).quiet hset
    · cases hl : a.phys.loc <;> rw [hl] at hup <;> exact (UpdatedAt.updatesOnly hup hs ht).quiet hset

theorem atomicAt_updatesOnly {op : AmoOp} {size : Nat} {d x : BitVec 5} {a : BitVec 4} {q : Qual} {i : StrandId} {t u : Strand} {p : Phys}
    {s f : State} (hs : StorageOk s) (ht : Keeps (some d) u (s.strand i)) (h : atomicAt op size d a x q i t p s = .ok f) :
    UpdatesOnly i (some d) u p size s f := by
  unfold atomicAt at h
  split at h
  · cases h
  · exact startAccess_updatesOnly rfl hs ht h

theorem baraAt_updatesOnly {d : BitVec 5} {a : BitVec 4} {c : BitVec 3} {i : StrandId} {t u : Strand} {p : Phys} {s f : State} (hs : StorageOk s)
    (ht : Keeps (some d) u (s.strand i)) (h : baraAt d a c i t p s = .ok f) : UpdatesOnly i (some d) u p 8 s f := by
  unfold baraAt at h
  split at h
  · cases h
  · exact startAccess_updatesOnly rfl hs ht h

/-! ### The instructions -/

section
variable {st s f : State} {i : StrandId} {d x : BitVec 5} {a : BitVec 4} {q : Qual} {p : Phys} (hc : st.cur = .strand i)
include hc

theorem load_keeps {o : BitVec 12} (len size : Nat) (sx : Bool) (q : Qual) (hf : Finds st i len (offsetEa a o size (st.strand i)) .read p s)
    (h : load len d a o size sx q st = .next f) (hn : (f.strand i).issued = (st.strand i).issued + 1) :
    Keeps (some d) (st.strand i) (f.strand i) ∧ SameBytes s f := by
  rw [load_eq] at h
  exact scalarAccess_quiet hc loadAt_quiet hf h hn

theorem store_keeps {o : BitVec 12} (len size : Nat) (q : Qual) (hf : Finds st i len (offsetEa a o size (st.strand i)) .write p s)
    (h : store len d a o size q st = .next f) (hn : (f.strand i).issued = (st.strand i).issued + 1) :
    Keeps none (st.strand i) (f.strand i) ∧ SameBytes s f := by
  rw [store_eq] at h
  exact scalarAccess_quiet hc enqueueStore_quiet hf h hn

theorem atomic_keeps (len size : Nat) (op : AmoOp) (q : Qual) (hf : Finds st i len ((st.strand i).ar a) .write p s)
    (h : atomic len op size d a x q st = .next f) (hn : (f.strand i).issued = (st.strand i).issued + 1) (hs : StorageOk s) :
    UpdatesOnly i (some d) (st.strand i) p size s f := by
  rw [atomic_eq] at h
  exact atomicAt_updatesOnly hs (Finds.keeps hf).any (scalarAccess_acts hc hf h hn)

theorem bara_keeps (c : BitVec 3) (hf : Finds st i 4 ((st.strand i).ar a) .write p s) (h : execBara d a c st = .next f)
    (hn : (f.strand i).issued = (st.strand i).issued + 1) (hs : StorageOk s) : UpdatesOnly i (some d) (st.strand i) p 8 s f := by
  rw [execBara_eq] at h
  exact baraAt_updatesOnly hs (Finds.keeps hf).any (scalarAccess_acts hc hf h hn)

theorem barw_keeps (c : BitVec 3) (hf : Finds st i 4 ((st.strand i).ar a) .read p s) (h : execBarw d a c st = .next f)
    (hn : (f.strand i).issued = (st.strand i).issued + 1) : Keeps (some d) (st.strand i) (f.strand i) ∧ SameBytes s f := by
  rw [execBarw_eq] at h
  exact scalarAccess_quiet hc barwAt_quiet hf h hn

theorem waitline_keeps (hf : Finds st i 4 ((st.strand i).ar a) .read p s) (h : execWaitline d a x st = .next f)
    (hn : (f.strand i).issued = (st.strand i).issued + 1) : Keeps (some d) (st.strand i) (f.strand i) ∧ SameBytes s f := by
  rw [execWaitline_eq] at h
  exact scalarAccess_quiet hc waitlineAt_quiet hf h hn

end

/-- A strand that differs in its links alone, as the statement writes it. -/
theorem links_of_unlinked {t u : Strand} (h : u.unlinked = t.unlinked) : { u with links := t.links, loose := t.loose } = t :=
  (congrArg (fun r : Strand => { r with links := t.links, loose := t.loose }) h :)

/-- Settles O59: a translation spares all but its leaf, and an access changes what its act at the place found changes. -/
theorem accessesChangeOnlyWhatTheyAddress : Obligations.AccessesChangeOnlyWhatTheyAddress := by
  refine ⟨fun v va acc s f p hwf h => ?translations, fun st i d x a o q hc => ?accesses⟩
  case translations =>
    obtain ⟨⟨hstrand, htmem⟩, hmem⟩ := translate_keeps h
    exact ⟨fun j => links_of_unlinked (hstrand j), fun u k => by rw [htmem], hmem hwf⟩
  case accesses =>
    intro t off keeps reads queues updates
    have hload (len size : Nat) (sx : Bool) (q : Qual) (p : Phys) (s f : State) :=
      load_keeps (d := d) (a := a) (o := o) (p := p) (s := s) (f := f) hc len size sx q
    have hstore (len size : Nat) (q : Qual) (p : Phys) (s f : State) :=
      store_keeps (d := d) (a := a) (o := o) (p := p) (s := s) (f := f) hc len size q
    have hamo (len size : Nat) (op : AmoOp) (q : Qual) (p : Phys) (s f : State) :=
      atomic_keeps (d := d) (x := x) (a := a) (p := p) (s := s) (f := f) hc len size op q
    exact ⟨hload 4 1 true plainQual, hload 8 1 true q, hload 4 1 false plainQual, hload 8 1 false q,
      hload 4 2 true plainQual, hload 8 2 true q, hload 4 2 false plainQual, hload 8 2 false q,
      hload 4 4 true plainQual, hload 8 4 true q, hload 4 4 false plainQual, hload 8 4 false q,
      hload 4 8 false plainQual, hload 8 8 false q,
      hstore 4 1 plainQual, hstore 8 1 q, hstore 4 2 plainQual, hstore 8 2 q,
      hstore 4 4 plainQual, hstore 8 4 q, hstore 4 8 plainQual, hstore 8 8 q,
      hamo 4 8 .add plainQual, hamo 8 8 .add q, hamo 4 4 .add plainQual, hamo 8 4 .add q,
      hamo 4 8 .and plainQual, hamo 8 8 .and q, hamo 4 4 .and plainQual, hamo 8 4 .and q,
      hamo 4 8 .or plainQual, hamo 8 8 .or q, hamo 4 4 .or plainQual, hamo 8 4 .or q,
      hamo 4 8 .xor plainQual, hamo 8 8 .xor q, hamo 4 4 .xor plainQual, hamo 8 4 .xor q,
      hamo 4 8 .min plainQual, hamo 8 8 .min q, hamo 4 4 .min plainQual, hamo 8 4 .min q,
      hamo 4 8 .max plainQual, hamo 8 8 .max q, hamo 4 4 .max plainQual, hamo 8 4 .max q,
      hamo 4 8 .minu plainQual, hamo 8 8 .minu q, hamo 4 4 .minu plainQual, hamo 8 4 .minu q,
      hamo 4 8 .maxu plainQual, hamo 8 8 .maxu q, hamo 4 4 .maxu plainQual, hamo 8 4 .maxu q,
      hamo 4 8 .swap plainQual, hamo 8 8 .swap q, hamo 4 4 .swap plainQual, hamo 8 4 .swap q,
      hamo 4 8 .cas plainQual, hamo 8 8 .cas q, hamo 4 4 .cas plainQual, hamo 8 4 .cas q,
      fun c => ⟨fun p s f => bara_keeps hc c, fun p s f => barw_keeps hc c⟩, fun p s f => waitline_keeps hc⟩

end Sys2Proof.Machine
end

section
/-! PROOF. YIELD, EXIT, the TLB invalidations and LEAVE (R112, R115, R282, R401, R403). -/

namespace Sys2Proof.Machine

open Sys2Proof

/-! ### YIELD (R112) -/

/-- What YIELD does where the core does not issue round-robin: the newest stamp, and no strand greedy. -/
def yielded (i : StrandId) (s : State) : State :=
  ((newStamp i.core s).2.modStrand i fun t => { t with age := (newStamp i.core s).1 }).modCore i.core fun k => { k with greedy := none }

section
variable {st : State} {i : StrandId} (hi : MayIssue st i)
include hi

theorem execYield_roundRobin (hr : (advance i 4 st).roundRobin i.core = true) : execYield st = .next (advance i 4 st) :=
  issue_ok (i := i) hi.1 hi.2 (if_pos hr)

theorem execYield_oldest (hr : (advance i 4 st).roundRobin i.core = false) : execYield st = .next (yielded i (advance i 4 st)) :=
  issue_ok (i := i) hi.1 hi.2 (if_neg (by simpa using hr))

end

@[simp] theorem State.core_modStrand (s : State) (i : StrandId) (f : Strand → Strand) (c : CoreId) : (s.modStrand i f).core c = s.core c := by
  cases c <;> rfl

@[simp] theorem State.mem_modCore (s : State) (c : CoreId) (f : CoreState → CoreState) : (s.modCore c f).mem = s.mem := by
  cases c <;> rfl

theorem yielded_core (i : StrandId) (s : State) : (yielded i s).core i.core = { s.core i.core with greedy := none, stamp := (s.core i.core).stamp + 1 } := by
  simp [yielded, newStamp]

theorem yielded_strand (i : StrandId) (s : State) : (yielded i s).strand i = { s.strand i with age := (s.core i.core).stamp + 1 } := by
  simp [yielded, newStamp]

theorem yielded_mem (i : StrandId) (s : State) : (yielded i s).mem = s.mem := by
  simp [yielded, newStamp, State.modStrand, State.setStrand]

/-- An issue takes the slot of the core, and no stamp. -/
theorem advance_stamp (i : StrandId) (len : Nat) (s : State) : ((advance i len s).core i.core).stamp = (s.core i.core).stamp := by
  have hb : (advance i len s).core i.core = (takeSlot i (s.modStrand i (·.advance len))).core i.core := by
    unfold advance
    cases i.core with
    | tile t => simp [bumpCore, bump, State.core]
    | control q => rfl
  rw [hb, takeSlot, State.core_modCore, State.core_modStrand]
  rfl

/-! ### EXIT (R115) -/

theorem execExit_exits {st : State} {i : StrandId} (hi : MayIssue st i) : execExit st =
    .next ((advance i 4 st).modStrand i fun r => { r with status := .exiting, pc := (st.strand i).pc, links := [], loose := [] }) :=
  issue_ok (i := i) hi.1 hi.2 rfl

/-! ### TLB invalidations (R401, R403) -/

theorem invalidate_blocks {st : State} {i : StrandId} {w : Strand → TlbRemoval} {rs : List (BitVec 5)} (hi : MayIssue st i)
    (hl : (st.strand i).level ≠ .U) (hrs : Settled st i rs) :
    invalidate w rs st = .next (block i (st.strand i) (.tlb (w (st.strand i))) (advance i 4 st)) :=
  issue_ok hi.1 hi.2 (by simp [hl, hrs])

theorem filter_hits (w : TlbRemoval) (l : List TlbEntry) : ∀ h ∈ l.filter fun h => !w.hits h, w.hits h = false := by
  intro h hh
  simpa using (List.mem_filter.mp hh).2

theorem removeTlb_tile (w : TlbRemoval) (s : State) (u : TileId) : ∀ h ∈ ((removeTlb w s).tile u).tlb, w.hits h = false := by
  have hget := amGet_map_keyed u (fun _ (t : Tile) => { t with tlb := t.tlb.filter fun h => !w.hits h }) s.tiles
  have htile : ((removeTlb w s).tile u) =
      ((amGet u s.tiles).map fun t : Tile => { t with tlb := t.tlb.filter fun h => !w.hits h }).getD {} := by rw [← hget]; rfl
  rw [htile]
  cases amGet u s.tiles with
  | none => exact nofun
  | some v => exact filter_hits w v.tlb

theorem removeTlb_quad (w : TlbRemoval) (s : State) (q : BitVec 2) : ∀ h ∈ ((removeTlb w s).quad q).tlb, w.hits h = false := by
  have hq : ((removeTlb w s).quad q).tlb = (s.quad q).tlb.filter fun h => !w.hits h := by
    simp only [removeTlb, State.quad, Vector.get_eq_getElem, Vector.getElem_map]
  rw [hq]
  exact filter_hits w _

theorem execTlbInvalidateComplete_completes {st : State} {i : StrandId} {w : TlbRemoval} (hb : (st.strand i).status = .blocked (.tlb w))
    (hs : (st.strand i).stores = []) (hl : (st.strand i).live.any (fun e => e.op.memory && !e.op.loads) = false) (hu : st.usesRemoved w = false) :
    execTlbInvalidateComplete i st = .next (unblock i one (removeTlb w st)) := by
  simp [execTlbInvalidateComplete, hb, hs, hl, hu, event]

theorem unblock_strand (i : StrandId) (len : Nat) (s : State) :
    (unblock i len s).strand i = { s.strand i with status := .running, pc := (s.strand i).pc + BitVec.ofNat 80 len } :=
  State.strand_modStrand_self ..

/-! ### LEAVE (R282) -/

/-- What LEAVE answers to a strand: 1 on a tile that has its grant; 0 with the request of a tile that has none, and on a control core. -/
def answerLeave (i : StrandId) (d : BitVec 5) (s : State) : State :=
  match i.core with
  | .control _ => s.setX i d 0
  | .tile u => if (s.tile u).leave then s.setX i d 1 else requestLeave u (s.setX i d 0)

theorem execLeave_answers {st : State} {i : StrandId} {d : BitVec 5} (hi : MayIssue st i) (hd : Settled st i [d]) :
    execLeave d st = .next (answerLeave i d (advance i 4 st)) := by
  refine issue_ok (i := i) hi.1 hi.2 ((if_neg (by simp [hd])).trans ?_)
  unfold answerLeave
  cases i.core with
  | control q => rfl
  | tile u => exact (apply_ite Except.ok _ _ _).symm

/-- Settles O21: each of the instructions completes at issue as its rule says, and the completion of an invalidation removes what it names. -/
theorem strandControlCompletes : Obligations.StrandControlCompletes := by
  intro st i d x a hi t s blocked
  refine ⟨execYield_roundRobin hi, fun hr => ?yield, execExit_exits hi, fun hl => ⟨?all, fun hx => ⟨?space, ?page⟩⟩, fun w hb hs hlive hu => ?complete,
    execLeave_answers hi⟩
  case yield =>
    refine ⟨_, execYield_oldest hi hr, ?_, ?_, ?_, ?_, fun r => ?_⟩
    · rw [yielded_strand, advance_stamp]
    · rw [yielded_core]
    · rw [yielded_core, advance_stamp]
    · rw [yielded_mem, advance_mem]
    · rw [State.xr, yielded_strand, advance_strand, if_pos rfl]
      rfl
  case all => exact invalidate_blocks (w := fun _ => .all) (rs := []) hi hl rfl
  case space => exact invalidate_blocks (w := fun r => .space ((r.xr x).setWidth 16)) hi hl hx
  case page => exact invalidate_blocks (w := fun r => .page (r.ar a) ((r.xr x).setWidth 16)) hi hl hx
  case complete =>
    refine ⟨_, execTlbInvalidateComplete_completes hb hs hlive hu, ?_, ?_, removeTlb_tile w st, removeTlb_quad w st, rfl⟩
    · rw [unblock_strand]
    · rw [unblock_strand]
      rfl

end Sys2Proof.Machine
end

section
/-! PROOF. The checks of an instruction at the head of a vector queue (R144), and a trap that finds level M inhibited (R386). -/

namespace Sys2Proof.Machine

open Sys2Proof

/-! ### A lane trap into an inhibited level M (R386)

A trap into level M that finds MTSTAT.INH set makes the strand Exiting; its queue is discarded (log entry 24), and none is held. -/

/-- VFADD under an integer format, which R143 does not accept. -/
def rejectedEntry : VEntry := { op := .fp .add 1 2 (.reg 3), mreg := none, pc := 0x1000, seq := 0, strip := ⟨0x1000, 0, 4⟩, fcsr := 0 }

/-- Slot 0 of tile 0, with all lanes of its tile. -/
def inhibitedId : StrandId := ⟨.tile ⟨0, 0⟩, 0⟩

/-- A strand in the handler of level M, with INH set, and an instruction at the head of its queue whose format is not accepted. -/
def inhibitedStrand : Strand :=
  { status := .running, level := .M, pc := 0x1004, mt := { stat := 4 }, queue := [rejectedEntry], vl := 4, vvl := 4, vcfg := 9, vvcfg := 9 }

/-- The state of that strand, alone on a tile whose team runs. -/
def inhibitedState : State :=
  { State.reset with
      strands := [(inhibitedId, inhibitedStrand)]
      tiles := [(⟨0, 0⟩, { life := .resident, started := true, groups := [(0, ⟨0, 32, some 0⟩)] })] }

theorem laneTrap_inhibited_not_held :
    (laneTrap inhibitedId rejectedEntry none ⟨cVfmt, 0, 0⟩ inhibitedState).map (fun r => (r.strand inhibitedId).held) = some false := by
  decide +kernel

/-- Refutes O30: where the strand is at level M with MTSTAT.INH set, the trap of the check makes it Exiting, and holds no queue. -/
theorem not_vectorChecksTrapAtTheHead : ¬ Obligations.VectorChecksTrapAtTheHead := by
  intro h
  obtain ⟨hformat, -⟩ := h inhibitedState inhibitedId rejectedEntry [] ⟨0, 32, some 0⟩ 1 (by decide +kernel) (by decide +kernel) (by decide +kernel)
    rfl rfl (by decide +kernel) rfl rfl (by decide +kernel) (by decide +kernel) (by decide +kernel) (by decide +kernel)
  obtain ⟨r, hr, -, hheld, -⟩ := hformat (by decide +kernel)
  have hnot := laneTrap_inhibited_not_held
  rw [hr, Option.map_some, hheld] at hnot
  cases hnot

end Sys2Proof.Machine
end

section
/-! PROOF. The issue of vector-class instructions into the vector queue (R86, R130, R407 to R410). -/

namespace Sys2Proof.Machine

open Sys2Proof

/-! ### What a trace record leaves as it was (R408 to R412)

A record may be lost where its source's buffer is full, and its count in memory then withdraws the links on a line (R245): every other field of every
strand, and every tile, is as before. -/

theorem unlinked_trace (q : BitVec 2) (u : Option TileId) (k : BitVec 3) (typ pipe : Nat) (fin : Bool) (n : Nat) (m : StripName) (aux : Nat)
    (s : State) (j : StrandId) : ((trace q u k typ pipe fin n m aux s).strand j).unlinked = (s.strand j).unlinked := by
  unfold trace
  dsimp only
  split
  · rfl
  · split
    · exact unlinked_traceLost ..
    · rfl

theorem tiles_trace (q : BitVec 2) (u : Option TileId) (k : BitVec 3) (typ pipe : Nat) (fin : Bool) (n : Nat) (m : StripName) (aux : Nat)
    (s : State) : (trace q u k typ pipe fin n m aux s).tiles = s.tiles := by
  unfold trace
  dsimp only
  split
  · rfl
  · split
    · rw [traceLost, State.tiles_modQuad, bumpQuad, State.tiles_modQuad, hwWrite_tiles]
    · rfl

/-- A quadrant without a trace ring records nothing. -/
theorem trace_of_no_ring {q : BitVec 2} {s : State} (h : (s.quad q).trace.log2n = 0) (u : Option TileId) (k : BitVec 3) (typ pipe : Nat) (fin : Bool)
    (n : Nat) (m : StripName) (aux : Nat) : trace q u k typ pipe fin n m aux s = s :=
  if_pos (by simp [Trace.enabled, h])

/-- Two strands that differ in their links alone agree in whatever does not read the links. -/
theorem Strand.of_unlinked {α : Type} (f : Strand → α) (hf : ∀ t, f t.unlinked = f t) {t u : Strand} (h : u.unlinked = t.unlinked) : f u = f t := by
  rw [← hf u, h, hf]

@[simp] theorem traceEvent_tile (i : StrandId) (pipe : Nat) (fin : Bool) (n : Nat) (m : StripName) (pc : Addr) (s : State) (u : TileId) :
    (traceEvent i pipe fin n m pc s).tile u = s.tile u := State.tile_of_tiles (tiles_trace ..) u

/-! ### The issue of an instruction (R86) -/

@[simp] theorem advance_strand_self (i : StrandId) (len : Nat) (s : State) : (advance i len s).strand i = (s.strand i).advance len := by
  rw [advance_strand, if_pos rfl]

theorem advance_strand_ne (i : StrandId) {j : StrandId} (len : Nat) (s : State) (h : j ≠ i) : (advance i len s).strand j = s.strand j := by
  rw [advance_strand, if_neg h]

@[simp] theorem advance_now (i : StrandId) (len : Nat) (s : State) : (advance i len s).now = s.now := by
  unfold advance takeSlot
  cases i.core <;> rfl

/-- An issue changes the scheduling state and the counters of its tile, and nothing else of a tile. -/
theorem advance_tile_keeps {α : Type} (f : Tile → α) (hc : ∀ v k, f { v with core := k } = f v) (hn : ∀ v n, f { v with counts := n } = f v)
    (i : StrandId) (len : Nat) (s : State) (u : TileId) : f ((advance i len s).tile u) = f (s.tile u) := by
  unfold advance takeSlot
  cases i.core with
  | control q => rfl
  | tile w =>
    by_cases h : u = w
    · subst h
      rw [bumpCore, bump, State.tile_modTile_self, hn, State.modCore, State.tile_modTile_self, hc]
      rfl
    · simp [bumpCore, bump, State.modCore, State.tile_modTile_ne _ _ h]

@[simp] theorem advance_v (i : StrandId) (len : Nat) (s : State) (u : TileId) : ((advance i len s).tile u).v = (s.tile u).v :=
  advance_tile_keeps Tile.v (fun _ _ => rfl) (fun _ _ => rfl) ..

@[simp] theorem advance_tmem (i : StrandId) (len : Nat) (s : State) (u : TileId) : ((advance i len s).tile u).tmem = (s.tile u).tmem :=
  advance_tile_keeps Tile.tmem (fun _ _ => rfl) (fun _ _ => rfl) ..

@[simp] theorem advance_groups (i : StrandId) (len : Nat) (s : State) (u : TileId) : ((advance i len s).tile u).groups = (s.tile u).groups :=
  advance_tile_keeps Tile.groups (fun _ _ => rfl) (fun _ _ => rfl) ..

theorem advance_trace (i : StrandId) (len : Nat) (s : State) :
    ((advance i len s).quad (coreQuad i.core)).trace = (s.quad (coreQuad i.core)).trace := by
  unfold advance takeSlot
  cases i.core with
  | tile w => rfl
  | control q => simp [bumpCore, State.modCore, coreQuad]

/-- The lanes that a strand's group has depend on the groups of its tile alone. -/
theorem lanes_of_groups {s r : State} (h : ∀ u, (r.tile u).groups = (s.tile u).groups) (i : StrandId) : r.lanes i = s.lanes i := by
  unfold State.lanes State.group
  cases i.core with
  | control q => rfl
  | tile u => simp only [Tile.group, h]

@[simp] theorem advance_lanes (i : StrandId) (len : Nat) (s : State) : (advance i len s).lanes i = s.lanes i :=
  lanes_of_groups (advance_groups i len s) i

/-- An engine instruction whose body stops at a fault that no walk answers takes its precise trap, which names it in TVPC. -/
theorem issueEngine_preciseStop {s : State} {i : StrandId} {len : Nat} {f : Flt} {body : StrandId → Strand → State → Except Stop State}
    (hi : MayIssue s i) (h : body i (s.strand i) (advance i len s) = .error (preciseStop (s.strand i) f)) (hf : walkCause f.cause = false) :
    issueEngine s len body =
      .next (takeTrap i ⟨f.cause, 0, false, (s.strand i).pc, (s.strand i).pc, f.addr, f.detail⟩ s) :=
  (issueEngine_trap hi.1 hi.2 h).trans (by rw [countFault_of_no_walk (c := (preciseRec (s.strand i) f).cause) _ _ _ hf]; rfl)

/-! ### An entry at the end of the queue (R130) -/

/-- A strand with one entry more in its vector queue, issued at a time. -/
def Strand.enqueued (t : Strand) (e : VEntry) (now : Nat) : Strand := { t with queue := t.queue ++ [{ e with time := now }] }

theorem unlinked_pushEntry (i : StrandId) (e : VEntry) (s : State) :
    ((pushEntry i e s).strand i).unlinked = ((s.strand i).enqueued e s.now).unlinked := by
  rw [pushEntry, unlinked_traceEvent, enqueue, State.strand_modStrand_self]
  rfl

@[simp] theorem pushEntry_tile (i : StrandId) (e : VEntry) (s : State) (u : TileId) : (pushEntry i e s).tile u = s.tile u := by
  rw [pushEntry, traceEvent_tile]
  rfl

theorem unlinked_queued (i : StrandId) (len : Nat) (op : VOp) (mk : Option (BitVec 3)) (s : State) :
    ((queued s i len op mk).strand i).unlinked = (((s.strand i).advance len).enqueued (vEntry (s.strand i) op mk) s.now).unlinked := by
  rw [queued, unlinked_pushEntry, advance_strand_self, advance_now]

/-- Without a trace ring, an entry changes the strand's queue alone. -/
theorem queued_of_no_ring {i : StrandId} {s : State} (h : (s.quad (coreQuad i.core)).trace.log2n = 0) (len : Nat) (op : VOp) (mk : Option (BitVec 3)) :
    queued s i len op mk = enqueue i (vEntry (s.strand i) op mk) (advance i len s) := by
  rw [queued, pushEntry, traceEvent]
  exact trace_of_no_ring (s := enqueue i _ _) ((congrArg Trace.log2n (advance_trace i len s)).trans h) ..

/-- Settles O25: a record leaves the strand but for its links, and the issue its registers and lanes. -/
theorem issueIntoTheVectorQueueTouchesNoRegister : Obligations.IssueIntoTheVectorQueueTouchesNoRegister := by
  intro st i len op mk t s u
  have hu : u.unlinked = ((t.advance len).enqueued (vEntry t op mk) st.now).unlinked := unlinked_queued i len op mk st
  have same {α : Type} (f : Strand → α) (hf : ∀ t, f t.unlinked = f t) := Strand.of_unlinked f hf hu
  refine ⟨same (·.queue) fun _ => rfl, same (·.pc) fun _ => rfl, same (·.issued) fun _ => rfl, same (·.x) fun _ => rfl, same (·.a) fun _ => rfl,
    same (·.m) fun _ => rfl, same (·.fcsr) fun _ => rfl, same (·.vl) fun _ => rfl, same (·.vcfg) fun _ => rfl, same (·.status) fun _ => rfl,
    same (·.stores) fun _ => rfl, same (·.lates) fun _ => rfl, fun w => ?lanes, fun hring => ?noRing⟩
  case lanes => simp only [s, queued, pushEntry_tile, advance_v, advance_tmem, and_self]
  case noRing =>
    rw [show s = _ from queued_of_no_ring hring len op mk]
    exact ⟨advance_mem i len st, fun j hj => (State.strand_modStrand_ne _ _ hj).trans (advance_strand_ne i len st hj)⟩

/-! ### Vector-class instructions at issue (R130, R132, R141) -/

section
variable {st : State} {i : StrandId} {len : Nat} {xs : List (BitVec 5)} {op : Strand → VOp} {mk : Option (BitVec 3)}

/-- A vector-class instruction that accesses no memory enters the queue, its x registers settled. -/
theorem issueV_enters (hq : MayQueue st i len) (hx : Settled st i xs) (hm : (op (st.strand i)).memory = false) :
    issueV len xs op mk st = .next (queued st i len (op (st.strand i)) mk) := by
  obtain ⟨hi, htile, hroom⟩ := hq
  exact issueV_ok hi.1 hi.2 htile hroom hx fun h => absurd (h.symm.trans hm) nofun

/-- A vector memory instruction enters the queue where no acquire is outstanding and no releasing fence holds it back. -/
theorem issueV_accesses (hq : MayQueue st i len) (hacq : (st.strand i).acquiring = false) (hrel : (st.strand i).releasing = false)
    (hx : Settled st i xs) : issueV len xs op mk st = .next (queued st i len (op (st.strand i)) mk) := by
  obtain ⟨hi, htile, hroom⟩ := hq
  exact issueV_ok hi.1 hi.2 htile hroom hx fun _ => ⟨hacq, hrel⟩

end

end Sys2Proof.Machine
end

section
/-! PROOF. The forms that enter the vector queue; VSETL, VSETCFG and SBR (R125, R126, R130, R133, R407). -/

namespace Sys2Proof.Machine

open Sys2Proof

/-- Settles O23: each of the instructions is one operation at issue, with its x operand captured. -/
theorem vectorFloatMaskAndMoveFormsEnterTheQueue : Obligations.VectorFloatMaskAndMoveFormsEnterTheQueue := by
  intro st i hq t runs d s u k l m mk
  show
    execMand k l m st = _ ∧ execMor k l m st = _ ∧ execMxor k l m st = _ ∧ execMandn k l m st = _ ∧ execMnot k l st = _ ∧ execMset k st = _ ∧
    execMclr k st = _ ∧ execVfaddVV d s u mk st = _ ∧ execVfsubVV d s u mk st = _ ∧ execVfmulVV d s u mk st = _ ∧ execVfdivVV d s u mk st = _ ∧
    execVfminVV d s u mk st = _ ∧ execVfmaxVV d s u mk st = _ ∧ execVfmaVV d s u mk st = _ ∧ execVfmsVV d s u mk st = _ ∧
    execVfnmaVV d s u mk st = _ ∧ execVfsqrt d s mk st = _ ∧ execVfrece d s mk st = _ ∧ execVfrsqe d s mk st = _ ∧ execVfabs d s mk st = _ ∧
    execVfneg d s mk st = _ ∧ execVfsgnj d s u mk st = _ ∧ execVcmpeq k s u mk st = _ ∧ execVcmpne k s u mk st = _ ∧
    execVcmplt k s u mk st = _ ∧ execVcmple k s u mk st = _ ∧ execVcmpltu k s u mk st = _ ∧ execVcmpleu k s u mk st = _ ∧
    execVfcmpeq k s u mk st = _ ∧ execVfcmplt k s u mk st = _ ∧ execVfcmple k s u mk st = _ ∧ execVfcmpun k s u mk st = _ ∧
    execVmerge d s u k st = _ ∧ execVmv d s mk st = _ ∧ execVid d mk st = _ ∧ execVdot4 d s u mk st = _ ∧ execVdot8 d s u mk st = _ ∧
    execVbsapply d s u mk st = _ ∧
    (_ → execMpopc d k st = _ ∧ execMfirst d k st = _) ∧
    (_ → execVfaddVX d s u mk st = _ ∧ execVfsubVX d s u mk st = _ ∧ execVfmulVX d s u mk st = _ ∧ execVfdivVX d s u mk st = _ ∧
      execVfminVX d s u mk st = _ ∧ execVfmaxVX d s u mk st = _ ∧ execVfmaVX d s u mk st = _ ∧ execVfmsVX d s u mk st = _ ∧
      execVfnmaVX d s u mk st = _ ∧ execVsplat d u mk st = _ ∧ execVsrseed u st = _) ∧
    (_ → execVext d s u st = _) ∧
    (_ → ∀ (sf df : BitVec 4) (rnd : BitVec 3) (sat : BitVec 1), execVcvt d s mk sf df rnd sat st = _ ∧ execVcvtW d s mk sf df rnd sat st = _ ∧
      execVcvtN d s mk sf df rnd sat st = _ ∧ execVcvtSC d s u mk sf df rnd sat st = _)
  simp only [execMand, execMor, execMxor, execMandn, execMnot, execMset, execMclr, execVfaddVV, execVfsubVV, execVfmulVV, execVfdivVV, execVfminVV,
    execVfmaxVV, execVfmaVV, execVfmsVV, execVfnmaVV, execVfsqrt, execVfrece, execVfrsqe, execVfabs, execVfneg, execVfsgnj, execVcmpeq, execVcmpne,
    execVcmplt, execVcmple, execVcmpltu, execVcmpleu, execVfcmpeq, execVfcmplt, execVfcmple, execVfcmpun, execVmerge, execVmv, execVid, execVdot4,
    execVdot8, execVbsapply, execMpopc, execMfirst, execVfaddVX, execVfsubVX, execVfmulVX, execVfdivVX, execVfminVX, execVfmaxVX, execVfmaVX,
    execVfmsVX, execVfnmaVX, execVsplat, execVsrseed, execVext, execVcvt, execVcvtW, execVcvtN, execVcvtSC, issueMask, issueFpVV, issueFpVX,
    issueCmp, issueCvt, capture]
  have plain {op : VOp} {mk : Option (BitVec 3)} : op.memory = false → issueV one [] (fun _ => op) mk st = .next (queued st i one op mk) :=
    issueV_enters (op := fun _ => op) hq rfl
  refine ⟨plain rfl, plain rfl, plain rfl, plain rfl, plain rfl, plain rfl, plain rfl, plain rfl, plain rfl, plain rfl, plain rfl, plain rfl,
    plain rfl, plain rfl, plain rfl, plain rfl, plain rfl, plain rfl, plain rfl, plain rfl, plain rfl, plain rfl, plain rfl, plain rfl, plain rfl,
    plain rfl, plain rfl, plain rfl, plain rfl, plain rfl, plain rfl, plain rfl, plain rfl, plain rfl, plain rfl, plain rfl, plain rfl, plain rfl,
    fun hd => ⟨issueV_enters hq hd rfl, issueV_enters hq hd rfl⟩, fun hu => ?captures, fun hdu => issueV_enters hq hdu rfl,
    fun hq8 sf df rnd sat => ?converts⟩
  case captures =>
    have captured {op : Strand → VOp} {mk : Option (BitVec 3)} : (op t).memory = false → issueV one [u] op mk st = .next (queued st i one (op t) mk) :=
      issueV_enters hq hu
    exact ⟨captured rfl, captured rfl, captured rfl, captured rfl, captured rfl, captured rfl, captured rfl, captured rfl, captured rfl, captured rfl,
      captured rfl⟩
  case converts =>
    have plain {op : VOp} {mk : Option (BitVec 3)} : op.memory = false → issueV two [] (fun _ => op) mk st = .next (queued st i two op mk) :=
      issueV_enters (op := fun _ => op) hq8 rfl
    exact ⟨plain rfl, plain rfl, plain rfl, plain rfl⟩


/-! ### VSETL, VSETCFG and SBR (R125, R126, R133, R407) -/

theorem unlinked_traceStrand (i : StrandId) (typ n : Nat) (m : StripName) (aux : Nat) (s : State) (j : StrandId) :
    ((traceStrand i typ n m aux s).strand j).unlinked = (s.strand j).unlinked := unlinked_trace ..

theorem vcfg_mask : maskBits 10 0 = 2047#64 := by decide

/-- A strand to which VSETL grants a length: it is in `vl` and xD, and names the strip. -/
def Strand.granted (t : Strand) (pc : Addr) (d : BitVec 5) (n : Nat) (name : StripName) : Strand :=
  { t.setX d (BitVec.ofNat 64 n) with
      vl := BitVec.ofNat 13 n, strip := name, brk := { t.brk with pass := if t.brk.pass = some pc then none else t.brk.pass } }

/-- The entry of a VSETL that grants a length (R125, R407). -/
def grantEntry (t : Strand) (n : Nat) (name : StripName) : VEntry := { vEntry t (.setl (BitVec.ofNat 13 n)) none with strip := name }

section
variable {st : State} {i : StrandId} {d s : BitVec 5} (hq : MayQueue st i 4)
include hq

/-- VSETL grants its length, and enters the queue as the last entry. -/
theorem execVsetl_grants (hx : Settled st i [d, s]) (hv : (st.strand i).pendVl = false) (hb : (st.strand i).breaks = false) {n : Nat} {name : StripName}
    (hn : grantLength (st.strand i).vcfg (st.lanes i) ((st.strand i).xr s).toNat = n)
    (hname : (st.strand i).strip.next (st.strand i).pc (BitVec.ofNat 13 n) = name) :
    ∃ r, execVsetl d s st = .next r ∧ (r.strand i).unlinked =
      ((((st.strand i).advance 4).granted (st.strand i).pc d n name).enqueued (grantEntry (st.strand i) n name) st.now).unlinked := by
  obtain ⟨hi, htile, hroom⟩ := hq
  refine ⟨traceStrand i 3 (st.strand i).issued name (st.strand i).pc.toNat
    (pushEntry i (grantEntry (st.strand i) n name) ((advance i 4 st).modStrand i fun r => r.granted (st.strand i).pc d n name)),
    issueEngine_ok hi.1 hi.2 ?_, ?_⟩
  · rw [if_neg (by simp [htile]), if_neg (by simp [hb]), if_neg (by simp [hx, hv, hroom]), advance_lanes]
    subst hn hname
    rfl
  · rw [unlinked_traceStrand, unlinked_pushEntry, State.strand_modStrand_self, advance_strand_self, State.now_modStrand, advance_now]

theorem execVsetcfg_invalid (hx : Settled st i [d, s]) (hv : vcfgInvalid ((st.strand i).xr s &&& 2047#64) = true) :
    execVsetcfg d s st = .next (takeTrap i ⟨cVcfgInvalid, 0, false, (st.strand i).pc, (st.strand i).pc, 0, 0⟩ st) := by
  obtain ⟨hi, htile, hroom⟩ := hq
  refine issueEngine_preciseStop (f := ⟨cVcfgInvalid, 0, 0⟩) hi ?_ rfl
  rw [if_neg (by simp [htile]), if_neg (by simp [hx, hroom])]
  simp only [vcfg_mask]
  exact if_pos hv

theorem execVsetcfg_installs (hx : Settled st i [d, s]) (hv : vcfgInvalid ((st.strand i).xr s &&& 2047#64) = false) :
    execVsetcfg d s st = .next (pushEntry i (vEntry (st.strand i) (.setcfg ((st.strand i).xr s &&& 2047#64)) none)
      ((advance i 4 st).modStrand i fun r => { (r.setX d (st.strand i).vcfg) with vcfg := (st.strand i).xr s &&& 2047#64 })) := by
  obtain ⟨hi, htile, hroom⟩ := hq
  refine issueEngine_ok hi.1 hi.2 ?_
  rw [if_neg (by simp [htile]), if_neg (by simp [hx, hroom])]
  simp only [vcfg_mask]
  exact if_neg (by simp [hv])

end

theorem xr_sbrAdvance (vl : Nat) (regs : List (BitVec 4 × Nat)) (t : Strand) (r : BitVec 5) : (sbrAdvance vl regs t).xr r = t.xr r := by
  induction regs generalizing t with
  | nil => rfl
  | cons p rest ih => exact ih _

/-- SBR advances a register by `vl` elements of every size that it is named with. -/
theorem ar_sbrAdvance (vl : Nat) (regs : List (BitVec 4 × Nat)) (t : Strand) (k : BitVec 4) :
    (sbrAdvance vl regs t).ar k = t.ar k + BitVec.ofNat 80 (vl * ((regs.filter (·.1 = k)).map fun p => 2 ^ p.2).sum) := by
  induction regs generalizing t with
  | nil => simp [sbrAdvance]
  | cons p rest ih =>
    obtain ⟨r, z⟩ := p
    rw [sbrAdvance, ih, Strand.ar_setA]
    by_cases h : k = r
    · subst h
      rw [if_pos rfl, List.filter_cons_of_pos (by simp), List.map_cons, List.sum_cons, Nat.mul_add, BitVec.ofNat_add, BitVec.add_assoc]
    · rw [if_neg h, List.filter_cons_of_neg (by simpa using Ne.symm h)]

/-- The size codes of an SBR are the four pairs of bits of its field (R133). -/
theorem sbr_sizes (sz : BitVec 8) :
    (List.range 4).map (fun k => field sz.toNat (2 * k) 2) = [sz.toNat % 4, sz.toNat / 4 % 4, sz.toNat / 16 % 4, sz.toNat / 64] := by
  have := sz.isLt
  simp only [List.range_succ, List.range_zero, List.nil_append, List.map_cons, List.map_nil, List.cons_append, field]
  congr 4 <;> omega

/-- The strand after an SBR that has subtracted a length from xC. -/
def Strand.closed (t : Strand) (c : BitVec 5) (left : Word) (vl : Nat) (regs : List (BitVec 4 × Nat)) (target : Addr) : Strand :=
  if 0 < left.toInt then { sbrAdvance vl regs (t.setX c left) with pc := target } else sbrAdvance vl regs (t.setX c left)

section
variable (t : Strand) (c : BitVec 5) (left : Word) (vl : Nat) (regs : List (BitVec 4 × Nat)) (target : Addr)

theorem Strand.xr_closed (r : BitVec 5) : (t.closed c left vl regs target).xr r = (t.setX c left).xr r := by
  unfold Strand.closed
  split <;> exact xr_sbrAdvance ..

theorem Strand.ar_closed (k : BitVec 4) :
    (t.closed c left vl regs target).ar k = t.ar k + BitVec.ofNat 80 (vl * ((regs.filter (·.1 = k)).map fun p => 2 ^ p.2).sum) := by
  rw [← Strand.ar_setX t c k left, ← ar_sbrAdvance]
  unfold Strand.closed
  split <;> rfl

theorem Strand.pc_closed : (t.closed c left vl regs target).pc = if 0 < left.toInt then target else t.pc := by
  unfold Strand.closed
  split
  · rfl
  · rw [pc_sbrAdvance, Strand.pc_setX]

end

theorem execSbr_closes {st : State} {i : StrandId} {c : BitVec 5} (a0 a1 a2 a3 : BitVec 4) (n : BitVec 3) (sz : BitVec 8) (off : BitVec 24)
    (hi : MayIssue st i) (ht : onControl i = false) (hx : Settled st i [c]) (hv : (st.strand i).pendVl = false) :
    let t := st.strand i
    let regs := ([a0, a1, a2, a3].zip [sz.toNat % 4, sz.toNat / 4 % 4, sz.toNat / 16 % 4, sz.toNat / 64]).take n.toNat
    execSbr c a0 a1 a2 a3 n sz off st = .next ((advance i 8 st).modStrand i fun u =>
      u.closed c (t.xr c - t.vl.setWidth 64) t.vl.toNat regs (t.pc + 4 * off.signExtend 80)) := by
  refine issue_ok hi.1 hi.2 ?_
  rw [if_neg (by simp [ht]), if_neg (by simp [hx, hv]), sbr_sizes]
  rfl

/-- An x register after a write of its value: x0 reads zero. -/
theorem Strand.xr_setX_self (t : Strand) (d : BitVec 5) (v : Word) : (t.setX d v).xr d = if d = 0 then 0 else v := by
  rw [Strand.xr_setX]
  by_cases h : d = 0
  · subst h
    rfl
  · rw [if_pos ⟨rfl, h⟩, if_neg h]

theorem Strand.xr_setX_ne (t : Strand) {d r : BitVec 5} (v : Word) (h : r ≠ d) : (t.setX d v).xr r = t.xr r := by
  rw [Strand.xr_setX, if_neg fun e => h e.1]

/-- Settles O31: each instruction's state is given by its equation above, and the strand of that state field by field. -/
theorem lengthConfigurationAndStripsAreSet : Obligations.LengthConfigurationAndStripsAreSet := by
  intro st i d s hi t
  refine ⟨fun hq hx hv hb => ?vsetl, fun hq hx => ⟨execVsetcfg_invalid hq hx, execVsetcfg_installs hq hx⟩,
    fun a0 a1 a2 a3 n sz off ht hx hv => ?sbr⟩
  case vsetl =>
    intro w g n name
    have hn : grantLength t.vcfg (st.lanes i) (t.xr s).toNat = n := if_congr (by simp [g, w, capacity]) rfl rfl
    have hname : t.strip.next t.pc (BitVec.ofNat 13 n) = name := by
      by_cases h : t.pc = t.strip.saddr
      · exact (if_pos h).trans ((congrArg (StripName.mk · _ _) h.symm).trans (if_pos h).symm)
      · exact (if_neg h).trans (if_neg h).symm
    obtain ⟨r, hexec, hu⟩ := execVsetl_grants hq hx hv hb hn hname
    have same {α : Type} (f : Strand → α) (hf : ∀ t, f t.unlinked = f t) := Strand.of_unlinked f hf hu
    refine ⟨r, hexec, ?_, same (·.vl) fun _ => rfl, same (·.strip) fun _ => rfl, (same (·.pc) fun _ => rfl).trans ?_, fun k hk => ?_,
      (same (·.queue) fun _ => rfl).trans ?_⟩
    · exact (same (·.xr d) fun _ => rfl).trans (Strand.xr_setX_self ..)
    · exact Strand.pc_setX ..
    · exact (same (·.xr k) fun _ => rfl).trans (Strand.xr_setX_ne _ _ hk)
    · exact congrArg (· ++ _) (Strand.queue_setX ..)
  case sbr =>
    intro left regs
    refine ⟨_, execSbr_closes a0 a1 a2 a3 n sz off hi ht hx hv, ?_, ?_, fun k => ?_⟩
    · rw [State.xr, State.strand_modStrand_self, Strand.xr_closed, Strand.xr_setX_self]
    · rw [State.strand_modStrand_self, Strand.pc_closed, advance_strand_self]
      rfl
    · rw [State.strand_modStrand_self, Strand.ar_closed, advance_strand_self]
      rfl

end Sys2Proof.Machine
end

section
/-! PROOF. What leaves a vector queue, VPART, FORKL and JOINL (R71, R120, R124, R134, R135, R410). -/

namespace Sys2Proof.Machine

open Sys2Proof

/-! ### Retirement (R71, R120) -/

theorem unlinked_traceEnd (i : StrandId) (e : VEntry) (s : State) (j : StrandId) : ((traceEnd i e s).strand j).unlinked = (s.strand j).unlinked := by
  unfold traceEnd
  rw [unlinked_traceEvent]
  split
  · exact unlinked_traceEvent ..
  · rfl

@[simp] theorem traceEnd_tile (i : StrandId) (e : VEntry) (s : State) (u : TileId) : (traceEnd i e s).tile u = s.tile u := by
  unfold traceEnd
  rw [traceEvent_tile]
  split
  · exact traceEvent_tile ..
  · rfl

/-- An entry that has not started holds no pipe: its retirement alone is recorded (R410). -/
theorem traceEnd_of_not_started {e : VEntry} (h : e.started = false) (i : StrandId) (s : State) :
    traceEnd i e s = traceEvent i 0 true e.seq e.strip e.pc s := by
  simp only [traceEnd, h]

/-- A strand without the k-th entry of its queue, whose flags are in `fcsr`. -/
def Strand.retired (t : Strand) (k : Nat) (e : VEntry) : Strand := { (t.raise e.flags) with queue := t.queue.eraseIdx k }

theorem Strand.queue_retired (t : Strand) (e : VEntry) : (t.retired 0 e).queue = t.queue.tail := List.eraseIdx_zero

theorem retire_eq {i : StrandId} {k : Nat} {e : VEntry} {s : State} (h : (s.strand i).queue[k]? = some e) :
    retire i k s = traceEnd i e (s.modStrand i fun t => t.retired k e) := by
  simp only [retire, h]
  rfl

theorem unlinked_retire {i : StrandId} {k : Nat} {e : VEntry} {s : State} (h : (s.strand i).queue[k]? = some e) :
    ((retire i k s).strand i).unlinked = ((s.strand i).retired k e).unlinked := by
  rw [retire_eq h, unlinked_traceEnd, State.strand_modStrand_self]

theorem unlinked_retire_ne {i j : StrandId} (k : Nat) (s : State) (h : j ≠ i) : ((retire i k s).strand j).unlinked = (s.strand j).unlinked := by
  unfold retire
  split
  · rfl
  · rw [unlinked_traceEnd, State.strand_modStrand_ne _ _ h]

@[simp] theorem retire_tile (i : StrandId) (k : Nat) (s : State) (u : TileId) : (retire i k s).tile u = s.tile u := by
  unfold retire
  split
  · rfl
  · rw [traceEnd_tile, State.tile_modStrand]

/-! ### VPART at issue (R124) -/

/-- An issue moves the program counter of its strand and counts it, and nothing else of any strand. -/
theorem advance_keeps {α : Type} {len : Nat} (f : Strand → α) (hf : ∀ t, f (t.advance len) = f t) (i j : StrandId) (s : State) :
    f ((advance i len s).strand j) = f (s.strand j) := by
  rw [advance_strand]
  split
  · subst_vars
    exact hf _
  · rfl

section
variable {st : State} {i : StrandId} {s : BitVec 5} (hq : MayQueue st i 4) (hx : Settled st i [s])
include hq hx

theorem execVpart_invalid (hg : partGroups ((st.strand i).xr s) = none) :
    execVpart s st = .next (takeTrap i ⟨cVpartInvalid, 0, false, (st.strand i).pc, (st.strand i).pc, 0, 0⟩ st) := by
  obtain ⟨hi, htile, hroom⟩ := hq
  refine issueEngine_preciseStop (f := ⟨cVpartInvalid, 0, 0⟩) hi ?_ rfl
  cases hc : i.core with
  | control q => simp [onControl, hc, coreTile] at htile
  | tile u => simp [hx, hroom, hg]

theorem execVpart_enters {gs : List (Nat × LaneGroup)} (hg : partGroups ((st.strand i).xr s) = some gs)
    (hown : ∀ g ∈ gs, ∀ o, g.2.owner = some o → (st.strand ⟨i.core, o⟩).status ≠ .free)
    (hgrant : ∀ j ∈ slots i.core, (st.strand j).grant = none) :
    execVpart s st = .next (queued st i 4 (.part ((st.strand i).xr s)) none) := by
  obtain ⟨hi, htile, hroom⟩ := hq
  refine issueEngine_ok hi.1 hi.2 ?_
  cases hc : i.core with
  | control q => simp [onControl, hc, coreTile] at htile
  | tile u =>
    simp only [hx, hroom, hg, Bool.or_self, Bool.false_eq_true, if_false]
    refine (if_neg ?_).trans ((if_neg ?_).trans rfl)
    · rw [List.any_eq_true]
      rintro ⟨g, hgs, hfree⟩
      cases ho : g.2.owner with
      | none => simp [ho] at hfree
      | some o =>
        rw [hc] at hown
        simp only [ho, decide_eq_true_eq, advance_keeps (·.status) (fun _ => rfl)] at hfree
        exact hown g hgs o ho hfree
    · rw [List.any_eq_true]
      rintro ⟨j, hj, hchild⟩
      rw [advance_keeps (·.grant) (fun _ => rfl), hgrant j (hc ▸ hj)] at hchild
      cases hchild

end

/-! ### VPART's effect (R124) -/

theorem find?_eq_some_of_unique {α : Type} {p : α → Bool} {l : List α} {a : α} (ha : a ∈ l) (hp : p a = true) (hu : ∀ b ∈ l, p b = true → b = a) :
    l.find? p = some a := by
  obtain ⟨b, hb⟩ := Option.ne_none_iff_exists'.mp (find?_ne_none ha hp)
  rw [hb, hu b (List.mem_of_find?_eq_some hb) (List.find?_some hb)]

/-- Changes of some strands, each once. -/
theorem foldl_modStrand_strand (f : StrandId → Strand → Strand) {l : List StrandId} (hn : l.Nodup) (s : State) (j : StrandId) :
    (l.foldl (fun s j => s.modStrand j (f j)) s).strand j = if j ∈ l then f j (s.strand j) else s.strand j := by
  induction l generalizing s with
  | nil => rfl
  | cons k r ih =>
    obtain ⟨hk, hr⟩ := List.nodup_cons.mp hn
    rw [List.foldl_cons, ih hr, State.strand_modStrand]
    by_cases hj : j = k
    · subst hj
      simp [hk]
    · simp [hj]

/-- A strand of a tile whose lanes are laid out anew (R124): its links end where its group changes. -/
def Strand.relaid (gs old : List (Nat × LaneGroup)) (j : StrandId) (t : Strand) : Strand :=
  { t with
      vl := 0, vvl := 0, vstart := 0, dirty := BitVec.allOnes 32
      links := if ownedIn gs j.slot = ownedIn old j.slot then t.links else []
      loose := if ownedIn gs j.slot = ownedIn old j.slot then t.loose else [] }

/-- A tile laid out anew by the VPART at the head of a strand's queue. -/
def relay (u : TileId) (i : StrandId) (gs : List (Nat × LaneGroup)) (st : State) : State :=
  (slots (.tile u)).foldl (fun s j => s.modStrand j (Strand.relaid gs (st.tile u).groups j)) (retire i 0 (st.setTile u { st.tile u with groups := gs }))

section
variable {st : State} {u : TileId} {i : StrandId} {e : VEntry} {x : Word} (hi : i.core = .tile u) (hq : (st.strand i).queue = [e])
  (he : e.op = .part x) (hh : (st.strand i).held = false) (ho : ∀ j ∈ slots (.tile u), j ≠ i → (st.strand j).queue = [])
include hi hq he hh ho

theorem execVpartEffect_relays (hw : (st.tile u).works = true) :
    execVpartEffect u st = .next (relay u i ((partGroups x).getD []) st) := by
  have hnow : (st.strand i).partsNow = some x := by simp only [Strand.partsNow, hh, hq, he]
  have hfind : ((slots (.tile u)).find? fun j => (st.strand j).partsNow.isSome) = some i := by
    refine find?_eq_some_of_unique (hi ▸ mem_slots_core i) (by rw [hnow]; rfl) fun j hj hp => ?_
    by_contra hne
    have hnone : (st.strand j).partsNow = none := by
      unfold Strand.partsNow
      rw [ho j hj hne]
      cases (st.strand j).held <;> rfl
    rw [hnone] at hp
    cases hp
  have hothers : ((slots (.tile u)).any fun j => j != i && !(st.strand j).queue.isEmpty) = false := by
    rw [List.any_eq_false]
    intro j hj
    by_cases hji : j = i
    · simp [hji]
    · simp [ho j hj hji]
  unfold execVpartEffect
  simp only [hfind, hw, hothers, hnow]
  rfl

omit hi he hh ho in
theorem retired_queue (u : TileId) (v : Tile) : ((retire i 0 (st.setTile u v)).strand i).queue = [] := by
  refine (Strand.of_unlinked (·.queue) (fun _ => rfl) (unlinked_retire (s := st.setTile u v) (e := e) ?_)).trans ?_
  · rw [State.strand_setTile, hq]
    rfl
  · exact (Strand.queue_retired ..).trans (congrArg List.tail hq)

omit hh he in
theorem relay_queue (gs : List (Nat × LaneGroup)) : ∀ j ∈ slots (.tile u), ((relay u i gs st).strand j).queue = [] := by
  intro j hj
  rw [relay, foldl_modStrand_strand _ (nodup_slots _), if_pos hj]
  by_cases hji : j = i
  · subst hji
    exact retired_queue hq ..
  · exact (Strand.of_unlinked (·.queue) (fun _ => rfl) (unlinked_retire_ne 0 _ hji)).trans (ho j hj hji)

end

theorem relay_strand (u : TileId) (i : StrandId) (gs : List (Nat × LaneGroup)) (st : State) {j : StrandId} (hj : j ∈ slots (.tile u)) :
    (relay u i gs st).strand j =
      ((retire i 0 (st.setTile u { st.tile u with groups := gs })).strand j).relaid gs (st.tile u).groups j := by
  rw [relay, foldl_modStrand_strand _ (nodup_slots _), if_pos hj]

theorem relay_groups (u : TileId) (i : StrandId) (gs : List (Nat × LaneGroup)) (st : State) : ((relay u i gs st).tile u).groups = gs := by
  refine (foldl_keeps (fun s : State => (s.tile u).groups) (f := fun s j => s.modStrand j (Strand.relaid gs (st.tile u).groups j))
    (fun s j => rfl) _ _).trans ?_
  rw [retire_tile, State.tile_setTile_self]

/-- A retirement writes no x register. -/
theorem retire_x (i : StrandId) (k : Nat) (s : State) (j : StrandId) : ((retire i k s).strand j).x = (s.strand j).x := by
  by_cases hj : j = i
  · subst hj
    cases hk : (s.strand j).queue[k]? with
    | none => simp only [retire, hk]
    | some e => exact (Strand.of_unlinked (·.x) (fun _ => rfl) (unlinked_retire hk)).trans rfl
  · exact Strand.of_unlinked (·.x) (fun _ => rfl) (unlinked_retire_ne k s hj)

/-! ### The layout of a VPART (R123, R124) -/

/-- The sizes of lane groups (R123). -/
def GroupSize (n : Nat) : Prop := n = 4 ∨ n = 8 ∨ n = 16 ∨ n = 32

theorem sizeOf_groupSize {z n : Nat} (h : sizeOf z = some n) : GroupSize n := by
  unfold sizeOf at h
  unfold GroupSize
  split at h <;> simp_all

theorem partList_groupSize {ds : List Nat} {l : List (Nat × BitVec 3)} (h : partList ds = some l) : ∀ p ∈ l, GroupSize p.1 := by
  induction ds generalizing l with
  | nil =>
    cases h
    nofun
  | cons d r ih =>
    rw [partList] at h
    split at h
    · cases h
    · split at h
      · split at h
        · cases h
          nofun
        · cases h
      · split at h
        · cases h
        · rename_i n hn
          obtain ⟨m, hm, rfl⟩ := Option.map_eq_some_iff.mp h
          intro p hp
          obtain rfl | hp := List.mem_cons.mp hp
          · exact sizeOf_groupSize hn
          · exact ih hm p hp

/-- A group that a layout places from a lane on, for one of some owners. -/
structure PlacedFrom (lane : Nat) (owners : List (BitVec 3)) (g : LaneGroup) : Prop where
  from_lane : lane ≤ g.base
  inside : g.base + g.size ≤ 32
  aligned : g.base % g.size = 0
  size : GroupSize g.size
  owner : ∃ o ∈ owners, g.owner = some o

theorem layGroups_places {l : List (Nat × BitVec 3)} (hs : ∀ p ∈ l, GroupSize p.1) (hn : (l.map (·.2)).Nodup) {k lane : Nat}
    {gs : List (Nat × LaneGroup)} (h : layGroups k lane l = some gs) :
    (∀ g ∈ gs, PlacedFrom lane (l.map (·.2)) g.2) ∧ gs.Pairwise fun a b => a.2.base + a.2.size ≤ b.2.base ∧ a.2.owner ≠ b.2.owner := by
  induction l generalizing k lane gs with
  | nil =>
    cases h
    exact ⟨nofun, List.Pairwise.nil⟩
  | cons p r ih =>
    obtain ⟨n, own⟩ := p
    have hsize : GroupSize n := hs (n, own) List.mem_cons_self
    have hpos : 0 < n := by
      obtain rfl | rfl | rfl | rfl := hsize <;> decide
    have hle : lane ≤ (lane + n - 1) / n * n := by
      have := Nat.div_add_mod (lane + n - 1) n
      have := Nat.mod_lt (lane + n - 1) hpos
      have := Nat.mul_comm n ((lane + n - 1) / n)
      omega
    rw [layGroups] at h
    have haligned : (lane + n - 1) / n * n % n = 0 := Nat.mul_mod_left ..
    generalize (lane + n - 1) / n * n = b at h hle haligned
    split at h
    · cases h
    · rename_i hb
      obtain ⟨m, hm, rfl⟩ := Option.map_eq_some_iff.mp h
      obtain ⟨hnot, hrest⟩ := List.nodup_cons.mp hn
      obtain ⟨hplaced, hpair⟩ := ih (fun p hp => hs p (List.mem_cons_of_mem _ hp)) hrest hm
      refine ⟨fun g hg => ?_, List.pairwise_cons.mpr ⟨fun g hg => ?_, hpair⟩⟩
      · obtain rfl | hg := List.mem_cons.mp hg
        · exact ⟨hle, Nat.le_of_not_lt hb, haligned, hsize, own, List.mem_cons_self, rfl⟩
        · obtain ⟨hfrom, hinside, hal, hz, o, ho, howner⟩ := hplaced g hg
          exact ⟨hle.trans ((Nat.le_add_right b n).trans hfrom), hinside, hal, hz, o, List.mem_cons_of_mem _ ho, howner⟩
      · obtain ⟨hfrom, -, -, -, o, ho, howner⟩ := hplaced g hg
        refine ⟨hfrom, fun he => hnot ?_⟩
        rw [howner] at he
        rwa [Option.some.inj he]

theorem partGroups_places {x : Word} {gs : List (Nat × LaneGroup)} (h : partGroups x = some gs) :
    ∃ owners, (∀ g ∈ gs, PlacedFrom 0 owners g.2) ∧ gs.Pairwise fun a b => a.2.base + a.2.size ≤ b.2.base ∧ a.2.owner ≠ b.2.owner := by
  unfold partGroups at h
  split at h
  · cases h
  · rename_i l hl
    split at h
    · rename_i hn
      exact ⟨_, layGroups_places (partList_groupSize hl) hn h⟩
    · cases h

/-- While an issued VPART has not taken effect, no queue of its core takes an entry (R124). -/
theorem parting_of_mem {s : State} {i : StrandId} {e : VEntry} (he : e ∈ (s.strand i).queue) (hp : e.op.parts = true) : s.parting i.core = true :=
  List.any_eq_true.mpr ⟨i, mem_slots_core i, List.any_eq_true.mpr ⟨e, he, hp⟩⟩

theorem parting_of_empty {s : State} {c : CoreId} (h : ∀ j ∈ slots c, (s.strand j).queue = []) : s.parting c = false := by
  refine List.any_eq_false.mpr fun j hj => ?_
  rw [h j hj]
  nofun

/-- Settles O32: VPART at issue is its entry, its effect lays every strand of the tile out anew, and the layout places each group after the last. -/
theorem laneGroupsArePartitioned : Obligations.LaneGroupsArePartitioned := by
  intro st u k s i t
  refine ⟨fun hq hx => ⟨execVpart_invalid hq hx, fun gs hg hown hgrant => ?entry⟩, fun e x gs hq he hh hg hw ho => ?effect, fun x gs hg => ?layout⟩
  case entry =>
    have hu := unlinked_queued i 4 (.part (t.xr s)) none st
    have same {α : Type} (f : Strand → α) (hf : ∀ t, f t.unlinked = f t) := Strand.of_unlinked f hf hu
    have hqueue := same (·.queue) fun _ => rfl
    refine ⟨_, execVpart_enters hq hx hg hown hgrant, same (·.pc) fun _ => rfl, hqueue, ?_, ?_⟩
    · refine parting_of_mem (i := i) (e := { vEntry t (.part (t.xr s)) none with time := st.now }) ?_ rfl
      rw [hqueue]
      exact List.mem_append_right _ List.mem_cons_self
    · rw [queued, pushEntry_tile, advance_groups]
  case effect =>
    have hq' : ∀ j ∈ slots (.tile u), ((relay u i gs st).strand j).queue = [] := relay_queue rfl hq ho gs
    refine ⟨relay u i gs st, ?_, relay_groups .., parting_of_empty hq', hq' i (mem_slots_core i), fun j hj => ?_⟩
    · have := execVpartEffect_relays rfl hq he hh ho hw
      rwa [hg] at this
    · rw [relay_strand u i gs st hj]
      refine ⟨rfl, rfl, rfl, rfl, (retire_x ..).trans ?_⟩
      rw [State.strand_setTile]
  case layout =>
    obtain ⟨owners, hplaced, hpair⟩ := partGroups_places hg
    exact ⟨hpair, fun g hg => ⟨(hplaced g hg).inside, (hplaced g hg).aligned, (hplaced g hg).size⟩⟩

end Sys2Proof.Machine
end

section
/-! PROOF. FORKL and JOINL at issue and at the head of the queue (R134, R135). -/

namespace Sys2Proof.Machine

open Sys2Proof

/-! ### FORKL at issue (R134) -/

section
variable {st : State} {i : StrandId} {d : BitVec 5} {s : BitVec 4} (hq : MayQueue st i 4) (hx : Settled st i [d]) (hv : (st.strand i).pendVl = false)
include hq hx hv

theorem execForkl_misaligned (ha : ((st.strand i).ar s).toNat % 4 ≠ 0) :
    execForkl d s st = .next (takeTrap i ⟨cJumpMisaligned, 0, false, (st.strand i).pc, (st.strand i).pc, (st.strand i).ar s, 0⟩ st) := by
  obtain ⟨hi, htile, hroom⟩ := hq
  refine issueEngine_preciseStop (f := ⟨cJumpMisaligned, (st.strand i).ar s, 0⟩) hi ?_ rfl
  rw [if_neg (by simp [htile]), if_neg (by simp [hx, hv, hroom]), if_pos (bne_iff_ne.mpr ha)]

theorem execForkl_unsplittable (ha : ((st.strand i).ar s).toNat % 4 = 0) (hl : st.lanes i ≤ 4 ∨ (st.strand i).grant ≠ none) :
    execForkl d s st = .next (takeTrap i ⟨cLaneSplit, 0, false, (st.strand i).pc, (st.strand i).pc, 0, 0⟩ st) := by
  obtain ⟨hi, htile, hroom⟩ := hq
  refine issueEngine_preciseStop (f := ⟨cLaneSplit, 0, 0⟩) hi ?_ rfl
  rw [if_neg (by simp [htile]), if_neg (by simp [hx, hv, hroom]), if_neg (by simp [ha]), if_pos]
  rw [advance_lanes]
  simpa [Option.isSome_iff_ne_none] using hl

theorem execForkl_enters (ha : ((st.strand i).ar s).toNat % 4 = 0) (hl : 4 < st.lanes i) (hg : (st.strand i).grant = none) :
    let c := (advance i 4 st).freeSlot i.core
    let w := (advance i 4 st).modStrand i fun r => { r with vl := 0, grant := c.map fun k => ⟨k, none⟩ }
    execForkl d s st = .next (pushEntry i (vEntry (st.strand i) (.fork d ((st.strand i).ar s) c (st.strand i).x (st.strand i).a) none)
      (if c = none then w.setX i d 0 else w)) := by
  obtain ⟨hi, htile, hroom⟩ := hq
  refine issueEngine_ok hi.1 hi.2 ?_
  rw [if_neg (by simp [htile]), if_neg (by simp [hx, hv, hroom]), if_neg (by simp [ha]), if_neg (by simp [hl, hg])]
  simp only [Option.isNone_iff_eq_none]

end

/-! ### FORKL at the head of the queue (R134) -/

/-- The groups of a tile after one of them has given its upper half to a slot. -/
def splitGroups (gs : List (Nat × LaneGroup)) (n : Nat) (g : LaneGroup) (c : BitVec 3) : List (Nat × LaneGroup) :=
  amSet (freeGroup gs) ⟨g.base + g.size / 2, g.size / 2, some c⟩ (amSet n { g with size := g.size / 2 } gs)

/-- The groups of a tile after one of them has taken back the group of its size above it. -/
def joinGroups (gs : List (Nat × LaneGroup)) (n : Nat) (g : LaneGroup) : List (Nat × LaneGroup) :=
  (gs.filter fun p => !(p.2.base = g.base + g.size && p.2.size = g.size)).map fun p => if p.1 = n then (n, { p.2 with size := 2 * p.2.size }) else p

/-- The child of a FORKL, of a parent that has retired it. -/
def Strand.child (p : Strand) (pc : Addr) (xs : Vector Word 32) (as : Vector Addr 16) (age : Nat) (orphans : List StoreEntry) : Strand :=
  { status := .running, pc := pc, x := xs, a := as, fcsr := p.fcsr, vcfg := p.vvcfg, vvcfg := p.vvcfg, age := age, level := p.level,
    ctxcur := p.ctxcur, ctx := p.ctx, dirty := BitVec.allOnes 32, orphans := orphans }

/-- The state in which the FORKL at the head of a strand's queue has retired, the tile's groups as given. -/
def forkRetired (u : TileId) (i : StrandId) (gs : List (Nat × LaneGroup)) (st : State) : State :=
  (retire i 0 (st.setTile u { st.tile u with groups := gs })).modStrand i fun r => { r with vvl := 0, links := [], loose := [] }

/-- The state after the FORKL at the head of a strand's queue has given the upper half of the group to a child. -/
def forked (u : TileId) (i : StrandId) (gs : List (Nat × LaneGroup)) (d : BitVec 5) (pc : Addr) (c : BitVec 3) (xs : Vector Word 32)
    (as : Vector Addr 16) (st : State) : State :=
  let stamped := newStamp i.core (forkRetired u i gs st)
  let child := (stamped.2.strand i).child pc xs as stamped.1 (stamped.2.strand ⟨i.core, c⟩).orphans
  (stamped.2.setStrand ⟨i.core, c⟩ child).setX i d (BitVec.ofNat 64 (c.toNat + 1))

section
variable {st : State} {i : StrandId} {u : TileId} {e : VEntry} {q : List VEntry} (hi : i.core = .tile u) (hh : (st.strand i).held = false)
  (hw : (st.tile u).works = true) (hq : (st.strand i).queue = e :: q)

include hi hh hw hq in
theorem execForklAct_splits {d : BitVec 5} {pc : Addr} {c : BitVec 3} {xs : Vector Word 32} {as : Vector Addr 16} {n : Nat} {g : LaneGroup}
    (he : e.op = .fork d pc (some c) xs as) (hg : (st.tile u).groups.find? (·.2.owner = some i.slot) = some (n, g)) :
    execForklAct i st = .next (forked u i (splitGroups (st.tile u).groups n g c) d pc c xs as st) := by
  have hruns : ((st.strand i).held || !st.coreRuns i.core) = false := by simp [hh, hi, State.coreRuns, hw]
  obtain ⟨core, slot⟩ := i
  subst hi
  simp only [execForklAct, hruns, hq, he, hg]
  rfl

include hq in
theorem unlinked_forkRetired (gs : List (Nat × LaneGroup)) :
    ((forkRetired u i gs st).strand i).unlinked = { ((st.strand i).retired 0 e).unlinked with vvl := 0 } := by
  have hr := unlinked_retire (s := st.setTile u { st.tile u with groups := gs }) (i := i) (k := 0) (e := e) (by rw [State.strand_setTile, hq]; rfl)
  rw [State.strand_setTile] at hr
  rw [forkRetired, State.strand_modStrand_self]
  exact congrArg (fun t : Strand => { t with vvl := 0 }) hr

include hi hh hw hq in
theorem execJoinlAct_joins {n : Nat} {g : LaneGroup} (he : e.op = .join)
    (hg : (st.tile u).groups.find? (·.2.owner = some i.slot) = some (n, g)) :
    execJoinlAct i st = .next ((retire i 0 (st.setTile u { st.tile u with groups := joinGroups (st.tile u).groups n g })).modStrand i
      fun r => { r with vvl := 0, grant := none, dirty := BitVec.allOnes 32 }) := by
  have hkey : (fun p : Nat × LaneGroup => if p.1 = n then (p.1, { p.2 with size := 2 * p.2.size }) else p) =
      fun p => if p.1 = n then (n, { p.2 with size := 2 * p.2.size }) else p :=
    funext fun p => ite_congr rfl (fun h => congrArg (·, _) h) fun _ => rfl
  rw [joinGroups, ← hkey]
  have hruns : ((st.strand i).held || !st.coreRuns i.core) = false := by simp [hh, hi, State.coreRuns, hw]
  obtain ⟨core, slot⟩ := i
  subst hi
  simp only [execJoinlAct, hruns, hq, he, hg]
  rfl

end

@[simp] theorem newStamp_strand (c : CoreId) (s : State) (j : StrandId) : (newStamp c s).2.strand j = s.strand j := State.strand_modCore ..

@[simp] theorem modCore_groups (s : State) (c : CoreId) (f : CoreState → CoreState) (u : TileId) : ((s.modCore c f).tile u).groups = (s.tile u).groups := by
  cases c with
  | control q => rfl
  | tile w =>
    by_cases h : u = w
    · subst h
      rw [State.modCore, State.tile_modTile_self]
    · rw [State.modCore, State.tile_modTile_ne _ _ h]

section
variable (u : TileId) (i : StrandId) (gs : List (Nat × LaneGroup)) (d : BitVec 5) (pc : Addr) {c : BitVec 3} (xs : Vector Word 32)
  (as : Vector Addr 16) (st : State)

theorem forked_groups : ((forked u i gs d pc c xs as st).tile u).groups = gs := by
  refine (modCore_groups ..).trans ?_
  rw [forkRetired, State.tile_modStrand, retire_tile, State.tile_setTile_self]

variable (hc : c ≠ i.slot)
include hc

theorem forked_parent : (forked u i gs d pc c xs as st).strand i = ((forkRetired u i gs st).strand i).setX d (BitVec.ofNat 64 (c.toNat + 1)) := by
  have hne : i ≠ ⟨i.core, c⟩ := fun h => hc (congrArg StrandId.slot h).symm
  rw [forked, State.setX, State.strand_modStrand_self, State.strand_setStrand_ne _ _ hne, newStamp_strand]

theorem forked_child : ∃ age orphans, (forked u i gs d pc c xs as st).strand ⟨i.core, c⟩ =
    ((forkRetired u i gs st).strand i).child pc xs as age orphans := by
  have hne : (⟨i.core, c⟩ : StrandId) ≠ i := fun h => hc (congrArg StrandId.slot h)
  rw [forked, State.setX, State.strand_modStrand_ne _ _ hne, State.strand_setStrand_self, newStamp_strand]
  exact ⟨_, _, rfl⟩

end

/-! ### JOINL at issue (R135) -/

section
variable {st : State} {i : StrandId}

/-- The state in which a JOINL issues, its record begun (R410). -/
def joinBegun (st : State) (i : StrandId) : State :=
  traceEvent i 0 false (st.strand i).issued (st.strand i).strip (st.strand i).pc (advance i 4 st)

variable (hq : MayQueue st i 4)
include hq

theorem execJoinl_alone (hc : (st.strand i).unjoined = none) :
    execJoinl st = .next (traceEvent i 0 true (st.strand i).issued (st.strand i).strip (st.strand i).pc (joinBegun st i)) := by
  obtain ⟨hi, htile, -⟩ := hq
  refine issueEngine_ok hi.1 hi.2 ?_
  rw [if_neg (by simp [htile])]
  simp only [hc]
  rfl

theorem execJoinl_child {c : Child} (hc : (st.strand i).unjoined = some c) (hv : (st.strand i).pendVl = false) :
    execJoinl st = .next (if c.gone.isSome then
        pushEntry i (vEntry (st.strand i) .join none) ((advance i 4 st).modStrand i fun r => { r with vl := 0 })
      else (joinBegun st i).modStrand i fun r => { r with status := .blocked .join, pc := (st.strand i).pc }) := by
  obtain ⟨hi, htile, hroom⟩ := hq
  refine issueEngine_ok hi.1 hi.2 ?_
  rw [if_neg (by simp [htile])]
  simp only [hc, hv, hroom, Bool.or_self, Bool.false_eq_true, if_false]
  exact (apply_ite Except.ok ..).symm

end

/-- A queued JOINL takes the child back already (log entry 91). -/
theorem Strand.unjoined_eq_none {t : Strand} (h : t.grant = none ∨ t.queue.any (·.op = .join) = true) : t.unjoined = none := by
  unfold Strand.unjoined
  split
  · rfl
  · exact h.resolve_right ‹_›

theorem Strand.unjoined_of_not_queued {t : Strand} (h : t.queue.any (·.op = .join) = false) : t.unjoined = t.grant :=
  if_neg (by simp [h])

/-- Settles O33: the outcomes of FORKL and of JOINL at issue, and each at the head of its queue, one equation for each. -/
theorem laneGroupsSplitAndJoin : Obligations.LaneGroupsSplitAndJoin := by
  intro st u k d s i t
  refine ⟨fun hq hx hv => ⟨execForkl_misaligned hq hx hv, execForkl_unsplittable hq hx hv, execForkl_enters hq hx hv⟩,
    fun e q pc c xs as n g hh hw hq he hc hg => ?fork,
    ⟨fun hq hc => execJoinl_alone hq (Strand.unjoined_eq_none hc),
      fun c hq hg hj hv => execJoinl_child hq ((Strand.unjoined_of_not_queued hj).trans hg) hv⟩,
    fun c hb hg hc hq => exec_joinlWake hb hg hc hq, fun e q n g hh hw hq he hg => ?join⟩
  case fork =>
    have hp := unlinked_forkRetired (u := u) hq (splitGroups (st.tile u).groups n g c)
    have same {α : Type} (f : Strand → α) (hf : ∀ t, f t.unlinked = f t) := Strand.of_unlinked f hf (t := { t.retired 0 e with vvl := 0 }) hp
    obtain ⟨age, orphans, hchild⟩ := forked_child u i (splitGroups (st.tile u).groups n g c) d pc xs as st hc
    have hparent := forked_parent u i (splitGroups (st.tile u).groups n g c) d pc xs as st hc
    refine ⟨_, execForklAct_splits rfl hh hw hq he hg, ?_, ?_, ?_, ?_, forked_groups ..⟩
    · rw [hparent, Strand.queue_setX, same (·.queue) fun _ => rfl]
      exact (Strand.queue_retired t e).trans (congrArg List.tail hq)
    · rw [State.xr, hparent, Strand.xr_setX_self]
    · rw [hparent]
      exact (Strand.vvl_setX ..).trans (same (·.vvl) fun _ => rfl)
    · rw [hchild, hparent]
      exact ⟨rfl, rfl, rfl, rfl, same (·.fcsr) fun _ => rfl, Strand.fcsr_setX .., same (·.vvcfg) fun _ => rfl, same (·.level) fun _ => rfl,
        same (·.ctxcur) fun _ => rfl, rfl⟩
  case join =>
    refine ⟨_, execJoinlAct_joins rfl hh hw hq he hg, ?_, ?_, ?_, ?_, ?_⟩
    · rw [State.strand_modStrand_self]
      refine (Strand.of_unlinked (·.queue) (fun _ => rfl) (unlinked_retire (e := e) (by rw [State.strand_setTile, hq]; rfl))).trans ?_
      exact (Strand.queue_retired ..).trans (congrArg List.tail hq)
    · rw [State.strand_modStrand_self]
    · rw [State.strand_modStrand_self]
    · rw [State.strand_modStrand_self]
    · rw [State.tile_modStrand, retire_tile, State.tile_setTile_self]
      rfl

end Sys2Proof.Machine
end

section
/-! PROOF. The forms of vector memory, cross-lane and configuration instructions that enter the vector queue (R124 to R126, R134, R135, R157, R239). -/

namespace Sys2Proof.Machine

open Sys2Proof

/-- An instruction whose strand is one advanced past it, with an entry more, has entered its queue as the last. -/
theorem enters_of_enqueued {st r : State} {i : StrandId} {t : Strand} {e : VEntry} {now : Nat} {op : VOp} {o : Out} (ho : o = .next r)
    (hr : (r.strand i).unlinked = (t.enqueued e now).unlinked) (hpc : t.pc = (st.strand i).pc + 4) (hq : t.queue = (st.strand i).queue) (he : e.op = op) :
    ∃ r y, o = .next r ∧ (r.strand i).pc = (st.strand i).pc + 4 ∧ (r.strand i).queue = (st.strand i).queue ++ [y] ∧ y.op = op :=
  ⟨r, { e with time := now }, ho, (Strand.of_unlinked (·.pc) (fun _ => rfl) hr).trans hpc,
    (Strand.of_unlinked (·.queue) (fun _ => rfl) hr).trans (congrArg (· ++ _) hq), he⟩

/-- Settles O24: each of the instructions is one operation at issue, with its address, stride or amount captured. -/
theorem vectorMemoryAndCrossLaneFormsEnterTheQueue : Obligations.VectorMemoryAndCrossLaneFormsEnterTheQueue := by
  intro st i hq t runs d s u a k mk
  show
    execVred d s u mk st = _ ∧ execVscan d s u mk st = _ ∧ execVscanx d s u mk st = _ ∧ execVperm d s u mk st = _ ∧ execVcomp d s k st = _ ∧
    execVexpd d s k st = _ ∧ execVfilt d s mk st = _ ∧ _ ∧
    (_ → execVtopk d s u mk st = _ ∧ execVslideup d s u mk st = _ ∧ execVslidedn d s u mk st = _ ∧ execVpf a u mk st = _) ∧
    (_ → _ → execVld d a mk st = _ ∧ execVldFE d a mk st = _ ∧ execVldFC d a mk st = _ ∧ execVldx d a s mk st = _ ∧ execVldff d a mk st = _ ∧
    execVldseg d a s mk st = _ ∧ execVst d a mk st = _ ∧ execVstx d a s mk st = _ ∧ execVstxo d a s mk st = _ ∧ execVstseg d a s mk st = _ ∧
    execVaadd d a s mk st = _ ∧ execVaand d a s mk st = _ ∧ execVaor d a s mk st = _ ∧ execVaxor d a s mk st = _ ∧ execVamin d a s mk st = _ ∧
    execVamax d a s mk st = _ ∧ execVaminu d a s mk st = _ ∧ execVamaxu d a s mk st = _ ∧ execVafadd d a s mk st = _ ∧ execVaswap d a s mk st = _ ∧
    execVacas d a s mk st = _ ∧ execVcadd d a s mk st = _ ∧ execVcand d a s mk st = _ ∧ execVcor d a s mk st = _ ∧ execVcxor d a s mk st = _ ∧
    execVcmin d a s mk st = _ ∧ execVcmax d a s mk st = _ ∧ execVcminu d a s mk st = _ ∧ execVcmaxu d a s mk st = _ ∧ execVcfadd d a s mk st = _ ∧
    execVgl d a s mk st = _ ∧ execVsc d a s k st = _ ∧ (_ → execVlds d a u mk st = _ ∧ execVldz d a u st = _ ∧ execVsts d a u mk st = _ ∧ execVstz d
    a u st = _))
  simp only [execVred, execVscan, execVscanx, execVperm, execVcomp, execVexpd, execVfilt, execVtopk, execVslideup, execVslidedn, execVpf, execVld,
    execVldFE, execVldFC, execVldx, execVldff, execVldseg, execVst, execVstx, execVstxo, execVstseg, execVaadd, execVaand, execVaor, execVaxor,
    execVamin, execVamax, execVaminu, execVamaxu, execVafadd, execVaswap, execVacas, execVcadd, execVcand, execVcor, execVcxor, execVcmin, execVcmax,
    execVcminu, execVcmaxu, execVcfadd, execVgl, execVsc, execVlds, execVldz, execVsts, execVstz, issueRed, issueLd, issueSt, issueAmo, issueCamo]
  have plain {op : VOp} {mk : Option (BitVec 3)} : op.memory = false → issueV one [] (fun _ => op) mk st = .next (queued st i one op mk) :=
    issueV_enters (op := fun _ => op) hq rfl
  refine ⟨plain rfl, plain rfl, plain rfl, plain rfl, plain rfl, plain rfl, plain rfl, ⟨fun hx hv hb => ?setl, fun hx hc => ?setcfg,
    fun gs hx hg hown hgrant => ?part, fun hx hv ha hl hg => ?fork, fun c hv hg hc hj => ?join⟩, fun hu => ?captures, fun hacq hrel => ?memory⟩
  case setl =>
    obtain ⟨r, hr, hu⟩ := execVsetl_grants hq hx hv hb rfl rfl
    exact ⟨_, enters_of_enqueued hr hu (Strand.pc_setX ..) (Strand.queue_setX ..) rfl⟩
  case setcfg =>
    refine enters_of_enqueued (execVsetcfg_installs hq hx hc) (unlinked_pushEntry ..) ?_ ?_ rfl
    · rw [State.strand_modStrand_self, advance_strand_self]
      exact Strand.pc_setX ..
    · rw [State.strand_modStrand_self, advance_strand_self]
      exact Strand.queue_setX ..
  case part => exact enters_of_enqueued (execVpart_enters hq hx hg hown hgrant) (unlinked_queued ..) rfl rfl rfl
  case fork =>
    refine enters_of_enqueued (execForkl_enters hq hx hv ha hl hg) (unlinked_pushEntry ..) ?_ ?_ rfl
    · split <;> simp [State.setX, Strand.advance]
    · split <;> simp [State.setX, Strand.advance]
  case join =>
    have hjoin := execJoinl_child hq ((Strand.unjoined_of_not_queued hj).trans hg) hv
    rw [if_pos hc] at hjoin
    refine enters_of_enqueued hjoin (unlinked_pushEntry ..) ?_ ?_ rfl
    · rw [State.strand_modStrand_self, advance_strand_self]
      rfl
    · rw [State.strand_modStrand_self, advance_strand_self]
      rfl
  case captures =>
    have captured {op : Strand → VOp} {mk : Option (BitVec 3)} : (op t).memory = false → issueV one [u] op mk st = .next (queued st i one (op t) mk) :=
      issueV_enters hq hu
    exact ⟨captured rfl, captured rfl, captured rfl, captured rfl⟩
  case memory =>
    have accesses {op : Strand → VOp} {mk : Option (BitVec 3)} : issueV one [] op mk st = .next (queued st i one (op t) mk) :=
      issueV_accesses hq hacq hrel rfl
    refine ⟨accesses, accesses, accesses, accesses, accesses, accesses, accesses, accesses, accesses, accesses, accesses, accesses, accesses, accesses,
      accesses, accesses, accesses, accesses, accesses, accesses, accesses, accesses, accesses, accesses, accesses, accesses, accesses, accesses,
      accesses, accesses, accesses, accesses, fun hu => ?_⟩
    have captured {op : Strand → VOp} {mk : Option (BitVec 3)} : issueV one [u] op mk st = .next (queued st i one (op t) mk) :=
      issueV_accesses hq hacq hrel hu
    exact ⟨captured, captured, captured, captured⟩

end Sys2Proof.Machine
end

section
/-! PROOF. The elements of vector registers: where they stand, and what a write of one changes (R121, R122, R137). -/

namespace Sys2Proof.Machine

open Sys2Proof

/-! ### Fields of a word -/

theorem testBit_field (v lo n j : Nat) : (field v lo n).testBit j = (decide (j < n) && v.testBit (lo + j)) := by
  rw [field, Nat.testBit_mod_two_pow, Nat.testBit_div_two_pow, Nat.add_comm]

theorem getLsbD_setField (x : Word) (slot w v : Nat) {j : Nat} (hj : j < 64) :
    (setField x slot w v).getLsbD j = if slot * w ≤ j ∧ j < slot * w + w then v.testBit (j - slot * w) else x.getLsbD j := by
  have hmask : ((2 ^ w - 1) * 2 ^ (slot * w)).testBit j = decide (slot * w ≤ j ∧ j < slot * w + w) := by
    rw [Nat.testBit_mul_two_pow, Nat.testBit_two_pow_sub_one]
    by_cases h : slot * w ≤ j
    · simp only [h, decide_true, Bool.true_and, true_and, decide_eq_decide]
      omega
    · simp [h]
  have hval : (v % 2 ^ w * 2 ^ (slot * w)).testBit j = (decide (slot * w ≤ j ∧ j < slot * w + w) && v.testBit (j - slot * w)) := by
    rw [Nat.testBit_mul_two_pow, Nat.testBit_mod_two_pow, ← Bool.and_assoc]
    congr 1
    by_cases h : slot * w ≤ j
    · simp only [h, decide_true, Bool.true_and, true_and, decide_eq_decide]
      omega
    · simp [h]
  simp only [setField, BitVec.getLsbD_or, BitVec.getLsbD_and, BitVec.getLsbD_not, BitVec.getLsbD_ofNat, hj, decide_true, Bool.true_and, hmask, hval]
  by_cases h : slot * w ≤ j ∧ j < slot * w + w
  · simp [h]
  · simp [h]

section
variable (x : Word) {slot k w : Nat} (v : Nat)

theorem field_setField_self (h : slot * w + w ≤ 64) : field (setField x slot w v).toNat (slot * w) w = v % 2 ^ w := by
  refine Nat.eq_of_testBit_eq fun j => ?_
  rw [testBit_field, Nat.testBit_mod_two_pow]
  by_cases hj : j < w
  · rw [BitVec.testBit_toNat, getLsbD_setField x slot w v (by omega), if_pos (by omega), Nat.add_sub_cancel_left]
  · simp [hj]

theorem field_setField_ne (hk : k * w + w ≤ 64) (h : k ≠ slot) : field (setField x slot w v).toNat (k * w) w = field x.toNat (k * w) w := by
  have hout : k * w + w ≤ slot * w ∨ slot * w + w ≤ k * w := by
    rcases Nat.lt_or_gt_of_ne h with hlt | hlt
    · exact .inl (by simpa [Nat.succ_mul] using Nat.mul_le_mul_right w hlt)
    · exact .inr (by simpa [Nat.succ_mul] using Nat.mul_le_mul_right w hlt)
  refine Nat.eq_of_testBit_eq fun j => ?_
  rw [testBit_field, testBit_field]
  by_cases hj : j < w
  · rw [BitVec.testBit_toNat, getLsbD_setField x slot w v (by omega), if_neg (by omega), BitVec.testBit_toNat]
  · simp [hj]

end

/-! ### The place of an element (R121, R122) -/

section
variable {w : Nat} (hw : w ∣ 64)
include hw

theorem width_pos : 0 < w := Nat.pos_of_dvd_of_pos hw (by decide)

theorem perWord_pos : 0 < 64 / w := Nat.div_pos (Nat.le_of_dvd (by decide) hw) (width_pos hw)

/-- A register holds eight element groups at each width. -/
theorem capacity_eq (n : Nat) : capacity n w = perGroup n w * 8 := by
  have h512 : w ∣ 512 := hw.trans (by decide)
  rw [capacity, perGroup, Nat.mul_div_assoc n h512, Nat.mul_assoc, Nat.div_mul_right_comm hw]

theorem perGroup_pos {n : Nat} (hn : 0 < n) : 0 < perGroup n w := Nat.mul_pos hn (perWord_pos hw)

section
variable {g : LaneGroup} (r : Nat) {e : Nat} (he : e < capacity g.size w)
include he

/-- Within the capacity, the elements of a register stand in that register. -/
theorem elemPos_eq :
    elemPos g r w e = (r, g.base + e % perGroup g.size w / (64 / w), e / perGroup g.size w, e % perGroup g.size w % (64 / w)) := by
  have hword : e / perGroup g.size w < 8 := Nat.div_lt_of_lt_mul (capacity_eq hw _ ▸ he)
  simp only [elemPos, Nat.div_eq_of_lt hword, Nat.mod_eq_of_lt hword, Nat.add_zero]

theorem elem_word_lt : e / perGroup g.size w < 8 := Nat.div_lt_of_lt_mul (capacity_eq hw _ ▸ he)

end

theorem elem_lane_lt {n : Nat} (hn : 0 < n) (e : Nat) : e % perGroup n w / (64 / w) < n :=
  Nat.div_lt_of_lt_mul (Nat.mul_comm n _ ▸ Nat.mod_lt e (perGroup_pos hw hn))

theorem elem_slot_le (p : Nat) : p % (64 / w) * w + w ≤ 64 := by
  have h := Nat.mul_le_mul_right w (Nat.succ_le_of_lt (Nat.mod_lt p (perWord_pos hw)))
  rwa [Nat.succ_mul, Nat.div_mul_cancel hw] at h

end

/-- The place in a register names the element. -/
theorem elem_of_place {w n e k : Nat} (hword : k / perGroup n w = e / perGroup n w)
    (hlane : k % perGroup n w / (64 / w) = e % perGroup n w / (64 / w)) (hslot : k % perGroup n w % (64 / w) = e % perGroup n w % (64 / w)) : k = e := by
  have hp : k % perGroup n w = e % perGroup n w := by rw [← Nat.div_add_mod (k % perGroup n w) (64 / w), hlane, hslot, Nat.div_add_mod]
  rw [← Nat.div_add_mod k (perGroup n w), hword, hp, Nat.div_add_mod]

theorem vKey_inj {r r' l l' k k' : Nat} (hl : l < 32) (hl' : l' < 32) (hk : k < 8) (hk' : k' < 8) (h : vKey r l k = vKey r' l' k') :
    r = r' ∧ l = l' ∧ k = k' := by
  unfold vKey at h
  omega

/-! ### A write of one element (R121, R137) -/

section
variable (i : StrandId) (g : LaneGroup) (r : BitVec 5) (w e v : Nat) (s : State)

/-- A tile with one word of a lane's slice of a register replaced. -/
def Tile.putWord (t : Tile) (key : Nat) (x : Word) : Tile := { t with v := amSet key x t.v }

theorem setElem_tile (u : TileId) :
    (setElem i g r w e v s).tile u = if u = vTile i then
      let (rr, lane, word, slot) := elemPos g r.toNat w e
      (s.tile u).putWord (vKey rr lane word) (setField ((s.tile u).vword rr lane word) slot w v) else s.tile u := by
  refine (State.tile_modStrand ..).trans ((State.tile_modTile ..).trans ?_)
  split
  · subst_vars
    rfl
  · rfl

theorem setElem_strand (j : StrandId) : (setElem i g r w e v s).strand j =
    if j = i then { s.strand i with dirty := (s.strand i).dirty ||| BitVec.twoPow 32 (elemPos g r.toNat w e).1 } else s.strand j :=
  State.strand_modStrand ..


end

theorem putWord_vword (t : Tile) {r lane word r' lane' word' : Nat} (x : Word) (hl : lane < 32) (hl' : lane' < 32) (hk : word < 8) (hk' : word' < 8) :
    (t.putWord (vKey r lane word) x).vword r' lane' word' = if r' = r ∧ lane' = lane ∧ word' = word then x else t.vword r' lane' word' := by
  unfold Tile.vword Tile.putWord
  rw [amGet_amSet]
  by_cases h : r' = r ∧ lane' = lane ∧ word' = word
  · obtain ⟨rfl, rfl, rfl⟩ := h
    simp
  · rw [if_neg fun he => h (vKey_inj hl' hl hk' hk he), if_neg h]

section
variable {i : StrandId} {g : LaneGroup} {r : BitVec 5} {w e : Nat} (v : Nat) (s : State) (hw : w ∣ 64) (hn : 0 < g.size) (hg : g.base + g.size ≤ 32)
  (he : e < capacity g.size w)
include hw hn hg he

/-- What an element reads after the write of another, by their places. -/
theorem elem_setElem {h : LaneGroup} {z k : Nat} (q : BitVec 5) (hz : z ∣ 64) (hm : 0 < h.size) (hh : h.base + h.size ≤ 32) (hk : k < capacity h.size z) :
    (setElem i g r w e v s).elem i h q z k =
      if q = r ∧ h.base + k % perGroup h.size z / (64 / z) = g.base + e % perGroup g.size w / (64 / w) ∧ k / perGroup h.size z = e / perGroup g.size w
      then field (setField ((s.tile (vTile i)).vword r.toNat (g.base + e % perGroup g.size w / (64 / w)) (e / perGroup g.size w))
        (e % perGroup g.size w % (64 / w)) w v).toNat (k % perGroup h.size z % (64 / z) * z) z
      else s.elem i h q z k := by
  have hlane := elem_lane_lt hw hn e
  have hlane' := elem_lane_lt hz hm k
  simp only [State.elem, setElem_tile, if_pos, Tile.elem, elemPos_eq hw _ he, elemPos_eq hz _ hk]
  rw [putWord_vword _ _ (by omega) (by omega) (elem_word_lt hw he) (elem_word_lt hz hk)]
  simp only [BitVec.toNat_inj]
  split
  · rfl
  · rfl

theorem elem_setElem_self : (setElem i g r w e v s).elem i g r w e = v % 2 ^ w := by
  rw [elem_setElem v s hw hn hg he r hw hn hg he, if_pos ⟨rfl, rfl, rfl⟩, field_setField_self _ _ (elem_slot_le hw _)]

/-- Another element of the register, at the same width. -/
theorem elem_setElem_ne {k : Nat} (hk : k < capacity g.size w) (hne : k ≠ e) : (setElem i g r w e v s).elem i g r w k = s.elem i g r w k := by
  rw [elem_setElem v s hw hn hg he r hw hn hg hk]
  split
  · rename_i hsame
    obtain ⟨-, hlane, hword⟩ := hsame
    have hslot : k % perGroup g.size w % (64 / w) ≠ e % perGroup g.size w % (64 / w) :=
      fun hslot => hne (elem_of_place hword (Nat.add_left_cancel hlane) hslot)
    rw [field_setField_ne _ _ (elem_slot_le hw _) hslot, ← Nat.add_left_cancel hlane, ← hword]
    simp only [State.elem, Tile.elem, elemPos_eq hw _ hk]
  · rfl

/-- An element of another register, or of lanes of another group, at any width. -/
theorem elem_setElem_other {h : LaneGroup} {z k : Nat} {q : BitVec 5} (hz : z ∣ 64) (hm : 0 < h.size) (hh : h.base + h.size ≤ 32)
    (hk : k < capacity h.size z) (hoff : q ≠ r ∨ h.base + h.size ≤ g.base ∨ g.base + g.size ≤ h.base) :
    (setElem i g r w e v s).elem i h q z k = s.elem i h q z k := by
  have hlane := elem_lane_lt hw hn e
  have hlane' := elem_lane_lt hz hm k
  rw [elem_setElem v s hw hn hg he q hz hm hh hk, if_neg]
  rintro ⟨hq, hsame, -⟩
  generalize e % perGroup g.size w / (64 / w) = l at hlane hsame
  generalize k % perGroup h.size z / (64 / z) = m at hlane' hsame
  obtain hne | hbelow | habove := hoff
  · exact hne hq
  · omega
  · omega

end

theorem width_dvd {w : Nat} (h : w = 4 ∨ w = 8 ∨ w = 16 ∨ w = 32 ∨ w = 64) : w ∣ 64 := by
  obtain rfl | rfl | rfl | rfl | rfl := h <;> decide

/-- Settles O27: an element has a place of its own in its register, and lanes have words of their own. -/
theorem elementWritesAreLocal : Obligations.ElementWritesAreLocal := by
  intro s i g h r q w z e k v hw hz hn hg hm hh he s'
  have hw := width_dvd hw
  have hz := width_dvd hz
  refine ⟨elem_setElem_self v s hw hn hg he, fun hk hne => elem_setElem_ne v s hw hn hg he hk hne,
    fun hk hoff => elem_setElem_other v s hw hn hg he hz hm hh hk hoff, ?dirty, rfl, fun j => ?registers⟩
  case dirty =>
    rw [setElem_strand, if_pos rfl, elemPos_eq hw _ he]
    simp [r.isLt]
  case registers =>
    rw [setElem_strand]
    split
    · subst_vars
      exact ⟨rfl, rfl⟩
    · exact ⟨rfl, rfl⟩

end Sys2Proof.Machine
end

section
/-! PROOF. Element groups: what the elements of a run leave beside, and how a group ends (R71, R129, R156, R167). -/

namespace Sys2Proof.Machine

open Sys2Proof

/-! ### What processing elements leaves as it was -/

/-- A strand but for what an element can change: its links, dirty bits, mask registers, and the context entry that it holds. -/
def Strand.aside (t : Strand) : Strand := { t with links := [], loose := [], dirty := 0, ctx := none, m := Vector.replicate 8 0 }

theorem Strand.of_aside {α : Type} (f : Strand → α) (hf : ∀ t, f t.aside = f t) {t u : Strand} (h : u.aside = t.aside) : f u = f t := by
  rw [← hf u, h, hf]

theorem Strand.aside_of_unlinked {t u : Strand} (h : u.unlinked = t.unlinked) : u.aside = t.aside :=
  Strand.of_unlinked Strand.aside (fun _ => rfl) h

/-- A state that differs from another, beside memories and registers, in nothing that a strand's element meets. -/
structure Beside (i : StrandId) (st s : State) : Prop where
  strand : (s.strand i).aside = (st.strand i).aside
  res : ∀ u, (s.tile u).res = (st.tile u).res
  quads : s.quads = st.quads

theorem Beside.refl (i : StrandId) (s : State) : Beside i s s := ⟨rfl, fun _ => rfl, rfl⟩

theorem Beside.trans {i : StrandId} {s t u : State} (h : Beside i s t) (k : Beside i t u) : Beside i s u :=
  ⟨k.strand.trans h.strand, fun v => (k.res v).trans (h.res v), k.quads.trans h.quads⟩

section
variable {i : StrandId} {st s : State} (h : Beside i st s)
include h

theorem Beside.x : (s.strand i).x = (st.strand i).x := Strand.of_aside (·.x) (fun _ => rfl) h.strand

theorem Beside.queue : (s.strand i).queue = (st.strand i).queue := Strand.of_aside (·.queue) (fun _ => rfl) h.strand

theorem Beside.fcsr : (s.strand i).fcsr = (st.strand i).fcsr := Strand.of_aside (·.fcsr) (fun _ => rfl) h.strand

theorem Beside.stores : (s.strand i).stores = (st.strand i).stores := Strand.of_aside (·.stores) (fun _ => rfl) h.strand

theorem Beside.lates : (s.strand i).lates = (st.strand i).lates := Strand.of_aside (·.lates) (fun _ => rfl) h.strand

/-- What the window gives an address depends on the tiles' places and on the disabled tiles (R167). -/
theorem Beside.windowAddr (c : CoreId) (va : Addr) (acc : Access) : windowAddr c va acc s = windowAddr c va acc st := by
  have henabled (u : TileId) : s.enabled u = st.enabled u := by rw [State.enabled, State.enabled, State.quad, State.quad, h.quads]
  simp only [Machine.windowAddr, h.res, henabled]

end

/-! ### The operations of an element -/

theorem setElem_beside (i : StrandId) (g : LaneGroup) (r : BitVec 5) (w e v : Nat) (s : State) : Beside i s (setElem i g r w e v s) where
  strand := by
    rw [setElem_strand, if_pos rfl]
    rfl
  res u := by
    rw [setElem_tile]
    split <;> rfl
  quads := rfl

theorem setElem_m (i : StrandId) (g : LaneGroup) (r : BitVec 5) (w e v : Nat) (s : State) :
    ((setElem i g r w e v s).strand i).m = (s.strand i).m := by
  rw [setElem_strand, if_pos rfl]

theorem setElem_tmem (i : StrandId) (g : LaneGroup) (r : BitVec 5) (w e v : Nat) (s : State) (u : TileId) :
    ((setElem i g r w e v s).tile u).tmem = (s.tile u).tmem := by
  rw [setElem_tile]
  split <;> rfl

theorem setMbit_beside (i : StrandId) (r : BitVec 3) (e : Nat) (b : Bool) (s : State) : Beside i s (setMbit i r e b s) where
  strand := by
    rw [setMbit, State.strand_modStrand_self]
    rfl
  res _ := rfl
  quads := rfl

section
variable (i : StrandId) (s : State)

/-- The view of a strand in level M is its own; otherwise it may take up a context entry (R396). -/
theorem strandXl_core : (strandXl i s).1.core = i.core := by
  unfold strandXl
  dsimp only
  split
  · rfl
  · rfl
  · split <;> rfl

theorem strandXl_tiles : (strandXl i s).2.tiles = s.tiles := by
  unfold strandXl
  dsimp only
  split
  · rfl
  · rfl
  · split <;> rfl

theorem strandXl_poison : (strandXl i s).2.poison = s.poison := by
  unfold strandXl
  dsimp only
  split
  · rfl
  · rfl
  · split <;> rfl

theorem strandXl_strand : ∃ c, (strandXl i s).2.strand i = { s.strand i with ctx := c } := by
  unfold strandXl
  dsimp only
  split
  · exact ⟨_, rfl⟩
  · exact ⟨_, rfl⟩
  · split
    · exact ⟨_, rfl⟩
    · exact ⟨_, State.strand_setStrand_self ..⟩

theorem strandXl_quads : (strandXl i s).2.quads = s.quads := by
  unfold strandXl
  dsimp only
  split
  · rfl
  · rfl
  · split <;> rfl

theorem strandXl_beside : Beside i s (strandXl i s).2 where
  strand := by
    obtain ⟨c, hc⟩ := strandXl_strand i s
    rw [hc]
    rfl
  res u := by rw [State.tile_of_tiles (strandXl_tiles i s)]
  quads := strandXl_quads i s

theorem strandXl_m : ((strandXl i s).2.strand i).m = (s.strand i).m := by
  obtain ⟨c, hc⟩ := strandXl_strand i s
  rw [hc]

end

theorem writeTmem_quads (k : Option StrandId) (u : TileId) (o : Nat) (bs : List Byte) (s : State) : (writeTmem k u o bs s).quads = s.quads := by
  unfold writeTmem
  split
  · rfl
  · exact foldl_keeps State.quads (f := fun s n => loseLinks k (.tmem u n) s) (fun _ _ => rfl) _ s

theorem writeTmem_beside (i : StrandId) (k : Option StrandId) (u : TileId) (o : Nat) (bs : List Byte) (s : State) :
    Beside i s (writeTmem k u o bs s) where
  strand := Strand.aside_of_unlinked (unlinked_writeTmem ..)
  res v := by
    rw [writeTmem_tile]
    split
    · subst_vars
      rfl
    · rfl
  quads := writeTmem_quads ..

/-- Full bits are no part of what an element meets. -/
theorem fillGranule_keeps {α : Type} (f : Tile → α) (hf : ∀ v l, f { v with full := l } = f v) (g : Option (TileId × Nat)) (s : State) (u : TileId) :
    f ((fillGranule g s).tile u) = f (s.tile u) := by
  cases g with
  | none => rfl
  | some p =>
    rw [fillGranule, setFull, if_neg (by decide), State.tile_modTile]
    split
    · subst_vars
      exact hf ..
    · rfl

theorem fillGranule_strands (g : Option (TileId × Nat)) (s : State) : (fillGranule g s).strands = s.strands ∧ (fillGranule g s).quads = s.quads := by
  cases g with
  | none => exact ⟨rfl, rfl⟩
  | some p =>
    rw [fillGranule, setFull, if_neg (by decide)]
    exact ⟨rfl, rfl⟩

theorem fillGranule_beside (i : StrandId) (g : Option (TileId × Nat)) (s : State) : Beside i s (fillGranule g s) where
  strand := by rw [State.strand_of_strands (fillGranule_strands g s).1]
  res u := fillGranule_keeps (·.res) (fun _ _ => rfl) g s u
  quads := (fillGranule_strands g s).2

/-! ### A checked place in the TMEM window (R161, R167) -/

/-- The place of an aligned access in the window is free of every check beyond the window's own. -/
theorem vPlace_window {i : StrandId} {ea : Addr} {acc : Access} {n : Nat} {barred : Phys → Option Flt} {s : State} {u : TileId} {o : Nat}
    (hn : ea.toNat % n = 0) (hin : inWindow ea = true) (hp : windowAddr i.core ea acc s = .ok ⟨.tmem u o, false, 0, false, none⟩)
    (hb : barred ⟨.tmem u o, false, 0, false, none⟩ = none) :
    vPlace i ea acc n barred s = .ok (⟨.tmem u o, false, 0, false, none⟩, (strandXl i s).2) := by
  have ht : translate (strandXl i s).1 ea acc (strandXl i s).2 = .ok (⟨.tmem u o, false, 0, false, none⟩, (strandXl i s).2) := by
    simp only [translate, resolve, hin, if_true, strandXl_core, (strandXl_beside i s).windowAddr, hp, Except.map]
    rfl
  simp only [vPlace, hn, ht, hb]
  rfl

/-! ### A run of elements (R129) -/

/-- A run whose every element completes, and keeps a relation of the elements processed and the state. -/
theorem runElems_ok {f : Nat → State → VRes} {fl : Nat → Flags} {R : List Nat → State → Prop} {es : List Nat} (hn : es.Nodup)
    (hstep : ∀ done e s, e ∈ es → e ∉ done → R done s → ∃ s', f e s = .ok (fl e) s' ∧ R (done ++ [e]) s') {s : State} (hs : R [] s) :
    ∃ s', runElems f es 0 s = ⟨es.foldl (fun a e => a ||| fl e) 0, s', none⟩ ∧ R es s' := by
  have go : ∀ (rest done : List Nat) (a : Flags) (s : State), (done ++ rest).Nodup → (∀ e ∈ rest, e ∈ es) → R done s →
      ∃ s', runElems f rest a s = ⟨rest.foldl (fun a e => a ||| fl e) a, s', none⟩ ∧ R (done ++ rest) s' := by
    intro rest
    induction rest with
    | nil => exact fun done a s _ _ h => ⟨s, rfl, (List.append_nil done).symm ▸ h⟩
    | cons e rest ih =>
      intro done a s hnd hmem h
      have hnot : e ∉ done := fun hd => (List.disjoint_of_nodup_append hnd) hd List.mem_cons_self
      obtain ⟨s', hf, h'⟩ := hstep done e s (hmem e List.mem_cons_self) hnot h
      rw [List.append_cons] at hnd ⊢
      obtain ⟨r, hr, h''⟩ := ih (done ++ [e]) (a ||| fl e) s' hnd (fun k hk => hmem k (List.mem_cons_of_mem _ hk)) h'
      exact ⟨r, by rw [runElems, hf]; exact hr, h''⟩
  exact go es [] 0 s hn (fun _ h => h) hs

/-! ### The end of a group (R71, R120, R129) -/

/-- What a completed group leaves of the entry at the head of a queue: its progress, or at the end its flags in `fcsr`. -/
structure GroupEnds (i : StrandId) (x : VEntry) (q : List VEntry) (n vl : Nat) (f : Flags) (s r : State) : Prop where
  going : n < vl → (r.strand i).unlinked = { (s.strand i).unlinked with queue := { x with next := n, flags := x.flags ||| f } :: q }
  ended : n = vl → (r.strand i).unlinked = { ((s.strand i).raise (x.flags ||| f)).unlinked with queue := q }
  v : ∀ u, (r.tile u).v = (s.tile u).v
  tmem : ∀ u, (r.tile u).tmem = (s.tile u).tmem

theorem bump_keeps {α : Type} (f : Tile → α) (hf : ∀ v c, f { v with counts := c } = f v) (t : TileId) (k : Fin 10) (n : Nat) (s : State) (u : TileId) :
    f ((bump t k n s).tile u) = f (s.tile u) := by
  rw [bump, State.tile_modTile]
  split
  · subst_vars
    exact hf ..
  · rfl

theorem retireEntry_plain {i : StrandId} {s : State} {x : VEntry} {q : List VEntry} (hq : (s.strand i).queue = x :: q) (hf : x.op.firstFault = false) :
    retireEntry i 0 s = retire i 0 s := by
  simp [retireEntry, hq, hf]

theorem afterGroup_ends {i : StrandId} {s : State} {x : VEntry} {q : List VEntry} (hq : (s.strand i).queue = x :: q) (hf : x.op.firstFault = false)
    (hc : x.partials = none) (n vl : Nat) (f : Flags) :
    ∃ r, afterGroup i 0 n vl ⟨f, s, none⟩ = some r ∧ GroupEnds i x q n vl f s r := by
  let y : VEntry := { x with next := n, flags := x.flags ||| f }
  let m : State := modEntry i 0 (fun e => { e with next := n }) (modEntry i 0 (fun e => { e with flags := e.flags ||| f }) s)
  have hm : m.strand i = { s.strand i with queue := y :: q } := by
    simp [m, y, modEntry, hq]
  have hmq : (m.strand i).queue = y :: q := by rw [hm]
  have hafter : afterGroup i 0 n vl ⟨f, s, none⟩ = some (bump (vTile i) 3 1 (if vl ≤ n then retire i 0 m else m)) := by
    have hcamo : (((m.strand i).queue[0]?.map fun e => e.partials.isSome).getD false) = false := by
      rw [hmq]
      exact congrArg Option.isSome (show y.partials = none from hc)
    show (if decide (vl ≤ n) && (((m.strand i).queue[0]?.map fun e => e.partials.isSome).getD false) && partsHeld i 0 m then none
      else some (bump (vTile i) 3 1 (if vl ≤ n then retireEntry i 0 (if ((m.strand i).queue[0]?.map fun e => e.partials.isSome).getD false
        then flushParts i m else m) else m))) = _
    rw [hcamo, Bool.and_false, Bool.false_and, if_neg Bool.false_ne_true, if_neg Bool.false_ne_true, retireEntry_plain (x := y) hmq hf]
  refine ⟨_, hafter, ⟨fun hlt => ?_, fun heq => ?_, fun u => ?_, fun u => ?_⟩⟩
  · rw [if_neg (Nat.not_le.mpr hlt)]
    exact congrArg Strand.unlinked hm
  · rw [if_pos heq.ge]
    refine (unlinked_retire (e := y) (by rw [hmq]; rfl)).trans ?_
    rw [hm]
    rfl
  · rw [bump_keeps (·.v) fun _ _ => rfl]
    split
    · rw [retire_tile]
      rfl
    · rfl
  · rw [bump_keeps (·.tmem) fun _ _ => rfl]
    split
    · rw [retire_tile]
      rfl
    · rfl

section
variable {i : StrandId} {y : VEntry} {q : List VEntry} {n vl : Nat} {f : Flags} {s r : State} (h : GroupEnds i y q n vl f s r)
include h

/-- The end of a group changes nothing of its strand but the queue, the flags and the links. -/
theorem GroupEnds.keeps {α : Type} (p : Strand → α) (hu : ∀ t, p t.unlinked = p t) (hq : ∀ t l, p { t with queue := l } = p t)
    (hf : ∀ t g, p (t.raise g) = p t) (hn : n ≤ vl) : p (r.strand i) = p (s.strand i) := by
  rw [← hu (r.strand i)]
  rcases Nat.lt_or_eq_of_le hn with hlt | heq
  · rw [h.going hlt, hq, hu]
  · rw [h.ended heq, hq, hu, hf]

theorem GroupEnds.x (hn : n ≤ vl) : (r.strand i).x = (s.strand i).x := h.keeps (·.x) (fun _ => rfl) (fun _ _ => rfl) (fun _ _ => rfl) hn

theorem GroupEnds.m (hn : n ≤ vl) : (r.strand i).m = (s.strand i).m := h.keeps (·.m) (fun _ => rfl) (fun _ _ => rfl) (fun _ _ => rfl) hn

theorem GroupEnds.elem (j : StrandId) (g : LaneGroup) (k : BitVec 5) (w e : Nat) : r.elem j g k w e = s.elem j g k w e := by
  simp only [State.elem, Tile.elem, Tile.vword, h.v]

theorem GroupEnds.queue (hlt : n < vl) : (r.strand i).queue = { y with next := n, flags := y.flags ||| f } :: q :=
  Strand.of_unlinked (·.queue) (fun _ => rfl) (t := { s.strand i with queue := { y with next := n, flags := y.flags ||| f } :: q }) (h.going hlt)

theorem GroupEnds.retired (heq : n = vl) : (r.strand i).queue = q ∧ (r.strand i).fcsr = ((s.strand i).raise (y.flags ||| f)).fcsr :=
  Strand.of_unlinked (fun t => t.queue = q ∧ t.fcsr = ((s.strand i).raise (y.flags ||| f)).fcsr) (fun _ => rfl)
    (t := { (s.strand i).raise (y.flags ||| f) with queue := q }) (h.ended heq) ▸ ⟨rfl, rfl⟩

end

end Sys2Proof.Machine
end

section
/-! PROOF. The runs of element groups: instructions that go element by element, and those of one group (R127, R129, R130, R132). -/

namespace Sys2Proof.Machine

open Sys2Proof

/-! ### Ranges -/

theorem mem_range {a b e : Nat} : e ∈ range a b ↔ a ≤ e ∧ e < b := by
  rw [range, List.mem_map]
  constructor
  · rintro ⟨n, hn, rfl⟩
    have := List.mem_range.mp hn
    omega
  · rintro ⟨ha, hb⟩
    exact ⟨e - a, List.mem_range.mpr (by omega), by omega⟩

theorem nodup_range (a b : Nat) : (range a b).Nodup := List.nodup_range.map fun _ _ h => Nat.add_left_cancel h

theorem foldl_or_zero (l : List Nat) (a : Flags) : l.foldl (fun a _ => a ||| 0) a = a := by
  induction l with
  | nil => rfl
  | cons e r ih => exact (congrArg (r.foldl _) (BitVec.or_zero ..)).trans ih

/-! ### Instructions that go element by element (R129) -/

/-- The instructions whose group is the run of its elements, and nothing beside it: no conversion by blocks, no load of a form of its own. -/
def VOp.byElements : VOp → Bool
  | .int .. | .fp .. | .cmp .. | .merge .. | .mv .. | .vid .. | .splat .. | .dot .. => true
  | .cvt .. | .ld .unit _ _ | .st .unit _ _ => true
  | _ => false

/-- The element after the group that starts at the next element of an instruction, without density-time. -/
def VCtx.stop (c : VCtx) : Nat :=
  min c.vl ((c.x.next / perGroup c.g.size (c.x.op.groupWidth c.cfg) + 1) * perGroup c.g.size (c.x.op.groupWidth c.cfg))

/-- The elements that the group processes. -/
def VCtx.elements (c : VCtx) (s : State) : List Nat := (range c.x.next c.stop).filter fun e => c.x.op.visitsAll || c.act e s

section
variable {c : VCtx} {s : State} (h : c.x.op.byElements = true)
include h

theorem granular_of_byElements : c.x.op.granular = false := by
  unfold VOp.byElements at h
  split at h <;> cases h <;> simp [VOp.granular, *]

theorem firstFault_of_byElements : c.x.op.firstFault = false := by
  unfold VOp.byElements at h
  split at h <;> cases h <;> simp [VOp.firstFault, *]

theorem partials_of_byElements : c.x.partials = none := by
  unfold VOp.byElements at h
  split at h <;> cases h <;> simp [VEntry.partials, *]

theorem oneGroup_of_byElements : oneGroup c s = none := by
  unfold VOp.byElements at h
  split at h <;> cases h <;> simp [oneGroup, *]

theorem xlnRun_of_byElements : xlnRun c s = none := by
  unfold VOp.byElements at h
  split at h <;> cases h <;> simp [xlnRun, xlnResult, *]

/-- The group of an instruction that goes element by element, at the head of its queue. -/
theorem groupRun_elements (hd : dtOf c.cfg = false) :
    groupRun c.i 0 c s = afterGroup c.i 0 c.stop c.vl (runElems (elemAction c) (c.elements s) 0 s) := by
  have hplain : groupRun c.i 0 c s = plainGroup c.i 0 c s := by
    simp only [groupRun, granular_of_byElements h, oneGroup_of_byElements h, xlnRun_of_byElements h]
    unfold VOp.byElements at h
    split at h <;> cases h <;> simp [*]
  have hstop : groupEnd (perGroup c.g.size (c.x.op.groupWidth c.cfg)) c.vl (c.x.op.densityTime && dtOf c.cfg)
      (fun e => c.x.op.visitsAll || c.act e s) c.x.next = c.stop := by
    rw [hd, Bool.and_false]
    rfl
  rw [hplain, plainGroup, hstop]
  simp only [olderPast, List.take_zero, List.all_nil]
  unfold VOp.byElements at h
  split at h <;> cases h <;> simp [VCtx.elements, LdForm.granular, *]

end

theorem mem_elements {c : VCtx} {s : State} {e : Nat} :
    e ∈ c.elements s ↔ (c.x.next ≤ e ∧ e < c.stop) ∧ (c.x.op.visitsAll || c.act e s) = true := by
  rw [VCtx.elements, List.mem_filter, mem_range]

theorem stop_le (c : VCtx) : c.stop ≤ c.vl := Nat.min_le_left ..

/-- A group whose every element completes, and keeps a relation of the elements processed and the state, ends in a state of the relation. -/
theorem groupRun_completes {c : VCtx} {st : State} {q : List VEntry} (h : c.x.op.byElements = true) (hd : dtOf c.cfg = false)
    (hq : (st.strand c.i).queue = c.x :: q) {fl : Nat → Flags} {R : List Nat → State → Prop} (hbeside : ∀ done s, R done s → Beside c.i st s)
    (h0 : R [] st) (hstep : ∀ done e s, e ∈ c.elements st → e ∉ done → R done s → ∃ s', elemAction c e s = .ok (fl e) s' ∧ R (done ++ [e]) s') :
    ∃ r s, groupRun c.i 0 c st = some r ∧ R (c.elements st) s ∧
      GroupEnds c.i c.x q c.stop c.vl ((c.elements st).foldl (fun a e => a ||| fl e) 0) s r := by
  obtain ⟨s, hrun, hs⟩ := runElems_ok ((nodup_range _ _).filter _) hstep h0
  obtain ⟨r, hr, hends⟩ := afterGroup_ends ((hbeside _ s hs).queue.trans hq) (firstFault_of_byElements h) (partials_of_byElements h) c.stop c.vl _
  exact ⟨r, s, by rw [groupRun_elements h hd, VCtx.elements, hrun]; exact hr, hs, hends⟩

/-! ### Instructions that write one element each (R121, R137, R145) -/

/-- What a run has done that writes a value to each element of a register: those processed hold it, and all others are as before. -/
structure Puts (c : VCtx) (d : BitVec 5) (w : Nat) (val : Nat → Nat) (st : State) (done : List Nat) (s : State) : Prop where
  beside : Beside c.i st s
  m : (s.strand c.i).m = (st.strand c.i).m
  tmem : ∀ u, (s.tile u).tmem = (st.tile u).tmem
  poison : s.poison = st.poison
  written : ∀ e ∈ done, c.get d w e s = val e % 2 ^ w
  kept : ∀ k z e, z ∣ 64 → e < capacity c.g.size z → (k = d → z = w ∧ e ∉ done) → c.get k z e s = c.get k z e st

section
variable {c : VCtx} {d : BitVec 5} {w : Nat} {val : Nat → Nat} {st : State}

theorem Puts.none (c : VCtx) (d : BitVec 5) (w : Nat) (val : Nat → Nat) (st : State) : Puts c d w val st [] st :=
  ⟨.refl .., rfl, fun _ => rfl, rfl, nofun, fun _ _ _ _ _ _ => rfl⟩

/-- Before its own write, an element of any register is as before the run. -/
theorem Puts.get {done : List Nat} {s : State} (h : Puts c d w val st done s) (hw : w ∣ 64) {e : Nat} (he : e < capacity c.g.size w) (hnot : e ∉ done)
    (k : BitVec 5) : c.get k w e s = c.get k w e st := h.kept k w e hw he fun _ => ⟨rfl, hnot⟩

theorem Puts.operand {done : List Nat} {s : State} (h : Puts c d w val st done s) (hw : w ∣ 64) {e : Nat} (he : e < capacity c.g.size w)
    (hnot : e ∉ done) (y : VSrc) : c.operand y w e s = c.operand y w e st := by
  cases y with
  | reg r => exact h.get hw he hnot r
  | const x => rfl

theorem Puts.act {done : List Nat} {s : State} (h : Puts c d w val st done s) (e : Nat) : c.act e s = c.act e st := by
  simp only [VCtx.act, State.active, Strand.mbit, Strand.mr, h.m]

/-- The view that an access takes changes no register. -/
theorem Puts.strandXl {done : List Nat} {s : State} (h : Puts c d w val st done s) : Puts c d w val st done (strandXl c.i s).2 where
  beside := h.beside.trans (strandXl_beside ..)
  m := (strandXl_m ..).trans h.m
  tmem u := by rw [State.tile_of_tiles (strandXl_tiles c.i s), h.tmem]
  poison := (strandXl_poison ..).trans h.poison
  written e he := by
    rw [← h.written e he]
    simp only [VCtx.get, State.elem, State.tile_of_tiles (strandXl_tiles c.i s)]
  kept k z e hz he hk := by
    rw [← h.kept k z e hz he hk]
    simp only [VCtx.get, State.elem, State.tile_of_tiles (strandXl_tiles c.i s)]

/-- The lanes of a group that has some, all within the tile's. -/
structure Fits (g : LaneGroup) : Prop where
  size : 0 < g.size
  inside : g.base + g.size ≤ 32

theorem Puts.put {done : List Nat} {s : State} (h : Puts c d w val st done s) (hg : Fits c.g) (hw : w ∣ 64) {e v : Nat}
    (he : e < capacity c.g.size w) (hdone : ∀ k ∈ done, k < capacity c.g.size w) (hnot : e ∉ done) (hv : v % 2 ^ w = val e % 2 ^ w) :
    Puts c d w val st (done ++ [e]) (c.put d w e v s) where
  beside := h.beside.trans (setElem_beside ..)
  m := (setElem_m ..).trans h.m
  tmem u := (setElem_tmem ..).trans (h.tmem u)
  poison := h.poison
  written k hk := by
    obtain hk | hk := List.mem_append.mp hk
    · exact (elem_setElem_ne v s hw hg.size hg.inside he (hdone k hk) fun heq => hnot (heq ▸ hk)).trans (h.written k hk)
    · obtain rfl := List.mem_singleton.mp hk
      exact (elem_setElem_self v s hw hg.size hg.inside he).trans hv
  kept k z j hz hj hk := by
    by_cases hd : k = d
    · obtain ⟨rfl, hout⟩ := hk hd
      rw [List.mem_append, List.mem_singleton, not_or] at hout
      subst hd
      exact (elem_setElem_ne v s hw hg.size hg.inside he hj hout.2).trans (h.kept k z j hz hj fun _ => ⟨rfl, hout.1⟩)
    · exact (elem_setElem_other v s hw hg.size hg.inside he hz hg.size hg.inside hj (.inl hd)).trans (h.kept k z j hz hj fun hd' => absurd hd' hd)

end

end Sys2Proof.Machine
end

section
/-! PROOF. What an element group of each instruction does (R71, R79, R127, R129, R132, R145, R147, R151 to R153, R165). -/

namespace Sys2Proof.Machine

open Sys2Proof

/-! ### The action of each instruction at an element -/

section
variable {c : VCtx} {e : Nat} {s : State} {d a b : BitVec 5} {y : VSrc}

theorem elemAction_int {op : VInt} (h : c.x.op = .int op d a y) :
    elemAction c e s = .ok 0 (c.put d c.w e (op.eval c.w (c.get a c.w e s) (c.operand y c.w e s)) s) := by
  simp only [elemAction, arithElem, h]

theorem elemAction_fp {op : VFp} (h : c.x.op = .fp op d a y) :
    let r := op.eval (vecFloat (fmtOf c.cfg)) (vrmOf c.cfg).plain c.fz (c.get a c.w e s) (c.operand y c.w e s) (c.get d c.w e s)
    elemAction c e s = .ok r.2 (c.put d c.w e r.1 s) := by
  simp only [elemAction, arithElem, h]

theorem elemAction_cmp {op : VCmp} {k : BitVec 3} (h : c.x.op = .cmp op k a y) :
    let r := op.eval (vecFloat (fmtOf c.cfg)) c.fz c.w (c.get a c.w e s) (c.operand y c.w e s)
    elemAction c e s = .ok r.2 (setMbit c.i k e r.1 s) := by
  simp only [elemAction, arithElem, h]

theorem elemAction_merge (h : c.x.op = .merge d a b) :
    elemAction c e s = .ok 0 (c.put d c.w e (if c.act e s then c.get b c.w e s else c.get a c.w e s) s) := by
  simp only [elemAction, arithElem, h]

theorem elemAction_mv (h : c.x.op = .mv d a) : elemAction c e s = .ok 0 (c.put d c.w e (c.get a c.w e s) s) := by
  simp only [elemAction, arithElem, h]

theorem elemAction_vid (h : c.x.op = .vid d) : elemAction c e s = .ok 0 (c.put d c.w e (e % 2 ^ c.w) s) := by
  simp only [elemAction, arithElem, h]

theorem elemAction_splat {x : Word} (h : c.x.op = .splat d x) : elemAction c e s = .ok 0 (c.put d c.w e (x.toNat % 2 ^ c.w) s) := by
  simp only [elemAction, arithElem, h]

/-- A conversion at one width, of a code that is not reserved, in a mode that draws nothing. -/
theorem elemAction_cvt {f : CvtForm} {sf df : BitVec 4} {rnd : BitVec 3} {sat : Bool} (h : c.x.op = .cvt f d a b sf df rnd sat) (hf : f ≠ .scaled)
    (hm : cvtMode rnd c.cfg ≠ .stochastic) (hr : reservedCode sf (c.get a (widthOf sf) e s) = false) :
    let r := convert sf df (cvtMode rnd c.cfg) sat c.fz 0 (c.get a (widthOf sf) e s)
    elemAction c e s = .ok r.2 (c.put d (widthOf df) e r.1 s) := by
  have harith : arithElem c e s = some (cvtElem c d a sf df rnd sat e s) := by
    cases f with
    | scaled => exact absurd rfl hf
    | same => simp only [arithElem, h]
    | widen => simp only [arithElem, h]
    | narrow => simp only [arithElem, h]
  simp only [elemAction, harith, cvtElem, hr, VCtx.step, hm]
  rfl

theorem foldl_add_products {α : Type} (f : α → Int) (l : List α) (a : Int) : l.foldl (fun a q => a + f q) a = a + (l.map f).sum := by
  induction l generalizing a with
  | nil => simp
  | cons q r ih => rw [List.foldl_cons, ih, List.map_cons, List.sum_cons, Int.add_assoc]

/-- The formats with reserved codes are floating-point ones (R65). -/
theorem reservedCode_of_intFmt {tag : BitVec 4} {p : Nat × Bool} (h : intFmt tag = some p) (x : Nat) : reservedCode tag x = false := by
  have hnot : ∀ tag, (intFmt tag).isSome → (tag = 6 || tag = 7) = false := by decide
  rw [reservedCode, hnot tag (by rw [h]; rfl), Bool.false_and]

theorem elemAction_dot {n w : Nat} {sg : Bool} (h : c.x.op = .dot n d a b) (hf : intFmt (fmtOf c.cfg) = some (w, sg)) :
    elemAction c e s = .ok 0 (c.put d 32 e (codeOfInt 32 (c.get d 32 e s + ((List.range n).map fun k =>
      intOfCode w sg (c.get a (32 / n) (n * e + k) s) * intOfCode w sg (c.get b (32 / n) (n * e + k) s)).sum)) s) := by
  have hany (l : List Nat) : l.any (reservedCode (fmtOf c.cfg)) = false := List.any_eq_false.mpr fun x _ => by simp [reservedCode_of_intFmt hf]
  simp only [elemAction, arithElem, h, dotElem, hany, hf, List.zip_map', List.foldl_map, foldl_add_products]
  rfl

end

/-! ### Unit-stride accesses in the TMEM window (R165, R167, R169) -/

section
variable {c : VCtx} {e : Nat} {s : State} {d : BitVec 5} {base : Addr} {u : TileId} {o : Nat}

/-- The address of an element of a unit-stride access. -/
def unitAddr (base : Addr) (w e : Nat) : Addr := base + BitVec.ofNat 80 (e * w / 8)

/-- An element of a unit-stride access stands aligned at a place of a tile's TMEM. -/
structure InTmem (c : VCtx) (acc : Access) (base : Addr) (e : Nat) (u : TileId) (o : Nat) (s : State) : Prop where
  aligned : (unitAddr base c.w e).toNat % (c.w / 8) = 0
  window : inWindow (unitAddr base c.w e) = true
  place : windowAddr c.i.core (unitAddr base c.w e) acc s = .ok ⟨.tmem u o, false, 0, false, none⟩

theorem InTmem.of_beside {acc : Access} {st : State} (h : InTmem c acc base e u o st) (hb : Beside c.i st s) : InTmem c acc base e u o s :=
  ⟨h.aligned, h.window, (hb.windowAddr ..).trans h.place⟩

theorem elemAction_ld (h : c.x.op = .ld .unit d base) (hw : 8 ≤ c.w) (hp : InTmem c .read base e u o s)
    (hpoison : s.poisoned (.tmem u o) (c.w / 8) = false) :
    elemAction c e s = .ok 0 (c.put d c.w e (leNat ((s.tile u).tmem.bytes o (c.w / 8))) (strandXl c.i s).2) := by
  have hn : max 1 (c.w / 8) = c.w / 8 := by omega
  have hw4 : c.w ≠ 4 := by omega
  have hplace : vPlace c.i (unitAddr base c.w e) .read (c.w / 8) (loadBar .unit c.w (unitAddr base c.w e)) s =
      .ok (⟨.tmem u o, false, 0, false, none⟩, (strandXl c.i s).2) :=
    vPlace_window hp.aligned hp.window hp.place (by simp [loadBar, nibbleBar, LdForm.granular])
  have hread : readPhys ⟨.tmem u o, false, 0, false, none⟩ (c.w / 8) (strandXl c.i s).2 = .ok (leNat ((s.tile u).tmem.bytes o (c.w / 8))) := by
    have hpo : (strandXl c.i s).2.poisoned (.tmem u o) (c.w / 8) = false := by rwa [State.poisoned, strandXl_poison]
    simp only [readPhys, hpo, State.tile_of_tiles (strandXl_tiles c.i s)]
    rfl
  have hfield : loadField c .unit d base 0 e s = .ok 0 (c.put d c.w e (leNat ((s.tile u).tmem.bytes o (c.w / 8))) (strandXl c.i s).2) := by
    simp only [loadField, ldAddr, hn]
    rw [← unitAddr, hplace]
    simp only [hread]
    simp only [hw4, BitVec.ofNat_eq_ofNat, BitVec.add_zero]
    rfl
  have harith : arithElem c e s = none := by simp only [arithElem, h]
  have hmem : memElem c e s = some (runFields (fun f s => loadField c .unit d base f e s) [0] s) := by
    simp only [memElem, h]
    rfl
  simp only [elemAction, harith, hmem, runFields, hfield]

theorem elemAction_st (h : c.x.op = .st .unit d base) (hw : 8 ≤ c.w) (hp : InTmem c .write base e u o s)
    (hstores : ∀ a ∈ (s.strand c.i).stores, c.x.seq ≤ a.seq) (hlates : ∀ a ∈ (s.strand c.i).lates, c.x.seq ≤ a.seq) :
    ∃ g, elemAction c e s = .ok 0 (fillGranule g (writeTmem none u o (leBytes (c.w / 8) (c.get d c.w e s)) (strandXl c.i s).2)) := by
  have hn : max 1 (c.w / 8) = c.w / 8 := by omega
  have hw4 : c.w ≠ 4 := by omega
  have hplace : vPlace c.i (unitAddr base c.w e) .write (c.w / 8) (nibbleBar c.w (unitAddr base c.w e)) s =
      .ok (⟨.tmem u o, false, 0, false, none⟩, (strandXl c.i s).2) :=
    vPlace_window hp.aligned hp.window hp.place (by simp [nibbleBar])
  have howed (g : TileId × Nat) : granuleOwed ((strandXl c.i s).2.strand c.i) c.x.seq g = false := by
    have hb := strandXl_beside c.i s
    simp only [granuleOwed, hb.stores, hb.lates, Bool.or_eq_false_iff, List.any_eq_false, Bool.and_eq_true, decide_eq_true_eq, not_and]
    exact ⟨fun a ha hlt => absurd (hstores a ha) (Nat.not_le.mpr hlt), fun a ha hlt => absurd (hlates a ha) (Nat.not_le.mpr hlt)⟩
  have hget : c.get d c.w e (strandXl c.i s).2 = c.get d c.w e s := by
    simp only [VCtx.get, State.elem, State.tile_of_tiles (strandXl_tiles c.i s)]
  have hfield : ∃ g, storeField c .unit d base 0 e s =
      .ok 0 (fillGranule g (writeTmem none u o (leBytes (c.w / 8) (c.get d c.w e s)) (strandXl c.i s).2)) := by
    refine ⟨completes c.i ⟨.tmem u o, false, 0, false, none⟩ (laterAddrs c .unit base 0 e (strandXl c.i s).2) (strandXl c.i s).2, ?_⟩
    simp only [storeField, StForm.shape, ldAddr, hn]
    rw [← unitAddr, hplace]
    simp only [howed, hw4, BitVec.ofNat_eq_ofNat, BitVec.add_zero, hget, putMemElem, hn, Bool.and_false, Option.any_false]
    rfl
  obtain ⟨g, hg⟩ := hfield
  have harith : arithElem c e s = none := by simp only [arithElem, h]
  have hmem : memElem c e s = some (runFields (fun f s => storeField c .unit d base f e s) [0] s) := by
    simp only [memElem, h]
    rfl
  exact ⟨g, by simp only [elemAction, harith, hmem, runFields, hg]⟩

end

end Sys2Proof.Machine
end

section
/-! PROOF. Element groups compute their elements, and no other (R71, R79, R127, R129, R132, R145, R147, R151 to R153, R165). -/

namespace Sys2Proof.Machine

open Sys2Proof

theorem widthOf_dvd : ∀ f, widthOf f ∣ 64 := by decide

/-! ### Runs that put, mark and store -/

section
variable {c : VCtx} {st : State} {q : List VEntry} (hop : c.x.op.byElements = true) (hd : dtOf c.cfg = false) (hq : (st.strand c.i).queue = c.x :: q)
include hop hd hq

/-- The group of an instruction that writes one value to each of its elements. -/
theorem groupRun_puts {d : BitVec 5} {w : Nat} {f : Nat → Nat × Flags} (hg : Fits c.g) (hw : w ∣ 64) (hcap : c.vl ≤ capacity c.g.size w)
    (hact : ∀ done e s, e ∈ c.elements st → e ∉ done → e < capacity c.g.size w → Puts c d w (fun e => (f e).1) st done s →
      ∃ v s', elemAction c e s = .ok (f e).2 (c.put d w e v s') ∧ v % 2 ^ w = (f e).1 % 2 ^ w ∧ Puts c d w (fun e => (f e).1) st done s') :
    ∃ r s, groupRun c.i 0 c st = some r ∧ Puts c d w (fun e => (f e).1) st (c.elements st) s ∧
      GroupEnds c.i c.x q c.stop c.vl ((c.elements st).foldl (fun a e => a ||| (f e).2) 0) s r := by
  have hstep : ∀ done e s, e ∈ c.elements st → e ∉ done →
      (Puts c d w (fun e => (f e).1) st done s ∧ ∀ k ∈ done, k < capacity c.g.size w) → ∃ s', elemAction c e s = .ok (f e).2 s' ∧
        Puts c d w (fun e => (f e).1) st (done ++ [e]) s' ∧ ∀ k ∈ done ++ [e], k < capacity c.g.size w := by
    rintro done e s he hnot ⟨h, hdone⟩
    have hlt : e < capacity c.g.size w := ((mem_elements.mp he).1.2.trans_le (stop_le c)).trans_le hcap
    obtain ⟨v, s', hrun, hv, h'⟩ := hact done e s he hnot hlt h
    refine ⟨_, hrun, h'.put hg hw hlt hdone hnot hv, fun k hk => ?_⟩
    obtain hk | hk := List.mem_append.mp hk
    · exact hdone k hk
    · exact List.mem_singleton.mp hk ▸ hlt
  obtain ⟨r, s, hr, hs, hends⟩ := groupRun_completes hop hd hq (fun done s h => h.1.beside) ⟨Puts.none .., nofun⟩ hstep
  exact ⟨r, s, hr, hs.1, hends⟩

end

theorem mbit_setMbit (i : StrandId) (d : BitVec 3) (e : Nat) (b : Bool) (s : State) {k : Nat} (hk : k < 4096) :
    ((setMbit i d e b s).strand i).mbit d k = if k = e then b else (s.strand i).mbit d k := by
  rw [setMbit, State.strand_modStrand_self, Strand.mbit, Strand.mr_setM, if_pos rfl, Strand.mbit]
  by_cases h : k = e
  · subst h
    cases b <;> simp [hk]
  · cases b <;> simp [hk, h]

/-- What a run has done that gives a bit of a mask register for each element. -/
structure Marks (c : VCtx) (d : BitVec 3) (val : Nat → Bool) (st : State) (done : List Nat) (s : State) : Prop where
  beside : Beside c.i st s
  v : ∀ u, (s.tile u).v = (st.tile u).v
  bit : ∀ e, e < 4096 → (s.strand c.i).mbit d e = if e ∈ done then val e else (st.strand c.i).mbit d e
  other : ∀ k, k ≠ d → (s.strand c.i).mr k = (st.strand c.i).mr k

section
variable {c : VCtx} {d : BitVec 3} {val : Nat → Bool} {st : State} {done : List Nat} {s : State} (h : Marks c d val st done s)
include h

theorem Marks.get (k : BitVec 5) (w e : Nat) : c.get k w e s = c.get k w e st := by
  simp only [VCtx.get, State.elem, Tile.elem, Tile.vword, h.v]

theorem Marks.operand (y : VSrc) (w e : Nat) : c.operand y w e s = c.operand y w e st := by
  cases y with
  | reg r => exact h.get r w e
  | const x => rfl

theorem Marks.mark (e : Nat) : Marks c d val st (done ++ [e]) (setMbit c.i d e (val e) s) where
  beside := h.beside.trans (setMbit_beside ..)
  v := h.v
  bit k hk := by
    rw [mbit_setMbit _ _ _ _ _ hk, h.bit k hk]
    by_cases he : k = e
    · subst he
      simp
    · simp [he]
  other k hk := by
    rw [setMbit, State.strand_modStrand_self, Strand.mr_setM, if_neg hk, h.other k hk]

end

/-- What a run has done that stores some bytes for each element, side by side from a place of a tile's TMEM on. -/
structure Stored (c : VCtx) (u : TileId) (o n : Nat) (val : Nat → Nat) (st : State) (done : List Nat) (s : State) : Prop where
  beside : Beside c.i st s
  v : ∀ t, (s.tile t).v = (st.tile t).v
  wf : (s.tile u).tmem.wf = true
  written : ∀ e ∈ done, (s.tile u).tmem.bytes (o + e * n) n = leBytes n (val e)
  kept : ∀ k, (∀ e ∈ done, k < o + e * n ∨ o + e * n + n ≤ k) → (s.tile u).tmem.get k = (st.tile u).tmem.get k

theorem Mem.bytes_write_inside {m : Mem} (h : m.wf = true) (a : Nat) (bs : List Byte) : (m.write a bs).bytes a bs.length = bs := by
  refine List.ext_getElem? fun k => ?_
  by_cases hk : k < bs.length
  · rw [Mem.bytes_get _ _ _ _ hk, Mem.get_write_inside h a k bs hk, List.getElem?_eq_getElem hk]
  · rw [List.getElem?_eq_none (by simpa using hk), List.getElem?_eq_none (by simpa using hk)]

section
variable {c : VCtx} {u : TileId} {o n : Nat} {val : Nat → Nat} {st : State} {done : List Nat} {s : State} (h : Stored c u o n val st done s)
include h

theorem Stored.store {e : Nat} (hnot : e ∉ done) (g : Option (TileId × Nat)) :
    Stored c u o n val st (done ++ [e]) (fillGranule g (writeTmem none u (o + e * n) (leBytes n (val e)) (strandXl c.i s).2)) := by
  have htile (t : TileId) : (strandXl c.i s).2.tile t = s.tile t := State.tile_of_tiles (strandXl_tiles c.i s) t
  have htmem : ((fillGranule g (writeTmem none u (o + e * n) (leBytes n (val e)) (strandXl c.i s).2)).tile u).tmem =
      (s.tile u).tmem.write (o + e * n) (leBytes n (val e)) := by
    rw [fillGranule_keeps (·.tmem) fun _ _ => rfl, writeTmem_tile, if_pos rfl, htile]
  refine ⟨?_, fun t => ?_, ?_, fun k hk => ?_, fun k hk => ?_⟩
  · exact ((h.beside.trans (strandXl_beside ..)).trans (writeTmem_beside ..)).trans (fillGranule_beside ..)
  · rw [fillGranule_keeps (·.v) fun _ _ => rfl, writeTmem_tile]
    split
    · subst_vars
      exact (congrArg Tile.v (htile t)).trans (h.v t)
    · exact (congrArg Tile.v (htile t)).trans (h.v t)
  · rw [htmem]
    exact Mem.wf_write h.wf ..
  · rw [htmem]
    obtain hk | hk := List.mem_append.mp hk
    · have hne : k ≠ e := fun heq => hnot (heq ▸ hk)
      rw [Mem.bytes_write_outside h.wf, h.written k hk]
      rw [leBytes_length]
      rcases Nat.lt_or_gt_of_ne hne with hlt | hlt
      · exact .inl (by have := Nat.mul_le_mul_right n hlt; rw [Nat.succ_mul] at this; omega)
      · exact .inr (by have := Nat.mul_le_mul_right n hlt; rw [Nat.succ_mul] at this; omega)
    · obtain rfl := List.mem_singleton.mp hk
      have hbytes := Mem.bytes_write_inside h.wf (o + k * n) (leBytes n (val k))
      rwa [leBytes_length] at hbytes
  · rw [htmem, Mem.get_write_outside h.wf _ _ _ (by rw [leBytes_length]; exact hk e (List.mem_append_right _ List.mem_cons_self))]
    exact h.kept k fun j hj => hk j (List.mem_append_left _ hj)

theorem Stored.get (k : BitVec 5) (w e : Nat) : c.get k w e s = c.get k w e st := by
  simp only [VCtx.get, State.elem, Tile.elem, Tile.vword, h.v]

end

/-! ### Instructions of one group (R132, R152) -/

theorem groupRun_oneGroup {c : VCtx} {s s' : State} (hg : c.x.op.granular = false) (h : oneGroup c s = some s') :
    groupRun c.i 0 c s = afterGroup c.i 0 c.vl c.vl ⟨0, s', none⟩ := by
  simp only [groupRun, hg, h, olderPast, List.take_zero, List.all_nil]
  rfl

theorem getLsbD_maskRange (lo hi : Nat) {e : Nat} (he : e < 4096) : (maskRange lo hi).getLsbD e = decide (lo ≤ e ∧ e < hi) := by
  simp only [maskRange, BitVec.getLsbD_and, BitVec.getLsbD_not, BitVec.getLsbD_shiftLeft, BitVec.getLsbD_allOnes, he, decide_true, Bool.true_and]
  by_cases hlo : e < lo
  · simp [hlo]
  · by_cases hhi : e < hi
    · have : e - lo < 4096 := by omega
      simp [hlo, hhi, this, Nat.le_of_not_lt hlo]
    · have : e - hi < 4096 := by omega
      simp [hlo, hhi, this]

theorem MaskOp.getLsbD_word (op : MaskOp) (a b : BitVec 4096) {e : Nat} (he : e < 4096) :
    (op.word a b).getLsbD e = op.eval (a.getLsbD e) (b.getLsbD e) := by
  cases op with
  | set => exact (BitVec.getLsbD_allOnes).trans (decide_eq_true he)
  | _ => simp [MaskOp.word, MaskOp.eval, he]

/-- A mask operation changes the bits of a register within a range. -/
theorem mbit_setM_masked (t : Strand) (op : MaskOp) (d a b : BitVec 3) (lo hi : Nat) {e : Nat} (he : e < 4096) :
    (t.setM d ((t.mr d &&& ~~~ maskRange lo hi) ||| (op.word (t.mr a) (t.mr b) &&& maskRange lo hi))).mbit d e =
      if lo ≤ e ∧ e < hi then op.eval (t.mbit a e) (t.mbit b e) else t.mbit d e := by
  rw [Strand.mbit, Strand.mr_setM, if_pos rfl]
  simp only [BitVec.getLsbD_or, BitVec.getLsbD_and, BitVec.getLsbD_not, he, decide_true, Bool.true_and, getLsbD_maskRange lo hi he,
    MaskOp.getLsbD_word op _ _ he]
  by_cases h : lo ≤ e ∧ e < hi
  · simp [h, Strand.mbit]
  · simp [h, Strand.mbit]

/-- The lowest element of a range with a property. -/
theorem find?_range_eq_some {p : Nat → Bool} {a b e : Nat} (ha : a ≤ e) (hb : e < b) (hp : p e = true) (hlow : ∀ k, a ≤ k → k < e → p k = false) :
    (range a b).find? p = some e := by
  have hfind : (List.range (b - a)).find? (p ∘ (a + ·)) = some (e - a) := by
    rw [List.find?_range_eq_some]
    refine ⟨?_, List.mem_range.mpr (by omega), fun j hj => ?_⟩
    · rw [Function.comp_apply, Nat.add_sub_cancel' ha, hp]
    · rw [Function.comp_apply, hlow (a + j) (by omega) (by omega)]
      rfl
  rw [range, List.find?_map, hfind, Option.map_some, Nat.add_sub_cancel' ha]

theorem find?_range_eq_none {p : Nat → Bool} {a b : Nat} (h : ∀ k, a ≤ k → k < b → p k = false) : (range a b).find? p = none := by
  rw [List.find?_eq_none]
  intro k hk
  obtain ⟨ha, hb⟩ := mem_range.mp hk
  rw [h k ha hb]
  exact Bool.false_ne_true

/-! ### The groups of each kind -/

section
variable {c : VCtx} {st : State} {q : List VEntry} (hq : (st.strand c.i).queue = c.x :: q)
include hq

/-- The group of a compare marks its elements. -/
theorem groupRun_marks {op : VCmp} {d : BitVec 3} {a : BitVec 5} {y : VSrc} (h : c.x.op = .cmp op d a y) (hd : dtOf c.cfg = false) :
    let f (e : Nat) : Bool × Flags := op.eval (vecFloat (fmtOf c.cfg)) c.fz c.w (c.get a c.w e st) (c.operand y c.w e st)
    ∃ r s, groupRun c.i 0 c st = some r ∧ Marks c d (fun e => (f e).1) st (c.elements st) s ∧
      GroupEnds c.i c.x q c.stop c.vl ((c.elements st).foldl (fun a e => a ||| (f e).2) 0) s r := by
  intro f
  refine groupRun_completes (fl := fun e => (f e).2) (R := Marks c d (fun e => (f e).1) st) (by rw [h]; rfl) hd hq (fun done s hs => hs.beside)
    ⟨.refl .., fun _ => rfl, fun _ _ => rfl, fun _ _ => rfl⟩ fun done e s he hnot hs => ⟨_, (elemAction_cmp h).trans ?_, hs.mark e⟩
  simp only [hs.get, hs.operand]
  rfl

/-- The group of a unit-stride store in the TMEM window stores its elements, where nothing of its strand is owed before it. -/
theorem groupRun_stores {k : BitVec 5} {base : Addr} {u : TileId} {o : Nat} (h : c.x.op = .st .unit k base) (hd : dtOf c.cfg = false) (hw : 8 ≤ c.w)
    (hwf : (st.tile u).tmem.wf = true) (hstores : ∀ a ∈ (st.strand c.i).stores, c.x.seq ≤ a.seq)
    (hlates : ∀ a ∈ (st.strand c.i).lates, c.x.seq ≤ a.seq) (hin : ∀ e ∈ c.elements st, InTmem c .write base e u (o + e * (c.w / 8)) st) :
    ∃ r s, groupRun c.i 0 c st = some r ∧ Stored c u o (c.w / 8) (fun e => c.get k c.w e st) st (c.elements st) s ∧
      GroupEnds c.i c.x q c.stop c.vl 0 s r := by
  obtain ⟨r, s, hr, hs, he⟩ := groupRun_completes (fl := fun _ => 0) (R := Stored c u o (c.w / 8) (fun e => c.get k c.w e st) st) (by rw [h]; rfl) hd hq
    (fun done s hs => hs.beside) ⟨.refl .., fun _ => rfl, hwf, nofun, fun _ _ => rfl⟩ fun done e s he hnot hs => by
      obtain ⟨g, hg⟩ := elemAction_st h hw ((hin e he).of_beside hs.beside) (by rwa [hs.beside.stores]) (by rwa [hs.beside.lates])
      exact ⟨_, hg.trans (by rw [hs.get]), hs.store hnot g⟩
  rw [foldl_or_zero] at he
  exact ⟨r, s, hr, hs, he⟩

/-- The group of an instruction that acts in one group is its whole work. -/
theorem groupRun_acts {s : State} (hg : c.x.op.granular = false) (hf : c.x.op.firstFault = false) (hp : c.x.partials = none)
    (hone : oneGroup c st = some s) (hs : (s.strand c.i).queue = (st.strand c.i).queue) :
    ∃ r, groupRun c.i 0 c st = some r ∧ GroupEnds c.i c.x q c.vl c.vl 0 s r := by
  obtain ⟨r, hr, he⟩ := afterGroup_ends (hs.trans hq) hf hp c.vl c.vl 0
  exact ⟨r, (groupRun_oneGroup hg hone).trans hr, he⟩

end

end Sys2Proof.Machine
end

section
/-! PROOF. Element groups at the head of a queue (R71, R79, R127, R129, R132, R145, R147, R151 to R153, R165). -/

namespace Sys2Proof.Machine

open Sys2Proof

theorem exec_elementGroup {st : State} {i : StrandId} {x : VEntry} {g : LaneGroup} {q : List VEntry} {vl : Nat} {cfg : Word}
    (hh : (st.strand i).held = false) (hq : (st.strand i).queue = x :: q) (hs : x.started = true) (hc : x.conf = some (vl, cfg))
    (hg : st.group i = some g) : exec (.elementGroup i 0) st = event st (groupRun i 0 ⟨i, x, g, vl, cfg⟩ st) := by
  have hctx : entryCtx i 0 st = some ⟨i, x, g, vl, cfg⟩ := by simp [entryCtx, hq, hg, hs, hc]
  show execElementGroup i 0 st = _
  simp only [execElementGroup, hh, hctx]

/-! ### What a group of an instruction gives -/

/-- The end of the group that starts at the next element of an instruction, at a width. -/
def VCtx.stopAt (c : VCtx) (w : Nat) : Nat := min c.vl ((c.x.next / perGroup c.g.size w + 1) * perGroup c.g.size w)

/-- A group has ended at an element with some flags. -/
def VCtx.Ends (c : VCtx) (st : State) (q : List VEntry) (n : Nat) (f : Flags) (r : State) : Prop :=
  (n < c.vl → (r.strand c.i).queue = { c.x with next := n, flags := c.x.flags ||| f } :: q) ∧
    (n = c.vl → (r.strand c.i).queue = q ∧ (r.strand c.i).fcsr = ((st.strand c.i).raise (c.x.flags ||| f)).fcsr)

/-- The group completes, and gives the elements of one register that meet a condition a value, with flags for the active ones. -/
def VCtx.Sets (c : VCtx) (st : State) (q : List VEntry) (w : Nat) (d : BitVec 5) (on : Nat → Bool) (f : Nat → Nat × Flags) : Prop :=
  c.vl ≤ capacity c.g.size w → ∃ r, exec (.elementGroup c.i 0) st = .next r ∧
    c.Ends st q (c.stopAt w) (((range c.x.next (c.stopAt w)).filter (st.active c.i c.x.mreg)).foldl (fun a e => a ||| (f e).2) 0) r ∧
    (∀ k, r.xr c.i k = st.xr c.i k) ∧
    (∀ e, c.x.next ≤ e → e < c.stopAt w → on e = true → r.elem c.i c.g d w e = (f e).1 % 2 ^ w) ∧
    (∀ e, e < capacity c.g.size w → (e < c.x.next ∨ c.stopAt w ≤ e ∨ on e = false) → r.elem c.i c.g d w e = st.elem c.i c.g d w e) ∧
    (∀ (k : BitVec 5) (e : Nat), k ≠ d → e < capacity c.g.size w → r.elem c.i c.g k w e = st.elem c.i c.g k w e)

theorem GroupEnds.outcome {c : VCtx} {q : List VEntry} {n : Nat} {f : Flags} {st s r : State} (h : GroupEnds c.i c.x q n c.vl f s r)
    (hf : (s.strand c.i).fcsr = (st.strand c.i).fcsr) : c.Ends st q n f r :=
  ⟨h.queue, fun heq => ⟨(h.retired heq).1, (h.retired heq).2.trans (congrArg (· ||| _) hf)⟩⟩

theorem GroupEnds.xr {i : StrandId} {y : VEntry} {q : List VEntry} {n vl : Nat} {f : Flags} {st s r : State} (h : GroupEnds i y q n vl f s r)
    (hn : n ≤ vl) (hb : Beside i st s) (k : BitVec 5) : r.xr i k = st.xr i k := by
  rw [State.xr, State.xr, Strand.xr, Strand.xr, h.x hn, hb.x]

theorem stop_eq {c : VCtx} {w : Nat} (h : c.x.op.groupWidth c.cfg = w) : c.stop = c.stopAt w := by
  subst h
  rfl

theorem elements_of_active {c : VCtx} (h : c.x.op.visitsAll = false) (s : State) :
    c.elements s = (range c.x.next c.stop).filter (s.active c.i c.x.mreg) := by
  rw [VCtx.elements, h]
  rfl

theorem mem_elements_of_active {c : VCtx} (h : c.x.op.visitsAll = false) {s : State} {w e : Nat} (hw : c.x.op.groupWidth c.cfg = w) :
    e ∈ c.elements s ↔ c.x.next ≤ e ∧ e < c.stopAt w ∧ c.act e s = true := by
  rw [mem_elements, h, stop_eq hw, and_assoc]
  rfl

section
variable {c : VCtx} {st : State} {q : List VEntry} (hexec : exec (.elementGroup c.i 0) st = event st (groupRun c.i 0 c st))
  (hq : (st.strand c.i).queue = c.x :: q) (hd : dtOf c.cfg = false) (hg : Fits c.g)
include hexec hq

section
include hd hg

/-- An instruction whose every element puts its value sets its elements. -/
theorem sets_of_puts {w : Nat} {d : BitVec 5} {on : Nat → Bool} {f : Nat → Nat × Flags} (hw : w ∣ 64) (hop : c.x.op.byElements = true)
    (hgw : c.x.op.groupWidth c.cfg = w) (hon : ∀ e, (c.x.op.visitsAll || c.act e st) = on e)
    (hfl : (c.elements st).foldl (fun a e => a ||| (f e).2) 0 =
      ((range c.x.next (c.stopAt w)).filter (st.active c.i c.x.mreg)).foldl (fun a e => a ||| (f e).2) 0)
    (hact : ∀ done e s, e ∈ c.elements st → e ∉ done → e < capacity c.g.size w → Puts c d w (fun e => (f e).1) st done s →
      ∃ v s', elemAction c e s = .ok (f e).2 (c.put d w e v s') ∧ v % 2 ^ w = (f e).1 % 2 ^ w ∧ Puts c d w (fun e => (f e).1) st done s') :
    c.Sets st q w d on f := by
  intro hcap
  obtain ⟨r, s, hr, hp, he⟩ := groupRun_puts hop hd hq hg hw hcap hact
  have hstop := stop_eq hgw
  have hin {e : Nat} : e ∈ c.elements st ↔ (c.x.next ≤ e ∧ e < c.stopAt w) ∧ on e = true := by rw [mem_elements, hon e, hstop]
  rw [hfl, hstop] at he
  refine ⟨r, by rw [hexec, hr]; rfl, he.outcome hp.beside.fcsr, he.xr (hstop ▸ stop_le c) hp.beside, fun e hlo hhi ho => ?_, fun e hlt hout => ?_,
    fun k e hk hlt => ?_⟩
  · rw [he.elem]
    exact hp.written e (hin.mpr ⟨⟨hlo, hhi⟩, ho⟩)
  · rw [he.elem]
    refine hp.kept d w e hw hlt fun _ => ⟨rfl, fun hmem => ?_⟩
    obtain ⟨⟨hlo, hhi⟩, ho⟩ := hin.mp hmem
    obtain h | h | h := hout
    · omega
    · omega
    · exact Bool.noConfusion (h.symm.trans ho)
  · rw [he.elem]
    exact hp.kept k w e hw hlt fun h => absurd h hk

/-- An instruction that visits its active elements alone. -/
theorem sets_of_active_puts {w : Nat} {d : BitVec 5} {f : Nat → Nat × Flags} (hw : w ∣ 64) (hop : c.x.op.byElements = true)
    (hgw : c.x.op.groupWidth c.cfg = w) (hvis : c.x.op.visitsAll = false)
    (hact : ∀ done e s, e ∈ c.elements st → e ∉ done → e < capacity c.g.size w → Puts c d w (fun e => (f e).1) st done s →
      ∃ v s', elemAction c e s = .ok (f e).2 (c.put d w e v s') ∧ v % 2 ^ w = (f e).1 % 2 ^ w ∧ Puts c d w (fun e => (f e).1) st done s') :
    c.Sets st q w d (st.active c.i c.x.mreg) f :=
  sets_of_puts hexec hq hd hg hw hop hgw (fun e => by rw [hvis]; rfl) (by rw [elements_of_active hvis, stop_eq hgw]) hact

/-! ### The instructions that write a register -/

section
variable {d a b : BitVec 5} {y : VSrc}

theorem sets_int {op : VInt} (h : c.x.op = .int op d a y) :
    c.Sets st q c.w d (st.active c.i c.x.mreg) fun e => (op.eval c.w (c.get a c.w e st) (c.operand y c.w e st), 0) := by
  refine sets_of_active_puts hexec hq hd hg (widthOf_dvd _) (by rw [h]; rfl) (by rw [h]; rfl) (by rw [h]; rfl)
    fun done e s he hnot hlt hs => ⟨_, s, elemAction_int h, ?_, hs⟩
  rw [hs.get (widthOf_dvd _) hlt hnot, hs.operand (widthOf_dvd _) hlt hnot]

theorem sets_fp {op : VFp} (h : c.x.op = .fp op d a y) :
    c.Sets st q c.w d (st.active c.i c.x.mreg) fun e => op.eval (vecFloat (fmtOf c.cfg)) (vrmOf c.cfg).plain c.fz (c.get a c.w e st)
      (c.operand y c.w e st) (c.get d c.w e st) := by
  refine sets_of_active_puts hexec hq hd hg (widthOf_dvd _) (by rw [h]; rfl) (by rw [h]; rfl) (by rw [h]; rfl)
    fun done e s he hnot hlt hs => ⟨_, s, (elemAction_fp h).trans ?_, rfl, hs⟩
  rw [hs.get (widthOf_dvd _) hlt hnot a, hs.get (widthOf_dvd _) hlt hnot d, hs.operand (widthOf_dvd _) hlt hnot]

/-- A merge visits every element of its group, and raises no flag. -/
theorem sets_merge (h : c.x.op = .merge d a b) :
    c.Sets st q c.w d (fun _ => true) fun e => (if c.act e st = true then c.get b c.w e st else c.get a c.w e st, 0) := by
  refine sets_of_puts hexec hq hd hg (widthOf_dvd _) (by rw [h]; rfl) (by rw [h]; rfl) (fun e => by rw [h]; rfl)
    ((foldl_or_zero ..).trans (foldl_or_zero ..).symm) fun done e s he hnot hlt hs => ⟨_, s, elemAction_merge h, ?_, hs⟩
  rw [hs.get (widthOf_dvd _) hlt hnot, hs.get (widthOf_dvd _) hlt hnot, hs.act]

theorem sets_mv (h : c.x.op = .mv d a) : c.Sets st q c.w d (st.active c.i c.x.mreg) fun e => (c.get a c.w e st, 0) := by
  refine sets_of_active_puts hexec hq hd hg (widthOf_dvd _) (by rw [h]; rfl) (by rw [h]; rfl) (by rw [h]; rfl)
    fun done e s he hnot hlt hs => ⟨_, s, elemAction_mv h, ?_, hs⟩
  rw [hs.get (widthOf_dvd _) hlt hnot]

theorem sets_vid (h : c.x.op = .vid d) : c.Sets st q c.w d (st.active c.i c.x.mreg) fun e => (e, 0) :=
  sets_of_active_puts hexec hq hd hg (widthOf_dvd _) (by rw [h]; rfl) (by rw [h]; rfl) (by rw [h]; rfl)
    fun done e s he hnot hlt hs => ⟨_, s, elemAction_vid h, Nat.mod_mod _ _, hs⟩

theorem sets_splat {x : Word} (h : c.x.op = .splat d x) : c.Sets st q c.w d (st.active c.i c.x.mreg) fun _ => (x.toNat, 0) :=
  sets_of_active_puts hexec hq hd hg (widthOf_dvd _) (by rw [h]; rfl) (by rw [h]; rfl) (by rw [h]; rfl)
    fun done e s he hnot hlt hs => ⟨_, s, elemAction_splat h, Nat.mod_mod _ _, hs⟩

/-- A dot product reads each narrow element of its sources before any write, as its destination is neither. -/
theorem sets_dot {n w : Nat} {sg : Bool} (h : c.x.op = .dot n d a b) (hn : n = 4 ∨ n = 8) (hf : intFmt (fmtOf c.cfg) = some (w, sg))
    (had : a ≠ d) (hbd : b ≠ d) :
    c.Sets st q 32 d (st.active c.i c.x.mreg) fun e => (codeOfInt 32 (c.get d 32 e st + ((List.range n).map fun k =>
      intOfCode w sg (c.get a (32 / n) (n * e + k) st) * intOfCode w sg (c.get b (32 / n) (n * e + k) st)).sum), 0) := by
  have hdvd : 32 / n ∣ 64 := by obtain rfl | rfl := hn <;> decide
  refine sets_of_active_puts hexec hq hd hg (by decide) (by rw [h]; rfl) (by rw [h]; rfl) (by rw [h]; rfl)
    fun done e s he hnot hlt hs => ⟨_, s, elemAction_dot h hf, ?_, hs⟩
  have hsource (k : BitVec 5) (hk : k ≠ d) (j : Nat) (hj : j < n) : c.get k (32 / n) (n * e + j) s = c.get k (32 / n) (n * e + j) st := by
    refine hs.kept k (32 / n) (n * e + j) hdvd ?_ fun heq => absurd heq hk
    obtain rfl | rfl := hn
    · simp only [capacity] at hlt ⊢
      omega
    · simp only [capacity] at hlt ⊢
      omega
  have hsum : (List.range n).map (fun k => intOfCode w sg (c.get a (32 / n) (n * e + k) s) * intOfCode w sg (c.get b (32 / n) (n * e + k) s)) =
      (List.range n).map fun k => intOfCode w sg (c.get a (32 / n) (n * e + k) st) * intOfCode w sg (c.get b (32 / n) (n * e + k) st) := by
    refine List.map_congr_left fun j hj => ?_
    rw [hsource a had j (List.mem_range.mp hj), hsource b hbd j (List.mem_range.mp hj)]
  rw [hsum, hs.get (by decide) hlt hnot]

theorem sets_cvt {f : CvtForm} {sf df : BitVec 4} {rnd : BitVec 3} {sat : Bool} (h : c.x.op = .cvt f d a b sf df rnd sat) (hf : f ≠ .scaled)
    (hwidth : widthOf sf = widthOf df) (hm : cvtMode rnd c.cfg ≠ .stochastic)
    (hres : ∀ e, e < c.vl → reservedCode sf (c.get a (widthOf sf) e st) = false) :
    c.Sets st q (widthOf df) d (st.active c.i c.x.mreg) fun e => convert sf df (cvtMode rnd c.cfg) sat c.fz 0 (c.get a (widthOf sf) e st) := by
  have hgw : c.x.op.groupWidth c.cfg = widthOf df := by
    rw [h]
    exact (congrArg (max · _) hwidth).trans (Nat.max_self _)
  have hvis : c.x.op.visitsAll = false := by
    rw [h]
    cases f with
    | scaled => exact absurd rfl hf
    | _ => rfl
  refine sets_of_active_puts hexec hq hd hg (widthOf_dvd df) (by rw [h]; rfl) hgw hvis fun done e s he hnot hlt hs => ⟨_, s, ?_, rfl, hs⟩
  have hget : c.get a (widthOf sf) e s = c.get a (widthOf sf) e st := by
    rw [hwidth]
    exact hs.get (widthOf_dvd df) hlt hnot a
  refine (elemAction_cvt h hf hm ?_).trans (by rw [hget])
  rw [hget]
  exact hres e ((mem_elements.mp he).1.2.trans_le (stop_le c))

theorem sets_ld {base : Addr} {u : TileId} {o : Nat → Nat} (h : c.x.op = .ld .unit d base) (hw : 8 ≤ c.w)
    (hin : ∀ e, c.x.next ≤ e → e < c.stopAt c.w → c.act e st = true → InTmem c .read base e u (o e) st ∧
      st.poisoned (.tmem u (o e)) (c.w / 8) = false) :
    c.Sets st q c.w d (st.active c.i c.x.mreg) fun e => (leNat ((st.tile u).tmem.bytes (o e) (c.w / 8)), 0) := by
  have hvis : c.x.op.visitsAll = false := by rw [h]; rfl
  have hgw : c.x.op.groupWidth c.cfg = c.w := by rw [h]; rfl
  refine sets_of_active_puts hexec hq hd hg (widthOf_dvd _) (by rw [h]; rfl) hgw hvis fun done e s he hnot hlt hs => ?_
  obtain ⟨hlo, hhi, ha⟩ := (mem_elements_of_active hvis hgw).mp he
  obtain ⟨hplace, hpoison⟩ := hin e hlo hhi ha
  refine ⟨_, _, elemAction_ld h hw (hplace.of_beside hs.beside) ?_, by rw [hs.tmem], hs.strandXl⟩
  rwa [State.poisoned, hs.poison]

end

end

/-! ### The instructions that mark and store -/

theorem compare_marks {op : VCmp} {d : BitVec 3} {a : BitVec 5} {y : VSrc} (hd : dtOf c.cfg = false) (h : c.x.op = .cmp op d a y) :
    let f (e : Nat) : Bool × Flags := op.eval (vecFloat (fmtOf c.cfg)) c.fz c.w (c.get a c.w e st) (c.operand y c.w e st)
    ∃ r, exec (.elementGroup c.i 0) st = .next r ∧
      c.Ends st q (c.stopAt c.w) (((range c.x.next (c.stopAt c.w)).filter (st.active c.i c.x.mreg)).foldl (fun a e => a ||| (f e).2) 0) r ∧
      (∀ k, r.xr c.i k = st.xr c.i k) ∧
      (∀ e, e < 4096 → (r.strand c.i).mbit d e =
        if c.x.next ≤ e ∧ e < c.stopAt c.w ∧ c.act e st = true then (f e).1 else (st.strand c.i).mbit d e) ∧
      (∀ k, k ≠ d → (r.strand c.i).mr k = (st.strand c.i).mr k) ∧ ∀ u, (r.tile u).v = (st.tile u).v := by
  intro f
  have hvis : c.x.op.visitsAll = false := by rw [h]; rfl
  have hgw : c.x.op.groupWidth c.cfg = c.w := by rw [h]; rfl
  have hstop := stop_eq hgw
  obtain ⟨r, s, hr, hp, he⟩ := groupRun_marks hq h hd
  rw [elements_of_active hvis, hstop] at he
  have hm : (r.strand c.i).m = (s.strand c.i).m := he.m (hstop ▸ stop_le c)
  refine ⟨r, by rw [hexec, hr]; rfl, he.outcome hp.beside.fcsr, he.xr (hstop ▸ stop_le c) hp.beside, fun e hlt => ?_, fun k hk => ?_,
    fun u => (he.v u).trans (hp.v u)⟩
  · have hbit := hp.bit e hlt
    simp only [mem_elements_of_active hvis hgw] at hbit
    rw [Strand.mbit, Strand.mr, hm]
    exact hbit
  · rw [Strand.mr, hm]
    exact hp.other k hk

theorem store_writes {k : BitVec 5} {base : Addr} {u : TileId} {o : Nat} (hd : dtOf c.cfg = false) (h : c.x.op = .st .unit k base) (hw : 8 ≤ c.w)
    (hwf : (st.tile u).tmem.wf = true) (hstores : ∀ a ∈ (st.strand c.i).stores, c.x.seq ≤ a.seq)
    (hlates : ∀ a ∈ (st.strand c.i).lates, c.x.seq ≤ a.seq)
    (hin : ∀ e, c.x.next ≤ e → e < c.stopAt c.w → c.act e st = true → InTmem c .write base e u (o + e * (c.w / 8)) st) :
    ∃ r, exec (.elementGroup c.i 0) st = .next r ∧ c.Ends st q (c.stopAt c.w) 0 r ∧ (∀ k, r.xr c.i k = st.xr c.i k) ∧
      (∀ t, (r.tile t).v = (st.tile t).v) ∧
      (∀ e, c.x.next ≤ e → e < c.stopAt c.w → c.act e st = true →
        (r.tile u).tmem.bytes (o + e * (c.w / 8)) (c.w / 8) = leBytes (c.w / 8) (c.get k c.w e st)) ∧
      (∀ j, (∀ e, c.x.next ≤ e → e < c.stopAt c.w → c.act e st = true → j < o + e * (c.w / 8) ∨ o + e * (c.w / 8) + c.w / 8 ≤ j) →
        (r.tile u).tmem.get j = (st.tile u).tmem.get j) := by
  have hvis : c.x.op.visitsAll = false := by rw [h]; rfl
  have hgw : c.x.op.groupWidth c.cfg = c.w := by rw [h]; rfl
  have hstop := stop_eq hgw
  have hmem {e : Nat} := mem_elements_of_active hvis (s := st) (e := e) hgw
  obtain ⟨r, s, hr, hp, he⟩ := groupRun_stores hq h hd hw hwf hstores hlates fun e he => hin e (hmem.mp he).1 (hmem.mp he).2.1 (hmem.mp he).2.2
  rw [hstop] at he
  refine ⟨r, by rw [hexec, hr]; rfl, he.outcome hp.beside.fcsr, he.xr (hstop ▸ stop_le c) hp.beside, fun t => (he.v t).trans (hp.v t),
    fun e hlo hhi ha => ?_, fun j hj => ?_⟩
  · rw [he.tmem]
    exact hp.written e (hmem.mpr ⟨hlo, hhi, ha⟩)
  · rw [he.tmem]
    exact hp.kept j fun e hm => hj e (hmem.mp hm).1 (hmem.mp hm).2.1 (hmem.mp hm).2.2

/-! ### The instructions of one group -/

theorem oneGroup_acts {s : State} (hgran : c.x.op.granular = false) (hf : c.x.op.firstFault = false) (hp : c.x.partials = none)
    (hone : oneGroup c st = some s) (hqs : (s.strand c.i).queue = (st.strand c.i).queue) (hfs : (s.strand c.i).fcsr = (st.strand c.i).fcsr)
    (hv : ∀ u, (s.tile u).v = (st.tile u).v) :
    ∃ r, exec (.elementGroup c.i 0) st = .next r ∧ c.Ends st q c.vl 0 r ∧ (∀ u, (r.tile u).v = (st.tile u).v) ∧
      (r.strand c.i).x = (s.strand c.i).x ∧ (r.strand c.i).m = (s.strand c.i).m := by
  obtain ⟨r, hr, he⟩ := groupRun_acts hq hgran hf hp hone hqs
  exact ⟨r, by rw [hexec, hr]; rfl, he.outcome hfs, fun u => (he.v u).trans (hv u), he.x le_rfl, he.m le_rfl⟩

/-- An instruction of one group that gives one x register a value. -/
theorem oneGroup_writes_x {d : BitVec 5} {v : Word} (hgran : c.x.op.granular = false) (hf : c.x.op.firstFault = false) (hp : c.x.partials = none)
    (hone : oneGroup c st = some (st.setX c.i d v)) :
    ∃ r, exec (.elementGroup c.i 0) st = .next r ∧ c.Ends st q c.vl 0 r ∧ (∀ u, (r.tile u).v = (st.tile u).v) ∧
      r.xr c.i d = (if d = 0 then 0 else v) ∧ ∀ k, k ≠ d → r.xr c.i k = st.xr c.i k := by
  have hset : (st.setX c.i d v).strand c.i = (st.strand c.i).setX d v := State.strand_modStrand_self ..
  obtain ⟨r, hr, he, hv, hx, -⟩ := oneGroup_acts hexec hq hgran hf hp hone (by rw [hset, Strand.queue_setX]) (by rw [hset, Strand.fcsr_setX])
    fun u => rfl
  rw [hset] at hx
  refine ⟨r, hr, he, hv, ?_, fun k hk => ?_⟩
  · rw [State.xr, Strand.xr, hx]
    exact Strand.xr_setX_self ..
  · rw [State.xr, Strand.xr, hx]
    exact Strand.xr_setX_ne _ _ hk

theorem mask_marks {op : MaskOp} {d a b : BitVec 3} (h : c.x.op = .mask op d a b) :
    ∃ r, exec (.elementGroup c.i 0) st = .next r ∧ c.Ends st q c.vl 0 r ∧ (∀ u, (r.tile u).v = (st.tile u).v) ∧ (∀ k, r.xr c.i k = st.xr c.i k) ∧
      ∀ e, e < 4096 → (r.strand c.i).mbit d e =
        if c.x.first ≤ e ∧ e < c.vl then op.eval ((st.strand c.i).mbit a e) ((st.strand c.i).mbit b e) else (st.strand c.i).mbit d e := by
  let rg := maskRange c.x.first c.vl
  let t := (st.strand c.i).setM d (((st.strand c.i).mr d &&& ~~~ rg) ||| (op.word ((st.strand c.i).mr a) ((st.strand c.i).mr b) &&& rg))
  have hone : oneGroup c st = some (st.setStrand c.i t) := by
    simp only [oneGroup, h]
    rfl
  have hset : (st.setStrand c.i t).strand c.i = t := State.strand_setStrand_self ..
  obtain ⟨r, hr, he, hv, hx, hm⟩ := oneGroup_acts hexec hq (by rw [h]; rfl) (by rw [h]; rfl) (by rw [VEntry.partials, h]) hone (by rw [hset]; rfl)
    (by rw [hset]; rfl) fun u => rfl
  rw [hset] at hx hm
  refine ⟨r, hr, he, hv, fun k => ?_, fun e hlt => ?_⟩
  · rw [State.xr, Strand.xr, hx]
    rfl
  · rw [Strand.mbit, Strand.mr, hm]
    exact mbit_setM_masked (st.strand c.i) op d a b c.x.first c.vl hlt

end

/-- Settles O28: a group that goes element by element is a run whose relation to the state before holds element after element; the others act once. -/
theorem elementGroupsComputeTheirElements : Obligations.ElementGroupsComputeTheirElements := by
  intro st i x g q vl cfg hh hq hs hc hgrp hsize hbase hd hnext w F m fz act get arg stop ends flags keepsX sets
  let c : VCtx := ⟨i, x, g, vl, cfg⟩
  have hexec : exec (.elementGroup i 0) st = event st (groupRun i 0 c st) := exec_elementGroup hh hq hs hc hgrp
  have hg : Fits c.g := ⟨hsize, hbase⟩
  refine ⟨fun op d s y hop => sets_int (c := c) hexec hq hd hg hop, fun op d s y hop => sets_fp (c := c) hexec hq hd hg hop,
    fun d s t hop => sets_merge (c := c) hexec hq hd hg hop, fun d s hop => sets_mv (c := c) hexec hq hd hg hop,
    fun d hop => sets_vid (c := c) hexec hq hd hg hop, fun d v hop => sets_splat (c := c) hexec hq hd hg hop,
    fun n d s t w' sg hop hn hf hsd htd => sets_dot (c := c) hexec hq hd hg hop hn hf hsd htd,
    fun f d s t sf df rnd sat hop hf hwidth hm hres => sets_cvt (c := c) hexec hq hd hg hop hf hwidth hm hres,
    fun op d s y hop _ => compare_marks (c := c) hexec hq hd hop, fun _ => ⟨fun op d s t hop => ?mask, fun d s hop => ?mpopc, fun d s hop => ?mfirst,
    fun d s k hop => ?ext⟩, fun hw => ⟨fun d base u o hop hin => ?load, fun s base u o hop hwf hstores hlates hin => ?store⟩⟩
  case mask =>
    obtain ⟨r, hr, he, hv, hx, hbit⟩ := mask_marks (c := c) hexec hq hop
    exact ⟨r, hr, he, hv, hx, fun e hlt => ⟨fun hin => (hbit e hlt).trans (if_pos hin), fun hout => (hbit e hlt).trans (if_neg hout)⟩⟩
  case mpopc =>
    exact oneGroup_writes_x (c := c) hexec hq (by rw [show c.x.op = _ from hop]; rfl) (by rw [show c.x.op = _ from hop]; rfl)
      (by rw [VEntry.partials, show c.x.op = _ from hop]) (by simp only [oneGroup, show c.x.op = _ from hop]; rfl)
  case mfirst =>
    have hone : oneGroup c st = some (st.setX i d (match (range x.first vl).find? ((st.strand i).mbit s) with
        | some e => BitVec.ofNat 64 e | none => BitVec.allOnes 64)) := by
      simp only [oneGroup, show c.x.op = _ from hop]
      rfl
    have writes := oneGroup_writes_x (c := c) hexec hq (by rw [show c.x.op = _ from hop]; rfl) (by rw [show c.x.op = _ from hop]; rfl)
      (by rw [VEntry.partials, show c.x.op = _ from hop]) hone
    refine ⟨fun e he hset hlow => ?_, fun hnone => ?_⟩
    · rwa [find?_range_eq_some he.1 he.2 hset fun k ha hk => hlow k ⟨ha, hk.trans he.2⟩ hk] at writes
    · rwa [find?_range_eq_none fun k ha hb => hnone k ⟨ha, hb⟩] at writes
  case ext =>
    exact oneGroup_writes_x (c := c) hexec hq (by rw [show c.x.op = _ from hop]; rfl) (by rw [show c.x.op = _ from hop]; rfl)
      (by rw [VEntry.partials, show c.x.op = _ from hop]) (by simp only [oneGroup, show c.x.op = _ from hop]; rfl)
  case load =>
    refine sets_ld (c := c) hexec hq hd hg hop hw fun e hlo hhi ha => ?_
    obtain ⟨⟨hal, hwin, hplace, -⟩, hpoison⟩ := hin e hlo hhi ha
    exact ⟨⟨hal, hwin, hplace⟩, hpoison⟩
  case store =>
    refine store_writes (c := c) hexec hq hd hop hw hwf hstores hlates fun e hlo hhi ha => ?_
    obtain ⟨hal, hwin, hplace, -⟩ := hin e hlo hhi ha
    exact ⟨hal, hwin, hplace⟩

end Sys2Proof.Machine
end

section
/-! PROOF. The starts of the entries of a vector queue, and what acts at its head (R118, R124, R127, R130, R134, R135, R249). -/

namespace Sys2Proof.Machine

open Sys2Proof

/-! ### Entries that order the queue (R118, R249) -/

/-- The state after an entry that has not started has retired (R71, R410). -/
def dropped (i : StrandId) (k : Nat) (e : VEntry) (s : State) : State :=
  traceEvent i 0 true e.seq e.strip e.pc (s.modStrand i fun t => t.retired k e)

section
variable {st : State} {i : StrandId} {k : Nat} {e : VEntry} (hk : (st.strand i).queue[k]? = some e) (hs : e.started = false)
include hk hs

theorem retire_unstarted {s : State} (hq : (s.strand i).queue = (st.strand i).queue) : retire i k s = dropped i k e s := by
  rw [retire_eq (by rw [hq, hk]), traceEnd_of_not_started hs, dropped]

variable (hh : (st.strand i).held = false) (hr : st.coreRuns i.core = true)
include hh hr

theorem exec_start_unordered (ho : olderStarted (st.strand i) k = false) : exec (.vectorInstructionStart i k) st = wait st := by
  show execVectorInstructionStart i k st = _
  simp only [execVectorInstructionStart, hh, hk, hr, hs, ho]
  rfl

variable (ho : olderStarted (st.strand i) k = true)
include ho

theorem exec_start_control (hp : e.op.pipe = none) : exec (.vectorInstructionStart i k) st = event st (startControl i k e st) := by
  show execVectorInstructionStart i k st = _
  simp only [execVectorInstructionStart, hh, hk, hr, hs, ho, hp]
  rfl

theorem exec_start_elements {p : Nat} (hp : e.op.pipe = some p) : exec (.vectorInstructionStart i k) st = event st (startEntry i k e p st) := by
  show execVectorInstructionStart i k st = _
  simp only [execVectorInstructionStart, hh, hk, hr, hs, ho, hp]
  rfl

theorem exec_start_setl {n : BitVec 13} (h : e.op = .setl n) :
    exec (.vectorInstructionStart i k) st = .next (dropped i k e (st.modStrand i fun r => { r with vvl := n })) := by
  rw [exec_start_control hk hs hh hr ho (by rw [h]; rfl)]
  simp only [startControl, h]
  exact congrArg Host.Outcome.next (retire_unstarted hk hs (by rw [State.strand_modStrand_self]))

theorem exec_start_setcfg {c : Word} (h : e.op = .setcfg c) :
    exec (.vectorInstructionStart i k) st = .next (dropped i k e (st.modStrand i fun r => { r with vvcfg := c })) := by
  rw [exec_start_control hk hs hh hr ho (by rw [h]; rfl)]
  simp only [startControl, h]
  exact congrArg Host.Outcome.next (retire_unstarted hk hs (by rw [State.strand_modStrand_self]))

theorem exec_start_fenceSV (h : e.op = .fenceSV) (hstores : (st.strand i).stores.any (·.seq < e.seq) = false)
    (hlates : (st.strand i).lates.any (·.seq < e.seq) = false) : exec (.vectorInstructionStart i k) st = .next (dropped i k e st) := by
  rw [exec_start_control hk hs hh hr ho (by rw [h]; rfl)]
  simp only [startControl, h, hstores, hlates]
  exact congrArg Host.Outcome.next (retire_unstarted hk hs rfl)

theorem exec_start_fenceVV (h : e.op = .fenceVV) (hm : ((st.strand i).queue.take k).any (fun o => o.op.memory) = false) :
    exec (.vectorInstructionStart i k) st = .next (dropped i k e st) := by
  rw [exec_start_control hk hs hh hr ho (by rw [h]; rfl)]
  simp only [startControl, h, hm]
  exact congrArg Host.Outcome.next (retire_unstarted hk hs rfl)

end

/-! ### Entries that process elements (R127, R130) -/

/-- An entry that starts with a length and a configuration at an element. -/
def VEntry.starting (e : VEntry) (first vl : Nat) (cfg : Word) : VEntry :=
  { e with started := true, first := first, next := first, conf := some (vl, cfg), aux := 0, parts := [] }

/-- A first start of an entry at the element of `vstart` finds its pipe free, and passes the checks (R127, R130, R144). -/
structure MayStart (st : State) (i : StrandId) (k : Nat) (e : VEntry) (p : Nat) (g : LaneGroup) : Prop where
  group : st.group i = some g
  conf : e.conf = none
  resume : e.resume = none
  length : (st.strand i).vvl ≠ 0
  start : (st.strand i).vstart.toNat < (st.strand i).vvl.toNat
  pipe : pipeFree i k p st = true
  check : e.op.preCheck (st.strand i).vvcfg g.size (st.strand i).vvl.toNat = none

section
variable {st : State} {i : StrandId} {k : Nat} {e : VEntry} {p : Nat} {g : LaneGroup} (h : MayStart st i k e p g)
include h

/-- A start puts the entry into its pipe and clears `vstart`, and changes nothing else of the strand but its links. -/
theorem startElements_starts : ∃ s, startElements i k e p st = some s ∧ s.tiles = st.tiles ∧
    (s.strand i).unlinked = ({ st.strand i with
      vstart := 0
      queue := (st.strand i).queue.set k (e.starting (st.strand i).vstart.toNat (st.strand i).vvl.toNat (st.strand i).vvcfg) } : Strand).unlinked := by
  obtain ⟨hg, hc, hres, hlen, hstart, hpipe, hcheck⟩ := h
  have hconf : e.config (st.strand i) = ((st.strand i).vvl.toNat, (st.strand i).vvcfg) := by rw [VEntry.config, hc]; rfl
  have hfirst : e.begins (st.strand i) = (st.strand i).vstart.toNat := by rw [VEntry.begins, hres]; rfl
  have hvl : (st.strand i).vvl.toNat ≠ 0 := fun h0 => hlen (BitVec.eq_of_toNat_eq h0)
  have hlt : ((st.strand i).vvl.toNat ≤ (st.strand i).vstart.toNat) = False := eq_false (Nat.not_le.mpr hstart)
  have hentry : { e with
      started := true, first := (st.strand i).vstart.toNat, next := (st.strand i).vstart.toNat
      conf := some ((st.strand i).vvl.toNat, (st.strand i).vvcfg), resume := none, aux := 0, parts := [] } =
        e.starting (st.strand i).vstart.toNat (st.strand i).vvl.toNat (st.strand i).vvcfg := by
    rw [← hres]
    rfl
  simp only [startElements, hg, hconf, hfirst, hvl, hlt, hpipe, hcheck, hentry, if_false, decide_false, Bool.false_and, Bool.not_true]
  refine ⟨_, rfl, tiles_trace .., ?_⟩
  rw [unlinked_traceEvent, setEntry, State.strand_modStrand_self, State.strand_modStrand_self, hres]
  rfl

end

/-! ### What acts at the head of a queue (R124, R134, R135) -/

theorem queue_eq_cons_of_getElem? {l : List VEntry} {e : VEntry} (h : l[0]? = some e) : l = e :: l.tail := by
  cases l with
  | nil => cases h
  | cons a r => rw [Option.some.inj (h : some a = some e), List.tail_cons]

section
variable {st : State} {i : StrandId} {u : TileId} {e : VEntry} (hi : i.core = .tile u) (hh : (st.strand i).held = false)
  (hw : (st.tile u).works = true) (hk : (st.strand i).queue[0]? = some e)
include hi hh hw hk

/-- A FORKL at the head acts and retires, with a child or without. -/
theorem exec_forklAct_acts {n : Nat} {g : LaneGroup} (hg : (st.tile u).groups.find? (·.2.owner = some i.slot) = some (n, g)) {d : BitVec 5} {pc : Addr}
    {c : Option (BitVec 3)} {xs : Vector Word 32} {as : Vector Addr 16} (he : e.op = .fork d pc c xs as) (hc : c ≠ some i.slot) :
    ∃ r, exec (.forklAct i) st = .next r ∧ (r.strand i).queue = (st.strand i).queue.tail ∧ (r.strand i).vvl = 0 := by
  have hq := queue_eq_cons_of_getElem? hk
  cases c with
  | none =>
    have hr := unlinked_retire (s := st.modStrand i fun r => { r with vvl := 0 }) (i := i) (k := 0) (e := e) (by rw [State.strand_modStrand_self, hk])
    rw [State.strand_modStrand_self] at hr
    refine ⟨retire i 0 (st.modStrand i fun r => { r with vvl := 0 }), ?_, ?_, (Strand.of_unlinked (·.vvl) (fun _ => rfl) hr).trans rfl⟩
    · have hruns : ((st.strand i).held || !st.coreRuns i.core) = false := by simp [hh, hi, State.coreRuns, hw]
      show execForklAct i st = _
      rw [execForklAct]
      simp only [hruns]
      rw [hq]
      simp only [he]
      rfl
    · exact (Strand.of_unlinked (·.queue) (fun _ => rfl) hr).trans (Strand.queue_retired ..)
  | some c =>
    have hne : c ≠ i.slot := fun h => hc (congrArg some h)
    have hp := unlinked_forkRetired (u := u) hq (splitGroups (st.tile u).groups n g c)
    have hparent := forked_parent u i (splitGroups (st.tile u).groups n g c) d pc xs as st hne
    refine ⟨_, execForklAct_splits hi hh hw hq he hg, ?_, ?_⟩
    · rw [hparent, Strand.queue_setX]
      exact (Strand.of_unlinked (·.queue) (fun _ => rfl) (t := { (st.strand i).retired 0 e with vvl := 0 }) hp).trans (Strand.queue_retired _ e)
    · rw [hparent]
      exact (Strand.vvl_setX ..).trans (Strand.of_unlinked (·.vvl) (fun _ => rfl) (t := { (st.strand i).retired 0 e with vvl := 0 }) hp)

theorem exec_joinlAct_acts {n : Nat} {g : LaneGroup} (hg : (st.tile u).groups.find? (·.2.owner = some i.slot) = some (n, g)) (he : e.op = .join) :
    ∃ r, exec (.joinlAct i) st = .next r ∧ (r.strand i).queue = (st.strand i).queue.tail ∧ (r.strand i).vvl = 0 := by
  refine ⟨_, execJoinlAct_joins hi hh hw (queue_eq_cons_of_getElem? hk) he hg, ?_, ?_⟩
  · rw [State.strand_modStrand_self]
    refine (Strand.of_unlinked (·.queue) (fun _ => rfl) (unlinked_retire (e := e) (by rw [State.strand_setTile, hk]))).trans ?_
    exact Strand.queue_retired ..
  · rw [State.strand_modStrand_self]

end

end Sys2Proof.Machine
end

section
/-! PROOF. Cross-lane instructions start and complete at once (R180, R182 to R187). -/

namespace Sys2Proof.Machine

open Sys2Proof

/-! ### The group of a cross-lane instruction (R180) -/

section
variable {c : VCtx} {s : State} {p : BitVec 5 × XResult} (h : xlnResult c s = some p)
include h

theorem granular_of_xlnResult : c.x.op.granular = false := by
  unfold xlnResult at h
  split at h <;> cases h <;> simp [VOp.granular, *]

theorem firstFault_of_xlnResult : c.x.op.firstFault = false := by
  unfold xlnResult at h
  split at h <;> cases h <;> simp [VOp.firstFault, *]

theorem partials_of_xlnResult : c.x.partials = none := by
  unfold xlnResult at h
  split at h <;> cases h <;> simp [VEntry.partials, *]

theorem oneGroup_of_xlnResult (t : State) : oneGroup c t = none := by
  unfold xlnResult at h
  split at h <;> cases h <;> simp [oneGroup, *]

end

/-- A cross-lane instruction reads elements and the masks of its strand. -/
theorem xlnResult_congr {c : VCtx} {s t : State} (hv : ∀ u, (s.tile u).v = (t.tile u).v) (hm : (s.strand c.i).m = (t.strand c.i).m) :
    xlnResult c s = xlnResult c t := by
  have hget (r : BitVec 5) (w e : Nat) : c.get r w e s = c.get r w e t := by simp only [VCtx.get, State.elem, Tile.elem, Tile.vword, hv]
  have hact (e : Nat) : c.act e s = c.act e t := by simp only [VCtx.act, State.active, Strand.mbit, Strand.mr, hm]
  simp only [xlnResult, VCtx.actives, ranked, hget, hact]

/-- The length that a cross-lane instruction leaves, where it leaves one (R187). -/
def Strand.shortened (t : Strand) (n : Option Nat) : Strand :=
  match n with
  | none => t
  | some n => { t with vl := BitVec.ofNat 13 n, vvl := BitVec.ofNat 13 n }

/-- The elements that a cross-lane instruction writes, written in order. -/
def VCtx.puts (c : VCtx) (d : BitVec 5) (w : Nat) (ws : List (Nat × Nat)) (s : State) : State := ws.foldl (fun s p => c.put d w p.1 p.2 s) s

theorem groupRun_crossLane {c : VCtx} {s : State} {d : BitVec 5} {ws : List (Nat × Nat)} {w : Nat} {f : Flags} {n : Option Nat}
    (h : xlnResult c s = some (d, ⟨ws, w, f, n⟩)) :
    ∃ s', groupRun c.i 0 c s = afterGroup c.i 0 c.vl c.vl ⟨f, s', none⟩ ∧ s'.tiles = (c.puts d w ws s).tiles ∧
      s'.strand c.i = ((c.puts d w ws s).strand c.i).shortened n := by
  simp only [groupRun, granular_of_xlnResult h, oneGroup_of_xlnResult h, xlnRun, h, olderPast, List.take_zero, List.all_nil]
  cases n with
  | none => exact ⟨_, rfl, rfl, rfl⟩
  | some n => exact ⟨_, rfl, rfl, State.strand_modStrand_self ..⟩

/-- Writes of distinct elements, in any order. -/
theorem puts_puts {c : VCtx} {st : State} {d : BitVec 5} {w : Nat} {val : Nat → Nat} (hg : Fits c.g) (hw : w ∣ 64) {ws : List (Nat × Nat)}
    (hn : (ws.map (·.1)).Nodup) (hcap : ∀ p ∈ ws, p.1 < capacity c.g.size w) (hval : ∀ p ∈ ws, p.2 % 2 ^ w = val p.1 % 2 ^ w) :
    Puts c d w val st (ws.map (·.1)) (c.puts d w ws st) := by
  have go : ∀ (rest done : List (Nat × Nat)) (s : State), ws = done ++ rest → Puts c d w val st (done.map (·.1)) s →
      Puts c d w val st (ws.map (·.1)) (c.puts d w rest s) := by
    intro rest
    induction rest with
    | nil =>
      rintro done s rfl h
      rwa [List.append_nil]
    | cons p rest ih =>
      rintro done s heq h
      refine ih (done ++ [p]) (c.put d w p.1 p.2 s) (by rw [heq, List.append_assoc]; rfl) ?_
      have hp : p ∈ ws := by rw [heq]; exact List.mem_append_right _ List.mem_cons_self
      rw [heq, List.map_append] at hn
      rw [List.map_append]
      refine h.put hg hw (hcap p hp) (fun k hk => ?_) (fun hd => List.disjoint_of_nodup_append hn hd List.mem_cons_self) (hval p hp)
      obtain ⟨a, ha, rfl⟩ := List.mem_map.mp hk
      exact hcap a (heq ▸ List.mem_append_left _ ha)
  exact go ws [] st rfl (Puts.none ..)

/-! ### A cross-lane instruction at the head (R180) -/

/-- The view that an entry runs with from its start. -/
def startedCtx (st : State) (i : StrandId) (e : VEntry) (g : LaneGroup) : VCtx :=
  ⟨i, e.starting (st.strand i).vstart.toNat (st.strand i).vvl.toNat (st.strand i).vvcfg, g, (st.strand i).vvl.toNat, (st.strand i).vvcfg⟩

/-- A cross-lane instruction at the head completes with a length, giving some elements of one register new values. -/
def CrossLaneWrites (st : State) (i : StrandId) (g : LaneGroup) (w : Nat) (d : BitVec 5) (n : BitVec 13) (f : Nat → Option Nat) : Prop :=
  ∃ r, exec (.vectorInstructionStart i 0) st = .next r ∧ (r.strand i).queue = (st.strand i).queue.tail ∧ (r.strand i).vstart = 0 ∧
    (r.strand i).vl = n ∧
    (∀ j, j < capacity g.size w → r.elem i g d w j = match f j with | some v => v % 2 ^ w | none => st.elem i g d w j) ∧
    (∀ z j, z ≠ d → j < capacity g.size w → r.elem i g z w j = st.elem i g z w j)

section
variable {st : State} {i : StrandId} {e : VEntry} {g : LaneGroup} (hh : (st.strand i).held = false) (hk : (st.strand i).queue[0]? = some e)
  (hs : e.started = false) (hr : st.coreRuns i.core = true) (hp : e.op.pipe = some 3) (hm : MayStart st i 0 e 3 g)
include hh hk hs hr hp hm

/-- A cross-lane instruction runs its group in the state of its start. -/
theorem exec_start_crossLane : ∃ s, exec (.vectorInstructionStart i 0) st = event st (groupRun i 0 (startedCtx st i e g) s) ∧ s.tiles = st.tiles ∧
    (s.strand i).unlinked = ({ st.strand i with vstart := 0, queue := (startedCtx st i e g).x :: (st.strand i).queue.tail } : Strand).unlinked := by
  obtain ⟨s, hstart, htiles, hu⟩ := startElements_starts hm
  have hset : (st.strand i).queue.set 0 (startedCtx st i e g).x = (startedCtx st i e g).x :: (st.strand i).queue.tail := by
    rw [queue_eq_cons_of_getElem? hk]
    rfl
  change (s.strand i).unlinked = ({ st.strand i with vstart := 0, queue := (st.strand i).queue.set 0 (startedCtx st i e g).x } : Strand).unlinked at hu
  rw [hset] at hu
  have hqueue : (s.strand i).queue = (startedCtx st i e g).x :: (st.strand i).queue.tail :=
    Strand.of_unlinked (·.queue) (fun _ => rfl)
      (t := { st.strand i with vstart := 0, queue := (startedCtx st i e g).x :: (st.strand i).queue.tail }) hu
  have hgroup : s.group i = some g := by
    rw [← hm.group]
    simp only [State.group, State.tile_of_tiles htiles]
  have hctx : entryCtx i 0 s = some (startedCtx st i e g) := by
    simp only [entryCtx, hqueue, hgroup]
    rfl
  refine ⟨s, ?_, htiles, hu⟩
  rw [exec_start_elements hk hs hh hr rfl hp]
  simp only [startEntry, hstart, hctx]
  rw [if_neg (not_not_intro rfl)]
  exact congrArg (event st) (if_pos rfl)

/-- A cross-lane instruction at the head completes: it writes its results, and leaves a length of its own where it has one. -/
theorem crossLane_writes (hg : Fits g) {d : BitVec 5} {ws : List (Nat × Nat)} {w : Nat} {fl : Flags} {n : Option Nat} {f : Nat → Option Nat}
    (hres : xlnResult (startedCtx st i e g) st = some (d, ⟨ws, w, fl, n⟩)) (hw : w ∣ 64) (hn : (ws.map (·.1)).Nodup)
    (hcap : ∀ p ∈ ws, p.1 < capacity g.size w) (hval : ∀ p ∈ ws, ∃ v, f p.1 = some v ∧ p.2 % 2 ^ w = v % 2 ^ w)
    (hnone : ∀ j, j ∉ ws.map (·.1) → f j = none) :
    CrossLaneWrites st i g w d (n.elim (st.strand i).vl (BitVec.ofNat 13)) f := by
  obtain ⟨s, hexec, htiles, hu⟩ := exec_start_crossLane hh hk hs hr hp hm
  have started {α : Type} (p : Strand → α) (hp : ∀ t, p t.unlinked = p t) := Strand.of_unlinked p hp
    (t := { st.strand i with vstart := 0, queue := (startedCtx st i e g).x :: (st.strand i).queue.tail }) hu
  have hresult : xlnResult (startedCtx st i e g) s = some (d, ⟨ws, w, fl, n⟩) :=
    (xlnResult_congr (fun u => by rw [State.tile_of_tiles htiles]) (started (·.m) fun _ => rfl)).trans hres
  obtain ⟨s', hrun, htiles', hstrand⟩ := groupRun_crossLane hresult
  have hputs : Puts (startedCtx st i e g) d w (fun j => (f j).getD 0) s (ws.map (·.1)) ((startedCtx st i e g).puts d w ws s) :=
    puts_puts hg hw hn hcap fun p hp => by
      obtain ⟨v, hv, hmod⟩ := hval p hp
      rw [hv]
      exact hmod
  have kept {α : Type} (p : Strand → α) (hp : ∀ t, p t.aside = p t) (hsh : ∀ t n, p (Strand.shortened t n) = p t) : p (s'.strand i) = p (s.strand i) :=
    (congrArg p hstrand).trans ((hsh ..).trans (Strand.of_aside p hp hputs.beside.strand))
  have hqueue : (s'.strand i).queue = (startedCtx st i e g).x :: (st.strand i).queue.tail :=
    (kept (·.queue) (fun _ => rfl) fun t n => by cases n <;> rfl).trans (started (·.queue) fun _ => rfl)
  obtain ⟨r, hr', hends⟩ := afterGroup_ends hqueue (firstFault_of_xlnResult hresult) (partials_of_xlnResult hresult) (startedCtx st i e g).vl
    (startedCtx st i e g).vl fl
  have helem (k : BitVec 5) (j : Nat) : r.elem i g k w j = ((startedCtx st i e g).puts d w ws s).elem i g k w j := by
    rw [hends.elem]
    simp only [State.elem, State.tile_of_tiles htiles']
  have hbefore (k : BitVec 5) (j : Nat) : s.elem i g k w j = st.elem i g k w j := by simp only [State.elem, State.tile_of_tiles htiles]
  refine ⟨r, ?_, (hends.retired rfl).1, ?_, ?_, fun j hj => ?_, fun z j hz hj => ?_⟩
  · rw [hexec]
    exact congrArg (event st) (hrun.trans hr')
  · refine (hends.keeps (·.vstart) (fun _ => rfl) (fun _ _ => rfl) (fun _ _ => rfl) le_rfl).trans ?_
    exact (kept (·.vstart) (fun _ => rfl) fun t n => by cases n <;> rfl).trans (started (·.vstart) fun _ => rfl)
  · refine (hends.keeps (·.vl) (fun _ => rfl) (fun _ _ => rfl) (fun _ _ => rfl) le_rfl).trans ((congrArg (·.vl) hstrand).trans ?_)
    cases n with
    | none => exact (Strand.of_aside (·.vl) (fun _ => rfl) hputs.beside.strand).trans (started (·.vl) fun _ => rfl)
    | some n => rfl
  · rw [helem]
    by_cases hmem : j ∈ ws.map (·.1)
    · obtain ⟨p, hp, rfl⟩ := List.mem_map.mp hmem
      obtain ⟨v, hv, -⟩ := hval p hp
      refine (hputs.written p.1 hmem).trans ?_
      simp only [hv]
      rfl
    · rw [hnone j hmem]
      exact (hputs.kept d w j hw hj fun _ => ⟨rfl, hmem⟩).trans (hbefore d j)
  · rw [helem]
    exact (hputs.kept z w j hw hj fun h => absurd h hz).trans (hbefore z j)

end

end Sys2Proof.Machine
end

section
/-! PROOF. What the cross-lane instructions write, and the starts of queue entries in order (R118, R127, R130, R180 to R187). -/

namespace Sys2Proof.Machine

open Sys2Proof

/-! ### Places in a rising list -/

theorem sorted_range (a b : Nat) : (range a b).Pairwise (· < ·) :=
  List.Pairwise.map _ (fun _ _ h => Nat.add_lt_add_left h a) List.pairwise_lt_range

/-- In a rising list, the elements below that of an index are those before it. -/
theorem length_filter_lt {l : List Nat} (hs : l.Pairwise (· < ·)) {n j : Nat} (h : l[n]? = some j) : (l.filter (· < j)).length = n := by
  induction l generalizing n with
  | nil => cases h
  | cons a r ih =>
    obtain ⟨ha, hr⟩ := List.pairwise_cons.mp hs
    cases n with
    | zero =>
      obtain rfl := Option.some.inj (h : some a = some j)
      rw [List.length_eq_zero_iff, List.filter_eq_nil_iff]
      intro k hk
      obtain rfl | hk := List.mem_cons.mp hk
      · simp
      · simpa using (ha k hk).le
    | succ n =>
      have hj : r[n]? = some j := by simpa using h
      rw [List.filter_cons_of_pos (by simpa using ha j (List.mem_of_getElem? hj)), List.length_cons, ih hr hj]

/-! ### The tree of sums (R182) -/

section
variable {c : VCtx}

theorem redOp_add_mod (a b : Nat) : (redOp c 0 a b).1 % 2 ^ c.w = (a + b) % 2 ^ c.w := Nat.mod_mod _ _

theorem treeLevel_sum : ∀ (l : List Nat) (fl : Flags),
    (treeLevel (redOp c 0) l fl).1.sum % 2 ^ c.w = l.sum % 2 ^ c.w ∧ (treeLevel (redOp c 0) l fl).1.length = (l.length + 1) / 2
  | [], fl => ⟨rfl, rfl⟩
  | [a], fl => ⟨rfl, by simp [treeLevel]⟩
  | a :: b :: r, fl => by
    obtain ⟨hsum, hlen⟩ := treeLevel_sum r (fl ||| (redOp c 0 a b).2)
    rw [treeLevel]
    refine ⟨?_, ?_⟩
    · rw [List.sum_cons, List.sum_cons, List.sum_cons, Nat.add_mod, redOp_add_mod, hsum, ← Nat.add_mod, Nat.add_assoc]
    · rw [List.length_cons, hlen, List.length_cons, List.length_cons]
      omega

theorem treeRun_sum (n : Nat) (l : List Nat) (fl : Flags) (h : l.length ≤ n) : (treeRun (redOp c 0) n l fl).1 % 2 ^ c.w = l.sum % 2 ^ c.w := by
  induction n generalizing l fl with
  | zero =>
    obtain rfl := List.length_eq_zero_iff.mp (Nat.le_zero.mp h)
    rfl
  | succ n ih =>
    match l, h with
    | [], _ => rfl
    | [a], _ => rfl
    | a :: b :: r, h =>
      obtain ⟨hsum, hlen⟩ := treeLevel_sum (c := c) (a :: b :: r) fl
      refine (ih _ _ ?_).trans hsum
      rw [hlen]
      simp only [List.length_cons] at h ⊢
      omega

/-- The tree of additions is the sum, at the width of the elements. -/
theorem tree_sum (l : List Nat) : (tree c 0 l).1 % 2 ^ c.w = l.sum % 2 ^ c.w := by
  unfold tree
  split
  · rename_i h
    rw [List.isEmpty_iff.mp h]
    rfl
  · exact treeRun_sum _ _ _ le_rfl

end

/-! ### The results of each instruction (R182 to R187) -/

section
variable {st : State} {i : StrandId} {e : VEntry}

/-- The width of the elements of an entry that starts. -/
def startWidth (st : State) (i : StrandId) : Nat := widthOf (fmtOf (st.strand i).vvcfg)

/-- An element of a register before an entry starts. -/
def startElem (st : State) (i : StrandId) (g : LaneGroup) (r : BitVec 5) (j : Nat) : Nat := st.elem i g r (startWidth st i) j

/-- The active elements of an entry from its start. -/
def startActive (st : State) (i : StrandId) (e : VEntry) : List Nat :=
  (range (st.strand i).vstart.toNat (st.strand i).vvl.toNat).filter fun j => st.active i e.mreg j

theorem lt_of_mem_startActive {j : Nat} (h : j ∈ startActive st i e) : j < (st.strand i).vvl.toNat := (mem_range.mp (List.mem_filter.mp h).1).2

theorem nodup_startActive : (startActive st i e).Nodup := (nodup_range _ _).filter _

theorem sorted_startActive : (startActive st i e).Pairwise (· < ·) := (sorted_range _ _).filter _

theorem length_startActive_le : (startActive st i e).length ≤ (st.strand i).vvl.toNat := by
  refine (List.length_filter_le _ _).trans ?_
  rw [range, List.length_map, List.length_range]
  omega

variable {g : LaneGroup} (hh : (st.strand i).held = false) (hk : (st.strand i).queue[0]? = some e) (hs : e.started = false)
  (hr : st.coreRuns i.core = true) (hm : MayStart st i 0 e 3 g) (hg : Fits g)
  (hcap : (st.strand i).vvl.toNat ≤ capacity g.size (startWidth st i))
include hh hk hs hr hm hg hcap

/-- An instruction that gives each active element that meets a condition a value. -/
theorem crossLane_writes_each {d : BitVec 5} {ws : List (Nat × Nat)} {fl : Flags} (on : Nat → Bool) (v : Nat → Nat) (hp : e.op.pipe = some 3)
    (hres : xlnResult (startedCtx st i e g) st = some (d, ⟨ws, startWidth st i, fl, none⟩))
    (hkeys : ws.map (·.1) = (startActive st i e).filter on)
    (hval : ∀ p ∈ ws, p.2 % 2 ^ startWidth st i = v p.1 % 2 ^ startWidth st i) :
    CrossLaneWrites st i g (startWidth st i) d (st.strand i).vl
      fun j => if j ∈ startActive st i e ∧ on j = true then some (v j) else none := by
  have hmem {j : Nat} : j ∈ ws.map (·.1) ↔ j ∈ startActive st i e ∧ on j = true := by rw [hkeys, List.mem_filter]
  have hin {p : Nat × Nat} (h : p ∈ ws) : p.1 ∈ startActive st i e ∧ on p.1 = true := hmem.mp (List.mem_map_of_mem h)
  refine crossLane_writes hh hk hs hr hp hm hg hres (widthOf_dvd _) (hkeys ▸ nodup_startActive.filter _)
    (fun p h => (lt_of_mem_startActive (hin h).1).trans_le hcap) (fun p h => ⟨v p.1, if_pos (hin h), hval p h⟩) fun j h => if_neg fun hj => h (hmem.mpr hj)

/-- An instruction that gives each active element that meets a condition a value, in order. -/
theorem crossLane_writes_values {d : BitVec 5} {ks : List Nat} {fl : Flags} (on : Nat → Bool) (v : Nat → Nat) (hp : e.op.pipe = some 3)
    (hks : ks = (startActive st i e).filter on)
    (hres : xlnResult (startedCtx st i e g) st = some (d, ⟨ks.map fun j => (j, v j), startWidth st i, fl, none⟩)) :
    CrossLaneWrites st i g (startWidth st i) d (st.strand i).vl
      fun j => if j ∈ startActive st i e ∧ on j = true then some (v j) else none := by
  refine crossLane_writes_each hh hk hs hr hm hg hcap on v hp hres ?_ fun p hmem => ?_
  · rw [List.map_map, ← hks]
    exact List.map_id _
  · obtain ⟨j, -, rfl⟩ := List.mem_map.mp hmem
    rfl

omit hh hk hs hr hm hg hcap in
theorem startActive_filter_true : startActive st i e = (startActive st i e).filter fun _ => true := (List.filter_eq_self.mpr fun _ _ => rfl).symm

section
variable {d a b : BitVec 5} {n : Word}

theorem crossLane_perm (h : e.op = .perm d a b) :
    CrossLaneWrites st i g (startWidth st i) d (st.strand i).vl fun j => if j ∈ startActive st i e ∧ true = true then
      some (if startElem st i g b j < (st.strand i).vvl.toNat then startElem st i g a (startElem st i g b j) else 0) else none := by
  refine crossLane_writes_values hh hk hs hr hm hg hcap (fun _ => true) _ (by rw [h]; rfl) startActive_filter_true (fl := 0) ?_
  simp only [xlnResult, show (startedCtx st i e g).x.op = _ from h]
  rfl

theorem crossLane_slideUp (h : e.op = .slide true d a n) :
    CrossLaneWrites st i g (startWidth st i) d (st.strand i).vl fun j =>
      if j ∈ startActive st i e ∧ decide (n.toNat ≤ j) = true then some (startElem st i g a (j - n.toNat)) else none := by
  refine crossLane_writes_values hh hk hs hr hm hg hcap _ _ (by rw [h]; rfl) rfl (fl := 0) ?_
  simp only [xlnResult, show (startedCtx st i e g).x.op = _ from h]
  rfl

theorem crossLane_slideDown (h : e.op = .slide false d a n) :
    CrossLaneWrites st i g (startWidth st i) d (st.strand i).vl fun j => if j ∈ startActive st i e ∧ true = true then
      some (if j + n.toNat < (st.strand i).vvl.toNat then startElem st i g a (j + n.toNat) else 0) else none := by
  refine crossLane_writes_values hh hk hs hr hm hg hcap (fun _ => true) _ (by rw [h]; rfl) startActive_filter_true (fl := 0) ?_
  simp only [xlnResult, show (startedCtx st i e g).x.op = _ from h]
  rfl

/-- VEXPD gives each active element the source element of its number among them. -/
theorem crossLane_expd (h : e.op = .expd d a) :
    CrossLaneWrites st i g (startWidth st i) d (st.strand i).vl fun j => if j ∈ startActive st i e ∧ true = true then
      some (startElem st i g a ((startActive st i e).filter (· < j)).length) else none := by
  refine crossLane_writes_each hh hk hs hr hm hg hcap (fun _ => true) _ (by rw [h]; rfl) (fl := 0)
    (ws := (startActive st i e).zipIdx.map fun p => (p.1, startElem st i g a p.2)) ?_ ?_ fun p hmem => ?_
  · simp only [xlnResult, show (startedCtx st i e g).x.op = _ from h]
    rfl
  · rw [List.map_map, ← startActive_filter_true]
    exact List.zipIdx_map_fst ..
  · obtain ⟨q, hq, rfl⟩ := List.mem_map.mp hmem
    rw [length_filter_lt sorted_startActive (List.mem_zipIdx_iff_getElem?.mp hq)]

/-- VCOMP gives the lowest elements the active source elements in order, and their number is the length. -/
theorem crossLane_comp (h : e.op = .comp d a) :
    CrossLaneWrites st i g (startWidth st i) d (BitVec.ofNat 13 (startActive st i e).length) fun j =>
      ((startActive st i e)[j]?).map (startElem st i g a) := by
  have hkeys : ((startActive st i e).zipIdx.map fun p => (p.2, startElem st i g a p.1)).map (·.1) =
      List.range (startActive st i e).length := by
    rw [List.map_map, List.range_eq_range']
    exact List.zipIdx_map_snd ..
  refine crossLane_writes hh hk hs hr (by rw [h]; rfl) hm hg (fl := 0) (n := some (startActive st i e).length)
    (ws := (startActive st i e).zipIdx.map fun p => (p.2, startElem st i g a p.1))
    ?_ (widthOf_dvd _) (hkeys ▸ List.nodup_range) (fun p hmem => ?_) (fun p hmem => ?_) fun j hj => ?_
  · simp only [xlnResult, show (startedCtx st i e g).x.op = _ from h]
    rfl
  · have hlt := List.mem_range.mp (hkeys ▸ List.mem_map_of_mem (f := fun p : Nat × Nat => p.1) hmem)
    exact (hlt.trans_le length_startActive_le).trans_le hcap
  · obtain ⟨q, hq, rfl⟩ := List.mem_map.mp hmem
    exact ⟨_, by rw [List.mem_zipIdx_iff_getElem?.mp hq]; rfl, rfl⟩
  · rw [hkeys, List.mem_range] at hj
    rw [List.getElem?_eq_none (Nat.le_of_not_lt hj)]
    rfl

/-- VRED of sums writes element 0 alone. -/
theorem crossLane_red_sum (h : e.op = .red .red 0 d a) :
    CrossLaneWrites st i g (startWidth st i) d (st.strand i).vl fun j => if j = 0 then
      some ((startActive st i e).map (startElem st i g a)).sum else none := by
  refine crossLane_writes hh hk hs hr (by rw [h]; rfl) hm hg (n := none) (fl := (tree (startedCtx st i e g) 0
      ((startActive st i e).map (startElem st i g a))).2)
    (ws := [(0, (tree (startedCtx st i e g) 0 ((startActive st i e).map (startElem st i g a))).1)])
    ?_ (widthOf_dvd _) (List.nodup_singleton 0) (fun p hmem => ?_) (fun p hmem => ?_) fun j hj => if_neg fun h0 => hj ?_
  · simp only [xlnResult, show (startedCtx st i e g).x.op = _ from h]
    rfl
  · obtain rfl := List.mem_singleton.mp hmem
    exact (Nat.zero_lt_of_lt hm.start).trans_le hcap
  · obtain rfl := List.mem_singleton.mp hmem
    exact ⟨_, if_pos rfl, tree_sum (c := startedCtx st i e g) _⟩
  · subst h0
    exact List.mem_singleton_self 0

theorem crossLane_scan_sum (h : e.op = .red .scan 0 d a) :
    CrossLaneWrites st i g (startWidth st i) d (st.strand i).vl fun j => if j ∈ startActive st i e ∧ true = true then
      some (((startActive st i e).filter (· ≤ j)).map (startElem st i g a)).sum else none := by
  let sums (j : Nat) : Nat × Flags :=
    tree (startedCtx st i e g) 0 (((startActive st i e).filter (· ≤ j)).map (startElem st i g a))
  refine crossLane_writes_each hh hk hs hr hm hg hcap (fun _ => true) _ (by rw [h]; rfl)
    (ws := ((startActive st i e).map fun j => (j, sums j)).map fun r => (r.1, r.2.1))
    (fl := ((startActive st i e).map fun j => (j, sums j)).foldl (fun f r => f ||| r.2.2) 0) ?_ ?_ fun p hmem => ?_
  · simp only [xlnResult, show (startedCtx st i e g).x.op = _ from h]
    rfl
  · rw [List.map_map, List.map_map, ← startActive_filter_true]
    exact List.map_id _
  · rw [List.map_map] at hmem
    obtain ⟨j, -, rfl⟩ := List.mem_map.mp hmem
    exact tree_sum (c := startedCtx st i e g) _

end

end

/-- Settles O29: each kind of entry starts by the equation of its start; a cross-lane instruction then writes the results that its sources gave. -/
theorem queueEntriesStartInOrder : Obligations.QueueEntriesStartInOrder := by
  intro st i k e hh hk hr hs t drop
  refine ⟨exec_start_unordered hk hs hh hr, fun ho => ⟨fun n => exec_start_setl hk hs hh hr ho, fun c => exec_start_setcfg hk hs hh hr ho,
    exec_start_fenceSV hk hs hh hr ho, exec_start_fenceVV hk hs hh hr ho, fun p g hp hg hc hres hlen h3 hstart hpipe hcheck => ?starts⟩, ?head, ?cross⟩
  case starts =>
    obtain ⟨s, hs', -, hu⟩ := startElements_starts (p := p) ⟨hg, hc, hres, hlen, hstart, hpipe, hcheck⟩
    refine ⟨s, ?_, (Strand.of_unlinked (·.vstart) (fun _ => rfl) hu).trans rfl, (Strand.of_unlinked (·.queue[k]?) (fun _ => rfl) hu).trans ?_⟩
    · rw [exec_start_elements hk hs hh hr ho hp]
      simp only [startEntry, hs']
      exact congrArg (event st) (if_pos h3)
    · have hlt : k < t.queue.length := (List.getElem?_eq_some_iff.mp hk).1
      exact List.getElem?_set_self hlt
  case head =>
    rintro rfl u n g hi hg
    have hw : (st.tile u).works = true := by rwa [hi] at hr
    refine ⟨fun d pc c xs as he hc => exec_forklAct_acts hi hh hw hk hg he hc, exec_joinlAct_acts hi hh hw hk hg, fun x he hq ho => ?_⟩
    rw [hi] at ho
    refine ⟨_, execVpartEffect_relays hi hq he hh ho hw, relay_queue hi hq ho _ i (hi ▸ mem_slots_core i), ?_⟩
    rw [relay_strand u i _ st (hi ▸ mem_slots_core i)]
    rfl
  case cross =>
    rintro rfl g hp hg hsize hbase hc hres hlen hstart hpipe hcheck vl w act get wrote each
    have hm : MayStart st i 0 e 3 g := ⟨hg, hc, hres, hlen, hstart, hpipe, hcheck⟩
    have hf : Fits g := ⟨hsize, hbase⟩
    exact ⟨fun d s c he hcap => crossLane_perm hh hk hs hr hm hf hcap he, fun d s n he hcap => crossLane_slideUp hh hk hs hr hm hf hcap he,
      fun d s n he hcap => crossLane_slideDown hh hk hs hr hm hf hcap he, fun d s he hcap => crossLane_expd hh hk hs hr hm hf hcap he,
      fun d s he hcap => crossLane_comp hh hk hs hr hm hf hcap he, fun d s he hcap => crossLane_red_sum hh hk hs hr hm hf hcap he,
      fun d s he hcap => crossLane_scan_sum hh hk hs hr hm hf hcap he⟩

end Sys2Proof.Machine
end

section
/-! PROOF. The integer functions of vector elements as functions of bit vectors (R145, R146). -/

namespace Sys2Proof.Machine

open Sys2Proof

/-! ### Codes of integers, and clamped ones -/

theorem intOfCode_toNat {w : Nat} (a : BitVec w) : intOfCode w true a.toNat = a.toInt := by
  rw [signed_intOfCode, BitVec.ofNat_toNat, BitVec.setWidth_eq]

theorem codeOfInt_eq_ofInt (w : Nat) (i : Int) : codeOfInt w i = (BitVec.ofInt w i).toNat := rfl

/-- The integer of a range that is nearest to a value. -/
def nearest (lo hi v : Int) : Int := if v < lo then lo else if hi < v then hi else v

theorem nearest_eq_max_min {lo hi : Int} (h : lo ≤ hi) (v : Int) : nearest lo hi v = max lo (min hi v) := by
  unfold nearest
  omega

theorem nearest_of_mem {lo hi v : Int} (hl : lo ≤ v) (hh : v ≤ hi) : nearest lo hi v = v := by
  unfold nearest
  omega

theorem nearest_of_lt {lo hi v : Int} (h : lo ≤ hi) (hv : hi < v) : nearest lo hi v = hi := by
  unfold nearest
  omega

/-- The nearest value that W signed bits hold. -/
abbrev nearestSigned (w : Nat) (v : Int) : Int := nearest (-2 ^ (w - 1)) (2 ^ (w - 1) - 1) v

theorem leastSigned_le_greatest (w : Nat) : (-2 ^ (w - 1) : Int) ≤ 2 ^ (w - 1) - 1 := intRange_le w true

theorem clampInt_signed (w : Nat) (v : Int) : clampInt w true v = (BitVec.ofInt w (nearestSigned w v)).toNat := by
  rw [nearestSigned, nearest_eq_max_min (leastSigned_le_greatest w)]
  rfl

theorem clampInt_unsigned (w : Nat) (v : Int) : clampInt w false v = (max 0 (min (2 ^ w - 1) v)).toNat := by
  have hp : (0 : Int) < 2 ^ w := Int.pow_pos (by decide)
  show (max 0 (min (2 ^ w - 1) v) % 2 ^ w).toNat = _
  rw [Int.emod_eq_of_lt (by omega) (by omega)]

theorem toNat_ofInt_greatest (w : Nat) : (BitVec.ofInt w (2 ^ (w - 1) - 1)).toNat = 2 ^ (w - 1) - 1 := by
  rw [← BitVec.toInt_intMax, BitVec.ofInt_toInt, BitVec.toNat_intMax]

theorem toNat_ofInt_least {w : Nat} (hw : 0 < w) : (BitVec.ofInt w (-2 ^ (w - 1))).toNat = 2 ^ (w - 1) := by
  rw [← BitVec.toInt_intMin_of_pos hw, BitVec.ofInt_toInt, BitVec.toNat_intMin_of_pos hw]

/-! ### The functions (R145) -/

section
variable {w : Nat} (a b : BitVec w)

theorem intEval_add : VInt.add.eval w a.toNat b.toNat = (a + b).toNat := (BitVec.toNat_add ..).symm

theorem intEval_sub : VInt.sub.eval w a.toNat b.toNat = (a - b).toNat := by
  have := b.isLt
  rw [BitVec.toNat_sub]
  exact congrArg (· % 2 ^ w) (by omega)

theorem intEval_mul : VInt.mul.eval w a.toNat b.toNat = (a * b).toNat := (BitVec.toNat_mul ..).symm

theorem intEval_neg : VInt.neg.eval w a.toNat b.toNat = (-a).toNat := (BitVec.toNat_neg ..).symm

theorem intEval_and : VInt.and.eval w a.toNat b.toNat = (a &&& b).toNat := (BitVec.toNat_and ..).symm

theorem intEval_or : VInt.or.eval w a.toNat b.toNat = (a ||| b).toNat := (BitVec.toNat_or ..).symm

theorem intEval_xor : VInt.xor.eval w a.toNat b.toNat = (a ^^^ b).toNat := (BitVec.toNat_xor ..).symm

theorem intEval_sll : VInt.sll.eval w a.toNat b.toNat = (a <<< (b.toNat % w)).toNat := by
  rw [BitVec.toNat_shiftLeft, Nat.shiftLeft_eq]
  rfl

theorem intEval_srl : VInt.srl.eval w a.toNat b.toNat = (a >>> (b.toNat % w)).toNat := by
  rw [BitVec.toNat_ushiftRight, Nat.shiftRight_eq_div_pow]
  rfl

theorem intEval_sra : VInt.sra.eval w a.toNat b.toNat = (a.sshiftRight (b.toNat % w)).toNat := by
  simp only [VInt.eval, intOfCode_toNat, codeOfInt_eq_ofInt, BitVec.sshiftRight, Int.shiftRight_eq_div_pow]
  norm_cast

theorem intEval_min : VInt.min.eval w a.toNat b.toNat = (if a.slt b then a else b).toNat := by
  simp only [VInt.eval, intOfCode_toNat, BitVec.slt_iff_toInt_lt, apply_ite BitVec.toNat]

theorem intEval_max : VInt.max.eval w a.toNat b.toNat = (if a.slt b then b else a).toNat := by
  simp only [VInt.eval, intOfCode_toNat, BitVec.slt_iff_toInt_lt, apply_ite BitVec.toNat]

theorem intEval_minu : VInt.minu.eval w a.toNat b.toNat = (if a < b then a else b).toNat := by
  by_cases h : a < b
  · rw [if_pos h]
    exact Nat.min_eq_left (Nat.le_of_lt h)
  · rw [if_neg h]
    exact Nat.min_eq_right (Nat.le_of_not_lt h)

theorem intEval_maxu : VInt.maxu.eval w a.toNat b.toNat = (if a < b then b else a).toNat := by
  by_cases h : a < b
  · rw [if_pos h]
    exact Nat.max_eq_right (Nat.le_of_lt h)
  · rw [if_neg h]
    exact Nat.max_eq_left (Nat.le_of_not_lt h)

theorem intEval_mulh : VInt.mulh.eval w a.toNat b.toNat = (BitVec.ofInt w (a.toInt * b.toInt / 2 ^ w)).toNat := by
  simp only [VInt.eval, intOfCode_toNat, codeOfInt_eq_ofInt]

theorem intEval_mulhu : VInt.mulhu.eval w a.toNat b.toNat = a.toNat * b.toNat / 2 ^ w := rfl

theorem intEval_sadd : VInt.sadd.eval w a.toNat b.toNat = (BitVec.ofInt w (nearestSigned w (a.toInt + b.toInt))).toNat := by
  simp only [VInt.eval, intOfCode_toNat, clampInt_signed]

theorem intEval_ssub : VInt.ssub.eval w a.toNat b.toNat = (BitVec.ofInt w (nearestSigned w (a.toInt - b.toInt))).toNat := by
  simp only [VInt.eval, intOfCode_toNat, clampInt_signed]

theorem intEval_saddu : VInt.saddu.eval w a.toNat b.toNat = min (a.toNat + b.toNat) (2 ^ w - 1) := by
  have hp := Nat.two_pow_pos w
  refine (clampInt_unsigned ..).trans ?_
  rw [show (2 : Int) ^ w = (2 ^ w : Nat) by norm_cast]
  omega

theorem intEval_ssubu : VInt.ssubu.eval w a.toNat b.toNat = a.toNat - b.toNat := by
  have ha := a.isLt
  refine (clampInt_unsigned ..).trans ?_
  rw [show (2 : Int) ^ w = (2 ^ w : Nat) by norm_cast]
  omega

theorem intEval_abs : VInt.abs.eval w a.toNat b.toNat = (if a.toInt < 0 then -a else a).toNat := by
  simp only [VInt.eval, intOfCode_toNat, codeOfInt_eq_ofInt]
  congr 1
  split
  case isTrue h => rw [Int.ofNat_natAbs_of_nonpos h.le, BitVec.ofInt_neg, BitVec.ofInt_toInt]
  case isFalse h => rw [Int.natAbs_of_nonneg (by omega), BitVec.ofInt_toInt]

/-! ### Division (R146) -/

theorem toInt_eq_least (hw : 0 < w) : a.toInt = -2 ^ (w - 1) ↔ a = BitVec.intMin w := by
  rw [← BitVec.toInt_inj, BitVec.toInt_intMin_of_pos hw]

theorem toInt_eq_neg_one (hw : 0 < w) : b.toInt = -1 ↔ b = -1#w := by
  rw [← BitVec.toInt_inj, BitVec.neg_one_eq_allOnes, BitVec.toInt_allOnes, if_pos hw]

theorem nearestSigned_toInt : nearestSigned w a.toInt = a.toInt :=
  nearest_of_mem (BitVec.le_toInt a) (Int.le_sub_one_of_lt (BitVec.toInt_lt))

/-- The quotient of two signed numbers is in their range, but for the least number divided by -1. -/
theorem nearestSigned_tdiv (hw : 0 < w) (h : ¬ (a.toInt = -2 ^ (w - 1) ∧ b.toInt = -1)) :
    nearestSigned w (a.toInt.tdiv b.toInt) = a.toInt.tdiv b.toInt := by
  rw [toInt_eq_least a hw, toInt_eq_neg_one b hw, not_and_or] at h
  rw [← BitVec.toInt_sdiv_of_ne_or_ne a b h, nearestSigned_toInt]

theorem toNat_eq_zero_iff : b.toNat = 0 ↔ b = 0 := by
  simp [BitVec.toNat_eq]

theorem intEval_div (hw : 0 < w) : VInt.div.eval w a.toNat b.toNat =
    (if b = 0 then (if a.toInt < 0 then BitVec.ofInt w (-2 ^ (w - 1)) else BitVec.ofInt w (2 ^ (w - 1) - 1))
      else BitVec.ofInt w (nearestSigned w (a.toInt.tdiv b.toInt))).toNat := by
  simp only [VInt.eval, intOfCode_toNat, codeOfInt_eq_ofInt, toNat_eq_zero_iff, Bool.and_eq_true, decide_eq_true_eq, apply_ite BitVec.toNat,
    toNat_ofInt_least hw, toNat_ofInt_greatest]
  refine if_congr Iff.rfl rfl ?_
  split
  case isTrue h =>
    rw [h.1, h.2, Int.tdiv_neg, Int.tdiv_one, neg_neg, nearestSigned, nearest_of_lt (leastSigned_le_greatest w) (Int.sub_one_lt_of_le le_rfl),
      toNat_ofInt_greatest]
  case isFalse h => rw [nearestSigned_tdiv a b hw h]

theorem intEval_divu : VInt.divu.eval w a.toNat b.toNat = (if b = 0 then BitVec.allOnes w else a / b).toNat := by
  simp only [VInt.eval, toNat_eq_zero_iff, apply_ite BitVec.toNat, BitVec.toNat_allOnes, BitVec.toNat_udiv]

theorem intEval_rem : VInt.rem.eval w a.toNat b.toNat = (if b = 0 then a else BitVec.ofInt w (a.toInt.tmod b.toInt)).toNat := by
  simp only [VInt.eval, intOfCode_toNat, codeOfInt_eq_ofInt, toNat_eq_zero_iff, apply_ite BitVec.toNat]

theorem intEval_remu : VInt.remu.eval w a.toNat b.toNat = (if b = 0 then a else a % b).toNat := by
  simp only [VInt.eval, toNat_eq_zero_iff, apply_ite BitVec.toNat, BitVec.toNat_umod]

end

/-- Settles O26: each function is that of bit vectors by its equation above; a signed quotient stays in range but for its one overflow. -/
theorem vectorIntegerFunctionsOnBitVectors : Obligations.VectorIntegerFunctionsOnBitVectors := by
  intro w a b hw
  exact ⟨intEval_add a b, intEval_sub a b, intEval_and a b, intEval_or a b, intEval_xor a b, intEval_sll a b, intEval_srl a b, intEval_sra a b,
    intEval_min a b, intEval_max a b, intEval_minu a b, intEval_maxu a b, intEval_mul a b, intEval_mulh a b, intEval_mulhu a b, intEval_div a b hw,
    intEval_divu a b, intEval_rem a b, intEval_remu a b, intEval_sadd a b, intEval_saddu a b, intEval_ssub a b, intEval_ssubu a b, intEval_abs a b,
    intEval_neg a b⟩

end Sys2Proof.Machine
end

section
/-! PROOF. The forms of vector integer instructions that enter the vector queue (R130, R141, R145, R146). -/

namespace Sys2Proof.Machine

open Sys2Proof

/-! ### The three forms at issue -/

section
variable {st : State} {i : StrandId} (hq : MayQueue st i 4) (op : VInt) (d s : BitVec 5) (mk : Option (BitVec 3))
include hq

/-- A VV form names its second register. -/
theorem issueIntVV_enters (t : BitVec 5) : issueIntVV op d s t mk st = .next (queued st i 4 (.int op d s (.reg t)) mk) :=
  issueV_enters (op := fun _ => .int op d s (.reg t)) hq rfl rfl

/-- A VI form, VABS and VNEG hold a constant. -/
theorem issueIntVI_enters (c : VSrc) : issueIntVI op d s c mk st = .next (queued st i 4 (.int op d s c) mk) :=
  issueV_enters (op := fun _ => .int op d s c) hq rfl rfl

/-- A VX form captures its x register at issue. -/
theorem issueIntVX_enters (x : BitVec 5) (hx : Settled st i [x]) :
    issueIntVX op d s x mk st = .next (queued st i 4 (.int op d s (.const ((st.strand i).xr x))) mk) :=
  issueV_enters (op := fun r => .int op d s (capture x r)) hq hx rfl

end

/-- Settles O22: each of the instructions is one integer function in the VV, the VI or the VX form. -/
theorem vectorIntegerFormsEnterTheQueue : Obligations.VectorIntegerFormsEnterTheQueue := by
  intro st i hq t runs d s u mk
  have vv (op : VInt) := issueIntVV_enters hq op d s mk u
  have const (op : VInt) := issueIntVI_enters hq op d s mk (.const 0)
  have signed (op : VInt) := issueIntVI_enters hq op d s mk (immS u)
  have unsigned (op : VInt) := issueIntVI_enters hq op d s mk (immU u)
  refine ⟨vv .add, vv .sub, vv .and, vv .or, vv .xor, vv .sll, vv .srl, vv .sra, vv .min, vv .max, vv .minu, vv .maxu, vv .mul, vv .mulh, vv .mulhu,
    vv .div, vv .divu, vv .rem, vv .remu, vv .sadd, vv .saddu, vv .ssub, vv .ssubu, const .abs, const .neg, signed .add, signed .sub, signed .and,
    signed .or, signed .xor, unsigned .sll, unsigned .srl, unsigned .sra, signed .min, signed .max, unsigned .minu, unsigned .maxu, signed .sadd,
    unsigned .saddu, signed .ssub, unsigned .ssubu, fun hu => ?captures⟩
  have vx (op : VInt) := issueIntVX_enters hq op d s mk u hu
  exact ⟨vx .add, vx .sub, vx .and, vx .or, vx .xor, vx .sll, vx .srl, vx .sra, vx .min, vx .max, vx .minu, vx .maxu, vx .mul, vx .mulh, vx .mulhu,
    vx .div, vx .divu, vx .rem, vx .remu, vx .sadd, vx .saddu, vx .ssub, vx .ssubu⟩

end Sys2Proof.Machine
end

section
/-! PROOF. BINR, the batches of the Riddle, CHPOOL and CHALLOC (R192 to R195, R198 to R201, R410). -/

namespace Sys2Proof.Machine

open Sys2Proof

/-! ### Channel tags and trace records -/

@[simp] theorem tag_setTag_self (u : TileId) (ch : BitVec 6) (g : Tag) (s : State) : ((setTag u ch g s).tile u).tag ch = g := by
  simp [setTag, Tile.tag]

/-- A trace record leaves the x registers alone. -/
@[simp] theorem traceEvent_xr (k : StrandId) (pipe : Nat) (fin : Bool) (n : Nat) (m : StripName) (pc : Addr) (s : State) (i : StrandId) (r : BitVec 5) :
    (traceEvent k pipe fin n m pc s).xr i r = s.xr i r :=
  Strand.of_unlinked (·.xr r) (fun t => t.xr_unlinked r) (unlinked_traceEvent ..)

/-- An x register after a write of its value: x0 reads zero. -/
@[simp] theorem State.xr_setX_self (s : State) (i : StrandId) (d : BitVec 5) (v : Word) : (s.setX i d v).xr i d = if d = 0 then 0 else v := by
  rw [State.xr, State.setX, State.strand_modStrand_self, Strand.xr_setX_self]

/-! ### BINR (R193) -/

/-- The state after BINR has found both job slots taken: it retires with xD = 0. -/
def jobDeclined (i : StrandId) (d : BitVec 5) (j : RiddleJob) (s : State) : State :=
  traceEvent i 0 true j.seq j.strip j.pc ((traceEvent i 0 false j.seq j.strip j.pc s).setX i d 0)

/-- The state after a job has taken a slot: its tag is busy, and xD = 1. -/
def jobTaken (u : TileId) (k : Nat) (i : StrandId) (d : BitVec 5) (j : RiddleJob) (s : State) : State :=
  let s := traceEvent i 0 false j.seq j.strip j.pc s
  let s := setTag u j.ch { (s.tile u).tag j.ch with busy := true } s
  traceEvent i 5 false j.seq j.strip j.pc ((s.modTile u fun v => { v with jobs := amSet k j v.jobs }).setX i d 1)

section
variable (u : TileId) (k : Nat) (i : StrandId) (d : BitVec 5) (j : RiddleJob) (s : State)

@[simp] theorem jobDeclined_xr : (jobDeclined i d j s).xr i d = 0 := by simp [jobDeclined]

@[simp] theorem jobDeclined_tile : (jobDeclined i d j s).tile u = s.tile u := by simp [jobDeclined]

@[simp] theorem jobTaken_xr : (jobTaken u k i d j s).xr i d = if d = 0 then 0 else 1 := by simp [jobTaken]

@[simp] theorem jobTaken_jobs : amGet k ((jobTaken u k i d j s).tile u).jobs = some j := by simp [jobTaken]

@[simp] theorem jobTaken_busy : (((jobTaken u k i d j s).tile u).tag j.ch).busy = true := by
  simp only [jobTaken, traceEvent_tile, State.tile_setX, State.tile_modTile_self]
  exact congrArg Tag.busy (tag_setTag_self ..)

end

section
variable {st s : State} {u : TileId} {b : BitVec 3} {d : BitVec 5} {a : BitVec 4} {p : Phys} {r : Nat}
  (hi : MayIssue st ⟨.tile u, b⟩) (hd : Settled st ⟨.tile u, b⟩ [d]) (hacq : (st.strand ⟨.tile u, b⟩).acquiring = false)
  (hal : ((st.strand ⟨.tile u, b⟩).ar a).toNat % 128 = 0)
  (hrec : recordAt ⟨.tile u, b⟩ (st.strand ⟨.tile u, b⟩) ((st.strand ⟨.tile u, b⟩).ar a) 128 true (advance ⟨.tile u, b⟩ 4 st) = .ok (p, s))
  (hbits : recordBits (st.strand ⟨.tile u, b⟩) p ((st.strand ⟨.tile u, b⟩).ar a) 128 s = .ok r)
include hi hd hacq hal hrec hbits

/-- BINR of an invalid record traps. -/
theorem execBinr_invalid (hinv : jobInvalid r = true) :
    execBinr d a st =
      .next (takeTrap ⟨.tile u, b⟩ ⟨cRiddleInvalid, 0, false, (st.strand ⟨.tile u, b⟩).pc, (st.strand ⟨.tile u, b⟩).pc, 0, 0⟩ st) :=
  issueEngine_preciseStop hi (f := ⟨cRiddleInvalid, 0, 0⟩) (by simp [onTile, hd, hacq, hal, hrec, hbits, hinv]) rfl

variable (hinv : jobInvalid r = false)
  (hidle : ((s.tile u).tag (jobOf (st.strand ⟨.tile u, b⟩) b ((st.strand ⟨.tile u, b⟩).ar a) r).ch).busy = false)
include hinv hidle

/-- BINR with both slots taken declines the job. -/
theorem execBinr_full (hfree : freeSlotOf 2 (s.tile u).jobs = none) :
    execBinr d a st = .next (jobDeclined ⟨.tile u, b⟩ d (jobOf (st.strand ⟨.tile u, b⟩) b ((st.strand ⟨.tile u, b⟩).ar a) r) s) :=
  issueEngine_ok hi.1 hi.2 (by simp [onTile, hd, hacq, hal, hrec, hbits, hinv, hidle, hfree, jobDeclined])

/-- BINR with a free slot takes the lowest. -/
theorem execBinr_takes {k : Nat} (hfree : freeSlotOf 2 (s.tile u).jobs = some k) :
    execBinr d a st = .next (jobTaken u k ⟨.tile u, b⟩ d (jobOf (st.strand ⟨.tile u, b⟩) b ((st.strand ⟨.tile u, b⟩).ar a) r) s) :=
  issueEngine_ok hi.1 hi.2 (by simp [onTile, hd, hacq, hal, hrec, hbits, hinv, hidle, hfree, jobTaken])

end

/-! ### Batches (R194, R195) -/

/-- The rows of a job's next batch: 256, or those that are left. -/
def RiddleJob.rows (j : RiddleJob) : List Nat :=
  (range (256 * j.batch) (if j.nrows ≤ 256 * (j.batch + 1) then j.nrows else 256 * (j.batch + 1))).map (j.row0 + ·)

/-- A finished job has left its slot. -/
@[simp] theorem finishJob_jobs (u : TileId) (k : Nat) (j : RiddleJob) (s : State) : amGet k ((finishJob u k j s).tile u).jobs = none := by
  simp [finishJob, amGet_amDel]

/-- The tag of a finished job is idle. -/
@[simp] theorem finishJob_busy (u : TileId) (k : Nat) (j : RiddleJob) (s : State) : (((finishJob u k j s).tile u).tag j.ch).busy = false := by
  simp only [finishJob, traceEvent_tile, State.tile_modTile_self]
  exact congrArg Tag.busy (tag_setTag_self ..)

section
variable {st s : State} {u : TileId} {k : Nat} {j : RiddleJob} {counts : List Nat} (hw : (st.tile u).works = true)
  (hj : amGet k (st.tile u).jobs = some j) (hgo : j.stopped = false)
  (hbin : binRows (engineOf u j.issuer j.level none st) j j.rows j.counts st = (counts, s, none))
include hw hj hgo hbin

/-- A batch that is not the last moves its job on to the next. -/
theorem execRiddleBatch_more (h : ¬ j.nrows ≤ 256 * (j.batch + 1)) :
    execRiddleBatch u k st = .next (s.modTile u fun v => { v with jobs := amSet k { j with batch := j.batch + 1, counts := counts } v.jobs }) := by
  rw [RiddleJob.rows, if_neg h] at hbin
  simp [execRiddleBatch, hw, hj, hgo, Nat.min_eq_right (Nat.le_of_not_le h), hbin, Nat.not_le.mp h]

/-- The last batch writes the counts and finishes its job. -/
theorem execRiddleBatch_last {f : State} (h : j.nrows ≤ 256 * (j.batch + 1))
    (hcnt : writeCounts (engineOf u j.issuer j.level none st) j counts s = .ok f) : execRiddleBatch u k st = .next (finishJob u k j f) := by
  rw [RiddleJob.rows, if_pos h] at hbin
  simp [execRiddleBatch, hw, hj, hgo, Nat.min_eq_left h, hbin, Nat.not_lt.mpr h, hcnt]

end

/-! ### Pool descriptors (R198) -/

theorem field_lt (v lo n : Nat) : field v lo n < 2 ^ n := Nat.mod_lt _ (by positivity)

section
variable (r : Nat) {next exh : Nat} (allocs : Nat) (hn : next < 2 ^ 80) (he : exh < 2)

include hn he

/-- A descriptor keeps what the Ladle does not replace, and holds what it does. -/
theorem poolWith_fields :
    (field (poolWith r next exh allocs) 0 128 = field r 0 128 ∧ field (poolWith r next exh allocs) 256 160 = field r 256 160) ∧
    field (poolWith r next exh allocs) 128 80 = next ∧ field (poolWith r next exh allocs) 416 1 = exh ∧
    field (poolWith r next exh allocs) 448 64 = allocs % 2 ^ 64 := by
  have hbase := field_lt r 0 128
  have hlimit := field_lt r 256 160
  unfold poolWith
  generalize field r 0 128 = base at *
  generalize field r 256 160 = limit at *
  simp only [field]
  omega

end

/-! ### CHPOOL and CHALLOC (R200, R201) -/

/-- A record that is found and taken is found at a place, and taken there. -/
theorem recordAt_parts {i : StrandId} {t : Strand} {ea : Addr} {n : Nat} {write : Bool} {s z : State} {p : Phys}
    (h : recordAt i t ea n write s = .ok (p, z)) : ∃ y, recordPlace i t ea write s = .ok (p, y) ∧ recordTake i t ea p n write y = .ok z := by
  unfold recordAt at h
  cases hp : recordPlace i t ea write s with
  | error e => simp [hp] at h
  | ok v =>
    obtain ⟨q, y⟩ := v
    cases ht : recordTake i t ea q n write y with
    | error e => simp [hp, ht, Except.map] at h
    | ok w =>
      simp only [hp, ht, Except.map, Except.ok.injEq, Prod.mk.injEq] at h
      obtain ⟨rfl, rfl⟩ := h
      exact ⟨y, rfl, ht⟩

/-- Whether a pool has room for one more chunk. -/
abbrev PoolFits (r : Nat) : Prop := field r 128 80 + chunkSize r ≤ field r 256 80

section
variable {r : Nat}

theorem takeChunk_of_fits (h : PoolFits r) :
    takeChunk r = (poolWith r (field r 128 80 + chunkSize r) (field r 416 1) (field r 448 64 + 1), field r 128 80) := if_pos h

theorem takeChunk_of_full (h : ¬ PoolFits r) : takeChunk r = (poolWith r (field r 128 80) 1 (field r 448 64), 0) := if_neg h

/-- The chunk that a pool hands out. -/
theorem takeChunk_chunk : BitVec.ofNat 80 (takeChunk r).2 = if PoolFits r then BitVec.ofNat 80 (field r 128 80) else 0 := by
  by_cases h : PoolFits r
  · rw [takeChunk_of_fits h, if_pos h]
  · rw [takeChunk_of_full h, if_neg h]; rfl

/-- A pool hands out no chunk where it has no room, or where its next chunk is at 0. -/
theorem takeChunk_eq_zero_iff : (takeChunk r).2 = 0 ↔ ¬ PoolFits r ∨ field r 128 80 = 0 := by
  by_cases h : PoolFits r
  · simp [takeChunk_of_fits h, h]
  · simp [takeChunk_of_full h, h]

/-- A descriptor after CHALLOC: NEXT and ALLOCS have moved on past the chunk, or EXH is set. -/
theorem takeChunk_fields (r : Nat) :
    (field (takeChunk r).1 0 128 = field r 0 128 ∧ field (takeChunk r).1 256 160 = field r 256 160) ∧
    (PoolFits r → field (takeChunk r).1 128 80 = field r 128 80 + chunkSize r ∧ field (takeChunk r).1 416 1 = field r 416 1 ∧
      field (takeChunk r).1 448 64 = (field r 448 64 + 1) % 2 ^ 64) ∧
    (¬ PoolFits r → field (takeChunk r).1 128 80 = field r 128 80 ∧ field (takeChunk r).1 416 1 = 1 ∧
      field (takeChunk r).1 448 64 = field r 448 64) := by
  by_cases h : PoolFits r
  · obtain ⟨hkept, htaken⟩ := poolWith_fields r (field r 448 64 + 1) (h.trans_lt (field_lt ..)) (field_lt r 416 1)
    rw [takeChunk_of_fits h]
    exact ⟨hkept, fun _ => htaken, fun hf => absurd h hf⟩
  · obtain ⟨hkept, hnext, hexh, hallocs⟩ := poolWith_fields r (field r 448 64) (field_lt r 128 80) Nat.one_lt_two
    rw [takeChunk_of_full h]
    exact ⟨hkept, fun hf => absurd hf h, fun _ => ⟨hnext, hexh, hallocs.trans (Nat.mod_eq_of_lt (field_lt ..))⟩⟩

end

/-- The state after CHALLOC has written the descriptor back and handed out its chunk, the header not yet linked. -/
def chunkHanded (i : StrandId) (c : BitVec 4) (p : Phys) (r : Nat) (s : State) : State :=
  (ladleWrite p (leBytes 64 (takeChunk r).1) s).modStrand i (·.setA c (BitVec.ofNat 80 (takeChunk r).2))

section
variable {st s : State} {i : StrandId} {a : BitVec 4} {p : Phys} {r : Nat}
  (hi : MayIssue st i) (hcore : onControl i = false) (hacq : (st.strand i).acquiring = false) (hrel : (st.strand i).releasing = false)
  (hal : ((st.strand i).ar a).toNat % 64 = 0) (hbits : recordBits (st.strand i) p ((st.strand i).ar a) 64 s = .ok r) (hvalid : poolInvalid r = false)
include hi hcore hacq hrel hal hbits hvalid

section
variable {y z : State} (hplace : recordPlace i (st.strand i) ((st.strand i).ar a) true (advance i 4 st) = .ok (p, y))
  (htake : recordTake i (st.strand i) ((st.strand i).ar a) p 64 true z = .ok s)
include hplace htake

/-- An instruction of the Ladle whose descriptor is valid and free to take does its work on it. -/
theorem issueLadle_ok {xs : List (BitVec 5)} {link : StrandId → Strand → State → Except Stop (Option Phys × State)}
    {body : StrandId → Strand → Phys → Option Phys → Nat → State → Except Stop State} {q : Option Phys} {w : State} (hx : Settled st i xs)
    (hlink : link i (st.strand i) y = .ok (q, z)) (hbody : body i (st.strand i) p q r s = .ok w) : issueLadle xs a link body st = .next w :=
  issue_ok hi.1 hi.2 (by simp [hcore, hx, hacq, hrel, hal, hplace, hlink, htake, hbits, hvalid, hbody])

/-- CHALLOC without a header, or with no chunk to link, hands out what it has. -/
theorem execChalloc_hands {c l : BitVec 4} {q : Option Phys} (hlink : linkPlace l i (st.strand i) y = .ok (q, z))
    (hnone : q = none ∨ (takeChunk r).2 = 0) : execChalloc c a l st = .next (chunkHanded i c p r s) := by
  refine issueLadle_ok hi hcore hacq hrel hal hbits hvalid hplace htake rfl hlink ?_
  cases q with
  | none => rfl
  | some q => exact if_pos (hnone.resolve_left (Option.some_ne_none q))

/-- CHALLOC with a header links the chunk that it hands out. -/
theorem execChalloc_links {c l : BitVec 4} {q : Phys} {x : State} (hlink : linkPlace l i (st.strand i) y = .ok (some q, z))
    (hchunk : (takeChunk r).2 ≠ 0) (howe : (st.strand i).owing (st.strand i).issued = false)
    (hhead : recordTake i (st.strand i) ((st.strand i).ar l) q 12 true s = .ok x) :
    execChalloc c a l st = .next (ladleWrite q (leBytes 12 (takeChunk r).2) (chunkHanded i c p r x)) :=
  issueLadle_ok hi hcore hacq hrel hal hbits hvalid hplace htake rfl hlink (by simp [hchunk, howe, hhead, chunkHanded])

end

variable (hrec : recordAt i (st.strand i) ((st.strand i).ar a) 64 true (advance i 4 st) = .ok (p, s))
include hrec

/-- CHPOOL rewinds the pool and returns its chunks. -/
theorem execChpool_rewinds {d : BitVec 5} (hd : Settled st i [d]) :
    execChpool d a st = .next ((ladleWrite p (leBytes 64 (poolWith r (field r 0 80) 0 0)) s).setX i d
      (BitVec.ofNat 64 ((field r 256 80 - field r 0 80) / chunkSize r))) := by
  obtain ⟨y, hplace, htake⟩ := recordAt_parts hrec
  exact issueLadle_ok hi hcore hacq hrel hal hbits hvalid hplace htake hd rfl rfl

/-- CHALLOC hands out a chunk without a link where aT is 0. -/
theorem execChalloc_unlinked {c l : BitVec 4} (hl : (st.strand i).ar l = 0) : execChalloc c a l st = .next (chunkHanded i c p r s) := by
  obtain ⟨y, hplace, htake⟩ := recordAt_parts hrec
  exact execChalloc_hands hi hcore hacq hrel hal hbits hvalid hplace htake (if_pos hl) (.inl rfl)

end

/-- CHALLOC finds the header at an aligned aT in memory of the normal class. -/
theorem linkPlace_some {l : BitVec 4} {i : StrandId} {t : Strand} {s z : State} {q : Phys} (h : t.ar l ≠ 0) (hal : (t.ar l).toNat % 16 = 0)
    (hloc : locate i t (t.ar l) .write s = .ok (q, z)) (hdev : q.device = false) : linkPlace l i t s = .ok (some q, z) :=
  (if_neg h).trans (by simp [hal, hloc, hdev])

/-- Settles O36: BINR by what its record and the job slots are, a batch by whether it is the last, CHPOOL and CHALLOC by the fields of the descriptor
that they write back. -/
theorem riddleAndLadleComplete : Obligations.RiddleAndLadleComplete := by
  intro st u b d c a l i t s0
  refine ⟨?binr, ?batch, ?ladle⟩
  case binr =>
    intro p s r hi hd hacq hal hrec hbits
    refine ⟨execBinr_invalid hi hd hacq hal hrec hbits, fun hinv hidle => ?_⟩
    cases hfree : freeSlotOf 2 (s.tile u).jobs with
    | none =>
      have htile := jobDeclined_tile u i d (jobOf t b (t.ar a) r) s
      exact ⟨_, execBinr_full hi hd hacq hal hrec hbits hinv hidle hfree,
        fun _ => ⟨jobDeclined_xr .., congrArg Tile.jobs htile, congrArg Tile.tags htile⟩, fun k hk => absurd hk.symm (Option.some_ne_none k)⟩
    | some k =>
      refine ⟨_, execBinr_takes hi hd hacq hal hrec hbits hinv hidle hfree, fun h => absurd h (Option.some_ne_none k), fun m hm => ?_⟩
      obtain rfl := Option.some.inj hm
      exact ⟨jobTaken_xr .., jobTaken_jobs .., jobTaken_busy ..⟩
  case batch =>
    intro k j counts s hw hj hgo g last rows hbin
    exact ⟨execRiddleBatch_more hw hj hgo hbin,
      fun f hlast hcnt => ⟨_, execRiddleBatch_last hw hj hgo hbin hlast hcnt, finishJob_jobs .., finishJob_busy ..⟩⟩
  case ladle =>
    intro fits kept taken handed p s r hi hd hacq hrel hal hvalid _
    have hhanded (x : State) : handed p r (takeChunk r).1 x = chunkHanded i c p r x := by
      rw [chunkHanded, takeChunk_chunk]
      rfl
    refine ⟨fun hrec hbits => ?_, fun q y z hl hlal hplace hloc hdev htake hbits => ?_⟩
    · obtain ⟨hkept, hnext, hexh, hallocs⟩ := poolWith_fields r 0 (field_lt r 0 80) Nat.zero_lt_two
      refine ⟨⟨_, hkept, hnext, hexh, hallocs, execChpool_rewinds hi rfl hacq hrel hal hbits hvalid hrec hd⟩,
        fun hl => ⟨_, takeChunk_fields r, ?_⟩⟩
      rw [hhanded]
      exact execChalloc_unlinked hi rfl hacq hrel hal hbits hvalid hrec hl
    · have hlink := linkPlace_some (i := i) hl hlal hloc hdev
      refine ⟨_, takeChunk_fields r, fun hnone => ?_, fun x hfits hnz howe hhead => ?_⟩
      · rw [hhanded]
        exact execChalloc_hands hi rfl hacq hrel hal hbits hvalid hplace htake hlink (.inr (takeChunk_eq_zero_iff.mpr hnone))
      · have hchunk : (takeChunk r).2 = field r 128 80 := by rw [takeChunk_of_fits hfits]
        rw [hhanded, ← hchunk]
        exact execChalloc_links hi rfl hacq hrel hal hbits hvalid hplace htake hlink (by rwa [hchunk]) howe hhead

end Sys2Proof.Machine
end

section
/-! PROOF. The scalar atomics (R220, R234, R237, R273). -/

namespace Sys2Proof.Machine

open Sys2Proof

/-- An atomic whose place reads returns the old value, and leaves the place updated or, where a compare-and-swap fails, its line un-shared. -/
theorem performAccess_atomic {i : StrandId} {op : AmoOp} {size old seq : Nat} {x c : Word} {d : BitVec 5} {p : Phys} {acq rel : BitVec 3} {pc ea : Addr}
    {s : State} (hr : readPhys p size s = .ok old) (hv : old < 2 ^ (8 * size)) :
    performAccess i ⟨.atomic op size x c, d, p, seq, acq, rel, pc, ea⟩ s =
      .ok (widened size true old, atHome p.loc (if op = .cas && old != c.toNat % 2 ^ (8 * size) then unshareAt p.loc s
        else writePhys none p (leBytes size (amoNew op size old (x.toNat % 2 ^ (8 * size)))) s)) := by
  simp only [performAccess, atomicUpdate, hr, ← widened_eq true hv, if_true]

section
variable {st s : State} {i : StrandId} {d x : BitVec 5} {a : BitVec 4} {q : Qual} {len size old : Nat} {p : Phys} (hi : MayIssue st i)
  (hdx : Settled st i [d, x]) (hacq : (st.strand i).acquiring = false) (hrel : (st.strand i).releasing = false)
include hi hdx hacq hrel

/-- An atomic that nothing holds back is performed at its issue. -/
theorem atomic_performs {op : AmoOp} {v : Word} {r : State} (ha : ((st.strand i).ar a).toNat % size = 0)
    (hf : Finds st i len ((st.strand i).ar a) .write p s) (hp : p.device = false)
    (hu : Unhindered s (st.strand i) ⟨.atomic op size ((st.strand i).xr x) ((st.strand i).xr d), d, p, (st.strand i).issued, Qual.acq q, Qual.rel q,
      (st.strand i).pc, (st.strand i).ar a⟩)
    (hperf : performAccess i ⟨.atomic op size ((st.strand i).xr x) ((st.strand i).xr d), d, p, (st.strand i).issued, Qual.acq q, Qual.rel q,
      (st.strand i).pc, (st.strand i).ar a⟩ s = .ok (v, r)) :
    atomic len op size d a x q st = .next (r.setX i d v) := by
  rw [atomic_eq]
  refine scalarAccess_completes hi (by simp [hdx, hacq, hrel]) ha hf ?_
  rw [atomicAt, hp]
  exact startAccess_performs hu hperf

/-- An atomic other than AMCAS writes its new value. -/
theorem atomic_writes {op : AmoOp} {new : Nat → Nat → Nat → Nat} (hop : op ≠ .cas) (hnew : ∀ size old y, amoNew op size old y = new size old y)
    (ha : ((st.strand i).ar a).toNat % size = 0) (hf : Finds st i len ((st.strand i).ar a) .write p s) (hp : p.device = false)
    (hu : Unhindered s (st.strand i) ⟨.atomic op size ((st.strand i).xr x) ((st.strand i).xr d), d, p, (st.strand i).issued, Qual.acq q, Qual.rel q,
      (st.strand i).pc, (st.strand i).ar a⟩)
    (hr : readPhys p size s = .ok old) (hv : old < 2 ^ (8 * size)) :
    atomic len op size d a x q st =
      .next ((atHome p.loc (writePhys none p (leBytes size (new size old (((st.strand i).xr x).toNat % 2 ^ (8 * size)))) s)).setX i d
        (widened size true old)) := by
  rw [atomic_performs hi hdx hacq hrel ha hf hp hu (performAccess_atomic hr hv), ← hnew]
  simp [hop]

/-- AMCAS writes where the old value is the one that it compares, and leaves every byte alone where it is not. -/
theorem atomic_cas (ha : ((st.strand i).ar a).toNat % size = 0) (hf : Finds st i len ((st.strand i).ar a) .write p s) (hp : p.device = false)
    (hu : Unhindered s (st.strand i) ⟨.atomic .cas size ((st.strand i).xr x) ((st.strand i).xr d), d, p, (st.strand i).issued, Qual.acq q, Qual.rel q,
      (st.strand i).pc, (st.strand i).ar a⟩)
    (hr : readPhys p size s = .ok old) (hv : old < 2 ^ (8 * size)) :
    atomic len .cas size d a x q st =
      .next ((atHome p.loc (if old = ((st.strand i).xr d).toNat % 2 ^ (8 * size) then
        writePhys none p (leBytes size (((st.strand i).xr x).toNat % 2 ^ (8 * size))) s else unshareAt p.loc s)).setX i d (widened size true old)) ∧
    (unshareAt p.loc s).mem = s.mem ∧ ∀ u, ((unshareAt p.loc s).tile u).tmem = (s.tile u).tmem := by
  refine ⟨?_, unshareAt_mem .., (unshareAt_spares ..).tmem⟩
  rw [atomic_performs hi hdx hacq hrel ha hf hp hu (performAccess_atomic hr hv)]
  by_cases h : old = ((st.strand i).xr d).toNat % 2 ^ (8 * size)
  · rw [if_pos h, bne_eq_false_iff_eq.mpr h]
    rfl
  · rw [if_neg h, bne_iff_ne.mpr h]
    rfl

end

/-- The signed comparison of atomics (R237). -/
theorem amoLess_iff (size old y : Nat) :
    intOfCode (8 * size) true (old % 2 ^ (8 * size)) < intOfCode (8 * size) true (y % 2 ^ (8 * size)) ↔
      (BitVec.ofNat (8 * size) old).toInt < (BitVec.ofNat (8 * size) y).toInt := by
  have hcut (v : Nat) : BitVec.ofNat (8 * size) (v % 2 ^ (8 * size)) = BitVec.ofNat (8 * size) v := BitVec.eq_of_toNat_eq (by simp)
  rw [signed_intOfCode, signed_intOfCode, hcut, hcut]

theorem amoNew_add (size old y : Nat) : amoNew .add size old y = (old + y) % 2 ^ (8 * size) := rfl

theorem amoNew_and (size old y : Nat) : amoNew .and size old y = old &&& y := rfl

theorem amoNew_or (size old y : Nat) : amoNew .or size old y = old ||| y := rfl

theorem amoNew_xor (size old y : Nat) : amoNew .xor size old y = old ^^^ y := rfl

theorem amoNew_swap (size old y : Nat) : amoNew .swap size old y = y := rfl

theorem amoNew_min (size old y : Nat) :
    amoNew .min size old y = if (BitVec.ofNat (8 * size) old).toInt < (BitVec.ofNat (8 * size) y).toInt then old else y := by
  simp only [amoNew, amoLess_iff, decide_eq_true_eq]

theorem amoNew_max (size old y : Nat) :
    amoNew .max size old y = if (BitVec.ofNat (8 * size) old).toInt < (BitVec.ofNat (8 * size) y).toInt then y else old := by
  simp only [amoNew, amoLess_iff, decide_eq_true_eq]

theorem amoNew_minu (size old y : Nat) : amoNew .minu size old y = if old < y then old else y := by
  simp only [amoNew]
  split <;> omega

theorem amoNew_maxu (size old y : Nat) : amoNew .maxu size old y = if old < y then y else old := by
  simp only [amoNew]
  split <;> omega

/-- Settles O11: each atomic is one operation at one width, with the empty qualifier in its short form. -/
theorem scalarAtomicsComplete : Obligations.ScalarAtomicsComplete := by
  refine ⟨fun st i d x a q hi hdx hacq hrel => ?plain, fun st i d x a q hi hdx hacq hrel => ?cas⟩
  case plain =>
    intro t int form
    have hamo (len : Nat) (q : Qual) (size : Nat) {op : AmoOp} {new : Nat → Nat → Nat → Nat}
        (hnew : ∀ size old y, amoNew op size old y = new size old y) (hop : op ≠ .cas := by decide) (p : Phys) (s : State) (old : Nat) ha :=
      atomic_writes (len := len) (size := size) (old := old) (q := q) (p := p) (s := s) (a := a) hi hdx hacq hrel hop hnew ha
    have short := @hamo 4 plainQual
    have long := @hamo 8 q
    exact ⟨(short 8 amoNew_add :), (long 8 amoNew_add :), (short 4 amoNew_add :), (long 4 amoNew_add :),
      (short 8 amoNew_and :), (long 8 amoNew_and :), (short 4 amoNew_and :), (long 4 amoNew_and :),
      (short 8 amoNew_or :), (long 8 amoNew_or :), (short 4 amoNew_or :), (long 4 amoNew_or :),
      (short 8 amoNew_xor :), (long 8 amoNew_xor :), (short 4 amoNew_xor :), (long 4 amoNew_xor :),
      (short 8 amoNew_min :), (long 8 amoNew_min :), (short 4 amoNew_min :), (long 4 amoNew_min :),
      (short 8 amoNew_max :), (long 8 amoNew_max :), (short 4 amoNew_max :), (long 4 amoNew_max :),
      (short 8 amoNew_minu :), (long 8 amoNew_minu :), (short 4 amoNew_minu :), (long 4 amoNew_minu :),
      (short 8 amoNew_maxu :), (long 8 amoNew_maxu :), (short 4 amoNew_maxu :), (long 4 amoNew_maxu :),
      (short 8 amoNew_swap :), (long 8 amoNew_swap :), (short 4 amoNew_swap :), (long 4 amoNew_swap :)⟩
  case cas =>
    intro t form
    have hcas (len size : Nat) (q : Qual) (p : Phys) (s : State) (old : Nat) ha :=
      atomic_cas (len := len) (size := size) (old := old) (q := q) (p := p) (s := s) (a := a) hi hdx hacq hrel ha
    exact ⟨hcas 4 8 plainQual, hcas 4 4 plainQual, hcas 8 8 q, hcas 8 4 q⟩

end Sys2Proof.Machine
end

section
/-! PROOF. The stream data instructions at issue (R203 to R205, R209 to R211, R214, R230). -/

namespace Sys2Proof.Machine

open Sys2Proof

@[simp] theorem advance_streams (i : StrandId) (len : Nat) (s : State) (u : TileId) : ((advance i len s).tile u).streams = (s.tile u).streams :=
  advance_tile_keeps Tile.streams (fun _ _ => rfl) (fun _ _ => rfl) ..

@[simp] theorem advance_tag (i : StrandId) (len : Nat) (s : State) (u : TileId) (ch : BitVec 6) :
    ((advance i len s).tile u).tag ch = (s.tile u).tag ch :=
  advance_tile_keeps (Tile.tag · ch) (fun _ _ => rfl) (fun _ _ => rfl) ..

theorem settled_pair {st : State} {i : StrandId} {x y : BitVec 5} (hy : Settled st i [y]) (hx : Settled st i [x]) : Settled st i [y, x] := by
  simp_all [Settled, Strand.anyX]

theorem actingA_eq {st : State} {i : StrandId} (hi : MayIssue st i) (r : BitVec 4) : actingA st r = (st.strand i).ar r := by
  rw [actingA, hi.1]

/-- The trap of a faulty shape record: its address and the code of the fault (R209). -/
def shapeTrap (i : StrandId) (ea : Addr) (c : Nat) (st : State) : State :=
  takeTrap i ⟨cShapeInvalid, 0, false, (st.strand i).pc, (st.strand i).pc, ea, BitVec.ofNat 64 c⟩ st

/-- The trap of an engine instruction that names no address. -/
def engineTrap (i : StrandId) (cause : BitVec 8) (st : State) : State :=
  takeTrap i ⟨cause, 0, false, (st.strand i).pc, (st.strand i).pc, 0, 0⟩ st

/-- Whether two sides of a copy have tags that it takes: alike, or neither raw (R209 code 11). -/
def Shape.copies (h g : Shape) : Prop := h.fmt = g.fmt ∨ (h.fmt ≠ 0 ∧ h.fmt ≠ 15 ∧ g.fmt ≠ 0 ∧ g.fmt ≠ 15)

theorem Shape.copies_iff (h g : Shape) :
    h.copies g ↔ (h.fmt != g.fmt && ((h.fmt = 0 || h.fmt = 15) || (g.fmt = 0 || g.fmt = 15))) = false := by
  simp only [Shape.copies, Bool.and_eq_false_imp, bne_iff_ne, Bool.or_eq_false_iff, decide_eq_false_iff_not]
  tauto

/-- The stream of a copy. -/
def copyStream (t : Strand) (slot : BitVec 3) (h g : Shape) (x : BitVec 5) (ch : BitVec 6) (rm : BitVec 2) (tr : BitVec 1) (rnd : BitVec 3)
    (sat : BitVec 1) : Stream :=
  newStream t slot (.copy g (tr = 1) (copyMode rnd t.vcfg) (sat = 1) (fzOf t.fcsr)) h (t.xr x).toNat t.vl.toNat ch rm

/-! ### The shared frame -/

section
variable {st : State} {i : StrandId} {u : TileId} {k len : Nat} (hu : i.core = .tile u) (hi : MayIssue st i)
  (hk : freeSlotOf 16 (st.tile u).streams = some k) (hvl : (st.strand i).pendVl = false) (hacq : (st.strand i).acquiring = false)
include hu hi hk hvl hacq

section
variable {xs : List (BitVec 5)} (hx : Settled st i xs) {body : TileId → Nat → StrandId → Strand → State → Except Stop State}
include hx

/-- With no position to move, a stream instruction only retires. -/
theorem issueData_retires (h0 : (st.strand i).vl = 0) : issueData len xs body st = .next (traceBoth i (st.strand i) (advance i len st)) :=
  issueEngine_ok hi.1 hi.2 (by simp [onTile, hu, hx, hk, hvl, hacq, h0])

variable (hn : (st.strand i).vl ≠ 0)
include hn

theorem issueData_ok {r : State} (h : body u k i (st.strand i) (advance i len st) = .ok r) : issueData len xs body st = .next r :=
  issueEngine_ok hi.1 hi.2 (by simp only [onTile, hu, hx, advance_streams, hk, hvl, hacq, if_neg hn, h]; rfl)

theorem issueData_stops {f : Flt} (hw : walkCause f.cause = false)
    (h : body u k i (st.strand i) (advance i len st) = .error (preciseStop (st.strand i) f)) :
    issueData len xs body st = .next (takeTrap i ⟨f.cause, 0, false, (st.strand i).pc, (st.strand i).pc, f.addr, f.detail⟩ st) :=
  issueEngine_preciseStop hi (by simp only [onTile, hu, hx, advance_streams, hk, hvl, hacq, if_neg hn, h]; rfl) hw

theorem issueData_shapeStop {ea : Addr} {c : Nat} (h : body u k i (st.strand i) (advance i len st) = shapeStop (st.strand i) ea c) :
    issueData len xs body st = .next (shapeTrap i ea c st) :=
  issueData_stops hu hi hk hvl hacq hx hn (f := ⟨cShapeInvalid, ea, BitVec.ofNat 64 c⟩) rfl h

theorem issueData_engineStop {c : BitVec 8} (hw : walkCause c = false)
    (h : body u k i (st.strand i) (advance i len st) = .error (preciseStop (st.strand i) ⟨c, 0, 0⟩)) :
    issueData len xs body st = .next (engineTrap i c st) :=
  issueData_stops hu hi hk hvl hacq hx hn (f := ⟨c, 0, 0⟩) hw h

end

variable {x : BitVec 5} {d s e : BitVec 4} {ch : BitVec 6} {rm : BitVec 2}

/-! ### With no position to move (R203) -/

section
variable (h0 : (st.strand i).vl = 0)
include h0

theorem oneRecord_retires (hx : Settled st i [x]) (write : Bool) (tmem : Option Addr) (kind : StreamKind) :
    oneRecord write s tmem x kind ch rm st = .next (traceBoth i (st.strand i) (advance i 8 st)) :=
  issueData_retires hu hi hk hvl hacq hx h0

theorem execStrmCp_retires (hx : Settled st i [x]) (tr : BitVec 1) (rnd : BitVec 3) (sat : BitVec 1) :
    execStrmCp d s x ch rm tr rnd sat st = .next (traceBoth i (st.strand i) (advance i 8 st)) :=
  issueData_retires hu hi hk hvl hacq hx h0

theorem execStrmGx_retires : execStrmGx d s e ch st = .next (traceBoth i (st.strand i) (advance i 8 st)) :=
  issueData_retires hu hi hk hvl hacq rfl h0

theorem execTqld_retires {y : BitVec 5} (hx : Settled st i [y, x]) :
    execTqld y s x st = .next (traceBoth i (st.strand i) (advance i 4 st)) :=
  issueData_retires hu hi hk hvl hacq hx h0

end

variable (hn : (st.strand i).vl ≠ 0)
include hn

/-! ### Gathers (R205, R209, R214) -/

theorem execStrmGx_busy (hbusy : ((st.tile u).tag ch).busy = true) : execStrmGx d s e ch st = .next (engineTrap i cChannelBusy st) :=
  issueData_engineStop hu hi hk hvl hacq rfl hn rfl (by simp [hbusy])

section
variable (hidle : ((st.tile u).tag ch).busy = false) (hs : ((st.strand i).ar s).toNat % 64 = 0) {h : Shape} {rsv : Bool} {w : State}
  (hrec : readShape i (st.strand i) ((st.strand i).ar s) (advance i 8 st) = .ok (h, rsv, w)) (hd : ((st.strand i).ar d).toNat % 16 = 0)
  (he : ((st.strand i).ar e).toNat % 4 = 0)
include hidle hs hrec hd he

theorem execStrmGx_faulty {c : Nat} (hf : h.fault rsv false 0 0 = some c) :
    execStrmGx d s e ch st = .next (shapeTrap i ((st.strand i).ar s) c st) :=
  issueData_shapeStop hu hi hk hvl hacq rfl hn (by simp [hidle, hs, hrec, hd, he, hf])

variable (hf : h.fault rsv false 0 0 = none)
include hf

theorem execStrmGx_unfit (hr : h.rank ≠ 2 ∨ ∃ z ∈ h.win, z ≠ 0) :
    execStrmGx d s e ch st = .next (shapeTrap i ((st.strand i).ar s) 12 st) :=
  issueData_shapeStop hu hi hk hvl hacq rfl hn (by simp [hidle, hs, hrec, hd, he, hf, hr])

variable (hr : ¬ (h.rank ≠ 2 ∨ ∃ z ∈ h.win, z ≠ 0))
include hr

theorem execStrmGx_outside (hout : inOneSlot ((st.strand i).ar d) (((st.strand i).vl.toNat * h.extent 0 * h.w + 7) / 8) = false) :
    execStrmGx d s e ch st = .next (shapeTrap i ((st.strand i).ar s) 13 st) :=
  issueData_shapeStop hu hi hk hvl hacq rfl hn (by simp [hidle, hs, hrec, hd, he, hf, hr, hout])

theorem execStrmGx_starts (hin : inOneSlot ((st.strand i).ar d) (((st.strand i).vl.toNat * h.extent 0 * h.w + 7) / 8) = true) :
    execStrmGx d s e ch st = .next (startStream u k i (newStream (st.strand i) i.slot (.gather ((st.strand i).ar d) ((st.strand i).ar e)) h 0
      ((st.strand i).vl.toNat * h.extent 0) ch 0) w) :=
  issueData_ok hu hi hk hvl hacq rfl hn (by simp [hidle, hs, hrec, hd, he, hf, hr, hin])

end

variable (hx : Settled st i [x])
include hx

/-! ### One record and, but for the fabric, one TMEM side (R205, R209, R210) -/

theorem oneRecord_busy (write : Bool) (tmem : Option Addr) (kind : StreamKind) (hbusy : ((st.tile u).tag ch).busy = true) :
    oneRecord write s tmem x kind ch rm st = .next (engineTrap i cChannelBusy st) :=
  issueData_engineStop hu hi hk hvl hacq hx hn rfl (by simp [hbusy])

section
variable {write : Bool} {kind : StreamKind} (hidle : ((st.tile u).tag ch).busy = false) (hs : ((st.strand i).ar s).toNat % 64 = 0) {h : Shape} {rsv : Bool}
  {w : State} (hrec : readShape i (st.strand i) ((st.strand i).ar s) (advance i 8 st) = .ok (h, rsv, w))
include hidle hs hrec

/-- A record into or out of TMEM at an aligned address starts its stream, or traps. -/
theorem oneRecord_tmem {a : Addr} (ha : a.toNat % 16 = 0) :
    (∀ c, h.fault rsv write ((st.strand i).xr x).toNat (st.strand i).vl.toNat = some c →
      oneRecord write s (some a) x kind ch rm st = .next (shapeTrap i ((st.strand i).ar s) c st)) ∧
    (h.fault rsv write ((st.strand i).xr x).toNat (st.strand i).vl.toNat = none → oneRecord write s (some a) x kind ch rm st =
      (if inOneSlot a (((st.strand i).vl.toNat * h.w + 7) / 8) = true then
        .next (startStream u k i (newStream (st.strand i) i.slot kind h ((st.strand i).xr x).toNat (st.strand i).vl.toNat ch rm) w)
      else .next (shapeTrap i ((st.strand i).ar s) 13 st))) := by
  refine ⟨fun c hf => issueData_shapeStop hu hi hk hvl hacq hx hn (by simp [hidle, hs, hrec, ha, hf]), fun hf => ?_⟩
  split
  case isTrue hin => exact issueData_ok hu hi hk hvl hacq hx hn (by simp [hidle, hs, hrec, ha, hf, hin])
  case isFalse hout => exact issueData_shapeStop hu hi hk hvl hacq hx hn (by simp [hidle, hs, hrec, ha, hf, hout])

/-- A record of a stream into the fabric starts it, or traps. -/
theorem oneRecord_fabric :
    (∀ c, h.fault rsv write ((st.strand i).xr x).toNat (st.strand i).vl.toNat = some c →
      oneRecord write s none x kind ch rm st = .next (shapeTrap i ((st.strand i).ar s) c st)) ∧
    (h.fault rsv write ((st.strand i).xr x).toNat (st.strand i).vl.toNat = none → oneRecord write s none x kind ch rm st =
      .next (startStream u k i (newStream (st.strand i) i.slot kind h ((st.strand i).xr x).toNat (st.strand i).vl.toNat ch rm) w)) :=
  ⟨fun c hf => issueData_shapeStop hu hi hk hvl hacq hx hn (by simp [hidle, hs, hrec, hf]),
    fun hf => issueData_ok hu hi hk hvl hacq hx hn (by simp [hidle, hs, hrec, hf])⟩

end

/-! ### Copies (R205, R209, R211) -/

section
variable {tr : BitVec 1} {rnd : BitVec 3} {sat : BitVec 1}

theorem execStrmCp_busy (hbusy : ((st.tile u).tag ch).busy = true) : execStrmCp d s x ch rm tr rnd sat st = .next (engineTrap i cChannelBusy st) :=
  issueData_engineStop hu hi hk hvl hacq hx hn rfl (by simp [hbusy])

variable (hidle : ((st.tile u).tag ch).busy = false) (hs : ((st.strand i).ar s).toNat % 64 = 0) (hd : ((st.strand i).ar d).toNat % 64 = 0)
  {h g : Shape} {rsv grsv : Bool} {w v : State}
  (hrec : readShape i (st.strand i) ((st.strand i).ar s) (advance i 8 st) = .ok (h, rsv, w))
  (hdst : readShape i (st.strand i) ((st.strand i).ar d) w = .ok (g, grsv, v))
include hidle hs hd hrec hdst

theorem execStrmCp_faultySource {c : Nat} (hf : h.fault rsv false ((st.strand i).xr x).toNat (st.strand i).vl.toNat = some c) :
    execStrmCp d s x ch rm tr rnd sat st = .next (shapeTrap i ((st.strand i).ar s) c st) :=
  issueData_shapeStop hu hi hk hvl hacq hx hn (by simp [hidle, hs, hd, hrec, hdst, hf])

variable (hf : h.fault rsv false ((st.strand i).xr x).toNat (st.strand i).vl.toNat = none)
include hf

theorem execStrmCp_tags (hc : ¬ h.copies g) : execStrmCp d s x ch rm tr rnd sat st = .next (shapeTrap i ((st.strand i).ar s) 11 st) := by
  rw [Shape.copies_iff, Bool.not_eq_false] at hc
  exact issueData_shapeStop hu hi hk hvl hacq hx hn (by simp only [advance_tag, hidle, hs, hd, hrec, hdst, hf, hc]; rfl)

variable (hc : h.copies g)
include hc

theorem execStrmCp_rank (htr : tr = 1) (hrank : h.rank = 1) :
    execStrmCp d s x ch rm tr rnd sat st = .next (shapeTrap i ((st.strand i).ar s) 12 st) := by
  rw [Shape.copies_iff] at hc
  exact issueData_shapeStop hu hi hk hvl hacq hx hn (by simp only [advance_tag, hidle, hs, hd, hrec, hdst, hf, hc, htr, hrank]; rfl)

variable (htr : (decide (tr = 1) && decide (h.rank = 1)) = false)
include htr

theorem execStrmCp_faultyDestination {c : Nat} (hg : g.fault grsv true ((st.strand i).xr x).toNat (st.strand i).vl.toNat = some c) :
    execStrmCp d s x ch rm tr rnd sat st = .next (shapeTrap i ((st.strand i).ar d) (c + 128) st) := by
  rw [Shape.copies_iff] at hc
  exact issueData_shapeStop hu hi hk hvl hacq hx hn (by simp only [advance_tag, hidle, hs, hd, hrec, hdst, hf, hc, htr, hg]; rfl)

variable (hg : g.fault grsv true ((st.strand i).xr x).toNat (st.strand i).vl.toNat = none)
include hg

theorem execStrmCp_overlap
    (ho : ((copyStream (st.strand i) i.slot h g x ch rm tr rnd sat).alters && (copyStream (st.strand i) i.slot h g x ch rm tr rnd sat).overlaps u v) = true) :
    execStrmCp d s x ch rm tr rnd sat st = .next (engineTrap i cStreamOverlap st) := by
  rw [Shape.copies_iff] at hc
  refine issueData_engineStop hu hi hk hvl hacq hx hn rfl ?_
  simp only [advance_tag, hidle, hs, hd, hrec, hdst, hf, hc, htr, hg]
  exact if_pos ho

theorem execStrmCp_starts
    (ho : ¬ ((copyStream (st.strand i) i.slot h g x ch rm tr rnd sat).alters && (copyStream (st.strand i) i.slot h g x ch rm tr rnd sat).overlaps u v) = true) :
    execStrmCp d s x ch rm tr rnd sat st = .next (startStream u k i (copyStream (st.strand i) i.slot h g x ch rm tr rnd sat) v) := by
  rw [Shape.copies_iff] at hc
  refine issueData_ok hu hi hk hvl hacq hx hn ?_
  simp only [advance_tag, hidle, hs, hd, hrec, hdst, hf, hc, htr, hg]
  exact if_neg ho

end

end

/-! ### Loads into the Tundish (R230) -/

/-- A Tundish whose next buffer has been given to a load. -/
def Tundish.loading (q : Tundish) (n rank : Nat) : Tundish :=
  { q with
    bufs := q.bufs.set q.next { q.bufs.getD q.next {} with state := .loading, n := n, rank := rank, order := q.turn }
    next := (q.next + 1) % q.bufs.length
    turn := q.turn + 1 }

section
variable {st : State} {i : StrandId} {u : TileId} {k : Nat} {x y : BitVec 5} {s : BitVec 4} (hu : i.core = .tile u) (hi : MayIssue st i)
  (hk : freeSlotOf 16 (st.tile u).streams = some k) (hvl : (st.strand i).pendVl = false) (hacq : (st.strand i).acquiring = false)
  (hn : (st.strand i).vl ≠ 0) (hx : Settled st i [y, x]) {q : Tundish} (hq : (st.strand i).tundish = some q)
  (hs : ((st.strand i).ar s).toNat % 64 = 0) {h : Shape} {rsv : Bool} {w : State}
  (hrec : readShape i (st.strand i) ((st.strand i).ar s) (advance i 4 st) = .ok (h, rsv, w))
include hu hi hk hvl hacq hn hx hq hs hrec

theorem execTqld_faulty {c : Nat} (hf : h.fault rsv false ((st.strand i).xr x).toNat (st.strand i).vl.toNat = some c) :
    execTqld y s x st = .next (shapeTrap i ((st.strand i).ar s) c st) :=
  issueData_shapeStop hu hi hk hvl hacq hx hn (by simp [hq, hs, hrec, hf])

theorem execTqld_starts (hf : h.fault rsv false ((st.strand i).xr x).toNat (st.strand i).vl.toNat = none)
    (hcap : (st.strand i).vl.toNat ≤ q.g * capacity (w.lanes i) h.w) (hfree : (q.bufs.getD q.next {}).state = .free) :
    execTqld y s x st = .next (startStream u k i
      (newStream (st.strand i) i.slot (.tundish q.next) h ((st.strand i).xr x).toNat (st.strand i).vl.toNat 0 0)
      ((w.modStrand i fun r => { r with tundish := some (q.loading (st.strand i).vl.toNat
        (h.rankAfter (((st.strand i).xr x).toNat + (st.strand i).vl.toNat - 1))) }).setX i y (BitVec.ofNat 64 (q.next + 1)))) := by
  refine issueData_ok hu hi hk hvl hacq hx hn ?_
  simp only [hq, hs, hrec, hf, if_neg (Nat.not_lt.mpr hcap), hfree]
  rfl

end

/-- Settles O37: each instruction is one body in the shared frame, and what its checks answer decides between a stream and a trap. -/
theorem streamInstructionsStartStreams : Obligations.StreamInstructionsStartStreams := by
  intro st u b d s e x y ch rm tr rnd sat k i t hi hx hk hvl hacq s0 n p stream bad retired all
  have hu : i.core = .tile u := rfl
  have hld : exec (.strmLd d s x ch rm) st = oneRecord false s (some (t.ar d)) x (.load (t.ar d)) ch rm st := by rw [← actingA_eq hi]; rfl
  have hst : exec (.strmSt d s x ch rm) st = oneRecord true s (some (t.ar d)) x (.store (t.ar d)) ch rm st := by rw [← actingA_eq hi]; rfl
  refine ⟨fun h0 => ⟨?none, fun hy => ?noneTqld⟩, fun hn hbusy => ?busy, fun h rsv w hn hidle hs hrec => ?record, fun q h rsv w hn hy hq hs hrec => ?tqld⟩
  case none =>
    have hone (write tmem kind) := oneRecord_retires (s := s) (ch := ch) (rm := rm) hu hi hk hvl hacq h0 hx write tmem kind
    simp only [all, List.forall_mem_cons, List.not_mem_nil, false_imp_iff, implies_true, and_true]
    rw [hld, hst]
    exact ⟨hone .., hone false none .fabric, hone .., execStrmCp_retires hu hi hk hvl hacq h0 hx tr rnd sat, execStrmGx_retires hu hi hk hvl hacq h0⟩
  case noneTqld =>
    exact execTqld_retires hu hi hk hvl hacq h0 (settled_pair hy hx)
  case busy =>
    have hone (write tmem kind) := oneRecord_busy (s := s) (rm := rm) hu hi hk hvl hacq hn hx write tmem kind hbusy
    simp only [all, List.forall_mem_cons, List.not_mem_nil, false_imp_iff, implies_true, and_true]
    rw [hld, hst]
    exact ⟨hone .., hone false none .fabric, hone .., execStrmCp_busy hu hi hk hvl hacq hn hx hbusy, execStrmGx_busy hu hi hk hvl hacq hn hbusy⟩
  case record =>
    refine ⟨fun hd => ?tmem, ?fabric, ?starts, fun g grsv v hd hdst => ?copy⟩
    case tmem =>
      obtain ⟨hldFaulty, hldStarts⟩ := oneRecord_tmem (write := false) (kind := .load (t.ar d)) (rm := rm) hu hi hk hvl hacq hn hx hidle hs hrec hd
      obtain ⟨hstFaulty, hstStarts⟩ := oneRecord_tmem (write := true) (kind := .store (t.ar d)) (rm := rm) hu hi hk hvl hacq hn hx hidle hs hrec hd
      rw [hld, hst]
      refine ⟨hldFaulty, hstFaulty, hldStarts, hstStarts, fun he => ⟨fun c hf => execStrmGx_faulty hu hi hk hvl hacq hn hidle hs hrec hd he hf, fun hf => ?_⟩⟩
      split
      case isTrue hr => exact execStrmGx_unfit hu hi hk hvl hacq hn hidle hs hrec hd he hf hr
      case isFalse hr =>
        split
        case isTrue hin => exact execStrmGx_starts hu hi hk hvl hacq hn hidle hs hrec hd he hf hr hin
        case isFalse hout => exact execStrmGx_outside hu hi hk hvl hacq hn hidle hs hrec hd he hf hr (Bool.eq_false_iff.mpr hout)
    case fabric => exact (oneRecord_fabric (kind := .fabric) (rm := rm) hu hi hk hvl hacq hn hx hidle hs hrec).1
    case starts => exact (oneRecord_fabric (kind := .fabric) (rm := rm) hu hi hk hvl hacq hn hx hidle hs hrec).2
    case copy =>
      intro copies c
      refine ⟨fun m hf => execStrmCp_faultySource hu hi hk hvl hacq hn hx hidle hs hd hrec hdst hf,
        fun hf => ⟨fun hc => execStrmCp_tags hu hi hk hvl hacq hn hx hidle hs hd hrec hdst hf hc,
          fun hc htr hrank => execStrmCp_rank hu hi hk hvl hacq hn hx hidle hs hd hrec hdst hf hc htr hrank, fun hc htr => ?_⟩⟩
      have htr : (decide (tr = 1) && decide (h.rank = 1)) = false := by rcases htr with rfl | hrank <;> simp [*]
      refine ⟨fun m hg => execStrmCp_faultyDestination hu hi hk hvl hacq hn hx hidle hs hd hrec hdst hf hc htr hg, fun hg => ?_⟩
      split
      case isTrue ho => exact execStrmCp_overlap hu hi hk hvl hacq hn hx hidle hs hd hrec hdst hf hc htr hg ho
      case isFalse ho => exact execStrmCp_starts hu hi hk hvl hacq hn hx hidle hs hd hrec hdst hf hc htr hg ho
  case tqld =>
    have hyx : Settled st i [y, x] := settled_pair hy hx
    exact ⟨fun c hf => execTqld_faulty hu hi hk hvl hacq hn hyx hq hs hrec hf,
      fun hf hcap hfree => execTqld_starts hu hi hk hvl hacq hn hyx hq hs hrec hf hcap hfree⟩

end Sys2Proof.Machine
end

section
/-! PROOF. Channel tags and the Tundish (R222, R224, R226, R228, R229, R231). -/

namespace Sys2Proof.Machine

open Sys2Proof

@[simp] theorem advance_fabric (i : StrandId) (len : Nat) (s : State) (u : TileId) : ((advance i len s).tile u).fabric = (s.tile u).fabric :=
  advance_tile_keeps Tile.fabric (fun _ _ => rfl) (fun _ _ => rfl) ..

section
variable {st : State} {i : StrandId} {u : TileId} {len : Nat} {xs : List (BitVec 5)} {body : TileId → StrandId → Strand → State → Except Stop State}

/-- A stream instruction of a tile whose registers are settled does what its body does. -/
theorem issueStream_ok (hu : i.core = .tile u) (hi : MayIssue st i) (hx : Settled st i xs) {r : State}
    (h : body u i (st.strand i) (advance i len st) = .ok r) : issueStream len xs body st = .next r :=
  issueEngine_ok hi.1 hi.2 (by simp [onTile, hu, hx, h])

end

/-! ### The status word (R226) -/

theorem toNat_append_eq_add {m n : Nat} (a : BitVec m) (b : BitVec n) : (a ++ b).toNat = a.toNat * 2 ^ n + b.toNat := by
  rw [BitVec.toNat_append, ← Nat.shiftLeft_add_eq_or_of_lt b.isLt, Nat.shiftLeft_eq]

theorem Tag.word_eq (g : Tag) :
    g.word = (g.arr ++ 0#28 ++ BitVec.ofBool g.busy ++ BitVec.ofBool g.frozen ++ BitVec.ofBool g.posted ++ BitVec.ofBool g.phase : BitVec 64) := by
  have harr := g.arr.isLt
  have hbit (b : Bool) : (BitVec.ofBool b).toNat = if b then 1 else 0 := by cases b <;> rfl
  refine BitVec.eq_of_toNat_eq ?_
  simp only [Tag.word, toNat_append_eq_add, hbit, BitVec.toNat_ofNat]
  split_ifs <;> omega

/-! ### Posts, waits and wakes (R224, R226) -/

/-- A tag as a post leaves it: with its phase over at once where the bytes expected have arrived. -/
def Tag.post (g : Tag) (e : BitVec 32) (b : BitVec 3) : Tag :=
  if g.arr = e then { g with arr := 0, exp := e, phase := !g.phase, phases := g.phases + 1, owner := b, left := false }
  else { g with exp := e, posted := true, owner := b, left := false }

section
variable {st : State} {i : StrandId} {u : TileId} {d x : BitVec 5} {ch : BitVec 6} (hu : i.core = .tile u) (hi : MayIssue st i)
include hu hi

theorem execStrmPost_posts (hx : Settled st i [x]) (hp : ((st.tile u).tag ch).posted = false) (hf : ((st.tile u).tag ch).frozen = false)
    (he : ((st.tile u).tag ch).arr ≤ ((st.strand i).xr x).setWidth 32) :
    execStrmPost x ch 0 st = .next (setTag u ch (((st.tile u).tag ch).post (((st.strand i).xr x).setWidth 32) i.slot) (advance i 8 st)) := by
  refine issueStream_ok hu hi hx ?_
  have hlt : ¬ ((st.strand i).xr x).setWidth 32 < ((st.tile u).tag ch).arr := BitVec.not_lt.mpr he
  by_cases h : ((st.tile u).tag ch).arr = ((st.strand i).xr x).setWidth 32
  · simp [hp, hf, h, Tag.post, Tag.completePhase]
  · simp [hp, hf, hlt, h, Tag.post]

section
variable (hd : Settled st i [d])
include hd

theorem execStrmWait_idle (h : ((st.tile u).tag ch).busy = false) :
    execStrmWait d ch 0 st = .next ((advance i 8 st).setX i d ((st.tile u).tag ch).word) :=
  issueStream_ok hu hi hd (by simp [h])

theorem execStrmWait_busy (h : ((st.tile u).tag ch).busy = true) :
    execStrmWait d ch 0 st = .next (block i (st.strand i) (.stream d ch false ((st.tile u).tag ch).ends) (advance i 8 st)) :=
  issueStream_ok hu hi hd (by simp [h])

theorem execStrmWait_phase (h : ((st.tile u).tag ch).frozen = false) :
    execStrmWait d ch 1 st = .next (block i (st.strand i) (.stream d ch true ((st.tile u).tag ch).phases) (advance i 8 st)) :=
  issueStream_ok hu hi hd (by simp [h])

end

omit hi in
theorem execStrmWaitWake_wakes {form : Bool} {seen : Nat} (hb : (st.strand i).status = .blocked (.stream d ch form seen))
    (ha : ((st.tile u).tag ch).awaited form seen = true) :
    execStrmWaitWake i st = .next ((unblock i two st).setX i d ((st.tile u).tag ch).word) := by
  simp [execStrmWaitWake, hb, hu, ha]

/-! ### Marks (R228) -/

omit hu hi in
/-- A marker that joins the last one of its tag adds no token. -/
theorem coalesce_length {rank : Nat} {last : Bool} {fs gs : List Feed} (h : coalesce ch rank last fs = some gs) : gs.length = fs.length := by
  unfold coalesce at h
  split at h
  · cases h
  · dsimp only at h
    split at h
    · split at h
      · cases h
        exact List.length_set
      · cases h
    · cases h

/-- The fabric-bound stream of a tag that has still to deliver. -/
def Tile.pendingFabric (v : Tile) (ch : BitVec 6) : Option (Nat × Stream) :=
  v.streams.find? fun p => p.2.ch = ch && p.2.kind = .fabric && p.2.resume < p.2.sectors

variable {rank : BitVec 3} {last : BitVec 1}

theorem execStrmMark_pending {k : Nat} {y : Stream} (h : (st.tile u).pendingFabric ch = some (k, y)) :
    execStrmMark ch rank last st =
      .next (setStream u k { y with marks := y.marks ++ [(rank.toNat, decide (last = 1))] } (advance i 8 st)) := by
  rw [Tile.pendingFabric, ← advance_streams i 8] at h
  exact issueStream_ok hu hi rfl (by dsimp only; rw [h])

section
variable (h : (st.tile u).pendingFabric ch = none)
include h

theorem execStrmMark_enters (hc : coalesce ch rank.toNat (last = 1) (st.tile u).fabric.feeds = none) :
    execStrmMark ch rank last st = .next (feedTokens u ch [markToken rank.toNat (last = 1)] (advance i 8 st)) := by
  rw [Tile.pendingFabric, ← advance_streams i 8] at h
  exact issueStream_ok hu hi rfl (by dsimp only; rw [h, advance_fabric, hc])

theorem execStrmMark_joins {fs : List Feed} (hc : coalesce ch rank.toNat (last = 1) (st.tile u).fabric.feeds = some fs) :
    ∃ v : Tile, execStrmMark ch rank last st = .next ((advance i 8 st).setTile u { v with fabric := { v.fabric with feeds := fs } }) := by
  rw [Tile.pendingFabric, ← advance_streams i 8] at h
  exact ⟨_, issueStream_ok hu hi rfl (by dsimp only; rw [h, advance_fabric, hc])⟩

end

/-! ### The Tundish (R229, R231) -/

theorem execTqdecl_declares (hx : Settled st i [x]) (hq : (st.strand i).tundish = none) (hnb : ((st.strand i).xr x).toNat % 16 ≤ 8)
    (hsz : 2 ^ (((st.strand i).xr x).toNat / 16 % 8) ≤ 8) (hres : ((st.strand i).xr x).toNat < 128)
    (hal : d.toNat % 2 ^ (((st.strand i).xr x).toNat / 16 % 8) = 0)
    (hfit : d.toNat + ((st.strand i).xr x).toNat % 16 * 2 ^ (((st.strand i).xr x).toNat / 16 % 8) ≤ 32) :
    execTqdecl d x st = .next ((advance i 4 st).modStrand i fun r =>
      { r with tundish := if ((st.strand i).xr x).toNat % 16 = 0 then none
          else some ⟨d.toNat, 2 ^ (((st.strand i).xr x).toNat / 16 % 8), 0, 0, List.replicate (((st.strand i).xr x).toNat % 16) {}⟩ }) := by
  have hlg : ((st.strand i).xr x).toNat / 16 % 8 ≤ 3 := (Nat.pow_le_pow_iff_right (by decide)).mp hsz
  refine issueStream_ok hu hi hx ?_
  simp [field, hq, hal, Nat.not_lt.mpr hnb, Nat.not_lt.mpr hlg, Nat.not_lt.mpr hfit, Nat.div_eq_of_lt hres]

section
variable {q : Tundish} (hq : (st.strand i).tundish = some q) (hd : Settled st i [d])
include hq hd

/-- The state in which TQPOP has let go of the buffer bound before. -/
def unbound (i : StrandId) (q : Tundish) (st : State) : State :=
  (advance i 4 st).modStrand i fun r => { r with tundish := some (q.unbind (st.strand i).issued) }

theorem execTqpop_none (h : (q.unbind (st.strand i).issued).oldest = none) : execTqpop d st = .next ((unbound i q st).setX i d 0) :=
  issueStream_ok hu hi hd (by simp [hq, h, unbound])

theorem execTqpop_oldest {n : Nat} {f : Buffer} (h : (q.unbind (st.strand i).issued).oldest = some (n, f)) :
    execTqpop d st = .next (if f.state = .full then popBuffer i d (q.unbind (st.strand i).issued) n f (unbound i q st)
      else block i (st.strand i) (.tundish d) (unbound i q st)) :=
  issueStream_ok hu hi hd (by by_cases hf : f.state = .full <;> simp [hq, h, hf, unbound])

end

end

section
variable {st : State} {i : StrandId} {q : Tundish} (hq : (st.strand i).tundish = some q) {n : Nat} {f : Buffer}
include hq

theorem execTqpopWake_pops {d : BitVec 5} (hb : (st.strand i).status = .blocked (.tundish d)) (h : q.oldest = some (n, f)) (hf : f.state = .full) :
    execTqpopWake i st = .next (popBuffer i d q n f (unblock i one st)) := by
  simp [execTqpopWake, hb, hq, h, hf]

theorem execBufferDrained_frees (h : q.bufs[n]? = some f) (hf : f.state = .draining) (hr : ∀ v ∈ (st.strand i).queue, f.since ≤ v.seq) :
    execBufferDrained i n st =
      .next (st.modStrand i fun r => { r with tundish := some { q with bufs := q.bufs.set n { f with state := .free } } }) := by
  have hdone : ((st.strand i).queue.any fun e => e.seq < f.since) = false := by simpa using hr
  simp [execBufferDrained, hq, h, hf, hdone]

end

/-- Settles O39: each instruction and event answers the state that its equation above names. -/
theorem channelTagsAndTundishComplete : Obligations.ChannelTagsAndTundishComplete := by
  intro st u b d x ch i t g word e
  have hu : i.core = .tile u := rfl
  have hword : word = g.word := g.word_eq.symm
  refine ⟨fun hi hx hp hf he => ⟨_, execStrmPost_posts hu hi hx hp hf he, tag_setTag_self ..⟩, fun hi hd => ⟨fun h => ?idle, ?busy, ?phase⟩,
    fun seen form hb ha => ?wake, fun rank last hi hnone => ⟨fun hc => ?enters, fun fs hc => ?joins⟩,
    fun k y rank last hi hsome => execStrmMark_pending hu hi hsome,
    fun hi hx hq hnb hsz hres hal hfit => execTqdecl_declares hu hi hx hq hnb hsz hres hal hfit, fun q n f hq => ?tundish⟩
  case idle =>
    rw [hword]
    exact execStrmWait_idle hu hi hd h
  case busy => exact execStrmWait_busy hu hi hd
  case phase => exact execStrmWait_phase hu hi hd
  case wake =>
    rw [hword]
    refine execStrmWaitWake_wakes hu hb ?_
    cases form <;> simpa [Tag.awaited] using ha
  case enters => exact execStrmMark_enters hu hi hnone hc
  case joins =>
    obtain ⟨v, hv⟩ := execStrmMark_joins hu hi hnone hc
    exact ⟨_, hv, by rw [State.tile_setTile_self], coalesce_length hc⟩
  case tundish =>
    exact ⟨fun hi hd => ⟨execTqpop_none hu hi hq hd, execTqpop_oldest hu hi hq hd⟩, execTqpopWake_pops hq, execBufferDrained_frees hq⟩

end Sys2Proof.Machine
end

section
/-! PROOF. Accesses from outside, installs, link events and uncorrectable errors (R220, R264 to R266, R271, R393, R420, R422, R424 to R426). -/

namespace Sys2Proof.Machine

open Sys2Proof

/-! ### What a write to memory leaves of the device's registers, its reservations, the time and the counts of error records (R393, R425, R432) -/

/-- The registers of the device, its reservations, the time, and the number of error records that each quadrant has counted. -/
def State.ledger (s : State) : Device × List Reservation × Nat × (BitVec 2 → Nat) := (s.dev, s.ranges, s.now, fun q => (s.quad q).errors)

section
variable {s f : State} (h : f.ledger = s.ledger)
include h

theorem dev_of_ledger : f.dev = s.dev := congrArg (·.1) h

theorem ranges_of_ledger : f.ranges = s.ranges := congrArg (·.2.1) h

theorem now_of_ledger : f.now = s.now := congrArg (·.2.2.1) h

theorem errors_of_ledger (q : BitVec 2) : (f.quad q).errors = (s.quad q).errors := congrFun (congrArg (·.2.2.2) h) q

end

theorem ledger_modQuad {q : BitVec 2} {g : Quad → Quad} (h : ∀ v, (g v).errors = v.errors) (s : State) : (s.modQuad q g).ledger = s.ledger := by
  refine Prod.ext rfl (Prod.ext rfl (Prod.ext rfl (funext fun r => ?_)))
  by_cases hr : r = q
  · subst hr
    exact (congrArg Quad.errors (State.quad_modQuad_self s r g)).trans (h _)
  · exact congrArg Quad.errors (State.quad_modQuad_ne s g hr)

theorem ledger_setCrucible (q : BitVec 2) (g : Quad → Crucible) (s : State) : (s.modQuad q fun v => { v with crucible := g v }).ledger = s.ledger :=
  ledger_modQuad (g := fun v => { v with crucible := g v }) (fun _ => rfl) s

theorem ledger_modCrucible (n : Nat) (f : Crucible → Crucible) (s : State) : (modCrucible n f s).ledger = s.ledger := by
  unfold modCrucible
  split
  · exact ledger_setCrucible ..
  · rfl

theorem ledger_noteDirty (n : Nat) (s : State) : (noteDirty n s).ledger = s.ledger := by
  unfold noteDirty
  (repeat' split) <;> rfl

theorem ledger_evict (q : BitVec 2) (l : Nat) (room : Crucible → Bool) (n : Nat) (s : State) : (evict q l room n s).ledger = s.ledger := by
  induction n generalizing s with
  | zero => rfl
  | succ n ih =>
    simp only [evict]
    split
    · rfl
    · split
      · rfl
      · rw [ih, ledger_setCrucible]
        split
        · exact ledger_modCrucible ..
        · rfl

theorem ledger_touchLine (k : Option StrandId) (n : Nat) (s : State) : (touchLine k n s).ledger = s.ledger := by
  have hunshare (u : State) : (unshareLine n u).ledger = u.ledger := by
    unfold unshareLine
    split
    · rfl
    · dsimp only
      rw [ledger_setCrucible, makeRoom, ledger_evict]
  rw [touchLine, ledger_modCrucible, hunshare]
  exact ledger_noteDirty n s

theorem ledger_hwWrite (a : Nat) (bs : List Byte) (s : State) : (hwWrite a bs s).ledger = s.ledger := by
  unfold hwWrite writeMem
  split
  · rfl
  · exact foldl_keeps State.ledger (fun s n => ledger_touchLine none n s) _ s

theorem ledger_ringWrite (base : Word) (n r : Nat) (bs : List Byte) (s : State) : (ringWrite base n r bs s).2.ledger = s.ledger := by
  obtain ⟨a, b, c, d, e, h | h⟩ := ringWrite_cases base n r bs s <;> rw [h] <;> simp only [ledger_hwWrite]

/-- Whether a ring takes a record depends on the device's number and on memory alone. -/
theorem ringWrite_fst {s f : State} (hd : f.dev.devnum = s.dev.devnum) (hm : f.mem = s.mem) (base : Word) (n r : Nat) (bs cs : List Byte) :
    (ringWrite base n r bs f).1 = (ringWrite base n r cs s).1 := by
  have ha (a : Nat) : f.globalPa a = s.globalPa a := by simp only [State.globalPa, hd]
  have hw (a : Nat) : f.word64 a = s.word64 a := by simp only [State.word64, hm]
  simp only [ringWrite, ha, hw]
  split <;> rfl

theorem countRecord_dev (q : BitVec 2) (w : Bool × State) : (countRecord q w).dev = w.2.dev := by
  unfold countRecord
  split <;> rfl

theorem errorRecord_dev (q : BitVec 2) (typ tile cause handle pa : Nat) (s : State) : (errorRecord q typ tile cause handle pa s).dev = s.dev := by
  obtain h | ⟨a, n, bs, h⟩ := errorRecord_cases q typ tile cause handle pa s <;> rw [h]
  rw [countRecord_dev, dev_of_ledger (ledger_ringWrite ..)]

/-- A quadrant with a ring counts a record where the ring takes it. -/
theorem errorRecord_errors (q : BitVec 2) (typ tile cause handle pa : Nat) (s : State) (h : (s.quad q).errsize.toNat % 32 ≠ 0) :
    ((errorRecord q typ tile cause handle pa s).quad q).errors =
      (s.quad q).errors + (if (ringWrite (s.quad q).errbase ((s.quad q).errsize.toNat % 32) 64 [] s).1 then 1 else 0) := by
  rw [errorRecord, if_neg h]
  generalize (leBytes 8 _ ++ _ ++ _ ++ _ : List Byte) = bs
  have he := errors_of_ledger (ledger_ringWrite (s.quad q).errbase ((s.quad q).errsize.toNat % 32) 64 bs s) q
  rw [countRecord, ringWrite_fst rfl rfl _ _ _ bs []]
  split
  · rw [State.quad_modQuad_self]
    exact congrArg (· + 1) he
  · exact he

theorem errorRecord_of_no_ring {q : BitVec 2} {s : State} (h : (s.quad q).errsize.toNat % 32 = 0) (typ tile cause handle pa : Nat) :
    errorRecord q typ tile cause handle pa s = s := if_pos h

/-! ### Accesses of one line of this device's HBM (R220, R266, R425) -/

/-- What an access from outside does where no reservation stands in its way, or a SPLIT one does. -/
def Outer (write : Bool) (a n : Nat) (f : State → State) (st : State) (o : Out) : Prop :=
  (st.meets none write (.mem a) n = .free → o = .next (f (noteOuter a st))) ∧
  (st.meets none write (.mem a) n = .cut → o = .next (f (noteOuter a (cutRanges none write (.mem a) n st))))

section
variable {st : State} {a n : Nat} (hn : 0 < n) (hline : a % 128 + n ≤ 128)
include hn hline

theorem agentAccess_free {write : Bool} {f : State → State} (hm : st.meets none write (.mem a) n = .free) :
    agentAccess write a n f st = some (f st) := by
  simp [agentAccess, hn.ne', Nat.not_lt.mpr hline, hm]

theorem outer_of_agentAccess {write : Bool} {f : State → State} {o : Out} (h : o = event st (agentAccess write a n (fun s => f (noteOuter a s)) st)) :
    Outer write a n f st o := by
  refine ⟨fun hm => by rw [h, agentAccess_free hn hline hm, event_some], fun hm => ?_⟩
  rw [h]
  simp [agentAccess, hn.ne', Nat.not_lt.mpr hline, hm]

variable (hown : st.own a = true) (hreg : regionOf (localOf a) = .hbm)
include hown hreg

theorem execCxlRequest_reads : Outer false a n (notePoison a n) st (execCxlRequest (.read a n) st) :=
  outer_of_agentAccess hn hline (by simp [execCxlRequest, outerRead, hown, hreg])

theorem execNdeitLoad_reads : Outer false a n (notePoison a n) st (execNdeitLoad a n st) :=
  outer_of_agentAccess hn hline (by simp [execNdeitLoad, outerRead, hown, hreg, hn.ne', Nat.not_lt.mpr hline])

theorem execCxlRequest_writes {bs : List Byte} (hlen : bs.length = n) : Outer true a n (writeMem none a bs) st (execCxlRequest (.write a bs) st) :=
  outer_of_agentAccess hn hline (by simp [execCxlRequest, outerWrite, hown, hreg, hlen])

theorem execNdeitStore_writes {bs : List Byte} (hlen : bs.length = n) : Outer true a n (writeMem none a bs) st (execNdeitStore a bs st) := by
  have hbs : bs ≠ [] := List.ne_nil_of_length_pos (hlen ▸ hn)
  exact outer_of_agentAccess hn hline (by simp [execNdeitStore, outerWrite, hown, hreg, hlen, hbs, Nat.not_lt.mpr hline])

section
variable {op : BitVec 5} {k : AmoOp} {x : BitVec 64} (hk : amoOfCode op.toNat = some k) (hsize : n = 4 ∨ n = 8) (hal : a % n = 0)
include hk hsize hal

/-- What an atomic from outside does to its word: corrupt data is recorded and leaves the word as it was (R425). -/
def outerAtomic (k : AmoOp) (a n : Nat) (x y : BitVec 64) (s : State) : State :=
  match atomicUpdate none (outerPlace a) k n (x.toNat % 2 ^ (8 * n)) (y.toNat % 2 ^ (8 * n)) s with
  | .ok (_, s) => s
  | .error _ => notePoison a n s

theorem execNdeitAtomic_updates (y : BitVec 64) : Outer true a n (outerAtomic k a n x y) st (execNdeitAtomic op a n x y st) :=
  outer_of_agentAccess hn hline (by rcases hsize with rfl | rfl <;> simp [execNdeitAtomic, outerUpdate, hk, hown, hreg, hal, outerAtomic] <;> rfl)

theorem execNdeitReduction_applies (hs : k ≠ .swap) (hc : k ≠ .cas) :
    Outer true a n (applyPartial k ⟨outerPlace a, 0, n, x.toNat % 2 ^ (8 * n)⟩) st (execNdeitReduction op a n x st) :=
  outer_of_agentAccess hn hline (by rcases hsize with rfl | rfl <;> simp [execNdeitReduction, outerUpdate, hk, hown, hreg, hal, hs, hc])

end

end

/-! ### Lines that other agents take, and installs (R264, R265, R271) -/

section
variable {st : State} {line : Nat}

theorem execNdeitCoherence_home (hh : st.homed line = true) (hm : st.meets none false (.mem (128 * line)) 128 = .free) :
    execNdeitCoherence line st = .next st := by
  have h := agentAccess_free (f := id) (by decide) (by omega) hm
  simp [execNdeitCoherence, hh, h]

theorem execNdeitCoherence_taken (hh : st.homed line = false) (hown : st.own (128 * line) = false) :
    execNdeitCoherence line st = .next (refetch line st) := by
  simp [execNdeitCoherence, hh, hown]

theorem execBackInvalidate_taken (hown : st.own (128 * line) = true) (hreg : regionOf (localOf (128 * line)) = .cxl) :
    execBackInvalidate line st = .next (refetch line st) := by
  simp [execBackInvalidate, hown, hreg]

theorem execLineInstall_installs (hh : st.homed line = true) : execLineInstall (homeQuad line) line st = .next (installLine line st) := by
  simp [execLineInstall, hh]

@[simp] theorem installLine_mem (line : Nat) (s : State) : (installLine line s).mem = s.mem := by
  unfold installLine
  split
  · rfl
  · simp

/-- An installed line has a tag in its quadrant's Crucible. -/
theorem installLine_tag (hh : st.homed line = true) : ∃ t ∈ ((installLine line st).quad (homeQuad line)).crucible.tags, t.line = line := by
  rw [installLine, hh]
  exact ⟨_, by rw [if_neg (by simp)]; dsimp only; rw [State.quad_modQuad_self]; exact List.mem_cons_self, rfl⟩

end

/-! ### The host's windows (R266, R420, R422) -/

section
variable {st : State} {a n : Nat} {bs : List Byte}

section
variable (hbs : bs ≠ []) (ha : a < 2 ^ 37)
include hbs ha

theorem event_tagged : event st (if bs.isEmpty || decide (2 ^ 37 ≤ a) then none else some (taggedWrite a bs st)) = .next (taggedWrite a bs st) :=
  congrArg (event st) (if_neg (by simpa using ⟨hbs, ha⟩))

theorem execTaggedWrite_writes (src : BitVec 21) : execTaggedWrite src a bs st = .next (taggedWrite a bs st) := event_tagged hbs ha

theorem execHostBarAccess_tagged : execHostBarAccess .bar4 (.write a bs) st = .next (taggedWrite a bs st) := event_tagged hbs ha

end

theorem execHostBarAccess_hbm (ha : a + n ≤ 0x8000000000) (hlen : bs.length = n) :
    execHostBarAccess .bar2 (.read a n) st = .next (notePoison (st.globalPa a) n st) ∧
    execHostBarAccess .bar2 (.write a bs) st = .next (barWrite (st.globalPa a) bs st) := by
  simp [execHostBarAccess, hlen, ha]

theorem execHostBarAccess_window (ha : a + n ≤ 2 ^ 37) : execHostBarAccess .bar4 (.read a n) st = .next st :=
  congrArg (event st) (if_pos ha)

theorem execHostBarAccess_register (hn : n = 1 ∨ n = 2 ∨ n = 4 ∨ n = 8) (hal : a % n = 0) (ha : a < 0x2000000) (hlen : bs.length = n) :
    execHostBarAccess .bar0 (.read a n) st = .next st ∧
    execHostBarAccess .bar0 (.write a bs) st = .next (barReg (regionOf (0x8000000000 + a)) bs st) := by
  have hreg : regAligned a n = true := by simpa [regAligned, or_assoc, hal] using hn
  simp [execHostBarAccess, hlen, hreg, ha]

end

/-! ### Link ports (R424 to R426) -/

section
variable {st : State} {p : BitVec 4}

@[simp] theorem port_setPort (p : BitVec 4) (v : LinkPort) (s : State) : (setPort p v s).port p = v := by
  simp [State.port, setPort, vget_set]

@[simp] theorem quad_setPort (p : BitVec 4) (v : LinkPort) (s : State) (q : BitVec 2) : (setPort p v s).quad q = s.quad q := rfl

/-- A count of a link port that saturates. -/
def countUp {w : Nat} (c : BitVec w) : BitVec w := if c = BitVec.allOnes w then c else c + 1

theorem toNat_countUp {w : Nat} (hw : 0 < w) (c : BitVec w) : (countUp c).toNat = min (c.toNat + 1) (2 ^ w - 1) := by
  have hc := c.isLt
  have hones : c = BitVec.allOnes w ↔ c.toNat = 2 ^ w - 1 := by rw [← BitVec.toNat_inj, BitVec.toNat_allOnes]
  have hone : (1 : BitVec w).toNat = 1 := by simp [Nat.mod_eq_of_lt (Nat.one_lt_two_pow hw.ne')]
  unfold countUp
  split
  case isTrue h => rw [hones] at h; omega
  case isFalse h => rw [hones] at h; rw [BitVec.toNat_add, hone, Nat.mod_eq_of_lt] <;> omega

theorem execFlitReplay_counts (hs : (st.port p).state = 2) :
    execFlitReplay p st = .next (setPort p { st.port p with replay := countUp (st.port p).replay } st) := by
  simp [execFlitReplay, hs, countUp]

theorem execLinkRetrain_counts (hs : (st.port p).state = 2) :
    execLinkRetrain p st = .next (setPort p { st.port p with state := 1, retrain := countUp (st.port p).retrain } st) := by
  simp [execLinkRetrain, hs, countUp]

section
variable (hs : (st.port p).state = 1) (hr : ¬ (st.port p).retrain = 0#16)
include hs hr

theorem execLinkRetrainDone_up : execLinkRetrainDone p true st = .next (setPort p { st.port p with state := 2 } st) := by
  simp [execLinkRetrainDone, hs, hr]

theorem execLinkRetrainDone_failed :
    execLinkRetrainDone p false st = .next (errorRecord 0 3 127 0 0 0 (setPort p { st.port p with state := 3, lanes := 0 } st)) := by
  simp [execLinkRetrainDone, hs, hr]

end

/-- The record of a failed port is counted where the ring takes it. -/
theorem errors_failed (v : LinkPort) (h : (st.quad 0).errsize.toNat % 32 ≠ 0) :
    ((errorRecord 0 3 127 0 0 0 (setPort p v st)).quad 0).errors =
      (st.quad 0).errors + (if (ringWrite (st.quad 0).errbase ((st.quad 0).errsize.toNat % 32) 64 [] st).1 then 1 else 0) := by
  rw [errorRecord_errors 0 3 127 0 0 0 (setPort p v st) h, quad_setPort, ringWrite_fst (f := setPort p v st) (s := st) rfl rfl _ _ _ [] []]

theorem errors_failed_of_no_ring (v : LinkPort) (h : (st.quad 0).errsize.toNat % 32 = 0) :
    ((errorRecord 0 3 127 0 0 0 (setPort p v st)).quad 0).errors = (st.quad 0).errors := by
  rw [errorRecord_of_no_ring (s := setPort p v st) h, quad_setPort]

theorem execLinkTrainingDone_up (hs : (st.port p).state = 0 ∨ (st.port p).state = 1) (hd : st.dev.unnumbered = false) :
    execLinkTrainingDone p st =
      .next (setPort p { st.port p with state := 2, lanes := BitVec.ofNat 3 (st.fresh.1.toNat % 4 + 1) } st.fresh.2) := by
  rcases hs with hs | hs <;> simp [execLinkTrainingDone, hs, hd]

end

/-! ### Uncorrectable errors (R393) -/

/-- The trap of an error in what a strand consumes: asynchronous, or precise at the instruction that is to issue. -/
theorem strandError_cases (i : StrandId) (st : State) :
    let t := st.strand i
    let s : State := { st with free := st.free + 2 }
    ∃ x, strandError i st = addAsync i ⟨cMachineCheck, 0, true, t.pc, 0, x, 0⟩ s ∨
      (t.status = .running ∧ st.coreRuns i.core = true ∧ st.slotOpen i.core = true ∧
        strandError i st = lone i.core (takeTrap i ⟨cMachineCheck, 0, false, t.pc, 0, x, 0⟩ s)) := by
  intro t s
  refine ⟨st.fresh.2.fresh.1.setWidth 80, ?_⟩
  by_cases h : (st.fresh.1.getLsbD 0 && t.status = .running && st.coreRuns i.core && st.slotOpen i.core) = true
  · obtain ⟨⟨⟨-, hrun⟩, hcore⟩, hslot⟩ : ((_ ∧ t.status = .running) ∧ _) ∧ _ := by simpa using h
    exact .inr ⟨hrun, hcore, hslot, if_pos h⟩
  · exact .inl (if_neg h)

theorem engineError_idle {u : TileId} {st : State} (h : (st.tile u).workers u = []) :
    engineError u st = errorRecord u.quad 2 u.idx.toNat 0 (st.tileHandle u) 0 st := by
  simp [engineError, h]

/-- An error in an engine with work to do stops one piece of it. -/
theorem engineError_stops {u : TileId} {st : State} (h : (st.tile u).workers u ≠ []) :
    ∃ stop ∈ (st.tile u).workers u, ∃ x, engineError u st = stop ⟨cMachineCheck, x, 0⟩ { st with free := st.free + 2 } := by
  have hlt : st.fresh.1.toNat % ((st.tile u).workers u).length < ((st.tile u).workers u).length := Nat.mod_lt _ (List.length_pos_iff.mpr h)
  refine ⟨_, List.getElem_mem hlt, st.fresh.2.fresh.1.setWidth 80, ?_⟩
  simp only [engineError, List.getElem?_eq_getElem hlt]
  rfl

theorem mem_failLine (l : Line) (s : State) : ⟨l, 0⟩ ∈ (failLine l s).poison := List.mem_cons_self

section
variable {st : State}

theorem execUncorrectableError_memory {line : Nat} (hh : st.homed line = true) :
    execUncorrectableError (.memoryLine line) st = .next (failLine (.mem line) st) := by
  simp [execUncorrectableError, hh]

theorem execUncorrectableError_tmem (t : TileId) {line : Nat} (h : line < 24576) :
    execUncorrectableError (.tmemLine t line) st = .next (failLine (.tmem t line) st) := by
  have : ¬ 0x300000 ≤ 128 * line := by omega
  simp [execUncorrectableError, this]

theorem execUncorrectableError_om (t : TileId) {line : Nat} (h : line < 8192) :
    execUncorrectableError (.omLine t line) st = .next (failLine (.om t line) st) := by
  have : ¬ 0x100000 ≤ 128 * line := by omega
  simp [execUncorrectableError, this]

theorem execUncorrectableError_strand {i : StrandId} (h : (st.strand i).status.alive = true) :
    execUncorrectableError (.strandLocal i) st = .next (strandError i st) := by
  simp [execUncorrectableError, h]

end

/-- Settles O52: each request and event answers the state that its equation above names. -/
theorem outsideAccessesComplete : Obligations.OutsideAccessesComplete := by
  intro st a n bs
  refine ⟨fun hown hreg hn hline hlen => ?hbm, fun line => ?lines,
    fun src hbs ha => ⟨execTaggedWrite_writes hbs ha src, execHostBarAccess_tagged hbs ha⟩, execHostBarAccess_hbm, execHostBarAccess_window,
    fun hn hal ha hlen => execHostBarAccess_register hn hal ha hlen, fun p => ?ports,
    fun line hh => ⟨_, execUncorrectableError_memory hh, mem_failLine .., rfl⟩,
    fun t line => ⟨fun h => ⟨_, execUncorrectableError_tmem t h, mem_failLine .., rfl⟩, fun h => ⟨_, execUncorrectableError_om t h, mem_failLine .., rfl⟩⟩,
    fun i hlive => ?strand, fun t => ?engine, fun q u => rfl⟩
  case hbm =>
    intro reads writes
    exact ⟨execCxlRequest_reads hn hline hown hreg, execNdeitLoad_reads hn hline hown hreg, execCxlRequest_writes hn hline hown hreg hlen,
      execNdeitStore_writes hn hline hown hreg hlen, fun op k x y hk hsize hal =>
        ⟨execNdeitAtomic_updates hn hline hown hreg hk hsize hal y, execNdeitReduction_applies hn hline hown hreg hk hsize hal⟩⟩
  case lines =>
    exact ⟨execNdeitCoherence_home, execNdeitCoherence_taken, execBackInvalidate_taken,
      fun hh => ⟨_, execLineInstall_installs hh, installLine_mem .., installLine_tag hh⟩⟩
  case ports =>
    intro v
    refine ⟨fun hs => ⟨_, _, execFlitReplay_counts hs, port_setPort .., toNat_countUp (by decide) _⟩,
      fun hs => ⟨_, _, execLinkRetrain_counts hs, port_setPort .., toNat_countUp (by decide) _⟩, fun hs hr ok => ?_, fun hs hd => ?_⟩
    · cases ok with
      | true => exact ⟨_, execLinkRetrainDone_up hs hr, port_setPort .., nofun, fun _ => rfl⟩
      | false =>
        refine ⟨_, execLinkRetrainDone_failed hs hr, ?_, fun _ => errors_failed _, fun h => errors_failed_of_no_ring _ (h.resolve_left nofun)⟩
        rw [State.port, errorRecord_dev]
        exact port_setPort ..
    · have hlanes := Nat.mod_lt st.fresh.1.toNat (by decide : 4 > 0)
      refine ⟨_, _, execLinkTrainingDone_up hs hd, port_setPort .., ?_, ?_⟩ <;> rw [BitVec.toNat_ofNat] <;> omega
  case strand =>
    intro t s
    obtain ⟨x, h⟩ := strandError_cases i st
    exact ⟨x, _, execUncorrectableError_strand hlive, h⟩
  case engine =>
    intro ws
    refine ⟨fun h => congrArg Host.Outcome.next (engineError_idle h), fun h => ?_⟩
    obtain ⟨stop, hstop, x, he⟩ := engineError_stops h
    exact ⟨stop, hstop, x, congrArg Host.Outcome.next he⟩

end Sys2Proof.Machine
end

section
/-! PROOF. A sector of a stream completes whole or faults at the resume point (R215, R217, R222, R223, R262). -/

namespace Sys2Proof.Machine

open Sys2Proof

/-! ### Trace records and END records leave the state's rest alone (R410) -/

theorem ledger_setTrace (q : BitVec 2) (g : Quad → Trace) (s : State) : (s.modQuad q fun v => { v with trace := g v }).ledger = s.ledger :=
  ledger_modQuad (g := fun v => { v with trace := g v }) (fun _ => rfl) s

theorem ledger_bumpQuad (q : BitVec 2) (k : Fin 7) (n : Nat) (s : State) : (bumpQuad q k n s).ledger = s.ledger :=
  ledger_modQuad (g := fun v => { v with counts := v.counts.set k (v.counts.get k + BitVec.ofNat 64 n) }) (fun _ => rfl) s

theorem ledger_traceEvent (i : StrandId) (pipe : Nat) (fin : Bool) (n : Nat) (m : StripName) (pc : Addr) (s : State) :
    (traceEvent i pipe fin n m pc s).ledger = s.ledger := by
  unfold traceEvent trace
  dsimp only
  split
  · rfl
  · split
    · rw [traceLost, ledger_setTrace, ledger_bumpQuad, ledger_hwWrite]
    · rw [ledger_setTrace]

@[simp] theorem endMoving_tile (i : StrandId) (x : Stream) (s : State) (u : TileId) : (endMoving i x s).tile u = s.tile u := by
  unfold endMoving
  split
  · exact traceEvent_tile ..
  · rfl

@[simp] theorem unlinked_endMoving (i : StrandId) (x : Stream) (s : State) (j : StrandId) :
    ((endMoving i x s).strand j).unlinked = (s.strand j).unlinked := by
  unfold endMoving
  split
  · exact unlinked_traceEvent ..
  · rfl

theorem ledger_endMoving (i : StrandId) (x : Stream) (s : State) : (endMoving i x s).ledger = s.ledger := by
  unfold endMoving
  split
  · exact ledger_traceEvent ..
  · rfl

/-! ### The end of a stream (R223) -/

/-- The end of a stream before its trace records, its buffer or tag not yet completed. -/
def vacateStream (u : TileId) (k : Nat) (x : Stream) (s : State) : State :=
  (releaseRanges u k (s.modStrand ⟨.tile u, x.issuer⟩ (·.raise x.flags))).modTile u fun v => { v with streams := amDel k v.streams }

section
variable {x : Stream} (u : TileId) (k : Nat) (s : State)

/-- A stream into a Tundish buffer fills it (R230). -/
theorem finishStream_tundish {b : Nat} (h : x.kind = .tundish b) : ∃ f : Strand → Strand,
    finishStream u k x s = traceEvent ⟨.tile u, x.issuer⟩ 0 true x.seq x.strip x.pc
      (endMoving ⟨.tile u, x.issuer⟩ x ((vacateStream u k x s).modStrand ⟨.tile u, x.issuer⟩ f)) := by
  simp only [finishStream, h]
  exact ⟨_, rfl⟩

/-- Any other stream completes its tag. -/
theorem finishStream_tag (h : ∀ b, x.kind ≠ .tundish b) :
    finishStream u k x s = traceEvent ⟨.tile u, x.issuer⟩ 0 true x.seq x.strip x.pc
      (endMoving ⟨.tile u, x.issuer⟩ x (setTag u x.ch ((s.tile u).tag x.ch).complete (vacateStream u k x s))) := by
  have htag : ((vacateStream u k x s).tile u).tag x.ch = (s.tile u).tag x.ch := by
    rw [vacateStream, State.tile_modTile_self]; rfl
  unfold finishStream
  dsimp only
  split
  · next hk => exact absurd hk (h _)
  · rw [← htag]; rfl

variable (h : ∀ b, x.kind ≠ .tundish b)
include h

theorem finishStream_streams : amGet k ((finishStream u k x s).tile u).streams = none := by
  rw [finishStream_tag u k s h, traceEvent_tile, endMoving_tile, setTag, State.tile_modTile_self, vacateStream, State.tile_modTile_self]
  simp [amGet_amDel]

theorem finishStream_busy : (((finishStream u k x s).tile u).tag x.ch).busy = false := by
  rw [finishStream_tag u k s h, traceEvent_tile, endMoving_tile, tag_setTag_self]
  rfl

theorem finishStream_fcsr (i : StrandId) (hi : i = ⟨.tile u, x.issuer⟩) :
    ((finishStream u k x s).strand i).fcsr = ((s.strand i).raise x.flags).fcsr := by
  subst hi
  rw [finishStream_tag u k s h]
  calc _ = ((setTag u x.ch ((s.tile u).tag x.ch).complete (vacateStream u k x s)).strand ⟨.tile u, x.issuer⟩).fcsr :=
        Strand.of_unlinked (·.fcsr) (fun _ => rfl) (by rw [unlinked_traceEvent, unlinked_endMoving])
    _ = _ := congrArg Strand.fcsr (State.strand_modStrand_self s ⟨.tile u, x.issuer⟩ (·.raise x.flags))

theorem finishStream_ranges : (finishStream u k x s).ranges = s.ranges.filter fun r => !(r.tile = u && r.slot = k) := by
  rw [finishStream_tag u k s h, ranges_of_ledger (ledger_traceEvent ..), ranges_of_ledger (ledger_endMoving ..)]
  rfl

end

/-! ### Arrivals at a tag (R222, R223, R225) -/

namespace Tag

variable {g : Tag} {n : Nat}

theorem arrive_of_frozen (h : g.frozen = true) : (g.arrive n).1 = g := by simp [Tag.arrive, h]

/-- Short of EXP, or with no phase posted, the bytes add up; the sum saturates at 32 bits. -/
theorem arrive_short (hf : g.frozen = false) (h : g.posted = false ∨ min (g.arr.toNat + n) (2 ^ 32 - 1) < g.exp.toNat) :
    (g.arrive n).1 = { g with arr := BitVec.ofNat 32 (min (g.arr.toNat + n) (2 ^ 32 - 1)) } := by
  rw [Tag.arrive, if_neg (by simp [hf]), if_neg, if_neg]
  all_goals
    simp only [Bool.and_eq_true, decide_eq_true_eq, not_and]
    intro hp
    have := h.resolve_left (by simp [hp])
    omega

/-- At EXP the posted phase is over. -/
theorem arrive_full (hf : g.frozen = false) (hp : g.posted = true) (h : min (g.arr.toNat + n) (2 ^ 32 - 1) = g.exp.toNat) :
    (g.arrive n).1 = g.completePhase := by
  rw [Tag.arrive, if_neg (by simp [hf]), if_pos (by rw [hp, Bool.true_and]; exact decide_eq_true h)]

/-- Beyond EXP the tag freezes. -/
theorem arrive_beyond (hf : g.frozen = false) (hp : g.posted = true) (h : g.exp.toNat < min (g.arr.toNat + n) (2 ^ 32 - 1)) :
    (g.arrive n).1 = { g with arr := BitVec.ofNat 32 (min (g.arr.toNat + n) (2 ^ 32 - 1)), frozen := true } := by
  rw [Tag.arrive, if_neg (by simp [hf]), if_neg (by simp; omega), if_pos (by simp only [Bool.and_eq_true, decide_eq_true_eq]; exact ⟨hp, h⟩)]

end Tag

theorem toNat_ofNat_saturated (n : Nat) : (BitVec.ofNat 32 (min n (2 ^ 32 - 1))).toNat = min n (2 ^ 32 - 1) := by
  rw [BitVec.toNat_ofNat]
  omega

/-- A change of one tile that keeps something of it keeps it in every tile. -/
theorem modTile_keeps {α : Type} (p : Tile → α) {f : Tile → Tile} (hf : ∀ v, p (f v) = p v) (s : State) (t u : TileId) :
    p ((s.modTile t f).tile u) = p (s.tile u) := by
  rw [State.tile_modTile]
  split
  · next h => rw [hf, h]
  · rfl

section
variable (t : TileId) (ch : BitVec 6) (n : Nat) (s : State)

/-- An arrival changes one tag of one tile; a trap of its owner leaves the tiles alone. -/
theorem arrive_tile (u : TileId) : (arrive t ch n s).tile u = (setTag t ch (((s.tile t).tag ch).arrive n).1 s).tile u := by
  unfold arrive overrun
  dsimp only
  repeat' split
  all_goals rfl

theorem arrive_tag_self : ((arrive t ch n s).tile t).tag ch = (((s.tile t).tag ch).arrive n).1 := by
  rw [arrive_tile, tag_setTag_self]

theorem arrive_tag_ne {u : TileId} (h : u ≠ t) : ((arrive t ch n s).tile u).tag ch = (s.tile u).tag ch := by
  rw [arrive_tile, setTag, State.tile_modTile_ne _ _ h]

theorem arrive_full_bits (u : TileId) : ((arrive t ch n s).tile u).full = (s.tile u).full := by
  rw [arrive_tile]
  exact modTile_keeps Tile.full (fun _ => by rfl) s t u

end

/-- The bits of each tile's writes arrive as whole bytes. -/
def arriveAll (ch : BitVec 6) (l : List (TileId × Nat)) (s : State) : State := l.foldl (fun s (t, b) => arrive t ch ((b + 7) / 8) s) s

section
variable (ch : BitVec 6) (w : TileId)

theorem arriveAll_full_bits (l : List (TileId × Nat)) (s : State) : ((arriveAll ch l s).tile w).full = (s.tile w).full :=
  foldl_keeps (fun s => (s.tile w).full) (fun s p => by exact arrive_full_bits p.1 ch _ s w) l s

theorem arriveAll_tag_of_not_mem {l : List (TileId × Nat)} (h : w ∉ l.map (·.1)) (s : State) :
    ((arriveAll ch l s).tile w).tag ch = (s.tile w).tag ch := by
  induction l generalizing s with
  | nil => rfl
  | cons p r ih =>
    rw [List.map_cons, List.mem_cons, not_or] at h
    rw [arriveAll, List.foldl_cons]
    exact (ih h.2 _).trans (arrive_tag_ne _ _ _ _ h.1)

/-- Where no tile is listed twice, a listed tile's tag takes its bytes in one arrival. -/
theorem arriveAll_tag {l : List (TileId × Nat)} (hn : (l.map (·.1)).Nodup) {bits : Nat} (h : amGet w l = some bits) (s : State) :
    ((arriveAll ch l s).tile w).tag ch = (((s.tile w).tag ch).arrive ((bits + 7) / 8)).1 := by
  induction l generalizing s with
  | nil => cases h
  | cons p r ih =>
    obtain ⟨t, b⟩ := p
    rw [List.map_cons, List.nodup_cons] at hn
    rw [amGet] at h
    rw [arriveAll, List.foldl_cons]
    split at h
    · next hw =>
      cases h
      subst hw
      exact (arriveAll_tag_of_not_mem ch w hn.1 _).trans (arrive_tag_self ..)
    · next hw => exact (ih hn.2 h _).trans (by rw [arrive_tag_ne _ _ _ _ hw])

end

theorem keys_amSet {κ ν : Type} [DecidableEq κ] (k : κ) (v : ν) (l : List (κ × ν)) :
    (amSet k v l).map (·.1) = if k ∈ l.map (·.1) then l.map (·.1) else l.map (·.1) ++ [k] := by
  induction l with
  | nil => rfl
  | cons p r ih =>
    obtain ⟨j, y⟩ := p
    rw [amSet]
    by_cases h : k = j
    · simp [h]
    · by_cases hr : k ∈ r.map (·.1) <;> simp_all

theorem nodup_keys_amSet {κ ν : Type} [DecidableEq κ] (k : κ) (v : ν) {l : List (κ × ν)} (h : (l.map (·.1)).Nodup) :
    ((amSet k v l).map (·.1)).Nodup := by
  rw [keys_amSet]
  split
  · exact h
  · next hk => exact List.nodup_append.mpr ⟨h, by simp, by rintro a ha b hb rfl; exact hk (List.mem_singleton.mp hb ▸ ha)⟩

/-- The bits that a sector wrote are listed once for each tile. -/
theorem nodup_tmemBits (l : List (Loc × Nat × Nat)) : ((tmemBits l).map (·.1)).Nodup := by
  refine List.foldlRecOn (motive := fun m : List (TileId × Nat) => (m.map Prod.fst).Nodup) l _ List.nodup_nil fun m hm p _ => ?_
  obtain ⟨loc, n, b⟩ := p
  cases loc with
  | mem a => exact hm
  | tmem t o => exact nodup_keys_amSet _ _ hm

/-! ### Full bits of what a sector wrote (R169, R262) -/

theorem mem_insertNat {n m : Nat} {l : List Nat} : m ∈ insertNat n l ↔ m = n ∨ m ∈ l := by
  induction l with
  | nil => simp [insertNat]
  | cons a r ih =>
    rw [insertNat]
    split
    · simp
    · split
      · simp_all
      · rw [List.mem_cons, ih, List.mem_cons]; tauto

theorem mem_foldl_insertNat {m : Nat} {ns l : List Nat} : m ∈ ns.foldl (fun l g => insertNat g l) l ↔ m ∈ ns ∨ m ∈ l := by
  induction ns generalizing l with
  | nil => simp
  | cons n r ih => rw [List.foldl_cons, ih, mem_insertNat, List.mem_cons]; tauto

section
variable (l : Loc) (n : Nat) (s : State) (w : TileId)

theorem markFull_tag (ch : BitVec 6) : ((markFull l n s).tile w).tag ch = (s.tile w).tag ch := by
  unfold markFull setFull
  split
  · split
    · rfl
    · exact modTile_keeps (·.tag ch) (fun _ => by rfl) ..
  · rfl

theorem full_subset_markFull : (s.tile w).full ⊆ ((markFull l n s).tile w).full := by
  unfold markFull setFull
  split
  · split
    · exact List.Subset.refl _
    · rw [State.tile_modTile]
      split
      · next h => subst h; exact fun g hg => mem_foldl_insertNat.mpr (.inr hg)
      · exact List.Subset.refl _
  · exact List.Subset.refl _

theorem mem_full_markFull {off g : Nat} (hn : 0 < n) (ha : off / 16 ≤ g) (hb : g ≤ (off + n - 1) / 16) :
    g ∈ ((markFull (.tmem w off) n s).tile w).full := by
  rw [markFull, setFull, if_neg (by omega), State.tile_modTile_self]
  exact mem_foldl_insertNat.mpr (.inl (mem_range.mpr ⟨ha, by omega⟩))

end

/-- The full bits of everything written are set. -/
def markAll (l : List (Loc × Nat × Nat)) (s : State) : State := l.foldl (fun s (l, n, _) => markFull l n s) s

section
variable (l : List (Loc × Nat × Nat)) (s : State) (w : TileId)

theorem markAll_tag (ch : BitVec 6) : ((markAll l s).tile w).tag ch = (s.tile w).tag ch :=
  foldl_keeps (fun s => (s.tile w).tag ch) (fun s p => by exact markFull_tag p.1 _ s w ch) l s

theorem full_subset_markAll : (s.tile w).full ⊆ ((markAll l s).tile w).full := by
  induction l generalizing s with
  | nil => exact List.Subset.refl _
  | cons p r ih => exact List.Subset.trans (full_subset_markFull p.1 p.2.1 s w) (ih _)

variable {l w} in
theorem mem_full_markAll {off m bits g : Nat} (h : (Loc.tmem w off, m, bits) ∈ l) (hm : 0 < m) (ha : off / 16 ≤ g) (hb : g ≤ (off + m - 1) / 16) :
    g ∈ ((markAll l s).tile w).full := by
  induction l generalizing s with
  | nil => cases h
  | cons p r ih =>
    rcases List.mem_cons.mp h with rfl | h
    · exact full_subset_markAll r _ w (mem_full_markFull m s w hm ha hb)
    · exact ih _ h

end

/-! ### What a completed sector leaves of full bits and tags (R215, R222) -/

/-- The full bits of a tile, and what a tag holds of its phase. -/
def Tile.received (v : Tile) (ch : BitVec 6) : List Nat × BitVec 32 × Bool × Bool × Bool :=
  (v.full, (v.tag ch).arr, (v.tag ch).posted, (v.tag ch).phase, (v.tag ch).frozen)

/-- The state with a sector's full bits set and its bytes arrived, once each (log entry 69). -/
def sectorArrived (x : Stream) (j : Nat) (a : SectorRun) : State :=
  if x.counted.contains j then markAll a.wrote a.st else arriveAll x.ch (tmemBits a.wrote) (markAll a.wrote a.st)

/-- The stream with a sector done. -/
def Stream.settled (x : Stream) (j : Nat) (a : SectorRun) : Stream :=
  { x with done := insertNat j x.done, counted := insertNat j x.counted, flags := x.flags ||| a.flags, regdue := false }

/-- The state with a sector done, before a last one ends its stream. -/
def sectorSettled (u : TileId) (k : Nat) (x : Stream) (j : Nat) (a : SectorRun) : State :=
  let s := bump u 9 (((x.positions j).length * x.wide + 7) / 8) (sectorArrived x j a)
  let s := match x.kind with | .fabric => feedTokens u x.ch a.toks s | _ => s
  passLines u k (x.settled j a) (setStream u k (x.settled j a) (installLines (a.wrote.flatMap fun (l, n, _) => l.lines n).eraseDups s))

theorem settleSector_eq (u : TileId) (k : Nat) (x : Stream) (j : Nat) (a : SectorRun) :
    settleSector u k x j a = if (x.settled j a).spent ((sectorSettled u k x j a).tile u) then
      finishStream u k (x.settled j a) (sectorSettled u k x j a) else sectorSettled u k x j a := rfl

@[simp] theorem installLine_tiles (line : Nat) (s : State) : (installLine line s).tiles = s.tiles := by
  unfold installLine
  split
  · rfl
  · simp [makeRoom]

theorem installLines_tile (ls : List Line) (s : State) (w : TileId) : (installLines ls s).tile w = s.tile w := by
  refine foldl_keeps (·.tile w) (fun s l => ?_) ls s
  cases l with
  | mem n => exact State.tile_of_tiles (installLine_tiles n s) w
  | tmem t k => rfl
  | om t k => rfl

section
variable (ch : BitVec 6) (u : TileId) (k : Nat) (x : Stream) (s : State) (w : TileId)

theorem feedTokens_received (c : BitVec 6) (ts : List Token) : ((feedTokens u c ts s).tile w).received ch = (s.tile w).received ch :=
  modTile_keeps (·.received ch) (fun v => by dsimp only; split <;> rfl) ..

theorem setStream_received : ((setStream u k x s).tile w).received ch = (s.tile w).received ch :=
  modTile_keeps (·.received ch) (fun _ => by rfl) ..

theorem passLines_tile : (passLines u k x s).tile w = s.tile w := rfl

theorem vacateStream_received : ((vacateStream u k x s).tile w).received ch = (s.tile w).received ch :=
  modTile_keeps (·.received ch) (fun _ => by rfl) ..

theorem completeTag_received : ((setTag u ch ((s.tile u).tag ch).complete s).tile w).received ch = (s.tile w).received ch := by
  rw [setTag, State.tile_modTile]
  split
  · next h => subst h; simp [Tile.received, Tile.tag, Tag.complete]
  · rfl

theorem finishStream_received : ((finishStream u k x s).tile w).received x.ch = (s.tile w).received x.ch := by
  by_cases h : ∃ b, x.kind = .tundish b
  · obtain ⟨b, h⟩ := h
    obtain ⟨f, hf⟩ := finishStream_tundish u k s h
    rw [hf, traceEvent_tile, endMoving_tile, State.tile_modStrand, vacateStream_received]
  · have htag : ((vacateStream u k x s).tile u).tag x.ch = (s.tile u).tag x.ch := by rw [vacateStream, State.tile_modTile_self]; rfl
    rw [finishStream_tag u k s (not_exists.mp h), traceEvent_tile, endMoving_tile, ← htag, completeTag_received, vacateStream_received]

theorem sectorSettled_received (j : Nat) (a : SectorRun) :
    ((sectorSettled u k x j a).tile w).received ch = ((sectorArrived x j a).tile w).received ch := by
  have hbump (n : Nat) (s : State) : ((bump u 9 n s).tile w).received ch = (s.tile w).received ch :=
    bump_keeps (·.received ch) (fun _ _ => rfl) ..
  unfold sectorSettled
  dsimp only
  rw [passLines_tile, setStream_received, installLines_tile]
  split
  · rw [feedTokens_received, hbump]
  · rw [hbump]

/-- What a completed sector does beside its arrivals leaves them as they are. -/
theorem settleSector_received (j : Nat) (a : SectorRun) :
    ((settleSector u k x j a).tile w).received x.ch = ((sectorArrived x j a).tile w).received x.ch := by
  rw [settleSector_eq]
  split
  · exact (finishStream_received ..).trans (sectorSettled_received ..)
  · exact sectorSettled_received ..

end

/-! ### Faults (R217, R392) -/

@[simp] theorem countMiss_now (c : CoreId) (a b : Bool) (s : State) : (countMiss c a b s).now = s.now := by
  unfold countMiss
  dsimp only
  repeat' split
  all_goals rfl

@[simp] theorem countFault_now (x : Xl) (c : BitVec 8) (va : Addr) (s : State) : (countFault x c va s).now = s.now := by
  unfold countFault
  dsimp only
  repeat' split
  all_goals simp

/-- Where an asynchronous trap enters a strand's list depends on that list alone. -/
theorem hear_pend_congr {t t' : Strand} (hp : t.pend = t'.pend) (hh : t.heard = t'.heard) (hn : t.news = t'.news) (z : TrapRec) (now : Nat) :
    (t.hear z now).pend = (t'.hear z now).pend := by
  simp [Strand.hear, Strand.newsAt, hp, hh, hn]

/-- An engine's fault is one asynchronous trap more at its strand. -/
theorem engineFault_pend (src : BitVec 3) (i : StrandId) (pc : Addr) (f : Flt) (n : Nat) (s : State) :
    ∃ z, ((engineFault src i pc f n s).strand i).pend = ((s.strand i).hear z s.now).pend ∧ z.cause = f.cause ∧ z.async = true := by
  refine ⟨engineRec src (s.strand i) f.cause pc f.addr (f.detail ||| BitVec.ofNat 64 n), ?_, rfl, rfl⟩
  rw [engineFault, addAsync, State.strand_modStrand_self, countFault_strand, countFault_now]

section
variable (u : TileId) (k : Nat) (x : Stream) (f : Flt) (s : State)

theorem stopStream_stream : ∃ y, amGet k ((stopStream u k x f s).tile u).streams = some y ∧ y.stopped = true ∧ y.done = x.done.filter (· < x.resume) := by
  rw [stopStream, setStream, State.tile_modTile_self]
  exact ⟨_, amGet_amSet_self .., rfl, rfl⟩

theorem stopStream_pend (i : StrandId) (hi : i = ⟨.tile u, x.issuer⟩) :
    ∃ z, ((stopStream u k x f s).strand i).pend = ((s.strand i).hear z s.now).pend ∧ z.cause = f.cause ∧ z.async = true := by
  subst hi
  obtain ⟨z, hz, hc⟩ := engineFault_pend (match x.kind with | .tundish _ => 3 | _ => 2) ⟨.tile u, x.issuer⟩ x.pc f (x.detail x.resume)
    ((endMoving ⟨.tile u, x.issuer⟩ x s).modStrand ⟨.tile u, x.issuer⟩ (·.raise x.flags))
  have hold {α : Type} (p : Strand → α) (hp : ∀ t, p t.unlinked = p t) :
      p ((endMoving ⟨.tile u, x.issuer⟩ x s).strand ⟨.tile u, x.issuer⟩) = p (s.strand ⟨.tile u, x.issuer⟩) :=
    Strand.of_unlinked p hp (unlinked_endMoving ..)
  refine ⟨z, hz.trans ?_, hc⟩
  rw [State.strand_modStrand_self, State.now_modStrand, now_of_ledger (ledger_endMoving ..)]
  exact hear_pend_congr (hold Strand.pend fun _ => rfl) (hold Strand.heard fun _ => rfl) (hold Strand.news fun _ => rfl) ..

end

theorem readRows_stream {g : Eng} {rs : List Nat} {x y : Stream} {s r : State} (h : readRows g rs x s = some (y, r)) :
    ∃ rows, y = { x with rows := rows } := by
  induction rs generalizing x s with
  | nil => cases h; exact ⟨_, rfl⟩
  | cons row rs ih =>
    rw [readRows] at h
    split at h
    · split at h
      · cases h
      · exact ih h
      · obtain ⟨rows, rfl⟩ := ih h
        exact ⟨rows, rfl⟩
    · exact ih h

/-- Working a sector changes of its stream what has been read of its indices, and that it moves. -/
theorem workSector_stream {u : TileId} {k j : Nat} {x y : Stream} {a : SectorRun} {r : Option (Option Flt)} {s : State}
    (h : workSector u k x j s = some (y, a, r)) : ∃ rows moving, y = { x with rows := rows, moving := moving } := by
  unfold workSector at h
  dsimp only at h
  split at h
  · cases h; exact ⟨_, _, rfl⟩
  · split at h
    · cases h
    · split at h
      · cases h
      · next hr =>
        obtain ⟨rows, rfl⟩ := readRows_stream hr
        split at h
        · cases h; exact ⟨_, _, rfl⟩
        · split at h
          · cases h
          · cases h; exact ⟨_, _, rfl⟩

/-! ### The events -/

section
variable {st : State} {u : TileId} {k j : Nat} {x : Stream} (hw : (st.tile u).works = true) (hx : amGet k (st.tile u).streams = some x)
include hw hx

theorem execSectorComplete_spent (hs : x.spent (st.tile u) = true) : execSectorComplete u k j st = .next (finishStream u k x st) := by
  simp [execSectorComplete, hw, hx, hs]

theorem execSectorComplete_settles {y : Stream} {a : SectorRun} (hs : x.spent (st.tile u) = false) (ha : x.allows u j st = true)
    (hwork : workSector u k x j st = some (y, a, none)) : execSectorComplete u k j st = .next (settleSector u k y j a) := by
  simp [execSectorComplete, hw, hx, hs, ha, hwork]

/-- The writes of the failing sector stand or do not (R215). -/
theorem execStreamFault_stops {y : Stream} {a : SectorRun} {f : Flt} (hs : x.spent (st.tile u) = false) (ha : x.allows u x.resume st = true)
    (hwork : workSector u k x x.resume st = some (y, a, some (some f))) :
    execStreamFault u k st = .next (stopStream u k { y with flags := x.flags ||| a.flags } f { a.st with free := st.free + 1 }) ∨
      execStreamFault u k st = .next (stopStream u k x f { st with free := st.free + 1 }) := by
  simp only [execStreamFault, hw, hx, hs, ha, hwork, Bool.not_true, Bool.or_self, Bool.false_eq_true, if_false, event_some, freeState]
  split
  · exact .inl rfl
  · exact .inr rfl

end

section
variable {x : Stream} {j : Nat} {a : SectorRun} {u : TileId} {k : Nat} {w : TileId}

/-- R169, R262: a completed sector has set the full bits of what it wrote. -/
theorem settleSector_full {off m bits g : Nat} (h : (Loc.tmem w off, m, bits) ∈ a.wrote) (hm : 0 < m) (hlo : off / 16 ≤ g)
    (hhi : g ≤ (off + m - 1) / 16) : g ∈ ((settleSector u k x j a).tile w).full := by
  have hfull : ((settleSector u k x j a).tile w).full = ((markAll a.wrote a.st).tile w).full := by
    refine (congrArg (·.1) (settleSector_received u k x w j a)).trans ?_
    simp only [Tile.received, sectorArrived]
    split
    · rfl
    · exact arriveAll_full_bits ..
  rw [hfull]
  exact mem_full_markAll _ h hm hlo hhi

/-- R222: its bytes have arrived at the tag of each tile it wrote, once. -/
theorem settleSector_tag {bits : Nat} (h : amGet w (tmemBits a.wrote) = some bits) :
    let g := (a.st.tile w).tag x.ch
    let g' := if x.counted.contains j then g else (g.arrive ((bits + 7) / 8)).1
    let r := ((settleSector u k x j a).tile w).tag x.ch
    r.arr = g'.arr ∧ r.posted = g'.posted ∧ r.phase = g'.phase ∧ r.frozen = g'.frozen := by
  intro g g' r
  have htag : ((sectorArrived x j a).tile w).tag x.ch = g' := by
    unfold sectorArrived
    split
    · next hc => rw [markAll_tag]; exact (if_pos hc).symm
    · next hc =>
      rw [arriveAll_tag x.ch w (nodup_tmemBits _) h, markAll_tag]
      exact (if_neg hc).symm
  rw [← htag]
  simpa [Tile.received, r] using congrArg Prod.snd (settleSector_received u k x w j a)

end

/-- Settles O38: the end of a stream, a sector's full bits and arrivals, and the one trap of a fault, each read off the event's state. -/
theorem sectorsCompleteOrFault : Obligations.SectorsCompleteOrFault := by
  intro st u k j x hw hx i
  refine ⟨fun hs hk => ?_, fun y a hs ha hwork => ?_, fun hs ha y a f hwork hpend hheard hnews hnow => ?_⟩
  · refine ⟨_, execSectorComplete_spent hw hx hs, finishStream_streams u k st hk, finishStream_busy u k st hk, finishStream_fcsr u k st hk i rfl, ?_⟩
    intro q hq
    rw [finishStream_ranges u k st hk] at hq
    simpa [imp_iff_not_or] using (List.mem_filter.mp hq).2
  · refine ⟨execSectorComplete_settles hw hx hs ha hwork, fun w off m bits h hm g => settleSector_full h hm, fun w bits hbits => ?_⟩
    obtain ⟨harr, hposted, hphase, hfrozen⟩ := settleSector_tag (u := u) (k := k) (j := j) (x := y) hbits
    intro g h sum
    rw [harr, hposted, hphase, hfrozen]
    refine ⟨fun hc => ?_, fun hc hf => ?_⟩
    · split
      · exact ⟨rfl, rfl⟩
      · next hn => rw [Tag.arrive_of_frozen (hc.resolve_left hn)]; exact ⟨rfl, rfl⟩
    · rw [if_neg (by rw [hc]; decide)]
      refine ⟨fun hshort => ?_, fun hp hsum => ?_, fun hp hsum => ?_⟩
      · rw [Tag.arrive_short hf hshort]
        exact ⟨toNat_ofNat_saturated _, rfl, hf⟩
      · rw [Tag.arrive_full hf hp hsum]
        exact ⟨rfl, rfl, rfl, hf⟩
      · rw [Tag.arrive_beyond hf hp hsum]
        exact ⟨toNat_ofNat_saturated _, rfl⟩
  · obtain ⟨rows, moving, rfl⟩ := workSector_stream hwork
    rcases execStreamFault_stops hw hx hs ha hwork with h | h
    · obtain ⟨y, hy, hstop, hdone⟩ := stopStream_stream u k { x with rows := rows, moving := moving, flags := x.flags ||| a.flags } f
        { a.st with free := st.free + 1 }
      obtain ⟨z, hz, hc⟩ := stopStream_pend u k { x with rows := rows, moving := moving, flags := x.flags ||| a.flags } f
        { a.st with free := st.free + 1 } i rfl
      refine ⟨_, y, z, h, hy, hstop, hdone, hz.trans ?_, hc⟩
      rw [← hnow]
      exact hear_pend_congr hpend hheard hnews z a.st.now
    · obtain ⟨y, hy, hstop, hdone⟩ := stopStream_stream u k x f { st with free := st.free + 1 }
      obtain ⟨z, hz, hc⟩ := stopStream_pend u k x f { st with free := st.free + 1 } i rfl
      exact ⟨_, y, z, h, hy, hstop, hdone, hz, hc⟩

end Sys2Proof.Machine
end

section
/-! PROOF. Fences and cache-control instructions at issue (R249, R269, R278, R279). -/

namespace Sys2Proof.Machine

open Sys2Proof

/-! ### Fences (R249) -/

section
variable {st : State} {i : StrandId}

theorem queueFence_onControl (op : VOp) (hi : MayIssue st i) (hc : onControl i = true) : queueFence op st = .next (advance i 4 st) :=
  issue_ok hi.1 hi.2 (if_pos hc)

theorem queueFence_enters (op : VOp) (hq : MayQueue st i 4) : queueFence op st = .next (queued st i 4 op none) := by
  obtain ⟨hi, htile, hroom⟩ := hq
  exact issue_ok hi.1 hi.2 ((if_neg (by simp [htile])).trans (if_neg (by simp [hroom])))

theorem execFenceVS_onControl (hi : MayIssue st i) (hc : onControl i = true) : execFenceVS st = .next (advance i 4 st) :=
  issue_ok hi.1 hi.2 (if_pos hc)

/-- FENCE.VS retires where no vector-class instruction that accesses memory is outstanding, on either kind of core. -/
theorem execFenceVS_retires (hi : MayIssue st i) (hm : (st.strand i).live.any (·.op.memory) = false) : execFenceVS st = .next (advance i 4 st) := by
  refine issue_ok hi.1 hi.2 ?_
  by_cases hc : onControl i = true
  · exact if_pos hc
  · rw [if_neg hc, if_neg (by simp [hm])]

/-- The mark of a releasing fence: the number of the instruction, behind which the fence holds back what it names. -/
def releaseMarked (i : StrandId) (n : Nat) (s : State) : State := s.modStrand i fun r => { r with relFence := some n }

variable (c : BitVec 3) (hi : MayIssue st i)
include hi

theorem execFence_acquires (hl : (st.strand i).lates = []) (hv : (st.strand i).live.any (·.op.loads) = false) :
    execFence 1 c st = .next (advance i 4 st) := by
  have hret : (st.strand i).returned = true := by simp only [Strand.returned, hl, hv, List.isEmpty_nil, Bool.not_false, Bool.and_self]
  exact issue_ok hi.1 hi.2 ((if_pos rfl).trans (if_pos hret))

theorem execFence_releases : execFence 2 c st = .next (releaseMarked i (st.strand i).issued (advance i 4 st)) :=
  issue_ok hi.1 hi.2 ((if_neg (by decide)).trans (if_pos rfl))

theorem execFence_full (ho : (st.strand i).owing (st.strand i).issued = false) :
    execFence 3 c st = .next (releaseMarked i (st.strand i).issued (advance i 4 st)) :=
  issue_ok hi.1 hi.2 ((if_neg (by decide)).trans ((if_neg (by decide)).trans (if_neg (by simp [ho]))))

end

/-! ### A translation leaves the reservations as they are (R156, R220) -/

/-- How an access meets the reservations depends on the registered ones alone. -/
theorem meets_of_ranges {s f : State} (h : f.ranges = s.ranges) (k : Option (TileId × Nat)) (w : Bool) (l : Loc) (n : Nat) :
    f.meets k w l n = s.meets k w l n := by
  cases l with
  | tmem t o => rfl
  | mem a => simp only [State.meets, h]

theorem countMiss_ranges (c : CoreId) (a b : Bool) (s : State) : (countMiss c a b s).ranges = s.ranges := by
  unfold countMiss
  cases c <;> cases a <;> cases b <;> rfl

theorem enterTlbs_ranges (x : Xl) (h : TlbEntry) (s : State) : (enterTlbs x h s).ranges = s.ranges := by
  unfold enterTlbs
  dsimp only
  split <;> rfl

theorem markTables_ranges (c : CtxEntry) (acc : Access) (va : Addr) (e : BitVec 128) (ea : Nat) (s : State) :
    (markTables c acc va e ea s).ranges = s.ranges := by
  have hread (l : List Nat) : (l.foldl (fun s a => untranslated a 16 s) s).ranges = s.ranges :=
    foldl_keeps State.ranges (f := fun s a => untranslated a 16 s) (fun _ _ => rfl) l s
  unfold markTables
  dsimp only
  split
  · exact hread _
  · exact (ranges_of_ledger (ledger_hwWrite ..)).trans (hread _)

theorem walkFill_ranges {x : Xl} {c : CtxEntry} {acc : Access} {va : Addr} {s f : State} {h : TlbEntry} (hf : walkFill x c acc va s = .ok (h, f)) :
    f.ranges = s.ranges := by
  obtain ⟨e, lvl, ea, -, rfl⟩ := walkFill_ok hf
  exact (enterTlbs_ranges ..).trans (markTables_ranges ..)

theorem leafPhys_ranges {lvl : Level} {acc : Access} {va : Addr} {h : TlbEntry} {s f : State} {p : Phys}
    (hp : leafPhys lvl acc va h s = .ok (p, f)) : f.ranges = s.ranges := by
  obtain rfl | rfl := leafPhys_state hp <;> rfl

theorem noteDomain_ranges (p : Phys) (s : State) : (noteDomain p s).ranges = s.ranges := by
  unfold noteDomain
  split
  · rfl
  · split <;> rfl

/-- A translation that takes nothing from the state leaves it as it is. -/
theorem eq_of_map_ok {r : Except Flt Phys} {s f : State} {p : Phys} (h : r.map (·, s) = .ok (p, f)) : f = s := by
  cases r with
  | error e => cases h
  | ok a => cases h; rfl

theorem resolve_ranges {x : Xl} {va : Addr} {acc : Access} {s f : State} {p : Phys} (h : resolve x va acc s = .ok (p, f)) :
    f.ranges = s.ranges := by
  unfold resolve at h
  split at h
  · rw [eq_of_map_ok h]
  split at h
  · rw [eq_of_map_ok h]
  split at h
  · cases h
  split at h
  · cases h
  dsimp only at h
  split at h
  · exact (leafPhys_ranges h).trans (countMiss_ranges ..)
  split at h
  · cases h
  next hw => exact (leafPhys_ranges h).trans ((walkFill_ranges hw).trans (countMiss_ranges ..))

theorem translate_ranges {x : Xl} {va : Addr} {acc : Access} {s f : State} {p : Phys} (h : translate x va acc s = .ok (p, f)) :
    f.ranges = s.ranges := by
  unfold translate at h
  split at h
  · cases h
  next hr =>
    cases h
    exact (noteDomain_ranges ..).trans (resolve_ranges hr)

theorem strandXl_ranges (i : StrandId) (s : State) : (strandXl i s).2.ranges = s.ranges := by
  unfold strandXl
  dsimp only
  split
  · rfl
  · rfl
  · split <;> rfl

theorem Finds.ranges_eq {st s : State} {i : StrandId} {len : Nat} {ea : Addr} {acc : Access} {p : Phys} (h : Finds st i len ea acc p s) :
    s.ranges = (advance i len st).ranges :=
  (translate_ranges (orTrap_ok h)).trans (strandXl_ranges ..)

/-! ### CPF (R269, R278) -/

section
variable {st : State} {i : StrandId} {a : BitVec 4} (w : BitVec 1) (hi : MayIssue st i)
include hi

/-- CPF of an address that no translation serves, that is of device class, or whose line meets no SPLIT reservation to cut, does nothing. -/
theorem execCpf_idle
    (h : ∀ p z, Finds st i 4 ((st.strand i).ar a) .read p z → p.device = true ∨ z.meets none false p.loc.lineBase 128 ≠ .cut) :
    execCpf a w st = .next (advance i 4 st) := by
  refine issue_ok hi.1 hi.2 ?_
  cases hl : locate i (st.strand i) ((st.strand i).ar a) .read (advance i 4 st) with
  | error e => rfl
  | ok r =>
    obtain ⟨p, z⟩ := r
    have hf : Finds st i 4 ((st.strand i).ar a) .read p z := hl
    have hp := h p z hf
    rw [meets_of_ranges (Finds.ranges_eq hf)] at hp
    exact if_pos (by simpa using hp)

theorem execCpf_cuts {p : Phys} {z : State} (hf : Finds st i 4 ((st.strand i).ar a) .read p z) (hd : p.device = false)
    (hm : (advance i 4 st).meets none false p.loc.lineBase 128 = .cut) :
    execCpf a w st = .next (cutRanges none false p.loc.lineBase 128 (advance i 4 st)) := by
  have hl : locate i (st.strand i) ((st.strand i).ar a) .read (advance i 4 st) = .ok (p, z) := hf
  refine issue_ok hi.1 hi.2 ?_
  simp only [hl]
  exact if_neg (by simp [hd, hm])

end

/-! ### ISYNC (R278) -/

theorem advance_core (i : StrandId) (len : Nat) (s : State) :
    (advance i len s).core i.core = (takeSlot i (s.modStrand i (·.advance len))).core i.core := by
  unfold advance
  cases i.core with
  | tile t => simp [bumpCore, bump, State.core]
  | control q => rfl

/-- An issue takes the slot of the core, and changes no line of its instruction cache. -/
theorem advance_icache (i : StrandId) (len : Nat) (s : State) : ((advance i len s).core i.core).icache = (s.core i.core).icache := by
  rw [advance_core, takeSlot, State.core_modCore, State.core_modStrand]
  rfl

/-- Whether ISYNC of `n` bytes at an address leaves a line of the instruction cache. -/
def isyncLeaves (a n : Nat) (l : ICacheLine) : Bool := n = 0 || !(overlap a n (128 * l.line) 128 || 2 ^ 80 < a + n)

/-- The state after ISYNC: the instruction cache of the strand's core has the lines that are left. -/
def isynced (i : StrandId) (a n : Nat) (s : State) : State :=
  s.modCore i.core fun k => { k with icache := k.icache.filter (isyncLeaves a n) }

theorem execIsync_settled {st : State} {i : StrandId} {a : BitVec 4} {x : BitVec 5} (hi : MayIssue st i) (hx : Settled st i [x]) :
    execIsync a x st = .next (isynced i ((st.strand i).ar a).toNat ((st.strand i).xr x).toNat (advance i 4 st)) :=
  issue_ok hi.1 hi.2 (if_neg (by simp [hx]))

theorem isynced_icache (i : StrandId) (a n : Nat) (st : State) :
    ((isynced i a n (advance i 4 st)).core i.core).icache = (st.core i.core).icache.filter (isyncLeaves a n) := by
  rw [isynced, State.core_modCore, advance_icache]

theorem isynced_strand (i j : StrandId) (a n : Nat) (s : State) : (isynced i a n s).strand j = s.strand j := State.strand_modCore ..

/-- A line that an ISYNC of some bytes leaves lies below its range or above it. -/
theorem beside_of_isyncLeaves {a n : Nat} {l : ICacheLine} (h : isyncLeaves a n l = true) (hn : n ≠ 0) :
    128 * l.line + 128 ≤ a ∨ a + n ≤ 128 * l.line := by
  have hov : overlap a n (128 * l.line) 128 = false := by
    simp only [isyncLeaves, hn, decide_false, Bool.false_or, Bool.not_or, Bool.and_eq_true, Bool.not_eq_true'] at h
    exact h.1
  simp only [overlap, Bool.and_eq_false_iff, decide_eq_false_iff_not, not_lt] at hov
  exact hov

/-- An ISYNC of no bytes leaves every line. -/
theorem ne_zero_of_not_isyncLeaves {a n : Nat} {l : ICacheLine} (h : isyncLeaves a n l ≠ true) : n ≠ 0 := by
  rintro rfl
  exact h rfl

/-! ### Cache control by the store queue (R278, R279) -/

/-- The store-queue entry of a cache-control instruction at issue. -/
def lineEntry (k : StoreKind) (a : BitVec 4) (t : Strand) (p : Phys) : StoreEntry := ⟨k, p, t.issued, 0, t.pc, t.ar a⟩

/-- A cache-control instruction checks and translates its address as a scalar access does. -/
theorem cacheLine_eq (k : StoreKind) (acc : Access) (aligned bar : Bool) (a : BitVec 4) (st : State) :
    cacheLine k acc aligned bar a st =
      scalarAccess one (fun t => t.acquiring || t.releasing || 8 ≤ t.stores.length) (·.ar a) (if aligned then 128 else 1) acc
        (fun i t p s => if bar && p.device then .error (preciseStop t (p.barred (t.ar a) 5)) else enqueueStore i t (lineEntry k a t p) s) st := by
  cases aligned
  · simp only [scalarAccess, Bool.false_eq_true, if_false, Nat.mod_one, bne_self_eq_false]
    rfl
  · rfl

/-- A cache-control instruction that nothing holds back enters the store queue, where its line meets no TRAP reservation. -/
theorem cacheLine_enters {st s : State} {i : StrandId} {k : StoreKind} {acc : Access} {aligned bar : Bool} {a : BitVec 4} {p : Phys}
    (hi : MayIssue st i) (hacq : (st.strand i).acquiring = false) (hrel : (st.strand i).releasing = false)
    (hlen : (st.strand i).stores.length < 8) (ha : ((st.strand i).ar a).toNat % (if aligned then 128 else 1) = 0)
    (hf : Finds st i 4 ((st.strand i).ar a) acc p s) (hbar : (bar && p.device) = false)
    (hm : s.meets none k.writes (lineEntry k a (st.strand i) p).span.1 (lineEntry k a (st.strand i) p).span.2 ≠ .trap) :
    cacheLine k acc aligned bar a st = .next (s.modStrand i fun r => { r with stores := r.stores ++ [lineEntry k a (st.strand i) p] }) := by
  rw [cacheLine_eq]
  refine scalarAccess_completes hi (by simp [hacq, hrel, hlen]) ha hf ?_
  rw [hbar]
  exact enqueueStore_of_free hm

/-- Settles O34: each fence by its own condition, CPF by the reservations that its translation leaves, ISYNC by the lines that it leaves, and the four
forms that enter the store queue as one operation. -/
theorem fencesAndCacheControlComplete : Obligations.FencesAndCacheControlComplete := by
  intro st i hi t s
  refine ⟨fun hc => ⟨queueFence_onControl .fenceSV hi hc, queueFence_onControl .fenceVV hi hc, execFenceVS_onControl hi hc⟩,
    fun hq => ⟨queueFence_enters .fenceSV hq, queueFence_enters .fenceVV hq⟩, execFenceVS_retires hi,
    fun c => ⟨execFence_acquires c hi, execFence_releases c hi, execFence_full c hi⟩,
    fun a w => ⟨execCpf_idle w hi, fun p z => execCpf_cuts w hi⟩, fun a x hx => ?isync, fun a p w hacq hrel hlen => ?cacheControl⟩
  case isync =>
    refine ⟨_, execIsync_settled hi hx, ?_, ?_, ?_, ?_, fun j => isynced_strand .., ?_⟩
    · rw [isynced_strand, advance_strand_self]
      rfl
    · intro l hl
      rw [isynced_icache] at hl
      exact (List.mem_filter.mp hl).1
    · intro l hl hgone
      rw [isynced_icache] at hgone
      exact ne_zero_of_not_isyncLeaves fun hleft => hgone (List.mem_filter.mpr ⟨hl, hleft⟩)
    · intro l hl
      rw [isynced_icache] at hl
      exact beside_of_isyncLeaves (List.mem_filter.mp hl).2
    · rw [isynced, State.mem_modCore, advance_mem]
  case cacheControl =>
    have hone : (t.ar a).toNat % 1 = 0 := Nat.mod_one _
    exact ⟨fun hf => ⟨cacheLine_enters hi hacq hrel hlen hone hf rfl, cacheLine_enters hi hacq hrel hlen hone hf rfl⟩,
      fun hf hd => ⟨cacheLine_enters hi hacq hrel hlen hone hf hd, fun ha => cacheLine_enters hi hacq hrel hlen ha hf hd⟩⟩

end Sys2Proof.Machine
end

section
/-! PROOF. Matrix instructions at issue (R281, R284 to R286, R290, R291, R296, R299, R300). -/

namespace Sys2Proof.Machine

open Sys2Proof

/-! ### What an issue leaves of the matrix state of a tile -/

section
variable (i : StrandId) (len : Nat) (s : State) (u : TileId)

@[simp] theorem advance_region : ((advance i len s).tile u).region = (s.tile u).region :=
  advance_tile_keeps Tile.region (fun _ _ => rfl) (fun _ _ => rfl) ..

@[simp] theorem advance_mode : ((advance i len s).tile u).mode = (s.tile u).mode :=
  advance_tile_keeps Tile.mode (fun _ _ => rfl) (fun _ _ => rfl) ..

@[simp] theorem advance_mats : ((advance i len s).tile u).mats = (s.tile u).mats :=
  advance_tile_keeps Tile.mats (fun _ _ => rfl) (fun _ _ => rfl) ..

@[simp] theorem advance_acc : ((advance i len s).tile u).acc = (s.tile u).acc :=
  advance_tile_keeps Tile.acc (fun _ _ => rfl) (fun _ _ => rfl) ..

@[simp] theorem advance_qacc : ((advance i len s).tile u).qacc = (s.tile u).qacc :=
  advance_tile_keeps Tile.qacc (fun _ _ => rfl) (fun _ _ => rfl) ..

@[simp] theorem advance_contextIn (r : BitVec 2) : ((advance i len s).tile u).contextIn r = (s.tile u).contextIn r :=
  advance_tile_keeps (Tile.contextIn · r) (fun _ _ => rfl) (fun _ _ => rfl) ..

@[simp] theorem advance_owns (b : BitVec 3) (first count : Nat) :
    ((advance i len s).tile u).owns b first count = (s.tile u).owns b first count :=
  advance_tile_keeps (Tile.owns · b first count) (fun _ _ => rfl) (fun _ _ => rfl) ..

@[simp] theorem advance_tmemSide (ea : Addr) (n : Nat) : tmemSide ((advance i len s).tile u) ea n = tmemSide (s.tile u) ea n :=
  advance_tile_keeps (tmemSide · ea n) (fun _ _ => rfl) (fun _ _ => rfl) ..

end

/-! ### Requests for leave, records and places in the array queue -/

@[simp] theorem requestLeave_strand (u : TileId) (s : State) (j : StrandId) : (requestLeave u s).strand j = s.strand j := rfl

@[simp] theorem requestLeave_tile (u w : TileId) (s : State) : (requestLeave u s).tile w = s.tile w := rfl

@[simp] theorem askLeave_strand (u : TileId) (s : State) (j : StrandId) : (askLeave u s).strand j = s.strand j := by
  unfold askLeave
  split <;> rfl

@[simp] theorem askLeave_tile (u w : TileId) (s : State) : (askLeave u s).tile w = s.tile w := by
  unfold askLeave
  split <;> rfl

@[simp] theorem noteBoth_tile (i : StrandId) (t : Strand) (s : State) (u : TileId) : (noteBoth i t s).tile u = s.tile u := by
  simp [noteBoth]

@[simp] theorem noteBoth_xr (i : StrandId) (t : Strand) (s : State) (j : StrandId) (r : BitVec 5) : (noteBoth i t s).xr j r = s.xr j r := by
  simp [noteBoth]

theorem settled_of_subset {st : State} {i : StrandId} {rs xs : List (BitVec 5)} (h : Settled st i rs) (hs : xs ⊆ rs) : Settled st i xs :=
  List.any_eq_false.mpr fun r hr => List.any_eq_false.mp h r (hs hr)

/-- No code of R291 applies where none of the conditions holds. -/
theorem lowestCode_none {l : List (Nat × Bool)} (h : ∀ p ∈ l, p.2 = false) : lowestCode l = none := by
  rw [lowestCode, List.find?_eq_none.mpr fun p hp => by simp [h p hp]]
  rfl

theorem field_low (v n : Nat) : field v 0 n = v % 2 ^ n := by simp [field]

section
variable {u : TileId} {i : StrandId} {t : Strand} {op : MatOp} {s : State}

/-- A matrix operation in a region, to which no code applies and whose slots its strand owns, takes a place in an array queue that has room. -/
theorem enterOp_enters {code : Option Nat} {runs : List (Nat × Nat)} (hr : (s.tile u).region ≠ 0) (hcode : code = none)
    (hruns : ∀ p ∈ runs, (s.tile u).owns i.slot p.1 p.2 = true) (hroom : (s.tile u).mats.length < 4) :
    enterOp u i t code runs op s = .ok (enterQueue u i t op s) := by
  have hown : (runs.any fun p => !(s.tile u).owns i.slot p.1 p.2) = false := List.any_eq_false.mpr fun p hp => by simp [hruns p hp]
  have hfull : (s.tile u).arrayFull = false := by simpa [Tile.arrayFull] using hroom
  subst hcode
  simp only [enterOp, hr, hown, hfull, if_false]
  rfl

end

/-! ### What MMODE waits with, what QCLAIM claims, and the release configuration of QACC (R281, R284, R296) -/

section
variable (u : TileId) (i : StrandId) (t : Strand) (r : BitVec 2) (s : State)

/-- The state in which a strand waits for the region of its tile to change: outside a region the tile asks for leave. -/
def awaitMode : State :=
  let w := block i t .mmode (traceEvent i 0 false t.issued t.strip t.pc (s.modTile u fun v => { v with mode := some ⟨i.slot, r⟩ }))
  if (s.tile u).region = 0 then askLeave u w else w

theorem awaitMode_status : ((awaitMode u i t r s).strand i).status = .blocked .mmode := by
  unfold awaitMode
  split <;> simp [block]

theorem awaitMode_pc : ((awaitMode u i t r s).strand i).pc = t.pc := by
  unfold awaitMode
  split <;> simp [block]

theorem awaitMode_mode : ((awaitMode u i t r s).tile u).mode = some ⟨i.slot, r⟩ := by
  unfold awaitMode
  split <;> simp [block]

theorem awaitMode_region : ((awaitMode u i t r s).tile u).region = (s.tile u).region := by
  unfold awaitMode
  split <;> simp [block]

end

section
variable (u : TileId) (i : StrandId) (t : Strand) (d : BitVec 5) (first count : Nat) (ea : Addr) (s : State)

/-- The fill of a run of slots that a strand claims. -/
def claimFill : OmFill := ⟨first, count, if ea = 0 then none else some ea, i.slot, t.level, t.issued, t.pc, t.strip, false⟩

/-- The state after a strand has claimed a run of slots: its fill has begun, and xD = 1. -/
def claimRun : State :=
  traceEvent i 6 false t.issued t.strip t.pc (traceEvent i 0 false t.issued t.strip t.pc ((s.modTile u fun v =>
    { v with claimed := ((List.range count).map fun k => (first + k, i.slot)) ++ v.claimed
             fills := v.fills ++ [claimFill i t first count ea] }).setX i d 1))

theorem claimRun_xr : (claimRun u i t d first count ea s).xr i d = if d = 0 then 0 else 1 := by simp [claimRun]

theorem claimRun_claimed {k : Nat} (hk : k < count) : (first + k, i.slot) ∈ ((claimRun u i t d first count ea s).tile u).claimed := by
  simp [claimRun, hk]

theorem claimRun_fills : ((claimRun u i t d first count ea s).tile u).fills = (s.tile u).fills ++ [claimFill i t first count ea] := by
  simp [claimRun]

end

/-- The release configuration that a word of QACC gives. -/
def releaseConfig (t : Strand) (w base : Nat) : QaccCfg :=
  ⟨base, field w 0 8, BitVec.ofNat 4 (field w 8 4), copyMode (BitVec.ofNat 3 (field w 12 3)) t.vcfg, field w 15 1 = 1, field w 16 1 = 1⟩

theorem accFormatOk_iff (int : Bool) (f : BitVec 4) :
    accFormatOk int f = true ↔ if int then 9 ≤ f.toNat ∧ f.toNat ≤ 11 else 1 ≤ f.toNat ∧ f.toNat ≤ 5 := by
  cases int <;> simp [accFormatOk]

section
variable {st : State} {i : StrandId} {u : TileId} {x d z : BitVec 5} {a e : BitVec 4} (hu : i.core = .tile u) (hi : MayIssue st i)
include hu hi

/-! ### MMODE (R281) -/

section
variable (hx : Settled st i [x]) (hw : ((st.strand i).xr x).toNat < 4) (hm : (st.tile u).mode = none)
include hx hw hm

theorem execMmode_retires (hr : ((st.strand i).xr x).setWidth 2 = (st.tile u).region) :
    execMmode x st = .next (noteBoth i (st.strand i) (advance i 4 st)) :=
  issueStream_ok hu hi hx (by simp [Nat.div_eq_of_lt hw, hm, hr])

theorem execMmode_blocks (hr : ((st.strand i).xr x).setWidth 2 ≠ (st.tile u).region)
    (hc : (st.tile u).region = 0 → (st.tile u).contextIn (((st.strand i).xr x).setWidth 2) = false) :
    execMmode x st = .next (awaitMode u i (st.strand i) (((st.strand i).xr x).setWidth 2) (advance i 4 st)) := by
  rw [← advance_region i 4 st u] at hr hc
  rw [← advance_contextIn i 4 st u] at hc
  refine issueStream_ok hu hi hx ((if_neg ?word).trans <| (if_neg ?pending).trans <| (if_neg hr).trans <| (if_neg ?context).trans rfl)
  case word => simp [Nat.div_eq_of_lt hw]
  case pending => simp [hm]
  case context => simpa using hc

end

/-! ### QCLAIM and QREL (R284, R285) -/

/-- QCLAIM of a valid run whose source it can translate claims the run, or answers 0 where one of its slots is claimed. -/
theorem execQclaim_claims {first count : Nat} {s : State} (hdx : Settled st i [d, x]) (hacq : (st.strand i).acquiring = false)
    (hrun : slotRun ((st.strand i).xr x) = some (first, count)) (hal : ((st.strand i).ar a).toNat % 128 = 0)
    (hsrc : (if (st.strand i).ar a = 0 then .ok (advance i 4 st)
      else checkPlaces i (st.strand i) .read (pageStarts ((st.strand i).ar a) (count * 16384)) (advance i 4 st)) = .ok s) :
    execQclaim d a x st = .next (if (s.tile u).claimed.any fun p => inRun first count p.1 then noteBoth i (st.strand i) (s.setX i d 0)
      else claimRun u i (st.strand i) d first count ((st.strand i).ar a) s) := by
  refine issueStream_ok hu hi hdx ((if_neg (by simp [hacq])).trans ?_)
  simp only [hrun, hal, bne_self_eq_false, Bool.false_eq_true, if_false, hsrc]
  exact (apply_ite Except.ok _ _ _).symm

theorem execQrel_enters {first count : Nat} (hx : Settled st i [x]) (hrun : slotRun ((st.strand i).xr x) = some (first, count))
    (hown : (st.tile u).owns i.slot first count = true) (hroom : (st.tile u).mats.length < 4) :
    execQrel x st = .next (enterQueue u i (st.strand i) (.rel first count) (advance i 4 st)) :=
  issueStream_ok hu hi hx (by simp [hrun, hown, Tile.arrayFull, hroom])

/-! ### Set-up (R286, R296) -/

theorem execQacc_sets {w base : Nat} (hx : Settled st i [x]) (hw : ((st.strand i).xr x).toNat = w) (hr : (st.tile u).region ≠ 0)
    (hacc : (st.tile u).acc = []) (hm : (st.tile u).mats.any (·.op.isGemm) = false) (hrsv : w < 2 ^ 17) (hcount : field w 0 8 ≠ 0)
    (hrnd : field w 12 3 ≤ 4) (hfmt : accFormatOk (field w 16 1 = 1) (BitVec.ofNat 4 (field w 8 4)) = true)
    (hbase : tmemSide (st.tile u) ((st.strand i).ar a) (256 * rowPitch (regionCols (st.tile u).region) (BitVec.ofNat 4 (field w 8 4))) = some base) :
    execQacc a x st = .next (noteBoth i (st.strand i)
      ((advance i 4 st).modTile u fun v => { v with qacc := some (releaseConfig (st.strand i) w base) })) := by
  subst hw
  rw [← advance_region i 4 st u, ← advance_tmemSide i 4] at hbase
  refine issueStream_ok hu hi hx ((if_neg ?state).trans <| (if_neg ?reserved).trans ?_)
  case state => simpa [hacc, hm] using hr
  case reserved => simpa using hrsv
  simp only [hbase]
  refine (if_neg ?code).trans rfl
  have hmode : (BitVec.ofNat 3 (field ((st.strand i).xr x).toNat 12 3)).toNat ≤ 4 := (Nat.mod_le ..).trans hrnd
  simpa [hcount, hfmt] using hmode

theorem execBsset_sets (hdzx : Settled st i [d, z, x]) (hw : ((st.strand i).xr x).toNat < 16) :
    execBsset d z x st = .next (noteBoth i (st.strand i) (((advance i 4 st).modStrand i fun q =>
      { q with bs := q.bs.set (((st.strand i).xr x).toNat % 16) ((st.strand i).xr z &&& sysRw 0x200) (Nat.mod_lt _ (by decide)) }).setX i d
        ((st.strand i).bs.get ⟨((st.strand i).xr x).toNat % 16, Nat.mod_lt _ (by decide)⟩))) :=
  issueStream_ok hu hi hdzx ((if_neg (by simp [Nat.div_eq_of_lt hw])).trans rfl)

/-! ### QDRAIN (R300) -/

section
variable (hr : (st.tile u).region ≠ 0) (hroom : (st.tile u).mats.length < 4)
include hr hroom

theorem execQdrain_blocks (hd : Settled st i [d]) (f : BitVec 1) :
    execQdrain d f st = .next (block i (st.strand i) (.drain d) (enterQueue u i (st.strand i) (.drain d (f = 1)) (advance i 8 st))) :=
  issueStream_ok hu hi hd ((if_neg (by rwa [advance_region])).trans ((if_neg (by simpa [Tile.arrayFull] using hroom)).trans rfl))

/-! ### The operations of the array (R290, R291, R293, R294, R297) -/

section
variable (hx : Settled st i [x])
include hx

section
variable {w rows logn src dst : Nat} {afmt ofmt : BitVec 4} {rnd : BitVec 3} {sat : BitVec 1} (hw : ((st.strand i).xr x).toNat = w)
  (hrows : field w 0 13 = rows) (hlogn : field w 16 4 = logn) (hrsv : field w 13 3 = 0)
  (hrows0 : 0 < rows) (hrows1 : rows ≤ 4096) (hlogn0 : 4 ≤ logn) (hlogn1 : logn ≤ 12)
  (hsrc : tmemSide (st.tile u) ((st.strand i).ar a) (rows * 2 ^ logn * widthOf afmt / 8) = some src)
  (hdst : tmemSide (st.tile u) ((st.strand i).ar e) (rows * 2 ^ logn * widthOf ofmt / 8) = some dst)
include hw hrows hlogn hrsv hrows0 hrows1 hlogn0 hlogn1 hsrc hdst

theorem execQstage_enters {wfmt : BitVec 4} {slot : BitVec 6} {g : StageParam} (hg : ⟨field w 20 3, field w 24 4, slot.toNat, wfmt⟩ = g)
    (hblock : g.badBlock logn = false) (hstride : g.badStride logn = false) (hrsv1 : field w 23 1 = 0) (hrsv2 : w < 2 ^ 28)
    (hmeet : sidesMeet src (rows * 2 ^ logn * widthOf afmt / 8) dst (rows * 2 ^ logn * widthOf ofmt / 8) = true →
      src = dst ∧ widthOf afmt = widthOf ofmt)
    (hown : (st.tile u).owns i.slot slot.toNat (slotsFor (g.weightBits logn)) = true) :
    execQstage e a x afmt wfmt ofmt rnd sat slot st = .next (enterQueue u i (st.strand i)
      (.chain false src dst 0 rows logn [g] afmt ofmt false (copyMode rnd (st.strand i).vcfg) (sat = 1)) (advance i 8 st)) := by
  subst hw
  refine issueStream_ok hu hi hx ?_
  simp only [hrows, hlogn, hg, advance_tmemSide, hsrc, hdst, Option.getD_some]
  refine enterOp_enters (by rwa [advance_region]) (lowestCode_none ?codes) (by simpa using hown) (by rwa [advance_mats])
  simp only [List.forall_mem_cons]
  refine ⟨?rows, ?block, hstride, ?reserved, rfl, ?meets, nofun⟩
  case rows => simpa using ⟨hrows0.ne', hrows1⟩
  case block => simpa [hblock] using ⟨hlogn0, hlogn1⟩
  case reserved => simpa [hrsv, hrsv1] using hrsv2
  case meets => simpa using hmeet

theorem execQchain_enters {bs0 nst chain midLen : Nat} {ifmt : BitVec 1} {stages : List StageParam} (hbs0 : field w 20 4 = bs0)
    (hnst : field w 24 4 = nst) (hchain : field w 32 22 = chain)
    (hstages : ((List.range (nst + 1)).map fun k => stageOf ((st.strand i).bs.get (bsIndex (bs0 + k)))) = stages)
    (hmid : rows * 2 ^ logn * (if ifmt = 1 then 32 else 16) / 8 = midLen) (hlast : bs0 + nst ≤ 15) (hrsv1 : field w 28 4 = 0) (hrsv2 : w < 2 ^ 54)
    (hok : ∀ g ∈ stages, g.badBlock logn = false ∧ g.badStride logn = false ∧ g.wfmt ≠ 0 ∧ g.wfmt.toNat ≤ 8 ∧
      (st.tile u).owns i.slot g.wslot (slotsFor (g.weightBits logn)) = true) (hal : chain % 64 = 0)
    (hmany : nst ≠ 0 → chain + midLen ≤ 0x300000 ∧ sidesMeet src (rows * 2 ^ logn * widthOf afmt / 8) chain midLen = false ∧
      sidesMeet dst (rows * 2 ^ logn * widthOf ofmt / 8) chain midLen = false) :
    execQchain e a x afmt ofmt ifmt rnd sat st = .next (enterQueue u i (st.strand i)
      (.chain true src dst chain rows logn stages afmt ofmt (ifmt = 1) (copyMode rnd (st.strand i).vcfg) (sat = 1)) (advance i 8 st)) := by
  subst hw
  have hall : (List.range (nst + 1)).filter (fun k => decide (bs0 + k ≤ 15)) = List.range (nst + 1) :=
    List.filter_eq_self.mpr fun k hk => by have := List.mem_range.mp hk; simp; omega
  refine issueStream_ok hu hi hx ?_
  simp only [hrows, hlogn, hbs0, hnst, hchain, hmid, hall, hstages, advance_tmemSide, hsrc, hdst, Option.getD_some]
  refine enterOp_enters (by rwa [advance_region]) (lowestCode_none ?codes) ?own (by rwa [advance_mats])
  case own =>
    intro p hp
    obtain ⟨g, hg, rfl⟩ := List.mem_map.mp hp
    obtain ⟨-, -, -, -, hown⟩ := hok g hg
    rwa [advance_owns]
  simp only [List.forall_mem_cons]
  refine ⟨?rows, ?block, ?stride, ?reserved, ?side, ?format, ?meets, nofun⟩
  case rows => simpa using ⟨hrows0.ne', hrows1⟩
  case block =>
    have hblock : stages.any (·.badBlock logn) = false := List.any_eq_false.mpr fun g hg => by simp [(hok g hg).1]
    simpa [hblock] using ⟨hlogn0, hlogn1⟩
  case stride =>
    refine List.any_eq_false.mpr fun g hg => ?_
    obtain ⟨-, hstride, -⟩ := hok g hg
    simp [hstride]
  case reserved => simpa [hrsv, hrsv1] using hrsv2
  case side => simpa [hal] using fun h => (hmany h).1
  case format =>
    have hfmt : (stages.any fun g => decide (g.wfmt.toNat = 0) || decide (8 < g.wfmt.toNat)) = false := by
      refine List.any_eq_false.mpr fun g hg => ?_
      obtain ⟨-, -, hne, hle, -⟩ := hok g hg
      have hpos : g.wfmt.toNat ≠ 0 := fun h => hne (BitVec.eq_of_toNat_eq h)
      simp [hpos, hle]
    simpa only [hfmt, Bool.or_false, decide_eq_false_iff_not, Nat.not_lt] using hlast
  case meets =>
    by_cases h : nst = 0
    · simp [h]
    · simp [hmany h]

end

theorem execMgemm_enters {w m kp aslot row0 : Nat} {afmt wfmt : BitVec 4} {sm : BitVec 2} {ws ss : BitVec 6} {q : QaccCfg}
    (hw : ((st.strand i).xr x).toNat = w) (hm : field w 0 9 = m) (hkp : field w 16 4 = kp) (haslot : field w 24 6 = aslot)
    (hrow0 : field w 32 8 = row0) (hm0 : 0 < m) (hm1 : row0 + m ≤ 256) (hrsv0 : field w 9 7 = 0) (hrsv1 : field w 20 4 = 0)
    (hrsv2 : field w 30 2 = 0) (hrsv3 : w < 2 ^ 40) (hq : (st.tile u).qacc = some q) (hint : q.int = gemmIsInt afmt sm.toNat)
    (hown : ∀ p ∈ gemmRuns afmt wfmt sm.toNat m kp aslot ws.toNat ss.toNat (regionCols (st.tile u).region),
      (st.tile u).owns i.slot p.1 p.2 = true) :
    execMgemm x afmt wfmt sm ws ss st = .next (enterQueue u i (st.strand i)
      (.gemm afmt wfmt sm.toNat m kp aslot ws.toNat ss.toNat row0) (advance i 8 st)) := by
  subst hw
  refine issueStream_ok hu hi hx ?_
  simp only [hm, hkp, haslot, hrow0, advance_qacc, hq, advance_region]
  refine enterOp_enters (by rwa [advance_region]) (lowestCode_none ?codes) (by simpa only [advance_owns] using hown) (by rwa [advance_mats])
  simp only [List.forall_mem_cons]
  refine ⟨?rows, ?reserved, ?config, nofun⟩
  case rows =>
    have hm2 : m ≤ 256 := (Nat.le_add_left ..).trans hm1
    simpa using ⟨⟨hm0.ne', hm2⟩, hm1⟩
  case reserved => simpa [hrsv0, hrsv1, hrsv2] using hrsv3
  case config => simpa using hint

end

end

end

/-- Settles O40: each instruction's outcome is given by its equation above, once its captured word is cut into the fields that the statement names. -/
theorem matrixInstructionsComplete : Obligations.MatrixInstructionsComplete := by
  intro st u b x d z a e i hi hxdz t v s0 w note entered
  have hu : i.core = .tile u := rfl
  have settled {xs : List (BitVec 5)} (h : xs ⊆ [x, d, z]) : Settled st i xs := settled_of_subset hxdz h
  have hx : Settled st i [x] := settled (by simp)
  have hword : BitVec.ofNat 2 w = (t.xr x).setWidth 2 := BitVec.eq_of_toNat_eq (by simp [w])
  refine ⟨fun hw hm => ⟨fun hr => execMmode_retires hu hi hx hw hm (hword ▸ hr), ?blocks⟩, ?qclaim,
    fun first count hrun hown hroom => execQrel_enters hu hi hx hrun hown hroom, ?qacc, fun hw => execBsset_sets hu hi (settled (by simp)) hw,
    fun hr hroom => ⟨execQdrain_blocks hu hi hr hroom (settled (by simp)), ?qstage, ?qchain, ?mgemm⟩⟩
  case blocks =>
    rw [hword]
    intro hr hc
    exact ⟨_, execMmode_blocks hu hi hx hw hm hr hc, awaitMode_status .., awaitMode_pc .., awaitMode_mode ..,
      (awaitMode_region ..).trans (advance_region ..)⟩
  case qclaim =>
    intro first count s hacq hrun hal hsrc busy
    refine ⟨_, execQclaim_claims hu hi (settled (by simp)) hacq hrun hal hsrc, fun hb => ?_, fun hb => ?_⟩
    · rw [if_pos hb]
      simp
    · rw [if_neg (ne_true_of_eq_false hb)]
      exact ⟨claimRun_xr .., fun k hk => claimRun_claimed (i := i) _ _ _ _ _ _ _ hk, claimRun_fills ..⟩
  case qacc =>
    intro base hr hacc hm hw hc hrnd o int hfmt hbase
    have hhigh : field w 16 1 = w / 65536 := Nat.mod_eq_of_lt (by omega)
    refine ⟨_, execQacc_sets hu hi hx rfl hr hacc hm hw (by rwa [field_low]) hrnd ?_ hbase, ?_⟩
    · rw [hhigh]
      exact (accFormatOk_iff ..).mpr hfmt
    · rw [noteBoth_tile, State.tile_modTile_self, releaseConfig, field_low, hhigh]
      rfl
  case qstage =>
    intro rows logn afmt wfmt ofmt rnd sat slot src dst g inLen outLen hrows0 hrows1 hlogn0 hlogn1 hblock hstride
      hrsv hrsv1 hrsv2 hsrc hdst
    exact execQstage_enters hu hi hr hroom hx rfl (field_low ..) rfl hrsv hrows0 hrows1 hlogn0 hlogn1 hsrc hdst rfl hblock hstride hrsv1 hrsv2
  case qchain =>
    intro rows logn bs0 nst chain afmt ofmt ifmt rnd sat src dst stages inLen outLen midLen hrows0 hrows1 hlogn0
      hlogn1 hlast hrsv hrsv1 hrsv2 hok hsrc hdst
    exact execQchain_enters hu hi hr hroom hx rfl (field_low ..) rfl hrsv hrows0 hrows1 hlogn0 hlogn1 hsrc hdst
      rfl rfl rfl rfl rfl hlast hrsv1 hrsv2 hok
  case mgemm =>
    intro m kp aslot row0 afmt wfmt sm ws ss q
    exact execMgemm_enters hu hi hr hroom hx rfl (field_low ..) rfl rfl rfl

end Sys2Proof.Machine
end

section
/-! PROOF. The events of the array, of operand memory and of leave (R281, R282, R284, R285, R292, R297 to R301). -/

namespace Sys2Proof.Machine

open Sys2Proof

/-! ### What a write to memory and a record leave of a quadrant (R266, R273, R408 to R412) -/

/-- A change of one quadrant that keeps something of it keeps it in every quadrant. -/
theorem modQuad_keeps {α : Type} (p : Quad → α) {f : Quad → Quad} (hf : ∀ v, p (f v) = p v) (s : State) (q r : BitVec 2) :
    p ((s.modQuad q f).quad r) = p (s.quad r) := by
  by_cases h : r = q
  · subst h
    rw [State.quad_modQuad_self, hf]
  · rw [State.quad_modQuad_ne s f h]

section
variable {α : Type} {p : Quad → α} (hp : ∀ v c, p { v with crucible := c } = p v) (r : BitVec 2)
include hp

theorem modCrucible_keeps (n : Nat) (f : Crucible → Crucible) (s : State) : p ((modCrucible n f s).quad r) = p (s.quad r) := by
  unfold modCrucible
  split
  · exact modQuad_keeps p (fun v => hp v _) s _ r
  · rfl

theorem evict_keeps (q : BitVec 2) (l : Nat) (room : Crucible → Bool) (n : Nat) (s : State) : p ((evict q l room n s).quad r) = p (s.quad r) := by
  induction n generalizing s with
  | zero => rfl
  | succ n ih =>
    simp only [evict]
    split
    · rfl
    · split
      · rfl
      · rw [ih, modQuad_keeps p fun v => hp v _]
        split
        · exact modCrucible_keeps hp r ..
        · rfl

theorem touchLine_keeps (k : Option StrandId) (n : Nat) (s : State) : p ((touchLine k n s).quad r) = p (s.quad r) := by
  have hdirty : p ((noteDirty n s).quad r) = p (s.quad r) := by
    unfold noteDirty
    (repeat' split) <;> rfl
  rw [touchLine, modCrucible_keeps hp, ← hdirty]
  unfold unshareLine
  split
  · rfl
  · exact (modQuad_keeps p (fun v => hp v _) _ _ r).trans (evict_keeps hp r ..)

theorem hwWrite_keeps (a : Nat) (bs : List Byte) (s : State) : p ((hwWrite a bs s).quad r) = p (s.quad r) := by
  unfold hwWrite writeMem
  split
  · rfl
  · exact foldl_keeps (fun s => p (s.quad r)) (fun s n => touchLine_keeps hp r none n s) _ s

/-- A record changes the trace unit and the counters of its quadrant, and its Crucible. -/
theorem trace_keeps (ht : ∀ v c, p { v with trace := c } = p v) (hc : ∀ v c, p { v with counts := c } = p v) (q : BitVec 2) (u : Option TileId)
    (k : BitVec 3) (typ pipe : Nat) (fin : Bool) (n : Nat) (m : StripName) (aux : Nat) (s : State) :
    p ((trace q u k typ pipe fin n m aux s).quad r) = p (s.quad r) := by
  unfold trace
  dsimp only
  split
  · rfl
  · split
    · rw [traceLost, modQuad_keeps p fun v => ht v _, bumpQuad, modQuad_keeps p fun v => hc v _, hwWrite_keeps hp]
    · exact modQuad_keeps p (fun v => ht v _) s q r

end

/-! ### Tiles that work; wakes, writes of TMEM and full bits -/

theorem life_of_works {v : Tile} (h : v.works = true) : v.life = .resident := of_decide_eq_true (Bool.and_eq_true_iff.mp h).1

theorem started_of_works {v : Tile} (h : v.works = true) : v.started = true := (Bool.and_eq_true_iff.mp h).2

@[simp] theorem noteWoken_tile (i : StrandId) (s : State) (u : TileId) : (noteWoken i s).tile u = s.tile u := traceEvent_tile ..

@[simp] theorem unlinked_noteWoken (i : StrandId) (s : State) (j : StrandId) : ((noteWoken i s).strand j).unlinked = (s.strand j).unlinked :=
  unlinked_traceEvent ..

section
variable (u : TileId) (c : QaccCfg) (region : BitVec 2) (node row : Nat) (val : BitVec 32) (o n : Nat) (s : State)

theorem setFull_keeps {α : Type} (p : Tile → α) (hp : ∀ v l, p { v with full := l } = p v) (w : TileId) :
    p ((setFull u o n s).tile w) = p (s.tile w) := by
  unfold setFull
  split
  · rfl
  · exact modTile_keeps p (fun v => hp v _) ..

@[simp] theorem setFull_strand (j : StrandId) : (setFull u o n s).strand j = s.strand j := by
  unfold setFull
  split <;> rfl

theorem writeNode_tile : (writeNode u c region node row val s).tile u = { s.tile u with
    tmem := (s.tile u).tmem.write (c.base + row * rowPitch (regionCols region) c.ofmt + (node - regionBase region) * (widthOf c.ofmt / 8))
      (leBytes (widthOf c.ofmt / 8) (c.code val)) } := by
  rw [writeNode, writeTmem_tile, if_pos rfl]

@[simp] theorem unlinked_writeNode (j : StrandId) : ((writeNode u c region node row val s).strand j).unlinked = (s.strand j).unlinked :=
  unlinked_writeTmem ..

@[simp] theorem forceRelease_mats : ((forceRelease u s).tile u).mats = (s.tile u).mats := by
  unfold forceRelease
  dsimp only
  split
  · rfl
  · rw [foldl_keeps (fun s => (s.tile u).mats) fun s r => setFull_keeps u _ _ s Tile.mats (fun _ _ => rfl) u,
      foldl_keeps (fun s => (s.tile u).mats) fun s k => by rw [writeNode_tile], State.tile_setTile_self]

@[simp] theorem unlinked_forceRelease (j : StrandId) : ((forceRelease u s).strand j).unlinked = (s.strand j).unlinked := by
  unfold forceRelease
  dsimp only
  split
  · rfl
  · rw [foldl_keeps (fun s => (s.strand j).unlinked) fun s r => by rw [setFull_strand],
      foldl_keeps (fun s => (s.strand j).unlinked) fun s k => unlinked_writeNode .., State.strand_setTile]

end

/-! ### The operation at the head of the array queue (R282, R292, R297, R299, R301) -/

/-- What ROW_FIRE answers to the outcome of a row: a wait, the stop of the operation, or its progress. -/
def afterRow (u : TileId) (e : MatEntry) (q : List MatEntry) (rows : Nat) (st : State) : RowRes → Out
  | .hold => wait st
  | .bad f => .next (stopArray u e f st)
  | .done s => .next (s.modTile u fun v => { v with mats := e.step rows :: q })

/-- Whether every row of the operation has fired (R299). -/
def MatOp.fired (pass : Nat) : MatOp → Prop
  | .chain _ _ _ _ _ _ stages _ _ _ _ _ => stages.length ≤ pass
  | .gemm _ _ _ _ kp _ _ _ _ => kp < pass
  | _ => False

/-- The QDRAIN at the head of the array queue has ended; with FORCE it has released the rows that hold partial sums. -/
def drainEnded (u : TileId) (i : StrandId) (q : List MatEntry) (force : Bool) (s : State) : State :=
  let s := noteWoken i (s.setTile u { s.tile u with mats := q })
  if force then forceRelease u s else s

/-- A node's link has written its oldest entry, and holds the rest. -/
def releasedRow (u : TileId) (node : Nat) (c : QaccCfg) (l : LinkEntry) (r : List LinkEntry) (s : State) : State :=
  writeNode u c (s.tile u).region node l.row l.value
    (s.setTile u { s.tile u with rels := if r.isEmpty then amDel node (s.tile u).rels else amSet node r (s.tile u).rels })

section
variable (u : TileId) (node : Nat) (c : QaccCfg) (l : LinkEntry) (r : List LinkEntry) (s : State)

theorem releasedRow_link : ((releasedRow u node c l r s).tile u).link node = r := by
  rw [releasedRow, writeNode_tile, State.tile_setTile_self, Tile.link]
  cases r with
  | nil => simp [amGet_amDel]
  | cons x r => simp

theorem releasedRow_tmem : ((releasedRow u node c l r s).tile u).tmem =
    (s.tile u).tmem.write (c.base + l.row * rowPitch (regionCols (s.tile u).region) c.ofmt +
      (node - regionBase (s.tile u).region) * (widthOf c.ofmt / 8)) (leBytes (widthOf c.ofmt / 8) (c.code l.value)) := by
  rw [releasedRow, writeNode_tile, State.tile_setTile_self]

end

section
variable (u : TileId) (i : StrandId) (q : List MatEntry) (force : Bool) (s : State)

theorem drainEnded_mats : ((drainEnded u i q force s).tile u).mats = q := by
  cases force <;> simp [drainEnded]

theorem unlinked_drainEnded (j : StrandId) : ((drainEnded u i q force s).strand j).unlinked = (s.strand j).unlinked := by
  cases force <;> simp [drainEnded]

end

section
variable {st : State} {u : TileId} (hw : (st.tile u).works = true)
include hw

section
variable {e : MatEntry} {q : List MatEntry} (hm : (st.tile u).mats = e :: q)
include hm

section
variable (hs : e.started = false) (hc : e.op.computes = true)
include hs hc

theorem execMatrixStart_starts (hl : (st.tile u).leave = true) :
    execMatrixStart u st = .next (traceEvent ⟨.tile u, e.issuer⟩ 6 false e.seq e.strip e.pc
      (st.setTile u { st.tile u with mats := { e with started := true } :: q })) := by
  simp [execMatrixStart, hw, hm, hs, hc, hl]

theorem execMatrixStart_asks (hl : (st.tile u).leave = false) (hn : (st.quad u.quad).waiting.any (·.tile = u) = false) :
    execMatrixStart u st = .next (requestLeave u st) := by
  simp [execMatrixStart, hw, hm, hs, hc, hl, hn]

end

section
variable (hs : e.started = true)
include hs

section
variable (hn : e.stopped = false)
include hn

theorem execRowFire_chain {c : Bool} {src dst chain rows logn : Nat} {stages : List StageParam} {afmt ofmt : BitVec 4} {ifp : Bool} {rnd : Nat}
    {sat : Bool} (hop : e.op = .chain c src dst chain rows logn stages afmt ofmt ifp rnd sat) (hp : e.pass < stages.length) :
    execRowFire u st = afterRow u e q rows st (chainRow u e src dst chain logn stages afmt ofmt ifp rnd sat st) := by
  simp only [execRowFire, hw, hm, hs, hn, hop, hp]
  cases chainRow u e src dst chain logn stages afmt ofmt ifp rnd sat st <;> rfl

theorem execRowFire_gemm {af wf : BitVec 4} {sm m kp as ws ss row0 : Nat} (hop : e.op = .gemm af wf sm m kp as ws ss row0) (hp : e.pass ≤ kp) :
    execRowFire u st = afterRow u e q m st (gemmRow u e af wf sm m kp as ws ss row0 st) := by
  simp only [execRowFire, hw, hm, hs, hn, hop, hp]
  cases gemmRow u e af wf sm m kp as ws ss row0 st <;> rfl

end

theorem execMatrixComplete_completes (hr : (st.tile u).rels = []) (hd : e.op.fired e.pass) :
    execMatrixComplete u st = .next (traceEvent ⟨.tile u, e.issuer⟩ 0 true e.seq e.strip e.pc
      (traceEvent ⟨.tile u, e.issuer⟩ 6 true e.seq e.strip e.pc (st.setTile u { st.tile u with mats := q }))) := by
  simp only [execMatrixComplete, hw, hm, hs, hr]
  cases hop : e.op with
  | chain c src dst chain rows logn stages afmt ofmt ifp rnd sat =>
    rw [hop] at hd
    simp [show stages.length ≤ e.pass from hd]
  | gemm af wf sm m kp as ws ss row0 =>
    rw [hop] at hd
    simp [show kp < e.pass from hd]
  | rel first count =>
    rw [hop] at hd
    exact hd.elim
  | drain d force =>
    rw [hop] at hd
    exact hd.elim

end

/-! ### QREL_EFFECT and QDRAIN_WAKE (R285, R300) -/

theorem execQrelEffect_frees {first count : Nat} (hop : e.op = .rel first count)
    (hf : ∀ f ∈ (st.tile u).fills, overlap first count f.first f.count = false) :
    execQrelEffect u st = .next (traceEvent ⟨.tile u, e.issuer⟩ 0 true e.seq e.strip e.pc
      (st.setTile u { st.tile u with mats := q, claimed := (st.tile u).claimed.filter fun p => !inRun first count p.1 })) := by
  have hfills : ((st.tile u).fills.any fun f => overlap first count f.first f.count) = false := List.any_eq_false.mpr fun f h => by simp [hf f h]
  simp only [execQrelEffect, hw, hm, hop, hfills]
  rfl

theorem execQdrainWake_wakes {i : StrandId} {d d' : BitVec 5} {force : Bool} (hu : i.core = .tile u) (hb : (st.strand i).status = .blocked (.drain d))
    (hop : e.op = .drain d' force) (hi : e.issuer = i.slot) :
    execQdrainWake i st = .next ((unblock i two (drainEnded u i q force st)).setX i d
      (BitVec.ofNat 64 (if force then (st.tile u).heldRows.length else 0))) := by
  have hown : (e.issuer != i.slot) = false := by simp [hi]
  simp only [execQdrainWake, hb, hu, hw, hm, hop, hown]
  rfl

end

/-! ### ROW_RELEASE (R296, R298) -/

theorem execRowRelease_writes {node : Nat} {c : QaccCfg} {l : LinkEntry} {r : List LinkEntry} (hc : (st.tile u).qacc = some c)
    (hl : (st.tile u).link node = l :: r) :
    ∃ (left : Bool) (o : Nat), execRowRelease u node st =
      .next (if left then releasedRow u node c l r st else setFull u o 16 (releasedRow u node c l r st)) := by
  have hd : (st.tile u).drains = true := by simp [Tile.drains, life_of_works hw]
  simp only [execRowRelease, releasedRow, hd, hc, hl]
  exact ⟨_, _, rfl⟩

end

/-! ### QCLAIM_FILL_DONE (R284) -/

section
variable {st : State} {u : TileId} {k : Nat} {f : OmFill} (hf : (st.tile u).fills[k]? = some f) (hs : f.stopped = false)
include hf hs

theorem execQclaimFillDone_zeros (hsrc : f.src = none) :
    execQclaimFillDone u k st = .next (finishFill u k f [] (putOm u (16384 * f.first) (zeroBytes (16384 * f.count)) st)) := by
  simp [execQclaimFillDone, hf, hs, hsrc]

theorem execQclaimFillDone_reads {a : Addr} {bad : List Addr} {s : State} (hsrc : f.src = some a)
    (hheld : engineHeld true ⟨.tile u, f.issuer⟩ f.seq none ((List.range (128 * f.count)).filterMap fun n =>
      (placeOf (engineOf u f.issuer f.level none st).xl (a + BitVec.ofNat 80 (128 * n)) .read st).map (·, 128)) [] st = false)
    (hfill : fillLines (engineOf u f.issuer f.level none st) a (16384 * f.first) (128 * f.count) 0 st = .ok (bad, s)) :
    execQclaimFillDone u k st = .next (finishFill u k f bad s) := by
  simp only [execQclaimFillDone, hf, hs, hsrc, hheld, hfill]
  rfl

end

/-! ### Leave (R282) -/

/-- Whether a tile holds leave, and the requests and grants of its quadrant. -/
def State.leaveBook (u : TileId) (s : State) : Bool × List LeaveReq × List Nat :=
  ((s.tile u).leave, (s.quad u.quad).waiting, (s.quad u.quad).grants)

section
variable (u : TileId)

theorem leaveBook_bump (k : Fin 10) (n : Nat) (s : State) : (bump u k n s).leaveBook u = s.leaveBook u :=
  Prod.ext (modTile_keeps (f := fun v => { v with counts := v.counts.set k (v.counts.get k + BitVec.ofNat 64 n) })
    Tile.leave (fun _ => rfl) s u u) rfl

theorem leaveBook_bumpQuad (k : Fin 7) (n : Nat) (s : State) : (bumpQuad u.quad k n s).leaveBook u = s.leaveBook u :=
  Prod.ext rfl (modQuad_keeps (f := fun v => { v with counts := v.counts.set k (v.counts.get k + BitVec.ofNat 64 n) })
    (fun v => (v.waiting, v.grants)) (fun _ => rfl) s u.quad u.quad)

theorem leaveBook_trace (typ pipe : Nat) (fin : Bool) (b : BitVec 3) (n : Nat) (m : StripName) (aux : Nat) (s : State) :
    (trace u.quad (some u) b typ pipe fin n m aux s).leaveBook u = s.leaveBook u :=
  Prod.ext (congrArg Tile.leave (State.tile_of_tiles (tiles_trace ..) u))
    (trace_keeps (p := fun v => (v.waiting, v.grants)) (fun _ _ => rfl) u.quad (fun _ _ => rfl) (fun _ _ => rfl) ..)

end

section
variable {st : State} {u : TileId}

theorem execLeaveGrant_grants {r : LeaveReq} {w : List LeaveReq} (hq : (st.quad u.quad).waiting = r :: w) (hr : r.tile = u)
    (hn : ((st.quad u.quad).recent st.now).length < 8) :
    ∃ f, execLeaveGrant u st = .next f ∧ f.leaveBook u = (true, w, st.now :: (st.quad u.quad).recent st.now) := by
  have hdue : (decide (r.tile ≠ u) || decide (8 ≤ ((st.quad u.quad).recent st.now).length)) = false := by simp [hr, hn]
  simp only [execLeaveGrant, hq, hdue]
  refine ⟨_, rfl, ?_⟩
  simp only [apply_ite (State.leaveBook u), leaveBook_trace, leaveBook_bump, leaveBook_bumpQuad, ite_self]
  simp [State.leaveBook]

theorem execLeaveRevoke_revokes (hw : (st.tile u).works = true) (hl : (st.tile u).leave = true) (hm : (st.tile u).mode = none)
    (hq : (st.tile u).mats.any (·.started) = false) : execLeaveRevoke u st = .next (st.setTile u { st.tile u with leave := false }) := by
  simp [execLeaveRevoke, hl, hm, hq, started_of_works hw]

end

/-! ### Changes of region (R281) -/

/-- The state of a tile that has left its region. -/
def leaveRegion (u : TileId) (s : State) : State := s.setTile u { s.tile u with region := 0, acc := [], rels := [], qacc := none, leave := false }

section
variable (u : TileId) (slot : BitVec 3) (s : State)

theorem finishMode_tile : (finishMode u slot s).tile u = { s.tile u with mode := none } := by
  simp [finishMode, unblock]

theorem finishMode_status : ((finishMode u slot s).strand ⟨.tile u, slot⟩).status = .running := by
  rw [finishMode, unblock_strand]

end

section
variable {st : State} {u : TileId} (hw : (st.tile u).works = true) {m : ModeChange} (hm : (st.tile u).mode = some m)
include hw hm

theorem execMatrixExit_leaves (hr : (st.tile u).region ≠ 0) (hq : (st.tile u).mats = [])
    (hc : m.region = 0 ∨ (st.tile u).contextIn m.region = false) :
    execMatrixExit u st = .next (if m.region = 0 then finishMode u m.slot (leaveRegion u st) else requestLeave u (leaveRegion u st)) := by
  have hin : (m.region != 0 && (st.tile u).contextIn m.region) = false := by
    simpa only [Bool.and_eq_false_iff, bne_eq_false_iff_eq] using hc
  simp only [execMatrixExit, leaveRegion, hw, hm, hq, hin]
  rw [if_neg (by simpa using hr)]
  rfl

theorem execMatrixEntry_enters (hr : (st.tile u).region = 0) (hl : (st.tile u).leave = true) :
    execMatrixEntry u st = .next (finishMode u m.slot (st.setTile u { st.tile u with region := m.region })) := by
  simp [execMatrixEntry, hw, hm, hr, hl]

end

/-- Settles O41: each event answers the state that its equation above names. -/
theorem theArrayAdvances : Obligations.TheArrayAdvances := by
  intro st u e q hw v i
  refine ⟨fun hm hs hc => ⟨execMatrixStart_starts hw hm hs hc, execMatrixStart_asks hw hm hs hc⟩, fun hm hs hn => ⟨?chain, ?gemm⟩,
    fun node c l r hc hl => ?release, fun hm hs hr hd => execMatrixComplete_completes hw hm hs hr hd,
    fun first count hm hop hf => execQrelEffect_frees hw hm hop hf, fun k f hf hs => ⟨execQclaimFillDone_zeros hf hs, ?reads⟩,
    fun d d' force hb hm hop => ?drain, fun r w hq hr hn => ?grant, execLeaveRevoke_revokes hw, fun m hm => ⟨?exit, ?entry⟩⟩
  case chain =>
    intro c src dst chain rows logn stages afmt ofmt ifp rnd sat hop hp
    have hrow := execRowFire_chain hw hm hs hn hop hp
    exact ⟨fun s h => hrow.trans (by rw [h, afterRow]), fun k h => hrow.trans (by rw [h, afterRow])⟩
  case gemm =>
    intro af wf sm m kp as ws ss row0 hop hp
    have hrow := execRowFire_gemm hw hm hs hn hop hp
    exact ⟨fun s h => hrow.trans (by rw [h, afterRow]), fun k h => hrow.trans (by rw [h, afterRow])⟩
  case release =>
    obtain ⟨left, o, h⟩ := execRowRelease_writes hw hc hl
    refine ⟨_, h, ?_⟩
    cases left
    · exact ⟨(setFull_keeps u o 16 _ (Tile.link · node) (fun _ _ => rfl) u).trans (releasedRow_link ..),
        (setFull_keeps u o 16 _ Tile.tmem (fun _ _ => rfl) u).trans (releasedRow_tmem ..)⟩
    · exact ⟨releasedRow_link .., releasedRow_tmem ..⟩
  case reads =>
    intro a bad s hsrc g reads hheld hfill
    exact execQclaimFillDone_reads hf hs hsrc hheld hfill
  case drain =>
    have hpc : ((drainEnded u i q force st).strand i).pc = (st.strand i).pc := Strand.of_unlinked (·.pc) (fun _ => rfl) (unlinked_drainEnded ..)
    refine ⟨_, execQdrainWake_wakes hw hm rfl hb hop rfl, ?_, ?_, drainEnded_mats .., ?_⟩
    · rw [State.strand_setX, if_pos rfl, Strand.status_setX, unblock_strand]
    · rw [State.strand_setX, if_pos rfl, Strand.pc_setX, unblock_strand, ← hpc]
      rfl
    · rw [State.xr_setX_self]
      cases force <;> simp [v]
  case grant =>
    obtain ⟨f, hf, hbook⟩ := execLeaveGrant_grants hq hr hn
    simp only [State.leaveBook, Prod.mk.injEq] at hbook
    obtain ⟨hleave, hwaiting, hgrants⟩ := hbook
    exact ⟨f, hf, hleave, hwaiting, hgrants ▸ List.mem_cons_self⟩
  case exit =>
    intro hr hq hc
    refine ⟨_, execMatrixExit_leaves hw hm hr hq hc, ?_⟩
    by_cases h0 : m.region = 0
    · rw [if_pos h0, finishMode_tile, leaveRegion, State.tile_setTile_self]
      exact ⟨rfl, rfl, rfl, rfl, fun _ => ⟨rfl, finishMode_status ..⟩⟩
    · rw [if_neg h0, requestLeave_tile, leaveRegion, State.tile_setTile_self]
      exact ⟨rfl, rfl, rfl, rfl, fun h => absurd h h0⟩
  case entry =>
    intro hr hl
    refine ⟨_, execMatrixEntry_enters hw hm hr hl, ?_⟩
    rw [finishMode_tile, State.tile_setTile_self]
    exact ⟨rfl, rfl, finishMode_status ..⟩

end Sys2Proof.Machine
end

section
/-! PROOF. The launch table: its slots after a launch or a team is replaced, and what leaves it as it was (R309, R311, R395, R408 to R412). -/

namespace Sys2Proof.Machine

open Sys2Proof

/-! ### Slots, launches and teams after an update -/

section
variable {q : BitVec 2} {s f : State} (h : (f.quad q).launches = (s.quad q).launches)
include h

theorem State.launchSlot_of_launches (n : Nat) : f.launchSlot q n = s.launchSlot q n := by rw [State.launchSlot, h, State.launchSlot]

theorem State.launchAt_of_launches (n : Nat) : f.launchAt q n = s.launchAt q n := by
  rw [State.launchAt, State.launchSlot_of_launches h, State.launchAt]

end

section
variable (q : BitVec 2) (n k : Nat) (l : Launch) (tm : Team) (s : State)

@[simp] theorem launches_opportunity : ((opportunity q s).quad q).launches = (s.quad q).launches := by simp [opportunity]

@[simp] theorem launchAt_opportunity : (opportunity q s).launchAt q n = s.launchAt q n :=
  State.launchAt_of_launches (launches_opportunity q s) n

@[simp] theorem launchAt_setLaunch : (setLaunch q n l s).launchAt q n = some l := by
  simp [setLaunch, State.launchAt, State.launchSlot]

@[simp] theorem setTeam_tile (t : TileId) : (setTeam q n k tm s).tile t = s.tile t := by
  unfold setTeam
  split <;> rfl

@[simp] theorem setTeam_strand (i : StrandId) : (setTeam q n k tm s).strand i = s.strand i := by
  unfold setTeam
  split <;> rfl

theorem launchAt_setTeam :
    (setTeam q n k tm s).launchAt q n = (s.launchAt q n).map fun l => { l with teams := l.teams.set k tm } := by
  unfold setTeam
  cases h : s.launchAt q n with
  | none => exact h
  | some l => exact launchAt_setLaunch ..

end

/-- A team that a launch has is the one put in its place. -/
theorem team_setTeam {q : BitVec 2} {n k : Nat} {tm e : Team} {s : State} (h : (s.launchAt q n).bind (·.team k) = some e) :
    ((setTeam q n k tm s).launchAt q n).bind (·.team k) = some tm := by
  obtain ⟨l, hl, hk⟩ := Option.bind_eq_some_iff.mp h
  obtain ⟨hlt, -⟩ := List.getElem?_eq_some_iff.mp hk
  rw [launchAt_setTeam, hl]
  exact List.getElem?_set_self hlt

/-! ### Records leave the launch table as it was -/

section
variable (q : BitVec 2)

@[simp] theorem launches_modStrand (i : StrandId) (f : Strand → Strand) (s : State) : ((s.modStrand i f).quad q).launches = (s.quad q).launches := rfl

@[simp] theorem launches_modTile (t : TileId) (f : Tile → Tile) (s : State) : ((s.modTile t f).quad q).launches = (s.quad q).launches := rfl

theorem launches_writeMem (k : Option StrandId) (a : Nat) (bs : List Byte) (s : State) : ((writeMem k a bs s).quad q).launches = (s.quad q).launches := by
  unfold writeMem
  split
  · rfl
  · exact foldl_keeps (fun s => (s.quad q).launches) (fun s n => touchLine_keeps (p := Quad.launches) (fun _ _ => rfl) q k n s) _ s

@[simp] theorem launches_hwWrite (a : Nat) (bs : List Byte) (s : State) : ((hwWrite a bs s).quad q).launches = (s.quad q).launches :=
  launches_writeMem q none a bs s

theorem launches_countRecord (p : BitVec 2) (w : Bool × State) : ((countRecord p w).quad q).launches = (w.2.quad q).launches := by
  unfold countRecord
  split
  · exact modQuad_keeps (f := fun v => { v with errors := v.errors + 1 }) Quad.launches (fun _ => rfl) ..
  · rfl

@[simp] theorem launches_errorRecord (p : BitVec 2) (typ tile cause handle pa : Nat) (s : State) :
    ((errorRecord p typ tile cause handle pa s).quad q).launches = (s.quad q).launches := by
  obtain h | ⟨a, n, bs, h⟩ := errorRecord_cases p typ tile cause handle pa s <;> rw [h]
  rw [launches_countRecord]
  obtain ⟨b, c, d, e, g, hw | hw⟩ := ringWrite_cases a n 64 bs s <;> rw [hw] <;> simp

@[simp] theorem launches_trace (p : BitVec 2) (u : Option TileId) (k : BitVec 3) (typ pipe : Nat) (fin : Bool) (n : Nat) (m : StripName) (aux : Nat)
    (s : State) : ((trace p u k typ pipe fin n m aux s).quad q).launches = (s.quad q).launches :=
  trace_keeps (p := Quad.launches) (fun _ _ => rfl) q (fun _ _ => rfl) (fun _ _ => rfl) ..

@[simp] theorem launches_traceEvent (i : StrandId) (pipe : Nat) (fin : Bool) (n : Nat) (m : StripName) (pc : Addr) (s : State) :
    ((traceEvent i pipe fin n m pc s).quad q).launches = (s.quad q).launches := launches_trace ..

end

/-- A launch that fails keeps its teams and signals nothing (R310, R315). -/
theorem launchAt_failLaunch {q : BitVec 2} {n : Nat} {l : Launch} {s : State} (h : s.launchAt q n = some l) (c : BitVec 8) (pa : Nat) :
    (failLaunch q n c pa s).launchAt q n = some { l with state := .failed, signal := false } := by
  unfold failLaunch
  simp only [h]
  rw [State.launchAt_of_launches (launches_errorRecord ..), launchAt_setLaunch]

end Sys2Proof.Machine
end

section
/-! PROOF. LAUNCH and LSTAT, and what the launch unit does for a launch of its table (R307 to R311, R315, R317). -/

namespace Sys2Proof.Machine

open Sys2Proof

/-! ### LAUNCH once its record has been read (R308) -/

/-- What LAUNCH does with a record that has been read, its words' places found. -/
def afterRecord (i : StrandId) (t : Strand) (d : BitVec 5) (v : Nat) (z : State) : Except Stop State :=
  if t.level = .U && (10 ≤ (parseLaunch v).prio || (parseLaunch v).ctx != 0) then .error (preciseStop t ⟨cPrivilege, 0, 0⟩)
  else match launchCode (coreQuad i.core) t.level v z with
    | some c => .error (preciseStop t ⟨cLaunchInvalid, 0, BitVec.ofNat 64 c⟩)
    | none => .ok (acceptLaunch i t d (parseLaunch v) z)

section
variable {st s u z : State} {i : StrandId} {d : BitVec 5} {a : BitVec 4} {p : Phys} {v : Nat} (hi : MayIssue st i) (hd : Settled st i [d])
  (hacq : (st.strand i).acquiring = false) (halign : ((st.strand i).ar a).toNat % 128 = 0)
  (hrec : recordAt i (st.strand i) ((st.strand i).ar a) 128 false (advance i 4 st) = .ok (p, s))
  (hbits : recordBits (st.strand i) p ((st.strand i).ar a) 128 s = .ok v)
  (hdeps : checkPlaces i (st.strand i) .read (if recordDeps v ≤ 4 then (parseLaunch v).deps.map (·.1) else []) s = .ok u)
  (hsig : checkPlaces i (st.strand i) .write (if (parseLaunch v).sig = 0 then [] else [(parseLaunch v).sig]) u = .ok z)
include hi hd hacq halign hrec hbits hdeps hsig

theorem execLaunch_accepts {w : State} (h : afterRecord i (st.strand i) d v z = .ok w) : execLaunch d a st = .next w := by
  refine issue_ok (i := i) hi.1 hi.2 ?_
  simp only [one, hd, hacq, halign, hrec, hbits, hdeps, hsig]
  exact h

theorem execLaunch_traps {f : Flt} (h : afterRecord i (st.strand i) d v z = .error (preciseStop (st.strand i) f)) (hf : walkCause f.cause = false) :
    execLaunch d a st = .next (takeTrap i (preciseRec (st.strand i) f) st) := by
  refine issue_preciseStop hi ?_ hf
  simp only [one, hd, hacq, halign, hrec, hbits, hdeps, hsig]
  exact h

end

section
variable {i : StrandId} {t : Strand} {v : Nat} {z : State} (d : BitVec 5)

theorem afterRecord_of_privilege (hl : t.level = .U) (h : 10 ≤ (parseLaunch v).prio ∨ (parseLaunch v).ctx ≠ 0) :
    afterRecord i t d v z = .error (preciseStop t ⟨cPrivilege, 0, 0⟩) := if_pos (by simpa [hl] using h)

section
variable (hp : t.level = .U → (parseLaunch v).prio < 10 ∧ (parseLaunch v).ctx = 0)
include hp

theorem afterRecord_of_code {c : Nat} (hc : launchCode (coreQuad i.core) t.level v z = some c) :
    afterRecord i t d v z = .error (preciseStop t ⟨cLaunchInvalid, 0, BitVec.ofNat 64 c⟩) :=
  (if_neg (by simpa using hp)).trans (by rw [hc])

theorem afterRecord_of_valid (hc : launchCode (coreQuad i.core) t.level v z = none) :
    afterRecord i t d v z = .ok (acceptLaunch i t d (parseLaunch v) z) := (if_neg (by simpa using hp)).trans (by rw [hc])

end

end

/-! ### A launch enters the table (R309, R317) -/

/-- The launch that LAUNCH enters: pending, or ready at once where it depends on no word. -/
def newLaunch (i : StrandId) (t : Strand) (r : LaunchRec) (s : State) : Launch :=
  let l : Launch :=
    { record := { r with ctx := (launchContext i t r s).1 }, entry := (launchContext i t r s).2, state := .pending, met := r.deps.map fun _ => false,
      stamp := 0, teams := List.replicate (r.ntm1 + 1) { state := .waiting, since := 0, claim := false }, signal := false, doneAt := 0 }
  if r.deps.isEmpty then l.makeReady s.now else l

section
variable (i : StrandId) (t : Strand) (r : LaunchRec) (s : State)

theorem newLaunch_record : (newLaunch i t r s).record = { r with ctx := (launchContext i t r s).1 } := by
  unfold newLaunch Launch.makeReady
  dsimp only
  split <;> rfl

theorem newLaunch_state : (newLaunch i t r s).state = if r.deps = [] then .ready else .pending := by
  unfold newLaunch Launch.makeReady
  simp only [List.isEmpty_iff]
  split <;> rfl

theorem newLaunch_teams_length : (newLaunch i t r s).teams.length = r.ntm1 + 1 := by
  unfold newLaunch Launch.makeReady
  dsimp only
  split <;> simp

theorem newLaunch_teams_wait : ∀ e ∈ (newLaunch i t r s).teams, e.state = .waiting := by
  unfold newLaunch Launch.makeReady
  dsimp only
  split <;> simp +contextual [List.mem_replicate]

end

/-- The slots of the table that may take a launch. -/
def State.openSlots (s : State) (q : BitVec 2) : List Nat := (List.range 512).filter fun n => (s.launchSlot q n).free

theorem mem_openSlots {s : State} {q : BitVec 2} {n : Nat} : n ∈ s.openSlots q ↔ n < 512 ∧ (s.launchSlot q n).free = true := by
  simp [State.openSlots]

/-- The state once a launch has been entered into a slot, and its handle returned. -/
def launched (i : StrandId) (t : Strand) (d : BitVec 5) (r : LaunchRec) (n : Nat) (s : State) : State :=
  let e := enterLaunch (coreQuad i.core) n (newLaunch i t r s) s.fresh.2
  (if r.deps.isEmpty then opportunity (coreQuad i.core) e.2 else e.2).setX i d (BitVec.ofNat 64 (e.1 + 2 ^ 63))

section
variable {i : StrandId} {s : State} (t : Strand) (d : BitVec 5) (r : LaunchRec)

theorem acceptLaunch_full (h : ∀ n, n < 512 → (s.launchSlot (coreQuad i.core) n).free = false) : acceptLaunch i t d r s = s.fresh.2.setX i d 0 := by
  have hnone : s.openSlots (coreQuad i.core) = [] :=
    List.eq_nil_iff_forall_not_mem.mpr fun n hn => by
      obtain ⟨hlt, hf⟩ := mem_openSlots.mp hn
      simp [h n hlt] at hf
  unfold acceptLaunch
  rw [State.openSlots] at hnone
  simp [hnone]

theorem acceptLaunch_takes {m : Nat} (hm : m < 512) (hfree : (s.launchSlot (coreQuad i.core) m).free = true) :
    ∃ n, n < 512 ∧ (s.launchSlot (coreQuad i.core) n).free = true ∧ acceptLaunch i t d r s = launched i t d r n s := by
  have hpos : 0 < (s.openSlots (coreQuad i.core)).length := List.length_pos_of_mem (mem_openSlots.mpr ⟨hm, hfree⟩)
  obtain ⟨hlt, hf⟩ := mem_openSlots.mp (List.getElem_mem (Nat.mod_lt s.fresh.1.toNat hpos))
  refine ⟨_, hlt, hf, ?_⟩
  have hget := List.getElem?_eq_getElem (Nat.mod_lt s.fresh.1.toNat hpos)
  unfold acceptLaunch
  simp only [State.openSlots] at hget
  simp only [hget]
  rfl

end

/-! ### The slots of the table around a new launch (R317; log entry 71) -/

/-- The number beyond the table under which the launch of a slot goes on. -/
def asideSlot (q : BitVec 2) (n : Nat) (s : State) : Nat := n + 512 * ((s.quad q).launches.foldl (fun m l => max m (l.1 / 512 + 1)) 1)

theorem le_asideSlot (q : BitVec 2) (n : Nat) (s : State) : 512 ≤ asideSlot q n s := by
  have h : ∀ (l : List (Nat × LaunchSlot)) (m : Nat), m ≤ l.foldl (fun m l => max m (l.1 / 512 + 1)) m := by
    intro l
    induction l with
    | nil => exact fun m => le_rfl
    | cons a l ih => exact fun m => (le_max_left ..).trans (ih _)
  have := h (s.quad q).launches 1
  unfold asideSlot
  omega

theorem launchSlot_moveAside (q : BitVec 2) (n k : Nat) (s : State) : (moveAside q n s).launchSlot q k =
    if (s.launchSlot q n).unfinished = true ∧ k = asideSlot q n s then s.launchSlot q n else s.launchSlot q k := by
  unfold moveAside
  dsimp only
  by_cases hu : (s.launchSlot q n).unfinished = true
  · have hset : ((s.modQuad q fun d => { d with launches := amSet (asideSlot q n s) (s.launchSlot q n) d.launches }).quad q).launches =
        amSet (asideSlot q n s) (s.launchSlot q n) (s.quad q).launches := by rw [State.quad_modQuad_self]
    rw [if_neg (by simp [hu])]
    refine (congrArg (fun l => (amGet k l).getD {}) hset).trans ?_
    rw [amGet_amSet]
    by_cases hk : k = asideSlot q n s
    · rw [if_pos hk, if_pos ⟨hu, hk⟩, Option.getD_some]
    · rw [if_neg hk, if_neg fun h => hk h.2, State.launchSlot]
  · rw [if_pos (by simpa using hu), if_neg fun h => hu h.1]

section
variable (q : BitVec 2) (l : Launch) (s : State) {n k : Nat}

theorem launchSlot_enterLaunch_self : (enterLaunch q n l s).2.launchSlot q n =
    { gen := if (s.launchSlot q n).launch.isSome then (s.launchSlot q n).gen + 1 else (s.launchSlot q n).gen, launch := some l } := by
  simp [enterLaunch, State.launchSlot]

theorem launchSlot_enterLaunch_ne (h : k ≠ n) : (enterLaunch q n l s).2.launchSlot q k =
    if (s.launchSlot q n).unfinished = true ∧ k = asideSlot q n s then s.launchSlot q n else s.launchSlot q k := by
  rw [← launchSlot_moveAside]
  simp [enterLaunch, State.launchSlot, amGet_amSet, h]

theorem enterLaunch_handle : (enterLaunch q n l s).1 = handleOf q n ((enterLaunch q n l s).2.launchSlot q n).gen := by
  rw [launchSlot_enterLaunch_self]
  rfl

end

section
variable {i : StrandId} (t : Strand) (d : BitVec 5) (r : LaunchRec) (n : Nat) (s : State)

theorem launches_launched : ((launched i t d r n s).quad (coreQuad i.core)).launches =
    ((enterLaunch (coreQuad i.core) n (newLaunch i t r s) s.fresh.2).2.quad (coreQuad i.core)).launches := by
  unfold launched
  rw [State.quad_setX]
  split
  · exact launches_opportunity ..
  · rfl

theorem xr_launched (hn : n < 512) : (launched i t d r n s).xr i d = if d = 0 then 0
    else BitVec.ofNat 64 (2 ^ 63 + n + (coreQuad i.core).toNat * 2 ^ 9 + ((launched i t d r n s).launchSlot (coreQuad i.core) n).gen.toNat * 2 ^ 16) := by
  rw [State.launchSlot_of_launches (launches_launched ..), launched, State.xr_setX_self, enterLaunch_handle, handleOf, (Nat.mod_eq_of_lt hn : n % 2 ^ 9 = n)]
  congr 2
  omega

end

/-! ### LSTAT (R317) -/

section
variable {st : State} {i : StrandId} {d x y : BitVec 5} (hi : MayIssue st i) (hd : Settled st i [d, x, y])
include hi hd

theorem execLstat_invalid (hop : 2 ≤ ((st.strand i).xr y).toNat) :
    execLstat d x y st = .next (takeTrap i ⟨cLaunchInvalid, 0, false, (st.strand i).pc, 0, 0, 10⟩ st) :=
  issue_preciseStop (f := ⟨cLaunchInvalid, 0, 10⟩) hi (by simp [hd, hop]) rfl

theorem execLstat_unknown (hop : ((st.strand i).xr y).toNat < 2) (h : (advance i 4 st).handled i ((st.strand i).xr x).toNat = none) :
    execLstat d x y st = .next ((advance i 4 st).setX i d 0) := by
  refine issue_ok (i := i) hi.1 hi.2 ?_
  simp [one, hd, h, Nat.not_le.mpr hop]

section
variable {n : Nat} {l : Launch} (h : (advance i 4 st).handled i ((st.strand i).xr x).toNat = some (n, l))
include h

theorem execLstat_reads (hop : ((st.strand i).xr y).toNat = 0 ∨ (((st.strand i).xr y).toNat = 1 ∧ l.status ≠ 1 ∧ l.status ≠ 2)) :
    execLstat d x y st = .next ((setLaunch (coreQuad i.core) n l (advance i 4 st)).setX i d l.word) := by
  refine issue_ok (i := i) hi.1 hi.2 ?_
  obtain h0 | ⟨h1, hs1, hs2⟩ := hop
  · simp [one, hd, h, h0]
  · simp [one, hd, h, h1, hs1, hs2]

theorem execLstat_cancels (hop : ((st.strand i).xr y).toNat = 1) (hs : l.status = 1 ∨ l.status = 2) :
    execLstat d x y st = .next ((setLaunch (coreQuad i.core) n { l with state := .cancelled } (advance i 4 st)).setX i d
      ({ l with state := .cancelled } : Launch).word) := by
  refine issue_ok (i := i) hi.1 hi.2 ?_
  simp [one, hd, h, hop, hs]

end

end

/-! ### Readiness, claims and the signal (R310, R311, R315) -/

section
variable {st : State} {q : BitVec 2} {n k : Nat} {l : Launch} (hl : st.launchAt q n = some l)
include hl

section
variable {ea : Addr} {target : Nat} (hs : l.state = .pending) (hk : l.record.deps[k]? = some (ea, target))
include hs hk

theorem execReadinessRead_fails {c : BitVec 8} {pa : Nat} (h : launchPlace (launchXl q l) ea .read st = .error (some (c, pa))) :
    execReadinessRead q n k st = .next (failLaunch q n c pa st) := by
  simp [execReadinessRead, hl, hs, hk, h]

section
variable {p : Phys} {s : State} (h : launchPlace (launchXl q l) ea .read st = .ok (p, s))
include h

theorem execReadinessRead_faults {f : Flt} (hf : readPhys p 8 s = .error f) :
    execReadinessRead q n k st = .next (failLaunch q n f.cause p.loc.offset s) := by
  simp [execReadinessRead, hl, hs, hk, h, hf]

theorem execReadinessRead_notes {v : Nat} (hv : readPhys p 8 s = .ok v) (hmet : l.met.getD k false ≠ decide (target ≤ v)) :
    let m := l.met.set k (decide (target ≤ v))
    execReadinessRead q n k st = .next (if m.all id then opportunity q (setLaunch q n (({ l with met := m } : Launch).makeReady s.now) s)
      else setLaunch q n { l with met := m } s) := by
  simp only [execReadinessRead, hl, hs, hk, h, hv, if_neg hmet, event_some]

end

end

section
variable (hs : l.state = .done) (hsig : l.signal = true) (hdue : l.doneAt + 60 ≤ st.now)
include hs hsig hdue

theorem execLaunchSignal_fails {c : BitVec 8} {pa : Nat} (h : launchPlace (launchXl q l) l.record.sig .write st = .error (some (c, pa))) :
    execLaunchSignal q n st = .next (failLaunch q n c pa st) := by
  simp [execLaunchSignal, hl, hs, hsig, h, Nat.not_lt.mpr hdue]

section
variable {p : Phys} {s : State} (h : launchPlace (launchXl q l) l.record.sig .write st = .ok (p, s))
include h

theorem execLaunchSignal_faults {f : Flt} (hf : atomicUpdate none p .add 8 l.record.sigv 0 s = .error f) :
    execLaunchSignal q n st = .next (failLaunch q n f.cause p.loc.offset s) := by
  simp [execLaunchSignal, hl, hs, hsig, h, hf, Nat.not_lt.mpr hdue]

theorem execLaunchSignal_adds {v : Nat} {z : State} (hv : atomicUpdate none p .add 8 l.record.sigv 0 s = .ok (v, z)) :
    execLaunchSignal q n st = .next (setLaunch q n { l with signal := false } z) := by
  simp [execLaunchSignal, hl, hs, hsig, h, hv, Nat.not_lt.mpr hdue]

end

end

end

theorem execClaimBegin_claims {st : State} {q : BitVec 2} {n k : Nat} {w : Waiter} (hw : st.waiter q n k = some w) (hc : w.team.claim = false)
    (hdue : w.team.since + 62500 ≤ st.now) :
    execClaimBegin q n k st = .next (opportunity q (setTeam q n k { w.team with claim := true } st)) := by
  simp [execClaimBegin, hw, hc, Nat.not_lt.mpr hdue]

/-! ### The statement -/

section
variable {i : StrandId} (t : Strand) (d : BitVec 5) (r : LaunchRec) {n : Nat} (z : State)

/-- What a launch that has entered slot `n` is, and what the table, the slot's generation and xD hold (R309, R317). -/
theorem launched_spec (hn : n < 512) :
    let q := coreQuad i.core
    let w := launched i t d r n z
    ∃ l, w.launchAt q n = some l ∧ l.record = { r with ctx := l.record.ctx } ∧ (t.level ≠ .U → l.record.ctx = r.ctx) ∧
      (t.level = .U → l.record.ctx = t.ctxcur) ∧ l.state = (if r.deps = [] then .ready else .pending) ∧ l.teams.length = r.ntm1 + 1 ∧
      (∀ e ∈ l.teams, e.state = .waiting) ∧ (∀ k, k < 512 → k ≠ n → w.launchAt q k = z.launchAt q k) ∧
      ((z.launchSlot q n).unfinished = true → ∃ k, 512 ≤ k ∧ w.launchAt q k = z.launchAt q n) ∧
      w.xr i d = (if d = 0 then 0 else BitVec.ofNat 64 (2 ^ 63 + n + q.toNat * 2 ^ 9 + (w.launchSlot q n).gen.toNat * 2 ^ 16)) ∧
      (w.launchSlot q n).gen = (z.launchSlot q n).gen + (if (z.launchSlot q n).launch = none then 0 else 1) := by
  intro q w
  have htable (k : Nat) : w.launchSlot q k = (enterLaunch q n (newLaunch i t r z) z.fresh.2).2.launchSlot q k :=
    State.launchSlot_of_launches (launches_launched ..) k
  have hfresh (k : Nat) : z.fresh.2.launchSlot q k = z.launchSlot q k := rfl
  have haside : 512 ≤ asideSlot q n z.fresh.2 := le_asideSlot ..
  refine ⟨newLaunch i t r z, ?entered, ?record, ?ctx, ?ctxU, newLaunch_state .., newLaunch_teams_length .., newLaunch_teams_wait _ _ _ _, fun k hk hkn => ?other,
    fun hu => ⟨asideSlot q n z.fresh.2, haside, ?aside⟩, xr_launched t d r n z hn, ?gen⟩
  case entered => rw [State.launchAt, htable, launchSlot_enterLaunch_self]
  case record => rw [newLaunch_record]
  case ctx => intro hl; rw [newLaunch_record, launchContext, if_neg hl]
  case ctxU => intro hl; rw [newLaunch_record, launchContext, if_pos hl]
  case other =>
    rw [State.launchAt, htable, launchSlot_enterLaunch_ne _ _ _ hkn, if_neg fun h => by omega, hfresh, State.launchAt]
  case aside =>
    rw [State.launchAt, htable, launchSlot_enterLaunch_ne _ _ _ (by omega), if_pos ⟨hu, rfl⟩, hfresh, State.launchAt]
  case gen =>
    rw [htable, launchSlot_enterLaunch_self, hfresh]
    cases (z.launchSlot q n).launch <;> simp

end

/-- Settles O48: LAUNCH by what its record and the table are, LSTAT by its operation and its handle, and the launch unit's events by their own conditions. -/
theorem launchesCompleteInTheTable : Obligations.LaunchesCompleteInTheTable := by
  refine ⟨fun st i d x y a hi hd => ?instructions, fun st q n k => ⟨fun l ea target hl hs hk => ?readiness, fun w hw hc hdue => execClaimBegin_claims hw hc hdue,
    fun l hl hs hsig hdue => ⟨fun c pa h => execLaunchSignal_fails hl hs hsig hdue h, fun p s h =>
      ⟨fun f hf => execLaunchSignal_faults hl hs hsig hdue h hf, fun v z hv => execLaunchSignal_adds hl hs hsig hdue h hv⟩⟩⟩⟩
  case instructions =>
    have hd1 : Settled st i [d] := by
      simp only [Settled, Strand.anyX, List.any_cons, List.any_nil, Bool.or_eq_false_iff] at hd ⊢
      exact ⟨hd.1, trivial⟩
    refine ⟨?launch, execLstat_invalid hi hd, execLstat_unknown hi hd,
      fun n l h => ⟨execLstat_reads hi hd h, fun hop hs => ⟨execLstat_cancels hi hd h hop hs, rfl⟩⟩⟩
    case launch =>
      intro p s u z v hacq halign hrec hbits r hdeps hsig
      refine ⟨fun hl h => ?privilege, fun hp => ⟨fun c hc => ?code, fun hc => ?valid⟩⟩
      case privilege => exact execLaunch_traps (f := ⟨cPrivilege, 0, 0⟩) hi hd1 hacq halign hrec hbits hdeps hsig (afterRecord_of_privilege d hl h) rfl
      case code =>
        exact execLaunch_traps (f := ⟨cLaunchInvalid, 0, BitVec.ofNat 64 c⟩) hi hd1 hacq halign hrec hbits hdeps hsig (afterRecord_of_code d hp hc) rfl
      case valid =>
        have hexec := execLaunch_accepts hi hd1 hacq halign hrec hbits hdeps hsig (afterRecord_of_valid d hp hc)
        refine ⟨fun hfull => ⟨_, hexec, ?_⟩, fun m hm hfree => ?_⟩
        · rw [acceptLaunch_full _ _ _ hfull, State.xr_setX_self, ite_self]
          exact ⟨rfl, rfl⟩
        · obtain ⟨n, hn, hnfree, htakes⟩ := acceptLaunch_takes (st.strand i) d r hm hfree
          obtain ⟨l, hl⟩ := launched_spec (i := i) (st.strand i) d r z hn
          exact ⟨_, n, l, hexec.trans (congrArg Host.Outcome.next htakes), hn, hnfree, hl⟩
  case readiness =>
    refine ⟨fun c pa h => execReadinessRead_fails hl hs hk h, fun p s h => ⟨fun f hf => execReadinessRead_faults hl hs hk h hf, fun v hv hmet =>
      ⟨_, execReadinessRead_notes hl hs hk h hv hmet, ?_⟩⟩, fun c pa => ⟨_, launchAt_failLaunch hl c pa, rfl, rfl, rfl⟩⟩
    intro m
    split
    · rw [launchAt_opportunity, launchAt_setLaunch]
      rfl
    · rw [launchAt_setLaunch]

end Sys2Proof.Machine
end

section
/-! PROOF. The placement, the first issue and the end of a team, and the tiles that it leaves (R311, R313 to R315, R402). -/

namespace Sys2Proof.Machine

open Sys2Proof

/-! ### Folds over the tiles of a team -/

/-- What one step of a fold establishes, and every step keeps, holds at its end. -/
theorem foldl_establishes {α : Type} {I P : State → Prop} {f : State → α → State} {a : α} {l : List α} (ha : a ∈ l) (hI : ∀ s b, I s → I (f s b))
    (he : ∀ s, I s → P (f s a)) (hk : ∀ b ∈ l, ∀ s, I s → P s → P (f s b)) {s : State} (hs : I s) : P (l.foldl f s) := by
  obtain ⟨l₁, l₂, rfl⟩ := List.append_of_mem ha
  rw [List.foldl_append, List.foldl_cons]
  have hbefore : I (l₁.foldl f s) := List.foldlRecOn l₁ f hs fun s h b _ => hI s b h
  exact (List.foldlRecOn (motive := fun s => I s ∧ P s) l₂ f ⟨hI _ a hbefore, he _ hbefore⟩
    fun s h b hb => ⟨hI s b h.1, hk b (by simp [hb]) s h.1 h.2⟩).2

/-! ### Footprints (R313) -/

theorem le_of_mem_covered {s : State} {q : BitVec 2} {r : LaunchRec} {ox oy : Nat} {p : Nat × Nat} (h : p ∈ s.covered q r ox oy) :
    p.1 ≤ r.twm1 ∧ p.2 ≤ r.thm1 := by
  obtain ⟨hoff, -⟩ := List.mem_filter.mp h
  obtain ⟨dy, hdy, hrow⟩ := List.mem_flatMap.mp hoff
  obtain ⟨dx, hdx, rfl⟩ := List.mem_map.mp hrow
  exact ⟨Nat.lt_succ_iff.mp (List.mem_range.mp hdx), Nat.lt_succ_iff.mp (List.mem_range.mp hdy)⟩

/-- Columns 0 to 7 and rows 0 to 8 of a quadrant have tiles of their own (R10). -/
theorem tileAt_inj {q : BitVec 2} {x y x' y' : Nat} (hx : x < 8) (hy : y < 9) (hx' : x' < 8) (hy' : y' < 9) (h : tileAt q x y = tileAt q x' y') :
    x = x' ∧ y = y' := by
  have hi : (8 * y + x) % 2 ^ 7 = (8 * y' + x') % 2 ^ 7 := by simpa only [tileAt, BitVec.toNat_ofNat] using congrArg (·.idx.toNat) h
  omega

/-! ### A tile that a team is placed on (R314, R396) -/

/-- A strand of a team that starts. -/
def Starts (r : LaunchRec) (u : Strand) : Prop :=
  u.status = .running ∧ u.pc = r.entry ∧ u.level = .U ∧ u.ctxcur = r.ctx ∧ u.ar 14 = r.args ∧ u.ar 15 = BitVec.ofNat 80 (twb + 0x1C300000) ∧
  ∀ z, u.xr z = 0

theorem startStrand_starts (r : LaunchRec) (entry : Option CtxEntry) (k : Nat) : Starts r (startStrand r entry k) := by
  refine ⟨rfl, rfl, rfl, rfl, ?_, ?_, fun z => ?_⟩
  · simp [startStrand, Strand.ar, vget_set]
  · simp [startStrand, Strand.ar, vget_set]
  · simp [startStrand, Strand.xr, Vector.get]

/-- The tile at an offset of a team that has been placed, and its strands. -/
def TilePlaced (q : BitVec 2) (n k : Nat) (r : LaunchRec) (count ox oy : Nat) (p : Nat × Nat) (s : State) : Prop :=
  let t := tileAt q (ox + p.1) (oy + p.2)
  (s.tile t).life = .resident ∧ (s.tile t).started = false ∧ (s.tile t).tmem = [] ∧ (s.tile t).groups = r.groups.getD [] ∧
  (∃ e, (s.tile t).res = some e ∧ e.slot = n ∧ e.team = k ∧ e.dx = p.1 ∧ e.dy = p.2 ∧ e.ntiles = count) ∧
  ∀ j, j ≤ r.strm1 → Starts r (s.strand ⟨.tile t, BitVec.ofNat 3 j⟩)

section
variable (q : BitVec 2) (n k : Nat) (r : LaunchRec) (entry : Option CtxEntry) (count ox oy : Nat)

/-- The tile at an offset, with its place in the order of the footprint, is placed. -/
def placeOffset (s : State) (x : (Nat × Nat) × Nat) : State := placeTile q r entry (residencyOf n k r count ox oy) x.1.1 x.1.2 x.2 s

variable (s : State) (x : (Nat × Nat) × Nat)

/-- The start of a tile's strands leaves what no strand is part of. -/
theorem foldl_startStrand_keeps {β : Type} (g : State → β) (t : TileId) (hg : ∀ s j u, g (s.setStrand ⟨.tile t, j⟩ u) = g s) (l : List Nat) (s : State) :
    g (l.foldl (fun s m => s.setStrand ⟨.tile t, BitVec.ofNat 3 m⟩ (startStrand r entry m)) s) = g s :=
  foldl_keeps g (fun s _ => hg s _ _) l s

theorem foldl_startStrand_starts (t : TileId) {j : Nat} (hj : j ≤ r.strm1) (s : State) :
    Starts r (((List.range (r.strm1 + 1)).foldl (fun s m => s.setStrand ⟨.tile t, BitVec.ofNat 3 m⟩ (startStrand r entry m)) s).strand
      ⟨.tile t, BitVec.ofNat 3 j⟩) := by
  refine foldl_establishes (P := fun s => Starts r (s.strand ⟨.tile t, BitVec.ofNat 3 j⟩)) (I := fun _ => True)
    (List.mem_range.mpr (Nat.lt_succ_of_le hj)) (fun _ _ _ => trivial) (fun s _ => ?_) (fun m _ s _ hs => ?_) trivial
  · rw [State.strand_setStrand_self]
    exact startStrand_starts ..
  · rw [State.strand_setStrand]
    split
    · exact startStrand_starts ..
    · exact hs

theorem placeOffset_launches (p : BitVec 2) : ((placeOffset q n k r entry count ox oy s x).quad p).launches = (s.quad p).launches :=
  foldl_startStrand_keeps r entry (fun s => (s.quad p).launches) _ (fun _ _ _ => rfl) ..

section
variable {u : TileId} (h : u ≠ tileAt q (ox + x.1.1) (oy + x.1.2))
include h

theorem placeOffset_tile_ne : (placeOffset q n k r entry count ox oy s x).tile u = s.tile u :=
  (foldl_startStrand_keeps r entry (State.tile · u) _ (fun _ _ _ => rfl) ..).trans (State.tile_setTile_ne _ _ h)

theorem placeOffset_strand_ne (j : BitVec 3) :
    (placeOffset q n k r entry count ox oy s x).strand ⟨.tile u, j⟩ = s.strand ⟨.tile u, j⟩ :=
  foldl_startStrand_keeps r entry (State.strand · ⟨.tile u, j⟩) (tileAt q (ox + x.1.1) (oy + x.1.2))
    (fun s _ t => State.strand_setStrand_ne s t (by simp [h])) ..

end

theorem placeOffset_places : TilePlaced q n k r count ox oy x.1 (placeOffset q n k r entry count ox oy s x) := by
  have htile : (placeOffset q n k r entry count ox oy s x).tile (tileAt q (ox + x.1.1) (oy + x.1.2)) = _ :=
    (foldl_startStrand_keeps r entry (State.tile · (tileAt q (ox + x.1.1) (oy + x.1.2))) _ (fun _ _ _ => rfl) ..).trans (State.tile_setTile_self ..)
  unfold TilePlaced
  refine ⟨congrArg Tile.life htile, congrArg Tile.started htile, congrArg Tile.tmem htile, congrArg Tile.groups htile,
    ⟨_, congrArg Tile.res htile, rfl, rfl, rfl, rfl, rfl⟩, fun j hj => foldl_startStrand_starts r entry _ hj _⟩

/-- Every tile of a footprint that fits on the tile map is placed: offsets have tiles of their own. -/
theorem foldl_placeOffset_places {ps : List (Nat × Nat)} (hc : ∀ p ∈ ps, ox + p.1 < 8 ∧ oy + p.2 < 9) {p : Nat × Nat} (hp : p ∈ ps) :
    TilePlaced q n k r count ox oy p ((ps.mapIdx fun o p => (p, o)).foldl (placeOffset q n k r entry count ox oy) s) := by
  obtain ⟨o, ho, hpo⟩ := List.getElem_of_mem hp
  have hmem : (p, o) ∈ ps.mapIdx fun o p => (p, o) := List.mem_mapIdx.mpr ⟨o, ho, by rw [hpo]⟩
  refine foldl_establishes (I := fun _ => True) hmem (fun _ _ _ => trivial) (fun s _ => placeOffset_places q n k r entry count ox oy s (p, o))
    (fun x hx s _ hs => ?_) trivial
  obtain ⟨m, hm, rfl⟩ := List.mem_mapIdx.mp hx
  by_cases ht : tileAt q (ox + p.1) (oy + p.2) = tileAt q (ox + ps[m].1) (oy + ps[m].2)
  · obtain ⟨hx, hy⟩ := hc p hp
    obtain ⟨hx', hy'⟩ := hc ps[m] (List.getElem_mem hm)
    obtain ⟨h1, h2⟩ := tileAt_inj hx hy hx' hy' ht
    have hsame : p = ps[m] := Prod.ext (by omega) (by omega)
    rw [hsame]
    exact placeOffset_places q n k r entry count ox oy s (ps[m], m)
  · unfold TilePlaced at hs ⊢
    simp only [placeOffset_tile_ne q n k r entry count ox oy s (ps[m], m) ht, placeOffset_strand_ne q n k r entry count ox oy s (ps[m], m) ht]
    exact hs

end

/-- TEAM_PLACE places every tile of the footprint (R311, R313, R314). -/
theorem execTeamPlace_places {st : State} {q : BitVec 2} {n k ox oy : Nat} {w : Waiter} (hw : st.waiter q n k = some w)
    (hnew : w.team.state.isSaved = false) (hnext : st.nextPlaced q w ox oy = true) :
    let c := st.covered q w.launch.record ox oy
    execTeamPlace q n k ox oy st = .next (setTeam q n k (w.team.placed ox oy (st.now + st.wakeTime q ox oy c))
      ((c.mapIdx fun o p => (p, o)).foldl (placeOffset q n k w.launch.record (st.readCtx q w.launch.record.ctx) c.length ox oy) st)) := by
  simp only [execTeamPlace, hw, hnew, hnext]
  rfl

/-! ### The first issue (R314, R322) -/

theorem traceEngines_tile (t : TileId) (fin : Bool) (s : State) (u : TileId) : (traceEngines t fin s).tile u = s.tile u := by
  have hjobs := foldl_keeps (State.tile · u) (f := fun s (x : Nat × RiddleJob) => traceEvent ⟨.tile t, x.2.issuer⟩ 5 fin x.2.seq x.2.strip x.2.pc s)
    fun s x => traceEvent_tile ..
  have hmats := foldl_keeps (State.tile · u)
    (f := fun s (e : MatEntry) => if e.started then traceEvent ⟨.tile t, e.issuer⟩ 6 fin e.seq e.strip e.pc s else s) fun s e => by
      split
      · exact traceEvent_tile ..
      · rfl
  have hfills := foldl_keeps (State.tile · u) (f := fun s (e : OmFill) => traceEvent ⟨.tile t, e.issuer⟩ 6 fin e.seq e.strip e.pc s)
    fun s e => traceEvent_tile ..
  unfold traceEngines
  dsimp only
  split
  · exact (traceEvent_tile ..).trans ((hfills ..).trans ((hmats ..).trans (hjobs ..)))
  · exact (hfills ..).trans ((hmats ..).trans (hjobs ..))

theorem resumeTile_tile (t : TileId) (s : State) (u : TileId) : (resumeTile t s).tile u = s.tile u :=
  (traceEngines_tile ..).trans (State.tile_of_tiles (tiles_trace ..) u)

/-- A tile of a team starts; one of a restored team resumes its engines. -/
def startTile (again : Bool) (s : State) (t : TileId) : State := (if again then resumeTile t s else s).modTile t fun v => { v with started := true }

theorem startTile_tile (again : Bool) (s : State) (t u : TileId) :
    (startTile again s t).tile u = if u = t then { s.tile u with started := true } else s.tile u := by
  have h : (if again then resumeTile t s else s).tile u = s.tile u := by
    split
    · exact resumeTile_tile ..
    · rfl
  unfold startTile
  rw [State.tile_modTile]
  split
  · next hu =>
    subst hu
    rw [h]
  · exact h

theorem foldl_startTile_tile (again : Bool) {ts : List TileId} {t : TileId} (ht : t ∈ ts) (s : State) :
    (ts.foldl (startTile again) s).tile t = { s.tile t with started := true } := by
  have hstep (u : State) (b : TileId) : ({ (startTile again u b).tile t with started := true } : Tile) = { u.tile t with started := true } := by
    rw [startTile_tile]
    split <;> rfl
  refine foldl_establishes (I := fun u => ({ u.tile t with started := true } : Tile) = { s.tile t with started := true })
    (P := fun u => u.tile t = { s.tile t with started := true }) ht
    (fun u b h => (hstep u b).trans h) (fun u h => ?_) (fun b _ u h hP => ?_) rfl
  · rw [startTile_tile, if_pos rfl, h]
  · rw [startTile_tile]
    split
    · exact h
    · exact hP

theorem execTeamFirstIssue_starts {st : State} {q : BitVec 2} {n k ox oy at' : Nat} {tm : Team}
    (htm : (st.launchAt q n).bind (·.team k) = some tm) (hstate : tm.state = .resident ox oy at') (hdue : at' + 48 ≤ st.now)
    (hnew : ∃ t ∈ st.teamTiles q n k, (st.tile t).started = false)
    (hleave : ∀ t ∈ st.teamTiles q n k, (st.tile t).region = 0 ∨ (st.tile t).leave = true) :
    execTeamFirstIssue q n k st = .next ((st.teamTiles q n k).foldl (startTile tm.restored) st) := by
  have hall : (st.teamTiles q n k).all (fun t => (st.tile t).started) = false := by simpa using hnew
  have hany : (st.teamTiles q n k).any (fun t => (st.tile t).region != 0 && !(st.tile t).leave) = false := by
    simpa [or_iff_not_imp_left] using hleave
  obtain ⟨state, since, claim, weighed, target, again⟩ := tm
  subst hstate
  simp only [execTeamFirstIssue, htm, hall, hany, decide_eq_false (Nat.not_lt.mpr hdue)]
  rfl

/-! ### The end of a team and of its launch (R315) -/

section
variable (t : TileId) (s : State)

/-- The slots of a tile are freed, and its requests for leave withdrawn. -/
def freeSlots (t : TileId) (s : State) : State :=
  (slots (.tile t)).foldl (fun s i => s.setStrand i {}) (s.modQuad t.quad fun d => { d with waiting := d.waiting.filter (·.tile ≠ t) })

/-- The freeing of slots leaves what neither strands nor requests for leave are part of. -/
theorem freeSlots_keeps {β : Type} (g : State → β) (hg : ∀ s i u, g (s.setStrand i u) = g s)
    (hq : ∀ s : State, g (s.modQuad t.quad fun d => { d with waiting := d.waiting.filter (·.tile ≠ t) }) = g s) : g (freeSlots t s) = g s :=
  (foldl_keeps g (fun s i => hg s i _) ..).trans (hq s)

theorem freeSlots_launches (q : BitVec 2) : ((freeSlots t s).quad q).launches = (s.quad q).launches :=
  freeSlots_keeps t s (fun s => (s.quad q).launches) (fun _ _ _ => rfl) fun s =>
    modQuad_keeps (f := fun d => { d with waiting := d.waiting.filter (·.tile ≠ t) }) Quad.launches (fun _ => rfl) s t.quad q

theorem leaveTile_eq : leaveTile t s = ({ freeSlots t s with
    merges := (freeSlots t s).merges.filter fun m => match m.loc with | .tmem u _ => u ≠ t | .mem _ => true } : State).modTile t fun v =>
      { v with life := .clearing, since := (freeSlots t s).now, res := none, started := false, leave := false, region := 0, mode := none,
               fabric := {}, mats := [], fills := [], streams := [], jobs := [] } := rfl

@[simp] theorem leaveTile_now : (leaveTile t s).now = s.now := by
  rw [leaveTile_eq, State.now_modTile]
  exact freeSlots_keeps t s State.now (fun _ _ _ => rfl) fun _ => rfl

@[simp] theorem leaveTile_launches (q : BitVec 2) : ((leaveTile t s).quad q).launches = (s.quad q).launches := by
  rw [leaveTile_eq, launches_modTile]
  exact freeSlots_launches t s q

theorem leaveTile_strands : (leaveTile t s).strands = (freeSlots t s).strands := rfl

theorem leaveTile_tile_ne {u : TileId} (h : u ≠ t) : (leaveTile t s).tile u = s.tile u := by
  rw [leaveTile_eq, State.tile_modTile_ne _ _ h]
  exact freeSlots_keeps t s (State.tile · u) (fun _ _ _ => rfl) fun _ => rfl

/-- A slot that nothing uses stays so as tiles leave their team. -/
theorem leaveTile_strand {i : StrandId} (h : s.strand i = {}) : (leaveTile t s).strand i = {} := by
  rw [State.strand_of_strands (leaveTile_strands t s)]
  refine List.foldlRecOn (motive := fun s : State => s.strand i = {}) (slots (.tile t)) _ h fun s hs j _ => ?_
  rw [State.strand_setStrand]
  split
  · rfl
  · exact hs

/-- A tile that has left its team at a time. -/
def TileLeft (now : Nat) (s : State) : Prop :=
  (s.tile t).life = .clearing ∧ (s.tile t).since = now ∧ (s.tile t).res = none ∧ (s.tile t).leave = false ∧ ∀ j, s.strand ⟨.tile t, j⟩ = {}

theorem mem_slots (c : CoreId) (j : BitVec 3) : (⟨c, j⟩ : StrandId) ∈ slots c :=
  List.mem_map.mpr ⟨j.toNat, List.mem_range.mpr j.isLt, by simp⟩

theorem leaveTile_left : TileLeft t s.now (leaveTile t s) := by
  have htile := congrArg (State.tile · t) (leaveTile_eq t s)
  simp only [State.tile_modTile_self] at htile
  refine ⟨congrArg Tile.life htile, (congrArg Tile.since htile).trans (leaveTile_now t s), congrArg Tile.res htile, congrArg Tile.leave htile, fun j => ?_⟩
  rw [State.strand_of_strands (leaveTile_strands t s)]
  refine foldl_establishes (P := fun s => s.strand ⟨.tile t, j⟩ = {}) (I := fun _ => True) (mem_slots (.tile t) j) (fun _ _ _ => trivial)
    (fun s _ => State.strand_setStrand_self ..) (fun i _ s _ hs => ?_) trivial
  rw [State.strand_setStrand]
  split
  · rfl
  · exact hs

end

theorem foldl_leaveTile_left {ts : List TileId} {t : TileId} (ht : t ∈ ts) (s : State) :
    TileLeft t s.now (ts.foldl (fun s t => leaveTile t s) s) := by
  refine foldl_establishes (I := fun u => u.now = s.now) ht (fun u b h => (leaveTile_now b u).trans h) (fun u h => h ▸ leaveTile_left t u)
    (fun b _ u h hP => ?_) rfl
  by_cases hb : t = b
  · rw [← hb, ← h]
    exact leaveTile_left t u
  · unfold TileLeft at hP ⊢
    rw [leaveTile_tile_ne b u hb]
    obtain ⟨hlife, hsince, hres, hleave, hstrands⟩ := hP
    exact ⟨hlife, hsince, hres, hleave, fun j => leaveTile_strand b u (hstrands j)⟩

section
variable (q : BitVec 2) (n k : Nat) (s : State)

theorem endTeam_left {t : TileId} (ht : t ∈ s.teamTiles q n k) : TileLeft t s.now (endTeam q n k s) := by
  have h := foldl_leaveTile_left ht s
  unfold endTeam
  dsimp only
  split <;> exact h

theorem launchAt_endTeam {l : Launch} (hl : s.launchAt q n = some l) :
    let e := { l with teams := l.teams.modify k fun t => { t with state := .ended } }
    (endTeam q n k s).launchAt q n = some (if l.state = .ready ∧ e.teams.all (fun t => t.state = .ended) = true
      then { e with state := .done, signal := l.record.sig != 0, doneAt := s.now } else e) := by
  have hlaunch := State.launchAt_of_launches (foldl_keeps (fun s => (s.quad q).launches) (f := fun s t => leaveTile t s)
    (fun s t => leaveTile_launches t s q) (s.teamTiles q n k) s) n
  have hnow := foldl_keeps State.now (f := fun s t => leaveTile t s) (fun s t => leaveTile_now t s) (s.teamTiles q n k) s
  unfold endTeam
  simp only [hlaunch, hl, hnow, launchAt_setLaunch, Bool.and_eq_true, decide_eq_true_eq]

end

theorem execTeamEnd_ends {st : State} {q : BitVec 2} {n k ox oy at' : Nat} {tm : Team} (htm : (st.launchAt q n).bind (·.team k) = some tm)
    (hstate : tm.state = .resident ox oy at') (hover : ∀ t ∈ st.teamTiles q n k, (st.tile t).started = true ∧ st.tileOver t = true) :
    execTeamEnd q n k st = .next (endTeam q n k st) := by
  have hall : (st.teamTiles q n k).all (fun t => (st.tile t).started && st.tileOver t) = true := by simpa using hover
  obtain ⟨state, since, claim, weighed, target, again⟩ := tm
  subst hstate
  simp only [execTeamEnd, htm, hall]
  rfl

/-! ### Cleared tiles and low power (R315, R402) -/

/-- A tile once its clearing is done. -/
def clearedTile (v : Tile) (now : Nat) : Tile :=
  { power := v.power, core := { icache := v.core.icache }, isspol := v.isspol, polWas := v.polWas, tlb := v.tlb, port := v.port, sync := v.sync,
    traced := v.traced, since := now }

theorem execTileClearDone_clears {st : State} {t : TileId} (hlife : (st.tile t).life = .clearing) (hdue : (st.tile t).since + 1536 ≤ st.now) :
    ∃ s, execTileClearDone t st = .next s ∧ s.tile t = clearedTile (st.tile t) st.now := by
  have hwait : (decide ((st.tile t).life ≠ .clearing) || decide (st.now < (st.tile t).since + 1536)) = false := by
    simp [hlife, Nat.not_lt.mpr hdue]
  refine ⟨_, by simp only [execTileClearDone, hwait]; rfl, ?_⟩
  exact State.tile_setTile_self st t (clearedTile (st.tile t) st.now)

theorem execTileLowPowerEntry_enters {st : State} {t : TileId} (hen : st.enabled t = true) (hlife : (st.tile t).life = .idle)
    (hdue : (st.tile t).since + 1250 ≤ st.now) (hp : (st.tile t).power.exit < (deepest (st.quad t.quad).lattol).exit) :
    execTileLowPowerEntry t st = .next (st.setTile t { st.tile t with power := deepest (st.quad t.quad).lattol }) := by
  simp [execTileLowPowerEntry, hen, hlife, Nat.not_lt.mpr hdue, Nat.not_le.mpr hp]

/-- Settles O49: each event answers the state that its equation above names. -/
theorem teamsArePlacedAndEnd : Obligations.TeamsArePlacedAndEnd := by
  intro st q n k ox oy
  refine ⟨fun w hw hnew hnext => ?place, fun tm at' htm hstate => ⟨?issue, fun hover => ?ends⟩,
    fun t => ⟨fun hlife hdue => ?clear, execTileLowPowerEntry_enters⟩⟩
  case place =>
    intro r c hx hy
    have hc : ∀ p ∈ c, ox + p.1 < 8 ∧ oy + p.2 < 9 := fun p hp => by
      obtain ⟨h1, h2⟩ := le_of_mem_covered hp
      omega
    refine ⟨_, execTeamPlace_places hw hnew hnext, fun htm => ?_, fun p hp => ?_⟩
    · refine ⟨_, team_setTeam (e := w.team) ?_, rfl, rfl⟩
      rw [State.launchAt_of_launches (foldl_keeps (fun s => (s.quad q).launches) (fun s x => placeOffset_launches ..) ..), htm]
    · intro t
      simp only [setTeam_tile, setTeam_strand]
      exact foldl_placeOffset_places q n k r (st.readCtx q r.ctx) c.length ox oy st hc hp
  case issue =>
    intro hdue hnew hleave
    refine ⟨_, execTeamFirstIssue_starts htm hstate hdue hnew hleave, fun t ht => ?_⟩
    rw [foldl_startTile_tile _ ht]
    exact ⟨rfl, fun _ => rfl⟩
  case ends => exact ⟨_, execTeamEnd_ends htm hstate hover, fun t ht => endTeam_left q n k st ht, fun l hl => launchAt_endTeam q n k st hl⟩
  case clear =>
    obtain ⟨s, hs, ht⟩ := execTileClearDone_clears hlife hdue
    exact ⟨s, hs, congrArg Tile.life ht, congrArg Tile.tmem ht, congrArg Tile.v ht, (congrArg Tile.power ht).trans rfl⟩

end Sys2Proof.Machine
end

section
/-! PROOF. What a swap-out's decision leaves of the launch tables: ended waits, stopped strands and engines (R114, R218, R242, R319, R386). -/

namespace Sys2Proof.Machine

open Sys2Proof

section
variable (q : BitVec 2)

/-! ### Writes and partials (R242, R393) -/

theorem launches_writeTmem (k : Option StrandId) (t : TileId) (o : Nat) (bs : List Byte) (s : State) :
    ((writeTmem k t o bs s).quad q).launches = (s.quad q).launches := by
  unfold writeTmem
  split
  · rfl
  · exact foldl_keeps (f := fun s n => loseLinks k (.tmem t n) s) (fun s => (s.quad q).launches) (fun _ _ => rfl) ..

theorem launches_writeStorage (k : Option StrandId) (l : Loc) (bs : List Byte) (s : State) :
    ((writeStorage k l bs s).quad q).launches = (s.quad q).launches := by
  unfold writeStorage
  split
  · cases l with
    | mem a => exact launches_errorRecord ..
    | tmem t o => rfl
  · cases l with
    | mem a => exact launches_writeMem ..
    | tmem t o => exact launches_writeTmem ..

theorem launches_cutRanges (self : Option (TileId × Nat)) (w : Bool) (l : Loc) (n : Nat) (s : State) :
    ((cutRanges self w l n s).quad q).launches = (s.quad q).launches := by cases l <;> rfl

theorem launches_notePoison (a n : Nat) (s : State) : ((notePoison a n s).quad q).launches = (s.quad q).launches :=
  foldl_keeps (fun s => (s.quad q).launches) (fun s k => by
    split
    · exact launches_errorRecord ..
    · rfl) _ s

theorem quads_bracket (n k : Nat) (l : List Nat) (s : State) : (bracket n k l s).2.quads = s.quads := by
  induction k generalizing l s with
  | zero => rfl
  | succ k ih =>
    match l with
    | [] => rfl
    | [_] => rfl
    | a :: b :: r =>
      simp only [bracket]
      rw [ih]
      rfl

theorem launches_atHome (l : Loc) (s : State) : ((atHome l s).quad q).launches = (s.quad q).launches := by
  unfold atHome
  split
  · rfl
  · split
    · rfl
    · exact modCrucible_keeps (p := Quad.launches) (fun _ _ => rfl) q ..

theorem launches_applyPartial (op : AmoOp) (k : Combine) (s : State) : ((applyPartial op k s).quad q).launches = (s.quad q).launches := by
  unfold applyPartial
  dsimp only
  have hcut : ((if s.meets none true k.phys.loc k.size = .cut then cutRanges none true k.phys.loc k.size s else s).quad q).launches =
      (s.quad q).launches := by
    split
    · exact launches_cutRanges ..
    · rfl
  rw [← hcut]
  generalize (if s.meets none true k.phys.loc k.size = .cut then cutRanges none true k.phys.loc k.size s else s) = u
  split
  · exact launches_writeStorage ..
  · split
    · split
      · exact launches_notePoison ..
      · exact launches_errorRecord ..
    · split
      · rw [launches_atHome, launches_writeStorage]
      · show ((atHome _ _).quad q).launches = _
        rw [launches_atHome, launches_writeStorage, State.quad, quads_bracket, State.quad]

theorem launches_flushParts (i : StrandId) (s : State) : ((flushParts i s).quad q).launches = (s.quad q).launches := by
  unfold flushParts
  dsimp only
  split
  · rfl
  · exact foldl_keeps (f := fun s (p : AmoOp × List Combine) => p.2.foldl (fun s k => applyPartial p.1 k s) s) (fun s => (s.quad q).launches)
      (fun s p => foldl_keeps (fun s => (s.quad q).launches) (fun s k => launches_applyPartial q p.1 k s) p.2 s) ..

/-! ### Strands that stop, and traps (R386, R410) -/

theorem launches_traceStops (i : StrandId) (s : State) : ((traceStops i s).quad q).launches = (s.quad q).launches :=
  foldl_keeps (fun s => (s.quad q).launches) (fun s e => by
    split
    · exact launches_traceEvent ..
    · rfl) _ s

theorem launches_traceWait (i : StrandId) (s : State) : ((traceWait i s).quad q).launches = (s.quad q).launches := by
  unfold traceWait
  dsimp only
  split
  · exact foldl_keeps (fun s => (s.quad q).launches) (fun s p => launches_traceEvent ..) _ s
  · rfl

theorem launches_leaveWait (i : StrandId) (s : State) : ((leaveWait i s).quad q).launches = (s.quad q).launches := by
  have hclock : ((dropClock i s).quad q).launches = (s.quad q).launches :=
    modQuad_keeps (f := fun v => { v with clock := { v.clock with target := v.clock.target.filter (·.1 ≠ i) } }) Quad.launches (fun _ => rfl) ..
  unfold leaveWait
  generalize (s.strand i).status = w
  generalize i.core = c
  cases w with
  | blocked w =>
    cases w with
    | clock => cases c <;> exact hclock
    | _ => cases c <;> rfl
  | _ => rfl

theorem launches_dropWait (i : StrandId) (s : State) : ((dropWait i s).quad q).launches = (s.quad q).launches := by
  rw [dropWait, launches_leaveWait, launches_traceWait]

theorem launches_takeSlot (i : StrandId) (s : State) : ((takeSlot i s).quad q).launches = (s.quad q).launches := by
  unfold takeSlot State.modCore
  split
  · rfl
  · exact modQuad_keeps (f := fun v => { v with core := v.core.issued (s.roundRobin i.core) i.slot s.now }) Quad.launches (fun _ => rfl) ..

theorem launches_enterTrap (g : Level) (i : StrandId) (k : TrapRec) (t : Strand) (s : State) :
    ((enterTrap g i k t s).quad q).launches = (s.quad q).launches := by
  unfold enterTrap
  dsimp only
  split
  · split
    · rw [launches_errorRecord]
      exact foldl_keeps (f := fun s (e : VEntry) => traceEvent i 0 true e.seq e.strip e.pc s) (fun s => (s.quad q).launches)
        (fun s e => launches_traceEvent ..) ..
    · rfl
  · rfl

theorem launches_takeTrap (i : StrandId) (k : TrapRec) (s : State) : ((takeTrap i k s).quad q).launches = (s.quad q).launches := by
  rw [takeTrap, takeTrapTo_eq, launches_enterTrap, stopped, launches_takeSlot, launches_flushParts, launches_dropWait, launches_traceStops]

/-! ### Events -/

/-- An event whose states have the launch tables of its own. -/
def KeepsLaunches (f : State → Out) : Prop := ∀ s u, f s = .next u → (u.quad q).launches = (s.quad q).launches

theorem event_keepsLaunches {s u : State} {r : Option State} (hr : ∀ v, r = some v → (v.quad q).launches = (s.quad q).launches)
    (h : event s r = .next u) : (u.quad q).launches = (s.quad q).launches := by
  obtain rfl | hu := event_cases h
  · rfl
  · exact hr u hu

theorem launches_lone (c : CoreId) (s : State) : ((lone c s).quad q).launches = (s.quad q).launches :=
  foldl_keeps (fun s => (s.quad q).launches) (fun s j => by split <;> rfl) _ s

theorem launches_of_wakeTrap {i : StrandId} {f : Flt} {s u : State} (h : wakeTrap i f s = some u) : (u.quad q).launches = (s.quad q).launches := by
  unfold wakeTrap at h
  split at h
  · rw [← Option.some.inj h, launches_lone, launches_takeTrap]
  · cases h

/-- The word that a waiting strand reads leaves the launch tables as they were. -/
theorem launches_of_waitWord {t : Strand} {p : Phys} {ea : Addr} {s u : State} {w : Nat} (h : waitWord t p ea s = some (.ok (w, u))) :
    (u.quad q).launches = (s.quad q).launches := by
  have hcut : ((if s.meets none false p.loc 8 = .cut then cutRanges none false p.loc 8 s else s).quad q).launches = (s.quad q).launches := by
    split
    · exact launches_cutRanges ..
    · rfl
  unfold waitWord at h
  split at h
  · cases h
  · split at h
    · cases h
    · rw [← hcut]
      revert h
      generalize (if s.meets none false p.loc 8 = .cut then cutRanges none false p.loc 8 s else s) = z
      intro h
      cases hr : scalarRead t t.issued p 8 z with
      | error f => simp [hr] at h
      | ok v =>
        simp only [hr, Option.some.injEq, Except.ok.injEq, Prod.mk.injEq] at h
        rw [h.2]

theorem execWaitlineWake_keepsLaunches (i : StrandId) : KeepsLaunches q (execWaitlineWake i) := by
  intro s u
  refine event_keepsLaunches q fun v hv => ?_
  split at hv
  · split at hv
    · cases hv
    · exact launches_of_wakeTrap q hv
    · next h =>
      split at hv
      · cases hv
      · cases hv
        exact (launches_of_waitWord q h :)
  · cases hv

theorem execBarwWake_keepsLaunches (i : StrandId) : KeepsLaunches q (execBarwWake i) := by
  intro s u
  refine event_keepsLaunches q fun v hv => ?_
  split at hv
  · split at hv
    · cases hv
    · exact launches_of_wakeTrap q hv
    · next h =>
      split at hv
      · cases hv
        exact (launches_of_waitWord q h :)
      · cases hv
  · cases hv

theorem execFullemptyWake_keepsLaunches (i : StrandId) : KeepsLaunches q (execFullemptyWake i) := by
  intro s u
  refine event_keepsLaunches q fun v hv => ?_
  split at hv
  · split at hv
    · cases hv
    · split at hv
      · exact launches_of_wakeTrap q hv
      · next h =>
        cases hv
        unfold granuleRead at h
        split at h
        · cases h
        · cases h
          split <;> rfl
  · cases hv

theorem execStrmWaitWake_keepsLaunches (i : StrandId) : KeepsLaunches q (execStrmWaitWake i) := by
  intro s u
  refine event_keepsLaunches q fun v hv => ?_
  split at hv
  · dsimp only at hv
    split at hv
    · cases hv
      rfl
    · cases hv
  · cases hv

theorem execTqpopWake_keepsLaunches (i : StrandId) : KeepsLaunches q (execTqpopWake i) := by
  intro s u
  refine event_keepsLaunches q fun v hv => ?_
  dsimp only at hv
  split at hv
  · split at hv
    · split at hv
      · cases hv
        rfl
      · cases hv
    · cases hv
  · cases hv

theorem launches_forceRelease (t : TileId) (s : State) : ((forceRelease t s).quad q).launches = (s.quad q).launches := by
  unfold forceRelease
  dsimp only
  split
  · rfl
  · refine (foldl_keeps (fun s => (s.quad q).launches) (fun s r => ?_) ..).trans
      (foldl_keeps (fun s => (s.quad q).launches) (fun s k => launches_writeTmem ..) ..)
    unfold setFull
    split <;> rfl

theorem execQdrainWake_keepsLaunches (i : StrandId) : KeepsLaunches q (execQdrainWake i) := by
  intro s u
  refine event_keepsLaunches q fun v hv => ?_
  split at hv
  · dsimp only at hv
    split at hv
    · split at hv
      · split at hv
        · cases hv
        · cases hv
          rw [State.quad_setX, unblock, launches_modStrand]
          split
          · rw [launches_forceRelease, noteWoken, launches_traceEvent]
            rfl
          · rw [noteWoken, launches_traceEvent]
            rfl
      · cases hv
    · cases hv
  · cases hv

theorem execJoinlWake_keepsLaunches (i : StrandId) : KeepsLaunches q (execJoinlWake i) := by
  intro s u
  refine event_keepsLaunches q fun v hv => ?_
  dsimp only at hv
  split at hv
  · split at hv
    · cases hv
      rfl
    · cases hv
  · cases hv

theorem launches_retire (i : StrandId) (k : Nat) (s : State) : ((retire i k s).quad q).launches = (s.quad q).launches := by
  unfold retire
  split
  · rfl
  · unfold traceEnd
    rw [launches_traceEvent]
    split
    · exact launches_traceEvent ..
    · rfl

theorem execJoinlAct_keepsLaunches (i : StrandId) : KeepsLaunches q (execJoinlAct i) := by
  intro s u
  refine event_keepsLaunches q fun v hv => ?_
  dsimp only at hv
  split at hv
  · split at hv
    · cases hv
    · split at hv
      · cases hv
      · cases hv
        rw [launches_modStrand, launches_retire]
        rfl
  · cases hv

/-! ### The decision (R319) -/

theorem launches_of_actsNow {l : List (State → Out)} (hl : ∀ f ∈ l, KeepsLaunches q f) {s u : State} (h : actsNow l s = some u) :
    (u.quad q).launches = (s.quad q).launches := by
  obtain ⟨f, hf, hu⟩ := List.exists_of_findSome?_eq_some h
  split at hu
  · next v hv =>
    split at hu
    · cases hu
    · cases hu
      exact hl f hf { s with idle := false } _ hv
  · cases hu

theorem launches_joinNow (i : StrandId) (s : State) : ((joinNow i s).quad q).launches = (s.quad q).launches := by
  unfold joinNow
  dsimp only
  cases h : actsNow [execJoinlAct i] s with
  | none => rfl
  | some u => exact launches_of_actsNow q (by simpa using execJoinlAct_keepsLaunches q i) h

theorem launches_endWait (i : StrandId) (s : State) : ((endWait i s).quad q).launches = (s.quad q).launches := by
  unfold endWait
  split
  · cases h : actsNow [execJoinlWake i] s with
    | none => rfl
    | some u => exact (launches_joinNow q i u).trans (launches_of_actsNow q (by simpa using execJoinlWake_keepsLaunches q i) h)
  · cases h : actsNow [execWaitlineWake i, execFullemptyWake i, execStrmWaitWake i, execTqpopWake i, execBarwWake i, execQdrainWake i] s with
    | none => rfl
    | some u =>
      refine launches_of_actsNow q ?_ h
      simp only [List.forall_mem_cons]
      exact ⟨execWaitlineWake_keepsLaunches q i, execFullemptyWake_keepsLaunches q i, execStrmWaitWake_keepsLaunches q i,
        execTqpopWake_keepsLaunches q i, execBarwWake_keepsLaunches q i, execQdrainWake_keepsLaunches q i, fun _ h => absurd h List.not_mem_nil⟩

theorem launches_swapStrand (i : StrandId) (s : State) : ((swapStrand i s).quad q).launches = (s.quad q).launches := by
  rw [swapStrand, launches_modStrand, launches_flushParts, launches_dropWait, launches_traceStops]

theorem launches_traceEngines (t : TileId) (fin : Bool) (s : State) : ((traceEngines t fin s).quad q).launches = (s.quad q).launches := by
  have hjobs := foldl_keeps (fun s => (s.quad q).launches)
    (f := fun s (x : Nat × RiddleJob) => traceEvent ⟨.tile t, x.2.issuer⟩ 5 fin x.2.seq x.2.strip x.2.pc s) fun s x => launches_traceEvent ..
  have hmats := foldl_keeps (fun s => (s.quad q).launches)
    (f := fun s (e : MatEntry) => if e.started then traceEvent ⟨.tile t, e.issuer⟩ 6 fin e.seq e.strip e.pc s else s) fun s e => by
      split
      · exact launches_traceEvent ..
      · rfl
  have hfills := foldl_keeps (fun s => (s.quad q).launches)
    (f := fun s (e : OmFill) => traceEvent ⟨.tile t, e.issuer⟩ 6 fin e.seq e.strip e.pc s) fun s e => launches_traceEvent ..
  unfold traceEngines
  dsimp only
  split
  · exact (launches_traceEvent ..).trans ((hfills ..).trans ((hmats ..).trans (hjobs ..)))
  · exact (hfills ..).trans ((hmats ..).trans (hjobs ..))

theorem launches_swapEngines (t : TileId) (s : State) : ((swapEngines t s).quad q).launches = (s.quad q).launches := by
  have hmoving (i : StrandId) (x : Stream) (s : State) : ((endMoving i x s).quad q).launches = (s.quad q).launches := by
    unfold endMoving
    split
    · exact launches_traceEvent ..
    · rfl
  unfold swapEngines
  dsimp only
  refine Eq.trans (foldl_keeps (fun s => (s.quad q).launches) (fun s x => ?_) ..) (foldl_keeps (fun s => (s.quad q).launches) (fun s x => ?_) ..)
  · split <;> rfl
  · split
    · exact hmoving ..
    · exact hmoving ..

theorem launches_swapTile (t : TileId) (s : State) : ((swapTile t s).quad q).launches = (s.quad q).launches := by
  have hwaits := foldl_keeps (f := fun s (_ : Nat) => (slots (.tile t)).foldl (fun s i => endWait i s) s) (fun s => (s.quad q).launches)
    fun s _ => foldl_keeps (fun s => (s.quad q).launches) (fun s i => launches_endWait q i s) (slots (.tile t)) s
  have hstrands := foldl_keeps (f := fun s i => if (s.strand i).status = .free then s else swapStrand i s) (fun s => (s.quad q).launches) fun s i => by
    split
    · rfl
    · exact launches_swapStrand ..
  have hstopped (s : State) : ((swapEngines t (traceEngines t true s)).quad q).launches = (s.quad q).launches :=
    (launches_swapEngines ..).trans (launches_traceEngines ..)
  unfold swapTile
  dsimp only
  split
  · rw [launches_modTile]
    exact (hstopped _).trans ((hstrands ..).trans (hwaits ..))
  · rw [modFabric, launches_modTile, markTile, launches_modTile, launches_modTile]
    exact (hstopped _).trans ((hstrands ..).trans (hwaits ..))

end

end Sys2Proof.Machine
end

section
/-! PROOF. The decision to pre-empt, the save of a swapped team and its restore (R316, R318, R319, R321, R322). -/

namespace Sys2Proof.Machine

open Sys2Proof

/-! ### The decision (R316, R318) -/

section
variable {st : State} {q : BitVec 2} {n k : Nat} {w : Waiter} (hw : st.waiter q n k = some w) (hclaims : w.team.claims st.now = true)
  (hheld : st.heldBack q w = false) (hweighed : w.team.weighed ≠ some (st.quad q).chances) (hplace : st.placement q w = none)
  (hpromised : st.promised q w = none)
include hw hclaims hheld hweighed hplace hpromised

theorem execPreemptDecision_refuses_of_no_fit
    (hfit : st.firstFit q w.launch.record w.team.state.need (fun t => st.freeFor q w t || st.freeable w.launch.record.prio t) = none) :
    execPreemptDecision q n k st = .next (bumpQuad q 0 1 (setTeam q n k { w.team with weighed := some (st.quad q).chances } st)) := by
  simp [execPreemptDecision, hw, hclaims, hheld, hweighed, hplace, hpromised, hfit]

section
variable {ox oy : Nat}
  (hfit : st.firstFit q w.launch.record w.team.state.need (fun t => st.freeFor q w t || st.freeable w.launch.record.prio t) = some (ox, oy))
  (htagged : ∀ v ∈ st.victims q w.launch.record ox oy, ∀ t ∈ st.teamTiles q v.1 v.2, (st.tile t).tagged ≠ some st.now)
include hfit htagged

theorem execPreemptDecision_refuses_of_no_room (hroom : st.poolRoom q (st.victims q w.launch.record ox oy) = false) :
    execPreemptDecision q n k st = .next (bumpQuad q 0 1 (setTeam q n k { w.team with weighed := some (st.quad q).chances } st)) := by
  have hany : (st.victims q w.launch.record ox oy).any (fun v => (st.teamTiles q v.1 v.2).any fun t => (st.tile t).tagged = some st.now) = false := by
    simpa using htagged
  simp [execPreemptDecision, hw, hclaims, hheld, hweighed, hplace, hpromised, hfit, hany, hroom]

theorem execPreemptDecision_swaps (hroom : st.poolRoom q (st.victims q w.launch.record ox oy) = true) :
    execPreemptDecision q n k st = .next ((st.victims q w.launch.record ox oy).foldl (fun s v => swapTeam q v.1 v.2 s)
      (setTeam q n k { w.team with weighed := some (st.quad q).chances, target := some (ox, oy) } st)) := by
  have hany : (st.victims q w.launch.record ox oy).any (fun v => (st.teamTiles q v.1 v.2).any fun t => (st.tile t).tagged = some st.now) = false := by
    simpa using htagged
  simp [execPreemptDecision, hw, hclaims, hheld, hweighed, hplace, hpromised, hfit, hany, hroom]

end

end

theorem launchAt_swapTeam {st : State} {q : BitVec 2} {n k ox oy at' : Nat} {tm : Team} (htm : (st.launchAt q n).bind (·.team k) = some tm)
    (hstate : tm.state = .resident ox oy at') : (swapTeam q n k st).launchAt q n =
      (st.launchAt q n).map fun l => { l with teams := l.teams.set k { tm with state := .draining ox oy } } := by
  simp only [swapTeam, htm, hstate]
  rw [launchAt_setTeam, State.launchAt_of_launches (foldl_keeps (f := fun s t => swapTile t s) (fun s => (s.quad q).launches)
    (fun s t => launches_swapTile q t s) ..)]

/-! ### The save (R319, R321) -/

/-- Catching the tokens on their way changes tiles alone (R374). -/
theorem catchAll_keeps {β : Type} (g : State → β) (hg : ∀ (s : State) l, g { s with tiles := l } = g s) (t : TileId) (s : State) :
    g (catchAll t s) = g s := by
  have hroute (e : ElemId) (n : Nat) (fl : Flight) (s : State) : g (catchRoute e n fl s) = g s := (hg _ _).trans (hg s _)
  exact foldl_keeps g (fun s x => foldl_keeps g (fun s n => foldl_keeps g (fun s fl => hroute _ n fl s) _ s) _ s) _ s

section
variable (q : BitVec 2) (n k : Nat) (s : State)

/-- The state of a team's tiles as they go into their image. -/
def caughtTeam : State := (s.teamTiles q n k).foldl (fun s t => catchAll t s) s

theorem caughtTeam_free : (caughtTeam q n k s).free = s.free :=
  foldl_keeps State.free (fun s t => catchAll_keeps State.free (fun _ _ => rfl) t s) ..

theorem caughtTeam_quad (p : BitVec 2) : (caughtTeam q n k s).quad p = s.quad p :=
  foldl_keeps (State.quad · p) (fun s t => catchAll_keeps (State.quad · p) (fun _ _ => rfl) t s) ..

theorem saveTeam_tiles_length : (saveTeam q n k s).1.tiles.length = (s.teamTiles q n k).length := List.length_map _

theorem saveTeam_base : (saveTeam q n k s).1.base = s.free := caughtTeam_free q n k s

/-- The blocks of an image are as many as it needs at most, and none that another image holds. -/
theorem saveTeam_blocks : (saveTeam q n k s).1.blocks.length ≤ s.teamBlocks q n k ∧ ∀ b ∈ (saveTeam q n k s).1.blocks, b ∉ (s.quad q).taken := by
  have hblocks : (saveTeam q n k s).1.blocks = ((List.range ((caughtTeam q n k s).quad q).nblk.toNat).filter
      fun b => !((caughtTeam q n k s).quad q).taken.contains b).take (s.teamBlocks q n k) := rfl
  rw [hblocks, caughtTeam_quad]
  refine ⟨List.length_take_le .., fun b hb => ?_⟩
  simpa using (List.mem_filter.mp (List.mem_of_mem_take hb)).2

/-- The state in which the image has been written, and the tiles still belong to their team. -/
def imageWritten : State :=
  let im := (saveTeam q n k s).1
  let c := caughtTeam q n k s
  im.blocks.zipIdx.foldl (fun s x => hwWrite (s.globalPa ((s.quad q).poolBlock x.1)) (imageBytes im.base x.2) s)
    { c with free := c.free + 16384 * im.blocks.length }

theorem saveTeam_state : (saveTeam q n k s).2 = (s.teamTiles q n k).foldl (fun s t => leaveTile t s) (imageWritten q n k s) := rfl

theorem launches_imageWritten : ((imageWritten q n k s).quad q).launches = (s.quad q).launches := by
  have hfree (u : State) (m : Nat) : ({ u with free := m } : State).quad q = u.quad q := rfl
  rw [imageWritten, foldl_keeps (fun s => (s.quad q).launches) fun _ _ => launches_hwWrite q .., hfree, caughtTeam_quad]

theorem launches_saveTeam : ((saveTeam q n k s).2.quad q).launches = (s.quad q).launches := by
  rw [saveTeam_state, foldl_keeps (fun s => (s.quad q).launches) fun s t => leaveTile_launches t s q, launches_imageWritten]

theorem saveTeam_left {t : TileId} (ht : t ∈ s.teamTiles q n k) : TileLeft t (imageWritten q n k s).now (saveTeam q n k s).2 :=
  foldl_leaveTile_left ht _

end

section
variable {st : State} {q : BitVec 2} {n k ox oy : Nat} {tm : Team} (htm : (st.launchAt q n).bind (·.team k) = some tm)
  (hstate : tm.state = .draining ox oy) (hdrained : ∀ t ∈ st.teamTiles q n k, st.drainedTile t = true)
include htm hstate hdrained

theorem execSwapOutSave_ends (hover : ∀ t ∈ st.teamTiles q n k, st.tileOver t = true) : execSwapOutSave q n k st = .next (endTeam q n k st) := by
  simp only [execSwapOutSave, htm, hstate, List.all_eq_true.mpr hdrained, List.all_eq_true.mpr hover]
  rfl

theorem execSwapOutSave_saves (hover : ∃ t ∈ st.teamTiles q n k, st.tileOver t = false) :
    execSwapOutSave q n k st = .next (setTeam q n k
      { tm with state := .saved (saveTeam q n k st).1, since := st.now, claim := false, weighed := none, target := none } (saveTeam q n k st).2) := by
  have hall : (st.teamTiles q n k).all (fun t => st.tileOver t) = false := by simpa using hover
  simp only [execSwapOutSave, htm, hstate, List.all_eq_true.mpr hdrained, hall]
  rfl

end

/-! ### The restore (R321, R322) -/

section
variable {st : State} {q : BitVec 2} {n k ox oy : Nat} {w : Waiter} {im : Image} (hw : st.waiter q n k = some w) (hsaved : w.team.state = .saved im)
  (hnext : st.nextPlaced q w ox oy = true)
include hw hsaved hnext

theorem execTeamRestore_fails (hbad : st.intact q im = false) :
    execTeamRestore q n k ox oy st = .next (failLaunch q n 0 0 (setTeam q n k { w.team with state := .waiting } st)) := by
  simp only [execTeamRestore, hw, hsaved, hnext, hbad]
  rfl

theorem execTeamRestore_restores (hgood : st.intact q im = true) : execTeamRestore q n k ox oy st = .next
    (setTeam q n k { w.team.placed ox oy (st.now + st.wakeTime q ox oy (st.covered q w.launch.record ox oy)) with restored := true }
      (restoreTeam q w.launch.record.ctx w.launch.record.tmemp ox oy im st)) := by
  simp only [execTeamRestore, hw, hsaved, hnext, hgood]
  rfl

end

/-- Settles O50: the decision, the save and the restore each answer the state that their equations above name; a swap-out's decision leaves the launch
table but for the team's state, and the save takes blocks that no image holds. -/
theorem teamsSwapOutAndReturn : Obligations.TeamsSwapOutAndReturn := by
  intro st q n k
  refine ⟨?decision, fun tm ox oy at' htm hstate => launchAt_swapTeam htm hstate, ?save, fun w im ox oy hw hsaved hnext =>
    ⟨execTeamRestore_fails hw hsaved hnext, execTeamRestore_restores hw hsaved hnext⟩⟩
  case decision =>
    intro w hw hclaims hheld hweighed hplace hpromised r chance refused free
    exact ⟨execPreemptDecision_refuses_of_no_fit hw hclaims hheld hweighed hplace hpromised, fun ox oy hfit htagged =>
      ⟨execPreemptDecision_refuses_of_no_room hw hclaims hheld hweighed hplace hpromised hfit htagged,
        execPreemptDecision_swaps hw hclaims hheld hweighed hplace hpromised hfit htagged⟩⟩
  case save =>
    intro tm ox oy htm hstate ts hdrained
    refine ⟨execSwapOutSave_ends htm hstate hdrained, fun hover => ?_⟩
    obtain ⟨hlength, hfree⟩ := saveTeam_blocks q n k st
    refine ⟨_, (saveTeam q n k st).1, _, execSwapOutSave_saves htm hstate hdrained hover, team_setTeam (e := tm) ?_, rfl, rfl, rfl,
      saveTeam_tiles_length q n k st, saveTeam_base q n k st, hlength, hfree, fun t ht => ?_⟩
    · rw [State.launchAt_of_launches (launches_saveTeam q n k st), htm]
    · obtain ⟨hlife, -, hres, -, -⟩ := saveTeam_left q n k st ht
      rw [setTeam_tile]
      exact ⟨hlife, hres⟩

end Sys2Proof.Machine
end

section
/-! PROOFS. The canonical form of memory, of TMEM and of operand memory (O54). `Canon` says it of a state; a lemma per function of the model, in the
order of the model, says that the function keeps it, and each is read off the function's branches with the lemmas of the functions it calls. -/

namespace Sys2Proof.Machine

open Sys2Proof

/-- The canonical form of the byte storage that a team's image holds, where it is swapped out. -/
def TeamOk (tm : Team) : Prop := ∀ im, tm.state = .saved im → ∀ v ∈ im.tiles, TileOk v.2.1

/-- The canonical form of the images that the teams of a launch slot hold. -/
def SlotOk (sl : LaunchSlot) : Prop := ∀ l ∈ sl.launch, ∀ tm ∈ l.teams, TeamOk tm

/-- The canonical form of the images that the teams of a launch table hold. -/
def LaunchesOk (l : List (Nat × LaunchSlot)) : Prop := ∀ p ∈ l, SlotOk p.2

/-- The canonical form of memory and, where `all` holds, that of every other byte storage: of the tiles, and of the images of swapped-out teams. -/
def Canon (all : Bool) (s : State) : Prop :=
  s.mem.wf = true ∧ (all = true → (∀ p ∈ s.tiles, TileOk p.2) ∧ ∀ q, LaunchesOk (s.quad q).launches)

/-! ### The canonical form of the state in a result -/

def CanonOut (all : Bool) : Out → Prop
  | .next s => Canon all s
  | _ => True

def CanonOpt (all : Bool) : Option State → Prop
  | some s => Canon all s
  | none => True

def CanonOptSnd {α : Type} (all : Bool) : Option (α × State) → Prop
  | some r => Canon all r.2
  | none => True

def CanonOk {ε : Type} (all : Bool) : Except ε State → Prop
  | .ok s => Canon all s
  | .error _ => True

def CanonOkSnd {ε α : Type} (all : Bool) : Except ε (α × State) → Prop
  | .ok r => Canon all r.2
  | .error _ => True

def CanonOptOk {ε α : Type} (all : Bool) : Option (Except ε (α × State)) → Prop
  | some r => CanonOkSnd all r
  | none => True

def CanonVRes (all : Bool) : VRes → Prop
  | .ok _ s => Canon all s
  | _ => True

def CanonOptVRes (all : Bool) : Option VRes → Prop
  | some r => CanonVRes all r
  | none => True

def CanonRow (all : Bool) : RowRes → Prop
  | .done s => Canon all s
  | _ => True

section
variable {all : Bool} {s t : State} {ε α : Type}

theorem CanonRow.of_eq {r : RowRes} (h : CanonRow all r) (e : r = .done t) : Canon all t := by subst e; exact h

theorem CanonOk.mapSnd {r : Except ε State} {a : α} (h : CanonOk all r) : CanonOkSnd all (r.map (a, ·)) := by
  cases r with
  | ok b => exact h
  | error _ => trivial

theorem CanonOkSnd.mapFst {β : Type} {r : Except ε (α × State)} {f : α × State → β × State} (h : CanonOkSnd all r) (hf : ∀ x, (f x).2 = x.2) :
    CanonOkSnd all (r.map f) := by
  cases r with
  | ok b => exact (congrArg (Canon all) (hf b)).mpr h
  | error _ => trivial

theorem CanonOptOk.of_eq {r : Option (Except ε (α × State))} {a : α} (h : CanonOptOk all r) (e : r = some (.ok (a, t))) : Canon all t := by
  subst e; exact h

theorem CanonVRes.of_eq {r : VRes} {f : Flags} (h : CanonVRes all r) (e : r = .ok f t) : Canon all t := by subst e; exact h

theorem CanonOptVRes.of_eq {r : Option VRes} {v : VRes} (h : CanonOptVRes all r) (e : r = some v) : CanonVRes all v := by subst e; exact h

theorem CanonOut.of_eq {r : Out} (h : CanonOut all r) (e : r = .next t) : Canon all t := by subst e; exact h

theorem CanonOpt.of_eq {r : Option State} (h : CanonOpt all r) (e : r = some t) : Canon all t := by subst e; exact h

theorem CanonOptSnd.of_eq {r : Option (α × State)} {a : α} (h : CanonOptSnd all r) (e : r = some (a, t)) : Canon all t := by subst e; exact h

theorem CanonOk.of_eq {r : Except ε State} (h : CanonOk all r) (e : r = .ok t) : Canon all t := by subst e; exact h

theorem CanonOpt.getD {r : Option State} (h : CanonOpt all r) (hs : Canon all s) : Canon all (r.getD s) := by
  cases r with
  | none => exact hs
  | some u => exact h

theorem CanonOpt.map {r : Option State} {f : State → State} (h : CanonOpt all r) (hf : ∀ s, Canon all s → Canon all (f s)) :
    CanonOpt all (r.map f) := by
  cases r with
  | none => trivial
  | some u => exact hf u h

theorem CanonOkSnd.of_eq {r : Except ε (α × State)} {a : α} (h : CanonOkSnd all r) (e : r = .ok (a, t)) : Canon all t := by subst e; exact h

theorem CanonOkSnd.map {β : Type} {r : Except ε β} {f : β → α × State} (hf : ∀ b, Canon all (f b).2) : CanonOkSnd all (r.map f) := by
  cases r with
  | ok b => exact hf b
  | error _ => trivial

theorem CanonOkSnd.orTrap {r : Except Flt (α × State)} {t : Strand} (h : CanonOkSnd all r) : CanonOkSnd all (orTrap t r) := by
  cases r with
  | ok b => exact h
  | error _ => trivial

theorem CanonOk.orTrap {r : Except Flt State} {t : Strand} (h : CanonOk all r) : CanonOk all (orTrap t r) := by
  cases r with
  | ok b => exact h
  | error _ => trivial

theorem CanonOk.locatedAt {r : Except Flt State} {ea : Addr} (h : CanonOk all r) : CanonOk all (locatedAt ea r) := by
  cases r with
  | ok b => exact h
  | error _ => trivial

theorem CanonOkSnd.zsbCheck {r : Except (Option Flt) (α × State)} {j : Nat} (h : CanonOkSnd all r) : CanonOkSnd all (zsbCheck j r) := by
  cases r with
  | ok b => exact h
  | error _ => trivial

theorem Canon.of_pair {r : α × State} {a : α} (h : Canon all r.2) (e : r = (a, t)) : Canon all t := by subst e; exact h

theorem CanonVRes.ofError {e : Option Flt} : CanonVRes all (VRes.ofError e) := by
  cases e <;> trivial

theorem CanonOptVRes.getD {r : Option VRes} {d : VRes} (h : CanonOptVRes all r) (hd : CanonVRes all d) : CanonVRes all (r.getD d) := by
  cases r with
  | none => exact hd
  | some r => exact h

/-- Every action of a list keeps the canonical form. -/
def CanonActs (all : Bool) (l : List (State → Out)) : Prop := ∀ f ∈ l, ∀ s, Canon all s → CanonOut all (f s)

theorem CanonActs.nil : CanonActs all [] := fun _ hf => nomatch hf

theorem CanonActs.cons {f : State → Out} {l : List (State → Out)} (hf : ∀ s, Canon all s → CanonOut all (f s)) (hl : CanonActs all l) :
    CanonActs all (f :: l) := List.forall_mem_cons.mpr ⟨hf, hl⟩

theorem CanonActs.append {l m : List (State → Out)} (hl : CanonActs all l) (hm : CanonActs all m) : CanonActs all (l ++ m) :=
  List.forall_mem_append.mpr ⟨hl, hm⟩

theorem CanonActs.map {f : α → State → Out} {l : List α} (hf : ∀ a s, Canon all s → CanonOut all (f a s)) : CanonActs all (l.map f) :=
  List.forall_mem_map.mpr fun a _ => hf a

theorem CanonActs.flatMap {f : α → List (State → Out)} {l : List α} (hf : ∀ a, CanonActs all (f a)) : CanonActs all (l.flatMap f) := fun g hg => by
  obtain ⟨a, -, ha⟩ := List.mem_flatMap.mp hg
  exact hf a g ha

theorem CanonActs.ite {c : Prop} {_ : Decidable c} {l m : List (State → Out)} (hl : CanonActs all l) (hm : CanonActs all m) :
    CanonActs all (if c then l else m) := by split <;> assumption

/-! ### Tables -/

theorem mem_of_mem_amSet {κ ν : Type} [DecidableEq κ] {k : κ} {v : ν} {l : List (κ × ν)} {p : κ × ν} (h : p ∈ amSet k v l) : p = (k, v) ∨ p ∈ l := by
  induction l with
  | nil => simpa [amSet] using h
  | cons a r ih =>
    obtain ⟨k', v'⟩ := a
    unfold amSet at h
    split at h
    · exact (List.mem_cons.mp h).imp_right (List.mem_cons_of_mem _)
    · obtain rfl | hr := List.mem_cons.mp h
      · exact .inr List.mem_cons_self
      · exact (ih hr).imp_right (List.mem_cons_of_mem _)

theorem tileOk_default : TileOk {} := ⟨rfl, rfl⟩

theorem Canon.tileOk (h : Canon all s) (ha : all = true) (u : TileId) : TileOk (s.tile u) := by
  unfold State.tile
  cases hu : amGet u s.tiles with
  | none => exact tileOk_default
  | some v => exact (h.2 ha).1 _ (amGet_mem hu)

/-! ### Choices, folds and updates of a field -/

theorem Canon.ite {c : Prop} {_ : Decidable c} (h : Canon all s) (h' : Canon all t) : Canon all (if c then s else t) := by split <;> assumption

theorem Canon.foldl {f : State → α → State} {l : List α} (h : Canon all s) (hf : ∀ s a, Canon all s → Canon all (f s a)) :
    Canon all (l.foldl f s) := by
  induction l generalizing s with
  | nil => exact h
  | cons a r ih => exact ih (hf s a h)

theorem Canon.foldlMem {f : State → α → State} {l : List α} (h : Canon all s) (hf : ∀ s, ∀ a ∈ l, Canon all s → Canon all (f s a)) :
    Canon all (l.foldl f s) := by
  induction l generalizing s with
  | nil => exact h
  | cons a r ih => exact ih (hf s a List.mem_cons_self h) fun s b hb => hf s b (List.mem_cons_of_mem _ hb)

/-- What is no byte storage and no launch table has no part in the canonical form. -/

theorem Canon.mk {cur sched late idle now free strands dev home poison ranges merges domains} (h : Canon all s) :
    Canon all ⟨cur, sched, late, idle, now, free, strands, s.tiles, s.quads, dev, s.mem, home, poison, ranges, merges, domains⟩ := h

theorem Canon.mkMem {a : Nat} {bs : List Byte} {cur sched late idle now free strands dev home poison ranges merges domains} (h : Canon all s) :
    Canon all ⟨cur, sched, late, idle, now, free, strands, s.tiles, s.quads, dev, s.mem.write a bs, home, poison, ranges, merges, domains⟩ :=
  ⟨Mem.wf_write h.1 a bs, h.2⟩

theorem Canon.mkTiles {l : List (TileId × Tile)} {cur sched late idle now free strands dev home poison ranges merges domains} (h : Canon all s)
    (hl : all = true → ∀ p ∈ l, TileOk p.2) :
    Canon all ⟨cur, sched, late, idle, now, free, strands, l, s.quads, dev, s.mem, home, poison, ranges, merges, domains⟩ :=
  ⟨h.1, fun ha => ⟨hl ha, (h.2 ha).2⟩⟩

theorem Canon.mapTiles {f : TileId × Tile → TileId × Tile} {cur sched late idle now free strands dev home poison ranges merges domains}
    (h : Canon all s)
    (hf : ∀ p, TileOk p.2 → TileOk (f p).2) :
    Canon all ⟨cur, sched, late, idle, now, free, strands, s.tiles.map f, s.quads, dev, s.mem, home, poison, ranges, merges, domains⟩ :=
  h.mkTiles fun ha p hp => by
    obtain ⟨r, hr, rfl⟩ := List.mem_map.mp hp
    exact hf r ((h.2 ha).1 r hr)

theorem Canon.fresh (h : Canon all s) : Canon all s.fresh.2 := h

theorem Canon.setStrand {i : StrandId} {t : Strand} (h : Canon all s) : Canon all (s.setStrand i t) := h

theorem Canon.modStrand {i : StrandId} {f : Strand → Strand} (h : Canon all s) : Canon all (s.modStrand i f) := h

theorem Canon.setX {i : StrandId} {r : BitVec 5} {v : Word} (h : Canon all s) : Canon all (s.setX i r v) := h

theorem Canon.setPc {i : StrandId} {v : Addr} (h : Canon all s) : Canon all (s.setPc i v) := h

theorem Canon.setStatus {i : StrandId} {v : Status} (h : Canon all s) : Canon all (s.setStatus i v) := h

theorem Canon.setTile {u : TileId} {v : Tile} (h : Canon all s) (hv : all = true → TileOk v) : Canon all (s.setTile u v) :=
  h.mkTiles fun ha p hp => by
    obtain rfl | hp := mem_of_mem_amSet hp
    · exact hv ha
    · exact (h.2 ha).1 p hp

theorem Canon.modTile {u : TileId} {f : Tile → Tile} (h : Canon all s) (hf : ∀ v, TileOk v → TileOk (f v)) :
    Canon all (s.modTile u f) :=
  h.setTile fun ha => hf _ (h.tileOk ha u)

theorem Canon.setQuad {q : BitVec 2} {v : Quad} (h : Canon all s) (hv : all = true → LaunchesOk v.launches) : Canon all (s.setQuad q v) :=
  ⟨h.1, fun ha => ⟨(h.2 ha).1, fun r => by
    by_cases hr : r = q
    · subst hr; rw [State.quad_setQuad_self]; exact hv ha
    · rw [State.quad_setQuad_ne _ _ hr]; exact (h.2 ha).2 r⟩⟩

theorem Canon.modQuad {q : BitVec 2} {f : Quad → Quad} (h : Canon all s) (hf : ∀ v, (f v).launches = v.launches) :
    Canon all (s.modQuad q f) :=
  h.setQuad fun ha => by rw [hf]; exact (h.2 ha).2 q

end

section
variable {all : Bool} {s st : State} {i : StrandId} {q : BitVec 2}

/-! ### Arrivals, traps and the clock -/

theorem Canon.modCore {c : CoreId} {f : CoreState → CoreState} (h : Canon all s) : Canon all (State.modCore s c f) := by
  unfold State.modCore
  split
  · exact h.modTile (fun _ hv => hv)
  · exact h.modQuad (fun _ => rfl)

theorem Canon.modCrucible {line : Nat} {f : Crucible → Crucible} (h : Canon all s) : Canon all (Machine.modCrucible line f s) := by
  unfold Machine.modCrucible
  exact Canon.ite (h.modQuad (fun _ => rfl)) h

theorem Canon.loseLinks {keep : Option StrandId} {l : Line} (h : Canon all s) : Canon all (Machine.loseLinks keep l s) := by
  unfold Machine.loseLinks
  exact h.mk

theorem Canon.noteDirty {line : Nat} (h : Canon all s) : Canon all (Machine.noteDirty line s) := by
  unfold Machine.noteDirty
  exact h.ite (h.mk.ite h.mk)

theorem Canon.dropCopies {line : Nat} (h : Canon all s) : Canon all (Machine.dropCopies line s) := by
  unfold Machine.dropCopies
  dsimp only
  split
  · exact h.modCrucible
  · exact h.modCrucible.mkMem

theorem Canon.writeBack {line : Nat} (h : Canon all s) : Canon all (Machine.writeBack line s) := by
  unfold Machine.writeBack
  exact h.mk.modCrucible

theorem Canon.evict {line : Nat} {room : Crucible → Bool} {n : Nat} (h : Canon all s) : Canon all (Machine.evict q line room n s) := by
  induction n generalizing s with
  | zero => exact h
  | succ n ih =>
    simp only [Machine.evict]
    split
    · exact h
    · split
      · exact h
      · exact ih ((h.fresh.writeBack.ite h.fresh).modQuad fun _ => rfl)

theorem Canon.makeRoom {line : Nat} {room : Crucible → Bool} (h : Canon all s) : Canon all (Machine.makeRoom q line room s) := by
  unfold Machine.makeRoom
  exact h.evict

theorem Canon.unshareLine {line : Nat} (h : Canon all s) : Canon all (Machine.unshareLine line s) := by
  unfold Machine.unshareLine
  exact h.ite (h.makeRoom.modQuad (fun _ => rfl))

theorem Canon.touchLine {keep : Option StrandId} {line : Nat} (h : Canon all s) : Canon all (Machine.touchLine keep line s) := by
  unfold Machine.touchLine
  exact h.noteDirty.loseLinks.unshareLine.modCrucible

theorem Canon.endMerges {l : Loc} {n : Nat} (h : Canon all s) : Canon all (Machine.endMerges l n s) := by
  unfold Machine.endMerges
  exact h.mk

theorem Canon.writeMem {keep : Option StrandId} {a : Nat} {bs : List Byte} (h : Canon all s) : Canon all (Machine.writeMem keep a bs s) := by
  unfold Machine.writeMem
  exact h.ite (Canon.endMerges (Canon.mkMem (h.foldl (fun _ _ hs => hs.touchLine))))

theorem Canon.writeTmem {keep : Option StrandId} {t : TileId} {off : Nat} {bs : List Byte} (h : Canon all s) :
    Canon all (Machine.writeTmem keep t off bs s) := by
  unfold Machine.writeTmem
  split
  · exact h
  · refine Canon.endMerges (Canon.modTile ?_ fun _ hv => ⟨Mem.wf_write hv.1 _ _, hv.2⟩)
    exact (Canon.foldl h fun _ _ hs => hs.loseLinks).mk

theorem Canon.writeLoc {keep : Option StrandId} {l : Loc} {bs : List Byte} (h : Canon all s) : Canon all (Machine.writeLoc keep l bs s) := by
  unfold Machine.writeLoc
  split
  · exact h.writeMem
  · exact h.writeTmem

theorem Canon.untranslated {a n : Nat} (h : Canon all s) : Canon all (Machine.untranslated a n s) := by
  unfold Machine.untranslated
  exact h.mk

theorem Canon.hwWrite {a : Nat} {bs : List Byte} (h : Canon all s) : Canon all (Machine.hwWrite a bs s) := by
  unfold Machine.hwWrite
  exact h.writeMem.untranslated

theorem Canon.setFull {t : TileId} {off n : Nat} (h : Canon all s) : Canon all (Machine.setFull t off n s) := by
  unfold Machine.setFull
  exact h.ite (h.modTile (fun _ hv => hv))

theorem Canon.setFullWhole {t : TileId} {off n : Nat} (h : Canon all s) : Canon all (Machine.setFullWhole t off n s) := by
  unfold Machine.setFullWhole
  exact h.modTile (fun _ hv => hv)

theorem Canon.clearFull {t : TileId} {g : Nat} (h : Canon all s) : Canon all (Machine.clearFull t g s) := by
  unfold Machine.clearFull
  exact h.modTile (fun _ hv => hv)

theorem Canon.cutRanges {self : Option (TileId × Nat)} {write : Bool} {l : Loc} {n : Nat} (h : Canon all s) :
    Canon all (Machine.cutRanges self write l n s) := by
  unfold Machine.cutRanges
  split
  · exact h
  · exact h.mk

theorem Canon.ringWrite {base : Word} {log2n recSize : Nat} {bs : List Byte} (h : Canon all s) :
    Canon all (Machine.ringWrite base log2n recSize bs s).2 := by
  obtain ⟨a, b, c, d, e, hr | hr⟩ := ringWrite_cases base log2n recSize bs s
  · rw [hr]; exact h.hwWrite
  · rw [hr]; exact h.hwWrite.hwWrite

theorem Canon.countRecord {w : Bool × State} (h : Canon all w.2) : Canon all (Machine.countRecord q w) := by
  unfold Machine.countRecord
  exact Canon.ite (h.modQuad (fun _ => rfl)) h

theorem Canon.errorRecord {typ tile cause handle pa : Nat} (h : Canon all s) : Canon all (Machine.errorRecord q typ tile cause handle pa s) := by
  unfold Machine.errorRecord
  exact h.ite h.ringWrite.countRecord

theorem Canon.notePoison {a n : Nat} (h : Canon all s) : Canon all (Machine.notePoison a n s) := by
  unfold Machine.notePoison
  exact h.foldl (fun _ _ hs => hs.errorRecord.ite hs)

theorem Canon.bump {t : TileId} {k : Fin 10} {n : Nat} (h : Canon all s) : Canon all (Machine.bump t k n s) := by
  unfold Machine.bump
  exact h.modTile (fun _ hv => hv)

theorem Canon.bumpQuad {k : Fin 7} {n : Nat} (h : Canon all s) : Canon all (Machine.bumpQuad q k n s) := by
  unfold Machine.bumpQuad
  exact h.modQuad (fun _ => rfl)

theorem Canon.bumpCore {c : CoreId} {k : Fin 10} {n : Nat} (h : Canon all s) : Canon all (Machine.bumpCore c k n s) := by
  unfold Machine.bumpCore
  split
  · exact h.bump
  · exact h

theorem Canon.traceOwe {tile : Option TileId} (h : Canon all s) : Canon all (Machine.traceOwe q tile s) := by
  unfold Machine.traceOwe
  split
  · exact h.modTile (fun _ hv => hv)
  · exact h.modQuad (fun _ => rfl)

theorem Canon.traceDone {tile : Option TileId} {w : Bool × State} (h : Canon all w.2) : Canon all (Machine.traceDone q tile w) := by
  unfold Machine.traceDone
  dsimp only
  split
  · exact (h.ite h.bumpQuad).modTile (fun _ hv => hv)
  · exact (h.ite h.bumpQuad).modQuad (fun _ => rfl)

theorem Canon.tracePut {tile : Option TileId} {bs : List Byte} (h : Canon all s) : Canon all (Machine.tracePut q tile bs s) := by
  unfold Machine.tracePut
  exact h.ringWrite.traceDone

theorem Canon.traceLost {tile : Option TileId} (h : Canon all s) : Canon all (Machine.traceLost q tile s) := by
  unfold Machine.traceLost
  exact h.hwWrite.bumpQuad.modQuad (fun _ => rfl)

theorem Canon.trace {tile : Option TileId} {strand : BitVec 3} {typ pipe : Nat} {fin : Bool} {qseq : Nat} {n : StripName} {aux : Nat}
    (h : Canon all s) : Canon all (Machine.trace q tile strand typ pipe fin qseq n aux s) := by
  unfold Machine.trace
  exact h.ite (h.traceLost.ite (h.modQuad (fun _ => rfl)))

theorem Canon.traceSync {tile : Option TileId} (h : Canon all s) : Canon all (Machine.traceSync q tile s) := by
  unfold Machine.traceSync
  exact h.tracePut

theorem Canon.traceEmit {r : Noted} (h : Canon all s) : Canon all (Machine.traceEmit q s r) := by
  unfold Machine.traceEmit
  exact h.ite (h.traceSync.ite ((h.traceSync.ite h).tracePut))

theorem Canon.oweSync (h : Canon all s) : Canon all (Machine.oweSync q s) :=
  Canon.mapTiles (h.modQuad fun _ => rfl) fun p hp => by
    dsimp only
    split <;> exact hp

theorem Canon.flushTrace (h : Canon all s) : Canon all (Machine.flushTrace q s) := by
  unfold Machine.flushTrace
  exact h.ite (Canon.ite (Canon.oweSync (Canon.foldl (Canon.foldl (h.modQuad (fun _ => rfl)) (fun _ _ hs => hs.traceEmit))
    (fun _ _ hs => hs.traceOwe))) (Canon.foldl (Canon.foldl (h.modQuad (fun _ => rfl)) (fun _ _ hs => hs.traceEmit)) (fun _ _ hs => hs.traceOwe)))

theorem Canon.noteResync (h : Canon all s) : Canon all (Machine.noteResync q s) := by
  unfold Machine.noteResync
  exact h.modQuad (fun _ => rfl)

theorem Canon.traceEvent {pipe : Nat} {fin : Bool} {qseq : Nat} {n : StripName} {pc : Addr} (h : Canon all s) :
    Canon all (Machine.traceEvent i pipe fin qseq n pc s) := by
  unfold Machine.traceEvent
  exact h.trace

theorem Canon.traceStrand {typ : Nat} {qseq : Nat} {n : StripName} {aux : Nat} (h : Canon all s) :
    Canon all (Machine.traceStrand i typ qseq n aux s) := by
  unfold Machine.traceStrand
  exact h.trace

theorem Canon.traceClock {opp : BitVec 3} {ev : Nat} (h : Canon all s) : Canon all (Machine.traceClock q opp ev s) := by
  unfold Machine.traceClock
  exact h.trace

theorem Canon.traceStops (h : Canon all s) : Canon all (Machine.traceStops i s) := by
  unfold Machine.traceStops
  refine h.foldl fun _ _ hs => ?_
  split
  · exact hs.traceEvent
  · exact hs

theorem Canon.writeStorage {keep : Option StrandId} {l : Loc} {bs : List Byte} (h : Canon all s) : Canon all (Machine.writeStorage keep l bs s) := by
  unfold Machine.writeStorage
  split
  · split
    · exact h.errorRecord
    · exact h
  · exact h.writeLoc

theorem Canon.bracket {n k : Nat} {l : List Nat} (h : Canon all s) : Canon all (Machine.bracket n k l s).2 := by
  induction k generalizing l s with
  | zero => exact h
  | succ k ih =>
    match l with
    | [] => exact h
    | [_] => exact h
    | _ :: _ :: _ => exact ih h.fresh.fresh

theorem Canon.atHome {l : Loc} (h : Canon all s) : Canon all (Machine.atHome l s) := by
  unfold Machine.atHome
  split
  · exact h
  · exact h.ite h.writeBack

theorem Canon.applyPartial {op : AmoOp} {k : Combine} (h : Canon all s) : Canon all (Machine.applyPartial op k s) := by
  unfold Machine.applyPartial
  dsimp only
  split
  · split
    · exact h.cutRanges.writeStorage
    · split
      · split
        · exact h.cutRanges.notePoison
        · exact h.cutRanges.errorRecord
      · exact h.cutRanges.writeStorage.atHome.ite h.cutRanges.bracket.writeStorage.atHome.mk
  · split
    · exact h.writeStorage
    · split
      · split
        · exact h.notePoison
        · exact h.errorRecord
      · exact h.writeStorage.atHome.ite h.bracket.writeStorage.atHome.mk

theorem Canon.flushParts (h : Canon all s) : Canon all (Machine.flushParts i s) := by
  unfold Machine.flushParts
  exact h.ite (h.modStrand.foldl (fun _ _ hs => hs.foldl (fun _ _ hs1 => hs1.applyPartial)))

theorem Canon.traceDiscard (h : Canon all s) : Canon all (Machine.traceDiscard i s) := by
  unfold Machine.traceDiscard
  exact h.foldl (fun _ _ hs => hs.traceEvent)

theorem Canon.traceWait (h : Canon all s) : Canon all (Machine.traceWait i s) := by
  unfold Machine.traceWait
  dsimp only
  split
  · exact h.foldl (fun _ _ hs => hs.traceEvent)
  · exact h

theorem Canon.dropClock (h : Canon all s) : Canon all (Machine.dropClock i s) := by
  unfold Machine.dropClock
  exact h.modQuad (fun _ => rfl)

theorem Canon.leaveWait (h : Canon all s) : Canon all (Machine.leaveWait i s) := by
  unfold Machine.leaveWait
  generalize (s.strand i).status = w
  generalize i.core = c
  cases w with
  | blocked w =>
    cases w with
    | drain => cases c with
      | tile u => exact h.modTile fun _ hv => hv
      | control q => exact h
    | mmode => cases c with
      | tile u => exact h.modTile fun _ hv => hv
      | control q => exact h
    | clock => exact h.dropClock
    | _ => exact h
  | _ => exact h

theorem Canon.dropWait (h : Canon all s) : Canon all (Machine.dropWait i s) := by
  unfold Machine.dropWait
  exact h.traceWait.leaveWait

theorem Canon.enterTrap {target : Level} {k : TrapRec} {t : Strand} (h : Canon all s) : Canon all (Machine.enterTrap target i k t s) := by
  unfold Machine.enterTrap
  dsimp only
  split
  · exact h.traceDiscard.setStrand.errorRecord.ite h.setStrand
  · exact h.setStrand

theorem Canon.takeSlot (h : Canon all s) : Canon all (Machine.takeSlot i s) := by
  unfold Machine.takeSlot
  exact h.modCore

theorem Canon.lone {c : CoreId} (h : Canon all s) : Canon all (Machine.lone c s) := by
  unfold Machine.lone
  exact h.foldl (fun _ _ hs => hs.ite hs.modStrand)

theorem Canon.takeTrapTo {target : Level} {k : TrapRec} (h : Canon all s) : Canon all (Machine.takeTrapTo target i k s) := by
  unfold Machine.takeTrapTo
  exact h.traceStops.dropWait.flushParts.takeSlot.enterTrap

theorem Canon.takeTrap {k : TrapRec} (h : Canon all s) : Canon all (Machine.takeTrap i k s) := by
  unfold Machine.takeTrap
  exact h.takeTrapTo

theorem Canon.addAsync {k : TrapRec} (h : Canon all s) : Canon all (Machine.addAsync i k s) := by
  unfold Machine.addAsync
  exact h.modStrand

theorem Canon.newStamp {c : CoreId} (h : Canon all s) : Canon all (Machine.newStamp c s).2 := by
  unfold Machine.newStamp
  exact h.modCore

theorem Canon.writeLattol {v : BitVec 20} (h : Canon all s) : Canon all (Machine.writeLattol q v s) :=
  Canon.mapTiles (h.modQuad fun _ => rfl) fun p hp => by
    dsimp only
    split <;> exact hp

theorem Canon.debugGo {tile : BitVec 7} {slot : BitVec 3} (h : Canon all s) : Canon all (Machine.debugGo q tile slot s) := by
  unfold Machine.debugGo
  exact h.setStrand.ite h

theorem Canon.writeTrace {off : Nat} {mask v : Word} (h : Canon all s) : Canon all (Machine.writeTrace q off mask v s) := by
  unfold Machine.writeTrace
  dsimp only
  split
  · exact h.ite (h.modQuad (fun _ => rfl))
  · exact Canon.ite (Canon.oweSync (h.modQuad (fun _ => rfl))) (h.modQuad (fun _ => rfl))
  · exact h.modQuad (fun _ => rfl)
  · exact h.modQuad (fun _ => rfl)
  · exact Canon.ite (Canon.debugGo (h.modQuad (fun _ => rfl))) (h.modQuad (fun _ => rfl))
  · exact h

theorem Canon.writeQuadReg {off : Nat} {mask v : Word} (h : Canon all s) : Canon all (Machine.writeQuadReg q off mask v s) := by
  unfold Machine.writeQuadReg
  exact Canon.ite (Canon.ite (h.modTile (fun _ hv => hv)) h) (h.writeTrace.ite (h.writeLattol.ite h))

theorem Canon.writeDevReg {off : Nat} {mask v : Word} (h : Canon all s) : Canon all (Machine.writeDevReg off mask v s) := by
  unfold Machine.writeDevReg
  exact h.mk.ite h

theorem Canon.writeReg {r : Region} {size v : Nat} (h : Canon all s) : Canon all (Machine.writeReg r size v s) := by
  unfold Machine.writeReg
  split
  · exact h.writeQuadReg
  · exact h.writeDevReg
  · exact h

theorem Canon.installLine {line : Nat} (h : Canon all s) : Canon all (Machine.installLine line s) := by
  unfold Machine.installLine
  split
  · exact h
  · dsimp only
    exact h.modCrucible.makeRoom.modQuad (fun _ => rfl)

theorem Canon.installLines {ls : List Line} (h : Canon all s) : Canon all (Machine.installLines ls s) := by
  unfold Machine.installLines
  refine h.foldl fun _ _ hs => ?_
  split
  · exact hs.installLine
  · exact hs

theorem Canon.setTag {t : TileId} {ch : BitVec 6} {g : Tag} (h : Canon all s) : Canon all (Machine.setTag t ch g s) := by
  unfold Machine.setTag
  exact h.modTile (fun _ hv => hv)

theorem Canon.overrun {t : TileId} {ch : BitVec 6} {g : Tag} (h : Canon all s) : Canon all (Machine.overrun t ch g s) := by
  unfold Machine.overrun
  exact h.addAsync.ite h

theorem Canon.arrive {t : TileId} {ch : BitVec 6} {n : Nat} (h : Canon all s) : Canon all (Machine.arrive t ch n s) := by
  unfold Machine.arrive
  dsimp only
  exact h.setTag.overrun.ite h.setTag

theorem Canon.taggedWrite {off : Nat} {bs : List Byte} (h : Canon all s) : Canon all (Machine.taggedWrite off bs s) := by
  unfold Machine.taggedWrite
  exact h.ite (h.writeTmem.setFullWhole.arrive.modTile (fun _ hv => hv))

theorem Canon.ask {who : Asker} (h : Canon all s) : Canon all (Machine.ask who s) := by
  unfold Machine.ask
  split
  · rename_i he
    exact ((h.fresh.of_pair he).mk).ite (h.fresh.of_pair he)

theorem Canon.barReg {r : Region} {bs : List Byte} (h : Canon all s) : Canon all (Machine.barReg r bs s) := by
  unfold Machine.barReg
  split
  · exact h.ask.ite h.writeReg
  · exact h.writeReg

theorem Canon.writePhys {keep : Option StrandId} {p : Phys} {bs : List Byte} (h : Canon all s) : Canon all (Machine.writePhys keep p bs s) := by
  unfold Machine.writePhys
  split
  · exact h.writeTmem
  · split
    · exact h.errorRecord
    · split
      · exact h.taggedWrite.ite h
      · exact h.writeReg.ite h
      · exact h.ite (h.ask.ite h.writeReg)
      · exact h.writeMem

theorem Canon.markFull {l : Loc} {n : Nat} (h : Canon all s) : Canon all (Machine.markFull l n s) := by
  unfold Machine.markFull
  split
  · exact h.setFull
  · exact h

theorem Canon.writeNib {p : Phys} {high : Bool} {v : Nat} (h : Canon all s) : Canon all (Machine.writeNib p high v s) := by
  unfold Machine.writeNib
  exact h.writePhys

/-! ### Translation, memory and system registers -/

theorem Canon.strandXl (h : Canon all s) : Canon all (Machine.strandXl i s).2 := by
  unfold Machine.strandXl
  dsimp only
  split
  · exact h
  · exact h
  · split
    · exact h
    · exact h.setStrand.untranslated

theorem Canon.leafFrame {h : TlbEntry} (hs : Canon all s) : Canon all (Machine.leafFrame h s).2 := by
  unfold Machine.leafFrame
  dsimp only
  split
  · exact hs
  · exact hs.fresh

theorem Canon.leafPhys {lvl : Level} {acc : Access} {va : Addr} {h : TlbEntry} (hs : Canon all s) :
    CanonOkSnd all (Machine.leafPhys lvl acc va h s) := by
  unfold Machine.leafPhys
  dsimp only
  split
  · trivial
  · exact CanonOkSnd.map (fun _ => hs.leafFrame)

theorem Canon.countMiss {c : CoreId} {tileMiss quadMiss : Bool} (h : Canon all s) : Canon all (Machine.countMiss c tileMiss quadMiss s) := by
  unfold Machine.countMiss
  dsimp only
  split
  · refine Canon.modQuad ?_ (fun _ => rfl)
    split
    · exact Canon.ite (h.modTile (fun _ hv => hv)) h
    · exact h
  · split
    · exact Canon.ite (h.modTile (fun _ hv => hv)) h
    · exact h

theorem Canon.walkFill {x : Xl} {c : CtxEntry} {acc : Access} {va : Addr} (h : Canon all s) : CanonOkSnd all (Machine.walkFill x c acc va s) := by
  unfold Machine.walkFill
  split
  · trivial
  · split
    · trivial
    · dsimp only
      show Canon all _
      dsimp only
      split
      · exact Canon.modTile (Canon.fresh (Canon.modQuad (Canon.fresh
          (Canon.ite (h.foldl (fun _ _ hs => hs.untranslated)) (Canon.hwWrite (h.foldl (fun _ _ hs => hs.untranslated))))) (fun _ => rfl)))
          (fun _ hv => hv)
      · exact Canon.fresh (Canon.modQuad (Canon.fresh (Canon.ite (h.foldl (fun _ _ hs => hs.untranslated))
          (Canon.hwWrite (h.foldl (fun _ _ hs => hs.untranslated))))) (fun _ => rfl))

theorem Canon.countFault {x : Xl} {cause : BitVec 8} {va : Addr} (h : Canon all s) : Canon all (Machine.countFault x cause va s) := by
  unfold Machine.countFault
  split
  · exact h
  · split
    · exact h
    · dsimp only
      exact h.ite h.countMiss

theorem Canon.noteDomain {p : Phys} (h : Canon all s) : Canon all (Machine.noteDomain p s) := by
  unfold Machine.noteDomain
  split
  · exact h
  · exact h.ite h.mk

theorem Canon.resolve {x : Xl} {va : Addr} {acc : Access} (h : Canon all s) : CanonOkSnd all (Machine.resolve x va acc s) := by
  unfold Machine.resolve
  split
  · exact CanonOkSnd.map (fun _ => h)
  · split
    · exact CanonOkSnd.map (fun _ => h)
    · split
      · trivial
      · split
        · trivial
        · split
          · split
            · exact h.countMiss.leafPhys
            · split
              · trivial
              · rename_i he
                exact (h.countMiss.walkFill.of_eq he).leafPhys

theorem Canon.translate {x : Xl} {va : Addr} {acc : Access} (h : Canon all s) : CanonOkSnd all (Machine.translate x va acc s) := by
  unfold Machine.translate
  split
  · trivial
  · rename_i he
    exact (h.resolve.of_eq he).noteDomain

theorem Canon.advance {len : Nat} (h : Canon all s) : Canon all (Machine.advance i len s) := by
  unfold Machine.advance
  exact h.modStrand.takeSlot.bumpCore

theorem Canon.wait (h : Canon all s) : CanonOut all (Machine.wait s) := h.mk

theorem Canon.issueWith {len : Nat} {body : StrandId → Strand → State → Except Stop State} {trap : StrandId → TrapRec → State} (h : Canon all s)
    (hb : ∀ i t u, Canon all u → CanonOk all (body i t u)) (ht : ∀ i k, Canon all (trap i k)) : CanonOut all (Machine.issueWith s len body trap)
    := by
  unfold Machine.issueWith
  split
  · trivial
  · split
    · exact h.wait
    · split
      · rename_i hr
        exact (hb _ _ _ h.advance).of_eq hr
      · exact h.wait
      · exact ht _ _

/-- An issue keeps the canonical form where its body does. -/
theorem Canon.issue {s : State} {len : Nat} {body : StrandId → Strand → State → Except Stop State} (h : Canon all s)
    (hb : ∀ i t u, Canon all u → CanonOk all (body i t u)) : CanonOut all (Machine.issue s len body) :=
  h.issueWith hb fun _ _ => h.countFault.takeTrap

theorem Canon.issueEngine {len : Nat} {body : StrandId → Strand → State → Except Stop State} (h : Canon all s)
    (hb : ∀ i t u, Canon all u → CanonOk all (body i t u)) : CanonOut all (Machine.issueEngine s len body) :=
  h.issue fun i t u hu => by
    split
    · trivial
    · exact hb i t u hu

theorem Canon.issueX {len : Nat} {d : BitVec 5} {reads : List (BitVec 5)} {f : Strand → Word} (h : Canon all s) :
    CanonOut all (Machine.issueX s len d reads f) :=
  h.issue fun _ _ _ hu => by
    split
    · trivial
    · exact hu.setX

theorem Canon.issueA {len : Nat} {d : BitVec 4} {reads : List (BitVec 5)} {f : Strand → Addr} (h : Canon all s) :
    CanonOut all (Machine.issueA s len d reads f) :=
  h.issue fun _ _ _ hu => by
    split
    · trivial
    · exact hu.modStrand

/-- An event keeps the canonical form where the state that it answers has it. -/
theorem Canon.event {s : State} {r : Option State} (h : Canon all s) (hr : CanonOpt all r) : CanonOut all (Machine.event s r) := by
  unfold Machine.event
  split
  · exact hr
  · exact h.wait

theorem Canon.unshareAt {l : Loc} (h : Canon all s) : Canon all (Machine.unshareAt l s) := by
  unfold Machine.unshareAt
  split
  · exact h
  · exact h.unshareLine

theorem Canon.atomicUpdate {keep : Option StrandId} {p : Phys} {op : AmoOp} {size t d : Nat} (h : Canon all s) :
    CanonOkSnd all (Machine.atomicUpdate keep p op size t d s) := by
  unfold Machine.atomicUpdate
  split
  · trivial
  · exact (h.unshareAt.ite h.writePhys).atHome

theorem Canon.performAccess {a : LateAccess} (h : Canon all s) : CanonOkSnd all (Machine.performAccess i a s) := by
  unfold Machine.performAccess
  split
  · split
    · trivial
    · exact h
  · split
    · trivial
    · rename_i he
      exact h.atomicUpdate.of_eq he
  · split
    · trivial
    · split
      · trivial
      · exact h.writePhys.atHome

theorem Canon.startAccess {t : Strand} {a : LateAccess} (h : Canon all s) : CanonOk all (Machine.startAccess i t a s) := by
  unfold Machine.startAccess
  dsimp only
  split
  · trivial
  · split
    · exact h.modStrand
    · split
      · trivial
      · rename_i he
        exact ((h.cutRanges.ite h).performAccess.of_eq he).setX

theorem Canon.locate {t : Strand} {ea : Addr} {acc : Access} (h : Canon all s) : CanonOkSnd all (Machine.locate i t ea acc s) := by
  unfold Machine.locate
  exact h.strandXl.translate.orTrap

theorem Canon.granuleRead {seq : Nat} {d : BitVec 5} {t : TileId} {off size : Nat} {sx clear : Bool} (h : Canon all s) :
    CanonOk all (Machine.granuleRead i seq d t off size sx clear s) := by
  unfold Machine.granuleRead
  split
  · trivial
  · exact (h.clearFull.ite h).setX

theorem Canon.block {t : Strand} {w : Wait} (h : Canon all s) : Canon all (Machine.block i t w s) := by
  unfold Machine.block
  exact h.modStrand

theorem Canon.unblock {len : Nat} (h : Canon all s) : Canon all (Machine.unblock i len s) := by
  unfold Machine.unblock
  exact h.modStrand

theorem Canon.load {len : Nat} {d : BitVec 5} {a : BitVec 4} {o : BitVec 12} {size : Nat} {sx : Bool} {q : Qual} (h : Canon all st) :
    CanonOut all (Machine.load len d a o size sx q st) := by
  unfold Machine.load
  refine h.issue fun _ _ _ hs => ?_
  split
  · trivial
  · dsimp only
    split
    · trivial
    · split
      · trivial
      · rename_i he
        split
        · exact (hs.locate.of_eq he).startAccess
        · split
          · trivial
          · split
            · trivial
            · split
              · exact ((hs.locate.of_eq he).granuleRead.locatedAt).orTrap
              · exact (hs.locate.of_eq he).block

theorem Canon.enqueueStore {t : Strand} {e : StoreEntry} (h : Canon all s) : CanonOk all (Machine.enqueueStore i t e s) := by
  unfold Machine.enqueueStore
  split
  · trivial
  · exact h.modStrand

theorem Canon.store {len : Nat} {d : BitVec 5} {a : BitVec 4} {o : BitVec 12} {size : Nat} {q : Qual} (h : Canon all st) :
    CanonOut all (Machine.store len d a o size q st) := by
  unfold Machine.store
  refine h.issue fun _ _ _ hs => ?_
  split
  · trivial
  · dsimp only
    split
    · trivial
    · split
      · trivial
      · rename_i he
        exact (hs.locate.of_eq he).enqueueStore

theorem Canon.atomic {len : Nat} {op : AmoOp} {size : Nat} {d : BitVec 5} {a : BitVec 4} {t : BitVec 5} {q : Qual} (h : Canon all st) :
    CanonOut all (Machine.atomic len op size d a t q st) := by
  unfold Machine.atomic
  refine h.issue fun _ _ _ hs => ?_
  split
  · trivial
  · dsimp only
    split
    · trivial
    · split
      · trivial
      · rename_i he
        split
        · trivial
        · exact (hs.locate.of_eq he).startAccess

theorem Canon.execBara {d : BitVec 5} {s : BitVec 4} {c : BitVec 3} (h : Canon all st) : CanonOut all (Machine.execBara d s c st) := by
  unfold Machine.execBara
  refine h.issue fun _ _ _ hs => ?_
  split
  · trivial
  · dsimp only
    split
    · trivial
    · split
      · trivial
      · rename_i he
        split
        · trivial
        · exact (hs.locate.of_eq he).startAccess

theorem Canon.waitWord {t : Strand} {p : Phys} {ea : Addr} (h : Canon all s) : CanonOptOk all (Machine.waitWord t p ea s) := by
  unfold Machine.waitWord
  split
  · trivial
  · split
    · trivial
    · dsimp only
      split
      · trivial
      · exact h.cutRanges.ite h

theorem Canon.execBarw {d : BitVec 5} {s : BitVec 4} {c : BitVec 3} (h : Canon all st) : CanonOut all (Machine.execBarw d s c st) := by
  unfold Machine.execBarw
  dsimp only
  refine h.issue fun _ _ _ hs => ?_
  split
  · trivial
  · split
    · trivial
    · split
      · trivial
      · rename_i he1
        split
        · trivial
        · split
          · trivial
          · trivial
          · rename_i he2
            split
            · exact ((hs.locate.of_eq he1).waitWord.of_eq he2).setX
            · exact ((hs.locate.of_eq he1).waitWord.of_eq he2).block

theorem Canon.execWaitline {d : BitVec 5} {s : BitVec 4} {t : BitVec 5} (h : Canon all st) : CanonOut all (Machine.execWaitline d s t st) := by
  unfold Machine.execWaitline
  refine h.issue fun _ _ _ hs => ?_
  split
  · trivial
  · dsimp only
    split
    · trivial
    · split
      · trivial
      · rename_i he1
        split
        · trivial
        · split
          · trivial
          · trivial
          · rename_i he2
            split
            · exact ((hs.locate.of_eq he1).waitWord.of_eq he2).setX
            · exact ((hs.locate.of_eq he1).waitWord.of_eq he2).block

theorem Canon.wakeTrap {f : Flt} (h : Canon all s) : CanonOpt all (Machine.wakeTrap i f s) := by
  unfold Machine.wakeTrap
  split
  · exact h.takeTrap.lone
  · trivial

theorem Canon.execWaitlineWake (h : Canon all st) : CanonOut all (Machine.execWaitlineWake i st) := by
  unfold Machine.execWaitlineWake
  refine h.event ?_
  split
  · split
    · trivial
    · exact h.wakeTrap
    · rename_i he
      split
      · trivial
      · exact ((h.waitWord.of_eq he).setX).unblock
  · trivial

theorem Canon.execBarwWake (h : Canon all st) : CanonOut all (Machine.execBarwWake i st) := by
  unfold Machine.execBarwWake
  refine h.event ?_
  split
  · split
    · trivial
    · exact h.wakeTrap
    · rename_i he
      split
      · exact ((h.waitWord.of_eq he).setX).unblock
      · trivial
  · trivial

theorem Canon.execFullemptyWake (h : Canon all st) : CanonOut all (Machine.execFullemptyWake i st) := by
  unfold Machine.execFullemptyWake
  refine h.event ?_
  split
  · split
    · trivial
    · split
      · exact h.wakeTrap
      · rename_i he
        exact (h.granuleRead.of_eq he).unblock
  · trivial

theorem Canon.dropLate {k : Nat} (h : Canon all s) : Canon all (Machine.dropLate i k s) := by
  unfold Machine.dropLate
  exact h.modStrand

theorem Canon.lateFault {a : FailedAccess} {f : Flt} (h : Canon all s) : CanonOpt all (Machine.lateFault i a f s) := by
  unfold Machine.lateFault
  dsimp only
  split
  · trivial
  · split
    · split
      · exact h.takeTrap.lone
      · trivial
    · exact h.addAsync.modStrand

theorem Canon.completeLate {k : Nat} (h : Canon all s) : CanonOpt all (Machine.completeLate i k s) := by
  unfold Machine.completeLate
  dsimp only
  split
  · trivial
  · split
    · trivial
    · split
      · exact h.dropLate.lateFault
      · split
        · exact h.dropLate.lateFault
        · rename_i he
          exact (((h.cutRanges.ite h).performAccess.of_eq he).dropLate).setX

theorem Canon.execScalarAccessComplete {k : Nat} (h : Canon all st) : CanonOut all (Machine.execScalarAccessComplete i k st) := by
  unfold Machine.execScalarAccessComplete
  exact h.event h.completeLate

theorem Canon.execReservationWaitProceed {k : Nat} (h : Canon all st) : CanonOut all (Machine.execReservationWaitProceed i k st) := by
  unfold Machine.execReservationWaitProceed
  exact h.event h.completeLate

theorem Canon.cacheControl {kind : StoreKind} {p : Phys} (h : Canon all s) : Canon all (Machine.cacheControl kind p s) := by
  unfold Machine.cacheControl
  split
  · exact h
  · dsimp only
    split
    · exact h
    · split
      · exact h.writeBack.dropCopies
      · exact h.writeBack
      · exact h.dropCopies
      · exact h

theorem Canon.zeroLine {p : Phys} (h : Canon all s) : Canon all (Machine.zeroLine p s) := by
  unfold Machine.zeroLine
  split
  · exact h.writePhys
  · exact h.modCrucible.writePhys.ite (h.modCrucible.writePhys.makeRoom.modQuad (fun _ => rfl))

theorem Canon.performStore {e : StoreEntry} (h : Canon all s) : Canon all (Machine.performStore e s) := by
  unfold Machine.performStore
  split
  · exact h.writePhys
  · exact h.zeroLine
  · exact h.cacheControl

theorem Canon.drainStore {k : Nat} (h : Canon all s) : CanonOpt all (Machine.drainStore i k s) := by
  unfold Machine.drainStore
  dsimp only
  split
  · trivial
  · split
    · split
      · trivial
      · split
        · exact h.modStrand
        · exact (h.modStrand.cutRanges.ite h.modStrand).performStore
    · split
      · trivial
      · split
        · exact h.modStrand.lateFault
        · exact (h.modStrand.cutRanges.ite h.modStrand).performStore

theorem Canon.execStoreQueueDrain {k : Nat} (h : Canon all st) : CanonOut all (Machine.execStoreQueueDrain i k st) := by
  unfold Machine.execStoreQueueDrain
  exact h.event h.drainStore

theorem Canon.enqueue {e : VEntry} (h : Canon all s) : Canon all (Machine.enqueue i e s) := by
  unfold Machine.enqueue
  exact h.modStrand

theorem Canon.pushEntry {e : VEntry} (h : Canon all s) : Canon all (Machine.pushEntry i e s) := by
  unfold Machine.pushEntry
  exact h.enqueue.traceEvent

theorem Canon.queueFence {op : VOp} (h : Canon all st) : CanonOut all (Machine.queueFence op st) := by
  unfold Machine.queueFence
  refine h.issue fun _ _ _ hs => ?_
  split
  · exact hs
  · split
    · trivial
    · exact hs.pushEntry

theorem Canon.execFenceVS (h : Canon all st) : CanonOut all (Machine.execFenceVS st) := by
  unfold Machine.execFenceVS
  refine h.issue fun _ _ _ hs => ?_
  split
  · exact hs
  · split
    · trivial
    · exact hs

theorem Canon.execFence {k : BitVec 2} {c : BitVec 3} (h : Canon all st) : CanonOut all (Machine.execFence k c st) := by
  unfold Machine.execFence
  dsimp only
  refine h.issue fun _ _ _ hs => ?_
  split
  · split
    · exact hs
    · trivial
  · split
    · exact hs.modStrand
    · split
      · trivial
      · exact hs.modStrand

theorem Canon.cacheLine {kind : StoreKind} {acc : Access} {aligned barDevice : Bool} {a : BitVec 4} (h : Canon all st) :
    CanonOut all (Machine.cacheLine kind acc aligned barDevice a st) := by
  unfold Machine.cacheLine
  refine h.issue fun _ _ _ hs => ?_
  split
  · trivial
  · dsimp only
    split
    · trivial
    · split
      · trivial
      · rename_i he
        split
        · trivial
        · exact (hs.locate.of_eq he).enqueueStore

theorem Canon.execCpf {a : BitVec 4} {wi : BitVec 1} (h : Canon all st) : CanonOut all (Machine.execCpf a wi st) := by
  unfold Machine.execCpf
  dsimp only
  refine h.issue fun _ _ _ hs => ?_
  split
  · exact hs
  · split
    · exact hs
    · exact hs.cutRanges

theorem Canon.execIsync {s : BitVec 4} {t : BitVec 5} (h : Canon all st) : CanonOut all (Machine.execIsync s t st) := by
  unfold Machine.execIsync
  refine h.issue fun _ _ _ hs => ?_
  split
  · trivial
  · exact hs.modCore

theorem Canon.sysRead {n : Nat} (h : Canon all s) : Canon all (Machine.sysRead i n s).2 := by
  unfold Machine.sysRead
  dsimp only
  by_cases hn : (decide (n = 0x101) || decide (n = 0x102) || decide (n = 0x103)) = true
  · rw [if_pos hn]
    split <;> exact h
  · rw [if_neg hn]; exact h

theorem Canon.writeCtxcur {n : BitVec 16} (h : Canon all s) : Canon all (Machine.writeCtxcur i n s) := by
  unfold Machine.writeCtxcur
  split
  · exact h
  · exact h.modStrand

theorem Canon.startKey {clr : Bool} (h : Canon all s) : Canon all (Machine.startKey q clr s) := by
  unfold Machine.startKey
  exact h.modQuad (by intro _; (repeat' split) <;> rfl)

theorem Canon.sysStore {n : Nat} {v w1c : Word} (h : Canon all s) : Canon all (Machine.sysStore i n v w1c s) := by
  unfold Machine.sysStore
  exact h.modStrand.ite (h.modStrand.ite (h.modStrand.ite (h.modStrand.ite
    (h.modStrand.ite (h.ite (h.modStrand.ite (Canon.ite (h.modQuad (fun _ => rfl))
    (h.writeCtxcur.ite (Canon.ite (h.modQuad (fun _ => rfl)) (Canon.ite (h.modQuad (fun _ => rfl))
    ((h.modQuad (by intro _; (repeat' split) <;> rfl)).ite ((h.modQuad (by intro _; (repeat' split) <;> rfl)).ite
    (Canon.ite (h.modQuad (fun _ => rfl)) (Canon.ite (h.modQuad (fun _ => rfl))
    (Canon.ite (h.modQuad (fun _ => rfl)) (Canon.ite (h.modQuad (fun _ => rfl))
    (h.writeLattol.ite (Canon.ite (h.modQuad (fun _ => rfl)) (h.ite
    (Canon.ite (Canon.ite (h.modTile (fun _ hv => hv)) h) (h.modStrand.ite
    (Canon.ite (h.modQuad (fun _ => rfl)) (Canon.ite (h.modQuad (fun _ => rfl))
    (Canon.ite (Canon.startKey (h.modQuad (fun _ => rfl))) (h.modQuad (fun _ => rfl))))))))))))))))))))))))))

theorem Canon.sysAccess {d : BitVec 5} {r : BitVec 15} {out : Bool} {f : Word → Word → Word → Option (Word × Word)} (h : Canon all st) :
    CanonOut all (Machine.sysAccess d r out f st) := by
  unfold Machine.sysAccess
  refine h.issueWith ?_ (fun _ _ => h.takeTrap)
  intro _ _ _ hs
  dsimp only
  split
  · trivial
  · split
    · trivial
    · split
      · trivial
      · split
        · exact hs.sysRead.setX
        · split
          · trivial
          · exact hs.sysRead.sysStore.setX.ite hs.sysRead.sysStore

theorem Canon.execScall (h : Canon all st) : CanonOut all (Machine.execScall st) := by
  unfold Machine.execScall
  exact h.issue (fun _ _ _ hs => hs.takeTrapTo)

theorem Canon.resumeEngines (h : Canon all s) : Canon all (Machine.resumeEngines i s) := by
  unfold Machine.resumeEngines
  dsimp only
  split
  · exact h
  · exact h.modTile (fun _ hv => hv)

theorem Canon.execTret (h : Canon all st) : CanonOut all (Machine.execTret st) := by
  unfold Machine.execTret
  refine h.issue fun _ _ _ hs => ?_
  split
  · trivial
  · split
    · trivial
    · exact ((hs.traceDiscard.ite hs).modStrand).resumeEngines

theorem Canon.execAsyncTrap (h : Canon all st) : CanonOut all (Machine.execAsyncTrap i st) := by
  unfold Machine.execAsyncTrap
  refine h.event ?_
  dsimp only
  split
  · trivial
  · split
    · trivial
    · exact h.setStrand.takeTrap.lone

theorem Canon.removeTlb {w : TlbRemoval} (h : Canon all s) : Canon all (Machine.removeTlb w s) := by
  refine ⟨h.1, fun ha => ⟨fun p hp => ?_, fun q => ?_⟩⟩
  · obtain ⟨r, hr, rfl⟩ := List.mem_map.mp hp
    exact (h.2 ha).1 r hr
  · have hq : ((Machine.removeTlb w s).quad q).launches = (s.quad q).launches := by
      simp only [Machine.removeTlb, State.quad, Vector.get_eq_getElem, Vector.getElem_map]
    rw [hq]; exact (h.2 ha).2 q

theorem Canon.invalidate {w : Strand → TlbRemoval} {reads : List (BitVec 5)} (h : Canon all st) : CanonOut all (Machine.invalidate w reads st) := by
  unfold Machine.invalidate
  refine h.issue fun _ _ _ hs => ?_
  split
  · trivial
  · split
    · trivial
    · exact hs.block

theorem Canon.execTlbInvalidateComplete (h : Canon all st) : CanonOut all (Machine.execTlbInvalidateComplete i st) := by
  unfold Machine.execTlbInvalidateComplete
  refine h.event ?_
  dsimp only
  split
  · split
    · trivial
    · exact h.removeTlb.unblock
  · trivial

theorem Canon.execPageWalk {va : Addr} {acc : Access} (h : Canon all st) : CanonOut all (Machine.execPageWalk i va acc st) := by
  unfold Machine.execPageWalk
  refine h.event ?_
  split
  · trivial
  · split
    · rename_i he1
      split
      · trivial
      · split
        · trivial
        · split
          · trivial
          · rename_i he2
            exact ((h.strandXl.of_pair he1).countMiss.walkFill).of_eq he2

theorem Canon.execCtxcurWrite {v : Word} (h : Canon all st) : CanonOut all (Machine.execCtxcurWrite i v st) := by
  unfold Machine.execCtxcurWrite
  refine h.event ?_
  split
  · trivial
  · exact h.writeCtxcur

theorem Canon.requestLeave {t : TileId} (h : Canon all s) : Canon all (Machine.requestLeave t s) := by
  unfold Machine.requestLeave
  exact h.modQuad (by intro _; (repeat' split) <;> rfl)

theorem Canon.execLeave {d : BitVec 5} (h : Canon all st) : CanonOut all (Machine.execLeave d st) := by
  unfold Machine.execLeave
  refine h.issue fun _ _ _ hs => ?_
  split
  · trivial
  · split
    · exact hs.setX
    · split
      · exact hs.setX
      · exact hs.setX.requestLeave

theorem Canon.execLeaveGrant {t : TileId} (h : Canon all st) : CanonOut all (Machine.execLeaveGrant t st) := by
  unfold Machine.execLeaveGrant
  refine h.event ?_
  dsimp only
  split
  · trivial
  · split
    · trivial
    · exact Canon.ite (Canon.bump (Canon.ite (Canon.bump (Canon.bumpQuad
        (Canon.bumpQuad (Canon.modTile (h.modQuad (fun _ => rfl)) (fun _ hv => hv)))))
        (Canon.bumpQuad (Canon.bumpQuad (Canon.modTile (h.modQuad (fun _ => rfl)) (fun _ hv => hv))))))
        (Canon.trace (Canon.bump (Canon.ite (Canon.bump (Canon.bumpQuad
        (Canon.bumpQuad (Canon.modTile (h.modQuad (fun _ => rfl)) (fun _ hv => hv)))))
        (Canon.bumpQuad (Canon.bumpQuad (Canon.modTile (h.modQuad (fun _ => rfl)) (fun _ hv => hv)))))))

theorem Canon.execLeaveRevoke {t : TileId} (h : Canon all st) : CanonOut all (Machine.execLeaveRevoke t st) := by
  unfold Machine.execLeaveRevoke
  refine h.event ?_
  dsimp only
  split
  · trivial
  · exact Canon.ite (Canon.requestLeave (h.setTile (fun ha => h.tileOk ha _))) (h.setTile (fun ha => h.tileOk ha _))

theorem Canon.execFkeyInstall (h : Canon all st) : CanonOut all (Machine.execFkeyInstall q st) := by
  unfold Machine.execFkeyInstall
  refine h.event ?_
  split
  · trivial
  · exact h.startKey

theorem Canon.execFkeyClear (h : Canon all st) : CanonOut all (Machine.execFkeyClear q st) := by
  unfold Machine.execFkeyClear
  refine h.event ?_
  split
  · trivial
  · exact h.startKey

theorem Canon.execFkeyCommandDone (h : Canon all st) : CanonOut all (Machine.execFkeyCommandDone q st) := by
  unfold Machine.execFkeyCommandDone
  refine h.event ?_
  split
  · trivial
  · exact (h.notePoison.ite h).modQuad (fun _ => rfl)

theorem Canon.execLattolWrite {v : Word} (h : Canon all st) : CanonOut all (Machine.execLattolWrite q v st) := by
  unfold Machine.execLattolWrite
  exact h.event h.writeLattol

theorem Canon.execRegisterWrite {offset : Nat} {v : Word} (h : Canon all st) : CanonOut all (Machine.execRegisterWrite offset v st) := by
  unfold Machine.execRegisterWrite
  refine h.event ?_
  split
  · trivial
  · exact h.barReg

theorem Canon.execDebugGo {v : Word} (h : Canon all st) : CanonOut all (Machine.execDebugGo q v st) := by
  unfold Machine.execDebugGo
  exact h.event h.writeTrace

theorem Canon.execYield (h : Canon all st) : CanonOut all (Machine.execYield st) := by
  unfold Machine.execYield
  refine h.issue fun _ _ _ hs => ?_
  split
  · exact hs
  · exact hs.modCore.modStrand.modCore

theorem Canon.execExit (h : Canon all st) : CanonOut all (Machine.execExit st) := by
  unfold Machine.execExit
  exact h.issue (fun _ _ _ hs => hs.modStrand)

theorem Canon.childLeaves (h : Canon all s) : Canon all (Machine.childLeaves i s) := by
  unfold Machine.childLeaves
  refine h.foldl fun _ _ hs => ?_
  split
  · exact hs.modStrand.ite hs
  · exact hs

theorem Canon.execSlotFree (h : Canon all st) : CanonOut all (Machine.execSlotFree i st) := by
  unfold Machine.execSlotFree
  refine h.event ?_
  dsimp only
  split
  · trivial
  · show Canon all _
    refine Canon.childLeaves ?_
    split
    · exact h.setStrand.modCore
    · exact h.setStrand.modCore.modTile (fun _ hv => hv)

theorem Canon.setElem {g : LaneGroup} {r : BitVec 5} {w e v : Nat} (h : Canon all s) : Canon all (Machine.setElem i g r w e v s) := by
  unfold Machine.setElem
  split
  · exact Canon.modStrand (h.modTile (fun _ hv => hv))

theorem Canon.setMbit {r : BitVec 3} {e : Nat} {b : Bool} (h : Canon all s) : Canon all (Machine.setMbit i r e b s) := by
  unfold Machine.setMbit
  exact h.modStrand

/-! ### Vector instructions -/

theorem Canon.stepGen {lane : Nat} (h : Canon all s) : Canon all (Machine.stepGen i lane s).2 := by
  unfold Machine.stepGen
  exact h.modTile (fun _ hv => hv)

theorem Canon.vCtxPut {c : VCtx} {r : BitVec 5} {w e v : Nat} (h : Canon all s) : Canon all (VCtx.put c r w e v s) := by
  unfold VCtx.put
  exact h.setElem

theorem Canon.runElems {f : Nat → State → VRes} {l : List Nat} {fl : Flags} (h : Canon all s) (hf : ∀ e s, Canon all s → CanonVRes all (f e s)) :
    Canon all (Machine.runElems f l fl s).st := by
  induction l generalizing fl s with
  | nil => exact h
  | cons e es ih =>
    unfold Machine.runElems
    split
    · rename_i he
      exact ih ((hf e s h).of_eq he)
    · exact h
    · exact h

theorem Canon.setEntry {k : Nat} {e : VEntry} (h : Canon all s) : Canon all (Machine.setEntry i k e s) := by
  unfold Machine.setEntry
  exact h.modStrand

theorem Canon.traceEnd {e : VEntry} (h : Canon all s) : Canon all (Machine.traceEnd i e s) := by
  unfold Machine.traceEnd
  dsimp only
  refine Canon.traceEvent ?_
  split
  · exact h.traceEvent
  · exact h

theorem Canon.retire {k : Nat} (h : Canon all s) : Canon all (Machine.retire i k s) := by
  unfold Machine.retire
  split
  · exact h
  · exact h.modStrand.traceEnd

theorem Canon.laneTrap {e : VEntry} {at' : Option Nat} {f : Flt} (h : Canon all s) : CanonOpt all (Machine.laneTrap i e at' f s) := by
  unfold Machine.laneTrap
  split
  · trivial
  · dsimp only
    show Canon all _
    refine Canon.lone (Canon.takeTrap (Canon.setStrand (Canon.flushParts (Canon.countFault ?_))))
    split
    · exact h.traceEvent
    · exact h

theorem Canon.issueV {len : Nat} {xs : List (BitVec 5)} {op : Strand → VOp} {mreg : Option (BitVec 3)} (h : Canon all st) :
    CanonOut all (Machine.issueV len xs op mreg st) := by
  unfold Machine.issueV
  refine h.issueEngine fun _ _ _ hs => ?_
  split
  · trivial
  · split
    · trivial
    · exact hs.pushEntry

theorem Canon.debugStop (h : Canon all s) : CanonOpt all (Machine.debugStop i s) := by
  unfold Machine.debugStop
  dsimp only
  split
  · trivial
  · exact h.setStatus.traceStrand

theorem Canon.execVsetl {d s : BitVec 5} (h : Canon all st) : CanonOut all (Machine.execVsetl d s st) := by
  unfold Machine.execVsetl
  refine h.issueEngine fun _ _ _ hs => ?_
  split
  · trivial
  · split
    · split
      · rename_i he
        exact (h.debugStop.of_eq he).takeSlot
      · trivial
    · split
      · trivial
      · exact hs.modStrand.pushEntry.traceStrand

theorem Canon.execVsetcfg {d s : BitVec 5} (h : Canon all st) : CanonOut all (Machine.execVsetcfg d s st) := by
  unfold Machine.execVsetcfg
  refine h.issueEngine fun _ _ _ hs => ?_
  split
  · trivial
  · split
    · trivial
    · dsimp only
      split
      · trivial
      · exact hs.modStrand.pushEntry

theorem Canon.execVpart {s : BitVec 5} (h : Canon all st) : CanonOut all (Machine.execVpart s st) := by
  unfold Machine.execVpart
  refine h.issueEngine fun _ _ _ hs => ?_
  split
  · trivial
  · split
    · trivial
    · dsimp only
      split
      · trivial
      · split
        · trivial
        · split
          · trivial
          · exact hs.pushEntry

theorem Canon.execVpartEffect {t : TileId} (h : Canon all st) : CanonOut all (Machine.execVpartEffect t st) := by
  unfold Machine.execVpartEffect
  refine h.event ?_
  dsimp only
  split
  · trivial
  · split
    · trivial
    · exact Canon.foldl (Canon.retire (h.setTile (fun ha => h.tileOk ha _))) (fun _ _ hs => hs.modStrand)

theorem Canon.execSbr {c : BitVec 5} {a0 a1 a2 a3 : BitVec 4} {n : BitVec 3} {sz : BitVec 8} {off : BitVec 24} (h : Canon all st) :
    CanonOut all (Machine.execSbr c a0 a1 a2 a3 n sz off st) := by
  unfold Machine.execSbr
  refine h.issue fun _ _ _ hs => ?_
  split
  · trivial
  · split
    · trivial
    · exact hs.modStrand

theorem Canon.execForkl {d : BitVec 5} {s : BitVec 4} (h : Canon all st) : CanonOut all (Machine.execForkl d s st) := by
  unfold Machine.execForkl
  refine h.issueEngine fun _ _ _ hs => ?_
  split
  · trivial
  · split
    · trivial
    · split
      · trivial
      · split
        · trivial
        · exact (hs.modStrand.setX.ite hs.modStrand).pushEntry

theorem Canon.execForklAct (h : Canon all st) : CanonOut all (Machine.execForklAct i st) := by
  unfold Machine.execForklAct
  refine h.event ?_
  dsimp only
  split
  · split
    · exact h.modStrand.retire
    · split
      · trivial
      · exact Canon.setX (Canon.setStrand (Canon.newStamp (Canon.modStrand (Canon.retire (h.setTile (fun ha => h.tileOk ha _))))))
    · trivial
  · trivial

theorem Canon.joinLength (h : Canon all s) : Canon all (Machine.joinLength i s) := by
  unfold Machine.joinLength
  exact h.modStrand

theorem Canon.execJoinl (h : Canon all st) : CanonOut all (Machine.execJoinl st) := by
  unfold Machine.execJoinl
  refine h.issueEngine fun _ _ _ hs => ?_
  split
  · trivial
  · dsimp only
    split
    · exact hs.traceEvent.traceEvent
    · split
      · trivial
      · split
        · exact hs.joinLength.pushEntry
        · exact hs.traceEvent.block

theorem Canon.execJoinlWake (h : Canon all st) : CanonOut all (Machine.execJoinlWake i st) := by
  unfold Machine.execJoinlWake
  refine h.event ?_
  dsimp only
  split
  · split
    · exact h.joinLength.enqueue.unblock
    · trivial
  · trivial

theorem Canon.execJoinlAct (h : Canon all st) : CanonOut all (Machine.execJoinlAct i st) := by
  unfold Machine.execJoinlAct
  refine h.event ?_
  dsimp only
  split
  · split
    · trivial
    · split
      · trivial
      · exact Canon.modStrand (Canon.retire (h.setTile (fun ha => h.tileOk ha _)))
  · trivial

theorem Canon.dotElem {c : VCtx} {r : Nat} {d sv tv : BitVec 5} {e : Nat} (h : Canon all s) : CanonVRes all (Machine.dotElem c r d sv tv e s) := by
  unfold Machine.dotElem
  dsimp only
  split
  · trivial
  · split
    · exact h.vCtxPut
    · exact h.vCtxPut

theorem Canon.bsapplyElem {c : VCtx} {d sv tv : BitVec 5} {e : Nat} (h : Canon all s) : CanonVRes all (Machine.bsapplyElem c d sv tv e s) := by
  unfold Machine.bsapplyElem
  dsimp only
  split
  · trivial
  · exact h.vCtxPut

theorem Canon.vCtxStep {c : VCtx} {m : RMode} {d : BitVec 5} {w e : Nat} (h : Canon all s) : Canon all (VCtx.step c m d w e s).2 := by
  unfold VCtx.step
  split
  · exact h.stepGen
  · exact h

theorem Canon.cvtElem {c : VCtx} {d sv : BitVec 5} {srcf dstf : BitVec 4} {rnd : BitVec 3} {sat : Bool} {e : Nat} (h : Canon all s) :
    CanonVRes all (Machine.cvtElem c d sv srcf dstf rnd sat e s) := by
  unfold Machine.cvtElem
  dsimp only
  split
  · trivial
  · exact h.vCtxStep.vCtxPut

theorem Canon.decodeElem {c : VCtx} {d sv tv : BitVec 5} {srcf dstf : BitVec 4} {rnd : BitVec 3} {sat : Bool} {e : Nat} (h : Canon all s) :
    CanonVRes all (Machine.decodeElem c d sv tv srcf dstf rnd sat e s) := by
  unfold Machine.decodeElem
  dsimp only
  split
  · trivial
  · exact h
  · split
    · trivial
    · exact h.vCtxStep.vCtxPut

theorem Canon.encodeElem {c : VCtx} {d sv tv : BitVec 5} {srcf dstf : BitVec 4} {rnd : BitVec 3} {e : Nat} (h : Canon all s) :
    CanonVRes all (Machine.encodeElem c d sv tv srcf dstf rnd e s) := by
  unfold Machine.encodeElem
  split
  · exact h
  · dsimp only
    refine Canon.ite (Canon.vCtxPut (Canon.ite (Canon.vCtxPut ?_) ?_)) (Canon.ite (Canon.vCtxPut ?_) ?_)
    · split
      · exact h.vCtxStep
      · exact h
    · split
      · exact h.vCtxStep
      · exact h
    · split
      · exact h.vCtxStep
      · exact h
    · split
      · exact h.vCtxStep
      · exact h

theorem Canon.arithElem {c : VCtx} {e : Nat} (h : Canon all s) : CanonOptVRes all (Machine.arithElem c e s) := by
  unfold Machine.arithElem
  dsimp only
  split
  · exact h.vCtxPut
  · exact h.vCtxPut
  · exact h.setMbit
  · exact h.vCtxPut
  · exact h.vCtxPut
  · exact h.vCtxPut
  · exact h.vCtxPut
  · exact h.dotElem
  · exact h.bsapplyElem
  · show CanonVRes all _
    split
    · exact h.decodeElem
    · exact h.encodeElem
  · exact h.cvtElem
  · trivial

theorem Canon.seedLanes {c : VCtx} {x : Word} (h : Canon all s) : Canon all (Machine.seedLanes c x s) := by
  unfold Machine.seedLanes
  exact h.modTile (fun _ hv => hv)

theorem Canon.oneGroup {c : VCtx} (h : Canon all s) : CanonOpt all (Machine.oneGroup c s) := by
  unfold Machine.oneGroup
  dsimp only
  split
  · exact h.setStrand
  · exact h.setX
  · exact h.setX
  · exact h.setX
  · exact h.seedLanes
  · trivial

theorem Canon.xlnRun {c : VCtx} (h : Canon all s) : CanonOptSnd all (Machine.xlnRun c s) := by
  unfold Machine.xlnRun
  split
  · trivial
  · dsimp only
    show Canon all _
    dsimp only
    split
    · exact h.foldl (fun _ _ hs => hs.vCtxPut)
    · exact Canon.modStrand (h.foldl (fun _ _ hs => hs.vCtxPut))

theorem Canon.vPlace {ea : Addr} {acc : Access} {n : Nat} {barred : Phys → Option Flt} (h : Canon all s) :
    CanonOkSnd all (Machine.vPlace i ea acc n barred s) := by
  unfold Machine.vPlace
  split
  · trivial
  · split
    · rename_i he1
      split
      · trivial
      · rename_i he2
        split
        · trivial
        · dsimp only
          split
          · trivial
          · trivial
          · split
            · trivial
            · exact (((h.strandXl.of_pair he1).translate.of_eq he2).cutRanges).ite ((h.strandXl.of_pair he1).translate.of_eq he2)

theorem Canon.loadField {c : VCtx} {form : LdForm} {d : BitVec 5} {base : Addr} {f e : Nat} (h : Canon all s) :
    CanonVRes all (Machine.loadField c form d base f e s) := by
  unfold Machine.loadField
  dsimp only
  split
  · exact CanonVRes.ofError
  · rename_i he
    split
    · trivial
    · exact (h.vPlace.of_eq he).vCtxPut

theorem Canon.putMemElem {p : Phys} {w e v : Nat} (h : Canon all s) : Canon all (Machine.putMemElem p w e v s) := by
  unfold Machine.putMemElem
  exact h.writeNib.ite h.writePhys

theorem Canon.fillGranule {g : Option (TileId × Nat)} (h : Canon all s) : Canon all (Machine.fillGranule g s) := by
  unfold Machine.fillGranule
  split
  · exact h.setFull
  · exact h

theorem Canon.storeField {c : VCtx} {form : StForm} {sv : BitVec 5} {base : Addr} {f e : Nat} (h : Canon all s) :
    CanonVRes all (Machine.storeField c form sv base f e s) := by
  unfold Machine.storeField
  dsimp only
  split
  · exact CanonVRes.ofError
  · rename_i he
    split
    · trivial
    · split
      · split
        · exact ((h.vPlace.of_eq he).fresh.putMemElem.ite ((h.vPlace.of_eq he).fresh)).fillGranule
        · exact ((h.vPlace.of_eq he).putMemElem).fillGranule
      · split
        · exact ((h.vPlace.of_eq he).fresh.putMemElem.ite ((h.vPlace.of_eq he).fresh)).fillGranule
        · exact ((h.vPlace.of_eq he).putMemElem).fillGranule

theorem Canon.runFields {one : Nat → State → VRes} {l : List Nat} (h : Canon all s) (hf : ∀ e s, Canon all s → CanonVRes all (one e s)) :
    CanonVRes all (Machine.runFields one l s) := by
  induction l generalizing s with
  | nil => exact h
  | cons f fs ih =>
    unfold Machine.runFields
    split
    · rename_i he
      exact ih ((hf f s h).of_eq he)
    · exact hf f s h

theorem Canon.ffLater {c : VCtx} {d : BitVec 5} {base : Addr} {e : Nat} {r : VRes} (h : Canon all s) (he : Machine.ffLater c d base e s = .inl r) :
    CanonVRes all r := by
  have hl := h.loadField (c := c) (form := .unit) (d := d) (base := base) (f := 0) (e := e)
  unfold Machine.ffLater at he
  dsimp only at he
  generalize Machine.loadField c .unit d base 0 e s = o at hl he
  split at he
  · split at he
    · cases he
    · cases o with
      | fault f => cases he
      | ok f t => cases he; exact hl
      | wait => cases he; trivial
  · cases o with
    | fault f => cases he
    | ok f t => cases he; exact hl
    | wait => cases he; trivial

theorem Canon.memElem {c : VCtx} {e : Nat} (h : Canon all s) : CanonOptVRes all (Machine.memElem c e s) := by
  unfold Machine.memElem
  split
  · trivial
  · trivial
  · exact h.runFields (fun _ _ hs => hs.loadField)
  · trivial
  · exact h.runFields (fun _ _ hs => hs.storeField)
  · trivial

theorem Canon.fcClear {gs : List (TileId × Nat)} (h : Canon all s) : Canon all (Machine.fcClear gs s) := by
  unfold Machine.fcClear
  refine h.foldl fun _ _ hs => ?_
  split
  · exact hs.clearFull

theorem Canon.putGranule {c : VCtx} {r : BitVec 5} {j : Nat} {bs : List Byte} (h : Canon all s) : Canon all (Machine.putGranule c r j bs s) := by
  unfold Machine.putGranule
  exact Canon.modStrand (h.modTile (fun _ hv => hv))

theorem Canon.readBytes {n : Nat} {ea : Addr} (h : Canon all s) : CanonOkSnd all (Machine.readBytes i n ea s) := by
  induction n generalizing ea s with
  | zero => exact h
  | succ n ih =>
    unfold Machine.readBytes
    split
    · trivial
    · rename_i he
      split
      · trivial
      · split
        · trivial
        · rename_i hr
          exact (ih (h.vPlace.of_eq he)).of_eq hr

theorem Canon.writePlaces {l : List (Addr × Byte)} (h : Canon all s) : CanonOkSnd all (Machine.writePlaces i l s) := by
  induction l generalizing s with
  | nil => exact h
  | cons w ws ih =>
    unfold Machine.writePlaces
    split
    · trivial
    · rename_i he
      split
      · trivial
      · rename_i hr
        exact (ih (h.vPlace.of_eq he)).of_eq hr

theorem Canon.zsbHead {c : VCtx} {base : Addr} {j : Nat} (h : Canon all s) : CanonOkSnd all (Machine.zsbHead c base j s) := by
  unfold Machine.zsbHead
  split
  · trivial
  · dsimp only
    split
    · trivial
    · rename_i he1
      split
      · trivial
      · split
        · trivial
        · rename_i he2
          exact ((h.readBytes.zsbCheck.of_eq he1).readBytes.zsbCheck).of_eq he2

theorem Canon.vldzBelow {c : VCtx} {base : Addr} {l : List Nat} {n : Nat} (h : Canon all s) : CanonOkSnd all (Machine.vldzBelow c base l n s) := by
  induction l generalizing n s with
  | nil => exact h
  | cons j js ih =>
    unfold Machine.vldzBelow
    split
    · trivial
    · rename_i he
      exact ih (h.zsbHead.of_eq he)

theorem Canon.vldzGranule {c : VCtx} {d : BitVec 5} {base : Addr} {j aux : Nat} (h : Canon all s) :
    CanonOkSnd all (Machine.vldzGranule c d base j aux s) := by
  unfold Machine.vldzGranule
  split
  · trivial
  · rename_i he1
    split
    · trivial
    · rename_i he2
      split
      · trivial
      · rename_i he3
        exact (((h.vldzBelow.of_eq he1).zsbHead.of_eq he2).readBytes.zsbCheck.of_eq he3).putGranule

theorem Canon.vstzGranule {c : VCtx} {sv : BitVec 5} {base : Addr} {j : Nat} (h : Canon all s) : CanonOk all (Machine.vstzGranule c sv base j s) := by
  unfold Machine.vstzGranule
  split
  · trivial
  · split
    · trivial
    · rename_i he
      dsimp only
      split
      · trivial
      · exact Canon.foldl ((h.writePlaces.zsbCheck.of_eq he).foldl (fun _ _ hs => hs.writePhys)) (fun _ _ hs => hs.fillGranule)

theorem Canon.atPlace {c : VCtx} {base : Addr} {x : BitVec 5} {acc : Access} {e : Nat} (h : Canon all s) :
    CanonOkSnd all (Machine.atPlace c base x acc e s) := by
  unfold Machine.atPlace
  exact h.vPlace

theorem Canon.amoElem {c : VCtx} {op : AmoOp} {d : BitVec 5} {base : Addr} {x : BitVec 5} {e : Nat} (h : Canon all s) :
    CanonVRes all (Machine.amoElem c op d base x e s) := by
  unfold Machine.amoElem
  split
  · exact CanonVRes.ofError
  · rename_i he1
    dsimp only
    split
    · trivial
    · rename_i he2
      exact ((h.atPlace.of_eq he1).atomicUpdate.of_eq he2).vCtxPut

theorem Canon.glElem {c : VCtx} {d : BitVec 5} {base : Addr} {x : BitVec 5} {e : Nat} (h : Canon all s) :
    CanonVRes all (Machine.glElem c d base x e s) := by
  unfold Machine.glElem
  split
  · exact CanonVRes.ofError
  · rename_i he
    split
    · trivial
    · dsimp only
      refine Canon.vCtxPut (Canon.ite (Canon.modStrand ?_) ?_)
      · split
        · exact h.atPlace.of_eq he
        · exact (h.atPlace.of_eq he).fresh
      · split
        · exact h.atPlace.of_eq he
        · exact (h.atPlace.of_eq he).fresh

theorem Canon.modParts {c : VCtx} {f : List Combine → List Combine} (h : Canon all s) : Canon all (Machine.modParts c f s) := by
  unfold Machine.modParts
  exact h.modStrand

theorem Canon.holdsLink {l : Line} (h : Canon all s) : Canon all (Machine.holdsLink i l s).2 := by
  unfold Machine.holdsLink
  dsimp only
  split
  · exact h
  · split
    · exact h
    · split
      · exact h.fresh
      · exact h.fresh.modStrand

theorem Canon.scElem {c : VCtx} {m : BitVec 3} {sv : BitVec 5} {base : Addr} {x : BitVec 5} {e : Nat} (h : Canon all s) :
    CanonVRes all (Machine.scElem c m sv base x e s) := by
  unfold Machine.scElem
  split
  · exact CanonVRes.ofError
  · rename_i he1
    split
    · rename_i he2
      split
      · exact (((h.atPlace.of_eq he1).holdsLink.of_pair he2).writePhys.setMbit).modParts
      · exact ((h.atPlace.of_eq he1).holdsLink).of_pair he2

theorem Canon.camoElem {c : VCtx} {op : AmoOp} {sv : BitVec 5} {base : Addr} {x : BitVec 5} {e : Nat} (h : Canon all s) :
    CanonVRes all (Machine.camoElem c op sv base x e s) := by
  unfold Machine.camoElem
  dsimp only
  split
  · exact CanonVRes.ofError
  · rename_i he
    split
    · trivial
    · exact (h.atPlace.of_eq he).modParts

theorem Canon.atomicElem {c : VCtx} {e : Nat} (h : Canon all s) : CanonOptVRes all (Machine.atomicElem c e s) := by
  unfold Machine.atomicElem
  split
  · exact h.amoElem
  · exact h.camoElem
  · exact h.glElem
  · exact h.scElem
  · trivial

theorem Canon.modEntry {k : Nat} {f : VEntry → VEntry} (h : Canon all s) : Canon all (Machine.modEntry i k f s) := by
  unfold Machine.modEntry
  exact h.modStrand

theorem Canon.startControl {k : Nat} {e : VEntry} (h : Canon all s) : CanonOpt all (Machine.startControl i k e s) := by
  unfold Machine.startControl
  dsimp only
  generalize e.op = o
  cases o with
  | setl | setcfg => exact h.modStrand.retire
  | fenceSV | fenceVV =>
    dsimp only
    split
    · trivial
    · exact h.retire
  | _ => trivial

theorem Canon.startElements {k : Nat} {e : VEntry} {p : Nat} (h : Canon all s) : CanonOpt all (Machine.startElements i k e p s) := by
  unfold Machine.startElements
  dsimp only
  split
  · exact h.retire
  · split
    · exact h.retire
    · split
      · exact h.modStrand.retire
      · split
        · trivial
        · split
          · split
            · exact h.laneTrap
            · trivial
          · exact h.modStrand.setEntry.traceEvent

theorem Canon.retireEntry {k : Nat} (h : Canon all s) : Canon all (Machine.retireEntry i k s) := by
  unfold Machine.retireEntry
  split
  · exact h
  · exact h.retire.ite h.retire.modStrand

theorem Canon.afterGroup {k next last : Nat} {r : VRun} (h : Canon all r.st) : CanonOpt all (Machine.afterGroup i k next last r) := by
  unfold Machine.afterGroup
  dsimp only
  split
  · split
    · split
      · exact h.modEntry.laneTrap
      · trivial
    · trivial
  · trivial
  · split
    · trivial
    · exact ((h.modEntry.modEntry.flushParts.ite h.modEntry.modEntry).retireEntry.ite h.modEntry.modEntry).bump

theorem Canon.elemAction {c : VCtx} {e : Nat} (h : Canon all s) : CanonVRes all (Machine.elemAction c e s) := by
  unfold Machine.elemAction
  split
  · rename_i he1
    exact h.arithElem.of_eq he1
  · split
    · rename_i he2
      exact h.memElem.of_eq he2
    · exact h.atomicElem.getD h

theorem Canon.ffElem {c : VCtx} {k : Nat} {d : BitVec 5} {base : Addr} {e0 e : Nat} (h : Canon all s) :
    CanonVRes all (Machine.ffElem c k d base e0 e s) := by
  unfold Machine.ffElem
  split
  · trivial
  · split
    · exact h
    · split
      · exact h.loadField
      · split
        · rename_i hr
          exact h.ffLater hr
        · exact h.modEntry

theorem Canon.ffGroup {k : Nat} {c : VCtx} {d : BitVec 5} {base : Addr} {stop : Nat} {es : List Nat} (h : Canon all s) :
    CanonOpt all (Machine.ffGroup i k c d base stop es s) := by
  unfold Machine.ffGroup
  exact Canon.afterGroup (h.runElems (fun _ _ hs => hs.ffElem))

theorem Canon.zsbGroup {k : Nat} {c : VCtx} (h : Canon all s) : CanonOpt all (Machine.zsbGroup i k c s) := by
  unfold Machine.zsbGroup
  dsimp only
  split
  · split
    · split
      · split
        · exact h.afterGroup
        · trivial
      · rename_i he1
        exact ((h.vldzBelow.of_eq he1).setX).retireEntry
    · split
      · split
        · exact h.afterGroup
        · trivial
      · rename_i he2
        split
        · exact ((h.vldzGranule.of_eq he2).modEntry.bump.setX).retireEntry
        · exact ((h.vldzGranule.of_eq he2).modEntry).afterGroup
  · split
    · exact h.setX.retireEntry
    · split
      · split
        · exact h.afterGroup
        · trivial
      · rename_i he3
        split
        · exact ((h.vstzGranule.of_eq he3).bump.setX).retireEntry
        · exact (h.vstzGranule.of_eq he3).afterGroup
  · trivial

theorem Canon.plainGroup {k : Nat} {c : VCtx} (h : Canon all s) : CanonOpt all (Machine.plainGroup i k c s) := by
  unfold Machine.plainGroup
  dsimp only
  split
  · trivial
  · split
    · exact h.ffGroup
    · split
      · exact Canon.afterGroup (h.runElems (fun _ _ hs => hs.elemAction))
      · split
        · trivial
        · refine Canon.afterGroup ?_
          split
          · exact Canon.fcClear (h.runElems (fun _ _ hs => hs.elemAction))
          · exact h.runElems (fun _ _ hs => hs.elemAction)
    · exact Canon.afterGroup (h.runElems (fun _ _ hs => hs.elemAction))

theorem Canon.groupRun {k : Nat} {c : VCtx} (h : Canon all s) : CanonOpt all (Machine.groupRun i k c s) := by
  unfold Machine.groupRun
  split
  · split
    · exact h.zsbGroup
    · trivial
  · split
    · rename_i he1
      split
      · exact (h.oneGroup.of_eq he1).afterGroup
      · trivial
    · rename_i he2 _
      split
      · exact (h.xlnRun.of_eq he2).afterGroup
      · trivial
    · split
      · exact h.afterGroup
      · exact h.plainGroup

theorem Canon.startEntry {k : Nat} {e : VEntry} {p : Nat} (h : Canon all s) : CanonOpt all (Machine.startEntry i k e p s) := by
  unfold Machine.startEntry
  split
  · trivial
  · rename_i he
    split
    · exact h.startElements.of_eq he
    · split
      · split
        · exact (h.startElements.of_eq he).groupRun
        · exact h.startElements.of_eq he
      · exact h.startElements.of_eq he

theorem Canon.execVectorInstructionStart {k : Nat} (h : Canon all st) : CanonOut all (Machine.execVectorInstructionStart i k st) := by
  unfold Machine.execVectorInstructionStart
  refine h.event ?_
  dsimp only
  split
  · split
    · trivial
    · split
      · exact h.startControl
      · exact h.startEntry
  · trivial

theorem Canon.execElementGroup {k : Nat} (h : Canon all st) : CanonOut all (Machine.execElementGroup i k st) := by
  unfold Machine.execElementGroup
  refine h.event ?_
  split
  · exact h.groupRun
  · trivial

theorem Canon.execVldFeGroupProceed {k : Nat} (h : Canon all st) : CanonOut all (Machine.execVldFeGroupProceed i k st) := by
  unfold Machine.execVldFeGroupProceed
  refine h.event ?_
  split
  · split
    · exact h.groupRun
    · trivial
  · trivial

/-! ### Engines, streams and matrix instructions -/

theorem Canon.engPlace {g : Eng} {ea : Addr} {acc : Access} {n : Nat} (h : Canon all s) : CanonOkSnd all (Machine.engPlace g ea acc n s) := by
  unfold Machine.engPlace
  split
  · trivial
  · rename_i he
    split
    · trivial
    · dsimp only
      split
      · trivial
      · trivial
      · split
        · trivial
        · exact ((h.translate.of_eq he).cutRanges).ite (h.translate.of_eq he)

theorem Canon.engRead {g : Eng} {ea : Addr} {n : Nat} (h : Canon all s) : CanonOkSnd all (Machine.engRead g ea n s) := by
  unfold Machine.engRead
  split
  · trivial
  · rename_i he
    split
    · trivial
    · exact h.engPlace.of_eq he

theorem Canon.engWrite {g : Eng} {ea : Addr} {bs : List Byte} (h : Canon all s) : CanonOkSnd all (Machine.engWrite g ea bs s) := by
  unfold Machine.engWrite
  split
  · trivial
  · rename_i he
    exact (h.engPlace.of_eq he).writePhys

theorem Canon.recordPlace {t : Strand} {ea : Addr} {write : Bool} (h : Canon all s) : CanonOkSnd all (Machine.recordPlace i t ea write s) := by
  unfold Machine.recordPlace
  split
  · trivial
  · rename_i he
    split
    · trivial
    · split
      · exact (h.locate.of_eq he).locate
      · exact h.locate.of_eq he

theorem Canon.recordTake {t : Strand} {ea : Addr} {p : Phys} {n : Nat} {write : Bool} (h : Canon all s) :
    CanonOk all (Machine.recordTake i t ea p n write s) := by
  unfold Machine.recordTake
  split
  · trivial
  · trivial
  · split
    · split
      · trivial
      · exact h.cutRanges.ite h
    · split
      · trivial
      · exact h.cutRanges.ite h

theorem Canon.recordAt {t : Strand} {ea : Addr} {n : Nat} {write : Bool} (h : Canon all s) : CanonOkSnd all (Machine.recordAt i t ea n write s) := by
  unfold Machine.recordAt
  split
  · trivial
  · rename_i he
    exact (h.recordPlace.of_eq he).recordTake.mapSnd

theorem Canon.engineFault {src : BitVec 3} {pc : Addr} {f : Flt} {extra : Nat} (h : Canon all s) :
    Canon all (Machine.engineFault src i pc f extra s) := by
  unfold Machine.engineFault
  exact h.countFault.addAsync

theorem Canon.freeState {a b : State → State} (h : Canon all s) (ha : ∀ s, Canon all s → Canon all (a s)) (hb : ∀ s, Canon all s → Canon all (b s)) :
    Canon all (Machine.freeState a b s) := by
  unfold Machine.freeState
  exact (ha _ h.fresh).ite (hb _ h.fresh)

theorem Canon.readCell {g : Eng} {w : Nat} {c : Cell} (h : Canon all s) : CanonOkSnd all (Machine.readCell g w c s) := by
  unfold Machine.readCell
  split
  · trivial
  · rename_i he
    exact h.engRead.of_eq he

theorem Canon.writeCell {g : Eng} {w : Nat} {c : Cell} {v : Nat} (h : Canon all s) : CanonOkSnd all (Machine.writeCell g w c v s) := by
  unfold Machine.writeCell
  dsimp only
  split
  · trivial
  · rename_i he
    exact ((h.engPlace.of_eq he).writeNib).ite ((h.engPlace.of_eq he).writePhys)

theorem Canon.readRows {g : Eng} {l : List Nat} {x : Stream} (h : Canon all s) : CanonOptSnd all (Machine.readRows g l x s) := by
  induction l generalizing x s with
  | nil => exact h
  | cons r rs ih =>
    unfold Machine.readRows
    split
    · split
      · trivial
      · exact ih h
      · rename_i he
        exact ih (h.engRead.of_eq he)
    · exact ih h

theorem Canon.moveElem {g : Eng} {x : Stream} {q : Nat} {a b : SectorRun} (h : Canon all a.st) (e : Machine.moveElem g x q a = .ok b) :
    Canon all b.st := by
  unfold Machine.moveElem at e
  split at e
  · cases e
  · rename_i he
    have hs := h.readCell.of_eq he
    split at e
    · cases e; exact hs
    · dsimp only at e
      split at e
      · cases e; exact hs.setElem
      · cases e; exact hs
    · cases e; exact hs
    · dsimp only at e
      split at e
      · cases e
      · rename_i hw
        cases e; exact hs.writeCell.of_eq hw

theorem Canon.moveElems {g : Eng} {x : Stream} {l : List Nat} {a : SectorRun} (h : Canon all a.st) : Canon all (Machine.moveElems g x l a).1.st := by
  induction l generalizing a with
  | nil => exact h
  | cons q qs ih =>
    unfold Machine.moveElems
    split
    · rename_i he
      exact ih (h.moveElem he)
    · exact h

theorem Canon.sideLines {g : Eng} {acc : Access} {n : Nat} {l : List Cell} (h : Canon all s) : CanonOkSnd all (Machine.sideLines g acc n l s) := by
  induction l generalizing s with
  | nil => exact h
  | cons c cs ih =>
    unfold Machine.sideLines
    split
    · exact ih h
    · split
      · trivial
      · rename_i ht
        have hs := h.translate.of_eq ht
        split
        · exact ih hs
        · split
          · trivial
          · split
            · trivial
            · split
              · trivial
              · rename_i hl
                exact (ih hs).of_eq hl

theorem Canon.reserveLines {write : Bool} {ls : List Nat} (h : Canon all s) : Canon all (Machine.reserveLines write ls s) := by
  unfold Machine.reserveLines
  exact h.foldl (fun _ _ hs => hs.writeBack.dropCopies.loseLinks.ite hs.writeBack)

theorem Canon.reserveSide {u : TileId} {k : Nat} {mode : BitVec 2} {write : Bool} {ps : List (Nat × Nat)} (h : Canon all s) :
    Canon all (Machine.reserveSide u k mode write ps s) := by
  unfold Machine.reserveSide
  exact h.ite h.mk.reserveLines

theorem Canon.registerSides {g : Eng} {u : TileId} {k : Nat} {mode : BitVec 2} {l : List (Access × Nat × List Cell)} (h : Canon all s) :
    CanonOk all (Machine.registerSides g u k mode l s) := by
  induction l generalizing s with
  | nil => exact h
  | cons a r ih =>
    unfold Machine.registerSides
    split
    · trivial
    · rename_i he
      exact ih (h.sideLines.of_eq he).reserveSide

theorem Canon.releaseRanges {u : TileId} {k : Nat} (h : Canon all s) : Canon all (Machine.releaseRanges u k s) := by
  unfold Machine.releaseRanges
  exact h.mk

theorem Canon.registerStream {u : TileId} {k : Nat} {x : Stream} (h : Canon all s) : CanonOk all (Machine.registerStream u k x s) := by
  unfold Machine.registerStream
  split
  · exact h
  · exact h.registerSides

theorem Canon.passLines {u : TileId} {k : Nat} {x : Stream} (h : Canon all s) : Canon all (Machine.passLines u k x s) := by
  unfold Machine.passLines
  exact h.mk

theorem Canon.setStream {u : TileId} {k : Nat} {x : Stream} (h : Canon all s) : Canon all (Machine.setStream u k x s) := by
  unfold Machine.setStream
  exact h.modTile (fun _ hv => hv)

theorem Canon.endMoving {x : Stream} (h : Canon all s) : Canon all (Machine.endMoving i x s) := by
  unfold Machine.endMoving
  exact h.traceEvent.ite h

theorem Canon.finishStream {u : TileId} {k : Nat} {x : Stream} (h : Canon all s) : Canon all (Machine.finishStream u k x s) := by
  unfold Machine.finishStream
  dsimp only
  refine Canon.traceEvent (Canon.endMoving ?_)
  split
  · exact Canon.modStrand (h.modStrand.releaseRanges.modTile (fun _ hv => hv))
  · exact Canon.setTag (h.modStrand.releaseRanges.modTile (fun _ hv => hv))

theorem Canon.feedTokens {u : TileId} {ch : BitVec 6} {ts : List Token} (h : Canon all s) : Canon all (Machine.feedTokens u ch ts s) := by
  unfold Machine.feedTokens
  exact h.modTile (by intro _ hv; (repeat' split) <;> exact hv)

theorem Canon.settleSector {u : TileId} {k : Nat} {x : Stream} {j : Nat} {a : SectorRun} (h : Canon all a.st) :
    Canon all (Machine.settleSector u k x j a) := by
  unfold Machine.settleSector
  dsimp only
  split
  · exact Canon.ite (Canon.finishStream (Canon.passLines (Canon.setStream
      (Canon.installLines (Canon.feedTokens (Canon.bump (Canon.ite (h.foldl (fun _ _ hs => hs.markFull))
      (Canon.foldl (h.foldl (fun _ _ hs => hs.markFull)) (fun _ _ hs => hs.arrive)))))))))
      (Canon.passLines (Canon.setStream (Canon.installLines (Canon.feedTokens
      (Canon.bump (Canon.ite (h.foldl (fun _ _ hs => hs.markFull)) (Canon.foldl (h.foldl (fun _ _ hs => hs.markFull)) (fun _ _ hs => hs.arrive))))))))
  · exact Canon.ite (Canon.finishStream (Canon.passLines (Canon.setStream
      (Canon.installLines (Canon.bump (Canon.ite (h.foldl (fun _ _ hs => hs.markFull))
      (Canon.foldl (h.foldl (fun _ _ hs => hs.markFull)) (fun _ _ hs => hs.arrive))))))))
      (Canon.passLines (Canon.setStream (Canon.installLines (Canon.bump
      (Canon.ite (h.foldl (fun _ _ hs => hs.markFull)) (Canon.foldl (h.foldl (fun _ _ hs => hs.markFull)) (fun _ _ hs => hs.arrive)))))))

theorem Canon.workSector {u : TileId} {k j : Nat} {x y : Stream} {a : SectorRun} {f : Option (Option Flt)} (h : Canon all s)
    (e : Machine.workSector u k x j s = some (y, a, f)) : Canon all a.st := by
  unfold Machine.workSector at e
  dsimp only at e
  split at e
  · cases e; exact h
  · rename_i hr
    have hs := h.registerStream.of_eq hr
    split at e
    · cases e
    · split at e
      · cases e
      · rename_i hrows
        have ht := hs.readRows.of_eq hrows
        split at e
        · cases e; exact ht
        · split at e
          · cases e
          · cases e
            exact Canon.moveElems (ht.ite ht.traceEvent)

theorem Canon.execSectorComplete {u : TileId} {k j : Nat} (h : Canon all st) : CanonOut all (Machine.execSectorComplete u k j st) := by
  unfold Machine.execSectorComplete
  refine h.event ?_
  dsimp only
  split
  · split
    · exact h.finishStream
    · split
      · trivial
      · split
        · rename_i he
          exact (h.workSector he).settleSector
        · trivial
  · trivial

theorem Canon.stopStream {u : TileId} {k : Nat} {x : Stream} {f : Flt} (h : Canon all s) : Canon all (Machine.stopStream u k x f s) := by
  unfold Machine.stopStream
  exact h.endMoving.modStrand.engineFault.setStream

theorem Canon.execStreamFault {u : TileId} {k : Nat} (h : Canon all st) : CanonOut all (Machine.execStreamFault u k st) := by
  unfold Machine.execStreamFault
  refine h.event ?_
  dsimp only
  split
  · split
    · trivial
    · split
      · rename_i he
        exact h.freeState (fun _ hs => ((h.workSector he).mk).stopStream) (fun _ hs => hs.stopStream)
      · trivial
  · trivial

theorem Canon.onTile {xs : List (BitVec 5)} {body : TileId → StrandId → Strand → State → Except Stop State} {t : Strand} (h : Canon all s)
    (hb : ∀ u i t s, Canon all s → CanonOk all (body u i t s)) : CanonOk all (Machine.onTile xs body i t s) := by
  unfold Machine.onTile
  split
  · trivial
  · split
    · trivial
    · exact hb _ _ _ _ h

theorem Canon.issueStream {len : Nat} {xs : List (BitVec 5)} {body : TileId → StrandId → Strand → State → Except Stop State} (h : Canon all st)
    (hb : ∀ u i t s, Canon all s → CanonOk all (body u i t s)) : CanonOut all (Machine.issueStream len xs body st) :=
  h.issueEngine fun _ _ _ hs => hs.onTile hb

theorem Canon.traceBoth {t : Strand} (h : Canon all s) : Canon all (Machine.traceBoth i t s) := by
  unfold Machine.traceBoth
  exact h.traceEvent.traceEvent

theorem Canon.issueData {len : Nat} {xs : List (BitVec 5)} {body : TileId → Nat → StrandId → Strand → State → Except Stop State} (h : Canon all st)
    (hb : ∀ u k i t s, Canon all s → CanonOk all (body u k i t s)) : CanonOut all (Machine.issueData len xs body st) :=
  h.issueStream fun u i t s hs => by
    split
    · trivial
    · split
      · trivial
      · split
        · exact hs.traceBoth
        · exact hb _ _ _ _ _ hs

theorem Canon.startStream {u : TileId} {k : Nat} {x : Stream} (h : Canon all s) : Canon all (Machine.startStream u k i x s) := by
  unfold Machine.startStream
  dsimp only
  split
  · refine Canon.setStream ?_
    split
    · exact h.traceEvent
    · exact h.traceEvent.setTag
  · split
    · rename_i he
      refine Canon.setStream ((Canon.registerStream ?_).of_eq he)
      split
      · exact h.traceEvent
      · exact h.traceEvent.setTag
    · refine Canon.stopStream ?_
      split
      · exact h.traceEvent
      · exact h.traceEvent.setTag
    · refine Canon.setStream ?_
      split
      · exact h.traceEvent
      · exact h.traceEvent.setTag

theorem Canon.readShape {t : Strand} {ea : Addr} {s u : State} {x : Shape} {b : Bool} (h : Canon all s)
    (e : Machine.readShape i t ea s = .ok (x, b, u)) : Canon all u := by
  unfold Machine.readShape at e
  split at e
  · cases e
  · rename_i hr
    split at e
    · cases e
    · cases e; exact h.recordAt.of_eq hr

theorem Canon.oneRecord {write : Bool} {s : BitVec 4} {tmem : Option Addr} {x : BitVec 5} {kind : StreamKind} {ch : BitVec 6} {rm : BitVec 2}
    (h : Canon all st) : CanonOut all (Machine.oneRecord write s tmem x kind ch rm st) := by
  unfold Machine.oneRecord
  refine h.issueData fun _ _ _ _ _ hs => ?_
  dsimp only
  split
  · trivial
  · split
    · trivial
    · split
      · split
        · trivial
        · split
          · trivial
          · rename_i he1
            split
            · trivial
            · split
              · trivial
              · exact (hs.readShape he1).startStream
      · split
        · trivial
        · split
          · trivial
          · rename_i he2
            split
            · trivial
            · exact (hs.readShape he2).startStream

theorem Canon.execStrmCp {d s : BitVec 4} {t : BitVec 5} {ch : BitVec 6} {rm : BitVec 2} {tr : BitVec 1} {rnd : BitVec 3} {sat : BitVec 1}
    (h : Canon all st) : CanonOut all (Machine.execStrmCp d s t ch rm tr rnd sat st) := by
  unfold Machine.execStrmCp
  refine h.issueData fun _ _ _ _ _ hs => ?_
  dsimp only
  split
  · trivial
  · split
    · trivial
    · split
      · trivial
      · split
        · trivial
        · rename_i he1
          split
          · trivial
          · rename_i he2
            split
            · trivial
            · split
              · trivial
              · split
                · trivial
                · split
                  · trivial
                  · split
                    · trivial
                    · exact ((hs.readShape he1).readShape he2).startStream

theorem Canon.execStrmGx {d s t : BitVec 4} {ch : BitVec 6} (h : Canon all st) : CanonOut all (Machine.execStrmGx d s t ch st) := by
  unfold Machine.execStrmGx
  refine h.issueData fun _ _ _ _ _ hs => ?_
  dsimp only
  split
  · trivial
  · split
    · trivial
    · split
      · trivial
      · split
        · trivial
        · split
          · trivial
          · rename_i he
            split
            · trivial
            · split
              · trivial
              · split
                · trivial
                · exact (hs.readShape he).startStream

theorem Canon.execStrmPost {s : BitVec 5} {ch : BitVec 6} {clr : BitVec 1} (h : Canon all st) : CanonOut all (Machine.execStrmPost s ch clr st) := by
  unfold Machine.execStrmPost
  refine h.issueStream fun _ _ _ _ hs => ?_
  dsimp only
  split
  · trivial
  · split
    · split
      · exact hs.setTag.takeTrap
      · split
        · exact hs.setTag
        · exact hs.setTag
    · split
      · exact hs.setTag.takeTrap
      · split
        · exact hs.setTag
        · exact hs.setTag

theorem Canon.execStrmWait {d : BitVec 5} {ch : BitVec 6} {wm : BitVec 1} (h : Canon all st) : CanonOut all (Machine.execStrmWait d ch wm st) := by
  unfold Machine.execStrmWait
  refine h.issueStream fun _ _ _ _ hs => ?_
  dsimp only
  split
  · trivial
  · split
    · exact hs.setX
    · exact hs.block

theorem Canon.execStrmWaitWake (h : Canon all st) : CanonOut all (Machine.execStrmWaitWake i st) := by
  unfold Machine.execStrmWaitWake
  refine h.event ?_
  split
  · dsimp only
    split
    · exact h.unblock.setX
    · trivial
  · trivial

theorem Canon.execStrmMark {ch : BitVec 6} {rank : BitVec 3} {last : BitVec 1} (h : Canon all st) :
    CanonOut all (Machine.execStrmMark ch rank last st) := by
  unfold Machine.execStrmMark
  refine h.issueStream fun _ _ _ _ hs => ?_
  dsimp only
  split
  · exact hs.setStream
  · split
    · exact hs.setTile (fun ha => hs.tileOk ha _)
    · exact hs.feedTokens

theorem Canon.execTqdecl {d s : BitVec 5} (h : Canon all st) : CanonOut all (Machine.execTqdecl d s st) := by
  unfold Machine.execTqdecl
  refine h.issueStream fun _ _ _ _ hs => ?_
  dsimp only
  split
  · split
    · trivial
    · exact hs.modStrand
  · split
    · trivial
    · exact hs.modStrand

theorem Canon.execTqld {d : BitVec 5} {s : BitVec 4} {t : BitVec 5} (h : Canon all st) : CanonOut all (Machine.execTqld d s t st) := by
  unfold Machine.execTqld
  refine h.issueData fun _ _ _ _ _ hs => ?_
  split
  · trivial
  · dsimp only
    split
    · trivial
    · split
      · trivial
      · rename_i he
        split
        · trivial
        · split
          · trivial
          · split
            · exact ((hs.readShape he).setX).traceBoth
            · exact ((hs.readShape he).modStrand.setX).startStream

theorem Canon.popBuffer {d : BitVec 5} {q : Tundish} {b : Nat} {f : Buffer} (h : Canon all s) : Canon all (Machine.popBuffer i d q b f s) := by
  unfold Machine.popBuffer
  exact h.modStrand.setX

theorem Canon.execTqpop {d : BitVec 5} (h : Canon all st) : CanonOut all (Machine.execTqpop d st) := by
  unfold Machine.execTqpop
  refine h.issueStream fun _ _ _ _ hs => ?_
  split
  · trivial
  · dsimp only
    split
    · exact hs.modStrand.setX
    · split
      · exact hs.modStrand.popBuffer
      · exact hs.modStrand.block

theorem Canon.execTqpopWake (h : Canon all st) : CanonOut all (Machine.execTqpopWake i st) := by
  unfold Machine.execTqpopWake
  refine h.event ?_
  dsimp only
  split
  · split
    · split
      · exact h.unblock.popBuffer
      · trivial
    · trivial
  · trivial

theorem Canon.execBufferDrained {k : Nat} (h : Canon all st) : CanonOut all (Machine.execBufferDrained i k st) := by
  unfold Machine.execBufferDrained
  refine h.event ?_
  dsimp only
  split
  · trivial
  · split
    · trivial
    · split
      · trivial
      · exact h.modStrand

theorem Canon.noteBoth {t : Strand} (h : Canon all s) : Canon all (Machine.noteBoth i t s) := by
  unfold Machine.noteBoth
  exact h.traceEvent.traceEvent

theorem Canon.noteWoken (h : Canon all s) : Canon all (Machine.noteWoken i s) := by
  unfold Machine.noteWoken
  exact h.traceEvent

theorem Canon.askLeave {u : TileId} (h : Canon all s) : Canon all (Machine.askLeave u s) := by
  unfold Machine.askLeave
  exact h.ite h.requestLeave

theorem Canon.execMmode {s : BitVec 5} (h : Canon all st) : CanonOut all (Machine.execMmode s st) := by
  unfold Machine.execMmode
  refine h.issueStream fun _ _ _ _ hs => ?_
  dsimp only
  split
  · trivial
  · split
    · trivial
    · split
      · exact hs.noteBoth
      · split
        · trivial
        · exact Canon.ite (Canon.askLeave (Canon.block (Canon.traceEvent (hs.setTile (fun ha => hs.tileOk ha _)))))
            (Canon.block (Canon.traceEvent (hs.setTile (fun ha => hs.tileOk ha _))))

theorem Canon.finishMode {u : TileId} {slot : BitVec 3} (h : Canon all s) : Canon all (Machine.finishMode u slot s) := by
  unfold Machine.finishMode
  exact Canon.unblock (Canon.noteWoken (h.modTile (fun _ hv => hv)))

theorem Canon.trapMode {u : TileId} {slot : BitVec 3} (h : Canon all s) : Canon all (Machine.trapMode u slot s) := by
  unfold Machine.trapMode
  exact h.takeTrap.lone

theorem Canon.execMatrixExit {u : TileId} (h : Canon all st) : CanonOut all (Machine.execMatrixExit u st) := by
  unfold Machine.execMatrixExit
  refine h.event ?_
  dsimp only
  split
  · split
    · trivial
    · exact Canon.ite (Canon.finishMode (h.setTile (fun ha => h.tileOk ha _)))
        (Canon.ite (Canon.trapMode (h.setTile (fun ha => h.tileOk ha _))) (Canon.requestLeave (h.setTile (fun ha => h.tileOk ha _))))
  · trivial

theorem Canon.execMatrixEntry {u : TileId} (h : Canon all st) : CanonOut all (Machine.execMatrixEntry u st) := by
  unfold Machine.execMatrixEntry
  refine h.event ?_
  dsimp only
  split
  · split
    · trivial
    · exact Canon.finishMode (h.setTile (fun ha => h.tileOk ha _))
  · trivial

theorem Canon.checkPlaces {t : Strand} {acc : Access} {l : List Addr} (h : Canon all s) : CanonOk all (Machine.checkPlaces i t acc l s) := by
  induction l generalizing s with
  | nil => exact h
  | cons a as ih =>
    unfold Machine.checkPlaces
    split
    · trivial
    · rename_i he
      split
      · trivial
      · exact ih (h.locate.of_eq he)

theorem Canon.execQclaim {d : BitVec 5} {s : BitVec 4} {t : BitVec 5} (h : Canon all st) : CanonOut all (Machine.execQclaim d s t st) := by
  unfold Machine.execQclaim
  refine h.issueStream fun u i r st hs => ?_
  split
  · trivial
  · dsimp only
    split
    · trivial
    · split
      · trivial
      · split
        · trivial
        · rename_i v he
          have hp : Canon all v := by
            split at he
            · cases he; exact hs
            · exact hs.checkPlaces.of_eq he
          split
          · exact hp.setX.noteBoth
          · refine Canon.traceEvent (Canon.traceEvent (Canon.setX (hp.setTile ?_)))
            exact fun ha => hp.tileOk ha u

theorem Canon.putOm {u : TileId} {a : Nat} {bs : List Byte} (h : Canon all s) : Canon all (Machine.putOm u a bs s) :=
  (h.modTile (f := fun v => { v with om := v.om.write a bs }) fun _ hv => ⟨hv.1, Mem.wf_write hv.2 _ _⟩).mk

theorem Canon.fillLines {g : Eng} {src : Addr} {om n k : Nat} (h : Canon all s) : CanonOkSnd all (Machine.fillLines g src om n k s) := by
  induction n generalizing k s with
  | zero => exact h
  | succ n ih =>
    unfold Machine.fillLines
    dsimp only
    split
    · trivial
    · rename_i he
      have hs := h.engPlace.of_eq he
      split
      · exact (ih hs.putOm).mapFst fun _ => rfl
      · exact ih hs.putOm

theorem Canon.finishFill {u : TileId} {k : Nat} {f : OmFill} {bad : List Addr} (h : Canon all s) : Canon all (Machine.finishFill u k f bad s) := by
  unfold Machine.finishFill
  exact Canon.traceEvent (Canon.traceEvent (Canon.foldl (h.modTile (fun _ hv => hv)) (fun _ _ hs => hs.engineFault)))

theorem Canon.execQclaimFillDone {u : TileId} {k : Nat} (h : Canon all st) : CanonOut all (Machine.execQclaimFillDone u k st) := by
  unfold Machine.execQclaimFillDone
  refine h.event ?_
  dsimp only
  split
  · trivial
  · split
    · trivial
    · split
      · exact h.putOm.finishFill
      · split
        · trivial
        · split
          · trivial
          · exact h.engineFault.modTile (fun _ hv => hv)
          · rename_i he
            exact (h.fillLines.of_eq he).finishFill

theorem Canon.enterQueue {u : TileId} {t : Strand} {op : MatOp} (h : Canon all s) : Canon all (Machine.enterQueue u i t op s) := by
  unfold Machine.enterQueue
  exact Canon.traceEvent (h.modTile (fun _ hv => hv))

theorem Canon.execQrel {s : BitVec 5} (h : Canon all st) : CanonOut all (Machine.execQrel s st) := by
  unfold Machine.execQrel
  refine h.issueStream fun _ _ _ _ hs => ?_
  dsimp only
  split
  · trivial
  · split
    · trivial
    · split
      · trivial
      · exact hs.enterQueue

theorem Canon.execQrelEffect {u : TileId} (h : Canon all st) : CanonOut all (Machine.execQrelEffect u st) := by
  unfold Machine.execQrelEffect
  refine h.event ?_
  dsimp only
  split
  · split
    · split
      · trivial
      · exact Canon.traceEvent (h.setTile (fun ha => h.tileOk ha _))
    · trivial
  · trivial

theorem Canon.execBsset {d s t : BitVec 5} (h : Canon all st) : CanonOut all (Machine.execBsset d s t st) := by
  unfold Machine.execBsset
  refine h.issueStream fun _ _ _ _ hs => ?_
  dsimp only
  split
  · trivial
  · exact hs.modStrand.setX.noteBoth

theorem Canon.execQacc {d : BitVec 4} {s : BitVec 5} (h : Canon all st) : CanonOut all (Machine.execQacc d s st) := by
  unfold Machine.execQacc
  refine h.issueStream fun _ _ _ _ hs => ?_
  dsimp only
  split
  · trivial
  · split
    · trivial
    · split
      · trivial
      · split
        · trivial
        · exact Canon.noteBoth (hs.setTile (fun ha => hs.tileOk ha _))

theorem Canon.enterOp {u : TileId} {t : Strand} {code : Option Nat} {runs : List (Nat × Nat)} {op : MatOp} (h : Canon all s) :
    CanonOk all (Machine.enterOp u i t code runs op s) := by
  unfold Machine.enterOp
  dsimp only
  split
  · trivial
  · split
    · trivial
    · split
      · trivial
      · split
        · trivial
        · exact h.enterQueue

theorem Canon.execQstage {d s : BitVec 4} {t : BitVec 5} {afmt wfmt ofmt : BitVec 4} {rnd : BitVec 3} {sat : BitVec 1} {wslot : BitVec 6}
    (h : Canon all st) : CanonOut all (Machine.execQstage d s t afmt wfmt ofmt rnd sat wslot st) := by
  unfold Machine.execQstage
  exact h.issueStream (fun _ _ _ _ hs => hs.enterOp)

theorem Canon.execQchain {d s : BitVec 4} {t : BitVec 5} {afmt ofmt : BitVec 4} {ifmt : BitVec 1} {rnd : BitVec 3} {sat : BitVec 1} (h : Canon all st)
    : CanonOut all (Machine.execQchain d s t afmt ofmt ifmt rnd sat st) := by
  unfold Machine.execQchain
  exact h.issueStream (fun _ _ _ _ hs => hs.enterOp)

theorem Canon.execMgemm {t : BitVec 5} {afmt wfmt : BitVec 4} {smode : BitVec 2} {wslot sslot : BitVec 6} (h : Canon all st) :
    CanonOut all (Machine.execMgemm t afmt wfmt smode wslot sslot st) := by
  unfold Machine.execMgemm
  exact h.issueStream (fun _ _ _ _ hs => hs.enterOp)

theorem Canon.execQdrain {d : BitVec 5} {force : BitVec 1} (h : Canon all st) : CanonOut all (Machine.execQdrain d force st) := by
  unfold Machine.execQdrain
  refine h.issueStream fun _ _ _ _ hs => ?_
  dsimp only
  split
  · trivial
  · split
    · trivial
    · exact hs.enterQueue.block

theorem Canon.execMatrixStart {u : TileId} (h : Canon all st) : CanonOut all (Machine.execMatrixStart u st) := by
  unfold Machine.execMatrixStart
  refine h.event ?_
  dsimp only
  split
  · split
    · trivial
    · split
      · split
        · trivial
        · exact h.requestLeave
      · exact Canon.traceEvent (h.setTile (fun ha => h.tileOk ha _))
  · trivial

theorem Canon.chainRow {u : TileId} {e : MatEntry} {src dst chain logn : Nat} {stages : List StageParam} {afmt ofmt : BitVec 4} {ifp32 : Bool}
    {rnd : Nat} {sat : Bool} (h : Canon all s) : CanonRow all (Machine.chainRow u e src dst chain logn stages afmt ofmt ifp32 rnd sat s) := by
  unfold Machine.chainRow
  dsimp only
  split
  · trivial
  · split
    · split
      · trivial
      · split
        · trivial
        · split
          · trivial
          · split
            · trivial
            · exact h.writeTmem.setFull.ite h.writeTmem
    · split
      · split
        · trivial
        · split
          · trivial
          · split
            · trivial
            · split
              · trivial
              · exact h.writeTmem.setFull.ite h.writeTmem
      · split
        · trivial
        · split
          · trivial
          · split
            · trivial
            · split
              · trivial
              · exact h.writeTmem.setFull.ite h.writeTmem

theorem tileOk_settle {v : Tile} {count node row val : Nat} (h : TileOk v) : TileOk (Machine.settle v count node row val) := by
  unfold Machine.settle
  dsimp only
  split <;> exact h

theorem tileOk_foldl {α : Type} {f : Tile → α → Tile} {l : List α} {v : Tile} (h : TileOk v) (hf : ∀ w a, TileOk w → TileOk (f w a)) :
    TileOk (l.foldl f v) := by
  induction l generalizing v with
  | nil => exact h
  | cons a r ih => exact ih (hf v a h)

theorem Canon.gemmRow {u : TileId} {e : MatEntry} {afmt wfmt : BitVec 4} {smode m kp aslot wslot sslot row0 : Nat} (h : Canon all s) :
    CanonRow all (Machine.gemmRow u e afmt wfmt smode m kp aslot wslot sslot row0 s) := by
  unfold Machine.gemmRow
  dsimp only
  split
  · trivial
  · split
    · trivial
    · split
      · trivial
      · split
        · trivial
        · exact h.setTile fun ha => tileOk_foldl (h.tileOk ha u) fun _ _ hw => tileOk_settle hw

theorem Canon.stopArray {u : TileId} {e : MatEntry} {f : Flt} (h : Canon all s) : Canon all (Machine.stopArray u e f s) := by
  unfold Machine.stopArray
  exact Canon.engineFault (h.modTile (fun _ hv => hv))

theorem Canon.execRowFire {u : TileId} (h : Canon all st) : CanonOut all (Machine.execRowFire u st) := by
  unfold Machine.execRowFire
  refine h.event ?_
  dsimp only
  split
  · split
    · trivial
    · split
      · dsimp only
        split
        · trivial
        · split
          · trivial
          · exact h.stopArray
          · rename_i he1
            exact (h.chainRow.of_eq he1).modTile (fun _ hv => hv)
      · dsimp only
        split
        · trivial
        · split
          · trivial
          · exact h.stopArray
          · rename_i he2
            exact (h.gemmRow.of_eq he2).modTile (fun _ hv => hv)
      · dsimp only
        split
        · trivial
        · trivial
  · trivial

theorem Canon.writeNode {u : TileId} {q : QaccCfg} {region : BitVec 2} {node row : Nat} {val : BitVec 32} (h : Canon all s) :
    Canon all (Machine.writeNode u q region node row val s) := by
  unfold Machine.writeNode
  exact h.writeTmem

theorem Canon.execRowRelease {u : TileId} {node : Nat} (h : Canon all st) : CanonOut all (Machine.execRowRelease u node st) := by
  unfold Machine.execRowRelease
  refine h.event ?_
  dsimp only
  split
  · exact Canon.ite (Canon.writeNode (h.setTile (fun ha => h.tileOk ha _))) (Canon.setFull (Canon.writeNode (h.setTile (fun ha => h.tileOk ha _))))
  · trivial

theorem Canon.execMatrixComplete {u : TileId} (h : Canon all st) : CanonOut all (Machine.execMatrixComplete u st) := by
  unfold Machine.execMatrixComplete
  refine h.event ?_
  dsimp only
  split
  · split
    · split
      · trivial
      · exact Canon.traceEvent (Canon.traceEvent (h.setTile (fun ha => h.tileOk ha _)))
    · split
      · trivial
      · exact Canon.traceEvent (Canon.traceEvent (h.setTile (fun ha => h.tileOk ha _)))
    · split
      · trivial
      · exact Canon.traceEvent (Canon.traceEvent (h.setTile (fun ha => h.tileOk ha _)))
  · trivial

theorem Canon.forceRelease {u : TileId} (h : Canon all s) : Canon all (Machine.forceRelease u s) := by
  unfold Machine.forceRelease
  dsimp only
  split
  · exact h
  · exact Canon.foldl (Canon.foldl (h.setTile (fun ha => h.tileOk ha _)) (fun _ _ hs => hs.writeNode)) (fun _ _ hs => hs.setFull)

theorem Canon.execQdrainWake (h : Canon all st) : CanonOut all (Machine.execQdrainWake i st) := by
  unfold Machine.execQdrainWake
  refine h.event ?_
  split
  · dsimp only
    split
    · split
      · split
        · trivial
        · exact Canon.setX (Canon.unblock (Canon.ite (Canon.forceRelease (Canon.noteWoken (h.setTile (fun ha => h.tileOk ha _))))
            (Canon.noteWoken (h.setTile (fun ha => h.tileOk ha _)))))
      · trivial
    · trivial
  · trivial

/-! ### The fabric -/

theorem Canon.modFabric {t : TileId} {g : Fabric → Fabric} (h : Canon all s) : Canon all (Machine.modFabric t g s) := by
  unfold Machine.modFabric
  exact h.modTile (fun _ hv => hv)

theorem Canon.modElem {e : ElemId} {g : Elem → Elem} (h : Canon all s) : Canon all (Machine.modElem e g s) := by
  unfold Machine.modElem
  exact h.modFabric

theorem Canon.sendToken {e : ElemId} {port ctx : Nat} {tok : Token} (h : Canon all s) : Canon all (Machine.sendToken e port ctx tok s) := by
  unfold Machine.sendToken
  split
  · exact h
  · exact h.modFabric

theorem Canon.giveBack {t : TileId} {l : List Credit} (h : Canon all s) : Canon all (Machine.giveBack t l s) := by
  unfold Machine.giveBack
  exact h.ite h.modFabric

theorem Canon.dropToken {t : TileId} {column : Bool} {pos : Nat} {fl : Flight} (h : Canon all s) :
    Canon all (Machine.dropToken t column pos fl s) := by
  unfold Machine.dropToken
  exact h.bump.ite (Canon.ringWrite (h.bump.modQuad (fun _ => rfl)))

theorem Canon.elemFault {e : ElemId} {entry : Nat} {cause : BitVec 8} {addr : Addr} {seq wave : Nat} (h : Canon all s) :
    Canon all (Machine.elemFault e entry cause addr seq wave s) := by
  unfold Machine.elemFault
  dsimp only
  split
  · exact h.modElem.addAsync
  · exact h.modElem.modFabric.errorRecord

theorem Canon.confirmElem {e : ElemId} (h : Canon all s) : Canon all (Machine.confirmElem e s) := by
  unfold Machine.confirmElem
  dsimp only
  exact h.modElem.giveBack

theorem Canon.fireElemSquashFault {e : ElemId} {c : Choice} {x : Elem} (h : Canon all st) : CanonOut all (fireElem.squashFault e c x st) := by
  unfold fireElem.squashFault
  split
  · exact h.wait
  · exact h.bump.elemFault

theorem Canon.fireElem {op : BitVec 7} {cls : ElemClass} {sa sb da db tag : BitVec 4} {lit : BitVec 5} {rawA rawB : Bool}
    {illegal : Fire → Option (BitVec 8)} {body : Fire → Eff} (h : Canon all st) : CanonOut all
    (Machine.fireElem op cls sa sb da db tag lit rawA rawB illegal body st) := by
  unfold Machine.fireElem
  split
  · trivial
  · split
    · split
      · exact h.wait
      · dsimp only
        split
        · split
          · exact h.wait
          · exact h.elemFault
        · split
          · split
            · exact h.fireElemSquashFault
            · split
              · exact h.wait
              · exact h.elemFault
          · split
            · exact h.modElem.confirmElem
            · exact h.fireElemSquashFault
    · exact h.wait

theorem Canon.execElemCnt {da db tag : BitVec 4} {lit : BitVec 3} (h : Canon all st) : CanonOut all (Machine.execElemCnt da db tag lit st) := by
  unfold Machine.execElemCnt
  dsimp only
  split
  · exact h.fresh.fireElem
  · exact h.fireElem

theorem Canon.execNohandlerFreeze {e : ElemId} (h : Canon all st) : CanonOut all (Machine.execNohandlerFreeze e st) := by
  unfold Machine.execNohandlerFreeze
  refine h.event ?_
  split
  · trivial
  · split
    · trivial
    · dsimp only
      split
      · exact h.elemFault
      · trivial

theorem Canon.execFabricIllegal {e : ElemId} (h : Canon all st) : CanonOut all (Machine.execFabricIllegal e st) := by
  unfold Machine.execFabricIllegal
  refine h.event ?_
  split
  · split
    · exact h.elemFault
    · trivial
  · trivial

theorem Canon.execPredicateWriteResolve {e : ElemId} (h : Canon all st) : CanonOut all (Machine.execPredicateWriteResolve e st) := by
  unfold Machine.execPredicateWriteResolve
  refine h.event ?_
  dsimp only
  split
  · split
    · trivial
    · split
      · trivial
      · exact (h.modElem.ite h.modElem.bump).confirmElem
  · trivial

theorem Canon.pushToken {e : ElemId} {ctx : Nat} {d : Nat} {k : Token} (h : Canon all s) : Canon all (Machine.pushToken e ctx d k s) := by
  unfold Machine.pushToken
  exact h.sendToken.ite (h.modElem.ite h.modFabric)

theorem Canon.offer {t : TileId} {rank n : Nat} (h : Canon all s) : Canon all (Machine.offer t rank n s) := by
  unfold Machine.offer
  exact h.modFabric

theorem Canon.endPhase {e : ElemId} {ctx n : Nat} (h : Canon all s) : Canon all (Machine.endPhase e ctx n s) := by
  unfold Machine.endPhase
  exact h.offer.modElem.ite h.offer

theorem Canon.execElementResultWrite {e : ElemId} {k : Nat} (h : Canon all st) : CanonOut all (Machine.execElementResultWrite e k st) := by
  unfold Machine.execElementResultWrite
  refine h.event ?_
  dsimp only
  split
  · trivial
  · split
    · trivial
    · show Canon all _
      split
      · exact Canon.endPhase (Canon.ite (h.modElem.foldl (fun _ _ hs => hs.pushToken))
          (Canon.modFabric (h.modElem.foldl (fun _ _ hs => hs.pushToken))))
      · exact Canon.ite (h.modElem.foldl (fun _ _ hs => hs.pushToken)) (Canon.modFabric (h.modElem.foldl (fun _ _ hs => hs.pushToken)))

theorem Canon.dropRoute {fl : Flight} (h : Canon all s) : Canon all (Machine.dropRoute fl s) :=
  h.mapTiles fun p hp => by
    dsimp only
    split <;> exact hp

theorem Canon.catchRoute {e : ElemId} {n : Nat} {fl : Flight} (h : Canon all s) : Canon all (Machine.catchRoute e n fl s) := by
  unfold Machine.catchRoute
  exact h.dropRoute.modFabric

theorem Canon.catchInput {e : ElemId} {n : Nat} (h : Canon all s) : Canon all (Machine.catchInput e n s) := by
  unfold Machine.catchInput
  exact h.foldl (fun _ _ hs => hs.catchRoute)

theorem Canon.markInput {e : ElemId} {n : Nat} {fl : Flight} (h : Canon all s) : Canon all (Machine.markInput e n fl s) := by
  unfold Machine.markInput
  exact h.modElem.catchRoute

theorem Canon.offerMarker {e : ElemId} {n : Nat} {k : Token} {outside : Bool} (h : Canon all s) :
    Canon all (Machine.offerMarker e n k outside s) := by
  unfold Machine.offerMarker
  split
  · exact h.offer.ite h
  · exact h

theorem Canon.enterInput {e : ElemId} {n : Nat} {k : Token} {outside : Bool} {hop : Nat} (h : Canon all s) :
    CanonOpt all (Machine.enterInput e n k outside hop s) := by
  unfold Machine.enterInput
  dsimp only
  split
  · exact h.modFabric
  · split
    · trivial
    · exact h.modElem.offerMarker

theorem Canon.enterEdge {u : TileId} {fl : Flight} (h : Canon all s) : Canon all (Machine.enterEdge u fl s) := by
  unfold Machine.enterEdge
  exact h.modFabric

theorem Canon.landFlight {t : TileId} {k : Nat} {fl : Flight} (h : Canon all s) : CanonOpt all (Machine.landFlight t k fl s) := by
  unfold Machine.landFlight
  dsimp only
  split
  · trivial
  · split
    · exact h.modFabric.dropToken
    · split
      · exact h.modFabric.modFabric
      · split
        · trivial
        · exact h.modFabric.enterEdge
    · split
      · exact h.modFabric.markInput
      · exact h.modFabric.enterInput

theorem Canon.landFeed {t : TileId} {k : Nat} {d : Feed} (h : Canon all s) : CanonOpt all (Machine.landFeed t k d s) := by
  unfold Machine.landFeed
  dsimp only
  split
  · trivial
  · exact h.modFabric.enterInput

theorem Canon.landCaught {t : TileId} {k : Nat} {c : Caught} (h : Canon all s) : CanonOpt all (Machine.landCaught t k c s) := by
  unfold Machine.landCaught
  dsimp only
  split
  · trivial
  · exact h.modFabric.offerMarker

theorem Canon.execTokenDelivery {t : TileId} {k : Nat} (h : Canon all st) : CanonOut all (Machine.execTokenDelivery t k st) := by
  unfold Machine.execTokenDelivery
  refine h.event ?_
  dsimp only
  split
  · trivial
  · split
    · exact h.landFlight
    · split
      · split
        · exact h.landFeed
        · trivial
      · split
        · split
          · exact h.landCaught
          · trivial
        · trivial

theorem Canon.execEdgeQueueForward {t : TileId} {k : Nat} (h : Canon all st) : CanonOut all (Machine.execEdgeQueueForward t k st) := by
  unfold Machine.execEdgeQueueForward
  refine h.event ?_
  dsimp only
  split
  · split
    · split
      · trivial
      · exact h.modFabric.giveBack.ite h.modFabric
    · trivial
  · trivial

theorem Canon.opAccess {t : TileId} {o : MemOp} (h : Canon all s) : CanonOkSnd all (Machine.opAccess t o s) := by
  unfold Machine.opAccess
  dsimp only
  split
  · exact h
  · split
    · trivial
    · split
      · trivial
      · split
        · split
          · exact h
          · trivial
        · exact h.writePhys.markFull.ite (h.writePhys.markFull.ite h.writePhys)

theorem Canon.finishLoad {e : ElemId} {o : MemOp} {v : Nat} (h : Canon all s) : Canon all (Machine.finishLoad e o v s) := by
  unfold Machine.finishLoad
  exact h.modElem.modFabric

theorem Canon.execWaveOperationPerform {t : TileId} {k : Nat} (h : Canon all st) : CanonOut all (Machine.execWaveOperationPerform t k st) := by
  unfold Machine.execWaveOperationPerform
  refine h.event ?_
  dsimp only
  split
  · trivial
  · split
    · trivial
    · split
      · exact h.modFabric.elemFault
      · rename_i he
        exact ((h.opAccess.of_eq he).modFabric.finishLoad).ite ((h.opAccess.of_eq he).modFabric)

theorem Canon.endTurn {t : TileId} (h : Canon all s) : Canon all (Machine.endTurn t s) := by
  unfold Machine.endTurn
  dsimp only
  split
  · exact h
  · exact h.modFabric.traceEvent

theorem Canon.closePhase {t : TileId} {d : Nat} (h : Canon all s) : Canon all (Machine.closePhase t d s) := by
  unfold Machine.closePhase
  exact h.modFabric.endTurn

theorem Canon.sendMarkers {e : ElemId} {ctx : Nat} {k : Token} (h : Canon all s) : Canon all (Machine.sendMarkers e ctx k s) := by
  unfold Machine.sendMarkers
  exact h.foldl (fun _ _ hs => hs.sendToken)

theorem Canon.execElementContextSwitch {e : ElemId} (h : Canon all st) : CanonOut all (Machine.execElementContextSwitch e st) := by
  unfold Machine.execElementContextSwitch
  refine h.event ?_
  dsimp only
  split
  · split
    · split
      · trivial
      · exact h.sendMarkers.modFabric.closePhase.ite h.sendMarkers.modFabric
    · split
      · trivial
      · exact h.sendMarkers.modFabric.closePhase.ite h.sendMarkers.modFabric
  · trivial

theorem Canon.execElementSnapshot {e : ElemId} (h : Canon all st) : CanonOut all (Machine.execElementSnapshot e st) := by
  unfold Machine.execElementSnapshot
  refine h.event ?_
  dsimp only
  split
  · trivial
  · show Canon all _
    split
    · exact h.modElem.sendMarkers
    · exact h.modElem

theorem Canon.timeoutElem {e : ElemId} (h : Canon all s) : Canon all (Machine.timeoutElem e s) := by
  unfold Machine.timeoutElem
  exact h.modElem.foldl (fun _ _ hs => hs.ite hs.catchInput)

theorem Canon.execMarkerTimeout {t : TileId} (h : Canon all st) : CanonOut all (Machine.execMarkerTimeout t st) := by
  unfold Machine.execMarkerTimeout
  refine h.event ?_
  dsimp only
  split
  · trivial
  · split
    · trivial
    · exact h.foldl (fun _ _ hs => hs.ite hs.timeoutElem)

theorem Canon.fillGranules {t : TileId} {ch : BitVec 6} {base : Nat} {gs : List Nat} (h : Canon all s) :
    Canon all (Machine.fillGranules t ch base gs s) := by
  unfold Machine.fillGranules
  exact h.foldl (fun _ _ hs => hs.setFull.arrive)

theorem Canon.execStreamOutTake {t : TileId} {k : Nat} (h : Canon all st) : CanonOut all (Machine.execStreamOutTake t k st) := by
  unfold Machine.execStreamOutTake
  refine h.event ?_
  dsimp only
  split
  · trivial
  · split
    · trivial
    · split
      · trivial
      · split
        · split
          · split
            · trivial
            · exact h.elemFault
          · exact h.modFabric.writeNib.fillGranules
        · split
          · split
            · trivial
            · exact h.elemFault
          · exact h.modFabric.writeTmem.fillGranules

theorem Canon.spanPlaces {g : Eng} {acc : Access} {k : Nat} {ea : Addr} {n : Nat} (h : Canon all s) :
    CanonOkSnd all (Machine.spanPlaces g acc k ea n s) := by
  induction k generalizing ea n s with
  | zero => exact h
  | succ k ih =>
    unfold Machine.spanPlaces
    split
    · exact h
    · dsimp only
      split
      · trivial
      · rename_i he
        split
        · trivial
        · split
          · trivial
          · rename_i hr
            exact (ih (h.engPlace.of_eq he)).of_eq hr

theorem Canon.writePieces {l : List (Phys × Nat)} {bs : List Byte} (h : Canon all s) : Canon all (Machine.writePieces l bs s) := by
  induction l generalizing bs s with
  | nil => exact h
  | cons p r ih => exact ih h.writePhys

theorem Canon.spanWrite {g : Eng} {ea : Addr} {bs : List Byte} (h : Canon all s) : CanonOk all (Machine.spanWrite g ea bs s) := by
  unfold Machine.spanWrite
  split
  · trivial
  · rename_i he
    exact (h.spanPlaces.of_eq he).writePieces

theorem Canon.setGuards {t : TileId} {gcol : BitVec 15} {gedge : BitVec 4} (h : Canon all s) : Canon all (Machine.setGuards t gcol gedge s) := by
  unfold Machine.setGuards
  exact h.modFabric

theorem Canon.deselect {t : TileId} (h : Canon all s) : Canon all (Machine.deselect t s) := by
  unfold Machine.deselect
  exact h.modFabric.endTurn

theorem Canon.selectNow {t : TileId} {n : Nat} {slot : BitVec 3} {start : Nat} (h : Canon all s) :
    Canon all (Machine.selectNow t n slot start s) := by
  unfold Machine.selectNow
  exact h.modTile (fun _ hv => hv)

theorem Canon.injectMarkers {t : TileId} {d : Nat} (h : Canon all s) : Canon all (Machine.injectMarkers t d s) := by
  unfold Machine.injectMarkers
  exact h.modFabric

theorem Canon.issueFabric {xs : List (BitVec 5)} {body : TileId → StrandId → Strand → State → Except Stop State} (h : Canon all st)
    (hb : ∀ u i t s, Canon all s → CanonOk all (body u i t s)) : CanonOut all (Machine.issueFabric xs body st) :=
  h.issue fun _ _ _ hs => hs.onTile hb

theorem Canon.endSnapshot {t : TileId} (h : Canon all s) : Canon all (Machine.endSnapshot t s) := by
  unfold Machine.endSnapshot
  exact h.modFabric

theorem Canon.resumeFabric {t : TileId} (h : Canon all s) : Canon all (Machine.resumeFabric t s) := by
  unfold Machine.resumeFabric
  exact h.endSnapshot.modFabric

theorem Canon.execCfgSel {d s : BitVec 5} (h : Canon all st) : CanonOut all (Machine.execCfgSel d s st) := by
  unfold Machine.execCfgSel
  refine h.issueFabric fun _ _ _ _ hs => ?_
  dsimp only
  split
  · trivial
  · split
    · trivial
    · split
      · exact hs.setX.noteBoth
      · split
        · exact hs.deselect.setX.noteBoth
        · split
          · exact hs.resumeFabric.setX.noteBoth
          · split
            · trivial
            · split
              · exact hs.selectNow.setX.noteBoth
              · split
                · exact hs.setX.noteBoth
                · exact ((hs.offer.traceEvent.modFabric.ite hs.offer).injectMarkers.setX).noteBoth

theorem Canon.execCfgGuard {d s : BitVec 5} (h : Canon all st) : CanonOut all (Machine.execCfgGuard d s st) := by
  unfold Machine.execCfgGuard
  refine h.issueFabric fun _ _ _ _ hs => ?_
  dsimp only
  split
  · trivial
  · exact ((hs.setGuards.ite hs).setX).noteBoth

theorem Canon.execCfgBind {s t : BitVec 5} (h : Canon all st) : CanonOut all (Machine.execCfgBind s t st) := by
  unfold Machine.execCfgBind
  refine h.issueFabric fun _ _ _ _ hs => ?_
  dsimp only
  split
  · trivial
  · split
    · split
      · exact hs.modFabric.noteBoth
      · trivial
    · split
      · trivial
      · exact hs.modFabric.noteBoth

theorem Canon.execCfgWr {d s t : BitVec 5} (h : Canon all st) : CanonOut all (Machine.execCfgWr d s t st) := by
  unfold Machine.execCfgWr
  refine h.issueFabric fun _ _ _ _ hs => ?_
  dsimp only
  split
  · trivial
  · split
    · trivial
    · exact hs.modFabric.setX.noteBoth

theorem Canon.enterVerified {x : Verified} (h : Canon all s) : Canon all (Machine.enterVerified q x s) := by
  unfold Machine.enterVerified
  exact h.modQuad (fun _ => rfl)

theorem Canon.headLength {n : Nat} {len : Nat → Nat} {t : Strand} {ea : Addr} (h : Canon all st) :
    CanonOkSnd all (Machine.headLength n len i t ea st) := by
  unfold Machine.headLength
  split
  · trivial
  · rename_i he
    split
    · trivial
    · exact h.recordAt.of_eq he

theorem Canon.saveLength {x1 : Strand} {x2 : Addr} (h : Canon all st) : CanonOkSnd all (Machine.saveLength i x1 x2 st) := by
  unfold Machine.saveLength
  split
  · exact h
  · exact h

theorem Canon.issueArea {xs : List (BitVec 5)} {a : BitVec 4} {align : Nat} {acc : Access}
    {len : StrandId → Strand → Addr → State → Except Stop (Nat × State)} {own : TileId → Strand → State → Option Nat}
    {w : TileId → Strand → Addr → State → Wait} {after : TileId → StrandId → Strand → State → State} (h : Canon all st)
    (hl : ∀ i t ea s, Canon all s → CanonOkSnd all (len i t ea s)) (ha : ∀ u i t s, Canon all s → Canon all (after u i t s)) : CanonOut all
    (Machine.issueArea xs a align acc len own w after st) := by
  unfold Machine.issueArea
  refine h.issueFabric fun u i t s hs => ?_
  dsimp only
  split
  · trivial
  · split
    · trivial
    · split
      · trivial
      · rename_i hn
        split
        · trivial
        · rename_i hp
          split
          · trivial
          · exact (ha _ _ _ _ ((hl _ _ _ _ hs).of_eq hn |>.checkPlaces.of_eq hp).traceEvent).block

theorem Canon.beginFabric {x0 : TileId} {t : Strand} (h : Canon all s) : Canon all (Machine.beginFabric x0 i t s) := by
  unfold Machine.beginFabric
  exact h.traceEvent

theorem Canon.endArea {d : BitVec 5} {p7 : Bool} {v : Nat} (h : Canon all s) : Canon all (Machine.endArea i d p7 v s) := by
  unfold Machine.endArea
  exact ((h.noteWoken.traceEvent.ite h.noteWoken).unblock).setX

theorem Canon.trapArea {f : Flt} (h : Canon all s) : CanonOpt all (Machine.trapArea i f s) := by
  unfold Machine.trapArea
  split
  · exact h.takeTrap.lone
  · trivial

theorem Canon.areaRead {g : Eng} {ea : Addr} {n : Nat} (h : Canon all s) : CanonOkSnd all (Machine.areaRead i g ea n s) := by
  unfold Machine.areaRead
  split
  · trivial
  · rename_i he
    split
    · trivial
    · exact h.spanPlaces.of_eq he

theorem Canon.areaEnd {r : Except (Option Flt) State} (h : Canon all st) (hr : CanonOk all r) : CanonOpt all (Machine.areaEnd i st r) := by
  unfold Machine.areaEnd
  split
  · exact hr
  · trivial
  · exact h.trapArea

theorem Canon.execCfgCheck {d : BitVec 5} {s : BitVec 4} (h : Canon all st) : CanonOut all (Machine.execCfgCheck d s st) := by
  unfold Machine.execCfgCheck
  exact h.issueArea (fun _ _ _ _ hs => hs.headLength) (fun _ _ _ _ hs => hs)

theorem Canon.checkImage {u : TileId} {ea : Addr} {keys : Keys} (h : Canon all s) : CanonOkSnd all (Machine.checkImage u i ea keys s) := by
  unfold Machine.checkImage
  dsimp only
  split
  · trivial
  · rename_i he1
    split
    · exact h.areaRead.of_eq he1
    · split
      · exact h.areaRead.of_eq he1
      · split
        · exact h.areaRead.of_eq he1
        · split
          · trivial
          · rename_i he2
            exact (((h.areaRead.of_eq he1).areaRead.of_eq he2).enterVerified).ite ((h.areaRead.of_eq he1).areaRead.of_eq he2)

theorem Canon.execCfgCheckDone (h : Canon all st) : CanonOut all (Machine.execCfgCheckDone i st) := by
  unfold Machine.execCfgCheckDone
  refine h.event ?_
  split
  · refine h.areaEnd ?_
    split
    · trivial
    · rename_i he
      exact (h.checkImage.of_eq he).endArea
  · trivial

theorem Canon.execCfgLoad {d : BitVec 5} {s : BitVec 4} {t : BitVec 5} (h : Canon all st) : CanonOut all (Machine.execCfgLoad d s t st) := by
  unfold Machine.execCfgLoad
  exact h.issueArea (fun _ _ _ _ hs => hs.headLength) (fun _ _ _ _ hs => hs.beginFabric)

theorem Canon.acceptSection {u : TileId} {bs : List Byte} {mask : Nat} (h : Canon all s) : Canon all (Machine.acceptSection u bs mask s) := by
  unfold Machine.acceptSection
  exact h.modFabric.setGuards

theorem Canon.readSection {g : Eng} {ea : Addr} (h : Canon all s) : CanonOkSnd all (Machine.readSection i g ea s) := by
  unfold Machine.readSection
  split
  · trivial
  · rename_i he
    exact (h.areaRead.of_eq he).areaRead

theorem Canon.execCfgLoadDone (h : Canon all st) : CanonOut all (Machine.execCfgLoadDone i st) := by
  unfold Machine.execCfgLoadDone
  refine h.event ?_
  split
  · refine h.areaEnd ?_
    split
    · trivial
    · rename_i he
      exact ((h.readSection.of_eq he).acceptSection.ite (h.readSection.of_eq he)).endArea
  · trivial

theorem Canon.markTile {u : TileId} (h : Canon all s) : Canon all (Machine.markTile u s) := by
  unfold Machine.markTile
  exact h.modTile (fun _ hv => hv)

theorem Canon.execCfgMark (h : Canon all st) : CanonOut all (Machine.execCfgMark st) := by
  unfold Machine.execCfgMark
  refine h.issueFabric fun _ _ _ _ hs => ?_
  dsimp only
  split
  · trivial
  · exact (hs.ite hs.markTile).noteBoth

theorem Canon.execCfgSave {d : BitVec 5} {s : BitVec 4} (h : Canon all st) : CanonOut all (Machine.execCfgSave d s st) := by
  unfold Machine.execCfgSave
  exact h.issueArea (fun _ _ _ _ hs => hs.saveLength) (fun _ _ _ _ hs => (hs.ite hs.markTile).beginFabric)

theorem Canon.snapTile {u : TileId} (h : Canon all s) : Canon all (Machine.snapTile u s) := by
  unfold Machine.snapTile
  exact Canon.modFabric (h.foldl (fun _ _ hs => hs.catchRoute.ite hs))

theorem Canon.leaveFabric {u : TileId} (h : Canon all s) : Canon all (Machine.leaveFabric u s) := by
  unfold Machine.leaveFabric
  exact h.modFabric.endTurn

theorem Canon.execCfgSaveDone (h : Canon all st) : CanonOut all (Machine.execCfgSaveDone i st) := by
  unfold Machine.execCfgSaveDone
  refine h.event ?_
  split
  · split
    · trivial
    · dsimp only
      split
      · rename_i he
        exact ((h.snapTile.spanWrite.of_eq he).leaveFabric).endArea
      · trivial
      · exact (h.endSnapshot.ite h).trapArea
  · trivial

theorem Canon.execCfgRest {d : BitVec 5} {s : BitVec 4} (h : Canon all st) : CanonOut all (Machine.execCfgRest d s st) := by
  unfold Machine.execCfgRest
  exact h.issueArea (fun _ _ _ _ hs => hs.headLength) (fun _ _ _ _ hs => hs.beginFabric)

theorem Canon.restoreArea {u : TileId} {slot : BitVec 3} {bs : List Byte} (h : Canon all s) : Canon all (Machine.restoreArea u slot bs s) := by
  unfold Machine.restoreArea
  exact h.modFabric.setGuards.modTile (fun _ hv => hv)

theorem Canon.execCfgRestDone (h : Canon all st) : CanonOut all (Machine.execCfgRestDone i st) := by
  unfold Machine.execCfgRestDone
  refine h.event ?_
  split
  · dsimp only
    refine h.areaEnd ?_
    split
    · trivial
    · rename_i he1
      split
      · trivial
      · rename_i he2
        exact (((h.areaRead.of_eq he1).areaRead.of_eq he2).restoreArea.ite ((h.areaRead.of_eq he1).areaRead.of_eq he2)).endArea
  · trivial

theorem Canon.portCommand {t : TileId} {op : Nat} (h : Canon all st) : CanonOut all (Machine.portCommand t op st) := by
  unfold Machine.portCommand
  refine h.event ?_
  split
  · trivial
  · exact h.modTile (fun _ hv => hv)

theorem Canon.portLoad {t : TileId} {a : Addr} {mask : Nat} (h : Canon all s) : CanonOkSnd all (Machine.portLoad t a mask s) := by
  unfold Machine.portLoad
  split
  · trivial
  · split
    · trivial
    · split
      · exact h
      · split
        · exact h
        · exact h.acceptSection.ite h

theorem Canon.portCheck {t : TileId} {a : Addr} {keys : Keys} (h : Canon all s) : CanonOkSnd all (Machine.portCheck t a keys s) := by
  unfold Machine.portCheck
  split
  · trivial
  · dsimp only
    split
    · exact h
    · split
      · trivial
      · split
        · exact h
        · split
          · trivial
          · exact h.enterVerified.ite h

theorem Canon.portClear {t : TileId} {mask : Nat} (h : Canon all s) : Canon all (Machine.portClear t mask s) := by
  unfold Machine.portClear
  exact h.deselect.modFabric

theorem Canon.portErrors {p : CfgPort} (h : Canon all s) : Canon all (Machine.portErrors p s) := by
  unfold Machine.portErrors
  exact h.notePoison

theorem Canon.execCpCommandDone {t : TileId} (h : Canon all st) : CanonOut all (Machine.execCpCommandDone t st) := by
  unfold Machine.execCpCommandDone
  refine h.event ?_
  dsimp only
  split
  · trivial
  · split
    · split
      · rename_i he1
        exact (h.portLoad.of_eq he1).modTile (fun _ hv => hv)
      · exact (h.portErrors.ite h).modTile (fun _ hv => hv)
      · trivial
    · split
      · rename_i he2
        exact (h.portCheck.of_eq he2).modTile (fun _ hv => hv)
      · exact (h.portErrors.ite h).modTile (fun _ hv => hv)
      · trivial
    · split
      · trivial
      · exact h.portClear.modTile (fun _ hv => hv)

/-! ### Fetch, Riddle, launches and the platform -/

theorem Canon.fetchParcel {va : Addr} (h : Canon all s) : CanonOkSnd all (Machine.fetchParcel i va s) := by
  unfold Machine.fetchParcel
  split
  · rename_i he1
    split
    · trivial
    · rename_i he2
      split
      · trivial
      · split
        · trivial
        · dsimp only
          split
          · exact ((h.strandXl.of_pair he1).translate).of_eq he2
          · split
            · exact ((h.strandXl.of_pair he1).translate).of_eq he2
            · exact ((h.strandXl.of_pair he1).translate.of_eq he2).fresh

theorem Canon.fetchLater {va : Addr} (h : Canon all s) : CanonOkSnd all (Machine.fetchLater i va s) := by
  unfold Machine.fetchLater
  split
  · trivial
  · exact h.fetchParcel

theorem Canon.fetchParcels {pc : Addr} (h : Canon all s) : CanonOkSnd all (Machine.fetchParcels i pc s) := by
  unfold Machine.fetchParcels
  split
  · trivial
  · rename_i he1
    dsimp only
    split
    · trivial
    · split
      · trivial
      · split
        · exact h.fetchParcel.of_eq he1
        · split
          · trivial
          · rename_i he2
            split
            · exact ((h.fetchParcel.of_eq he1).fetchLater).of_eq he2
            · split
              · trivial
              · rename_i he3
                exact (((h.fetchParcel.of_eq he1).fetchLater.of_eq he2).fetchLater).of_eq he3

theorem Canon.execFetchTrap (h : Canon all st) : CanonOut all (Machine.execFetchTrap i st) := by
  unfold Machine.execFetchTrap
  refine h.event ?_
  split
  · split
    · trivial
    · exact h.modStrand.countFault.takeTrap.lone
  · trivial

theorem Canon.execBreakpointStop (h : Canon all st) : CanonOut all (Machine.execBreakpointStop i st) := by
  unfold Machine.execBreakpointStop
  refine h.event ?_
  split
  · trivial
  · split
    · rename_i he
      split
      · exact (h.fetchParcels.of_eq he).debugStop
      · trivial
    · trivial

theorem Canon.fetchLine {line : Nat} (h : Canon all st) : CanonOptSnd all (Machine.fetchLine i line st) := by
  unfold Machine.fetchLine
  split
  · rename_i he1
    split
    · trivial
    · rename_i he2
      split
      · trivial
      · exact ((h.strandXl.of_pair he1).translate).of_eq he2

theorem Canon.execInstructionCacheFill {c : CoreId} {line : Nat} (h : Canon all st) : CanonOut all (Machine.execInstructionCacheFill c line st) := by
  unfold Machine.execInstructionCacheFill
  refine h.event ?_
  split
  · trivial
  · rename_i l s he
    obtain ⟨i, -, hi⟩ := List.exists_of_findSome?_eq_some he
    have hs : Canon all s := by
      split at hi
      · cases hi
      · exact h.fetchLine.of_eq hi
    exact hs.fresh.modCore

theorem Canon.fetchInstr (h : Canon all s) : CanonOkSnd all (Machine.fetchInstr i s) := by
  unfold Machine.fetchInstr
  split
  · trivial
  · rename_i he
    split
    · split
      · exact h.fetchParcels.of_eq he
      · trivial
    · trivial
    · trivial

theorem Canon.noteFetchTrap (h : Canon all s) : Canon all (Machine.noteFetchTrap i s) := by
  unfold Machine.noteFetchTrap
  split
  · exact h.modStrand
  · exact h.modStrand

theorem Canon.execBinr {d : BitVec 5} {s : BitVec 4} (h : Canon all st) : CanonOut all (Machine.execBinr d s st) := by
  unfold Machine.execBinr
  refine h.issueStream fun _ _ _ _ hs => ?_
  dsimp only
  split
  · trivial
  · split
    · trivial
    · split
      · trivial
      · rename_i he
        split
        · trivial
        · split
          · trivial
          · split
            · trivial
            · split
              · exact ((hs.recordAt.of_eq he).traceEvent.setX).traceEvent
              · exact Canon.traceEvent (Canon.setX ((hs.recordAt.of_eq he).traceEvent.setTag.modTile (fun _ hv => hv)))

theorem Canon.binRow {g : Eng} {j : RiddleJob} {r : Nat} {counts : List Nat} (h : Canon all s) : CanonOkSnd all (Machine.binRow g j r counts s) := by
  unfold Machine.binRow
  dsimp only
  split
  · trivial
  · rename_i he1
    split
    · trivial
    · rename_i he2
      split
      · split
        · exact ((h.engRead.of_eq he1).engRead).of_eq he2
        · split
          · trivial
          · rename_i he3
            exact (((h.engRead.of_eq he1).engRead.of_eq he2).engWrite.of_eq he3).markFull
      · split
        · exact ((h.engRead.of_eq he1).engRead).of_eq he2
        · split
          · trivial
          · rename_i he4
            exact (((h.engRead.of_eq he1).engRead.of_eq he2).engWrite.of_eq he4).markFull

theorem Canon.binRows {g : Eng} {j : RiddleJob} {rs counts : List Nat} (h : Canon all s) : Canon all (Machine.binRows g j rs counts s).2.1 := by
  induction rs generalizing counts s with
  | nil => exact h
  | cons r rs ih =>
    unfold Machine.binRows
    split
    · exact h
    · rename_i he
      exact ih (h.binRow.of_eq he)

theorem Canon.writeCounts {g : Eng} {j : RiddleJob} {counts : List Nat} (h : Canon all s) : CanonOk all (Machine.writeCounts g j counts s) := by
  unfold Machine.writeCounts
  split
  · trivial
  · rename_i he
    exact (h.engWrite.of_eq he).markFull

theorem Canon.finishJob {u : TileId} {k : Nat} {j : RiddleJob} (h : Canon all s) : Canon all (Machine.finishJob u k j s) := by
  unfold Machine.finishJob
  exact Canon.traceEvent (Canon.traceEvent (h.setTag.modTile (fun _ hv => hv)))

theorem Canon.stopJob {u : TileId} {k : Nat} {j : RiddleJob} {f : Flt} (h : Canon all s) : Canon all (Machine.stopJob u k j f s) := by
  unfold Machine.stopJob
  exact h.engineFault.modTile (fun _ hv => hv)

theorem Canon.execRiddleBatch {u : TileId} {k : Nat} (h : Canon all st) : CanonOut all (Machine.execRiddleBatch u k st) := by
  unfold Machine.execRiddleBatch
  refine h.event ?_
  dsimp only
  split
  · rename_i j _ _
    split
    · trivial
    · have hb := h.binRows (g := engineOf u j.issuer j.level none st) (j := j) (counts := j.counts)
        (rs := (range (256 * j.batch) (min j.nrows (256 * (j.batch + 1)))).map (j.row0 + ·))
      split
      · trivial
      · rename_i he
        rw [he] at hb
        exact h.freeState (fun _ _ => Canon.stopJob (Canon.mk hb)) fun _ hs => hs.stopJob
      · rename_i he
        rw [he] at hb
        split
        · exact hb.modTile fun _ hv => hv
        · split
          · trivial
          · exact h.freeState (fun _ _ => Canon.stopJob (Canon.mk hb)) fun _ hs => hs.stopJob
          · rename_i hw
            exact (hb.writeCounts.of_eq hw).finishJob
  · trivial

theorem Canon.ladleWrite {p : Phys} {bs : List Byte} (h : Canon all s) : Canon all (Machine.ladleWrite p bs s) := by
  unfold Machine.ladleWrite
  exact h.writePhys.markFull

theorem Canon.issueLadle {xs : List (BitVec 5)} {s : BitVec 4} {link : StrandId → Strand → State → Except Stop (Option Phys × State)}
    {body : StrandId → Strand → Phys → Option Phys → Nat → State → Except Stop State} (h : Canon all st)
    (hl : ∀ i t s, Canon all s → CanonOkSnd all (link i t s)) (hb : ∀ i t p q r s, Canon all s → CanonOk all (body i t p q r s)) : CanonOut all
    (Machine.issueLadle xs s link body st) := by
  unfold Machine.issueLadle
  refine h.issue fun _ _ _ hs => ?_
  dsimp only
  split
  · trivial
  · split
    · trivial
    · split
      · trivial
      · split
        · trivial
        · rename_i he1
          split
          · trivial
          · rename_i he2
            split
            · trivial
            · rename_i he3
              split
              · trivial
              · split
                · trivial
                · exact hb _ _ _ _ _ _ ((((hl _ _ _ (hs.recordPlace.of_eq he1)).of_eq he2).recordTake).of_eq he3)

theorem Canon.execChpool {d : BitVec 5} {s : BitVec 4} (h : Canon all st) : CanonOut all (Machine.execChpool d s st) := by
  unfold Machine.execChpool
  exact h.issueLadle (fun _ _ _ hs => hs) (fun _ _ _ _ _ _ hs => hs.ladleWrite.setX)

theorem Canon.linkPlace {l : BitVec 4} {r : Strand} (h : Canon all st) : CanonOkSnd all (Machine.linkPlace l i r st) := by
  unfold Machine.linkPlace
  dsimp only
  split
  · exact h
  · split
    · trivial
    · split
      · trivial
      · rename_i he
        split
        · trivial
        · exact h.locate.of_eq he

theorem Canon.execChalloc {d s l : BitVec 4} (h : Canon all st) : CanonOut all (Machine.execChalloc d s l st) := by
  unfold Machine.execChalloc
  refine h.issueLadle (fun _ _ _ hs => hs.linkPlace) fun _ _ _ _ _ _ hs1 => ?_
  split
  · dsimp only
    split
    · exact hs1.ladleWrite.modStrand
    · split
      · exact hs1.ladleWrite.modStrand
      · split
        · trivial
        · split
          · trivial
          · rename_i he
            exact ((hs1.recordTake.of_eq he).ladleWrite.modStrand).ladleWrite

/-! The launch tables -/

theorem Canon.slotOk (h : Canon all s) (ha : all = true) (q : BitVec 2) (n : Nat) : SlotOk (s.launchSlot q n) := by
  unfold State.launchSlot
  cases hn : amGet n (s.quad q).launches with
  | none => exact fun _ hl => nomatch hl
  | some sl => exact (h.2 ha).2 q _ (amGet_mem hn)

theorem Canon.teamsOk {n : Nat} {l : Launch} (h : Canon all s) (ha : all = true) (e : s.launchAt q n = some l) : ∀ tm ∈ l.teams, TeamOk tm :=
  h.slotOk ha q n l e

theorem Canon.handledOk {h n : Nat} {l : Launch} (hs : Canon all s) (ha : all = true) (e : s.handled i h = some (n, l)) :
    ∀ tm ∈ l.teams, TeamOk tm := by
  unfold State.handled at e
  dsimp only at e
  split at e
  · cases e
  · rename_i hl
    split at e
    · cases e
    · cases e
      exact hs.teamsOk ha hl

theorem Canon.waiterOk {n k : Nat} {w : Waiter} (h : Canon all s) (ha : all = true) (e : s.waiter q n k = some w) : TeamOk w.team := by
  obtain ⟨⟨m, sl⟩, hm, hw⟩ := List.mem_flatMap.mp (List.mem_of_find?_eq_some e)
  have ho := (h.2 ha).2 q _ hm
  dsimp only at hw ho
  split at hw
  · cases hw
  · rename_i l hl
    split at hw
    · cases hw
    · obtain ⟨j, hj, rfl⟩ := List.mem_mapIdx.mp (List.mem_filter.mp hw).1
      exact ho l hl _ (List.getElem_mem hj)

theorem Canon.setSlot {s : State} {q : BitVec 2} {n : Nat} {sl : LaunchSlot} (h : Canon all s) (hsl : all = true → SlotOk sl) :
    Canon all (s.modQuad q fun d => { d with launches := amSet n sl d.launches }) :=
  h.setQuad fun ha p hp => by
    obtain rfl | hp := mem_of_mem_amSet hp
    · exact hsl ha
    · exact (h.2 ha).2 q p hp

theorem Canon.setLaunch {n : Nat} {l : Launch} (h : Canon all s) (hl : all = true → ∀ tm ∈ l.teams, TeamOk tm) :
    Canon all (Machine.setLaunch q n l s) :=
  h.setSlot fun ha x hx => by cases hx; exact hl ha

theorem Canon.setTeam {n k : Nat} {tm : Team} (h : Canon all s) (ht : all = true → TeamOk tm) : Canon all (Machine.setTeam q n k tm s) := by
  unfold Machine.setTeam
  split
  · exact h
  · rename_i he
    refine h.setLaunch fun ha tm' hm => ?_
    obtain hm | rfl := List.mem_or_eq_of_mem_set hm
    · exact h.teamsOk ha he _ hm
    · exact ht ha

theorem Canon.moveAside {n : Nat} (h : Canon all s) : Canon all (Machine.moveAside q n s) := by
  unfold Machine.moveAside
  dsimp only
  split
  · exact h
  · refine Canon.mapTiles (h.setSlot fun ha => h.slotOk ha q n) fun p hp => ?_
    dsimp only
    split <;> exact hp

theorem Canon.opportunity (h : Canon all s) : Canon all (Machine.opportunity q s) := by
  unfold Machine.opportunity
  exact h.modQuad (fun _ => rfl)

theorem Canon.enterLaunch {n : Nat} {l : Launch} (h : Canon all s) (hl : ∀ tm ∈ l.teams, TeamOk tm) : Canon all (Machine.enterLaunch q n l s).2 :=
  h.moveAside.setSlot fun _ x hx => by cases hx; exact hl

theorem teamOk_makeReady {l : Launch} {now : Nat} (h : ∀ tm ∈ l.teams, TeamOk tm) : ∀ tm ∈ (l.makeReady now).teams, TeamOk tm :=
  List.forall_mem_map.mpr h

theorem Canon.acceptLaunch {t : Strand} {d : BitVec 5} {r : LaunchRec} (h : Canon all s) : Canon all (Machine.acceptLaunch i t d r s) := by
  unfold Machine.acceptLaunch
  dsimp only
  split
  · exact h.fresh.setX
  · refine Canon.setX ?_
    have hw : ∀ tm ∈ List.replicate (r.ntm1 + 1) { state := .waiting, since := 0, claim := false }, TeamOk tm := fun tm hm => by
      rw [List.eq_of_mem_replicate hm]
      exact fun _ e => nomatch e
    split
    · exact (h.fresh.enterLaunch (teamOk_makeReady hw)).opportunity
    · exact h.fresh.enterLaunch hw

theorem Canon.execLaunch {d : BitVec 5} {s : BitVec 4} (h : Canon all st) : CanonOut all (Machine.execLaunch d s st) := by
  unfold Machine.execLaunch
  refine h.issue fun _ _ _ hs => ?_
  dsimp only
  split
  · trivial
  · split
    · trivial
    · split
      · trivial
      · rename_i he1
        split
        · trivial
        · split
          · trivial
          · rename_i he2
            split
            · trivial
            · rename_i he3
              split
              · trivial
              · split
                · trivial
                · exact (((hs.recordAt.of_eq he1).checkPlaces.of_eq he2).checkPlaces.of_eq he3).acceptLaunch

theorem Canon.execLstat {d s t : BitVec 5} (h : Canon all st) : CanonOut all (Machine.execLstat d s t st) := by
  unfold Machine.execLstat
  refine h.issue fun i r st hs => ?_
  dsimp only
  split
  · trivial
  · split
    · trivial
    · split
      · exact hs.setX
      · rename_i hl
        refine Canon.setX (hs.setLaunch fun ha => ?_)
        have ht := hs.handledOk ha hl
        split <;> exact ht

theorem Canon.failLaunch {n : Nat} {cause : BitVec 8} {pa : Nat} (h : Canon all s) : Canon all (Machine.failLaunch q n cause pa s) := by
  unfold Machine.failLaunch
  split
  · exact h
  · rename_i he
    have hl := fun ha => h.teamsOk ha he
    exact Canon.errorRecord (h.setLaunch hl)

theorem Canon.launchPlace {x : Xl} {ea : Addr} {acc : Access} (h : Canon all s) : CanonOkSnd all (Machine.launchPlace x ea acc s) := by
  unfold Machine.launchPlace
  split
  · trivial
  · rename_i he
    split
    · trivial
    · dsimp only
      split
      · trivial
      · trivial
      · split
        · trivial
        · exact ((h.translate.of_eq he).cutRanges).ite (h.translate.of_eq he)

theorem Canon.execReadinessRead {n k : Nat} (h : Canon all st) : CanonOut all (Machine.execReadinessRead q n k st) := by
  unfold Machine.execReadinessRead
  refine h.event ?_
  split
  · trivial
  · rename_i he
    have hl := fun ha => h.teamsOk ha he
    split
    · split
      · trivial
      · exact h.failLaunch
      · rename_i hp
        have hs := h.launchPlace.of_eq hp
        split
        · exact hs.failLaunch
        · dsimp only
          split
          · trivial
          · exact Canon.ite (Canon.opportunity (hs.setLaunch fun ha => teamOk_makeReady (hl ha))) (hs.setLaunch hl)
    · trivial

theorem Canon.execClaimBegin {n k : Nat} (h : Canon all st) : CanonOut all (Machine.execClaimBegin q n k st) := by
  unfold Machine.execClaimBegin
  refine h.event ?_
  split
  · trivial
  · rename_i he
    split
    · trivial
    · refine Canon.opportunity (h.setTeam ?_)
      exact fun ha => h.waiterOk ha he

theorem Canon.placeTile {r : LaunchRec} {entry : Option CtxEntry} {res : Nat → Nat → Nat → Residency} {dx dy ord : Nat} (h : Canon all s) :
    Canon all (Machine.placeTile q r entry res dx dy ord s) := by
  unfold Machine.placeTile
  exact Canon.foldl (h.setTile (fun _ => tileOk_default)) (fun _ _ hs => hs.setStrand)

theorem Canon.execTeamPlace {n k ox oy : Nat} (h : Canon all st) : CanonOut all (Machine.execTeamPlace q n k ox oy st) := by
  unfold Machine.execTeamPlace
  refine h.event ?_
  split
  · trivial
  · split
    · trivial
    · exact (h.foldl fun _ _ hs => hs.placeTile).setTeam fun _ _ e => nomatch e

theorem Canon.traceEngines {t : TileId} {fin : Bool} (h : Canon all s) : Canon all (Machine.traceEngines t fin s) := by
  unfold Machine.traceEngines
  dsimp only
  split
  · exact Canon.traceEvent (Canon.foldl (Canon.foldl (h.foldl (fun _ _ hs => hs.traceEvent)) (fun _ _ hs => hs.traceEvent.ite hs))
      (fun _ _ hs => hs.traceEvent))
  · exact Canon.foldl (Canon.foldl (h.foldl (fun _ _ hs => hs.traceEvent)) (fun _ _ hs => hs.traceEvent.ite hs)) (fun _ _ hs => hs.traceEvent)

theorem Canon.resumeTile {t : TileId} (h : Canon all s) : Canon all (Machine.resumeTile t s) := by
  unfold Machine.resumeTile
  exact h.trace.traceEngines

theorem Canon.execTeamFirstIssue {n k : Nat} (h : Canon all st) : CanonOut all (Machine.execTeamFirstIssue q n k st) := by
  unfold Machine.execTeamFirstIssue
  refine h.event ?_
  split
  · dsimp only
    split
    · trivial
    · exact h.foldl (fun _ _ hs => (hs.resumeTile.ite hs).modTile (fun _ hv => hv))
  · trivial

theorem Canon.leaveTile {t : TileId} (h : Canon all s) : Canon all (Machine.leaveTile t s) := by
  unfold Machine.leaveTile
  exact Canon.modTile (Canon.mk (Canon.foldl (h.modQuad (fun _ => rfl)) (fun _ _ hs => hs.setStrand))) (fun _ hv => hv)

theorem Canon.endTeam {n k : Nat} (h : Canon all s) : Canon all (Machine.endTeam q n k s) := by
  unfold Machine.endTeam
  dsimp only
  have hs : Canon all ((s.teamTiles q n k).foldl (fun s t => Machine.leaveTile t s) s) := h.foldl fun _ _ hs => hs.leaveTile
  split
  · exact hs
  · rename_i l he
    have hm : all = true → ∀ tm ∈ l.teams.modify k (fun t => { t with state := .ended }), TeamOk tm := fun ha tm ht => by
      obtain ⟨j, hj, rfl⟩ := List.mem_iff_getElem.mp ht
      rw [List.getElem_modify]
      split
      · exact fun _ e => nomatch e
      · exact hs.teamsOk ha he _ (List.getElem_mem _)
    refine hs.setLaunch fun ha => ?_
    split <;> exact hm ha

theorem Canon.execTeamEnd {n k : Nat} (h : Canon all st) : CanonOut all (Machine.execTeamEnd q n k st) := by
  unfold Machine.execTeamEnd
  refine h.event ?_
  split
  · dsimp only
    split
    · exact h.endTeam
    · trivial
  · trivial

theorem Canon.execTileClearDone {t : TileId} (h : Canon all st) : CanonOut all (Machine.execTileClearDone t st) := by
  unfold Machine.execTileClearDone
  refine h.event ?_
  dsimp only
  split
  · trivial
  · exact Canon.opportunity (Canon.mk (h.setTile (fun _ => tileOk_default)))

theorem Canon.execLaunchSignal {n : Nat} (h : Canon all st) : CanonOut all (Machine.execLaunchSignal q n st) := by
  unfold Machine.execLaunchSignal
  refine h.event ?_
  split
  · trivial
  · rename_i he
    have hl := fun ha => h.teamsOk ha he
    split
    · trivial
    · split
      · trivial
      · exact h.failLaunch
      · rename_i hp
        have hs := h.launchPlace.of_eq hp
        split
        · exact hs.failLaunch
        · rename_i hu
          exact Canon.setLaunch (hs.atomicUpdate.of_eq hu) hl

theorem Canon.actsNow {l : List (State → Out)} (h : Canon all s) (hl : CanonActs all l) : CanonOpt all (Machine.actsNow l s) := by
  unfold Machine.actsNow
  cases hu : l.findSome? fun f => match f { s with idle := false } with | .next u => if u.idle then none else some u | _ => none with
  | none => trivial
  | some u =>
    obtain ⟨f, hf, he⟩ := List.exists_of_findSome?_eq_some hu
    split at he
    · rename_i hn
      split at he
      · cases he
      · cases he
        exact (hl f hf _ h.mk).of_eq hn
    · cases he

theorem Canon.joinNow (h : Canon all s) : Canon all (Machine.joinNow i s) :=
  (h.actsNow (.cons (fun _ hs => hs.execJoinlAct) .nil)).getD h.modStrand

theorem Canon.endWait (h : Canon all s) : Canon all (Machine.endWait i s) := by
  unfold Machine.endWait
  split
  · exact ((h.actsNow (.cons (fun _ hs => hs.execJoinlWake) .nil)).map fun _ hs => hs.joinNow).getD h
  · exact (h.actsNow (.cons (fun _ hs => hs.execWaitlineWake) <| .cons (fun _ hs => hs.execFullemptyWake) <| .cons (fun _ hs => hs.execStrmWaitWake)
      <|
      .cons (fun _ hs => hs.execTqpopWake) <| .cons (fun _ hs => hs.execBarwWake) <| .cons (fun _ hs => hs.execQdrainWake) .nil)).getD h

theorem Canon.swapStrand (h : Canon all s) : Canon all (Machine.swapStrand i s) := by
  unfold Machine.swapStrand
  exact h.traceStops.dropWait.flushParts.modStrand

theorem Canon.dropFault {src : BitVec 3} {pc : Addr} {detail : Nat} (h : Canon all s) : Canon all (Machine.dropFault i src pc detail s) := by
  unfold Machine.dropFault
  exact h.modStrand

theorem Canon.swapEngines {t : TileId} (h : Canon all s) : Canon all (Machine.swapEngines t s) := by
  unfold Machine.swapEngines
  dsimp only
  exact Canon.mk (Canon.modTile (Canon.foldl (h.foldl (fun _ _ hs => hs.endMoving.dropFault.ite hs.endMoving)) (fun _ _ hs => hs.dropFault.ite hs))
    (fun _ hv => hv))

theorem Canon.swapTile {t : TileId} (h : Canon all s) : Canon all (Machine.swapTile t s) := by
  unfold Machine.swapTile
  exact Canon.ite (Canon.modTile (Canon.swapEngines (Canon.traceEngines
    (Canon.foldl (Canon.foldl (h.modTile (fun _ hv => hv)) (fun _ _ hs => hs.foldl (fun _ _ hs1 => hs1.endWait)))
    (fun _ _ hs => hs.ite hs.swapStrand)))) (fun _ hv => hv))
    (Canon.modFabric (Canon.markTile (Canon.modTile (Canon.swapEngines
    (Canon.traceEngines (Canon.foldl (Canon.foldl (h.modTile (fun _ hv => hv)) (fun _ _ hs => hs.foldl (fun _ _ hs1 => hs1.endWait)))
    (fun _ _ hs => hs.ite hs.swapStrand)))) (fun _ hv => hv))))

theorem Canon.swapTeam {n k : Nat} (h : Canon all s) : Canon all (Machine.swapTeam q n k s) := by
  unfold Machine.swapTeam
  split
  · split
    · exact (h.foldl fun _ _ hs => hs.swapTile).setTeam fun _ _ e => nomatch e
    · exact h
  · exact h

theorem Canon.execPreemptDecision {n k : Nat} (h : Canon all st) : CanonOut all (Machine.execPreemptDecision q n k st) := by
  unfold Machine.execPreemptDecision
  refine h.event ?_
  split
  · trivial
  · rename_i w he
    have ht (tm : Team) (e : tm.state = w.team.state) : Canon all (Machine.setTeam q n k tm st) := by
      refine h.setTeam fun ha im hi => ?_
      exact h.waiterOk ha he im (e ▸ hi)
    dsimp only
    split
    · trivial
    · split
      · exact Canon.bumpQuad (ht { w.team with weighed := some (st.quad q).chances } rfl)
      · split
        · trivial
        · split
          · exact Canon.bumpQuad (ht { w.team with weighed := some (st.quad q).chances } rfl)
          · exact Canon.foldl (ht _ (by rfl)) fun _ _ hs => hs.swapTeam

theorem Canon.catchAll {t : TileId} (h : Canon all s) : Canon all (Machine.catchAll t s) := by
  unfold Machine.catchAll
  refine h.foldl fun _ _ hs2 => ?_
  split
  · exact hs2.foldl (fun _ _ hs1 => hs1.catchInput)

theorem Canon.saveTeam {n k : Nat} (h : Canon all s) : Canon all (Machine.saveTeam q n k s).2 := by
  unfold Machine.saveTeam
  dsimp only
  exact Canon.foldl (Canon.foldl (Canon.mk (h.foldl (fun _ _ hs => hs.catchAll))) (fun _ _ hs => hs.hwWrite)) (fun _ _ hs => hs.leaveTile)

theorem Canon.saveTeam_tiles {n k : Nat} (h : Canon all s) (ha : all = true) : ∀ v ∈ (Machine.saveTeam q n k s).1.tiles, TileOk v.2.1 :=
  List.forall_mem_map.mpr fun t _ => Canon.tileOk (h.foldl fun _ _ hs => hs.catchAll) ha t

theorem Canon.execSwapOutSave {n k : Nat} (h : Canon all st) : CanonOut all (Machine.execSwapOutSave q n k st) := by
  unfold Machine.execSwapOutSave
  refine h.event ?_
  split
  · split
    · dsimp only
      split
      · trivial
      · split
        · exact h.endTeam
        · exact h.saveTeam.setTeam fun ha im e => by cases e; exact h.saveTeam_tiles ha
    · trivial
  · trivial

theorem Canon.replayed {a : FailedAccess} {p : Phys} {ea : Addr} {acc : Access} {pc : Addr} (h : Canon all s) :
    Canon all (Machine.replayed i a p ea acc pc s).2 := by
  unfold Machine.replayed
  split
  · rename_i he1
    split
    · rename_i he2
      exact ((h.strandXl.of_pair he1).translate).of_eq he2
    · split
      · exact h.strandXl.of_pair he1
      · exact ((h.strandXl.of_pair he1).addAsync).modStrand

theorem Canon.replayStrand (h : Canon all s) : Canon all (Machine.replayStrand i s) := by
  unfold Machine.replayStrand
  dsimp only
  refine Canon.foldl (Canon.foldl (h.setStrand.foldl ?_) ?_) ?_
  · intro _ _ hs1
    split
    · rename_i he1
      exact hs1.replayed.of_pair he1
    · rename_i he2
      exact (hs1.replayed.of_pair he2).modStrand
  · intro _ _ hs2
    split
    · rename_i he3
      exact hs2.ite (hs2.replayed.of_pair he3)
    · rename_i he4
      exact (hs2.replayed.of_pair he4).modStrand
  · intro _ _ hs3
    split
    · rename_i he5
      exact hs3.ite (hs3.replayed.of_pair he5)
    · rename_i he6
      exact (hs3.replayed.of_pair he6).modStrand

theorem Canon.reserveAgain {t : TileId} (h : Canon all s) : Canon all (Machine.reserveAgain t s) := by
  unfold Machine.reserveAgain
  refine h.foldl fun _ _ hs => ?_
  split
  · split
    · rename_i he
      exact (hs.registerStream.of_eq he).setStream
    · exact hs.ite hs.stopStream
    · exact hs

theorem tileOk_restoreTile {old saved : Tile} {ts : List (Nat × Strand)} {ox oy tmemp free now : Nat} (h : TileOk saved) :
    TileOk (restoreTile old saved ts ox oy tmemp free now) :=
  ⟨Mem.wf_filter _ h.1, h.2⟩

theorem Canon.restoreTeam {c : BitVec 16} {tmemp ox oy : Nat} {im : Image} (h : Canon all s) (hi : all = true → ∀ v ∈ im.tiles, TileOk v.2.1) :
    Canon all (Machine.restoreTeam q c tmemp ox oy im s) := by
  unfold Machine.restoreTeam
  dsimp only
  refine Canon.foldl (Canon.foldlMem h fun s v hv hs => ?_) fun s v hs => ?_
  · exact Canon.mk (hs.setTile fun ha => tileOk_restoreTile (hi ha v hv))
  · exact Canon.ite (Canon.reserveAgain (hs.foldl fun _ _ hs => hs.setStrand.replayStrand))
      (Canon.requestLeave (Canon.reserveAgain (hs.foldl fun _ _ hs => hs.setStrand.replayStrand)))

theorem Canon.execTeamRestore {n k ox oy : Nat} (h : Canon all st) : CanonOut all (Machine.execTeamRestore q n k ox oy st) := by
  unfold Machine.execTeamRestore
  refine h.event ?_
  split
  · trivial
  · rename_i hw
    split
    · rename_i him
      split
      · trivial
      · split
        · exact (h.setTeam fun _ _ e => by cases e).failLaunch
        · exact (h.restoreTeam fun ha => h.waiterOk ha hw _ him).setTeam fun _ _ e => nomatch e
    · trivial

theorem Canon.execLineInstall {line : Nat} (h : Canon all st) : CanonOut all (Machine.execLineInstall q line st) := by
  unfold Machine.execLineInstall
  refine h.event ?_
  split
  · trivial
  · exact h.installLine

theorem Canon.agentAccess {write : Bool} {a n : Nat} {f : State → State} (h : Canon all s) (hf : ∀ s, Canon all s → Canon all (f s)) :
    CanonOpt all (Machine.agentAccess write a n f s) := by
  unfold Machine.agentAccess
  split
  · trivial
  · split
    · exact hf _ h
    · exact hf _ h.cutRanges
    · trivial

theorem Canon.execTaggedWrite {x0 : BitVec 21} {offset : Nat} {bytes : List Byte} (h : Canon all st) :
    CanonOut all (Machine.execTaggedWrite x0 offset bytes st) := by
  unfold Machine.execTaggedWrite
  refine h.event ?_
  split
  · trivial
  · exact h.taggedWrite

theorem Canon.barLine {a : Nat} {bs : List Byte} (h : Canon all s) : Canon all (Machine.barLine a bs s) := by
  unfold Machine.barLine
  dsimp only
  split
  · exact h.loseLinks.endMerges.mk
  · exact h.loseLinks.endMerges.mk.fresh.mk.ite h.loseLinks.endMerges.mk.fresh.mkMem

theorem Canon.barWrite {a : Nat} {bs : List Byte} (h : Canon all s) : Canon all (Machine.barWrite a bs s) := by
  unfold Machine.barWrite
  exact h.foldl (fun _ _ hs => hs.barLine)

theorem Canon.execHostBarAccess {bar : Bar} {op : BusOp} (h : Canon all st) : CanonOut all (Machine.execHostBarAccess bar op st) := by
  unfold Machine.execHostBarAccess
  refine h.event ?_
  split
  · split
    · exact h
    · trivial
  · split
    · exact h.barReg
    · trivial
  · split
    · exact h.notePoison
    · trivial
  · split
    · exact h.barWrite
    · trivial
  · split
    · exact h
    · trivial
  · split
    · trivial
    · exact h.taggedWrite

theorem Canon.noteOuter {a : Nat} (h : Canon all s) : Canon all (Machine.noteOuter a s) := by
  unfold Machine.noteOuter
  exact h.mk

theorem Canon.outerRead {a n : Nat} (h : Canon all s) : CanonOpt all (Machine.outerRead a n s) := by
  unfold Machine.outerRead
  split
  · trivial
  · split
    · exact h.agentAccess (fun _ hs => hs.noteOuter.notePoison)
    · exact h.agentAccess (fun _ hv => hv)
    · exact h

theorem Canon.outerWrite {a : Nat} {bs : List Byte} (h : Canon all s) : CanonOpt all (Machine.outerWrite a bs s) := by
  unfold Machine.outerWrite
  split
  · trivial
  · split
    · exact h.agentAccess (fun _ hs => hs.noteOuter.writeMem)
    · exact h.agentAccess (fun _ hs => hs.writeMem)
    · split
      · trivial
      · exact h.taggedWrite
    · exact h

theorem Canon.execCxlRequest {op : BusOp} (h : Canon all st) : CanonOut all (Machine.execCxlRequest op st) := by
  unfold Machine.execCxlRequest
  refine h.event ?_
  split
  · exact h.outerRead
  · split
    · trivial
    · exact h.outerWrite

theorem Canon.execNdeitLoad {addr len : Nat} (h : Canon all st) : CanonOut all (Machine.execNdeitLoad addr len st) := by
  unfold Machine.execNdeitLoad
  refine h.event ?_
  split
  · trivial
  · exact h.outerRead

theorem Canon.execNdeitStore {addr : Nat} {bytes : List Byte} (h : Canon all st) : CanonOut all (Machine.execNdeitStore addr bytes st) := by
  unfold Machine.execNdeitStore
  refine h.event ?_
  split
  · trivial
  · exact h.outerWrite

theorem Canon.outerUpdate {a size : Nat} {f : State → State} (h : Canon all s) (hf : ∀ s, Canon all s → Canon all (f s)) :
    CanonOpt all (Machine.outerUpdate a size f s) := by
  unfold Machine.outerUpdate
  split
  · trivial
  · split
    · exact h.agentAccess fun _ hs => hf _ hs.noteOuter
    · exact h.agentAccess hf
    · exact h

theorem Canon.execNdeitAtomic {op : BitVec 5} {addr size : Nat} {operand expected : BitVec 64} (h : Canon all st) :
    CanonOut all (Machine.execNdeitAtomic op addr size operand expected st) := by
  unfold Machine.execNdeitAtomic
  refine h.event ?_
  split
  · trivial
  · refine h.outerUpdate fun _ hs => ?_
    split
    · rename_i he
      exact hs.atomicUpdate.of_eq he
    · exact hs.notePoison

theorem Canon.execNdeitReduction {op : BitVec 5} {addr size : Nat} {operand : BitVec 64} (h : Canon all st) :
    CanonOut all (Machine.execNdeitReduction op addr size operand st) := by
  unfold Machine.execNdeitReduction
  refine h.event ?_
  split
  · trivial
  · split
    · trivial
    · exact h.outerUpdate (fun _ hs => hs.applyPartial)

theorem Canon.refetch {line : Nat} (h : Canon all s) : Canon all (Machine.refetch line s) := by
  unfold Machine.refetch
  exact h.mkMem.loseLinks.endMerges

theorem Canon.execNdeitCoherence {line : Nat} (h : Canon all st) : CanonOut all (Machine.execNdeitCoherence line st) := by
  unfold Machine.execNdeitCoherence
  refine h.event ?_
  split
  · exact h.agentAccess (fun _ hv => hv)
  · split
    · trivial
    · exact h.refetch

theorem Canon.execBackInvalidate {line : Nat} (h : Canon all st) : CanonOut all (Machine.execBackInvalidate line st) := by
  unfold Machine.execBackInvalidate
  refine h.event ?_
  split
  · exact h.refetch
  · trivial

theorem Canon.setPort {p : BitVec 4} {v : LinkPort} (h : Canon all s) : Canon all (Machine.setPort p v s) := by
  unfold Machine.setPort
  exact h.mk

theorem Canon.execFlitReplay {p : BitVec 4} (h : Canon all st) : CanonOut all (Machine.execFlitReplay p st) := by
  unfold Machine.execFlitReplay
  refine h.event ?_
  dsimp only
  split
  · trivial
  · exact h.setPort

theorem Canon.execLinkRetrain {p : BitVec 4} (h : Canon all st) : CanonOut all (Machine.execLinkRetrain p st) := by
  unfold Machine.execLinkRetrain
  refine h.event ?_
  dsimp only
  split
  · trivial
  · exact h.setPort

theorem Canon.execLinkRetrainDone {p : BitVec 4} {ok : Bool} (h : Canon all st) : CanonOut all (Machine.execLinkRetrainDone p ok st) := by
  unfold Machine.execLinkRetrainDone
  refine h.event ?_
  dsimp only
  split
  · trivial
  · split
    · exact h.setPort
    · exact h.setPort.errorRecord

theorem Canon.execLinkTrainingDone {p : BitVec 4} (h : Canon all st) : CanonOut all (Machine.execLinkTrainingDone p st) := by
  unfold Machine.execLinkTrainingDone
  refine h.event ?_
  dsimp only
  split
  · trivial
  · exact h.fresh.setPort

theorem Canon.failLine {l : Line} (h : Canon all s) : Canon all (Machine.failLine l s) := by
  unfold Machine.failLine
  exact h.mk

theorem Canon.engineError {u : TileId} (h : Canon all s) : Canon all (Machine.engineError u s) := by
  have hw : ∀ f ∈ (s.tile u).workers u, ∀ x s, Canon all s → Canon all (f x s) := by
    simp only [Tile.workers, List.forall_mem_append, List.forall_mem_map]
    exact ⟨⟨fun _ _ _ _ hs => hs.stopStream, fun _ _ _ _ hs => hs.stopJob⟩, fun _ _ _ _ hs => hs.stopArray⟩
  unfold Machine.engineError
  dsimp only
  split
  · rename_i he
    exact hw _ (List.mem_of_getElem? he) _ _ h.fresh.fresh
  · exact h.errorRecord

theorem Canon.strandError (h : Canon all s) : Canon all (Machine.strandError i s) := by
  unfold Machine.strandError
  dsimp only
  exact h.fresh.fresh.takeTrap.lone.ite h.fresh.fresh.addAsync

theorem Canon.execUncorrectableError {site : ErrorSite} (h : Canon all st) : CanonOut all (Machine.execUncorrectableError site st) := by
  unfold Machine.execUncorrectableError
  refine h.event ?_
  split
  · split
    · trivial
    · exact h.failLine
  · split
    · trivial
    · exact h.failLine
  · split
    · trivial
    · exact h.failLine
  · split
    · trivial
    · exact h.strandError
  · exact h.engineError
  · exact h.errorRecord

theorem Canon.inReset (h : Canon all s) : Canon all (Machine.inReset s) := by
  refine ⟨Mem.wf_filter _ h.1, fun _ => ⟨fun _ hp => (nomatch hp), fun q p hp => ?_⟩⟩
  simp only [Machine.inReset, State.quad, Vector.get_eq_getElem, Vector.getElem_map] at hp
  cases hp

theorem Canon.freshBytes {n : Nat} (h : Canon all s) : Canon all (Machine.freshBytes n s).2 := by
  unfold Machine.freshBytes
  exact h.mk

theorem Canon.drawKeys (h : Canon all s) : Canon all (Machine.drawKeys q s) := by
  unfold Machine.drawKeys
  split
  · rename_i he1
    split
    · rename_i he2
      exact ((h.freshBytes.of_pair he1).freshBytes.of_pair he2).modQuad (fun _ => rfl)

theorem Canon.readDevnum (h : Canon all s) : Canon all (Machine.readDevnum s) := by
  unfold Machine.readDevnum
  split
  · exact h
  · split
    · rename_i he
      exact (h.fresh.of_pair he).mk

theorem Canon.execRootOfTrustBoot (h : Canon all st) : CanonOut all (Machine.execRootOfTrustBoot st) := by
  unfold Machine.execRootOfTrustBoot
  refine h.event ?_
  split
  · trivial
  · dsimp only
    split
    · exact h.mk
    · exact Canon.mk (Canon.readDevnum (h.mk.foldl (fun _ _ hs => hs.drawKeys)))

theorem Canon.execSecondaryBusReset (h : Canon all st) : CanonOut all (Machine.execSecondaryBusReset st) := by
  unfold Machine.execSecondaryBusReset
  exact h.event h.inReset

theorem Canon.execMgmtReset {v : Byte} (h : Canon all st) : CanonOut all (Machine.execMgmtReset v st) := by
  unfold Machine.execMgmtReset
  exact h.event (h.inReset.ite h)

theorem Canon.execThermalShutdown (h : Canon all st) : CanonOut all (Machine.execThermalShutdown st) := by
  unfold Machine.execThermalShutdown
  exact h.event h.inReset

theorem Canon.execAttestReport {nonce : BitVec 512} (h : Canon all st) : CanonOut all (Machine.execAttestReport nonce st) := by
  unfold Machine.execAttestReport
  refine h.event ?_
  split
  · trivial
  · exact h.mk

theorem Canon.execAttestExtend {n : Nat} {digest : BitVec 512} (h : Canon all st) : CanonOut all (Machine.execAttestExtend n digest st) := by
  unfold Machine.execAttestExtend
  refine h.event ?_
  split
  · trivial
  · split
    · exact h.mk
    · exact h.mk

theorem Canon.execTileLowPowerEntry {t : TileId} (h : Canon all st) : CanonOut all (Machine.execTileLowPowerEntry t st) := by
  unfold Machine.execTileLowPowerEntry
  refine h.event ?_
  dsimp only
  split
  · trivial
  · exact h.setTile (fun ha => h.tileOk ha _)

/-! ### Scalar instructions, trace and vector issue -/

theorem Canon.alu {d s t : BitVec 5} {f : Word → Word → Word} (h : Canon all st) : CanonOut all (Machine.alu d s t st f) := by
  unfold Machine.alu
  exact h.issueX

theorem Canon.alu1 {d s : BitVec 5} {f : Word → Word} (h : Canon all st) : CanonOut all (Machine.alu1 d s st f) := by
  unfold Machine.alu1
  exact h.issueX

theorem Canon.fpu {F : FFmt} {d : BitVec 5} {reads : List (BitVec 5)} {f : RMode → Bool → Strand → Nat × Flags} (h : Canon all st) :
    CanonOut all (Machine.fpu F d reads st f) := by
  unfold Machine.fpu
  refine h.issue fun _ _ _ hs => ?_
  split
  · trivial
  · exact hs.modStrand

theorem Canon.fcompare {F : FFmt} {which : Nat} {d s t : BitVec 5} (h : Canon all st) : CanonOut all (Machine.fcompare F which d s t st) := by
  unfold Machine.fcompare
  refine h.issue fun _ _ _ hs => ?_
  split
  · trivial
  · exact hs.modStrand

theorem Canon.branch {len : Nat} {reads : List (BitVec 5)} {taken : Strand → Bool} {off : Addr} (h : Canon all st) :
    CanonOut all (Machine.branch st len reads taken off) := by
  unfold Machine.branch
  refine h.issue fun _ _ _ hs => ?_
  split
  · trivial
  · split
    · exact hs.setPc
    · exact hs

theorem Canon.jump {len : Nat} {d : BitVec 4} {off : Addr} (h : Canon all st) : CanonOut all (Machine.jump st len d off) := by
  unfold Machine.jump
  exact h.issue (fun _ _ _ hs => hs.modStrand)

theorem Canon.execJalr {d s : BitVec 4} {i : BitVec 14} (h : Canon all st) : CanonOut all (Machine.execJalr d s i st) := by
  unfold Machine.execJalr
  refine h.issue fun _ _ _ hs => ?_
  dsimp only
  split
  · trivial
  · exact hs.modStrand

theorem Canon.execFcvt {d s : BitVec 5} {a b : BitVec 4} {t : BitVec 5} (h : Canon all st) : CanonOut all (Machine.execFcvt d s a b t st) := by
  unfold Machine.execFcvt
  refine h.issue fun _ _ _ hs => ?_
  split
  · trivial
  · exact hs.modStrand

theorem Canon.execTmark {s : BitVec 5} (h : Canon all st) : CanonOut all (Machine.execTmark s st) := by
  unfold Machine.execTmark
  refine h.issue fun _ _ _ hs => ?_
  split
  · trivial
  · exact hs.traceStrand

theorem Canon.profile {d : BitVec 5} {reads : List (BitVec 5)} {f : Strand → Option (BitVec 3)} (h : Canon all st) :
    CanonOut all (Machine.profile d reads f st) := by
  unfold Machine.profile
  refine h.issue fun _ _ _ hs => ?_
  split
  · trivial
  · split
    · trivial
    · exact Canon.block (hs.modQuad (fun _ => rfl))

theorem Canon.wakeClock (h : Canon all s) : Canon all (Machine.wakeClock i s) := by
  unfold Machine.wakeClock
  split
  · exact h.unblock.setX
  · exact h

theorem Canon.execClockLockDone (h : Canon all st) : CanonOut all (Machine.execClockLockDone q st) := by
  unfold Machine.execClockLockDone
  refine h.event ?_
  split
  · trivial
  · dsimp only
    refine Canon.noteResync (Canon.traceClock (Canon.wakeClock (Canon.modQuad ?_ (fun _ => rfl))))
    split
    · exact h
    · exact h.fresh

theorem Canon.lowerClock (h : Canon all st) : Canon all (Machine.lowerClock q st) := by
  unfold Machine.lowerClock
  split
  · rename_i he
    exact Canon.noteResync (Canon.ite (Canon.errorRecord (Canon.bumpQuad (Canon.traceClock ((h.fresh.of_pair he).modQuad (fun _ => rfl)))))
      ((h.fresh.of_pair he).modQuad (fun _ => rfl)))

theorem Canon.execClockThrottle (h : Canon all st) : CanonOut all (Machine.execClockThrottle q st) := by
  unfold Machine.execClockThrottle
  exact h.event h.lowerClock

theorem Canon.execCurrentLimit (h : Canon all st) : CanonOut all (Machine.execCurrentLimit q st) := by
  unfold Machine.execCurrentLimit
  exact h.event h.lowerClock

theorem Canon.execBrkpt {d : BitVec 5} {s : BitVec 4} {t : BitVec 5} (h : Canon all st) : CanonOut all (Machine.execBrkpt d s t st) := by
  unfold Machine.execBrkpt
  refine h.issue fun _ _ _ hs => ?_
  split
  · trivial
  · exact hs.modStrand

theorem Canon.counter {n : Nat} (h : Canon all s) : Canon all (Machine.counter i n s).2 := by
  unfold Machine.counter
  dsimp only
  split
  · split
    · exact h
    · exact h.fresh
  · split
    · exact h
    · split
      · exact h
      · exact h

theorem Canon.execCntrd {d s : BitVec 5} (h : Canon all st) : CanonOut all (Machine.execCntrd d s st) := by
  unfold Machine.execCntrd
  refine h.issue fun _ _ _ hs => ?_
  split
  · trivial
  · dsimp only
    split
    · trivial
    · exact hs.counter.setX

theorem Canon.sampleCore {c : CoreId} {from' : Nat} (h : Canon all s) : Canon all (Machine.sampleCore c from' s).2 := by
  unfold Machine.sampleCore
  split
  · exact h
  · exact h.traceStrand

theorem Canon.execTraceSample (h : Canon all st) : CanonOut all (Machine.execTraceSample q st) := by
  unfold Machine.execTraceSample
  refine h.event ?_
  dsimp only
  split
  · trivial
  · show Canon all _
    refine Canon.modQuad ?_ (fun _ => rfl)
    split
    · exact Canon.sampleCore (h.foldl (fun _ _ hs => hs.ite (hs.sampleCore.modTile (fun _ hv => hv))))
    · exact h.foldl (fun _ _ hs => hs.ite (hs.sampleCore.modTile (fun _ hv => hv)))

theorem Canon.issueMask {op : MaskOp} {d s t : BitVec 3} (h : Canon all st) : CanonOut all (Machine.issueMask op d s t st) := by
  unfold Machine.issueMask
  exact h.issueV

theorem Canon.issueIntVV {op : VInt} {d s t : BitVec 5} {mk : Option (BitVec 3)} (h : Canon all st) :
    CanonOut all (Machine.issueIntVV op d s t mk st) := by
  unfold Machine.issueIntVV
  exact h.issueV

theorem Canon.issueIntVX {op : VInt} {d s x : BitVec 5} {mk : Option (BitVec 3)} (h : Canon all st) :
    CanonOut all (Machine.issueIntVX op d s x mk st) := by
  unfold Machine.issueIntVX
  exact h.issueV

theorem Canon.issueIntVI {op : VInt} {d s : BitVec 5} {c : VSrc} {mk : Option (BitVec 3)} (h : Canon all st) :
    CanonOut all (Machine.issueIntVI op d s c mk st) := by
  unfold Machine.issueIntVI
  exact h.issueV

theorem Canon.issueFpVV {op : VFp} {d s t : BitVec 5} {mk : Option (BitVec 3)} (h : Canon all st) :
    CanonOut all (Machine.issueFpVV op d s t mk st) := by
  unfold Machine.issueFpVV
  exact h.issueV

theorem Canon.issueFpVX {op : VFp} {d s x : BitVec 5} {mk : Option (BitVec 3)} (h : Canon all st) :
    CanonOut all (Machine.issueFpVX op d s x mk st) := by
  unfold Machine.issueFpVX
  exact h.issueV

theorem Canon.issueCmp {op : VCmp} {d : BitVec 3} {s t : BitVec 5} {mk : Option (BitVec 3)} (h : Canon all st) :
    CanonOut all (Machine.issueCmp op d s t mk st) := by
  unfold Machine.issueCmp
  exact h.issueV

theorem Canon.issueCvt {f : CvtForm} {d s t : BitVec 5} {mk : Option (BitVec 3)} {srcf dstf : BitVec 4} {rnd : BitVec 3} {sat : BitVec 1}
    (h : Canon all st) : CanonOut all (Machine.issueCvt f d s t mk srcf dstf rnd sat st) := by
  unfold Machine.issueCvt
  exact h.issueV

theorem Canon.issueLd {f : LdForm} {d : BitVec 5} {a : BitVec 4} {mk : Option (BitVec 3)} (h : Canon all st) :
    CanonOut all (Machine.issueLd f d a mk st) := by
  unfold Machine.issueLd
  exact h.issueV

theorem Canon.issueSt {f : StForm} {d : BitVec 5} {a : BitVec 4} {mk : Option (BitVec 3)} (h : Canon all st) :
    CanonOut all (Machine.issueSt f d a mk st) := by
  unfold Machine.issueSt
  exact h.issueV

theorem Canon.issueRed {k : RedKind} {d s o : BitVec 5} {mk : Option (BitVec 3)} (h : Canon all st) :
    CanonOut all (Machine.issueRed k d s o mk st) := by
  unfold Machine.issueRed
  exact h.issueV

theorem Canon.issueAmo {op : AmoOp} {d : BitVec 5} {a : BitVec 4} {i : BitVec 5} {mk : Option (BitVec 3)} (h : Canon all st) :
    CanonOut all (Machine.issueAmo op d a i mk st) := by
  unfold Machine.issueAmo
  exact h.issueV

theorem Canon.issueCamo {op : AmoOp} {d : BitVec 5} {a : BitVec 4} {i : BitVec 5} {mk : Option (BitVec 3)} (h : Canon all st) :
    CanonOut all (Machine.issueCamo op d a i mk st) := by
  unfold Machine.issueCamo
  exact h.issueV

theorem Canon.execVsc {d : BitVec 5} {a : BitVec 4} {i : BitVec 5} {m : BitVec 3} (h : Canon all st) : CanonOut all (Machine.execVsc d a i m st) := by
  unfold Machine.execVsc
  exact h.issueV

/-! ### Every instruction -/

theorem Canon.exec {i : Instr} (h : Canon all s) : CanonOut all (Machine.exec i s) := by
  unfold Machine.exec
  cases i with
  | add | sub | and | or | xor | sll | srl | sra | slt | sltu | min | max | minu | maxu | mul | mulh | mulhu | div | divu | rem | remu |
    add32 | sub32 => exact h.alu
  | clz | ctz | popc | sxb | sxh | sxw | zxw => exact h.alu1
  | addi | addiImm32 | andi | ori | xori | andiImm32 | oriImm32 | xoriImm32 | slli | srli | srai | lui | liw | liq | fclassS | fclassD |
    adiff | atox => exact h.issueX
  | faddS | fsubS | fmulS | fdivS | fsqrtS | fminS | fmaxS | fmaS | fnmaS | faddD | fsubD | fmulD | fdivD | fsqrtD | fminD | fmaxD | fmaD |
    fnmaD => exact h.fpu
  | feqS | fltS | fleS | feqD | fltD | fleD => exact h.fcompare
  | fcvt => exact h.execFcvt
  | aadd | asub | amov | afromx | aaddi | aaddiImm32 | ahi => exact h.issueA
  | beq | bne | blt | bge | bltu | bgeu | baeq | bane | baltu | bageu | beqOff32 | bneOff32 | bltOff32 | bgeOff32 | bltuOff32 | bgeuOff32 |
    baeqOff32 | baneOff32 | baltuOff32 | bageuOff32 => exact h.branch
  | jal | jalOff32 => exact h.jump
  | jalr => exact h.execJalr
  | lb | lbu | lh | lhu | lw | lwu | ld | lbQ32 | lbuQ32 | lhQ32 | lhuQ32 | lwQ32 | lwuQ32 | ldQ32 => exact h.load
  | sb | sh | sw | sd | sbQ32 | shQ32 | swQ32 | sdQ32 => exact h.store
  | yield => exact h.execYield
  | waitline => exact h.execWaitline
  | forkl => exact h.execForkl
  | joinl => exact h.execJoinl
  | exit => exact h.execExit
  | sysrd | syswr | sysset | sysclr | sysxch => exact h.sysAccess
  | scall => exact h.execScall
  | tret => exact h.execTret
  | tlbiva | tlbias | tlbiall => exact h.invalidate
  | leave => exact h.execLeave
  | vsetl => exact h.execVsetl
  | vsetcfg => exact h.execVsetcfg
  | vpart => exact h.execVpart
  | sbr => exact h.execSbr
  | mand | mor | mxor | mandn | mnot | mset | mclr => exact h.issueMask
  | mpopc | mfirst | vmerge | vmv | vid | vsplat | vext | vdot4 | vdot8 | vbsapply | vsrseed | vlds | vldz | vsts | vstz | vpf | vperm |
    vcomp | vexpd | vfilt | vtopk | vslideup | vslidedn | vgl => exact h.issueV
  | vaddVV | vsubVV | vandVV | vorVV | vxorVV | vsllVV | vsrlVV | vsraVV | vminVV | vmaxVV | vminuVV | vmaxuVV | vmulVV | vmulhVV | vmulhuVV |
    vdivVV | vdivuVV | vremVV | vremuVV | vsaddVV | vsadduVV | vssubVV | vssubuVV => exact h.issueIntVV
  | vabs | vneg | vaddVI | vsubVI | vandVI | vorVI | vxorVI | vsllVI | vsrlVI | vsraVI | vminVI | vmaxVI | vminuVI | vmaxuVI | vsaddVI |
    vsadduVI | vssubVI | vssubuVI => exact h.issueIntVI
  | vaddVX | vsubVX | vandVX | vorVX | vxorVX | vsllVX | vsrlVX | vsraVX | vminVX | vmaxVX | vminuVX | vmaxuVX | vmulVX | vmulhVX | vmulhuVX |
    vdivVX | vdivuVX | vremVX | vremuVX | vsaddVX | vsadduVX | vssubVX | vssubuVX => exact h.issueIntVX
  | vfaddVV | vfsubVV | vfmulVV | vfdivVV | vfminVV | vfmaxVV | vfmaVV | vfmsVV | vfnmaVV | vfsqrt | vfrece | vfrsqe | vfabs | vfneg |
    vfsgnj => exact h.issueFpVV
  | vfaddVX | vfsubVX | vfmulVX | vfdivVX | vfminVX | vfmaxVX | vfmaVX | vfmsVX | vfnmaVX => exact h.issueFpVX
  | vcmpeq | vcmpne | vcmplt | vcmple | vcmpltu | vcmpleu | vfcmpeq | vfcmplt | vfcmple | vfcmpun => exact h.issueCmp
  | vcvt | vcvtW | vcvtN | vcvtSC => exact h.issueCvt
  | vld | vldFE | vldFC | vldx | vldff | vldseg => exact h.issueLd
  | vst | vstx | vstxo | vstseg => exact h.issueSt
  | vred | vscan | vscanx => exact h.issueRed
  | binr => exact h.execBinr
  | challoc => exact h.execChalloc
  | chpool => exact h.execChpool
  | strmLd | strmLdFab | strmSt => exact h.oneRecord
  | strmCp => exact h.execStrmCp
  | strmGx => exact h.execStrmGx
  | strmPost => exact h.execStrmPost
  | strmWait => exact h.execStrmWait
  | strmMark => exact h.execStrmMark
  | tqdecl => exact h.execTqdecl
  | tqld => exact h.execTqld
  | tqpop => exact h.execTqpop
  | vaadd | vaand | vaor | vaxor | vamin | vamax | vaminu | vamaxu | vafadd | vaswap | vacas => exact h.issueAmo
  | vcadd | vcand | vcor | vcxor | vcmin | vcmax | vcminu | vcmaxu | vcfadd => exact h.issueCamo
  | vsc => exact h.execVsc
  | amadd | amand | amor | amxor | ammin | ammax | amminu | ammaxu | amswap | amcas | amaddW | amandW | amorW | amxorW | amminW | ammaxW |
    amminuW | ammaxuW | amswapW | amcasW | amaddQ32 | amandQ32 | amorQ32 | amxorQ32 | amminQ32 | ammaxQ32 | amminuQ32 | ammaxuQ32 | amswapQ32 |
    amcasQ32 | amaddWQ32 | amandWQ32 | amorWQ32 | amxorWQ32 | amminWQ32 | ammaxWQ32 | amminuWQ32 | ammaxuWQ32 | amswapWQ32 |
    amcasWQ32 => exact h.atomic
  | fenceSV | fenceVV => exact h.queueFence
  | fenceVS => exact h.execFenceVS
  | fence => exact h.execFence
  | bara => exact h.execBara
  | barw => exact h.execBarw
  | cflush | cinv | cclean | czero => exact h.cacheLine
  | cpf => exact h.execCpf
  | isync => exact h.execIsync
  | mmode => exact h.execMmode
  | qclaim => exact h.execQclaim
  | qrel => exact h.execQrel
  | qacc => exact h.execQacc
  | bsset => exact h.execBsset
  | qstage => exact h.execQstage
  | qchain => exact h.execQchain
  | mgemm => exact h.execMgemm
  | qdrain => exact h.execQdrain
  | cfgLoad => exact h.execCfgLoad
  | cfgCheck => exact h.execCfgCheck
  | cfgSel => exact h.execCfgSel
  | cfgMark => exact h.execCfgMark
  | cfgSave => exact h.execCfgSave
  | cfgRest => exact h.execCfgRest
  | cfgGuard => exact h.execCfgGuard
  | cfgBind => exact h.execCfgBind
  | cfgWr => exact h.execCfgWr
  | launch => exact h.execLaunch
  | lstat => exact h.execLstat
  | tmark => exact h.execTmark
  | profLock | profUnlock => exact h.profile
  | brkpt => exact h.execBrkpt
  | cntrd => exact h.execCntrd
  | elemNop | elemAdd | elemSub | elemMul | elemAnd | elemOr | elemXor | elemMin | elemMax | elemMinu | elemMaxu | elemFadd | elemFsub |
    elemFmul | elemFmin | elemFmax | elemDot4 | elemAddl | elemMull | elemAndl | elemShl | elemShr | elemSar | elemFma | elemMac | elemCmpeq |
    elemCmplt | elemCmpltu | elemFcmplt | elemFcmpeq | elemSetp | elemClrp | elemMovp | elemMov | elemLit | elemSel | elemDrop | elemLdt |
    elemStt | elemCtx | elemHalt | elemAbs | elemPopc | elemSteer => exact h.fireElem
  | elemCnt => exact h.execElemCnt
  | nohandlerFreeze => exact h.execNohandlerFreeze
  | predicateWriteResolve => exact h.execPredicateWriteResolve
  | elementResultWrite => exact h.execElementResultWrite
  | tokenDelivery => exact h.execTokenDelivery
  | edgeQueueForward => exact h.execEdgeQueueForward
  | waveOperationPerform => exact h.execWaveOperationPerform
  | elementContextSwitch => exact h.execElementContextSwitch
  | elementSnapshot => exact h.execElementSnapshot
  | markerTimeout => exact h.execMarkerTimeout
  | streamOutTake => exact h.execStreamOutTake
  | cfgCheckDone => exact h.execCfgCheckDone
  | cfgLoadDone => exact h.execCfgLoadDone
  | cfgSaveDone => exact h.execCfgSaveDone
  | cfgRestDone => exact h.execCfgRestDone
  | asyncTrap => exact h.execAsyncTrap
  | scalarAccessComplete => exact h.execScalarAccessComplete
  | storeQueueDrain => exact h.execStoreQueueDrain
  | fullemptyWake => exact h.execFullemptyWake
  | waitlineWake => exact h.execWaitlineWake
  | barwWake => exact h.execBarwWake
  | joinlWake => exact h.execJoinlWake
  | slotFree => exact h.execSlotFree
  | pageWalk => exact h.execPageWalk
  | tlbInvalidateComplete => exact h.execTlbInvalidateComplete
  | reservationWaitProceed => exact h.execReservationWaitProceed
  | vectorInstructionStart => exact h.execVectorInstructionStart
  | elementGroup => exact h.execElementGroup
  | vldFeGroupProceed => exact h.execVldFeGroupProceed
  | vpartEffect => exact h.execVpartEffect
  | forklAct => exact h.execForklAct
  | joinlAct => exact h.execJoinlAct
  | sectorComplete => exact h.execSectorComplete
  | streamFault => exact h.execStreamFault
  | strmWaitWake => exact h.execStrmWaitWake
  | tqpopWake => exact h.execTqpopWake
  | bufferDrained => exact h.execBufferDrained
  | riddleBatch => exact h.execRiddleBatch
  | matrixStart => exact h.execMatrixStart
  | rowFire => exact h.execRowFire
  | rowRelease => exact h.execRowRelease
  | matrixComplete => exact h.execMatrixComplete
  | qclaimFillDone => exact h.execQclaimFillDone
  | qrelEffect => exact h.execQrelEffect
  | qdrainWake => exact h.execQdrainWake
  | leaveGrant => exact h.execLeaveGrant
  | leaveRevoke => exact h.execLeaveRevoke
  | matrixEntry => exact h.execMatrixEntry
  | matrixExit => exact h.execMatrixExit
  | readinessRead => exact h.execReadinessRead
  | claimBegin => exact h.execClaimBegin
  | teamPlace => exact h.execTeamPlace
  | teamFirstIssue => exact h.execTeamFirstIssue
  | teamEnd => exact h.execTeamEnd
  | tileClearDone => exact h.execTileClearDone
  | launchSignal => exact h.execLaunchSignal
  | preemptDecision => exact h.execPreemptDecision
  | swapOutSave => exact h.execSwapOutSave
  | teamRestore => exact h.execTeamRestore
  | lineInstall => exact h.execLineInstall
  | taggedWrite => exact h.execTaggedWrite
  | hostBarAccess => exact h.execHostBarAccess
  | cxlRequest => exact h.execCxlRequest
  | ndeitLoad => exact h.execNdeitLoad
  | ndeitStore => exact h.execNdeitStore
  | ndeitAtomic => exact h.execNdeitAtomic
  | ndeitReduction => exact h.execNdeitReduction
  | ndeitCoherence => exact h.execNdeitCoherence
  | flitReplay => exact h.execFlitReplay
  | linkRetrain => exact h.execLinkRetrain
  | linkRetrainDone => exact h.execLinkRetrainDone
  | uncorrectableError => exact h.execUncorrectableError
  | rootOfTrustBoot => exact h.execRootOfTrustBoot
  | secondaryBusReset => exact h.execSecondaryBusReset
  | mgmtReset => exact h.execMgmtReset
  | thermalShutdown => exact h.execThermalShutdown
  | clockThrottle => exact h.execClockThrottle
  | clockLockDone => exact h.execClockLockDone
  | tileLowPowerEntry => exact h.execTileLowPowerEntry
  | lattolWrite => exact h.execLattolWrite
  | ctxcurWrite => exact h.execCtxcurWrite
  | registerWrite => exact h.execRegisterWrite
  | fkeyInstall => exact h.execFkeyInstall
  | fkeyClear => exact h.execFkeyClear
  | fkeyCommandDone => exact h.execFkeyCommandDone
  | cpLoad | cpCheck | cpClear => exact h.portCommand
  | cpCommandDone => exact h.execCpCommandDone
  | debugGo => exact h.execDebugGo
  | breakpointStop => exact h.execBreakpointStop
  | traceSample => exact h.execTraceSample
  | attestReport => exact h.execAttestReport
  | attestExtend => exact h.execAttestExtend
  | fetchTrap => exact h.execFetchTrap
  | instructionCacheFill => exact h.execInstructionCacheFill
  | fabricIllegal => exact h.execFabricIllegal
  | backInvalidate => exact h.execBackInvalidate
  | currentLimit => exact h.execCurrentLimit
  | linkTrainingDone => exact h.execLinkTrainingDone

/-! ### Time, the events and the step -/


theorem Canon.tick {dt : Nat} {late : Bool} (h : Canon all s) : Canon all (Machine.tick dt late s) := by
  unfold Machine.tick
  dsimp only
  refine Canon.mapTiles ?_ fun p hp => ?_
  · exact h.ite h.flushTrace.flushTrace.flushTrace.flushTrace
  · dsimp only
    split <;> exact hp

/-! ### The events of the default order -/

theorem CanonActs.upTo {n : Nat} {f : Nat → State → Out} (hf : ∀ k s, Canon all s → CanonOut all (f k s)) : CanonActs all (Machine.upTo n f) :=
  .map hf

theorem CanonActs.strandEvents {t : Strand} : CanonActs all (Machine.strandEvents i t) := by
  unfold Machine.strandEvents
  refine .append (.append (.append (.append (.append (.append ?_ ?_) ?_) ?_) ?_) ?_) ?_
  · exact .upTo fun _ _ h => h.execScalarAccessComplete
  · exact .upTo fun _ _ h => h.execStoreQueueDrain
  · exact .upTo fun _ _ h => h.execElementGroup
  · exact .upTo fun _ _ h => h.execVectorInstructionStart
  · exact .cons (fun _ h => h.execForklAct) <| .cons (fun _ h => h.execJoinlAct) .nil
  · split
    · exact .upTo fun _ _ h => h.execBufferDrained
    · exact .nil
  · split
    · exact .cons (fun _ h => h.execFullemptyWake) <| .cons (fun _ h => h.execWaitlineWake) <| .cons (fun _ h => h.execBarwWake) <|
        .cons (fun _ h => h.execJoinlWake) <| .cons (fun _ h => h.execTlbInvalidateComplete) <| .cons (fun _ h => h.execStrmWaitWake) <|
        .cons (fun _ h => h.execTqpopWake) <| .cons (fun _ h => h.execQdrainWake) <| .cons (fun _ h => h.execCfgCheckDone) <|
        .cons (fun _ h => h.execCfgLoadDone) <| .cons (fun _ h => h.execCfgSaveDone) <| .cons (fun _ h => h.execCfgRestDone) .nil
    · exact .cons (fun _ h => h.execSlotFree) .nil
    · exact .cons (fun _ h => h.execBreakpointStop) .nil
    · exact .nil

theorem CanonActs.fabricEvents {t : TileId} {f : Fabric} : CanonActs all (Machine.fabricEvents t f) := by
  unfold Machine.fabricEvents
  refine .append (.append (.append (.append (.append (.flatMap fun _ => ?_) ?_) ?_) ?_) ?_) ?_
  · exact .cons (fun _ h => h.execPredicateWriteResolve) <| .append (.upTo fun _ _ h => h.execElementResultWrite) <|
      .cons (fun _ h => h.execElementContextSwitch) <| .cons (fun _ h => h.execElementSnapshot) .nil
  · exact .upTo fun _ _ h => h.execTokenDelivery
  · exact .upTo fun _ _ h => h.execEdgeQueueForward
  · exact .upTo fun _ _ h => h.execWaveOperationPerform
  · exact .upTo fun _ _ h => h.execStreamOutTake
  · exact .cons (fun _ h => h.execMarkerTimeout) .nil

theorem CanonActs.tileEvents {t : TileId} {v : Tile} : CanonActs all (Machine.tileEvents t v) := by
  unfold Machine.tileEvents
  refine .append (.append (.append (.append (.append (.append (.append ?_ (.flatMap fun _ => ?_)) ?_) ?_) ?_) ?_) ?_) ?_
  · exact .cons (fun _ h => h.execVpartEffect) .nil
  · exact .append (.upTo fun _ _ h => h.execSectorComplete) <| .cons (fun _ h => h.execStreamFault) .nil
  · exact .map fun _ _ h => h.execRiddleBatch
  · exact .map fun _ _ h => h.execRowRelease
  · exact .cons (fun _ h => h.execMatrixStart) <| .cons (fun _ h => h.execRowFire) <| .cons (fun _ h => h.execMatrixComplete) <|
      .cons (fun _ h => h.execQrelEffect) .nil
  · exact .upTo fun _ _ h => h.execQclaimFillDone
  · exact .cons (fun _ h => h.execMatrixEntry) <| .cons (fun _ h => h.execMatrixExit) <| .cons (fun _ h => h.execLeaveGrant) <|
      .cons (fun _ h => h.execCpCommandDone) <| .cons (fun _ h => h.execTileClearDone) .nil
  · exact .ite .nil .fabricEvents

theorem CanonActs.teamEvents {n k : Nat} {tm : Team} : CanonActs all (Machine.teamEvents q n k tm) := by
  have hw : CanonActs all [execClaimBegin q n k, execPreemptDecision q n k] :=
    .cons (fun _ h => h.execClaimBegin) <| .cons (fun _ h => h.execPreemptDecision) .nil
  unfold Machine.teamEvents
  split
  · exact .append (.map fun _ _ h => h.execTeamPlace) hw
  · exact .append (.map fun _ _ h => h.execTeamRestore) hw
  · exact .cons (fun _ h => h.execTeamEnd) <| .cons (fun _ h => h.execTeamFirstIssue) .nil
  · exact .cons (fun _ h => h.execSwapOutSave) .nil
  · exact .nil

theorem CanonActs.quadEvents {v : Quad} : CanonActs all (Machine.quadEvents q v) := by
  unfold Machine.quadEvents
  refine .append ?_ (.flatMap fun p => ?_)
  · exact .cons (fun _ h => h.execClockLockDone) <| .cons (fun _ h => h.execFkeyCommandDone) <| .cons (fun _ h => h.execTraceSample) .nil
  · dsimp only
    split
    · exact .nil
    · refine .append (.append (.upTo fun _ _ h => h.execReadinessRead) fun f hf => ?_) (.cons (fun _ h => h.execLaunchSignal) .nil)
      obtain ⟨l, hl, hf⟩ := List.mem_flatten.mp hf
      obtain ⟨k, hk, rfl⟩ := List.mem_mapIdx.mp hl
      exact CanonActs.teamEvents f hf

theorem CanonActs.events {u : State} : CanonActs all u.events :=
  .append (.append (.flatMap fun _ => .strandEvents) (.flatMap fun _ => .tileEvents)) (.flatMap fun _ => .quadEvents)

theorem Canon.firstActs {l : List (State → Out)} (h : Canon all s) (hl : CanonActs all l) : CanonOpt all (Machine.firstActs l s) := by
  induction l with
  | nil => trivial
  | cons f r ih =>
    obtain ⟨hf, hr⟩ := List.forall_mem_cons.mp hl
    unfold Machine.firstActs
    split
    · rename_i he
      split
      · exact ih hr
      · exact (hf s h).of_eq he
    · exact ih hr

/-! ### Issue -/

theorem Canon.strandIssue (h : Canon all s) : CanonOut all (Machine.strandIssue i s) := by
  unfold Machine.strandIssue
  dsimp only
  split
  · exact Canon.execAsyncTrap h.mk
  · split
    · exact Canon.wait h.mk
    · split
      · rename_i hf
        exact ((Canon.fetchInstr h.mk).of_eq hf).exec
      · exact Canon.wait h.mk
      · exact (Canon.noteFetchTrap h.mk).execFetchTrap

theorem Canon.readyStrands {c : CoreId} {held : BitVec 8} (h : Canon all s) : ∀ a ∈ Machine.readyStrands c held s, Canon all a.2 := by
  intro a ha
  obtain ⟨i, -, hi⟩ := List.mem_filterMap.mp ha
  split at hi
  · cases hi
  · split at hi
    · rename_i hn
      split at hi
      · cases hi
      · cases hi
        exact h.strandIssue.of_eq hn
    · cases hi

theorem Canon.countWaits {c : CoreId} {ready : List StrandId} {b : State} (h : Canon all s) : Canon all (Machine.countWaits c ready i b s) :=
  h.foldl fun _ _ hs => hs.ite hs.modStrand

theorem Canon.runIssue {c : CoreId} {held : BitVec 8} (h : Canon all s) : CanonOut all (Machine.runIssue c held s) := by
  unfold Machine.runIssue
  split
  · exact h.wait
  · dsimp only
    split
    · exact h.wait
    · rename_i hp
      exact (h.readyStrands _ (mem_of_pickSlot hp)).countWaits

theorem Canon.runFire {e : ElemId} (h : Canon all s) : CanonOut all (Machine.runFire e s) := by
  unfold Machine.runFire
  dsimp only
  split
  · exact Canon.execNohandlerFreeze h.mk
  · split
    · exact Canon.exec h.mk
    · exact Canon.execFabricIllegal h.mk

theorem Canon.runEvent {n : Instr} (h : Canon all s) : CanonOut all (Machine.runEvent n s) := by
  unfold Machine.runEvent
  split
  · exact h.wait
  · split
    · exact h.noteFetchTrap.execFetchTrap
    · exact h.exec

theorem Canon.runAct {a : Act} (h : Canon all s) : CanonOut all (Machine.runAct a s) := by
  cases a with
  | issue c held => exact h.runIssue
  | fire e => exact h.runFire
  | event n => exact h.runEvent

/-! ### The step -/

theorem Canon.defaultIssue (h : Canon all s) : CanonOpt all (Machine.defaultIssue s) := h.firstActs (.map fun _ _ hs => hs.runIssue)

theorem Canon.defaultFire (h : Canon all s) : CanonOpt all (Machine.defaultFire s) := h.firstActs (.map fun _ _ hs => hs.runFire)

theorem Canon.defaultEvent (h : Canon all s) : CanonOpt all (Machine.defaultEvent s) := h.firstActs .events

theorem CanonOpt.orElse {a b : Option State} (ha : CanonOpt all a) (hb : CanonOpt all b) : CanonOpt all (a.orElse fun _ => b) := by
  cases a with
  | none => exact hb
  | some u => exact ha

theorem Canon.defaultAct (h : Canon all s) : CanonOut all (Machine.defaultAct s) := by
  unfold Machine.defaultAct
  split
  · rename_i hi
    exact (Canon.defaultIssue h.mk).of_eq hi
  · have hu : Canon all (Machine.tick (if s.idle then 64 else 1) false s) := h.tick
    dsimp only
    generalize Machine.tick (if s.idle then 64 else 1) false s = u at hu ⊢
    split
    · rename_i he
      refine CanonOpt.of_eq ?_ he
      split
      · exact hu.defaultEvent.orElse hu.defaultFire
      · exact hu.defaultFire.orElse hu.defaultEvent
    · exact hu.wait

theorem Canon.step (h : Canon all s) : CanonOut all (Machine.step s) := by
  unfold Machine.step Machine.nextAct
  split
  · exact Canon.runAct (Canon.mk h.tick)
  · exact h.defaultAct

end

/-- Settles O54: the canonical form, of memory alone and of every byte storage, is one predicate that each function of the model keeps. -/
theorem memoryKeepsItsCanonicalForm : Obligations.MemoryKeepsItsCanonicalForm := by
  unfold Obligations.MemoryKeepsItsCanonicalForm
  refine ⟨fun s s' hm e => ?_, fun s s' hs hi e => ?_⟩
  · have h : Canon false s := ⟨hm, nofun⟩
    exact (h.step.of_eq e).1
  · have h : Canon true s := ⟨hs.1, fun _ => ⟨hs.2, hi⟩⟩
    obtain ⟨hmem, hrest⟩ := h.step.of_eq e
    obtain ⟨htiles, himages⟩ := hrest rfl
    exact ⟨⟨hmem, htiles⟩, himages⟩

end Sys2Proof.Machine
end

section
/-! PROOF. The plain system registers: a read after a store gives the value stored (R384, R385). -/

namespace Sys2Proof.Machine

open Sys2Proof

section
variable {s : State} {i : StrandId} {n : Nat} {v w : Word}

/-- A read of a register after a store gives the value stored, and the store changes no x register, no memory and no other strand. -/
def ReadsBack (s : State) (i : StrandId) (n : Nat) (v w : Word) : Prop :=
  (sysRead i n (sysStore i n v w s)).1 = v ∧ (sysStore i n v w s).mem = s.mem ∧
  (∀ r, (sysStore i n v w s).xr i r = s.xr i r) ∧ ∀ j, j ≠ i → (sysStore i n v w s).strand j = s.strand j

/-- A register that is read from a strand's state reads back what an update of that state stores. -/
theorem readsBack_strand (g : Strand → Word) (f : Strand → Strand) (hs : sysStore i n v w s = s.modStrand i f)
    (hr : ∀ t, (sysRead i n t).1 = g (t.strand i)) (hg : ∀ t, g (f t) = v) (hx : ∀ t, (f t).x = t.x) : ReadsBack s i n v w := by
  unfold ReadsBack
  rw [hr, hs, State.strand_modStrand_self]
  refine ⟨hg _, rfl, fun r => ?_, fun j hj => s.strand_modStrand_ne f hj⟩
  simp only [State.xr, State.strand_modStrand_self, Strand.xr, hx]

/-- A register that is read from the state of the strand's quadrant reads back what an update of that state stores. -/
theorem readsBack_quad (g : Quad → Word) (f : Quad → Quad) (hs : sysStore i n v w s = s.modQuad (coreQuad i.core) f)
    (hr : ∀ t, (sysRead i n t).1 = g (t.quad (coreQuad i.core))) (hg : ∀ d, g (f d) = v) : ReadsBack s i n v w := by
  unfold ReadsBack
  rw [hr, hs, State.quad_modQuad_self]
  exact ⟨hg _, rfl, fun _ => rfl, fun _ _ => rfl⟩

theorem sysStore_bs (hlo : 0x200 ≤ n) (hhi : n ≤ 0x20F) :
    sysStore i n v w s = s.modStrand i fun t => { t with bs := t.bs.set (bsIndex n) v } := by
  have h : (decide (0x200 ≤ n) && decide (n ≤ 0x20F)) = true := by simp [hlo, hhi]
  simp (disch := omega) only [sysStore, if_neg, h, if_true]

theorem sysRead_bs (hlo : 0x200 ≤ n) (hhi : n ≤ 0x20F) : (sysRead i n s).1 = (s.strand i).bs.get (bsIndex n) := by
  have h : ¬ (decide (n = 0x101) || decide (n = 0x102) || decide (n = 0x103)) = true := by
    simp only [Bool.or_eq_true, decide_eq_true_eq]; omega
  simp (disch := omega) only [sysRead, if_neg h, if_neg, if_pos]

theorem sysStore_st {k : Nat} (hk : k < 8) :
    sysStore i (0x1000 + k) v w s = s.modStrand i fun t => { t with st := t.st.write 1 k v } := by
  have h : ¬ (decide (0x200 ≤ 0x1000 + k) && decide (0x1000 + k ≤ 0x20F)) = true := by simp only [Bool.and_eq_true, decide_eq_true_eq]; omega
  simp (disch := omega) only [sysStore, if_neg h, if_neg, if_pos, Nat.add_sub_cancel_left]

theorem sysRead_st {k : Nat} (hk : k < 8) : (sysRead i (0x1000 + k) s).1 = (s.strand i).st.read (s.strand i).level k := by
  have h : ¬ (decide (0x1000 + k = 0x101) || decide (0x1000 + k = 0x102) || decide (0x1000 + k = 0x103)) = true := by
    simp only [Bool.or_eq_true, decide_eq_true_eq]; omega
  simp (disch := omega) only [sysRead, if_neg h, if_neg, if_pos, Nat.add_sub_cancel_left]

theorem sysStore_mt {k : Nat} (hk : k < 8) :
    sysStore i (0x4000 + k) v w s = s.modStrand i fun t => { t with mt := t.mt.write 2 k v } := by
  have h : ¬ (decide (0x200 ≤ 0x4000 + k) && decide (0x4000 + k ≤ 0x20F)) = true := by simp only [Bool.and_eq_true, decide_eq_true_eq]; omega
  simp (disch := omega) only [sysStore, if_neg h, if_neg, if_pos, Nat.add_sub_cancel_left]

theorem sysRead_mt {k : Nat} (hk : k < 8) : (sysRead i (0x4000 + k) s).1 = (s.strand i).mt.read (s.strand i).level k := by
  have h : ¬ (decide (0x4000 + k = 0x101) || decide (0x4000 + k = 0x102) || decide (0x4000 + k = 0x103)) = true := by
    simp only [Bool.or_eq_true, decide_eq_true_eq]; omega
  simp (disch := omega) only [sysRead, if_neg h, if_neg, if_pos, Nat.add_sub_cancel_left]

theorem TrapRegs.read_write (r : TrapRegs) (p : Nat) (l : Level) {k : Nat} (h : k ≠ 0) : (r.write p k v).read l k = v := by
  match k with
  | 0 => exact absurd rfl h
  | 1 | 2 | 3 | 4 | 5 | 6 | _ + 7 => rfl

theorem setWidth_of_within {k : Nat} (h : v &&& ~~~ BitVec.ofNat 64 (2 ^ k - 1) = 0) : (v.setWidth k).setWidth 64 = v := by
  refine BitVec.eq_of_getLsbD_eq fun j hj => ?_
  have hb : (v &&& ~~~ BitVec.ofNat 64 (2 ^ k - 1)).getLsbD j = false := h ▸ BitVec.getLsbD_zero
  simp only [BitVec.getLsbD_and, BitVec.getLsbD_not, BitVec.getLsbD_ofNat, Nat.testBit_two_pow_sub_one, hj, decide_true, Bool.true_and] at hb
  simp only [BitVec.getLsbD_setWidth, hj, decide_true, Bool.true_and]
  by_cases hk : j < k
  · simp [hk]
  · simpa [hk] using hb.symm

end

/-- Settles O16: the store of a plain register is one update of a strand or a quadrant, and the read finds the field that it wrote. -/
theorem systemRegistersReadBackTheirFields : Obligations.SystemRegistersReadBackTheirFields := by
  unfold Obligations.SystemRegistersReadBackTheirFields
  intro s i n v w hv hn
  show ReadsBack s i n v w
  rcases hn with rfl | rfl | ⟨hlo, hhi⟩ | ⟨hlo, hhi⟩ | rfl | rfl | ⟨hlo, hhi⟩ | ⟨hlo, hhi⟩ | rfl
  · exact readsBack_strand (·.vstart.setWidth 64) (fun t => { t with vstart := v.setWidth 12 }) rfl (fun _ => rfl) (fun _ => setWidth_of_within hv)
      fun _ => rfl
  · exact readsBack_strand (·.ffstat) (fun t => { t with ffstat := v }) rfl (fun _ => rfl) (fun _ => rfl) fun _ => rfl
  · exact readsBack_strand (·.bs.get (bsIndex n)) _ (sysStore_bs hlo hhi) (fun _ => sysRead_bs hlo hhi)
      (fun _ => by rw [vget_set, if_pos rfl]) fun _ => rfl
  · obtain hhi | rfl : n < 0x1008 ∨ n = 0x1008 := by omega
    · obtain ⟨k, rfl⟩ := Nat.exists_eq_add_of_le (Nat.le_of_succ_le hlo)
      exact readsBack_strand (fun t => t.st.read t.level k) _ (sysStore_st (by omega)) (fun _ => sysRead_st (by omega))
        (fun t => t.st.read_write _ _ (by omega)) fun _ => rfl
    · exact readsBack_quad (·.tvec) (fun d => { d with tvec := v }) rfl (fun _ => rfl) fun _ => rfl
  · exact readsBack_quad (·.ctxbase) (fun d => { d with ctxbase := v }) rfl (fun _ => rfl) fun _ => rfl
  · exact readsBack_quad (·.ctxcnt) (fun d => { d with ctxcnt := v }) rfl (fun _ => rfl) fun _ => rfl
  · obtain rfl | rfl | rfl | rfl : n = 0x1028 ∨ n = 0x1029 ∨ n = 0x102A ∨ n = 0x102B := by omega
    · exact readsBack_quad (·.errbase) (fun d => { d with errbase := v }) rfl (fun _ => rfl) fun _ => rfl
    · exact readsBack_quad (·.errsize) (fun d => { d with errsize := v }) rfl (fun _ => rfl) fun _ => rfl
    · exact readsBack_quad (·.grbase) (fun d => { d with grbase := v }) rfl (fun _ => rfl) fun _ => rfl
    · exact readsBack_quad (·.grsize) (fun d => { d with grsize := v }) rfl (fun _ => rfl) fun _ => rfl
  · obtain hhi | rfl : n < 0x4008 ∨ n = 0x4008 := by omega
    · obtain ⟨k, rfl⟩ := Nat.exists_eq_add_of_le (Nat.le_of_succ_le hlo)
      exact readsBack_strand (fun t => t.mt.read t.level k) _ (sysStore_mt (by omega)) (fun _ => sysRead_mt (by omega))
        (fun t => t.mt.read_write _ _ (by omega)) fun _ => rfl
    · exact readsBack_quad (·.mtvec) (fun d => { d with mtvec := v }) rfl (fun _ => rfl) fun _ => rfl
  · exact readsBack_quad (·.fkeyaddr) (fun d => { d with fkeyaddr := v }) rfl (fun _ => rfl) fun _ => rfl

end Sys2Proof.Machine
end

section
/-! PROOF. A strand's trap entry: what stops, what the record holds, which registers stay (R136, R386, R387). -/

namespace Sys2Proof.Machine

open Sys2Proof

/-! ### What records, partials and the issue slot leave of a quadrant (R386, R393, R410) -/

theorem errorRecord_keeps {α : Type} {p : Quad → α} (hp : ∀ v c, p { v with crucible := c } = p v) (he : ∀ v c, p { v with errors := c } = p v)
    (c : BitVec 2) (typ tile cause handle pa : Nat) (s : State) (q : BitVec 2) :
    p ((errorRecord c typ tile cause handle pa s).quad q) = p (s.quad q) := by
  have hcount (w : Bool × State) : p ((countRecord c w).quad q) = p (w.2.quad q) := by
    unfold countRecord
    split
    · exact modQuad_keeps p (fun v => he v _) ..
    · rfl
  obtain h | ⟨a, n, bs, h⟩ := errorRecord_cases c typ tile cause handle pa s <;> rw [h]
  rw [hcount]
  obtain ⟨b, d, e, g, x, hw | hw⟩ := ringWrite_cases a n 64 bs s <;> rw [hw]
  · exact hwWrite_keeps hp q ..
  · exact (hwWrite_keeps hp q ..).trans (hwWrite_keeps hp q ..)

/-- A part of a quadrant that no record, no line and no use of an issue slot changes. -/
structure Steady {α : Type} (p : Quad → α) : Prop where
  crucible : ∀ v c, p { v with crucible := c } = p v
  trace : ∀ v c, p { v with trace := c } = p v
  counts : ∀ v c, p { v with counts := c } = p v
  errors : ∀ v c, p { v with errors := c } = p v
  clock : ∀ v c, p { v with clock := c } = p v
  core : ∀ v c, p { v with core := c } = p v

section
variable {α : Type} {p : Quad → α} (hp : Steady p) (q : BitVec 2)
include hp

theorem Steady.traceEvent (i : StrandId) (pipe : Nat) (fin : Bool) (n : Nat) (m : StripName) (pc : Addr) (s : State) :
    p ((Machine.traceEvent i pipe fin n m pc s).quad q) = p (s.quad q) := trace_keeps hp.crucible q hp.trace hp.counts ..

theorem Steady.writeMem (k : Option StrandId) (a : Nat) (bs : List Byte) (s : State) : p ((Machine.writeMem k a bs s).quad q) = p (s.quad q) := by
  unfold Machine.writeMem
  split
  · rfl
  · exact foldl_keeps (fun s => p (s.quad q)) (fun s n => touchLine_keeps hp.crucible q k n s) _ s

theorem Steady.errorRecord (c : BitVec 2) (typ tile cause handle pa : Nat) (s : State) :
    p ((Machine.errorRecord c typ tile cause handle pa s).quad q) = p (s.quad q) := errorRecord_keeps hp.crucible hp.errors ..

theorem Steady.writeStorage (k : Option StrandId) (l : Loc) (bs : List Byte) (s : State) :
    p ((Machine.writeStorage k l bs s).quad q) = p (s.quad q) := by
  have htmem (t : TileId) (o : Nat) : p ((writeTmem k t o bs s).quad q) = p (s.quad q) := by
    unfold writeTmem
    split
    · rfl
    · exact foldl_keeps (f := fun s n => loseLinks k (.tmem t n) s) (fun s => p (s.quad q)) (fun _ _ => rfl) ..
  unfold Machine.writeStorage
  split
  · cases l with
    | mem a => exact hp.errorRecord q ..
    | tmem t o => rfl
  · cases l with
    | mem a => exact hp.writeMem q ..
    | tmem t o => exact htmem t o

theorem Steady.applyPartial (op : AmoOp) (k : Combine) (s : State) : p ((Machine.applyPartial op k s).quad q) = p (s.quad q) := by
  have hhome (l : Loc) (s : State) : p ((atHome l s).quad q) = p (s.quad q) := by
    unfold atHome
    split
    · rfl
    · split
      · rfl
      · exact modCrucible_keeps hp.crucible q ..
  have hpoison (a n : Nat) (s : State) : p ((notePoison a n s).quad q) = p (s.quad q) :=
    foldl_keeps (fun s => p (s.quad q)) (fun s k => by
      split
      · exact hp.errorRecord q ..
      · rfl) _ s
  have hcut : p ((if s.meets none true k.phys.loc k.size = .cut then cutRanges none true k.phys.loc k.size s else s).quad q) = p (s.quad q) := by
    split
    · cases k.phys.loc <;> rfl
    · rfl
  unfold Machine.applyPartial
  dsimp only
  rw [← hcut]
  generalize (if s.meets none true k.phys.loc k.size = .cut then cutRanges none true k.phys.loc k.size s else s) = u
  split
  · exact hp.writeStorage q ..
  · split
    · split
      · exact hpoison ..
      · exact hp.errorRecord q ..
    · split
      · rw [hhome, hp.writeStorage]
      · show p ((atHome _ _).quad q) = _
        rw [hhome, hp.writeStorage, State.quad, quads_bracket, State.quad]

theorem Steady.flushParts (i : StrandId) (s : State) : p ((Machine.flushParts i s).quad q) = p (s.quad q) := by
  unfold Machine.flushParts
  dsimp only
  split
  · rfl
  · exact foldl_keeps (f := fun s (a : AmoOp × List Combine) => a.2.foldl (fun s k => Machine.applyPartial a.1 k s) s) (fun s => p (s.quad q))
      (fun s a => foldl_keeps (fun s => p (s.quad q)) (fun s k => hp.applyPartial q a.1 k s) a.2 s) ..

theorem Steady.dropWait (i : StrandId) (s : State) : p ((Machine.dropWait i s).quad q) = p (s.quad q) := by
  have hwait : p ((traceWait i s).quad q) = p (s.quad q) := by
    unfold traceWait
    dsimp only
    split
    · exact foldl_keeps (fun s => p (s.quad q)) (fun s a => hp.traceEvent q ..) _ s
    · rfl
  rw [Machine.dropWait, ← hwait]
  generalize traceWait i s = u
  have hclock : p ((dropClock i u).quad q) = p (u.quad q) := modQuad_keeps p (fun v => hp.clock v _) ..
  unfold leaveWait
  generalize (u.strand i).status = w
  generalize i.core = c
  cases w with
  | blocked w =>
    cases w with
    | clock => cases c <;> exact hclock
    | _ => cases c <;> rfl
  | _ => rfl

theorem Steady.takeSlot (i : StrandId) (s : State) : p ((Machine.takeSlot i s).quad q) = p (s.quad q) := by
  unfold Machine.takeSlot State.modCore
  split
  · rfl
  · exact modQuad_keeps p (fun v => hp.core v _) ..

/-- A strand that stops for a trap leaves it as it was. -/
theorem Steady.stopped (i : StrandId) (s : State) : p ((Machine.stopped i s).quad q) = p (s.quad q) := by
  have hstops : p ((traceStops i s).quad q) = p (s.quad q) :=
    foldl_keeps (fun s => p (s.quad q)) (fun s e => by
      split
      · exact hp.traceEvent q ..
      · rfl) _ s
  rw [Machine.stopped, hp.takeSlot, hp.flushParts, hp.dropWait, hstops]

end

theorem steady_tvec : Steady Quad.tvec := ⟨fun _ _ => rfl, fun _ _ => rfl, fun _ _ => rfl, fun _ _ => rfl, fun _ _ => rfl, fun _ _ => rfl⟩
theorem steady_mtvec : Steady Quad.mtvec := ⟨fun _ _ => rfl, fun _ _ => rfl, fun _ _ => rfl, fun _ _ => rfl, fun _ _ => rfl, fun _ _ => rfl⟩

/-! ### The strand that a trap stops (R136, R242, R386) -/

/-- An entry whose partials have been applied. -/
def VEntry.flushed (e : VEntry) : VEntry := if e.partials.isSome then { e with parts := [] } else e

/-- A strand that stops keeps everything but the parts of its queue's entries, and its links. -/
theorem unlinked_stopped (i : StrandId) (s : State) : ∃ l, ((s.strand i).queue = [] → l = []) ∧
    ((stopped i s).strand i).unlinked = Strand.unlinked { s.strand i with queue := l } := by
  have hdrop : ((dropWait i (traceStops i s)).strand i).unlinked = (s.strand i).unlinked := by
    rw [dropWait, leaveWait_strand, unlinked_traceWait, unlinked_traceStops]
  have hqueue : ((dropWait i (traceStops i s)).strand i).queue = (s.strand i).queue := Strand.of_unlinked Strand.queue (fun _ => rfl) hdrop
  have hkeep (l : List VEntry) : Strand.unlinked { s.strand i with queue := l } =
      Strand.unlinked { (dropWait i (traceStops i s)).strand i with queue := l } :=
    (Strand.of_unlinked (fun t => Strand.unlinked { t with queue := l }) (fun _ => rfl) hdrop).symm
  simp only [stopped, takeSlot_strand, hkeep, ← hqueue]
  generalize dropWait i (traceStops i s) = u
  unfold flushParts
  dsimp only
  split
  · exact ⟨_, id, rfl⟩
  · have hf := foldl_keeps (fun s => (s.strand i).unlinked) (f := fun s (a : AmoOp × List Combine) => a.2.foldl (fun s k => applyPartial a.1 k s) s)
      fun s a => foldl_keeps (fun s => (s.strand i).unlinked) (fun s k => unlinked_applyPartial a.1 k s i) a.2 s
    refine ⟨(u.strand i).queue.map VEntry.flushed, fun h => ?_, (hf ..).trans ?_⟩
    · rw [h, List.map_nil]
    · rw [State.strand_modStrand_self]
      rfl

/-- What a trap's entry makes of a strand: its queue, stopped and held, and everything else as it was. -/
theorem trapped_stopped (i : StrandId) (s : State) : ∃ l, ((s.strand i).queue = [] → l = []) ∧
    ((stopped i s).strand i).trapped = Strand.trapped { s.strand i with queue := l } := by
  obtain ⟨l, hl, h⟩ := unlinked_stopped i s
  exact ⟨l, hl, Strand.of_unlinked Strand.trapped (fun _ => rfl) h⟩

theorem enterTrap_S (i : StrandId) (k : TrapRec) (t : Strand) (s : State) : enterTrap .S i k t s =
    s.setStrand i { t with status := .running, st := t.st.enter t.level k, level := .S,
                           pc := ((s.quad (coreQuad i.core)).tvec &&& ~~~ 3#64).setWidth 80 } := rfl

theorem enterTrap_M {t : Strand} (h : t.mt.stat.getLsbD 2 = false) (i : StrandId) (k : TrapRec) (s : State) : enterTrap .M i k t s =
    s.setStrand i { t with status := .running, mt := t.mt.enter t.level k, level := .M,
                           pc := ((s.quad (coreQuad i.core)).mtvec &&& ~~~ 3#64).setWidth 80 } := by
  simp only [enterTrap, h, Bool.false_eq_true, if_false]

/-- A trap into level M inside a handler of that level makes the strand Exiting (R386). -/
theorem unlinked_enterTrap_exit {t : Strand} (h : t.mt.stat.getLsbD 2 = true) (i : StrandId) (k : TrapRec) (s : State) :
    ((enterTrap .M i k t s).strand i).unlinked = Strand.unlinked { t.discardQueue with status := .exiting, held := false } := by
  simp only [enterTrap, h, if_true]
  rw [unlinked_errorRecord, State.strand_setStrand_self]

/-! ### The record of a trap (R385 to R387) -/

/-- The registers of a level that has taken a trap from a level: the record, PPL and INH. -/
def Recorded (l : Level) (k : TrapRec) (old r : TrapRegs) : Prop :=
  r.stat.toNat % 4 = l.code ∧ r.stat.getLsbD 2 = true ∧ r.stat.getLsbD 3 = old.stat.getLsbD 3 ∧ r.scratch = old.scratch ∧
  r.cause.toNat = k.cause.toNat + k.src.toNat * 256 + (if k.async then 2048 else 0) ∧ r.detail = k.detail ∧
  r.pc.toNat + r.xhi.toNat % 2 ^ 16 * 2 ^ 64 = k.tpc.toNat ∧ r.vpc.toNat + r.xhi.toNat / 2 ^ 16 % 2 ^ 16 * 2 ^ 64 = k.tvpc.toNat ∧
  r.addr.toNat + r.xhi.toNat / 2 ^ 32 % 2 ^ 16 * 2 ^ 64 = k.taddr.toNat

theorem enter_stat (s : Word) (l : Level) :
    ((s &&& ~~~ 7#64) ||| BitVec.ofNat 64 (l.code + 4)).toNat % 4 = l.code ∧
    ((s &&& ~~~ 7#64) ||| BitVec.ofNat 64 (l.code + 4)).getLsbD 2 = true ∧
    ((s &&& ~~~ 7#64) ||| BitVec.ofNat 64 (l.code + 4)).getLsbD 3 = s.getLsbD 3 := by
  have hlow : (s &&& ~~~ 7#64).setWidth 2 = 0#2 := by rw [BitVec.setWidth_and, show (~~~ 7#64).setWidth 2 = 0#2 by decide, BitVec.and_zero]
  refine ⟨?_, ?_, ?_⟩
  · rw [← BitVec.toNat_setWidth (x := (s &&& ~~~ 7#64) ||| BitVec.ofNat 64 (l.code + 4)) (i := 2), BitVec.setWidth_or, hlow, BitVec.zero_or]
    cases l <;> rfl
  · cases l <;> simp [Level.code]
  · cases l <;> simp [Level.code]

theorem recorded_enter (old : TrapRegs) (l : Level) (k : TrapRec) : Recorded l k old (old.enter l k) := by
  obtain ⟨hlevel, hinh, hqdisc⟩ := enter_stat old.stat l
  refine ⟨hlevel, hinh, hqdisc, rfl, ?_, rfl, ?_, ?_, ?_⟩
  · simp only [TrapRegs.enter, BitVec.toNat_ofNat]
    split <;> omega
  · simp only [TrapRegs.enter, BitVec.toNat_setWidth, BitVec.toNat_ofNat]
    omega
  · simp only [TrapRegs.enter, BitVec.toNat_setWidth, BitVec.toNat_ofNat]
    omega
  · simp only [TrapRegs.enter, BitVec.toNat_setWidth, BitVec.toNat_ofNat]
    omega

/-! ### The whole entry -/

theorem trapTarget_eq (t : Strand) : trapTarget t = if t.level = .U ∨ (t.level = .S ∧ t.st.stat.getLsbD 2 = false) then .S else .M := by
  unfold trapTarget
  cases t.level <;> cases t.st.stat.getLsbD 2 <;> rfl

section
variable {s : State} {i : StrandId}

theorem takeTrapTo_S (k : TrapRec) : ∃ l, ((s.strand i).queue = [] → l = []) ∧ (takeTrapTo .S i k s).strand i =
    { Strand.trapped { s.strand i with queue := l } with
      status := .running, st := (s.strand i).st.enter (s.strand i).level k, level := .S
      pc := ((s.quad (coreQuad i.core)).tvec &&& ~~~ 3#64).setWidth 80 } := by
  obtain ⟨l, hl, ht⟩ := trapped_stopped i s
  refine ⟨l, hl, ?_⟩
  rw [takeTrapTo_eq, ht, enterTrap_S, State.strand_setStrand_self, steady_tvec.stopped]
  rfl

theorem takeTrapTo_M (h : (s.strand i).mt.stat.getLsbD 2 = false) (k : TrapRec) : ∃ l, ((s.strand i).queue = [] → l = []) ∧
    (takeTrapTo .M i k s).strand i =
    { Strand.trapped { s.strand i with queue := l } with
      status := .running, mt := (s.strand i).mt.enter (s.strand i).level k, level := .M
      pc := ((s.quad (coreQuad i.core)).mtvec &&& ~~~ 3#64).setWidth 80 } := by
  obtain ⟨l, hl, ht⟩ := trapped_stopped i s
  refine ⟨l, hl, ?_⟩
  rw [takeTrapTo_eq, ht, enterTrap_M (by exact h), State.strand_setStrand_self, steady_mtvec.stopped]
  rfl

theorem unlinked_takeTrapTo_exit (h : (s.strand i).mt.stat.getLsbD 2 = true) (k : TrapRec) : ∃ l, ((s.strand i).queue = [] → l = []) ∧
    ((takeTrapTo .M i k s).strand i).unlinked =
    Strand.unlinked { (Strand.trapped { s.strand i with queue := l }).discardQueue with status := .exiting, held := false } := by
  obtain ⟨l, hl, ht⟩ := trapped_stopped i s
  refine ⟨l, hl, ?_⟩
  rw [takeTrapTo_eq, ht, unlinked_enterTrap_exit (by exact h)]

end

/-- Settles O18: the strand stops, keeping its registers, and its level's registers take the record. -/
theorem trapEntrySavesTheRecord : Obligations.TrapEntrySavesTheRecord := by
  unfold Obligations.TrapEntrySavesTheRecord
  intro s i k t u toS took
  have htarget : u = (takeTrapTo (if toS then .S else .M) i k s).strand i := by rw [← trapTarget_eq t]; rfl
  refine ⟨fun h => ?_, fun h hm => ?_, fun h hm => ?_⟩
  · obtain ⟨l, -, hu⟩ := takeTrapTo_S (s := s) (i := i) k
    rw [htarget, if_pos h, hu]
    exact ⟨rfl, recorded_enter .., rfl, rfl, rfl, rfl, rfl, rfl, rfl, rfl⟩
  · obtain ⟨l, -, hu⟩ := takeTrapTo_M hm k
    rw [htarget, if_neg h, hu]
    exact ⟨rfl, recorded_enter .., rfl, rfl, rfl, rfl, rfl, rfl, rfl, rfl⟩
  · obtain ⟨l, -, hu⟩ := unlinked_takeTrapTo_exit hm k
    rw [htarget, if_neg h]
    have hlevel := Strand.of_unlinked Strand.level (fun _ => rfl) hu
    exact ⟨Strand.of_unlinked Strand.status (fun _ => rfl) hu, hlevel, Strand.of_unlinked Strand.queue (fun _ => rfl) hu⟩

end Sys2Proof.Machine
end

section
/-! PROOF. SCALL and TRET (R389, R390). -/

namespace Sys2Proof.Machine

open Sys2Proof

/-! ### TRET (R389) -/

@[simp] theorem resumeEngines_strand (i : StrandId) (s : State) (j : StrandId) : (resumeEngines i s).strand j = s.strand j := by
  unfold resumeEngines
  cases i.core <;> rfl

@[simp] theorem resumeEngines_mem (i : StrandId) (s : State) : (resumeEngines i s).mem = s.mem := by
  unfold resumeEngines
  cases i.core <;> rfl

@[simp] theorem unlinked_traceDiscard (i : StrandId) (s : State) (j : StrandId) : ((traceDiscard i s).strand j).unlinked = (s.strand j).unlinked :=
  foldl_keeps (fun s => (s.strand j).unlinked) (fun _ _ => unlinked_traceEvent ..) _ s

/-- A strand whose held queue starts again, or is discarded (R389). -/
def Strand.requeued (t : Strand) : Strand := if t.quits then { t.discardQueue with held := false } else { t with held := false }

section
variable (t : Strand)

theorem Strand.held_requeued : t.requeued.held = false := by unfold requeued; split <;> rfl
theorem Strand.queue_requeued : t.requeued.queue = if t.quits then [] else t.queue := by unfold requeued; split <;> rfl
theorem Strand.x_requeued : t.requeued.x = t.x := by unfold requeued; split <;> rfl
theorem Strand.a_requeued : t.requeued.a = t.a := by unfold requeued; split <;> rfl
theorem Strand.m_requeued : t.requeued.m = t.m := by unfold requeued; split <;> rfl
theorem Strand.st_requeued : t.requeued.st = t.st := by unfold requeued; split <;> rfl
theorem Strand.mt_requeued : t.requeued.mt = t.mt := by unfold requeued; split <;> rfl

end

theorem Strand.trapReturn_M {t : Strand} (h : t.level = .M) : t.trapReturn =
    { t.requeued with mt := { t.mt with stat := t.mt.stat &&& ~~~ 12#64 }, level := .ofCode (t.mt.stat.toNat % 4), pc := t.mt.resume } := by
  simp only [Strand.trapReturn, h, Strand.requeued]

theorem Strand.trapReturn_S {t : Strand} (h : t.level = .S) : t.trapReturn =
    { t.requeued with st := { t.st with stat := t.st.stat &&& ~~~ 12#64 }, level := .ofCode (t.st.stat.toNat % 4), pc := t.st.resume } := by
  simp only [Strand.trapReturn, h, Strand.requeued]

/-- TRET does not look at the links of a strand. -/
theorem Strand.unlinked_trapReturn {t : Strand} (h : t.level ≠ .U) : t.unlinked.trapReturn = t.trapReturn.unlinked := by
  have hq : t.unlinked.requeued = t.requeued.unlinked := by
    unfold requeued
    rw [show t.unlinked.quits = t.quits from rfl]
    cases t.quits <;> rfl
  cases hl : t.level with
  | U => exact absurd hl h
  | S =>
    rw [trapReturn_S hl, trapReturn_S (t := t.unlinked) hl, hq]
    rfl
  | M =>
    rw [trapReturn_M hl, trapReturn_M (t := t.unlinked) hl, hq]
    rfl

/-- The registers of the level from which a strand's TRET returns. -/
def Strand.handler (t : Strand) : TrapRegs := if t.level = .M then t.mt else t.st

theorem Strand.quits_eq (t : Strand) : t.quits = t.handler.stat.getLsbD 3 := by
  unfold Strand.quits Strand.handler
  cases t.level <;> rfl

theorem Level.code_ofCode_mod (n : Nat) : (Level.ofCode (n % 4)).code = if n % 4 = 3 then 2 else n % 4 := by
  have h : n % 4 = 0 ∨ n % 4 = 1 ∨ n % 4 = 2 ∨ n % 4 = 3 := by omega
  obtain h | h | h | h := h <;> rw [h] <;> rfl

theorem TrapRegs.toNat_resume (r : TrapRegs) : r.resume.toNat = r.pc.toNat + r.xhi.toNat % 2 ^ 16 * 2 ^ 64 := by
  unfold TrapRegs.resume
  rw [BitVec.toNat_ofNat]
  omega

/-- The state after TRET. -/
def returned (i : StrandId) (st : State) : State :=
  resumeEngines i ((if (st.strand i).quits then traceDiscard i (advance i 4 st) else advance i 4 st).modStrand i (·.trapReturn))

section
variable {st : State} {i : StrandId}

theorem unlinked_returned (hl : (st.strand i).level ≠ .U) :
    ((returned i st).strand i).unlinked = ((st.strand i).advance 4).trapReturn.unlinked := by
  have hz : ((if (st.strand i).quits then traceDiscard i (advance i 4 st) else advance i 4 st).strand i).unlinked =
      ((st.strand i).advance 4).unlinked := by
    split
    · rw [unlinked_traceDiscard, advance_strand_self]
    · rw [advance_strand_self]
  have hlevel : ((if (st.strand i).quits then traceDiscard i (advance i 4 st) else advance i 4 st).strand i).level = (st.strand i).level := by
    rw [Strand.of_unlinked Strand.level (fun _ => rfl) hz]
    rfl
  rw [returned, resumeEngines_strand, State.strand_modStrand_self, ← Strand.unlinked_trapReturn (by rw [hlevel]; exact hl), hz,
    Strand.unlinked_trapReturn (by exact hl)]

theorem returned_mem (h : (st.strand i).quits = false) : (returned i st).mem = st.mem := by
  rw [returned, resumeEngines_mem, h, State.mem_modStrand]
  exact advance_mem ..

theorem execTret_eq : execTret st = issue st 4 fun i t s =>
    if t.level = .U then .error (preciseStop t ⟨cPrivilege, 0, 0⟩)
    else if t.unsettled then .error .stall
    else .ok (resumeEngines i ((if t.quits then traceDiscard i s else s).modStrand i (·.trapReturn))) := rfl

theorem exec_tret (hi : MayIssue st i) (hl : (st.strand i).level ≠ .U) (hu : (st.strand i).unsettled = false) :
    exec .tret st = .next (returned i st) := by
  refine execTret_eq.trans (issue_ok hi.1 hi.2 ?_)
  rw [if_neg hl, hu]
  rfl

theorem Strand.unsettled_of_reads {t : Strand} (hs : t.stores = []) (hl : ∀ a ∈ t.lates, a.kind.writes = false) : t.unsettled = false := by
  unfold Strand.unsettled Strand.owed
  rw [hs, List.map_nil, List.nil_append, List.any_map, List.any_eq_false]
  intro a ha
  simp [hl a ha]

theorem exec_scall (hi : MayIssue st i) : exec .scall st =
    .next (takeTrapTo (if (st.strand i).level = .U then .S else .M) i ⟨cSyscall, 0, false, (st.strand i).pc + 4, 0, 0, 0⟩ (advance i 4 st))  := by
  show issue st 4 (fun i t s => .ok (takeTrapTo (scallTarget t) i ⟨cSyscall, 0, false, t.pc + 4, 0, 0, 0⟩ s)) = _
  exact issue_ok hi.1 hi.2 rfl

end

/-- Settles O19: SCALL is a trap into the next level, TRET gives the strand of `unlinked_returned`. -/
theorem scallAndTretReturn : Obligations.ScallAndTretReturn := by
  unfold Obligations.ScallAndTretReturn
  intro st i hi t
  refine ⟨exec_scall hi, fun hl hs ha => ⟨returned i st, exec_tret hi hl (Strand.unsettled_of_reads hs ha), ?_⟩⟩
  have hu := unlinked_returned hl
  have hquits : (t.advance 4).quits = t.handler.stat.getLsbD 3 := Strand.quits_eq (t.advance 4)
  have hqueue := (t.advance 4).queue_requeued
  have hmem (h : t.handler.stat.getLsbD 3 = false) : (returned i st).mem = st.mem := returned_mem (hquits.trans h)
  rw [hquits] at hqueue
  cases hm : t.level with
  | U => exact absurd hm hl
  | S =>
    have hr : t.handler = t.st := by rw [Strand.handler, hm]; rfl
    rw [hr] at hqueue hmem
    rw [Strand.trapReturn_S (by exact hm)] at hu
    have hlevel := Strand.of_unlinked Strand.level (fun _ => rfl) hu
    have hpc := Strand.of_unlinked Strand.pc (fun _ => rfl) hu
    have hst := Strand.of_unlinked Strand.st (fun _ => rfl) hu
    exact ⟨hlevel ▸ Level.code_ofCode_mod _, (congrArg BitVec.toNat hpc).trans (TrapRegs.toNat_resume _),
      (Strand.of_unlinked Strand.held (fun _ => rfl) hu).trans (Strand.held_requeued _),
      (Strand.of_unlinked Strand.queue (fun _ => rfl) hu).trans hqueue,
      nofun, fun _ => ⟨(Strand.of_unlinked Strand.mt (fun _ => rfl) hu).trans (Strand.mt_requeued _), congrArg TrapRegs.stat hst⟩,
      (Strand.of_unlinked Strand.x (fun _ => rfl) hu).trans (Strand.x_requeued _),
      (Strand.of_unlinked Strand.a (fun _ => rfl) hu).trans (Strand.a_requeued _),
      (Strand.of_unlinked Strand.m (fun _ => rfl) hu).trans (Strand.m_requeued _), hmem⟩
  | M =>
    have hr : t.handler = t.mt := by rw [Strand.handler, hm]; rfl
    rw [hr] at hqueue hmem
    rw [Strand.trapReturn_M (by exact hm)] at hu
    have hlevel := Strand.of_unlinked Strand.level (fun _ => rfl) hu
    have hpc := Strand.of_unlinked Strand.pc (fun _ => rfl) hu
    have hmt := Strand.of_unlinked Strand.mt (fun _ => rfl) hu
    exact ⟨hlevel ▸ Level.code_ofCode_mod _, (congrArg BitVec.toNat hpc).trans (TrapRegs.toNat_resume _),
      (Strand.of_unlinked Strand.held (fun _ => rfl) hu).trans (Strand.held_requeued _),
      (Strand.of_unlinked Strand.queue (fun _ => rfl) hu).trans hqueue,
      fun _ => ⟨(Strand.of_unlinked Strand.st (fun _ => rfl) hu).trans (Strand.st_requeued _), congrArg TrapRegs.stat hmt⟩, nofun,
      (Strand.of_unlinked Strand.x (fun _ => rfl) hu).trans (Strand.x_requeued _),
      (Strand.of_unlinked Strand.a (fun _ => rfl) hu).trans (Strand.a_requeued _),
      (Strand.of_unlinked Strand.m (fun _ => rfl) hu).trans (Strand.m_requeued _), hmem⟩

end Sys2Proof.Machine
end

section
/-! PROOF. A service call and its return, one after the other (R386, R389, R390). -/

namespace Sys2Proof.Machine

open Sys2Proof

/-! ### A service call and its return (R386, R389, R390) -/

theorem State.cur_modCore (s : State) (c : CoreId) (f : CoreState → CoreState) : (s.modCore c f).cur = s.cur := by cases c <;> rfl

/-- A running strand whose vector queue is empty stops by taking the issue slot. -/
theorem stopped_of_idle {s : State} {i : StrandId} (hr : (s.strand i).status = .running) (hq : (s.strand i).queue = []) :
    stopped i s = takeSlot i s := by
  have hstops : traceStops i s = s := by rw [traceStops, hq, List.foldl_nil]
  have hdrop : dropWait i s = s := by
    rw [dropWait, traceWait, hr]
    simp only [leaveWait, hr]
  have hparts : flushParts i s = s := by rw [flushParts, hq]; rfl
  rw [stopped, hstops, hdrop, hparts]

theorem advance_cur (i : StrandId) (len : Nat) (s : State) : (advance i len s).cur = s.cur := by
  have hslot : (takeSlot i (s.modStrand i (·.advance len))).cur = s.cur := State.cur_modCore ..
  unfold advance bumpCore
  cases i.core <;> exact hslot

/-- A strand that has entered a handler of level S. -/
def Strand.called (t : Strand) (k : TrapRec) (pc : Addr) : Strand :=
  { t.trapped with status := .running, st := t.st.enter t.level k, level := .S, pc := pc }

/-- The trap of such a strand into level S. -/
theorem takeTrapTo_S_of_idle {s : State} {i : StrandId} (hr : (s.strand i).status = .running) (hq : (s.strand i).queue = []) (k : TrapRec) :
    ∃ pc, takeTrapTo .S i k s = (takeSlot i s).setStrand i ((s.strand i).called k pc) := by
  rw [takeTrapTo_eq, enterTrap_S, stopped_of_idle hr hq, takeSlot_strand]
  exact ⟨_, rfl⟩

/-- The level and the address to which a trap's registers return are those of the trap (R387, R389). -/
theorem Recorded.level {l : Level} {k : TrapRec} {old r : TrapRegs} (h : Recorded l k old r) : Level.ofCode (r.stat.toNat % 4) = l := by
  obtain ⟨hlevel, -⟩ := h
  rw [hlevel]
  cases l <;> rfl

theorem Recorded.resume {l : Level} {k : TrapRec} {old r : TrapRegs} (h : Recorded l k old r) : r.resume = k.tpc := by
  obtain ⟨-, -, -, -, -, -, hpc, -⟩ := h
  exact BitVec.eq_of_toNat_eq ((TrapRegs.toNat_resume r).trans hpc)

theorem and_not_inh (w : Word) : (w &&& ~~~ 12#64).getLsbD 2 = false := by simp

theorem Strand.trapReturn_S_advance {t : Strand} (hl : t.level = .S) (hq : t.quits = false) (len : Nat) : (t.advance len).trapReturn =
    { t with
      held := false, issued := t.issued + 1, st := { t.st with stat := t.st.stat &&& ~~~ 12#64 }
      level := .ofCode (t.st.stat.toNat % 4), pc := t.st.resume } := by
  have hadv : (t.advance len).quits = false := hq
  rw [trapReturn_S (by exact hl), requeued, hadv]
  rfl

/-- TRET in a handler of level S that has nothing queued or owed, where QDISC is clear. -/
theorem exec_tret_S {s : State} {i : StrandId} (hi : MayIssue s i) (hl : (s.strand i).level = .S) (hs : (s.strand i).stores = [])
    (ha : (s.strand i).lates = []) (hq : (s.strand i).st.stat.getLsbD 3 = false) :
    exec .tret s = .next (returned i s) ∧ (returned i s).mem = s.mem ∧
    ((returned i s).strand i).unlinked = ((s.strand i).advance 4).trapReturn.unlinked ∧ (s.strand i).quits = false := by
  have hne : (s.strand i).level ≠ .U := by rw [hl]; nofun
  have hquits : (s.strand i).quits = false := by rw [Strand.quits_eq, Strand.handler, hl]; exact hq
  exact ⟨exec_tret hi hne (Strand.unsettled_of_reads hs (by simp [ha])), returned_mem hquits, unlinked_returned hne, hquits⟩

/-- Settles O20: the handler finds what the call saved, and its TRET returns there. -/
theorem serviceCallReturnsToTheNextInstruction : Obligations.ServiceCallReturnsToTheNextInstruction := by
  unfold Obligations.ServiceCallReturnsToTheNextInstruction
  intro st s r i hi hrun hlevel hqdisc hstores hlates hqueue hcall hret
  have hu := advance_strand_self i 4 st
  obtain ⟨pc, hcalled⟩ := takeTrapTo_S_of_idle (i := i) (s := advance i 4 st) (hu ▸ hrun) (hu ▸ hqueue)
    ⟨cSyscall, 0, false, (st.strand i).pc + 4, 0, 0, 0⟩
  rw [exec_scall hi, if_pos hlevel, hcalled, hu] at hcall
  have hs := Host.Outcome.next.inj hcall
  have hstrand : s.strand i = ((st.strand i).advance 4).called ⟨cSyscall, 0, false, (st.strand i).pc + 4, 0, 0, 0⟩ pc := by
    rw [← hs, State.strand_setStrand_self]
  have hrec := recorded_enter (st.strand i).st .U ⟨cSyscall, 0, false, (st.strand i).pc + 4, 0, 0, 0⟩
  have hst : (s.strand i).st = (st.strand i).st.enter .U ⟨cSyscall, 0, false, (st.strand i).pc + 4, 0, 0, 0⟩ := by
    rw [hstrand, ← hlevel]
    rfl
  obtain ⟨-, -, hkept, -⟩ := hrec
  have hcur : s.cur = .strand i := by
    rw [← hs, State.cur_setStrand, takeSlot, State.cur_modCore, advance_cur, hi.1]
  have hshort : (s.strand i).shortening = false := by rw [hstrand]; rfl
  have hmem : s.mem = st.mem := by rw [← hs]; exact (takeSlot_mem ..).trans (advance_mem ..)
  have hS : (s.strand i).level = .S := by rw [hstrand]; rfl
  obtain ⟨hexec, hkeep, hret', hquits⟩ := exec_tret_S ⟨hcur, hshort⟩ hS (by rw [hstrand]; exact hstores) (by rw [hstrand]; exact hlates)
    (by rw [hst]; exact hkept.trans hqdisc)
  rw [Strand.trapReturn_S_advance hS hquits] at hret'
  obtain rfl := Host.Outcome.next.inj (hexec.symm.trans hret)
  have hx := Strand.of_unlinked Strand.x (fun _ => rfl) hret'
  have ha := Strand.of_unlinked Strand.a (fun _ => rfl) hret'
  have hm := Strand.of_unlinked Strand.m (fun _ => rfl) hret'
  have hmt := Strand.of_unlinked Strand.mt (fun _ => rfl) hret'
  refine ⟨?_, ?_, hx.trans ?_, ha.trans ?_, hm.trans ?_, ?_, hmt.trans ?_, hkeep.trans hmem⟩
  · rw [Strand.of_unlinked Strand.level (fun _ => rfl) hret', hst]
    exact (recorded_enter ..).level
  · rw [Strand.of_unlinked Strand.pc (fun _ => rfl) hret', hst]
    exact (recorded_enter ..).resume
  · rw [hstrand]; rfl
  · rw [hstrand]; rfl
  · rw [hstrand]; rfl
  · rw [Strand.of_unlinked Strand.st (fun _ => rfl) hret']
    exact and_not_inh _
  · rw [hstrand]; rfl

end Sys2Proof.Machine
end

section
/-! PROOF. System-register instructions: their checks, the value stored and the value returned (R117, R384, R396). -/

namespace Sys2Proof.Machine

open Sys2Proof

/-! ### System-register instructions (R384) -/

theorem issueWith_ok {s s' : State} {i : StrandId} {len : Nat} {body : StrandId → Strand → State → Except Stop State}
    {trap : StrandId → TrapRec → State} (hi : MayIssue s i) (h : body i (s.strand i) (advance i len s) = .ok s') : issueWith s len body trap = .next s' := by
  simp only [issueWith, hi.1, hi.2, h, Bool.false_eq_true, if_false]

/-- An instruction that issues leaves the tables of the quadrants where they were. -/
theorem Steady.advance {α : Type} {p : Quad → α} (hp : Steady p) (i : StrandId) (len : Nat) (s : State) (q : BitVec 2) :
    p ((Machine.advance i len s).quad q) = p (s.quad q) := by
  refine Eq.trans ?_ (hp.takeSlot q i (s.modStrand i (·.advance len)))
  unfold Machine.advance bumpCore
  cases i.core <;> rfl

theorem steady_ctxbase : Steady Quad.ctxbase := ⟨fun _ _ => rfl, fun _ _ => rfl, fun _ _ => rfl, fun _ _ => rfl, fun _ _ => rfl, fun _ _ => rfl⟩
theorem steady_ctxcnt : Steady Quad.ctxcnt := ⟨fun _ _ => rfl, fun _ _ => rfl, fun _ _ => rfl, fun _ _ => rfl, fun _ _ => rfl, fun _ _ => rfl⟩

theorem advance_dev (i : StrandId) (len : Nat) (s : State) : (advance i len s).dev = s.dev := by
  unfold advance takeSlot State.modCore bumpCore
  cases i.core <;> rfl

theorem advance_poison (i : StrandId) (len : Nat) (s : State) : (advance i len s).poison = s.poison := by
  unfold advance takeSlot State.modCore bumpCore
  cases i.core <;> rfl

theorem ctxPlace_advance (i : StrandId) (len : Nat) (s : State) (q : BitVec 2) (n : BitVec 16) :
    (advance i len s).ctxPlace q n = s.ctxPlace q n := by
  simp only [State.ctxPlace, State.globalPa, steady_ctxbase.advance, advance_dev]

theorem ctxPoisoned_advance (i : StrandId) (len : Nat) (s : State) (q : BitVec 2) (n : BitVec 16) :
    (advance i len s).ctxPoisoned q n = s.ctxPoisoned q n := by
  simp only [State.ctxPoisoned, State.poisoned, steady_ctxcnt.advance, advance_poison, ctxPlace_advance]

theorem sysRead_ctxcur (i : StrandId) (s : State) : (sysRead i 0x1010 s).2 = s := rfl

/-- What a store of a register's value answers: the traps of an invalid `vcfg` and of a context entry that cannot be read, and else the state after
the store (R117, R396). -/
def storeAnswer (i : StrandId) (n : Nat) (v : Word) (st t : State) : Out :=
  if n = 1 ∧ vcfgInvalid v = true then .next (takeTrap i ⟨cVcfgInvalid, 0, false, (st.strand i).pc, 0, 0, 0⟩ st)
  else if n = 0x1010 ∧ st.ctxPoisoned (coreQuad i.core) (v.setWidth 16) = true then
    .next (takeTrap i ⟨cMachineCheck, 0, false, (st.strand i).pc, 0, BitVec.ofNat 80 (st.ctxPlace (coreQuad i.core) (v.setWidth 16)), 0⟩ st)
  else .next t

/-- The fault of a store, found in the state in which the instruction acts, is that of the state before. -/
theorem sysFault_advance (i : StrandId) (len n : Nat) (v : Word) (st : State) :
    sysFault i n v (sysRead i n (advance i len st)).2 =
      if n = 1 ∧ vcfgInvalid v = true then some ⟨cVcfgInvalid, 0, 0⟩
      else if n = 0x1010 ∧ st.ctxPoisoned (coreQuad i.core) (v.setWidth 16) = true then
        some ⟨cMachineCheck, BitVec.ofNat 80 (st.ctxPlace (coreQuad i.core) (v.setWidth 16)), 0⟩
      else none := by
  unfold sysFault
  dsimp only
  by_cases hn : n = 0x1010
  · rw [hn, sysRead_ctxcur, ctxPoisoned_advance, ctxPlace_advance]
    simp only [Bool.and_eq_true, decide_eq_true_eq]
  · simp only [Bool.and_eq_true, decide_eq_true_eq, hn, false_and, if_false]

/-- The state after a register has been stored, and the old value written where the instruction gives it. -/
def sysStored (i : StrandId) (n : Nat) (d : BitVec 5) (out : Bool) (v w : Word) (st : State) : State :=
  let s := sysStore i n v (w &&& sysW1c n) (sysRead i n (advance i 4 st)).2
  if out then s.setX i d (sysRead i n (advance i 4 st)).1 else s

section
variable {st : State} {i : StrandId} {d : BitVec 5} {r : BitVec 15} {l : Level} {out : Bool} {f : Word → Word → Word → Option (Word × Word)}

/-- The register's level admits the instruction, and nothing it reads is pending. -/
theorem sysAccess_admits (hd : Settled st i [d]) (hle : l.code ≤ (st.strand i).level.code) (hv : r.toNat ≤ 4 → (st.strand i).live = []) :
    (st.strand i).level.below l = false ∧ ((st.strand i).anyX [d] || (sysVector r.toNat && !(st.strand i).live.isEmpty)) = false := by
  refine ⟨decide_eq_false (Nat.not_lt.2 hle), ?_⟩
  rw [hd, Bool.false_or]
  by_cases h : r.toNat ≤ 4
  · rw [hv h, List.isEmpty_nil, Bool.not_true, Bool.and_false]
  · rw [sysVector, decide_eq_false h, Bool.false_and]

variable (hi : MayIssue st i) (hd : Settled st i [d]) (hl : sysLevel r.toNat = some l) (hle : l.code ≤ (st.strand i).level.code)
  (hv : r.toNat ≤ 4 → (st.strand i).live = [])
include hi hd hl hle hv

theorem sysAccess_read (hf : f (sysRead i r.toNat (advance i 4 st)).1 (sysRw r.toNat) (st.xr i d) = none) :
    sysAccess d r out f st = .next ((sysRead i r.toNat (advance i 4 st)).2.setX i d (sysRead i r.toNat (advance i 4 st)).1) := by
  obtain ⟨hbelow, hready⟩ := sysAccess_admits hd hle hv
  have hf' : f (sysRead i r.toNat (advance i one st)).1 (sysRw r.toNat) ((st.strand i).xr d) = none := hf
  refine issueWith_ok hi ?_
  simp only [hl, hbelow, hready, hf', Bool.false_eq_true, if_false]

variable {v w : Word} (hf : f (sysRead i r.toNat (advance i 4 st)).1 (sysRw r.toNat) (st.xr i d) = some (v, w))
include hf

theorem sysAccess_fault {g : Flt} (hg : sysFault i r.toNat v (sysRead i r.toNat (advance i one st)).2 = some g) :
    sysAccess d r out f st = .next (takeTrap i (preciseRec (st.strand i) g) st) := by
  obtain ⟨hbelow, hready⟩ := sysAccess_admits hd hle hv
  have hf' : f (sysRead i r.toNat (advance i one st)).1 (sysRw r.toNat) ((st.strand i).xr d) = some (v, w) := hf
  refine issueWith_trap hi ?_
  simp only [hl, hbelow, hready, hf', hg, Bool.false_eq_true, if_false]
  rfl

theorem sysAccess_stored (hg : sysFault i r.toNat v (sysRead i r.toNat (advance i one st)).2 = none) :
    sysAccess d r out f st = .next (sysStored i r.toNat d out v w st) := by
  obtain ⟨hbelow, hready⟩ := sysAccess_admits hd hle hv
  have hf' : f (sysRead i r.toNat (advance i one st)).1 (sysRw r.toNat) ((st.strand i).xr d) = some (v, w) := hf
  refine issueWith_ok hi ?_
  simp only [hl, hbelow, hready, hf', hg, Bool.false_eq_true, if_false]
  rfl

theorem sysAccess_store : sysAccess d r out f st = storeAnswer i r.toNat v st (sysStored i r.toNat d out v w st) := by
  have hfault := sysFault_advance i one r.toNat v st
  unfold storeAnswer
  split_ifs at hfault ⊢
  · rw [sysAccess_fault hi hd hl hle hv hf hfault]
    rfl
  · rw [sysAccess_fault hi hd hl hle hv hf hfault]
    rfl
  · exact sysAccess_stored hi hd hl hle hv hf hfault

end

/-- Settles O15: each form is `sysAccess` with the value of its row. -/
theorem systemRegistersAreReadAndWritten : Obligations.SystemRegistersAreReadAndWritten := by
  unfold Obligations.SystemRegistersAreReadAndWritten
  intro st i d r l hi hd hl hle hv
  refine ⟨(exec_sysrd d r st).trans ?_, (exec_syswr d r st).trans ?_, (exec_sysset d r st).trans ?_, (exec_sysclr d r st).trans ?_,
    (exec_sysxch d r st).trans ?_⟩
  · exact sysAccess_read hi hd hl hle hv rfl
  all_goals
    rw [sysAccess_store hi hd hl hle hv rfl]
    rfl

end Sys2Proof.Machine
end

section
/-! PROOF. Trace, clock, counters and the strip breakpoint (R407 to R417). -/

namespace Sys2Proof.Machine

open Sys2Proof

/-! ### The strip breakpoint (R416) -/

/-- The state in which a strand has stopped before the VSETL that its breakpoint matches. -/
def breakStopped (i : StrandId) (t : Strand) (s : State) : State :=
  traceStrand i 7 t.issued (t.strip.next t.pc t.strip.vl) t.pc.toNat (s.setStatus i (.blocked .debug))

section
variable {s : State} {i : StrandId}

theorem debugStop_of_breaks {t : Strand} (ht : s.strand i = t) (hb : t.breaks = true) (hl : t.live = []) (hr : t.status = .running) :
    debugStop i s = some (breakStopped i t s) := by
  subst ht
  simp only [debugStop, hb, hl, hr, List.isEmpty_nil, Bool.not_true, Bool.or_false, ne_eq, not_true, decide_false, Bool.false_eq_true, if_false]
  rfl

theorem unlinked_breakStopped (t : Strand) : ((breakStopped i t s).strand i).unlinked = Strand.unlinked { s.strand i with status := .blocked .debug } := by
  rw [breakStopped, unlinked_traceStrand]
  exact congrArg Strand.unlinked (State.strand_modStrand_self ..)

variable (hb : (s.strand i).breaks = true) (hl : (s.strand i).live = []) (hr : (s.strand i).status = .running) (hc : onControl i = false)
include hb hl hr hc

theorem exec_vsetl_breaks (hi : MayIssue s i) (d x : BitVec 5) : exec (.vsetl d x) s = .next (takeSlot i (breakStopped i (s.strand i) s)) := by
  show execVsetl d x s = _
  refine issueEngine_ok hi.1 hi.2 ?_
  simp only [hc, hb, debugStop_of_breaks rfl hb hl hr, Bool.false_eq_true, if_false, if_true]

theorem exec_breakpointStop {p : Parcel} {ps : Parcel × Parcel} {z : State} (hruns : s.coreRuns i.core = true)
    (hf : fetchParcels i (s.strand i).pc s = .ok ((p, ps), z)) (hp : isVsetl p = true) (hz : z.strand i = s.strand i) :
    exec (.breakpointStop i) s = .next (breakStopped i (s.strand i) z) := by
  show execBreakpointStop i s = _
  unfold execBreakpointStop
  simp only [hruns, hc, hf, hp, debugStop_of_breaks hz hb hl hr, Bool.not_true, Bool.or_false, Bool.false_eq_true, if_false, if_true, event_some]

end

/-! ### The instructions of major 0x39 (R408, R413 to R417) -/

theorem Strand.anyX_pair {t : Strand} {d x : BitVec 5} (h : t.anyX [d, x] = false) : t.anyX [d] = false ∧ t.anyX [x] = false := by
  simpa only [Strand.anyX, List.any_cons, List.any_nil, Bool.or_false, Bool.or_eq_false_iff] using h

theorem Clock.word_eq (c : Clock) : c.word = 0#59 ++ c.opp ++ BitVec.ofBool c.broken ++ BitVec.ofBool c.locked := by
  have h : ∀ (p : BitVec 3) (l b : Bool), BitVec.ofNat 64 ((if l then 1 else 0) + (if b then 2 else 0) + p.toNat * 4) =
      0#59 ++ p ++ BitVec.ofBool b ++ BitVec.ofBool l := by decide
  exact h ..

/-- The state in which a strand waits for its change of the clock. -/
def clockWaits (i : StrandId) (d : BitVec 5) (o : Option (BitVec 3)) (st : State) : State :=
  let q := coreQuad i.core
  let c := ((advance i 4 st).quad q).clock
  ((advance i 4 st).modQuad q fun v => { v with clock := { c with target := c.target ++ [(i, o)] } }).modStrand i fun r =>
    { r with status := .blocked (.clock d c.word), pc := (st.strand i).pc }

section
variable {st : State} {i : StrandId} {d x : BitVec 5} (hi : MayIssue st i)
include hi

theorem exec_tmark (hx : (st.strand i).anyX [x] = false) :
    exec (.tmark x) st = .next (traceStrand i 4 (st.strand i).issued (st.strand i).strip ((st.strand i).xr x).toNat (advance i 4 st)) := by
  show execTmark x st = _
  exact issue_ok hi.1 hi.2 (by simp only [hx, Bool.false_eq_true, if_false])

section
variable {reads : List (BitVec 5)} (f : Strand → Option (BitVec 3))

theorem profile_ok (hl : (st.strand i).level ≠ .U) (hx : (st.strand i).anyX (d :: reads) = false) :
    profile d reads f st = .next (clockWaits i d (f (st.strand i)) st) := by
  refine issue_ok hi.1 hi.2 ?_
  rw [if_neg hl, hx]
  rfl

theorem profile_U (hl : (st.strand i).level = .U) :
    profile d reads f st = .next (takeTrap i ⟨cPrivilege, 0, false, (st.strand i).pc, 0, 0, 0⟩ st) :=
  issue_preciseStop (f := ⟨cPrivilege, 0, 0⟩) hi (if_pos hl) rfl

end

theorem exec_profLock (hl : (st.strand i).level ≠ .U) (hx : (st.strand i).anyX [d, x] = false) :
    exec (.profLock d x) st = .next (clockWaits i d (some (((st.strand i).xr x).setWidth 3)) st) := by
  show execProfLock d x st = _
  exact profile_ok hi _ hl hx

theorem exec_profUnlock (hl : (st.strand i).level ≠ .U) (hx : (st.strand i).anyX [d] = false) :
    exec (.profUnlock d) st = .next (clockWaits i d none st) := by
  show execProfUnlock d st = _
  exact profile_ok hi _ hl hx

theorem exec_prof_U {k : Instr} (hk : k = .profLock d x ∨ k = .profUnlock d) (hl : (st.strand i).level = .U) :
    exec k st = .next (takeTrap i ⟨cPrivilege, 0, false, (st.strand i).pc, 0, 0, 0⟩ st) := by
  obtain rfl | rfl := hk
  · show execProfLock d x st = _
    exact profile_U hi _ hl
  · show execProfUnlock d st = _
    exact profile_U hi _ hl

theorem exec_brkpt (a : BitVec 4) (hx : (st.strand i).anyX [d, x] = false) :
    exec (.brkpt d a x) st = .next ((advance i 4 st).modStrand i fun u =>
      { u.setX d (boolWord (st.strand i).brk.armed) with
        brk := { (st.strand i).brk with
          addr := (st.strand i).ar a, ord := ((st.strand i).xr x).setWidth 32, any := ((st.strand i).xr x).getLsbD 32
          armed := !((st.strand i).xr x).getLsbD 33 } }) := by
  show execBrkpt d a x st = _
  exact issue_ok hi.1 hi.2 (by rw [hx]; rfl)

theorem exec_cntrd (hx : (st.strand i).anyX [d, x] = false)
    (hu : (st.strand i).level = .U → ((st.strand i).xr x).toNat % 2 ^ 16 < 0x100) :
    exec (.cntrd d x) st = .next ((counter i (((st.strand i).xr x).toNat % 2 ^ 16) (advance i 4 st)).2.setX i d
      (counter i (((st.strand i).xr x).toNat % 2 ^ 16) (advance i 4 st)).1) := by
  show execCntrd d x st = _
  refine issue_ok hi.1 hi.2 ?_
  have h : (decide ((st.strand i).level = .U) && decide (0x100 ≤ ((st.strand i).xr x).toNat % 2 ^ 16)) = false := by
    by_cases hl : (st.strand i).level = .U
    · rw [decide_eq_false (Nat.not_le.2 (hu hl)), Bool.and_false]
    · rw [decide_eq_false hl, Bool.false_and]
  simp only [hx, h, Bool.false_eq_true, if_false]

theorem exec_cntrd_U (hx : (st.strand i).anyX [d, x] = false) (hl : (st.strand i).level = .U)
    (hn : 0x100 ≤ ((st.strand i).xr x).toNat % 2 ^ 16) :
    exec (.cntrd d x) st = .next (takeTrap i ⟨cPrivilege, 0, false, (st.strand i).pc, 0, 0, 0⟩ st) := by
  show execCntrd d x st = _
  refine issue_preciseStop (f := ⟨cPrivilege, 0, 0⟩) hi ?_ rfl
  simp only [hx, hl, decide_eq_true hn, decide_true, Bool.and_self, Bool.false_eq_true, if_false, if_true]

end

/-! What a counter reads (R417). -/

section
variable (s : State) (i : StrandId) {n : Nat}

theorem counter_tile {u : TileId} (hu : i.core = .tile u) (hn : n < 10) :
    counter i n s = (if n = 2 then (s.tile u).counts.toList.getD 0 0 + 1 - (s.tile u).counts.toList.getD 1 0
      else (s.tile u).counts.toList.getD n 0, s) := by
  simp only [counter, hn, if_true, hu, Tile.counter]
  rw [List.getD_eq_getElem?_getD, List.getD_eq_getElem?_getD, List.getD_eq_getElem?_getD]
  simp

theorem counter_control {q : BitVec 2} (hu : i.core = .control q) (hn : n < 10) : counter i n s = s.fresh := by
  simp only [counter, hn, if_true, hu]

theorem counter_quad (hn : 10 ≤ n) :
    counter i n s = (if 0x100 ≤ n ∧ n < 0x107 then (s.quad (coreQuad i.core)).counts.toList.getD (n - 0x100) 0
      else if 0x200 ≤ n ∧ n < 0x207 then (s.quad (coreQuad i.core)).crucible.counter (n - 0x200) else 0, s) := by
  simp only [counter, Nat.not_lt.2 hn, if_false, Bool.and_eq_true, decide_eq_true_eq]
  split_ifs <;> rfl

end

/-! ### The events of the clock, the samples and GO (R411, R413 to R416) -/

theorem clock_traceClock (q : BitVec 2) (o : BitVec 3) (e : Nat) (s : State) (r : BitVec 2) :
    ((traceClock q o e s).quad r).clock = (s.quad r).clock :=
  trace_keeps (p := Quad.clock) (fun _ _ => rfl) r (fun _ _ => rfl) (fun _ _ => rfl) ..

theorem clock_noteResync (q : BitVec 2) (s : State) (r : BitVec 2) : ((noteResync q s).quad r).clock = (s.quad r).clock :=
  modQuad_keeps Quad.clock (f := fun v => { v with trace := { v.trace with resync := true } }) (fun _ => rfl) ..

@[simp] theorem wakeClock_quad (i : StrandId) (s : State) (r : BitVec 2) : (wakeClock i s).quad r = s.quad r := by
  unfold wakeClock
  split <;> rfl

theorem wakeClock_strand {s : State} {i : StrandId} {d : BitVec 5} {w : Word} (h : (s.strand i).status = .blocked (.clock d w)) :
    (wakeClock i s).strand i = Strand.setX { s.strand i with status := .running, pc := (s.strand i).pc + 4 } d w := by
  unfold wakeClock
  rw [h]
  simp only [State.setX, unblock, State.strand_modStrand_self]
  rfl

theorem exec_clockLockDone {st : State} {q : BitVec 2} {i : StrandId} {o : Option (BitVec 3)} {rest : List (StrandId × Option (BitVec 3))}
    (h : (st.quad q).clock.target = (i, o) :: rest) : ∃ r x, exec (.clockLockDone q) st = .next r ∧
      (r.quad q).clock = { locked := o.isSome, broken := false, opp := x, target := rest } ∧ (∀ n, o = some n → x = n) ∧
      ∃ s : State, (r.strand i).unlinked = ((wakeClock i s).strand i).unlinked ∧ s.strand i = st.strand i := by
  have hdone (x : BitVec 3) (s z : State) (hs : s.strand i = st.strand i)
      (hz : z = s.modQuad q fun v => { v with clock := { locked := o.isSome, broken := false, opp := x, target := rest } }) :
      ((noteResync q (traceClock q x (if o.isSome then 0 else 1) (wakeClock i z))).quad q).clock =
        { locked := o.isSome, broken := false, opp := x, target := rest } ∧
      ((noteResync q (traceClock q x (if o.isSome then 0 else 1) (wakeClock i z))).strand i).unlinked = ((wakeClock i z).strand i).unlinked ∧
      z.strand i = st.strand i := by
    subst hz
    refine ⟨?_, unlinked_trace .., hs⟩
    rw [clock_noteResync, clock_traceClock, wakeClock_quad, State.quad_modQuad_self]
  cases o with
  | some n =>
    obtain ⟨hclock, hstrand, hz⟩ := hdone n st _ rfl rfl
    refine ⟨_, n, ?_, hclock, fun m hm => Option.some.inj hm, _, hstrand, hz⟩
    show execClockLockDone q st = _
    rw [execClockLockDone, h]
    rfl
  | none =>
    obtain ⟨hclock, hstrand, hz⟩ := hdone (st.fresh.1.setWidth 3) st.fresh.2 _ rfl rfl
    refine ⟨_, st.fresh.1.setWidth 3, ?_, hclock, nofun, _, hstrand, hz⟩
    show execClockLockDone q st = _
    rw [execClockLockDone, h]
    rfl

/-- A clock's operating point after it has been lowered to a free one below (R414). -/
theorem lowered_opp (c : BitVec 3) (n : Nat) : let x : BitVec 3 := if c = 7 then 7 else BitVec.ofNat 3 (c.toNat + 1 + n % (7 - c.toNat))
    (c ≠ 7 → c.toNat < x.toNat) ∧ (c = 7 → x = 7) := by
  refine ⟨fun h => ?_, fun h => if_pos h⟩
  have hc : c.toNat < 7 := by
    have hne : c.toNat ≠ 7 := fun e => h (BitVec.eq_of_toNat_eq e)
    omega
  have hmod := Nat.mod_lt n (show 0 < 7 - c.toNat by omega)
  rw [if_neg h, BitVec.toNat_ofNat]
  omega

theorem clock_lowerClock (q : BitVec 2) (st : State) : ∃ n, ((lowerClock q st).quad q).clock = { (st.quad q).clock with
    broken := (st.quad q).clock.broken || (st.quad q).clock.locked
    opp := if (st.quad q).clock.opp = 7 then 7 else BitVec.ofNat 3 ((st.quad q).clock.opp.toNat + 1 + n % (7 - (st.quad q).clock.opp.toNat)) } := by
  have hrec (o : BitVec 3) (s : State) :
      ((errorRecord q 6 127 0 0 0 (bumpQuad q 5 1 (traceClock q o 2 s))).quad q).clock = (s.quad q).clock := by
    rw [errorRecord_keeps (p := Quad.clock) (fun _ _ => rfl) (fun _ _ => rfl), bumpQuad, State.quad_modQuad_self]
    exact clock_traceClock ..
  refine ⟨st.fresh.1.toNat, ?_⟩
  unfold lowerClock
  dsimp only
  rw [clock_noteResync]
  have hb : ((st.quad q).clock.broken || ((st.quad q).clock.locked && !(st.quad q).clock.broken)) =
      ((st.quad q).clock.broken || (st.quad q).clock.locked) := by
    cases (st.quad q).clock.broken <;> simp
  split
  · rw [hrec, State.quad_modQuad_self, ← hb]
    rfl
  · rw [State.quad_modQuad_self, ← hb]
    rfl

theorem exec_traceSample {st : State} {q : BitVec 2} (hint : (st.quad q).trace.sampint ≠ 0) (hon : (st.quad q).trace.log2n ≠ 0)
    (htyp : (st.quad q).trace.typeen.getLsbD 4 = true) (hlow : (st.quad q).trace.sampled + 1024 ≤ st.now)
    (hdue : (st.quad q).trace.sampled + (st.quad q).trace.sampint.toNat ≤ st.now) :
    ∃ r, exec (.traceSample q) st = .next r ∧ (r.quad q).trace.sampled = st.now := by
  have hdue' : (st.quad q).trace.sampled + max 1024 (st.quad q).trace.sampint.toNat ≤ st.now := by omega
  have hmax : ¬ st.now < (st.quad q).trace.sampled + Nat.max 1024 (st.quad q).trace.sampint.toNat := Nat.not_lt.2 hdue'
  show ∃ r, execTraceSample q st = .next r ∧ _
  unfold execTraceSample
  simp only [hint, hon, htyp, hmax, decide_false, Bool.not_true, Bool.or_false, Bool.false_eq_true, if_false, event_some]
  refine ⟨_, rfl, ?_⟩
  rw [State.quad_modQuad_self]

/-- What DBGCTL's GO writes names the strand of its value, whatever the register held (R416). -/
theorem merged_go (old v : Word) : (mergeBits old (BitVec.allOnes 64) (v ||| 0x400#64)).setWidth 7 = v.setWidth 7 ∧
    (mergeBits old (BitVec.allOnes 64) (v ||| 0x400#64) >>> 7).setWidth 3 = (v >>> 7).setWidth 3 := by
  have h : mergeBits old (BitVec.allOnes 64) (v ||| 0x400#64) = v ||| 0x400#64 := by
    rw [mergeBits, BitVec.not_allOnes, BitVec.and_zero, BitVec.zero_or, BitVec.and_allOnes]
  rw [h, BitVec.ushiftRight_or_distrib, BitVec.setWidth_or, BitVec.setWidth_or, show (0x400#64).setWidth 7 = 0#7 from rfl,
    show (0x400#64 >>> 7).setWidth 3 = 0#3 from rfl, BitVec.or_zero, BitVec.or_zero]
  exact ⟨rfl, rfl⟩

theorem debugGo_strand {s : State} {q : BitVec 2} {u : BitVec 7} {k : BitVec 3} (h : (s.strand ⟨.tile ⟨q, u⟩, k⟩).status = .blocked .debug) :
    (debugGo q u k s).strand ⟨.tile ⟨q, u⟩, k⟩ = { s.strand ⟨.tile ⟨q, u⟩, k⟩ with
      status := .running, brk := { (s.strand ⟨.tile ⟨q, u⟩, k⟩).brk with pass := some (s.strand ⟨.tile ⟨q, u⟩, k⟩).pc, held := none } } := by
  simp only [debugGo, h, decide_true, Bool.true_or, if_true, State.strand_setStrand_self]

/-- The state after GO. -/
def gone (q : BitVec 2) (v : Word) (st : State) : State := writeTrace q 0x20 (BitVec.allOnes 64) (v ||| 0x400#64) st

theorem gone_strand {st : State} {q : BitVec 2} {v : Word}
    (h : (st.strand ⟨.tile ⟨q, v.setWidth 7⟩, (v >>> 7).setWidth 3⟩).status = .blocked .debug) :
    (gone q v st).strand ⟨.tile ⟨q, v.setWidth 7⟩, (v >>> 7).setWidth 3⟩ =
      { st.strand ⟨.tile ⟨q, v.setWidth 7⟩, (v >>> 7).setWidth 3⟩ with
        status := .running
        brk := { (st.strand ⟨.tile ⟨q, v.setWidth 7⟩, (v >>> 7).setWidth 3⟩).brk with
          pass := some (st.strand ⟨.tile ⟨q, v.setWidth 7⟩, (v >>> 7).setWidth 3⟩).pc, held := none } } := by
  obtain ⟨htile, hslot⟩ := merged_go ((st.quad q).trace.read 0x20) v
  have hgo : ((BitVec.allOnes 64).getLsbD 10 && (v ||| 0x400#64).getLsbD 10) = true := by simp
  simp only [gone, writeTrace, htile, hslot, hgo, if_true]
  exact debugGo_strand h

/-- Settles O35: the equations above, and the fields of the states they give. -/
theorem traceClockAndBreakpointsComplete : Obligations.TraceClockAndBreakpointsComplete := by
  unfold Obligations.TraceClockAndBreakpointsComplete
  refine ⟨fun st i d s hi hc => ?_, fun st i d x a => ⟨fun hi hx => ?_, fun p => ⟨fun o rest h => ?_, fun e he => ?_, ?_, fun v => ?_⟩⟩⟩
  · intro t hb hl hr hruns
    have hu := unlinked_breakStopped (s := st) (i := i) t
    have hstatus := Strand.of_unlinked Strand.status (fun _ => rfl) hu
    have hpc := Strand.of_unlinked Strand.pc (fun _ => rfl) hu
    have hregs := Strand.of_unlinked Strand.x (fun _ => rfl) hu
    have hvl := Strand.of_unlinked Strand.vl (fun _ => rfl) hu
    exact ⟨exec_vsetl_breaks hb hl hr hc hi d s, fun p ps z hf hp hz => exec_breakpointStop hb hl hr hc hruns hf hp hz, hstatus, hpc, hregs, hvl⟩
  · obtain ⟨hd1, hx1⟩ := Strand.anyX_pair hx
    refine ⟨exec_tmark hi hx1, ⟨fun hl => ?_, fun hl k hk => ?_⟩, ?_, fun hl hn => exec_cntrd_U hi hx hl hn, fun u hu hn => ?_, fun u hu hn => ?_,
      fun hlo hhi => ?_, fun hl hn => ?_⟩
    · rw [← Clock.word_eq]
      exact ⟨exec_profLock hi hl hx, exec_profUnlock hi hl hd1⟩
    · exact exec_prof_U hi hk hl
    · refine ⟨_, exec_brkpt hi a hx, ?_, ?_⟩
      · rw [State.xr, State.strand_modStrand_self, advance_strand_self]
        exact Strand.xr_setX_self ..
      · rw [State.strand_modStrand_self]
        exact ⟨rfl, rfl, rfl, rfl⟩
    · rw [exec_cntrd hi hx (fun _ => Nat.lt_trans hn (by decide)), counter_tile _ _ hu hn]
    · rw [exec_cntrd hi hx (fun _ => Nat.lt_trans hn (by decide)), counter_control _ _ hu hn]
    · rw [exec_cntrd hi hx (fun _ => hhi), counter_quad _ _ hlo, if_neg (by omega), if_neg (by omega)]
    · rw [exec_cntrd hi hx (fun h => absurd h hl), counter_quad _ _ (by omega)]
      simp only [hn, true_and]
  · obtain ⟨r, y, hr, hclock, ho, s, hu, hs⟩ := exec_clockLockDone h
    refine ⟨r, hr, by rw [hclock], by rw [hclock], by rw [hclock], by rw [hclock]; exact ho, fun w hw => ?_⟩
    rw [wakeClock_strand (hs ▸ hw), hs] at hu
    have hstatus := Strand.of_unlinked Strand.status (fun _ => rfl) hu
    have hpc := Strand.of_unlinked Strand.pc (fun _ => rfl) hu
    have hreg := Strand.of_unlinked (·.xr d) (fun _ => rfl) hu
    rw [Strand.xr_setX_self] at hreg
    rw [Strand.status_setX] at hstatus
    rw [Strand.pc_setX] at hpc
    exact ⟨hstatus, hpc, hreg⟩
  · obtain ⟨n, hclock⟩ := clock_lowerClock p st
    obtain ⟨hup, hmax⟩ := lowered_opp (st.quad p).clock.opp n
    refine ⟨lowerClock p st, ?_, by rw [hclock], by rw [hclock], by rw [hclock], by rw [hclock]; exact hup, by rw [hclock]; exact hmax⟩
    obtain rfl | rfl := he <;> rfl
  · intro tr hint hon htyp hlow hdue
    exact exec_traceSample hint hon htyp hlow hdue
  · refine ⟨gone p v st, rfl, fun u hi hu hd => ?_⟩
    subst hu hi
    rw [gone_strand hd]
    exact ⟨rfl, rfl, rfl⟩

end Sys2Proof.Machine
end

section
/-! PROOF. Element operations as they fire (R330 to R340). -/

namespace Sys2Proof.Machine

open Sys2Proof

/-! ### What an element operation reads as it fires (R330, R334, R335) -/

/-- The reads of an operation before its operands: the element, its choice, the word of source A and the literal. -/
def readsOf (e : ElemId) (x : Elem) (ctx : Nat) (c : Choice) (op : BitVec 7) (p tg : BitVec 4) (lit : BitVec 5) (st : State) : Fire :=
  ⟨e, x, ctx, c, tg, widthOf tg, 0, 0, if (elemShape op.toNat).sa then x.sourceTok p else none,
    match x.sourceTok p with | some k => k.data | none => x.kr (p.toNat - 8),
    ((st.tile e.tile).fabric.running st.now ctx).lit e.idx.toNat lit.toNat, lit.toNat, false⟩

/-- Its reads with the operands. -/
def Fire.operands (r : Fire) (a b : Nat × Bool) : Fire := { r with s := a.1, u := b.1, conv := a.2 || b.2 }

/-- The state in which the firing of an operation has been made (R330 to R333). -/
def firedState (e : ElemId) (x : Elem) (c : Choice) (op : BitVec 7) (cls : ElemClass) (p q tg : BitVec 4) (r : Fire) (o : Eff) (st now : State) : State :=
  let f := (st.tile e.tile).fabric
  let takes := fireTakes (elemShape op.toNat) c.handler p q
  let ds := x.goals c.word r.lit
  confirmElem e (modElem e (fun y => f.settle st.now e.idx.toNat
    (y.made takes (r.firing takes ds o f.newId st.now) (r.tails (cls.sumsFloats tg) ds o st.now) st.now)) now)

section
variable {st : State} {e : ElemId} {x : Elem} {ctx : Nat} {c : Choice} {op : BitVec 7} {cls : ElemClass} {p q d1 d2 tg : BitVec 4} {lit : BitVec 5}
  {rawA rawB : Bool} {chk : Fire → Option (BitVec 8)} {eff : Fire → Eff} {a b : Nat × Bool}

/-- An operation that its element chooses, legal and with operands, fires with its effect. -/
theorem fireElem_fires (hcur : st.cur = .elem e) (hx : st.fires e = some (x, ctx)) (hc : st.choose e = some c)
    (hw : c.word = packElem op p q d1 d2 tg lit) (hl : fireIllegal cls (elemShape op.toNat) c.handler p q d1 d2 tg = false)
    (ha : (if (elemShape op.toNat).sa then x.source tg rawA p else .ok (0, false)) = .ok a)
    (hb : (if (elemShape op.toNat).sb then x.source tg rawB q else .ok (0, false)) = .ok b)
    (hk : chk (readsOf e x ctx c op p tg lit st) = none) :
    fireElem op cls p q d1 d2 tg lit rawA rawB chk eff st =
      .next (firedState e x c op cls p q tg ((readsOf e x ctx c op p tg lit st).operands a b) (eff ((readsOf e x ctx c op p tg lit st).operands a b))
        st st) := by
  unfold fireElem
  simp only [hcur, hx, hc, hw, hl, ne_eq, not_true, if_false, Bool.false_eq_true]
  split
  next cause h => exact nomatch hk.symm.trans h
  next =>
    rw [ha, hb, firedState, hw]
    rfl

/-- Every firing that an operation's instruction can make, from the state that it acts on: the obligation's form of its effect. -/
def Fires (st : State) (e : ElemId) (x : Elem) (ctx : Nat) (op : BitVec 7) (cls : ElemClass) (p q d1 d2 tg : BitVec 4) (lit : BitVec 5)
    (rawA rawB : Bool) (chk : Fire → Option (BitVec 8)) (eff : Fire → Eff) (o : Out) (now : State) : Prop :=
  ∀ (c : Choice) (a b : Nat × Bool), st.choose e = some c → c.word = packElem op p q d1 d2 tg lit →
    fireIllegal cls (elemShape op.toNat) c.handler p q d1 d2 tg = false →
    (if (elemShape op.toNat).sa then x.source tg rawA p else .ok (0, false)) = Except.ok (ε := BitVec 8) a →
    (if (elemShape op.toNat).sb then x.source tg rawB q else .ok (0, false)) = Except.ok (ε := BitVec 8) b →
    chk (readsOf e x ctx c op p tg lit st) = none →
    o = .next (firedState e x c op cls p q tg ((readsOf e x ctx c op p tg lit st).operands a b) (eff ((readsOf e x ctx c op p tg lit st).operands a b))
      st now)

theorem Fires.of_fireElem {i : Instr} (hcur : st.cur = .elem e) (hx : st.fires e = some (x, ctx))
    (hi : exec i st = fireElem op cls p q d1 d2 tg lit rawA rawB chk eff st) :
    Fires st e x ctx op cls p q d1 d2 tg lit rawA rawB chk eff (exec i st) st := by
  intro c a b hc hw hl ha hb hk
  rw [hi, fireElem_fires hcur hx hc hw hl ha hb hk]

end

/-! A free choice that has been made changes nothing of what an element sees (log entry 7). -/

theorem leg_fresh (st : State) (sent : Nat) (t : TileId) (tx ty : Int) (n : Nat) :
    st.fresh.2.leg sent t tx ty n = st.leg sent t tx ty n := by
  have hguard (m : Nat) (k i : Nat) : st.fresh.2.edgeGuard m t k i = st.edgeGuard m t k i := rfl
  have htile : st.fresh.2.tile t = st.tile t := rfl
  induction n with
  | zero => rfl
  | succ n ih =>
    funext x y h
    rw [State.leg, State.leg, ih]
    simp only [hguard, htile]

theorem flightLeg_fresh (st : State) (sent : Nat) (t : TileId) (fl : Flight) : st.fresh.2.flightLeg sent t fl = st.flightLeg sent t fl := by
  simp only [State.flightLeg, leg_fresh]

theorem delivers_fresh (st : State) (fl : Flight) (n : Nat) : st.fresh.2.delivers fl n = st.delivers fl n := by
  induction n with
  | zero => rfl
  | succ n ih =>
    funext t
    rw [State.delivers, State.delivers, flightLeg_fresh, ih]
    rfl

theorem slotFree_fresh (st : State) (e : ElemId) (x : Elem) (ctx d : Nat) : st.fresh.2.slotFree e x ctx d = st.slotFree e x ctx d := by
  have hroom (t : TileId) (fl : Flight) (n : Nat) : st.fresh.2.room t fl n = st.room t fl n := by
    rw [State.room, State.room, flightLeg_fresh]
    rfl
  have hroute (fl : Flight) : st.fresh.2.routeDelivers fl = st.routeDelivers fl := by
    rw [State.routeDelivers, State.routeDelivers, delivers_fresh]
  have hflight (k : Token) : st.fresh.2.flightOf e d ctx k = st.flightOf e d ctx k := rfl
  have hwaits (fl : Flight) : st.fresh.2.unswitched x d fl = st.unswitched x d fl := rfl
  unfold State.slotFree
  simp only [hroom, hroute, hflight, hwaits]
  rfl

theorem choose_fresh (st : State) (e : ElemId) : st.fresh.2.choose e = st.choose e := by
  have heligible (x : Elem) (ctx : Nat) (w : Parcel) (bits : List Nat) : st.fresh.2.eligible e x ctx w bits = st.eligible e x ctx w bits := by
    have hslots : st.fresh.2.slotFree e x ctx = st.slotFree e x ctx := funext fun d => slotFree_fresh st e x ctx d
    rw [State.eligible, State.eligible, hslots]
    rfl
  have hfires : st.fresh.2.fires e = st.fires e := rfl
  unfold State.choose
  simp only [heligible, hfires]
  rfl

section
variable {st : State} {e : ElemId} {x : Elem} {ctx : Nat} {da db tag : BitVec 4} {l : BitVec 3}

/-- Whether a destination of a CNT is the register that it counts (log entry 7). -/
def cntOwn (da db : BitVec 4) (l : BitVec 3) : Prop := da.toNat = 8 + l.toNat ∨ db.toNat = 8 + l.toNat

theorem fires_cnt (hcur : st.cur = .elem e) (hx : st.fires e = some (x, ctx)) (ho : ¬ cntOwn da db l) :
    Fires st e x ctx 40 .int 0 0 da db tag (l.setWidth 5) false false legal (cntEff true) (exec (.elemCnt da db tag l) st) st := by
  refine Fires.of_fireElem hcur hx ?_
  unfold cntOwn at ho
  have h : (decide (da.toNat = 8 + l.toNat) || decide (db.toNat = 8 + l.toNat)) = false := by
    simpa only [Bool.or_eq_false_iff, decide_eq_false_iff_not, ← not_or] using ho
  show execElemCnt da db tag l st = _
  simp only [execElemCnt, h, Bool.false_eq_true, if_false]

/-- A CNT with such a destination makes a free choice, and then fires with that order of the two writes. -/
theorem fires_cnt_own (hcur : st.cur = .elem e) (hx : st.fires e = some (x, ctx)) (ho : cntOwn da db l) :
    Fires st e x ctx 40 .int 0 0 da db tag (l.setWidth 5) false false legal (cntEff (st.fresh.1.getLsbD 0)) (exec (.elemCnt da db tag l) st)
      st.fresh.2 := by
  unfold cntOwn at ho
  have h : (decide (da.toNat = 8 + l.toNat) || decide (db.toNat = 8 + l.toNat)) = true := by
    simpa only [Bool.or_eq_true, decide_eq_true_eq] using ho
  have hexec : exec (.elemCnt da db tag l) st =
      fireElem 40 .int 0 0 da db tag (l.setWidth 5) false false legal (cntEff (st.fresh.1.getLsbD 0)) st.fresh.2 := by
    show execElemCnt da db tag l st = _
    simp only [execElemCnt, h, if_true]
  intro c a b hc hw hl ha hb hk
  rw [hexec, fireElem_fires (st := st.fresh.2) hcur hx ((choose_fresh st e).trans hc) hw hl ha hb hk]
  rfl

end

/-- Settles O42: each operation is `fireElem` with the effect of its row. -/
theorem elementOperationsFire : Obligations.ElementOperationsFire := by
  unfold Obligations.ElementOperationsFire
  intro st e x ctx sa sb da db tag l5 l3 l2 hcur hx f fired
  have hf : fired = Fires st e x ctx := rfl
  clear_value fired
  subst hf
  intro go ok si k m one val0 val cmp
  iterate 44 refine ⟨Fires.of_fireElem hcur hx rfl, ?_⟩
  exact ⟨fun ho => fires_cnt hcur hx ho, fun ho => ⟨_, fires_cnt_own hcur hx ho⟩⟩

end Sys2Proof.Machine
end

section
/-! PROOF. Tokens that arrive, wait at an edge or are caught (R345 to R347, R370, R371, R374, R376). -/

namespace Sys2Proof.Machine

open Sys2Proof

/-! ### Tokens that arrive (R345 to R347, R374, R376) -/

/-- An offered context changes a fabric in its decision and its waves alone. -/
theorem fabric_offer (t : TileId) (rank n : Nat) (s : State) : ∃ d a w, ((offer t rank n s).tile t).fabric =
    { (s.tile t).fabric with decided := d, decidedAt := a, waves := w } := by
  unfold offer
  rw [fabric_modFabric]
  split <;> exact ⟨_, _, _, rfl⟩

theorem fabric_offerMarker (e : ElemId) (n : Nat) (k : Token) (o : Bool) (s : State) : ∃ d a w, ((offerMarker e n k o s).tile e.tile).fabric =
    { (s.tile e.tile).fabric with decided := d, decidedAt := a, waves := w } := by
  unfold offerMarker
  split
  · split
    · exact fabric_offer ..
    · exact ⟨_, _, _, rfl⟩
  · exact ⟨_, _, _, rfl⟩

/-- The element whose input a token has entered. -/
def Elem.entered (f : Fabric) (now : Nat) (e : ElemId) (n : Nat) (k : Token) (hop : Nat) (x : Elem) : Elem :=
  f.settle now e.idx.toNat ((x.setHop n hop).setQueue n (x.queue n ++ [k]))

theorem queue_entered (f : Fabric) (now : Nat) (e : ElemId) {n : Nat} (k : Token) (hop : Nat) (x : Elem) (hn : n < 4) (hk : k.kind ≠ .marker)
    (hh : ∀ y ∈ (x.queue n).head?, y.kind ≠ .marker) : (Elem.entered f now e n k hop x).queue n = x.queue n ++ [k] := by
  have hq : ((x.setHop n hop).setQueue n (x.queue n ++ [k])).queue n = x.queue n ++ [k] := queue_setQueue_same _ _ hn
  rw [Elem.entered, queue_settle _ _ _ _ hn, hq]
  rw [hq]
  cases hl : x.queue n with
  | nil => simpa using hk
  | cons y r => simpa [hl] using hh

/-- The state in which a token has entered an input. -/
def arrived (e : ElemId) (n : Nat) (k : Token) (o : Bool) (hop : Nat) (s : State) : State :=
  offerMarker e n k o (modElem e (Elem.entered (s.tile e.tile).fabric s.now e n k hop) s)

section
variable {s : State} {e : ElemId} {n : Nat} {k : Token} {o : Bool} {hop : Nat}

/-- A token enters an input that no marker has reached and that no caught token waits for. -/
theorem enterInput_enters (hr : (s.elemAt e).reached = none)
    (hc : ∀ c ∈ (s.tile e.tile).fabric.caught, ¬ (c.elem = e.idx ∧ c.inq.toNat = n)) :
    enterInput e n k o hop s = some (arrived e n k o hop s) := by
  have hany : ((s.tile e.tile).fabric.caught.any fun c => c.elem = e.idx && c.inq.toNat = n) = false := by
    rw [List.any_eq_false]
    intro c hm h
    simp only [Bool.and_eq_true, decide_eq_true_eq] at h
    exact hc c hm h
  have hr' : ((s.tile e.tile).fabric.elem e.idx.toNat).reached = none := hr
  unfold enterInput
  simp only [hr', hany, Bool.false_eq_true, if_false]
  rfl

/-- What has entered leaves the fabric's other parts as they were. -/
theorem fabric_arrived (e : ElemId) (n : Nat) (k : Token) (o : Bool) (hop : Nat) (s : State) : ∃ d a w l,
    ((arrived e n k o hop s).tile e.tile).fabric = { (s.tile e.tile).fabric with decided := d, decidedAt := a, waves := w, elems := l } := by
  obtain ⟨d, a, w, h⟩ := fabric_offerMarker e n k o (modElem e (Elem.entered (s.tile e.tile).fabric s.now e n k hop) s)
  exact ⟨d, a, w, _, h.trans (by rw [fabric_modElem]; rfl)⟩

theorem offerMarker_of_plain (hk : k.kind ≠ .marker) : offerMarker e n k o s = s := by
  unfold offerMarker
  split
  · rw [decide_eq_false hk]
    rfl
  · rfl

end

/-! ### Markers that stop an element (R374) -/

/-- A change of each tile of a map that keeps its name and a part of it keeps that part of the tile that the map holds at a name. -/
theorem amGet_map_tiles {α : Type} (p : Tile → α) {h : TileId × Tile → TileId × Tile} (hkey : ∀ a, (h a).1 = a.1) (hpart : ∀ a, p (h a).2 = p a.2)
    (t : TileId) (l : List (TileId × Tile)) : p ((amGet t (l.map h)).getD {}) = p ((amGet t l).getD {}) := by
  induction l with
  | nil => rfl
  | cons a r ih =>
    obtain ⟨u, v⟩ := a
    rw [List.map_cons, amGet, amGet, hkey]
    split
    · exact hpart _
    · exact ih

theorem elemAt_dropRoute (fl : Flight) (s : State) (e : ElemId) : (dropRoute fl s).elemAt e = s.elemAt e := by
  refine amGet_map_tiles (fun v => v.fabric.elem e.idx.toNat) (fun a => ?_) (fun a => ?_) e.tile s.tiles
  · dsimp only
    split <;> rfl
  · dsimp only
    split <;> rfl

theorem elemAt_catchRoute (d e : ElemId) (n : Nat) (fl : Flight) (s : State) : (catchRoute d n fl s).elemAt e = s.elemAt e := by
  unfold catchRoute
  refine (elemAt_modFabric ?_ e (dropRoute fl s)).trans (elemAt_dropRoute ..)
  intro f
  rfl

theorem reached_markInput (e : ElemId) (n : Nat) (fl : Flight) (s : State) :
    ((markInput e n fl s).elemAt e).reached = some (((s.elemAt e).reached.getD 0) ||| BitVec.twoPow 4 n) := by
  unfold markInput
  rw [elemAt_catchRoute, elemAt_modElem]

/-! ### TOKEN_DELIVERY (R345, R371) -/

section
variable {st : State} {t : TileId} {k : Nat} (hd : (st.tile t).drains = true)
include hd

theorem exec_tokenDelivery_flight {fl : Flight} (hk : (st.tile t).fabric.flights[k]? = some fl) :
    exec (.tokenDelivery t k) st = event st (landFlight t k fl st) := by
  show execTokenDelivery t k st = _
  unfold execTokenDelivery
  simp only [hd, hk, Bool.not_true, Bool.false_eq_true, if_false]

theorem exec_tokenDelivery_feed {j : Nat} {d : Feed} (hk : k = (st.tile t).fabric.flights.length + j)
    (hj : (st.tile t).fabric.feeds[j]? = some d) (hw : (st.tile t).works = true) :
    exec (.tokenDelivery t k) st = event st (landFeed t j d st) := by
  have hnone : (st.tile t).fabric.flights[k]? = none := List.getElem?_eq_none (by omega)
  have hsub : k - (st.tile t).fabric.flights.length = j := by omega
  show execTokenDelivery t k st = _
  unfold execTokenDelivery
  simp only [hd, hnone, hsub, hj, hw, Bool.not_true, Bool.false_eq_true, if_false, if_true]

theorem exec_tokenDelivery_caught {j : Nat} {c : Caught} (hk : k = (st.tile t).fabric.flights.length + (st.tile t).fabric.feeds.length + j)
    (hj : (st.tile t).fabric.caught[j]? = some c) (hw : (st.tile t).works = true) :
    exec (.tokenDelivery t k) st = event st (landCaught t j c st) := by
  have hflights : (st.tile t).fabric.flights[k]? = none := List.getElem?_eq_none (by omega)
  have hfeeds : (st.tile t).fabric.feeds[k - (st.tile t).fabric.flights.length]? = none := List.getElem?_eq_none (by omega)
  have hsub : k - (st.tile t).fabric.flights.length - (st.tile t).fabric.feeds.length = j := by omega
  show execTokenDelivery t k st = _
  unfold execTokenDelivery
  simp only [hd, hflights, hfeeds, hsub, hj, hw, Bool.not_true, Bool.false_eq_true, if_false, if_true]

end

/-- The state in which a token has left its way. -/
def landed (t : TileId) (k : Nat) (st : State) : State := modFabric t (fun f => { f with flights := f.flights.eraseIdx k }) st

section
variable {st : State} {t : TileId} {k : Nat} {fl : Flight} (hdue : fl.due ≤ st.now)
  (hfirst : fl.tok.kind ≠ .preempt → ∀ g ∈ (st.tile t).fabric.flights.take k, g.same fl = true → g.tok.kind = .preempt)
include hdue hfirst

/-- A due token that is the first of its route, or a pre-emption marker, lands where its leg ends. -/
theorem landFlight_eq : landFlight t k fl st =
    match (st.flightLeg fl.sent t fl).1 with
    | .drop u c p => some (dropToken u c p fl (landed t k st))
    | .cross u =>
      if fl.tok.kind = .preempt then some (modFabric u (fun f => { f with flights := f.flights ++ [st.onLeg u fl] }) (landed t k st))
      else if (st.tile u).snapped then none else some (enterEdge u fl (landed t k st))
    | .arrive =>
      if fl.tok.kind = .preempt then some (markInput (gridElem t.quad fl.tx fl.ty) fl.inq.toNat fl (landed t k st))
      else enterInput (gridElem t.quad fl.tx fl.ty) fl.inq.toNat fl.tok (fl.src.tile ≠ t) fl.hop (landed t k st) := by
  have hgo : (decide (st.now < fl.due) ||
      (!decide (fl.tok.kind = .preempt) && ((st.tile t).fabric.flights.take k).any fun g => g.same fl && decide (g.tok.kind ≠ .preempt))) = false := by
    rw [decide_eq_false (Nat.not_lt.2 hdue), Bool.false_or]
    by_cases hp : fl.tok.kind = .preempt
    · rw [decide_eq_true hp]
      rfl
    · rw [decide_eq_false hp, Bool.not_false, Bool.true_and, List.any_eq_false]
      intro g hg h
      rw [Bool.and_eq_true, decide_eq_true_eq] at h
      exact h.2 (hfirst hp g hg h.1)
  unfold landFlight
  simp only [hgo, Bool.false_eq_true, if_false]
  rfl

end

/-! The state in which a token has left its way has the elements and the other parts of the fabric that it had. -/

theorem elemAt_landed (t : TileId) (k : Nat) (st : State) (e : ElemId) : (landed t k st).elemAt e = st.elemAt e :=
  elemAt_modFabric (g := fun f => { f with flights := f.flights.eraseIdx k }) (fun _ => rfl) ..

theorem fabric_landed (t : TileId) (k : Nat) (st : State) :
    ((landed t k st).tile t).fabric = { (st.tile t).fabric with flights := (st.tile t).fabric.flights.eraseIdx k } := fabric_modFabric ..

/-- A token that arrives at an input that is free to it joins its queue. -/
theorem tokenDelivery_arrives {st : State} {t : TileId} {k : Nat} {fl : Flight} {e : ElemId} (hd : (st.tile t).drains = true)
    (hk : (st.tile t).fabric.flights[k]? = some fl) (hdue : fl.due ≤ st.now) (hp : fl.tok.kind ≠ .preempt)
    (hfirst : ∀ g ∈ (st.tile t).fabric.flights.take k, g.same fl = true → g.tok.kind = .preempt)
    (hleg : (st.flightLeg fl.sent t fl).1 = .arrive) (hg : gridElem t.quad fl.tx fl.ty = e) (he : e.tile = t) (hr : (st.elemAt e).reached = none)
    (hc : ∀ c ∈ (st.tile t).fabric.caught, ¬ (c.elem = e.idx ∧ c.inq = fl.inq)) : ∃ r, exec (.tokenDelivery t k) st = .next r ∧
      (r.tile t).fabric.flights = (st.tile t).fabric.flights.eraseIdx k ∧
      (fl.tok.kind ≠ .marker → (∀ y, (st.elemAt e).queue fl.inq.toNat = y :: ((st.elemAt e).queue fl.inq.toNat).tail → y.kind ≠ .marker) →
        (r.elemAt e).queue fl.inq.toNat = (st.elemAt e).queue fl.inq.toNat ++ [fl.tok]) := by
  subst he
  have hcaught : ∀ c ∈ ((landed e.tile k st).tile e.tile).fabric.caught, ¬ (c.elem = e.idx ∧ c.inq.toNat = fl.inq.toNat) := by
    rw [fabric_landed]
    exact fun c hm h => hc c hm ⟨h.1, BitVec.eq_of_toNat_eq h.2⟩
  have hexec : exec (.tokenDelivery e.tile k) st =
      .next (arrived e fl.inq.toNat fl.tok (fl.src.tile ≠ e.tile) fl.hop (landed e.tile k st)) := by
    rw [exec_tokenDelivery_flight hd hk, landFlight_eq hdue fun _ => hfirst, hleg]
    dsimp only
    rw [if_neg hp, hg, enterInput_enters (by rw [elemAt_landed]; exact hr) hcaught, event_some]
  refine ⟨_, hexec, ?_, fun hm hhead => ?_⟩
  · obtain ⟨d, a, w, l, hf⟩ := fabric_arrived e fl.inq.toNat fl.tok (fl.src.tile ≠ e.tile) fl.hop (landed e.tile k st)
    rw [hf, fabric_landed]
  · rw [arrived, offerMarker_of_plain hm, elemAt_modElem, elemAt_landed]
    refine queue_entered _ _ _ _ _ _ fl.inq.isLt hm fun y hy => hhead y ?_
    cases hq : (st.elemAt e).queue fl.inq.toNat with
    | nil => rw [hq] at hy; cases hy
    | cons z r =>
      rw [hq] at hy
      rw [Option.mem_some_iff.1 hy, List.tail_cons]

/-- A pre-emption marker that arrives stops its element at that input. -/
theorem tokenDelivery_stops {st : State} {t : TileId} {k : Nat} {fl : Flight} {e : ElemId} (hd : (st.tile t).drains = true)
    (hk : (st.tile t).fabric.flights[k]? = some fl) (hdue : fl.due ≤ st.now) (hp : fl.tok.kind = .preempt)
    (hleg : (st.flightLeg fl.sent t fl).1 = .arrive) (hg : gridElem t.quad fl.tx fl.ty = e) : ∃ r y, exec (.tokenDelivery t k) st = .next r ∧
      (r.elemAt e).reached = some y ∧ y.getLsbD fl.inq.toNat = true := by
  refine ⟨_, _, ?_, reached_markInput e fl.inq.toNat fl (landed t k st), ?_⟩
  · rw [exec_tokenDelivery_flight hd hk, landFlight_eq hdue fun h => absurd hp h, hleg]
    dsimp only
    rw [if_pos hp, hg, event_some]
  · have hlt : fl.inq.toNat < 4 := fl.inq.isLt
    simp [hlt]

/-- A token of the stream engine enters its input where a slot is free. -/
theorem tokenDelivery_feeds {st : State} {t : TileId} {k j : Nat} {d : Feed} (hd : (st.tile t).drains = true)
    (hk : k = (st.tile t).fabric.flights.length + j) (hj : (st.tile t).fabric.feeds[j]? = some d) (hw : (st.tile t).works = true)
    (hfirst : ∀ g ∈ (st.tile t).fabric.feeds.take j, ¬ (g.elem = d.elem ∧ g.inq = d.inq))
    (hr : ((st.tile t).fabric.elem d.elem.toNat).reached = none)
    (hroom : (st.tile t).fabric.used d.elem.toNat d.inq.toNat + (st.tile t).fabric.owed (.input d.elem d.inq) st.now < 4)
    (hc : ∀ c ∈ (st.tile t).fabric.caught, ¬ (c.elem = d.elem ∧ c.inq = d.inq)) :
    ∃ r, exec (.tokenDelivery t k) st = .next r ∧ (r.tile t).fabric.feeds = (st.tile t).fabric.feeds.eraseIdx j := by
  have hfab := fabric_modFabric t (fun f => { f with feeds := f.feeds.eraseIdx j }) st
  have hany : ((st.tile t).fabric.feeds.take j).any (fun g => decide (g.elem = d.elem) && decide (g.inq = d.inq)) = false := by
    rw [List.any_eq_false]
    intro g hm h
    rw [Bool.and_eq_true, decide_eq_true_eq, decide_eq_true_eq] at h
    exact hfirst g hm h
  have hland : landFeed t j d st =
      enterInput ⟨t, d.elem⟩ d.inq.toNat d.tok false 1 (modFabric t (fun f => { f with feeds := f.feeds.eraseIdx j }) st) := by
    simp only [landFeed, hany, hr, Nat.not_le.2 hroom, Option.isSome_none, Bool.or_false, decide_false, Bool.false_eq_true, if_false]
  have hreach : ((modFabric t (fun f => { f with feeds := f.feeds.eraseIdx j }) st).elemAt ⟨t, d.elem⟩).reached = none := by
    rw [elemAt_modFabric (g := fun f => { f with feeds := f.feeds.eraseIdx j }) fun _ => rfl]
    exact hr
  have hexec : exec (.tokenDelivery t k) st =
      .next (arrived ⟨t, d.elem⟩ d.inq.toNat d.tok false 1 (modFabric t (fun f => { f with feeds := f.feeds.eraseIdx j }) st)) := by
    rw [exec_tokenDelivery_feed hd hk hj hw, hland,
      enterInput_enters hreach (by rw [hfab]; exact fun c hm h => hc c hm ⟨h.1, BitVec.eq_of_toNat_eq h.2⟩), event_some]
  obtain ⟨e, a, w, l, hf⟩ := fabric_arrived ⟨t, d.elem⟩ d.inq.toNat d.tok false 1 (modFabric t (fun f => { f with feeds := f.feeds.eraseIdx j }) st)
  exact ⟨_, hexec, by rw [hf, hfab]⟩

/-- The state in which a caught token has entered its input's queue. -/
def released (t : TileId) (j : Nat) (c : Caught) (st : State) : State :=
  let x := (st.tile t).fabric.elem c.elem.toNat
  modFabric t (fun f => ({ f with caught := f.caught.eraseIdx j }).setElem c.elem.toNat
    (f.settle st.now c.elem.toNat (x.setQueue c.inq.toNat (x.queue c.inq.toNat ++ [c.tok])))) st

/-- A caught token enters its input where the element runs a context and a slot is free. -/
theorem tokenDelivery_releases {st : State} {t : TileId} {k j : Nat} {c : Caught} (hd : (st.tile t).drains = true)
    (hk : k = (st.tile t).fabric.flights.length + (st.tile t).fabric.feeds.length + j) (hj : (st.tile t).fabric.caught[j]? = some c)
    (hw : (st.tile t).works = true) (hfirst : ∀ d ∈ (st.tile t).fabric.caught.take j, ¬ (d.elem = c.elem ∧ d.inq = c.inq))
    (hx : ((st.tile t).fabric.elem c.elem.toNat).ctx ≠ none) (hr : ((st.tile t).fabric.elem c.elem.toNat).reached = none)
    (hroom : (st.tile t).fabric.held c.elem.toNat c.inq.toNat < 4) :
    ∃ r, exec (.tokenDelivery t k) st = .next r ∧ (r.tile t).fabric.caught = (st.tile t).fabric.caught.eraseIdx j := by
  have hany : ((st.tile t).fabric.caught.take j).any (fun g => decide (g.elem = c.elem) && decide (g.inq = c.inq)) = false := by
    rw [List.any_eq_false]
    intro g hm h
    rw [Bool.and_eq_true, decide_eq_true_eq, decide_eq_true_eq] at h
    exact hfirst g hm h
  have hctx : ((st.tile t).fabric.elem c.elem.toNat).ctx.isNone = false := Option.isNone_eq_false_iff.2 (Option.isSome_iff_ne_none.2 hx)
  have hland : landCaught t j c st = some (offerMarker ⟨t, c.elem⟩ c.inq.toNat c.tok c.outside (released t j c st)) := by
    simp only [landCaught, hany, hctx, hr, Nat.not_le.2 hroom, Option.isSome_none, Bool.or_false, Bool.and_false, decide_false, Bool.false_eq_true,
      if_false, released]
  obtain ⟨d, a, w, hf⟩ := fabric_offerMarker ⟨t, c.elem⟩ c.inq.toNat c.tok c.outside (released t j c st)
  exact ⟨_, (exec_tokenDelivery_caught hd hk hj hw).trans (by rw [hland, event_some]), by rw [hf, released, fabric_modFabric, Fabric.setElem]⟩

/-- The head of an edge queue goes on its next leg where a slot is free to it. -/
theorem exec_edgeQueueForward {st : State} {t : TileId} {k : Nat} {g : EdgeQueue} {fl : Flight} {rest : List Flight} (hd : (st.tile t).drains = true)
    (hk : (st.tile t).fabric.edges[k]? = some g) (hg : g.toks = fl :: rest) (hroom : fl.tok.slotted = true → st.room t fl 0 = true) :
    let s := modFabric t (fun f =>
      { f with
        edges := if rest = [] then f.edges.eraseIdx k else f.edges.set k { g with toks := rest }
        flights := f.flights ++ [{ fl with due := st.now + (st.flightLeg st.now t fl).2, hop := (st.flightLeg st.now t fl).2 }] }) st
    exec (.edgeQueueForward t k) st =
      .next (if fl.tok.slotted then giveBack t [⟨.edge fl.src fl.port fl.ctx, st.now + fl.hop⟩] s else s) := by
  have hgo : (fl.tok.slotted && !st.room t fl 0) = false := by
    cases hs : fl.tok.slotted with
    | false => rfl
    | true => rw [hroom hs]; rfl
  show execEdgeQueueForward t k st = _
  simp only [execEdgeQueueForward, hk, hg, hd, hgo, Bool.not_true, Bool.or_false, Bool.false_eq_true, if_false, event_some, modFabric, State.modTile,
    List.isEmpty_iff, State.onLeg]

/-- Settles O44: where a token's leg ends, and what enters. -/
theorem tokensTravelAndQueue : Obligations.TokensTravelAndQueue := by
  unfold Obligations.TokensTravelAndQueue
  intro st t k v f hd
  refine ⟨fun fl hk hdue hp hfirst => ⟨fun u c p hleg => ?_, fun u hleg hs => ?_, fun e hleg hg he hr hc =>
      tokenDelivery_arrives hd hk hdue hp hfirst hleg hg he hr hc⟩,
    fun fl e hk hdue hp hleg hg _ => tokenDelivery_stops hd hk hdue hp hleg hg,
    fun j d hk hj hw hfirst hr hroom hc => tokenDelivery_feeds hd hk hj hw hfirst hr hroom hc,
    fun j c hk hj hw hfirst hx hr hroom => tokenDelivery_releases hd hk hj hw hfirst hx hr hroom,
    fun g fl rest hk hg hroom => exec_edgeQueueForward hd hk hg hroom⟩
  · rw [exec_tokenDelivery_flight hd hk, landFlight_eq hdue fun _ => hfirst, hleg]
    rfl
  · rw [exec_tokenDelivery_flight hd hk, landFlight_eq hdue fun _ => hfirst, hleg]
    simp only [if_neg hp, hs, Bool.false_eq_true, if_false]
    rfl

end Sys2Proof.Machine
end

section
/-! PROOF. Memory operations of the fabric, and the stream-out port (R338, R348 to R352, R370). -/

namespace Sys2Proof.Machine

open Sys2Proof

/-! ### The access of a memory operation (R338, R348 to R350) -/

/-- The address of a memory operation, in its tile's own window. -/
def MemOp.ea (o : MemOp) : Addr := BitVec.ofNat 80 (twb + o.off)

/-- What the window of a tile names is storage of a tile. -/
theorem loc_windowAddr {c : CoreId} {va : Addr} {acc : Access} {s : State} {p : Phys} (h : windowAddr c va acc s = .ok p) :
    ∃ u o, p.loc = .tmem u o := by
  -- The offset is a variable from here on: the kernel does not meet a difference with the window's base.
  obtain ⟨off, hoff⟩ : ∃ off, off = va.toNat - twb := ⟨_, rfl⟩
  simp only [windowAddr, ← hoff] at h
  split at h
  · cases h
  · split at h
    · cases h
    · split at h
      · cases h
      · split_ifs at h
        cases h
        exact ⟨_, _, rfl⟩
section
variable {t : TileId} {o : MemOp} {s : State}

theorem opAccess_noacc (h : o.noacc = true) : opAccess t o s = .ok (0, s) := by
  simp only [opAccess, h, if_true]

variable (ha : o.noacc = false) (hs : 0 < o.size)
include ha hs

theorem opAccess_misaligned (hm : o.off % o.size ≠ 0) : opAccess t o s = .error ⟨cMisaligned, o.ea, 0⟩ := by
  have hsize : Nat.max o.size 1 = o.size := Nat.max_eq_left hs
  have hne : (o.off % o.size != 0) = true := by simpa using hm
  simp only [opAccess, ha, hsize, hne, Bool.false_eq_true, if_false, if_true]
  rfl

variable (hm : o.off % o.size = 0)
include hm

theorem opAccess_aligned : opAccess t o s =
    match windowAddr (.tile t) o.ea (if o.load then .read else .write) s with
    | .error f => .error f
    | .ok p =>
      if o.load then
        match readPhys p o.size s with
        | .ok v => .ok (v, s)
        | .error f => .error { f with addr := o.ea }
      else
        let s := writePhys none p (leBytes o.size o.data.toNat) s
        .ok (0, if !o.plain then markFull p.loc o.size s
          else if (o.off + o.size) % 16 = 0 then markFull (p.loc.add (o.size - 1)) 1 s else s) := by
  have hsize : Nat.max o.size 1 = o.size := Nat.max_eq_left hs
  have heq : (o.off % o.size != 0) = false := by simpa using hm
  simp only [opAccess, ha, hsize, heq, Bool.false_eq_true, if_false]
  rfl

end

/-! ### WAVE_OPERATION_PERFORM (R338, R343, R348 to R352) -/

/-- The state in which a memory operation has left the tile's interface, noted in its wave. -/
def performed (t : TileId) (k : Nat) (o : MemOp) (s : State) : State :=
  modFabric t (fun g => { g with ops := g.ops.eraseIdx k }.noteDone o) s

/-- The state in which a fault holds a memory operation. -/
def opHeld (t : TileId) (k : Nat) (o : MemOp) (s : State) : State :=
  modFabric t (fun g => { g with ops := g.ops.set k { o with held := true } }) s

section
variable {st : State} {t : TileId} {k : Nat} {o : MemOp} (hk : (st.tile t).fabric.ops[k]? = some o) (hd : (st.tile t).drains = true)
  (hh : o.held = false) (hdue : o.due ≤ st.now) (ho : (st.tile t).fabric.ordered o = true)
include hk hd hh hdue ho

theorem exec_waveOperationPerform : exec (.waveOperationPerform t k) st = .next (
    match opAccess t o st with
    | .error f => elemFault ⟨t, o.elem⟩ o.entry f.cause f.addr o.seq o.wave.toNat (opHeld t k o st)
    | .ok (x, s) => if o.load && !o.noacc then finishLoad ⟨t, o.elem⟩ o x (performed t k o s) else performed t k o s) := by
  have hnow : decide (st.now < o.due) = false := decide_eq_false (Nat.not_lt.2 hdue)
  show execWaveOperationPerform t k st = _
  unfold execWaveOperationPerform
  simp only [hk, hd, hh, hnow, ho, Bool.not_true, Bool.or_false, Bool.false_eq_true, if_false]
  cases opAccess t o st <;> rfl

variable (ha : o.noacc = false) (hs : 0 < o.size) (hm : o.off % o.size = 0)
include ha hs hm

theorem waveOperation_absent {g : Flt} (hw : windowAddr (.tile t) o.ea (if o.load then .read else .write) st = .error g) :
    exec (.waveOperationPerform t k) st = .next (elemFault ⟨t, o.elem⟩ o.entry g.cause g.addr o.seq o.wave.toNat (opHeld t k o st)) := by
  rw [exec_waveOperationPerform hk hd hh hdue ho, opAccess_aligned ha hs hm, hw]

theorem waveOperation_loads {p : Phys} {n : Nat} (hl : o.load = true) (hw : windowAddr (.tile t) o.ea .read st = .ok p)
    (hr : readPhys p o.size st = .ok n) : exec (.waveOperationPerform t k) st = .next (finishLoad ⟨t, o.elem⟩ o n (performed t k o st)) := by
  rw [exec_waveOperationPerform hk hd hh hdue ho, opAccess_aligned ha hs hm, hl, if_pos rfl, hw]
  simp only [hr, ha, if_true, Bool.not_false, Bool.and_self]

theorem waveOperation_unread {p : Phys} {g : Flt} (hl : o.load = true) (hw : windowAddr (.tile t) o.ea .read st = .ok p)
    (hr : readPhys p o.size st = .error g) :
    exec (.waveOperationPerform t k) st = .next (elemFault ⟨t, o.elem⟩ o.entry g.cause o.ea o.seq o.wave.toNat (opHeld t k o st)) := by
  rw [exec_waveOperationPerform hk hd hh hdue ho, opAccess_aligned ha hs hm, hl, if_pos rfl, hw]
  simp only [hr, if_true]

theorem waveOperation_stores {p : Phys} (hl : o.load = false) (hw : windowAddr (.tile t) o.ea .write st = .ok p) :
    exec (.waveOperationPerform t k) st = .next (performed t k o (
      if !o.plain then markFull p.loc o.size (writePhys none p (leBytes o.size o.data.toNat) st)
      else if (o.off + o.size) % 16 = 0 then markFull (p.loc.add (o.size - 1)) 1 (writePhys none p (leBytes o.size o.data.toNat) st)
      else writePhys none p (leBytes o.size o.data.toNat) st)) := by
  rw [exec_waveOperationPerform hk hd hh hdue ho, opAccess_aligned ha hs hm, hl, if_neg Bool.false_ne_true, hw]
  simp only [Bool.false_eq_true, if_false, Bool.false_and]

end

theorem fabric_markFull (l : Loc) (n : Nat) (s : State) (u : TileId) : ((markFull l n s).tile u).fabric = (s.tile u).fabric := by
  cases l with
  | mem a => rfl
  | tmem t o => exact setFull_keeps t o n s Tile.fabric (fun _ _ => rfl) u

theorem markFull_mem (l : Loc) (n : Nat) (s : State) : (markFull l n s).mem = s.mem := by
  cases l with
  | mem a => rfl
  | tmem t o => exact setFull_mem ..

theorem fabric_writeTmem (k : Option StrandId) (t u : TileId) (o : Nat) (bs : List Byte) (s : State) :
    ((writeTmem k t o bs s).tile u).fabric = (s.tile u).fabric := by
  rw [writeTmem_tile]
  split
  · next h => rw [h]
  · rfl

theorem ops_performed {o : MemOp} (h : o.plain = true) (t : TileId) (k : Nat) (s : State) :
    ((performed t k o s).tile t).fabric.ops = (s.tile t).fabric.ops.eraseIdx k ∧ (performed t k o s).mem = s.mem := by
  refine ⟨?_, rfl⟩
  rw [performed, fabric_modFabric, Fabric.noteDone, if_pos h]

/-- A plain store leaves the interface, and its bytes are written (R338). -/
theorem waveOperation_plain {st : State} {t : TileId} {k : Nat} {o : MemOp} {p : Phys} (hk : (st.tile t).fabric.ops[k]? = some o)
    (hd : (st.tile t).drains = true) (hh : o.held = false) (hdue : o.due ≤ st.now) (ho : (st.tile t).fabric.ordered o = true)
    (ha : o.noacc = false) (hs : 0 < o.size) (hm : o.off % o.size = 0) (hl : o.load = false) (hp : o.plain = true)
    (hw : windowAddr (.tile t) o.ea .write st = .ok p) : ∃ r, exec (.waveOperationPerform t k) st = .next r ∧
      (r.tile t).fabric.ops = (st.tile t).fabric.ops.eraseIdx k ∧ r.mem = (writePhys none p (leBytes o.size o.data.toNat) st).mem := by
  obtain ⟨u, n, hloc⟩ := loc_windowAddr hw
  have hfab : ((writePhys none p (leBytes o.size o.data.toNat) st).tile t).fabric = (st.tile t).fabric := by
    rw [writePhys_tmem hloc, fabric_writeTmem]
  refine ⟨_, waveOperation_stores hk hd hh hdue ho ha hs hm hl hw, ?_⟩
  rw [hp, (ops_performed hp t k _).1, (ops_performed hp t k _).2, if_neg (by simp)]
  split
  · rw [fabric_markFull, markFull_mem, hfab]
    exact ⟨rfl, rfl⟩
  · rw [hfab]
    exact ⟨rfl, rfl⟩

/-! ### STREAM_OUT_TAKE (R370) -/

/-- Granules that fill change the tags and the full bits of a tile alone. -/
theorem fillGranules_keeps {α : Type} (p : Tile → α) (hf : ∀ v l, p { v with full := l } = p v) (ht : ∀ v l, p { v with tags := l } = p v)
    (t : TileId) (ch : BitVec 6) (base : Nat) (gs : List Nat) (s : State) (u : TileId) : p ((fillGranules t ch base gs s).tile u) = p (s.tile u) :=
  foldl_keeps (fun s => p (s.tile u)) (fun s g => by
    rw [arrive_tile]
    exact (modTile_keeps p (fun v => ht v _) ..).trans (setFull_keeps t _ _ s p hf u)) gs s

/-- The width of a token, and the position in the buffer at which the stream-out port writes it (log entry 40). -/
def outPos (b : Binding) (tok : Token) : Nat := if widthOf tok.tag = 4 then b.pos else b.pos + b.pos % 2

/-- The offset in TMEM of what the stream-out port writes. -/
def outOff (b : Binding) (tok : Token) : Nat := 16 * b.boff + outPos b tok / 2

/-- The position of the stream-out port after a token. -/
def outNext (b : Binding) (tok : Token) : Nat := outPos b tok + widthOf tok.tag / 4

/-- The state in which the stream-out port has taken a token and advanced. -/
def portTook (t : TileId) (k : Nat) (b : Binding) (tok : Token) (rest : List Token) (st : State) : State :=
  modFabric t (fun f => ({ f with bindings := f.bindings.set k { b with pos := outNext b tok } }).setElem b.elem.toNat
    { (st.tile t).fabric.elem b.elem.toNat with strm := rest }) st

/-- The state in which it has written the token. -/
def portWrote (t : TileId) (k : Nat) (b : Binding) (tok : Token) (rest : List Token) (st : State) : State :=
  let s := portTook t k b tok rest st
  let s := if widthOf tok.tag = 4 then writeNib ⟨.tmem t (outOff b tok), false, 0, false, none⟩ (outPos b tok % 2 = 1) tok.data.toNat s
    else writeTmem none t (outOff b tok) (leBytes (widthOf tok.tag / 8) tok.data.toNat) s
  fillGranules t b.ch (16 * b.boff) (range (b.pos / 32) (outNext b tok / 32)) s

section
variable {st : State} {t : TileId} {k : Nat} {b : Binding} {tok : Token} {rest : List Token} (hk : (st.tile t).fabric.bindings[k]? = some b)
  (ho : b.out = true) (hw : (st.tile t).works = true) (hr : ((st.tile t).fabric.elem b.elem.toNat).reached = none)
  (hs : ((st.tile t).fabric.elem b.elem.toNat).strm = tok :: rest)
include hk ho hw hr hs

theorem exec_streamOutTake : exec (.streamOutTake t k) st = event st (
    if 0x300000 < 16 * b.boff + (outNext b tok + 1) / 2 then
      if ((st.tile t).fabric.elem b.elem.toNat).status = .frozen then none
      else some (elemFault ⟨t, b.elem⟩ 0 cAbsent (BitVec.ofNat 80 (twb + 0x1C000000 + outOff b tok)) 0 0 st)
    else some (portWrote t k b tok rest st)) := by
  have hgo : (!b.out || !(st.tile t).works || ((st.tile t).fabric.elem b.elem.toNat).reached.isSome) = false := by rw [ho, hw, hr]; rfl
  show execStreamOutTake t k st = _
  unfold execStreamOutTake
  simp only [hk, hs, hgo, Bool.false_eq_true, if_false]
  rfl

end

section
variable (t : TileId) (k : Nat) (b : Binding) (tok : Token) (rest : List Token) (st : State)

theorem fabric_portWrote : ((portWrote t k b tok rest st).tile t).fabric =
    ({ (st.tile t).fabric with bindings := (st.tile t).fabric.bindings.set k { b with pos := outNext b tok } }).setElem b.elem.toNat
      { (st.tile t).fabric.elem b.elem.toNat with strm := rest } := by
  have htook : ((portTook t k b tok rest st).tile t).fabric = _ := fabric_modFabric ..
  unfold portWrote
  rw [fillGranules_keeps Tile.fabric (fun _ _ => rfl) (fun _ _ => rfl)]
  split
  · rw [writeNib, writePhys_tmem rfl, fabric_writeTmem, htook]
  · rw [fabric_writeTmem, htook]

theorem tmem_portWrote (hm : (st.tile t).tmem.wf = true) {j : Nat} (hj : j < widthOf tok.tag / 8) :
    ((portWrote t k b tok rest st).tile t).tmem.get (outOff b tok + j) = BitVec.ofNat 8 (tok.data.toNat / 256 ^ j) := by
  have h4 : widthOf tok.tag ≠ 4 := fun h => by rw [h] at hj; exact Nat.not_lt_zero j hj
  have htook : ((portTook t k b tok rest st).tile t).tmem = (st.tile t).tmem := by
    unfold portTook modFabric
    rw [State.tile_modTile_self]
  have hlen : j < (leBytes (widthOf tok.tag / 8) tok.data.toNat).length := by rw [leBytes_length]; exact hj
  unfold portWrote
  rw [fillGranules_keeps Tile.tmem (fun _ _ => rfl) (fun _ _ => rfl), if_neg h4, writeTmem_tile, if_pos rfl]
  dsimp only
  rw [htook, Mem.get_write_inside hm _ _ _ hlen, leBytes_getElem]

end

end Sys2Proof.Machine
end

section
/-! PROOF. Context switches, snapshots and the marker timeout (R368, R374). -/

namespace Sys2Proof.Machine

open Sys2Proof

/-! ### ELEMENT_CONTEXT_SWITCH (R368) -/

/-- A token that leaves an element changes its tile's flights alone. -/
theorem tile_sendToken (e : ElemId) (p c : Nat) (k : Token) (s : State) : ∃ l, (sendToken e p c k s).tile e.tile =
    { s.tile e.tile with fabric := { (s.tile e.tile).fabric with flights := l } } := by
  unfold sendToken
  split
  · exact ⟨_, rfl⟩
  · exact ⟨_, State.tile_modTile_self ..⟩

theorem tile_sendMarkers (e : ElemId) (c : Nat) (k : Token) (s : State) : ∃ l, (sendMarkers e c k s).tile e.tile =
    { s.tile e.tile with fabric := { (s.tile e.tile).fabric with flights := l } } := by
  unfold sendMarkers
  generalize List.range 4 = ps
  induction ps generalizing s with
  | nil => exact ⟨_, rfl⟩
  | cons p r ih =>
    obtain ⟨l, hl⟩ := tile_sendToken e p c k s
    obtain ⟨m, hm⟩ := ih (sendToken e p c k s)
    exact ⟨m, by rw [List.foldl_cons, hm, hl]⟩

/-- The element that has taken the markers it awaited and runs a new context. -/
def Elem.switched (f : Fabric) (now q d inm : Nat) (waits : List (Nat × Nat)) (x : Elem) : Elem :=
  let x := (List.range 4).foldl (fun x n => if inm.testBit n then x.setQueue n ((x.queue n).drop 1) else x) x
  f.settle now q { x with ctx := some d, status := .running, start := Nat.max x.start (x.met.getD now + 32), turned := true,
                          inject := false, met := none, turns := x.turns + 1, waits := waits }

theorem foldl_takeMarkers (inm : Nat) (l : List Nat) (x : Elem) :
    ∃ v, l.foldl (fun x n => if inm.testBit n then x.setQueue n ((x.queue n).drop 1) else x) x = { x with ins := v } := by
  induction l generalizing x with
  | nil => exact ⟨_, rfl⟩
  | cons n r ih =>
    obtain ⟨v, hv⟩ := ih (if inm.testBit n then x.setQueue n ((x.queue n).drop 1) else x)
    refine ⟨v, (List.foldl_cons ..).trans (hv.trans ?_)⟩
    split <;> rfl

theorem switched_eq (f : Fabric) (now q d inm : Nat) (waits : List (Nat × Nat)) (x : Elem) : ∃ v m, x.switched f now q d inm waits =
    { x with
      ins := v, ctx := some d, status := .running, start := Nat.max x.start (x.met.getD now + 32), turned := true, inject := false
      met := m, turns := x.turns + 1, waits := waits } := by
  obtain ⟨w, hw⟩ := foldl_takeMarkers inm (List.range 4) x
  unfold Elem.switched
  rw [hw]
  obtain ⟨v, m, h⟩ := settle_eq f now q { x with
    ins := w, ctx := some d, status := .running, start := Nat.max x.start (x.met.getD now + 32), turned := true, inject := false
    met := none, turns := x.turns + 1, waits := waits }
  exact ⟨v, m, h⟩

/-- The state in which an element has switched, and its markers have set out. -/
def switchedState (e : ElemId) (d old : Nat) (x : Elem) (st : State) : State :=
  modFabric e.tile (fun f => f.setElem e.idx.toNat
      (x.switched f st.now e.idx.toNat d (((st.tile e.tile).fabric.context old).inm e.idx.toNat) (st.waitsFor e d)))
    (sendMarkers e old ⟨BitVec.ofNat 64 d, 0, .marker⟩ st)

/-- The state after the switch: the phase closes with the last element (R368). -/
def switchedOrClosed (e : ElemId) (d old : Nat) (st : State) : State :=
  let s := switchedState e d old (st.elemAt e) st
  if (s.tile e.tile).phaseOver then closePhase e.tile d s else s

theorem exec_elementContextSwitch {st : State} {e : ElemId} {d old : Nat} (hd : (st.tile e.tile).fabric.decided = some d)
    (hat : (st.tile e.tile).fabric.decidedAt.1 < st.now) (hx : (st.elemAt e).ctx = some old) (hw : (st.tile e.tile).works = true)
    (ht : (st.elemAt e).turned = false) (hf : (st.elemAt e).status ≠ .frozen) (hr : (st.elemAt e).reached = none)
    (hfir : (st.elemAt e).firings = []) (hops : ∀ o ∈ (st.tile e.tile).fabric.ops, o.elem ≠ e.idx)
    (hinj : ((st.tile e.tile).fabric.context old).inm e.idx.toNat = 0 → (st.elemAt e).inject = true)
    (hmark : ∀ n, n < 4 → (((st.tile e.tile).fabric.context old).inm e.idx.toNat).testBit n = true →
      ∃ y z, (st.elemAt e).queue n = y :: z ∧ y.kind = .marker) :
    exec (.elementContextSwitch e) st = .next (switchedOrClosed e d old st) := by
  have hmarked : (st.elemAt e).marked (((st.tile e.tile).fabric.context old).inm e.idx.toNat) = true := by
    rw [Elem.marked, List.all_eq_true]
    intro n hn
    rw [List.mem_range] at hn
    cases hb : (((st.tile e.tile).fabric.context old).inm e.idx.toNat).testBit n with
    | false => rfl
    | true =>
      obtain ⟨y, z, hq, hk⟩ := hmark n hn hb
      rw [hq]
      exact decide_eq_true hk
  have hany : ((st.tile e.tile).fabric.ops.any fun o => decide (o.elem = e.idx)) = false := by
    rw [List.any_eq_false]
    intro o ho h
    exact hops o ho (of_decide_eq_true h)
  have hcond : (if ((st.tile e.tile).fabric.context old).inm e.idx.toNat = 0 then !(st.elemAt e).inject
      else !(st.elemAt e).marked (((st.tile e.tile).fabric.context old).inm e.idx.toNat)) = false := by
    split
    · next h => rw [hinj h]; rfl
    · rw [hmarked]; rfl
  have hgo : (!(st.tile e.tile).works || (st.elemAt e).turned || decide (st.now ≤ (st.tile e.tile).fabric.decidedAt.1) ||
      decide ((st.elemAt e).status = .frozen) || (st.elemAt e).reached.isSome || !(st.elemAt e).firings.isEmpty ||
      ((st.tile e.tile).fabric.ops.any fun o => decide (o.elem = e.idx)) ||
      (if ((st.tile e.tile).fabric.context old).inm e.idx.toNat = 0 then !(st.elemAt e).inject
        else !(st.elemAt e).marked (((st.tile e.tile).fabric.context old).inm e.idx.toNat))) = false := by
    rw [hcond, hany, hw, ht, decide_eq_false (Nat.not_le.2 hat), decide_eq_false hf, hr, hfir]
    rfl
  have hx' : ((st.tile e.tile).fabric.elem e.idx.toNat).ctx = some old := hx
  show execElementContextSwitch e st = _
  unfold execElementContextSwitch
  unfold State.elemAt at hgo
  simp only [hd, hx', hgo, Bool.false_eq_true, if_false]
  rfl

/-- The end of a phase clears the marks of the elements, and selects the context. -/
theorem fabric_closePhase (t : TileId) (d : Nat) (s : State) : ∃ w n, ((closePhase t d s).tile t).fabric =
    { (s.tile t).fabric with
      waves := w, selected := some d, decided := none, turning := n
      elems := (s.tile t).fabric.elems.map fun (q, x) => (q, { x with turned := false, inject := false }) } := by
  have hend (u : State) : ∃ n, ((endTurn t u).tile t).fabric = { (u.tile t).fabric with turning := n } := by
    unfold endTurn
    dsimp only
    cases (u.tile t).fabric.turning with
    | none => exact ⟨_, rfl⟩
    | some a => exact ⟨none, by rw [traceEvent_tile, fabric_modFabric]⟩
  obtain ⟨n, hn⟩ := hend (modFabric t (fun f =>
    { f with
      waves := if f.selected = some d then f.waves.setIfInBounds d {} else f.waves
      selected := some d
      decided := none
      elems := f.elems.map fun (q, x) => (q, { x with turned := false, inject := false }) }) s)
  exact ⟨_, n, by rw [closePhase, hn, fabric_modFabric]⟩

theorem elemAt_closePhase (e : ElemId) (d : Nat) (s : State) :
    (closePhase e.tile d s).elemAt e = { s.elemAt e with turned := false, inject := false } := by
  obtain ⟨w, n, h⟩ := fabric_closePhase e.tile d s
  have hget := amGet_map_keyed e.idx.toNat (fun _ x => ({ x with turned := false, inject := false } : Elem)) (s.tile e.tile).fabric.elems
  rw [State.elemAt, h, State.elemAt, Fabric.elem, Fabric.elem, hget]
  cases amGet e.idx.toNat (s.tile e.tile).fabric.elems <;> rfl

section
variable {st : State} {e : ElemId} {d old : Nat} {x : Elem}

theorem Fabric.elem_setElem_same (f : Fabric) (q : Nat) (y : Elem) : (f.setElem q y).elem q = y := by
  rw [Fabric.elem, Fabric.setElem, amGet_amSet_self]
  rfl

theorem Fabric.elem_setElem_ne (f : Fabric) {p q : Nat} (y : Elem) (h : p ≠ q) : (f.setElem q y).elem p = f.elem p := by
  rw [Fabric.elem, Fabric.setElem, amGet_amSet_ne h, Fabric.elem]

theorem tile_switchedState : ∃ l v m, (switchedState e d old x st).tile e.tile = { st.tile e.tile with
    fabric := ({ (st.tile e.tile).fabric with flights := l }).setElem e.idx.toNat
      { x with
        ins := v, ctx := some d, status := .running, start := Nat.max x.start (x.met.getD st.now + 32), turned := true, inject := false
        met := m, turns := x.turns + 1, waits := st.waitsFor e d } } := by
  obtain ⟨l, hl⟩ := tile_sendMarkers e old ⟨BitVec.ofNat 64 d, 0, .marker⟩ st
  obtain ⟨v, m, hx⟩ := switched_eq { (st.tile e.tile).fabric with flights := l } st.now e.idx.toNat d
    (((st.tile e.tile).fabric.context old).inm e.idx.toNat) (st.waitsFor e d) x
  refine ⟨l, v, m, ?_⟩
  rw [switchedState, modFabric, State.tile_modTile_self, hl]
  dsimp only
  rw [hx]

/-- The phase is over once every other element of the tile outside a matrix region has turned. -/
theorem phaseOver_switchedState : ((switchedState e d old x st).tile e.tile).phaseOver = true ↔
    ∀ q, q < 256 → q ≠ e.idx.toNat → (st.tile e.tile).inMatrix q = false → ((st.tile e.tile).fabric.elem q).turned = true := by
  obtain ⟨l, v, m, h⟩ := tile_switchedState (st := st) (e := e) (d := d) (old := old) (x := x)
  rw [h, Tile.phaseOver, List.all_eq_true]
  refine ⟨fun hall q hq hne hout => ?_, fun hall q hq => ?_⟩
  · have := hall q (List.mem_range.2 hq)
    rw [Fabric.elem_setElem_ne _ _ hne, Bool.or_eq_true] at this
    exact this.resolve_left fun hin => Bool.false_ne_true (hout.symm.trans hin)
  · by_cases hne : q = e.idx.toNat
    · rw [hne, Fabric.elem_setElem_same]
      exact Bool.or_true _
    · rw [Fabric.elem_setElem_ne _ _ hne, Bool.or_eq_true]
      cases hin : (st.tile e.tile).inMatrix q with
      | true => exact .inl hin
      | false => exact .inr (hall q (List.mem_range.1 hq) hne hin)

end

/-- What the switch of an element leaves of it and of its fabric. -/
theorem switched_fields {st : State} {e : ElemId} {d old : Nat} (hd : (st.tile e.tile).fabric.decided = some d) {r : State}
    (hr : switchedOrClosed e d old st = r) :
    (r.elemAt e).ctx = some d ∧ (r.elemAt e).status = .running ∧
    (r.elemAt e).start = Nat.max (st.elemAt e).start ((st.elemAt e).met.getD st.now + 32) ∧
    (r.elemAt e).k = (st.elemAt e).k ∧ (r.elemAt e).b = (st.elemAt e).b ∧
    ((∀ q, q < 256 → q ≠ e.idx.toNat → (st.tile e.tile).inMatrix q = false → ((st.tile e.tile).fabric.elem q).turned = true) →
      (r.tile e.tile).fabric.selected = some d ∧ (r.tile e.tile).fabric.decided = none) ∧
    (∀ q, q < 256 → q ≠ e.idx.toNat → (st.tile e.tile).inMatrix q = false → ((st.tile e.tile).fabric.elem q).turned = false →
      (r.elemAt e).turned = true ∧ (r.tile e.tile).fabric.decided = some d) := by
  generalize hs : switchedState e d old (st.elemAt e) st = s
  rw [switchedOrClosed, hs] at hr
  obtain ⟨l, v, m, h⟩ := tile_switchedState (st := st) (e := e) (d := d) (old := old) (x := st.elemAt e)
  rw [hs] at h
  have hx : s.elemAt e = _ := (congrArg (fun v => v.fabric.elem e.idx.toNat) h).trans (Fabric.elem_setElem_same ..)
  by_cases hover : (s.tile e.tile).phaseOver = true
  · have hr : r = closePhase e.tile d s := hr.symm.trans (if_pos hover)
    obtain ⟨w, n, hf⟩ := fabric_closePhase e.tile d s
    rw [hr, elemAt_closePhase, hx, hf]
    refine ⟨rfl, rfl, rfl, rfl, rfl, fun _ => ⟨rfl, rfl⟩, fun q hq hne hout ht => ?_⟩
    exact absurd ((phaseOver_switchedState.1 (hs ▸ hover) q hq hne hout).symm.trans ht) nofun
  · have hr : r = s := hr.symm.trans (if_neg hover)
    rw [hr, hx, h]
    exact ⟨rfl, rfl, rfl, rfl, rfl, fun hall => absurd (hs ▸ phaseOver_switchedState.2 hall) hover, fun _ _ _ _ _ => ⟨rfl, hd⟩⟩

/-! ### ELEMENT_SNAPSHOT and MARKER_TIMEOUT (R374) -/

theorem exec_elementSnapshot {st : State} {e : ElemId} (hd : (st.tile e.tile).drains = true) (hr : (st.elemAt e).reached ≠ none)
    (hs : (st.elemAt e).sent = false) (hf : (st.elemAt e).firings = [])
    (ho : ∀ o ∈ (st.tile e.tile).fabric.ops, o.elem = e.idx → o.held = true ∨ (st.tile e.tile).fabric.ordered o = false) :
    exec (.elementSnapshot e) st = .next (match (st.elemAt e).ctx with
      | some c => sendMarkers e c ⟨0, 0, .preempt⟩ (modElem e (fun y => { y with sent := true }) st)
      | none => modElem e (fun y => { y with sent := true }) st) := by
  have hany : ((st.tile e.tile).fabric.ops.any fun o => decide (o.elem = e.idx) && !o.held && (st.tile e.tile).fabric.ordered o) = false := by
    rw [List.any_eq_false]
    intro o hm h
    rw [Bool.and_eq_true, Bool.and_eq_true, decide_eq_true_eq, Bool.not_eq_true'] at h
    obtain ⟨⟨he, hheld⟩, hord⟩ := h
    obtain h | h := ho o hm he
    · exact Bool.false_ne_true (hheld.symm.trans h)
    · exact Bool.false_ne_true (h.symm.trans hord)
  have hgo : (!(st.tile e.tile).drains || (st.elemAt e).reached.isNone || (st.elemAt e).sent || !(st.elemAt e).firings.isEmpty ||
      (st.tile e.tile).fabric.ops.any fun o => decide (o.elem = e.idx) && !o.held && (st.tile e.tile).fabric.ordered o) = false := by
    rw [hany, hd, hs, hf, Option.isNone_eq_false_iff.2 (Option.isSome_iff_ne_none.2 hr)]
    rfl
  show execElementSnapshot e st = _
  unfold execElementSnapshot
  unfold State.elemAt at hgo ⊢
  simp only [hgo, Bool.false_eq_true, if_false]
  rfl

/-- Another element is as it was. -/
theorem elemAt_modElem_ne {e d : ElemId} (h : e ≠ d) (g : Elem → Elem) (s : State) : (modElem d g s).elemAt e = s.elemAt e := by
  unfold State.elemAt modElem modFabric
  by_cases ht : e.tile = d.tile
  · have hne : e.idx.toNat ≠ d.idx.toNat := fun hi => h (by
      obtain ⟨t, i⟩ := e
      obtain ⟨u, j⟩ := d
      cases ht
      cases BitVec.eq_of_toNat_eq hi
      rfl)
    rw [ht, State.tile_modTile_self]
    exact Fabric.elem_setElem_ne _ _ hne
  · rw [State.tile_modTile_ne _ _ ht]

theorem elemAt_catchInput (e d : ElemId) (n : Nat) (s : State) : (catchInput d n s).elemAt e = s.elemAt e :=
  foldl_keeps (fun s => s.elemAt e) (fun s fl => elemAt_catchRoute d e n fl s) ..

/-- An element whose marker times out counts as reached on every input; no other element changes. -/
theorem elemAt_timeoutElem (e d : ElemId) (s : State) :
    (timeoutElem d s).elemAt e = if e = d then { s.elemAt e with reached := some 15 } else s.elemAt e := by
  have hcatch : (timeoutElem d s).elemAt e = (modElem d (fun x => { x with reached := some 15 }) s).elemAt e :=
    foldl_keeps (fun s => s.elemAt e) (f := fun u n => if ((s.elemAt d).reached.getD 0).getLsbD n then u else catchInput d n u) (fun u n => by
      split
      · rfl
      · exact elemAt_catchInput ..) ..
  rw [hcatch]
  split
  · next h => rw [h, elemAt_modElem]
  · next h => exact elemAt_modElem_ne h ..

/-- The marker of one element times out, where the element lies outside a matrix region and runs a context. -/
def timeoutAt (t : TileId) (v : Tile) (s : State) (q : Nat) : State :=
  if v.inMatrix q || (v.fabric.elem q).ctx.isNone then s else timeoutElem ⟨t, BitVec.ofNat 8 q⟩ s

theorem reached_timeoutAt {e : ElemId} {t : TileId} {v : Tile} {s : State} (q : Nat) (h : (s.elemAt e).reached = some 15) :
    ((timeoutAt t v s q).elemAt e).reached = some 15 := by
  unfold timeoutAt
  split
  · exact h
  · rw [elemAt_timeoutElem]
    split
    · rfl
    · exact h

theorem exec_markerTimeout {st : State} {t : TileId} {n : Nat} (hd : (st.tile t).drains = true) (hs : (st.tile t).fabric.snap = some n)
    (hn : n + 4096 ≤ st.now) (ho : (st.tile t).snapped = false) :
    exec (.markerTimeout t) st = .next ((List.range 256).foldl (timeoutAt t (st.tile t)) st) := by
  show execMarkerTimeout t st = _
  unfold execMarkerTimeout
  simp only [hs, hd, ho, decide_eq_false (Nat.not_lt.2 hn), Bool.not_true, Bool.or_false, Bool.false_eq_true, if_false]
  rfl

/-- Each element that runs a context outside a matrix region counts as reached once the markers have timed out. -/
theorem reached_markerTimeout {st : State} {e : ElemId} (hm : (st.tile e.tile).inMatrix e.idx.toNat = false) (hx : (st.elemAt e).ctx ≠ none) :
    (((List.range 256).foldl (timeoutAt e.tile (st.tile e.tile)) st).elemAt e).reached = some 15 := by
  obtain ⟨before, after, hl⟩ := List.append_of_mem (List.mem_range.2 e.idx.isLt : e.idx.toNat ∈ List.range 256)
  have hkept (l : List Nat) (s : State) (h : (s.elemAt e).reached = some 15) :
      ((l.foldl (timeoutAt e.tile (st.tile e.tile)) s).elemAt e).reached = some 15 := by
    induction l generalizing s with
    | nil => exact h
    | cons q r ih => exact ih _ (reached_timeoutAt q h)
  rw [hl, List.foldl_append, List.foldl_cons]
  refine hkept after _ ?_
  have hgo : ((st.tile e.tile).inMatrix e.idx.toNat || ((st.tile e.tile).fabric.elem e.idx.toNat).ctx.isNone) = false := by
    rw [hm, Bool.false_or]
    exact Option.isNone_eq_false_iff.2 (Option.isSome_iff_ne_none.2 hx)
  rw [timeoutAt, hgo, if_neg Bool.false_ne_true, BitVec.ofNat_toNat, BitVec.setWidth_eq, elemAt_timeoutElem, if_pos rfl]

/-- Settles O45: the equations above, one for each event. -/
theorem fabricMemoryPortsAndPhasesComplete : Obligations.FabricMemoryPortsAndPhasesComplete := by
  unfold Obligations.FabricMemoryPortsAndPhasesComplete
  refine ⟨fun st t k => ⟨fun o hk hd hh hdue ho => ?_, fun b tok rest hk hout hw hm hr hs => ?_⟩, fun st e => ⟨?_, ?_, ?_⟩⟩
  · intro e ea done held
    have hexec := exec_waveOperationPerform hk hd hh hdue ho
    refine ⟨fun ha => ?_, fun ha hs hm => ?_, fun ha hs hm => ⟨fun g hw => waveOperation_absent hk hd hh hdue ho ha hs hm hw,
      fun p n hl hw hr => waveOperation_loads hk hd hh hdue ho ha hs hm hl hw hr,
      fun p g hl hw hr => waveOperation_unread hk hd hh hdue ho ha hs hm hl hw hr, fun p hl hp hw => ?_,
      fun p hl hp hw => waveOperation_plain hk hd hh hdue ho ha hs hm hl hp hw⟩⟩
    · rw [hexec, opAccess_noacc ha, ha, Bool.not_true, Bool.and_false]
      rfl
    · rw [hexec, opAccess_misaligned ha hs hm]
      rfl
    · rw [waveOperation_stores hk hd hh hdue ho ha hs hm hl hw, hp]
      rfl
  · have hfits (h : 16 * b.boff + (outNext b tok + 1) / 2 ≤ 0x300000) : exec (.streamOutTake t k) st = .next (portWrote t k b tok rest st) := by
      rw [exec_streamOutTake hk hout hw hr hs, if_neg (Nat.not_lt.2 h), event_some]
    have hbeyond (h : 0x300000 < 16 * b.boff + (outNext b tok + 1) / 2) (hf : ((st.tile t).fabric.elem b.elem.toNat).status ≠ .frozen) :
        exec (.streamOutTake t k) st =
          .next (elemFault ⟨t, b.elem⟩ 0 cAbsent (BitVec.ofNat 80 (twb + 0x1C000000 + outOff b tok)) 0 0 st) := by
      rw [exec_streamOutTake hk hout hw hr hs, if_pos h, if_neg hf, event_some]
    refine ⟨fun hfit => ⟨_, hfits hfit, ?_, ?_, fun j hj => tmem_portWrote t k b tok rest st hm hj⟩, fun hfit hf => hbeyond hfit hf⟩
    · rw [fabric_portWrote]
      rfl
    · rw [State.elemAt, fabric_portWrote, Fabric.elem_setElem_same]
  · intro d old hd hat hx hw ht hf hr hfir hops inm hinj hmark
    obtain ⟨hctx, hstatus, hstart, hk, hb, hall, hnot⟩ := switched_fields (old := old) hd rfl
    exact ⟨_, exec_elementContextSwitch hd hat hx hw ht hf hr hfir hops hinj hmark, hctx, hstatus, hstart, hk, hb, hall, hnot⟩
  · intro hd hr hs hf ho
    exact exec_elementSnapshot hd hr hs hf ho
  · intro n hd hs hn ho
    exact ⟨_, exec_markerTimeout hd hs hn ho, fun hm hx => reached_markerTimeout hm hx⟩

end Sys2Proof.Machine
end

section
/-! PROOF. CFG.SEL, CFG.GUARD, CFG.BIND, CFG.WR and CFG.MARK (R341, R361, R364, R366, R370, R372). -/

namespace Sys2Proof.Machine

open Sys2Proof

/-! ### The frame of the fabric's instructions (R361, R364) -/

section
variable {st : State} {u : TileId} {b : BitVec 3} {xs : List (BitVec 5)} {body : TileId → StrandId → Strand → State → Except Stop State}

/-- On a tile whose registers are settled a fabric instruction's body decides. -/
theorem onTile_settled {i : StrandId} {t : Strand} {s : State} (hc : i.core = .tile u) (hx : t.anyX xs = false) :
    onTile xs body i t s = body u i t s := by
  unfold onTile
  rw [hc]
  simp only [hx, Bool.false_eq_true, if_false]

theorem issueFabric_ok {s : State} (hi : MayIssue st ⟨.tile u, b⟩) (hx : Settled st ⟨.tile u, b⟩ xs)
    (h : body u ⟨.tile u, b⟩ (st.strand ⟨.tile u, b⟩) (advance ⟨.tile u, b⟩ 4 st) = .ok s) : issueFabric xs body st = .next s :=
  issue_ok hi.1 hi.2 ((onTile_settled rfl hx).trans h)

theorem issueFabric_preciseStop {f : Flt} (hi : MayIssue st ⟨.tile u, b⟩) (hx : Settled st ⟨.tile u, b⟩ xs)
    (h : body u ⟨.tile u, b⟩ (st.strand ⟨.tile u, b⟩) (advance ⟨.tile u, b⟩ 4 st) = .error (preciseStop (st.strand ⟨.tile u, b⟩) f))
    (hf : walkCause f.cause = false) :
    issueFabric xs body st = .next (takeTrap ⟨.tile u, b⟩ (preciseRec (st.strand ⟨.tile u, b⟩) f) st) :=
  issue_preciseStop hi ((onTile_settled rfl hx).trans h) hf

/-- FABRIC_STATE has 0 in TVPC (R361). -/
theorem issueFabric_fabricStop {c : Nat} (hi : MayIssue st ⟨.tile u, b⟩) (hx : Settled st ⟨.tile u, b⟩ xs)
    (h : body u ⟨.tile u, b⟩ (st.strand ⟨.tile u, b⟩) (advance ⟨.tile u, b⟩ 4 st) = fabricStop (st.strand ⟨.tile u, b⟩) c) :
    issueFabric xs body st =
      .next (takeTrap ⟨.tile u, b⟩ ⟨cFabricState, 0, false, (st.strand ⟨.tile u, b⟩).pc, 0, 0, BitVec.ofNat 64 c⟩ st) :=
  issueFabric_preciseStop (f := ⟨cFabricState, 0, BitVec.ofNat 64 c⟩) hi hx h rfl

/-- The end of a fabric instruction's body: what it did, or the code of FABRIC_STATE. -/
def fabricEnd (t : Strand) (done : State → State) : Except Nat State → Except Stop State
  | .ok s => .ok (done s)
  | .error c => fabricStop t c

/-- The outcome of a fabric instruction with that end. -/
def fabricOut (st : State) (i : StrandId) (done : State → State) : Except Nat State → Out
  | .ok s => .next (done s)
  | .error c => .next (takeTrap i ⟨cFabricState, 0, false, (st.strand i).pc, 0, 0, BitVec.ofNat 64 c⟩ st)

theorem issueFabric_end {done : State → State} {r : Except Nat State} (hi : MayIssue st ⟨.tile u, b⟩) (hx : Settled st ⟨.tile u, b⟩ xs)
    (h : body u ⟨.tile u, b⟩ (st.strand ⟨.tile u, b⟩) (advance ⟨.tile u, b⟩ 4 st) = fabricEnd (st.strand ⟨.tile u, b⟩) done r) :
    issueFabric xs body st = fabricOut st ⟨.tile u, b⟩ done r := by
  cases r with
  | ok s => exact issueFabric_ok hi hx h
  | error c => exact issueFabric_fabricStop hi hx h

end

theorem advance_fabricStatus (i : StrandId) (n : Nat) (s : State) (u : TileId) : ((advance i n s).tile u).fabricStatus = (s.tile u).fabricStatus :=
  advance_tile_keeps Tile.fabricStatus (fun _ _ => rfl) (fun _ _ => rfl) ..

/-! ### CFG.SEL (R364, R372) -/

/-- Marker injection touches the elements alone. -/
theorem injectMarkers_keeps {α : Type} (g : Fabric → α) (hg : ∀ f l, g { f with elems := l } = g f) (t : TileId) (n : Nat) (s : State) :
    g ((injectMarkers t n s).tile t).fabric = g (s.tile t).fabric := by
  unfold injectMarkers
  rw [fabric_modFabric]
  refine List.foldlRecOn (motive := fun f => g f = g (s.tile t).fabric) _ _ (hg _ _) fun f hf q _ => ?_
  dsimp only
  split
  · exact hf
  · exact (hg _ _).trans hf

/-- An offer that does not decide changes nothing. -/
theorem fabric_offer_declined {t : TileId} {rank n : Nat} {s : State} (h : (s.tile t).fabric.decides rank s.now = false) :
    ((offer t rank n s).tile t).fabric = (s.tile t).fabric := by
  unfold offer
  rw [fabric_modFabric]
  simp only [h, Bool.not_false, if_true]

theorem fabric_offer_decided {t : TileId} {rank n : Nat} {s : State} (h : (s.tile t).fabric.decides rank s.now = true) :
    ((offer t rank n s).tile t).fabric.decided = some n := by
  unfold offer
  rw [fabric_modFabric]
  simp only [h, Bool.not_true, Bool.false_eq_true, if_false]

/-- CFG.SEL's offer of a context to a network that runs another: the first of the cycle decides and names its strand the selector (R372). -/
def selOffered (u : TileId) (i : StrandId) (t : Strand) (n : Nat) (st : State) : State :=
  let s := offer u 0 n st
  let s := if (st.tile u).fabric.decides 0 st.now then
      modFabric u (fun f => { f with selector := i.slot, turning := some (t.issued, t.strip, t.pc) }) (traceEvent i 7 false t.issued t.strip t.pc s)
    else s
  injectMarkers u (((s.tile u).fabric.decided).getD n) s

theorem selOffered_selected (u : TileId) (i : StrandId) (t : Strand) (n : Nat) (st : State) :
    ((selOffered u i t n st).tile u).fabric.selected = (st.tile u).fabric.selected := by
  obtain ⟨d, a, w, ho⟩ := fabric_offer u 0 n st
  unfold selOffered
  rw [injectMarkers_keeps Fabric.selected fun _ _ => rfl]
  split
  · rw [fabric_modFabric, traceEvent_tile, ho]
  · rw [ho]

theorem selOffered_decided {u : TileId} {st : State} (h : (st.tile u).fabric.decides 0 st.now = true) (i : StrandId) (t : Strand) (n : Nat) :
    ((selOffered u i t n st).tile u).fabric.decided = some n ∧ ((selOffered u i t n st).tile u).fabric.selector = i.slot := by
  unfold selOffered
  rw [injectMarkers_keeps Fabric.decided fun _ _ => rfl, injectMarkers_keeps Fabric.selector fun _ _ => rfl, if_pos h, fabric_modFabric,
    traceEvent_tile]
  exact ⟨fabric_offer_decided h, rfl⟩

theorem selOffered_declined {u : TileId} {st : State} (h : (st.tile u).fabric.decides 0 st.now = false) (i : StrandId) (t : Strand) (n : Nat) :
    ((selOffered u i t n st).tile u).fabric.decided = (st.tile u).fabric.decided ∧
      ((selOffered u i t n st).tile u).fabric.selector = (st.tile u).fabric.selector := by
  unfold selOffered
  rw [injectMarkers_keeps Fabric.decided fun _ _ => rfl, injectMarkers_keeps Fabric.selector fun _ _ => rfl, h, if_neg Bool.false_ne_true,
    fabric_offer_declined h]
  exact ⟨rfl, rfl⟩

section
variable {st : State} {u : TileId} {b : BitVec 3} {d x : BitVec 5}

/-- What ends a CFG.SEL: the prior status in xD, and its records. -/
def selDone (st : State) (u : TileId) (b : BitVec 3) (d : BitVec 5) (s : State) : State :=
  noteBoth ⟨.tile u, b⟩ (st.strand ⟨.tile u, b⟩) (s.setX ⟨.tile u, b⟩ d (BitVec.ofNat 64 (st.tile u).fabricStatus))

/-- The outcome of CFG.SEL on a word without reserved bits, by its case. -/
def selBody (st : State) (u : TileId) (b : BitVec 3) (w : Nat) : Except Nat State :=
  let s := advance ⟨.tile u, b⟩ 4 st
  let f := (st.tile u).fabric
  if (st.tile u).region = 1 then .error 6
  else if w.testBit 4 then .ok s
  else if w.testBit 2 then .ok (deselect u s)
  else if w.testBit 3 && f.selected = some (w % 4) then .ok (resumeFabric u s)
  else if !(f.context (w % 4)).loaded then .error 3
  else match f.selected with
    | none => .ok (selectNow u (w % 4) b (st.now + 32) s)
    | some c => if c = w % 4 then .ok s else .ok (selOffered u ⟨.tile u, b⟩ (st.strand ⟨.tile u, b⟩) (w % 4) s)

theorem execCfgSel_eq (hi : MayIssue st ⟨.tile u, b⟩) (hx : Settled st ⟨.tile u, b⟩ [d, x]) (hw : ((st.strand ⟨.tile u, b⟩).xr x).toNat < 32) :
    exec (.cfgSel d x) st = fabricOut st ⟨.tile u, b⟩ (selDone st u b d) (selBody st u b ((st.strand ⟨.tile u, b⟩).xr x).toNat) := by
  have h32 : (((st.strand ⟨.tile u, b⟩).xr x).toNat / 2 ^ 5 != 0) = false := by simp [Nat.div_eq_of_lt hw]
  show execCfgSel d x st = _
  unfold execCfgSel
  refine issueFabric_end hi hx ?_
  unfold selBody selOffered
  simp only [h32, advance_region, advance_fabric, advance_fabricStatus, advance_now, Bool.false_eq_true, if_false,
    apply_ite (fabricEnd (st.strand ⟨.tile u, b⟩) (selDone st u b d))]
  cases (st.tile u).fabric.selected with
  | none => rfl
  | some c =>
    simp only [apply_ite (fabricEnd (st.strand ⟨.tile u, b⟩) (selDone st u b d))]
    rfl

theorem selBody_query {w : Nat} (hr : (st.tile u).region ≠ 1) (h : w.testBit 4 = true) : selBody st u b w = .ok (advance ⟨.tile u, b⟩ 4 st) := by
  unfold selBody
  simp only [hr, h, if_true, if_false]

theorem selBody_off {w : Nat} (hr : (st.tile u).region ≠ 1) (h4 : w.testBit 4 = false) (h : w.testBit 2 = true) :
    selBody st u b w = .ok (deselect u (advance ⟨.tile u, b⟩ 4 st)) := by
  unfold selBody
  simp only [hr, h4, h, Bool.false_eq_true, if_true, if_false]

theorem selBody_select {w : Nat} (hr : (st.tile u).region ≠ 1) (h4 : w.testBit 4 = false) (h2 : w.testBit 2 = false) :
    selBody st u b w = if w.testBit 3 && (st.tile u).fabric.selected = some (w % 4) then .ok (resumeFabric u (advance ⟨.tile u, b⟩ 4 st))
      else if !((st.tile u).fabric.context (w % 4)).loaded then .error 3
      else match (st.tile u).fabric.selected with
        | none => .ok (selectNow u (w % 4) b (st.now + 32) (advance ⟨.tile u, b⟩ 4 st))
        | some c => if c = w % 4 then .ok (advance ⟨.tile u, b⟩ 4 st)
          else .ok (selOffered u ⟨.tile u, b⟩ (st.strand ⟨.tile u, b⟩) (w % 4) (advance ⟨.tile u, b⟩ 4 st)) := by
  unfold selBody
  simp only [hr, h4, h2, Bool.false_eq_true, if_false]

section
variable {w : Nat} (hr : (st.tile u).region ≠ 1) (h4 : w.testBit 4 = false) (h2 : w.testBit 2 = false)
include hr h4 h2

theorem selBody_resume (h3 : w.testBit 3 = true) (hs : (st.tile u).fabric.selected = some (w % 4)) :
    selBody st u b w = .ok (resumeFabric u (advance ⟨.tile u, b⟩ 4 st)) := by
  rw [selBody_select hr h4 h2, if_pos (by simp [h3, hs])]

theorem selBody_unloaded (h3 : w.testBit 3 = false ∨ (st.tile u).fabric.selected ≠ some (w % 4))
    (hl : ((st.tile u).fabric.context (w % 4)).loaded = false) : selBody st u b w = .error 3 := by
  have hgo : ¬ (w.testBit 3 && decide ((st.tile u).fabric.selected = some (w % 4))) = true := by
    rcases h3 with h3 | hs
    · simp [h3]
    · simp [hs]
  rw [selBody_select hr h4 h2, if_neg hgo, if_pos (by simp [hl])]

theorem selBody_first (hs : (st.tile u).fabric.selected = none) (hl : ((st.tile u).fabric.context (w % 4)).loaded = true) :
    selBody st u b w = .ok (selectNow u (w % 4) b (st.now + 32) (advance ⟨.tile u, b⟩ 4 st)) := by
  rw [selBody_select hr h4 h2, if_neg (by simp [hs]), if_neg (by simp [hl]), hs]

theorem selBody_same (h3 : w.testBit 3 = false) (hs : (st.tile u).fabric.selected = some (w % 4))
    (hl : ((st.tile u).fabric.context (w % 4)).loaded = true) : selBody st u b w = .ok (advance ⟨.tile u, b⟩ 4 st) := by
  rw [selBody_select hr h4 h2, if_neg (by simp [h3]), if_neg (by simp [hl]), hs]
  exact if_pos rfl

theorem selBody_offer {c : Nat} (hs : (st.tile u).fabric.selected = some c) (hne : c ≠ w % 4)
    (hl : ((st.tile u).fabric.context (w % 4)).loaded = true) :
    selBody st u b w = .ok (selOffered u ⟨.tile u, b⟩ (st.strand ⟨.tile u, b⟩) (w % 4) (advance ⟨.tile u, b⟩ 4 st)) := by
  rw [selBody_select hr h4 h2, if_neg (by simp [hs, hne]), if_neg (by simp [hl]), hs]
  exact if_neg hne

end

theorem selBody_region {w : Nat} (hr : (st.tile u).region = 1) : selBody st u b w = .error 6 := by
  unfold selBody
  simp only [hr, if_true]

theorem tile_selDone (s : State) : (selDone st u b d s).tile u = s.tile u := by
  simp [selDone]

end

/-! ### CFG.GUARD, CFG.BIND and CFG.MARK (R341, R366, R370) -/

section
variable {st : State} {u : TileId} {b : BitVec 3} {d x y : BitVec 5}

theorem execCfgGuard_eq (hi : MayIssue st ⟨.tile u, b⟩) (hx : Settled st ⟨.tile u, b⟩ [d, x]) {w : Nat}
    (hw : ((st.strand ⟨.tile u, b⟩).xr x).toNat = w) (h15 : field w 15 1 = 0) (h20 : field w 20 11 = 0) (h32 : w < 2 ^ 32) {s : State}
    (hs : s = if w.testBit 31 then setGuards u (BitVec.ofNat 15 w) (BitVec.ofNat 4 (w / 2 ^ 16)) (advance ⟨.tile u, b⟩ 4 st)
      else advance ⟨.tile u, b⟩ 4 st) :
    exec (.cfgGuard d x) st =
      .next (noteBoth ⟨.tile u, b⟩ (st.strand ⟨.tile u, b⟩) (s.setX ⟨.tile u, b⟩ d (BitVec.ofNat 64 (s.guards u)))) := by
  have hgo : (field w 15 1 != 0 || field w 20 11 != 0 || w / 2 ^ 32 != 0) = false := by simpa [h15, h20] using h32
  show execCfgGuard d x st = _
  unfold execCfgGuard
  refine issueFabric_ok hi hx ?_
  simp only [hw, hgo, Bool.false_eq_true, if_false, hs]

theorem any_same_iff {l : List Binding} {out : Bool} {ch : BitVec 6} :
    (l.any fun q => q.out = out && q.ch = ch) = true ↔ ∃ q ∈ l, q.out = out ∧ q.ch = ch := by
  simp

/-- What CFG.BIND's words must hold (R366). -/
def BindWords (w z : Nat) : Prop := w < 2 ^ 12 ∧ field z 6 2 = 0 ∧ z < 2 ^ 32 ∧ (w.testBit 10 = false → z < 2 ^ 8)

theorem BindWords.go {w z : Nat} (h : BindWords w z) :
    (w / 2 ^ 12 != 0 || field z 6 2 != 0 || z / 2 ^ 32 != 0 || (!w.testBit 10 && z / 2 ^ 8 != 0)) = false := by
  obtain ⟨hw, h6, hz, ho⟩ := h
  cases hb : w.testBit 10 with
  | true => simpa [h6] using ⟨hw, hz⟩
  | false => simpa [h6] using ⟨⟨hw, hz⟩, ho hb⟩

theorem execCfgBind_remove (hi : MayIssue st ⟨.tile u, b⟩) (hx : Settled st ⟨.tile u, b⟩ [x, y]) {w z : Nat}
    (hw : ((st.strand ⟨.tile u, b⟩).xr x).toNat = w) (hz : ((st.strand ⟨.tile u, b⟩).xr y).toNat = z) (hg : BindWords w z) (h11 : w.testBit 11 = true)
    (hin : ∃ q ∈ (st.tile u).fabric.bindings, q.out = w.testBit 10 ∧ q.ch = BitVec.ofNat 6 z) :
    exec (.cfgBind x y) st = .next (noteBoth ⟨.tile u, b⟩ (st.strand ⟨.tile u, b⟩)
      (modFabric u (·.unbind (w.testBit 10) (BitVec.ofNat 6 z)) (advance ⟨.tile u, b⟩ 4 st))) := by
  show execCfgBind x y st = _
  unfold execCfgBind
  refine issueFabric_ok hi hx ?_
  simp only [hw, hz, hg.go, h11, advance_fabric, any_same_iff.mpr hin, Bool.false_eq_true, if_true, if_false]

theorem execCfgBind_add (hi : MayIssue st ⟨.tile u, b⟩) (hx : Settled st ⟨.tile u, b⟩ [x, y]) {w z : Nat}
    (hw : ((st.strand ⟨.tile u, b⟩).xr x).toNat = w) (hz : ((st.strand ⟨.tile u, b⟩).xr y).toNat = z) (hg : BindWords w z)
    (h11 : w.testBit 11 = false)
    (hin : ∀ q ∈ (st.tile u).fabric.bindings, ¬ (q.out = w.testBit 10 ∧ q.ch = BitVec.ofNat 6 z))
    (h8 : ((st.tile u).fabric.bindings.filter (·.out = w.testBit 10)).length < 8)
    (hf : w.testBit 10 = false → (advance ⟨.tile u, b⟩ 4 st).routeFeeds ⟨u, BitVec.ofNat 8 (w % 256)⟩ (field w 8 2) = false) :
    exec (.cfgBind x y) st = .next (noteBoth ⟨.tile u, b⟩ (st.strand ⟨.tile u, b⟩) (modFabric u (fun f => { f with bindings :=
      f.bindings ++ [⟨BitVec.ofNat 8 (w % 256), BitVec.ofNat 2 (w / 2 ^ 8), w.testBit 10, BitVec.ofNat 6 z, z / 2 ^ 8, 0⟩] })
      (advance ⟨.tile u, b⟩ 4 st))) := by
  have hany : ((st.tile u).fabric.bindings.any fun q => q.out = w.testBit 10 && q.ch = BitVec.ofNat 6 z) = false :=
    Bool.eq_false_iff.mpr fun h => by
      obtain ⟨q, hq, hs⟩ := any_same_iff.mp h
      exact hin q hq hs
  have hfeed : (!w.testBit 10 && (advance ⟨.tile u, b⟩ 4 st).routeFeeds ⟨u, BitVec.ofNat 8 (w % 256)⟩ (field w 8 2)) = false := by
    cases ho : w.testBit 10 with
    | true => rfl
    | false => rw [hf ho]; rfl
  show execCfgBind x y st = _
  unfold execCfgBind
  refine issueFabric_ok hi hx ?_
  simp only [hw, hz, hg.go, h11, advance_fabric, hany, hfeed, decide_eq_false (Nat.not_le.mpr h8), Bool.or_false, Bool.false_eq_true, if_false]

theorem execCfgMark_running (hi : MayIssue st ⟨.tile u, b⟩) (hs : (st.tile u).fabric.selected ≠ none) :
    exec .cfgMark st = .next (noteBoth ⟨.tile u, b⟩ (st.strand ⟨.tile u, b⟩)
      (if (st.tile u).fabric.snap.isSome then advance ⟨.tile u, b⟩ 4 st else markTile u (advance ⟨.tile u, b⟩ 4 st))) := by
  show execCfgMark st = _
  unfold execCfgMark
  refine issueFabric_ok hi rfl ?_
  simp only [advance_fabric, Option.isNone_eq_false_iff.mpr (Option.isSome_iff_ne_none.mpr hs), Bool.false_eq_true, if_false]

theorem execCfgMark_idle (hi : MayIssue st ⟨.tile u, b⟩) (hs : (st.tile u).fabric.selected = none) :
    exec .cfgMark st = .next (takeTrap ⟨.tile u, b⟩ ⟨cFabricState, 0, false, (st.strand ⟨.tile u, b⟩).pc, 0, 0, BitVec.ofNat 64 4⟩ st) := by
  show execCfgMark st = _
  unfold execCfgMark
  refine issueFabric_fabricStop hi rfl ?_
  simp only [advance_fabric, hs, Option.isNone_none, if_true]

end

/-! ### CFG.WR (R364, R367) -/

/-- The fabric after CFG.WR: one item written, and the context as it was remembered for what fires in the same cycle. -/
def itemWritten (f : Fabric) (now w z : Nat) : Fabric :=
  if (writeItem f w z).1 = 0 then (writeItem f w z).2.remember now (field z 8 2) (f.context (field z 8 2)) else (writeItem f w z).2

theorem steady_reqsig : Steady Quad.reqsig := ⟨fun _ _ => rfl, fun _ _ => rfl, fun _ _ => rfl, fun _ _ => rfl, fun _ _ => rfl, fun _ _ => rfl⟩

theorem execCfgWr_eq {st : State} {u : TileId} {b : BitVec 3} {d x y : BitVec 5} (hi : MayIssue st ⟨.tile u, b⟩)
    (hx : Settled st ⟨.tile u, b⟩ [d, x, y]) {w z : Nat} (hw : ((st.strand ⟨.tile u, b⟩).xr x).toNat = w)
    (hz : ((st.strand ⟨.tile u, b⟩).xr y).toNat = z) (hp : (st.strand ⟨.tile u, b⟩).level = .U → (st.quad u.quad).reqsig = false)
    (hd : descriptorBad z = false) :
    exec (.cfgWr d x y) st = .next (noteBoth ⟨.tile u, b⟩ (st.strand ⟨.tile u, b⟩)
      ((modFabric u (fun _ => itemWritten (st.tile u).fabric st.now w z) (advance ⟨.tile u, b⟩ 4 st)).setX ⟨.tile u, b⟩ d
        (BitVec.ofNat 64 (writeItem (st.tile u).fabric w z).1))) := by
  have hgo : ((st.strand ⟨.tile u, b⟩).level = .U && ((advance ⟨.tile u, b⟩ 4 st).quad u.quad).reqsig) = false := by
    rw [Steady.advance steady_reqsig]
    cases hl : decide ((st.strand ⟨.tile u, b⟩).level = .U) with
    | true => exact hp (of_decide_eq_true hl)
    | false => rfl
  show execCfgWr d x y st = _
  unfold execCfgWr
  refine issueFabric_ok hi hx ?_
  simp only [hw, hz, hgo, hd, advance_fabric, advance_now, Bool.false_eq_true, if_false, itemWritten]

theorem Fabric.running_remember_same {h : Fabric} {now : Nat} (hb : h.before.1 ≠ now) (k : Nat) (c : Ctx) :
    (h.remember now k c).running now k = c := by
  simp [Fabric.remember, Fabric.running, hb, amGet, amSet]

theorem Fabric.running_remember_later (h : Fabric) {now n : Nat} (hn : now < n) (k : Nat) (c : Ctx) :
    (h.remember now k c).running n k = h.context k := by
  have hne : now ≠ n := by omega
  simp [Fabric.remember, Fabric.running, hne, Fabric.context]

theorem Fabric.context_setContext {f : Fabric} {n : Nat} (hn : n < 4) (c : Ctx) : (f.setContext n c).context n = c := by
  simp [Fabric.setContext, Fabric.context, hn]

theorem writeItem_lit (f : Fabric) (w : Nat) {z : Nat} (h : field z 10 2 = 1) : (writeItem f w z).1 = 0 ∧
    ((writeItem f w z).2.context (field z 8 2)).lit (field z 0 8) (field z 12 5) = BitVec.ofNat 64 w := by
  unfold writeItem
  simp only [h]
  rw [Fabric.context_setContext (field_lt ..)]
  simp [Ctx.lit]

theorem writeItem_entry (f : Fabric) {w z : Nat} (h : field z 10 2 = 0) (h56 : w < 2 ^ 56)
    (hok : entryOk (BitVec.ofNat 32 w) (field w 32 24) = true) :
    (writeItem f w z).1 = 0 ∧ ((writeItem f w z).2.context (field z 8 2)).word (field z 0 8) (field z 12 5) = BitVec.ofNat 32 w ∧
      ((writeItem f w z).2.context (field z 8 2)).trigger (field z 0 8) (field z 12 5) = w / 2 ^ 32 := by
  unfold writeItem
  simp only [h, hok, Nat.div_eq_of_lt h56, bne_self_eq_false, Bool.not_true, Bool.or_self, Bool.false_eq_true, if_false]
  rw [Fabric.context_setContext (field_lt ..)]
  simp only [Ctx.word, Ctx.trigger, amGet_amSet_self, Option.getD_some, BitVec.toNat_ofNat, Nat.mod_eq_of_lt h56, and_true, true_and]
  exact BitVec.setWidth_ofNat_of_le (show 32 ≤ 56 by norm_num) w

theorem resultWord_code {c : Nat} (h : c < 256) (entry q ctx : Nat) : resultWord c entry q ctx % 256 = c := by
  unfold resultWord
  omega

theorem writeItem_inUse {f : Fabric} (w : Nat) {z : Nat} (h : 2 ≤ field z 10 2) (hs : f.selected = some (field z 8 2)) :
    (writeItem f w z).1 % 256 = 10 ∧ (writeItem f w z).2 = f := by
  have hu : f.inUse (field z 8 2) = true := by simp [Fabric.inUse, hs]
  have h4 : field z 10 2 < 4 := field_lt ..
  unfold writeItem
  obtain hk | hk : field z 10 2 = 2 ∨ field z 10 2 = 3 := by omega
  · simp only [hk, hu, if_true, and_true]
    exact resultWord_code (by norm_num) ..
  · simp only [hk, hu, if_true, and_true]
    exact resultWord_code (by norm_num) ..

/-! ### CFG.SEL, CFG.GUARD, CFG.BIND, CFG.WR and CFG.MARK together -/

section
variable {st : State} {u : TileId} {b : BitVec 3} {d x : BitVec 5} {w : Nat}

/-- An offer completes with the other context still selected (R372). -/
theorem execCfgSel_offer (hi : MayIssue st ⟨.tile u, b⟩) (hx : Settled st ⟨.tile u, b⟩ [d, x]) (hw : ((st.strand ⟨.tile u, b⟩).xr x).toNat = w)
    (h16 : w < 16) (h2 : w.testBit 2 = false) (hr : (st.tile u).region ≠ 1) {c : Nat} (hs : (st.tile u).fabric.selected = some c) (hne : c ≠ w % 4)
    (hl : ((st.tile u).fabric.context (w % 4)).loaded = true) :
    ∃ r, exec (.cfgSel d x) st = .next r ∧ (r.tile u).fabric.selected = some c ∧
      ((st.tile u).fabric.decides 0 st.now = true → (r.tile u).fabric.decided = some (w % 4) ∧ (r.tile u).fabric.selector = b) ∧
      ((st.tile u).fabric.decides 0 st.now = false →
        (r.tile u).fabric.decided = (st.tile u).fabric.decided ∧ (r.tile u).fabric.selector = (st.tile u).fabric.selector) := by
  have h4 : w.testBit 4 = false := Nat.testBit_lt_two_pow h16
  have hf : ((advance ⟨.tile u, b⟩ 4 st).tile u).fabric = (st.tile u).fabric := advance_fabric ..
  have hexec : exec (.cfgSel d x) st = .next (selDone st u b d (selOffered u ⟨.tile u, b⟩ (st.strand ⟨.tile u, b⟩) (w % 4)
      (advance ⟨.tile u, b⟩ 4 st))) := by
    rw [execCfgSel_eq hi hx (by omega), hw, selBody_offer hr h4 h2 hs hne hl]
    rfl
  refine ⟨_, hexec, ?_, fun hd => ?_, fun hd => ?_⟩
  · rw [tile_selDone, selOffered_selected, hf, hs]
  · rw [tile_selDone]
    exact selOffered_decided (by rw [hf, advance_now, hd]) ..
  · rw [tile_selDone]
    have h := selOffered_declined (u := u) (st := advance ⟨.tile u, b⟩ 4 st) (by rw [hf, advance_now, hd]) ⟨.tile u, b⟩
      (st.strand ⟨.tile u, b⟩) (w % 4)
    rwa [hf] at h

end

/-- Settles O46: each fabric instruction's body is decided by its words and the selected context. -/
theorem fabricControlCompletes : Obligations.FabricControlCompletes := by
  unfold Obligations.FabricControlCompletes
  intro st u b d x y i hi hset t v f s0 w z n done stop
  have hdx : Settled st i [d, x] := settled_of_subset hset (by simp)
  have hxy : Settled st i [x, y] := settled_of_subset hset (by simp)
  refine ⟨fun hw hr => ?_, fun hr hw => ?_, fun h15 h20 h32 => ?_, ?_, fun hp hd => ?_, execCfgMark_running hi, execCfgMark_idle hi⟩
  · have hexec := execCfgSel_eq hi hdx hw
    refine ⟨fun h4 => ?_, fun h4 h2 => ?_, fun h16 h2 => ?_⟩
    · rw [hexec, selBody_query hr h4]
      rfl
    · rw [hexec, selBody_off hr h4 h2]
      rfl
    · have h4 : w.testBit 4 = false := Nat.testBit_lt_two_pow h16
      refine ⟨fun h3 hs => hexec.trans ?_, fun h3 hl => hexec.trans ?_, fun hs hl => hexec.trans ?_, fun h3 hs hl => hexec.trans ?_,
        fun c hs hc hl => execCfgSel_offer hi hdx rfl h16 h2 hr hs hc hl⟩
      · rw [selBody_resume hr h4 h2 h3 hs]
        rfl
      · rw [selBody_unloaded hr h4 h2 h3 hl]
        rfl
      · rw [selBody_first hr h4 h2 hs hl]
        rfl
      · rw [selBody_same hr h4 h2 h3 hs hl]
        rfl
  · rw [execCfgSel_eq hi hdx hw, selBody_region hr]
    rfl
  · exact execCfgGuard_eq hi hdx rfl h15 h20 h32 rfl
  · intro out ch hw h6 h32 h8
    have hg : BindWords w z := ⟨hw, h6, h32, h8⟩
    exact ⟨execCfgBind_remove hi hxy rfl rfl hg, execCfgBind_add hi hxy rfl rfl hg⟩
  · exact ⟨execCfgWr_eq hi hset rfl rfl hp hd,
      fun h hb k n c => ⟨Fabric.running_remember_same hb k c, fun hn => Fabric.running_remember_later h hn k c⟩,
      writeItem_lit f w, writeItem_entry f, writeItem_inUse w⟩

end Sys2Proof.Machine
end

section
/-! PROOF. CFG.LOAD, CFG.CHECK, CFG.SAVE, CFG.REST and the configuration port (R361 to R365, R377, R378). -/

namespace Sys2Proof.Machine

open Sys2Proof

/-! ### The issue of CFG.CHECK, CFG.LOAD, CFG.REST and CFG.SAVE (R361, R362, R377, R378) -/

section
variable {st s z : State} {u : TileId} {b : BitVec 3} {xs : List (BitVec 5)} {a : BitVec 4} {align : Nat} {acc : Access}
  {len : StrandId → Strand → Addr → State → Except Stop (Nat × State)} {own : TileId → Strand → State → Option Nat}
  {w : TileId → Strand → Addr → State → Wait} {after : TileId → StrandId → Strand → State → State}

/-- The state that an area operation's issue leaves: its strand blocked at the instruction, after what the operation starts with. -/
def areaBegun (st : State) (i : StrandId) (w : Wait) (f : State → State) (z : State) : State :=
  let t := st.strand i
  block i t w (f (traceEvent i 0 false t.issued t.strip t.pc z))

theorem issueArea_ok {n : Nat} (hi : MayIssue st ⟨.tile u, b⟩) (hx : Settled st ⟨.tile u, b⟩ xs)
    (hq : (st.strand ⟨.tile u, b⟩).acquiring = false) (ha : ((st.strand ⟨.tile u, b⟩).ar a).toNat % align = 0)
    (hn : len ⟨.tile u, b⟩ (st.strand ⟨.tile u, b⟩) ((st.strand ⟨.tile u, b⟩).ar a) (advance ⟨.tile u, b⟩ 4 st) = .ok (n, s))
    (hp : checkPlaces ⟨.tile u, b⟩ (st.strand ⟨.tile u, b⟩) acc (pageStarts ((st.strand ⟨.tile u, b⟩).ar a) n) s = .ok z)
    (ho : own u (st.strand ⟨.tile u, b⟩) z = none) :
    issueArea xs a align acc len own w after st = .next (areaBegun st ⟨.tile u, b⟩
      (w u (st.strand ⟨.tile u, b⟩) ((st.strand ⟨.tile u, b⟩).ar a) z) (after u ⟨.tile u, b⟩ (st.strand ⟨.tile u, b⟩)) z) := by
  unfold issueArea
  refine issueFabric_ok hi hx ?_
  simp only [hq, ha, hn, hp, ho, bne_self_eq_false, Bool.false_eq_true, if_false]
  rfl

end

/-- Strand `i` is blocked on `w` at its instruction in `st`, with its registers in `z`. -/
def WaitsOn (st z : State) (i : StrandId) (w : Wait) (r : State) : Prop :=
  (r.strand i).status = .blocked w ∧ (r.strand i).pc = (st.strand i).pc ∧ (r.strand i).x = (z.strand i).x

/-- The strand of an area operation waits at its instruction, with its registers. -/
theorem areaBegun_waits {st z : State} {i : StrandId} {w : Wait} {f : State → State}
    (hf : ∀ s, ((f s).strand i).unlinked = (s.strand i).unlinked) : WaitsOn st z i w (areaBegun st i w f z) := by
  simp only [WaitsOn, areaBegun, block, State.strand_modStrand_self, true_and]
  exact Strand.of_unlinked Strand.x (fun _ => rfl) ((hf _).trans (unlinked_traceEvent ..))

theorem tile_areaBegun (st z : State) (i : StrandId) (w : Wait) (f : State → State) (u : TileId) : (areaBegun st i w f z).tile u =
    (f (traceEvent i 0 false (st.strand i).issued (st.strand i).strip (st.strand i).pc z)).tile u := rfl

theorem unlinked_beginFabric (u : TileId) (i : StrandId) (t : Strand) (s : State) (j : StrandId) :
    ((beginFabric u i t s).strand j).unlinked = (s.strand j).unlinked := unlinked_traceEvent ..

/-- What CFG.SAVE starts with: its markers, unless a snapshot is in course (R378). -/
def saveBegun (u : TileId) (i : StrandId) (t : Strand) (s : State) : State :=
  beginFabric u i t (if (s.tile u).fabric.snap.isSome then s else markTile u s)

theorem unlinked_saveBegun (u : TileId) (i : StrandId) (t : Strand) (s : State) (j : StrandId) :
    ((saveBegun u i t s).strand j).unlinked = (s.strand j).unlinked := by
  unfold saveBegun
  rw [unlinked_beginFabric]
  split <;> rfl

theorem snap_saveBegun (u : TileId) (i : StrandId) (t : Strand) (s : State) : ((saveBegun u i t s).tile u).fabric.snap ≠ none := by
  unfold saveBegun beginFabric
  rw [traceEvent_tile]
  split
  · next h => exact Option.isSome_iff_ne_none.mp h
  · simp [markTile]

theorem saveLength_advance (i : StrandId) (u : TileId) (hc : i.core = .tile u) (t : Strand) (e : Addr) (st : State) :
    saveLength i t e (advance i 4 st) = .ok (areaLen ((st.tile u).fabric.ctxs.toList.filter (·.loaded)).length
      (if (st.tile u).snapped = true then (st.tile u).fabric.caught.length else 0), advance i 4 st) := by
  have hs : ((advance i 4 st).tile u).snapped = (st.tile u).snapped := advance_tile_keeps Tile.snapped (fun _ _ => rfl) (fun _ _ => rfl) ..
  unfold saveLength
  rw [hc]
  simp only [advance_fabric, hs]

section
variable {st s z : State} {u : TileId} {b : BitVec 3} {d x : BitVec 5} {a : BitVec 4} {n : Nat} {i : StrandId} {ea : Addr}

section
variable (hi : MayIssue st i) (hc : i = ⟨.tile u, b⟩) (hq : (st.strand i).acquiring = false) (he : (st.strand i).ar a = ea)
include hi hc hq he

theorem execCfgCheck_waits (hx : Settled st i [d]) (h64 : ea.toNat % 64 = 0)
    (hn : headLength 64 (fun h => if imageHeaderOk h then field h 160 32 else 0) i (st.strand i) ea (advance i 4 st) = .ok (n, s))
    (hp : checkPlaces i (st.strand i) .read (pageStarts ea n) s = .ok z) :
    ∃ r, exec (.cfgCheck d a) st = .next r ∧ WaitsOn st z i (.cfgCheck d ea (z.quad u.quad).keys) r := by
  subst hc he
  have hexec : execCfgCheck d a st = _ := issueArea_ok hi hx hq h64 hn hp rfl
  exact ⟨_, hexec, areaBegun_waits fun _ => rfl⟩

theorem execCfgLoad_waits (hx : Settled st i [d, x]) (h64 : ea.toNat % 64 = 0)
    (hn : headLength 64 (fun h => sectionLen (field h 72 4)) i (st.strand i) ea (advance i 4 st) = .ok (n, s))
    (hp : checkPlaces i (st.strand i) .read (pageStarts ea n) s = .ok z) {m : Nat} (hm : ((st.strand i).xr x).toNat = m) (h0 : 0 < m) (h16 : m < 16)
    (hu : ∀ c, c < 4 → m.testBit c = true → (z.tile u).fabric.inUse c = false) :
    ∃ r, exec (.cfgLoad d a x) st = .next r ∧ WaitsOn st z i (.cfgLoad d ea (BitVec.ofNat 4 m)) r := by
  subst hc he hm
  have hfree : ((List.range 4).any fun c => ((st.strand ⟨.tile u, b⟩).xr x).toNat.testBit c && (z.tile u).fabric.inUse c) = false := by
    refine List.any_eq_false.mpr fun c hc => ?_
    simpa using hu c (List.mem_range.mp hc)
  have hexec : execCfgLoad d a x st = _ := issueArea_ok hi hx hq h64 hn hp (by
    simp only [hfree, Nat.div_eq_of_lt h16, h0.ne', bne_self_eq_false, Bool.false_or, decide_false, Bool.false_eq_true, if_false])
  exact ⟨_, hexec, areaBegun_waits fun _ => unlinked_beginFabric ..⟩

theorem execCfgRest_waits (hx : Settled st i [d]) (h128 : ea.toNat % 128 = 0)
    (hn : headLength 128 restLen i (st.strand i) ea (advance i 4 st) = .ok (n, s))
    (hp : checkPlaces i (st.strand i) .read (pageStarts ea n) s = .ok z) (hs : (z.tile u).fabric.selected = none) :
    ∃ r, exec (.cfgRest d a) st = .next r ∧ WaitsOn st z i (.cfgRest d ea) r := by
  subst hc he
  have hexec : execCfgRest d a st = _ := issueArea_ok hi hx hq h128 hn hp (by simp only [hs, Option.isSome_none, Bool.false_eq_true, if_false])
  exact ⟨_, hexec, areaBegun_waits fun _ => unlinked_beginFabric ..⟩

theorem execCfgSave_waits (hx : Settled st i [d]) (h128 : ea.toNat % 128 = 0)
    (hp : checkPlaces i (st.strand i) .write (pageStarts ea (areaLen ((st.tile u).fabric.ctxs.toList.filter (·.loaded)).length
      (if (st.tile u).snapped = true then (st.tile u).fabric.caught.length else 0))) (advance i 4 st) = .ok z)
    (hs : (z.tile u).fabric.selected ≠ none ∨ (z.tile u).fabric.snap ≠ none) :
    ∃ r, exec (.cfgSave d a) st = .next r ∧ WaitsOn st z i (.cfgSave d ea (z.tile u).fabric.snap.isNone) r ∧ (r.tile u).fabric.snap ≠ none := by
  subst hc he
  have hown : ((z.tile u).fabric.selected.isNone && (z.tile u).fabric.snap.isNone) = false := by
    rcases hs with h | h
    · rw [Option.isNone_eq_false_iff.mpr (Option.isSome_iff_ne_none.mpr h), Bool.false_and]
    · rw [Option.isNone_eq_false_iff.mpr (Option.isSome_iff_ne_none.mpr h), Bool.and_false]
  have hexec : execCfgSave d a st = .next (areaBegun st ⟨.tile u, b⟩ _ (saveBegun u ⟨.tile u, b⟩ (st.strand ⟨.tile u, b⟩)) z) :=
    issueArea_ok hi hx hq h128 (saveLength_advance _ u rfl ..) hp (by simp only [hown, Bool.false_eq_true, if_false])
  exact ⟨_, hexec, areaBegun_waits fun _ => unlinked_saveBegun .., by rw [tile_areaBegun]; exact snap_saveBegun _ _ _ _⟩

end

end

/-! ### The ends of the four operations (R361, R362, R377, R378) -/

section
variable {st : State} {u : TileId} {b : BitVec 3} {d : BitVec 5} {e : Addr}

theorem status_endArea (i : StrandId) (d : BitVec 5) (p7 : Bool) (v : Nat) (s : State) : ((endArea i d p7 v s).strand i).status = .running := by
  simp only [endArea, State.setX, unblock, State.strand_modStrand_self, Strand.status_setX]

theorem xr_endArea (i : StrandId) (d : BitVec 5) (p7 : Bool) (v : Nat) (s : State) :
    (endArea i d p7 v s).xr i d = if d = 0 then 0 else BitVec.ofNat 64 v := State.xr_setX_self ..

theorem tile_endArea (i : StrandId) (d : BitVec 5) (p7 : Bool) (v : Nat) (s : State) (u : TileId) : (endArea i d p7 v s).tile u = s.tile u := by
  cases p7 <;> simp [endArea, unblock]

theorem execCfgCheckDone_ok {keys : Keys} (hb : (st.strand ⟨.tile u, b⟩).status = .blocked (.cfgCheck d e keys)) {c : Nat} {s : State}
    (h : checkImage u ⟨.tile u, b⟩ e keys st = .ok (c, s)) : exec (.cfgCheckDone ⟨.tile u, b⟩) st = .next (endArea ⟨.tile u, b⟩ d false c s) := by
  show execCfgCheckDone ⟨.tile u, b⟩ st = _
  unfold execCfgCheckDone
  simp only [hb, h, areaEnd, event_some]

theorem execCfgCheckDone_fault {keys : Keys} (hb : (st.strand ⟨.tile u, b⟩).status = .blocked (.cfgCheck d e keys)) {q : Flt}
    (h : checkImage u ⟨.tile u, b⟩ e keys st = .error (some q)) (ho : st.slotOpen (.tile u) = true) :
    exec (.cfgCheckDone ⟨.tile u, b⟩) st =
      .next (lone (.tile u) (takeTrap ⟨.tile u, b⟩ (preciseRec (st.strand ⟨.tile u, b⟩) q) st)) := by
  show execCfgCheckDone ⟨.tile u, b⟩ st = _
  unfold execCfgCheckDone
  simp only [hb, h, areaEnd, trapArea, ho, if_true, event_some]

theorem checkImage_badHeader {i : StrandId} {keys : Keys} {hb : List Byte} {s : State} (hr : areaRead i (areaEng u i st) e 64 st = .ok (hb, s))
    (hh : imageHeaderOk (leNat hb) = false) : checkImage u i e keys st = .ok (1, s) := by
  unfold checkImage
  simp only [hr, hh, Bool.not_false, if_true]

theorem checkImage_signed {i : StrandId} {keys : Keys} {hb bs : List Byte} {s w : State} (hr : areaRead i (areaEng u i st) e 64 st = .ok (hb, s))
    (hh : imageHeaderOk (leNat hb) = true) (hw : (areaEng u i st).xl.level = .U →
      pageWritable (areaEng u i st).xl (spanFuel (field (leNat hb) 160 32)) e (field (leNat hb) 160 32) s = false)
    (hk : keys.slot (field (leNat hb) 56 2) ≠ none) (ha : areaRead i (areaEng u i st) e (field (leNat hb) 160 32) s = .ok (bs, w)) :
    checkImage u i e keys st = .ok (signatureResult (keys.slot (field (leNat hb) 56 2)) bs (field (leNat hb) 128 32),
      if signatureResult (keys.slot (field (leNat hb) 56 2)) bs (field (leNat hb) 128 32) = 0 then
        enterVerified u.quad ⟨BitVec.ofNat 64 (field (leNat hb) 192 64), e.toNat, field (leNat hb) 160 32, (w.strand i).ctxcur⟩ w else w) := by
  have hgo : ((areaEng u i st).xl.level = .U &&
      pageWritable (areaEng u i st).xl (spanFuel (field (leNat hb) 160 32)) e (field (leNat hb) 160 32) s) = false := by
    cases hl : decide ((areaEng u i st).xl.level = .U) with
    | true => exact hw (of_decide_eq_true hl)
    | false => rfl
  unfold checkImage
  simp only [hr, hh, hgo, Option.isNone_eq_false_iff.mpr (Option.isSome_iff_ne_none.mpr hk), ha, Bool.not_true, Bool.false_eq_true, if_false]

theorem execCfgLoadDone_ok {k : BitVec 4} (hb : (st.strand ⟨.tile u, b⟩).status = .blocked (.cfgLoad d e k)) {bs : List Byte} {s : State}
    (hr : readSection ⟨.tile u, b⟩ (areaEng u ⟨.tile u, b⟩ st) e st = .ok (bs, s)) {c : Nat}
    (hc : c = sectionResult bs k.toNat (s.sectionVerified u.quad (s.strand ⟨.tile u, b⟩).level (s.strand ⟨.tile u, b⟩).ctxcur e.toNat bs.length
      (BitVec.ofNat 64 (numAt bs 0 8)))) :
    exec (.cfgLoadDone ⟨.tile u, b⟩) st = .next (endArea ⟨.tile u, b⟩ d true c (if c = 0 then acceptSection u bs k.toNat s else s)) := by
  show execCfgLoadDone ⟨.tile u, b⟩ st = _
  unfold execCfgLoadDone
  simp only [hb, hr, ← hc, areaEnd, event_some]

theorem execCfgRestDone_ok (hb : (st.strand ⟨.tile u, b⟩).status = .blocked (.cfgRest d e)) {hd bs : List Byte} {s w : State}
    (hr : areaRead ⟨.tile u, b⟩ (areaEng u ⟨.tile u, b⟩ st) e 128 st = .ok (hd, s))
    (ha : areaRead ⟨.tile u, b⟩ (areaEng u ⟨.tile u, b⟩ st) e (restLen (leNat hd)) s = .ok (bs, w)) {c : Nat}
    (hc : c = w.areaResult u.quad (w.strand ⟨.tile u, b⟩).level bs) :
    exec (.cfgRestDone ⟨.tile u, b⟩) st = .next (endArea ⟨.tile u, b⟩ d true c (if c = 0 then restoreArea u b bs w else w)) := by
  show execCfgRestDone ⟨.tile u, b⟩ st = _
  unfold execCfgRestDone
  simp only [hb, hr, ha, ← hc, areaEnd, event_some]

/-- What CFG.SAVE writes (R377). -/
def savedBytes (u : TileId) (st : State) : List Byte :=
  ((snapTile u st).tile u).fabric.saveArea ((snapTile u st).guards u) (st.quad u.quad).sealKey

theorem execCfgSaveDone_eq {marked : Bool} (hb : (st.strand ⟨.tile u, b⟩).status = .blocked (.cfgSave d e marked)) (hs : (st.tile u).snapped = true) :
    exec (.cfgSaveDone ⟨.tile u, b⟩) st =
      event st (match spanWrite (areaEng u ⟨.tile u, b⟩ (snapTile u st)) e (savedBytes u st) (snapTile u st) with
        | .ok s => some (endArea ⟨.tile u, b⟩ d true (savedBytes u st).length (leaveFabric u s))
        | .error none => none
        | .error (some f) => trapArea ⟨.tile u, b⟩ f (if marked then endSnapshot u st else st)) := by
  show execCfgSaveDone ⟨.tile u, b⟩ st = _
  unfold execCfgSaveDone
  simp only [hb, hs, Bool.not_true, Bool.false_eq_true, if_false]
  rfl

/-- The end of a turn touches the fabric in its noted turn alone. -/
theorem tile_endTurn (u : TileId) (s : State) : ∃ n, (endTurn u s).tile u = { s.tile u with fabric := { (s.tile u).fabric with turning := n } } := by
  unfold endTurn
  dsimp only
  split
  · exact ⟨_, rfl⟩
  · exact ⟨none, by rw [traceEvent_tile, modFabric, State.tile_modTile_self]⟩

theorem leaveFabric_empties (u : TileId) (s : State) :
    ((leaveFabric u s).tile u).fabric.selected = none ∧ ((leaveFabric u s).tile u).fabric.ops = [] := by
  unfold leaveFabric
  generalize hz : modFabric u _ s = z
  obtain ⟨n, hn⟩ := tile_endTurn u z
  rw [hn, ← hz]
  simp only [fabric_modFabric, Fabric.bare, and_self]

section
variable {marked : Bool} (hb : (st.strand ⟨.tile u, b⟩).status = .blocked (.cfgSave d e marked)) (hs : (st.tile u).snapped = true)
include hb hs

theorem execCfgSaveDone_fault {q : Flt} {r : State}
    (hq : spanWrite (areaEng u ⟨.tile u, b⟩ (snapTile u st)) e (savedBytes u st) (snapTile u st) = .error (some q))
    (hr : trapArea ⟨.tile u, b⟩ q (if marked then endSnapshot u st else st) = some r) : exec (.cfgSaveDone ⟨.tile u, b⟩) st = .next r := by
  rw [execCfgSaveDone_eq hb hs, hq, ← event_some st r, ← hr]

theorem execCfgSaveDone_ok {s : State}
    (hw : spanWrite (areaEng u ⟨.tile u, b⟩ (snapTile u st)) e (savedBytes u st) (snapTile u st) = .ok s) :
    ∃ r, exec (.cfgSaveDone ⟨.tile u, b⟩) st = .next r ∧ (r.strand ⟨.tile u, b⟩).status = .running ∧ (r.tile u).fabric.selected = none ∧
      (r.tile u).fabric.ops = [] ∧ r.xr ⟨.tile u, b⟩ d = (if d = 0 then 0 else BitVec.ofNat 64 (savedBytes u st).length) := by
  have hexec : exec (.cfgSaveDone ⟨.tile u, b⟩) st = .next (endArea ⟨.tile u, b⟩ d true (savedBytes u st).length (leaveFabric u s)) := by
    rw [execCfgSaveDone_eq hb hs, hw]
    rfl
  obtain ⟨hsel, hops⟩ := leaveFabric_empties u s
  exact ⟨_, hexec, status_endArea .., by rw [tile_endArea, hsel], by rw [tile_endArea, hops], xr_endArea ..⟩

end

end

/-! ### The configuration port (R361, R365) -/

/-- A write of a command to a port that is free begins it; one to a busy port is noted as ignored (R365). -/
theorem CfgPort.write_command (p : CfgPort) {o : BitVec 2} (ho : o ≠ 3) (now : Nat) (keys : Keys) :
    p.write 0x10 (BitVec.allOnes 64) (BitVec.ofNat 64 (o.toNat + p.mask.toNat * 16)) now keys =
      if p.busy then { p with op := o, ign := true }
      else { p with op := o, busy := true, start := now, cmd := o, target := p.addr, which := p.mask, keys := keys } := by
  have hv : mergeBits (p.read 0x10) (BitVec.allOnes 64) (BitVec.ofNat 64 (o.toNat + p.mask.toNat * 16)) =
      BitVec.ofNat 64 (o.toNat + p.mask.toNat * 16) := by
    simp only [mergeBits, BitVec.not_allOnes, BitVec.and_zero, BitVec.zero_or, BitVec.and_allOnes]
  have hop : (BitVec.ofNat 64 (o.toNat + p.mask.toNat * 16)).setWidth 2 = o := by bv_omega
  have hmask : (BitVec.ofNat 64 (o.toNat + p.mask.toNat * 16) >>> 4).setWidth 4 = p.mask := by bv_omega
  simp only [CfgPort.write, hv, hop, hmask, ho]
  simp

theorem portCommand_eq {t : TileId} {st : State} (he : st.enabled t = true) {n : Nat} {o : BitVec 2} (hn : n = o.toNat) (ho : o ≠ 3) :
    ∃ r, portCommand t n st = .next r ∧
      ((st.tile t).port.busy = true → (r.tile t).port = { (st.tile t).port with op := o, ign := true }) ∧
      ((st.tile t).port.busy = false → (r.tile t).port = { (st.tile t).port with
        op := o, busy := true, start := st.now, cmd := o, target := (st.tile t).port.addr, which := (st.tile t).port.mask,
        keys := (st.quad t.quad).keys }) := by
  subst hn
  unfold portCommand
  simp only [he, Bool.not_true, Bool.false_eq_true, if_false, event_some]
  refine ⟨_, rfl, fun hb => ?_, fun hb => ?_⟩
  · rw [State.tile_modTile_self, CfgPort.write_command _ ho, hb]
    rfl
  · rw [State.tile_modTile_self, CfgPort.write_command _ ho, hb]
    rfl

/-- The port after its command has ended with a result. -/
def portEnded (t : TileId) (c : Nat) (s : State) : State :=
  s.modTile t fun v => { v with port := { v.port with busy := false, result := BitVec.ofNat 32 c } }

theorem fabric_portEnded (t : TileId) (c : Nat) (s : State) : ((portEnded t c s).tile t).fabric = (s.tile t).fabric := by
  rw [portEnded, State.tile_modTile_self]

/-- How a command of the port ends: with its code, or with the code of a fault and the error records of its reads (R365, R393). -/
def portFinish (t : TileId) (st : State) (r : Except (Option Nat) (Nat × State)) : Option State :=
  match r with
  | .ok (c, s) => some (portEnded t c s)
  | .error (some c) => some (portEnded t c (if c = 0x82 then portErrors (st.tile t).port st else st))
  | .error none => none

section
variable {t : TileId} {st : State} (hb : (st.tile t).port.busy = true)
include hb

theorem execCpCommandDone_load (hc : (st.tile t).port.cmd = 0) : exec (.cpCommandDone t) st =
    event st (portFinish t st (portLoad t (st.tile t).port.target (st.tile t).port.which.toNat st)) := by
  show execCpCommandDone t st = _
  unfold execCpCommandDone
  simp only [hb, hc, Bool.not_true, Bool.false_eq_true, if_false]
  rfl

theorem execCpCommandDone_check (hc : (st.tile t).port.cmd = 1) : exec (.cpCommandDone t) st =
    event st (portFinish t st (portCheck t (st.tile t).port.target (st.tile t).port.keys st)) := by
  show execCpCommandDone t st = _
  unfold execCpCommandDone
  simp only [hb, hc, Bool.not_true, Bool.false_eq_true, if_false]
  rfl

theorem execCpCommandDone_clear (hc : (st.tile t).port.cmd = 2)
    (hn : (st.tile t).port.start + 64 + 401 * maskCount (st.tile t).port.which.toNat ≤ st.now) :
    exec (.cpCommandDone t) st = .next (portEnded t 0 (portClear t (st.tile t).port.which.toNat st)) := by
  show execCpCommandDone t st = _
  unfold execCpCommandDone
  simp only [hb, hc, Nat.not_lt.mpr hn, Bool.not_true, Bool.false_eq_true, if_false]
  rfl

end

theorem Fabric.selected_setContext (f : Fabric) (n : Nat) (c : Ctx) : (f.setContext n c).selected = f.selected := rfl

theorem Fabric.context_setContext_ne (f : Fabric) {n m : Nat} (h : m ≠ n) (c : Ctx) : (f.setContext n c).context m = f.context m := by
  simp [Fabric.setContext, Fabric.context, h.symm]

/-- The fabric with the contexts that a mask names cleared, in some order. -/
def clearContexts (mask : Nat) (l : List Nat) (f : Fabric) : Fabric := l.foldl (fun f c => if mask.testBit c then f.setContext c {} else f) f

theorem selected_clearContexts (mask : Nat) (l : List Nat) (f : Fabric) : (clearContexts mask l f).selected = f.selected := by
  refine List.foldlRecOn (motive := fun (g : Fabric) => g.selected = f.selected) l _ rfl fun g hg n _ => ?_
  split
  · exact hg
  · exact hg

/-- A cleared context stays cleared. -/
theorem context_clearContexts_of_clear {mask c : Nat} (hc : c < 4) (l : List Nat) {f : Fabric} (hf : f.context c = {}) :
    (clearContexts mask l f).context c = {} := by
  refine List.foldlRecOn (motive := fun (g : Fabric) => g.context c = {}) l _ hf fun g hg n _ => ?_
  split
  · by_cases h : c = n
    · rw [h, Fabric.context_setContext (h ▸ hc)]
    · rw [Fabric.context_setContext_ne g h, hg]
  · exact hg

theorem context_clearContexts {mask c : Nat} (hc : c < 4) (hm : mask.testBit c = true) {l : List Nat} (hl : c ∈ l) (f : Fabric) :
    (clearContexts mask l f).context c = {} := by
  induction l generalizing f with
  | nil => cases hl
  | cons n r ih =>
    by_cases h : c = n
    · subst h
      refine context_clearContexts_of_clear hc r ?_
      simp only [hm, if_true, Fabric.context_setContext hc]
    · exact ih ((List.mem_cons.mp hl).resolve_left h) _

theorem portClear_clears (t : TileId) (mask : Nat) (s : State) : ((portClear t mask s).tile t).port = (s.tile t).port ∧
    ((portClear t mask s).tile t).fabric.selected = none ∧
    ∀ c, c < 4 → mask.testBit c = true → ((portClear t mask s).tile t).fabric.context c = {} := by
  have hclear : portClear t mask s = modFabric t (clearContexts mask (List.range 4)) (deselect t s) := rfl
  obtain ⟨n, hn⟩ : ∃ n, (deselect t s).tile t = { s.tile t with fabric :=
      { (s.tile t).fabric.bare with flights := [], edges := [], credits := [], turning := n } } := by
    obtain ⟨n, hn⟩ := tile_endTurn t (modFabric t (fun f => { f.bare with flights := [], edges := [], credits := [] }) s)
    exact ⟨n, hn.trans (by rw [modFabric, State.tile_modTile_self])⟩
  rw [hclear, fabric_modFabric]
  refine ⟨?_, ?_, fun c hc hm => context_clearContexts hc hm (List.mem_range.mpr hc) _⟩
  · rw [modFabric, State.tile_modTile_self, hn]
  · rw [selected_clearContexts, hn]
    rfl

/-! ### The areas and the port together -/

/-- A port command's end, for a command with the outcome `r`. -/
theorem portFinish_ends {t : TileId} {st : State} {r : Except (Option Nat) (Nat × State)}
    (h : exec (.cpCommandDone t) st = event st (portFinish t st r)) :
    (∀ c s, r = .ok (c, s) → exec (.cpCommandDone t) st = .next (portEnded t c s)) ∧
    (∀ c, r = .error (some c) → exec (.cpCommandDone t) st =
      .next (portEnded t c (if c = 0x82 then portErrors (st.tile t).port st else st))) := by
  refine ⟨fun c s hr => ?_, fun c hr => ?_⟩
  · rw [h, hr]
    rfl
  · rw [h, hr]
    rfl

/-- Settles O47: each operation blocks its strand at issue, and its end is decided by what its reads and checks find. -/
theorem fabricAreasAndThePortComplete : Obligations.FabricAreasAndThePortComplete := by
  unfold Obligations.FabricAreasAndThePortComplete
  intro st u b d x a i t v f ea s0 m waits
  refine ⟨fun n s z hi hset hq => ?_, fun e => ?_, fun he => ?_, fun hb => ?_⟩
  · have hd : Settled st i [d] := settled_of_subset hset (by simp)
    refine ⟨fun h64 => ⟨execCfgCheck_waits hi rfl hq rfl hd h64,
      fun hn hp => execCfgLoad_waits hi rfl hq rfl hset h64 hn hp rfl⟩, fun h128 => ⟨?_, ?_⟩⟩
    · exact execCfgRest_waits hi rfl hq rfl hd h128
    · intro hp hs
      obtain ⟨r, hr, hw, hsnap⟩ := execCfgSave_waits hi rfl hq rfl hd h128 hp hs
      exact ⟨r, hr, hw, hsnap⟩
  · refine ⟨fun keys hb => ⟨fun q h ho => execCfgCheckDone_fault hb h ho, fun hd s hr hh => ?_, fun hd s bs w hr hh hw hk ha => ?_⟩,
      fun k bs s hb hr => execCfgLoadDone_ok hb hr rfl, fun marked hb hs => ⟨fun q r hq hr => ?_, fun s hs' => ?_⟩,
      fun hd s bs w hb hr ha => execCfgRestDone_ok hb hr ha rfl⟩
    · exact execCfgCheckDone_ok hb (checkImage_badHeader hr hh)
    · exact execCfgCheckDone_ok hb (checkImage_signed hr hh hw hk ha)
    · exact execCfgSaveDone_fault hb hs hq hr
    · exact execCfgSaveDone_ok hb hs hs'
  · exact ⟨portCommand_eq he rfl (by decide), portCommand_eq he rfl (by decide), portCommand_eq he rfl (by decide)⟩
  · refine ⟨fun hc => portFinish_ends (execCpCommandDone_load hb hc), fun hc => portFinish_ends (execCpCommandDone_check hb hc), fun hc hn => ?_⟩
    obtain ⟨hport, hsel, hctx⟩ := portClear_clears u v.port.which.toNat st
    refine ⟨_, execCpCommandDone_clear hb hc hn, ?_, ?_, fun c h4 hm => ?_⟩
    · rw [portEnded, State.tile_modTile_self, hport]
      rfl
    · rw [fabric_portEnded, hsel]
    · rw [fabric_portEnded]
      exact hctx c h4 hm

end Sys2Proof.Machine
end
